-- ==== Sys2Proof/Word.lean ====
section
/-!
DEFINITION. The word types of the model: what the spec treats as bits (R3, R4), and the sparse map its tables are held in.
-/

namespace Sys2Proof

abbrev Byte := BitVec 8
abbrev Half := BitVec 16
abbrev Word := BitVec 32
abbrev DWord := BitVec 64

/-- A sparse table: key and value pairs, keys strictly rising (Machine/Maps.lean keeps the form). -/
abbrev NMap (V : Type) := List (Nat × V)

/-- A stamp on the module timebase from which a window runs. One step of the timebase moves it (R48), back past 0 where it must. -/
abbrev Stamp := Int

end Sys2Proof
end

