-- ==== Sys2Proof/Syntax.lean ====
section
/-!
DEFINITION. The commands of the block: one constructor of `Instr` per row of spec/opcode_table.json, with the row's
operands, and the plain records those operands are made of. Meanings live in Sys2Proof/Machine only.
-/

namespace Sys2Proof

/-- Where a group is: cell number 48r + 6b + c (Table 18.8) and slot 16 × pipeline + slot (R61). -/
structure GroupLoc where
  cell : Nat
  slot : Nat
  deriving DecidableEq, Repr, Inhabited

/-- Register form (Table 4.1) below the opcode, with the two extension words (R97; a word beyond EXT is not there). -/
structure RegForm where
  gp : BitVec 3
  gn : BitVec 1
  ext : BitVec 2
  dst : BitVec 8
  dh : BitVec 1
  sa : BitVec 8
  ha : BitVec 1
  sb : BitVec 8
  hb : BitVec 1
  sc : BitVec 8
  hc : BitVec 1
  ua : BitVec 1
  ub : BitVec 1
  uc : BitVec 1
  ib : BitVec 1
  sub : BitVec 10
  x1 : BitVec 64
  x2 : BitVec 64
  deriving DecidableEq, Repr, Inhabited

/-- Branch form (Table 4.5) below the opcode, with the extension words. -/
structure BrForm where
  gp : BitVec 3
  gn : BitVec 1
  ext : BitVec 2
  cp : BitVec 3
  cn : BitVec 1
  offA : BitVec 18
  offB : BitVec 18
  sub : BitVec 10
  x1 : BitVec 64
  x2 : BitVec 64
  deriving DecidableEq, Repr, Inhabited

/-- Memory form (Table 4.6) below the opcode. EXT must be 0; the extension words stand for a word whose EXT is not. -/
structure MemForm where
  gp : BitVec 3
  gn : BitVec 1
  ext : BitVec 2
  data : BitVec 8
  dh : BitVec 1
  addr : BitVec 8
  ha : BitVec 1
  off : BitVec 18
  ua : BitVec 1
  scope : BitVec 3
  reuse : BitVec 2
  size : BitVec 3
  space : BitVec 2
  sx : BitVec 1
  ord : BitVec 2
  x1 : BitVec 64
  x2 : BitVec 64
  deriving DecidableEq, Repr, Inhabited

/-- The sensor classes of Table 17.6 (the first four are the classes of log TYPE 0x0011). -/
inductive SensorClass where
  | computeDie | baseDie | memoryStack | converter | opticalEngine | coolantInlet
  deriving DecidableEq, Repr, Inhabited

/-- One sensor of Table 17.6: its class, the instance number of its unit (region, stack 2r + k, converter stage, optical
port 5r + k) and its number within the unit. -/
structure SensorRef where
  cls : SensorClass
  unit : Nat
  index : Nat
  deriving DecidableEq, Repr, Inhabited

/-- What start-up meets, step by step (Tables 17.7 and 17.8). -/
structure StartupOutcome where
  activeImageOk : Bool
  otherImageOk : Bool
  regionFailed : BitVec 8
  stackFailed : BitVec 16
  rowsFailed : List (Nat × Nat × Nat)
  cellsFailed : List Nat
  deriving DecidableEq, Repr, Inhabited

/-- Window unmap (Table 13.8): by job tag, or a run of pages. -/
inductive UnmapSel where
  | job (tag : BitVec 16)
  | pages (first count : Nat)
  deriving DecidableEq, Repr, Inhabited

/-- Unpin (Table 12.6): by job tag, or a physical range in 2 MiB pages. -/
inductive UnpinSel where
  | job (tag : BitVec 16)
  | range (pa pages : Nat)
  deriving DecidableEq, Repr, Inhabited

/-- What a read of a sector finds in the stack (R355). -/
inductive SectorOutcome where
  | clean | corrected | uncorrectable
  deriving DecidableEq, Repr, Inhabited

/-- An error a scrub meets (R357): region, region offset of the sector, and what the code says of it. -/
structure SectorError where
  region : Nat
  offset : Nat
  outcome : SectorOutcome
  deriving DecidableEq, Repr, Inhabited

/-- Arguments of ring create (Table 16.11, 0x0300); `cells` is the 48-byte cell set, bit 48r + 6b + c. -/
structure RingArgs where
  ring : Nat
  tag : BitVec 16
  base : Nat
  sizeLog2 : Nat
  cells : BitVec 384
  deferLimit : Nat
  spillBytes : Nat
  epoch0 : BitVec 16
  deriving DecidableEq, Repr, Inhabited

/-- Arguments of Tasting run (Table 10.8). -/
structure TastingArgs where
  setAddr : Nat
  unitMask : Nat
  firstVid : Nat
  lastVid : Nat
  cells : List Nat
  limit : Nat
  deriving DecidableEq, Repr, Inhabited

/-- A host write through the memory window: its bytes, and what the stacks answer where a partly written sector has to be read (R355). -/
structure WindowWrite where
  bytes : List (BitVec 8)
  outcomes : List SectorOutcome
  deriving DecidableEq, Repr, Inhabited

/-- An entry of the manifest (R314), whose layout the spec does not give: where its vector file lies in module memory and how long it is, its
CRC-32, its vector count, and its RECIPE bit. -/
structure TastingFile where
  addr : Nat
  size : Nat
  crc : BitVec 32
  vectors : Nat
  recipe : Bool
  deriving DecidableEq, Repr, Inhabited

/-- The operation of a remote ATOMIC packet (R123, Table 4.3). -/
inductive AtomicOp where
  | add | min | max | and | or | xor | xch | cas | fadd
  deriving DecidableEq, Repr, Inhabited

/-- One lane of an atomic request (R159): its address, operands b and c. -/
structure AtomicLane where
  lane : Nat
  addr : Nat
  b : BitVec 64
  c : BitVec 64
  deriving DecidableEq, Repr, Inhabited

/-- What a fabric request asks (Table 13.4). Addresses are offsets in the home module's window (Table 13.1). -/
inductive RequestBody where
  | load (addr : Nat) (mask : BitVec 64)
  | store (addr : Nat) (mask : BitVec 64) (bytes : List (BitVec 8)) (poison : Bool)
  | atomic (op : AtomicOp) (signed : Bool) (bytes : Nat) (lanes : List AtomicLane)
  | get (addr len : Nat)
  | put (addr : Nat) (mask : BitVec 256) (bytes : List (BitVec 8)) (poison : BitVec 8) (uses : BitVec 4)
  | notify (target : BitVec 64) (amount : Nat)
  deriving DecidableEq, Repr, Inhabited

/-- A fabric request (R373): source module, transaction number, job tag, reuse class, body; for NOTIFY also the source
cell, which R172 logs. -/
structure RequestPacket where
  source : Nat
  destination : Nat
  sourceCell : Nat
  txn : BitVec 32
  tag : BitVec 16
  reuse : BitVec 2
  body : RequestBody
  deriving DecidableEq, Repr, Inhabited

/-- The status of an answer (R373); NOTIFY_ACK carries applied (DONE), REJECTED or LOST. -/
inductive AnswerStatus where
  | done | rejected | unmapped | lost
  deriving DecidableEq, Repr, Inhabited

/-- An answer (R373): the transaction number, the status, the data bytes with one poison bit per 32-byte sector, the granule
of a GET_DATA, and an atomic's returned values with their marks. -/
structure AnswerPacket where
  source : Nat
  txn : BitVec 32
  status : AnswerStatus
  bytes : List (BitVec 8)
  poison : BitVec 8
  granule : Nat
  values : List (Nat × BitVec 64 × Bool)
  deriving DecidableEq, Repr, Inhabited

/-- What a time packet carries (R389, R390): the sender, its stamp, its master and its hop count. -/
structure TimeProbe where
  sender : Nat
  stamp : Nat
  master : Nat
  hops : Nat
  deriving DecidableEq, Repr, Inhabited

/-- The packets of Table 13.4: a request, an answer, WIN_QUERY or WIN_REPLY, TIME_PROBE, TIME_REPLY with its stamps t1, t2 and t3, the packets of
liveness, the messages of collectives on VC0 (SETUP, SEG_GRANT, COL_ABORT: R399, R407, R416), and a segment of collective group `group`, whose job
may be in Recipe mode (R309). -/
inductive PacketKind where
  | request (q : RequestPacket)
  | answer (a : AnswerPacket)
  | window
  | timeProbe (p : TimeProbe)
  | timeReply (t1 t2 t3 : Nat) (p : TimeProbe)
  | peerDown (module incarnation : Nat)
  | peerUp (module incarnation : Nat)
  | peerProbe (source : Nat)
  | peerAck (source : Nat)
  | management
  | collective (group : Nat) (recipe : Bool)
  deriving DecidableEq, Repr, Inhabited

/-- A packet on its way (R383, R384): where it comes from and goes to, whether it has come to escape level 1, and what it is. -/
structure TransitPacket where
  source : Nat
  destination : Nat
  level1 : Bool
  kind : PacketKind
  deriving DecidableEq, Repr, Inhabited

/-- A packet at a module, with the port and the number of the flit that brought it; none for a packet of this module. -/
structure ArrivedPacket where
  packet : TransitPacket
  arrived : Option (Nat × Nat)
  deriving DecidableEq, Repr, Inhabited

/-- The five traffic classes (Table 1.3). -/
inductive TrafficClass where
  | req | cpy | col | rsp | mgt
  deriving DecidableEq, Repr, Inhabited

/-- Why a link goes down (R391, R434, R450, R453, R509). -/
inductive DownCause where
  | silence | fecLoss | bringUpFailure | noLaser | tooFewLanes | recoveryTimeout | opticsHot | disabled | regionFenced
  deriving DecidableEq, Repr, Inhabited

/-- SETUP (R399): a partner's confirmation of a collective group. -/
structure SetupMessage where
  group : Nat
  tag : BitVec 16
  members : Nat
  senderPos : Nat
  receiverPos : Nat
  sender : Nat
  deriving DecidableEq, Repr, Inhabited

/-- One block header of a block-scaled segment (R411): X8 scale, RAISE and the poison bit. -/
structure BlockHeader where
  x : BitVec 8
  raise : Nat
  poison : Bool
  deriving DecidableEq, Repr, Inhabited

/-- An arriving collective segment (R407, R417): sender's position, job tag, layout epoch, chunk and segment number, whether
it carries a complete sum (the gather phase), whether its job is in Recipe mode (R309), its elements as 32-bit patterns (S32, I32 or narrow codes), their poison, and
the block headers of a block-scaled segment. -/
structure SegmentMessage where
  group : Nat
  source : Nat
  tag : BitVec 16
  epoch : BitVec 16
  chunk : Nat
  segment : Nat
  final : Bool
  recipe : Bool
  elements : List (BitVec 32)
  poisoned : List Bool
  headers : List BlockHeader
  deriving DecidableEq, Repr, Inhabited

/-- One codeword at a receiving lane (R435): whether the RS(544,514) decoder corrected it or found it free of error, how many symbols it corrected,
and the message of twenty 257-bit blocks, its least significant bit the first one sent. -/
structure CodewordReport where
  correctable : Bool
  symbols : Nat
  message : BitVec 5140
  deriving DecidableEq, Repr, Inhabited

/-- A flit as received (R438): its 256 bytes, byte k in bits 8k + 7 to 8k, which hold the header of Table 15.3 and the trailer of Table 15.4;
whether every codeword that carries one of its slices is corrected or error-free (R439); the packets that begin in it, as Table 13.4 names them,
one for each START bit; and, in a CONTROL flit of JOIN, the sender's module state (R449) with its fabric time. -/
structure Flit where
  image : BitVec 2048
  fecOk : Bool
  payload : List TransitPacket
  control : Option (Bool × Nat)
  deriving DecidableEq, Repr, Inhabited

/-- Why a receiver starts recovery (R450). -/
inductive RecoveryCause where
  | eightNaks | laneFailure | symbolRatio
  deriving DecidableEq, Repr, Inhabited

/-- What the partner sends in IDENTITY (R447), with its module state. -/
structure PartnerIdentity where
  module : Nat
  incarnation : Nat
  region : Nat
  port : Nat
  dim : Nat
  versionOk : Bool
  joined : Bool
  fabricTime : Nat
  roundTripNs : Nat
  deriving DecidableEq, Repr, Inhabited

/-- What an admission request is for (Table 17.3, R501). -/
inductive ProoferObject where
  | regionPower (region : Nat)
  | stackPair (region : Nat)
  | opticalPort (port : Nat)
  | electricalPort (port : Nat)
  | slice (cell slice : Nat)
  | voltage (region : Nat)
  | activity (region : Nat)
  deriving DecidableEq, Repr, Inhabited

/-- A trace record at its source (R536, R537): source 0 to 7, event, unit and data. -/
structure TraceRecord where
  source : Nat
  event : BitVec 8
  kind : Nat
  unit : Nat
  data : BitVec 128
  deriving DecidableEq, Repr, Inhabited

/-- A PCIe configuration request (R464, Table 16.1). -/
inductive ConfigRequest where
  | read (offset : Nat)
  | busMasterEnable (on : Bool)
  | resizeMemoryWindow (log2 : Nat)
  | other (offset : Nat)
  deriving DecidableEq, Repr, Inhabited

/-- The commands, in the order of spec/opcode_table.json. -/
inductive Instr where
  /-- AUX_POWER_ON (R48). The auxiliary input enters its range: Baker's boot ROM starts, the timebase starts from 0 and the module reaches AUX. -/
  | auxPowerOn (straps : BitVec 3) (sealClosed jumper : Bool)
  /-- AUX_INPUT_LOSS (R497). The auxiliary input is lost beyond its ride-through: the intermediate bus turns off and the module enters OFF. -/
  | auxInputLoss
  /-- PWR_EN_ASSERT (R512). The tray asserts PWR_EN_N; start-up can begin once the main input has been in range for 10 ms. -/
  | pwrEnAssert
  /-- STARTUP_BEGIN (R512). Start-up begins when AUX, an unspent PWR_EN_N assertion and 10 ms of main input in range coincide; it runs the steps of Table 17.7. -/
  | startupBegin (o : StartupOutcome)
  /-- PWR_EN_DEASSERT (R516). The tray deasserts PWR_EN_N: placement stops, rails fall in reverse order within 20 ms and the module enters AUX. -/
  | pwrEnDeassert
  /-- MAIN_INPUT_DIP (R496). A main-input dip within the 50 µs ride-through is ridden through and logged. -/
  | mainInputDip (ns mV : Nat)
  /-- MAIN_INPUT_LOSS (R496). The main input stays below 33.0 V beyond 50 µs: converters stop, volatile state is lost and the module enters AUX. -/
  | mainInputLoss (ns mV : Nat)
  /-- MAIN_INPUT_OVERVOLTAGE (R496). The main input stays above 48.0 V beyond 10 µs: converters stop and the module enters AUX. -/
  | mainInputOvervoltage (ns mV : Nat)
  /-- THERMAL_TRIP (R510). A trip comparator reads 115 °C or above: THERMTRIP_N asserts, the intermediate bus turns off and the module enters FAULTED. -/
  | thermalTrip (sensor : SensorRef) (celsius : Nat)
  /-- THERMTRIP_RELEASE (R510). With PWR_EN_N deasserted and every sensor below 90 °C, Baker releases THERMTRIP_N and the module enters AUX. -/
  | thermtripRelease
  /-- TIMEBASE_TICK (R47). A 100 MHz reference tick advances the timebase by 10, or by 9 or 11 when slewing. -/
  | timebaseTick
  /-- PACE_INTERVAL (R41). At the end of each 10 µs measurement interval the region controller reads the block monitors and writes PACE_n. -/
  | paceInterval (region : Nat) (monitors : List Nat) (temp : BitVec 8)
  /-- PRES_BTN_PRESS (R481). A debounced press of PRES_BTN_N opens or replaces a 120 s presence window. -/
  | presBtnPress
  /-- PRES_JMP_CHANGE (R480). A qualified change of PRES_JMP_N starts or ends presence held by the jumper. -/
  | presJmpChange (asserted : Bool)
  /-- SEAL_LOOP_OPEN (R482). A closed-to-open transition of the seal loop blows the next SERVICE fuse. -/
  | sealLoopOpen
  /-- PCIE_RESET (R464). PERST#, hot reset or Function Level Reset resets the endpoint, doorbells and mirror address, leaving jobs and Baker running. -/
  | pcieReset
  /-- MEMORY_WINDOW_READ (R466). A host read through the memory window is served at the home region cache, poisoned data being flagged EP. -/
  | memoryWindowRead (offset len : Nat)
  /-- MEMORY_WINDOW_WRITE (R466). A host write through the memory window is performed at module scope, or discarded if reserved or unpopulated. -/
  | memoryWindowWrite (offset : Nat) (w : WindowWrite)
  /-- CONTROL_WINDOW_BAD_ACCESS (R462). A misaligned or wrongly sized control-window access completes as Unsupported Request and its write is discarded. -/
  | controlWindowBadAccess (offset len : Nat) (isWrite : Bool)
  /-- REGISTER_WRITE (R543). A host write to a control-window register with no behaviour of its own is ignored or stored as its access code says. -/
  | registerWrite (offset : Nat) (wide : Bool) (value : BitVec 64)
  /-- W1C_FLAG_WRITE (R530). A write of 1 clears a W1C field at the tick it registers, unless a set is stamped in that tick. -/
  | w1cFlagWrite (offset : Nat) (wide : Bool) (value : BitVec 64)
  /-- DOORBELL_WRITE (R474). A host doorbell write is stamped, and the doorbell unit copies, checks and acknowledges the mailbox command within 1 ms. -/
  | doorbellWrite (mailbox : Nat) (wide : Bool) (value : BitVec 64)
  /-- LAUNCH_RING_TAIL_WRITE (R487). A host write of TAIL makes new launch records available to the ring's owner, or stops the ring if it overfills. -/
  | launchRingTailWrite (ring : Nat) (tail : BitVec 32)
  /-- GROUP_PLACE (R63). The region controller places a waiting group in the lowest allowed cell and pipeline with room and loads u0 to u7. -/
  | groupPlace (ring : Nat)
  /-- STATUS_REWRITE (R467). Baker rewrites the status word at least every 100 µs, incrementing HEARTBEAT and writing the mirror. -/
  | statusRewrite
  /-- BAKER_WATCHDOG_RESTART (R470). Baker's watchdog restarts Baker; BUSY commands complete with RESULT 0xFFFE while jobs continue. -/
  | bakerWatchdogRestart
  /-- SMB_SET_POINTER (R554). An SMBus Write Word with command 0x01 sets the SMBus space pointer. -/
  | smbSetPointer (value : BitVec 16) (pecOk : Bool)
  /-- SMB_BLOCK_READ (R555). An SMBus Block Read returns 32 bytes from the pointer and advances it by 32. -/
  | smbBlockRead
  /-- SMB_BLOCK_WRITE (R555). An SMBus Block Write writes RW bytes at the pointer and advances it, or changes nothing if its PEC fails. -/
  | smbBlockWrite (bytes : List (BitVec 8)) (pecOk : Bool)
  /-- SMB_STATUS_READ (R554). An SMBus Block Read with command 0x04 returns the status word without moving the pointer. -/
  | smbStatusRead
  /-- OOB_DOORBELL_WRITE (R556). A Block Write covering DOORBELL_OOB rings the out-of-band mailbox, stamped at the stop condition. -/
  | oobDoorbellWrite (bytes : List (BitVec 8)) (pecOk : Bool)
  /-- IDENTITY (R547). Command 0x0000 returns the identity page. -/
  | identityCmd (mb : Nat) (dst : Nat)
  /-- CAPABILITY (R547). Command 0x0001 returns the capability record. -/
  | capability (mb : Nat) (dst : Nat)
  /-- CANCEL (R490). Command 0x0003 cancels a cancellable command in another mailbox, which completes with RESULT 0xFFFD. -/
  | cancel (mb : Nat) (target : Nat)
  /-- STATUS_MIRROR (R468). Command 0x0010 enables the status mirror at a host address or disables it. -/
  | statusMirror (mb : Nat) (addr : BitVec 64)
  /-- POWER_STATUS (R490). Command 0x0100 returns input power, per-region voltage, pace, temperature and the power limit. -/
  | powerStatus (mb : Nat) (dst mV mA watts : Nat)
  /-- OPERATING_POINT (R504). Command 0x0101 sets VREQ of the named regions. -/
  | operatingPoint (mb : Nat) (mask : BitVec 8) (mode setpointMv : Nat)
  /-- POWER_LIMIT_SET (R505). Command 0x0102 sets the module power limit LIMIT. -/
  | powerLimitSet (mb : Nat) (watts : Nat)
  /-- REGION_POWER_OFF (R490). Command 0x0103 with 0 writes back and powers down a region with no resident groups. -/
  | regionPowerOff (mb : Nat) (region : Nat)
  /-- REGION_POWER_ON (R490). Command 0x0103 with 1 powers a region up through the Proofer. -/
  | regionPowerOn (mb : Nat) (region : Nat)
  /-- MODULE_RESET_GRACEFUL (R516). Command 0x0104 with 0 resets the module 10 ms after DONE if no groups are resident. -/
  | moduleResetGraceful (mb : Nat)
  /-- MODULE_RESET_FORCED (R516). Command 0x0104 with 1 powers the module down and repeats start-up whatever is resident. -/
  | moduleResetForced (mb : Nat)
  /-- WINDOW_MAP (R364). Command 0x0200 places up to 4,096 Fabric Window Table entries, shooting down changed ones. -/
  | windowMap (mb : Nat) (entries : List (BitVec 128))
  /-- WINDOW_UNMAP (R370). Command 0x0201 removes window entries and shoots them down from every window cache. -/
  | windowUnmap (mb : Nat) (sel : UnmapSel)
  /-- WINDOW_QUERY (R397). Command 0x0202 returns window entries found for a VPN range. -/
  | windowQuery (mb : Nat) (first count dst : Nat)
  /-- OWNER_SET (R372). Command 0x0203 writes the owner tags of a range of home pages. -/
  | ownerSet (mb : Nat) (pa pages : Nat) (tag : BitVec 16)
  /-- MEMORY_CLEAR (R490). Command 0x0210 writes a range of stacked memory as zero with valid ECC and no poison. -/
  | memoryClear (mb : Nat) (pa pages : Nat)
  /-- APERTURE_SET (R465). Command 0x0211 moves the memory-window aperture. -/
  | apertureSet (mb : Nat) (aperture : Nat)
  /-- INTERLEAVE_SET (R335). Command 0x0220 changes ILV_SIZE and zeroes the old and new interleaved pools. -/
  | interleaveSet (mb : Nat) (gib : Nat)
  /-- UNPIN (R349). Command 0x0221 unpins cache lines by job tag or address range. -/
  | unpin (mb : Nat) (sel : UnpinSel)
  /-- SCRUB (R357). Command 0x0222 scrubs a memory range and may change the patrol interval. -/
  | scrub (mb : Nat) (mask : BitVec 8) (pa gib hours : Nat) (found : List SectorError)
  /-- MEMORY_HEALTH (R360). Command 0x0223 returns per pseudo-channel error counts, spares left and the retired-page list. -/
  | memoryHealth (mb : Nat) (dst : Nat)
  /-- RING_CREATE (R67). Command 0x0300 creates a launch ring with its job tag, cell set, DEFER_LIMIT, spill reservation and EPOCH0. -/
  | ringCreate (mb : Nat) (a : RingArgs)
  /-- RING_DESTROY (R490). Command 0x0301 stops a ring's owner from reading records and frees the ring. -/
  | ringDestroy (mb : Nat) (ring : Nat)
  /-- JOB_RELEASE (R162). Command 0x0302 clears the job's counters, bindings, pins, Recipe property, watchdogs and layout epoch. -/
  | jobRelease (mb : Nat) (tag : BitVec 16)
  /-- JOB_STATUS (R490). Command 0x0303 returns a job's rings, groups, park states, epoch and Recipe property. -/
  | jobStatus (mb : Nat) (tag : BitVec 16) (dst : Nat)
  /-- PARK_LIST_READ (R88). Command 0x0310 returns the park records of a job, HELD records first. -/
  | parkListRead (mb : Nat) (tag : BitVec 16) (dst limit : Nat)
  /-- PARK_STATE_READ (R93). Command 0x0311 with operation 0 reads a HELD group's registers, predicates, PC or mask stack. -/
  | parkStateRead (mb : Nat) (g : GroupLoc) (stamp : BitVec 64) (selector dst : Nat)
  /-- PARK_STATE_WRITE (R93). Command 0x0311 with operation 1 writes a HELD group's registers, predicates or PC, clearing poison marks. -/
  | parkStateWrite (mb : Nat) (g : GroupLoc) (stamp : BitVec 64) (selector : Nat) (data : List (BitVec 32))
  /-- PARK_REPLAY (R94). Command 0x0312 moves a HELD record to REPLAY. -/
  | parkReplay (mb : Nat) (g : GroupLoc) (stamp : BitVec 64)
  /-- PARK_DISCARD (R95). Command 0x0313 moves a HELD record to DISCARD so the group retires. -/
  | parkDiscard (mb : Nat) (g : GroupLoc) (stamp : BitVec 64)
  /-- FABRIC_CONFIGURE (R379). Command 0x0400 sets the module number, D and RSP_TIMEOUT for the next bring-up. -/
  | fabricConfigure (mb : Nat) (module dim timeoutMs : Nat)
  /-- FABRIC_STATUS (R397). Command 0x0401 returns per-port state, failed modules and the time master and parent. -/
  | fabricStatus (mb : Nat) (dst : Nat)
  /-- LINK_STATUS (R460). Command 0x0402 returns a port's state, width, lane maps and lane health. -/
  | linkStatus (mb : Nat) (region port dst : Nat) (readings : List (BitVec 64))
  /-- LINK_RETRAIN (R460). Command 0x0403 with 0 returns a port to DETECT for a new bring-up. -/
  | linkRetrain (mb : Nat) (region port : Nat)
  /-- LINK_DISABLE (R460). Command 0x0403 with 1 takes a port down to DISABLED. -/
  | linkDisable (mb : Nat) (region port : Nat)
  /-- LINK_ENABLE (R460). Command 0x0403 with 2 enables a DISABLED port through the Proofer. -/
  | linkEnable (mb : Nat) (region port : Nat)
  /-- COLLECTIVE_SETUP (R399). Command 0x0500 checks a group setup block, stores the group table and exchanges SETUP messages. -/
  | collectiveSetup (mb : Nat) (header : BitVec 512) (members : List (BitVec 16))
  /-- COLLECTIVE_RELEASE (R428). Command 0x0501 releases a collective group once its queue is empty. -/
  | collectiveRelease (mb : Nat) (group : Nat)
  /-- COLLECTIVE_STATUS (R428). Command 0x0502 returns a group's table, queue depth, failed members and epoch. -/
  | collectiveStatus (mb : Nat) (group dst : Nat)
  /-- RING_WATCHDOG (R423). Command 0x0503 marks or unmarks an arrival counter as a ring counter with period W. -/
  | ringWatchdog (mb : Nat) (cell counter periodMs : Nat)
  /-- CHECKPOINT (R418). Command 0x0600 quiesces a job's rings, drains its collectives and holds new coll instructions. -/
  | checkpoint (mb : Nat) (tag : BitVec 16) (timeoutMs : Nat)
  /-- CHECKPOINT_BUMP (R418). When the job's group queues are empty the epoch advances, pending remaps run and placement resumes. -/
  | checkpointBump (tag : BitVec 16)
  /-- CHECKPOINT_TIMEOUT (R418). The checkpoint's timeout expires before the bump; it resumes without a bump and returns result 1. -/
  | checkpointTimeout (tag : BitVec 16)
  /-- SELF_TEST (R312). Command 0x0700 runs the self-test on the listed cells and marks failed cells RETIRING. -/
  | selfTest (mb : Nat) (cells failed : List Nat)
  /-- RECIPE_SET (R309). Command 0x0701 sets or clears a job's Recipe property when it has no resident group. -/
  | recipeSet (mb : Nat) (tag : BitVec 16) (on : Bool)
  /-- TASTING_RUN (R317). Command 0x0702 runs Tasting Set vectors on idle cells and reports passes and mismatches; `files` is what the
  manifest's entries hold. -/
  | tastingRun (mb : Nat) (a : TastingArgs) (files : List TastingFile)
  /-- SCALE_CONFIGURE (R301). Command 0x0703 writes the configuration word of a range of scale-table slots. -/
  | scaleConfigure (mb : Nat) (first count : Nat) (word : BitVec 64)
  /-- SCALE_READ (R316). Command 0x0704 returns slot images of the scale table. -/
  | scaleRead (mb : Nat) (first count dst : Nat)
  /-- SIEVE_READ (R316). Command 0x0705 returns a slot's merged histogram of the last completed step. -/
  | sieveRead (mb : Nat) (slot dst : Nat)
  /-- COUNTER_READ (R542). Command 0x0800 returns stamped counter values by selector. -/
  | counterRead (mb : Nat) (selectors : List (BitVec 32)) (dst : Nat)
  /-- COUNTER_CLEAR (R542). Command 0x0801 clears counters and, through its masks, W1C flags. -/
  | counterClear (mb : Nat) (selectors : List (BitVec 32)) (paceMin : Bool) (errMask : BitVec 64) (lowMask : BitVec 8) (timeMask : BitVec 64)
  /-- ALARM_READ (R529). Command 0x0802 returns outstanding alarm records and acknowledges them when its flag is set. -/
  | alarmRead (mb : Nat) (dst limit : Nat) (ack : Bool)
  /-- LOG_RETRIEVE (R534). Command 0x0803 returns log records in sequence order with retrieval-gap records for missing runs. -/
  | logRetrieve (mb : Nat) (first count dst : Nat)
  /-- TRACE_CONFIGURE (R536). Command 0x0804 sets trace sources, limits and the host trace ring. -/
  | traceConfigure (mb : Nat) (mask : BitVec 8) (rates : List Nat) (ring size : Nat)
  /-- FIRMWARE_UPDATE (R490). Command 0x0F00 verifies and stages a firmware image in the inactive bank. -/
  | firmwareUpdate (mb : Nat) (length : Nat) (version : BitVec 64) (signatureOk : Bool)
  /-- DEBUG_UNLOCK (R490). Command 0x0F01 with 0 unlocks debug and moves the module to SERVICE. -/
  | debugUnlock (mb : Nat)
  /-- DEBUG_LOCK (R490). Command 0x0F01 with 1 locks debug. -/
  | debugLock (mb : Nat)
  /-- FUSE_PROGRAM (R490). Command 0x0F02 blows bits of a customer fuse word. -/
  | fuseProgram (mb : Nat) (word : Nat) (value : BitVec 32)
  /-- SEAL_REARM (R483). Command 0x0F03 blows the next REARM fuse while the seal loop is closed. -/
  | sealRearm (mb : Nat)
  /-- SCRUB_OVERRIDE (R490). Command 0x0F04 rewrites every sector of a range and may clear poison. -/
  | scrubOverride (mb : Nat) (mask : BitVec 8) (pa gib action : Nat)
  /-- BENCH_PROGRAMME (R456). Command 0x0F10 loads up to 8 Bench programmes inside a presence window. -/
  | benchProgramme (mb : Nat) (records : List (BitVec 512))
  /-- BENCH_CANCEL (R456). Command 0x0F11 ends one or all Bench programmes. -/
  | benchCancel (mb : Nat) (programme : Nat)
  /-- LANE_RESTORE (R454). Command 0x0F12 clears lanes from retirement for the next bring-up. -/
  | laneRestore (mb : Nat) (region port : Nat) (mask : BitVec 9)
  /-- NOP (R103). Instruction with no operation. -/
  | nop (g : GroupLoc) (f : RegForm)
  /-- IADD (R104). 32-bit integer add modulo 2^32. -/
  | iadd (g : GroupLoc) (f : RegForm)
  /-- ISUB (R104). 32-bit integer subtract modulo 2^32. -/
  | isub (g : GroupLoc) (f : RegForm)
  /-- IMUL (R104). Low 32 bits of an integer product. -/
  | imul (g : GroupLoc) (f : RegForm)
  /-- IMULHI (R103). High 32 bits of a signed or unsigned product. -/
  | imulhi (g : GroupLoc) (f : RegForm)
  /-- IMAD (R104). Low 32 bits of a multiply-add. -/
  | imad (g : GroupLoc) (f : RegForm)
  /-- IMIN (R103). Integer minimum, signed or unsigned. -/
  | imin (g : GroupLoc) (f : RegForm)
  /-- IMAX (R103). Integer maximum, signed or unsigned. -/
  | imax (g : GroupLoc) (f : RegForm)
  /-- IABS (R103). Two's-complement magnitude. -/
  | iabs (g : GroupLoc) (f : RegForm)
  /-- ISHL (R104). Shift left, 0 for counts of 32 or more. -/
  | ishl (g : GroupLoc) (f : RegForm)
  /-- ISHR (R104). Logical or arithmetic shift right. -/
  | ishr (g : GroupLoc) (f : RegForm)
  /-- BLUT (R106). Bitwise look-up of three inputs through an 8-bit table. -/
  | blut (g : GroupLoc) (f : RegForm)
  /-- POPC (R103). Count of set bits. -/
  | popc (g : GroupLoc) (f : RegForm)
  /-- CLZ (R103). Leading zero count. -/
  | clz (g : GroupLoc) (f : RegForm)
  /-- BREV (R103). Bit reversal. -/
  | brev (g : GroupLoc) (f : RegForm)
  /-- BFE (R104). Bit-field extract with optional sign extension. -/
  | bfe (g : GroupLoc) (f : RegForm)
  /-- BFI (R104). Bit-field insert. -/
  | bfi (g : GroupLoc) (f : RegForm)
  /-- SHF (R103). Funnel shift of a register pair. -/
  | shf (g : GroupLoc) (f : RegForm)
  /-- SEL (R103). Select by predicate. -/
  | sel (g : GroupLoc) (f : RegForm)
  /-- MOV (R103). Move a 32-bit value or 64-bit pair, carrying poison marks. -/
  | mov (g : GroupLoc) (f : RegForm)
  /-- IADD64 (R104). 64-bit add of register pairs. -/
  | iadd64 (g : GroupLoc) (f : RegForm)
  /-- IMADW (R103). Widening 64-bit multiply-add. -/
  | imadw (g : GroupLoc) (f : RegForm)
  /-- ICMP (R105). Integer compare writing a predicate in executing lanes. -/
  | icmp (g : GroupLoc) (f : RegForm)
  /-- PLOP (R106). Predicate function of two predicates by a 4-bit table. -/
  | plop (g : GroupLoc) (f : RegForm)
  /-- FADD (R107). S32 add with selectable rounding. -/
  | fadd (g : GroupLoc) (f : RegForm)
  /-- FMUL (R107). S32 multiply. -/
  | fmul (g : GroupLoc) (f : RegForm)
  /-- FFMA (R107). S32 fused multiply-add rounded once. -/
  | ffma (g : GroupLoc) (f : RegForm)
  /-- FMIN (R107). S32 minimum, NaN-avoiding. -/
  | fmin (g : GroupLoc) (f : RegForm)
  /-- FMAX (R107). S32 maximum, NaN-avoiding. -/
  | fmax (g : GroupLoc) (f : RegForm)
  /-- FCMP (R105). S32 compare writing a predicate. -/
  | fcmp (g : GroupLoc) (f : RegForm)
  /-- HADD2 (R108). Two packed H16 or B16 adds. -/
  | hadd2 (g : GroupLoc) (f : RegForm)
  /-- HMUL2 (R108). Two packed 16-bit multiplies. -/
  | hmul2 (g : GroupLoc) (f : RegForm)
  /-- HFMA2 (R108). Two packed 16-bit fused multiply-adds. -/
  | hfma2 (g : GroupLoc) (f : RegForm)
  /-- CVT (R109). Format conversion of one value with RNE or RTZ. -/
  | cvt (g : GroupLoc) (f : RegForm)
  /-- SFN (R111). Correctly rounded S32 special function. -/
  | sfn (g : GroupLoc) (f : RegForm)
  /-- UALU (R112). Uniform integer operation acting once per group. -/
  | ualu (g : GroupLoc) (f : RegForm)
  /-- THREAD_TO_UNIFORM (R112). The r2u instruction copies one lane's thread register value into a uniform register. -/
  | threadToUniform (g : GroupLoc) (f : RegForm)
  /-- SRD (R130). Special-register read of lane, mask, time, module, job or epoch. -/
  | srd (g : GroupLoc) (f : RegForm)
  /-- VOTE (R113). Group vote any, all or ballot over a predicate. -/
  | vote (g : GroupLoc) (f : RegForm)
  /-- SHFL (R114). Lane exchange carrying poison marks. -/
  | shfl (g : GroupLoc) (f : RegForm)
  /-- BRA (R115). Group branch on an any or all condition. -/
  | bra (g : GroupLoc) (f : BrForm)
  /-- CALL (R115). Branch writing the return address to a uniform register. -/
  | call (g : GroupLoc) (f : BrForm)
  /-- RET (R115). Branch to the address in a uniform register. -/
  | ret (g : GroupLoc) (f : BrForm)
  /-- SPLIT (R76). Divergent branch pushing RECONV and PENDING entries onto the mask stack. -/
  | split (g : GroupLoc) (f : BrForm)
  /-- JOIN (R77). Reconvergence point popping the mask stack. -/
  | join (g : GroupLoc) (f : BrForm)
  /-- EXIT (R81). Removes executing lanes from the group for good, retiring it when none remain. -/
  | exit (g : GroupLoc) (f : BrForm)
  /-- BRK (R116). Retires and parks the group with BREAK. -/
  | brk (g : GroupLoc) (f : BrForm)
  /-- UNASSIGNED_OPCODE (R101). An undefined encoding parks the group with ILLEGAL. -/
  | unassignedOpcode (g : GroupLoc) (w : BitVec 64)
  /-- LD (R119). Load from local or global memory into registers. -/
  | ld (g : GroupLoc) (f : MemForm)
  /-- ST (R119). Store to local or global memory, written through to the home region cache. -/
  | st (g : GroupLoc) (f : MemForm)
  /-- ATOM_ADD (R155). Combined atomic add returning old values in lane order. -/
  | atomAdd (g : GroupLoc) (f : MemForm)
  /-- ATOM_MIN (R155). Combined atomic minimum. -/
  | atomMin (g : GroupLoc) (f : MemForm)
  /-- ATOM_MAX (R155). Combined atomic maximum. -/
  | atomMax (g : GroupLoc) (f : MemForm)
  /-- ATOM_AND (R155). Combined atomic and. -/
  | atomAnd (g : GroupLoc) (f : MemForm)
  /-- ATOM_OR (R155). Combined atomic or. -/
  | atomOr (g : GroupLoc) (f : MemForm)
  /-- ATOM_XOR (R155). Combined atomic exclusive-or. -/
  | atomXor (g : GroupLoc) (f : MemForm)
  /-- ATOM_XCH (R156). Serialised atomic exchange in ascending lane order. -/
  | atomXch (g : GroupLoc) (f : MemForm)
  /-- ATOM_CAS (R156). Serialised atomic compare-and-swap in ascending lane order. -/
  | atomCas (g : GroupLoc) (f : MemForm)
  /-- ATOM_FADD (R156). Serialised atomic S32 add rounding at each step. -/
  | atomFadd (g : GroupLoc) (f : MemForm)
  /-- FENCE (R137). Holds the group until earlier loads return and earlier stores are performed at the scope. -/
  | fence (g : GroupLoc) (f : MemForm)
  /-- INVAL (R143). Removes read-only-cached window lines from L1, or also from the block cache. -/
  | inval (g : GroupLoc) (f : MemForm)
  /-- COPY (R178). Checks a copy descriptor at issue and takes a tile-copy slot. -/
  | copy (g : GroupLoc) (f : RegForm)
  /-- AWAIT (R166). Waits wrap-safely until an arrival counter reaches its target. -/
  | await (g : GroupLoc) (f : RegForm)
  /-- CNT_SET (R164). Sets an arrival counter's VALUE and TAG. -/
  | cntSet (g : GroupLoc) (f : RegForm)
  /-- CNT_ADD (R163). Adds an amount to an arrival counter. -/
  | cntAdd (g : GroupLoc) (f : RegForm)
  /-- CNT_READ (R168). Reads an arrival counter's VALUE into a uniform register. -/
  | cntRead (g : GroupLoc) (f : RegForm)
  /-- NOTIFY (R170). Sends a remote counter increment once earlier stores are performed at fabric scope. -/
  | notify (g : GroupLoc) (f : RegForm)
  /-- RND (R127). Writes counter-based random bits G(key, counter) to each executing lane. -/
  | rnd (g : GroupLoc) (f : RegForm)
  /-- STEP (R129). Marks a training-step boundary for the Sieve and the scale table. -/
  | step (g : GroupLoc) (f : RegForm)
  /-- MMA (R219). Checks and queues a matrix multiply into a drawer of a slice. -/
  | mma (g : GroupLoc) (f : RegForm)
  /-- MSLC_CONFIG (R233). Sets the slice count once the array is empty. -/
  | mslcConfig (g : GroupLoc) (f : RegForm)
  /-- MSLC_CLAIM (R233). Claims a slice for the issuing group. -/
  | mslcClaim (g : GroupLoc) (f : RegForm)
  /-- MSLC_RELEASE (R233). Releases a slice held by the issuing group. -/
  | mslcRelease (g : GroupLoc) (f : RegForm)
  /-- MSLC_QUERY (R233). Returns the slice status word. -/
  | mslcQuery (g : GroupLoc) (f : RegForm)
  /-- DOPN (R245). Opens a drawer with M, N, KIND and an optional preload. -/
  | dopn (g : GroupLoc) (f : RegForm)
  /-- DRN (R254). Queues a drain of a drawer through the epilogue. -/
  | drn (g : GroupLoc) (f : RegForm)
  /-- DCLS (R240). Closes a drawer without drain once earlier instructions complete. -/
  | dcls (g : GroupLoc) (f : RegForm)
  /-- DQRY (R266). Returns a drawer's status once earlier instructions settle. -/
  | dqry (g : GroupLoc) (f : RegForm)
  /-- CHN (R267). Checks and queues a chain descriptor on the chain unit. -/
  | chn (g : GroupLoc) (f : RegForm)
  /-- CHST_READ_CLEAR (R269). Reads and clears the slot's chain sticky bits after earlier chn complete. -/
  | chstReadClear (g : GroupLoc) (f : RegForm)
  /-- CHST_READ_ONLY (R269). Reads the slot's chain sticky bits without clearing them. -/
  | chstReadOnly (g : GroupLoc) (f : RegForm)
  /-- SPK (R331). Packs a dense operand into sparse tiles with header and index. -/
  | spk (g : GroupLoc) (f : RegForm)
  /-- SGL (R332). Turns scores into a padded gather list. -/
  | sgl (g : GroupLoc) (f : RegForm)
  /-- SXP (R333). Scatters compact rows to destination rows by an index list. -/
  | sxp (g : GroupLoc) (f : RegForm)
  /-- COLL (R403). Checks a collective descriptor and sends it to the region's collective engine. -/
  | coll (g : GroupLoc) (f : RegForm)
  /-- INSTRUCTION_FETCH (R118). An instruction word arrives through L1 so the group may become ready, or the fetch parks with WINDOW_MISS. -/
  | instructionFetch (g : GroupLoc)
  /-- LOOKASIDE_FILL (R368). The cell window lookaside is filled from the region window cache and the held group may issue. -/
  | lookasideFill (g : GroupLoc)
  /-- MASK_STACK_SPILL (R78). On its port-A grant, eight mask-stack entries are written to the spill area. -/
  | maskStackSpill (g : GroupLoc)
  /-- MASK_STACK_RELOAD (R78). On its port-A grant, eight spilled mask-stack entries are read back. -/
  | maskStackReload (g : GroupLoc)
  /-- LINE_FILL (R152). Fill data arrive at L1, are written to the destination and free the line-miss slot. -/
  | lineFill (cell id : Nat)
  /-- GROUP_RETIRE (R81). A group with no lane left frees its slot once every register write completes, closing its undrained drawers. -/
  | groupRetire (g : GroupLoc)
  /-- PARK_NOTICE (R91). The region controller takes a park record and resolves it, ordering a replay or handing it to the runtime. -/
  | parkNotice (g : GroupLoc)
  /-- GROUP_REPLAY (R94). A replay order reaches the cell and the group resumes from PC with its saved mask. -/
  | groupReplay (g : GroupLoc)
  /-- LAUNCH_RECORD_DONE (R489). When every group of a record has retired and completed, the owner sends its DONE notify. -/
  | launchRecordDone (launch : Nat)
  /-- COUNTER_INCREMENT (R163). An increment is applied to an arrival counter and waiting awaits are woken. -/
  | counterIncrement (cell counter amount : Nat)
  /-- COPY_COMMAND (R180). The copy unit sends a copy's next memory command when it holds a claim on the pseudo-channel. -/
  | copyCommand (cell slot : Nat)
  /-- COPY_COMPLETE (R184). Once every destination byte is performed at SCOPE the copy increments its counter. -/
  | copyComplete (cell slot : Nat)
  /-- COPY_NOTIFY (R184). After its writes are performed at fabric scope a copy sends its notify and returns its slot on acknowledgement. -/
  | copyNotify (cell slot : Nat)
  /-- HOME_REQUEST (R345). The home region cache serves a load, store, atomic, copy or host access, allocating or joining fills. -/
  | homeRequest (id : Nat)
  /-- STACK_COMMAND_COMPLETE (R352). A pseudo-channel command completes at the stack, correcting or poisoning data under the symbol code. -/
  | stackCommandComplete (id : Nat) (sectors : List SectorOutcome)
  /-- ROW_SPARE (R359). The region controller holds a row's commands, copies it to a spare row, redirects it and releases the commands. -/
  | rowSpare (channel bank row : Nat)
  /-- PATROL_SCRUB (R357). The region controller patrols a sector, rewriting corrected errors and poisoning uncorrectable ones. -/
  | patrolScrub (region offset : Nat) (outcome : SectorOutcome)
  /-- RAMP_START_DONE (R237). A slice's enabled-row count reaches 16 and the slice enters RUN. -/
  | rampStartDone (cell slice : Nat)
  /-- MMA_OPERAND_RELEASE (R231). An mma's last wave enters: its P1 credit returns and its counter is incremented. -/
  | mmaOperandRelease (cell slice : Nat)
  /-- DOPN_PRELOAD_DONE (R245). A drawer's preload has been read, returning the P1 credit and incrementing the counter. -/
  | dopnPreloadDone (cell slice drawer : Nat)
  /-- DRAIN_START (R254). A drain starts once its drawer has settled and feeds elements into the epilogue. -/
  | drainStart (cell slice drawer : Nat)
  /-- DRAIN_COMPLETE (R261). All outputs of a drain are performed: P1 returns, the counter increments and the drawer closes or reopens. -/
  | drainComplete (cell slice drawer : Nat)
  /-- DRAWER_CLOSE (R240). A dcls takes effect once earlier instructions to the drawer complete, returning its P1 credit. -/
  | drawerClose (cell slice drawer : Nat)
  /-- SLICE_HOLD_EXPIRY (R237). A slice's queue has been empty with no wave for 16 beats; it enters STOP if the fall budget allows. -/
  | sliceHoldExpiry (cell slice : Nat)
  /-- RAMP_STOP_DONE (R237). A stop ramp reaches E = 0 and the slice becomes IDLE. -/
  | rampStopDone (cell slice : Nat)
  /-- SLICE_FAULT (R235). A slice detects a residue or parity failure, abandons its work, closes its drawers and faults its owner. -/
  | sliceFault (cell slice : Nat)
  /-- WAVE_WATCHDOG_EXPIRY (R235). A wave's handshakes are incomplete after 10 µs, which counts as a slice failure. -/
  | waveWatchdogExpiry (cell slice : Nat)
  /-- SLICE_RESET_DONE (R235). A faulted slice finishes its reset and RESETTING clears. -/
  | sliceResetDone (cell slice : Nat)
  /-- SLICE_AUTO_RELEASE (R234). A retired owner's slice is released once its last instruction passed operand release and its drawers closed. -/
  | sliceAutoRelease (cell slice : Nat)
  /-- CHAIN_START (R270). The chain unit starts reading the next instruction's inputs after any hazard wait. -/
  | chainStart (cell : Nat)
  /-- CHAIN_COMPLETE (R273). All outputs of a chain-unit instruction are performed; sticky bits, counters and the arrival counter update. -/
  | chainComplete (cell : Nat) (residueError : Bool)
  /-- COLLECTIVE_PORT_MAP (R272). The chain unit adds a collective segment submitted to its collective port and frees the receive half. -/
  | collectivePortMap (cell : Nat) (residueError : Bool)
  /-- SIEVE_BANK_MERGE (R298). The block controller reads a frozen histogram bank into its slot sums and frees the bank. -/
  | sieveBankMerge (cell : Nat)
  /-- HISTOGRAM_CONTRIBUTION (R298). A region's histogram contribution reaches the slot's home region controller. -/
  | histogramContribution (region slot : Nat)
  /-- SCALE_STALL_EXPIRY (R299). A slot's step is still incomplete 100 ms after its first participant passed it. -/
  | scaleStallExpiry (slot : Nat)
  /-- SCALE_FETCH (R305). A cell's request for a slot's scale reaches the home region, which answers once due updates complete. -/
  | scaleFetch (cell slot : Nat)
  /-- SCALE_ANSWER (R305). A slot's scale arrives at the cell cache and the waiting conversion proceeds. -/
  | scaleAnswer (cell slot : Nat)
  /-- SAT_DIRECT (R302). A saturation sent directly as an MGT message is counted against its slot's step. -/
  | satDirect (slot : Nat)
  /-- RESCALE_REPORT (R303). A collective's late-rescale report reaches its slot and raises CORR for the step. -/
  | rescaleReport (slot : Nat)
  /-- LOAD (R374). A remote LOAD packet is performed at the home and answered with LOAD_DATA. -/
  | load (q : RequestPacket)
  /-- STORE (R374). A remote STORE packet is performed at the home and answered with STORE_ACK. -/
  | store (q : RequestPacket)
  /-- ATOMIC (R374). A remote ATOMIC packet is performed at the home and answered with ATOMIC_DATA. -/
  | atomic (q : RequestPacket)
  /-- GET (R374). A remote GET packet is served at the home with one GET_DATA per granule. -/
  | get (q : RequestPacket)
  /-- PUT (R374). A remote PUT packet is performed at the home and answered with PUT_ACK. -/
  | put (q : RequestPacket)
  /-- NOTIFY_PACKET (R171). An arriving notify increments the target counter if its TAG matches and is acknowledged applied or rejected. -/
  | notifyPacket (q : RequestPacket)
  /-- LOAD_DATA (R376). A load answer arrives at the requester and writes the destination, poisoned if LOST. -/
  | loadData (a : AnswerPacket)
  /-- STORE_ACK (R376). A store acknowledgement arrives and frees the transaction entry. -/
  | storeAck (a : AnswerPacket)
  /-- ATOMIC_DATA (R376). An atomic answer arrives with returned values. -/
  | atomicData (a : AnswerPacket)
  /-- GET_DATA (R375). A GET_DATA granule arrives and is written into the copy's destination. -/
  | getData (a : AnswerPacket)
  /-- PUT_ACK (R375). A PUT acknowledgement arrives for a remote copy. -/
  | putAck (a : AnswerPacket)
  /-- NOTIFY_ACK (R171). A notify acknowledgement returns, freeing the line-miss slot and counting rejection or loss. -/
  | notifyAck (a : AnswerPacket)
  /-- RSP_TIMEOUT_EXPIRY (R377). No answer has arrived RSP_TIMEOUT after sending, so the region answers the request LOST. -/
  | rspTimeoutExpiry (region entry : Nat)
  /-- WIN_QUERY (R369). A window server looks up a page entry and answers with WIN_REPLY. -/
  | winQuery (source : Nat) (vpn : BitVec 32) (tag : BitVec 16)
  /-- WIN_REPLY (R369). A window reply fills the region window cache and replays the group, or hands the record to the runtime. -/
  | winReply (server : Nat) (vpn : BitVec 32) (tag : BitVec 16) (entry : Option (BitVec 128))
  /-- PACKET_ROUTE (R383). A packet at a module takes an adaptive, escape or detour hop, or is dropped at level 1. -/
  | packetRoute (port : Nat) (p : ArrivedPacket)
  /-- PACKAGE_PACKET (R18). A package packet crosses one package hop and is resent from the sending hop on CRC failure. -/
  | packagePacket (source destination : Nat) (cls : TrafficClass) (crcOk : Bool)
  /-- TIME_PROBE_TIMER (R389). Every 100 µs a live link sends a TIME_PROBE. -/
  | timeProbeTimer (port : Nat)
  /-- TIME_PROBE (R389). An arriving TIME_PROBE is answered with TIME_REPLY. -/
  | timeProbe (port : Nat) (p : TimeProbe)
  /-- TIME_REPLY (R389). A TIME_REPLY gives offset and delay, feeding slewing, parent choice and OUT_OF_TOL. -/
  | timeReply (port : Nat) (t1 t2 t3 : Nat) (neighbour : TimeProbe)
  /-- TIME_SERVICE_SILENCE (R50). No time-service message for 1 ms puts a JOINED module into holdover. -/
  | timeServiceSilence
  /-- LINK_SILENCE_PROBE (R392). After 750 µs with nothing received from a neighbour, the module sends PEER_PROBE by detour. -/
  | linkSilenceProbe (neighbour : Nat)
  /-- PEER_PROBE (R392). An arriving PEER_PROBE is answered with PEER_ACK. -/
  | peerProbe (source : Nat)
  /-- PEER_ACK (R392). A PEER_ACK shows the neighbour alive so only the links are routed around. -/
  | peerAck (source : Nat)
  /-- LINK_DOWN (R391). A link goes down after 1,000 µs of silence or 20 µs without FEC lock; replay packets are disposed and a silent peer declared failed. -/
  | linkDown (port : Nat) (cause : DownCause)
  /-- PEER_DOWN (R393). A PEER_DOWN is flooded, N marked failed and requests to N answered LOST, or the module rejoins if named. -/
  | peerDown (port module incarnation : Nat)
  /-- PEER_UP (R396). A PEER_UP clears the failed mark of a rejoining module and is flooded on. -/
  | peerUp (port module incarnation : Nat)
  /-- SETUP (R399). A SETUP message from a partner confirms a collective group's values. -/
  | setup (m : SetupMessage)
  /-- COLLECTIVE_START (R404). The collective engine starts the next collective of a group's queue and grants its receive buffers. -/
  | collectiveStart (group : Nat)
  /-- SEG_GRANT (R407). A segment grant arrives so the member may send a segment. -/
  | segGrant (group source : Nat)
  /-- COLLECTIVE_SEGMENT (R407). A collective segment arrives in a reserved receive half and is submitted for adding, or discarded if stale. -/
  | collectiveSegment (m : SegmentMessage)
  /-- COLLECTIVE_COMPLETE (R406). A collective finishes: DST performed, result record written, counter incremented, slot returned and MAXR reported. -/
  | collectiveComplete (group : Nat)
  /-- COL_ABORT (R416). A COL_ABORT ends the named collective with ABORTED and poisoned unwritten sectors. -/
  | colAbort (group source : Nat)
  /-- SEGMENT_TIMEOUT (R416). A reserved receive half stays empty for RSP_TIMEOUT, ending the collective with SEGMENT_LOST. -/
  | segmentTimeout (group : Nat)
  /-- RING_WATCHDOG_EXPIRY (R423). A ring counter's stall reaches its period W. -/
  | ringWatchdogExpiry (cell counter : Nat)
  /-- LASER_MEASURE (R434). Every 10 µs the link complex measures both laser inputs, degrading or squelching the port. -/
  | laserMeasure (port : Nat) (goodA goodB : Bool) (dbm10A dbm10B : Int) (dark : BitVec 9)
  /-- CODEWORD (R436). A lane receives an RS(544,514) codeword, updating FEC lock and lane health. -/
  | codeword (port lane : Nat) (c : CodewordReport)
  /-- DATA_FLIT (R441). A good in-sequence DATA flit is accepted and delivered; a bad or out-of-sequence one triggers a NAK. -/
  | dataFlit (port : Nat) (f : Flit)
  /-- CONTROL_FLIT (R440). A CONTROL flit carries bring-up, sparing or recovery management and is accepted in sequence. -/
  | controlFlit (port : Nat) (f : Flit)
  /-- IDLE_FLIT (R444). An IDLE flit delivers its ACK and credit report and is not passed on. -/
  | idleFlit (port : Nat) (f : Flit)
  /-- NAK (R442). A NAK makes the transmitter resend every flit after its ACK. -/
  | nak (port : Nat) (f : Flit)
  /-- NAK_RETRY_EXPIRY (R442). The expected flit has not arrived one round trip plus 1 µs after a NAK, so the NAK is resent. -/
  | nakRetryExpiry (port : Nat)
  /-- SPARE_REQ (R452). A SPARE_REQ names a failed logical lane to move to the standby lane. -/
  | spareReq (port logical : Nat)
  /-- LANE_SWITCH (R452). At its next codeword boundary the transmitter moves the logical lane to the standby lane and restarts replay. -/
  | laneSwitch (port : Nat)
  /-- RECOVERY (R450). A receiver starts retraining one direction of a LIVE port by a CONTROL flit. -/
  | recovery (port : Nat) (transmit : Bool) (cause : RecoveryCause)
  /-- RECOVERY_DONE (R450). Recovery completes under a new lane map, possibly at half width. -/
  | recoveryDone (port : Nat) (usable : BitVec 9)
  /-- RECOVERY_TIMEOUT (R450). A recovery not complete within 300 µs takes the link down to DETECT. -/
  | recoveryTimeout (port : Nat)
  /-- BEACON_DETECT (R447). A partner's beacon on at least four lanes moves the port out of DETECT. -/
  | beaconDetect (port : Nat)
  /-- LASER_CHECK_DONE (R447). Both ends have good laser inputs and power on every lane; the port enters TX_EQ. -/
  | laserCheckDone (port : Nat) (usableTx usableRx : BitVec 9)
  /-- TX_EQ_DONE (R447). Transmitter taps and precoding have converged; the port enters RX_ADAPT. -/
  | txEqDone (port : Nat) (usableTx usableRx : BitVec 9)
  /-- RX_ADAPT_DONE (R447). Receivers have adapted; the port enters FEC_LOCK. -/
  | rxAdaptDone (port : Nat) (usableTx usableRx : BitVec 9)
  /-- FEC_LOCK_DONE (R447). Every usable lane is in FEC lock; the port enters DESKEW. -/
  | fecLockDone (port : Nat) (usableTx usableRx : BitVec 9)
  /-- DESKEW_DONE (R453). Lanes are aligned and lane maps and standby lanes set; the port enters IDENTITY. -/
  | deskewDone (port : Nat) (usableTx usableRx : BitVec 9)
  /-- IDENTITY_DONE (R382). Identities and pools are exchanged and the port is classified, or held as miscabled or mismatched. -/
  | identityDone (port : Nat) (p : PartnerIdentity)
  /-- SELF_JOIN_EXPIRY (R449). Two seconds after its first IDENTITY with no JOINED partner, the lowest-numbered module declares itself JOINED. -/
  | selfJoinExpiry
  /-- JOIN_STATE_TIMER (R449). Every 100 µs a port in JOIN sends its module state and enters LIVE when both modules are JOINED. -/
  | joinStateTimer (port : Nat)
  /-- BRINGUP_BOUND_EXPIRY (R448). A bring-up state exceeds its bound, failing the attempt and holding the port after three failures. -/
  | bringupBoundExpiry (port : Nat) (lanes : BitVec 32)
  /-- HELD_RETRY_EXPIRY (R448). Ten seconds in HELD expire and the port retries from DETECT. -/
  | heldRetryExpiry (port : Nat)
  /-- BENCH_START (R456). A loaded Bench programme reaches START and begins injecting. -/
  | benchStart (programme : Nat)
  /-- BENCH_INJECT (R457). A Bench programme injects one fault event into its port, at least 100 µs after the previous one. -/
  | benchInject (programme number : Nat)
  /-- BENCH_END (R459). A Bench programme reaches END and failed lanes are restored as standby. -/
  | benchEnd (programme : Nat)
  /-- PROOFER_REQUEST (R500). An admission request with a declared step enters the Proofer's queue. -/
  | prooferRequest (req : ProoferObject)
  /-- PROOFER_GRANT (R500). The oldest queued request is granted when the rise budget and spacing allow, starting its activity. -/
  | prooferGrant
  /-- GOVERNOR_INTERVAL (R499). Each 10 µs a region's activity governor estimates current, requesting raises or holding issue and using filler. -/
  | governorInterval (region estimateMa : Nat)
  /-- HELD_SLICE_STOP (R502). A held slice or activity lowering spends the fall budget and proceeds to STOP. -/
  | heldSliceStop (cell slice : Nat)
  /-- POWER_LIMIT_INTERVAL (R506). Every 100 µs Baker compares mean input power with LIMIT and lowers or raises VPWR. -/
  | powerLimitInterval (meanWatts : Nat)
  /-- POWER_SAMPLE (R507). Each 10 µs input-power sample may engage or release the fast clamp. -/
  | powerSample (meanWatts : Nat)
  /-- THERMAL_SAMPLE (R509). Every 50 µs sensors are sampled and the thresholds of Table 17.6 act or release. -/
  | thermalSample (sensor : SensorRef) (celsius : Int)
  /-- THERMAL_THROTTLE_STEP (R509). Every 100 µs a throttle lowers, or a release raises, a region's VTHM by 10 mV. -/
  | thermalThrottleStep (region : Nat)
  /-- VOLTAGE_RAISE_STEP (R504). A granted voltage raise lifts a region's core rail by one step and pace follows. -/
  | voltageRaiseStep (region : Nat)
  /-- THERMAL_FENCE_EXPIRY (R511). A critical action has held VTHM at 0.55 V for 100 ms with a sensor still at 105 °C, so the region is fenced. -/
  | thermalFenceExpiry (region : Nat)
  /-- RC_HEARTBEAT_TIMEOUT (R518). A region controller sends no heartbeat for 1 ms and Baker fences the region. -/
  | rcHeartbeatTimeout (region : Nat)
  /-- UNCONTAINED_CELL_FAILURE (R519). A cell's control-logic parity or handshake check fails and its block is fenced at once. -/
  | uncontainedCellFailure (cell : Nat)
  /-- FENCED_RESPONSE (R32). A response arriving at a fenced block is accepted and discarded and its reserved space freed. -/
  | fencedResponse (cell id : Nat)
  /-- ALARM_OCCURRENCE (R527). An alarm occurrence reaches Baker's alarm table and makes or joins a record, merging when the table is full. -/
  | alarmOccurrence (index : Nat)
  /-- LOG_MESSAGE (R532). A log message is buffered at its region controller and later written by Baker, or discarded without credit;
  `index` numbers it among those on their way. -/
  | logMessage (region index : Nat)
  /-- LOSS_RECORD_WRITE (R533). Baker writes a loss record from a region buffer's non-zero loss entry, at most once per 1 ms. -/
  | lossRecordWrite (region : Nat)
  /-- SUMMARY_WINDOW_END (R538). At the end of each 10 ms window a sender with discards sends a drop summary, which Baker writes into the log. -/
  | summaryWindowEnd (sender : Nat)
  /-- TRACE_RECORD (R537). A trace record is written to the host ring or discarded under the limits. -/
  | traceRecord (t : TraceRecord)
  /-- TRACE_READ_POLL (R536). At least every 100 µs Baker reads the host trace ring's READ index by DMA. -/
  | traceReadPoll (readIndex : BitVec 64)
  /-- CONFIGURATION_REQUEST (R464). A PCIe configuration request reaches the endpoint and is answered with Request Retry Status until BOOT ends, or is served, which includes Bus Master Enable and the Resizable BAR size of the memory window. -/
  | configurationRequest (r : ConfigRequest)
  /-- SEAL_LOOP_CLOSE (R482). A qualified open-to-closed transition of the seal loop sets SEAL_CLOSED, advances PSEQ and makes a seal re-arm possible. -/
  | sealLoopClose
  /-- MODULE_RESET_START (R516). 10 ms after a module-reset command reports DONE, the module runs its power-down, loses job state and repeats start-up from step 1. -/
  | moduleResetStart
  /-- LOG_RECORD_WRITE (R532). Baker takes the next buffered log record round-robin from a region buffer, gives it the next sequence number and writes it into the log ring. -/
  | logRecordWrite (region : Nat)
  /-- BLOCK_PARITY_FAILURE (R518). A parity check of the block crossbar or block-controller state fails and the block is fenced under R30. -/
  | blockParityFailure (block : Nat)
  /-- DRAWER_SETTLED (R266). The K-step sums of an mma have entered their drawer stacks and every merge and chunk addition has finished, so the mma counts as completed for dqry. -/
  | drawerSettled (cell slice drawer : Nat)
  deriving DecidableEq, Repr, Inhabited

end Sys2Proof
end

