-- ==== Sys2Proof/Machine/Maps.lean ====
section
/-!
DEFINITION. Sparse maps, byte lists and bit fields: the plain data handling every other file uses.
-/

namespace Sys2Proof.Machine

/-- The value at key `k`, if there is one. -/
def NMap.find {V : Type} (m : NMap V) (k : Nat) : Option V :=
  match m with
  | [] => none
  | (j, v) :: r => if j = k then some v else NMap.find r k

/-- The value at key `k`, `d` where the map lists none. -/
def NMap.get {V : Type} (m : NMap V) (d : V) (k : Nat) : V := (NMap.find m k).getD d

/-- The part of a map below, or above, a key. -/
def NMap.below {V : Type} (m : NMap V) (k : Nat) : NMap V := m.filter (fun e => decide (e.1 < k))
def NMap.above {V : Type} (m : NMap V) (k : Nat) : NMap V := m.filter (fun e => decide (k < e.1))

def NMap.erase {V : Type} (m : NMap V) (k : Nat) : NMap V := NMap.below m k ++ NMap.above m k
def NMap.insert {V : Type} (m : NMap V) (k : Nat) (v : V) : NMap V := NMap.below m k ++ (k, v) :: NMap.above m k

/-- Write `v` at `k` in a map whose unlisted keys hold `d`: writing `d` removes the entry. -/
def NMap.set {V : Type} [DecidableEq V] (m : NMap V) (d : V) (k : Nat) (v : V) : NMap V :=
  if v = d then NMap.erase m k else NMap.insert m k v

/-- Change the value at `k` by `f`. -/
def NMap.upd {V : Type} [DecidableEq V] (m : NMap V) (d : V) (k : Nat) (f : V → V) : NMap V :=
  NMap.set m d k (f (NMap.get m d k))

/-- Change the value at `k` by `f` where the map lists one. -/
def NMap.mod {V : Type} (m : NMap V) (k : Nat) (f : V → V) : NMap V := m.map (fun e => if e.1 = k then (e.1, f e.2) else e)

/-- The entries of a map after `f`, those that become the default left out. -/
def NMap.remap {V : Type} [DecidableEq V] (d : V) (f : V → V) (m : NMap V) : NMap V :=
  (m.map (fun e => (e.1, f e.2))).filter (fun e => decide (e.2 ≠ d))

/-- Keys strictly rising. -/
def NMap.rising {V : Type} : NMap V → Bool
  | [] => true
  | (_, _) :: [] => true
  | (j, _) :: (k, w) :: r => decide (j < k) && NMap.rising ((k, w) :: r)

/-- The canonical form (keys strictly rising, no entry equal to what an unlisted key reads as). -/
def NMap.canon {V : Type} [DecidableEq V] (d : V) (m : NMap V) : Bool := NMap.rising m && m.all (fun e => decide (e.2 ≠ d))

/-- A key above every key the map lists. -/
def NMap.fresh {V : Type} (m : NMap V) : Nat := (m.map (·.1)).foldl (fun a k => max a (k + 1)) 0

/-- `f 0, …, f (n − 1)`. -/
def tabulate {α : Type} (n : Nat) (f : Nat → α) : List α := (List.range n).map f

/-- Little-endian value of a byte list (R4). -/
def ofBytes : List (BitVec 8) → Nat
  | [] => 0
  | b :: r => b.toNat + 256 * ofBytes r

/-- The `n` low bytes of `v`, least significant first (R4). -/
def toBytes : Nat → Nat → List (BitVec 8)
  | 0, _ => []
  | n + 1, v => BitVec.ofNat 8 v :: toBytes n (v / 256)

/-- Bits hi..lo of a natural number. -/
def bits (v hi lo : Nat) : Nat := v / 2 ^ lo % 2 ^ (hi + 1 - lo)

/-- Bit i of a natural number. -/
def bitOf (v i : Nat) : Bool := v / 2 ^ i % 2 = 1

/-- `v` with field hi..lo replaced by `x`. -/
def setBits (v hi lo x : Nat) : Nat :=
  v / 2 ^ (hi + 1) * 2 ^ (hi + 1) + x % 2 ^ (hi + 1 - lo) * 2 ^ lo + v % 2 ^ lo

def b2n (b : Bool) : Nat := if b then 1 else 0

/-- Signed value of an n-bit pattern. -/
def sgn (n v : Nat) : Int := if 2 ^ (n - 1) ≤ v % 2 ^ n then (v % 2 ^ n : Nat) - (2 ^ n : Nat) else ((v % 2 ^ n : Nat) : Int)

/-- n-bit pattern of an integer. -/
def unsgn (n : Nat) (i : Int) : Nat := (i % (2 ^ n : Nat)).toNat

/-- The number of set bits among the low `n`. -/
def popNat (n v : Nat) : Nat := ((List.range n).filter (fun i => v.testBit i)).length

/-- The indices, of `n`, whose bit is set in `v`, ascending. -/
def bitIndices (n v : Nat) : List Nat := (List.range n).filter (fun i => v.testBit i)

/-- The mask with exactly the bits in the list. -/
def maskOf (l : List Nat) : Nat := l.foldl (fun a i => a ||| 2 ^ i) 0

/-- Bit width of a number: 0 for 0, else ⌊log₂ v⌋ + 1. -/
def bitLen (v : Nat) : Nat := if v = 0 then 0 else Nat.log2 v + 1

/-- The list without repeats, first occurrences kept in order. -/
def dedupe {α : Type} [BEq α] (l : List α) : List α := (l.foldl (fun a x => if a.contains x then a else x :: a) []).reverse

/-- Serial comparison (R574, R166): d = (c − v) mod 2^n. -/
def serialDiff (n c v : Nat) : Nat := (c + 2 ^ n - v % 2 ^ n) % 2 ^ n
def serialOlder (n c v : Nat) : Bool := decide (2 ^ (n - 1) ≤ serialDiff n c v)
def serialNewer (n c v : Nat) : Bool := decide (0 < serialDiff n c v) && decide (serialDiff n c v < 2 ^ (n - 1))

end Sys2Proof.Machine
end

