-- ==== Sys2Proof/Machine/Formats.lean ====
section
/-!
DEFINITION. Number formats, exact values and rounding (chapter 6): every conversion forms an exact value and rounds it once.
-/

namespace Sys2Proof.Machine

/-- An exact value: NaN, an infinity, or ± m × 2^e (zero keeps its sign). -/
inductive Num where
  | nan
  | inf (neg : Bool)
  | fin (neg : Bool) (m : Nat) (e : Int)
  deriving DecidableEq, Repr, Inhabited

/-- A float format (Table 6.1): exponent and fraction bits, bias, and how its all-ones exponent reads. -/
inductive TopExponent where
  | ieee | e4 | none
  deriving DecidableEq, Repr, Inhabited

structure FloatFormat where
  eb : Nat
  fb : Nat
  bias : Int
  top : TopExponent
  deriving DecidableEq, Repr, Inhabited

/-- The format codes of Table 4.4. -/
def fS32 : Nat := 0
def fH16 : Nat := 1
def fB16 : Nat := 2
def fE4 : Nat := 3
def fE5 : Nat := 4
def fF4 : Nat := 5
def fI8 : Nat := 6
def fU8 : Nat := 7
def fI32 : Nat := 8
def fS64 : Nat := 9

def floatFormat (code : Nat) : Option FloatFormat :=
  match code with
  | 0 => some { eb := 8, fb := 23, bias := 127, top := .ieee }
  | 1 => some { eb := 5, fb := 10, bias := 15, top := .ieee }
  | 2 => some { eb := 8, fb := 7, bias := 127, top := .ieee }
  | 3 => some { eb := 4, fb := 3, bias := 7, top := .e4 }
  | 4 => some { eb := 5, fb := 2, bias := 15, top := .ieee }
  | 5 => some { eb := 2, fb := 1, bias := 1, top := .none }
  | 9 => some { eb := 11, fb := 52, bias := 1023, top := .ieee }
  | _ => none

/-- Bits of an element (Table 4.4). -/
def formatBits (code : Nat) : Nat :=
  match code with
  | 0 => 32
  | 1 => 16
  | 2 => 16
  | 5 => 4
  | 8 => 32
  | 9 => 64
  | _ => 8

/-- The value of an encoding of a float format (R190). -/
def decodeFloat (ff : FloatFormat) (v : Nat) : Num :=
  let neg := v.testBit (ff.eb + ff.fb)
  let e := v / 2 ^ ff.fb % 2 ^ ff.eb
  let f := v % 2 ^ ff.fb
  let ones := decide (e = 2 ^ ff.eb - 1)
  match ff.top, ones with
  | .ieee, true => if f = 0 then .inf neg else .nan
  | .e4, true =>
    if f = 2 ^ ff.fb - 1 then .nan else .fin neg (2 ^ ff.fb + f) (e - ff.bias - ff.fb)
  | _, _ => if e = 0 then .fin neg f (1 - ff.bias - ff.fb) else .fin neg (2 ^ ff.fb + f) (e - ff.bias - ff.fb)

/-- The exact value of an integer. -/
def ofInt (i : Int) : Num := .fin (decide (i < 0)) i.natAbs 0

/-- The value of an encoding of any format (R190, R193). -/
def decodeNum (code v : Nat) : Num :=
  match floatFormat code with
  | some ff => decodeFloat ff v
  | none => if code = 7 then ofInt (v % 256 : Nat) else ofInt (sgn (formatBits code) v)

/-- m × 2^e as a comparison key: exact comparison of two magnitudes. -/
def magLe (m1 : Nat) (e1 : Int) (m2 : Nat) (e2 : Int) : Bool :=
  if e1 ≤ e2 then decide (m1 ≤ m2 * 2 ^ (e2 - e1).toNat) else decide (m1 * 2 ^ (e1 - e2).toNat ≤ m2)

/-- Rounding modes (R200, R107); `sr R` is stochastic with random byte R (R201). -/
inductive Round where
  | rne | rtz | up | down
  | sr (r : Nat)
  deriving DecidableEq, Repr, Inhabited

/-- Truncate the magnitude m × 2^e to multiples of 2^q and round (R200, R201): the number of units. -/
def roundMag (mode : Round) (neg : Bool) (m : Nat) (e q : Int) : Nat :=
  if q ≤ e then m * 2 ^ (e - q).toNat
  else
    let sh := (q - e).toNat
    let t := m / 2 ^ sh
    let rem := m % 2 ^ sh
    let upDo :=
      match mode with
      | .rne => decide (2 ^ sh < 2 * rem) || (decide (2 ^ sh = 2 * rem) && decide (t % 2 = 1))
      | .rtz => false
      | .up => !neg && decide (0 < rem)
      | .down => neg && decide (0 < rem)
      | .sr r => decide (256 ≤ rem * 256 / 2 ^ sh + r)
    if upDo then t + 1 else t

/-- The outcome of a conversion: the encoding, whether it saturated (R206), whether a NaN was replaced by 0 (R207). -/
structure Conv where
  bits : Nat
  sat : Bool
  nanZero : Bool
  deriving DecidableEq, Repr, Inhabited

/-- Canonical NaN encodings (Table 6.3). -/
def canonicalNan (code : Nat) : Nat :=
  match code with
  | 0 => 0x7FC00000
  | 1 => 0x7E00
  | 2 => 0x7FC0
  | 3 => 0x7F
  | 4 => 0x7E
  | 9 => 0x7FF8000000000000
  | _ => 0

/-- Largest finite value as m × 2^e, and its encoding (Table 6.1). -/
def maxFinite (ff : FloatFormat) : Nat × Int × Nat :=
  match ff.top with
  | .ieee => (2 ^ (ff.fb + 1) - 1, 2 ^ ff.eb - 2 - ff.bias - ff.fb, (2 ^ ff.eb - 2) * 2 ^ ff.fb + (2 ^ ff.fb - 1))
  | .e4 => (2 ^ (ff.fb + 1) - 2, 2 ^ ff.eb - 1 - ff.bias - ff.fb, (2 ^ ff.eb - 1) * 2 ^ ff.fb + (2 ^ ff.fb - 2))
  | .none => (2 ^ (ff.fb + 1) - 1, 2 ^ ff.eb - 1 - ff.bias - ff.fb, (2 ^ ff.eb - 1) * 2 ^ ff.fb + (2 ^ ff.fb - 1))

def signBit (ff : FloatFormat) (neg : Bool) : Nat := if neg then 2 ^ (ff.eb + ff.fb) else 0

/-- Encode a finite value into a float format (R200, R201, Table 6.6). `satOpt` is the SAT option (R206). -/
def encodeFinite (ff : FloatFormat) (mode : Round) (satOpt neg : Bool) (m : Nat) (e : Int) : Conv :=
  let s := signBit ff neg
  let mx := maxFinite ff
  if m = 0 then { bits := s, sat := false, nanZero := false }
  else
    let top := e + bitLen m - 1
    let emin := 1 - ff.bias
    let q := (if top < emin then emin else top) - ff.fb
    let t := roundMag mode neg m e q
    let beyond :=
      match mode with
      | .sr _ => !magLe m e mx.1 mx.2.1
      | _ => !magLe t q mx.1 mx.2.1
    if beyond then
      let infinite := decide (ff.top = .ieee) && !satOpt &&
        (match mode with
        | .rtz => false
        | .up => !neg
        | .down => neg
        | _ => true)
      if infinite then { bits := s + (2 ^ ff.eb - 1) * 2 ^ ff.fb, sat := false, nanZero := false }
      else { bits := s + mx.2.2, sat := true, nanZero := false }
    else if t < 2 ^ ff.fb then { bits := s + t, sat := false, nanZero := false }
    else
      let tq := if t = 2 ^ (ff.fb + 1) then (2 ^ ff.fb, q + 1) else (t, q)
      { bits := s + (tq.2 + ff.fb + ff.bias).toNat * 2 ^ ff.fb + (tq.1 - 2 ^ ff.fb), sat := false, nanZero := false }

/-- Range of an integer format (R193). -/
def intRange (code : Nat) : Int × Int :=
  if code = 7 then (0, 255) else if code = 6 then (-128, 127) else (-2147483648, 2147483647)

/-- Encode into an integer format (Table 6.6, R206 to R208). -/
def encodeInt (code : Nat) (mode : Round) (v : Num) : Conv :=
  let lo := (intRange code).1
  let hi := (intRange code).2
  let pat (i : Int) : Nat := unsgn (formatBits code) i
  match v with
  | .nan => { bits := 0, sat := false, nanZero := true }
  | .inf neg => { bits := pat (if neg then lo else hi), sat := true, nanZero := false }
  | .fin neg m e =>
    let mag := roundMag mode neg m e 0
    let i : Int := if neg then -(mag : Int) else mag
    let beyond :=
      match mode with
      | .sr _ => !magLe m e (if neg then lo.natAbs else hi.natAbs) 0 && decide (mag ≠ 0 ∨ lo ≠ 0 ∨ !neg)
      | _ => decide (i < lo ∨ hi < i)
    if beyond then { bits := pat (if neg then lo else hi), sat := true, nanZero := false }
    else { bits := pat (if i < lo then lo else if hi < i then hi else i), sat := false, nanZero := false }

/-- Convert an exact value into a format (R200 to R209, Table 6.6). -/
def encodeNum (code : Nat) (mode : Round) (satOpt : Bool) (v : Num) : Conv :=
  match floatFormat code with
  | none => encodeInt code mode v
  | some ff =>
    match v with
    | .nan => { bits := canonicalNan code, sat := false, nanZero := decide (code = 5) }
    | .inf neg =>
      if ff.top = .ieee then { bits := signBit ff neg + (2 ^ ff.eb - 1) * 2 ^ ff.fb, sat := false, nanZero := false }
      else { bits := signBit ff neg + (maxFinite ff).2.2, sat := true, nanZero := false }
    | .fin neg m e => encodeFinite ff mode satOpt neg m e

/-- One conversion between formats. -/
def convertNum (src dst : Nat) (mode : Round) (satOpt : Bool) (v : Nat) : Conv := encodeNum dst mode satOpt (decodeNum src v)

/-! ### Exact arithmetic -/

def Num.neg (v : Num) : Num :=
  match v with
  | .nan => .nan
  | .inf s => .inf (!s)
  | .fin s m e => .fin (!s) m e

def Num.isNan (v : Num) : Bool := decide (v = .nan)
def Num.isZero (v : Num) : Bool :=
  match v with
  | .fin _ 0 _ => true
  | _ => false

/-- Multiply by 2^k. -/
def Num.scale (v : Num) (k : Int) : Num :=
  match v with
  | .fin s m e => .fin s m (e + k)
  | v => v

/-- Exact sum; an exact zero of unlike signs is −0 only under rounding downward. -/
def Num.add (down : Bool) (a b : Num) : Num :=
  match a, b with
  | .nan, _ => .nan
  | _, .nan => .nan
  | .inf s, .inf t => if s = t then .inf s else .nan
  | .inf s, _ => .inf s
  | _, .inf t => .inf t
  | .fin s m e, .fin t n f =>
    let lo := if e ≤ f then e else f
    let x : Int := (m * 2 ^ (e - lo).toNat : Nat)
    let y : Int := (n * 2 ^ (f - lo).toNat : Nat)
    let z := (if s then -x else x) + (if t then -y else y)
    if z = 0 then .fin (if s = t then s else down) 0 lo else .fin (decide (z < 0)) z.natAbs lo

/-- Exact product. -/
def Num.mul (a b : Num) : Num :=
  match a, b with
  | .nan, _ => .nan
  | _, .nan => .nan
  | .inf s, .fin t n _ => if n = 0 then .nan else .inf (s != t)
  | .fin s m _, .inf t => if m = 0 then .nan else .inf (s != t)
  | .inf s, .inf t => .inf (s != t)
  | .fin s m e, .fin t n f => .fin (s != t) (m * n) (e + f)

/-- a < b on values that are not NaN (−0 equals +0). -/
def Num.lt (a b : Num) : Bool :=
  match a, b with
  | .nan, _ => false
  | _, .nan => false
  | .inf s, .inf t => s && !t
  | .inf s, _ => s
  | _, .inf t => !t
  | .fin s m e, .fin t n f =>
    if m = 0 ∧ n = 0 then false
    else if s && !t then true
    else if !s && t then false
    else if s then !magLe m e n f else !magLe n f m e

def Num.eq (a b : Num) : Bool := !Num.isNan a && !Num.isNan b && !Num.lt a b && !Num.lt b a

/-- Round an exact value to S32 (R107). -/
def toS32 (mode : Round) (v : Num) : Nat := (encodeNum 0 mode false v).bits
def ofS32 (v : Nat) : Num := decodeNum 0 v

def isDown (mode : Round) : Bool := decide (mode = .down)

def fAdd (mode : Round) (a b : Nat) : Nat := toS32 mode (Num.add (isDown mode) (ofS32 a) (ofS32 b))
def fMul (mode : Round) (a b : Nat) : Nat := toS32 mode (Num.mul (ofS32 a) (ofS32 b))
def fFma (mode : Round) (a b c : Nat) : Nat := toS32 mode (Num.add (isDown mode) (Num.mul (ofS32 a) (ofS32 b)) (ofS32 c))

/-- S32 minimum and maximum (R107): one NaN gives the other operand; −0 is less than +0. -/
def fMinMax (mx : Bool) (a b : Nat) : Nat :=
  let x := ofS32 a
  let y := ofS32 b
  if Num.isNan x then (if Num.isNan y then canonicalNan 0 else b)
  else if Num.isNan y then a
  else
    let less := Num.lt x y || (Num.eq x y && a.testBit 31)
    if less != mx then a else b

/-- The conditions of `fcmp` (R105). -/
def fCmp (cond a b : Nat) : Bool :=
  let x := ofS32 a
  let y := ofS32 b
  let un := Num.isNan x || Num.isNan y
  match cond with
  | 0 => Num.eq x y
  | 1 => !Num.eq x y
  | 2 => Num.lt x y
  | 3 => Num.lt x y || Num.eq x y
  | 4 => Num.lt y x
  | 5 => Num.lt y x || Num.eq x y
  | 6 => !un
  | _ => un

/-- A packed 16-bit operation (R108): `fn` on the two halves, in format `code`. -/
def packed2 (code : Nat) (fn : Num → Num → Num → Num) (a b c : Nat) : Nat :=
  let half (sh : Nat) : Nat :=
    let g (v : Nat) : Num := decodeNum code (v / 2 ^ sh % 2 ^ 16)
    (encodeNum code .rne false (fn (g a) (g b) (g c))).bits
  half 0 + 2 ^ 16 * half 16

end Sys2Proof.Machine
end

