-- ==== Sys2Proof/Machine/Functions.lean ====
section
/-!
DEFINITION. The transcendental functions of Table 9.7, correctly rounded (R280): each is bounded from both sides in fixed point
and the precision grows until both bounds round to one S32 value.
-/

namespace Sys2Proof.Machine

/-! ### Fixed point with P fraction bits -/

/-- Sum of y^j / j! from below, for 0 ≤ y ≤ 1 in P fraction bits. -/
def expTerms (P y : Nat) : Nat → Nat → Nat → Nat → Nat
  | 0, _, _, acc => acc
  | fuel + 1, j, t, acc =>
    let t' := t * y / (2 ^ P * j)
    if t' = 0 then acc else expTerms P y fuel (j + 1) t' (acc + t')

/-- e^y from below and from above, for 0 ≤ y ≤ 1. -/
def expLow (P y : Nat) : Nat := expTerms P y P 1 (2 ^ P) (2 ^ P)
def expHigh (P y : Nat) : Nat := expLow P y + 4 * P + 16

/-- ln 2 from below; it is less than `ln2Low P + P + 2`. -/
def ln2Low (P : Nat) : Nat := (List.range P).foldl (fun a i => a + 2 ^ P / ((i + 1) * 2 ^ (i + 1))) 0

/-- Square k times. -/
def squareLow (P : Nat) : Nat → Nat → Nat
  | 0, v => v
  | k + 1, v => squareLow P k (v * v / 2 ^ P)
def squareHigh (P : Nat) : Nat → Nat → Nat
  | 0, v => v
  | k + 1, v => squareHigh P k (v * v / 2 ^ P + 1)

/-- Sum of z^(2i+1) / (2i+1) from below, for 0 ≤ z < 1. -/
def atanhTerms (P zz : Nat) : Nat → Nat → Nat → Nat → Nat
  | 0, _, _, acc => acc
  | fuel + 1, i, zp, acc => if zp = 0 then acc else atanhTerms P zz fuel (i + 2) (zp * zz / 2 ^ P) (acc + zp / i)
def atanhLow (P z : Nat) : Nat := atanhTerms P (z * z / 2 ^ P) P 1 z 0
def atanhHigh (P z : Nat) : Nat := atanhLow P z + 4 * P + 16

/-- m × 2^e in P fraction bits, rounded down. -/
def fixLow (P m : Nat) (e : Int) : Nat := if 0 ≤ e + P then m * 2 ^ (e + P).toNat else m / 2 ^ (-(e + P)).toNat

/-- A bound pair: sign, and lo × 2^e ≤ value ≤ hi × 2^e in magnitude. -/
structure Bounds where
  neg : Bool
  lo : Nat
  hi : Nat
  e : Int
  deriving DecidableEq, Repr, Inhabited

/-- The S32 value both bounds round to, at the first precision where they agree. -/
def settle (f : Nat → Bounds) : Nat → Nat → Nat
  | 0, P => let b := f P; toS32 .rne (.fin b.neg b.lo b.e)
  | fuel + 1, P =>
    let b := f P
    let lo := toS32 .rne (.fin b.neg b.lo b.e)
    if lo = toS32 .rne (.fin b.neg b.hi b.e) then lo else settle f fuel (2 * P)

/-- e^(m × 2^e) for m × 2^e below 2^k, in P fraction bits. -/
def expBounds (P k m : Nat) (e : Int) : Nat × Nat :=
  let y := fixLow P m (e - k)
  (squareLow P k (expLow P y), squareHigh P k (expHigh P (y + 1)))

/-! ### The functions -/

/-- 2^x. -/
def fnExp2 (x : Nat) : Nat :=
  match ofS32 x with
  | .nan => canonicalNan 0
  | .inf neg => if neg then 0 else 0x7F800000
  | .fin neg m e =>
    if m = 0 then 0x3F800000
    else if magLe 150 0 m e && neg then 0
    else if magLe 128 0 m e && !neg then 0x7F800000
    else
      -- x = n + f with 0 ≤ f < 1; f is exact with `sh` fraction bits
      let sh := if e < 0 then (-e).toNat else 0
      let i : Int := (m * 2 ^ (if e < 0 then 0 else e.toNat) : Nat)
      let v := if neg then -i else i
      let n := v / (2 ^ sh : Nat)
      let fr := (v - n * (2 ^ sh : Nat)).toNat
      if fr = 0 then toS32 .rne (.fin false 1 n)
      else
        settle (fun P =>
          let ln := ln2Low P
          let fl := fixLow P fr (-(sh : Int))
          let lo := fl * ln / 2 ^ P
          let hi := (fl + 1) * (ln + P + 2) / 2 ^ P + 1
          { neg := false, lo := expLow P lo, hi := expHigh P hi, e := n - P }) 4 96

/-- log₂ x. -/
def fnLog2 (x : Nat) : Nat :=
  match ofS32 x with
  | .nan => canonicalNan 0
  | .inf neg => if neg then canonicalNan 0 else 0x7F800000
  | .fin neg m e =>
    if m = 0 then 0xFF800000
    else if neg then canonicalNan 0
    else
      let len := bitLen m
      let k : Int := e + len - 1
      if m = 2 ^ (len - 1) then toS32 .rne (ofInt k)
      else
        -- x = 2^k × r, 1 < r < 2; above 3/2 the distance to 2 is used
        let upper := decide (3 * 2 ^ (len - 1) ≤ 2 * m)
        let base := if upper then k + 1 else k
        let num := if upper then 2 ^ len - m else m - 2 ^ (len - 1)
        let den := if upper then 2 ^ len + m else m + 2 ^ (len - 1)
        settle (fun P =>
          let z := num * 2 ^ P / den
          let ln := ln2Low P
          let lo := 2 * atanhLow P z * 2 ^ P / (ln + P + 2)
          let hi := 2 * atanhHigh P (z + 1) * 2 ^ P / ln + 1
          let b : Int := base * (2 ^ P : Nat)
          let v1 : Int := if upper then b - hi else b + lo
          let v2 : Int := if upper then b - lo else b + hi
          { neg := decide (v1 < 0), lo := v1.natAbs, hi := v2.natAbs, e := -(P : Int) }) 4 96

/-- 1 / x: the quotient with a sticky bit decides the rounding. -/
def fnRecip (x : Nat) : Nat :=
  match ofS32 x with
  | .nan => canonicalNan 0
  | .inf neg => if neg then 0x80000000 else 0
  | .fin neg m e =>
    if m = 0 then (if neg then 0xFF800000 else 0x7F800000)
    else
      let q := 2 ^ 64 / m
      toS32 .rne (.fin neg (2 * q + b2n (decide (q * m ≠ 2 ^ 64))) (-e - 65))

/-- ⌊√v⌋ by bits from the top. -/
def sqrtBits (v : Nat) : Nat → Nat → Nat
  | 0, acc => acc
  | i + 1, acc => if (acc + 2 ^ i) * (acc + 2 ^ i) ≤ v then sqrtBits v i (acc + 2 ^ i) else sqrtBits v i acc

/-- 1 / √x. -/
def fnRsqrt (x : Nat) : Nat :=
  match ofS32 x with
  | .nan => canonicalNan 0
  | .inf neg => if neg then canonicalNan 0 else 0
  | .fin neg m e =>
    if m = 0 then (if neg then 0xFF800000 else 0x7F800000)
    else if neg then canonicalNan 0
    else
      -- x = m' × 2^(2h); 1/√x = √(2^128 / m') × 2^(−64 − h)
      let odd := decide (e % 2 = 1)
      let m' := if odd then 2 * m else m
      let h := (if odd then e - 1 else e) / 2
      let r := sqrtBits (2 ^ 128 / m') 66 0
      toS32 .rne (.fin false (2 * r + b2n (decide (r * r * m' ≠ 2 ^ 128))) (-65 - h))

/-- tanh x = (E − 1) / (E + 1) with E = e^(2|x|). -/
def fnTanh (x : Nat) : Nat :=
  match ofS32 x with
  | .nan => canonicalNan 0
  | .inf neg => if neg then 0xBF800000 else 0x3F800000
  | .fin neg m e =>
    if m = 0 || !magLe 1 (-12) m e then x
    else if magLe 19 (-1) m e then (if neg then 0xBF800000 else 0x3F800000)
    else
      settle (fun P =>
        let E := expBounds P 5 m (e + 1)
        let one := 2 ^ P
        { neg := neg, lo := (E.1 - one) * 2 ^ P / (E.1 + one), hi := (E.2 - one) * 2 ^ P / (E.2 + one) + 1, e := -(P : Int) }) 4 96

/-- sigmoid x = 1 / (1 + e^(−x)). -/
def fnSigmoid (x : Nat) : Nat :=
  match ofS32 x with
  | .nan => canonicalNan 0
  | .inf neg => if neg then 0 else 0x3F800000
  | .fin neg m e =>
    if m = 0 then 0x3F000000
    else if neg && magLe 104 0 m e then 0
    else if !neg && magLe 18 0 m e then 0x3F800000
    else
      settle (fun P =>
        let E := expBounds P 7 m e
        let one := 2 ^ P
        let W := P + 160
        if neg then { neg := false, lo := 2 ^ (W + P) / (one + E.2), hi := 2 ^ (W + P) / (one + E.1) + 1, e := -(W : Int) }
        else { neg := false, lo := E.1 * 2 ^ W / (one + E.1), hi := E.2 * 2 ^ W / (one + E.2) + 1, e := -(W : Int) }) 4 96

/-- The function selected by `sfn` SUB[2:0] (R111). -/
def sfnFn (code x : Nat) : Nat :=
  match code with
  | 0 => fnExp2 x
  | 1 => fnLog2 x
  | 2 => fnRecip x
  | 3 => fnRsqrt x
  | 4 => fnTanh x
  | _ => fnSigmoid x

end Sys2Proof.Machine
end

