-- ==== Sys2Proof/Config.lean ====
section
/-!
DEFINITION. The free values: what the spec leaves undefined while the machine goes on. They have no body, so nothing can be
proved of them, and a statement that meets one holds whatever it is. The argument is the counter `State.freeCount`.
-/

namespace Sys2Proof

/-- A byte the spec calls undefined or does not state (R185, R230, R262, R263, R312, R400). Notes: assumptions 5 and 55. -/
opaque Config.freeByte : Nat → BitVec 8

/-- Half of an instruction word whose fetch R144 leaves undefined, an element of a touched collective group (R400), a RESULT the spec does not name,
or the length of a result it gives no layout. Notes: assumptions 5, 31, 41, 55 and 56. -/
opaque Config.freeWord : Nat → BitVec 32

/-- SERIAL (Table 19.3): fuses of the module. Notes: assumption 5. -/
opaque Config.serial : BitVec 128

/-- TASTING (Table 19.3): the version of the resident subset. Notes: assumption 5. -/
opaque Config.tasting : BitVec 32

/-- A word of the PCI configuration space whose contents the spec does not give (Table 16.1 names some fields). Notes: assumption 106. -/
opaque Config.configWord : Nat → BitVec 32

/-- A poison mark the spec does not state (R312, R331, R400). Notes: assumptions 5 and 55. -/
opaque Config.freeBit : Nat → Bool

end Sys2Proof
end

