-- ==== Sys2Proof/Machine/CellState.lean ====
section
/-!
DEFINITION. The state of one group and one cell's pipelines, park list, arrival counters, memory path and copy unit
(chapters 3, 4, 5 and 12), as plain data.
-/

namespace Sys2Proof.Machine

/-- Mask-stack entry kinds (Table 3.5). -/
inductive MaskKind where
  | reconv | pending
  deriving DecidableEq, Repr, Inhabited

/-- Mask-stack entry (Table 3.5). -/
structure MaskEntry where
  kind : MaskKind
  pc : BitVec 31
  mask : Word
  deriving DecidableEq, Repr, Inhabited

/-- Why a resident group is not ready, other than a pool or a register awaited (R65, R78, R84, R137, R166). -/
inductive Hold where
  | none
  | lookaside (vpn : Nat)
  | await (counter : Nat) (target : Word)
  | fence (scope : Nat)
  | spill
  | reload
  | epoch
  | unit
  deriving DecidableEq, Repr, Inhabited

/-- A resident group (Table 3.2 and R62 to R64, R86, R94, R118). Registers w are lists of 32 lanes, `[]` for all zero; poison
marks are one bit per lane; each marked register keeps its poison-source address. `ring` is 64 for a group of the Tasting runner. `issued`: it has issued since the last tick (ISSUE_STALL). -/
structure Group where
  ring : Nat
  launch : Nat
  job : Half
  deferred : Bool
  age : Nat
  regBase : Nat
  regs : Nat
  allowance : Nat
  codeBase : DWord
  w : NMap (List Word)
  wPoison : NMap Word
  wSource : NMap DWord
  u : NMap Word
  uPoison : NMap Bool
  uSource : NMap DWord
  p : NMap Word
  active : Word
  stack : List MaskEntry
  spilled : Nat
  pc : BitVec 31
  fetched : List DWord
  awaited : List Nat
  acquire : List Nat
  hold : Hold
  pendingFault : Option (Nat × DWord × DWord)
  replays : Nat
  issued : Bool
  deriving DecidableEq, Repr, Inhabited

/-- Park-record states (Table 3.8); FREE is the absence of a record. -/
inductive ParkState where
  | parked | resolving | held | replay | discard
  deriving DecidableEq, Repr, Inhabited

/-- Park record (Table 3.7). -/
structure ParkRecord where
  stamp : Nat
  addr : DWord
  pc : BitVec 31
  mask : Word
  faultLanes : Word
  job : Half
  epoch : Half
  code : Byte
  detail : Byte
  slot : Nat
  state : ParkState
  replays : Nat
  depth : Nat
  insn : DWord
  deriving DecidableEq, Repr, Inhabited

/-- Register-cache entry (R72), most recently used first in its list; the data are those of the register file (R74). -/
structure RegCacheEntry where
  slot : Nat
  reg : Nat
  dirty : Bool
  keep : Bool
  deriving DecidableEq, Repr, Inhabited

/-- Arrival counter (R162). -/
structure Arrival where
  value : Word
  tag : Half
  deriving DecidableEq, Repr, Inhabited

/-- A window translation as the lookaside and the region window cache hold it (R368): the entry, and the VPN of the indirect
entry it came from. -/
structure Translation where
  vpn : Nat
  job : Half
  home : Nat
  ppn : Nat
  rd : Bool
  wr : Bool
  at_ : Bool
  ex : Bool
  roc : Bool
  via : Option Nat
  deriving DecidableEq, Repr, Inhabited

/-- A sector as a cache or an answer holds it: its 32 bytes and its poison mark. -/
structure SectorData where
  bytes : List Byte
  poison : Bool
  deriving DecidableEq, Repr, Inhabited

/-- A line of L1 or a block cache (R341, R346): the sectors it holds by their index 0 to 3, the class, the tag of a pinned
line, and whether it belongs to a read-only cached window. Lists of lines of one set are most recently used first. -/
structure CacheLine where
  line : Nat
  sectors : NMap SectorData
  cls : Nat
  tag : Half
  roc : Bool
  deriving DecidableEq, Repr, Inhabited

/-- One executing lane of a memory access: its number, fabric address and effective address. -/
structure LaneAddr where
  lane : Nat
  fa : Nat
  ea : DWord
  deriving DecidableEq, Repr, Inhabited

/-- What a pending access does with its data (R152, R159). -/
inductive AccessKind where
  | load (size : Nat) (signed : Bool)
  | atomic (size : Nat)
  | fetch
  deriving DecidableEq, Repr, Inhabited

/-- What a global load asks for: one line or 64-byte range, and its sectors (by fabric address / 32). -/
structure Ask where
  remote : Bool
  unit : Nat
  sectors : List Nat
  roc : Bool
  deriving DecidableEq, Repr, Inhabited

/-- Lines an access could not ask for yet, its cell holding 16 slots against their pseudo-channel (R350), with scope, class and job tag. -/
structure LaterAsks where
  asks : List Ask
  scope : Nat
  cls : Nat
  tag : Half
  deriving DecidableEq, Repr, Inhabited

def LaterAsks.none : LaterAsks := { asks := [], scope := 0, cls := 0, tag := 0 }

/-- A group's load, atomic or instruction fetch whose data are not all there (R152, R153, R159). -/
structure Access where
  slot : Nat
  reg : Nat
  kind : AccessKind
  lanes : List LaneAddr
  waits : List Nat
  later : LaterAsks
  sectors : NMap SectorData
  values : NMap (DWord × Bool)
  deriving DecidableEq, Repr, Inhabited

/-- A group whose access waits for line-miss slots, with its residency and the pseudo-channels it needs them against (R351). -/
structure SlotWait where
  slot : Nat
  age : Nat
  channels : List Nat
  deriving DecidableEq, Repr, Inhabited

/-- What a line-miss slot (P4) stands for. -/
inductive MissKind where
  | line | remoteLoad | atomic | notify
  deriving DecidableEq, Repr, Inhabited

/-- A line-miss slot (R152, R153, R171, R350): its pipeline and group slot, the line or sector or 64-byte range, the sectors
asked for, the accesses joined to it, what the home answered, and, by place in the line, the bytes stored meanwhile into its cell's caches
(`merge`) and into its block's (`blockMerge`); the sectors that atomics have invalidated, or poisoned stores marked, there meanwhile (`drop`, `blockDrop`),
which its fill does not bring back (R343). -/
structure Miss where
  kind : MissKind
  pipeline : Nat
  slot : Nat
  line : Nat
  channel : Option Nat
  sectors : List Nat
  scope : Nat
  cls : Nat
  tag : Half
  roc : Bool
  accesses : List Nat
  answer : Option (NMap SectorData)
  values : NMap (DWord × Bool)
  merge : NMap Byte
  blockMerge : NMap Byte
  drop : List Nat
  blockDrop : List Nat
  notifyTarget : DWord
  amount : Nat
  deriving DecidableEq, Repr, Inhabited

/-- Progress of a copy slot (R180, R184). -/
inductive CopyPhase where
  | moving | notifying | notifySent
  deriving DecidableEq, Repr, Inhabited

/-- A memory command that a copy has still to send (R180, R181), by fabric address: the read of `n` bytes of a source, in one 256-byte granule of
this module's memory (`first`: its request of at most 4 KiB begins there) or as a GET; the write of bytes in one 256-byte unit, by address, with a
mark each. -/
inductive CopyMove where
  | read (fa n : Nat) (first : Bool)
  | write (bytes : NMap Byte) (marks : NMap Bool)
  deriving DecidableEq, Repr, Inhabited

/-- A copy slot (P3, R175 to R188): the descriptor as read at issue, where it stood, the counter, the issuing group's slot and
job tag, the gather rows read at issue, the translations made at issue, the next destination row, the commands to send, the granules it has asked for (by
fabric address / 256), the rows that wait for data and the sectors that have come (by fabric address / 32), the requests still out, what the copy met, the bytes of its ranges that R185
leaves undefined (a local address a as a, a fabric address as 2^19 + it), and the local words it has marked. -/
structure CopySlot where
  descAddr : Nat
  desc : BitVec 512
  counter : Nat
  slot : Nat
  job : Half
  age : Nat
  gather : List Nat
  pages : List Translation
  phase : CopyPhase
  nextRow : Nat
  todo : List CopyMove
  asked : List Nat
  rows : List Nat
  data : NMap SectorData
  waits : List Nat
  poisoned : Bool
  failure : Option (Nat × Nat)
  openBytes : List Nat
  marked : List Nat
  deriving DecidableEq, Repr, Inhabited

end Sys2Proof.Machine
end

