-- ==== Sys2Proof/Machine/MemoryState.lean ====
section
/-!
DEFINITION. The state of the region caches, the stacks, the requests on their way to the homes, the package network, the window caches and the
transaction tables (chapters 1, 12 and 13), as plain data.
-/

namespace Sys2Proof.Machine

/-- A line of a region cache (R341, R346, R348): its region offset / 128, class, pinning job tag, the sectors it holds, those that are
dirty, those whose stack copy is poisoned while its own is good (R357), USES and EXPIRED. The data are those of the module's memory. -/
structure RegionLine where
  line : Nat
  cls : Nat
  tag : Half
  valid : List Nat
  dirty : List Nat
  lost : List Nat
  uses : Nat
  expired : Bool
  deriving DecidableEq, Repr, Inhabited

/-- Who sent a request to a home region cache (R345). -/
inductive HomeSource where
  | cell (cell slot : Nat)
  | copy (cell slot : Nat)
  | host
  | remote (q : RequestPacket)
  deriving DecidableEq, Repr, Inhabited

/-- What a request asks of its home region cache: sectors of a line, a store into one sector of it, a store by place in the line with the
sectors that take a mark, an atomic; and a copy's unit, a granule of 256 bytes, which the home splits into lines (Table 12.4). -/
inductive HomeBody where
  | read (sectors : List Nat)
  | write (sector : Nat) (bytes : NMap Byte) (poison : Bool)
  | store (bytes : NMap Byte) (poison : List Nat)
  | atomic (op : AtomicOp) (signed : Bool) (size : Nat) (lanes : List AtomicLane)
  | granuleRead (sectors : List Nat)
  | granuleStore (bytes : NMap Byte) (poison : List Nat)
  deriving DecidableEq, Repr, Inhabited

/-- How far a request has come, and so which credits it holds (Table 1.5): none in its cell; P5, or P6 for a copy's unit, at the block; P9 or
P10 at its region; P14 or P15, with P17 for the answer, on the package network; none at the home that has accepted it from there. -/
inductive RequestStage where
  | cell | crossbar | network | package | home
  deriving DecidableEq, Repr, Inhabited

/-- A request at, or on its way to, a home region cache: region and line offset (bytes), what it asks, its scope and reuse
class with the tag a pinned line takes, USES of a copy write (none for any other request), the line-miss slot or the transfer it answers,
how far it has come, the requests it may not overtake (R138), whether the address is populated, whether it begins its request (MEM_UNMAPPED counts
it once, R339), and the fill in flight it waits for (R345). -/
structure HomeRequest where
  source : HomeSource
  region : Nat
  line : Nat
  body : HomeBody
  scope : Nat
  cls : Nat
  tag : Half
  uses : Option Nat
  answers : Option Nat
  stage : RequestStage
  after : List Nat
  populated : Bool
  begins : Bool
  joined : Option Nat
  deriving DecidableEq, Repr, Inhabited

/-- The header of a package packet (R18): a request of `homeQueue`; or the answer of request `id` to its cell: the sectors that it read, with
their marks, an atomic's values, or that it is done. -/
inductive PackageHeader where
  | request (id : Nat)
  | sectors (id : Nat) (q : HomeRequest) (sectors poison : List Nat)
  | values (id cell : Nat) (values : NMap (DWord × Bool)) (unchanged : Nat)
  | completion (id cell : Nat)
  deriving DecidableEq, Repr, Inhabited

/-- A package packet (R18): the regions it crosses between, its class, its header and its 128 bytes of data. -/
structure PackagePacket where
  source : Nat
  destination : Nat
  cls : TrafficClass
  header : PackageHeader
  data : List Byte
  deriving DecidableEq, Repr, Inhabited

/-- An arbiter of ranked classes (R16, Table 1.2): for each class that has waited, the grants it was passed over in; and for each, the requester
that was granted last. -/
structure Arbiter where
  passed : NMap Nat
  last : NMap Nat
  deriving DecidableEq, Repr, Inhabited

/-- An access of several lines under way (R374, the host window): whose it is, the physical address and length, whether it reads, the granule of a
GET, the lines it waits for and the sectors that have come (by physical address / 32). -/
structure Transfer where
  source : HomeSource
  base : Nat
  size : Nat
  reads : Bool
  granule : Nat
  waits : List Nat
  data : NMap SectorData
  deriving DecidableEq, Repr, Inhabited

/-- A command at a pseudo-channel (P13, R352): the line it fills or writes back. -/
structure StackCommand where
  region : Nat
  line : Nat
  channel : Nat
  bank : Nat
  row : Nat
  write : Bool
  deriving DecidableEq, Repr, Inhabited

/-- A transaction entry (R377): generation, the request as sent, when, and whose it is: the group and its operation, and the
line-miss slot or copy slot that waits for the answer, and the granules of a GET still to come. -/
structure Transaction where
  generation : Nat
  packet : RequestPacket
  sent : Stamp
  cell : Nat
  slot : Nat
  op : Nat
  miss : Option Nat
  copy : Option Nat
  granules : List Nat
  deriving DecidableEq, Repr, Inhabited

/-- A remote request that a cell holds back until earlier operations are performed (R134), those of `after` at `scope` (R138, R140), with its operation. -/
structure HeldPacket where
  slot : Nat
  op : Nat
  packet : RequestPacket
  miss : Option Nat
  scope : Nat
  after : List Nat
  deriving DecidableEq, Repr, Inhabited

/-- A release to local memory that its cell holds until the operations of `after` are performed at its scope (R138): bytes with marks, or an atomic
with its operation, sign, size and lanes. -/
structure HeldLocal where
  slot : Nat
  scope : Nat
  after : List Nat
  bytes : NMap (Byte × Bool)
  atomic : Option (AtomicOp × Bool × Nat × List AtomicLane)
  deriving DecidableEq, Repr, Inhabited

/-- What one bank of a pseudo-channel has had of errors and spares (R358, R360): rows spared, rows with an uncorrectable error,
and the stamps of each row's corrected errors. -/
structure BankHealth where
  spared : List Nat
  failed : List Nat
  corrected : NMap (List Stamp)
  deriving DecidableEq, Repr, Inhabited

def Arbiter.reset : Arbiter := { passed := [], last := [] }

end Sys2Proof.Machine
end

