-- ==== Sys2Proof/Machine/LinkState.lean ====
section
/-!
DEFINITION. The state of the ports, the Bench, this module's view of the fabric and the collective groups (chapters 13, 14 and 15), as
plain data.
-/

namespace Sys2Proof.Machine

/-- Port states (Table 15.5). -/
inductive PortState where
  | detect | laserCheck | txEq | rxAdapt | fecLock | deskew | identity | join | live | recovery | held | disabled
  deriving DecidableEq, Repr, Inhabited

/-- A receiving lane (R436, Table 15.6): in lock, consecutive good and consecutive bad codewords, the number expected next, failed, failed by
the Bench, the stamps of uncorrectable codewords of the last 1 ms, the corrected symbols of the last 1 s with their stamps. -/
structure Lane where
  locked : Bool
  good : Nat
  bad : Nat
  next : Nat
  failed : Bool
  bench : Bool
  uncorr : List Stamp
  symbols : List (Stamp × Nat)
  deriving DecidableEq, Repr, Inhabited

/-- What IDENTITY exchanged (R447), and whether the partner was last seen JOINED, with its fabric time minus our timebase. -/
structure Partner where
  module : Nat
  incarnation : Nat
  region : Nat
  port : Nat
  joined : Bool
  ahead : Int
  roundTrip : Nat
  deriving DecidableEq, Repr, Inhabited

/-- What a CONTROL flit says (R440): a module's state with its fabric time (R449), a spare request (R452), the start of a recovery (R450). -/
inductive ControlMessage where
  | moduleState (joined : Bool) (fabricTime : Nat)
  | spareReq (logical : Nat)
  | recovery
  deriving DecidableEq, Repr, Inhabited

/-- A sequenced flit held for replay (R442): DATA with its virtual channel, credit class and packets, or CONTROL. -/
structure SentFlit where
  seq : Nat
  vc : Nat
  cred : Nat
  payload : List TransitPacket
  control : Option ControlMessage
  deriving DecidableEq, Repr, Inhabited

/-- Which hop a packet takes from a port (R383 to R385); `direct`: it is for the neighbour and no other (R389, R393). -/
inductive RouteHop where
  | direct | escape | adaptive | detour
  deriving DecidableEq, Repr, Inhabited

/-- A packet that waits at a port (R384): the credit classes it may take there, the first of them first, the hop, and the port and number of the flit
that brought it here. -/
structure WaitingPacket where
  packet : TransitPacket
  classes : List Nat
  hop : RouteHop
  arrived : Option (Nat × Nat)
  deriving DecidableEq, Repr, Inhabited

/-- An accepted flit some of whose packets are not forwarded yet: its number, the pair of its credit and how many (R445). -/
structure InboundFlit where
  seq : Nat
  pair : Nat
  left : Nat
  deriving DecidableEq, Repr, Inhabited

/-- What every flit that is sent says (R440, R445): ACK, and the credit report of one pair. -/
structure FlitReport where
  ack : Nat
  pair : Nat
  total : Nat
  deriving DecidableEq, Repr, Inhabited

/-- A port (chapter 15): state and since when; laser inputs; the lanes still usable in this bring-up; the lane map and standby lane of each
direction; what is being switched; recoveries under way (true in the transmit direction); replay and credits (keys 4 × vc + class): flits sent,
the partner's totals, credits returned, those reported, and the pairs with something to report, the longest waiting first, each with the flits sent meanwhile;
the packets and CONTROL messages that wait, with the arbiter of Table 13.6; the flits whose packets are still here; `wanted`: it is to be enabled
(R495). -/
structure Port where
  state : PortState
  since : Stamp
  laserA : Bool
  laserB : Bool
  dbmA : Int
  dbmB : Int
  goodSince : Option Stamp
  squelched : Bool
  usableTx : Nat
  usableRx : Nat
  txMap : List Nat
  rxMap : List Nat
  txStandby : Option Nat
  rxStandby : Option Nat
  lanes : NMap Lane
  failures : Nat
  partner : Option Partner
  lastRx : Stamp
  spareAsked : Option Nat
  sparing : Option Nat
  recovering : List Bool
  txNext : Nat
  replay : List SentFlit
  rxLast : Nat
  naks : Nat
  nakAt : Option Stamp
  sent : NMap Nat
  total : NMap Nat
  returned : NMap Nat
  told : NMap Nat
  due : List (Nat × Nat)
  queued : List WaitingPacket
  controls : List ControlMessage
  grants : Arbiter
  inbound : List InboundFlit
  benchTx : List Nat
  benchRx : Bool
  darkTx : List Nat
  silenced : Bool
  wanted : Bool
  deriving DecidableEq, Repr, Inhabited

/-- A Bench programme slot (R456, R458, R552). -/
structure Programme where
  image : BitVec 512
  loaded : Bool
  running : Bool
  events : Nat
  skipped : Nat
  ended : Nat
  last : Option Stamp
  deriving DecidableEq, Repr, Inhabited

/-- A WIN_QUERY on its way (R369): who it is for (cell and slot), the page, the job, the server, the indirect entry that names it, and whether
that entry has been changed or removed since (R370). -/
structure WindowQuery where
  cell : Nat
  slot : Nat
  vpn : Nat
  tag : Half
  server : Nat
  via : Nat
  stale : Bool
  deriving DecidableEq, Repr, Inhabited

/-- What this module knows of the fabric (chapter 13): modules declared failed, incarnations known, RSP_TIMEOUT in force and configured
(R379: at the next bring-up), owner tags by page, D in force, when a port first completed IDENTITY, neighbours probed and whether they
answered, window queries, SETUP messages for groups not set up yet, the Fabric Window Table (key: the entry's place in it, see `bucketPlace`), and the
packets here that no live hop takes, each with the flit that brought it. -/
structure Fabric where
  failed : NMap Nat
  known : NMap Nat
  rspTimeoutMs : Nat
  nextTimeoutMs : Nat
  owners : NMap Half
  dim : Nat
  firstIdentity : Option Stamp
  probes : NMap Bool
  queries : List WindowQuery
  early : List SetupMessage
  table : NMap (BitVec 128)
  unrouted : List (TransitPacket × Option (Nat × Nat))
  deriving DecidableEq, Repr, Inhabited

/-- The elements of one segment as the engine holds them (R407, R411): 32-bit patterns in FMT, or codes with block headers; poison per
element; how many segments have come in for it. -/
structure SegmentValue where
  elements : List Word
  poisoned : List Bool
  headers : List BlockHeader
  blocks : Bool
  got : Nat
  deriving DecidableEq, Repr, Inhabited

/-- One send of a collective: to which position, chunk, segment, how many segments must have come in first, whether it carries a complete
sum, and whether it is done. -/
structure SegmentSend where
  dest : Nat
  chunk : Nat
  segment : Nat
  needs : Nat
  final : Bool
  done : Bool
  deriving DecidableEq, Repr, Inhabited

/-- One arrival a collective expects: from which position, chunk and segment, whether it is added or copied, and whether it has come. -/
structure SegmentReceive where
  source : Nat
  chunk : Nat
  segment : Nat
  add : Bool
  done : Bool
  deriving DecidableEq, Repr, Inhabited

/-- An accepted `coll` (R404): the descriptor, the extension, who issued it, its counter, carried epoch and step. -/
structure CollOp where
  desc : BitVec 512
  cell : Nat
  slot : Nat
  job : Half
  epoch : Half
  counter : Option Nat
  step : Word
  recipe : Bool
  deriving DecidableEq, Repr, Inhabited

/-- The collective a group runs: whether its pages are known and it has begun, its sends and arrivals, how many of the arrivals it has sent a
grant for, the values by 2^22 × chunk + segment, the segments in receive halves that wait for the port map, what is written of DST, the
counts of Table 14.5, whether the result holds poison, the last arrival, and how it ends (STATUS and CAUSE). -/
structure CollRun where
  op : CollOp
  started : Bool
  sends : List SegmentSend
  receives : List SegmentReceive
  issued : Nat
  values : NMap SegmentValue
  waiting : List SegmentMessage
  written : List Nat
  scale : Nat
  subst : Bool
  rescales : Nat
  poisonCount : Nat
  poisonSeen : Bool
  maxRaise : Nat
  lastRx : Stamp
  ending : Option (Nat × Nat)
  deriving DecidableEq, Repr, Inhabited

/-- A collective group (R398, R399, Table 14.1): partners that have confirmed, a member that has failed (R415), grants held from each
receiver's position (R407), the queue of accepted collectives and those that wait in their cell, and whether a group or a copy has accessed
the staging area (R400). -/
structure CollGroup where
  tag : Half
  members : List Nat
  pos : Nat
  anchor : Nat
  stage : Nat
  bufs : Nat
  confirmed : List Nat
  lost : Option Nat
  grants : NMap Nat
  queue : List CollOp
  run : Option CollRun
  touched : Bool
  deriving DecidableEq, Repr, Inhabited

/-! ### Reset values -/

def Lane.reset : Lane := { locked := false, good := 0, bad := 0, next := 0, failed := false, bench := false, uncorr := [], symbols := [] }

/-- A port at power-up: DISABLED, as nothing has enabled it (Table 17.7, step 5). -/
def Port.reset : Port :=
  { state := .disabled, since := 0, laserA := true, laserB := true, dbmA := 0, dbmB := 0, goodSince := none, squelched := false
    usableTx := 0, usableRx := 0, txMap := [], rxMap := [], txStandby := none, rxStandby := none, lanes := [], failures := 0
    partner := none, lastRx := 0, spareAsked := none, sparing := none, recovering := [], txNext := 0, replay := [], rxLast := 4095
    naks := 0, nakAt := none, sent := [], total := [], returned := [], told := [], due := [], queued := [], controls := [], grants := Arbiter.reset, inbound := []
    benchTx := [], benchRx := false, darkTx := [], silenced := false, wanted := false }

/-- Tables 19.6 and 19.7, column Reset. -/
def Programme.reset : Programme :=
  { image := 0, loaded := false, running := false, events := 0, skipped := 0, ended := 0, last := none }

/-- RSP_TIMEOUT is 10 ms by default (R377); every owner tag is 0 and every window entry invalid at start-up (R372, R576). -/
def Fabric.reset : Fabric :=
  { failed := [], known := [], rspTimeoutMs := 10, nextTimeoutMs := 10, owners := [], dim := 0, firstIdentity := none, probes := []
    queries := [], early := [], table := [], unrouted := [] }

end Sys2Proof.Machine
end

