-- ==== Sys2Proof/Machine/PlatformState.lean ====
section
/-!
DEFINITION. The state of power, start-up, presence, the host interface, the launch rings and jobs, and what Baker keeps without power
(chapters 2, 16, 17 and 19), as plain data.
-/

namespace Sys2Proof.Machine

/-- Where the module is in its start-up (Table 16.4, R512, R516): STATE follows from this and from `joined`, `debug` and SERVICED. -/
inductive Phase where
  | off | aux | boot | selftest | up | faulted
  deriving DecidableEq, Repr, Inhabited

/-- Module states (Table 16.4). -/
inductive Mode where
  | off | aux | boot | selftest | training | ready | joined | degraded | faulted | service
  deriving DecidableEq, Repr, Inhabited

/-- PACE_n (Table 2.2); `volt` in units of 5 mV. -/
structure PaceRegister where
  volt : Nat
  temp : Byte
  paceMin : Nat
  pace : Nat
  seq : Nat
  throttle : Bool
  lowpace : Bool
  valid : Bool
  deriving DecidableEq, Repr, Inhabited

/-- One region's rails and operating point (R495, R499, R504): rails on, VREQ, the caps VPWR and VTHM, V in force, all in mV; a granted
raise not yet made; the admitted level L above the idle level in mA, an activity raise outstanding. -/
structure RegionPower where
  on : Bool
  stackOn : Bool
  vreq : Nat
  vpwr : Option Nat
  vthm : Option Nat
  volt : Nat
  granted : Option Nat
  level : Nat
  raising : Bool
  pace : PaceRegister
  deriving DecidableEq, Repr, Inhabited

/-- What waits for the fall budget F (R502): a slice held in RUN, or a lowering of a region's activity level. -/
inductive FallItem where
  | slice (cell slice : Nat)
  | level (region : Nat)
  deriving DecidableEq, Repr, Inhabited

/-- The Proofer (R500 to R502): rise and fall budgets in quarter mA, the queue, the last region power-up grant, the fast clamp,
what waits for F, oldest first. -/
structure Proofer where
  rise : Nat
  fall : Nat
  queue : List ProoferObject
  lastRegion : Option Stamp
  clamp : Bool
  held : List FallItem
  deriving DecidableEq, Repr, Inhabited

/-- A threshold of Table 17.6 in force at a sensor: its row, and since when the readings have lain below the release value. -/
structure HotCondition where
  sensor : SensorRef
  row : Nat
  below : Option Stamp
  deriving DecidableEq, Repr, Inhabited

/-- Power and thermal control (R505 to R512). `pwrEn`: PWR_EN_N asserted, since when it has been as it is; `spent` (R512); `tripped`: THERMTRIP_N asserted; `restart`: a module reset has powered the module down and
start-up follows (R516); `resetAt`: when a commanded reset starts. -/
structure Power where
  regions : NMap RegionPower
  proofer : Proofer
  temps : List (SensorRef × Int)
  hot : List HotCondition
  critSince : NMap Stamp
  calm : Nat
  pwrEn : Bool
  pwrEnSince : Stamp
  spent : Bool
  tripped : Bool
  restart : Bool
  resetAt : Option Stamp
  deriving DecidableEq, Repr, Inhabited

/-- Presence (R480, R481, Table 19.6); `jmpAt` and `sealAt`: the tick in which the jumper's or the seal loop's level last changed (R59). -/
structure Presence where
  winStart : Stamp
  winEnd : Stamp
  windowOpen : Bool
  jumper : Bool
  jmpStamp : Nat
  pseq : Nat
  jmpAt : Option Nat
  sealAt : Option Nat
  deriving DecidableEq, Repr, Inhabited

/-- The command a mailbox runs (R474, R476): what the doorbell unit copied; for a command that takes more than one step, how far it is, the
values it will report, the line-miss and copy slots it waits for (cell, identity; a copy's is 2^64 plus its age), and since when it waits. -/
structure Running where
  code : Nat
  seq : Nat
  argLen : Nat
  args : NMap Byte
  stage : Nat
  values : List Nat
  waits : List (Nat × Nat)
  since : Stamp
  deriving DecidableEq, Repr, Inhabited

/-- A mailbox (Table 16.5) with its doorbell (Table 19.5) and its BUSY and DONE bits; mailbox 16 is the out-of-band one (R493).
`report` holds the values of a result whose byte layout the spec does not give. -/
structure Mailbox where
  request : DWord
  ackStatus : Nat
  ackSeq : Nat
  ackCode : Nat
  result : Nat
  resLen : Nat
  doneSeq : Nat
  progress : Nat
  ackTime : Nat
  doneTime : Nat
  args : NMap Byte
  res : NMap Byte
  doorbell : DWord
  busy : Bool
  done : Bool
  running : Option Running
  report : List Nat
  deriving DecidableEq, Repr, Inhabited

/-- The host side: the status word as last rewritten, the endpoint (R461 to R468), the memory window (R465), the SMBus interface (R553,
R554), whether the last start-up ran from the other bank, whether BOOT step 1 has ended since auxiliary power-on (R544), the patrol interval
(R357). -/
structure HostSide where
  status : DWord
  mirrorAddr : DWord
  busMaster : Bool
  aperture : Nat
  winLog2 : Nat
  mailboxes : NMap Mailbox
  smbPointer : Nat
  straps : BitVec 3
  fallback : Bool
  booted : Bool
  scrubHours : Nat
  deriving DecidableEq, Repr, Inhabited

/-- Launch-ring states (Table 16.10); QUIESCED shows while the job's checkpoint runs. -/
inductive RingStatus where
  | free | running | stopped
  deriving DecidableEq, Repr, Inhabited

/-- A launch ring (Table 16.10, R486), with the groups of the record at HEAD that are placed, the launch they belong to, and, while its binding
block is read from another module (R296), the operation that reads it and the bytes that have come. -/
structure Ring where
  status : RingStatus
  tag : Half
  base : Nat
  sizeLog2 : Nat
  cells : BitVec 384
  deferLimit : Nat
  spill : Bool
  head : Nat
  tail : Nat
  error : Nat
  placed : Nat
  launch : Option Nat
  binding : Option (Nat × List Byte)
  deriving DecidableEq, Repr, Inhabited

/-- A launch whose groups are placed or being placed (R489): the notify it owes, the ring owner's region, whether all its groups are placed,
the cells that have its binding block (R296), and the retired groups' cells and owners. -/
structure Launch where
  tag : Half
  target : DWord
  inc : Nat
  region : Nat
  complete : Bool
  bound : List Nat
  retired : List (Nat × Nat × Nat)
  deriving DecidableEq, Repr, Inhabited

/-- A checkpoint under way (Table 14.7): the mailbox, the phase, when it started and its timeout in ms. -/
structure Checkpoint where
  mailbox : Nat
  phase : Nat
  started : Stamp
  timeout : Nat
  drained : Nat
  deriving DecidableEq, Repr, Inhabited

/-- What the module holds of a job (R309, R419): the layout epoch while a ring of its tag has been created, the Recipe property, the
checkpoint under way. -/
structure Job where
  epoch : Option Half
  recipe : Bool
  checkpoint : Option Checkpoint
  deriving DecidableEq, Repr, Inhabited

/-- A segment of a vector record (R314): local address, data, and its poison map where it has one. -/
structure TastingSegment where
  addr : Nat
  bytes : List Byte
  marks : Option (List Bool)
  deriving DecidableEq, Repr, Inhabited

/-- A vector record (Table 10.7): VID, UNIT, FLAGS, the instruction words, the expected counter changes, the input and the expected segments. -/
structure TastingVector where
  vid : Nat
  unit : Nat
  flags : Nat
  insn : List DWord
  counts : List Nat
  inputs : List TastingSegment
  expected : List TastingSegment
  deriving DecidableEq, Repr, Inhabited

/-- A vector under way on a cell (R315): the words still to issue, and the counters as they were. -/
structure TastingVectorRun where
  cell : Nat
  age : Nat
  vector : TastingVector
  words : List DWord
  before : List Nat
  deriving DecidableEq, Repr, Inhabited

/-- A Tasting run (R317): its mailbox, the cells it reserves, whether it refused one, the records still to run (each with the RECIPE bit of its file),
those under way, the totals and the mismatch records. -/
structure Tasting where
  mailbox : Nat
  cells : List Nat
  refused : Bool
  limit : Nat
  work : List (TastingVector × Bool)
  running : List TastingVectorRun
  passed : Nat
  failed : Nat
  skipped : Nat
  records : List (List Nat)
  deriving DecidableEq, Repr, Inhabited

/-- Cell map of a block (Table 19.4): physical slot of each logical cell, the unused spare, the slots marked failed. -/
structure CellMap where
  slots : List Nat
  spare : Option Nat
  failed : List Nat
  deriving DecidableEq, Repr, Inhabited

/-- An event Baker reports at the next start-up (R496, R510, R579): log sub-case, stamp, D1 to D3. -/
structure Latched where
  sub : Nat
  stamp : Nat
  d1 : Nat
  d2 : Nat
  d3 : Nat
  deriving DecidableEq, Repr, Inhabited

/-- What Baker keeps without power, and fuses (R576): ILV_SIZE, retired pages, module number, D, incarnation, LIMIT, cell maps, lane
failures by their stamps and retired lanes (R454), the firmware banks, seal and presence fuses with the last level of the seal
loop read (R482), the customer fuses, the latched trip and the events to report. Spared rows stand in `banks`. -/
structure NonVolatile where
  ilvGib : Nat
  retiredPages : List Nat
  module : Nat
  dim : Nat
  incarnation : Nat
  limit : Nat
  cellMaps : NMap CellMap
  laneFailures : NMap (List Stamp)
  retiredLanes : List Nat
  bank0 : Nat
  bank1 : Nat
  active : Nat
  staged : Bool
  rollback : Nat
  serviceBlown : Nat
  rearmBlown : Nat
  sealClosed : Bool
  fuses : NMap Word
  trip : Bool
  latched : List Latched
  deriving DecidableEq, Repr, Inhabited

/-- The time service (R47 to R51, R389, R390): Table 2.4's fields, what is left to slew and the ticks since the last slewed one, the parent
port, this module's hop count, when a time message last came, and what each port's neighbour said of itself. -/
structure TimeService where
  synced : Bool
  holdover : Bool
  stepped : Bool
  outOfTol : Bool
  offset : Int
  master : Nat
  slew : Int
  sinceSlew : Nat
  parent : Option Nat
  hops : Nat
  lastService : Stamp
  neighbours : NMap TimeProbe
  deriving DecidableEq, Repr, Inhabited

/-! ### Reset values (auxiliary power-on; assumption 2 names those the spec does not give) -/

/-- Table 2.2, column Reset; rails off; VREQ 0.75 V (R504). -/
def PaceRegister.reset : PaceRegister :=
  { volt := 0, temp := 0, paceMin := 0xFFFF, pace := 0, seq := 0, throttle := false, lowpace := false, valid := false }
def RegionPower.reset : RegionPower :=
  { on := false, stackOn := false, vreq := 750, vpwr := none, vthm := none, volt := 0, granted := none, level := 0, raising := false
    pace := PaceRegister.reset }

/-- A is 2,500 mA and F 5,000 mA at PWR_GOOD (R500, R502). -/
def Proofer.full : Proofer := { rise := 10000, fall := 20000, queue := [], lastRegion := none, clamp := false, held := [] }
def Power.reset : Power :=
  { regions := [], proofer := Proofer.full, temps := [], hot := [], critSince := [], calm := 0, pwrEn := false, pwrEnSince := 0
    spent := false, tripped := false, restart := false, resetAt := none }
def Presence.reset : Presence := { winStart := 0, winEnd := 0, windowOpen := false, jumper := false, jmpStamp := 0, pseq := 0, jmpAt := none, sealAt := none }

/-- Table 16.5, column Reset. -/
def Mailbox.reset : Mailbox :=
  { request := 0, ackStatus := 0, ackSeq := 0, ackCode := 0, result := 0, resLen := 0, doneSeq := 0, progress := 0, ackTime := 0
    doneTime := 0, args := [], res := [], doorbell := 0, busy := false, done := false, running := none, report := [] }

/-- Tables 16.2, 19.2 and 19.3, column Reset: STATE reads AUX, the window is 16 GiB. -/
def HostSide.reset : HostSide :=
  { status := 0x0001000000000000, mirrorAddr := 0, busMaster := false, aperture := 0, winLog2 := 34, mailboxes := [], smbPointer := 0
    straps := 0, fallback := false, booted := false, scrubHours := 24 }

/-- Table 16.10, column Reset. -/
def Ring.reset : Ring :=
  { status := .free, tag := 0, base := 0, sizeLog2 := 0, cells := 0, deferLimit := 0, spill := false, head := 0, tail := 0, error := 0
    placed := 0, launch := none, binding := none }
def Job.reset : Job := { epoch := none, recipe := false, checkpoint := none }
def CellMap.reset : CellMap := { slots := [0, 1, 2, 3, 4, 5], spare := some 6, failed := [] }

/-- As the module leaves the factory: ILV_SIZE 0 (R335), LIMIT 2,400 W (R505), nothing remapped, no fuse blown; bank 0 holds the running
firmware. -/
def NonVolatile.reset : NonVolatile :=
  { ilvGib := 0, retiredPages := [], module := 0, dim := 0, incarnation := 0, limit := 2400, cellMaps := [], laneFailures := []
    retiredLanes := [], bank0 := 2 ^ 48, bank1 := 0, active := 0, staged := false, rollback := 0, serviceBlown := 0, rearmBlown := 0
    sealClosed := false, fuses := [], trip := false, latched := [] }

/-- Table 2.4, column Reset. -/
def TimeService.reset : TimeService :=
  { synced := false, holdover := false, stepped := false, outOfTol := false, offset := 0, master := 0, slew := 0, sinceSlew := 1000
    parent := none, hops := 0, lastService := 0, neighbours := [] }

end Sys2Proof.Machine
end

