-- ==== Sys2Proof/Machine/TelemetryState.lean ====
section
/-!
DEFINITION. The state of the alarm, log, trace and counter paths (chapter 18), as plain data.
-/

namespace Sys2Proof.Machine

/-- The counters of the manual, in the order of Table 18.10's bases (R541). -/
inductive Counter where
  | issueStall | unitStall | blockStall | regionStall | channelStall | packageStall | vcStall | awaitStall
  | parkCount | epochHold | lmReplay | atomSerial | atomPoison | notifyRejectIn | notifyRejectOut | notifyLost
  | copyDone | copyPoison | copyError | gatherDrop | copySat | copyNanZero | copyMxNan | copyMxRescale | mmaDone
  | arrayWaves | arrayPassWait | arrayPoison | arrayRamps | rampWait | sliceFaults | drainDone | drainWait
  | drainPoison | drawerDiscard | drawerLong | chainDone | chainColl | chainSat | chainNanZero | chainNan
  | chainEmpty | chainIgnored | chainPoison | chainHazard | sieveValues | tapWait | stepStale | sieveBankWait
  | satDirect | scaleWait | scaleUpdates | scaleEvents | sparseTiles | denseTiles | sparseDrop | sparseBad
  | spkDense | sglCap | l1Hit | l1Miss | bcHit | bcMiss | rcHit | rcMiss | rcWriteback | pinOverflow | expiredEvict
  | rcSetWait | cellChannelWait | cacheParity | memCe | memUe | memPoisonRead | memUnmapped | scrubSectors
  | rowSpared | wcHit | wcMiss | winQueries | homeReject | remoteLost | rspLate | txnWait | routeAdaptive
  | routeDetour | routeDrop | flitStranded | peerDeclared | colDone | colFailed | colSegments | colRescale
  | colPoisonBlocks | colEpochDrop | colAlgSubst | lateReport | ringStalls | fecCw | fecSym | fecUncorr | crcFail
  | flitBad | nakSent | replayFlits | replayFull | recoveries | laneSpared | halfWidth | linkDowns | bringupFails
  | benchEvents | benchSkipped | prooferGrants | prooferWait | prooferQmax | stopHold | clamps | powerCapped
  | thermalCapped | inputDips | doorbellIgnored | ackRefused | hostRefused | smbPecFail | lmCe | lmUe | regParity
  | chainHwErr | pkgRetry | remaps | alarmsRaised | alarmsMerged | logRecords | logDrop | traceDrop | summaries
  | flagEvents | paceLow | timeOot | timeSteps | recoveryEvents
  deriving DecidableEq, Repr, Inhabited

/-- An alarm occurrence on its way to Baker's table (R527), or several of one code and source merged at the source (R33). -/
structure AlarmOccurrence where
  code : Nat
  kind : Nat
  source : Nat
  detail : Nat
  stamp : Nat
  last : Nat
  count : Nat
  deriving DecidableEq, Repr, Inhabited

/-- Alarm record (Table 18.3). -/
structure AlarmRecord where
  first : Nat
  last : Nat
  count : Nat
  code : Nat
  kind : Nat
  source : Nat
  detail : Nat
  deriving DecidableEq, Repr, Inhabited

/-- Log record (Table 18.6) but for SEQ; `d` holds D0 to D4. -/
structure LogRecord where
  stamp : Nat
  type : Nat
  kind : Nat
  source : Nat
  job : Half
  d : List Nat
  deriving DecidableEq, Repr, Inhabited

/-- Loss entry of a region buffer (R533): records discarded since the last loss record, stamps of the first and the last, and
when the last loss record was written. -/
structure LossEntry where
  count : Nat
  first : Nat
  last : Nat
  written : Option Stamp
  deriving DecidableEq, Repr, Inhabited

/-- What one sender discarded or merged in one window, for one source kind (R538). -/
structure DropCount where
  start : Nat
  logs : Nat
  traces : Nat
  merged : Nat
  deriving DecidableEq, Repr, Inhabited

/-- Trace configuration and host ring (R536). -/
structure TraceConfig where
  mask : Nat
  limits : List Nat
  ringAddr : Nat
  ringLog2 : Nat
  write : Nat
  read : Nat
  used : NMap Nat
  period : Stamp
  deriving DecidableEq, Repr, Inhabited

/-- The events counted in the tick with stamp `at_`, by selector (R542: those of the tick of a clear count after it). -/
structure TickEvents where
  at_ : Nat
  counts : NMap Nat
  deriving DecidableEq, Repr, Inhabited

/-- The telemetry state. Counters are keyed by their 32-bit selector (R541); `unitRest` holds the events
short of a unit of the counters that count in units; `ticked` the events of the tick of the last of them (R542). `episodes` holds the conditions of episode alarms
that are current, as (code, kind, source, unit). `w1cSets`: the stamp of the last set event of each W1C field (R530), keyed by the bit of
ERR_FLAGS, 16 + region for LOWPACE, 32 for OUT_OF_TOL and 33 for STEPPED. Log messages on their way carry their region, 8 for Baker's own. Baker's own buffer is number 8. `windows`: how many windows each
sender has ended; window k of n ns is [n × k, n × (k + 1)) past `windowBase`, which moves with a step of the timebase (R48); `drops` are keyed by
256 × window + 16 × sender + source kind, `start` its window. -/
structure Telemetry where
  counters : NMap Nat
  unitRest : NMap Nat
  errFlags : Nat
  w1cSets : NMap Nat
  ticked : TickEvents
  alarmPath : List AlarmOccurrence
  alarms : List AlarmRecord
  reserved : NMap AlarmRecord
  episodes : List (Nat × Nat × Nat × Nat)
  mergeEpisode : Bool
  logPath : List (Nat × LogRecord)
  buffers : NMap (List LogRecord)
  losses : NMap LossEntry
  nextBuffer : Nat
  logNext : Nat
  logRing : NMap (Nat × LogRecord)
  windows : NMap Nat
  windowBase : Int
  drops : NMap DropCount
  trace : TraceConfig
  deriving DecidableEq, Repr, Inhabited

end Sys2Proof.Machine
end

