-- ==== Sys2Proof/Machine/UnitState.lean ====
section
/-!
DEFINITION. The state of a cell's matrix array, chain unit, Sieve tap and scale cache, and of the module's scale table
(chapters 7 to 11), as plain data.
-/

namespace Sys2Proof.Machine

/-- Which group: its slot and its residency age, which no other group of the cell has had. -/
structure Owner where
  slot : Nat
  age : Nat
  deriving DecidableEq, Repr, Inhabited

/-- Ramp states of a slice (Table 7.10). -/
inductive Ramp where
  | idle | waitGrant | start | run | stop
  deriving DecidableEq, Repr, Inhabited

/-- Drawer states (Table 8.1). -/
inductive DrawerStatus where
  | closed | opened | draining
  deriving DecidableEq, Repr, Inhabited

/-- What the accepted instructions leave of a drawer (R241): state, owner, folds and kind (`int` for I32), and the `dopn` that opened
it (R87). -/
structure DrawerIssue where
  status : DrawerStatus
  owner : Owner
  mf : Nat
  nf : Nat
  int : Bool
  insn : DWord
  addr : DWord
  deriving DecidableEq, Repr, Inhabited

/-- One entry (R247): the stack levels that hold a value, the outer accumulator, the poison mark. Values are S32 patterns, or
48-bit patterns for KIND I32. -/
structure DrawerEntry where
  stack : NMap Nat
  outer : Option Nat
  poison : Bool
  deriving DecidableEq, Repr, Inhabited

/-- A drawer as the executed instructions leave it (R245, R250); entries are keyed 256 × r + c (R222 gives their place). -/
structure Drawer where
  opened : Bool
  owner : Owner
  mf : Nat
  nf : Nat
  int : Bool
  preloaded : Bool
  chunks : Nat
  krem : Nat
  long : Bool
  entries : NMap DrawerEntry
  deriving DecidableEq, Repr, Inhabited

/-- The instructions of the array (Tables 7.3, 7.8, 8.2) with the descriptors read at issue; a drain keeps the step it belongs to
(R305). -/
inductive ArrayKind where
  | mma (a b : BitVec 256) (shape : BitVec 64)
  | opn (desc : BitVec 256)
  | drn (desc : BitVec 512) (step : Word)
  | cls
  | qry (dst : Nat)
  | slc (op : Nat) (b : Word) (dst : Nat)
  deriving DecidableEq, Repr, Inhabited

/-- What a chain instruction or a drain counts (Tables 8.10, 9.13 and 11.9) and the sticky bits it sets (R269). -/
structure ChainCounts where
  sat : Nat
  nanZero : Nat
  nan : Nat
  empty : Nat
  ignored : Nat
  poison : Bool
  stickyNan : Bool
  drops : Nat
  dense : Nat
  capped : Nat
  deriving DecidableEq, Repr, Inhabited

/-- A write of a unit to local memory: address, bytes, and which bytes lie in words that take a poison mark. -/
structure LocalWrite where
  addr : Nat
  bytes : List Byte
  marks : List Bool
  deriving DecidableEq, Repr, Inhabited

/-- An accepted array instruction that has not completed: `begun` is operand release of an mma, the start of a drain. `inputs` and
`outputs` are its ranges (start, length) in local memory, `openBytes` the bytes of them that R230 and R262 leave undefined. A drain
that has begun holds what it will write, feed to the Sieve and count. -/
structure ArrayOp where
  kind : ArrayKind
  slice : Nat
  drawer : Nat
  owner : Owner
  insn : DWord
  addr : DWord
  counter : Option Nat
  begun : Bool
  inputs : List (Nat × Nat)
  outputs : List (Nat × Nat)
  openBytes : List Nat
  writes : List LocalWrite
  feeds : List Num
  counts : ChainCounts
  deriving DecidableEq, Repr, Inhabited

/-- A slice (R233, R237): ramp state, enabled rows, who has claimed it, whether it is resetting, its drawers. -/
structure Slice where
  ramp : Ramp
  rows : Nat
  claimed : Option Owner
  resetting : Bool
  issue : NMap DrawerIssue
  drawers : NMap Drawer
  deriving DecidableEq, Repr, Inhabited

/-- The instructions of the chain unit (R267, R330) with their descriptors and the extension words. -/
inductive ChainKind where
  | chn (desc : BitVec 512) (kd : Bool)
  | spk (desc : BitVec 512)
  | sgl (desc : BitVec 256)
  | sxp (desc : BitVec 512)
  deriving DecidableEq, Repr, Inhabited

/-- An accepted chain instruction (R270, R273): once its inputs have been read, the scale it took, what it will write and count, and
whether it will mark all of its outputs (R333). -/
structure ChainOp where
  kind : ChainKind
  x1 : DWord
  x2 : DWord
  owner : Owner
  counter : Option Nat
  step : Word
  begun : Bool
  scale : Option Nat
  writes : List LocalWrite
  counts : ChainCounts
  markAll : Bool
  deriving DecidableEq, Repr, Inhabited

/-- Counts of one tensor tag or one slot (Table 10.1): bins 0 to 63, and EXP_MAX. -/
structure Histogram where
  bins : NMap Nat
  zero : Nat
  inf : Nat
  nan : Nat
  sat : Nat
  expMax : Option Int
  deriving DecidableEq, Repr, Inhabited

/-- Binding-table entry (Table 10.2) with the job tag outside it (R296); BIN_LO is its two's complement value. -/
structure Binding where
  valid : Bool
  binLo : Int
  slot : Nat
  job : Half
  deriving DecidableEq, Repr, Inhabited

/-- A histogram bank (R297, R302): the step, the tags, the saturation entries keyed by slot, and, once frozen, the slots its tags
fed. -/
structure Bank where
  step : Word
  tags : NMap Histogram
  sats : NMap Nat
  slots : NMap Nat
  deriving DecidableEq, Repr, Inhabited

/-- The Sieve tap of a cell: current step, counting bank, frozen bank, bindings and those that wait for the next step. -/
structure Sieve where
  step : Word
  counting : Bank
  frozen : Option Bank
  bindings : NMap Binding
  waiting : NMap Binding
  deriving DecidableEq, Repr, Inhabited

/-- A cached scale (R305): FMT, X, STEP and the last step the answer serves. -/
structure CachedScale where
  slot : Nat
  fmt : Nat
  x : Nat
  step : Word
  upTo : Word
  deriving DecidableEq, Repr, Inhabited

/-- A cell's request for a scale (R305): the step it is for, and the answer on its way. -/
structure ScaleAsk where
  step : Word
  answer : Option CachedScale
  deriving DecidableEq, Repr, Inhabited

/-- Scale-table slot (Table 10.3) with its histogram area (R299). HIST holds 64 bytes; CORR is that of the oldest merge. `done` is the
last step completed, `lateSat`, `lateSats` and `lateCorr` are reports that came after the update of their step (R302, R413), and `restart` says that
a configuration makes X INIT_X at the next update (R308). -/
structure ScaleSlot where
  dynamic : Bool
  fmt : Nat
  hlen : Nat
  head : Nat
  initX : Nat
  binLo : Int
  x : Nat
  pen : Nat
  satStep : Bool
  step : Word
  hist : List Byte
  area : Histogram
  done : Option Word
  lateSat : Bool
  lateSats : Nat
  lateCorr : Nat
  restart : Bool
  deriving DecidableEq, Repr, Inhabited

/-- What has come to a slot's home for a step that is not updated yet (R298, R299, R303): whether a cell participated, when the first
participant passed it, the sums, a saturation, the largest late rescale, and whether the stall alarm stands. -/
structure SlotMerge where
  participated : Bool
  since : Stamp
  sums : Histogram
  saturated : Bool
  corr : Nat
  stalled : Bool
  deriving DecidableEq, Repr, Inhabited

/-- The scale table and what is on its way to it: saturations sent at once (R302), and late rescales with the mark of a poisoned block
(R413). Merges are keyed by slot × 2^32 + step. -/
structure ScaleTable where
  slots : NMap ScaleSlot
  merges : NMap SlotMerge
  saturations : List (Nat × Word)
  rescales : List (Nat × Word × Nat × Bool)
  deriving DecidableEq, Repr, Inhabited

/-! ### Reset values -/

def Histogram.reset : Histogram := { bins := [], zero := 0, inf := 0, nan := 0, sat := 0, expMax := none }
def Bank.reset : Bank := { step := 0, tags := [], sats := [], slots := [] }
def Sieve.reset : Sieve := { step := 0, counting := Bank.reset, frozen := none, bindings := [], waiting := [] }

/-- Table 10.3, column Reset. -/
def ScaleSlot.reset : ScaleSlot :=
  { dynamic := false, fmt := 3, hlen := 15, head := 1, initX := 127, binLo := -48, x := 127, pen := 0, satStep := false, step := 0
    hist := List.replicate 64 0xFF, area := Histogram.reset, done := none, lateSat := false, lateSats := 0, lateCorr := 0, restart := false }
def ScaleTable.reset : ScaleTable := { slots := [], merges := [], saturations := [], rescales := [] }

/-- A slice at power-up (R234, R237, R240). -/
def Slice.reset : Slice := { ramp := .idle, rows := 0, claimed := none, resetting := false, issue := [], drawers := [] }
def Drawer.reset : Drawer :=
  { opened := false, owner := { slot := 0, age := 0 }, mf := 0, nf := 0, int := false, preloaded := false, chunks := 0, krem := 0, long := false
    entries := [] }
def DrawerIssue.reset : DrawerIssue := { status := .closed, owner := { slot := 0, age := 0 }, mf := 0, nf := 0, int := false, insn := 0, addr := 0 }

end Sys2Proof.Machine
end

