-- ==== Sys2Proof/Machine/State.lean ====
section
/-!
DEFINITION. The state of the module as plain data, the reasons a step can stop, and the state after reset.
-/

namespace Sys2Proof.Machine

/-- Why a step stops with a fault. -/
inductive Fault where
  /-- A register write set reserved bits of a writable register to a non-zero value: R10 leaves the behaviour undefined.
  Raised by REGISTER_WRITE, SMB_BLOCK_WRITE and OOB_DOORBELL_WRITE. Safe: the hardware may go on, the model stops. -/
  | reservedWritten
  deriving DecidableEq, Repr

/-- Why a step is refused. -/
inductive Refusal where
  /-- The command has no meaning in the model yet. Raised by no meaning, only by an arm of exec. Safe. -/
  | notModelled (mnemonic : String)
  deriving DecidableEq, Repr

/-- A ring watchdog of an arrival counter (R423): its period in ms, since when groups have waited with no increment, and whether this stall
has raised its alarm. -/
structure Watch where
  period : Nat
  since : Option Stamp
  fired : Bool
  deriving DecidableEq, Repr, Inhabited

/-- One cell (Table 1.1). `colls` counts the P3 slots that collectives hold (R404); `nextAge`
numbers the residencies of its groups (R64); `slotWaits` are the groups that wait for line-miss slots, first held first (R351); `port` holds the
collective groups of the descriptors in the chain unit's collective port, and `portTurn` says that the unit began group work last (R272). -/
structure Cell where
  groups : NMap Group
  localMem : List Host.Cell
  localPoison : NMap Bool
  arrivals : NMap Arrival
  parkList : NMap ParkRecord
  regCache : NMap (List RegCacheEntry)
  deferLimit : Nat
  reservation : Bool
  lastJob : Half
  epochs : NMap Half
  lookaside : List Translation
  l1 : NMap (List CacheLine)
  misses : NMap Miss
  accesses : NMap Access
  copies : NMap CopySlot
  held : NMap HeldPacket
  heldLocal : NMap HeldLocal
  slotWaits : List SlotWait
  sliceCount : Nat
  slices : NMap Slice
  array : NMap ArrayOp
  chain : NMap ChainOp
  sticky : NMap Nat
  sieve : Sieve
  scaleCache : List CachedScale
  scaleAsks : NMap ScaleAsk
  retiring : Bool
  sliceFaults : List Stamp
  residueErrors : List Stamp
  watch : NMap Watch
  colls : Nat
  port : List Nat
  portTurn : Bool
  nextAge : Nat
  deriving DecidableEq, Repr, Inhabited

/-- A cell after power-up (Tables 3.2, 3.7, 5.8; R67: DEFER_LIMIT 4; R79: no reservation). -/
def Cell.reset : Cell :=
  { groups := [], localMem := [], localPoison := [], arrivals := [], parkList := [], regCache := [], deferLimit := 4,
    reservation := false, lastJob := 0, epochs := [], lookaside := [], l1 := [], misses := [], accesses := [],
    copies := [], held := [], heldLocal := [], slotWaits := [], sliceCount := 1, slices := [], array := [], chain := [], sticky := [], sieve := Sieve.reset,
    scaleCache := [], scaleAsks := [], retiring := false, sliceFaults := [], residueErrors := [], watch := [],
    colls := 0, port := [], portTurn := false, nextAge := 0 }

/-- One block (Table 1.1): fenced, the cell whose uncontained failure fenced it (R519), its cache, the arbiter of its crossbar (Table 1.2). -/
structure Block where
  fenced : Bool
  failedCell : Option Nat
  cache : NMap (List CacheLine)
  crossbar : Arbiter
  sums : NMap Histogram
  deriving DecidableEq, Repr, Inhabited

def Block.reset : Block := { fenced := false, failedCell := none, cache := [], crossbar := Arbiter.reset, sums := [] }

/-- One region (Table 1.1); `off`: powered down by command (0x0103); `retries`: resends of the packet under way to another region
(Table 18.1); the arbiters of its network and, by class, of the package-network output into it (Table 1.2). -/
structure Region where
  fenced : Bool
  off : Bool
  retries : NMap Nat
  windowCache : NMap (List Translation)
  cache : NMap (List RegionLine)
  txns : NMap Transaction
  generations : NMap Nat
  network : Arbiter
  output : Arbiter
  deriving DecidableEq, Repr, Inhabited

def Region.reset : Region := { fenced := false, off := false, retries := [], windowCache := [], cache := [], txns := [], generations := [], network := Arbiter.reset, output := Arbiter.reset }

/-- What leaves on one link (chapter 15): a sequenced flit, an IDLE or a NAK with the next sequence number (Table 15.3), each with its ACK and credit
report (R440, R445) and perhaps damaged by the Bench; and altered symbols of a codeword (R457). -/
inductive LinkMessage where
  | flit (f : SentFlit) (r : FlitReport) (damaged : Bool)
  | idle (next : Nat) (r : FlitReport) (damaged : Bool)
  | nak (next : Nat) (r : FlitReport) (damaged : Bool)
  | symbols (lane number count : Nat)
  deriving DecidableEq, Repr, Inhabited

/-- Packets to another module that are neither a request nor its answer (chapters 13 and 14). Their virtual channels are those of their kinds
(`PacketKind.vc`): VC3 for window service, VC0 for the messages of collectives, VC4 + group for a segment. -/
inductive FabricMessage where
  | winQuery (vpn : Nat) (tag : Half)
  | winReply (vpn : Nat) (tag : Half) (entry : Option (BitVec 128))
  | setup (m : SetupMessage)
  | segment (m : SegmentMessage)
  | segGrant (group : Nat)
  | colAbort (group : Nat)
  deriving DecidableEq, Repr, Inhabited

/-- What leaves the block of its own accord (the model's interface, oldest first): fabric requests (VC1) and answers (VC2) and messages to a
module, which the commands PACKET_ROUTE take to a port, what leaves on a link, DMA writes to host memory (bytes, or a report whose layout the spec does not give), completions of host reads, and SMBus
data. -/
inductive Output where
  | request (q : RequestPacket)
  | answer (a : AnswerPacket) (dest : Nat)
  | link (port : Nat) (m : LinkMessage)
  | fabric (destination : Nat) (m : FabricMessage)
  | package (p : PackagePacket)
  | hostWrite (addr : Nat) (bytes : List Byte)
  | hostReport (addr : Nat) (values : List Nat)
  | completion (bytes : List Byte) (poisoned : Bool)
  | unsupported
  | retry
  | config (offset : Nat) (value : Option (BitVec 32))
  | smbus (bytes : List Byte)
  | nack
  deriving DecidableEq, Repr, Inhabited

/-- The module. `pending` is the queue of waiting commands, `out` what the module has sent to the outside, oldest first, and
`freeCount` the number of free values drawn so far; `codeWrites` holds, for each 2 MiB page of the module's memory that has been written, the
`nextId` of its last write (R144). -/
structure State where
  pending : List Instr
  out : List Output
  freeCount : Nat
  nextId : Nat
  timebase : Nat
  moduleNumber : Nat
  cells : NMap Cell
  blocks : NMap Block
  regions : NMap Region
  mem : List Host.Cell
  memPoison : NMap Bool
  codeWrites : NMap Nat
  homeQueue : NMap HomeRequest
  stackQueue : NMap StackCommand
  package : NMap PackagePacket
  transfers : NMap Transfer
  banks : NMap BankHealth
  fabric : Fabric
  scale : ScaleTable
  nv : NonVolatile
  tel : Telemetry
  phase : Phase
  joined : Bool
  debug : Bool
  power : Power
  presence : Presence
  host : HostSide
  rings : NMap Ring
  launches : NMap Launch
  jobs : NMap Job
  tasting : Option Tasting
  time : TimeService
  ports : NMap Port
  bench : NMap Programme
  groups : NMap CollGroup
  deriving DecidableEq, Repr, Inhabited

def Telemetry.reset : Telemetry :=
  { counters := [], unitRest := [], errFlags := 0, w1cSets := [], ticked := { at_ := 0, counts := [] }, alarmPath := [], alarms := [], reserved := [], episodes := [], mergeEpisode := false,
    logPath := [], buffers := [], losses := [], nextBuffer := 0, logNext := 1, logRing := [], windows := [], windowBase := 0, drops := [],
    trace := { mask := 0, limits := [], ringAddr := 0, ringLog2 := 0, write := 0, read := 0, used := [], period := 0 } }

/-- Right after auxiliary power-on: AUX, the timebase at 0 (R48, R512, R544). -/
def State.reset : State :=
  { pending := [], out := [], freeCount := 0, nextId := 0, timebase := 0, moduleNumber := 0, cells := [], blocks := [], regions := [], mem := [],
    memPoison := [], codeWrites := [], homeQueue := [], stackQueue := [], package := [], transfers := [], banks := [], fabric := Fabric.reset, scale := ScaleTable.reset, nv := NonVolatile.reset, tel := Telemetry.reset,
    phase := .aux, joined := false, debug := false, power := Power.reset, presence := Presence.reset, host := HostSide.reset, rings := [],
    launches := [], jobs := [], tasting := none, time := TimeService.reset, ports := [], bench := [], groups := [] }

end Sys2Proof.Machine
end

