-- ==== Sys2Proof/Machine/Flags.lean ====
section
/-!
DEFINITION. Counters, the sticky error flags, and the alarm, log and event reports that every unit makes (chapter 18).
-/

namespace Sys2Proof.Machine

/-- The code of a counter: the base of its table plus its position there (R541, Table 18.10). -/
def Counter.code (c : Counter) : Nat :=
  match c with
  | .issueStall => 0x00
  | .unitStall => 0x01
  | .blockStall => 0x02
  | .regionStall => 0x03
  | .channelStall => 0x04
  | .packageStall => 0x05
  | .vcStall => 0x06
  | .awaitStall => 0x07
  | .parkCount => 0x10
  | .epochHold => 0x11
  | .lmReplay => 0x18
  | .atomSerial => 0x19
  | .atomPoison => 0x1A
  | .notifyRejectIn => 0x1B
  | .notifyRejectOut => 0x1C
  | .notifyLost => 0x1D
  | .copyDone => 0x1E
  | .copyPoison => 0x1F
  | .copyError => 0x20
  | .gatherDrop => 0x21
  | .copySat => 0x28
  | .copyNanZero => 0x29
  | .copyMxNan => 0x2A
  | .copyMxRescale => 0x2B
  | .mmaDone => 0x30
  | .arrayWaves => 0x31
  | .arrayPassWait => 0x32
  | .arrayPoison => 0x33
  | .arrayRamps => 0x34
  | .rampWait => 0x35
  | .sliceFaults => 0x36
  | .drainDone => 0x38
  | .drainWait => 0x39
  | .drainPoison => 0x3A
  | .drawerDiscard => 0x3B
  | .drawerLong => 0x3C
  | .chainDone => 0x40
  | .chainColl => 0x41
  | .chainSat => 0x42
  | .chainNanZero => 0x43
  | .chainNan => 0x44
  | .chainEmpty => 0x45
  | .chainIgnored => 0x46
  | .chainPoison => 0x47
  | .chainHazard => 0x48
  | .sieveValues => 0x50
  | .tapWait => 0x51
  | .stepStale => 0x52
  | .sieveBankWait => 0x53
  | .satDirect => 0x54
  | .scaleWait => 0x55
  | .scaleUpdates => 0x56
  | .scaleEvents => 0x57
  | .sparseTiles => 0x58
  | .denseTiles => 0x59
  | .sparseDrop => 0x5A
  | .sparseBad => 0x5B
  | .spkDense => 0x5C
  | .sglCap => 0x5D
  | .l1Hit => 0x60
  | .l1Miss => 0x61
  | .bcHit => 0x62
  | .bcMiss => 0x63
  | .rcHit => 0x64
  | .rcMiss => 0x65
  | .rcWriteback => 0x66
  | .pinOverflow => 0x67
  | .expiredEvict => 0x68
  | .rcSetWait => 0x69
  | .cellChannelWait => 0x6A
  | .cacheParity => 0x6B
  | .memCe => 0x6C
  | .memUe => 0x6D
  | .memPoisonRead => 0x6E
  | .memUnmapped => 0x6F
  | .scrubSectors => 0x70
  | .rowSpared => 0x71
  | .wcHit => 0x78
  | .wcMiss => 0x79
  | .winQueries => 0x7A
  | .homeReject => 0x7B
  | .remoteLost => 0x7C
  | .rspLate => 0x7D
  | .txnWait => 0x7E
  | .routeAdaptive => 0x7F
  | .routeDetour => 0x80
  | .routeDrop => 0x81
  | .flitStranded => 0x82
  | .peerDeclared => 0x83
  | .colDone => 0x88
  | .colFailed => 0x89
  | .colSegments => 0x8A
  | .colRescale => 0x8B
  | .colPoisonBlocks => 0x8C
  | .colEpochDrop => 0x8D
  | .colAlgSubst => 0x8E
  | .lateReport => 0x8F
  | .ringStalls => 0x90
  | .fecCw => 0x98
  | .fecSym => 0x99
  | .fecUncorr => 0x9A
  | .crcFail => 0x9B
  | .flitBad => 0x9C
  | .nakSent => 0x9D
  | .replayFlits => 0x9E
  | .replayFull => 0x9F
  | .recoveries => 0xA0
  | .laneSpared => 0xA1
  | .halfWidth => 0xA2
  | .linkDowns => 0xA3
  | .bringupFails => 0xA4
  | .benchEvents => 0xA5
  | .benchSkipped => 0xA6
  | .prooferGrants => 0xA8
  | .prooferWait => 0xA9
  | .prooferQmax => 0xAA
  | .stopHold => 0xAB
  | .clamps => 0xAC
  | .powerCapped => 0xAD
  | .thermalCapped => 0xAE
  | .inputDips => 0xAF
  | .doorbellIgnored => 0xB0
  | .ackRefused => 0xB1
  | .hostRefused => 0xB2
  | .smbPecFail => 0xB3
  | .lmCe => 0xC0
  | .lmUe => 0xC1
  | .regParity => 0xC2
  | .chainHwErr => 0xC3
  | .pkgRetry => 0xC4
  | .remaps => 0xC5
  | .alarmsRaised => 0xC6
  | .alarmsMerged => 0xC7
  | .logRecords => 0xC8
  | .logDrop => 0xC9
  | .traceDrop => 0xCA
  | .summaries => 0xCB
  | .flagEvents => 0xCC
  | .paceLow => 0xCD
  | .timeOot => 0xCE
  | .timeSteps => 0xCF
  | .recoveryEvents => 0xD0

/-- Width of a counter (R34, R542): 48 bits for Table 1.7, 32 for every other. -/
def counterWidth (code : Nat) : Nat := if code < 8 then 48 else 32

/-- The 32-bit selector of a counter (R541): CODE[31:24], PARAM[23:16], INSTANCE[15:0]. -/
def counterKey (c : Counter) (param inst : Nat) : Nat := Counter.code c * 2 ^ 24 + param % 256 * 2 ^ 16 + inst % 2 ^ 16

/-- The largest value a selector's counter holds. -/
def counterMax (key : Nat) : Nat := 2 ^ counterWidth (key / 2 ^ 24) - 1

/-- The events of the tick `now` with `n` more of a selector. -/
def TickEvents.add (e : TickEvents) (now key n : Nat) : TickEvents :=
  { at_ := now, counts := NMap.upd (if e.at_ = now then e.counts else []) 0 key (fun v => v + n) }

/-- The events of the tick `now` that a selector has counted. -/
def TickEvents.of (e : TickEvents) (now key : Nat) : Nat := if e.at_ = now then NMap.get e.counts 0 key else 0

/-- Add to a counter, saturating (R36, R542). -/
def Telemetry.addAt (t : Telemetry) (now key n : Nat) : Telemetry :=
  { t with counters := NMap.upd t.counters 0 key (fun v => min (v + n) (counterMax key)), ticked := TickEvents.add t.ticked now key n }

/-- A set event of bit `b` of ERR_FLAGS: the bit reads 1 and its event counter advances (R530, Table 18.5). -/
def Telemetry.flag (t : Telemetry) (now b : Nat) : Telemetry :=
  Telemetry.addAt { t with errFlags := t.errFlags ||| 2 ^ b, w1cSets := NMap.insert t.w1cSets b now } now (counterKey .flagEvents b 0) 1

/-- Advance a counter by `n`; reaching all ones sets COUNTER_SAT (R542). -/
def Telemetry.count (t : Telemetry) (now : Nat) (c : Counter) (param inst n : Nat) : Telemetry :=
  let key := counterKey c param inst
  let old := NMap.get t.counters 0 key
  let t := Telemetry.addAt t now key n
  if decide (old < counterMax key) && decide (counterMax key ≤ old + n) then Telemetry.flag t now 9 else t

/-- The region of a source (Table 18.8), 8 for the module's own (Baker). -/
def sourceRegion (kind source : Nat) : Nat :=
  match kind with
  | 1 => source
  | 2 => source / 8
  | 3 => source / 48
  | 4 => source / 192
  | 5 => source / 192
  | 6 => source / 1536
  | 7 => source / 2
  | 8 => source / 64
  | 9 => source / 5
  | 10 => source / 45
  | 11 => source / 8
  | 13 => if source < 384 then source / 48 else if source < 448 then (source - 384) / 8 else source - 448
  | _ => 8

/-- The MGT path a source's messages take out of its level, and the messages it holds with its alarm-only credits (Table 1.5:
P8 4 + 2 of a cell, P12 8 + 2 of a block, P18 8 + 2 of a region; Baker's own sources take none: level 0). -/
def mgtPath (kind source : Nat) : Nat × Nat × Nat :=
  match kind with
  | 3 => (3, source, 6)
  | 4 => (3, source / 4, 6)
  | 5 => (3, source / 4, 6)
  | 6 => (3, source / 32, 6)
  | 2 => (2, source, 10)
  | _ => (if sourceRegion kind source < 8 then 1 else 0, sourceRegion kind source, 10)

/-- The credits of a path that any message may hold; two more only alarms may hold (R22). -/
def mgtOrdinary (path : Nat × Nat × Nat) : Nat := path.2.2 - 2

/-- The slots whose park notice has not been taken, in the order the notices were sent (R29, R91). -/
def Cell.notices (x : Cell) : List Nat :=
  let put (l : List (Nat × Nat)) (e : Nat × Nat) : List (Nat × Nat) := l.takeWhile (fun y => decide (y.1 ≤ e.1)) ++ e :: l.dropWhile (fun y => decide (y.1 ≤ e.1))
  (((x.parkList.filter (fun e => decide (e.2.state = .parked))).map (fun e => (e.2.stamp, e.1))).foldl put []).map (·.2)

/-- Park notices waiting on a path: those of a cell on its own (R29). -/
def State.noticesOn (s : State) (path : Nat × Nat × Nat) : List Nat :=
  if path.1 = 3 then Cell.notices (NMap.get s.cells Cell.reset path.2.1) else []

/-- Alarms on their way over a path. -/
def Telemetry.alarmsOn (t : Telemetry) (path : Nat × Nat × Nat) : Nat :=
  (t.alarmPath.filter (fun a => decide (mgtPath a.kind a.source = path))).length

/-- Credits of a path in use: by its alarms, and by notices as far as its ordinary credits go. -/
def Telemetry.mgtUsed (t : Telemetry) (path : Nat × Nat × Nat) (notices : Nat) : Nat :=
  Telemetry.alarmsOn t path + min notices (mgtOrdinary path - Telemetry.alarmsOn t path)

/-- An alarm occurrence leaves its source (R527), with `notices` park notices waiting on its path. With the path's credits spent, the
alarm-only ones too, it is merged with one of the same code that its source has there (R33); it is never dropped. -/
def Telemetry.occur (t : Telemetry) (notices : Nat) (o : AlarmOccurrence) : Telemetry :=
  let path := mgtPath o.kind o.source
  let same (a : AlarmOccurrence) : Bool := decide (a.code = o.code ∧ a.kind = o.kind ∧ a.source = o.source)
  if path.1 ≠ 0 ∧ path.2.2 ≤ Telemetry.mgtUsed t path notices ∧ t.alarmPath.any same then
    let merged := t.alarmPath.foldr (fun a acc =>
      if !acc.2 && same a then
        ({ a with count := a.count + o.count, last := o.last } :: acc.1, true)
      else (a :: acc.1, acc.2)) (([] : List AlarmOccurrence), false)
    { t with alarmPath := merged.1 }
  else { t with alarmPath := t.alarmPath ++ [o] }

/-- A log message leaves its source for its region controller (R532), Baker's own for the ring. -/
def Telemetry.send (t : Telemetry) (region : Nat) (r : LogRecord) : Telemetry :=
  { t with logPath := t.logPath ++ [(region, r)] }

/-- Advance a counter. -/
def State.count (s : State) (c : Counter) (param inst n : Nat) : State := { s with tel := Telemetry.count s.tel s.timebase c param inst n }

/-- Advance a counter that counts in units of `unit` events by `n` events; events short of a unit wait. -/
def State.countUnits (s : State) (c : Counter) (inst unit n : Nat) : State :=
  let key := counterKey c 0 inst
  let total := NMap.get s.tel.unitRest 0 key + n
  let s := { s with tel := { s.tel with unitRest := NMap.set s.tel.unitRest 0 key (total % unit) } }
  if total / unit = 0 then s else State.count s c 0 inst (total / unit)

def State.flag (s : State) (b : Nat) : State := { s with tel := Telemetry.flag s.tel s.timebase b }

/-! ### W1C fields (R9, R530) -/

/-- The keys of `Telemetry.w1cSets` for the W1C fields outside ERR_FLAGS. -/
def lowpaceKey (region : Nat) : Nat := 16 + region
def outOfTolKey : Nat := 32
def steppedKey : Nat := 33

/-- A set event of a W1C field outside ERR_FLAGS is stamped now. -/
def State.w1cSet (s : State) (key : Nat) : State := { s with tel := { s.tel with w1cSets := NMap.insert s.tel.w1cSets key s.timebase } }

/-- A set of the field is stamped in this tick: it wins over a clear (R530). -/
def State.w1cHeld (s : State) (key : Nat) : Bool := decide (NMap.find s.tel.w1cSets key = some s.timebase)

/-- Write a log record of the given TYPE (R532, R579, Table 18.7), stamped now. -/
def State.log (s : State) (type kind source : Nat) (job : Half) (d : List Nat) : State :=
  let r : LogRecord := { stamp := s.timebase, type := type, kind := kind, source := source, job := job, d := d }
  { s with tel := Telemetry.send s.tel (sourceRegion kind source) r }

/-- Raise an alarm for one occurrence (R527): the occurrence travels to the table, and its log record to the log. -/
def State.raise (s : State) (code kind source detail : Nat) : State :=
  let o : AlarmOccurrence :=
    { code := code, kind := kind, source := source, detail := detail, stamp := s.timebase, last := s.timebase, count := 1 }
  let s := { s with tel := Telemetry.occur s.tel (State.noticesOn s (mgtPath kind source)).length o }
  State.log s (0x100 + code) kind source 0 [detail, kind * 2 ^ 16 + source]

/-- Raise an episode alarm when its condition begins (R526); `unit` tells conditions of one source apart. -/
def State.beginEpisode (s : State) (code kind source unit detail : Nat) : State :=
  if s.tel.episodes.contains (code, kind, source, unit) then s
  else State.raise { s with tel := { s.tel with episodes := s.tel.episodes ++ [(code, kind, source, unit)] } } code kind source detail

/-- Release the condition of an episode alarm. -/
def State.endEpisode (s : State) (code kind source unit : Nat) : State :=
  { s with tel := { s.tel with episodes := s.tel.episodes.filter (fun e => decide (e ≠ (code, kind, source, unit))) } }

/-- One event of row `row` of Table 18.9 (R540). -/
def State.recoveryEvent (s : State) (row : Nat) : State :=
  let s := State.count s .recoveryEvents row 0 1
  if row = 0 then s
  else
    let s := State.flag s 10
    if 8 ≤ row then State.flag s 11 else s

/-- A free value (Config): draw one and advance the counter. -/
def State.free (s : State) : Nat × State := (s.freeCount, { s with freeCount := s.freeCount + 1 })

/-- Append to what has left the block. -/
def State.emit (s : State) (o : Output) : State := { s with out := s.out ++ [o] }

end Sys2Proof.Machine
end

