-- ==== Sys2Proof/Machine/Ops.lean ====
section
/-!
DEFINITION. The named operations over cells, groups, local memory and the module's stacked memory, parking (R83 to R96) and the
gate every Pramur command passes before it issues (R65).
-/

namespace Sys2Proof.Machine

/-! ### Cells and groups -/

/-- The number of enabled cells, regions, blocks and ports (Table 0.1). -/
def cellCount : Nat := 384
def blockOf (cell : Nat) : Nat := cell / 6
def regionOf (cell : Nat) : Nat := cell / 48

def State.cell (s : State) (c : Nat) : Cell := NMap.get s.cells Cell.reset c
def State.setCell (s : State) (c : Nat) (x : Cell) : State := { s with cells := NMap.set s.cells Cell.reset c x }
def State.modCell (s : State) (c : Nat) (f : Cell → Cell) : State := State.setCell s c (f (State.cell s c))
def State.block (s : State) (b : Nat) : Block := NMap.get s.blocks Block.reset b
def State.setBlock (s : State) (b : Nat) (x : Block) : State := { s with blocks := NMap.set s.blocks Block.reset b x }
def State.region (s : State) (r : Nat) : Region := NMap.get s.regions Region.reset r
def State.setRegion (s : State) (r : Nat) (x : Region) : State := { s with regions := NMap.set s.regions Region.reset r x }

def Cell.group (x : Cell) (slot : Nat) : Option Group := NMap.find x.groups slot
def Cell.setGroup (x : Cell) (slot : Nat) (g : Group) : Cell := { x with groups := NMap.insert x.groups slot g }
def State.group (s : State) (g : GroupLoc) : Option Group := Cell.group (State.cell s g.cell) g.slot
def State.setGroup (s : State) (g : GroupLoc) (grp : Group) : State :=
  State.modCell s g.cell (fun x => Cell.setGroup x g.slot grp)

/-- Issue is possible in a cell: its block and its region are not fenced (R30, R521). -/
def State.cellRuns (s : State) (c : Nat) : Bool :=
  decide (c < cellCount) && !(State.block s (blockOf c)).fenced && !(State.region s (regionOf c)).fenced

/-! ### Registers of a group (R69 to R71, R86) -/

/-- Lane `l` of thread register `n`. -/
def Group.lane (g : Group) (n l : Nat) : Nat := ((NMap.get g.w [] n).getD l 0).toNat

/-- Uniform register `n` (R71). -/
def Group.uni (g : Group) (n : Nat) : Nat := (NMap.get g.u 0 n).toNat
def Group.uniPair (g : Group) (n : Nat) : Nat := Group.uni g n + 2 ^ 32 * Group.uni g (n + 1)

/-- Predicate `n`; p7 always reads true (R70). -/
def Group.pred (g : Group) (n : Nat) : Nat := if n = 7 then 2 ^ 32 - 1 else (NMap.get g.p 0 n).toNat

def Group.poisonOf (g : Group) (n : Nat) : Nat := (NMap.get g.wPoison 0 n).toNat
def Group.uniPoison (g : Group) (n : Nat) : Bool := NMap.get g.uPoison false n

/-- Write the lanes of `ex` in thread register `n`: values, poison marks, and the poison-source address of the marks (R86). -/
def Group.write (g : Group) (n ex : Nat) (v : Nat → Nat) (poison : Nat) (src : DWord) : Group :=
  let lanes := tabulate 32 (fun l => if ex.testBit l then BitVec.ofNat 32 (v l) else BitVec.ofNat 32 (Group.lane g n l))
  let old := Group.poisonOf g n
  let marks : Word := BitVec.ofNat 32 ((old &&& (ex ^^^ (old ||| ex))) ||| (poison &&& ex))
  let from_ := if marks = 0 then 0 else if poison &&& ex = 0 then NMap.get g.wSource 0 n else src
  { g with w := NMap.set g.w [] n lanes, wPoison := NMap.set g.wPoison 0 n marks, wSource := NMap.set g.wSource 0 n from_ }

/-- Write a 64-bit pair of thread registers, low half first (R69). -/
def Group.writePair (g : Group) (n ex : Nat) (v : Nat → Nat) (poison : Nat) (src : DWord) : Group :=
  Group.write (Group.write g n ex (fun l => v l % 2 ^ 32) poison src) (n + 1) ex (fun l => v l / 2 ^ 32) poison src

def Group.writeUni (g : Group) (n v : Nat) (poison : Bool) (src : DWord) : Group :=
  { g with
    u := NMap.set g.u 0 n (BitVec.ofNat 32 v)
    uPoison := NMap.set g.uPoison false n poison
    uSource := NMap.set g.uSource 0 n (if poison then src else 0) }

def Group.writeUniPair (g : Group) (n v : Nat) : Group := Group.writeUni (Group.writeUni g n v false 0) (n + 1) (v / 2 ^ 32) false 0

/-- Write predicate `n` in the lanes of `ex`; writes to p7 are ignored (R70, R105). -/
def Group.writePred (g : Group) (n ex v : Nat) : Group :=
  if n = 7 then g
  else
    let old := Group.pred g n
    { g with p := NMap.set g.p 0 n (BitVec.ofNat 32 ((old &&& (ex ^^^ (old ||| ex))) ||| (v &&& ex))) }

/-! ### The register cache (R72 to R74): its entries and their order; the data are the register file's -/

/-- Allocation: the victim of R73 leaves when all eight entries are in use. -/
def RegCache.place (l : List RegCacheEntry) (e : RegCacheEntry) : List RegCacheEntry :=
  if l.length < 8 then e :: l
  else
    match l.reverse.find? (fun x => !x.keep) with
    | some v => e :: l.filter (fun x => decide (¬ (x.slot = v.slot ∧ x.reg = v.reg)))
    | none => e :: l.dropLast

/-- A source read (Table 3.4). -/
def RegCache.read (l : List RegCacheEntry) (slot reg : Nat) (hint : Bool) : List RegCacheEntry :=
  match l.find? (fun e => decide (e.slot = slot ∧ e.reg = reg)) with
  | some e =>
    if hint then { e with keep := true } :: l.filter (fun x => decide (¬ (x.slot = slot ∧ x.reg = reg)))
    else l.map (fun x => if x.slot = slot ∧ x.reg = reg then { x with keep := false } else x)
  | none => if hint then RegCache.place l { slot := slot, reg := reg, dirty := false, keep := true } else l

/-- A destination write (Table 3.4); `full` is a full, unguarded write. Of the accesses that the table gives no order of use, a full write with the hint
set makes its entry the most recently used; a partial write, like a read with the hint clear, leaves the order (DESIGN CHOICE, assumption 107). -/
def RegCache.write (l : List RegCacheEntry) (slot reg : Nat) (hint full : Bool) : List RegCacheEntry :=
  let rest := l.filter (fun x => decide (¬ (x.slot = slot ∧ x.reg = reg)))
  match l.find? (fun e => decide (e.slot = slot ∧ e.reg = reg)) with
  | some e =>
    if hint then
      if full then { e with dirty := true, keep := true } :: rest
      else l.map (fun x => if x.slot = slot ∧ x.reg = reg then { x with dirty := true } else x)
    else rest
  | none =>
    if hint && full then RegCache.place l { slot := slot, reg := reg, dirty := true, keep := true } else l

/-- An asynchronous write to a register leaves the cache (Table 3.4). -/
def RegCache.drop (l : List RegCacheEntry) (slot reg : Nat) : List RegCacheEntry :=
  l.filter (fun x => decide (¬ (x.slot = slot ∧ x.reg = reg)))

/-- The group parks or retires: its entries leave. -/
def RegCache.dropSlot (l : List RegCacheEntry) (slot : Nat) : List RegCacheEntry := l.filter (fun x => decide (x.slot ≠ slot))

def Cell.modCache (x : Cell) (pipe : Nat) (f : List RegCacheEntry → List RegCacheEntry) : Cell :=
  { x with regCache := NMap.upd x.regCache [] pipe f }

/-! ### Local memory (R145, R146) -/

def localSize : Nat := 2 ^ 19

def Cell.localByte (x : Cell) (a : Nat) : Byte := NMap.get x.localMem 0 (a % localSize)
def Cell.localBytes (x : Cell) (a n : Nat) : List Byte := tabulate n (fun i => Cell.localByte x (a + i))
def Cell.localNat (x : Cell) (a n : Nat) : Nat := ofBytes (Cell.localBytes x a n)

/-- The words an n-byte access at `a` names. -/
def wordsOf (a n : Nat) : List Nat := if n = 0 then [] else tabulate ((a + n - 1) / 4 + 1 - a / 4) (fun i => a / 4 + i)

/-- Some word of the range carries a poison mark. -/
def Cell.localMarked (x : Cell) (a n : Nat) : Bool := (wordsOf a n).any (fun w => NMap.get x.localPoison false (w % 2 ^ 17))

/-- The byte address of the lowest marked word of a range. -/
def Cell.firstMarked (x : Cell) (a n : Nat) : Option Nat :=
  ((wordsOf a n).find? (fun w => NMap.get x.localPoison false (w % 2 ^ 17))).map (fun w => w % 2 ^ 17 * 4)

/-- Write bytes; each word written takes the mark given, so any other write clears it (R146). -/
def Cell.writeLocal (x : Cell) (a : Nat) (bs : List Byte) (poison : Bool) : Cell :=
  { x with
    localMem := bs.zipIdx.foldl (fun m bi => NMap.set m 0 ((a + bi.2) % localSize) bi.1) x.localMem
    localPoison := (wordsOf a bs.length).foldl (fun m w => NMap.set m false (w % 2 ^ 17) poison) x.localPoison }

/-- Set the mark of the words of a range, the bytes as they are. -/
def Cell.markLocal (x : Cell) (a n : Nat) (poison : Bool) : Cell :=
  { x with localPoison := (wordsOf a n).foldl (fun m w => NMap.set m false (w % 2 ^ 17) poison) x.localPoison }

/-- A byte lies in one of the ranges (start, length). -/
def inRanges (rs : List (Nat × Nat)) (a : Nat) : Bool := rs.any (fun r => decide (r.1 ≤ a ∧ a < r.1 + r.2))

/-- The cell as a reader sees it for whom the bytes `l` are undefined: they hold the free values `n`, `n + 1`, … (R185, R230, R262). -/
def Cell.freeView (x : Cell) (n : Nat) (l : List Nat) : Cell :=
  { x with localMem := l.zipIdx.foldl (fun m ai => NMap.set m 0 (ai.1 % localSize) (Config.freeByte (n + ai.2))) x.localMem }

/-- The same with the poison marks of their words (R230, R262). -/
def Cell.freeWords (x : Cell) (n : Nat) (l : List Nat) : Cell :=
  let y := Cell.freeView x n l
  { y with localPoison := (dedupe (l.map (fun a => a % localSize / 4))).zipIdx.foldl (fun m wi =>
      NMap.set m false wi.1 (Config.freeBit (n + l.length + wi.2))) y.localPoison }

/-- The free values that `freeWords` draws. -/
def wordsDraw (l : List Nat) : Nat := if l.isEmpty then 0 else l.length + (dedupe (l.map (fun a => a % localSize / 4))).length

/-- The bytes of ranges (start, length). -/
def rangeBytes (rs : List (Nat × Nat)) : List Nat := dedupe (rs.flatMap (fun r => tabulate r.2 (fun i => r.1 + i)))

/-- The bytes of the words in which some bytes lie. -/
def wordBytes (as : List Nat) : List Nat := (dedupe (as.map (fun a => a / 4))).flatMap (fun w => tabulate 4 (fun i => 4 * w + i))

/-- Words of an array instruction's ranges are accessed: what it reads there is undefined, and what it leaves there (R230, R262); a drain that has begun
may not have read them yet, so all it leaves is. `outputs`: the access counts for what the instruction leaves. -/
def ArrayOp.disturb (o : ArrayOp) (words : List Nat) (outputs : Bool) : ArrayOp :=
  let read := words.filter (inRanges o.inputs)
  let left := if !outputs then [] else if o.begun && !read.isEmpty then rangeBytes o.outputs else words.filter (inRanges o.outputs)
  { o with openBytes := dedupe (o.openBytes ++ read ++ left) }

/-- An access of port A, or a write of a unit, to bytes of the ranges of accepted array instructions leaves undefined what these
read there, or leave there (R230, R262). -/
def Cell.disturbArray (x : Cell) (as : List Nat) : Cell :=
  let words := wordBytes as
  { x with array := x.array.map (fun e => (e.1, ArrayOp.disturb e.2 words true)) }

/-- The words of a staging area that lie in some of the ranges (start, length) of the anchor cell's local memory. -/
def CollGroup.staged (q : CollGroup) (c : Nat) (rs : List (Nat × Nat)) : List Nat :=
  if q.anchor ≠ c then []
  else
    (rs.filter (fun r => decide (0 < r.2 ∧ r.1 < q.stage + 8192 * q.bufs ∧ q.stage < r.1 + r.2))).flatMap (fun r =>
      let lo := max r.1 q.stage / 4
      let hi := (min (r.1 + r.2) (q.stage + 8192 * q.bufs) + 3) / 4
      tabulate (hi - lo) (fun i => lo + i))

/-- A group or a copy accesses ranges of a cell's local memory: the words that lie in a staging area hold free values from then on, marks among
them, and so will the results of that area's collectives (R400). -/
def State.spoil (s : State) (c : Nat) (rs : List (Nat × Nat)) : State :=
  if s.groups.all (fun e => (CollGroup.staged e.2 c rs).isEmpty) then s
  else
    let ws := dedupe (s.groups.flatMap (fun e => CollGroup.staged e.2 c rs))
    let n := s.freeCount
    State.modCell { s with
        freeCount := n + 5 * ws.length
        groups := s.groups.map (fun e => (e.1, { e.2 with touched := e.2.touched || !(CollGroup.staged e.2 c rs).isEmpty })) } c (fun x =>
      { Cell.freeView x n (ws.flatMap (fun w => tabulate 4 (fun i => 4 * w + i))) with
        localPoison := ws.zipIdx.foldl (fun m wi => NMap.set m false (wi.1 % 2 ^ 17) (Config.freeBit (n + 4 * ws.length + wi.2))) x.localPoison })

/-- The clearing of R150: all 512 KiB and the marks. -/
def Cell.clearLocal (x : Cell) : Cell := { x with localMem := [], localPoison := [] }

/-! ### Stacked memory (R334 to R340, R356) -/

/-- The key of a byte of region `r` at region offset `o`: its region-local physical address (Table 12.1). -/
def homeKey (r o : Nat) : Nat := r * 2 ^ 39 + o

/-- Bytes a region's stacks hold (R334). -/
def regionBytes : Nat := 0x3000000000

/-- Region, region offset and whether the address is populated, of a physical address (Table 12.1, R336); ILV_SIZE in bytes. -/
def homeOf (ilv pa : Nat) : Nat × Nat × Bool :=
  if bitOf pa 42 then
    let i := pa % 2 ^ 42
    let j := i / 256
    (j % 8, (regionBytes - ilv) + j / 8 * 256 + i % 256, decide (i < 8 * ilv))
  else
    let o := pa % 2 ^ 39
    (bits pa 41 39, o, decide (0x10000000 ≤ o ∧ o < regionBytes - ilv))

/-- Physical address of a region offset: in the interleaved pool, or region-local (R334 to R336). -/
def physicalOf (ilv r o : Nat) : Nat :=
  if regionBytes - ilv ≤ o then (let x := o - (regionBytes - ilv); 2 ^ 42 + (x / 256 * 8 + r) * 256 + x % 256) else homeKey r o

/-- Stack, pseudo-channel (0 to 63 in the region), bank, row and column byte of a region offset (R337). -/
def channelOf (o : Nat) : Nat × Nat × Nat × Nat :=
  let g := o / 256
  let h := g / 64
  let c := (g % 64) ^^^ (h % 64) ^^^ (h / 2 ^ 6 % 64) ^^^ (h / 2 ^ 12 % 64) ^^^ (h / 2 ^ 18 % 64)
  let bank := (h / 4 % 32) ^^^ (h / 2 ^ 7 % 32) ^^^ (h / 2 ^ 12 % 32)
  (c, bank, h / 128, 256 * (h % 4) + o % 256)

def State.byteAt (s : State) (r o : Nat) : Byte := NMap.get s.mem 0 (homeKey r o)
def State.sectorPoisoned (s : State) (r o : Nat) : Bool := NMap.get s.memPoison false (homeKey r o / 32)

/-- The sector of region offset `o` (its low five bits ignored). -/
def State.sector (s : State) (r o : Nat) : SectorData :=
  { bytes := tabulate 32 (fun i => State.byteAt s r (o / 32 * 32 + i)), poison := State.sectorPoisoned s r o }

/-- ILV_SIZE in bytes (R334, R335). -/
def State.ilv (s : State) : Nat := s.nv.ilvGib * 2 ^ 30

/-- A byte is written; its page may hold code (R144). -/
def State.setByte (s : State) (r o : Nat) (b : Byte) : State :=
  { s with
    mem := NMap.set s.mem 0 (homeKey r o) b
    codeWrites := NMap.set s.codeWrites 0 (s.moduleNumber * 2 ^ 22 + physicalOf (State.ilv s) r o / 2 ^ 21) s.nextId }

/-- The page of a fabric address has been written since launch `launch` began: instructions fetched from it by the launch's groups are
undefined (R144). Launches are numbered by `nextId`. -/
def State.codeWritten (s : State) (launch fa : Nat) : Bool := decide (launch < NMap.get s.codeWrites 0 (fa / 2 ^ 21))
def State.setPoison (s : State) (r o : Nat) (p : Bool) : State := { s with memPoison := NMap.set s.memPoison false (homeKey r o / 32) p }

/-- Store bytes of one sector, by their place in it (R356): covering the whole sector clears its poison, a partial store leaves
it as it was; a poisoned store marks it. -/
def State.storeSector (s : State) (r o : Nat) (bs : NMap Byte) (poison : Bool) : State :=
  let base := o / 32 * 32
  let s := bs.foldl (fun s ib => State.setByte s r (base + ib.1 % 32) ib.2) s
  if poison then State.setPoison s r base true else if 32 ≤ bs.length then State.setPoison s r base false else s

/-! ### Parking (R83 to R89): one shared operation -/

/-- A park about to happen: code and DETAIL of Table 3.6, ADDR (R89), the lanes it applies to, the EPOCH carried. -/
structure ParkCause where
  code : Nat
  detail : Nat
  addr : Nat
  lanes : Nat
  epoch : Nat
  deriving DecidableEq, Repr, Inhabited

/-- Codes whose park records hold no lanes (Table 3.7). -/
def laneless (code : Nat) : Bool := [0x05, 0x06, 0x09, 0x0A, 0x0B].contains code

/-- FAULT_LANES of a park (Table 3.7): the lanes it names, or all that are active where it names none. -/
def faultLanes (grp : Group) (p : ParkCause) : Word :=
  if laneless p.code then 0 else if p.lanes = 0 then grp.active else BitVec.ofNat 32 p.lanes

/-- Park group `grp` of `g`: its park record is written with PC as given, its register-cache entries leave, PARK_COUNT advances
and POISON sets POISON_CONSUMED (R83, R88, R91, R96, Tables 3.4, 3.7 and 18.4). Nothing else of the group changes (R84). -/
def State.park (s : State) (g : GroupLoc) (grp : Group) (p : ParkCause) (pc : BitVec 31) (insn : DWord) : State :=
  let rec_ : ParkRecord :=
    { stamp := s.timebase, addr := BitVec.ofNat 64 p.addr, pc := pc, mask := grp.active
      faultLanes := faultLanes grp p
      job := grp.job, epoch := BitVec.ofNat 16 p.epoch, code := BitVec.ofNat 8 p.code, detail := BitVec.ofNat 8 p.detail
      slot := g.slot, state := .parked, replays := grp.replays, depth := min 255 (grp.stack.length + grp.spilled), insn := insn }
  let hold := match grp.hold with
    | .lookaside _ => Hold.none
    | h => h
  let grp := { grp with pc := pc, fetched := [], hold := hold }
  let s := State.modCell s g.cell (fun x =>
    Cell.modCache { Cell.setGroup x g.slot grp with
        parkList := NMap.insert x.parkList g.slot rec_
        slotWaits := x.slotWaits.filter (fun w => decide (w.slot ≠ g.slot)) } (g.slot / 16)
      (fun l => RegCache.dropSlot l g.slot))
  let s := State.count s .parkCount p.code g.cell 1
  if p.code = 4 then State.flag s 2 else s

/-! ### What leaves the Proofer's lists (R501, R502) -/

/-- Requests whose object no longer needs them leave the admission queue (R501). -/
def State.withdraw (s : State) (gone : ProoferObject → Bool) : State :=
  { s with power := { s.power with proofer := { s.power.proofer with queue := s.power.proofer.queue.filter (fun o => !gone o) } } }

/-- What waits for the fall budget no longer waits (R502). -/
def State.unhold (s : State) (gone : FallItem → Bool) : State :=
  { s with power := { s.power with proofer := { s.power.proofer with held := s.power.proofer.held.filter (fun o => !gone o) } } }

/-! ### The gate before issue (R65) -/

def RequestBody.isNotify (b : RequestBody) : Bool :=
  match b with
  | .notify _ _ => true
  | _ => false

def AccessKind.isLoad (k : AccessKind) : Bool :=
  match k with
  | .load _ _ => true
  | _ => false

def HomeBody.isRead (b : HomeBody) : Bool :=
  match b with
  | .read _ => true
  | .granuleRead _ => true
  | _ => false

/-- Loads of a group whose values are not back, and its stores and atomics that are not yet performed at `scope` (Table 4.10, R137): those its cell
holds, and, for the wider scopes, those that its block has not accepted or their homes have not performed. -/
def State.outstanding (s : State) (c slot scope : Nat) : List Nat :=
  let x := State.cell s c
  let loads := (x.accesses.filter (fun e => decide (e.2.slot = slot) && AccessKind.isLoad e.2.kind)).map (·.1)
  let held := (x.held.filter (fun e => decide (e.2.slot = slot) && !RequestBody.isNotify e.2.packet.body)).map (fun e => e.2.op)
  let locals := (x.heldLocal.filter (fun e => decide (e.2.slot = slot))).map (·.1)
  let mine := s.homeQueue.filter (fun e => decide (e.2.source = .cell c slot) && !HomeBody.isRead e.2.body &&
    (decide (3 ≤ scope) || !e.2.after.isEmpty || (decide (scope = 2) && decide (e.2.stage = .cell ∨ e.2.stage = .crossbar))))
  let txns := if scope ≤ 2 then [] else (State.region s (regionOf c)).txns.filter (fun e =>
    decide (e.2.cell = c ∧ e.2.slot = slot ∧ e.2.copy = none) && !RequestBody.isNotify e.2.packet.body)
  loads ++ held ++ locals ++ mine.map (·.1) ++ txns.map (fun e => e.2.op)

/-- What the group is held for is over (R137); a group in `await` is let go by the increment that reaches its target (R166). -/
def State.holdOver (s : State) (c slot : Nat) (g : Group) : Bool :=
  match g.hold with
  | .none => true
  | .fence scope => (State.outstanding s c slot scope).isEmpty
  | .epoch => true
  | _ => false

/-- A copy, a chain-unit instruction or an access to global memory, by its opcode and SPACE. -/
def governed (w : DWord) : Bool :=
  let op := w.toNat / 2 ^ 56
  decide (op = 0x70 ∨ op = 0x90 ∨ op = 0x98 ∨ op = 0x99 ∨ op = 0x9A) || (decide (0x60 ≤ op ∧ op ≤ 0x6A) && decide (bits w.toNat 4 3 ≠ 0))

/-- The region's activity governor holds the issue of `ws` until its raise is granted (R499). -/
def State.governs (s : State) (c : Nat) (ws : List DWord) : Bool :=
  (NMap.get s.power.regions RegionPower.reset (regionOf c)).raising && governed (ws.headD 0)

/-- Words of an instruction by its first one; EXT 3 has none (R97, R101). -/
def wordCount (w : DWord) : Nat := (let e := w.toNat / 2 ^ 50 % 4; if e = 3 then 1 else 1 + e)

/-- A group is ready whatever its instruction turns out to do (R65): it runs, is not held, awaits nothing, and has fetched an instruction that takes
no credit and waits for no unit or memory (an opcode below 0x60). -/
def State.plainlyReady (s : State) (c slot : Nat) (grp : Group) : Bool :=
  State.cellRuns s c && (NMap.find (State.cell s c).parkList slot).isNone && decide (grp.active ≠ 0) && decide (grp.hold = .none) && grp.awaited.isEmpty
    && (match grp.fetched with
      | [] => false
      | w :: _ => decide (grp.fetched.length = wordCount w) && decide (w.toNat / 2 ^ 56 < 0x60))

/-- Group `h` of a pipeline issues before group `g` when both are ready (Table 1.2): ordinary before deferred, then the older. -/
def Group.precedes (h g : Group) : Bool := (!h.deferred && g.deferred) || (decide (h.deferred = g.deferred) && decide (h.age < g.age))

/-- No group of the pipeline that is plainly ready precedes the group of a slot (R15, R65). -/
def State.turn (s : State) (c slot : Nat) (grp : Group) : Bool :=
  (State.cell s c).groups.all (fun e => !(decide (e.1 / 16 = slot / 16 ∧ e.1 ≠ slot) && Group.precedes e.2 grp && State.plainlyReady s c e.1 e.2))

/-- The group of `g` may issue the instruction whose words are `ws`: it is resident with lanes left, runs, is not held, these are
the words that have been fetched (R65, R118), its region's governor does not hold them, and it is its turn. -/
def State.issuable (s : State) (g : GroupLoc) (ws : List DWord) : Option Group :=
  let x := State.cell s g.cell
  match Cell.group x g.slot with
  | none => none
  | some grp =>
    if State.cellRuns s g.cell && (NMap.find x.parkList g.slot).isNone && decide (grp.active ≠ 0) && decide (grp.fetched = ws)
        && decide (ws ≠ []) && State.holdOver s g.cell g.slot grp && !State.governs s g.cell ws && State.turn s g.cell g.slot grp then some { grp with hold := .none } else none

/-- What the instruction `ws` reads in local memory as it issues is an access to a staging area that holds it (R400). -/
def State.reads (s : State) (g : GroupLoc) (ws : List DWord) (rs : Group → List (Nat × Nat)) : State :=
  match State.issuable s g ws with
  | none => s
  | some grp => State.spoil s g.cell (rs grp)

/-- The next instruction follows: PC moves past the words, and the next must be fetched (R97). -/
def Group.advance (g : Group) (ext : Nat) : Group := { g with pc := g.pc + 1 + BitVec.ofNat 31 ext, fetched := [], issued := true }

end Sys2Proof.Machine
end

