-- ==== Sys2Proof/Machine/Operands.lean ====
section
/-!
DEFINITION. The operand forms of Pramur instruction words (Tables 4.1, 4.2, 4.5, 4.6): the words themselves, the ILLEGAL checks
(R69, R99 to R102), operand values, poison (R86), and the one path by which a register-form instruction issues.
-/

namespace Sys2Proof.Machine

/-! ### The words (R97, R98) -/

def bit1 (b : BitVec 1) : Bool := decide (b = 1)

/-- The first word of a register-form instruction with opcode `op` (Table 4.1). -/
def regWord (op : Nat) (f : RegForm) : DWord :=
  BitVec.ofNat 8 op ++ f.gp ++ f.gn ++ f.ext ++ f.dst ++ f.dh ++ f.sa ++ f.ha ++ f.sb ++ f.hb ++ f.sc ++ f.hc ++ f.ua ++ f.ub ++ f.uc
    ++ f.ib ++ f.sub

/-- The first word of a branch-form instruction (Table 4.5). -/
def brWord (op : Nat) (f : BrForm) : DWord :=
  BitVec.ofNat 8 op ++ f.gp ++ f.gn ++ f.ext ++ f.cp ++ f.cn ++ f.offA ++ f.offB ++ f.sub

/-- The first word of a memory-form instruction (Table 4.6). -/
def memWord (op : Nat) (f : MemForm) : DWord :=
  BitVec.ofNat 8 op ++ f.gp ++ f.gn ++ f.ext ++ f.data ++ f.dh ++ f.addr ++ f.ha ++ f.off ++ f.ua ++ f.scope ++ f.reuse ++ f.size
    ++ f.space ++ f.sx ++ f.ord

/-- The words of an instruction: the first and EXT extension words; EXT 3 has none (R97, R101). -/
def wordsWith (w : DWord) (ext : Nat) (x1 x2 : DWord) : List DWord :=
  if ext = 1 then [w, x1] else if ext = 2 then [w, x1, x2] else [w]

def regWords (op : Nat) (f : RegForm) : List DWord := wordsWith (regWord op f) f.ext.toNat f.x1 f.x2
def brWords (op : Nat) (f : BrForm) : List DWord := wordsWith (brWord op f) f.ext.toNat f.x1 f.x2
def memWords (op : Nat) (f : MemForm) : List DWord := wordsWith (memWord op f) f.ext.toNat f.x1 f.x2

/-! ### Operand kinds -/

/-- What an operand field names: nothing; a 32-bit register, thread or uniform; a 64-bit pair of either; a thread register only;
a uniform register or pair; a predicate. -/
inductive OperandKind where
  | none | r32 | r64 | thread | uni | uniPair | pred
  deriving DecidableEq, Repr, Inhabited

/-- The shape of a register-form instruction: the kinds of DST, A, B and C, the SUB bits it uses, whether B may be an immediate,
whether a reserved SUB value stands there, whether it acts once for the group (R102), and whether it carries poison marks on
(R86). -/
structure Shape where
  d : OperandKind
  a : OperandKind
  b : OperandKind
  c : OperandKind
  sub : Nat
  imm : Bool
  reserved : Bool
  group : Bool
  carries : Bool
  deriving DecidableEq, Repr, Inhabited

def OperandKind.wide (k : OperandKind) : Bool := decide (k = .r64 ∨ k = .uniPair)

/-- Whether the field names a uniform register, given its uniform bit; DST has none. -/
def OperandKind.isUni (k : OperandKind) (bit : Bool) : Bool :=
  match k with
  | .uni => true
  | .uniPair => true
  | .r32 => bit
  | .r64 => bit
  | _ => false

/-- The encoding of one operand field fails (R99, R101); `dst` fields have no uniform bit. -/
def fieldBad (k : OperandKind) (dst : Bool) (n : Nat) (hint uni : Bool) : Bool :=
  match k with
  | .none => decide (n ≠ 0) || hint || uni
  | .pred => decide (8 ≤ n) || uni
  | .thread => uni
  | .uni => decide (64 ≤ n) || (!dst && !uni)
  | .uniPair => decide (64 ≤ n) || (!dst && !uni)
  | _ => uni && decide (64 ≤ n)

/-- The register of one operand field fails: 0x01 beyond REGS, 0x04 not even (R69, R99). -/
def fieldReg (k : OperandKind) (regs n : Nat) (uni : Bool) : Option Nat :=
  match k with
  | .none => Option.none
  | .pred => Option.none
  | .uni => Option.none
  | .uniPair => if n % 2 = 1 then some 4 else Option.none
  | .thread => if regs ≤ n then some 1 else Option.none
  | .r32 => if !uni && decide (regs ≤ n) then some 1 else Option.none
  | .r64 => if !uni && decide (regs ≤ n) then some 1 else if n % 2 = 1 then some 4 else Option.none

/-- The first of a list of checks that fails. -/
def firstSome {α : Type} : List (Option α) → Option α
  | [] => none
  | some x :: _ => some x
  | none :: r => firstSome r

def check (bad : Bool) (code : Nat) : Option Nat := if bad then some code else none

/-- The DETAIL of an ILLEGAL park of a register-form word, if it is illegal (R99 to R102). -/
def regIllegal (sh : Shape) (regs : Nat) (f : RegForm) : Option Nat :=
  let ib := bit1 f.ib
  let kb := if ib then OperandKind.none else sh.b
  let encoding :=
    sh.reserved || decide (f.gp = 7 ∧ f.gn = 1) || (sh.group && decide (f.gp ≠ 7)) || decide (f.ext.toNat ≠ b2n ib)
      || decide (f.sub.toNat &&& (1023 - sh.sub) ≠ 0) || (ib && !sh.imm)
      || (ib && !OperandKind.wide sh.b && decide (f.x1.toNat / 2 ^ 32 ≠ 0))
      || fieldBad sh.d true f.dst.toNat (bit1 f.dh && decide (sh.d = .none)) false
      || fieldBad sh.a false f.sa.toNat (bit1 f.ha) (bit1 f.ua)
      || fieldBad kb false f.sb.toNat (bit1 f.hb && !ib) (bit1 f.ub)
      || fieldBad sh.c false f.sc.toNat (bit1 f.hc) (bit1 f.uc)
  firstSome [check encoding 0, fieldReg sh.d regs f.dst.toNat false, fieldReg sh.a regs f.sa.toNat (bit1 f.ua),
    fieldReg kb regs f.sb.toNat (bit1 f.ub), fieldReg sh.c regs f.sc.toNat (bit1 f.uc)]

/-! ### Operand values and poison -/

/-- Lane `l` of an operand. -/
def Group.operand (g : Group) (k : OperandKind) (n : Nat) (uniBit : Bool) (l : Nat) : Nat :=
  match k with
  | .none => 0
  | .pred => if (Group.pred g n).testBit l then 1 else 0
  | _ =>
    if OperandKind.isUni k uniBit then (if OperandKind.wide k then Group.uniPair g (n % 64) else Group.uni g (n % 64))
    else if OperandKind.wide k then Group.lane g n l + 2 ^ 32 * Group.lane g (n + 1) l
    else Group.lane g n l

/-- The lanes in which an operand is poisoned. -/
def Group.operandPoison (g : Group) (k : OperandKind) (n : Nat) (uniBit : Bool) : Nat :=
  match k with
  | .none => 0
  | .pred => 0
  | _ =>
    if OperandKind.isUni k uniBit then
      (if Group.uniPoison g (n % 64) || (OperandKind.wide k && Group.uniPoison g (n % 64 + 1)) then 2 ^ 32 - 1 else 0)
    else if OperandKind.wide k then Group.poisonOf g n ||| Group.poisonOf g (n + 1)
    else Group.poisonOf g n

/-- The register of an operand that is poisoned for the lanes `ex`: its low one where that is marked there, else its high one (R86). -/
def Group.poisonedReg (g : Group) (ex : Nat) (k : OperandKind) (n : Nat) (uniBit : Bool) : Nat :=
  let uni := OperandKind.isUni k uniBit
  let low := if uni then Group.uniPoison g (n % 64) else decide (Group.poisonOf g n &&& ex ≠ 0)
  if OperandKind.wide k && !low then n + 1 else n

/-- The poison-source address of an operand's register `n` (R86). -/
def Group.operandSource (g : Group) (k : OperandKind) (n : Nat) (uniBit : Bool) : Nat :=
  if OperandKind.isUni k uniBit then (NMap.get g.uSource 0 (n % 64)).toNat else (NMap.get g.wSource 0 n).toNat

/-- The lanes that execute (R102): active, with a guard that reads true. -/
def Group.executing (g : Group) (gp : BitVec 3) (gn : BitVec 1) : Nat :=
  g.active.toNat &&& (Group.pred g gp.toNat ^^^ (if bit1 gn then 2 ^ 32 - 1 else 0))

/-- A POISON park for one operand: DETAIL its register, ADDR its poison-source address (R86). -/
def operandPark (g : Group) (ex : Nat) (k : OperandKind) (n : Nat) (uniBit : Bool) : Option ParkCause :=
  let marks := Group.operandPoison g k n uniBit &&& ex
  if marks = 0 then none
  else
    let r := Group.poisonedReg g ex k n uniBit
    some { code := 0x04, detail := r, addr := Group.operandSource g k r uniBit, lanes := marks, epoch := 0 }

/-- The POISON park of operands in their order: DETAIL and ADDR of the first that is poisoned, the lanes of all (R85, R86). -/
def operandsPark (g : Group) (ex : Nat) (l : List (OperandKind × Nat × Bool)) : Option ParkCause :=
  (firstSome (l.map (fun o => operandPark g ex o.1 o.2.1 o.2.2))).map (fun p =>
    { p with lanes := l.foldl (fun m o => m ||| (Group.operandPoison g o.1 o.2.1 o.2.2 &&& ex)) 0 })

def illegal (g : Group) (detail : Nat) : ParkCause := { code := 0x08, detail := detail, addr := 0, lanes := g.active.toNat, epoch := 0 }

/-- Why a register-form instruction parks its group, if it does: ILLEGAL, then POISON of A, B, C (R85, R86). -/
def regPark (sh : Shape) (g : Group) (f : RegForm) : Option ParkCause :=
  match regIllegal sh g.regs f with
  | some d => some (illegal g d)
  | none =>
    if sh.carries then none
    else
      let ex := if sh.group then g.active.toNat else Group.executing g f.gp f.gn
      let kb := if bit1 f.ib then OperandKind.none else sh.b
      operandsPark g ex [(sh.a, f.sa.toNat, bit1 f.ua), (kb, f.sb.toNat, bit1 f.ub), (sh.c, f.sc.toNat, bit1 f.uc)]

/-! ### The scoreboard and the register cache -/

/-- The thread registers an operand names. -/
def fieldRegs (k : OperandKind) (n : Nat) (uniBit : Bool) : List Nat :=
  match k with
  | .r32 => if uniBit then [] else [n]
  | .thread => [n]
  | .r64 => if uniBit then [] else [n, n + 1]
  | _ => []

def shapeRegs (sh : Shape) (f : RegForm) : List Nat :=
  fieldRegs sh.d f.dst.toNat false ++ fieldRegs sh.a f.sa.toNat (bit1 f.ua)
    ++ (if bit1 f.ib then [] else fieldRegs sh.b f.sb.toNat (bit1 f.ub)) ++ fieldRegs sh.c f.sc.toNat (bit1 f.uc)

/-- A register of the instruction awaits a result (R65, R68). -/
def Group.awaits (g : Group) (regs : List Nat) : Bool := regs.any (fun r => g.awaited.contains r)

/-- The register-cache accesses of an instruction: its sources in order, then its destination (Table 3.4). -/
def cacheAccesses (sh : Shape) (slot : Nat) (f : RegForm) (full : Bool) (l : List RegCacheEntry) : List RegCacheEntry :=
  let rd (l : List RegCacheEntry) (k : OperandKind) (n : Nat) (uni hint : Bool) : List RegCacheEntry :=
    (fieldRegs k n uni).foldl (fun l r => RegCache.read l slot r hint) l
  let l := rd l sh.a f.sa.toNat (bit1 f.ua) (bit1 f.ha)
  let l := if bit1 f.ib then l else rd l sh.b f.sb.toNat (bit1 f.ub) (bit1 f.hb)
  let l := rd l sh.c f.sc.toNat (bit1 f.uc) (bit1 f.hc)
  (fieldRegs sh.d f.dst.toNat false).foldl (fun l r => RegCache.write l slot r (bit1 f.dh) full) l

/-! ### Issue of a register-form instruction -/

/-- The operand values an instruction's meaning reads: the executing lanes and A, B, C by lane. -/
structure Operands where
  ex : Nat
  a : Nat → Nat
  b : Nat → Nat
  c : Nat → Nat

def readOperands (sh : Shape) (g : Group) (f : RegForm) : Operands :=
  { ex := if sh.group then g.active.toNat else Group.executing g f.gp f.gn
    a := Group.operand g sh.a f.sa.toNat (bit1 f.ua)
    b := if bit1 f.ib then (fun _ => if OperandKind.wide sh.b then f.x1.toNat else f.x1.toNat % 2 ^ 32)
      else Group.operand g sh.b f.sb.toNat (bit1 f.ub)
    c := Group.operand g sh.c f.sc.toNat (bit1 f.uc) }

/-- What a register-form instruction does to its group once nothing parks it: its effect, then PC past its words. -/
def regEffect (sh : Shape) (f : RegForm) (sem : Operands → Group → Group) (g : Group) : Group :=
  Group.advance (sem (readOperands sh g f) g) f.ext.toNat

/-- Put back the group of an instruction that has issued, with the register-cache accesses it made. -/
def State.issued (s : State) (sh : Shape) (g : GroupLoc) (f : RegForm) (before after : Group) : State :=
  let full := decide (before.active.toNat = 2 ^ 32 - 1 ∧ f.gp = 7)
  State.modCell s g.cell (fun x =>
    Cell.modCache (Cell.setGroup x g.slot after) (g.slot / 16) (cacheAccesses sh g.slot f full))

/-- Issue a register-form instruction: nothing happens where its group may not issue it or a register it names awaits a result
(R65); it parks where a check fails (R84); else it has its effect. -/
def State.runReg (s : State) (op : Nat) (sh : Shape) (g : GroupLoc) (f : RegForm) (sem : Operands → Group → Group) : State :=
  match State.issuable s g (regWords op f) with
  | none => s
  | some grp =>
    if Group.awaits grp (shapeRegs sh f) then s
    else
      match regPark sh grp f with
      | some p => State.park s g grp p grp.pc (regWord op f)
      | none => State.issued s sh g f grp (regEffect sh f sem grp)

end Sys2Proof.Machine
end

