-- ==== Sys2Proof/Machine/Memory.lean ====
section
/-!
DEFINITION. The memory path shared by loads, stores, atomics, copies and fetches: translation (R84, R363 to R368), L1 and block
caches (R341 to R347), the region cache (R345 to R349), requests to the homes (R344, R352) and to other modules (R373 to R377).
-/

namespace Sys2Proof.Machine

/-! ### Translation -/

/-- The page of an effective address; none when any of bits [63:53] is set (R121, R363). -/
def pageOf (ea : Nat) : Option Nat := if ea < 2 ^ 53 then some (ea / 2 ^ 21) else none

def Cell.translation (x : Cell) (vpn : Nat) : Option Translation := x.lookaside.find? (fun t => decide (t.vpn = vpn))

/-- Set of a page in a region window cache (R368). -/
def windowSet (vpn : Nat) : Nat := (vpn ^^^ vpn / 2 ^ 12 ^^^ vpn / 2 ^ 24) % 2 ^ 12

def Region.translation (x : Region) (vpn : Nat) : Option Translation :=
  (NMap.get x.windowCache [] (windowSet vpn)).find? (fun t => decide (t.vpn = vpn))

/-- Most recently used first, at most `n` kept. -/
def lruPut (n : Nat) (l : List Translation) (t : Translation) : List Translation :=
  (t :: l.filter (fun u => decide (u.vpn ≠ t.vpn))).take n

/-- Fill the lookaside (64 entries), or a region window cache (16 ways); a hit is the same reordering (R368). -/
def Cell.fillLookaside (x : Cell) (t : Translation) : Cell := { x with lookaside := lruPut 64 x.lookaside t }
def Region.fillWindow (x : Region) (t : Translation) : Region :=
  { x with windowCache := NMap.upd x.windowCache [] (windowSet t.vpn) (fun l => lruPut 16 l t) }

/-- The fabric address of an effective address under its translation (R363). -/
def fabricAddress (t : Translation) (ea : Nat) : Nat := t.home * 2 ^ 43 + t.ppn * 2 ^ 21 + ea % 2 ^ 21

/-- What an access wants of its page (Table 13.3). -/
inductive Want where
  | read | write | atomic | fetch
  deriving DecidableEq, Repr, Inhabited

/-- DETAIL of the PERMISSION park of an access, if it is forbidden: the job tag first, then the permission (Table 13.3). -/
def permission (t : Translation) (job : Half) (w : Want) : Option Nat :=
  if t.job ≠ job then some 2
  else
    let ok :=
      match w with
      | .read => t.rd
      | .write => t.wr && !t.roc
      | .atomic => t.at_ && !t.roc
      | .fetch => t.ex
    if ok then none else some 1

/-- Whether a carried epoch is older than, or newer than, the cell's current one for the job (R124, R125, R574). -/
def Cell.epochOlder (x : Cell) (job : Half) (carried : Nat) : Bool := serialOlder 16 carried (NMap.get x.epochs 0 job.toNat).toNat
def Cell.epochNewer (x : Cell) (job : Half) (carried : Nat) : Bool := serialNewer 16 carried (NMap.get x.epochs 0 job.toNat).toNat

/-- The epoch a group carries: u7[15:0] (R124). -/
def Group.epoch (g : Group) : Nat := Group.uni g 7 % 2 ^ 16

/-! ### L1 and block caches -/

/-- Set index of a line with 2^s sets (R341). -/
def cacheSet (s line : Nat) : Nat :=
  (line ^^^ line / 2 ^ s ^^^ line / 2 ^ (2 * s) ^^^ line / 2 ^ (3 * s) ^^^ line / 2 ^ (4 * s)) % 2 ^ s

/-- The sector of fabric address `fa` in a cache with 2^s sets. -/
def cacheSector (s : Nat) (m : NMap (List CacheLine)) (fa : Nat) : Option SectorData :=
  match (NMap.get m [] (cacheSet s (fa / 128))).find? (fun l => decide (l.line = fa / 128)) with
  | none => none
  | some l => NMap.find l.sectors (fa / 32 % 4)

/-- A hit: the line becomes most recently used and takes the request's class, unless pinned (R346); no more than `maxPinned`
lines of a set are pinned. -/
def cacheTouch (s maxPinned : Nat) (m : NMap (List CacheLine)) (line cls : Nat) (tag : Half) : NMap (List CacheLine) :=
  NMap.upd m [] (cacheSet s line) (fun l =>
    match l.find? (fun x => decide (x.line = line)) with
    | none => l
    | some x =>
      let rest := l.filter (fun y => decide (y.line ≠ line))
      let pinned := (rest.filter (fun y => decide (y.cls = 3))).length
      let x := if x.cls = 3 then x else if cls = 3 ∧ maxPinned ≤ pinned then { x with cls := 2 }
        else { x with cls := cls, tag := if cls = 3 then tag else 0 }
      x :: rest)

/-- The line a full set gives up (R347): the least recently used stream line, else short reuse, else long reuse. -/
def victimOf (l : List CacheLine) : Option Nat :=
  let last (c : Nat) : Option Nat := (l.reverse.find? (fun x => decide (x.cls = c))).map (·.line)
  firstSome [last 0, last 1, last 2]

/-- Put sectors into a cache, allocating the line where it is absent (R346, R347); the answer also says whether a pinned
allocation was made as long reuse. -/
def cacheFill (s ways maxPinned : Nat) (m : NMap (List CacheLine)) (line cls : Nat) (tag : Half) (roc : Bool)
    (secs : NMap SectorData) : NMap (List CacheLine) × Bool :=
  let l := NMap.get m [] (cacheSet s line)
  let add (x : CacheLine) : CacheLine := { x with sectors := secs.foldl (fun a e => NMap.insert a e.1 e.2) x.sectors }
  match l.find? (fun x => decide (x.line = line)) with
  | some x =>
    let m := cacheTouch s maxPinned m line cls tag
    (NMap.upd m [] (cacheSet s line) (fun l => l.map (fun y => if y.line = x.line then add y else y)), false)
  | none =>
    let surplus := decide (cls = 3) && decide (maxPinned ≤ (l.filter (fun y => decide (y.cls = 3))).length)
    let cls := if surplus then 2 else cls
    let new := add { line := line, sectors := [], cls := cls, tag := if cls = 3 then tag else 0, roc := roc }
    if l.length < ways then (NMap.set m [] (cacheSet s line) (new :: l), surplus)
    else
      match victimOf l with
      | some v => (NMap.set m [] (cacheSet s line) (new :: l.filter (fun y => decide (y.line ≠ v))), surplus)
      | none => (m, surplus)

/-- Change a sector where the cache holds it (R343). -/
def cacheModSector (s : Nat) (m : NMap (List CacheLine)) (fa : Nat) (f : SectorData → Option SectorData) : NMap (List CacheLine) :=
  match cacheSector s m fa with
  | none => m
  | some _ =>
    NMap.upd m [] (cacheSet s (fa / 128)) (fun l => l.map (fun x =>
      if x.line = fa / 128 then
        { x with sectors := (x.sectors.filterMap (fun e => if e.1 = fa / 32 % 4 then (f e.2).map (fun d => (e.1, d)) else some e)) }
      else x))

/-- Store bytes into a sector's data, by their place in it; a poisoned store marks it, one of a whole sector clears the mark. -/
def SectorData.store (d : SectorData) (bs : NMap Byte) (poison : Bool) : SectorData :=
  { bytes := bs.foldl (fun l ib => l.set (ib.1 % 32) ib.2) d.bytes
    poison := if poison then true else if 32 ≤ bs.length then false else d.poison }

/-! ### Arbiters (R15, R16, Table 1.2) -/

/-- The rank of a class (Table 1.4). -/
def TrafficClass.rank (k : TrafficClass) : Nat :=
  match k with
  | .req => 0
  | .cpy => 1
  | .col => 2
  | .rsp => 3
  | .mgt => 4

/-- The classes from the highest rank to the lowest. -/
def classOrder : List TrafficClass := [.mgt, .rsp, .col, .cpy, .req]

/-- The class granted among those that wait, given in order of priority, with the grants each was passed over in: the longest passed over of
those that a grant to every other one first would leave without one in 16 (R16), else the first. Assumption 93. -/
def arbitrate (passed : NMap Nat) (waiting : List Nat) : Option Nat :=
  let n (k : Nat) : Nat := NMap.get passed 0 k
  match waiting.filter (fun k => decide (16 ≤ n k + waiting.length)) with
  | [] => waiting.head?
  | k :: r => some (r.foldl (fun a b => if n a < n b then b else a) k)

/-- The grants each waiting class has been passed over in, after one to `granted`. -/
def passOver (passed : NMap Nat) (waiting : List Nat) (granted : Nat) : NMap Nat :=
  waiting.foldl (fun m k => if k = granted then m else NMap.insert m k (NMap.get passed 0 k + 1)) []

/-- Round-robin: the first of the requesters after the last one granted, in rising order (Table 1.2). -/
def roundRobin (last : Option Nat) (l : List Nat) : Option Nat :=
  let least (l : List Nat) : Option Nat := l.foldl (fun (a : Option Nat) b => some (a.elim b (fun x => min x b))) none
  match last with
  | none => least l
  | some n => firstSome [least (l.filter (fun k => decide (n < k))), least l]

/-! ### Requests on their way to the homes (R21, R24 to R27, Table 1.5) -/

def State.fresh (s : State) : Nat × State := (s.nextId, { s with nextId := s.nextId + 1 })

/-- The cell that sent a request. -/
def HomeSource.cell? (h : HomeSource) : Option Nat :=
  match h with
  | .cell c _ => some c
  | .copy c _ => some c
  | _ => none

/-- The class a request travels in (Table 1.3): copy data in CPY, that of other modules' copies among them. -/
def HomeSource.cls (h : HomeSource) : TrafficClass :=
  match h with
  | .copy _ _ => .cpy
  | .remote q => match q.body with
    | .get _ _ => .cpy
    | .put _ _ _ _ _ => .cpy
    | _ => .req
  | _ => .req

/-- Requests of a class, of the cells for which `p` holds, that have come so far: the credits they hold. -/
def State.heldAt (s : State) (k : TrafficClass) (st : RequestStage) (p : Nat → Bool) : Nat :=
  (s.homeQueue.filter (fun e => decide (e.2.stage = st ∧ HomeSource.cls e.2.source = k) && (HomeSource.cell? e.2.source).elim false p)).length

/-- P5 and P6 of a cell; P9 and P10 of a block; P14 and P15, or P17, of a region towards another (Table 1.5). -/
def crossbarPool (k : TrafficClass) : Nat := if k = .cpy then 32 else 64
def networkPool (k : TrafficClass) : Nat := if k = .cpy then 128 else 256
def packagePool : Nat := 64

/-- Packets of a class on their way from a region to another. -/
def State.packets (s : State) (source destination : Nat) (k : TrafficClass) : Nat :=
  (s.package.filter (fun e => decide (e.2.source = source ∧ e.2.destination = destination ∧ e.2.cls = k))).length

/-- Answers that a region has reserved space for and that home region `h` still owes it (P17): requests of its cells that have left it, and packets
on their way back. -/
def State.reserved (s : State) (h r : Nat) : Nat :=
  (s.homeQueue.filter (fun e => decide (e.2.region = h ∧ (e.2.stage = .package ∨ e.2.stage = .home)) &&
    (HomeSource.cell? e.2.source).elim false (fun c => decide (regionOf c = r ∧ r ≠ h)))).length + State.packets s h r .rsp

/-- The lines a request takes at its home: a copy's unit may lie in two. -/
def HomeBody.lines (b : HomeBody) : List Nat :=
  match b with
  | .granuleRead secs => dedupe (secs.map (fun i => i / 4))
  | .granuleStore bs _ => dedupe (bs.map (fun e => e.1 / 128))
  | _ => [0]

/-- What a request asks of line `i` of its granule. -/
def HomeBody.part (b : HomeBody) (i : Nat) : HomeBody :=
  match b with
  | .granuleRead secs => .read ((secs.filter (fun k => decide (k / 4 = i))).map (fun k => k % 4))
  | .granuleStore bs poison => .store ((bs.filter (fun e => decide (e.1 / 128 = i))).map (fun e => (e.1 % 128, e.2)))
      ((poison.filter (fun k => decide (k / 4 = i))).map (fun k => k % 4))
  | b => b

def HomeBody.isUnit (b : HomeBody) : Bool :=
  match b with
  | .granuleRead _ => true
  | .granuleStore _ _ => true
  | _ => false

/-- The 128 bytes of a line that a request's packet carries (R18): those it stores, in their places. -/
def HomeBody.data (b : HomeBody) : List Byte :=
  match b with
  | .write i bs _ => tabulate 128 (fun k => if k / 32 = i then NMap.get bs 0 (k % 32) else 0)
  | .store bs _ => tabulate 128 (fun k => NMap.get bs 0 k)
  | _ => tabulate 128 (fun _ => 0)

/-- Split a copy's unit into its lines (Table 12.4): the copy waits for them instead. The answer is their numbers. -/
def State.splitUnit (s : State) (id : Nat) (q : HomeRequest) (st : RequestStage) : State × List Nat :=
  let n := s.nextId
  let parts := (HomeBody.lines q.body).zipIdx.map (fun ei =>
    (n + ei.2, { q with line := q.line + 128 * ei.1, body := HomeBody.part q.body ei.1, stage := st, begins := q.begins && decide (ei.2 = 0) }))
  let s := { s with homeQueue := parts.foldl (fun m e => NMap.insert m e.1 e.2) (NMap.erase s.homeQueue id), nextId := n + parts.length }
  let s := match q.source with
    | .copy c k => State.modCell s c (fun x => { x with copies := NMap.mod x.copies k (fun y =>
        if y.waits.contains id then { y with waits := y.waits.erase id ++ parts.map (·.1) } else y) })
    | _ => s
  (s, parts.map (·.1))

/-- A request crosses to its home's region: space for the answer and a packet's credit are taken first (R21). -/
def State.cross (s : State) (id : Nat) (q : HomeRequest) (r : Nat) : State :=
  let n := (HomeBody.lines q.body).length
  let k := HomeSource.cls q.source
  if packagePool < State.packets s r q.region k + n ∨ packagePool < State.reserved s q.region r + n then s
  else
    let p := if HomeBody.isUnit q.body then State.splitUnit s id q .package
      else ({ s with homeQueue := NMap.insert s.homeQueue id { q with stage := .package } }, [id])
    p.2.foldl (fun s i =>
      let packet : PackagePacket :=
        { source := r, destination := q.region, cls := k, header := .request i
          data := HomeBody.data ((NMap.find s.homeQueue i).elim q.body (fun y => y.body)) }
      { s with package := NMap.insert s.package i packet }) p.1

/-- The fill of a line-miss slot may bring the sector of fabric address `fa`. -/
def Miss.covers (m : Miss) (fa : Nat) : Bool := decide ((m.kind = .line ∧ m.line = fa / 128) ∨ (m.kind = .remoteLoad ∧ m.line = fa / 64))

/-- A store on its way updates the sectors the cell's L1 and its block's cache hold, and what fills under way for the cell, and for its block, will
bring there (R343); a poisoned store keeps its sector out of them. -/
def State.passCaches (s : State) (c fa : Nat) (part : NMap Byte) (poison : Bool) : State :=
  let put (m : NMap Byte) : NMap Byte := part.foldl (fun m b => NMap.insert m (fa / 32 % 4 * 32 + b.1 % 32) b.2) m
  let b := blockOf c
  let s := { s with cells := s.cells.map (fun e =>
      if blockOf e.1 = b then (e.1, { e.2 with misses := e.2.misses.map (fun k => if Miss.covers k.2 fa then
        (k.1, { k.2 with
          merge := if e.1 = c then put k.2.merge else k.2.merge
          drop := if e.1 = c ∧ poison then fa / 32 % 4 :: k.2.drop else k.2.drop
          blockMerge := put k.2.blockMerge
          blockDrop := if poison then fa / 32 % 4 :: k.2.blockDrop else k.2.blockDrop }) else k) }) else e) }
  let s := State.modCell s c (fun x => { x with l1 := cacheModSector 7 x.l1 fa (fun d => some (SectorData.store d part poison)) })
  let x := State.block s b
  State.setBlock s b { x with cache := cacheModSector 12 x.cache fa (fun d => some (SectorData.store d part poison)) }

/-- An atomic on its way invalidates its sector in the cell's L1 and its block's cache, and fills under way do not bring it back there (R343). -/
def State.passAtomic (s : State) (c fa : Nat) : State :=
  let b := blockOf c
  let i := fa / 32 % 4
  let s := { s with cells := s.cells.map (fun e =>
      if blockOf e.1 = b then (e.1, { e.2 with misses := e.2.misses.map (fun k => if Miss.covers k.2 fa then
        (k.1, { k.2 with drop := if e.1 = c then i :: k.2.drop else k.2.drop, blockDrop := i :: k.2.blockDrop }) else k) }) else e) }
  let s := State.modCell s c (fun x => { x with l1 := cacheModSector 7 x.l1 fa (fun _ => none) })
  let x := State.block s b
  State.setBlock s b { x with cache := cacheModSector 12 x.cache fa (fun _ => none) }

/-- What a request of a cell does to the caches on its way. -/
def State.passBody (s : State) (c : Nat) (q : HomeRequest) : State :=
  let fa (i : Nat) : Nat := s.moduleNumber * 2 ^ 43 + physicalOf (State.ilv s) q.region (q.line + 32 * i)
  match q.body with
  | .write i bs bad => State.passCaches s c (fa i) bs bad
  | .atomic _ _ _ lanes => State.passAtomic s c (fa ((lanes.head?.map (·.addr)).getD 0 / 32 % 4))
  | _ => s

/-- Operation `id` of cell `c` is performed at `scope` (Table 4.10): its value has come, for a load; else the cell no longer holds it, its block has
accepted it (block scope), its home has performed it (wider ones). -/
def State.performed (s : State) (c scope id : Nat) : Bool :=
  let x := State.cell s c
  (NMap.find x.accesses id).all (fun a => match a.kind with
    | .load _ _ => false
    | _ => true) && x.held.all (fun e => decide (e.2.op ≠ id)) && (NMap.find x.heldLocal id).isNone &&
    (NMap.find s.homeQueue id).all (fun q => if scope ≤ 1 then q.after.isEmpty else decide (scope = 2 ∧ q.stage ≠ .cell ∧ q.stage ≠ .crossbar)) &&
    (decide (scope ≤ 2) || (State.region s (regionOf c)).txns.all (fun e => decide (e.2.op ≠ id)))

/-- A request of a cell that its order does not hold goes to the block when a credit of P5 or P6 is free; one that was held updates the caches
then (R138, R343). -/
def State.leaveCell (s : State) (id : Nat) : State :=
  match NMap.find s.homeQueue id with
  | none => s
  | some q =>
    match HomeSource.cell? q.source with
    | none => s
    | some c =>
      let k := HomeSource.cls q.source
      if q.stage = .cell ∧ q.after.all (fun i => State.performed s c q.scope i) ∧ State.heldAt s k .crossbar (fun d => decide (d = c)) < crossbarPool k then
        let s := if q.after.isEmpty then s else State.passBody s c q
        { s with homeQueue := NMap.insert s.homeQueue id { q with stage := .crossbar, after := [] } }
      else s

/-- Grant credits of P9 or P10 of a block to the requests at its crossbar, round-robin among its cells (Table 1.2), up to a number. -/
def State.grantBlock : Nat → State → Nat → TrafficClass → State
  | 0, s, _, _ => s
  | n + 1, s, b, k =>
    let here := s.homeQueue.filter (fun e => decide (e.2.stage = .crossbar ∧ HomeSource.cls e.2.source = k) &&
      (HomeSource.cell? e.2.source).elim false (fun c => decide (blockOf c = b)))
    let x := State.block s b
    match roundRobin (NMap.find x.crossbar.last (TrafficClass.rank k)) (here.filterMap (fun e => HomeSource.cell? e.2.source)) with
    | none => s
    | some c =>
      match here.find? (fun e => decide (HomeSource.cell? e.2.source = some c)) with
      | none => s
      | some e =>
        if State.heldAt s k .network (fun d => decide (blockOf d = b)) < networkPool k then
          let s := { s with homeQueue := NMap.insert s.homeQueue e.1 { e.2 with stage := .network } }
          State.grantBlock n (State.setBlock s b { x with crossbar := { x.crossbar with last := NMap.insert x.crossbar.last (TrafficClass.rank k) c } }) b k
        else s

/-- The requests in age order, each to the package network where its home is another region and credits are free (oldest first, Table 1.2). -/
def State.grantPackage (s : State) : State :=
  s.homeQueue.foldl (fun s e =>
    match NMap.find s.homeQueue e.1 with
    | none => s
    | some q =>
      match HomeSource.cell? q.source with
      | none => s
      | some c => if q.stage = .network ∧ regionOf c ≠ q.region then State.cross s e.1 q (regionOf c) else s) s

/-- One round of grants along the way of the requests: region, block, cell. -/
def State.grantRound (s : State) : State :=
  let s := State.grantPackage s
  let blocks := dedupe (s.homeQueue.filterMap (fun e => if e.2.stage = .crossbar then (HomeSource.cell? e.2.source).map blockOf else none))
  let n := s.homeQueue.length
  let s := blocks.foldl (fun s b => State.grantBlock n (State.grantBlock n s b .cpy) b .req) s
  s.homeQueue.foldl (fun s e => State.leaveCell s e.1) s

/-- Rounds until nothing moves, at most a number of them. -/
def State.grantUpTo : Nat → State → State
  | 0, s => s
  | n + 1, s =>
    let t := State.grantRound s
    if t.homeQueue = s.homeQueue then s else State.grantUpTo n t

/-- Every request goes as far as the credits that are free let it (R24, R27): each round moves one of them by one of four stages. -/
def State.grant (s : State) : State := State.grantUpTo (4 * s.homeQueue.length + 1) s

/-- Send a request of a cell's group or copy towards the home of a physical address, under a new number. -/
def State.sendHome (s : State) (source : HomeSource) (pa : Nat) (body : HomeBody) (scope cls : Nat) (tag : Half) (uses answers : Option Nat)
    (after : List Nat) (begins : Bool) : State :=
  let h := homeOf (State.ilv s) pa
  let unit := if HomeBody.isUnit body then 256 else 128
  let r : HomeRequest :=
    { source := source, region := h.1, line := h.2.1 / unit * unit, body := body, scope := scope, cls := cls, tag := tag
      uses := uses, answers := answers, stage := .cell, after := after, populated := h.2.2, begins := begins, joined := none }
  State.grant { s with homeQueue := NMap.insert s.homeQueue s.nextId r, nextId := s.nextId + 1 }

/-! ### Requests to other modules (R373, R377) -/

/-- A transaction number: source region, entry, 8-bit generation (R373; the layout is the model's, notes: assumption 12). -/
def txnNumber (region entry gen : Nat) : BitVec 32 := BitVec.ofNat 32 (region * 2 ^ 22 + entry * 2 ^ 8 + gen)

/-- The lowest free entry of a region's table of 16,384, if one is free. -/
def freeEntry (m : NMap Transaction) : Option Nat :=
  if m.length < 16384 then some ((m.foldl (fun n e => if e.1 = n then n + 1 else n) 0)) else none

/-- The fabric addresses of the bytes a request reads or writes. -/
def RequestBody.bytes (b : RequestBody) : List Nat :=
  match b with
  | .load a mask => (bitIndices 64 mask.toNat).map (fun i => a / 64 * 64 + i)
  | .store a mask _ _ => (bitIndices 64 mask.toNat).map (fun i => a / 64 * 64 + i)
  | .atomic _ _ size ls => ls.flatMap (fun l => tabulate size (fun i => l.addr + i))
  | .get a n => tabulate n (fun i => a + i)
  | .put a mask _ _ _ => (bitIndices 256 mask.toNat).map (fun i => a / 256 * 256 + i)
  | .notify _ _ => []

/-- What a request to module `m` does to the caches on its way, where they hold lines of a read-only cached window of that module (R183, R343). -/
def State.passRequest (s : State) (c m : Nat) (b : RequestBody) : State :=
  let store (base mask : Nat) (bs : List Byte) (sectors : Nat) (bad : Nat → Bool) : State :=
    (List.range sectors).foldl (fun s k =>
      let idx := (List.range 32).filter (fun i => mask.testBit (32 * k + i))
      if idx.isEmpty then s else State.passCaches s c (m * 2 ^ 43 + base + 32 * k) (idx.map (fun i => (i, bs.getD (32 * k + i) 0))) (bad k)) s
  match b with
  | .store a mask bs poison => store (a / 64 * 64) mask.toNat bs 2 (fun _ => poison)
  | .put a mask bs poison _ => store (a / 256 * 256) mask.toNat bs 8 (fun k => poison.getLsbD k)
  | .atomic _ _ _ ls => State.passAtomic s c (m * 2 ^ 43 + (ls.head?.map (·.addr)).getD 0)
  | _ => s

def RequestBody.reads (b : RequestBody) : Bool :=
  match b with
  | .load _ _ => true
  | .get _ _ => true
  | _ => false

/-- Send a request packet from cell `c`: it takes a transaction entry, its number goes into the packet, and the packet leaves,
unless its destination is declared failed (R394: it is then answered LOST at once). None where no entry is free (R377). A page of another
module that it writes may hold code (R144). -/
def State.transmit (s : State) (c slot op : Nat) (q : RequestPacket) (miss copy : Option Nat) : Option State :=
  let rn := regionOf c
  let r := State.region s rn
  match freeEntry r.txns with
  | none => none
  | some e =>
    let gen := NMap.get r.generations 0 e
    let q := { q with txn := txnNumber rn e gen }
    let t : Transaction :=
      { generation := gen, packet := q, sent := s.timebase, cell := c, slot := slot, op := op, miss := miss, copy := copy
        granules := match q.body with
          | .get _ n => List.range (n / 256)
          | _ => [] }
    let r := { r with txns := NMap.insert r.txns e t, generations := NMap.set r.generations 0 e ((gen + 1) % 256) }
    let s := State.passRequest (State.setRegion s rn r) c q.destination q.body
    let s := if RequestBody.reads q.body then s
      else match RequestBody.bytes q.body with
        | [] => s
        | a :: _ => { s with codeWrites := NMap.set s.codeWrites 0 (q.destination * 2 ^ 22 + a / 2 ^ 21) s.nextId }
    some (if (NMap.find s.fabric.failed q.destination).isSome then s else State.emit s (.request q))

/-- The 64-byte ranges, sectors or lines a list of addresses touches, in order of first touch. -/
def touched (unit : Nat) (as : List Nat) : List Nat := dedupe (as.map (fun a => a / unit))

/-- The lowest address a request names, and the bytes of its aligned range. -/
def bodyRange (b : RequestBody) : Nat × Nat :=
  match b with
  | .load a _ => (a / 64 * 64, 64)
  | .store a _ _ _ => (a / 64 * 64, 64)
  | .atomic _ _ _ ls => ((ls.head?.map (·.addr)).getD 0 / 32 * 32, 32)
  | .get a n => (a, n)
  | .put a _ _ _ _ => (a / 256 * 256, 256)
  | .notify _ _ => (0, 0)

/-- Two requests of one group meet at an address, and not both read (R134, R378). -/
def packetsMeet (p q : RequestPacket) : Bool :=
  decide (p.destination = q.destination) && !(RequestBody.reads p.body && RequestBody.reads q.body)
    && (let b := RequestBody.bytes q.body; (RequestBody.bytes p.body).any (fun a => b.contains a))

/-- Send a group's request to another module now, or hold it back until the operations of `after` are performed at `scope` (R138, R140), the group's
earlier requests to the same address are answered (R134), and a transaction entry is free (R377). The operation's number is `op`. -/
def State.sendRemote (s : State) (c slot op scope : Nat) (q : RequestPacket) (miss : Option Nat) (after : List Nat) : State :=
  let x := State.cell s c
  let conflicts := (State.region s (regionOf c)).txns.any (fun e =>
    decide (e.2.cell = c ∧ e.2.slot = slot ∧ e.2.copy = none) && packetsMeet e.2.packet q)
  let earlier := x.held.any (fun e => decide (e.2.slot = slot) && packetsMeet e.2.packet q)
  let hold : State :=
    { State.setCell s c { x with held := NMap.insert x.held s.nextId { slot := slot, op := op, packet := q, miss := miss, scope := scope, after := after } }
      with nextId := s.nextId + 1 }
  if after.isEmpty && !conflicts && !earlier then (State.transmit s c slot op q miss none).getD hold else hold

/-! ### Data arriving for a group -/

/-- Byte `i` of the sectors gathered for an access. -/
def gathered (secs : NMap SectorData) (fa : Nat) : Byte × Bool :=
  match NMap.find secs (fa / 32) with
  | some d => (d.bytes.getD (fa % 32) 0, d.poison)
  | none => (0, true)

/-- Write the destination of a load of 2^size bytes a lane: `val l i` is byte `i` of lane `l`, `mark l i` whether the word it
lies in is poisoned, `ea l` the lane's effective address (R86, R119). -/
def Group.loadInto (g : Group) (reg ex size : Nat) (signed : Bool) (val : Nat → Nat → Byte) (mark : Nat → Nat → Bool)
    (ea : Nat → DWord) : Group :=
  let n := 2 ^ size
  let regs := if n ≤ 4 then 1 else n / 4
  (List.range regs).foldl (fun g k =>
    let bytes (l : Nat) : Nat := ofBytes (tabulate (min n 4) (fun i => val l (4 * k + i)))
    let v (l : Nat) : Nat := if signed ∧ n < 4 then unsgn 32 (sgn (8 * n) (bytes l)) else bytes l
    let marks := maskOf ((List.range 32).filter (fun l => ex.testBit l && mark l (4 * k)))
    let src := ((List.range 32).find? (fun l => marks.testBit l)).map ea
    Group.write g (reg + k) ex v marks (src.getD 0)) g

/-- Registers a destination of 2^size bytes takes. -/
def destRegs (reg size : Nat) : List Nat := tabulate (if size ≤ 2 then 1 else 2 ^ size / 4) (fun k => reg + k)

/-- Drop one occurrence of each register from the awaited list. -/
def unawait (l regs : List Nat) : List Nat := regs.foldl (fun l r => l.erase r) l

/-- Finish an access all of whose data are there: its destination is written, unless its group has gone (R81, R152, R161). -/
def Cell.finishAccess (x : Cell) (id : Nat) (a : Access) : Cell :=
  let x := { x with accesses := NMap.erase x.accesses id }
  match Cell.group x a.slot with
  | none => x
  | some g =>
    let lane (l : Nat) : LaneAddr := (a.lanes.find? (fun y => decide (y.lane = l))).getD { lane := l, fa := 0, ea := 0 }
    let ex := maskOf (a.lanes.map (·.lane))
    match a.kind with
    | .load size signed =>
      let g := Group.loadInto g a.reg ex size signed (fun l i => (gathered a.sectors ((lane l).fa + i)).1)
        (fun l i => (gathered a.sectors ((lane l).fa + i)).2) (fun l => (lane l).ea)
      Cell.setGroup x a.slot { g with awaited := unawait g.awaited (destRegs a.reg size), acquire := g.acquire.erase id }
    | .atomic size =>
      let v (l : Nat) : DWord × Bool := NMap.get a.values (0, true) l
      let g := Group.loadInto g a.reg ex size false (fun l i => BitVec.ofNat 8 ((v l).1.toNat / 2 ^ (8 * i))) (fun l _ => (v l).2)
        (fun l => (lane l).ea)
      Cell.setGroup x a.slot { g with awaited := unawait g.awaited (destRegs a.reg size), acquire := g.acquire.erase id }
    | .fetch =>
      match a.lanes.head? with
      | none => x
      | some y =>
        let word : DWord := BitVec.ofNat 64 (ofBytes (tabulate 8 (fun i => (gathered a.sectors (y.fa + i)).1)))
        Cell.setGroup x a.slot
          (if a.reg = g.pc.toNat ∧ g.fetched.length = y.lane then { g with fetched := g.fetched ++ [word] } else g)

/-- Data of line-miss slot `miss` reach the accesses joined to it; those with nothing left to wait for finish. -/
def Cell.deliver (x : Cell) (miss : Nat) (base : Nat) (secs : NMap SectorData) (values : NMap (DWord × Bool)) : Cell :=
  x.accesses.foldl (fun x e =>
    if e.2.waits.contains miss then
      let a := { e.2 with
        waits := e.2.waits.erase miss
        sectors := secs.foldl (fun m d => NMap.insert m (base + d.1) d.2) e.2.sectors
        values := values.foldl (fun m d => NMap.insert m d.1 d.2) e.2.values }
      if a.waits.isEmpty && a.later.asks.isEmpty then Cell.finishAccess x e.1 a else { x with accesses := NMap.insert x.accesses e.1 a }
    else x) x

/-- An instruction word the spec leaves undefined (R144). -/
def freeInsn (n : Nat) : DWord := Config.freeWord n ++ Config.freeWord (n + 1)

/-- The fetches of a cell that waited for line-miss slot `miss` in `before` and have ended, from pages written under their launch: the words are undefined (R144). -/
def State.openFetches (before s : State) (c miss : Nat) : State :=
  (State.cell before c).accesses.foldl (fun s e =>
    match e.2.kind, e.2.lanes.head?, State.group s { cell := c, slot := e.2.slot } with
    | .fetch, some y, some grp =>
      if e.2.waits.contains miss && (NMap.find (State.cell s c).accesses e.1).isNone && State.codeWritten before grp.launch y.fa
          && decide (e.2.reg = grp.pc.toNat ∧ grp.fetched.length = y.lane + 1) then
        State.setGroup { s with freeCount := s.freeCount + 2 } { cell := c, slot := e.2.slot }
          { grp with fetched := grp.fetched.take y.lane ++ [freeInsn s.freeCount] }
      else s
    | _, _, _ => s) s

end Sys2Proof.Machine
end

