-- ==== Sys2Proof/Machine/Sieve.lean ====
section
/-!
DEFINITION. The Sieve and the scale table: histograms (R294 to R299), saturations (R302), scale updates (R304), and the scale a
conversion takes (R305, R306).
-/

namespace Sys2Proof.Machine

/-! ### Histograms -/

def satAdd (w a b : Nat) : Nat := min (a + b) (2 ^ w - 1)

/-- ⌊log₂ |x|⌋ of a finite non-zero value. -/
def exponentOf (m : Nat) (e : Int) : Int := e + bitLen m - 1

def optMax (a b : Option Int) : Option Int :=
  match a, b with
  | some x, some y => some (if x < y then y else x)
  | some x, none => some x
  | none, y => y

/-- Count one value (Table 10.1). -/
def Histogram.addValue (h : Histogram) (binLo : Int) (v : Num) : Histogram :=
  match v with
  | .nan => { h with nan := satAdd 32 h.nan 1 }
  | .inf _ => { h with inf := satAdd 32 h.inf 1 }
  | .fin _ m e =>
    if m = 0 then { h with zero := satAdd 32 h.zero 1 }
    else
      let x := exponentOf m e
      let bin := if x ≤ binLo then 0 else min 63 (x - binLo).toNat
      { h with bins := NMap.upd h.bins 0 bin (fun n => satAdd 32 n 1), expMax := optMax h.expMax (some x) }

/-- Add two histograms (R298); merged bins are `w` bits wide. -/
def Histogram.join (w : Nat) (a b : Histogram) : Histogram :=
  { bins := b.bins.foldl (fun m e => NMap.upd m 0 e.1 (fun n => satAdd w n e.2)) a.bins
    zero := satAdd w a.zero b.zero, inf := satAdd w a.inf b.inf, nan := satAdd w a.nan b.nan, sat := satAdd w a.sat b.sat
    expMax := optMax a.expMax b.expMax }

/-! ### The tap -/

def Cell.modSieve (x : Cell) (f : Sieve → Sieve) : Cell := { x with sieve := f x.sieve }

/-- The binding of a tag. -/
def Sieve.binding (v : Sieve) (tag : Nat) : Binding := NMap.get v.bindings default tag

/-- Feed values under a tag (R294, R295). -/
def Sieve.feed (v : Sieve) (tag : Nat) (xs : List Num) : Sieve :=
  let h := xs.foldl (fun h x => Histogram.addValue h (Sieve.binding v tag).binLo x) (NMap.get v.counting.tags Histogram.reset tag)
  { v with counting := { v.counting with tags := NMap.set v.counting.tags Histogram.reset tag h } }

def State.feed (s : State) (c tag : Nat) (xs : List Num) : State :=
  if xs.isEmpty then s
  else State.countUnits (State.modCell s c (fun x => Cell.modSieve x (fun v => Sieve.feed v tag xs))) .sieveValues c 1024 xs.length

/-- `n` saturations of conversions that use a slot (R302): against the lowest tag bound to it, else in one of the 32 entries keyed by
slot; else they are sent at once. The answer says whether they were. -/
def Sieve.saturate (v : Sieve) (slot n : Nat) : Sieve × Bool :=
  match v.bindings.find? (fun e => e.2.valid && decide (e.2.slot = slot)) with
  | some e =>
    let h := NMap.get v.counting.tags Histogram.reset e.1
    let tags := NMap.set v.counting.tags Histogram.reset e.1 { h with sat := satAdd 32 h.sat n }
    ({ v with counting := { v.counting with tags := tags } }, false)
  | none =>
    if (NMap.find v.counting.sats slot).isSome || decide (v.counting.sats.length < 32) then
      let sats := NMap.upd v.counting.sats 0 slot (fun k => satAdd 32 k n)
      ({ v with counting := { v.counting with sats := sats } }, false)
    else (v, true)

def State.saturate (s : State) (c slot n : Nat) : State :=
  if n = 0 then s
  else
    let v := (State.cell s c).sieve
    let r := Sieve.saturate v slot n
    let s := State.modCell s c (fun x => { x with sieve := r.1 })
    if r.2 then
      let s := State.count s .satDirect 0 c n
      { s with scale := { s.scale with saturations := s.scale.saturations ++ List.replicate n (slot, v.step) } }
    else s

/-! ### Steps and merging -/

/-- A slot and a step as one key. -/
def mergeKey (slot : Nat) (step : Word) : Nat := slot * 2 ^ 32 + step.toNat

def SlotMerge.none : SlotMerge :=
  { participated := false, since := 0, sums := Histogram.reset, saturated := false, corr := 0, stalled := false }

def ScaleTable.modMerge (t : ScaleTable) (slot : Nat) (step : Word) (f : SlotMerge → SlotMerge) : ScaleTable :=
  { t with merges := NMap.insert t.merges (mergeKey slot step) (f (NMap.get t.merges SlotMerge.none (mergeKey slot step))) }

def ScaleTable.slot (t : ScaleTable) (k : Nat) : ScaleSlot := NMap.get t.slots ScaleSlot.reset k
def ScaleTable.setSlot (t : ScaleTable) (k : Nat) (x : ScaleSlot) : ScaleTable := { t with slots := NMap.set t.slots ScaleSlot.reset k x }

/-- The slots the VALID entries of a binding table name, by tag. -/
def Sieve.boundSlots (v : Sieve) : NMap Nat := (v.bindings.filter (fun e => e.2.valid)).map (fun e => (e.1, e.2.slot))

/-- A cell takes part in a slot (R296). -/
def Sieve.takesPart (v : Sieve) (slot : Nat) : Bool := v.bindings.any (fun e => e.2.valid && decide (e.2.slot = slot))

/-- The boundary a newer `step` marks (R296, R297): the counting bank freezes with the slots its tags fed, the other counts from
nothing, entries that waited take their values, and BIN_LO is that of the slots. -/
def Sieve.advance (v : Sieve) (t : ScaleTable) (b : Word) : Sieve :=
  let bindings := v.waiting.foldl (fun m e => NMap.set m default e.1 e.2) v.bindings
  { step := b
    counting := { Bank.reset with step := b }
    frozen := some { v.counting with step := v.step, slots := Sieve.boundSlots v }
    bindings := bindings.map (fun e => (e.1, if e.2.valid then { e.2 with binLo := (ScaleTable.slot t e.2.slot).binLo } else e.2))
    waiting := [] }

/-- The cell passes a step (R297 to R299): every slot it took part in has one participant more that has passed it. -/
def State.passStep (s : State) (c : Nat) (b : Word) : State :=
  let v := (State.cell s c).sieve
  let slots := dedupe ((Sieve.boundSlots v).map (·.2))
  let scale := slots.foldl (fun t k => ScaleTable.modMerge t k v.step (fun m =>
    if m.participated then m else { m with participated := true, since := s.timebase })) s.scale
  let s := { s with scale := scale }
  State.modCell s c (fun x => Cell.modSieve x (fun v => Sieve.advance v s.scale b))

/-- `SIEVE_BANK_MERGE` (R298): the block controller adds the frozen bank to its sums, slot by slot, and frees it. -/
def execSieveBankMerge (c : Nat) (s : State) : Host.Outcome State Fault Refusal :=
  match (State.cell s c).sieve.frozen with
  | none => .next s
  | some k =>
    let b := State.block s (blockOf c)
    let add (m : NMap Histogram) (slot : Nat) (h : Histogram) : NMap Histogram :=
      let key := mergeKey slot k.step
      NMap.insert m key (Histogram.join 48 (NMap.get m Histogram.reset key) h)
    let sums := k.slots.foldl (fun m e => add m e.2 (NMap.get k.tags Histogram.reset e.1)) b.sums
    let sums := k.sats.foldl (fun m e => add m e.1 { Histogram.reset with sat := e.2 }) sums
    let s := State.setBlock s (blockOf c) { b with sums := sums }
    .next (State.modCell s c (fun x => Cell.modSieve x (fun v => { v with frozen := none })))

/-- EMAX of an element format (Table 10.4). -/
def elementEmax (fmt : Nat) : Int := if fmt = 3 then 8 else if fmt = 4 then 15 else if fmt = 5 then 2 else 0

def clampTo (lo hi v : Int) : Int := if v < lo then lo else if hi < v then hi else v

/-- The update of a DYNAMIC slot when a step is complete (R304); the first after it was configured anew makes X INIT_X (R308, assumption 97). -/
def ScaleSlot.update (k : ScaleSlot) (step : Word) (expMax : Option Int) (saturated : Bool) (corr : Nat) : ScaleSlot :=
  let e : Option Int := expMax.map (fun (e : Int) => if 0 < corr then (if 127 < e + corr then 127 else e + corr) else e)
  let byte (e : Int) : Byte := BitVec.ofNat 8 (clampTo 0 254 (e + 127)).toNat
  let h := k.hlen + 1
  let event := saturated || decide (0 < corr)
  let full (l : List Byte) : List Byte := tabulate 64 (fun i => if i < h then l.getD i 0xFF else 0xFF)
  let hist := match e with
    | none => k.hist
    | some e => if event then full (List.replicate h (byte e)) else full (byte e :: k.hist)
  let pen := if event then 4 else k.pen - 1
  let listed := (hist.filter (fun b => decide (b ≠ 0xFF))).map (·.toNat)
  let base : Int := if listed.isEmpty then k.initX else (listed.foldl max 0 : Nat) + k.head - elementEmax k.fmt
  { k with
    hist := hist, pen := pen, x := if k.restart then k.initX else (clampTo 0 254 (base + (if 0 < pen then 1 else 0))).toNat
    step := step, satStep := event, restart := false }

/-- The pending steps of a slot that a cell took part in, with their merges. -/
def ScaleTable.due (t : ScaleTable) (slot : Nat) : List (Word × SlotMerge) :=
  (t.merges.filter (fun e => decide (e.1 / 2 ^ 32 = slot) && e.2.participated)).map (fun e => (BitVec.ofNat 32 (e.1 % 2 ^ 32), e.2))

/-- The oldest of them. -/
def ScaleTable.oldest (t : ScaleTable) (slot : Nat) : Option (Word × SlotMerge) :=
  (ScaleTable.due t slot).foldl (fun a e => match a with
    | none => some e
    | some x => if serialOlder 32 e.1.toNat x.1.toNat then some e else some x) none

/-- Step `m` of a slot is complete (R298): every participant has advanced past it and its banks and block sums have arrived. -/
def State.stepComplete (s : State) (slot : Nat) (m : Word) : Bool :=
  s.cells.all (fun e =>
    let v := e.2.sieve
    (!Sieve.takesPart v slot || serialNewer 32 v.step.toNat m.toNat) &&
      (match v.frozen with
      | none => true
      | some k => decide (k.step ≠ m) || !(k.slots.any (fun t => decide (t.2 = slot)) || (NMap.find k.sats slot).isSome))) &&
    s.blocks.all (fun e => (NMap.find e.2.sums (mergeKey slot m)).isNone)

/-- Complete the oldest step of a slot (R299, R304): the histogram area, the update, the stall's release. -/
def State.completeStep (s : State) (slot : Nat) (m : Word) (g : SlotMerge) : State :=
  let k := ScaleTable.slot s.scale slot
  let sat := g.saturated || decide (0 < g.sums.sat) || k.lateSat
  let corr := max g.corr k.lateCorr
  let home := slot % 8
  let k1 := if k.dynamic then ScaleSlot.update k m g.sums.expMax sat corr else { k with satStep := sat || decide (0 < corr) }
  let k2 := { k1 with
    area := { g.sums with sat := satAdd 48 g.sums.sat k.lateSats }, done := some m, lateSat := false, lateSats := 0, lateCorr := 0 }
  let t := { s.scale with merges := NMap.erase s.scale.merges (mergeKey slot m) }
  let s := { s with scale := ScaleTable.setSlot t slot k2 }
  let s := if g.stalled then State.endEpisode s 0x67 1 home slot else s
  if k.dynamic then
    let s := State.count s .scaleUpdates 0 home 1
    if sat || decide (0 < corr) then State.count s .scaleEvents 0 home 1 else s
  else s

/-- Complete every step of a slot that is complete, oldest first; `fuel` bounds the number of pending steps. -/
def State.settleSlot (s : State) (slot : Nat) : Nat → State
  | 0 => s
  | fuel + 1 =>
    match ScaleTable.oldest s.scale slot with
    | none => s
    | some (m, g) => if State.stepComplete s slot m then State.settleSlot (State.completeStep s slot m g) slot fuel else s

def State.settle (s : State) (slot : Nat) : State := State.settleSlot s slot s.scale.merges.length

/-- A report for a step whose update has completed (R302, R413). -/
def ScaleSlot.past (k : ScaleSlot) (step : Word) : Bool :=
  match k.done with
  | none => false
  | some d => !serialNewer 32 step.toNat d.toNat

/-- Saturations of a step that come after its update count towards the next update (R302). -/
def ScaleSlot.saturateLate (k : ScaleSlot) (n : Nat) : ScaleSlot := { k with lateSat := true, lateSats := satAdd 48 k.lateSats n }

/-- Sums of a step reach the slot's home; those of cells that take no part in the slot may come after the step's update (assumption 98). -/
def State.contribute (s : State) (slot : Nat) (step : Word) (h : Histogram) : State :=
  let k := ScaleTable.slot s.scale slot
  if ScaleSlot.past k step then
    if h.sat = 0 then s
    else State.count { s with scale := ScaleTable.setSlot s.scale slot (ScaleSlot.saturateLate k h.sat) } .lateReport 0 (slot % 8) 1
  else { s with scale := ScaleTable.modMerge s.scale slot step (fun m => { m with sums := Histogram.join 48 m.sums h }) }

/-- `HISTOGRAM_CONTRIBUTION` (R298, R299, R304): the region adds its blocks' sums of the slot and its contribution reaches the slot's
home, which completes the steps that are complete. -/
def execHistogramContribution (region slot : Nat) (s : State) : Host.Outcome State Fault Refusal :=
  let mine (key : Nat) : Bool := decide (key / 2 ^ 32 = slot)
  let blocks := (List.range 8).map (fun i => 8 * region + i)
  let parts := blocks.flatMap (fun b => (State.block s b).sums.filter (fun e => mine e.1))
  let s1 := parts.foldl (fun s e => State.contribute s slot (BitVec.ofNat 32 (e.1 % 2 ^ 32)) e.2) s
  let s2 := blocks.foldl (fun s b =>
    let x := State.block s b
    if x.sums.any (fun e => mine e.1) then State.setBlock s b { x with sums := x.sums.filter (fun e => !mine e.1) } else s) s1
  .next (State.settle s2 slot)

/-- 100 ms in nanoseconds. -/
def stallNs : Nat := 100000000

/-- `SCALE_STALL_EXPIRY` (R299): the alarm, once for the stalled step. -/
def execScaleStallExpiry (slot : Nat) (s : State) : Host.Outcome State Fault Refusal :=
  match ScaleTable.oldest s.scale slot with
  | none => .next s
  | some (m, g) =>
    if g.stalled ∨ s.timebase < g.since + stallNs then .next s
    else
      let s1 := { s with scale := ScaleTable.modMerge s.scale slot m (fun g => { g with stalled := true }) }
      .next (State.beginEpisode s1 0x67 1 (slot % 8) slot (m.toNat * 2 ^ 32 + slot))

/-! ### Reports that come late -/

/-- `SAT_DIRECT` (R302). -/
def execSatDirect (slot : Nat) (s : State) : Host.Outcome State Fault Refusal :=
  match s.scale.saturations.find? (fun e => decide (e.1 = slot)) with
  | none => .next s
  | some e =>
    let t := { s.scale with saturations := s.scale.saturations.erase e }
    let k := ScaleTable.slot t slot
    if ScaleSlot.past k e.2 then
      let s1 := { s with scale := ScaleTable.setSlot t slot (ScaleSlot.saturateLate k 1) }
      .next (State.count s1 .lateReport 0 (slot % 8) 1)
    else
      let add (m : SlotMerge) : SlotMerge :=
        { m with saturated := true, sums := Histogram.join 48 m.sums { Histogram.reset with sat := 1 } }
      .next { s with scale := ScaleTable.modMerge t slot e.2 add }

/-- `RESCALE_REPORT` (R303, R413): the largest raise of a step is its CORR; a poisoned block also marks the step as saturated. -/
def execRescaleReport (slot : Nat) (s : State) : Host.Outcome State Fault Refusal :=
  match s.scale.rescales.find? (fun e => decide (e.1 = slot)) with
  | none => .next s
  | some e =>
    let t := { s.scale with rescales := s.scale.rescales.erase e }
    let k := ScaleTable.slot t slot
    if ScaleSlot.past k e.2.1 then
      let s1 := { s with scale := ScaleTable.setSlot t slot { k with lateCorr := max k.lateCorr e.2.2.1, lateSat := k.lateSat || e.2.2.2 } }
      .next (State.count s1 .lateReport 0 (slot % 8) 1)
    else .next { s with scale := ScaleTable.modMerge t slot e.2.1 (fun m =>
      { m with corr := max m.corr e.2.2.1, saturated := m.saturated || e.2.2.2 }) }

/-! ### The scale of a conversion -/

/-- A cached scale serves a conversion of step `n` (R305). -/
def CachedScale.serves (e : CachedScale) (n : Word) : Bool :=
  !serialOlder 32 e.step.toNat ((n.toNat + 2 ^ 32 - 1) % 2 ^ 32) || !serialOlder 32 e.upTo.toNat n.toNat

/-- The scale of slot `slot` for a conversion of step `n` into `fmt` (R305, R306). -/
def Cell.scaleFor (x : Cell) (slot : Nat) (n : Word) (fmt : Nat) : Option Nat :=
  (x.scaleCache.find? (fun e => decide (e.slot = slot) && CachedScale.serves e n)).map (fun e =>
    (clampTo 0 254 (e.x + elementEmax e.fmt - elementEmax fmt)).toNat)

/-- A conversion that must wait asks the slot's home, unless the cell has asked already for that step or a later one. -/
def Cell.askScale (x : Cell) (slot : Nat) (n : Word) : Cell :=
  match NMap.find x.scaleAsks slot with
  | some a => if serialOlder 32 a.step.toNat n.toNat then { x with scaleAsks := NMap.insert x.scaleAsks slot { step := n, answer := none } } else x
  | none => { x with scaleAsks := NMap.insert x.scaleAsks slot { step := n, answer := none } }

/-- An update of the slot for a step before `n` is due and has not completed (R305). -/
def State.updateDue (s : State) (slot : Nat) (n : Word) : Bool :=
  (ScaleTable.due s.scale slot).any (fun e => serialOlder 32 e.1.toNat n.toNat) ||
    s.cells.any (fun e => Sieve.takesPart e.2.sieve slot && serialOlder 32 e.2.sieve.step.toNat n.toNat)

/-- `SCALE_FETCH` (R305): the home answers once no update that is due for an earlier step is missing. -/
def execScaleFetch (c slot : Nat) (s : State) : Host.Outcome State Fault Refusal :=
  match NMap.find (State.cell s c).scaleAsks slot with
  | none => .next s
  | some a =>
    let k := ScaleTable.slot s.scale slot
    if a.answer.isSome ∨ (k.dynamic ∧ State.updateDue s slot a.step) then .next s
    else
      let e : CachedScale := { slot := slot, fmt := k.fmt, x := if k.dynamic then k.x else k.initX, step := k.step, upTo := a.step }
      .next (State.modCell s c (fun x => { x with scaleAsks := NMap.insert x.scaleAsks slot { a with answer := some e } }))

/-- `SCALE_ANSWER` (R305): the answer enters the cache of 32 scales, most recent first. -/
def execScaleAnswer (c slot : Nat) (s : State) : Host.Outcome State Fault Refusal :=
  match NMap.find (State.cell s c).scaleAsks slot with
  | none => .next s
  | some a =>
    match a.answer with
    | none => .next s
    | some e =>
      .next (State.modCell s c (fun x =>
        { x with
          scaleAsks := NMap.erase x.scaleAsks slot
          scaleCache := (e :: x.scaleCache.filter (fun y => decide (y.slot ≠ slot))).take 32 }))

end Sys2Proof.Machine
end

