-- ==== Sys2Proof/Machine/CopyDesc.lean ====
section
/-!
DEFINITION. Arrival-counter updates (R163, R166), copy descriptors (Table 5.5) and their checks (Table 5.7), and what an incomplete
copy leaves undefined (R185).
-/

namespace Sys2Proof.Machine

/-! ### Arrival counters -/

def Cell.arrival (x : Cell) (k : Nat) : Arrival := NMap.get x.arrivals default k

/-- An increment of a counter (R163): VALUE grows modulo 2^32, and the groups whose await it satisfies are released (R166). -/
def Cell.increment (x : Cell) (k amount : Nat) : Cell :=
  let a := Cell.arrival x k
  let v := a.value + BitVec.ofNat 32 amount
  let x := { x with arrivals := NMap.set x.arrivals default k { a with value := v } }
  { x with groups := x.groups.map (fun e =>
      match e.2.hold with
      | .await j t => if j = k ∧ (v - t).toNat < 2 ^ 31 then (e.1, { e.2 with hold := .none }) else e
      | _ => e) }

/-- The groups of the cell that wait on counter `k`. -/
def Cell.waiters (x : Cell) (k : Nat) : List Nat :=
  x.groups.filterMap (fun e => match e.2.hold with
    | .await j t => if j = k then some t.toNat else none
    | _ => none)

/-- A stall of a ring counter begins when a group waits on it, and begins again at each increment (R423). -/
def Cell.watchFrom (x : Cell) (k now : Nat) (again : Bool) : Cell :=
  { x with watch := NMap.mod x.watch k (fun w =>
      if (Cell.waiters x k).isEmpty then { w with since := none, fired := false }
      else if again || w.since.isNone then { w with since := some now, fired := false } else w) }

def State.increment (s : State) (c k amount : Nat) : State :=
  State.modCell s c (fun x => Cell.watchFrom (Cell.increment x k amount) k s.timebase true)

/-! ### Descriptors -/

/-- A copy descriptor (Table 5.5). -/
structure CopyDesc where
  src : Nat
  dst : Nat
  rows : Nat
  cols : Nat
  srcStride : Int
  dstStride : Int
  srcSpace : Nat
  dstSpace : Nat
  srcFmt : Nat
  dstFmt : Nat
  mx : Nat
  export_ : Bool
  blk : Bool
  reuse : Nat
  uses : Nat
  scope : Nat
  gather : Bool
  note : Bool
  scaleSrc : Nat
  scaleDst : Nat
  target : Nat
  inc : Nat
  list : Nat
  limit : Nat
  reserved : Bool
  deriving DecidableEq, Repr, Inhabited

def copyDesc (v : Nat) : CopyDesc :=
  { src := bits v 511 448, dst := bits v 447 384, rows := bits v 383 368, cols := bits v 367 352
    srcStride := sgn 32 (bits v 351 320), dstStride := sgn 32 (bits v 319 288)
    srcSpace := bits v 287 286, dstSpace := bits v 285 284, srcFmt := bits v 283 280, dstFmt := bits v 279 276
    mx := bits v 275 272, export_ := bitOf v 271, blk := bitOf v 270, reuse := bits v 269 268, uses := bits v 267 264
    scope := bits v 263 261, gather := bitOf v 260, note := bitOf v 259, scaleSrc := bits v 255 192, scaleDst := bits v 191 128
    target := bits v 127 64, inc := bits v 63 48, list := bits v 47 29, limit := bits v 28 5
    reserved := decide (bits v 258 256 ≠ 0 ∨ bits v 4 0 ≠ 0) }

/-- Bits of an MX element (Table 6.9). -/
def mxBits (mx : Nat) : Nat :=
  match mx with
  | 3 => 6
  | 4 => 6
  | 5 => 4
  | _ => 8

/-- The native format of an MX code (Table 5.6). -/
def mxNative (mx : Nat) : Nat :=
  match mx with
  | 2 => fE5
  | 5 => fF4
  | 6 => fI8
  | _ => fE4

def CopyDesc.srcBits (d : CopyDesc) : Nat := if d.mx ≠ 0 ∧ !d.export_ then mxBits d.mx else formatBits d.srcFmt
def CopyDesc.dstBits (d : CopyDesc) : Nat := if d.mx ≠ 0 ∧ d.export_ then mxBits d.mx else formatBits d.dstFmt
def CopyDesc.srcRow (d : CopyDesc) : Nat := (d.cols * CopyDesc.srcBits d + 7) / 8
def CopyDesc.dstRow (d : CopyDesc) : Nat := (d.cols * CopyDesc.dstBits d + 7) / 8

/-- Scale bytes of one row of each side (R176). -/
def CopyDesc.srcScales (d : CopyDesc) : Nat :=
  if d.blk then d.cols / 16 else if d.mx = 0 then 0 else if d.export_ then d.cols / 16 else d.cols / 32
def CopyDesc.dstScales (d : CopyDesc) : Nat :=
  if d.blk then d.cols / 16 else if d.mx = 0 then 0 else if d.export_ then d.cols / 32 else d.cols / 16

/-- base + r × stride, modulo 2^64 for global and as an integer for local addresses. -/
def strided (base : Nat) (stride : Int) (r : Nat) : Int := (base : Int) + stride * r

/-- The source row of destination row `r`: none where the gather entry is not below GATHER_LIMIT (R176, R179). -/
def CopyDesc.sourceRow (d : CopyDesc) (gather : List Nat) (r : Nat) : Option Nat :=
  if d.gather then (let g := gather.getD r 0; if g < d.limit then some g else none) else some r

/-- The byte ranges of a descriptor, in the order they are checked: source rows, destination rows, source scales, destination
scales; each with its space and whether it is written. -/
structure CopyRange where
  start : Int
  len : Nat
  space : Nat
  writes : Bool
  scale : Bool
  deriving DecidableEq, Repr, Inhabited

def CopyDesc.ranges (d : CopyDesc) (gather : List Nat) : List CopyRange :=
  let rows := List.range d.rows
  let src := rows.filterMap (fun r => (CopyDesc.sourceRow d gather r).map (fun k =>
    { start := strided d.src d.srcStride k, len := CopyDesc.srcRow d, space := d.srcSpace, writes := false, scale := false : CopyRange }))
  let dst := rows.map (fun r =>
    { start := strided d.dst d.dstStride r, len := CopyDesc.dstRow d, space := d.dstSpace, writes := true, scale := false : CopyRange })
  let ss := if CopyDesc.srcScales d = 0 then [] else rows.filterMap (fun r => (CopyDesc.sourceRow d gather r).map (fun k =>
    { start := strided d.scaleSrc (CopyDesc.srcScales d) k, len := CopyDesc.srcScales d, space := d.srcSpace, writes := false
      scale := true : CopyRange }))
  let ds := if CopyDesc.dstScales d = 0 then [] else rows.map (fun r =>
    { start := strided d.scaleDst (CopyDesc.dstScales d) r, len := CopyDesc.dstScales d, space := d.dstSpace, writes := true
      scale := true : CopyRange })
  src ++ dst ++ ss ++ ds

def rangesMeet (a b : CopyRange) : Bool := decide (a.start < b.start + b.len) && decide (b.start < a.start + a.len)

/-- The 2 MiB pages a range touches, of its addresses modulo 2^64. -/
def CopyRange.pages (x : CopyRange) : List Nat :=
  let lo := (x.start / (2 ^ 21 : Nat))
  let hi := ((x.start + x.len - 1) / (2 ^ 21 : Nat))
  if x.len = 0 then [] else tabulate (hi - lo + 1).toNat (fun i => ((lo + i) % (2 ^ 43 : Nat)).toNat)

/-- A local range leaves local memory. -/
def CopyRange.escapes (x : CopyRange) : Bool := decide (x.start < 0) || decide ((localSize : Int) < x.start + x.len)

/-- A range reaches into the spill reservation (R79). -/
def reachesReservation (start : Int) (len : Nat) : Bool := decide (start < 0x80000) && decide (0x70000 < start + len)

/-- A notify target word breaks Table 5.3. -/
def targetBad (t : Nat) : Bool :=
  decide (bits t 63 31 ≠ 0) || decide (bits t 6 5 ≠ 0) || decide (6 ≤ bits t 9 7) || (bitOf t 30 && decide (bits t 29 16 ≠ 0))

/-- The checks of Table 5.7, by number: whether each fails. `addr` is the descriptor's address. -/
def CopyDesc.checkFails (d : CopyDesc) (addr : Nat) (gather : List Nat) (n : Nat) : Bool :=
  let native := d.mx ≠ 0
  let rs := CopyDesc.ranges d gather
  let local_ (x : CopyRange) : Bool := decide (x.space = 0)
  match n with
  | 0x01 => decide (addr % 64 ≠ 0) || decide (localSize ≤ addr)
  | 0x02 => d.reserved || decide (2 ≤ d.srcSpace) || decide (2 ≤ d.dstSpace) || decide (10 ≤ d.srcFmt) || decide (10 ≤ d.dstFmt)
      || decide (7 ≤ d.mx) || decide (6 ≤ d.scope)
  | 0x03 => decide (d.rows = 0) || decide (d.cols = 0)
  | 0x04 => decide (65536 < d.rows * CopyDesc.srcRow d) || decide (65536 < d.rows * CopyDesc.dstRow d)
      || (decide (d.cols % 2 = 1) && (decide (d.srcFmt = fF4) || decide (d.dstFmt = fF4)))
  | 0x05 => (decide (d.srcFmt ≠ d.dstFmt) && (decide (d.srcFmt = fS64) || decide (d.dstFmt = fS64)))
      || (native && d.blk)
      || (native && (if d.export_ then decide (d.srcFmt ≠ mxNative d.mx) || decide (d.dstFmt ≠ 0)
          else decide (d.dstFmt ≠ mxNative d.mx) || decide (d.srcFmt ≠ 0)))
      || (d.blk && (decide (d.srcFmt ≠ d.dstFmt) || !([fE4, fE5, fF4, fI8].contains d.srcFmt)))
      || (native && decide (d.cols % 32 ≠ 0)) || (d.blk && decide (d.cols % 16 ≠ 0))
  | 0x06 => rs.any (fun x => local_ x && CopyRange.escapes x)
      || (decide (d.srcSpace = 0) && (decide (localSize ≤ d.src) || (decide (CopyDesc.srcScales d ≠ 0) && decide (localSize ≤ d.scaleSrc))))
      || (decide (d.dstSpace = 0) && (decide (localSize ≤ d.dst) || (decide (CopyDesc.dstScales d ≠ 0) && decide (localSize ≤ d.scaleDst))))
      || (d.gather && decide (localSize < d.list + 4 * d.rows))
  | 0x07 => decide (d.srcSpace = 0) && decide (d.dstSpace = 0) &&
      (rs.filter (fun x => !x.writes && !x.scale)).any (fun x => (rs.filter (fun y => y.writes && !y.scale)).any (rangesMeet x))
  | 0x08 =>
      let pagesOf (w : Bool) : List Nat := dedupe ((rs.filter (fun x => x.writes = w && !local_ x)).flatMap CopyRange.pages)
      decide (64 < (pagesOf false).length) || decide (64 < (pagesOf true).length)
  | 0x09 => d.gather && (decide (64 < d.rows) || native || decide (d.list % 4 ≠ 0))
  | 0x0A => d.note && (targetBad d.target || decide (d.inc = 0))
  | 0x0B => if d.dstSpace = 0 then decide (d.scope ≠ 1) else decide (d.scope < 2 ∨ 5 < d.scope)
  | _ => false

/-- The lowest-numbered check that fails (R178). -/
def CopyDesc.firstFailure (d : CopyDesc) (addr : Nat) (gather : List Nat) : Option Nat :=
  ((List.range 12).find? (fun n => CopyDesc.checkFails d addr gather n))

/-! ### What an incomplete copy leaves undefined (R185) -/

/-- The ranges of the copy contain byte `a` of a space (`g` for global, an effective address), among those it writes only if `w`. -/
def CopySlot.contains (k : CopySlot) (g w : Bool) (a : Nat) : Bool :=
  let d := copyDesc k.desc.toNat
  decide (k.phase = .moving) && (CopyDesc.ranges d k.gather).any (fun r =>
    decide ((r.space ≠ 0) = g) && (!w || r.writes) && decide (((a : Int) - r.start) % (2 ^ 64 : Nat) < r.len))

/-- The copy contains the byte of fabric address `fa`. -/
def CopySlot.containsFabric (k : CopySlot) (w : Bool) (fa : Nat) : Bool :=
  k.pages.any (fun t => decide (t.home * 2 ^ 43 + t.ppn * 2 ^ 21 = fa / 2 ^ 21 * 2 ^ 21) && CopySlot.contains k true w (t.vpn * 2 ^ 21 + fa % 2 ^ 21))

/-- A group writes the bytes `as` of a cell's local memory, or of global memory (fabric addresses): what copies of these bytes read or
leave is undefined. -/
def Cell.disturbCopies (x : Cell) (as : List Nat) : Cell :=
  { x with copies := x.copies.map (fun e =>
      (e.1, { e.2 with openBytes := dedupe (e.2.openBytes ++ as.filter (CopySlot.contains e.2 false false)) })) }

def State.disturbGlobal (s : State) (fas : List Nat) : State :=
  s.cells.foldl (fun s e =>
    if e.2.copies.isEmpty then s
    else State.modCell s e.1 (fun x => { x with copies := x.copies.map (fun k =>
      (k.1, { k.2 with openBytes := dedupe (k.2.openBytes ++ (fas.filter (CopySlot.containsFabric k.2 false)).map (fun a => 2 ^ 19 + a)) })) })) s

/-- A byte of local memory that a group reads as undefined: the destination of an incomplete copy (R185) or the output of an accepted
drain (R262). -/
def Cell.unsettled (x : Cell) (a : Nat) : Bool :=
  x.copies.any (fun e => CopySlot.contains e.2 false true a) ||
    x.array.any (fun e => inRanges e.2.outputs a)

/-- The bytes of ranges of local memory that incomplete copies will write: what a unit reads there for a group is undefined (R185). -/
def Cell.underCopy (x : Cell) (rs : List (Nat × Nat)) : List Nat :=
  if x.copies.isEmpty then [] else (rangeBytes rs).filter (fun a => x.copies.any (fun e => CopySlot.contains e.2 false true a))

/-- The cell as a unit reads it for whom the bytes `l`, and what copies have yet to write of its ranges, are undefined, with their words' marks; and the
state with the free values drawn. -/
def State.unitView (s : State) (c : Nat) (rs : List (Nat × Nat)) (l : List Nat) : Cell × State :=
  let x := State.cell s c
  let l := dedupe (l ++ Cell.underCopy x rs)
  (Cell.freeWords x s.freeCount l, { s with freeCount := s.freeCount + wordsDraw l })

/-- The clearing of a cell's local memory (R150) is a write to every operand there. -/
def Cell.disturbAll (x : Cell) : Cell :=
  let all (k : CopySlot) : List Nat := ((CopyDesc.ranges (copyDesc k.desc.toNat) k.gather).filter (fun r => decide (r.space = 0))).flatMap (fun r =>
    tabulate r.len (fun i => r.start.toNat + i))
  { x with
    copies := x.copies.map (fun e => (e.1, { e.2 with openBytes := dedupe (e.2.openBytes ++ (all e.2).filter (CopySlot.contains e.2 false false)) }))
    array := x.array.map (fun e => (e.1, ArrayOp.disturb e.2 (wordBytes (rangeBytes (e.2.inputs ++ e.2.outputs))) true)) }

/-- The same of a byte of this module's memory, by fabric address. -/
def State.unsettledGlobal (s : State) (fa : Nat) : Bool :=
  s.cells.any (fun e => e.2.copies.any (fun k => CopySlot.containsFabric k.2 true fa))

/-- A sector as a group reads it: its undefined bytes are the free values from `n` on. -/
def State.groupSector (s : State) (n fa : Nat) (d : SectorData) : SectorData :=
  { d with bytes := d.bytes.zipIdx.map (fun bi => if State.unsettledGlobal s (fa + bi.2) then Config.freeByte (n + bi.2) else bi.1) }

/-- The free values a reading of `n` sectors draws, where any of the bytes it reads is undefined. -/
def State.sectorsDraw (s : State) (n : Nat) (fas : List Nat) : Nat :=
  if fas.any (fun fa => (List.range 32).any (fun i => State.unsettledGlobal s (fa + i))) then 32 * n else 0

end Sys2Proof.Machine
end

