-- ==== Sys2Proof/Machine/CopyUnit.lean ====
section
/-!
DEFINITION. The copy unit: conversion and MX import and export (R177, R198, R211 to R214), and the movement of one row (R176, R180 to
R186).
-/

namespace Sys2Proof.Machine

/-! ### Conversion of one row -/

/-- What the copy counts as it converts (Table 6.7). -/
structure CopyCounts where
  sat : Nat
  nanZero : Nat
  mxNan : Nat
  rescale : Nat
  deriving DecidableEq, Repr, Inhabited

def CopyCounts.add (a b : CopyCounts) : CopyCounts :=
  { sat := a.sat + b.sat, nanZero := a.nanZero + b.nanZero, mxNan := a.mxNan + b.mxNan, rescale := a.rescale + b.rescale }

/-- Element `e` of packed data (R176): `w` bits, element 0 lowest. -/
def element (v w e : Nat) : Nat := v / 2 ^ (w * e) % 2 ^ w

/-- Pack elements of `w` bits. -/
def packElements (w : Nat) (es : List Nat) : Nat := es.foldr (fun e acc => e % 2 ^ w + 2 ^ w * acc) 0

/-- The MXFP6 formats (Table 6.9). -/
def mxFloat (mx : Nat) : FloatFormat :=
  if mx = 3 then { eb := 3, fb := 2, bias := 3, top := .none } else { eb := 2, fb := 3, bias := 1, top := .none }

/-- Import of one MX element: MXFP6 values are E4 values, the others keep their bits (R211). -/
def mxImport (mx v : Nat) : Nat :=
  if mx = 3 ∨ mx = 4 then (encodeNum fE4 .rne false (decodeFloat (mxFloat mx) v)).bits else v

/-- Export of one native element under a scale shift `k` = Xn − X ≤ 0 (R213, R214). -/
def mxExport (mx : Nat) (k : Int) (v : Nat) : Conv :=
  let x := decodeNum (mxNative mx) v
  if k = 0 ∧ mx ≠ 3 ∧ mx ≠ 4 ∧ x ≠ .nan then { bits := v, sat := false, nanZero := false }
  else if mx = 3 ∨ mx = 4 then
    match Num.scale x k with
    | .fin neg m e => encodeFinite (mxFloat mx) .rne false neg m e
    | _ => { bits := 0, sat := false, nanZero := false }
  else encodeNum (mxNative mx) .rne false (Num.scale x k)

/-- One MX block of an export: its scale byte, its 32 elements, and what is counted (R212 to R214). -/
def mxExportBlock (mx xa xb : Nat) (es : List Nat) : Nat × List Nat × CopyCounts :=
  let zero := tabulate 32 (fun _ => 0)
  if xa = 0xFF ∨ xb = 0xFF then (0xFF, zero, default)
  else if (mx = 3 ∨ mx = 4) ∧ es.any (fun v => decide (decodeNum fE4 v = .nan)) then (0xFF, zero, { (default : CopyCounts) with mxNan := 1 })
  else
    let x := max xa xb
    let cs := es.zipIdx.map (fun vi => mxExport mx (((if vi.2 < 16 then xa else xb : Nat) : Int) - x) vi.1)
    (x, cs.map (·.bits), { (default : CopyCounts) with sat := (cs.filter (·.sat)).length, rescale := b2n (decide (xa ≠ xb)) })

/-- The bytes and scale bytes of a destination row from those of its source row (R177, R211 to R214). -/
def CopyDesc.convertRow (d : CopyDesc) (src scales : List Byte) : List Byte × List Byte × CopyCounts :=
  let v := ofBytes src
  if d.mx = 0 then
    if d.srcFmt = d.dstFmt ∧ !d.blk then (src, scales, default)
    else
      let cs := (List.range d.cols).map (fun e => convertNum d.srcFmt d.dstFmt .rne false (element v (formatBits d.srcFmt) e))
      (toBytes (CopyDesc.dstRow d) (packElements (formatBits d.dstFmt) (cs.map (·.bits))), scales,
        { (default : CopyCounts) with sat := (cs.filter (·.sat)).length, nanZero := (cs.filter (·.nanZero)).length })
  else if d.export_ then
    let blocks := (List.range (d.cols / 32)).map (fun k =>
      mxExportBlock d.mx ((scales.getD (2 * k) 0).toNat) ((scales.getD (2 * k + 1) 0).toNat)
        (tabulate 32 (fun i => element v (formatBits d.srcFmt) (32 * k + i))))
    (toBytes (CopyDesc.dstRow d) (packElements (mxBits d.mx) (blocks.flatMap (fun b => b.2.1))),
      blocks.map (fun b => BitVec.ofNat 8 b.1), blocks.foldl (fun a b => CopyCounts.add a b.2.2) default)
  else
    (toBytes (CopyDesc.dstRow d) (packElements (formatBits d.dstFmt) ((List.range d.cols).map (fun e => mxImport d.mx (element v (mxBits d.mx) e)))),
      scales.flatMap (fun b => [b, b]), default)

/-- Poison of a destination row (R186): the destination bytes of each element some source byte of which is marked; with MX a
marked scale byte marks the elements of its MX block: an export's scale is that of both native ones (R212). -/
def CopyDesc.rowMarks (d : CopyDesc) (marks scaleMarks : List Bool) : List Bool × List Bool :=
  let sb := CopyDesc.srcBits d
  let db := CopyDesc.dstBits d
  let scaleMark (k : Nat) : Bool := if d.export_ then scaleMarks.getD (2 * k) false || scaleMarks.getD (2 * k + 1) false else scaleMarks.getD k false
  let elem (e : Nat) : Bool :=
    (List.range ((sb * e + sb - 1) / 8 + 1 - sb * e / 8)).any (fun i => marks.getD (sb * e / 8 + i) false)
      || (decide (d.mx ≠ 0) && scaleMark (e / 32))
  let anyMark := marks.any id || scaleMarks.any id
  if !anyMark then (tabulate (CopyDesc.dstRow d) (fun _ => false), tabulate (CopyDesc.dstScales d) (fun _ => false))
  else
    let byte (i : Nat) : Bool := (List.range ((8 * i + 7) / db + 1 - 8 * i / db)).any (fun j => decide (8 * i / db + j < d.cols) && elem (8 * i / db + j))
    let scale (i : Nat) : Bool :=
      if d.mx = 0 then scaleMarks.getD i false
      else if d.export_ then scaleMark i
      else scaleMarks.getD (i / 2) false
    (tabulate (CopyDesc.dstRow d) byte, tabulate (CopyDesc.dstScales d) scale)

/-! ### Reading and writing operands -/

/-- The words of local memory that marked bytes written from `a` on lie in. -/
def markedWords (a : Nat) (marks : List Bool) : List Nat :=
  dedupe ((marks.zipIdx.filter (·.1)).map (fun mi => (a + mi.2) % localSize / 4))

/-- Write bytes with a mark each into local memory: a word is marked when one of the bytes written to it is, and the words of `keep` stay marked
(R146, R186). -/
def Cell.writeMarked (x : Cell) (a : Nat) (bs : List Byte) (marks : List Bool) (keep : List Nat) : Cell :=
  (markedWords a marks ++ (wordsOf a bs.length).filter (fun w => keep.contains (w % 2 ^ 17))).foldl (fun x w => Cell.markLocal x (4 * (w % 2 ^ 17)) 1 true)
    (Cell.writeLocal x a bs false)

/-- The translation a copy made of a page at issue. -/
def CopySlot.page (k : CopySlot) (a : Nat) : Option Translation := k.pages.find? (fun t => decide (t.vpn = a / 2 ^ 21))

/-- The fabric address of byte `a` (modulo 2^64) of a copy's operand. -/
def CopySlot.fabric (k : CopySlot) (a : Nat) : Nat :=
  match CopySlot.page k a with
  | some t => fabricAddress t a
  | none => a % 2 ^ 21

/-- The fabric address of byte `i` of an operand of a copy that begins at `start`. -/
def CopySlot.place (k : CopySlot) (start : Int) (i : Nat) : Nat := CopySlot.fabric k ((start + i) % (2 ^ 64 : Nat)).toNat

/-! ### Moving a row -/

/-- Read `n` bytes of a source operand: local memory, or what has come of global memory (R182); none while data are missing. -/
def State.copyRead (s : State) (c : Nat) (k : CopySlot) (space : Nat) (start : Int) (n : Nat) : Option (State × List Byte × List Bool) :=
  if space = 0 then
    let a := start.toNat
    let s := State.spoil s c [(a, n)]
    let open_ := k.openBytes.filter (fun b => decide (a ≤ b ∧ b < a + n))
    let x := Cell.freeView (State.cell s c) s.freeCount open_
    let s := State.modCell { s with freeCount := s.freeCount + open_.length } c (fun x =>
      Cell.disturbArray x (tabulate n (fun i => a + i)))
    some (s, Cell.localBytes x a n, tabulate n (fun i => Cell.localMarked x (a + i) 1))
  else
    let at_ (i : Nat) : Nat := CopySlot.place k start i
    if (List.range n).all (fun i => (NMap.find k.data (at_ i / 32)).isSome) then
      some ({ s with freeCount := s.freeCount + (if k.openBytes.isEmpty then 0 else n) },
        tabulate n (fun i => if k.openBytes.contains (2 ^ 19 + at_ i) then Config.freeByte (s.freeCount + i) else (gathered k.data (at_ i)).1),
        tabulate n (fun i => (gathered k.data (at_ i)).2))
    else none

/-- The commands that write bytes of a global operand: one for each 256-byte unit, in ascending order (R180, R181). -/
def CopySlot.unitWrites (k : CopySlot) (start : Int) (bs : List Byte) (marks : List Bool) : List CopyMove :=
  let at_ (i : Nat) : Nat := CopySlot.place k start i
  (dedupe ((List.range bs.length).map (fun i => at_ i / 256))).map (fun u =>
    let idx := (List.range bs.length).filter (fun i => decide (at_ i / 256 = u))
    .write (idx.foldl (fun m i => NMap.insert m (at_ i) (bs.getD i 0)) []) (idx.foldl (fun m i => NMap.insert m (at_ i) (marks.getD i false)) []))

/-- Write a destination operand of a copy's slot: local memory at once, global memory by commands to send (R181, R183). -/
def State.copyWrite (s : State) (c slot space : Nat) (start : Int) (bs : List Byte) (marks : List Bool) : State :=
  if space = 0 then
    let a := start.toNat
    State.spoil (State.modCell s c (fun x =>
      let keep := (NMap.find x.copies slot).elim [] (fun k => k.marked)
      let x := Cell.disturbArray (Cell.writeMarked x a bs marks keep) (tabulate bs.length (fun i => a + i))
      { x with copies := NMap.mod x.copies slot (fun k => { k with marked := dedupe (k.marked ++ markedWords a marks) }) })) c [(a, bs.length)]
  else
    State.modCell s c (fun x => { x with copies := NMap.mod x.copies slot (fun k => { k with todo := k.todo ++ CopySlot.unitWrites k start bs marks }) })

/-- Count what a converting copy counted (Table 6.7). -/
def State.copyCounts (s : State) (c : Nat) (n : CopyCounts) : State :=
  let s := if n.sat = 0 then s else State.count s .copySat 0 c n.sat
  let s := if n.nanZero = 0 then s else State.count s .copyNanZero 0 c n.nanZero
  let s := if n.mxNan = 0 then s else State.count s .copyMxNan 0 c n.mxNan
  if n.rescale = 0 then s else State.count s .copyMxRescale 0 c n.rescale

def Cell.setCopy (x : Cell) (slot : Nat) (k : CopySlot) : Cell := { x with copies := NMap.insert x.copies slot k }

/-- What destination row `r` of copy `k` is made of, if its source data are there: elements and scale bytes, each with its mark (R176, R179). -/
def State.copySource (s : State) (c : Nat) (k : CopySlot) (r : Nat) : Option (State × List Byte × List Bool × List Byte × List Bool) :=
  let d := copyDesc k.desc.toNat
  match CopyDesc.sourceRow d k.gather r with
  | none => some (s, tabulate (CopyDesc.srcRow d) (fun _ => (0 : Byte)), tabulate (CopyDesc.srcRow d) (fun _ => false),
      tabulate (CopyDesc.srcScales d) (fun _ => (0 : Byte)), tabulate (CopyDesc.srcScales d) (fun _ => false))
  | some g =>
    match State.copyRead s c k d.srcSpace (strided d.src d.srcStride g) (CopyDesc.srcRow d) with
    | none => none
    | some a =>
      match State.copyRead a.1 c k d.srcSpace (strided d.scaleSrc (CopyDesc.srcScales d) g) (CopyDesc.srcScales d) with
      | none => none
      | some b => some (b.1, a.2.1, a.2.2, b.2.1, b.2.2)

/-- Move destination row `r` of copy slot `slot`, if its source data are there: elements and scale bytes (R176 to R179, R186). `counts`: the
conversion has not been counted before. -/
def State.copyRow (s : State) (c slot : Nat) (k : CopySlot) (r : Nat) (counts : Bool) : Option State :=
  match State.copySource s c k r with
  | none => none
  | some (s, bs, ms, ss, sm) =>
    let d := copyDesc k.desc.toNat
    let zero := (CopyDesc.sourceRow d k.gather r).isNone
    let out := if zero then (tabulate (CopyDesc.dstRow d) (fun _ => 0), tabulate (CopyDesc.dstScales d) (fun _ => 0), default) else CopyDesc.convertRow d bs ss
    let marks := CopyDesc.rowMarks d ms sm
    let s := if counts then State.copyCounts s c out.2.2 else s
    let s := State.copyWrite s c slot d.dstSpace (strided d.dst d.dstStride r) out.1 marks.1
    let s := if CopyDesc.dstScales d = 0 then s else State.copyWrite s c slot d.dstSpace (strided d.scaleDst (CopyDesc.dstScales d) r) out.2.1 marks.2
    some (State.modCell s c (fun x => { x with copies := NMap.mod x.copies slot (fun k => { k with poisoned := k.poisoned || ms.any id || sm.any id }) }))

/-- Move the rows of a copy whose data have come, in order (R180); a local source is read once the issuing group's earlier stores and atomics to
local memory have been written (R182). -/
def State.copyRows (s : State) (c slot : Nat) : State :=
  match NMap.find (State.cell s c).copies slot with
  | none => s
  | some k =>
    if decide ((copyDesc k.desc.toNat).srcSpace = 0) && (State.cell s c).heldLocal.any (fun e => decide (e.1 < k.age ∧ e.2.slot = k.slot)) then s
    else
      k.rows.foldl (fun s r =>
        match State.copyRow s c slot k r true with
        | some s => State.modCell s c (fun x => { x with copies := NMap.mod x.copies slot (fun k => { k with rows := k.rows.erase r }) })
        | none => s) s

/-- Sectors of global memory come for a copy (R180, R375). -/
def State.copyArrive (s : State) (c slot : Nat) (sectors : NMap SectorData) : State :=
  State.copyRows (State.modCell s c (fun x => { x with copies := NMap.mod x.copies slot (fun k =>
    { k with data := sectors.foldl (fun m d => NMap.insert m d.1 d.2) k.data }) })) c slot

/-- Rows of a copy already moved whose source lies in some of the granules (fabric address / 256): a GET answered LOST poisons them too (R187). -/
def CopySlot.movedFrom (k : CopySlot) (granules : List Nat) : List Nat :=
  let d := copyDesc k.desc.toNat
  (List.range k.nextRow).filter (fun r => !k.rows.contains r && (CopyDesc.sourceRow d k.gather r).elim false (fun g =>
    (List.range (CopyDesc.srcRow d)).any (fun i => granules.contains (CopySlot.place k (strided d.src d.srcStride g) i / 256)) ||
      (List.range (CopyDesc.srcScales d)).any (fun i => granules.contains (CopySlot.place k (strided d.scaleSrc (CopyDesc.srcScales d) g) i / 256))))

/-- Move rows again, their conversion counted already. -/
def State.copyAgain (s : State) (c slot : Nat) (rows : List Nat) : State :=
  rows.foldl (fun s r =>
    match NMap.find (State.cell s c).copies slot with
    | none => s
    | some k => (State.copyRow s c slot k r false).getD s) s

end Sys2Proof.Machine
end

