-- ==== Sys2Proof/Machine/Generator.lean ====
section
/-!
DEFINITION. The counter-based random generator (R127, R202, R425).
-/

namespace Sys2Proof.Machine

/-- One round of R425 on (c0, c1, c2, c3) and (k0, k1). -/
def philoxRound (c : Nat × Nat × Nat × Nat) (k : Nat × Nat) : Nat × Nat × Nat × Nat :=
  let p := 0xD2511F53 * c.1
  let q := 0xCD9E8D57 * c.2.2.1
  (q / 2 ^ 32 ^^^ c.2.1 ^^^ k.1, q % 2 ^ 32, p / 2 ^ 32 ^^^ c.2.2.2 ^^^ k.2, p % 2 ^ 32)

def philox (c : Nat × Nat × Nat × Nat) (k : Nat × Nat) : Nat → Nat × Nat × Nat × Nat
  | 0 => c
  | n + 1 => philox (philoxRound c k) ((k.1 + 0x9E3779B9) % 2 ^ 32, (k.2 + 0xBB67AE85) % 2 ^ 32) n

/-- G(key, counter) (R425). -/
def generator (key counter : Nat) : Nat :=
  let c := philox (counter % 2 ^ 32, counter / 2 ^ 32 % 2 ^ 32, 0, 0) (key % 2 ^ 32, key / 2 ^ 32 % 2 ^ 32) 10
  c.2.1 * 2 ^ 32 + c.1

/-- The random byte of output element `e` (R202). -/
def randomByte (key base e : Nat) : Nat := generator key ((base + e / 8) % 2 ^ 64) / 2 ^ (8 * (e % 8)) % 256

end Sys2Proof.Machine
end

