-- ==== Sys2Proof/Machine/Blocks.lean ====
section
/-!
DEFINITION. Block-scaled elements (R195 to R199) and the conversion of a row of outputs as the epilogue and the chain unit make it
(R200 to R207, R258, R284).
-/

namespace Sys2Proof.Machine

/-- The exponent of the factor of a scale byte (Table 6.4). -/
def scaleShift (fmt x : Nat) : Int := (x : Int) - (if fmt = fI8 then 133 else 127)

/-- The value of an element under a scale byte (R196). -/
def blockValue (fmt x v : Nat) : Num := if x = 0xFF then .nan else Num.scale (decodeNum fmt v) (scaleShift fmt x)

/-- The largest element magnitude of a block-scaled form (Table 6.4). -/
def maxBlock (fmt : Nat) : Nat × Int :=
  match floatFormat fmt with
  | some ff => ((maxFinite ff).1, (maxFinite ff).2.1)
  | none => (127, -6)

/-- The larger of two magnitudes; zero never replaces. -/
def largerMag (a : Nat × Int) (v : Num) : Nat × Int :=
  match v with
  | .fin _ m e => if m = 0 then a else if a.1 = 0 || !magLe m e a.1 a.2 then (m, e) else a
  | _ => a

/-- The scale byte of the block rule (R198, R199), for a block that is not a NaN block. -/
def blockScale (fmt : Nat) (vals : List Num) : Nat :=
  let a := vals.foldl largerMag (0, 0)
  if a.1 = 0 then 127
  else
    let mv := maxBlock fmt
    let s : Int := (a.2 + bitLen a.1) - (mv.2 + bitLen mv.1)
    let s := if magLe a.1 a.2 mv.1 (mv.2 + s) then s else s + 1
    (if s + 127 < 0 then 0 else if 254 < s + 127 then 254 else s + 127).toNat

/-- The form keeps a NaN only as a NaN block (R198). -/
def nanBlockForm (fmt : Nat) : Bool := decide (fmt = fF4 ∨ fmt = fI8)

/-- One element of a block under scale byte `x` (R198, R199, R206). -/
def blockElement (fmt x : Nat) (mode : Round) (satOpt : Bool) (v : Num) : Conv :=
  match v with
  | .inf neg =>
    if fmt = fE5 then encodeNum fmt mode satOpt v
    else
      let c := encodeNum fmt .rtz false (.fin neg (maxBlock fmt).1 ((maxBlock fmt).2 + (if fmt = fI8 then 6 else 0)))
      { bits := c.bits, sat := true, nanZero := false }
  | v => encodeNum fmt mode satOpt (Num.scale v (-(scaleShift fmt x)))

/-- Encode a block: its scale byte and its elements (R198); `supplied` is a scale of the scale table. -/
def encodeBlock (fmt : Nat) (satOpt : Bool) (supplied : Option Nat) (vals : List (Num × Round)) : Nat × List Conv :=
  if nanBlockForm fmt && vals.any (fun v => Num.isNan v.1) then
    (0xFF, vals.map (fun _ => { bits := 0, sat := false, nanZero := false }))
  else
    let x := supplied.getD (blockScale fmt (vals.map (·.1)))
    (x, vals.map (fun v => blockElement fmt x v.2 satOpt v.1))

/-- One output element on its way to memory: its value, its random byte or rounding, whether it is written in the poisoned form (R264,
R291), and an encoding that stands unconverted (R279). -/
structure OutElement where
  value : Num
  mode : Round
  poison : Bool
  fixed : Option Nat
  deriving DecidableEq, Repr, Inhabited

/-- The encoding of a poisoned element (R264, R291). -/
def poisonedElement (fmt : Nat) : Nat := canonicalNan fmt

/-- Convert a row of outputs: the element encodings, the scale bytes of its blocks with their marks, and the conversions of the elements
that count. A poisoned or fixed element takes no part in the choice of its block's scale (R264, R279; notes: assumption 21). -/
def convertOutputs (fmt : Nat) (blk satOpt : Bool) (supplied : Option Nat) (row : List OutElement) : List Nat × List (Nat × Bool) × List (Option Conv) :=
  let own (o : OutElement) (c : Conv) : Nat × Option Conv :=
    if o.poison then (poisonedElement fmt, none)
    else match o.fixed with
      | some k => (k, none)
      | none => (c.bits, some c)
  if blk then
    let blocks := (List.range (row.length / 16)).map (fun k => (row.drop (16 * k)).take 16)
    let out := blocks.map (fun b =>
      let vals := b.map (fun o => (if o.poison || o.fixed.isSome then Num.fin false 0 0 else o.value, o.mode))
      let e := encodeBlock fmt satOpt supplied vals
      ((b.zip e.2).map (fun p => own p.1 p.2), e.1, b.any (·.poison)))
    (out.flatMap (fun b => b.1.map (·.1)), out.map (fun b => (b.2.1, b.2.2)), out.flatMap (fun b => b.1.map (·.2)))
  else
    let cs := row.map (fun o => own o (encodeNum fmt o.mode satOpt o.value))
    (cs.map (·.1), [], cs.map (·.2))

/-- The bytes of a row of encodings, with the marks of the bytes of poisoned elements. -/
def packRow (fmt : Nat) (codes : List Nat) (marks : List Bool) : List Byte × List Bool :=
  let w := formatBits fmt
  let n := (codes.length * w + 7) / 8
  (toBytes n (packElements w codes),
    tabulate n (fun i => (List.range ((8 * i + 7) / w + 1 - 8 * i / w)).any (fun j => marks.getD (8 * i / w + j) false)))

/-! ### Reading elements from local memory -/

/-- Element `e` of a packed row at address `a`: its encoding, and whether a word it lies in is marked. -/
def Cell.elementAt (x : Cell) (fmt a e : Nat) : Nat × Bool :=
  let w := formatBits fmt
  let n := (w * e % 8 + w + 7) / 8
  (Cell.localNat x (a + w * e / 8) n / 2 ^ (w * e % 8) % 2 ^ w,
    Cell.localMarked x (a + w * e / 8) n)

end Sys2Proof.Machine
end

