-- ==== Sys2Proof/Machine/Tile.lean ====
section
/-!
DEFINITION. Operands of the matrix array: tile descriptors (Table 7.5), pairings (Table 7.1), sparse operands (R318 to R328), the
products and K-step sums (R217, R247 to R249, R324).
-/

namespace Sys2Proof.Machine

/-! ### Descriptors -/

/-- A tile descriptor (Table 7.5). -/
structure TileDesc where
  base : Nat
  pitch : Nat
  rows : Nat
  cols : Nat
  fmt : Nat
  blk : Bool
  sparse : Bool
  reuse : Nat
  scale : Nat
  spitch : Nat
  meta_ : Nat
  mpitch : Nat
  reserved : Bool
  deriving DecidableEq, Repr, Inhabited

def tileDesc (v : Nat) : TileDesc :=
  { base := bits v 255 237, pitch := bits v 236 221, rows := bits v 220 212, cols := bits v 211 196, fmt := bits v 195 192
    blk := bitOf v 191, sparse := bitOf v 190, reuse := bits v 189 188, scale := bits v 127 109, spitch := bits v 108 97
    meta_ := bits v 63 45, mpitch := bits v 44 29
    reserved := decide (bits v 187 128 ≠ 0 ∨ bits v 96 64 ≠ 0 ∨ bits v 28 0 ≠ 0 ∨ 10 ≤ bits v 195 192) }

/-- The shape word (Table 7.4): the last field says whether a reserved field is set. -/
structure MmaShape where
  k0 : Nat
  steps : Nat
  m : Nat
  n : Nat
  reserved : Bool
  deriving DecidableEq, Repr, Inhabited

def mmaShape (v : Nat) : MmaShape :=
  { k0 := bits v 55 44, steps := bits v 43 32 + 1, m := 16 * (bits v 31 28 + 1), n := 16 * (bits v 27 24 + 1)
    reserved := decide (bits v 63 56 ≠ 0 ∨ bits v 23 0 ≠ 0) }

/-- A format pairing (Table 7.1): dot-product width, elements of a K-step, kind of partial sum. -/
structure Pairing where
  width : Nat
  kstep : Nat
  int : Bool
  deriving DecidableEq, Repr, Inhabited

def eightBit (fmt : Nat) : Bool := decide (fmt = fE4 ∨ fmt = fE5)

/-- The pairing of two operands, if Table 7.1 has it. -/
def pairing (a b : TileDesc) : Option Pairing :=
  if (a.fmt = fB16 ∧ b.fmt = fB16) ∨ (a.fmt = fH16 ∧ b.fmt = fH16) then
    if a.blk || b.blk then none else some { width := 4, kstep := 16, int := false }
  else if eightBit a.fmt && eightBit b.fmt then some { width := 8, kstep := 32, int := false }
  else if a.fmt = fI8 ∧ b.fmt = fI8 then
    if a.blk && b.blk then some { width := 8, kstep := 32, int := false }
    else if !a.blk && !b.blk then some { width := 8, kstep := 32, int := true }
    else none
  else if a.fmt = fF4 ∧ b.fmt = fF4 then
    if a.blk && b.blk then some { width := 16, kstep := 64, int := false } else none
  else if (a.fmt = fF4 ∧ a.blk ∧ eightBit b.fmt) ∨ (b.fmt = fF4 ∧ b.blk ∧ eightBit a.fmt) then
    some { width := 8, kstep := 32, int := false }
  else none

/-- The header of a sparse operand (Table 11.1). -/
structure SparseHeader where
  sfmt : Nat
  ndecl : Nat
  klen : Nat
  tiles : Nat
  trows : Nat
  reserved : Bool
  deriving DecidableEq, Repr, Inhabited

def sparseHeader (v : Nat) : SparseHeader :=
  { sfmt := bits v 255 252, ndecl := bits v 251 248, klen := bits v 247 232, tiles := bits v 231 220, trows := bits v 219 215
    reserved := decide (bits v 214 0 ≠ 0) }

def Cell.header (x : Cell) (d : TileDesc) : SparseHeader := sparseHeader (Cell.localNat x d.meta_ 32)

/-! ### Checks of one operand (Tables 7.6 and 11.3) -/

/-- Ranges (start, length) an operand of `rows` rows and `top` K-steps takes: data, scales, metadata. -/
def TileDesc.ranges (d : TileDesc) (p : Pairing) (rows top : Nat) : List (Nat × Nat) :=
  let data := if d.sparse then rows * d.pitch else (rows - 1) * d.pitch + top * (p.kstep * formatBits d.fmt / 8)
  [(d.base, data)]
    ++ (if d.blk then [(d.scale, (rows - 1) * d.spitch + (top * p.kstep + 15) / 16)] else [])
    ++ (if d.sparse then [(d.meta_, 32 + (rows / 16 - 1) * d.mpitch + 8 * top)] else [])

def TileDesc.misplaced (d : TileDesc) : Bool :=
  decide (d.base % 32 ≠ 0 ∨ d.pitch % 32 ≠ 0 ∨ d.pitch < (d.cols * formatBits d.fmt + 7) / 8)

def TileDesc.scalesBad (d : TileDesc) : Bool :=
  d.blk && decide (d.scale % 4 ≠ 0 ∨ d.spitch % 4 ≠ 0 ∨ d.spitch < (d.cols + 15) / 16)

/-- Cases 3 to 7 of Table 11.3. -/
def Cell.sparseBad (x : Cell) (d : TileDesc) (rows top : Nat) : Bool :=
  let h := Cell.header x d
  d.sparse && (decide (d.meta_ % 32 ≠ 0 ∨ d.mpitch % 8 ≠ 0) || h.reserved
    || decide (h.sfmt ≠ d.fmt ∨ h.klen = 0 ∨ d.cols < h.klen ∨ h.tiles < top ∨ d.mpitch < 8 * h.tiles ∨ h.trows < rows / 16))

/-! ### Rows of an operand for one K-step -/

/-- One row of an operand for one K-step: its values, the kept positions where the sparse path runs, the positions whose word or whose
scale is marked (R232), and whether poison marks every entry the row feeds (R327, R328). -/
structure KRow where
  vals : List Num
  kept : Option (List Nat)
  marks : List Bool
  poison : Bool
  deriving DecidableEq, Repr, Inhabited

/-- The value of an element encoding under its scale byte, where there is one. -/
def TileDesc.value (d : TileDesc) (x : Cell) (r k enc : Nat) : Num :=
  if d.blk then blockValue d.fmt (Cell.localByte x (d.scale + r * d.spitch + k / 16)).toNat enc else decodeNum d.fmt enc

/-- The scale word of element `k` of row `r` is marked. -/
def TileDesc.scaleMarked (d : TileDesc) (x : Cell) (r k : Nat) : Bool :=
  d.blk && Cell.localMarked x (d.scale + r * d.spitch + k / 16) 1

/-- Row `r` of a dense operand at K-step `s` (R220, R232). -/
def TileDesc.denseRow (d : TileDesc) (x : Cell) (p : Pairing) (s r : Nat) : KRow :=
  let n := p.kstep * formatBits d.fmt / 8
  let a := d.base + r * d.pitch + s * n
  let v := Cell.localNat x a n
  { vals := tabulate p.kstep (fun e => TileDesc.value d x r (s * p.kstep + e) (element v (formatBits d.fmt) e))
    kept := none
    marks := tabulate p.kstep (fun e => Cell.localMarked x (a + e * formatBits d.fmt / 8) ((formatBits d.fmt + 7) / 8)
      || TileDesc.scaleMarked d x r (s * p.kstep + e))
    poison := false }

/-- A tile of a sparse operand as the array reads it: for each of its 16 rows the kept encodings by position and whether a word of its
values is marked; whether the record is dense, what was dropped, whether the entry is malformed, whether poison made it all zero. -/
structure SparseTile where
  rows : List (NMap Nat × Bool)
  dense : Bool
  drops : Nat
  bad : Bool
  poison : Bool
  deriving DecidableEq, Repr, Inhabited

def emptyTile (bad poison : Bool) : SparseTile :=
  { rows := tabulate 16 (fun _ => ([], bad || poison)), dense := false, drops := 0, bad := bad, poison := poison }

/-- R322 over the positions of a row that hold a non-zero: (kept, drops). `fits` says whether the value of a position is in its
record. -/
def keepRow (h : SparseHeader) (first : Nat) (nonzero : List (Nat × Nat × Bool)) : NMap Nat × Nat :=
  nonzero.foldl (fun acc y =>
    let inGroup := (acc.1.filter (fun e => decide (e.1 / 16 = y.1 / 16))).length
    if h.klen ≤ first + y.1 ∨ (0 < h.ndecl ∧ h.ndecl ≤ inGroup) ∨ y.2.2 = false then (acc.1, acc.2 + 1)
    else (acc.1 ++ [(y.1, y.2.1)], acc.2)) ([], 0)

/-- A malformed index entry (R327). -/
def entryMalformed (d : TileDesc) (e : Nat) : Bool :=
  let len := bits e 55 51
  decide (bits e 62 56 ≠ 0 ∨ bits e 50 19 ≠ 0 ∨ bits e 4 0 ≠ 0 ∨ len = 0 ∨ 16 < len ∨ (bitOf e 63 ∧ len ≠ 16)
    ∨ 16 * d.pitch < 32 * (bits e 18 5 + len))

/-- Tile (f, s) of a sparse operand (R319 to R323, R327, R328). -/
def TileDesc.tile (d : TileDesc) (x : Cell) (p : Pairing) (f s : Nat) : SparseTile :=
  let h := Cell.header x d
  let ea := d.meta_ + 32 + f * d.mpitch + 8 * s
  let e := Cell.localNat x ea 8
  let w := formatBits d.fmt
  if Cell.localMarked x ea 8 then emptyTile false true
  else if entryMalformed d e then emptyTile true false
  else
    let rec_ := d.base + 16 * f * d.pitch + 32 * bits e 18 5
    let size := 32 * bits e 55 51
    let first := s * p.kstep
    let groups := p.kstep / 16
    if bitOf e 63 then
      -- a zero of a dense record is no position R322 drops: it stays as it is stored, −0 too
      let row (i : Nat) : NMap Nat × Nat :=
        let v := Cell.localNat x (rec_ + 32 * i) 32
        let zero (k : Nat) : Bool := Num.isZero (decodeNum d.fmt (element v w k))
        let r := keepRow h first (((List.range p.kstep).filter (fun k => !zero k)).map (fun k => (k, element v w k, true)))
        (r.1 ++ ((List.range p.kstep).filter zero).map (fun k => (k, element v w k)), r.2)
      let rows := (List.range 16).map row
      { rows := rows.zipIdx.map (fun r => (r.1.1, Cell.localMarked x (rec_ + 32 * r.2) 32)), dense := true
        drops := rows.foldl (fun n r => n + r.2) 0, bad := false, poison := false }
    else if Cell.localMarked x rec_ (32 * groups) then emptyTile false true
    else
      let bitmap (i : Nat) : Nat := Cell.localNat x (rec_ + 2 * groups * i) (2 * groups)
      let before (i : Nat) : Nat := ((List.range i).map (fun j => popNat p.kstep (bitmap j))).foldl (· + ·) 0
      let slotAt (j : Nat) : Nat := 32 * groups + w * j / 8
      let fits (j : Nat) : Bool := decide (32 * groups + (w * (j + 1) + 7) / 8 ≤ size)
      let slots (i : Nat) : List (Nat × Nat) := (bitIndices p.kstep (bitmap i)).zipIdx.map (fun k => (k.1, before i + k.2))
      let row (i : Nat) : NMap Nat × Nat :=
        keepRow h first ((slots i).map (fun k => (k.1, (Cell.elementAt x d.fmt (rec_ + 32 * groups) k.2).1, fits k.2)))
      let rows := (List.range 16).map row
      { rows := rows.zipIdx.map (fun r => (r.1.1, (slots r.2).any (fun k => fits k.2 && Cell.localMarked x (rec_ + slotAt k.2) ((w + 7) / 8))))
        dense := false, drops := rows.foldl (fun n r => n + r.2) 0, bad := false, poison := false }

/-- The largest number of kept positions in a row (R323). -/
def SparseTile.maxNz (t : SparseTile) : Nat := t.rows.foldl (fun m r => max m r.1.length) 0

/-- The tile runs on the dense path (R323); 8G is half a K-step. -/
def SparseTile.densePath (t : SparseTile) (p : Pairing) : Bool := t.dense || decide (p.kstep / 2 < SparseTile.maxNz t)

/-- Waves of one inner fold that uses the tile (R323). -/
def SparseTile.waves (t : SparseTile) (p : Pairing) : Nat :=
  if SparseTile.densePath t p then 4 else (SparseTile.maxNz t + p.width - 1) / p.width

/-- Row `r` of a sparse operand at K-step `s`, from its tile (R324). -/
def TileDesc.sparseRow (d : TileDesc) (x : Cell) (p : Pairing) (s r : Nat) (t : SparseTile) : KRow :=
  let row := t.rows.getD (r % 16) ([], false)
  { vals := tabulate p.kstep (fun k => TileDesc.value d x r (s * p.kstep + k) ((NMap.find row.1 k).getD 0))
    kept := if SparseTile.densePath t p then none else some (row.1.map (·.1))
    marks := tabulate p.kstep (fun k => TileDesc.scaleMarked d x r (s * p.kstep + k))
    poison := row.2 }

/-- An operand's rows at one K-step with, for a sparse operand, its tiles. -/
def TileDesc.rowsAt (d : TileDesc) (x : Cell) (p : Pairing) (rows s : Nat) : List KRow × List SparseTile :=
  if d.sparse then
    let tiles := (List.range (rows / 16)).map (fun f => TileDesc.tile d x p f s)
    ((List.range rows).map (fun r => TileDesc.sparseRow d x p s r (tiles.getD (r / 16) default)), tiles)
  else ((List.range rows).map (fun r => TileDesc.denseRow d x p s r), [])

/-! ### Sums -/

/-- The 48-bit pattern of an exact integer (R249). -/
def toI48 (v : Num) : Nat :=
  match v with
  | .fin neg m e => (let n : Int := (m * 2 ^ e.toNat : Nat); unsgn 48 (if neg then -n else n))
  | _ => 0

/-- One addition of stages 2 and 3, and of the drain (R247, R249). -/
def addPartial (int : Bool) (a b : Nat) : Nat := if int then (a + b) % 2 ^ 48 else fAdd .rne a b

/-- A wave value (R247 stage 1, R248, R249): the exact sum of the products, rounded once. -/
def waveValue (int : Bool) (ps : List Num) : Nat :=
  match ps with
  | [] => 0
  | p :: r => (fun s : Num => if int then toI48 s else toS32 .rne s) (r.foldl (Num.add false) p)

/-- Two rows have a product at position `k`: every position on the dense path, a kept one on the sparse path (R324). -/
def productAt (a b : KRow) (k : Nat) : Bool :=
  match a.kept, b.kept with
  | some ks, _ => ks.contains k
  | none, some ks => ks.contains k
  | none, none => true

/-- An entry the two rows feed is marked (R232, R251, R327, R328): a product of it reads a marked word, or a row marks all it feeds. -/
def entryMarked (p : Pairing) (a b : KRow) : Bool :=
  a.poison || b.poison || (List.range p.kstep).any (fun k => productAt a b k && (a.marks.getD k false || b.marks.getD k false))

/-- The K-step sum of one output element (R247 stages 1 and 2; R324 on the sparse path). -/
def kstepSum (p : Pairing) (a b : KRow) : Nat :=
  let product (k : Nat) : Num := Num.mul (a.vals.getD k .nan) (b.vals.getD k .nan)
  let wave (ks : List Nat) : Nat := waveValue p.int (ks.map product)
  let sparse (ks : List Nat) : Nat :=
    if ks.length ≤ p.width then wave ks else addPartial p.int (wave (ks.take p.width)) (wave (ks.drop p.width))
  match a.kept, b.kept with
  | some ks, _ => sparse ks
  | none, some ks => sparse ks
  | none, none =>
    let w (i : Nat) : Nat := wave (tabulate p.width (fun k => i * p.width + k))
    addPartial p.int (addPartial p.int (w 0) (w 1)) (addPartial p.int (w 2) (w 3))

end Sys2Proof.Machine
end

