-- ==== Sys2Proof/Machine/Drawers.lean ====
section
/-!
DEFINITION. Accumulation drawers (R240 to R256) and the output epilogue (R257 to R265): their descriptors, their checks, and what they
compute.
-/

namespace Sys2Proof.Machine

/-! ### Open descriptors -/

/-- An open descriptor (Table 8.3). -/
structure OpenDesc where
  src : Nat
  spitch : Nat
  m : Nat
  n : Nat
  int : Bool
  pre : Nat
  fmt : Nat
  blk : Bool
  scale : Nat
  pspitch : Nat
  reserved : Bool
  deriving DecidableEq, Repr, Inhabited

def openDesc (v : Nat) : OpenDesc :=
  { src := bits v 255 237, spitch := bits v 236 221, m := 16 * (bits v 220 217 + 1), n := 16 * (bits v 216 213 + 1), int := bitOf v 212
    pre := bits v 211 210, fmt := bits v 209 206, blk := bitOf v 205, scale := bits v 204 186, pspitch := bits v 185 174
    reserved := decide (bits v 173 0 ≠ 0 ∨ 10 ≤ bits v 209 206) }

def rowBytes (n fmt : Nat) : Nat := (n * formatBits fmt + 7) / 8

/-- Ranges a preload reads. -/
def OpenDesc.ranges (d : OpenDesc) : List (Nat × Nat) :=
  if d.pre = 0 then []
  else
    let rb := rowBytes d.n d.fmt
    [(d.src, if d.pre = 1 then rb else (d.m - 1) * d.spitch + rb)] ++ (if d.blk then [(d.scale, (d.m - 1) * d.pspitch + d.n / 16)] else [])

def OpenDesc.formatBad (d : OpenDesc) : Bool :=
  if d.pre = 0 then decide (d.fmt ≠ 0) || d.blk
  else if d.int then decide (d.fmt ≠ fI32) || d.blk
  else !((decide (d.fmt = fS32 ∨ d.fmt = fH16 ∨ d.fmt = fB16) && !d.blk) || (decide (d.pre = 3) && eightBit d.fmt && d.blk))

/-- Alignment and pitches of the fields a preload uses (check 0x05). -/
def OpenDesc.misplaced (d : OpenDesc) : Bool :=
  decide (d.pre ≠ 0) && (decide (d.src % 4 ≠ 0) || (decide (2 ≤ d.pre) && decide (d.spitch % 4 ≠ 0 ∨ d.spitch < rowBytes d.n d.fmt))
    || (d.blk && decide (d.scale % 4 ≠ 0 ∨ d.pspitch % 4 ≠ 0 ∨ d.pspitch < d.n / 16)))

/-- The outer accumulator and the mark that a preload gives element (r, c) (R245). -/
def OpenDesc.preload (d : OpenDesc) (x : Cell) (r c : Nat) : Option Nat × Bool :=
  if d.pre = 0 then (none, false)
  else
    let a := if d.pre = 1 then d.src else d.src + r * d.spitch
    let e := Cell.elementAt x d.fmt a c
    if d.int then (some (unsgn 48 (sgn 32 e.1)), e.2)
    else if d.blk then
      let sa := d.scale + r * d.pspitch + c / 16
      (some (toS32 .rne (blockValue d.fmt (Cell.localByte x sa).toNat e.1)), e.2 || Cell.localMarked x sa 1)
    else (some (toS32 .rne (decodeNum d.fmt e.1)), e.2)

/-- The drawer a `dopn` opens (R245). -/
def OpenDesc.drawer (d : OpenDesc) (x : Cell) (owner : Owner) : Drawer :=
  { opened := true, owner := owner, mf := d.m / 16 - 1, nf := d.n / 16 - 1, int := d.int, preloaded := decide (d.pre ≠ 0)
    chunks := 0, krem := 0, long := false
    entries := (List.range d.m).flatMap (fun r => (List.range d.n).map (fun c =>
      (256 * r + c, { stack := [], outer := (OpenDesc.preload d x r c).1, poison := (OpenDesc.preload d x r c).2 }))) }

/-! ### Summation (R247 to R251) -/

/-- A K-step sum enters the pairwise stack at level 12 − fuel. -/
def DrawerEntry.push (int : Bool) : Nat → DrawerEntry → Nat → DrawerEntry
  | 0, e, v => { e with outer := some (match e.outer with
      | none => v
      | some o => addPartial int o v) }
  | fuel + 1, e, v =>
    let j := 12 - (fuel + 1)
    match NMap.find e.stack j with
    | none => { e with stack := NMap.insert e.stack j v }
    | some t => DrawerEntry.push int fuel { e with stack := NMap.erase e.stack j } (addPartial int t v)

/-- The drain fold: lowest level first, then the outer accumulator. -/
def DrawerEntry.fold (int : Bool) (e : DrawerEntry) : Nat :=
  let t := e.stack.foldl (fun a l => match a with
    | none => some l.2
    | some t => some (addPartial int l.2 t)) (none : Option Nat)
  match e.outer, t with
  | some o, some t => addPartial int o t
  | some o, none => o
  | none, some t => t
  | none, none => 0

/-- The drawer's own counts of one K-step (R250). -/
def Drawer.countStep (d : Drawer) : Drawer :=
  if d.krem + 1 = 4096 then { d with krem := 0, chunks := min 65535 (d.chunks + 1), long := d.long || decide (d.chunks = 65535) }
  else { d with krem := d.krem + 1 }

/-- Every entry takes the K-step sum of its rows (R224, R247, R251). -/
def Drawer.take (p : Pairing) (d : Drawer) (a b : List KRow) : Drawer :=
  let entries := d.entries.map (fun e =>
    let x := a.getD (e.1 / 256) default
    let y := b.getD (e.1 % 256) default
    let n := DrawerEntry.push d.int 12 e.2 (kstepSum p x y)
    (e.1, { n with poison := n.poison || entryMarked p x y }))
  Drawer.countStep { d with entries := entries }

/-- What an `mma` counts as it runs (Tables 7.11 and 11.9). -/
structure MmaCounts where
  waves : Nat
  sparse : Nat
  dense : Nat
  drops : Nat
  bad : Nat
  poison : Bool
  deriving DecidableEq, Repr, Inhabited

/-- The row read a marked word (ARRAY_POISON). -/
def KRow.readPoison (r : KRow) : Bool := r.poison || r.marks.any (fun b => b)

/-- One K-step of an `mma` over a whole drawer; `nf` column folds of `w` columns. -/
def mmaStep (x : Cell) (a b : TileDesc) (p : Pairing) (m n w : Nat) (acc : Drawer × MmaCounts) (s : Nat) : Drawer × MmaCounts :=
  let ra := TileDesc.rowsAt a x p m s
  let rb := TileDesc.rowsAt b x p n s
  let mfs := m / 16
  let nfs := n / w
  let tiles := ra.2 ++ rb.2
  -- uses: the tile of each inner fold, with how many folds use it
  let uses : List (SparseTile × Nat) := ra.2.map (fun t => (t, nfs)) ++ rb.2.map (fun t => (t, mfs * (16 / w)))
  let c := acc.2
  let waves := if tiles.isEmpty then 4 * mfs * nfs else uses.foldl (fun k u => k + SparseTile.waves u.1 p * u.2) 0
  let onDense := uses.foldl (fun k u => if SparseTile.densePath u.1 p then k + u.2 else k) 0
  (Drawer.take p acc.1 ra.1 rb.1,
    { waves := c.waves + waves
      sparse := c.sparse + (uses.foldl (fun k u => k + u.2) 0 - onDense)
      dense := c.dense + onDense
      drops := c.drops + tiles.foldl (fun k t => k + t.drops) 0
      bad := c.bad + (tiles.filter (·.bad)).length
      poison := c.poison || tiles.any (·.poison)
        || ((ra.1.zipIdx).any (fun r => KRow.readPoison r.1 && !((ra.2.getD (r.2 / 16) default).bad)))
        || ((rb.1.zipIdx).any (fun r => KRow.readPoison r.1 && !((rb.2.getD (r.2 / 16) default).bad))) })

/-- All K-steps of an `mma`, ascending (R223, R224). -/
def runMma (x : Cell) (a b : TileDesc) (sh : MmaShape) (p : Pairing) (w : Nat) (d : Drawer) : Drawer × MmaCounts :=
  (List.range sh.steps).foldl (fun acc i => mmaStep x a b p sh.m sh.n w acc (sh.k0 + i)) (d, default)

/-- The status word of `dqry` (Table 8.9). -/
def Drawer.status (d : Drawer) : Nat :=
  d.chunks * 2 ^ 48 + d.krem * 2 ^ 36 + b2n d.long * 2 ^ 35 + b2n (d.entries.any (fun e => e.2.poison)) * 2 ^ 34
    + b2n d.preloaded * 2 ^ 33 + b2n d.int * 2 ^ 32 + d.mf * 2 ^ 28 + d.nf * 2 ^ 24 + d.owner.slot * 2 ^ 18 + b2n d.opened * 2 ^ 16

/-! ### Epilogue descriptors -/

/-- An epilogue descriptor (Table 8.6). -/
structure EpiDesc where
  dst : Nat
  dpitch : Nat
  fmt : Nat
  blk : Bool
  round : Nat
  sat : Bool
  smode : Nat
  bmode : Nat
  bfmt : Nat
  act : Nat
  dsrc : Bool
  tagEn : Bool
  tag : Nat
  simm : Nat
  p0 : Nat
  p1 : Nat
  svec : Nat
  baddr : Nat
  bpitch : Nat
  dscale : Nat
  dspitch : Nat
  slot : Nat
  key : Nat
  base : Nat
  reserved : Bool
  deriving DecidableEq, Repr, Inhabited

def epiDesc (v : Nat) : EpiDesc :=
  { dst := bits v 511 493, dpitch := bits v 492 477, fmt := bits v 476 473, blk := bitOf v 472, round := bits v 471 470, sat := bitOf v 469
    smode := bits v 468 467, bmode := bits v 466 465, bfmt := bits v 464 461, act := bits v 460 458, dsrc := bitOf v 457, tagEn := bitOf v 456
    tag := bits v 455 452, simm := bits v 447 416, p0 := bits v 415 384, p1 := bits v 383 352, svec := bits v 351 333
    baddr := bits v 332 314, bpitch := bits v 313 298, dscale := bits v 297 279, dspitch := bits v 278 267, slot := bits v 266 255
    key := bits v 191 128, base := bits v 127 64
    reserved := decide (bits v 451 448 ≠ 0 ∨ bits v 254 192 ≠ 0 ∨ bits v 63 0 ≠ 0 ∨ 2 ≤ bits v 471 470 ∨ 6 ≤ bits v 460 458
      ∨ 10 ≤ bits v 476 473 ∨ 10 ≤ bits v 464 461) }

/-- Outputs of Table 8.7, and BFMT. -/
def EpiDesc.formatBad (d : EpiDesc) (int : Bool) : Bool :=
  let out :=
    if d.fmt = fI32 then int && !d.blk && decide (d.round = 0 ∧ d.smode = 0 ∧ d.bmode = 0 ∧ d.act = 0)
    else if d.fmt = fS32 then !d.blk && decide (d.round = 0)
    else if d.fmt = fH16 ∨ d.fmt = fB16 ∨ d.fmt = fU8 then !d.blk
    else if d.fmt = fE4 ∨ d.fmt = fE5 ∨ d.fmt = fI8 then true
    else decide (d.fmt = fF4) && d.blk
  !out || (if d.bmode = 0 then decide (d.bfmt ≠ 0) else decide (d.bfmt ≠ fS32 ∧ d.bfmt ≠ fH16 ∧ d.bfmt ≠ fB16))

def s32Nan (v : Nat) : Bool := Num.isNan (ofS32 v)

/-- Activation parameters (check 0x04). -/
def EpiDesc.paramsBad (d : EpiDesc) : Bool :=
  (decide (d.act = 2) && !(fCmp 4 d.p0 0 && fCmp 2 d.p0 0x3F800000))
    || (decide (d.act = 5) && (s32Nan d.p0 || s32Nan d.p1 || fCmp 4 d.p0 d.p1))
    || (decide (d.smode = 1) && s32Nan d.simm)

/-- Alignment of the fields that are used (check 0x05). -/
def EpiDesc.misaligned (d : EpiDesc) : Bool :=
  decide (d.dst % 4 ≠ 0 ∨ d.dpitch % 4 ≠ 0) || (decide (2 ≤ d.smode) && decide (d.svec % 4 ≠ 0)) || (decide (d.bmode ≠ 0) && decide (d.baddr % 4 ≠ 0))
    || (decide (d.bmode = 3) && decide (d.bpitch % 4 ≠ 0)) || (d.blk && decide (d.dscale % 4 ≠ 0 ∨ d.dspitch % 4 ≠ 0))

/-- Pitches shorter than a row of an M × N tile (check 0x05). -/
def EpiDesc.cramped (d : EpiDesc) (n : Nat) : Bool :=
  decide (d.dpitch < rowBytes n d.fmt) || (decide (d.bmode = 3) && decide (d.bpitch < rowBytes n d.bfmt)) || (d.blk && decide (d.dspitch < n / 16))

/-- Ranges read: the scale vector, the bias. -/
def EpiDesc.inputs (d : EpiDesc) (m n : Nat) : List (Nat × Nat) :=
  (if 2 ≤ d.smode then [(d.svec, 4 * (if d.smode = 2 then n else m))] else [])
    ++ (match d.bmode with
      | 0 => []
      | 1 => [(d.baddr, rowBytes n d.bfmt)]
      | 2 => [(d.baddr, rowBytes m d.bfmt)]
      | _ => [(d.baddr, (m - 1) * d.bpitch + rowBytes n d.bfmt)])

/-- Ranges written: the output, its scale bytes. -/
def EpiDesc.outputs (d : EpiDesc) (m n : Nat) : List (Nat × Nat) :=
  [(d.dst, (m - 1) * d.dpitch + rowBytes n d.fmt)] ++ (if d.blk then [(d.dscale, (m - 1) * d.dspitch + n / 16)] else [])

/-! ### The epilogue (R259, R260, R264) -/

/-- Activation of an S32 value (Table 8.8). -/
def activate (act p0 p1 x : Nat) : Nat :=
  let pos := fCmp 4 x 0
  if act = 0 then x
  else if s32Nan x then canonicalNan 0
  else match act with
    | 1 => if pos then x else 0
    | 2 => if pos then x else fMul .rne p0 x
    | 3 =>
      if x = 0x7F800000 then x else if x = 0xFF800000 then 0x80000000
      else
        let z := fMul .rne (fMul .rne x x) x
        let z := fMul .rne (fFma .rne 0x3D372713 z x) 0x3F4C422A
        fMul .rne (fMul .rne (fAdd .rne 0x3F800000 (fnTanh z)) x) 0x3F000000
    | 4 => if x = 0x7F800000 then x else if x = 0xFF800000 then 0x80000000 else fMul .rne x (fnSigmoid x)
    | _ => if fCmp 2 x p0 then p0 else if fCmp 4 x p1 then p1 else x

/-- A vector or tile operand of the epilogue: its S32 value and its mark. -/
def epiOperand (x : Cell) (fmt a e : Nat) : Nat × Bool :=
  let v := Cell.elementAt x fmt a e
  (if fmt = fS32 then v.1 else toS32 .rne (decodeNum fmt v.1), v.2)

/-- Element (r, c) after step 4: its value, whether it is poisoned, whether an input of it was NaN. -/
def EpiDesc.element (d : EpiDesc) (x : Cell) (dr : Drawer) (r c : Nat) : Num × Bool × Bool :=
  let e := NMap.get dr.entries default (256 * r + c)
  let v := DrawerEntry.fold dr.int e
  if dr.int ∧ d.fmt = fI32 then (ofInt (sgn 48 v), e.poison, false)
  else
    let y0 := if dr.int then toS32 .rne (ofInt (sgn 48 v)) else v
    let s := if d.smode = 1 then (d.simm, false) else if d.smode = 2 then epiOperand x fS32 d.svec c else epiOperand x fS32 d.svec r
    let y1 := if d.smode = 0 then y0 else fMul .rne y0 s.1
    let b := match d.bmode with
      | 1 => epiOperand x d.bfmt d.baddr c
      | 2 => epiOperand x d.bfmt d.baddr r
      | _ => epiOperand x d.bfmt (d.baddr + r * d.bpitch) c
    let y2 := if d.bmode = 0 then y1 else fAdd .rne y1 b.1
    let y3 := activate d.act d.p0 d.p1 y2
    (ofS32 y3, e.poison || (decide (2 ≤ d.smode) && s.2) || (decide (d.bmode ≠ 0) && b.2),
      s32Nan y0 || (decide (d.smode ≠ 0) && s32Nan s.1) || (decide (d.bmode ≠ 0) && s32Nan b.1))

/-- What a drain writes, feeds and counts. -/
structure DrainResult where
  writes : List LocalWrite
  feeds : List Num
  counts : ChainCounts
  poisoned : Nat
  deriving DecidableEq, Repr, Inhabited

/-- Count the conversions of a row: saturations, NaN replacements, NaN outputs, produced NaNs. -/
def countRow (cs : List (Option Conv × Num × Bool)) (k : ChainCounts) : ChainCounts :=
  cs.foldl (fun k y => match y.1 with
    | none => k
    | some v =>
      let nan := Num.isNan y.2.1
      { k with
        sat := k.sat + b2n v.sat
        nanZero := k.nanZero + b2n v.nanZero
        nan := k.nan + b2n (nan && !v.nanZero && !y.2.2)
        stickyNan := k.stickyNan || nan }) k

/-- The drain of a drawer (R254 to R264); `supplied` is the scale of a scale-table slot. -/
def EpiDesc.drain (d : EpiDesc) (x : Cell) (dr : Drawer) (supplied : Option Nat) : DrainResult :=
  let m := 16 * (dr.mf + 1)
  let n := 16 * (dr.nf + 1)
  (List.range m).foldl (fun acc r =>
    let els := (List.range n).map (fun c => EpiDesc.element d x dr r c)
    let row := els.zipIdx.map (fun y =>
      ({ value := y.1.1, poison := y.1.2.1, fixed := none
         mode := if d.round = 1 then .sr (randomByte d.key d.base (r * n + y.2)) else .rne } : OutElement))
    let out := convertOutputs d.fmt d.blk d.sat supplied row
    let packed := packRow d.fmt out.1 (els.map (fun y => y.2.1))
    let w : List LocalWrite := [{ addr := d.dst + r * d.dpitch, bytes := packed.1, marks := packed.2 }]
      ++ (if d.blk then [{ addr := d.dscale + r * d.dspitch, bytes := out.2.1.map (fun b => BitVec.ofNat 8 b.1), marks := out.2.1.map (·.2) }] else [])
    { writes := acc.writes ++ w
      feeds := if d.tagEn then acc.feeds ++ els.map (fun y => if y.2.1 then .nan else y.1) else acc.feeds
      counts := countRow ((out.2.2.zip els).map (fun y => (y.1, y.2.1, y.2.2.2))) acc.counts
      poisoned := acc.poisoned + (els.filter (fun y => y.2.1)).length })
    { writes := [], feeds := [], counts := default, poisoned := 0 }

end Sys2Proof.Machine
end

