-- ==== Sys2Proof/Machine/Integer.lean ====
section
/-!
DEFINITION. Integer, logic, predicate, uniform, lane-exchange and special-register instructions (0x00 to 0x17, 0x40 to 0x49;
R104 to R106, R112 to R114, R130).
-/

namespace Sys2Proof.Machine

/-! ### The functions -/

/-- Logical and arithmetic shifts with the counts of R104. -/
def shlFn (a b : Nat) : Nat := if b < 32 then a * 2 ^ b % 2 ^ 32 else 0
def shrFn (a b : Nat) : Nat := if b < 32 then a / 2 ^ b else 0
def sarFn (a b : Nat) : Nat := unsgn 32 (sgn 32 a / (2 ^ min b 31 : Nat))

/-- Three-input look-up (R106): bit j of the result is bit 4c + 2b + a of the table. -/
def blutFn (t a b c : Nat) : Nat :=
  maskOf ((List.range 32).filter (fun j => t.testBit (4 * b2n (c.testBit j) + 2 * b2n (b.testBit j) + b2n (a.testBit j))))

/-- Bit reversal. -/
def brevFn (a : Nat) : Nat := maskOf ((List.range 32).filter (fun j => a.testBit (31 - j)))

/-- Extract `c` mod 64 bits from bit `b` mod 32 (R104): bits past 31 are zero, or the sign. -/
def bfeFn (signed : Bool) (a b c : Nat) : Nat :=
  let len := c % 64
  let raw := if signed then unsgn 64 (sgn 32 a / (2 ^ (b % 32) : Nat)) else a / 2 ^ (b % 32)
  let v := raw % 2 ^ len
  if signed && decide (0 < len) then unsgn 32 (sgn len v) else v % 2 ^ 32

/-- Insert the low bits of `a` at the position b[4:0] and length b[13:8], other bits from `c`. -/
def bfiFn (a b c : Nat) : Nat :=
  let pos := b % 32
  let m := (2 ^ (b / 2 ^ 8 % 64) - 1) * 2 ^ pos % 2 ^ 32
  (c &&& (m ^^^ (2 ^ 32 - 1))) ||| (a * 2 ^ pos % 2 ^ 32 &&& m)

def minFn (signed : Bool) (a b : Nat) : Nat := if signed then (if sgn 32 a ≤ sgn 32 b then a else b) else min a b
def maxFn (signed : Bool) (a b : Nat) : Nat := if signed then (if sgn 32 a ≤ sgn 32 b then b else a) else max a b

/-- Conditions 0 to 5 of R105 on integers. -/
def condFn (cond : Nat) (x y : Int) : Bool :=
  match cond with
  | 0 => decide (x = y)
  | 1 => decide (x ≠ y)
  | 2 => decide (x < y)
  | 3 => decide (x ≤ y)
  | 4 => decide (y < x)
  | _ => decide (y ≤ x)

def intVal (signed : Bool) (a : Nat) : Int := if signed then sgn 32 a else (a : Int)

/-! ### Meanings by shape -/

/-- The lanes of `ex` whose predicate holds. -/
def lanesWhere (ex : Nat) (p : Nat → Bool) : Nat := maskOf ((List.range 32).filter (fun l => ex.testBit l && p l))

def alu (f : RegForm) (fn : Nat → Nat → Nat → Nat) (o : Operands) (g : Group) : Group :=
  Group.write g f.dst.toNat o.ex (fun l => fn (o.a l) (o.b l) (o.c l)) 0 0

def aluPair (f : RegForm) (fn : Nat → Nat → Nat → Nat) (o : Operands) (g : Group) : Group :=
  Group.writePair g f.dst.toNat o.ex (fun l => fn (o.a l) (o.b l) (o.c l)) 0 0

def predAlu (f : RegForm) (fn : Nat → Nat → Bool) (o : Operands) (g : Group) : Group :=
  Group.writePred g f.dst.toNat o.ex (lanesWhere o.ex (fun l => fn (o.a l) (o.b l)))

/-- Shapes: d, a / d, a, b / d, a, b, c, all 32-bit. -/
def shape1 (sub : Nat) : Shape := { d := .r32, a := .r32, b := .none, c := .none, sub := sub, imm := false, reserved := false, group := false, carries := false }
def shape2 (sub : Nat) : Shape := { d := .r32, a := .r32, b := .r32, c := .none, sub := sub, imm := true, reserved := false, group := false, carries := false }
def shape3 (sub : Nat) : Shape := { d := .r32, a := .r32, b := .r32, c := .r32, sub := sub, imm := true, reserved := false, group := false, carries := false }

def subBit (f : RegForm) (i : Nat) : Bool := f.sub.toNat.testBit i
def subField (f : RegForm) (hi lo : Nat) : Nat := bits f.sub.toNat hi lo

/-! ### 0x00 to 0x17 -/

def execNop (g : GroupLoc) (f : RegForm) (s : State) : Host.Outcome State Fault Refusal :=
  .next (State.runReg s 0x00 { shape1 0 with d := .none, a := .none } g f (fun _ grp => grp))

def execIadd (g : GroupLoc) (f : RegForm) (s : State) : Host.Outcome State Fault Refusal :=
  .next (State.runReg s 0x01 (shape2 0) g f (alu f (fun a b _ => a + b)))

def execIsub (g : GroupLoc) (f : RegForm) (s : State) : Host.Outcome State Fault Refusal :=
  .next (State.runReg s 0x02 (shape2 0) g f (alu f (fun a b _ => a + 2 ^ 32 - b)))

def execImul (g : GroupLoc) (f : RegForm) (s : State) : Host.Outcome State Fault Refusal :=
  .next (State.runReg s 0x03 (shape2 0) g f (alu f (fun a b _ => a * b)))

def execImulhi (g : GroupLoc) (f : RegForm) (s : State) : Host.Outcome State Fault Refusal :=
  .next (State.runReg s 0x04 (shape2 1) g f
    (alu f (fun a b _ => if subBit f 0 then unsgn 32 (sgn 32 a * sgn 32 b / (2 ^ 32 : Nat)) else a * b / 2 ^ 32)))

def execImad (g : GroupLoc) (f : RegForm) (s : State) : Host.Outcome State Fault Refusal :=
  .next (State.runReg s 0x05 (shape3 0) g f (alu f (fun a b c => a * b + c)))

def execImin (g : GroupLoc) (f : RegForm) (s : State) : Host.Outcome State Fault Refusal :=
  .next (State.runReg s 0x06 (shape2 1) g f (alu f (fun a b _ => minFn (subBit f 0) a b)))

def execImax (g : GroupLoc) (f : RegForm) (s : State) : Host.Outcome State Fault Refusal :=
  .next (State.runReg s 0x07 (shape2 1) g f (alu f (fun a b _ => maxFn (subBit f 0) a b)))

def execIabs (g : GroupLoc) (f : RegForm) (s : State) : Host.Outcome State Fault Refusal :=
  .next (State.runReg s 0x08 (shape1 0) g f (alu f (fun a _ _ => (sgn 32 a).natAbs)))

def execIshl (g : GroupLoc) (f : RegForm) (s : State) : Host.Outcome State Fault Refusal :=
  .next (State.runReg s 0x09 (shape2 0) g f (alu f (fun a b _ => shlFn a b)))

def execIshr (g : GroupLoc) (f : RegForm) (s : State) : Host.Outcome State Fault Refusal :=
  .next (State.runReg s 0x0A (shape2 1) g f (alu f (fun a b _ => if subBit f 0 then sarFn a b else shrFn a b)))

def execBlut (g : GroupLoc) (f : RegForm) (s : State) : Host.Outcome State Fault Refusal :=
  .next (State.runReg s 0x0B (shape3 0x3FC) g f (alu f (fun a b c => blutFn (subField f 9 2) a b c)))

def execPopc (g : GroupLoc) (f : RegForm) (s : State) : Host.Outcome State Fault Refusal :=
  .next (State.runReg s 0x0C (shape1 0) g f (alu f (fun a _ _ => popNat 32 a)))

def execClz (g : GroupLoc) (f : RegForm) (s : State) : Host.Outcome State Fault Refusal :=
  .next (State.runReg s 0x0D (shape1 0) g f (alu f (fun a _ _ => 32 - bitLen a)))

def execBrev (g : GroupLoc) (f : RegForm) (s : State) : Host.Outcome State Fault Refusal :=
  .next (State.runReg s 0x0E (shape1 0) g f (alu f (fun a _ _ => brevFn a)))

def execBfe (g : GroupLoc) (f : RegForm) (s : State) : Host.Outcome State Fault Refusal :=
  .next (State.runReg s 0x0F (shape3 1) g f (alu f (bfeFn (subBit f 0))))

def execBfi (g : GroupLoc) (f : RegForm) (s : State) : Host.Outcome State Fault Refusal :=
  .next (State.runReg s 0x10 (shape3 0) g f (alu f bfiFn))

def execShf (g : GroupLoc) (f : RegForm) (s : State) : Host.Outcome State Fault Refusal :=
  .next (State.runReg s 0x11 (shape3 0) g f (alu f (fun a b c => (b * 2 ^ 32 + a) / 2 ^ (c % 64))))

def execSel (g : GroupLoc) (f : RegForm) (s : State) : Host.Outcome State Fault Refusal :=
  .next (State.runReg s 0x12 (shape2 7) g f (fun o grp =>
    Group.write grp f.dst.toNat o.ex
      (fun l => if (Group.pred grp (subField f 2 0)).testBit l then o.a l else o.b l) 0 0))

/-- `mov` carries the poison mark and its source address (R86). -/
def execMov (g : GroupLoc) (f : RegForm) (s : State) : Host.Outcome State Fault Refusal :=
  let k := if subBit f 0 then OperandKind.r64 else OperandKind.r32
  .next (State.runReg s 0x13 { shape2 1 with d := k, a := .none, b := k, carries := true } g f (fun o grp =>
    let marks (n : Nat) : Nat := if bit1 f.ib then 0 else Group.operandPoison grp .r32 n (bit1 f.ub)
    let src (n : Nat) : DWord := BitVec.ofNat 64 (Group.operandSource grp .r32 n (bit1 f.ub))
    let n := f.sb.toNat
    let grp := Group.write grp f.dst.toNat o.ex (fun l => o.b l % 2 ^ 32) (marks n) (src n)
    if subBit f 0 then Group.write grp (f.dst.toNat + 1) o.ex (fun l => o.b l / 2 ^ 32) (marks (n + 1)) (src (n + 1)) else grp))

def execIadd64 (g : GroupLoc) (f : RegForm) (s : State) : Host.Outcome State Fault Refusal :=
  .next (State.runReg s 0x14 { shape2 0 with d := .r64, a := .r64, b := .r64 } g f (aluPair f (fun a b _ => a + b)))

def execImadw (g : GroupLoc) (f : RegForm) (s : State) : Host.Outcome State Fault Refusal :=
  .next (State.runReg s 0x15 { shape3 1 with d := .r64, c := .r64 } g f
    (aluPair f (fun a b c => if subBit f 0 then unsgn 64 (sgn 32 a * sgn 32 b + c) else a * b + c)))

def execIcmp (g : GroupLoc) (f : RegForm) (s : State) : Host.Outcome State Fault Refusal :=
  .next (State.runReg s 0x16 { shape2 0x3C0 with d := .pred, reserved := decide (6 ≤ subField f 9 7) } g f
    (predAlu f (fun a b => condFn (subField f 9 7) (intVal (subBit f 6) a) (intVal (subBit f 6) b))))

/-- `plop` (R106): bit 2b + a of the table SUB[3:0]. -/
def execPlop (g : GroupLoc) (f : RegForm) (s : State) : Host.Outcome State Fault Refusal :=
  .next (State.runReg s 0x17 { shape2 0xF with d := .pred, a := .pred, b := .pred, imm := false } g f
    (predAlu f (fun a b => (subField f 3 0).testBit (2 * b + a))))

/-! ### Uniform, vote, exchange and special registers -/

/-- The operations of `ualu` (R112). -/
def ualuFn (code a b : Nat) : Nat :=
  match code with
  | 0 => a + b
  | 1 => a + 2 ^ 32 - b
  | 2 => a * b
  | 3 => a &&& b
  | 4 => a ||| b
  | 5 => a ^^^ b
  | 6 => shlFn a b
  | 7 => shrFn a b
  | 8 => minFn true a b
  | _ => maxFn true a b

def execUalu (g : GroupLoc) (f : RegForm) (s : State) : Host.Outcome State Fault Refusal :=
  .next (State.runReg s 0x40
    { shape2 0xF with d := .uni, a := .uni, b := .uni, group := true, reserved := decide (10 ≤ subField f 3 0) } g f
    (fun o grp => Group.writeUni grp f.dst.toNat (ualuFn (subField f 3 0) (o.a 0) (o.b 0)) false 0))

/-- `r2u` (R112): the lowest active lane with SUB[5] set, else lane SUB[4:0]; the mark moves with the value. -/
def execThreadToUniform (g : GroupLoc) (f : RegForm) (s : State) : Host.Outcome State Fault Refusal :=
  .next (State.runReg s 0x41 { shape1 0x3F with d := .uni, a := .thread, group := true, carries := true } g f
    (fun o grp =>
      let l := if subBit f 5 then ((List.range 32).find? (fun i => grp.active.toNat.testBit i)).getD 0 else subField f 4 0
      Group.writeUni grp f.dst.toNat (o.a l) ((Group.poisonOf grp f.sa.toNat).testBit l) (NMap.get grp.wSource 0 f.sa.toNat)))

/-- Special registers (Table 4.8): a value and how DST is named; MODULE and EPOCH come from the cell's module.
One with a uniform destination acts once for the group and so needs GP = p7 (R102; DEDUCED, assumption 111). -/
def execSrd (g : GroupLoc) (f : RegForm) (s : State) : Host.Outcome State Fault Refusal :=
  let sel := subField f 7 0
  let d := if sel = 0 then OperandKind.r32 else if sel = 2 then OperandKind.uniPair else OperandKind.uni
  .next (State.runReg s 0x42
    { shape1 0xFF with d := d, a := .none, group := decide (sel ≠ 0), reserved := decide (6 ≤ sel) } g f
    (fun o grp =>
      match sel with
      | 0 => Group.write grp f.dst.toNat o.ex (fun l => l) 0 0
      | 1 => Group.writeUni grp f.dst.toNat grp.active.toNat false 0
      | 2 => Group.writeUniPair grp f.dst.toNat s.timebase
      | 3 => Group.writeUni grp f.dst.toNat (s.moduleNumber % 2 ^ 14) false 0
      | 4 => Group.writeUni grp f.dst.toNat grp.job.toNat false 0
      | _ => Group.writeUni grp f.dst.toNat (NMap.get (State.cell s g.cell).epochs 0 grp.job.toNat).toNat false 0))

/-- `vote` (R113). -/
def execVote (g : GroupLoc) (f : RegForm) (s : State) : Host.Outcome State Fault Refusal :=
  let mode := subField f 1 0
  .next (State.runReg s 0x48
    { shape1 3 with d := if mode = 2 then .uni else .pred, a := .pred, reserved := decide (mode = 3) } g f
    (fun o grp =>
      let ballot := Group.pred grp f.sa.toNat &&& o.ex
      if mode = 2 then Group.writeUni grp f.dst.toNat ballot false 0
      else
        let yes := if mode = 0 then decide (ballot ≠ 0) else decide (ballot = o.ex)
        Group.writePred grp f.dst.toNat o.ex (if yes then 2 ^ 32 - 1 else 0)))

/-- The lane `shfl` reads for lane `i` (R114): its own where the source is outside the group or not executing; b
is an unsigned number and the lane does not wrap (DEDUCED, assumption 109). -/
def shflLane (mode ex i b : Nat) : Nat :=
  let src : Int :=
    match mode with
    | 0 => (b % 32 : Nat)
    | 1 => (i : Int) - (b : Int)
    | 2 => (i : Int) + (b : Int)
    | _ => (i ^^^ (b % 32) : Nat)
  if 0 ≤ src ∧ src < 32 ∧ ex.testBit src.toNat then src.toNat else i

def execShfl (g : GroupLoc) (f : RegForm) (s : State) : Host.Outcome State Fault Refusal :=
  .next (State.runReg s 0x49 { shape2 3 with carries := true } g f
    (fun o grp =>
      let from_ (l : Nat) : Nat := shflLane (subField f 1 0) o.ex l (o.b l)
      let marks := Group.operandPoison grp .r32 f.sa.toNat (bit1 f.ua)
      Group.write grp f.dst.toNat o.ex (fun l => o.a (from_ l)) (lanesWhere o.ex (fun l => marks.testBit (from_ l)))
        (BitVec.ofNat 64 (Group.operandSource grp .r32 f.sa.toNat (bit1 f.ua)))))

end Sys2Proof.Machine
end

