-- ==== Sys2Proof/Machine/HomeCache.lean ====
section
/-!
DEFINITION. The home region cache and the stacks behind it: lines, victims, fills, errors, sparing, patrol, the service of requests and their
answers (R339, R345 to R360), and what waits in a cell for its operations to be performed (R134, R138, R140).
-/

namespace Sys2Proof.Machine

/-! ### Region-cache lines; the data are the module's memory -/

def regionSet (o : Nat) : Nat := cacheSet 16 (o / 128)
def State.regionLines (s : State) (r o : Nat) : List RegionLine := NMap.get (State.region s r).cache [] (regionSet o)
def State.regionLine (s : State) (r o : Nat) : Option RegionLine :=
  (State.regionLines s r o).find? (fun l => decide (l.line = o / 128))

def State.setRegionLines (s : State) (r o : Nat) (l : List RegionLine) : State :=
  let x := State.region s r
  State.setRegion s r { x with cache := NMap.set x.cache [] (regionSet o) l }

/-- Change the line of an offset where the region cache holds it, making it most recently used. -/
def State.touchRegion (s : State) (r o : Nat) (f : RegionLine → RegionLine) : State :=
  let l := State.regionLines s r o
  match l.find? (fun x => decide (x.line = o / 128)) with
  | none => s
  | some x => State.setRegionLines s r o (f x :: l.filter (fun y => decide (y.line ≠ o / 128)))

/-- The class of a line after a hit (R346); no more than six lines of a set are pinned. -/
def State.hitClass (s : State) (r o cls : Nat) (tag : Half) (x : RegionLine) : RegionLine :=
  let pinned := ((State.regionLines s r o).filter (fun y => decide (y.cls = 3 ∧ y.line ≠ o / 128))).length
  if x.cls = 3 then x
  else if cls = 3 then (if 6 ≤ pinned then { x with cls := 2 } else { x with cls := 3, tag := tag })
  else { x with cls := cls }

/-- A sector of a line is written: valid, dirty, and what its stack holds no longer matters. -/
def RegionLine.write (x : RegionLine) (i : Nat) : RegionLine :=
  { x with valid := dedupe (x.valid ++ [i]), dirty := dedupe (x.dirty ++ [i]), lost := x.lost.erase i }

def State.dirtySector (s : State) (r o : Nat) : State := State.touchRegion s r o (fun x => RegionLine.write x (o / 32 % 4))

/-- A granted read of a line decrements a set USES; at 0 the line expires (R348). -/
def State.useRead (s : State) (r o : Nat) : State :=
  State.touchRegion s r o (fun x =>
    if x.uses = 0 then x else { x with uses := x.uses - 1, expired := x.expired || decide (x.uses = 1) })

/-- A copy write sets or clears USES and clears EXPIRED (R348). -/
def State.setUses (s : State) (r o u : Nat) : State := State.touchRegion s r o (fun x => { x with uses := u, expired := false })

/-- The pseudo-channel instance of a region offset: 32 × stack + pseudo-channel (Tables 12.1, 18.8). -/
def channelInst (r o : Nat) : Nat := 64 * r + (channelOf o).1

/-- The fabric address of a region offset. -/
def State.fabricOf (s : State) (r o : Nat) : Nat := s.moduleNumber * 2 ^ 43 + physicalOf (State.ilv s) r o

/-! ### Memory errors (R355 to R360) -/

def bankKey (channel bank : Nat) : Nat := 32 * channel + bank

/-- Day of R358 in nanoseconds. -/
def dayNs : Nat := 86400000000000

/-- A corrected error of the sector at an offset. -/
def State.correctedError (s : State) (r o : Nat) : State :=
  let ch := channelOf o
  let key := bankKey (64 * r + ch.1) ch.2.1
  let b := NMap.get s.banks default key
  let stamps := (NMap.get b.corrected [] ch.2.2.1).filter (fun t => decide ((s.timebase : Int) < t + dayNs)) ++ [(s.timebase : Stamp)]
  let s := { s with banks := NMap.set s.banks default key { b with corrected := NMap.set b.corrected [] ch.2.2.1 stamps } }
  State.recoveryEvent (State.count s .memCe 0 (channelInst r o) 1) 0

/-- An uncorrectable error of the sector at an offset (R355): the sector is poisoned, counted, logged and alarmed; `sub` is the
sub-case of its log record. -/
def State.uncorrectableError (s : State) (r o sub : Nat) : State :=
  let ch := channelOf o
  let o := o / 32 * 32
  let key := bankKey (64 * r + ch.1) ch.2.1
  let b := NMap.get s.banks default key
  let s := { s with banks := NMap.set s.banks default key { b with failed := dedupe (b.failed ++ [ch.2.2.1]) } }
  let s := State.setPoison s r o true
  let s := State.count s .memUe 0 (channelInst r o) 1
  let s := State.log s 0x0020 8 (channelInst r o) 0 [sub, o, ch.2.1, ch.2.2.1, 0]
  let s := State.raise s 0x41 8 (channelInst r o) (homeKey r o)
  State.recoveryEvent (State.flag s 1) 4

/-- What a read of a sector finds in its stack: stored poison reads as poison (R356), else as the outcome says (R355). -/
def State.readStack (s : State) (r o sub : Nat) (out : SectorOutcome) : State × Bool :=
  if State.sectorPoisoned s r o then (State.count s .memPoisonRead 0 (channelInst r o) 1, false)
  else
    match out with
    | .clean => (s, false)
    | .corrected => (State.correctedError s r o, true)
    | .uncorrectable => (State.uncorrectableError s r o sub, true)

/-! ### Commands at the stacks (P13, R352) and the lines that wait for them -/

/-- A pseudo-channel may accept a command for the bank of an offset. -/
def State.stackRoom (s : State) (r o : Nat) : Bool :=
  let here := s.stackQueue.filter (fun e => decide (e.2.channel = channelInst r o))
  decide (here.length < 64 ∧ (here.filter (fun e => decide (e.2.bank = (channelOf o).2.1))).length < 32)

/-- A command for a line goes to its pseudo-channel, under a new number. -/
def State.stackIssue (s : State) (r line : Nat) (write : Bool) : State :=
  let ch := channelOf line
  { s with
    stackQueue := NMap.insert s.stackQueue s.nextId
      { region := r, line := line, channel := channelInst r line, bank := ch.2.1, row := ch.2.2.1, write := write }
    nextId := s.nextId + 1 }

/-- The fill in flight of a line. -/
def State.fillOf (s : State) (r line : Nat) : Option Nat :=
  (s.stackQueue.find? (fun e => !e.2.write && decide (e.2.region = r ∧ e.2.line / 128 = line / 128))).map (·.1)

/-- The line a full set gives up (R347): none pinned, none with a fill in flight. -/
def regionVictim (l : List RegionLine) (filling : RegionLine → Bool) : Option RegionLine :=
  let last (p : RegionLine → Bool) : Option RegionLine := l.reverse.find? (fun x => p x && decide (x.cls ≠ 3) && !filling x)
  firstSome [last (fun x => x.expired), last (fun x => decide (x.cls = 0)), last (fun x => decide (x.cls = 1)),
    last (fun x => decide (x.cls = 2))]

/-- A line leaves the region cache: its dirty sectors are written back; one whose stack copy was poisoned while its own was good is lost (R357).
None while its pseudo-channel has no room for the write-back. -/
def State.evict (s : State) (r : Nat) (v : RegionLine) : Option State :=
  let o := v.line * 128
  let s := v.lost.foldl (fun s i => State.setPoison s r (o + 32 * i) true) s
  let s := if v.expired then State.count s .expiredEvict 0 r 1 else s
  if v.dirty.isEmpty then some s
  else if State.stackRoom s r o then some (State.stackIssue (State.count s .rcWriteback 0 r 1) r o true) else none

/-- A line for an offset is present after this, with no sector valid where it is new (R345 to R347); none while no way can be chosen. -/
def State.allocate (s : State) (r o cls : Nat) (tag : Half) : Option State :=
  let l := State.regionLines s r o
  if l.any (fun x => decide (x.line = o / 128)) then some s
  else
    let surplus := decide (cls = 3) && decide (6 ≤ (l.filter (fun x => decide (x.cls = 3))).length)
    let cls := if surplus then 2 else cls
    let new : RegionLine :=
      { line := o / 128, cls := cls, tag := if cls = 3 then tag else 0, valid := [], dirty := [], lost := [], uses := 0, expired := false }
    let s := if surplus then State.count s .pinOverflow 0 (448 + r) 1 else s
    if l.length < 12 then some (State.setRegionLines s r o (new :: l))
    else
      match regionVictim l (fun x => (State.fillOf s r (x.line * 128)).isSome) with
      | none => none
      | some v => (State.evict s r v).map (fun s => State.setRegionLines s r o (new :: l.filter (fun x => decide (x.line ≠ v.line))))

/-- The whole line comes from the stack (Table 12.3): the sectors it does not hold, each corrected, poisoned or clean as its outcome says; one that
was not clean is dirty, to be rewritten (R355, R356). -/
def State.fillLine (s : State) (r line : Nat) (outcomes : List SectorOutcome) : State :=
  let held := (State.regionLine s r line).elim [] (fun x => x.valid)
  let s := ((List.range 4).filter (fun i => !held.contains i)).foldl (fun s i =>
    let t := State.readStack s r (line + 32 * i) 1 (outcomes.getD i .clean)
    if t.2 then State.dirtySector t.1 r (line + 32 * i) else t.1) s
  State.touchRegion s r line (fun x => { x with valid := [0, 1, 2, 3] })

/-! ### What a request needs of its line, and does to it -/

/-- The sectors of a line that a request needs of the stack: those it reads, and those it stores to in part (R345). -/
def HomeBody.needs (b : HomeBody) : List Nat :=
  match b with
  | .read secs => secs
  | .write i bs _ => if 32 ≤ bs.length then [] else [i]
  | .store bs _ => (dedupe (bs.map (fun e => e.1 / 32))).filter (fun i => decide ((bs.filter (fun e => decide (e.1 / 32 = i))).length < 32))
  | .atomic _ _ _ lanes => dedupe (lanes.map (fun l => l.addr / 32 % 4))
  | _ => []

/-- The region cache holds what is needed of a line. -/
def State.holds (s : State) (r line : Nat) (needs : List Nat) : Bool :=
  match State.regionLine s r line with
  | none => false
  | some x => needs.all (fun i => x.valid.contains i)

/-- A request is served by a line that is there: it becomes most recently used, and takes the request's class, unless a copy reads (R346). -/
def State.useLine (s : State) (r line cls : Nat) (tag : Half) (copyRead : Bool) : State :=
  State.touchRegion s r line (fun x => if copyRead then x else State.hitClass s r line cls tag x)

/-- Read sectors of a line at the home. -/
def State.readLine (s : State) (r line : Nat) (secs : List Nat) : NMap SectorData :=
  secs.foldl (fun m i => NMap.insert m i (State.sector s r (line + 32 * i))) []

/-- Read sectors of a line for a group: what incomplete copies leave undefined there are free values (R185). -/
def State.readForGroup (s : State) (r line : Nat) (secs : List Nat) : State × NMap SectorData :=
  let fa (i : Nat) : Nat := State.fabricOf s r (line + 32 * i)
  ({ s with freeCount := s.freeCount + State.sectorsDraw s secs.length (secs.map fa) },
    (State.readLine s r line secs).zipIdx.map (fun ei => (ei.1.1, State.groupSector s (s.freeCount + 32 * ei.2) (fa ei.1.1) ei.1.2)))

/-- Store at the home: bytes, poison, dirty. -/
def State.writeHome (s : State) (r o : Nat) (bs : NMap Byte) (poison : Bool) : State :=
  State.dirtySector (State.storeSector s r o bs poison) r o

/-- Store bytes by their place in a line, the sectors of `poison` marked. -/
def State.storeLine (s : State) (r line : Nat) (bs : NMap Byte) (poison : List Nat) : State :=
  (List.range 4).foldl (fun s i =>
    let part := bs.filter (fun e => decide (e.1 / 32 = i))
    if part.isEmpty then s else State.writeHome s r (line + 32 * i) (part.map (fun e => (e.1 % 32, e.2))) (poison.contains i)) s

/-- The operation of an atomic on one value (R104, R107, R155): `w` bits. -/
def atomicFn (op : AtomicOp) (signed : Bool) (w v b c : Nat) : Nat :=
  let lt := if signed then decide (sgn w v ≤ sgn w b) else decide (v ≤ b)
  match op with
  | .add => (v + b) % 2 ^ w
  | .min => if lt then v else b
  | .max => if lt then b else v
  | .and => v &&& b
  | .or => v ||| b
  | .xor => v ^^^ b
  | .xch => b
  | .cas => if v = c then b else v
  | .fadd => fAdd .rne v b

/-- The lanes of an atomic, applied in order to the values of the addresses they name (R155): final values and returned ones. -/
def atomicLanes (op : AtomicOp) (signed : Bool) (w : Nat) (read : Nat → Nat) (lanes : List AtomicLane) :
    NMap Nat × NMap Nat :=
  lanes.foldl (fun acc l =>
    let v := (NMap.find acc.1 l.addr).getD (read l.addr)
    (NMap.insert acc.1 l.addr (atomicFn op signed w v l.b.toNat l.c.toNat), NMap.insert acc.2 l.lane v)) ([], [])

/-- An atomic on one sector at the home (R155, R159, R161): a poisoned sector is left unchanged and every lane's value is marked. What an incomplete
copy leaves undefined there is read as free values (R185). The answer gives the returned values and the number of addresses left unchanged. -/
def State.atomicHome (s : State) (r line : Nat) (op : AtomicOp) (signed : Bool) (size : Nat) (lanes : List AtomicLane) :
    State × NMap (DWord × Bool) × Nat :=
  let place (a : Nat) : Nat := line + a % 128
  let base := place ((lanes.head?.map (·.addr)).getD 0)
  let d := (State.readForGroup s r (base / 128 * 128) [base / 32 % 4])
  let sector : SectorData := (NMap.find d.2 (base / 32 % 4)).getD (State.sector s r base)
  let read (a : Nat) : Nat := ofBytes (tabulate size (fun i => sector.bytes.getD ((a + i) % 32) 0))
  let s := d.1
  if State.sectorPoisoned s r base then
    (s, lanes.map (fun l => (l.lane, (BitVec.ofNat 64 (read l.addr), true))), (dedupe (lanes.map (·.addr))).length)
  else
    let res := atomicLanes op signed (8 * size) read lanes
    let s := res.1.foldl (fun s e =>
      (toBytes size e.2).zipIdx.foldl (fun s bi => State.setByte s r (place e.1 + bi.2) bi.1) s) s
    (State.dirtySector s r base, res.2.map (fun e => (e.1, (BitVec.ofNat 64 e.2, false))), 0)

/-- Answer a line-miss slot: the sectors read are kept for its fill. -/
def Miss.answerWith (m : Miss) (secs : NMap SectorData) : Miss :=
  { m with answer := some (secs.foldl (fun a e => NMap.insert a e.1 e.2) (m.answer.getD [])) }

def Cell.modMiss (x : Cell) (id : Nat) (f : Miss → Miss) : Cell := { x with misses := NMap.mod x.misses id f }

/-- Poisoned data for sectors that have none (R339, R376). -/
def lostSectors (secs : List Nat) : NMap SectorData :=
  secs.foldl (fun m i => NMap.insert m i { bytes := tabulate 32 (fun _ => 0), poison := true }) []

/-! ### What waits in a cell (R134, R138, R140) -/

/-- Store bytes into local memory (R146, R149). -/
def Cell.storeLocal (x : Cell) (bytes : NMap (Byte × Bool)) : Cell :=
  let x := bytes.foldl (fun x e => Cell.writeLocal x e.1 [e.2.1] false) x
  (bytes.filter (fun e => e.2.2)).foldl (fun x e => Cell.markLocal x e.1 1 true) x

/-- A local atomic (R155, R157, R161), reading memory as `view` has it: distinct addresses by themselves; a marked word is left unchanged. -/
def Cell.atomicLocal (x view : Cell) (op : AtomicOp) (signed : Bool) (size : Nat) (lanes : List AtomicLane) :
    Cell × NMap (DWord × Bool) × Nat :=
  let bad (a : Nat) : Bool := Cell.localMarked x a size
  let res := atomicLanes op signed (8 * size) (fun a => Cell.localNat view a size) (lanes.filter (fun l => !bad l.addr))
  let x' := res.1.foldl (fun x e => Cell.writeLocal x e.1 (toBytes size e.2) false) x
  let values := lanes.map (fun l =>
    (l.lane, if bad l.addr then (BitVec.ofNat 64 (Cell.localNat view l.addr size), true)
      else (BitVec.ofNat 64 (NMap.get res.2 0 l.lane), false)))
  (x', values, (dedupe ((lanes.filter (fun l => bad l.addr)).map (·.addr))).length)

/-- A store to local memory takes place: `touched` are the ranges it accesses, for staging areas (R400). -/
def State.storeLocal (s : State) (c : Nat) (bytes : NMap (Byte × Bool)) (touched : List (Nat × Nat)) : State :=
  let written := bytes.map (·.1)
  State.spoil (State.modCell s c (fun x => Cell.disturbArray (Cell.disturbCopies (Cell.storeLocal x bytes) written) written)) c touched

/-- An atomic on local memory takes place; the answer is the values of its lanes (R155, R161, R185, R230). -/
def State.atomicLocal (s : State) (c : Nat) (op : AtomicOp) (signed : Bool) (size : Nat) (lanes : List AtomicLane) : State × NMap (DWord × Bool) :=
  let bytes := dedupe (lanes.flatMap (fun l => tabulate size (fun i => l.addr + i)))
  let touched := lanes.map (fun l => (l.addr, size))
  let s := State.spoil s c touched
  let open_ := bytes.filter (Cell.unsettled (State.cell s c))
  let r := Cell.atomicLocal (State.cell s c) (Cell.freeView (State.cell s c) s.freeCount open_) op signed size lanes
  let s := { s with freeCount := s.freeCount + open_.length }
  let s := State.spoil (State.setCell s c (Cell.disturbArray (Cell.disturbCopies r.1 bytes) bytes)) c touched
  (if r.2.2 = 0 then s else State.count s .atomPoison 0 c r.2.2, r.2.1)

/-- A held release to local memory takes place when what it waits for is performed (R138). -/
def State.releaseLocal (s : State) (c id : Nat) (h : HeldLocal) : State :=
  if h.after.all (fun i => State.performed s c h.scope i) then
    let s := State.modCell s c (fun x => { x with heldLocal := NMap.erase x.heldLocal id })
    match h.atomic with
    | none => State.storeLocal s c h.bytes (h.bytes.map (fun e => (e.1, 1)))
    | some (op, signed, size, lanes) =>
      let r := State.atomicLocal s c op signed size lanes
      State.modCell r.1 c (fun x => Cell.deliver x id 0 [] r.2)
  else s

/-- A request to another module that its cell holds leaves when what it waits for is performed, no earlier request of its group to the same address
is out or held (R134), and a transaction entry is free (R377). -/
def State.releasePacket (s : State) (c id : Nat) (h : HeldPacket) : State :=
  let conflicts := (State.region s (regionOf c)).txns.any (fun e =>
    decide (e.2.cell = c ∧ e.2.slot = h.slot ∧ e.2.copy = none) && packetsMeet e.2.packet h.packet)
  let earlier := (State.cell s c).held.any (fun e => decide (e.1 < id ∧ e.2.slot = h.slot) && packetsMeet e.2.packet h.packet)
  if conflicts || earlier || !h.after.all (fun i => State.performed s c h.scope i) then s
  else (State.transmit (State.modCell s c (fun x => { x with held := NMap.erase x.held id })) c h.slot h.op h.packet h.miss none).getD s

/-- One pass over what cell `c` holds, oldest first. -/
def State.flushOnce (s : State) (c : Nat) : State :=
  let s := (State.cell s c).heldLocal.foldl (fun s e => State.releaseLocal s c e.1 e.2) s
  (State.cell s c).held.foldl (fun s e => State.releasePacket s c e.1 e.2) s

/-- Passes over what a cell holds, at most a number of them, until nothing leaves. -/
def State.flushUpTo : Nat → State → Nat → State
  | 0, s, _ => s
  | n + 1, s, c =>
    let t := State.flushOnce (State.grant s) c
    if (State.cell t c).heldLocal.length + (State.cell t c).held.length < (State.cell s c).heldLocal.length + (State.cell s c).held.length then
      State.flushUpTo n t c
    else t

/-- What the cell holds leaves as far as it may. -/
def State.flushHeld (s : State) (c : Nat) : State :=
  State.flushUpTo ((State.cell s c).heldLocal.length + (State.cell s c).held.length + 1) s c

/-- Something has been performed, answered or granted: requests move on, and so does what the cells that `p` names hold. -/
def State.moveOn (s : State) (p : Nat → Bool) : State :=
  s.cells.foldl (fun s e => if p e.1 && !(e.2.held.isEmpty && e.2.heldLocal.isEmpty) then State.flushHeld s e.1 else s) (State.grant s)

/-! ### Answers (R135, R155, R345, R18) -/

/-- A request of a copy is answered: the copy waits for it no longer. -/
def Cell.copyAnswered (x : Cell) (id : Nat) : Cell := { x with copies := x.copies.map (fun e => (e.1, { e.2 with waits := e.2.waits.erase id })) }

/-- Sectors read for request `id` reach its cell; a copy of a fenced block takes none (R30, R32). -/
def State.landSectors (s : State) (id : Nat) (q : HomeRequest) (data : NMap SectorData) : State :=
  match q.source with
  | .cell c _ =>
    match q.answers with
    | none => s
    | some m => State.modCell s c (fun x => Cell.modMiss x m (fun y => Miss.answerWith y data))
  | .copy c slot =>
    let s := State.modCell s c (fun x => Cell.copyAnswered x id)
    if (State.block s (blockOf c)).fenced then s
    else State.copyArrive s c slot (data.map (fun e => (State.fabricOf s q.region (q.line + 32 * e.1) / 32, e.2)))
  | _ => s

/-- The values of an atomic reach its cell; a fenced block discards them (R30, R32). -/
def State.landValues (s : State) (id c : Nat) (values : NMap (DWord × Bool)) (unchanged : Nat) : State :=
  if (State.block s (blockOf c)).fenced then State.modCell s c (fun x => { x with accesses := x.accesses.filter (fun e => !e.2.waits.contains id) })
  else
    let s := if unchanged = 0 then s else State.count s .atomPoison 0 c unchanged
    State.modCell s c (fun x => Cell.deliver x id 0 [] values)

/-- An answer that a package packet brings, or that stays in its region (R18). -/
def State.land (s : State) (h : PackageHeader) (data : List Byte) : State :=
  match h with
  | .request _ => s
  | .sectors id q sectors poison =>
    State.landSectors s id q (sectors.foldl (fun m i =>
      NMap.insert m i { bytes := tabulate 32 (fun k => data.getD (32 * i + k) 0), poison := poison.contains i }) [])
  | .values id c values unchanged => State.landValues s id c values unchanged
  | .completion id c => State.modCell s c (fun x => Cell.copyAnswered x id)

/-- The 128 bytes that carry sectors of a line. -/
def lineBytes (data : NMap SectorData) : List Byte := tabulate 128 (fun k => ((NMap.find data (k / 32)).elim 0 (fun d => d.bytes.getD (k % 32) 0)))

/-- Send an answer to a cell: at once in its region, as an RSP packet to another, in the space reserved for it (R21, P17). -/
def State.reply (s : State) (r id c : Nat) (h : PackageHeader) (data : List Byte) : State :=
  if regionOf c = r then State.land s h data
  else { s with package := NMap.insert s.package id { source := r, destination := regionOf c, cls := .rsp, header := h, data := data } }

def answerTo (s : State) (q : RequestPacket) (st : AnswerStatus) : AnswerPacket :=
  { source := s.moduleNumber, txn := q.txn, status := st, bytes := [], poison := 0, granule := 0, values := [] }

/-- A request of another module is answered without being performed: data and values carry poison (R372). -/
def State.refuse (s : State) (q : RequestPacket) (st : AnswerStatus) (granule : Nat) : State :=
  let a := answerTo s q st
  State.emit s (.answer (match q.body with
    | .load _ _ => { a with bytes := tabulate 64 (fun _ => 0), poison := 3 }
    | .get _ _ => { a with bytes := tabulate 256 (fun _ => 0), poison := 255, granule := granule }
    | .atomic _ _ _ lanes => { a with values := lanes.map (fun l => (l.lane, (0 : DWord), true)) }
    | _ => a) q.source)

/-- An access from outside the cells whose lines have all been served: it is answered (R374), or completed to the host (R466). -/
def State.transferDone (s : State) (t : Transfer) : State :=
  let bytes := tabulate t.size (fun i => (gathered t.data (t.base + i)).1)
  let marked (i : Nat) : Bool := (NMap.find t.data ((t.base + 32 * i) / 32)).elim false (fun d => d.poison)
  match t.source with
  | .remote q =>
    let a := answerTo s q .done
    State.emit s (.answer (if t.reads then
      { a with bytes := bytes.zipIdx.map (fun bi => if (NMap.find t.data ((t.base + bi.2) / 32)).isSome then bi.1 else 0)
               poison := BitVec.ofNat 8 (maskOf ((List.range (t.size / 32)).filter marked)), granule := t.granule } else a) q.source)
  | .host => if t.reads then State.emit s (.completion bytes ((List.range t.size).any (fun i => (gathered t.data (t.base + i)).2))) else s
  | _ => s

/-- A line of a transfer has been served, and sectors of it have come. -/
def State.transferLine (s : State) (t id : Nat) (sectors : NMap SectorData) : State :=
  match NMap.find s.transfers t with
  | none => s
  | some x =>
    let x := { x with waits := x.waits.erase id, data := sectors.foldl (fun m d => NMap.insert m d.1 d.2) x.data }
    if x.waits.isEmpty then State.transferDone { s with transfers := NMap.erase s.transfers t } x
    else { s with transfers := NMap.insert s.transfers t x }

/-! ### Service of one request at its home (R345) -/

/-- Answer a request with sectors. -/
def State.answerSectors (s : State) (id : Nat) (q : HomeRequest) (data : NMap SectorData) : State :=
  match HomeSource.cell? q.source with
  | some c => State.reply s q.region id c (.sectors id q (data.map (·.1)) ((data.filter (fun e => e.2.poison)).map (·.1))) (lineBytes data)
  | none => State.transferLine s (q.answers.getD 0) id (data.map (fun e => (physicalOf (State.ilv s) q.region (q.line + 32 * e.1) / 32, e.2)))

/-- Answer a store. A cell's own store has no answer inside the module. -/
def State.answerStore (s : State) (id : Nat) (q : HomeRequest) : State :=
  match q.source with
  | .copy c _ => State.reply s q.region id c (.completion id c) (tabulate 128 (fun _ => 0))
  | .cell _ _ => s
  | _ => State.transferLine s (q.answers.getD 0) id []

/-- Answer an atomic with its lanes' values and the number of addresses left unchanged. -/
def State.answerValues (s : State) (id : Nat) (q : HomeRequest) (values : NMap (DWord × Bool)) (unchanged : Nat) : State :=
  match q.source with
  | .remote p =>
    State.emit { s with transfers := NMap.erase s.transfers (q.answers.getD 0) }
      (.answer { answerTo s p .done with values := values.map (fun e => (e.1, e.2.1, e.2.2)) } p.source)
  | .cell c _ => State.reply s q.region id c (.values id c values unchanged) (tabulate 128 (fun _ => 0))
  | _ => s

def HomeSource.copies (h : HomeSource) : Bool := decide (HomeSource.cls h = .cpy)

/-- Perform a request on its line and answer it. Copies read no free values: what they read of their own or of others' operands follows R185 when they move it. -/
def State.perform (s : State) (id : Nat) (q : HomeRequest) : State :=
  let r := q.region
  match q.body with
  | .read secs =>
    let d := if HomeSource.copies q.source || decide (q.source = .host) then (s, State.readLine s r q.line secs) else State.readForGroup s r q.line secs
    State.answerSectors (State.useRead d.1 r q.line) id q d.2
  | .write i bs p => State.answerStore (State.writeHome s r (q.line + 32 * i) bs p) id q
  | .store bs p =>
    let s := State.storeLine s r q.line bs p
    State.answerStore (q.uses.elim s (State.setUses s r q.line)) id q
  | .atomic op signed size lanes =>
    let d := State.atomicHome s r q.line op signed size lanes
    State.answerValues d.1 id q d.2.1 d.2.2
  | _ => s

/-- Answer a request that the home does not perform: unpopulated (R339), or of a region that has gone (R521); one of another module is LOST. -/
def State.turnAway (s : State) (id : Nat) (q : HomeRequest) : State :=
  match q.source, q.body with
  | .remote p, _ =>
    match NMap.find s.transfers (q.answers.getD 0) with
    | none => s
    | some x =>
      State.refuse { s with
        transfers := NMap.erase s.transfers (q.answers.getD 0)
        homeQueue := s.homeQueue.filter (fun e => !x.waits.contains e.1) } p .lost x.granule
  | _, .read secs => State.answerSectors s id q (lostSectors secs)
  | _, .granuleRead secs => State.answerSectors s id q (lostSectors secs)
  | _, .atomic _ _ _ lanes => State.answerValues s id q (lanes.map (fun l => (l.lane, ((0 : DWord), true)))) 0
  | _, _ => State.answerStore s id q

/-- Whether the home region cache serves its region now (R521). -/
def State.regionServes (s : State) (r : Nat) : Bool := !(State.region s r).fenced && !(State.region s r).off

/-- No older request for the same line is still on its way: of the same cell, its other groups' held releases apart (R138); of the same block, once the
block has accepted it; or of the same copy (R344). -/
def State.inOrder (s : State) (id : Nat) (q : HomeRequest) : Bool :=
  s.homeQueue.all (fun e => !(decide (e.1 < id) && decide (e.2.region = q.region ∧ e.2.line / 128 = q.line / 128) &&
    (match e.2.source, q.source with
    | .cell c g, .cell d h => decide (c = d ∧ (e.2.after = [] ∨ g = h)) || (decide (blockOf c = blockOf d) && decide (e.2.stage ≠ .cell ∧ e.2.stage ≠ .crossbar))
    | .copy c k, .copy d j => decide (c = d ∧ k = j)
    | _, _ => false)))

/-- How the home region cache would take a request now: turn it away, split a copy's unit into lines, let it join a fill in flight, serve it from the
line, allocate the line for whole-sector stores, or fill the line. -/
inductive HomeWay where
  | away | split | join (fill : Nat) | hit | install | fill
  deriving DecidableEq, Repr, Inhabited

/-- The way a request that has come to its home can take, none while it waits: for its turn behind an older request, for one of the 16 places at a fill
in flight, for a way of its set (R347), or for its pseudo-channel (R352). -/
def State.homeWay (s : State) (id : Nat) (q : HomeRequest) : Option HomeWay :=
  let here := decide (q.stage = .home) || (decide (q.stage = .network) && (HomeSource.cell? q.source).elim false (fun c => decide (regionOf c = q.region)))
  if !here || q.joined.isSome || !State.inOrder s id q then none
  else if !q.populated || !State.regionServes s q.region then some .away
  else if HomeBody.isUnit q.body then some .split
  else
    let needs := HomeBody.needs q.body
    match State.fillOf s q.region q.line with
    | some f => if (s.homeQueue.filter (fun e => decide (e.2.joined = some f))).length ≤ 16 then some (.join f) else none
    | none =>
      if State.holds s q.region q.line needs then some .hit
      else
        match State.allocate s q.region q.line q.cls q.tag with
        | none => none
        | some t => if needs.isEmpty then some .install else if State.stackRoom t q.region q.line then some .fill else none

/-- The region's arbiter grants the request: its class has its turn (R16), and it is the oldest of its class that can be taken (Table 1.2). -/
def State.homeTurn (s : State) (id : Nat) (q : HomeRequest) : Bool :=
  let here := s.homeQueue.filter (fun e => decide (e.2.region = q.region) && (State.homeWay s e.1 e.2).isSome)
  let k (e : HomeRequest) : Nat := TrafficClass.rank (HomeSource.cls e.source)
  let waiting := (classOrder.map TrafficClass.rank).filter (fun n => here.any (fun e => decide (k e.2 = n)))
  decide (arbitrate (State.region s q.region).network.passed waiting = some (k q)) && here.all (fun e => decide (k e.2 ≠ k q ∨ id ≤ e.1))

/-- The grant is recorded at the arbiter of the region (R16). -/
def State.homeGranted (s : State) (q : HomeRequest) : State :=
  let here := s.homeQueue.filter (fun e => decide (e.2.region = q.region) && (State.homeWay s e.1 e.2).isSome)
  let k (e : HomeRequest) : Nat := TrafficClass.rank (HomeSource.cls e.source)
  let waiting := (classOrder.map TrafficClass.rank).filter (fun n => here.any (fun e => decide (k e.2 = n)))
  let x := State.region s q.region
  State.setRegion s q.region { x with network := { x.network with passed := passOver x.network.passed waiting (k q) } }

/-- A request leaves the queue as the home takes it. -/
def State.taken (s : State) (id : Nat) : State := { s with homeQueue := NMap.erase s.homeQueue id }

/-- A request is taken the way `homeWay` says. -/
def State.takeHome (s : State) (id : Nat) (q : HomeRequest) (w : HomeWay) : State :=
  let copyRead := HomeSource.copies q.source && HomeBody.isRead q.body
  match w with
  | .away =>
    let s := if q.populated || !q.begins then s
      else State.raise (State.count s .memUnmapped 0 q.region 1) 0x43 1 q.region (homeKey q.region q.line)
    State.turnAway (State.taken s id) id q
  | .split => (State.splitUnit s id q .home).1
  | .join f => { s with homeQueue := NMap.insert s.homeQueue id { q with stage := .home, joined := some f } }
  | .hit => State.perform (State.useLine (State.count (State.taken s id) .rcHit 0 q.region 1) q.region q.line q.cls q.tag copyRead) id q
  | .install => State.perform ((State.allocate (State.taken s id) q.region q.line q.cls q.tag).getD s) id q
  | .fill =>
    let s := (State.allocate s q.region q.line q.cls q.tag).getD s
    let s := { s with homeQueue := NMap.insert s.homeQueue id { q with stage := .home, joined := some s.nextId } }
    State.stackIssue s q.region q.line false

/-- `HOME_REQUEST` (R345): the home region cache takes a request whose turn it is. -/
def State.homeRequest (s : State) (id : Nat) : State :=
  match NMap.find s.homeQueue id with
  | none => s
  | some q =>
    match State.homeWay s id q with
    | none => s
    | some w => if State.homeTurn s id q then State.moveOn (State.takeHome (State.homeGranted s q) id q w) (fun _ => true) else s

/-- `STACK_COMMAND_COMPLETE` (R352, R355, R356): commands for one bank complete in the order they were accepted. A fill's line arrives, each sector
corrected or poisoned as its outcome says; the requests that joined are performed in their order. -/
def State.stackComplete (s : State) (id : Nat) (outcomes : List SectorOutcome) : State :=
  match NMap.find s.stackQueue id with
  | none => s
  | some c =>
    if s.stackQueue.any (fun e => decide (e.1 < id ∧ e.2.channel = c.channel ∧ e.2.bank = c.bank)) then s
    else if c.write then { s with stackQueue := NMap.erase s.stackQueue id }
    else
      let s := State.fillLine (State.count { s with stackQueue := NMap.erase s.stackQueue id } .rcMiss 0 c.region 1) c.region c.line outcomes
      State.moveOn ((s.homeQueue.filter (fun e => decide (e.2.joined = some id))).foldl (fun s e =>
        State.perform (State.useLine (State.taken s e.1) c.region c.line e.2.cls e.2.tag (HomeSource.copies e.2.source && HomeBody.isRead e.2.body)) e.1 e.2) s)
        (fun _ => true)

/-- Hand the parts of an access from outside the cells to their homes (a line's physical address and what is asked of it), as transfer `t`, and let each
be taken if it is its turn; an access of no byte has been served. -/
def State.sendLines (s : State) (t : Transfer) (cls : Nat) (tag : Half) (uses : Option Nat) (parts : List (Nat × HomeBody)) : State :=
  let n := s.nextId + 1
  let ids := (List.range parts.length).map (fun i => n + i)
  let requests := parts.zipIdx.map (fun pi =>
    let h := homeOf (State.ilv s) pi.1.1
    (n + pi.2, ({ source := t.source, region := h.1, line := h.2.1 / 128 * 128, body := pi.1.2, scope := 5, cls := cls, tag := tag, uses := uses
                  answers := some s.nextId, stage := .home, after := [], populated := h.2.2, begins := decide (pi.2 = 0), joined := none : HomeRequest })))
  let s := { s with
    transfers := NMap.insert s.transfers s.nextId { t with waits := ids }
    homeQueue := requests.foldl (fun m e => NMap.insert m e.1 e.2) s.homeQueue
    nextId := n + parts.length }
  if parts.isEmpty then State.transferDone { s with transfers := NMap.erase s.transfers (n - 1) } t else ids.foldl State.homeRequest s

/-! ### Accesses that take one step: host writes (R463), the collective engine and the region controller -/

/-- A line's sectors are there after this: a hit, or a fill in this step with these outcomes at the stack. -/
def State.bringLine (s : State) (r line cls : Nat) (tag : Half) (needs : List Nat) (outcomes : List SectorOutcome) : State :=
  if State.holds s r line needs then State.useLine (State.count s .rcHit 0 r 1) r line cls tag false
  else
    let t := (State.allocate s r line cls tag).getD s
    if needs.isEmpty then t else State.fillLine (State.count t .rcMiss 0 r 1) r line outcomes

/-- The lines that `n` bytes from a physical address on lie in, by address. -/
def linesOf (pa n : Nat) : List Nat := if n = 0 then [] else tabulate ((pa + n - 1) / 128 + 1 - pa / 128) (fun i => (pa / 128 + i) * 128)

/-- Bytes of this module's memory by physical address, read at the home region caches in one step: data and marks (R339). -/
def State.readPhysical (s : State) (pa n : Nat) (outcomes : List SectorOutcome) : State × List Byte × List Bool :=
  let r := (linesOf pa n).zipIdx.foldl (fun (acc : State × NMap SectorData) li =>
    let h := homeOf (State.ilv acc.1) li.1
    let secs := (List.range 4).filter (fun i => decide (li.1 + 32 * i < pa + n ∧ pa < li.1 + 32 * i + 32))
    let put (m d : NMap SectorData) : NMap SectorData := d.foldl (fun m e => NMap.insert m (li.1 / 32 + e.1) e.2) m
    if h.2.2 && State.regionServes acc.1 h.1 then
      let s := State.bringLine acc.1 h.1 h.2.1 1 0 secs (outcomes.drop (4 * li.2))
      (State.useRead s h.1 h.2.1, put acc.2 (State.readLine s h.1 h.2.1 secs))
    else (acc.1, put acc.2 (lostSectors secs))) (s, [])
  let away := (linesOf pa n).find? (fun l => !(homeOf (State.ilv s) l).2.2)
  let s := away.elim r.1 (fun l => (fun h : Nat × Nat × Bool => State.raise (State.count r.1 .memUnmapped 0 h.1 1) 0x43 1 h.1 l) (homeOf (State.ilv s) l))
  (s, tabulate n (fun i => (gathered r.2 (pa + i)).1), tabulate n (fun i => (gathered r.2 (pa + i)).2))

/-- Write marked bytes to this module's memory by physical address in one step (R339). -/
def State.writePhysical (s : State) (pa : Nat) (bs : List Byte) (marks : List Bool) (cls : Nat) (tag : Half) (outcomes : List SectorOutcome) : State :=
  let t := (linesOf pa bs.length).zipIdx.foldl (fun s li =>
    let h := homeOf (State.ilv s) li.1
    let idx := (List.range bs.length).filter (fun i => decide ((pa + i) / 128 * 128 = li.1))
    let part : NMap Byte := idx.map (fun i => ((pa + i) % 128, bs.getD i 0))
    let poison := dedupe ((idx.filter (fun i => marks.getD i false)).map (fun i => (pa + i) % 128 / 32))
    if h.2.2 && State.regionServes s h.1 then
      State.storeLine (State.bringLine s h.1 h.2.1 cls tag (HomeBody.needs (.store part poison)) (outcomes.drop (4 * li.2))) h.1 h.2.1 part poison
    else s) s
  let away := (linesOf pa bs.length).find? (fun l => !(homeOf (State.ilv s) l).2.2)
  away.elim t (fun l => (fun h : Nat × Nat × Bool => State.raise (State.count t .memUnmapped 0 h.1 1) 0x43 1 h.1 l) (homeOf (State.ilv s) l))

/-! ### Fills arriving at a cell -/

/-- The sectors of a fill without those that atomics have invalidated since it was asked for, and with the bytes stored since (R343): keys are
places in the line. -/
def overlay (secs : NMap SectorData) (merge : NMap Byte) (drop : List Nat) : NMap SectorData :=
  (secs.filter (fun e => !drop.contains e.1)).map (fun e =>
    let mine := merge.filter (fun b => decide (b.1 / 32 = e.1))
    (e.1, { bytes := mine.foldl (fun l b => l.set (b.1 % 32) b.2) e.2.bytes, poison := e.2.poison && decide (mine.length < 32) }))

/-- A fill arrives: L1 and the block cache take what the scope and class allow (R342, R346, R374), each with what has passed it meanwhile (R343). -/
def State.fillCaches (s : State) (c line : Nat) (m : Miss) (secs : NMap SectorData) : State :=
  let mine := overlay secs m.merge m.drop
  let s := if (m.scope ≤ 1 ∨ m.roc) ∧ mine ≠ [] then
      let x := State.cell s c
      let r := cacheFill 7 8 4 x.l1 line m.cls m.tag m.roc mine
      let s := State.setCell s c { x with l1 := r.1 }
      if r.2 then State.count s .pinOverflow 0 c 1 else s
    else s
  let shared := overlay secs m.blockMerge m.blockDrop
  if (m.scope ≤ 2 ∨ m.roc) ∧ m.cls ≠ 0 ∧ shared ≠ [] then
    let b := State.block s (blockOf c)
    let r := cacheFill 12 16 8 b.cache line m.cls m.tag m.roc shared
    let s := State.setBlock s (blockOf c) { b with cache := r.1 }
    if r.2 then State.count s .pinOverflow 0 (384 + blockOf c) 1 else s
  else s

/-! ### Sparing and patrol -/

/-- Region offset of the first byte of a row (the inverse of R337). -/
def rowOffset (ch bank row : Nat) : Nat :=
  let h := row * 128 + (bank ^^^ (row % 32) ^^^ (row / 32 % 32)) * 4
  let g := (ch ^^^ (h % 64) ^^^ (h / 2 ^ 6 % 64) ^^^ (h / 2 ^ 12 % 64) ^^^ (h / 2 ^ 18 % 64)) % 64
  (h * 64 + g) * 256

/-- Physical page (2 MiB) of a region offset. -/
def physicalPage (ilv r o : Nat) : Nat := physicalOf ilv r o / 2 ^ 21

/-- Spare a row where its bank has one of its 16 spares left (R359); else the bank is out of spares: alarm, and the page joins the retired
list (R360). `channel` is the pseudo-channel instance of Table 18.8. -/
def State.spareRow (s : State) (channel bank row : Nat) : State :=
  let key := bankKey channel bank
  let b := NMap.get s.banks default key
  let r := channel / 64
  let o := rowOffset (channel % 64) bank row
  let b' : BankHealth := { b with failed := b.failed.filter (fun x => decide (x ≠ row)), corrected := NMap.erase b.corrected row }
  if b.spared.length < 16 then
    let s := { s with banks := NMap.set s.banks default key { b' with spared := b.spared ++ [row] } }
    let s := State.count s .rowSpared 0 channel 1
    let s := State.log s 0x0020 8 channel 0 [3, o, bank, row, 15 - b.spared.length]
    State.recoveryEvent s 3
  else
    let page := physicalPage (State.ilv s) r o
    let s := { s with banks := NMap.set s.banks default key b' }
    let s := State.raise s 0x42 8 channel (page * 2 ^ 21)
    { s with nv := { s.nv with retiredPages := dedupe (s.nv.retiredPages ++ [page]) } }

def rowExists (channel bank row : Nat) : Bool := decide (channel < 512 ∧ bank < 32 ∧ row < 98304)

/-- `ROW_SPARE` (R358): a row with an uncorrectable error, or with four corrected ones within 24 hours. -/
def execRowSpare (channel bank row : Nat) (s : State) : Host.Outcome State Fault Refusal :=
  let b := NMap.get s.banks default (bankKey channel bank)
  let recent := (NMap.get b.corrected [] row).filter (fun t => decide ((s.timebase : Int) < t + dayNs))
  if rowExists channel bank row ∧ (b.failed.contains row ∨ 4 ≤ recent.length) then .next (State.spareRow s channel bank row) else .next s

/-- The stacks of a region have power. -/
def State.stackPowered (s : State) (r : Nat) : Bool := (NMap.get s.power.regions RegionPower.reset r).stackOn

/-- A scrub reads a sector and rewrites it (R357): a corrected error is rewritten corrected; an uncorrectable one is rewritten with the poison pattern
and logged, and is lost unless the region cache holds it. -/
def State.scrubSector (s : State) (r o : Nat) (out : SectorOutcome) : State :=
  let i := o / 32 % 4
  let held := (State.regionLine s r o).elim false (fun l => l.valid.contains i)
  let gone := (State.regionLine s r o).elim false (fun l => l.lost.contains i)
  if gone then State.count s .memPoisonRead 0 (channelInst r o) 1
  else
    let t := (State.readStack s r o 2 out).1
    if held && decide (out = .uncorrectable) && !State.sectorPoisoned s r o then
      let u := State.setPoison t r o false
      State.setRegionLines u r o ((State.regionLines u r o).map (fun l => if l.line = o / 128 then { l with lost := dedupe (l.lost ++ [i]) } else l))
    else t

/-- The patrol, or a scrub, reads this sector: its region is served and has power, and its line is not dirty in the region cache. -/
def State.scrubs (s : State) (r o : Nat) : Bool :=
  decide (r < 8 ∧ o < regionBytes) && State.regionServes s r && State.stackPowered s r && (State.regionLine s r o).all (fun l => l.dirty.isEmpty)

/-- `PATROL_SCRUB` (R357): the patrol reads a sector in its turn (R352): its pseudo-channel has room, and no older command of its bank is left. -/
def execPatrolScrub (region offset : Nat) (out : SectorOutcome) (s : State) : Host.Outcome State Fault Refusal :=
  let turn := State.stackRoom s region offset && s.stackQueue.all (fun e =>
    decide (e.2.channel ≠ channelInst region offset ∨ e.2.bank ≠ (channelOf offset).2.1))
  if State.scrubs s region offset && turn then .next (State.countUnits (State.scrubSector s region offset out) .scrubSectors region (2 ^ 20) 1)
  else .next s

end Sys2Proof.Machine
end

