-- ==== Sys2Proof/Machine/Remote.lean ====
section
/-!
DEFINITION. Remote operations (R371 to R378): what the home does with a request, and what an answer, or its absence, does at the
requester; notifies at their target (R171 to R173).
-/

namespace Sys2Proof.Machine

/-! ### At the requester -/

/-- The packet number of TYPE 0x0031 (Table 18.7). -/
def packetKindNumber (b : RequestBody) : Nat :=
  match b with
  | .load _ _ => 0
  | .store _ _ _ _ => 1
  | .atomic _ _ _ _ => 2
  | .notify _ _ => 3
  | .get _ _ => 4
  | .put _ _ _ _ _ => 5

/-- The fabric address a request names; a notify names its target word. -/
def packetAddress (q : RequestPacket) : Nat :=
  match q.body with
  | .notify t _ => t.toNat
  | .atomic _ _ _ ls => q.destination * 2 ^ 43 + ((ls.head?.map (·.addr)).getD 0)
  | b => q.destination * 2 ^ 43 + (bodyRange b).1

def statusNumber (a : AnswerStatus) : Nat :=
  match a with
  | .done => 0
  | .rejected => 1
  | .unmapped => 2
  | .lost => 3

/-- Sectors carried by an answer: its bytes in 32-byte pieces with their poison bits. -/
def packetSectors (n : Nat) (a : AnswerPacket) : NMap SectorData :=
  (List.range n).map (fun i =>
    (i, if a.status = .lost then { bytes := tabulate 32 (fun _ => 0), poison := true }
      else { bytes := tabulate 32 (fun j => a.bytes.getD (32 * i + j) 0), poison := a.poison.getLsbD i }))

/-- What an answer of a request does for a copy slot: the failure it may report (R187), and the request waited for no longer. -/
def CopySlot.answered (k : CopySlot) (dest op : Nat) (st : AnswerStatus) (last : Bool) : CopySlot :=
  { k with
    waits := if last then k.waits.erase op else k.waits
    failure := if st = .done then k.failure else some (k.failure.getD (dest, statusNumber st)) }

/-- Data of a remote load reach its line-miss slot; where its window is read-only and cached, the caches take the sectors asked for (R142, R374). -/
def State.loadAnswered (s : State) (c m base : Nat) (st : AnswerStatus) (secs : NMap SectorData) : State :=
  match NMap.find (State.cell s c).misses m with
  | none => s
  | some y =>
    let s := if y.roc && decide (st = .done) then
        State.fillCaches s c (base / 4) y ((secs.map (fun d => ((base + d.1) % 4, d.2))).filter (fun d => y.sectors.contains d.1))
      else s
    State.openFetches s (State.modCell s c (fun x => Cell.deliver { x with misses := NMap.erase x.misses m } m base secs [])) c m

/-- The values an atomic's answer brings its lanes: poisoned where the home did not perform it (R161, R372, R376). -/
def atomicValues (lanes : List AtomicLane) (a : AnswerPacket) : NMap (DWord × Bool) :=
  lanes.foldl (fun v l =>
    NMap.insert v l.lane (match a.values.find? (fun x => decide (x.1 = l.lane)) with
      | some x => (x.2.1, x.2.2 || decide (a.status ≠ .done))
      | none => ((0 : DWord), true))) []

/-- An answer to a GET of copy `slot`: granule by granule its sectors come, and LOST poisons all of them, in the rows already moved too (R187, R375). -/
def State.getAnswered (s : State) (c slot base dest op n : Nat) (a : AnswerPacket) (last : Bool) : State :=
  let parts := if a.status = .lost then List.range n else [a.granule]
  let secs := parts.flatMap (fun g => (packetSectors 8 a).map (fun d => (base + 8 * g + d.1, d.2)))
  let again := if a.status = .lost then
      (NMap.find (State.cell s c).copies slot).elim [] (fun k => CopySlot.movedFrom k (parts.map (fun g => base / 8 + g)))
    else []
  let s := State.modCell s c (fun x => { x with copies := NMap.mod x.copies slot (fun k => CopySlot.answered k dest op a.status last) })
  let s := State.copyArrive s c slot secs
  State.copyAgain s c slot again

/-- An answer is discarded: the block of its cell is fenced (R30, R32). The space reserved for it is free. -/
def State.discardAnswer (s : State) (t : Transaction) (last : Bool) : State :=
  State.modCell s t.cell (fun x =>
    let x := match t.miss with
      | some m => { x with misses := NMap.erase x.misses m, accesses := x.accesses.filter (fun e => !e.2.waits.contains m) }
      | none => x
    match t.copy with
    | some slot => { x with copies := NMap.mod x.copies slot (fun k => if last then { k with waits := k.waits.erase t.op } else k) }
    | none => x)

/-- A binding block read from another module comes for the ring that asked (R296); where it does not come, the ring stops with 0x08 (DEDUCED: it
could not be read, R488; assumption 96). -/
def State.bindingArrived (s : State) (ring op : Nat) (a : AnswerPacket) : State :=
  let x := NMap.get s.rings Ring.reset ring
  if (x.binding.map (·.1)) ≠ some op ∨ x.status ≠ .running then s
  else
    let x := if a.status = .done then { x with binding := some (op, a.bytes) } else { x with status := .stopped, error := 8 }
    { s with rings := NMap.set s.rings Ring.reset ring x }

/-- What an answer does for the cell that asked; slot 128 + r stands for ring r. -/
def State.answerCell (s : State) (t : Transaction) (a : AnswerPacket) (last : Bool) : State :=
  let q := t.packet
  let c := t.cell
  match q.body with
  | .load addr _ =>
    match t.miss with
    | some m => State.loadAnswered s c m ((q.destination * 2 ^ 43 + addr / 64 * 64) / 32) a.status (packetSectors 2 a)
    | none => if 128 ≤ t.slot then State.bindingArrived s (t.slot - 128) t.op a else s
  | .atomic _ _ _ lanes =>
    let values := atomicValues lanes a
    let bad := dedupe ((lanes.filter (fun l => (NMap.get values (0, true) l.lane).2)).map (·.addr))
    let s := if bad = [] ∨ a.status ≠ .done then s else State.count s .atomPoison 0 c bad.length
    match t.miss with
    | none => s
    | some m => State.modCell s c (fun x => Cell.deliver { x with misses := NMap.erase x.misses m } m 0 [] values)
  | .store _ _ _ _ => s
  | .get addr n =>
    match t.copy with
    | none => s
    | some slot => State.getAnswered s c slot ((q.destination * 2 ^ 43 + addr) / 32) q.destination t.op (n / 256) a last
  | .put _ _ _ _ _ =>
    match t.copy with
    | none => s
    | some slot => State.modCell s c (fun x => { x with copies := NMap.mod x.copies slot (fun k => CopySlot.answered k q.destination t.op a.status true) })
  | .notify target amount =>
    let s := match a.status with
      | .done => s
      | .lost => State.log (State.count s .notifyLost 0 c 1) 0x0030 3 c q.tag [2, target.toNat, amount]
      | _ => State.count s .notifyRejectOut 0 c 1
    let s := match t.miss with
      | none => s
      | some m => State.modCell s c (fun x => { x with misses := NMap.erase x.misses m })
    match t.copy with
    | none => s
    | some slot => State.modCell s c (fun x => { x with copies := NMap.erase x.copies slot })

/-- An answer of a request is taken (R375, R376): entry `e` of region `rn` held it, and is free but for a GET's granules still to come. -/
def State.completeTxn (s : State) (rn e : Nat) (t : Transaction) (a : AnswerPacket) : State :=
  let q := t.packet
  let left := if a.status = .lost then [] else match q.body with
    | .get _ _ => t.granules.erase a.granule
    | _ => []
  let s := if a.status = .lost then
      State.log (State.count s .remoteLost 0 rn 1) 0x0031 1 rn q.tag [2, packetAddress q, q.destination, packetKindNumber q.body]
    else s
  let r := State.region s rn
  let s := State.setRegion s rn
    { r with txns := if left.isEmpty then NMap.erase r.txns e else NMap.insert r.txns e { t with granules := left } }
  let s := if t.slot < 64 ∧ (State.block s (blockOf t.cell)).fenced then State.discardAnswer s t left.isEmpty else State.answerCell s t a left.isEmpty
  State.moveOn s (fun c => decide (regionOf c = rn))

def lostAnswer (q : RequestPacket) : AnswerPacket :=
  { source := q.destination, txn := q.txn, status := .lost, bytes := [], poison := 255, granule := 0, values := [] }

/-- Answer LOST, one after the other, the outstanding requests of a region to modules declared failed, those among them that an answer
lets out of a cell (R173, R394), up to a number. -/
def State.settleUpTo : Nat → State → Nat → State
  | 0, s, _ => s
  | n + 1, s, rn =>
    match (State.region s rn).txns.find? (fun e => (NMap.find s.fabric.failed e.2.packet.destination).isSome) with
    | none => s
    | some e => State.settleUpTo n (State.completeTxn s rn e.1 e.2 (lostAnswer e.2.packet)) rn

/-- Answer LOST every outstanding request of a region to a module declared failed (R173, R394); the bound, 2^24, is 1,024 times the
transaction table's size (R377). -/
def State.settleRegion (s : State) (rn : Nat) : State := State.settleUpTo (2 ^ 24) s rn

/-- The same in every region. -/
def State.settleAll (s : State) : State := (List.range 8).foldl State.settleRegion s

/-- Region, entry and generation of a transaction number. -/
def txnParts (n : BitVec 32) : Nat × Nat × Nat := (n.toNat / 2 ^ 22, n.toNat / 2 ^ 8 % 2 ^ 14, n.toNat % 2 ^ 8)

/-- An arriving answer (R376, R377): taken where its entry holds that request, discarded by generation and counted late
otherwise. -/
def State.takeAnswer (s : State) (a : AnswerPacket) (kind : Nat) : State :=
  let p := txnParts a.txn
  match NMap.find (State.region s p.1).txns p.2.1 with
  | some t =>
    if t.generation = p.2.2 ∧ packetKindNumber t.packet.body = kind then State.settleRegion (State.completeTxn s p.1 p.2.1 t a) p.1
    else State.count s .rspLate 0 p.1 1
  | none => if p.1 < 8 then State.count s .rspLate 0 p.1 1 else s

def execLoadData (a : AnswerPacket) (s : State) : Host.Outcome State Fault Refusal := .next (State.takeAnswer s a 0)
def execStoreAck (a : AnswerPacket) (s : State) : Host.Outcome State Fault Refusal := .next (State.takeAnswer s a 1)
def execAtomicData (a : AnswerPacket) (s : State) : Host.Outcome State Fault Refusal := .next (State.takeAnswer s a 2)
def execNotifyAck (a : AnswerPacket) (s : State) : Host.Outcome State Fault Refusal := .next (State.takeAnswer s a 3)
def execGetData (a : AnswerPacket) (s : State) : Host.Outcome State Fault Refusal := .next (State.takeAnswer s a 4)
def execPutAck (a : AnswerPacket) (s : State) : Host.Outcome State Fault Refusal := .next (State.takeAnswer s a 5)

/-- `RSP_TIMEOUT_EXPIRY` (R377): no answer has come RSP_TIMEOUT after the sending. -/
def execRspTimeoutExpiry (region entry : Nat) (s : State) : Host.Outcome State Fault Refusal :=
  match NMap.find (State.region s region).txns entry with
  | none => .next s
  | some t =>
    if t.sent + (s.fabric.rspTimeoutMs * 1000000 : Nat) ≤ (s.timebase : Int) then .next (State.settleRegion (State.completeTxn s region entry t (lostAnswer t.packet)) region) else .next s

/-! ### Events of the home path that may let a cell send -/

/-- `HOME_REQUEST` (R345): see `State.homeRequest`. -/
def execHomeRequest (id : Nat) (s : State) : Host.Outcome State Fault Refusal := .next (State.settleAll (State.homeRequest s id))

/-- `STACK_COMMAND_COMPLETE` (R352, R355, R356): see `State.stackComplete`. -/
def execStackCommandComplete (id : Nat) (outcomes : List SectorOutcome) (s : State) : Host.Outcome State Fault Refusal :=
  .next (State.settleAll (State.stackComplete s id outcomes))

/-! ### At the home (R372, R374) -/

/-- The status a home gives a request for physical address `pa` before it performs it, with what it counts and logs. -/
def State.admission (s : State) (q : RequestPacket) (pa : Nat) : State × AnswerStatus :=
  let h := homeOf (State.ilv s) pa
  if !State.regionServes s h.1 then (s, .lost)
  else if !h.2.2 then (State.raise (State.count s .memUnmapped 0 h.1 1) 0x43 1 h.1 pa, .unmapped)
  else
    let owner := NMap.get s.fabric.owners 0 (pa / 2 ^ 21)
    if owner ≠ q.tag then
      (State.log (State.count s .homeReject 0 h.1 1) 0x0031 1 h.1 q.tag
        [1, s.moduleNumber * 2 ^ 43 + pa, q.source, q.tag.toNat, owner.toNat], .rejected)
    else (s, .done)

/-- Bytes under a mask, by place. -/
def maskedBytes (n : Nat) (mask : Nat) (bs : List Byte) : NMap Byte :=
  ((List.range n).filter (fun i => mask.testBit i)).map (fun i => (i, bs.getD i 0))

/-- The lines that a read of `n` bytes from `pa` on asks for, of those sectors that hold bytes of the mask. -/
def readParts (pa n mask : Nat) : List (Nat × HomeBody) :=
  (linesOf pa n).filterMap (fun l =>
    let secs := (List.range 4).filter (fun i => (List.range 32).any (fun k =>
      decide (pa ≤ l + 32 * i + k ∧ l + 32 * i + k < pa + n) && mask.testBit (l + 32 * i + k - pa)))
    if secs.isEmpty then none else some (l, .read secs))

/-- The lines that masked bytes from `pa` on are stored to, with the sectors `poison` marks, numbered from `pa`. -/
def storeParts (pa n mask : Nat) (bs : List Byte) (poison : Nat → Bool) : List (Nat × HomeBody) :=
  (linesOf pa n).filterMap (fun l =>
    let part := (maskedBytes n mask bs).filter (fun e => decide ((pa + e.1) / 128 * 128 = l))
    if part.isEmpty then none
    else some (l, .store (part.map (fun e => ((pa + e.1) % 128, e.2)))
      (dedupe ((part.filter (fun e => poison (e.1 / 32))).map (fun e => (pa + e.1) % 128 / 32)))))

/-- A request of another module is performed line by line at its home, and answered when every line has been (R374). -/
def State.homeAccess (s : State) (q : RequestPacket) (base n granule : Nat) (reads : Bool) (uses : Option Nat) (parts : List (Nat × HomeBody)) : State :=
  State.sendLines s { source := .remote q, base := base, size := n, reads := reads, granule := granule, waits := [], data := [] } q.reuse.toNat q.tag uses parts

/-- Perform a request where its page is this job's, else answer it (R372): `go` performs it, `no` answers it with a status. -/
def State.ifAdmitted (s : State) (q : RequestPacket) (pa : Nat) (go : State → State) (no : State → AnswerStatus → State) : Host.Outcome State Fault Refusal :=
  if q.destination ≠ s.moduleNumber then .next s
  else
    let r := State.admission s q pa
    .next (if r.2 = .done then go r.1 else no r.1 r.2)

/-- `LOAD` (R374): the sectors that hold bytes of its mask. -/
def execLoad (q : RequestPacket) (s : State) : Host.Outcome State Fault Refusal :=
  match q.body with
  | .load addr mask =>
    State.ifAdmitted s q addr (fun s => State.homeAccess s q (addr / 64 * 64) 64 0 true none (readParts (addr / 64 * 64) 64 mask.toNat))
      (fun s st => State.refuse s q st 0)
  | _ => .next s

/-- `STORE` (R374). -/
def execStore (q : RequestPacket) (s : State) : Host.Outcome State Fault Refusal :=
  match q.body with
  | .store addr mask bs poison =>
    State.ifAdmitted s q addr (fun s => State.homeAccess s q (addr / 64 * 64) 64 0 false none (storeParts (addr / 64 * 64) 64 mask.toNat bs (fun _ => poison)))
      (fun s st => State.refuse s q st 0)
  | _ => .next s

/-- `ATOMIC` (R159, R374). -/
def execAtomic (q : RequestPacket) (s : State) : Host.Outcome State Fault Refusal :=
  match q.body with
  | .atomic op signed size lanes =>
    let pa := (lanes.head?.map (·.addr)).getD 0
    State.ifAdmitted s q pa (fun s => State.homeAccess s q (pa / 128 * 128) 128 0 false none [(pa / 128 * 128, .atomic op signed size lanes)])
      (fun s st => State.refuse s q st 0)
  | _ => .next s

/-- `GET` (R374): one GET_DATA per 256-byte granule, each sent when its sectors have been read; the request is admitted once (R372). -/
def execGet (q : RequestPacket) (s : State) : Host.Outcome State Fault Refusal :=
  match q.body with
  | .get addr n =>
    State.ifAdmitted s q addr
      (fun s => (List.range (n / 256)).foldl (fun s g =>
        State.homeAccess s q (addr + 256 * g) 256 g true none (readParts (addr + 256 * g) 256 (2 ^ 256 - 1))) s)
      (fun s st => (List.range (n / 256)).foldl (fun s g => State.refuse s q st g) s)
  | _ => .next s

/-- `PUT` (R374): a copy's write, with its USES (R183, R348). -/
def execPut (q : RequestPacket) (s : State) : Host.Outcome State Fault Refusal :=
  match q.body with
  | .put addr mask bs poison uses =>
    State.ifAdmitted s q addr (fun s => State.homeAccess s q (addr / 256 * 256) 256 0 false (some uses.toNat)
        (storeParts (addr / 256 * 256) 256 mask.toNat bs (fun k => poison.getLsbD k)))
      (fun s st => State.refuse s q st 0)
  | _ => .next s

/-- The cell a notify target word names (Table 5.3). -/
def targetCell (t : Nat) : Nat := 48 * bits t 15 13 + 6 * bits t 12 10 + bits t 9 7

/-- `NOTIFY_PACKET` (R171 to R173): the counter grows where its TAG is the carried job tag; a target that is fenced answers lost. -/
def execNotifyPacket (q : RequestPacket) (s : State) : Host.Outcome State Fault Refusal :=
  match q.body with
  | .notify t amount =>
    if q.destination ≠ s.moduleNumber ∨ targetBad t.toNat then .next s
    else
      let c := targetCell t.toNat
      let k := bits t.toNat 4 0
      if !State.cellRuns s c then .next (State.emit s (.answer (answerTo s q .lost) q.source))
      else if (Cell.arrival (State.cell s c) k).tag = q.tag then
        .next (State.emit (State.increment s c k amount) (.answer (answerTo s q .done) q.source))
      else
        let s1 := State.log (State.count s .notifyRejectIn 0 c 1) 0x0030 3 c q.tag
          [1, q.source % 2 ^ 14 * 2 ^ 16 + q.sourceCell % 2 ^ 16, q.tag.toNat, k]
        .next (State.emit s1 (.answer (answerTo s q .rejected) q.source))
  | _ => .next s

end Sys2Proof.Machine
end

