-- ==== Sys2Proof/Machine/LoadStore.lean ====
section
/-!
DEFINITION. Loads, stores, atomics, fences and `inval` (0x60 to 0x6D; R119 to R125, R132 to R161), instruction fetch (R118) and the
lookaside fill (R84).
-/

namespace Sys2Proof.Machine

/-! ### Memory-form checks (R101, R119) -/

/-- The kinds of memory-form instruction. -/
inductive MemKind where
  | load | store | atomic (cas minmax : Bool) | fadd
  deriving DecidableEq, Repr, Inhabited

def MemForm.local_ (f : MemForm) : Bool := decide (f.space = 0)
def MemForm.sb (f : MemForm) : Nat := f.off.toNat / 2 ^ 10
def MemForm.sc (f : MemForm) : Nat := f.off.toNat / 2 % 2 ^ 8

/-- Operand kinds of ADDR and of the registers a datum of 2^SIZE bytes takes. -/
def addrKind (f : MemForm) : OperandKind := if MemForm.local_ f then .r32 else .r64
def dataKind (f : MemForm) : OperandKind := if f.size.toNat ≤ 2 then .r32 else .r64

/-- DETAIL of a data register that fails (R69, R99): 128-bit data start at a multiple of 4. -/
def dataReg (regs size n : Nat) : Option Nat :=
  if regs ≤ n then some 1 else if size = 4 ∧ n % 4 ≠ 0 ∨ size = 3 ∧ n % 2 ≠ 0 then some 4 else none

/-- DETAIL of the ILLEGAL park of a memory-form word, if it is illegal. -/
def memIllegal (k : MemKind) (regs : Nat) (f : MemForm) : Option Nat :=
  let size := f.size.toNat
  let sx := bit1 f.sx
  let encoding :=
    decide (f.gp = 7 ∧ f.gn = 1) || decide (f.ext ≠ 0) || decide (6 ≤ f.scope.toNat) || decide (2 ≤ f.space.toNat) || decide (5 ≤ size)
      || (MemForm.local_ f && decide (1 < f.scope.toNat)) || (bit1 f.ua && decide (64 ≤ f.addr.toNat))
      || (match k with
        | .load => decide (f.ord = 2 ∨ f.ord = 3) || (sx && decide (2 ≤ size))
        | .store => decide (f.ord = 1 ∨ f.ord = 3) || sx
        | .atomic cas minmax => decide (size ≠ 2 ∧ size ≠ 3) || (sx && !minmax) || (!cas && decide (f.off.toNat % 2 ^ 9 ≠ 0))
        | .fadd => decide (size ≠ 2) || sx || decide (f.off.toNat % 2 ^ 9 ≠ 0))
  let atomRegs := match k with
    | .atomic cas _ => [fieldReg (dataKind f) regs (MemForm.sb f) false, if cas then fieldReg (dataKind f) regs (MemForm.sc f) false else none]
    | .fadd => [fieldReg (dataKind f) regs (MemForm.sb f) false]
    | _ => []
  firstSome ([check encoding 0, dataReg regs size f.data.toNat, fieldReg (addrKind f) regs f.addr.toNat (bit1 f.ua)] ++ atomRegs)

/-! ### Effective addresses and the checks before any lane -/

/-- Effective address of lane `l` (R120, R121); an atomic has no offset. -/
def effective (f : MemForm) (atomic : Bool) (grp : Group) (l : Nat) : Nat :=
  let a := Group.operand grp (addrKind f) f.addr.toNat (bit1 f.ua) l
  let off := if atomic then 0 else f.off.toInt
  if MemForm.local_ f then unsgn 19 ((a : Int) + off) else unsgn 64 ((a : Int) + off)

/-- How an access goes on: it parks, its group is held, or its lanes are translated and permitted. -/
inductive Gate where
  | park (p : ParkCause)
  | hold (h : Hold)
  | go (lanes : List (Nat × Nat × Option Translation))
  deriving DecidableEq, Repr, Inhabited

/-- A park for lanes: ADDR is the effective address of the lowest (R89). -/
def lanePark (code detail : Nat) (lanes : List (Nat × Nat)) : Option ParkCause :=
  match lanes with
  | [] => none
  | y :: _ => some { code := code, detail := detail, addr := y.2, lanes := maskOf (lanes.map (·.1)), epoch := 0 }

/-- The checks of a memory access after ILLEGAL, in the order of R85: the lookaside, EPOCH_STALE, POISON (`poison`), MISALIGNED,
WINDOW_MISS, PERMISSION; last, a newer epoch waits (R125). `lanes` are the executing lanes with their effective addresses,
`blind` those whose address is poisoned. -/
def memGate (s : State) (c : Nat) (grp : Group) (f : MemForm) (want : Want) (poison : Option ParkCause) (blind : Nat)
    (lanes : List (Nat × Nat)) : Gate :=
  let x := State.cell s c
  let size := f.size.toNat
  let seeing := lanes.filter (fun y => !blind.testBit y.1)
  let odd := lanes.filter (fun y => decide (y.2 % 2 ^ size ≠ 0))
  if MemForm.local_ f then
    let reserved := lanes.filter (fun y => x.reservation && decide (0x70000 ≤ y.2))
    match firstSome [poison, lanePark 0x01 size odd, lanePark 0x03 0x03 reserved] with
    | some p => .park p
    | none => .go (lanes.map (fun y => (y.1, y.2, none)))
  else
    let tr (y : Nat × Nat) : Option Translation := (pageOf y.2).bind (Cell.translation x)
    let absent := seeing.filterMap (fun y =>
      match pageOf y.2 with
      | none => none
      | some v => if (Cell.translation x v).isNone ∧ (Region.translation (State.region s (regionOf c)) v).isSome then some v else none)
    match absent with
    | v :: _ => .hold (.lookaside v)
    | [] =>
      let remote := seeing.any (fun y => (tr y).elim false (fun t => decide (t.home ≠ s.moduleNumber)))
      let e := Group.epoch grp
      if remote && Cell.epochOlder x grp.job e then .park { code := 0x0A, detail := 0, addr := 0, lanes := 0, epoch := e }
      else
        let missing := lanes.filter (fun y => (tr y).isNone)
        let denied := lanes.filterMap (fun y => ((tr y).bind (fun t => permission t grp.job want)).map (fun d => (d, y)))
        let first := (denied.head?.map (·.1)).getD 0
        match firstSome [poison, lanePark 0x01 size odd, lanePark 0x02 0 missing,
            lanePark 0x03 first ((denied.filter (fun d => decide (d.1 = first))).map (·.2))] with
        | some p => .park p
        | none =>
          if remote && Cell.epochNewer x grp.job e then .hold .epoch else .go (lanes.map (fun y => (y.1, y.2, tr y)))

/-! ### Passes of the local-memory port (R148, R157) -/

def maxList (l : List Nat) : Nat := l.foldl max 0

/-- Passes of a local access: the largest, over the banks, of the distinct words named there, each with its weight. -/
def portPasses (words : List Nat) (weight : Nat → Nat) : Nat :=
  let ws := dedupe words
  maxList ((List.range 64).map (fun b => (ws.filter (fun w => decide (w % 64 = b))).foldl (fun a w => a + weight w) 0))

def State.countReplay (s : State) (c passes : Nat) : State := if 1 < passes then State.count s .lmReplay 0 c (passes - 1) else s

/-! ### Global loads and fetches -/

/-- Where a sector is served from at once (Table 4.10, R342): L1 for scopes group and cell, or a read-only cached window. -/
def l1Serves (scope : Nat) (roc : Bool) : Bool := decide (scope ≤ 1) || roc
def bcServes (scope : Nat) (roc : Bool) : Bool := decide (scope ≤ 2) || roc

/-- The sectors a load did not find in L1, gathered by line, or by 64-byte range for a page homed on another module (R152, R153). -/
def asksOf (own : Nat) (lanes : List (Nat × Bool)) : List Ask :=
  let home (sec : Nat) : Bool := decide (sec / 2 ^ 38 = own)
  lanes.foldl (fun acc y =>
    let remote := !home y.1
    let unit := if remote then y.1 / 2 else y.1 / 4
    if acc.any (fun a => decide (a.remote = remote ∧ a.unit = unit)) then
      acc.map (fun a => if a.remote = remote ∧ a.unit = unit ∧ ¬ a.sectors.contains y.1 then { a with sectors := a.sectors ++ [y.1] } else a)
    else acc ++ [{ remote := remote, unit := unit, sectors := [y.1], roc := y.2 }]) []

/-- The pseudo-channel a line of this module counts against (R351). -/
def askChannel (ilv own : Nat) (a : Ask) : Option Nat :=
  if a.remote ∨ a.unit * 128 / 2 ^ 43 ≠ own then none
  else let h := homeOf ilv (a.unit * 128 % 2 ^ 43); some (channelInst h.1 h.2.1)

/-- A line-miss slot the load can join (R350): the same line at the same scope, its sectors asked for and not answered, and nothing stored there since
(R134, R343); at most eight later accesses join the one that took the slot. -/
def Cell.joinable (x : Cell) (a : Ask) (scope : Nat) : Option Nat :=
  if a.remote then none
  else (x.misses.find? (fun (e : Nat × Miss) => decide (e.2.kind = .line ∧ e.2.line = a.unit ∧ e.2.scope = scope ∧ e.2.answer = none
    ∧ e.2.merge = [] ∧ e.2.blockMerge = [] ∧ e.2.drop = [] ∧ e.2.blockDrop = [] ∧ e.2.accesses.length < 9) && a.sectors.all (fun q => e.2.sectors.contains (q % 4)))).map (·.1)

/-- Line-miss slots of a pipeline in use, those counted for lines its accesses will ask for later among them. -/
def Cell.slotsUsed (x : Cell) (pipe : Nat) : Nat :=
  (x.misses.filter (fun e => decide (e.2.pipeline = pipe))).length
    + ((x.accesses.filter (fun e => decide (e.2.slot / 16 = pipe))).map (fun e => e.2.later.asks.length)).foldl (· + ·) 0

/-- Line-miss slots of the cell against a pseudo-channel. -/
def Cell.slotsAgainst (x : Cell) (channel : Nat) : Nat := (x.misses.filter (fun e => decide (e.2.channel = some channel))).length

/-- The line-miss slots a load needs are free: 32 per pipeline, 16 of the cell against one pseudo-channel (R350, R351). A load that needs more
than 16 against one begins when the cell holds none there. -/
def Cell.slotsFree (x : Cell) (pipe : Nat) (channels : List (Option Nat)) : Bool :=
  decide (Cell.slotsUsed x pipe + channels.length ≤ 32) &&
    channels.all (fun ch => match ch with
      | none => true
      | some n => decide (Cell.slotsAgainst x n = 0 ∨ Cell.slotsAgainst x n + (channels.filter (fun k => decide (k = some n))).length ≤ 16))

/-- Ask for the sectors of one line or range: join a slot, or take one, note what the block cache holds, whose line takes the class (R346), and send the
rest towards the home. The answer is the slot. -/
def State.ask (s : State) (c slot op scope cls : Nat) (tag : Half) (a : Ask) : State × Nat :=
  let x := State.cell s c
  match Cell.joinable x a scope with
  | some m => (State.setCell s c (Cell.modMiss x m (fun y => { y with accesses := y.accesses ++ [op] })), m)
  | none =>
    let id := s.nextId
    let blk := State.block s (blockOf c)
    let found : NMap SectorData := if bcServes scope a.roc then
        (a.sectors.filterMap (fun q => (cacheSector 12 blk.cache (q * 32)).map (fun d => (q, d)))) else []
    let held : NMap SectorData := found.zipIdx.map (fun di => (di.1.1, State.groupSector s (s.freeCount + 32 * di.2) (di.1.1 * 32) di.1.2))
    let rest := a.sectors.filter (fun q => (NMap.find held q).isNone)
    let m : Miss :=
      { kind := if a.remote then .remoteLoad else .line, pipeline := slot / 16, slot := slot, line := a.unit
        channel := askChannel (State.ilv s) s.moduleNumber a, sectors := a.sectors.map (fun q => q % 4), scope := scope, cls := cls
        tag := tag, roc := a.roc, accesses := [op], answer := if held.isEmpty then none else some (held.map (fun e => (e.1 % 4, e.2)))
        values := [], merge := [], blockMerge := [], drop := [], blockDrop := [], notifyTarget := 0, amount := 0 }
    let s := { s with freeCount := s.freeCount + State.sectorsDraw s found.length (found.map (fun d => d.1 * 32)) }
    let s := if found.isEmpty then s else
        State.setBlock s (blockOf c) { blk with cache := cacheTouch 12 8 blk.cache ((found.headD default).1 / 4) cls tag }
    let s := { State.setCell s c { x with misses := NMap.insert x.misses id m } with nextId := id + 1 }
    let s := if bcServes scope a.roc && !a.remote then
        let s := if held.isEmpty then s else State.count s .bcHit 0 (blockOf c) held.length
        if rest.isEmpty then s else State.count s .bcMiss 0 (blockOf c) rest.length
      else s
    if a.remote then
      let home := a.unit * 64 / 2 ^ 43
      let q : RequestPacket :=
        { source := s.moduleNumber, destination := home, sourceCell := c, txn := 0, tag := tag, reuse := BitVec.ofNat 2 cls
          body := .load (a.unit * 64 % 2 ^ 43) (BitVec.ofNat 64 (maskOf (a.sectors.flatMap (fun q => tabulate 32 (fun i => q % 2 * 32 + i))))) }
      (State.sendRemote s c slot op scope q (some id) [], id)
    else if rest.isEmpty then (s, id)
    else (State.sendHome s (.cell c slot) (a.unit * 128 % 2 ^ 43) (.read (rest.map (fun q => q % 4))) scope cls tag none (some id) [] true, id)

/-- Ask for lines in order, each that joins a slot or for which its pseudo-channel has one (R350); the slots, and what is left for later. -/
def State.askAll (s : State) (c slot op scope cls : Nat) (tag : Half) (asks : List Ask) : State × List Nat × List Ask :=
  asks.foldl (fun (acc : State × List Nat × List Ask) a =>
    let x := State.cell acc.1 c
    let room := match askChannel (State.ilv s) s.moduleNumber a with
      | none => true
      | some n => decide (Cell.slotsAgainst x n < 16)
    if (Cell.joinable x a scope).isSome || room then
      let n := State.ask acc.1 c slot op scope cls tag a
      (n.1, acc.2.1 ++ [n.2], acc.2.2)
    else (acc.1, acc.2.1, acc.2.2 ++ [a])) (s, [], [])

/-- A slot has come back: the accesses that had lines left ask for what they now can (R351). -/
def State.askLater (s : State) (c : Nat) : State :=
  (State.cell s c).accesses.foldl (fun s e =>
    if e.2.later.asks.isEmpty then s
    else
      let l := e.2.later
      let r := State.askAll s c e.2.slot e.1 l.scope l.cls l.tag l.asks
      State.modCell r.1 c (fun x => { x with accesses := NMap.mod x.accesses e.1 (fun a =>
        { a with waits := a.waits ++ r.2.1, later := { l with asks := r.2.2 } }) })) s

/-- The pseudo-channels against which a load needs a line-miss slot, one entry a slot (R152, R350). -/
def State.loadChannels (s : State) (c scope : Nat) (lanes : List (LaneAddr × Bool)) : List (Option Nat) :=
  let x := State.cell s c
  let secs : List (Nat × Bool) := dedupe (lanes.map (fun y => (y.1.fa / 32, y.2)))
  let rest := secs.filter (fun q => !(l1Serves scope q.2 && (cacheSector 7 x.l1 (q.1 * 32)).isSome))
  ((asksOf s.moduleNumber rest).filter (fun a => (Cell.joinable x a scope).isNone)).map (askChannel (State.ilv s) s.moduleNumber)

/-- The slots are free, and no group of the pipeline that was held earlier waits for one against the same pseudo-channel (R351). -/
def State.slotTurn (s : State) (c slot age : Nat) (channels : List (Option Nat)) : Bool :=
  let x := State.cell s c
  let earlier := x.slotWaits.takeWhile (fun w => decide (w.slot ≠ slot ∨ w.age ≠ age))
  Cell.slotsFree x (slot / 16) channels && earlier.all (fun w =>
    !((Cell.group x w.slot).any (fun g => decide (g.age = w.age)) && w.channels.any (fun n => channels.contains (some n))))

/-- A group begins to wait for line-miss slots, behind those that already do; or it waits no longer. -/
def State.slotWait (s : State) (c slot age : Nat) (channels : List (Option Nat)) : State :=
  State.modCell s c (fun x =>
    if x.slotWaits.any (fun w => decide (w.slot = slot ∧ w.age = age)) then x
    else { x with slotWaits := x.slotWaits.filter (fun w => decide (w.slot ≠ slot)) ++ [{ slot := slot, age := age, channels := channels.filterMap id }] })

def State.slotWaitOver (s : State) (c slot : Nat) : State :=
  State.modCell s c (fun x => { x with slotWaits := x.slotWaits.filter (fun w => decide (w.slot ≠ slot)) })

/-- Start a load or fetch over the sectors its lanes touch (R151 to R153, R342): L1 serves what it holds, the rest is asked for.
None where a line-miss slot is wanting (R351). `lanes` carry whether their window is read-only and cached. -/
def State.startLoad (s : State) (c slot op : Nat) (kind : AccessKind) (reg scope cls : Nat) (tag : Half) (lanes : List (LaneAddr × Bool)) :
    Option State :=
  let x := State.cell s c
  let secs : List (Nat × Bool) := dedupe (lanes.map (fun y => (y.1.fa / 32, y.2)))
  let local_ : NMap SectorData :=
    secs.zipIdx.filterMap (fun qi =>
      let q := qi.1
      if l1Serves scope q.2 then (cacheSector 7 x.l1 (q.1 * 32)).map (fun d => (q.1, State.groupSector s (s.freeCount + 32 * qi.2) (q.1 * 32) d)) else none)
  let rest := secs.filter (fun q => (NMap.find local_ q.1).isNone)
  let asks := asksOf s.moduleNumber rest
  let fresh := (asks.filter (fun a => (Cell.joinable x a scope).isNone)).map (askChannel (State.ilv s) s.moduleNumber)
  if !Cell.slotsFree x (slot / 16) fresh then none
  else
    let s := { s with freeCount := s.freeCount + State.sectorsDraw s secs.length (local_.map (fun e => e.1 * 32)) }
    let counted := secs.filter (fun q => l1Serves scope q.2)
    let s := if local_.isEmpty then s else State.count s .l1Hit 0 c local_.length
    let missed := counted.length - local_.length
    let s := if missed = 0 then s else State.count s .l1Miss 0 c missed
    let x := { x with l1 := local_.foldl (fun m (e : Nat × SectorData) => cacheTouch 7 4 m (e.1 / 4) cls tag) x.l1 }
    let access : Access :=
      { slot := slot, reg := reg, kind := kind, lanes := lanes.map (·.1), waits := [], later := LaterAsks.none, sectors := local_, values := [] }
    let s := State.setCell s c { x with accesses := NMap.insert x.accesses op access }
    let r := State.askAll s c slot op scope cls tag asks
    let x := State.cell r.1 c
    let access := { access with waits := r.2.1, later := { asks := r.2.2, scope := scope, cls := cls, tag := tag } }
    some (State.setCell r.1 c (if asks.isEmpty then Cell.finishAccess x op access else { x with accesses := NMap.insert x.accesses op access }))

/-- `LINE_FILL` (R152, R342, R343): the data of a line-miss slot have arrived; the caches are filled, the joined accesses get their
sectors, and the slot is free. A fill on its way when `inval` runs fills the caches after it (DEDUCED, assumption 112). -/
def execLineFill (c id : Nat) (s : State) : Host.Outcome State Fault Refusal :=
  match NMap.find (State.cell s c).misses id with
  | none => .next s
  | some m =>
    if m.kind = .line ∧ !(State.block s (blockOf c)).fenced ∧ m.sectors.all (fun i => (NMap.find (m.answer.getD []) i).isSome) then
      let data := m.answer.getD []
      let s := State.fillCaches s c m.line m data
      let s := State.openFetches s (State.modCell s c (fun x => Cell.deliver { x with misses := NMap.erase x.misses id } id (m.line * 4) data [])) c id
      .next (State.settleRegion (State.moveOn (State.askLater s c) (fun k => decide (k = c))) (regionOf c))
    else .next s

/-! ### Issue -/

/-- The values of the group's earlier acquires are not all back (R138). -/
def State.acquiring (s : State) (c : Nat) (grp : Group) : Bool := grp.acquire.any (fun id => (NMap.find (State.cell s c).accesses id).isSome)

/-- The bytes that releases of a group held in its cell write: those of local memory by address, those of this module's memory by fabric address (R138). -/
def State.heldBytes (s : State) (c slot : Nat) (local_ : Bool) : List Nat :=
  let lanes (size : Nat) (ls : List AtomicLane) : List Nat := ls.flatMap (fun l => tabulate size (fun i => l.addr + i))
  if local_ then
    (State.cell s c).heldLocal.flatMap (fun e => if e.2.slot ≠ slot then [] else match e.2.atomic with
      | none => e.2.bytes.map (·.1)
      | some (_, _, size, ls) => lanes size ls)
  else
    s.homeQueue.flatMap (fun e => if e.2.source ≠ .cell c slot ∨ e.2.after.isEmpty then [] else match e.2.body with
      | .write i bs _ => bs.map (fun b => State.fabricOf s e.2.region (e.2.line + 32 * i + b.1))
      | .atomic _ _ size ls => lanes size ls
      | _ => [])

/-- An access of a group meets bytes that a held release of it writes, and so waits for that (R134). -/
def State.behindRelease (s : State) (c slot : Nat) (local_ : Bool) (size : Nat) (addrs : List Nat) : Bool :=
  match State.heldBytes s c slot local_ with
  | [] => false
  | held => addrs.any (fun a => (List.range size).any (fun i => held.contains (a + i)))

/-- The thread registers a memory-form word names. -/
def memRegs (k : MemKind) (f : MemForm) : List Nat :=
  destRegs f.data.toNat f.size.toNat ++ fieldRegs (addrKind f) f.addr.toNat (bit1 f.ua)
    ++ (match k with
      | .atomic cas _ => fieldRegs (dataKind f) (MemForm.sb f) false ++ (if cas then fieldRegs (dataKind f) (MemForm.sc f) false else [])
      | .fadd => fieldRegs (dataKind f) (MemForm.sb f) false
      | _ => [])

/-- The source operands that park a memory-form instruction when poisoned (R86): its address and an atomic's operands. -/
def memSources (k : MemKind) (f : MemForm) : List (OperandKind × Nat × Bool) :=
  (addrKind f, f.addr.toNat, bit1 f.ua) :: (match k with
    | .atomic cas _ => (dataKind f, MemForm.sb f, false) :: (if cas then [(dataKind f, MemForm.sc f, false)] else [])
    | .fadd => [(dataKind f, MemForm.sb f, false)]
    | _ => [])

/-- The executing lanes of a memory-form word with their effective addresses. -/
def memLanes (f : MemForm) (atomic : Bool) (grp : Group) : List (Nat × Nat) :=
  (bitIndices 32 (Group.executing grp f.gp f.gn)).map (fun l => (l, effective f atomic grp l))

/-- Issue a memory-form instruction through its checks; `run` is its effect with the translated lanes, none while it must wait. -/
def State.runMem (s : State) (op : Nat) (k : MemKind) (g : GroupLoc) (f : MemForm) (want : Want)
    (run : State → Group → List (Nat × Nat × Option Translation) → Option State) : State :=
  match State.issuable s g (memWords op f) with
  | none => s
  | some grp =>
    if Group.awaits grp (memRegs k f) || State.acquiring s g.cell grp then s
    else
      match memIllegal k grp.regs f with
      | some d => State.park s g grp (illegal grp d) grp.pc (memWord op f)
      | none =>
        let ex := Group.executing grp f.gp f.gn
        let atomic := decide (k ≠ .load ∧ k ≠ .store)
        let poison := operandsPark grp ex (memSources k f)
        let blind := Group.operandPoison grp (addrKind f) f.addr.toNat (bit1 f.ua)
        match memGate s g.cell grp f want poison blind (memLanes f atomic grp) with
        | .park p => State.park s g grp p grp.pc (memWord op f)
        | .hold h => State.setGroup s g { grp with hold := h }
        | .go lanes =>
          let used := lanes.filterMap (fun y => y.2.2)
          let s := State.modCell s g.cell (fun x => used.foldl Cell.fillLookaside x)
          let at_ := lanes.map (fun y => (y.2.2.map (fun t => fabricAddress t y.2.1)).getD y.2.1)
          if State.behindRelease s g.cell g.slot (MemForm.local_ f) (2 ^ f.size.toNat) at_ then s else (run s (Group.advance grp 0) lanes).getD s

/-- Put back a group with the register-cache accesses of a memory-form word: ADDR, an atomic's B and C, and a store's DATA are read, the destination
of a load or atomic leaves the cache (Tables 3.4, 4.6). -/
def State.memIssued (s : State) (g : GroupLoc) (k : MemKind) (f : MemForm) (grp : Group) : State :=
  let writes := decide (k ≠ .store)
  let rd (l : List RegCacheEntry) (n : Nat) (hint : Bool) : List RegCacheEntry :=
    (fieldRegs (dataKind f) n false).foldl (fun l r => RegCache.read l g.slot r hint) l
  State.modCell s g.cell (fun x =>
    Cell.modCache (Cell.setGroup x g.slot grp) (g.slot / 16) (fun l =>
      let l := (fieldRegs (addrKind f) f.addr.toNat (bit1 f.ua)).foldl (fun l r => RegCache.read l g.slot r (bit1 f.ha)) l
      let l := match k with
        | .atomic cas _ =>
          let l := rd l (MemForm.sb f) (f.off.toNat.testBit 9)
          if cas then rd l (MemForm.sc f) (f.off.toNat.testBit 0) else l
        | .fadd => rd l (MemForm.sb f) (f.off.toNat.testBit 9)
        | _ => l
      (destRegs f.data.toNat f.size.toNat).foldl (fun l r =>
        if writes then RegCache.drop l g.slot r else RegCache.read l g.slot r (bit1 f.dh)) l))

def laneAddrs (lanes : List (Nat × Nat × Option Translation)) : List (LaneAddr × Bool) :=
  lanes.map (fun y => ({ lane := y.1, ea := BitVec.ofNat 64 y.2.1, fa := (y.2.2.map (fun t => fabricAddress t y.2.1)).getD y.2.1 },
    (y.2.2.map (·.roc)).getD false))

/-- `ld` (R119, R146 to R153). -/
def execLd (g : GroupLoc) (f : MemForm) (s : State) : Host.Outcome State Fault Refusal :=
  .next (State.settleRegion (State.runMem s 0x60 .load g f .read (fun s grp lanes =>
    let c := g.cell
    let size := f.size.toNat
    let ls := laneAddrs lanes
    let ex := maskOf (lanes.map (·.1))
    if MemForm.local_ f then
      let at_ (l : Nat) : Nat := ((lanes.find? (fun y => decide (y.1 = l))).map (fun y => y.2.1)).getD 0
      let bytes := lanes.flatMap (fun y => tabulate (2 ^ size) (fun i => y.2.1 + i))
      let s := State.spoil s c (lanes.map (fun y => (y.2.1, 2 ^ size)))
      let open_ := (dedupe bytes).filter (Cell.unsettled (State.cell s c))
      let x := Cell.freeWords (State.cell s c) s.freeCount open_
      let s := State.modCell { s with freeCount := s.freeCount + wordsDraw open_ } c (fun x => Cell.disturbArray x bytes)
      let grp := Group.loadInto grp f.data.toNat ex size (bit1 f.sx) (fun l i => Cell.localByte x (at_ l + i))
        (fun l i => Cell.localMarked x (at_ l + i) 1) (fun l => BitVec.ofNat 64 (at_ l))
      let s := State.countReplay s c (portPasses (lanes.flatMap (fun y => wordsOf y.2.1 (2 ^ size))) (fun _ => 1))
      some (State.memIssued s g .load f grp)
    else if lanes.isEmpty then some (State.memIssued s g .load f grp)
    else
      let op := s.nextId
      let wants := State.loadChannels s c f.scope.toNat ls
      let grp' := { grp with
        awaited := grp.awaited ++ destRegs f.data.toNat size
        acquire := if f.ord = 1 then grp.acquire ++ [op] else grp.acquire }
      if State.slotTurn s c g.slot grp.age wants then
        State.startLoad (State.memIssued { State.slotWaitOver s c g.slot with nextId := op + 1 } g .load f grp') c g.slot op (.load size (bit1 f.sx)) f.data.toNat
          f.scope.toNat f.reuse.toNat grp.job ls
      else some (State.slotWait s c g.slot grp.age wants))) (regionOf g.cell))

/-! ### Stores -/

/-- The bytes a `st` writes, by address, each with its mark: the highest-numbered lane wins (R149, R154). -/
def storeBytes (f : MemForm) (grp : Group) (lanes : List (Nat × Nat)) : NMap (Byte × Bool) :=
  lanes.foldl (fun m y =>
    (List.range (2 ^ f.size.toNat)).foldl (fun m i =>
      let reg := f.data.toNat + i / 4
      NMap.insert m (y.2 + i) (BitVec.ofNat 8 (Group.lane grp reg y.1 / 2 ^ (8 * (i % 4))), (Group.poisonOf grp reg).testBit y.1)) m) []

/-- Send stored bytes towards their homes, sector by sector for this module and 64 bytes at a time for another (R153); the caches on the way take them,
those of a held release when it leaves (R138, R343). -/
def State.storeGlobal (s : State) (g : GroupLoc) (f : MemForm) (tag : Half) (after : List Nat) (bytes : NMap (Byte × Bool)) : State :=
  let own (fa : Nat) : Bool := decide (fa / 2 ^ 43 = s.moduleNumber)
  let units := dedupe (bytes.map (fun e => (own e.1, if own e.1 then e.1 / 32 else e.1 / 64)))
  units.foldl (fun s u =>
    if u.1 then
      let part := bytes.filter (fun e => decide (e.1 / 32 = u.2))
      let bs : NMap Byte := part.map (fun e => (e.1 % 32, e.2.1))
      let bad := part.any (fun e => e.2.2)
      let s := if after.isEmpty then State.passCaches s g.cell (u.2 * 32) bs bad else s
      State.sendHome s (.cell g.cell g.slot) (u.2 * 32 % 2 ^ 43) (.write (u.2 % 4) bs bad) f.scope.toNat f.reuse.toNat tag none none after true
    else
      let part := bytes.filter (fun e => decide (e.1 / 64 = u.2))
      let q : RequestPacket :=
        { source := s.moduleNumber, destination := u.2 * 64 / 2 ^ 43, sourceCell := g.cell, txn := 0, tag := tag, reuse := f.reuse
          body := .store (u.2 * 64 % 2 ^ 43) (BitVec.ofNat 64 (maskOf (part.map (fun e => e.1 % 64))))
            (tabulate 64 (fun i => ((NMap.find part (u.2 * 64 + i)).map (·.1)).getD 0)) (part.any (fun e => e.2.2)) }
      let op := s.nextId
      State.sendRemote { s with nextId := op + 1 } g.cell g.slot op f.scope.toNat q none after) s

/-- A release to local memory is held in its cell, under a new number (R138). -/
def State.holdLocal (s : State) (c : Nat) (h : HeldLocal) : State :=
  State.modCell { s with nextId := s.nextId + 1 } c (fun x => { x with heldLocal := NMap.insert x.heldLocal s.nextId h })

/-- The operations a release waits for (R138). -/
def State.releaseAfter (s : State) (g : GroupLoc) (f : MemForm) : List Nat :=
  if f.ord = 2 ∨ f.ord = 3 then State.outstanding s g.cell g.slot f.scope.toNat else []

/-- `st` (R132, R149, R154, R343). -/
def execSt (g : GroupLoc) (f : MemForm) (s : State) : Host.Outcome State Fault Refusal :=
  .next (State.settleRegion (State.runMem s 0x61 .store g f .write (fun s grp lanes =>
    let c := g.cell
    let ls := (laneAddrs lanes).map (fun y => (y.1.lane, y.1.fa))
    let bytes := storeBytes f grp ls
    if MemForm.local_ f then
      let s := State.countReplay s c (portPasses (lanes.flatMap (fun y => wordsOf y.2.1 (2 ^ f.size.toNat))) (fun _ => 1))
      let after := State.releaseAfter s g f
      let s := if after.isEmpty then State.storeLocal s c bytes (lanes.map (fun y => (y.2.1, 2 ^ f.size.toNat)))
        else State.holdLocal s c { slot := g.slot, scope := f.scope.toNat, after := after, bytes := bytes, atomic := none }
      some (State.memIssued s g .store f grp)
    else
      let after := State.releaseAfter s g f
      let s := State.storeGlobal (State.disturbGlobal s (bytes.map (·.1))) g f grp.job after bytes
      some (State.memIssued s g .store f grp))) (regionOf g.cell))

/-! ### Atomics -/

/-- The lanes of an atomic with their operands. -/
def atomicOperands (f : MemForm) (grp : Group) (ls : List (Nat × Nat)) : List AtomicLane :=
  ls.map (fun y =>
    { lane := y.1, addr := y.2, b := BitVec.ofNat 64 (Group.operand grp (dataKind f) (MemForm.sb f) false y.1)
      c := BitVec.ofNat 64 (Group.operand grp (dataKind f) (MemForm.sc f) false y.1) })

/-- A serialised atomic (R156). -/
def serialised (op : AtomicOp) : Bool := decide (op = .xch ∨ op = .cas ∨ op = .fadd)

/-- Send an atomic towards its homes, one request a sector (R159); the answer lists what the access waits for, none where a
line-miss slot is wanting for another module's page. -/
def State.atomicGlobal (s : State) (g : GroupLoc) (f : MemForm) (op : Nat) (aop : AtomicOp) (tag : Half) (after : List Nat)
    (lanes : List AtomicLane) : Option (State × List Nat) :=
  let own (fa : Nat) : Bool := decide (fa / 2 ^ 43 = s.moduleNumber)
  let secs := dedupe (lanes.map (fun l => l.addr / 32))
  let remote := secs.filter (fun q => !own (q * 32))
  if !Cell.slotsFree (State.cell s g.cell) (g.slot / 16) (remote.map (fun _ => none)) then none
  else
    some (secs.foldl (fun (acc : State × List Nat) q =>
      let mine := lanes.filter (fun l => decide (l.addr / 32 = q))
      let s := acc.1
      if own (q * 32) then
        let s := if after.isEmpty then State.passAtomic s g.cell (q * 32) else s
        (State.sendHome s (.cell g.cell g.slot) (q * 32 % 2 ^ 43) (.atomic aop (bit1 f.sx) (2 ^ f.size.toNat) mine) f.scope.toNat f.reuse.toNat
          tag none none after true, acc.2 ++ [s.nextId])
      else
        let id := s.nextId
        let m : Miss :=
          { kind := .atomic, pipeline := g.slot / 16, slot := g.slot, line := q, channel := none, sectors := [], scope := f.scope.toNat
            cls := f.reuse.toNat, tag := tag, roc := false, accesses := [op], answer := none, values := [], merge := [], blockMerge := []
            drop := [], blockDrop := [], notifyTarget := 0, amount := 0 }
        let pkt : RequestPacket :=
          { source := s.moduleNumber, destination := q * 32 / 2 ^ 43, sourceCell := g.cell, txn := 0, tag := tag, reuse := f.reuse
            body := .atomic aop (bit1 f.sx) (2 ^ f.size.toNat) (mine.map (fun l => { l with addr := l.addr % 2 ^ 43 })) }
        let s := { State.modCell s g.cell (fun x => { x with misses := NMap.insert x.misses id m }) with nextId := id + 1 }
        (State.sendRemote s g.cell g.slot op f.scope.toNat pkt (some id) after, acc.2 ++ [id])) (s, []))

/-- Issue one of the atomics. -/
def State.runAtomic (s : State) (opcode : Nat) (k : MemKind) (aop : AtomicOp) (g : GroupLoc) (f : MemForm) : State :=
  State.settleRegion (State.runMem s opcode k g f .atomic (fun s grp lanes =>
    let c := g.cell
    let size := 2 ^ f.size.toNat
    let ls := laneAddrs lanes
    let ops := atomicOperands f grp (ls.map (fun y => (y.1.lane, y.1.fa)))
    let addrs := dedupe (ops.map (·.addr))
    let serial := if serialised aop then ops.length - addrs.length else 0
    let s := if serial = 0 then s else State.count s .atomSerial 0 c serial
    let after := State.releaseAfter s g f
    let access : Access :=
      { slot := g.slot, reg := f.data.toNat, kind := .atomic f.size.toNat, lanes := ls.map (·.1), waits := [], later := LaterAsks.none
        sectors := [], values := [] }
    let awaiting (op : Nat) : Group := { grp with
      awaited := grp.awaited ++ destRegs f.data.toNat f.size.toNat
      acquire := if f.ord = 1 ∨ f.ord = 3 then grp.acquire ++ [op] else grp.acquire }
    if MemForm.local_ f then
      let weight (w : Nat) : Nat :=
        if serialised aop then (ops.filter (fun l => (wordsOf l.addr size).contains w)).length else 1
      let s := State.countReplay s c (portPasses (ops.flatMap (fun l => wordsOf l.addr size)) weight)
      if after.isEmpty || ops.isEmpty then
        let r := State.atomicLocal s c aop (bit1 f.sx) size ops
        let v (l : Nat) : DWord × Bool := NMap.get r.2 (0, false) l
        let grp := Group.loadInto grp f.data.toNat (maskOf (ops.map (·.lane))) f.size.toNat false
          (fun l i => BitVec.ofNat 8 ((v l).1.toNat / 2 ^ (8 * i))) (fun l _ => (v l).2)
          (fun l => BitVec.ofNat 64 (((ops.find? (fun o => decide (o.lane = l))).map (·.addr)).getD 0))
        some (State.memIssued r.1 g k f grp)
      else
        let op := s.nextId
        let s := State.modCell s c (fun x => { x with accesses := NMap.insert x.accesses op { access with waits := [op] } })
        let s := State.holdLocal s c { slot := g.slot, scope := f.scope.toNat, after := after, bytes := [], atomic := some (aop, bit1 f.sx, size, ops) }
        some (State.memIssued s g k f (awaiting op))
    else if lanes.isEmpty then some (State.memIssued s g k f grp)
    else
      let op := s.nextId
      let s := State.disturbGlobal s (ops.flatMap (fun l => tabulate size (fun i => l.addr + i)))
      match State.atomicGlobal { s with nextId := op + 1 } g f op aop grp.job after ops with
      | none => none
      | some r =>
        let s := State.modCell r.1 c (fun x => { x with accesses := NMap.insert x.accesses op { access with waits := r.2 } })
        some (State.memIssued s g k f (awaiting op)))) (regionOf g.cell)

def execAtomAdd (g : GroupLoc) (f : MemForm) (s : State) : Host.Outcome State Fault Refusal :=
  .next (State.runAtomic s 0x62 (.atomic false false) .add g f)
def execAtomMin (g : GroupLoc) (f : MemForm) (s : State) : Host.Outcome State Fault Refusal :=
  .next (State.runAtomic s 0x63 (.atomic false true) .min g f)
def execAtomMax (g : GroupLoc) (f : MemForm) (s : State) : Host.Outcome State Fault Refusal :=
  .next (State.runAtomic s 0x64 (.atomic false true) .max g f)
def execAtomAnd (g : GroupLoc) (f : MemForm) (s : State) : Host.Outcome State Fault Refusal :=
  .next (State.runAtomic s 0x65 (.atomic false false) .and g f)
def execAtomOr (g : GroupLoc) (f : MemForm) (s : State) : Host.Outcome State Fault Refusal :=
  .next (State.runAtomic s 0x66 (.atomic false false) .or g f)
def execAtomXor (g : GroupLoc) (f : MemForm) (s : State) : Host.Outcome State Fault Refusal :=
  .next (State.runAtomic s 0x67 (.atomic false false) .xor g f)
def execAtomXch (g : GroupLoc) (f : MemForm) (s : State) : Host.Outcome State Fault Refusal :=
  .next (State.runAtomic s 0x68 (.atomic false false) .xch g f)
def execAtomCas (g : GroupLoc) (f : MemForm) (s : State) : Host.Outcome State Fault Refusal :=
  .next (State.runAtomic s 0x69 (.atomic true false) .cas g f)
def execAtomFadd (g : GroupLoc) (f : MemForm) (s : State) : Host.Outcome State Fault Refusal :=
  .next (State.runAtomic s 0x6A .fadd .fadd g f)

/-! ### Fences and `inval` -/

/-- Fields other than OP, GP = p7, SCOPE and SPACE are zero (R119). -/
def fenceIllegal (f : MemForm) : Bool :=
  decide (f.gp ≠ 7 ∨ f.gn ≠ 0 ∨ f.ext ≠ 0 ∨ f.data ≠ 0 ∨ f.dh ≠ 0 ∨ f.addr ≠ 0 ∨ f.ha ≠ 0 ∨ f.off ≠ 0 ∨ f.ua ≠ 0 ∨ f.reuse ≠ 0
    ∨ f.size ≠ 0 ∨ f.sx ≠ 0 ∨ f.ord ≠ 0) || decide (6 ≤ f.scope.toNat) || decide (2 ≤ f.space.toNat)
    || (MemForm.local_ f && decide (1 < f.scope.toNat))

/-- `fence` (R137): the group is held until its earlier loads have returned and its earlier stores are performed at the scope. -/
def execFence (g : GroupLoc) (f : MemForm) (s : State) : Host.Outcome State Fault Refusal :=
  match State.issuable s g (memWords 0x6C f) with
  | none => .next s
  | some grp =>
    if fenceIllegal f then .next (State.park s g grp (illegal grp 0) grp.pc (memWord 0x6C f))
    else .next (State.setGroup s g { Group.advance grp 0 with hold := .fence f.scope.toNat })

/-- Without the lines of read-only cached windows. -/
def withoutRoc (m : NMap (List CacheLine)) : NMap (List CacheLine) := NMap.remap [] (fun ls => ls.filter (fun l => !l.roc)) m

/-- `inval` (R143): scope 1 the issuing cell's L1, scope 2 the block cache too; other scopes are reserved. -/
def execInval (g : GroupLoc) (f : MemForm) (s : State) : Host.Outcome State Fault Refusal :=
  match State.issuable s g (memWords 0x6D f) with
  | none => .next s
  | some grp =>
    if fenceIllegal f || decide (f.scope ≠ 1 ∧ f.scope ≠ 2) then .next (State.park s g grp (illegal grp 0) grp.pc (memWord 0x6D f))
    else
      let s := State.modCell s g.cell (fun x => { Cell.setGroup x g.slot (Group.advance grp 0) with l1 := withoutRoc x.l1 })
      if f.scope = 2 then
        let b := State.block s (blockOf g.cell)
        .next (State.setBlock s (blockOf g.cell) { b with cache := withoutRoc b.cache })
      else .next s

/-! ### Fetch and lookaside -/

/-- `LOOKASIDE_FILL` (R84, R368): the region window cache is consulted for the page the group is held for; a hit fills the
lookaside, and either way the group issues its instruction anew. -/
def execLookasideFill (g : GroupLoc) (s : State) : Host.Outcome State Fault Refusal :=
  match State.group s g with
  | none => .next s
  | some grp =>
    match grp.hold with
    | .lookaside v =>
      let r := State.region s (regionOf g.cell)
      let s := State.setGroup s g { grp with hold := .none }
      match Region.translation r v with
      | none => .next s
      | some t =>
        let s := State.modCell s g.cell (fun x => Cell.fillLookaside x t)
        let s := State.setRegion s (regionOf g.cell) (Region.fillWindow r t)
        .next (State.count s .wcHit 0 (regionOf g.cell) 1)
    | _ => .next s

/-- `INSTRUCTION_FETCH` (R118): the next word of a group's instruction is fetched through L1 at CODE_BASE + 8 × PC; a page with no
entry parks the group with WINDOW_MISS and INSN 0; a page written since the group's launch began gives an undefined word (R144). The Tasting runner gives its
groups their words itself (R315). -/
def execInstructionFetch (g : GroupLoc) (s : State) : Host.Outcome State Fault Refusal :=
  match State.group s g with
  | none => .next s
  | some grp =>
    let x := State.cell s g.cell
    let k := grp.fetched.length
    let need := match grp.fetched with
      | [] => 1
      | w :: _ => (let e := w.toNat / 2 ^ 50 % 4; if e = 3 then 1 else 1 + e)
    let under := x.accesses.any (fun e => decide (e.2.slot = g.slot ∧ e.2.kind = .fetch))
    if !State.cellRuns s g.cell || (NMap.find x.parkList g.slot).isSome || decide (grp.active = 0) || decide (need ≤ k) || under || decide (grp.ring = 64)
        || (match grp.hold with
          | .lookaside _ => true
          | _ => false) then .next s
    else
      let ea := (grp.codeBase.toNat + 8 * (grp.pc.toNat + k)) % 2 ^ 64
      let park (code detail addr : Nat) : State :=
        State.park s g grp { code := code, detail := detail, addr := addr, lanes := grp.active.toNat, epoch := 0 } grp.pc 0
      match pageOf ea with
      | none => .next (park 0x02 0 ea)
      | some v =>
        match Cell.translation x v with
        | some t =>
          match permission t grp.job .fetch with
          | some d => .next (park 0x03 d 0)
          | none =>
            if State.codeWritten s grp.launch (fabricAddress t ea) then
              .next (State.setGroup { State.setCell s g.cell (Cell.fillLookaside x t) with freeCount := s.freeCount + 2 } g
                { grp with fetched := grp.fetched ++ [freeInsn s.freeCount] })
            else
            let op := s.nextId
            let lane : LaneAddr := { lane := k, fa := fabricAddress t ea, ea := BitVec.ofNat 64 ea }
            let s1 := State.setCell { s with nextId := op + 1 } g.cell (Cell.fillLookaside x t)
            .next (State.settleRegion ((State.startLoad s1 g.cell g.slot op .fetch grp.pc.toNat 0 2 grp.job [(lane, t.roc)]).getD s)
              (regionOf g.cell))
        | none =>
          match Region.translation (State.region s (regionOf g.cell)) v with
          | some _ => if grp.hold = .none then .next (State.setGroup s g { grp with hold := .lookaside v }) else .next s
          | none => .next (park 0x02 0 ea)

end Sys2Proof.Machine
end

