-- ==== Sys2Proof/Machine/Sync.lean ====
section
/-!
DEFINITION. Synchronisation instructions (0x70 to 0x75; R126 to R129, R162 to R173, R178, R297) and the copy unit's events (R180,
R184).
-/

namespace Sys2Proof.Machine

/-! ### Issue with a check between ILLEGAL and POISON (R85) -/

/-- Issue a synchronisation instruction: ILLEGAL, then `range` (EPOCH_STALE or COUNTER_RANGE), then POISON, then the effect, which
answers none while the instruction must wait. -/
def State.runSync (s : State) (op : Nat) (sh : Shape) (g : GroupLoc) (f : RegForm)
    (range : Group → Operands → Option ParkCause) (effect : State → Group → Operands → Option State) : State :=
  match State.issuable s g (regWords op f) with
  | none => s
  | some grp =>
    if Group.awaits grp (shapeRegs sh f) then s
    else
      let o := readOperands sh grp f
      let illegal_ := (regIllegal sh grp.regs f).map (illegal grp)
      match firstSome [illegal_, if illegal_.isSome then none else range grp o, regPark sh grp f] with
      | some p => State.park s g grp p grp.pc (regWord op f)
      | none => (effect s (Group.advance grp f.ext.toNat) o).getD s

/-- COUNTER_RANGE (Table 3.6). -/
def counterRange (bad : Bool) (k : Nat) : Option ParkCause :=
  if bad then some { code := 0x07, detail := k, addr := 0, lanes := 0, epoch := 0 } else none

/-- EPOCH_STALE for a group's instruction that names another module (R124). -/
def epochStale (x : Cell) (grp : Group) (applies : Bool) : Option ParkCause :=
  if applies && Cell.epochOlder x grp.job (Group.epoch grp) then
    some { code := 0x0A, detail := 0, addr := 0, lanes := 0, epoch := Group.epoch grp } else none

/-- Counter `k`'s TAG differs from the group's job tag (R165). -/
def tagDiffers (x : Cell) (grp : Group) (k : Nat) : Bool := decide ((Cell.arrival x k).tag ≠ grp.job)

/-- An issued and incomplete copy, matrix or chain instruction of the cell will increment counter `k` (Table 5.2). -/
def Cell.namesCounter (x : Cell) (k : Nat) : Bool :=
  x.copies.any (fun e => decide (e.2.phase = .moving ∧ e.2.counter = k)) || x.array.any (fun e => decide (e.2.counter = some k)) ||
    x.chain.any (fun e => decide (e.2.counter = some k))

/-! ### Counters -/

def shapeCnt : Shape :=
  { d := .none, a := .none, b := .uni, c := .none, sub := 0x7F, imm := true, reserved := false, group := true, carries := false }

def cntOf (f : RegForm) : Nat := subField f 4 0

/-- `cnt` set (R162, R164); SUB[6:5] = 3 is reserved. -/
def execCntSet (g : GroupLoc) (f : RegForm) (s : State) : Host.Outcome State Fault Refusal :=
  let op := subField f 6 5
  let k := cntOf f
  if op = 1 ∨ op = 2 then .next s
  else
    .next (State.runSync s 0x72 { shapeCnt with reserved := decide (op = 3) } g f
      (fun grp _ =>
        let x := State.cell s g.cell
        counterRange ((decide ((Cell.arrival x k).tag ≠ 0) && tagDiffers x grp k) || Cell.namesCounter x k) k)
      (fun s grp o =>
        let a : Arrival := { value := BitVec.ofNat 32 (o.b 0), tag := grp.job }
        some (State.modCell s g.cell (fun x =>
          Cell.setGroup { x with arrivals := NMap.set x.arrivals default k a } g.slot grp))))

/-- `cnt` add (R163). -/
def execCntAdd (g : GroupLoc) (f : RegForm) (s : State) : Host.Outcome State Fault Refusal :=
  let k := cntOf f
  if subField f 6 5 ≠ 1 then .next s
  else
    .next (State.runSync s 0x72 shapeCnt g f
      (fun grp o => counterRange (tagDiffers (State.cell s g.cell) grp k || decide (o.b 0 = 0) || decide (65535 < o.b 0)) k)
      (fun s grp o => some (State.increment (State.setGroup s g grp) g.cell k (o.b 0))))

/-- `cnt` read (R168). -/
def execCntRead (g : GroupLoc) (f : RegForm) (s : State) : Host.Outcome State Fault Refusal :=
  let k := cntOf f
  if subField f 6 5 ≠ 2 then .next s
  else
    .next (State.runSync s 0x72 { shapeCnt with d := .uni, b := .none, imm := false } g f
      (fun grp _ => counterRange (tagDiffers (State.cell s g.cell) grp k) k)
      (fun s grp _ =>
        let v := (Cell.arrival (State.cell s g.cell) k).value
        some (State.setGroup s g (Group.writeUni grp f.dst.toNat v.toNat false 0))))

/-- `await` (R166, R167). -/
def execAwait (g : GroupLoc) (f : RegForm) (s : State) : Host.Outcome State Fault Refusal :=
  let k := cntOf f
  let dist (o : Operands) : Nat := serialDiff 32 (o.b 0) (Cell.arrival (State.cell s g.cell) k).value.toNat
  .next (State.runSync s 0x71 { shapeCnt with sub := 0x1F } g f
    (fun grp o =>
      let d := dist o
      counterRange (tagDiffers (State.cell s g.cell) grp k || (decide (2 ^ 24 < d) && decide (d < 2 ^ 31))) k)
    (fun s grp o =>
      let d := dist o
      let reached := decide (d = 0) || decide (2 ^ 31 ≤ d)
      let s := State.setGroup s g (if reached then grp else { grp with hold := .await k (BitVec.ofNat 32 (o.b 0)) })
      some (State.modCell s g.cell (fun x => Cell.watchFrom x k s.timebase false))))

/-- `COUNTER_INCREMENT` (R163): an increment that a unit or a notify has sent is applied. -/
def execCounterIncrement (c k amount : Nat) (s : State) : Host.Outcome State Fault Refusal :=
  if decide (k < 32) && State.cellRuns s c then .next (State.increment s c k amount) else .next s

/-! ### `notify` -/

/-- The stores and atomics of a group that are not yet performed at fabric scope (R140). -/
def State.storesOut (s : State) (c slot : Nat) : List Nat :=
  let loads := ((State.cell s c).accesses.filter (fun e => match e.2.kind with
    | .load _ _ => true
    | _ => false)).map (·.1)
  let reads := (s.homeQueue.filter (fun e => match e.2.body with
    | .read _ => true
    | _ => false)).map (·.1)
  (State.outstanding s c slot 5).filter (fun id => !loads.contains id && !reads.contains id)

/-- The module a notify target word names (Table 5.3). -/
def targetModule (own t : Nat) : Nat := if bitOf t 30 then own else bits t 29 16

/-- `notify` (R169 to R171). -/
def execNotify (g : GroupLoc) (f : RegForm) (s : State) : Host.Outcome State Fault Refusal :=
  .next (State.settleRegion (State.runSync s 0x73
    { d := .none, a := .uniPair, b := .uni, c := .none, sub := 0, imm := true, reserved := false, group := true, carries := false } g f
    (fun grp o =>
      let t := o.a 0
      firstSome [epochStale (State.cell s g.cell) grp true,
        counterRange (targetBad t || decide (o.b 0 = 0) || decide (65535 < o.b 0)) (bits t 4 0)])
    (fun s grp o =>
      let x := State.cell s g.cell
      if Cell.epochNewer x grp.job (Group.epoch grp) then
        some (State.modCell s g.cell (fun x => { x with groups := NMap.mod x.groups g.slot (fun y => { y with hold := .epoch }) }))
      else if !Cell.slotsFree x (g.slot / 16) [none] then none
      else
        let id := s.nextId
        let m : Miss :=
          { kind := .notify, pipeline := g.slot / 16, slot := g.slot, line := 0, channel := none, sectors := [], scope := 5, cls := 0
            tag := grp.job, roc := false, accesses := [], answer := none, values := [], merge := [], blockMerge := [], drop := []
            blockDrop := [], notifyTarget := BitVec.ofNat 64 (o.a 0), amount := o.b 0 }
        let q : RequestPacket :=
          { source := s.moduleNumber, destination := targetModule s.moduleNumber (o.a 0), sourceCell := g.cell, txn := 0, tag := grp.job
            reuse := 0, body := .notify (BitVec.ofNat 64 (o.a 0)) (o.b 0) }
        let after := State.storesOut s g.cell g.slot
        let s := State.setCell s g.cell (Cell.setGroup { x with misses := NMap.insert x.misses id m } g.slot grp)
        some (State.sendRemote { s with nextId := id + 1 } g.cell g.slot id 5 q (some id) after))) (regionOf g.cell))

/-! ### `rnd` -/

/-- `rnd` (R127). -/
def execRnd (g : GroupLoc) (f : RegForm) (s : State) : Host.Outcome State Fault Refusal :=
  let wide := subBit f 0
  .next (State.runReg s 0x74
    { d := if wide then .r64 else .r32, a := .r64, b := .uniPair, c := .none, sub := 1, imm := false, reserved := bit1 f.ua, group := true
      carries := false } g f
    (fun o grp =>
      let v (l : Nat) : Nat := generator (o.b l) (o.a l)
      if wide then Group.writePair grp f.dst.toNat o.ex v 0 0 else Group.write grp f.dst.toNat o.ex (fun l => v l % 2 ^ 32) 0 0))

/-! ### `step` -/

/-- Every array and chain-unit instruction accepted before has passed its statistics stage (R129): no drain is left and no `chn`
waits to start. -/
def Cell.statisticsPassed (x : Cell) : Bool :=
  x.array.all (fun e => match e.2.kind with
    | .drn _ _ => false
    | _ => true) && x.chain.all (fun e => match e.2.kind with
    | .chn _ _ => e.2.begun
    | _ => true)

/-- `step` (R129, R297). -/
def execStep (g : GroupLoc) (f : RegForm) (s : State) : Host.Outcome State Fault Refusal :=
  .next (State.runSync s 0x75 { shapeCnt with sub := 0 } g f (fun _ _ => none)
    (fun s grp o =>
      let v := (State.cell s g.cell).sieve
      if !Cell.statisticsPassed (State.cell s g.cell) then none
      else if serialNewer 32 (o.b 0) v.step.toNat then
        if v.frozen.isSome then none else some (State.passStep (State.setGroup s g grp) g.cell (BitVec.ofNat 32 (o.b 0)))
      else if serialOlder 32 (o.b 0) v.step.toNat then some (State.count (State.setGroup s g grp) .stepStale 0 g.cell 1)
      else some (State.setGroup s g grp)))

/-! ### `copy` -/

/-- A page's translation for a copy: the lookaside's, else the region window cache's (R178). -/
def State.pageFor (s : State) (c v : Nat) : Option Translation :=
  match Cell.translation (State.cell s c) v with
  | some t => some t
  | none => Region.translation (State.region s (regionOf c)) v

/-- The local address in a uniform pair or register names a descriptor of `n` bytes: aligned, bits above [18:0] zero. -/
def descriptorAt (n v : Nat) : Option Nat := if v % n = 0 ∧ v < localSize then some v else none

/-- The range of that descriptor, when the address is good. -/
def descriptorRange (n v : Nat) : List (Nat × Nat) := (descriptorAt n v).toList.map (fun a => (a, n))

/-- POISON for memory words an instruction reads at issue: DETAIL 0xFF, ADDR the lowest poisoned word (R86). -/
def wordPark (x : Cell) (a n : Nat) : Option ParkCause :=
  (Cell.firstMarked x a n).map (fun w => { code := 0x04, detail := 0xFF, addr := w, lanes := 0, epoch := 0 })

/-- PERMISSION for ranges that reach into the spill reservation (R79): ADDR the lowest address of the first. -/
def reservedPark (x : Cell) (rs : List (Nat × Nat)) : Option ParkCause :=
  (rs.find? (fun r => x.reservation && decide (0 < r.2) && decide (0x70000 < r.1 + r.2))).map (fun r =>
    { code := 0x03, detail := 0x03, addr := r.1, lanes := 0, epoch := 0 })

/-- The lowest address of a range in page `v`: ADDR where `v` is the page that failed (R89; DEDUCED, assumption 108). -/
def CopyRange.firstIn (r : CopyRange) (v : Nat) : Nat :=
  let a := (r.start % (2 ^ 64 : Nat)).toNat
  if a / 2 ^ 21 = v then a else v * 2 ^ 21

/-- WINDOW_MISS, then PERMISSION, over a copy's ranges in their order, then over its gather list and descriptor (R79, R85, R178). -/
def copyAccess (s : State) (c : Nat) (grp : Group) (rs : List CopyRange) (others : List (Nat × Nat)) : Option ParkCause :=
  let pages := (rs.filter (fun r => decide (r.space ≠ 0))).flatMap (fun r => (CopyRange.pages r).map (fun v => (r, v)))
  let park (code detail addr : Nat) : ParkCause := { code := code, detail := detail, addr := addr, lanes := 0, epoch := 0 }
  let missing := pages.find? (fun y => (if y.2 < 2 ^ 32 then State.pageFor s c y.2 else none).isNone)
  match missing with
  | some y => some (park 0x02 0 (CopyRange.firstIn y.1 y.2))
  | none =>
    let one (r : CopyRange) : Option ParkCause :=
      if r.space = 0 then
        if (State.cell s c).reservation && decide (0 < r.len) && reachesReservation r.start r.len then some (park 0x03 0x03 r.start.toNat) else none
      else
        firstSome ((CopyRange.pages r).map (fun v =>
          ((State.pageFor s c v).bind (fun t => permission t grp.job (if r.writes then .write else .read))).map (fun d =>
            park 0x03 d (CopyRange.firstIn r v))))
    firstSome (rs.map one ++ [reservedPark (State.cell s c) others])

/-- The copy names another module: one of its pages is there, or its notify target (R124). -/
def copyRemote (s : State) (c : Nat) (d : CopyDesc) (pages : List Nat) : Bool :=
  pages.any (fun v => (State.pageFor s c v).elim false (fun t => decide (t.home ≠ s.moduleNumber))) ||
    (d.note && decide (targetModule s.moduleNumber d.target ≠ s.moduleNumber))

/-- Everything that parks a `copy` after ILLEGAL, in the order of R85 and R178; the descriptor and the gather list are read here. -/
def copyPark (s : State) (c : Nat) (grp : Group) (f : RegForm) (addr : Nat) : Option ParkCause :=
  let x := State.cell s c
  let k := cntOf f
  let bad (n : Nat) : ParkCause := { code := 0x06, detail := n, addr := 0, lanes := 0, epoch := 0 }
  match operandPark grp grp.active.toNat .uniPair f.sa.toNat true with
  | some p => some p
  | none =>
    match descriptorAt 64 addr with
    | none => firstSome [counterRange (tagDiffers x grp k) k, some (bad 1)]
    | some a =>
      let d := copyDesc (Cell.localNat x a 64)
      let listOk := d.gather && decide (0 < d.rows ∧ d.rows ≤ 64) && decide (d.list % 4 = 0) && decide (d.list + 4 * d.rows ≤ localSize)
      let gather := if listOk then tabulate d.rows (fun i => Cell.localNat x (d.list + 4 * i) 4) else []
      let rs := CopyDesc.ranges d gather
      let pages := dedupe ((rs.filter (fun r => decide (r.space ≠ 0))).flatMap CopyRange.pages)
      firstSome [wordPark x a 64, if listOk then wordPark x d.list (4 * d.rows) else none,
        epochStale x grp (copyRemote s c d pages), counterRange (tagDiffers x grp k) k,
        (CopyDesc.firstFailure d a gather).map bad, copyAccess s c grp rs [(d.list, if listOk then 4 * d.rows else 0), (a, 64)]]

def shapeCopy : Shape :=
  { d := .none, a := .uniPair, b := .none, c := .none, sub := 0x1F, imm := false, reserved := false, group := true, carries := false }

/-- The lowest free copy slot of 48 (P3). -/
def Cell.freeCopy (x : Cell) : Option Nat := if x.copies.length + x.colls < 48 then (List.range 48).find? (fun i => (NMap.find x.copies i).isNone) else none

/-- A copy that has passed its checks takes a slot: descriptor, gather list and translations are those of this moment (R175, R178,
R179). -/
def State.startCopy (s : State) (g : GroupLoc) (grp : Group) (f : RegForm) (addr slot : Nat) : State :=
  let x := State.cell s g.cell
  let d := copyDesc (Cell.localNat x addr 64)
  let gather := if d.gather then tabulate d.rows (fun i => Cell.localNat x (d.list + 4 * i) 4) else []
  let pages := dedupe (((CopyDesc.ranges d gather).filter (fun r => decide (r.space ≠ 0))).flatMap CopyRange.pages)
  let ts := pages.filterMap (State.pageFor s g.cell)
  let fromRegion := ts.filter (fun t => (Cell.translation x t.vpn).isNone)
  let dropped := (gather.filter (fun v => decide (d.limit ≤ v))).length
  let k : CopySlot :=
    { descAddr := addr, desc := BitVec.ofNat 512 (Cell.localNat x addr 64), counter := cntOf f, slot := g.slot, job := grp.job
      age := s.nextId, gather := gather, pages := ts, phase := .moving, nextRow := 0, todo := [], asked := [], rows := [], data := []
      waits := [], poisoned := false, failure := none, openBytes := [], marked := [] }
  let s := if dropped = 0 then s else State.count s .gatherDrop 0 g.cell dropped
  let s := if fromRegion.isEmpty then s else State.count s .wcHit 0 (regionOf g.cell) fromRegion.length
  let s := { s with nextId := s.nextId + 1 }
  State.modCell s g.cell (fun x => Cell.setGroup (Cell.setCopy (ts.foldl Cell.fillLookaside x) slot k) g.slot grp)

/-- The gather list of the descriptor at `addr`, as a range (R179). -/
def gatherList (x : Cell) (addr : Nat) : List (Nat × Nat) :=
  (descriptorAt 64 addr).elim [] (fun a =>
    let d := copyDesc (Cell.localNat x a 64)
    if d.gather then [(d.list, 4 * min d.rows 64)] else [])

/-- `copy` (R178): the checks, then a copy slot; while none is free, or a newer epoch is awaited (R125), the group waits.
An acquiring operation that is outstanding does not hold it: R138 holds memory accesses of the group, and a copy's are the copy unit's (DEDUCED,
assumption 113). -/
def execCopy (g : GroupLoc) (f : RegForm) (s : State) : Host.Outcome State Fault Refusal :=
  let addr (grp : Group) : Nat := Group.uniPair grp (f.sa.toNat % 64)
  let s := State.reads s g (regWords 0x70 f) (fun grp => descriptorRange 64 (addr grp))
  let s := State.reads s g (regWords 0x70 f) (fun grp => gatherList (State.cell s g.cell) (addr grp))
  match State.issuable s g (regWords 0x70 f) with
  | none => .next s
  | some grp =>
    let addr := addr grp
    match firstSome [(regIllegal shapeCopy grp.regs f).map (illegal grp), copyPark s g.cell grp f addr] with
    | some p => .next (State.park s g grp p grp.pc (regWord 0x70 f))
    | none =>
      let x := State.cell s g.cell
      let d := copyDesc (Cell.localNat x addr 64)
      let gather := if d.gather then tabulate d.rows (fun i => Cell.localNat x (d.list + 4 * i) 4) else []
      let pages := dedupe (((CopyDesc.ranges d gather).filter (fun r => decide (r.space ≠ 0))).flatMap CopyRange.pages)
      if copyRemote s g.cell d pages && Cell.epochNewer x grp.job (Group.epoch grp) then .next (State.setGroup s g { grp with hold := .epoch })
      else
        match Cell.freeCopy x with
        | none => .next s
        | some slot => .next (State.startCopy s g (Group.advance grp 0) f addr slot)

/-! ### The copy unit at work -/

/-- The 256-byte granules (effective address / 256, and fabric address / 256) that source row `r` needs of global memory and that have not been asked for,
in ascending address order (R180). -/
def CopySlot.wants (k : CopySlot) (r : Nat) : List (Nat × Nat) :=
  let d := copyDesc k.desc.toNat
  match CopyDesc.sourceRow d k.gather r with
  | none => []
  | some g =>
    if d.srcSpace = 0 then []
    else
      let bytes (base : Nat) (stride : Int) (n : Nat) : List Nat := tabulate n (fun i => ((strided base stride g + i) % (2 ^ 64 : Nat)).toNat / 256)
      let put (l : List Nat) (e : Nat) : List Nat := l.takeWhile (fun y => decide (y ≤ e)) ++ e :: l.dropWhile (fun y => decide (y ≤ e))
      let eas := (dedupe (bytes d.src d.srcStride (CopyDesc.srcRow d) ++ bytes d.scaleSrc (CopyDesc.srcScales d) (CopyDesc.srcScales d))).foldl put []
      dedupe ((eas.map (fun e => (e, CopySlot.fabric k (e * 256) / 256))).filter (fun e => !k.asked.contains e.2))

/-- Runs of granules for one request: contiguous, within one page, at most 16 (Tables 12.4, 13.4); each as (first, number). -/
def granuleRuns (gs : List Nat) : List (Nat × Nat) :=
  (gs.foldl (fun (acc : List (Nat × Nat)) g =>
    match acc with
    | (a, n) :: r => if g = a + n ∧ n < 16 ∧ g / 8192 = a / 8192 then (a, n + 1) :: r else (g, 1) :: acc
    | [] => [(g, 1)]) []).reverse

/-- The read commands of granules: a GET for each run of another module's, one command a granule of this module's (Table 12.4). -/
def readMoves (own : Nat) (gs : List Nat) : List CopyMove :=
  (granuleRuns gs).flatMap (fun y =>
    if y.1 * 256 / 2 ^ 43 = own then tabulate y.2 (fun i => .read ((y.1 + i) * 256) 256 (decide (i = 0))) else [.read (y.1 * 256) (256 * y.2) true])

/-- The next destination row is taken up: its read commands are to be sent, and it waits for its data (R180). -/
def CopySlot.nextCommands (own : Nat) (k : CopySlot) : CopySlot :=
  let gs := (CopySlot.wants k k.nextRow).map (·.2)
  { k with nextRow := k.nextRow + 1, rows := k.rows ++ [k.nextRow], todo := k.todo ++ readMoves own gs, asked := k.asked ++ gs }

/-- The fabric address a command names. -/
def CopyMove.address (m : CopyMove) : Nat :=
  match m with
  | .read fa _ _ => fa
  | .write bytes _ => (bytes.head?.map (·.1)).getD 0

/-- The pseudo-channel a command of this module's memory goes to. -/
def State.moveChannel (s : State) (m : CopyMove) : Option Nat :=
  if CopyMove.address m / 2 ^ 43 ≠ s.moduleNumber then none
  else let h := homeOf (State.ilv s) (CopyMove.address m % 2 ^ 43); some (channelInst h.1 h.2.1)

/-- The copy slots of a cell with a command outstanding at a pseudo-channel: their claims there (R180, P13). -/
def State.claims (s : State) (c channel : Nat) : List Nat :=
  dedupe (s.homeQueue.filterMap (fun e => match e.2.source with
    | .copy d k => if d = c ∧ channelInst e.2.region e.2.line = channel then some k else none
    | _ => none))

/-- The next command of a copy slot can go: its pseudo-channel has a claim free or already given to it, or a transaction entry is free (R180, R377). -/
def State.movable (s : State) (c slot : Nat) (k : CopySlot) : Bool :=
  decide (k.phase = .moving) &&
    (match k.todo with
    | [] => decide (k.nextRow < (copyDesc k.desc.toNat).rows)
    | m :: _ =>
      match State.moveChannel s m with
      | none => (freeEntry (State.region s (regionOf c)).txns).isSome
      | some n => (State.claims s c n).contains slot || decide ((State.claims s c n).length < 8))

/-- Send one command of a copy: towards the home of this module's memory, or as GET or PUT to another module (R181 to R183, R375). -/
def State.sendMove (s : State) (c slot : Nat) (k : CopySlot) (m : CopyMove) : State :=
  let d := copyDesc k.desc.toNat
  let home := CopyMove.address m / 2 ^ 43
  let id := s.nextId
  let out (s : State) : State := State.modCell s c (fun x => { x with copies := NMap.mod x.copies slot (fun k => { k with todo := k.todo.tail, waits := k.waits ++ [id] }) })
  let remote (reuse : Nat) (b : RequestBody) : State :=
    let q : RequestPacket :=
      { source := s.moduleNumber, destination := home, sourceCell := c, txn := 0, tag := k.job, reuse := BitVec.ofNat 2 reuse, body := b }
    (State.transmit (out { s with nextId := id + 1 }) c k.slot id q none (some slot)).getD s
  match m with
  | .read fa n first =>
    if home = s.moduleNumber then
      State.sendHome (out s) (.copy c slot) (fa % 2 ^ 43) (.granuleRead [0, 1, 2, 3, 4, 5, 6, 7]) 4 1 k.job none none [] first
    else remote 1 (.get (fa % 2 ^ 43) n)
  | .write bytes marks =>
    let u := CopyMove.address m / 256 * 256
    let places : NMap Byte := bytes.map (fun e => (e.1 % 256, e.2))
    let marked := (marks.filter (fun e => e.2)).map (fun e => e.1 % 256 / 32)
    if home = s.moduleNumber then
      let s := (dedupe (places.map (fun e => e.1 / 32))).foldl (fun s i =>
        State.passCaches s c (u + 32 * i) ((places.filter (fun e => decide (e.1 / 32 = i))).map (fun e => (e.1 % 32, e.2))) (marked.contains i)) (out s)
      State.sendHome s (.copy c slot) (u % 2 ^ 43) (.granuleStore places (dedupe marked)) d.scope d.reuse k.job (some d.uses) none [] true
    else
      remote d.reuse (.put (u % 2 ^ 43) (BitVec.ofNat 256 (maskOf (places.map (·.1)))) (tabulate 256 (fun i => NMap.get places 0 i))
        (BitVec.ofNat 8 (maskOf marked)) (BitVec.ofNat 4 d.uses))

/-- `COPY_COMMAND` (R180 to R183, R375): a copy sends its next command, when no older copy of its cell can send one; a copy with none left to send
takes up its next row. Rows whose data are there are moved. -/
def execCopyCommand (c slot : Nat) (s : State) : Host.Outcome State Fault Refusal :=
  match NMap.find (State.cell s c).copies slot with
  | none => .next s
  | some k =>
    let older := (State.cell s c).copies.any (fun e => decide (e.2.age < k.age) && State.movable s c e.1 e.2)
    if !State.cellRuns s c || older || !State.movable s c slot k then .next s
    else
      let k' := if k.todo.isEmpty then CopySlot.nextCommands s.moduleNumber k else k
      let s := State.modCell s c (fun x => Cell.setCopy x slot k')
      let s := match k'.todo with
        | [] => s
        | m :: _ => if State.movable s c slot k' then State.sendMove s c slot k' m else s
      .next (State.settleRegion (State.copyRows s c slot) (regionOf c))

/-- The bytes R185 leaves undefined in the destination of a completing copy take free values. -/
def State.leaveOpen (s : State) (c : Nat) (k : CopySlot) : State :=
  let mine := k.openBytes.filter (fun a =>
    if a < 2 ^ 19 then CopySlot.contains k false true a else CopySlot.containsFabric k true (a - 2 ^ 19))
  let n := s.freeCount
  let s := { s with freeCount := n + mine.length }
  mine.zipIdx.foldl (fun s ai =>
    if ai.1 < 2 ^ 19 then State.modCell s c (fun x => { x with localMem := NMap.set x.localMem 0 ai.1 (Config.freeByte (n + ai.2)) })
    else
      let fa := ai.1 - 2 ^ 19
      let h := homeOf (State.ilv s) (fa % 2 ^ 43)
      if fa / 2 ^ 43 = s.moduleNumber ∧ h.2.2 then State.setByte s h.1 h.2.1 (Config.freeByte (n + ai.2)) else s) s

/-- `COPY_COMPLETE` (R184, R186, R187): every byte is written and performed at SCOPE; the counter is incremented, and the slot returns unless a
notify is to be sent. -/
def execCopyComplete (c slot : Nat) (s : State) : Host.Outcome State Fault Refusal :=
  match NMap.find (State.cell s c).copies slot with
  | none => .next s
  | some k =>
    let d := copyDesc k.desc.toNat
    let performed := if d.scope = 5 then k.waits.isEmpty else k.waits.all (fun id => State.performed s c d.scope id)
    if k.phase ≠ .moving ∨ k.nextRow < d.rows ∨ k.todo ≠ [] ∨ k.rows ≠ [] ∨ !performed then .next s
    else
      let s := State.increment (State.leaveOpen s c k) c k.counter 1
      let s := State.count s .copyDone 0 c 1
      let s := if k.poisoned then State.count s .copyPoison 0 c 1 else s
      let s := match k.failure with
        | none => s
        | some (m, st) => State.log (State.count s .copyError 0 c 1) 0x0030 3 c k.job [3, k.descAddr, m, st]
      .next (State.modCell s c (fun x =>
        if d.note then Cell.setCopy x slot { k with phase := .notifying, data := [], openBytes := [] }
        else { x with copies := NMap.erase x.copies slot }))

/-- `COPY_NOTIFY` (R184): once every write is performed at fabric scope the notify of the descriptor is sent; its acknowledgement returns the slot. -/
def execCopyNotify (c slot : Nat) (s : State) : Host.Outcome State Fault Refusal :=
  match NMap.find (State.cell s c).copies slot with
  | none => .next s
  | some k =>
    if k.phase ≠ .notifying ∨ k.waits ≠ [] then .next s
    else
      let d := copyDesc k.desc.toNat
      let q : RequestPacket :=
        { source := s.moduleNumber, destination := targetModule s.moduleNumber d.target, sourceCell := c, txn := 0, tag := k.job
          reuse := 0, body := .notify (BitVec.ofNat 64 d.target) d.inc }
      match State.transmit { s with nextId := s.nextId + 1 } c k.slot s.nextId q none (some slot) with
      | none => .next s
      | some s1 =>
        .next (State.settleRegion (State.modCell s1 c (fun x => Cell.setCopy x slot { k with phase := .notifySent })) (regionOf c))

end Sys2Proof.Machine
end

