-- ==== Sys2Proof/Machine/Array.lean ====
section
/-!
DEFINITION. The matrix array: `mma`, `mslc` and the drawer instructions at issue (0x80 to 0x87; R219 to R221, R233, R240 to R246), and
the array's events (R231, R234 to R238, R254 to R266).
-/

namespace Sys2Proof.Machine

/-! ### Slices and drawers of a cell -/

def Cell.slice (x : Cell) (k : Nat) : Slice := NMap.get x.slices Slice.reset k
def Cell.setSlice (x : Cell) (k : Nat) (v : Slice) : Cell := { x with slices := NMap.set x.slices Slice.reset k v }
def Cell.modSlice (x : Cell) (k : Nat) (f : Slice → Slice) : Cell := Cell.setSlice x k (f (Cell.slice x k))
def Cell.issueOf (x : Cell) (k d : Nat) : DrawerIssue := NMap.get (Cell.slice x k).issue DrawerIssue.reset d
def Cell.setIssue (x : Cell) (k d : Nat) (v : DrawerIssue) : Cell :=
  Cell.modSlice x k (fun s => { s with issue := NMap.set s.issue DrawerIssue.reset d v })
def Cell.drawer (x : Cell) (k d : Nat) : Drawer := NMap.get (Cell.slice x k).drawers Drawer.reset d
def Cell.setDrawer (x : Cell) (k d : Nat) (v : Drawer) : Cell :=
  Cell.modSlice x k (fun s => { s with drawers := NMap.set s.drawers Drawer.reset d v })

/-- Width of a slice (R222). -/
def Cell.sliceWidth (x : Cell) : Nat := 16 / max 1 x.sliceCount

def ownerOf (slot : Nat) (grp : Group) : Owner := { slot := slot, age := grp.age }

/-- The group of an owner, while it is resident. -/
def Cell.ownerGroup (x : Cell) (o : Owner) : Option Group :=
  match Cell.group x o.slot with
  | some g => if g.age = o.age then some g else none
  | none => none

/-- An op of the array holds a P1 credit (R231, R244): an `mma` before its operand release, a zeroed `dopn` never, any other until it is
complete. A closing that no `dcls` asked for (R243) is entered as begun and holds none. -/
def ArrayOp.holdsCredit (o : ArrayOp) : Bool :=
  match o.kind with
  | .mma _ _ _ => !o.begun
  | .opn d => decide ((openDesc d.toNat).pre ≠ 0)
  | .cls => !o.begun
  | _ => true

/-- A P1 credit of the pipeline is free (Table 1.5: four). -/
def Cell.arrayCredit (x : Cell) (pipe : Nat) : Bool :=
  decide ((x.array.filter (fun e => decide (e.2.owner.slot / 16 = pipe) && ArrayOp.holdsCredit e.2)).length < 4)

/-- SLICE is below the slice count and, with more slices than one, claimed by the group (check 0x09). -/
def Cell.sliceUsable (x : Cell) (k : Nat) (o : Owner) : Bool :=
  decide (k < x.sliceCount) && (decide (x.sliceCount = 1) || decide ((Cell.slice x k).claimed = some o))

/-- A drawer is open and owned by the group. -/
def DrawerIssue.openFor (d : DrawerIssue) (o : Owner) : Bool := decide (d.status = .opened) && decide (d.owner = o)

/-- The drawer has no accepted instruction before op `id`. -/
def Cell.oldestOf (x : Cell) (id k d : Nat) : Bool :=
  x.array.all (fun e => decide (id ≤ e.1) || decide (¬ (e.2.slice = k ∧ e.2.drawer = d)) || (match e.2.kind with
    | .slc _ _ _ => true
    | _ => false))

/-! ### Effects that wait only for earlier instructions -/

/-- The slice status word (Table 7.9). -/
def Cell.sliceStatus (x : Cell) : Nat :=
  let held (k : Nat) : Option Owner := if k < x.sliceCount ∧ 1 < x.sliceCount then (Cell.slice x k).claimed else none
  (List.range 4).foldl (fun a k => a + (match held k with
    | some o => o.slot * 2 ^ (8 + 6 * k) + 2 ^ (4 + k)
    | none => 0)) 0
    + b2n ((List.range x.sliceCount).any (fun k => (Cell.slice x k).resetting)) * 8
    + (if x.sliceCount = 4 then 2 else x.sliceCount - 1)

/-- An accepted array instruction of slice `k` is left. -/
def Cell.sliceBusy (x : Cell) (k : Nat) : Bool := x.array.any (fun e => decide (e.2.slice = k) && (match e.2.kind with
  | .slc _ _ _ => false
  | _ => true))

/-- CONFIG done (R233, R240): `b` slices, none claimed, every drawer closed. Ramps of slices that no longer are become idle; what is left of a group
that has gone completes in its slice (R28). -/
def Cell.reconfigure (x : Cell) (b : Nat) : Cell :=
  { x with
    sliceCount := b
    slices := (x.slices.filter (fun e => decide (e.1 < b) || Cell.sliceBusy x e.1)).map (fun e =>
      (e.1, { e.2 with claimed := none, issue := [], drawers := if Cell.sliceBusy x e.1 then e.2.drawers else [] })) }

/-- What an `mslc` at the head of the queue decides: none while it waits, else the cell and its result (Table 7.8). -/
def Cell.sliceAnswer (x : Cell) (id : Nat) (o : ArrayOp) (op b : Nat) : Option (Cell × Nat) :=
  let n := x.sliceCount
  let s := Cell.slice x b
  match op with
  | 0 =>
    if x.array.any (fun e => decide (e.1 < id)) then none
    else if b ≠ 1 ∧ b ≠ 2 ∧ b ≠ 4 then some (x, 3)
    else if x.slices.any (fun e => e.2.claimed.isSome || e.2.issue.any (fun d => decide (d.2.status ≠ .closed))) then some (x, 1)
    else if x.slices.any (fun e => e.2.resetting) then some (x, 4)
    else some (Cell.reconfigure x b, 0)
  | 1 =>
    if n = 1 ∨ n ≤ b then some (x, 3)
    else if s.claimed.isSome ∧ s.claimed ≠ some o.owner then some (x, 2)
    else if s.resetting then some (x, 4)
    else some (Cell.setSlice x b { s with claimed := some o.owner }, 0)
  | 2 =>
    if x.array.any (fun e => decide (e.1 < id ∧ e.2.slice = b ∧ e.2.owner = o.owner) && !e.2.begun) then none
    else if n = 1 ∨ n ≤ b ∨ s.claimed ≠ some o.owner then some (x, 3)
    else if s.issue.any (fun d => DrawerIssue.openFor d.2 o.owner) then some (x, 1)
    else some (Cell.setSlice x b { s with claimed := none }, 0)
  | _ => some (x, Cell.sliceStatus x)

/-- Remove an op of the array. -/
def Cell.dropOp (x : Cell) (id : Nat) : Cell := { x with array := NMap.erase x.array id }

/-- Give a waiting group its answer. -/
def Cell.answerGroup (x : Cell) (o : Owner) (f : Group → Group) : Cell :=
  match Cell.ownerGroup x o with
  | some g => Cell.setGroup x o.slot { f g with hold := .none }
  | none => x

/-- One op of the queue: a zeroed `dopn`, a `dqry` or an `mslc` takes effect when nothing before it holds it up (R241, R245, R266). -/
def Cell.settleOp (x : Cell) (id : Nat) (o : ArrayOp) : Cell :=
  match o.kind with
  | .opn d =>
    if (openDesc d.toNat).pre = 0 ∧ Cell.oldestOf x id o.slice o.drawer then
      Cell.dropOp (Cell.setDrawer x o.slice o.drawer (OpenDesc.drawer (openDesc d.toNat) x o.owner)) id
    else x
  | .qry dst =>
    if Cell.oldestOf x id o.slice o.drawer then
      let v := Drawer.status (Cell.drawer x o.slice o.drawer)
      Cell.dropOp (Cell.answerGroup x o.owner (fun g => Group.writeUniPair g dst v)) id
    else x
  | .slc op b dst =>
    if x.array.any (fun e => decide (e.1 < id) && !e.2.begun) then x
    else match Cell.sliceAnswer x id o op b.toNat with
      | none => x
      | some r => Cell.dropOp (Cell.answerGroup r.1 o.owner (fun g => Group.writeUni g dst r.2 false 0)) id
  | _ => x

/-- Every such op, in acceptance order. -/
def Cell.settleArray (x : Cell) : Cell := x.array.foldl (fun x e => Cell.settleOp x e.1 e.2) x

/-! ### Acceptance -/

/-- An instruction is accepted for a slice: it ramps (Table 7.10). -/
def Slice.wake (s : Slice) : Slice :=
  match s.ramp with
  | .idle => { s with ramp := .waitGrant }
  | .stop => { s with ramp := .start }
  | _ => s

/-- An op enters the queue; its group goes on, or waits for its answer. A slice that was held in RUN is no longer (R502). -/
def State.acceptArray (s : State) (g : GroupLoc) (grp : Group) (o : ArrayOp) (ramps waits : Bool) : State :=
  let id := s.nextId
  let s := if ramps && decide ((Cell.slice (State.cell s g.cell) o.slice).ramp = .stop) then
      State.count s .arrayRamps 0 (4 * g.cell + o.slice) 1 else s
  let grp := if waits then { grp with hold := .unit } else grp
  let s := if ramps then State.unhold s (fun i => decide (i = .slice g.cell o.slice)) else s
  State.modCell { s with nextId := id + 1 } g.cell (fun x =>
    let x := Cell.setGroup { x with array := NMap.insert x.array id o } g.slot grp
    Cell.settleArray (if ramps then Cell.modSlice x o.slice Slice.wake else x))

/-- The byte address of the instruction at PC (R87, R118). -/
def Group.insnAddr (grp : Group) : DWord := grp.codeBase + 8 * (grp.pc.zeroExtend 64)

/-- Issue an instruction of a unit: ILLEGAL, then `park`, then acceptance, which answers none while the group must wait. -/
def State.runUnit (s : State) (g : GroupLoc) (ws : List DWord) (illegal_ : Group → Option Nat) (park : Group → Option ParkCause)
    (accept : Group → Option State) : State :=
  match State.issuable s g ws with
  | none => s
  | some grp =>
    match illegal_ grp with
    | some d => State.park s g grp (illegal grp d) grp.pc (ws.headD 0)
    | none =>
      match park grp with
      | some p => State.park s g grp p grp.pc (ws.headD 0)
      | none => (accept grp).getD s

/-- PARTIAL_GROUP (R82). -/
def partialGroup (grp : Group) : Option ParkCause :=
  if grp.active = BitVec.ofNat 32 (2 ^ 32 - 1) then none else some { code := 0x05, detail := 0, addr := 0, lanes := 0, epoch := 0 }

/-- COUNTER_RANGE for a completion counter (R165). -/
def completionRange (x : Cell) (grp : Group) (en : Bool) (k : Nat) : Option ParkCause := counterRange (en && tagDiffers x grp k) k

def badDescriptor (n : Option Nat) : Option ParkCause := n.map (fun d => { code := 0x06, detail := d, addr := 0, lanes := 0, epoch := 0 })

/-- POISON for the lowest marked word of what the instruction reads at issue (R86). -/
def wordsPark (x : Cell) (rs : List (Nat × Nat)) : Option ParkCause :=
  let found := rs.filterMap (fun r => Cell.firstMarked x r.1 r.2)
  match found with
  | [] => none
  | a :: r => some { code := 0x04, detail := 0xFF, addr := r.foldl min a, lanes := 0, epoch := 0 }

/-- Some range leaves local memory. -/
def rangesEscape (rs : List (Nat × Nat)) : Bool := rs.any (fun r => decide (0 < r.2) && decide (localSize < r.1 + r.2))

/-- The lowest-numbered check that fails. -/
def failedCheck (cs : List (Nat × Bool)) : Option Nat := (cs.find? (·.2)).map (·.1)

/-! ### `mma` (R219 to R221) -/

/-- SLICE, DRAWER, CNT_EN, COUNTER of the instruction word (Tables 7.3 and 8.2). -/
def sliceOf (f : RegForm) : Nat := subField f 9 8
def drawerOf (f : RegForm) : Nat := subField f 7 6
def cntEn (f : RegForm) : Bool := subBit f 5
def counterArg (f : RegForm) : Option Nat := if cntEn f then some (subField f 4 0) else none

/-- Fields of the `mma` word against Table 7.3. -/
def mmaIllegal (f : RegForm) : Option Nat :=
  check (decide (f.gp ≠ 7 ∨ f.gn ≠ 0 ∨ f.ext ≠ 1 ∨ f.dst ≠ 0 ∨ f.dh ≠ 0 ∨ f.sc ≠ 0 ∨ f.hc ≠ 0 ∨ f.ua ≠ 1 ∨ f.ub ≠ 1 ∨ f.uc ≠ 0 ∨ f.ib ≠ 0
    ∨ 64 ≤ f.sa.toNat ∨ 64 ≤ f.sb.toNat)) 0

/-- The tile descriptor a uniform register names, where its address is good. -/
def Cell.tileAt (x : Cell) (v : Nat) : Option TileDesc := (descriptorAt 32 v).map (fun a => tileDesc (Cell.localNat x a 32))

/-- Words an `mma` reads at issue for one operand: its descriptor and, when that is not marked, its header. -/
def Cell.mmaReads (x : Cell) (v : Nat) : List (Nat × Nat) :=
  match descriptorAt 32 v with
  | none => []
  | some a =>
    let d := tileDesc (Cell.localNat x a 32)
    (a, 32) :: (if !Cell.localMarked x a 32 && d.sparse && decide (d.meta_ % 32 = 0) then [(d.meta_, 32)] else [])

/-- The checks of Table 7.6. -/
def Cell.mmaFailure (x : Cell) (o : Owner) (f : RegForm) (va vb : Nat) : Option Nat :=
  match Cell.tileAt x va, Cell.tileAt x vb with
  | some a, some b =>
    let sh := mmaShape f.x1.toNat
    let top := sh.k0 + sh.steps
    if a.reserved || b.reserved || sh.reserved || (!cntEn f && decide (subField f 4 0 ≠ 0)) then some 2
    else match pairing a b with
      | none => some 3
      | some p =>
        let di := Cell.issueOf x (sliceOf f) (drawerOf f)
        let f4 (d : TileDesc) : Bool := d.sparse && decide (d.fmt = fF4 ∧ p.kstep = 32)
        failedCheck [
          (4, decide (a.rows < sh.m ∨ b.rows < sh.n ∨ a.cols < top * p.kstep ∨ b.cols < top * p.kstep)),
          (5, TileDesc.misplaced a || TileDesc.misplaced b), (6, TileDesc.scalesBad a || TileDesc.scalesBad b),
          (7, rangesEscape (TileDesc.ranges a p sh.m top ++ TileDesc.ranges b p sh.n top)),
          (8, (a.sparse && b.sparse) || f4 a || f4 b || Cell.sparseBad x a sh.m top || Cell.sparseBad x b sh.n top),
          (9, !Cell.sliceUsable x (sliceOf f) o), (10, decide (64 < sh.m / 16 * (sh.n / Cell.sliceWidth x))),
          (11, !DrawerIssue.openFor di o || decide (16 * (di.mf + 1) ≠ sh.m ∨ 16 * (di.nf + 1) ≠ sh.n ∨ di.int ≠ p.int))]
  | _, _ => some 1

/-- The ranges of an `mma`: A's, then B's. -/
def Cell.mmaRanges (x : Cell) (f : RegForm) (va vb : Nat) : List (Nat × Nat) :=
  match Cell.tileAt x va, Cell.tileAt x vb with
  | some a, some b =>
    let sh := mmaShape f.x1.toNat
    let top := sh.k0 + sh.steps
    match pairing a b with
    | some p => TileDesc.ranges a p sh.m top ++ TileDesc.ranges b p sh.n top
    | none => []
  | _, _ => []

def mmaPark (x : Cell) (slot : Nat) (f : RegForm) (grp : Group) : Option ParkCause :=
  let va := Group.uni grp (f.sa.toNat % 64)
  let vb := Group.uni grp (f.sb.toNat % 64)
  firstSome [partialGroup grp, operandPark grp grp.active.toNat .uni f.sa.toNat true, operandPark grp grp.active.toNat .uni f.sb.toNat true,
    wordsPark x (Cell.mmaReads x va ++ Cell.mmaReads x vb), completionRange x grp (cntEn f) (subField f 4 0),
    badDescriptor (Cell.mmaFailure x (ownerOf slot grp) f va vb), reservedPark x (Cell.mmaRanges x f va vb ++ Cell.mmaReads x va ++ Cell.mmaReads x vb)]

/-- An op with nothing but its kind and place. -/
def ArrayOp.plain (kind : ArrayKind) (slice drawer : Nat) (owner : Owner) (insn addr : DWord) (counter : Option Nat) : ArrayOp :=
  { kind := kind, slice := slice, drawer := drawer, owner := owner, insn := insn, addr := addr, counter := counter, begun := false, inputs := []
    outputs := [], openBytes := [], writes := [], feeds := [], counts := default }

/-- `mma` (R219 to R221). -/
def execMma (g : GroupLoc) (f : RegForm) (s : State) : Host.Outcome State Fault Refusal :=
  let ws := regWords 0x80 f
  let s := State.reads s g ws (fun grp => [f.sa, f.sb].flatMap (fun r => descriptorRange 32 (Group.uni grp (r.toNat % 64))))
  let s := State.reads s g ws (fun grp => [f.sa, f.sb].flatMap (fun r => Cell.mmaReads (State.cell s g.cell) (Group.uni grp (r.toNat % 64))))
  let x := State.cell s g.cell
  .next (State.runUnit s g ws (fun _ => mmaIllegal f) (mmaPark x g.slot f) (fun grp =>
    if !Cell.arrayCredit x (g.slot / 16) then none
    else
      let va := Group.uni grp (f.sa.toNat % 64)
      let vb := Group.uni grp (f.sb.toNat % 64)
      let kind := ArrayKind.mma (BitVec.ofNat 256 (Cell.localNat x va 32)) (BitVec.ofNat 256 (Cell.localNat x vb 32)) f.x1
      let o := ArrayOp.plain kind (sliceOf f) (drawerOf f) (ownerOf g.slot grp) (regWord 0x80 f) (Group.insnAddr grp) (counterArg f)
      some (State.acceptArray s g (Group.advance grp 1) { o with inputs := Cell.mmaRanges x f va vb } true false)))

/-! ### The drawer instructions (R244 to R246) -/

def shapeDrawer : Shape :=
  { d := .none, a := .none, b := .none, c := .none, sub := 0x3FF, imm := false, reserved := false, group := true, carries := false }

/-- Fields of a drawer instruction word (R244); HA is ignored. -/
def drawerIllegal (sh : Shape) (f : RegForm) (grp : Group) : Option Nat := regIllegal sh grp.regs { f with ha := 0 }

/-- The checks of Table 8.4 that need no descriptor: CNT_EN and COUNTER, the slice, the drawer's state. -/
def counterBad (f : RegForm) (allowed : Bool) : Bool :=
  if allowed then !cntEn f && decide (subField f 4 0 ≠ 0) else decide (subField f 5 0 ≠ 0)

def Cell.openFailure (x : Cell) (o : Owner) (f : RegForm) (v : Nat) : Option Nat :=
  match descriptorAt 32 v with
  | none => some 1
  | some a =>
    let d := openDesc (Cell.localNat x a 32)
    failedCheck [(2, d.reserved || counterBad f true), (3, OpenDesc.formatBad d), (5, OpenDesc.misplaced d), (7, rangesEscape (OpenDesc.ranges d)),
      (9, !Cell.sliceUsable x (sliceOf f) o), (10, decide (64 < d.m / 16 * (d.n / Cell.sliceWidth x))),
      (11, decide ((Cell.issueOf x (sliceOf f) (drawerOf f)).status = .opened))]

/-- The checks of a `drn` (R246); those that need the drawer's M, N and KIND are made where it is not closed. -/
def Cell.drainFailure (x : Cell) (o : Owner) (f : RegForm) (v : Nat) : Option Nat :=
  match descriptorAt 64 v with
  | none => some 1
  | some a =>
    let d := epiDesc (Cell.localNat x a 64)
    let di := Cell.issueOf x (sliceOf f) (drawerOf f)
    let mine := DrawerIssue.openFor di o
    let known := decide (di.status ≠ .closed)
    let m := 16 * (di.mf + 1)
    let n := 16 * (di.nf + 1)
    failedCheck [(2, d.reserved || counterBad f true), (3, if known then EpiDesc.formatBad d di.int else EpiDesc.formatBad d true && EpiDesc.formatBad d false), (4, EpiDesc.paramsBad d),
      (5, EpiDesc.misaligned d || (known && EpiDesc.cramped d n)), (6, d.dsrc && !d.blk),
      (7, known && rangesEscape (EpiDesc.inputs d m n ++ EpiDesc.outputs d m n)), (9, !Cell.sliceUsable x (sliceOf f) o), (11, !mine)]

def Cell.plainFailure (x : Cell) (o : Owner) (f : RegForm) (needsOpen : Bool) : Option Nat :=
  let di := Cell.issueOf x (sliceOf f) (drawerOf f)
  failedCheck [(2, counterBad f false), (9, !Cell.sliceUsable x (sliceOf f) o),
    (11, decide (di.status = .closed ∨ di.owner ≠ o) || (needsOpen && decide (di.status ≠ .opened)))]

/-- What parks a `dopn` or a `drn` after ILLEGAL (R85, R246). -/
def drawerPark (x : Cell) (f : RegForm) (size : Nat) (failure : Nat → Option Nat) (ranges : Nat → List (Nat × Nat)) (grp : Group) : Option ParkCause :=
  let v := Group.uni grp (f.sa.toNat % 64)
  firstSome [partialGroup grp, operandPark grp grp.active.toNat .uni f.sa.toNat true,
    wordsPark x (match descriptorAt size v with
      | some a => [(a, size)]
      | none => []), completionRange x grp (cntEn f) (subField f 4 0), badDescriptor (failure v), reservedPark x (ranges v ++ descriptorRange size v)]

/-- `dopn` (R245): the drawer is open for the instructions that follow; a zeroed open returns its credit and increments its counter at
once. -/
def execDopn (g : GroupLoc) (f : RegForm) (s : State) : Host.Outcome State Fault Refusal :=
  let s := State.reads s g (regWords 0x84 f) (fun grp => descriptorRange 32 (Group.uni grp (f.sa.toNat % 64)))
  let x := State.cell s g.cell
  .next (State.runUnit s g (regWords 0x84 f) (drawerIllegal { shapeDrawer with a := .uni } f)
    (fun grp => drawerPark x f 32 (Cell.openFailure x (ownerOf g.slot grp) f) (fun v => OpenDesc.ranges (openDesc (Cell.localNat x v 32))) grp)
    (fun grp =>
      if !Cell.arrayCredit x (g.slot / 16) then none
      else
        let v := Cell.localNat x (Group.uni grp (f.sa.toNat % 64)) 32
        let d := openDesc v
        let zero := decide (d.pre = 0)
        let o := ArrayOp.plain (.opn (BitVec.ofNat 256 v)) (sliceOf f) (drawerOf f) (ownerOf g.slot grp) (regWord 0x84 f) (Group.insnAddr grp)
          (if zero then none else counterArg f)
        let di : DrawerIssue :=
          { status := .opened, owner := o.owner, mf := d.m / 16 - 1, nf := d.n / 16 - 1, int := d.int, insn := o.insn, addr := o.addr }
        let s := State.modCell s g.cell (fun x => Cell.setIssue x o.slice o.drawer di)
        let s := State.acceptArray s g (Group.advance grp 0) o true false
        some (match zero, counterArg f with
          | true, some k => State.increment s g.cell k 1
          | _, _ => s)))

/-- `drn` (R254, R258, R305): it belongs to the step in which it is accepted. -/
def execDrn (g : GroupLoc) (f : RegForm) (s : State) : Host.Outcome State Fault Refusal :=
  let s := State.reads s g (regWords 0x85 f) (fun grp => descriptorRange 64 (Group.uni grp (f.sa.toNat % 64)))
  let x := State.cell s g.cell
  let di := Cell.issueOf x (sliceOf f) (drawerOf f)
  let m := 16 * (di.mf + 1)
  let n := 16 * (di.nf + 1)
  let desc (v : Nat) : EpiDesc := epiDesc (Cell.localNat x v 64)
  .next (State.runUnit s g (regWords 0x85 f) (drawerIllegal { shapeDrawer with a := .uni } f)
    (fun grp => drawerPark x f 64 (Cell.drainFailure x (ownerOf g.slot grp) f)
      (fun v => EpiDesc.inputs (desc v) m n ++ EpiDesc.outputs (desc v) m n) grp)
    (fun grp =>
      if !Cell.arrayCredit x (g.slot / 16) then none
      else
        let v := Group.uni grp (f.sa.toNat % 64)
        let o := ArrayOp.plain (.drn (BitVec.ofNat 512 (Cell.localNat x v 64)) x.sieve.step) (sliceOf f) (drawerOf f) (ownerOf g.slot grp)
          (regWord 0x85 f) (Group.insnAddr grp) (counterArg f)
        let s := State.modCell s g.cell (fun x => Cell.setIssue x o.slice o.drawer { di with status := .draining })
        some (State.acceptArray s g (Group.advance grp 0) { o with inputs := EpiDesc.inputs (desc v) m n, outputs := EpiDesc.outputs (desc v) m n } true false)))

/-- `dcls` (R240, R241). -/
def execDcls (g : GroupLoc) (f : RegForm) (s : State) : Host.Outcome State Fault Refusal :=
  let x := State.cell s g.cell
  .next (State.runUnit s g (regWords 0x86 f) (drawerIllegal shapeDrawer f)
    (fun grp => firstSome [partialGroup grp, badDescriptor (Cell.plainFailure x (ownerOf g.slot grp) f true)])
    (fun grp =>
      if !Cell.arrayCredit x (g.slot / 16) then none
      else
        let o := ArrayOp.plain .cls (sliceOf f) (drawerOf f) (ownerOf g.slot grp) (regWord 0x86 f) (Group.insnAddr grp) none
        let s := State.modCell s g.cell (fun x => Cell.setIssue x o.slice o.drawer DrawerIssue.reset)
        some (State.acceptArray s g (Group.advance grp 0) o true false)))

/-- `dqry` (R266): the group waits for its status. -/
def execDqry (g : GroupLoc) (f : RegForm) (s : State) : Host.Outcome State Fault Refusal :=
  let x := State.cell s g.cell
  .next (State.runUnit s g (regWords 0x87 f) (drawerIllegal { shapeDrawer with d := .uniPair } f)
    (fun grp => firstSome [partialGroup grp, badDescriptor (Cell.plainFailure x (ownerOf g.slot grp) f false)])
    (fun grp =>
      if !Cell.arrayCredit x (g.slot / 16) then none
      else
        let o := ArrayOp.plain (.qry f.dst.toNat) (sliceOf f) (drawerOf f) (ownerOf g.slot grp) (regWord 0x87 f) (Group.insnAddr grp) none
        some (State.acceptArray s g (Group.advance grp 0) o true true)))

/-! ### `mslc` (R233) -/

/-- Issue an `mslc` whose operation is `k`; words with another operation change nothing here. -/
def State.runSlice (s : State) (k : Nat) (g : GroupLoc) (f : RegForm) : State :=
  let x := State.cell s g.cell
  let sh : Shape :=
    { d := .uni, a := .none, b := .uni, c := .none, sub := 3, imm := true, reserved := false, group := true, carries := false }
  if subField f 1 0 ≠ k then s
  else
    State.runUnit s g (regWords 0x81 f) (fun grp => regIllegal sh grp.regs f)
      (fun grp => firstSome [partialGroup grp,
        if k = 3 ∨ bit1 f.ib then none else operandPark grp grp.active.toNat .uni f.sb.toNat true])
      (fun grp =>
        if !Cell.arrayCredit x (g.slot / 16) then none
        else
          let b := if bit1 f.ib then f.x1.toNat % 2 ^ 32 else Group.uni grp (f.sb.toNat % 64)
          let o := ArrayOp.plain (.slc k (BitVec.ofNat 32 b) f.dst.toNat) 0 0 (ownerOf g.slot grp) (regWord 0x81 f) (Group.insnAddr grp) none
          some (State.acceptArray s g (Group.advance grp f.ext.toNat) o false true))

def execMslcConfig (g : GroupLoc) (f : RegForm) (s : State) : Host.Outcome State Fault Refusal := .next (State.runSlice s 0 g f)
def execMslcClaim (g : GroupLoc) (f : RegForm) (s : State) : Host.Outcome State Fault Refusal := .next (State.runSlice s 1 g f)
def execMslcRelease (g : GroupLoc) (f : RegForm) (s : State) : Host.Outcome State Fault Refusal := .next (State.runSlice s 2 g f)
def execMslcQuery (g : GroupLoc) (f : RegForm) (s : State) : Host.Outcome State Fault Refusal := .next (State.runSlice s 3 g f)

/-! ### Events of the array -/

/-- The slice can do work: it exists, or has instructions left of before, has ramped, and is not resetting; the cell's block and region are not fenced. -/
def State.sliceRuns (s : State) (c k : Nat) : Bool :=
  let x := State.cell s c
  let v := Cell.slice x k
  State.cellRuns s c && (decide (k < x.sliceCount) || Cell.sliceBusy x k) && decide (v.ramp = .run) && !v.resetting

def State.incrementOf (s : State) (c : Nat) (k : Option Nat) : State :=
  match k with
  | none => s
  | some k => State.increment s c k 1

def State.settleArray (s : State) (c : Nat) : State := State.modCell s c Cell.settleArray

/-- The oldest op of a slice (and drawer) that satisfies `p`. -/
def Cell.findOp (x : Cell) (k : Nat) (p : ArrayOp → Bool) : Option (Nat × ArrayOp) := x.array.find? (fun e => decide (e.2.slice = k) && p e.2)

/-- The cell as op `o` reads it: what R185, R230 and R262 leave undefined of its inputs are free values. -/
def State.opView (s : State) (c : Nat) (o : ArrayOp) : Cell × State :=
  State.unitView (State.spoil s c o.inputs) c o.inputs (o.openBytes.filter (inRanges o.inputs))

def ArrayOp.isMma (o : ArrayOp) : Bool :=
  match o.kind with
  | .mma _ _ _ => true
  | _ => false

/-- `MMA_OPERAND_RELEASE` (R217, R223, R224, R231, R232): the slice's oldest `mma` that has not been released has read its operands, its
sums go to its drawer, its credit returns and its counter is incremented. -/
def execMmaOperandRelease (c k : Nat) (s : State) : Host.Outcome State Fault Refusal :=
  let x := State.cell s c
  match Cell.findOp x k (fun o => ArrayOp.isMma o && !o.begun) with
  | none => .next s
  | some (id, o) =>
    match o.kind with
    | .mma a b sh =>
      let A := tileDesc a.toNat
      let B := tileDesc b.toNat
      let earlier := x.array.any (fun e => decide (e.1 < id ∧ e.2.slice = k ∧ e.2.drawer = o.drawer) && !(ArrayOp.isMma e.2) && (match e.2.kind with
        | .slc _ _ _ => false
        | _ => true))
      if !State.sliceRuns s c k || earlier then .next s
      else match pairing A B with
        | none => .next s
        | some p =>
          let v := State.opView s c o
          let r := runMma v.1 A B (mmaShape sh.toNat) p (Cell.sliceWidth x) (Cell.drawer x k o.drawer)
          let long := r.1.long && !(Cell.drawer x k o.drawer).long
          let s1 := State.modCell v.2 c (fun x =>
            { Cell.setDrawer x k o.drawer r.1 with array := NMap.insert x.array id { o with begun := true, openBytes := [], inputs := [] } })
          let s1 := State.incrementOf s1 c o.counter
          let s1 := State.count s1 .mmaDone 0 c 1
          let s1 := State.countUnits s1 .arrayWaves (4 * c + k) 16 r.2.waves
          let s1 := if r.2.poison then State.count s1 .arrayPoison 0 c 1 else s1
          let s1 := if long then State.count s1 .drawerLong 0 c 1 else s1
          let s1 := if r.2.sparse = 0 then s1 else State.count s1 .sparseTiles 0 c r.2.sparse
          let s1 := if r.2.dense = 0 then s1 else State.count s1 .denseTiles 0 c r.2.dense
          let s1 := if r.2.drops = 0 then s1 else State.count s1 .sparseDrop 0 c r.2.drops
          let s1 := if r.2.bad = 0 then s1 else State.count s1 .sparseBad 0 c r.2.bad
          .next (State.settleArray s1 c)
    | _ => .next s

/-- `DRAWER_SETTLED` (R254, R266): the drawer's oldest `mma` that was released counts as completed. -/
def execDrawerSettled (c k d : Nat) (s : State) : Host.Outcome State Fault Refusal :=
  match Cell.findOp (State.cell s c) k (fun o => ArrayOp.isMma o && o.begun && decide (o.drawer = d)) with
  | none => .next s
  | some (id, _) => .next (State.settleArray (State.modCell s c (fun x => Cell.dropOp x id)) c)

/-- `DOPN_PRELOAD_DONE` (R245). -/
def execDopnPreloadDone (c k d : Nat) (s : State) : Host.Outcome State Fault Refusal :=
  let x := State.cell s c
  match Cell.findOp x k (fun o => decide (o.drawer = d)) with
  | none => .next s
  | some (id, o) =>
    match o.kind with
    | .opn v =>
      if !State.sliceRuns s c k || !Cell.oldestOf x id k d then .next s
      else
        let s0 := State.spoil s c (OpenDesc.ranges (openDesc v.toNat))
        let w := State.unitView s0 c (OpenDesc.ranges (openDesc v.toNat)) []
        let s1 := State.modCell w.2 c (fun x => Cell.dropOp (Cell.setDrawer x k d (OpenDesc.drawer (openDesc v.toNat) w.1 o.owner)) id)
        .next (State.settleArray (State.incrementOf s1 c o.counter) c)
    | _ => .next s

/-- `DRAIN_START` (R254, R259 to R264, R305): the drawer has settled; a drain with a scale-table slot waits for the slot's scale. -/
def execDrainStart (c k d : Nat) (s : State) : Host.Outcome State Fault Refusal :=
  let x := State.cell s c
  match Cell.findOp x k (fun o => decide (o.drawer = d)) with
  | none => .next s
  | some (id, o) =>
    match o.kind with
    | .drn v n =>
      let e := epiDesc v.toNat
      if !State.sliceRuns s c k || o.begun || !Cell.oldestOf x id k d then .next s
      else
        let scale := if e.dsrc then Cell.scaleFor x e.slot n e.fmt else none
        if e.dsrc && scale.isNone then .next (State.modCell s c (fun x => Cell.askScale x e.slot n))
        else
          let w := State.opView s c o
          let r := EpiDesc.drain e w.1 (Cell.drawer x k d) scale
          let counts := { r.counts with poison := decide (0 < r.poisoned), drops := r.poisoned }
          let o1 := { o with begun := true, openBytes := o.openBytes.filter (inRanges o.outputs), writes := r.writes, feeds := r.feeds, counts := counts }
          .next (State.settleArray (State.modCell w.2 c (fun x => { x with array := NMap.insert x.array id o1 })) c)
    | _ => .next s

/-- Perform the writes of a unit in local memory; what copies and array instructions of these bytes read or leave is undefined (R185,
R230, R262). Of two drains whose outputs overlap the later one's value stands (`drain`). -/
def Cell.perform (x : Cell) (drain : Bool) (ws : List LocalWrite) : Cell :=
  ws.foldl (fun x w =>
    let as := tabulate w.bytes.length (fun i => w.addr + i)
    let words := wordBytes as
    let isDrain (o : ArrayOp) : Bool := (match o.kind with
      | .drn _ _ => drain
      | _ => false)
    let x := Cell.disturbCopies (Cell.writeMarked x w.addr w.bytes w.marks []) as
    { x with array := x.array.map (fun e => (e.1, ArrayOp.disturb e.2 words (!isDrain e.2))) }) x

def writtenRanges (ws : List LocalWrite) : List (Nat × Nat) := ws.map (fun w => (w.addr, w.bytes.length))

/-- The sticky bits of a slot (R269): POISON, EMPTY, NAN, SAT in bits 3 to 0. -/
def Cell.stick (x : Cell) (slot : Nat) (k : ChainCounts) : Cell :=
  let v := b2n (decide (0 < k.sat)) + 2 * b2n (k.stickyNan || decide (0 < k.nanZero)) + 4 * b2n (decide (0 < k.empty)) + 8 * b2n k.poison
  { x with sticky := NMap.upd x.sticky 0 slot (fun w => w ||| v) }

/-- The group of an owner still holds its slot. -/
def Cell.stickOwner (x : Cell) (o : Owner) (k : ChainCounts) : Cell := if (Cell.ownerGroup x o).isSome then Cell.stick x o.slot k else x

/-- The conversions a drain or a chain instruction counts (R210, R293). -/
def State.countConversions (s : State) (c : Nat) (k : ChainCounts) : State :=
  let s := if k.sat = 0 then s else State.count s .chainSat 0 c k.sat
  let s := if k.nanZero = 0 then s else State.count s .chainNanZero 0 c k.nanZero
  if k.nan = 0 then s else State.count s .chainNan 0 c k.nan

/-- `DRAIN_COMPLETE` (R261, R262, R264): the outputs are performed; credit, counter, and the drawer closes or opens anew; its issue-time state stays
DRAINING while a later `drn` is accepted (R241). -/
def execDrainComplete (c k d : Nat) (s : State) : Host.Outcome State Fault Refusal :=
  let x := State.cell s c
  match Cell.findOp x k (fun o => decide (o.drawer = d)) with
  | none => .next s
  | some (id, o) =>
    match o.kind with
    | .drn v _ =>
      if !o.begun || !State.cellRuns s c then .next s
      else
        let e := epiDesc v.toNat
        let mine := o.openBytes.filter (inRanges o.outputs)
        let s1 := State.modCell s c (fun x => Cell.freeWords (Cell.perform (Cell.dropOp x id) true o.writes) s.freeCount mine)
        let s1 := State.spoil { s1 with freeCount := s.freeCount + wordsDraw mine } c (writtenRanges o.writes)
        let s1 := State.countConversions s1 c o.counts
        let s1 := State.count s1 .drainDone 0 c 1
        let s1 := if o.counts.drops = 0 then s1 else State.count s1 .drainPoison 0 c o.counts.drops
        let s1 := State.feed s1 c e.tag o.feeds
        let s1 := if e.blk && e.dsrc then State.saturate s1 c e.slot o.counts.sat else s1
        let s1 := State.modCell s1 c (fun x =>
          let x := Cell.dropOp (Cell.stickOwner x o.owner o.counts) id
          let x := Cell.setDrawer x k d { Cell.drawer x k d with opened := false }
          let later := x.array.any (fun e => decide (e.2.slice = k ∧ e.2.drawer = d) && (match e.2.kind with
            | .drn _ _ => true
            | _ => false))
          if (Cell.issueOf x k d).status = .draining ∧ !later then Cell.setIssue x k d DrawerIssue.reset else x)
        .next (State.settleArray (State.incrementOf s1 c o.counter) c)
    | _ => .next s

/-- `DRAWER_CLOSE` (R240, R243): a `dcls`, or the closing of a drawer whose owner is gone, takes effect once the drawer's earlier
instructions are complete. -/
def execDrawerClose (c k d : Nat) (s : State) : Host.Outcome State Fault Refusal :=
  let x := State.cell s c
  match Cell.findOp x k (fun o => decide (o.drawer = d)) with
  | none => .next s
  | some (id, o) =>
    if o.kind = .cls then
      let s1 := State.modCell s c (fun x => Cell.dropOp (Cell.setDrawer x k d { Cell.drawer x k d with opened := false }) id)
      .next (State.settleArray (State.count s1 .drawerDiscard 0 c 1) c)
    else .next s

/-- A group has left: its open drawers close behind their accepted instructions (R243). -/
def State.closeDrawers (s : State) (c : Nat) (o : Owner) : State :=
  (State.cell s c).slices.foldl (fun s e =>
    e.2.issue.foldl (fun s d =>
      if DrawerIssue.openFor d.2 o then
        let op := ArrayOp.plain .cls e.1 d.1 o d.2.insn d.2.addr none
        State.modCell { s with nextId := s.nextId + 1 } c (fun x =>
          Cell.setIssue { x with array := NMap.insert x.array s.nextId { op with begun := true } } e.1 d.1 DrawerIssue.reset)
      else s) s) s

/-- `SLICE_AUTO_RELEASE` (R234): the owner is gone, its last instruction has passed operand release and its drawers are closed. -/
def execSliceAutoRelease (c k : Nat) (s : State) : Host.Outcome State Fault Refusal :=
  let x := State.cell s c
  let v := Cell.slice x k
  match v.claimed with
  | none => .next s
  | some o =>
    if (Cell.ownerGroup x o).isSome ∨ x.array.any (fun e => decide (e.2.slice = k ∧ e.2.owner = o) && !(ArrayOp.isMma e.2 && e.2.begun))
        ∨ v.drawers.any (fun d => d.2.opened && decide (d.2.owner = o)) then .next s
    else .next (State.settleArray (State.modCell s c (fun x => Cell.setSlice x k { v with claimed := none })) c)

/-! ### Slice faults (R235, R236, R263) -/

/-- The stamps of the last day, in nanoseconds (R520). -/
def dayOf (stamps : List Stamp) (now : Nat) : List Stamp := stamps.filter (fun t => decide ((now : Int) < t + 86400000000000))

/-- A cell is marked RETIRING (R520). -/
def State.retireCell (s : State) (c : Nat) : State :=
  if (State.cell s c).retiring then s
  else
    let s := State.modCell s c (fun x => { x with retiring := true })
    State.recoveryEvent (State.raise s 0x65 3 c 0) 6

/-- The owners of a slice (R235): its claimant or, with one slice, every group with an instruction queued or a drawer open. -/
def Cell.faultOwners (x : Cell) (k : Nat) : List Owner :=
  let v := Cell.slice x k
  if x.sliceCount = 1 then
    dedupe (x.array.map (fun e => e.2.owner) ++ (v.issue.filter (fun d => decide (d.2.status ≠ .closed))).map (fun d => d.2.owner))
  else v.claimed.toList

/-- Address and first word of an owner's failed instruction (R87): the oldest that the fault abandons, else the `dopn` of its lowest open drawer; 0 where
the claimant of a slice has neither (DESIGN CHOICE, assumption 94). -/
def Cell.failedInsn (x : Cell) (k : Nat) (o : Owner) : DWord × DWord :=
  match x.array.find? (fun e => decide (e.2.slice = k ∧ e.2.owner = o) && (match e.2.kind with
    | .slc _ _ _ => false
    | _ => true)) with
  | some e => (e.2.addr, e.2.insn)
  | none =>
    match (Cell.slice x k).issue.find? (fun d => DrawerIssue.openFor d.2 o) with
    | some d => (d.2.addr, d.2.insn)
    | none => (0, 0)

/-- An owner takes SLICE_FAULT (R87): it parks now, or keeps the fault pending while it is parked; of two slices that fail meanwhile the later is kept
(DESIGN CHOICE, assumption 94). -/
def State.faultOwner (s : State) (c k : Nat) (o : Owner) (at_ : DWord × DWord) : State :=
  let x := State.cell s c
  let g : GroupLoc := { cell := c, slot := o.slot }
  match Cell.ownerGroup x o with
  | none => s
  | some grp =>
    let asked := x.array.any (fun e => decide (e.2.owner = o) && (match e.2.kind with
      | .slc _ _ _ => true
      | .qry _ => true
      | _ => false))
    let grp := if grp.hold = .unit ∧ !asked then { grp with hold := .none } else grp
    if (NMap.find x.parkList o.slot).isSome then State.setGroup s g { grp with pendingFault := some (k, at_.1, at_.2) }
    else State.park s g grp { code := 0x0B, detail := k, addr := at_.1.toNat, lanes := 0, epoch := 0 } grp.pc at_.2

/-- The free values of the outputs of the drains a fault abandons (R263). -/
def State.abandonDrain (s : State) (c : Nat) (o : ArrayOp) : State :=
  match o.kind with
  | .drn _ _ =>
    let as := dedupe (o.outputs.flatMap (fun r => tabulate r.2 (fun i => r.1 + i)))
    State.modCell { s with freeCount := s.freeCount + wordsDraw as } c (fun x => Cell.freeWords x s.freeCount as)
  | _ => s

/-- The steps of R235. -/
def State.failSlice (s : State) (c k : Nat) : State :=
  let x := State.cell s c
  let owners := Cell.faultOwners x k
  let at_ := owners.map (fun o => (o, Cell.failedInsn x k o))
  let gone := x.array.filter (fun e => decide (e.2.slice = k) && (match e.2.kind with
    | .slc _ _ _ => false
    | _ => true))
  let s := gone.foldl (fun s e => State.abandonDrain s c e.2) s
  let s := State.modCell s c (fun x =>
    let v := Cell.slice x k
    let x := { x with array := x.array.filter (fun e => gone.all (fun g => decide (g.1 ≠ e.1))), sliceFaults := dayOf x.sliceFaults s.timebase ++ [(s.timebase : Stamp)] }
    Cell.setSlice x k { v with ramp := .idle, rows := 0, resetting := true, issue := [], drawers := [] })
  let s := gone.foldl (fun s e => if ArrayOp.isMma e.2 && e.2.begun then s else State.incrementOf s c e.2.counter) s
  let s := at_.foldl (fun s e => State.faultOwner s c k e.1 e.2) s
  let s := State.unhold (State.withdraw s (fun o => decide (o = .slice c k))) (fun i => decide (i = .slice c k))
  let s := State.count s .sliceFaults 0 (4 * c + k) 1
  let s := State.raise s 0x64 5 (4 * c + k) 0
  let s := State.recoveryEvent (State.flag s 3) 5
  let s := if 2 ≤ (State.cell s c).sliceFaults.length then State.retireCell s c else s
  State.settleArray s c

/-- `SLICE_FAULT` (R235). -/
def execSliceFault (c k : Nat) (s : State) : Host.Outcome State Fault Refusal :=
  let x := State.cell s c
  if State.cellRuns s c && decide (k < x.sliceCount) && !(Cell.slice x k).resetting then .next (State.failSlice s c k) else .next s

/-- `WAVE_WATCHDOG_EXPIRY` (R235): a wave of an `mma` in flight has not completed, which is a failure of the slice. -/
def execWaveWatchdogExpiry (c k : Nat) (s : State) : Host.Outcome State Fault Refusal :=
  if State.sliceRuns s c k && (Cell.findOp (State.cell s c) k ArrayOp.isMma).isSome then .next (State.failSlice s c k) else .next s

/-- `SLICE_RESET_DONE` (R235): instructions accepted meanwhile ask for their ramp. -/
def execSliceResetDone (c k : Nat) (s : State) : Host.Outcome State Fault Refusal :=
  if (Cell.slice (State.cell s c) k).resetting then
    .next (State.settleArray (State.modCell s c (fun x => Cell.modSlice x k (fun v => { v with resetting := false }))) c)
  else .next s

end Sys2Proof.Machine
end

