-- ==== Sys2Proof/Machine/ChainDesc.lean ====
section
/-!
DEFINITION. Descriptors of the chain unit's instructions (Tables 9.2, 11.4 to 11.6), their ranges, and their checks (Tables 9.4 and 11.7).
-/

namespace Sys2Proof.Machine

/-! ### `chn` -/

/-- A chain descriptor (Table 9.2). -/
structure ChainDesc where
  opc : Nat
  rows : Nat
  cols : Nat
  x : Nat
  xpitch : Nat
  xfmt : Nat
  xblk : Bool
  xscale : Nat
  xspitch : Nat
  y : Nat
  ypitch : Nat
  yfmt : Nat
  ymode : Nat
  d : Nat
  dpitch : Nat
  dfmt : Nat
  dblk : Bool
  dscale : Nat
  dspitch : Nat
  round : Nat
  sat : Bool
  dsrc : Bool
  slot : Nat
  ma : Nat
  cmp : Nat
  msrc : Nat
  mask : Nat
  mpitch : Nat
  selk : Bool
  fn : Nat
  red : Nat
  normk : Bool
  z : Nat
  zfmt : Nat
  rs : Nat
  rsEn : Bool
  status : Nat
  stEn : Bool
  tagEn : Bool
  tag : Nat
  grad : Bool
  key : Nat
  base : Nat
  reserved : Bool
  deriving DecidableEq, Repr, Inhabited

/-- The operation classes (Table 9.3). -/
def opMap : Nat := 0
def opReduce : Nat := 1
def opSoftmax : Nat := 2
def opNorm : Nat := 3
def opLoss : Nat := 4
def opOrth : Nat := 5

def chainDesc (v : Nat) : ChainDesc :=
  { opc := bits v 511 509, rows := bits v 508 493, cols := bits v 492 477, x := bits v 476 458, xpitch := bits v 457 442
    xfmt := bits v 441 438, xblk := bitOf v 437, xscale := bits v 436 418, xspitch := bits v 417 406
    y := bits v 405 387, ypitch := bits v 386 371, yfmt := bits v 370 367, ymode := bits v 366 365
    d := bits v 364 346, dpitch := bits v 345 330, dfmt := bits v 329 326, dblk := bitOf v 325, dscale := bits v 324 306
    dspitch := bits v 305 294, round := bits v 293 292, sat := bitOf v 291, dsrc := bitOf v 290, slot := bits v 289 278
    ma := bits v 277 275, cmp := bits v 274 272, msrc := bits v 271 270, mask := bits v 269 251, mpitch := bits v 250 235
    selk := bitOf v 234, fn := bits v 233 231, red := bits v 230 228, normk := bitOf v 227, z := bits v 226 208
    zfmt := bits v 207 204, rs := bits v 203 185, rsEn := bitOf v 184, status := bits v 183 165, stEn := bitOf v 164
    tagEn := bitOf v 163, tag := bits v 162 159, grad := bitOf v 158, key := bits v 127 64, base := bits v 63 0
    reserved := decide (6 ≤ bits v 511 509 ∨ bits v 157 128 ≠ 0 ∨ bits v 293 292 = 3 ∨ bits v 277 275 = 7 ∨ bits v 233 231 = 7
      ∨ 6 ≤ bits v 230 228 ∨ 10 ≤ bits v 441 438 ∨ 10 ≤ bits v 370 367 ∨ 10 ≤ bits v 329 326 ∨ 10 ≤ bits v 207 204) }

/-- The integer path (R278). -/
def ChainDesc.integer (d : ChainDesc) : Bool := decide (d.xfmt = fI32 ∧ d.dfmt = fI32 ∧ (d.ymode = 0 ∨ d.yfmt = fI32))

/-- A MAP of pure conversion (R277, check 0x03). -/
def ChainDesc.pure_ (d : ChainDesc) : Bool := decide (d.opc = opMap ∧ d.ma = 0 ∧ d.fn = 0 ∧ d.cmp = 0 ∧ d.msrc = 0)

/-- The class writes D. -/
def ChainDesc.writesD (d : ChainDesc) : Bool := decide (d.opc ≠ opLoss) || d.grad

/-- The bitmap is read. -/
def ChainDesc.masked (d : ChainDesc) : Bool := decide (d.msrc % 2 = 1)

def blockFormat (f : Nat) : Bool := decide (f = fE4 ∨ f = fE5 ∨ f = fF4 ∨ f = fI8)
def wideFloat (f : Nat) : Bool := decide (f = fS32 ∨ f = fH16 ∨ f = fB16)

/-- A memory range of an instruction with the pitch and the element size that check 0x09 compares. -/
structure ChainRange where
  start : Nat
  len : Nat
  pitch : Nat
  size : Nat
  deriving DecidableEq, Repr, Inhabited

def ChainRange.overlaps (a b : ChainRange) : Bool := decide (a.start < b.start + b.len ∧ b.start < a.start + a.len)

/-- An output range in an input range, other than in place (check 0x09). -/
def ChainRange.clash (o i : ChainRange) : Bool :=
  ChainRange.overlaps o i && !decide (o.start = i.start ∧ o.pitch = i.pitch ∧ o.size = i.size)

def rangeOf (use : Bool) (start len pitch size : Nat) : List ChainRange :=
  if use then [{ start := start, len := len, pitch := pitch, size := size }] else []

def ChainDesc.yRange (d : ChainDesc) : List ChainRange :=
  match d.ymode with
  | 0 => []
  | 1 => [{ start := d.y, len := (d.rows - 1) * d.ypitch + rowBytes d.cols d.yfmt, pitch := d.ypitch, size := formatBits d.yfmt }]
  | 2 => [{ start := d.y, len := rowBytes d.cols d.yfmt, pitch := 0, size := formatBits d.yfmt }]
  | _ => [{ start := d.y, len := rowBytes d.rows d.yfmt, pitch := 0, size := formatBits d.yfmt }]

/-- The accumulator of LOSS. -/
def ChainDesc.accRange (d : ChainDesc) : List ChainRange := rangeOf (decide (d.opc = opLoss)) d.z 16 0 128

/-- Input ranges (R271). -/
def ChainDesc.inputs (d : ChainDesc) : List ChainRange :=
  rangeOf true d.x ((d.rows - 1) * d.xpitch + rowBytes d.cols d.xfmt) d.xpitch (formatBits d.xfmt) ++ ChainDesc.yRange d
    ++ rangeOf (ChainDesc.masked d) d.mask ((d.rows - 1) * d.mpitch + (d.cols + 7) / 8) d.mpitch 1
    ++ rangeOf d.xblk d.xscale ((d.rows - 1) * d.xspitch + d.cols / 16) d.xspitch 8
    ++ rangeOf (decide (d.opc = opNorm ∧ d.z ≠ 0)) d.z (rowBytes d.cols d.zfmt) 0 (formatBits d.zfmt) ++ ChainDesc.accRange d

/-- Output ranges (R271). -/
def ChainDesc.outputs (d : ChainDesc) : List ChainRange :=
  let one := decide (d.opc = opReduce)
  rangeOf (ChainDesc.writesD d) d.d (if one then rowBytes d.rows d.dfmt else (d.rows - 1) * d.dpitch + rowBytes d.cols d.dfmt)
      (if one then 0 else d.dpitch) (formatBits d.dfmt)
    ++ rangeOf (ChainDesc.writesD d && d.dblk) d.dscale (if one then (d.rows + 15) / 16 else (d.rows - 1) * d.dspitch + d.cols / 16)
      (if one then 0 else d.dspitch) 8
    ++ rangeOf d.rsEn d.rs (8 * d.rows) 8 64 ++ rangeOf d.stEn d.status d.rows 1 8 ++ ChainDesc.accRange d

def ChainDesc.formatBad (d : ChainDesc) : Bool :=
  (d.xblk && !blockFormat d.xfmt) || (d.dblk && !blockFormat d.dfmt) || (decide (d.dfmt = fF4) && !d.dblk) || (d.dsrc && !d.dblk)
    || (decide (d.xfmt = fS64 ∨ d.dfmt = fS64) && !ChainDesc.pure_ d)
    || (ChainDesc.integer d && (decide ((d.ma ≠ 0 ∧ d.ma ≠ 2) ∨ d.fn ≠ 0 ∨ d.cmp ≠ 0) || d.dblk))
    || (decide (d.opc = opLoss ∨ d.opc = opOrth) && !wideFloat d.xfmt) || decide (d.opc = opOrth ∧ d.dfmt ≠ fS32)
    || decide (d.round ≠ 0 ∧ d.dfmt = fS64) || (decide (d.ymode ≠ 0) && !wideFloat d.yfmt && decide (d.yfmt ≠ fI32))
    || (decide (d.opc = opNorm) && !wideFloat d.zfmt)

def ChainDesc.shapeBad (d : ChainDesc) : Bool :=
  decide (d.rows = 0 ∨ d.cols = 0 ∨ (2 ≤ d.opc ∧ d.opc ≤ 4 ∧ 4096 < d.cols) ∨ (d.opc = opOrth ∧ 128 < d.rows)
    ∨ ((d.xfmt = fF4 ∨ d.dfmt = fF4) ∧ d.cols % 2 = 1)) || ((d.xblk || d.dblk) && decide (d.cols % 16 ≠ 0))

/-- Alignment and pitches of the operands that are used (check 0x05). -/
def ChainDesc.misplaced (d : ChainDesc) : Bool :=
  let w := ChainDesc.writesD d
  let red := decide (d.opc = opReduce)
  decide (d.x % 4 ≠ 0 ∨ d.xpitch % 4 ≠ 0 ∨ d.xpitch < rowBytes d.cols d.xfmt)
    || (w && (decide (d.d % 4 ≠ 0 ∨ d.dpitch % 4 ≠ 0) || (!red && decide (d.dpitch < rowBytes d.cols d.dfmt))))
    || (red && decide (d.dpitch ≠ 0)) || (d.xblk && decide (d.xscale % 4 ≠ 0 ∨ d.xspitch % 4 ≠ 0 ∨ d.xspitch < d.cols / 16))
    || (w && d.dblk && (decide (d.dscale % 4 ≠ 0) || (!red && decide (d.dspitch % 4 ≠ 0 ∨ d.dspitch < d.cols / 16))))
    || (decide (d.ymode ≠ 0) && decide (d.y % 4 ≠ 0)) || (decide (d.ymode = 1) && decide (d.ypitch % 4 ≠ 0 ∨ d.ypitch < rowBytes d.cols d.yfmt))
    || (ChainDesc.masked d && decide (d.mask % 4 ≠ 0 ∨ d.mpitch % 4 ≠ 0 ∨ d.mpitch < (d.cols + 7) / 8))
    || (d.rsEn && decide (d.rs % 8 ≠ 0)) || decide (d.opc = opLoss ∧ d.z % 16 ≠ 0)

def s64Finite (v : Nat) : Bool :=
  match decodeNum fS64 v with
  | .fin _ _ _ => true
  | _ => false

def ChainDesc.immediatesBad (d : ChainDesc) (k3 kd : Nat) : Bool :=
  (decide (d.opc = opNorm) && !(fCmp 4 k3 0 && fCmp 2 k3 0x7F800000)) || (d.selk && decide (d.opc ≠ opMap))
    || (decide (d.opc = opLoss) && !s64Finite kd)

def ChainDesc.yBad (d : ChainDesc) : Bool :=
  decide (2 ≤ d.ma ∧ d.ma ≤ 6 ∧ d.ymode = 0) || decide (d.opc = opLoss ∧ d.ymode = 0)
    || (decide (d.ymode ≠ 0 ∧ d.ma ≤ 1) && !decide (d.opc = opNorm ∧ d.ymode = 2) && !decide (d.opc = opLoss ∧ d.ymode = 3 ∧ d.yfmt = fI32))

def ChainDesc.optionBad (d : ChainDesc) : Bool :=
  (d.rsEn && decide (d.opc = opMap ∨ d.opc = opReduce ∨ d.opc = opOrth)) || (d.grad && decide (d.opc ≠ opLoss))
    || decide (d.fn ≠ 0 ∧ d.opc ≠ opMap) || decide (2 ≤ d.ma ∧ 2 ≤ d.opc) || decide (d.msrc ≠ 0 ∧ d.opc = opOrth)
    || decide (d.red ≠ 0 ∧ d.opc ≠ opReduce) || ((d.normk || decide (d.zfmt ≠ 0)) && decide (d.opc ≠ opNorm))

def ChainRange.pair (r : ChainRange) : Nat × Nat := (r.start, r.len)

/-- The checks of Table 9.4 from 0x03 on. -/
def ChainDesc.checks (d : ChainDesc) (k3 kd : Nat) : List (Nat × Bool) :=
  [(3, ChainDesc.formatBad d), (4, ChainDesc.shapeBad d), (5, ChainDesc.misplaced d), (6, ChainDesc.immediatesBad d k3 kd),
    (7, rangesEscape ((ChainDesc.inputs d ++ ChainDesc.outputs d).map ChainRange.pair)), (8, ChainDesc.yBad d),
    (9, (ChainDesc.outputs d).any (fun o => (ChainDesc.inputs d).any (ChainRange.clash o))), (10, ChainDesc.optionBad d)]

/-! ### `spk` -/

/-- A pack descriptor (Table 11.4). -/
structure PackDesc where
  src : Nat
  spitch : Nat
  rows : Nat
  cols : Nat
  fmt : Nat
  ndecl : Nat
  stagger : Bool
  base : Nat
  pitch : Nat
  meta_ : Nat
  mpitch : Nat
  reserved : Bool
  deriving DecidableEq, Repr, Inhabited

def packDesc (v : Nat) : PackDesc :=
  { src := bits v 511 493, spitch := bits v 492 477, rows := bits v 476 468, cols := bits v 467 452, fmt := bits v 451 448
    ndecl := bits v 447 444, stagger := bitOf v 443, base := bits v 439 421, pitch := bits v 420 405, meta_ := bits v 404 386
    mpitch := bits v 385 370, reserved := decide (bits v 442 440 ≠ 0 ∨ bits v 369 0 ≠ 0) }

/-- Elements of a K-step in a format (Table 7.1). -/
def kstepOf (fmt : Nat) : Nat := 256 / formatBits fmt

def PackDesc.tiles (d : PackDesc) : Nat := (d.cols + kstepOf d.fmt - 1) / kstepOf d.fmt
def PackDesc.trows (d : PackDesc) : Nat := (d.rows + 15) / 16

def PackDesc.inputs (d : PackDesc) : List (Nat × Nat) := [(d.src, (d.rows - 1) * d.spitch + rowBytes d.cols d.fmt)]
def PackDesc.outputs (d : PackDesc) : List (Nat × Nat) :=
  [(d.base, 16 * PackDesc.trows d * d.pitch), (d.meta_, 32 + (PackDesc.trows d - 1) * d.mpitch + 8 * PackDesc.tiles d)]

def PackDesc.misplaced (d : PackDesc) : Bool :=
  let t := PackDesc.tiles d
  decide (d.base % 32 ≠ 0 ∨ d.meta_ % 32 ≠ 0 ∨ d.pitch % 32 ≠ 0 ∨ d.pitch < 32 * t + 32 * b2n d.stagger ∨ d.mpitch % 8 ≠ 0 ∨ d.mpitch < 8 * t
    ∨ d.spitch < rowBytes d.cols d.fmt ∨ d.src % 4 ≠ 0)

/-- Two lists of ranges share a byte. -/
def pairsMeet (a b : List (Nat × Nat)) : Bool := a.any (fun x => b.any (fun y => decide (x.1 < y.1 + y.2 ∧ y.1 < x.1 + x.2)))

def PackDesc.checks (d : PackDesc) : List (Nat × Bool) :=
  [(3, !(decide (d.fmt = fB16 ∨ d.fmt = fH16) || blockFormat d.fmt)),
    (4, decide (d.rows = 0 ∨ 256 < d.rows ∨ d.cols = 0 ∨ (d.fmt = fF4 ∧ d.cols % 2 = 1))), (5, PackDesc.misplaced d),
    (7, rangesEscape (PackDesc.inputs d ++ PackDesc.outputs d)), (9, pairsMeet (PackDesc.outputs d) (PackDesc.inputs d))]

/-! ### `sgl` -/

/-- A select descriptor (Table 11.5); `pad` is the number of entries. -/
structure SelectDesc where
  src : Nat
  count : Nat
  list : Nat
  cap : Nat
  abs : Bool
  pad : Nat
  nout : Nat
  reserved : Bool
  deriving DecidableEq, Repr, Inhabited

def selectDesc (v : Nat) : SelectDesc :=
  { src := bits v 255 237, count := bits v 236 221, list := bits v 220 202, cap := bits v 201 186, abs := bitOf v 185
    pad := (match bits v 184 183 with
      | 0 => 1
      | 1 => 16
      | 2 => 32
      | _ => 64)
    nout := bits v 182 164, reserved := decide (bits v 163 0 ≠ 0) }

def roundUp (n m : Nat) : Nat := (n + m - 1) / m * m

def SelectDesc.inputs (d : SelectDesc) : List (Nat × Nat) := [(d.src, 4 * d.count)]
def SelectDesc.outputs (d : SelectDesc) : List (Nat × Nat) := [(d.list, 4 * roundUp d.cap d.pad), (d.nout, 8)]

def SelectDesc.checks (d : SelectDesc) (k0 : Nat) : List (Nat × Bool) :=
  [(4, decide (d.count = 0 ∨ d.cap = 0)), (5, decide (d.src % 4 ≠ 0 ∨ d.list % 4 ≠ 0 ∨ d.nout % 8 ≠ 0)), (6, s32Nan k0),
    (7, rangesEscape (SelectDesc.inputs d ++ SelectDesc.outputs d)), (9, pairsMeet (SelectDesc.outputs d) (SelectDesc.inputs d))]

/-! ### `sxp` -/

/-- An expand descriptor (Table 11.6). -/
structure ExpandDesc where
  src : Nat
  spitch : Nat
  rows : Nat
  cols : Nat
  fmt : Nat
  list : Nat
  dst : Nat
  dpitch : Nat
  limit : Nat
  fill : Bool
  reserved : Bool
  deriving DecidableEq, Repr, Inhabited

def expandDesc (v : Nat) : ExpandDesc :=
  { src := bits v 511 493, spitch := bits v 492 477, rows := bits v 476 461, cols := bits v 460 445, fmt := bits v 444 441
    list := bits v 440 422, dst := bits v 421 403, dpitch := bits v 402 387, limit := bits v 386 371, fill := bitOf v 370
    reserved := decide (bits v 369 0 ≠ 0) }

def ExpandDesc.inputs (d : ExpandDesc) : List (Nat × Nat) :=
  [(d.src, (d.rows - 1) * d.spitch + rowBytes d.cols d.fmt), (d.list, 4 * d.rows)]
def ExpandDesc.outputs (d : ExpandDesc) : List (Nat × Nat) := [(d.dst, (d.limit - 1) * d.dpitch + rowBytes d.cols d.fmt)]

def ExpandDesc.checks (d : ExpandDesc) : List (Nat × Bool) :=
  [(3, decide (9 ≤ d.fmt)), (4, decide (d.rows = 0 ∨ d.cols = 0 ∨ d.limit = 0 ∨ (d.fmt = fF4 ∧ d.cols % 2 = 1))),
    (5, decide (d.spitch < rowBytes d.cols d.fmt ∨ d.dpitch < rowBytes d.cols d.fmt ∨ d.src % 4 ≠ 0 ∨ d.list % 4 ≠ 0)),
    (7, rangesEscape (ExpandDesc.inputs d ++ ExpandDesc.outputs d)), (9, pairsMeet (ExpandDesc.outputs d) (ExpandDesc.inputs d))]

/-! ### Any instruction of the unit -/

/-- The descriptor of a chain instruction: reserved fields, checks from 0x03 on, input and output ranges. -/
structure ChainPlan where
  reserved : Bool
  checks : List (Nat × Bool)
  inputs : List (Nat × Nat)
  outputs : List (Nat × Nat)
  deriving DecidableEq, Repr, Inhabited

/-- Immediates (R268): K0 to K3 and KD. -/
structure Immediates where
  k0 : Nat
  k1 : Nat
  k2 : Nat
  k3 : Nat
  kd : Nat
  deriving DecidableEq, Repr, Inhabited

def immediates (kd : Bool) (x1 x2 : Nat) : Immediates :=
  { k0 := if kd then 0 else x1 % 2 ^ 32, k1 := if kd then 0 else x1 / 2 ^ 32, k2 := x2 % 2 ^ 32, k3 := x2 / 2 ^ 32
    kd := if kd then x1 else 0x3FF0000000000000 }

def ChainKind.plan (k : ChainKind) (i : Immediates) : ChainPlan :=
  match k with
  | .chn v _ =>
    let d := chainDesc v.toNat
    { reserved := d.reserved, checks := ChainDesc.checks d i.k3 i.kd, inputs := (ChainDesc.inputs d).map ChainRange.pair
      outputs := (ChainDesc.outputs d).map ChainRange.pair }
  | .spk v =>
    let d := packDesc v.toNat
    { reserved := d.reserved, checks := PackDesc.checks d, inputs := PackDesc.inputs d, outputs := PackDesc.outputs d }
  | .sgl v =>
    let d := selectDesc v.toNat
    { reserved := d.reserved, checks := SelectDesc.checks d i.k0, inputs := SelectDesc.inputs d, outputs := SelectDesc.outputs d }
  | .sxp v =>
    let d := expandDesc v.toNat
    { reserved := d.reserved, checks := ExpandDesc.checks d, inputs := ExpandDesc.inputs d, outputs := ExpandDesc.outputs d }

end Sys2Proof.Machine
end

