-- ==== Sys2Proof/Machine/Chain.lean ====
section
/-!
DEFINITION. What the instructions of the chain unit compute (R277 to R291, R331 to R333): every function from the descriptor, the
immediates and local memory to what is written, fed to the Sieve and counted.
-/

namespace Sys2Proof.Machine

/-! ### S32 arithmetic of rows -/

def s32Sub (a b : Nat) : Nat := fAdd .rne a (b ^^^ 0x80000000)
def s32Of (n : Nat) : Nat := toS32 .rne (ofInt n)

/-- An S32 value divided by n, correctly rounded: the quotient with a sticky bit decides. -/
def s32Div (v n : Nat) : Nat :=
  match ofS32 v with
  | .nan => canonicalNan 0
  | .inf neg => if neg then 0xFF800000 else 0x7F800000
  | .fin neg m e =>
    let q := m * 2 ^ 64 / n
    toS32 .rne (.fin neg (2 * q + b2n (decide (q * n ≠ m * 2 ^ 64))) (e - 65))

/-- One level of the beat sum: neighbouring values, lower position first. -/
def pairUp : List Nat → List Nat
  | a :: b :: r => fAdd .rne a b :: pairUp r
  | l => l

/-- The sum of one beat: 32 positions, five levels. -/
def beatSum (l : List Nat) : Nat :=
  (pairUp (pairUp (pairUp (pairUp (pairUp (tabulate 32 (fun i => l.getD i 0))))))).headD 0

/-- The compensated sum of beat sums. -/
def compensated (ts : List Nat) : Nat :=
  let r := ts.foldl (fun (a : Nat × Nat) t =>
    let y := fAdd .rne a.1 t
    let k := if t % 2 ^ 31 ≤ a.1 % 2 ^ 31 then fAdd .rne (s32Sub a.1 y) t else fAdd .rne (s32Sub t y) a.1
    (y, fAdd .rne a.2 k)) (0, 0)
  fAdd .rne r.1 r.2

/-- The sum along a row (R281); an absent value is an inactive position. A finite row that overflows gives the infinity of the sign of
its exact sum. -/
def rowSum (row : List (Option Nat)) : Nat :=
  let live := row.filterMap (fun v => v)
  if live.any s32Nan then canonicalNan 0
  else
    let up := live.contains 0x7F800000
    let dn := live.contains 0xFF800000
    if up && dn then canonicalNan 0
    else if up then 0x7F800000
    else if dn then 0xFF800000
    else
      let vals := row.map (fun v => v.getD 0)
      let r := compensated (tabulate ((vals.length + 31) / 32) (fun k => beatSum ((vals.drop (32 * k)).take 32)))
      match ofS32 r with
      | .fin _ _ _ => r
      | _ =>
        match live.foldl (fun a v => Num.add false a (ofS32 v)) (.fin false 0 0) with
        | .fin true _ _ => 0xFF800000
        | _ => 0x7F800000

def rowDot (a b : List Nat) : Nat := rowSum ((a.zip b).map (fun p => some (fMul .rne p.1 p.2)))

/-! ### Stages 1 to 3 -/

/-- An element after stage 3: its value, its Y operand, whether it is active, poison of its X or mask word and of its Y word, NaN of X
and of Y, a saturation of the integer path. -/
structure ChainElement where
  value : Num
  y : Num
  active : Bool
  poison : Bool
  yPoison : Bool
  xNan : Bool
  yNan : Bool
  sat : Bool
  deriving DecidableEq, Repr, Inhabited

def ChainElement.pattern (e : ChainElement) : Nat := toS32 .rne e.value
def ChainElement.live (e : ChainElement) : Option Nat := if e.active then some (ChainElement.pattern e) else none

/-- Stage 1 (R277): exact where kept, else rounded to S32. -/
def stageOne (keep : Bool) (v : Num) : Num := if keep then v else ofS32 (toS32 .rne v)

/-- Stage 2 on S32 values (Table 9.6). -/
def multiplyAdd (ma : Nat) (i : Immediates) (x y : Nat) : Nat :=
  match ma with
  | 1 => fFma .rne x i.k0 i.k1
  | 2 => fAdd .rne x y
  | 3 => fMul .rne x y
  | 4 => fFma .rne x y i.k0
  | 5 => fFma .rne x i.k0 y
  | 6 => fFma .rne y i.k0 x
  | _ => x

/-- Stage 3 comparison (Table 9.2, CMP; R105). -/
def chainCmp (cmp a b : Nat) : Bool :=
  match cmp with
  | 1 => fCmp 2 a b
  | 2 => fCmp 3 a b
  | 3 => fCmp 4 a b
  | 4 => fCmp 5 a b
  | 5 => fCmp 0 a b
  | 6 => fCmp 1 a b
  | 7 => fCmp 6 a b
  | _ => true

def numInt (v : Num) : Int :=
  match v with
  | .fin neg m e => (let n : Int := (m * 2 ^ e.toNat : Nat); if neg then -n else n)
  | _ => 0

/-- Element j of row r after stages 1 to 3 (R275, R277 to R279); I32 reaches an S64 output exactly (R209; DEDUCED, assumption 95). -/
def ChainDesc.element (d : ChainDesc) (i : Immediates) (c : Cell) (r j : Nat) : ChainElement :=
  let ints := ChainDesc.integer d
  let xe := Cell.elementAt c d.xfmt (d.x + r * d.xpitch) j
  let sa := d.xscale + r * d.xspitch + j / 16
  let xv := if d.xblk then stageOne false (blockValue d.xfmt (Cell.localByte c sa).toNat xe.1)
    else stageOne (ints || decide (d.xfmt = fS64) || decide (d.xfmt = fI32 ∧ d.dfmt = fS64)) (decodeNum d.xfmt xe.1)
  let ye : Nat × Bool := match d.ymode with
    | 0 => (0, false)
    | 1 => Cell.elementAt c d.yfmt (d.y + r * d.ypitch) j
    | 2 => Cell.elementAt c d.yfmt d.y j
    | _ => Cell.elementAt c d.yfmt d.y r
  let yv := if d.ymode = 0 then .fin false 0 0 else stageOne (ints || decide (d.opc = opLoss)) (decodeNum d.yfmt ye.1)
  let ma := if d.opc = opOrth then 0 else d.ma
  let sum := numInt xv + numInt yv
  let clipped := clampTo (-2147483648) 2147483647 sum
  let z := if ma = 0 then xv else if ints then ofInt clipped else ofS32 (multiplyAdd ma i (toS32 .rne xv) (toS32 .rne yv))
  let ba := d.mask + r * d.mpitch + j / 8
  let bit := !ChainDesc.masked d || (Cell.localByte c ba).toNat.testBit (j % 8)
  { value := z, y := yv, active := bit && (decide (d.msrc < 2) || chainCmp d.cmp (toS32 .rne z) i.k2)
    poison := xe.2 || (d.xblk && Cell.localMarked c sa 1) || (ChainDesc.masked d && Cell.localMarked c ba 1)
    yPoison := ye.2, xNan := Num.isNan xv, yNan := Num.isNan yv, sat := ints && decide (ma = 2 ∧ clipped ≠ sum) }

def ChainDesc.row (d : ChainDesc) (i : Immediates) (c : Cell) (r : Nat) : List ChainElement :=
  (List.range d.cols).map (ChainDesc.element d i c r)

/-! ### Stages 6 to 8 -/

/-- An output as it enters stage 6: its value, whether it is active, whether it is written in the poisoned form, whether an input of it was
NaN, whether its integer sum saturated. -/
structure ChainOut where
  value : Num
  active : Bool
  poison : Bool
  inNan : Bool
  sat : Bool
  deriving DecidableEq, Repr, Inhabited

/-- What an instruction, or a part of it, writes, feeds and counts. -/
structure ChainResult where
  writes : List LocalWrite
  feeds : List Num
  counts : ChainCounts
  deriving DecidableEq, Repr, Inhabited

def ChainCounts.add (a b : ChainCounts) : ChainCounts :=
  { sat := a.sat + b.sat, nanZero := a.nanZero + b.nanZero, nan := a.nan + b.nan, empty := a.empty + b.empty, ignored := a.ignored + b.ignored
    poison := a.poison || b.poison, stickyNan := a.stickyNan || b.stickyNan, drops := a.drops + b.drops, dense := a.dense + b.dense
    capped := a.capped + b.capped }

def ChainResult.add (a b : ChainResult) : ChainResult :=
  { writes := a.writes ++ b.writes, feeds := a.feeds ++ b.feeds, counts := ChainCounts.add a.counts b.counts }

def ChainResult.none : ChainResult := { writes := [], feeds := [], counts := default }

/-- Marks by word: a byte of a word that holds a marked byte is marked. -/
def spreadMarks (m : List Bool) : List Bool := tabulate m.length (fun i => ((m.drop (i / 4 * 4)).take 4).any (fun b => b))

/-- One element is not written at all (R279, R285). -/
def ChainDesc.hole (d : ChainDesc) (o : ChainOut) : Bool := decide (d.opc = opMap) && !d.selk && !o.active && !o.poison

/-- Stages 6 to 8 for the outputs that lie from `addr`, with scale bytes from `saddr`; the first has index `e0`. With it, for each output
whether it saturated and whether it is a NaN (R279, R283 to R285, R291). -/
def ChainDesc.store (d : ChainDesc) (k3 : Nat) (supplied : Option Nat) (addr saddr e0 : Nat) (outs : List ChainOut) :
    ChainResult × List (Bool × Bool) :=
  let w := formatBits d.dfmt
  let bare (o : ChainOut) : Bool := decide (d.opc = opMap) && !o.active
  let els := outs.zipIdx.map (fun y =>
    ({ value := if bare y.1 then .fin false 0 0 else y.1.value, poison := y.1.poison
       fixed := if bare y.1 && d.selk then some (k3 % 2 ^ w) else Option.none
       mode := if d.round = 1 then .rtz else if d.round = 2 then .sr (randomByte d.key d.base (e0 + y.2)) else .rne } : OutElement))
  let pad := if d.dblk then roundUp els.length 16 - els.length else 0
  let filler : OutElement := { value := .fin false 0 0, mode := .rne, poison := false, fixed := some 0 }
  let out := convertOutputs d.dfmt d.dblk d.sat supplied (els ++ List.replicate pad filler)
  let packed := packRow d.dfmt (out.1.take els.length) (outs.map (·.poison))
  let marks := spreadMarks packed.2
  let scales : List Byte := out.2.1.map (fun b => BitVec.ofNat 8 b.1)
  let piece (a b n : Nat) (bs : List Byte) (ms : List Bool) : LocalWrite := { addr := a + b, bytes := (bs.drop b).take n, marks := (ms.drop b).take n }
  let unit := if d.dblk then 16 else 1
  let here := (List.range ((outs.length + unit - 1) / unit)).filter (fun u => ((outs.drop (unit * u)).take unit).any (fun o => !ChainDesc.hole d o))
  let writes :=
    if outs.all (fun o => !ChainDesc.hole d o) then
      [{ addr := addr, bytes := packed.1, marks := marks }] ++ (if d.dblk then [{ addr := saddr, bytes := scales, marks := spreadMarks (out.2.1.map (·.2)) }] else [])
    else here.flatMap (fun u =>
      [piece addr (unit * w / 8 * u) (unit * w / 8) packed.1 marks]
        ++ (if d.dblk then [piece saddr u 1 scales (spreadMarks (out.2.1.map (·.2)))] else []))
  let seen := (out.2.2.zip (els.zip outs)).map (fun y => (y.1, y.2.1.value, y.2.2.inNan))
  let more := (outs.filter (fun o => o.sat && o.active && !o.poison)).length
  let counts := countRow seen default
  let counts := { counts with sat := counts.sat + more, poison := outs.any (·.poison) }
  let fed := if d.tagEn then (outs.filter (·.active)).map (fun o => if o.poison then .nan else o.value) else []
  ({ writes := writes, feeds := fed, counts := counts },
    (out.2.2.zip (els.zip outs)).map (fun y => match y.1 with
      | Option.none => (false, false)
      | some v => (v.sat || (y.2.2.sat && y.2.2.active), Num.isNan y.2.1.value)))

/-- A row's status byte (Table 9.11) in parts. -/
structure RowStatus where
  ignored : Bool
  poison : Bool
  sat : Bool
  nan : Bool
  empty : Bool
  deriving DecidableEq, Repr, Inhabited

def RowStatus.byte (s : RowStatus) : Byte :=
  BitVec.ofNat 8 (16 * b2n s.ignored + 8 * b2n s.poison + 4 * b2n s.sat + 2 * b2n s.nan + b2n s.empty)

/-- What rows of status `st` count (R269, Table 9.13). -/
def statusCounts (st : List RowStatus) : ChainCounts :=
  { (default : ChainCounts) with
    empty := (st.filter (·.empty)).length, ignored := (st.filter (·.ignored)).length, poison := st.any (·.poison), stickyNan := st.any (·.nan) }

/-- A whole row of a class, with its statistics (Table 9.10). -/
structure RowResult where
  outs : List ChainOut
  status : RowStatus
  stats : Nat × Nat
  deriving DecidableEq, Repr, Inhabited

/-- Store a row of D. -/
def ChainDesc.storeRow (d : ChainDesc) (i : Immediates) (supplied : Option Nat) (r : Nat) (y : RowResult) : ChainResult × RowStatus :=
  let o := ChainDesc.store d i.k3 supplied (d.d + r * d.dpitch) (d.dscale + r * d.dspitch) (r * d.cols) y.outs
  (o.1, { y.status with sat := y.status.sat || o.2.any (·.1), nan := y.status.nan || o.2.any (·.2) })

/-- The row statistics and status bytes of all rows. -/
def ChainDesc.records (d : ChainDesc) (rows : List (RowStatus × (Nat × Nat))) : ChainResult :=
  let stats : List LocalWrite := if d.rsEn then
      [{ addr := d.rs, bytes := rows.flatMap (fun y => toBytes 4 y.2.1 ++ toBytes 4 y.2.2)
         marks := rows.flatMap (fun y => List.replicate 8 y.1.poison) }] else []
  let status : List LocalWrite := if d.stEn then
      [{ addr := d.status, bytes := rows.map (fun y => RowStatus.byte y.1), marks := rows.map (fun _ => false) }] else []
  { writes := stats ++ status, feeds := [], counts := statusCounts (rows.map (·.1)) }

/-- The status of a poisoned row: nothing else of it can be known (R291). -/
def poisonedStatus : RowStatus := { ignored := false, poison := true, sat := false, nan := false, empty := false }
def RowStatus.plain (nan empty : Bool) : RowStatus := { ignored := false, poison := false, sat := false, nan := nan, empty := empty }

/-! ### MAP and REDUCE (R279, R280, R282) -/

def ChainDesc.mapRow (d : ChainDesc) (row : List ChainElement) : RowResult :=
  { outs := row.map (fun e =>
      { value := if d.fn = 0 then e.value else ofS32 (sfnFn (d.fn - 1) (ChainElement.pattern e)), active := e.active
        poison := e.poison || e.yPoison, inNan := e.xNan || e.yNan, sat := e.sat })
    status := { (RowStatus.plain false (row.all (fun e => !e.active))) with poison := row.any (fun e => e.poison || e.yPoison) }
    stats := (0, 0) }

/-- The larger (or smaller) of two values, +0 above −0. -/
def extreme (mx : Bool) (a b : Num) : Num :=
  let zeroSign (v : Num) : Bool := match v with
    | .fin s 0 _ => s
    | _ => false
  let less := Num.lt a b || (Num.eq a b && zeroSign a)
  if less == mx then b else a

/-- The reduction of a row (R282, Table 9.8). -/
def reduceRow (red : Nat) (row : List ChainElement) : Num :=
  let live := row.filter (·.active)
  let vals := row.map ChainElement.live
  if live.isEmpty then
    (match red with
    | 2 => .inf true
    | 3 => .inf false
    | 4 => .fin false 1 0
    | _ => .fin false 0 0)
  else match red with
    | 0 => ofS32 (rowSum vals)
    | 1 => ofS32 (s32Div (rowSum vals) live.length)
    | 4 => ofS32 ((live.map ChainElement.pattern).foldl (fMul .rne) 0x3F800000)
    | 5 => ofS32 (rowSum (vals.map (fun v => v.map (fun x => fMul .rne x x))))
    | _ =>
      if live.any (fun e => Num.isNan e.value) then .nan
      else (live.drop 1).foldl (fun a e => extreme (decide (red = 2)) a e.value) ((live.headD default).value)

def ChainDesc.reduce (d : ChainDesc) (i : Immediates) (c : Cell) (supplied : Option Nat) : ChainResult :=
  let rows := (List.range d.rows).map (ChainDesc.row d i c)
  let bad (row : List ChainElement) : Bool := row.any (fun e => e.poison || e.yPoison)
  let outs : List ChainOut := rows.map (fun row =>
    { value := reduceRow d.red row, active := true, poison := bad row, inNan := row.any (fun e => e.active && (e.xNan || e.yNan)), sat := false })
  let o := ChainDesc.store d i.k3 supplied d.d d.dscale 0 outs
  let sums := (rows.flatMap (fun row => if bad row then [] else row.filter (fun e => e.active && e.sat))).length
  let status := (rows.zip o.2).map (fun y =>
    if bad y.1 then poisonedStatus
    else { RowStatus.plain y.2.2 (y.1.all (fun e => !e.active)) with sat := y.2.1 || y.1.any (fun e => e.active && e.sat) })
  ChainResult.add { o.1 with counts := { o.1.counts with sat := o.1.counts.sat + sums } } (ChainDesc.records d (status.map (fun s => (s, (0, 0)))))

/-! ### SOFTMAX, NORM (R286, R287) -/

/-- The soft maximum of a row: outputs, activity after −∞ is taken out, m, s, and the number of active +∞. -/
structure SoftRow where
  outs : List Nat
  active : List Bool
  m : Nat
  s : Nat
  nan : Bool
  empty : Bool
  infs : Nat
  deriving DecidableEq, Repr, Inhabited

def softmax (row : List ChainElement) : SoftRow :=
  let xs := row.map ChainElement.live
  let nan := canonicalNan 0
  if xs.any (fun v => (v.map s32Nan).getD false) then
    { outs := xs.map (fun _ => nan), active := row.map (·.active), m := nan, s := nan, nan := true, empty := false, infs := 0 }
  else
    let ys := xs.map (fun v => if v = some 0xFF800000 then none else v)
    let live := ys.filterMap (fun v => v)
    let k := (live.filter (fun v => decide (v = 0x7F800000))).length
    let act := ys.map (·.isSome)
    if live.isEmpty then { outs := ys.map (fun _ => 0), active := act, m := 0xFF800000, s := 0, nan := false, empty := true, infs := 0 }
    else if 0 < k then
      let r := fnRecip (s32Of k)
      { outs := ys.map (fun v => if v = some 0x7F800000 then r else 0), active := act, m := 0x7F800000, s := s32Of k, nan := false, empty := false, infs := k }
    else
      let m := (live.drop 1).foldl (fMinMax true) (live.headD 0)
      let es := ys.map (fun v => v.map (fun x => fnExp2 (fMul .rne (s32Sub x m) 0x3FB8AA3B)))
      let s := rowSum es
      let r := fnRecip s
      { outs := es.map (fun e => (e.map (fun v => fMul .rne v r)).getD 0), active := act, m := m, s := s, nan := false, empty := false, infs := 0 }

/-- Outputs of a row operation; `poison` and `inNan` by column. -/
def rowOuts (vals : List Nat) (active : List Bool) (poison inNan : Nat → Bool) : List ChainOut :=
  (vals.zip active).zipIdx.map (fun y => { value := ofS32 y.1.1, active := y.1.2, poison := poison y.2, inNan := inNan y.2, sat := false })

def rowPoisoned (row : List ChainElement) : Bool := row.any (fun e => e.poison || e.yPoison)
def rowHasNan (row : List ChainElement) : Bool := row.any (fun e => e.active && e.xNan)

def softmaxRow (row : List ChainElement) : RowResult :=
  let s := softmax row
  let bad := rowPoisoned row
  { outs := rowOuts s.outs s.active (fun _ => bad) (fun _ => rowHasNan row), status := if bad then poisonedStatus else RowStatus.plain s.nan s.empty, stats := (s.m, s.s) }

/-- μ, ρ and the outputs of NORM over the row's patterns, with gain and bias by column. -/
def normRow (normk : Bool) (k3 : Nat) (xs : List (Option Nat)) (gain bias : Nat → Nat) : List Nat × Nat × Nat × Bool × Bool :=
  let live := xs.filterMap (fun v => v)
  let nan := canonicalNan 0
  if live.isEmpty then (xs.map (fun _ => 0), 0, 0, false, true)
  else if live.any (fun v => decide (v / 2 ^ 23 % 256 = 255)) then (xs.map (fun _ => nan), nan, nan, true, false)
  else
    let n := live.length
    let mu := if normk then 0 else s32Div (rowSum xs) n
    let sq := xs.map (fun v => v.map (fun x => let t := if normk then x else s32Sub x mu; fMul .rne t t))
    let rho := fnRsqrt (fAdd .rne (s32Div (rowSum sq) n) k3)
    (xs.zipIdx.map (fun y => match y.1 with
      | none => 0
      | some x => fFma .rne (fMul .rne (s32Sub x mu) rho) (gain y.2) (bias y.2)), mu, rho, false, false)

def ChainDesc.normRow (d : ChainDesc) (i : Immediates) (c : Cell) (row : List ChainElement) : RowResult :=
  let zs : List (Nat × Bool) := (List.range d.cols).map (fun j => if d.z = 0 then (0, false) else epiOperand c d.zfmt d.z j)
  let gain (j : Nat) : Nat := if d.ymode = 2 then toS32 .rne (row.getD j default).y else 0x3F800000
  let z (j : Nat) : Nat × Bool := zs.getD j (0, false)
  let bad := row.any (·.poison)
  let o := Sys2Proof.Machine.normRow d.normk i.k3 (row.map ChainElement.live) gain (fun j => (z j).1)
  let poison (j : Nat) : Bool := bad || (row.getD j default).yPoison || (z j).2
  { outs := rowOuts o.1 (row.map (·.active)) poison (fun j => rowHasNan row || (row.getD j default).yNan || s32Nan (z j).1)
    status := if bad then poisonedStatus else RowStatus.plain o.2.2.2.1 o.2.2.2.2
    stats := (o.2.1, o.2.2.1) }

/-! ### LOSS (R288) -/

/-- The loss accumulator, with the marks of its words. -/
structure LossAcc where
  sum : Nat
  count : Nat
  marks : List Bool
  deriving DecidableEq, Repr, Inhabited

def lossNan : Nat := canonicalNan fS64

/-- SUM + S64(loss) × KD, each step RNE. -/
def lossAdd (sum loss kd : Nat) : Nat :=
  let p := (encodeNum fS64 .rne false (Num.mul (ofS32 loss) (decodeNum fS64 kd))).bits
  (encodeNum fS64 .rne false (Num.add false (decodeNum fS64 sum) (decodeNum fS64 p))).bits

def ln2S32 : Nat := 0x3F317218

/-- One row: its gradient, its status and statistics, and the accumulator after it. -/
def ChainDesc.lossRow (d : ChainDesc) (kd : Nat) (row : List ChainElement) (acc : LossAcc) : RowResult × LossAcc :=
  let s := softmax row
  let t := numInt (row.headD default).y
  let out := decide (t < 0 ∨ (d.cols : Int) ≤ t)
  let ignored := out || s.empty
  let xt := ((row.map ChainElement.live).getD t.toNat none).getD 0xFF800000
  let nan := canonicalNan 0
  let lse := if s.nan then nan else if s.empty then 0xFF800000 else if 0 < s.infs then 0x7F800000 else fFma .rne (fnLog2 s.s) ln2S32 s.m
  let loss :=
    if ignored then 0
    else if s.nan then nan
    else if 0 < s.infs then (if xt = 0x7F800000 then fFma .rne (fnLog2 s.s) ln2S32 0 else 0x7F800000)
    else s32Sub lse xt
  let grad := s.outs.zipIdx.map (fun y => if ignored then 0 else if (y.2 : Int) = t then s32Sub y.1 0x3F800000 else y.1)
  let bad := rowPoisoned row
  let acc' : LossAcc :=
    if bad then { sum := lossNan, count := (acc.count + 1) % 2 ^ 64, marks := acc.marks.map (fun _ => true) }
    else if ignored then acc
    else { acc with sum := lossAdd acc.sum loss kd, count := (acc.count + 1) % 2 ^ 64 }
  ({ outs := rowOuts grad s.active (fun _ => bad) (fun _ => rowHasNan row)
     status := if bad then poisonedStatus else { RowStatus.plain (s.nan || s32Nan loss) s.empty with ignored := ignored }
     stats := (lse, loss) }, acc')

def ChainDesc.loss (d : ChainDesc) (i : Immediates) (c : Cell) (supplied : Option Nat) : ChainResult :=
  let acc0 : LossAcc :=
    { sum := Cell.localNat c d.z 8, count := Cell.localNat c (d.z + 8) 8, marks := tabulate 16 (fun k => Cell.localMarked c (d.z + k) 1) }
  let r := (List.range d.rows).foldl (fun (a : ChainResult × List (RowStatus × (Nat × Nat)) × LossAcc) r =>
    let y := ChainDesc.lossRow d i.kd (ChainDesc.row d i c r) a.2.2
    let o := if d.grad then ChainDesc.storeRow d i supplied r y.1 else (ChainResult.none, y.1.status)
    (ChainResult.add a.1 o.1, a.2.1 ++ [(o.2, y.1.stats)], y.2)) (ChainResult.none, [], acc0)
  let acc := r.2.2
  let w : LocalWrite := { addr := d.z, bytes := toBytes 8 acc.sum ++ toBytes 8 acc.count, marks := acc.marks }
  let last : ChainCounts :=
    { (default : ChainCounts) with
      poison := acc0.marks.any (fun b => b), stickyNan := Num.isNan (decodeNum fS64 acc.sum) && !(acc.marks.any (fun b => b)) }
  ChainResult.add (ChainResult.add r.1 (ChainDesc.records d r.2.1)) { writes := [w], feeds := [], counts := last }

/-! ### ORTH (R289) -/

/-- One more vector, after those that stand: the vector, and whether it is NaN or zero. -/
def orthVector (qs : List (List Nat)) (v : List Nat) : List Nat × Bool × Bool :=
  let q := qs.foldl (fun v qi =>
    let k := rowDot qi v ^^^ 0x80000000
    (v.zip qi).map (fun p => fFma .rne k p.2 p.1)) v
  let nn := rowDot q q
  if nn = 0 then (q.map (fun _ => 0), false, true)
  else match ofS32 nn with
    | .fin _ _ _ => (let r := fnRsqrt nn; (q.map (fun x => fMul .rne x r), false, false))
    | _ => (q.map (fun _ => canonicalNan 0), true, false)

def ChainDesc.orth (d : ChainDesc) (i : Immediates) (c : Cell) : List RowResult :=
  ((List.range d.rows).foldl (fun (a : List (List Nat) × List RowResult × Bool × Bool) r =>
    let row := ChainDesc.row d i c r
    let q := orthVector a.1 (row.map ChainElement.pattern)
    let bad := a.2.2.1 || rowPoisoned row
    let nan := a.2.2.2 || row.any (·.xNan)
    let y : RowResult :=
      { outs := rowOuts q.1 (row.map (fun _ => true)) (fun _ => bad) (fun _ => nan)
        status := if bad then poisonedStatus else RowStatus.plain q.2.1 q.2.2, stats := (0, 0) }
    (a.1 ++ [q.1], a.2.1 ++ [y], bad, nan)) ([], [], false, false)).2.1

/-! ### `chn` -/

/-- What a `chn` writes, feeds and counts. -/
def ChainDesc.run (d : ChainDesc) (i : Immediates) (c : Cell) (supplied : Option Nat) : ChainResult :=
  if d.opc = opReduce then ChainDesc.reduce d i c supplied
  else if d.opc = opLoss then ChainDesc.loss d i c supplied
  else
    let rows : List RowResult :=
      if d.opc = opOrth then ChainDesc.orth d i c
      else (List.range d.rows).map (fun r =>
        let row := ChainDesc.row d i c r
        if d.opc = opMap then ChainDesc.mapRow d row else if d.opc = opSoftmax then softmaxRow row else ChainDesc.normRow d i c row)
    let stored := rows.zipIdx.map (fun y => ChainDesc.storeRow d i supplied y.2 y.1)
    ChainResult.add (stored.foldl (fun a y => ChainResult.add a y.1) ChainResult.none)
      (ChainDesc.records d ((stored.zip rows).map (fun y => (y.1.2, y.2.stats))))

/-! ### `spk` (R331) -/

/-- The dense elements of a tile: 16 rows of a K-step, zero beyond the operand. -/
def PackDesc.tileRows (d : PackDesc) (c : Cell) (f s : Nat) : List (List Nat) :=
  let ks := kstepOf d.fmt
  tabulate 16 (fun i => tabulate ks (fun e =>
    if 16 * f + i < d.rows ∧ s * ks + e < d.cols then (Cell.elementAt c d.fmt (d.src + (16 * f + i) * d.spitch) (s * ks + e)).1 else 0))

/-- A source word of the tile is marked. -/
def PackDesc.tileMarked (d : PackDesc) (c : Cell) (f s : Nat) : Bool :=
  let ks := kstepOf d.fmt
  (List.range 16).any (fun i => decide (16 * f + i < d.rows) &&
    Cell.localMarked c (d.src + (16 * f + i) * d.spitch + 32 * s) (rowBytes (min ks (d.cols - s * ks)) d.fmt))

/-- The record of a tile: whether it is dense, its bytes, and what was dropped (R320 to R322). -/
def PackDesc.record (d : PackDesc) (tile : List (List Nat)) (s : Nat) : Bool × List Byte × Nat :=
  let ks := kstepOf d.fmt
  let w := formatBits d.fmt
  let h : SparseHeader := { sfmt := d.fmt, ndecl := d.ndecl, klen := d.cols, tiles := 0, trows := 0, reserved := false }
  let nz (e : Nat) : Bool := !Num.isZero (decodeNum d.fmt e)
  let kept := tile.map (fun row => keepRow h (s * ks) ((row.zipIdx.filter (fun y => nz y.1)).map (fun y => (y.2, y.1, true))))
  let drops := kept.foldl (fun n k => n + k.2) 0
  let values := kept.flatMap (fun k => k.1.map (·.2))
  let size := ks / 16 * 32 + roundUp ((values.length * w + 7) / 8) 32
  if 512 < size then
    let row (y : List Nat × (NMap Nat × Nat)) : List Byte :=
      toBytes 32 (packElements w (y.1.zipIdx.map (fun e => if nz e.1 && (NMap.find y.2.1 e.2).isNone then 0 else e.1)))
    (true, (tile.zip kept).flatMap row, drops)
  else
    let bitmaps := kept.flatMap (fun k => toBytes (ks / 8) (maskOf (k.1.map (·.1))))
    (false, bitmaps ++ toBytes (size - ks / 16 * 32) (packElements w values), drops)

/-- The header `spk` writes (Table 11.1). -/
def PackDesc.header (d : PackDesc) : Nat :=
  d.fmt * 2 ^ 252 + d.ndecl * 2 ^ 248 + d.cols * 2 ^ 232 + PackDesc.tiles d % 4096 * 2 ^ 220 + PackDesc.trows d * 2 ^ 215

/-- What a `spk` writes and counts. The marks of the record of a tile with a marked source word are free values, drawn from `n` on
(notes: assumption 5). -/
def PackDesc.run (d : PackDesc) (c : Cell) (n : Nat) : ChainResult :=
  let plain (a : Nat) (bs : List Byte) : LocalWrite := { addr := a, bytes := bs, marks := bs.map (fun _ => false) }
  let one (a : ChainResult × Nat) (f s : Nat) : ChainResult × Nat :=
    let r := PackDesc.record d (PackDesc.tileRows d c f s) s
    let bad := PackDesc.tileMarked d c f s
    let len := r.2.1.length / 32
    let entry := b2n r.1 * 2 ^ 63 + len * 2 ^ 51 + a.2 * 2 ^ 5
    let rec_ : LocalWrite :=
      { addr := d.base + 16 * f * d.pitch + 32 * a.2, bytes := r.2.1
        marks := r.2.1.map (fun _ => bad && Config.freeBit (n + f * 4096 + s)) }
    let w := [rec_, plain (d.meta_ + 32 + f * d.mpitch + 8 * s) (toBytes 8 entry)]
    (ChainResult.add a.1 { writes := w, feeds := [], counts := { (default : ChainCounts) with drops := r.2.2, dense := b2n r.1, poison := bad } }, a.2 + len)
  let rows (a : ChainResult) (f : Nat) : ChainResult :=
    ((List.range (PackDesc.tiles d)).foldl (fun a s => one a f s) (a, if d.stagger then f % 8 else 0)).1
  (List.range (PackDesc.trows d)).foldl rows
    { writes := [plain d.meta_ (toBytes 32 (PackDesc.header d))], feeds := [], counts := default }

/-! ### `sgl` (R332) and `sxp` (R333) -/

def SelectDesc.run (d : SelectDesc) (i : Immediates) (c : Cell) : ChainResult :=
  let marked (k : Nat) : Bool := Cell.localMarked c (d.src + 4 * k) 4
  let chosen (k : Nat) : Bool :=
    let v := Cell.localNat c (d.src + 4 * k) 4
    let v := if d.abs then v % 2 ^ 31 else v
    marked k || s32Nan v || fCmp 5 v i.k0
  let all := (List.range d.count).filter chosen
  let kept := all.take d.cap
  let entries := kept.map (fun k => (k + i.k1) % 2 ^ 32)
  let full := roundUp entries.length d.pad
  let list := entries ++ List.replicate (full - entries.length) 0xFFFFFFFF
  let bad := (List.range d.count).any marked
  let bytes := list.flatMap (toBytes 4)
  { writes := [{ addr := d.list, bytes := bytes, marks := bytes.map (fun _ => false) },
      { addr := d.nout, bytes := toBytes 4 all.length ++ toBytes 4 full, marks := List.replicate 8 bad }]
    feeds := [], counts := { (default : ChainCounts) with capped := all.length - kept.length, poison := bad } }

/-- A word of the index list is marked: every word of the destination is. -/
def ExpandDesc.unknown (d : ExpandDesc) (c : Cell) : Bool := (List.range d.rows).any (fun r => Cell.localMarked c (d.list + 4 * r) 4)

def ExpandDesc.run (d : ExpandDesc) (i : Immediates) (c : Cell) : ChainResult :=
  let rb := rowBytes d.cols d.fmt
  let entry (r : Nat) : Nat := Cell.localNat c (d.list + 4 * r) 4
  let valid := (List.range d.rows).filter (fun r => decide (entry r < d.limit))
  let drops := ((List.range d.rows).filter (fun r => decide (entry r ≠ 0xFFFFFFFF ∧ d.limit ≤ entry r))).length
  let copied := valid.map (fun r =>
    ({ addr := d.dst + entry r * d.dpitch, bytes := Cell.localBytes c (d.src + r * d.spitch) rb
       marks := tabulate rb (fun k => Cell.localMarked c (d.src + r * d.spitch + k) 1) } : LocalWrite))
  let w := formatBits d.fmt
  let blank := toBytes rb (packElements w (List.replicate d.cols (i.k3 % 2 ^ w)))
  let filled := if d.fill then
      ((List.range d.limit).filter (fun t => valid.all (fun r => decide (entry r ≠ t)))).map (fun t =>
        ({ addr := d.dst + t * d.dpitch, bytes := blank, marks := blank.map (fun _ => false) } : LocalWrite))
    else []
  let bad := ExpandDesc.unknown d c || copied.any (fun w => w.marks.any (fun b => b))
  { writes := copied ++ filled, feeds := [], counts := { (default : ChainCounts) with drops := drops, poison := bad } }

end Sys2Proof.Machine
end

