-- ==== Sys2Proof/Machine/ChainUnit.lean ====
section
/-!
DEFINITION. The chain unit: its instructions at issue (R267 to R269, R276, R330) and its events (R270, R271, R273).
-/

namespace Sys2Proof.Machine

/-! ### Issue -/

/-- Fields of the instruction word against Table 9.1, other than those of check 0x02 (R101). -/
def chainIllegal (f : RegForm) : Option Nat :=
  check (decide (f.gp ≠ 7 ∨ f.gn ≠ 0 ∨ f.ext = 3 ∨ f.dst ≠ 0 ∨ f.dh ≠ 0 ∨ f.sb ≠ 0 ∨ f.hb ≠ 0 ∨ f.sc ≠ 0 ∨ f.hc ≠ 0 ∨ f.ua ≠ 1 ∨ f.ub ≠ 0
    ∨ f.uc ≠ 0 ∨ f.ib ≠ 0 ∨ 64 ≤ f.sa.toNat)) 0

/-- The immediates of an instruction word: absent extension words read as 0 (R268). -/
def chainImmediates (f : RegForm) (kd : Bool) : Immediates :=
  immediates kd (if 1 ≤ f.ext.toNat then f.x1.toNat else 0) (if f.ext.toNat = 2 then f.x2.toNat else 0)

/-- Check 0x02 of the instruction word; only `chn` takes KD. -/
def chainWordBad (f : RegForm) (takesKd : Bool) : Bool :=
  decide (subField f 9 7 ≠ 0) || (!cntEn f && decide (subField f 4 0 ≠ 0)) || (subBit f 6 && (!takesKd || decide (f.ext = 0)))

/-- The lowest-numbered check that fails (Tables 9.4 and 11.7), for a descriptor of `size` bytes named by the register value `v`. -/
def chainFailure (f : RegForm) (takesKd : Bool) (size v : Nat) (p : ChainPlan) : Option Nat :=
  if (descriptorAt size v).isNone then some 1 else failedCheck ((2, chainWordBad f takesKd || p.reserved) :: p.checks)

/-- A P2 credit of the pipeline is free (Table 1.5). -/
def Cell.chainCredit (x : Cell) (pipe : Nat) : Bool :=
  decide ((x.chain.filter (fun e => decide (e.2.owner.slot / 16 = pipe) && !e.2.begun)).length < 4)

/-- Issue of an instruction of the unit (R276, R330): `kind` reads its descriptor of `size` bytes. -/
def State.runChain (s : State) (op : Nat) (g : GroupLoc) (f : RegForm) (size : Nat) (takesKd : Bool) (kind : Nat → ChainKind) : State :=
  let s := State.reads s g (regWords op f) (fun grp => descriptorRange size (Group.uni grp (f.sa.toNat % 64)))
  let x := State.cell s g.cell
  let imm := chainImmediates f (takesKd && subBit f 6)
  let plan (v : Nat) : ChainKind × ChainPlan := (fun k : ChainKind => (k, ChainKind.plan k imm)) (kind (Cell.localNat x v size))
  State.runUnit s g (regWords op f) (fun _ => chainIllegal f)
    (fun grp =>
      let v := Group.uni grp (f.sa.toNat % 64)
      let p := (plan v).2
      firstSome [operandPark grp grp.active.toNat .uni f.sa.toNat true,
        if (descriptorAt size v).isNone then none else wordsPark x [(v, size)],
        completionRange x grp (cntEn f) (subField f 4 0), badDescriptor (chainFailure f takesKd size v p),
        reservedPark x (p.inputs ++ p.outputs ++ descriptorRange size v)])
    (fun grp =>
      if !Cell.chainCredit x (g.slot / 16) then none
      else
        let o : ChainOp :=
          { kind := (plan (Group.uni grp (f.sa.toNat % 64))).1, x1 := BitVec.ofNat 64 (if 1 ≤ f.ext.toNat then f.x1.toNat else 0)
            x2 := BitVec.ofNat 64 (if f.ext.toNat = 2 then f.x2.toNat else 0), owner := ownerOf g.slot grp, counter := counterArg f
            step := x.sieve.step, begun := false, scale := none, writes := [], counts := default, markAll := false }
        some (State.modCell { s with nextId := s.nextId + 1 } g.cell (fun x =>
          Cell.setGroup { x with chain := NMap.insert x.chain s.nextId o } g.slot (Group.advance grp f.ext.toNat))))

/-- `chn` (R267, R268). -/
def execChn (g : GroupLoc) (f : RegForm) (s : State) : Host.Outcome State Fault Refusal :=
  .next (State.runChain s 0x90 g f 64 true (fun v => .chn (BitVec.ofNat 512 v) (subBit f 6)))

/-- `spk` (R330, R331). -/
def execSpk (g : GroupLoc) (f : RegForm) (s : State) : Host.Outcome State Fault Refusal :=
  .next (State.runChain s 0x98 g f 64 false (fun v => .spk (BitVec.ofNat 512 v)))

/-- `sgl` (R330, R332). -/
def execSgl (g : GroupLoc) (f : RegForm) (s : State) : Host.Outcome State Fault Refusal :=
  .next (State.runChain s 0x99 g f 32 false (fun v => .sgl (BitVec.ofNat 256 v)))

/-- `sxp` (R330, R333). -/
def execSxp (g : GroupLoc) (f : RegForm) (s : State) : Host.Outcome State Fault Refusal :=
  .next (State.runChain s 0x9A g f 64 false (fun v => .sxp (BitVec.ofNat 512 v)))

def ChainKind.isChn (k : ChainKind) : Bool :=
  match k with
  | .chn _ _ => true
  | _ => false

/-- `chst` (R269): the group waits for every `chn` it issued, takes its sticky bits, and clears those it took. -/
def State.runChst (s : State) (k : Nat) (g : GroupLoc) (f : RegForm) : State :=
  let x := State.cell s g.cell
  let sh : Shape :=
    { d := .uni, a := .none, b := .none, c := .none, sub := 1, imm := false, reserved := false, group := true, carries := false }
  if subField f 0 0 ≠ k then s
  else
    State.runUnit s g (regWords 0x91 f) (fun grp => regIllegal sh grp.regs f) (fun _ => none) (fun grp =>
      if x.chain.any (fun e => decide (e.2.owner = ownerOf g.slot grp) && ChainKind.isChn e.2.kind) then none
      else
        let v := NMap.get x.sticky 0 g.slot
        let grp := Group.advance (Group.writeUni grp f.dst.toNat v false 0) 0
        some (State.modCell s g.cell (fun x =>
          Cell.setGroup (if k = 0 then { x with sticky := NMap.set x.sticky 0 g.slot 0 } else x) g.slot grp)))

def execChstReadClear (g : GroupLoc) (f : RegForm) (s : State) : Host.Outcome State Fault Refusal := .next (State.runChst s 0 g f)
def execChstReadOnly (g : GroupLoc) (f : RegForm) (s : State) : Host.Outcome State Fault Refusal := .next (State.runChst s 1 g f)

/-! ### Events -/

/-- The immediates and the plan of an accepted instruction. -/
def ChainOp.immediates (o : ChainOp) : Immediates :=
  Sys2Proof.Machine.immediates (match o.kind with
    | .chn _ kd => kd
    | _ => false) o.x1.toNat o.x2.toNat

def ChainOp.plan (o : ChainOp) : ChainPlan := ChainKind.plan o.kind (ChainOp.immediates o)

/-- What an instruction writes, feeds and counts, over the cell as it reads it. -/
def ChainOp.run (o : ChainOp) (x : Cell) (n : Nat) (scale : Option Nat) : ChainResult :=
  match o.kind with
  | .chn v _ => ChainDesc.run (chainDesc v.toNat) (ChainOp.immediates o) x scale
  | .spk v => PackDesc.run (packDesc v.toNat) x n
  | .sgl v => SelectDesc.run (selectDesc v.toNat) (ChainOp.immediates o) x
  | .sxp v => ExpandDesc.run (expandDesc v.toNat) (ChainOp.immediates o) x

/-- The descriptor of a `chn`. -/
def ChainOp.chain (o : ChainOp) : Option ChainDesc :=
  match o.kind with
  | .chn v _ => some (chainDesc v.toNat)
  | _ => none

/-- Two lists of ranges share a byte (R271). -/
def ChainOp.waitsFor (o e : ChainOp) : Bool := pairsMeet (ChainOp.plan o).inputs (ChainOp.plan e).outputs

/-- The oldest instruction that has not begun could begin: no earlier incomplete one writes what it reads, and its scale is there. -/
def Cell.chainReady (x : Cell) : Bool :=
  match x.chain.find? (fun e => !e.2.begun) with
  | none => false
  | some (_, o) =>
    !x.chain.any (fun e => e.2.begun && ChainOp.waitsFor o e.2) && (match ChainOp.chain o with
      | some d => !d.dsrc || (Cell.scaleFor x d.slot o.step d.dfmt).isSome
      | none => true)

/-- `CHAIN_START` (R270 to R272, R283, R305), in turn with the collective port where that waits too: the oldest instruction that has not started reads its inputs, unless an earlier incomplete one
writes them or the scale it needs is missing; its credit returns. -/
def execChainStart (c : Nat) (s : State) : Host.Outcome State Fault Refusal :=
  let x := State.cell s c
  match x.chain.find? (fun e => !e.2.begun) with
  | none => .next s
  | some (id, o) =>
    if !State.cellRuns s c || (x.portTurn && !x.port.isEmpty) || x.chain.any (fun e => e.2.begun && ChainOp.waitsFor o e.2) then .next s
    else
      let slot : Option (Nat × Nat) := (ChainOp.chain o).bind (fun d => if d.dsrc then some (d.slot, d.dfmt) else none)
      let scale := slot.bind (fun k => Cell.scaleFor x k.1 o.step k.2)
      match slot, scale with
      | some k, none => .next (State.modCell s c (fun x => Cell.askScale x k.1 o.step))
      | _, _ =>
        let s := State.spoil s c (ChainOp.plan o).inputs
        let w := State.unitView s c (ChainOp.plan o).inputs []
        let view := w.1
        let n := w.2.freeCount
        let r := ChainOp.run o view n scale
        let drawn := match o.kind with
          | .spk _ => 65536
          | _ => 0
        let all := match o.kind with
          | .sxp v => ExpandDesc.unknown (expandDesc v.toNat) view
          | _ => false
        let o1 := { o with begun := true, scale := scale, writes := r.writes, counts := r.counts, markAll := all }
        let s1 := State.modCell { s with freeCount := n + drawn } c (fun x => { x with chain := NMap.insert x.chain id o1, portTurn := true })
        match ChainOp.chain o with
        | none => .next s1
        | some d =>
          let s2 := State.feed s1 c d.tag r.feeds
          .next (if d.dblk && d.dsrc then State.saturate s2 c d.slot r.counts.sat else s2)

/-- What an instruction with a residue error writes instead (Table 18.1): its outputs in the poisoned form of R291, as if every word of X
had been marked; the other instructions of the unit mark all they write. -/
def ChainOp.poisoned (o : ChainOp) (x : Cell) : ChainOp :=
  match ChainOp.chain o with
  | none => { o with markAll := true }
  | some d =>
    let view := (ChainDesc.inputs d).take 1 |>.foldl (fun x r => Cell.markLocal x r.start r.len true) x
    let r := ChainOp.run o view 0 o.scale
    { o with writes := r.writes, counts := { r.counts with poison := o.counts.poison } }

/-- The counts of a completed instruction (R273, R293, Tables 9.13 and 11.9). -/
def State.countChain (s : State) (c : Nat) (k : ChainCounts) : State :=
  let s := State.countConversions s c k
  let s := if k.empty = 0 then s else State.count s .chainEmpty 0 c k.empty
  let s := if k.ignored = 0 then s else State.count s .chainIgnored 0 c k.ignored
  let s := if k.poison then State.count s .chainPoison 0 c 1 else s
  let s := if k.drops = 0 then s else State.count s .sparseDrop 0 c k.drops
  let s := if k.dense = 0 then s else State.count s .spkDense 0 c k.dense
  let s := if k.capped = 0 then s else State.count s .sglCap 0 c k.capped
  State.count s .chainDone 0 c 1

/-- A residue error (Table 18.1, R520): it is counted, and the second within a day retires the cell. -/
def State.residueError (s : State) (c : Nat) : State :=
  let s := State.count s .chainHwErr 0 c 1
  let s := State.modCell s c (fun x => { x with residueErrors := dayOf x.residueErrors s.timebase ++ [(s.timebase : Stamp)] })
  if 2 ≤ (State.cell s c).residueErrors.length then State.retireCell s c else s

/-- `CHAIN_COMPLETE` (R273): the oldest instruction's outputs are performed; sticky bits and counters, then its arrival counter. -/
def execChainComplete (c : Nat) (residue : Bool) (s : State) : Host.Outcome State Fault Refusal :=
  let x := State.cell s c
  match x.chain with
  | [] => .next s
  | (id, o) :: _ =>
    if !o.begun || !State.cellRuns s c then .next s
    else
      let o := if residue then ChainOp.poisoned o x else o
      let s1 := State.modCell s c (fun x =>
        let x := Cell.perform x false o.writes
        let x := if o.markAll then (ChainOp.plan o).outputs.foldl (fun x r => Cell.markLocal x r.1 r.2 true) x else x
        let x := if ChainKind.isChn o.kind then Cell.stickOwner x o.owner o.counts else x
        { x with chain := NMap.erase x.chain id })
      let s1 := State.spoil s1 c (writtenRanges o.writes ++ (if o.markAll then (ChainOp.plan o).outputs else []))
      let s1 := State.countChain s1 c o.counts
      let s1 := if residue then State.residueError s1 c else s1
      .next (State.incrementOf s1 c o.counter)

end Sys2Proof.Machine
end

