-- ==== Sys2Proof/Machine/Platform.lean ====
section
/-!
DEFINITION. What the platform's state says: module states (Table 16.4), ports and their dimensions (R380 to R382), the command table (Table
16.8), and how a Sutha command completes (R469, R474).
-/

namespace Sys2Proof.Machine

/-! ### Parts of the state -/

def State.port (s : State) (p : Nat) : Port := NMap.get s.ports Port.reset p
def State.setPort (s : State) (p : Nat) (x : Port) : State := { s with ports := NMap.set s.ports Port.reset p x }
def State.modPort (s : State) (p : Nat) (f : Port → Port) : State := State.setPort s p (f (State.port s p))
def State.regionPower (s : State) (r : Nat) : RegionPower := NMap.get s.power.regions RegionPower.reset r
def State.modRegionPower (s : State) (r : Nat) (f : RegionPower → RegionPower) : State :=
  { s with power := { s.power with regions := NMap.upd s.power.regions RegionPower.reset r f } }
def State.modProofer (s : State) (f : Proofer → Proofer) : State :=
  { s with power := { s.power with proofer := f s.power.proofer } }
def State.ring (s : State) (r : Nat) : Ring := NMap.get s.rings Ring.reset r
def State.setRing (s : State) (r : Nat) (x : Ring) : State := { s with rings := NMap.set s.rings Ring.reset r x }
def State.job (s : State) (t : Half) : Job := NMap.get s.jobs Job.reset t.toNat
def State.modJob (s : State) (t : Half) (f : Job → Job) : State := { s with jobs := NMap.upd s.jobs Job.reset t.toNat f }
def State.mailbox (s : State) (m : Nat) : Mailbox := NMap.get s.host.mailboxes Mailbox.reset m
def State.modMailbox (s : State) (m : Nat) (f : Mailbox → Mailbox) : State :=
  { s with host := { s.host with mailboxes := NMap.upd s.host.mailboxes Mailbox.reset m f } }
def State.programme (s : State) (i : Nat) : Programme := NMap.get s.bench Programme.reset i
def State.modProgramme (s : State) (i : Nat) (f : Programme → Programme) : State :=
  { s with bench := NMap.upd s.bench Programme.reset i f }
def NonVolatile.cellMap (v : NonVolatile) (b : Nat) : CellMap := NMap.get v.cellMaps CellMap.reset b

/-! ### Ports (R380 to R382, R391) -/

def portCount : Nat := 40
def portRegion (p : Nat) : Nat := p / 5
def portElectrical (p : Nat) : Bool := decide (p % 5 = 4)

/-- The link carries traffic: LIVE, or in recovery, which does not take it down (R447, R450). -/
def Port.up (x : Port) : Bool := decide (x.state = .live) || decide (x.state = .recovery)

/-- The difference set of a port's partner (R382). -/
def Port.difference (x : Port) (own : Nat) : Option Nat := x.partner.map (fun q => q.module ^^^ own)

/-- The one dimension of a difference set with a single bit. -/
def singleBit (x : Nat) : Option Nat := if x ≠ 0 ∧ x = 2 ^ Nat.log2 x then some (Nat.log2 x) else none

/-- The electrical port of region 7, which is not connected and stays in DETECT (R380). -/
def portUnwired (p : Nat) : Bool := portElectrical p && decide (portRegion p = 7)

/-- The difference set a port is wired for: an electrical port of region r to the tray position of the own one xor r + 1 (R380), an optical port to
a dimension (Table 13.5). -/
def wiredDifference (p : Nat) : Option Nat :=
  let r := portRegion p
  match p % 5 with
  | 0 => some (2 ^ (r + 3))
  | 1 => some (2 ^ ((r + 4) % 8 + 3))
  | 2 => if r % 4 = 3 then none else some (2 ^ (11 + r % 4))
  | 4 => if r = 7 then none else some (r + 1)
  | _ => none

/-- The dimension a port is wired for. -/
def wiredDimension (p : Nat) : Option Nat := (wiredDifference p).bind singleBit

/-- The dimension below D that a port serves: by its partner, else by its wiring. -/
def State.portDimension (s : State) (p : Nat) : Option Nat :=
  let d := match (State.port s p).partner with
    | some q => singleBit (q.module ^^^ s.moduleNumber)
    | none => wiredDimension p
  match d with
  | some k => if k < s.fabric.dim then some k else none
  | none => none

/-- A direction of the port carries fewer than eight lanes (R453). -/
def Port.narrow (x : Port) : Bool := Port.up x && (decide (x.rxMap.length < 8) || decide (x.txMap.length < 8))

/-! ### Module states (Table 16.4) -/

/-- More SERVICE fuses are blown than REARM fuses (R483). -/
def State.serviced (s : State) : Bool := decide (s.nv.rearmBlown < s.nv.serviceBlown)

/-- A condition of DEGRADED holds (Table 16.4). -/
def State.impaired (s : State) : Bool :=
  (List.range 8).any (fun r => (NMap.get s.regions Region.reset r).fenced)
    || (List.range 64).any (fun b => (NMap.get s.blocks Block.reset b).fenced)
    || (List.range portCount).any (fun p =>
      let x := State.port s p
      (State.portDimension s p).isSome && (Port.narrow x || decide (x.state = .held) || decide (x.state = .disabled)))
    || s.time.holdover

/-- STATE (Table 16.4). -/
def State.mode (s : State) : Mode :=
  match s.phase with
  | .off => .off
  | .aux => .aux
  | .boot => .boot
  | .selftest => .selftest
  | .faulted => .faulted
  | .up =>
    if State.serviced s || s.debug then .service
    else if s.joined then (if State.impaired s then .degraded else .joined)
    else if decide (s.fabric.dim = 0) || (List.range portCount).all (fun p => decide ((State.port s p).state = .disabled)) then .ready
    else .training

def Mode.code (m : Mode) : Nat :=
  match m with
  | .off => 0
  | .aux => 1
  | .boot => 2
  | .selftest => 3
  | .training => 4
  | .ready => 5
  | .joined => 6
  | .degraded => 7
  | .faulted => 8
  | .service => 9

/-! ### The command table (Table 16.8) -/

inductive MailboxClass where
  | r | m | p
  deriving DecidableEq, Repr, Inhabited

inductive ServedIn where
  | all | op | svc
  deriving DecidableEq, Repr, Inhabited

/-- One code of Table 16.8, with the arguments its table lists, of eight bytes each (assumption 30). -/
structure CommandRow where
  code : Nat
  cls : MailboxClass
  states : ServedIn
  arguments : Nat
  cancellable : Bool
  deriving DecidableEq, Repr, Inhabited

def commandRow (code : Nat) (cls : MailboxClass) (states : ServedIn) (arguments : Nat) : CommandRow :=
  { code := code, cls := cls, states := states, arguments := arguments, cancellable := [0x0210, 0x0222, 0x0700, 0x0702, 0x0803, 0x0F04].contains code }

def commandTable : List CommandRow :=
  [commandRow 0x0000 .r .all 0, commandRow 0x0001 .r .all 0, commandRow 0x0003 .r .all 1, commandRow 0x0010 .m .all 1,
   commandRow 0x0100 .r .all 1, commandRow 0x0101 .m .op 2, commandRow 0x0102 .m .all 1, commandRow 0x0103 .m .op 2,
   commandRow 0x0104 .m .all 1, commandRow 0x0200 .r .op 2, commandRow 0x0201 .r .op 1, commandRow 0x0202 .r .op 3,
   commandRow 0x0203 .m .op 3, commandRow 0x0210 .r .op 2, commandRow 0x0211 .m .all 1, commandRow 0x0220 .m .op 1]
  ++ [commandRow 0x0221 .r .op 1, commandRow 0x0222 .m .svc 2, commandRow 0x0223 .r .all 1, commandRow 0x0300 .r .op 8,
   commandRow 0x0301 .r .op 1, commandRow 0x0302 .r .op 1, commandRow 0x0303 .r .op 2, commandRow 0x0310 .r .op 3,
   commandRow 0x0311 .r .op 6, commandRow 0x0312 .r .op 3, commandRow 0x0313 .r .op 3, commandRow 0x0400 .m .op 3,
   commandRow 0x0401 .r .all 1, commandRow 0x0402 .r .all 3, commandRow 0x0403 .m .op 3, commandRow 0x0500 .r .op 1]
  ++ [commandRow 0x0501 .r .op 1, commandRow 0x0502 .r .op 2, commandRow 0x0503 .r .op 3, commandRow 0x0600 .r .op 2,
   commandRow 0x0700 .m .svc 1, commandRow 0x0701 .r .svc 2, commandRow 0x0702 .r .svc 5, commandRow 0x0703 .r .svc 3,
   commandRow 0x0704 .r .svc 3, commandRow 0x0705 .r .svc 2, commandRow 0x0800 .r .all 3, commandRow 0x0801 .r .all 2,
   commandRow 0x0802 .r .all 3, commandRow 0x0803 .r .all 3, commandRow 0x0804 .r .op 4, commandRow 0x0F00 .p .all 2]
  ++ [commandRow 0x0F01 .p .all 1, commandRow 0x0F02 .p .svc 2, commandRow 0x0F03 .p .all 0, commandRow 0x0F04 .p .svc 3,
   commandRow 0x0F10 .p .op 1, commandRow 0x0F11 .p .op 1, commandRow 0x0F12 .p .op 3]

def commandOf (code : Nat) : Option CommandRow := commandTable.find? (fun c => decide (c.code = code))

/-- Codes the out-of-band mailbox serves in AUX already, and from BOOT onward (R493). -/
def oobAlways : List Nat := [0x0000, 0x0001, 0x0100, 0x0802]
def oobFromBoot : List Nat := [0x0102, 0x0104, 0x0401, 0x0402, 0x0800, 0x0801, 0x0803]

/-- A command is served in a module state (R490, Table 16.4). -/
def servedIn (c : ServedIn) (m : Mode) : Bool :=
  match m with
  | .off => false
  | .aux => false
  | .boot => decide (c = .all)
  | .selftest => decide (c = .all)
  | .faulted => decide (c = .all)
  | .service => decide (c ≠ .op)
  | _ => true

/-- Served in the state the module is in, by the mailbox asked: over SMBus the codes of R493 from AUX, or from BOOT, onward. -/
def State.served (s : State) (mb : Nat) (c : CommandRow) : Bool :=
  if mb = 16 then decide (s.phase ≠ .off) && (oobAlways.contains c.code || decide (s.phase ≠ .aux))
  else servedIn c.states (State.mode s)

/-! ### Completion (R469, R474) -/

/-- Step 5 of R474: the completion word, DONE_TIME, RES, then BUSY clear and DONE set. -/
def State.complete (s : State) (mb result : Nat) (res : List Byte) : State :=
  State.modMailbox s mb (fun m =>
    { m with
      result := result, resLen := res.length, doneSeq := m.ackSeq, progress := 0, doneTime := s.timebase
      res := res.zipIdx.foldl (fun r bi => NMap.set r 0 bi.2 bi.1) [], report := [], busy := false, done := true, running := none })

/-- Completion with values whose byte layout in RES the spec does not give: RES_LEN, and the bytes, are free (assumption 31). -/
def State.completeReport (s : State) (mb result : Nat) (values : List Nat) : State :=
  let f := State.free s
  let limit := if mb = 16 then 256 else 2048
  State.modMailbox (State.complete f.2 mb result []) mb (fun m =>
    { m with resLen := (Config.freeWord f.1).toNat % (limit + 1), report := values })

/-- What a long operation has so far (R477): the values stand in RES, RES_LEN covers complete records only; their bytes are free (assumption 31). -/
def State.reportSoFar (s : State) (mb : Nat) (values : List Nat) : State :=
  let f := State.free s
  let limit := if mb = 16 then 256 else 2048
  State.modMailbox f.2 mb (fun m => { m with resLen := (Config.freeWord f.1).toNat % (limit + 1), report := values })

/-- Results to a host address: by DMA, which needs Bus Master Enable (R464, R473); over SMBus, up to 240 bytes from a result offset (R493). -/
def State.deliver (s : State) (mb dst result : Nat) (bytes : List Byte) : State :=
  if mb = 16 then State.complete s mb result ((bytes.drop dst).take 240)
  else if s.host.busMaster then State.complete (State.emit s (.hostWrite dst bytes)) mb result []
  else State.complete s mb 0xFFFB []

/-- The same for values whose layout in host memory the spec does not give. -/
def State.deliverReport (s : State) (mb dst result : Nat) (values : List Nat) : State :=
  if mb = 16 then State.completeReport s mb result values
  else if s.host.busMaster then State.complete (State.emit s (.hostReport dst values)) mb result []
  else State.complete s mb 0xFFFB []

/-- Commands of one number here may act on the same object (R478): windows and memory, rings and jobs with their collectives and checkpoints, and so
on; 0: a command that acts on none that another changes. DESIGN CHOICE (assumption 104). -/
def commandFamily (code : Nat) : Nat :=
  if code < 0x10 then 0
  else if code = 0x0010 then 16
  else if code = 0x0F00 then 1
  else if code = 0x0F04 then 2
  else if code = 0x0600 ∨ code = 0x0701 ∨ code / 256 = 5 then 3
  else if code = 0x0F12 then 4
  else if code = 0x0F10 ∨ code = 0x0F11 then 17
  else code / 256

/-- Mailbox `a` was acknowledged before `b` (R478): by ACK_TIME, and then by number. -/
def State.ackedBefore (s : State) (a b : Nat) : Bool :=
  let x := (State.mailbox s a).ackTime
  let y := (State.mailbox s b).ackTime
  decide (x < y) || (decide (x = y) && decide (a < b))

/-- A command accepted earlier that may act on the same object has not begun: this one waits for it (R478). -/
def State.behind (s : State) (mb code : Nat) : Bool :=
  decide (commandFamily code ≠ 0) && (List.range 17).any (fun m => decide (m ≠ mb) && State.ackedBefore s m mb &&
    (State.mailbox s m).running.elim false (fun k => decide (k.stage = 0) && decide (commandFamily k.code = commandFamily code)))

/-- A command acts only while its mailbox runs its code (assumption 32), and begins when it is its turn. -/
def State.runs (s : State) (mb code : Nat) : Option Running :=
  match (State.mailbox s mb).running with
  | some k => if decide (k.code = code) && (decide (k.stage ≠ 0) || !State.behind s mb code) then some k else none
  | none => none

/-- A command that reads its arguments or data from host memory (R473): without Bus Master Enable it completes with 0xFFFB. -/
def State.reading (s : State) (mb : Nat) (f : State → State) : State :=
  if mb ≠ 16 ∧ s.host.busMaster = false then State.complete s mb 0xFFFB [] else f s

/-- How far the command of a mailbox is: steps it has taken (R477). -/
def State.stage (s : State) (mb : Nat) : Nat := ((State.mailbox s mb).running.map (·.stage)).getD 0

/-- Set PROGRESS of a long operation (R477). -/
def State.progress (s : State) (mb n : Nat) : State := State.modMailbox s mb (fun m => { m with progress := n % 2 ^ 16 })

/-- A long operation has finished a unit and goes on with the next (R477); `values`: what it keeps. -/
def State.goOn (s : State) (mb : Nat) (values : List Nat) : State :=
  State.modMailbox s mb (fun m => { m with running := m.running.map (fun k => { k with stage := k.stage + 1, values := values }) })

/-- A unit of `n` records, `before` of which others came, goes to a host address (R477); with the last of them the command completes. Bus Master Enable
off ends it (R464). -/
def State.deliverUnit (s : State) (mb dst before n : Nat) (bytes : List Byte) (values : List Nat) (last : Bool) : State :=
  if last then State.progress (State.deliver s mb dst 0 bytes) mb (if mb = 16 ∨ s.host.busMaster then before + n else before)
  else if !s.host.busMaster then State.progress (State.complete s mb 0xFFFB []) mb before
  else State.progress (State.goOn (State.emit s (.hostWrite dst bytes)) mb values) mb (before + n)

/-- Run `f` for the mailbox, where it runs that code. -/
def State.command (s : State) (mb code : Nat) (f : State → State) : Host.Outcome State Fault Refusal :=
  match State.runs s mb code with
  | some _ => .next (f s)
  | none => .next s

/-- Complete a running command with a common result (Table 16.7); a checkpoint that it ran is over. -/
def State.endCommand (s : State) (mb result : Nat) : State :=
  let tags := (s.jobs.filter (fun e => e.2.checkpoint.elim false (fun k => decide (k.mailbox = mb)))).map (·.1)
  State.complete (tags.foldl (fun s t => State.modJob s (BitVec.ofNat 16 t) (fun j => { j with checkpoint := none })) s) mb result []

/-- Complete every BUSY command that `p` picks with a common result. -/
def State.endCommands (s : State) (result : Nat) (p : Running → Bool) : State :=
  (List.range 17).foldl (fun s mb =>
    match (State.mailbox s mb).running with
    | some k => if p k then State.endCommand s mb result else s
    | none => s) s

/-! ### The alarm table's summary (Table 16.3) -/

/-- Bits [47:40] of the status word from the outstanding alarms: code group g shows in bit 47 − g (R526). -/
def Telemetry.summary (t : Telemetry) : Nat :=
  let codes := t.alarms.map (·.code) ++ t.reserved.map (fun e => e.2.code)
  maskOf (dedupe (codes.map (fun c => 7 - c / 32)))

end Sys2Proof.Machine
end

