-- ==== Sys2Proof/Machine/Windows.lean ====
section
/-!
DEFINITION. The Fabric Window Table and its commands (R364 to R372, R397), and the resolution of window misses through a server (R369).
-/

namespace Sys2Proof.Machine

/-! ### The table (R364, R365) -/

/-- A Fabric Window Table entry (Table 13.2). -/
structure WindowEntry where
  vpn : Nat
  tag : Half
  module : Nat
  ppn : Nat
  kind : Nat
  valid : Bool
  rd : Bool
  wr : Bool
  at_ : Bool
  ex : Bool
  roc : Bool
  rest : Nat
  deriving DecidableEq, Repr, Inhabited

def windowEntry (w : BitVec 128) : WindowEntry :=
  let v := w.toNat
  { vpn := bits v 127 96, tag := BitVec.ofNat 16 (bits v 95 80), module := bits v 79 66, ppn := bits v 65 44, kind := bits v 43 42
    valid := bitOf v 41, rd := bitOf v 40, wr := bitOf v 39, at_ := bitOf v 38, ex := bitOf v 37, roc := bitOf v 36, rest := bits v 35 0 }

def bucket1 (v : Nat) : Nat := (v ^^^ v / 2 ^ 19) % 2 ^ 19
def bucket2 (v : Nat) : Nat := bucket1 v ^^^ (v / 2 ^ 7 % 2 ^ 19) ^^^ 0x5A5A5

/-- Where bucket `b` lies: region b & 7, at region offset 128 × (b >> 3), as region × 8 MiB + offset (R365, Table 12.2). -/
def bucketPlace (b : Nat) : Nat := b % 8 * 2 ^ 23 + 128 * (b / 8)

/-- The table slots, by the places of their 16 bytes, where an entry for page `v` may lie, in the order of placement (R365). -/
def windowSlots (v : Nat) : List Nat :=
  let b1 := bucket1 v
  let b2 := bucket2 v
  tabulate 8 (fun i => bucketPlace b1 + 16 * i) ++ (if b2 = b1 then [] else tabulate 8 (fun i => bucketPlace b2 + 16 * i))

def Fabric.entryAt (f : Fabric) (k : Nat) : Option WindowEntry := (NMap.find f.table k).map windowEntry

/-- The slot of the VALID entry for page `v`, of the kind wanted. -/
def Fabric.slotOf (f : Fabric) (v : Nat) (kind : Option Nat) : Option Nat :=
  (windowSlots v).find? (fun k =>
    match Fabric.entryAt f k with
    | some e => decide (e.vpn = v) && e.valid && (match kind with
        | some n => decide (e.kind = n)
        | none => true)
    | none => false)

def Fabric.page (f : Fabric) (v : Nat) : Option WindowEntry := (Fabric.slotOf f v (some 0)).bind (Fabric.entryAt f)

/-- The indirect entry that covers page `v` (R367). -/
def Fabric.indirect (f : Fabric) (v : Nat) : Option WindowEntry := (Fabric.slotOf f (v / 512 * 512) (some 1)).bind (Fabric.entryAt f)

/-- A page entry as the caches hold it (R368). -/
def WindowEntry.translation (e : WindowEntry) (via : Option Nat) : Translation :=
  { vpn := e.vpn, job := e.tag, home := e.module, ppn := e.ppn, rd := e.rd, wr := e.wr, at_ := e.at_, ex := e.ex, roc := e.roc, via := via }

/-- The entry breaks R364. -/
def WindowEntry.bad (e : WindowEntry) : Bool :=
  !e.valid || decide (e.tag = 0) || decide (e.rest ≠ 0) || decide (2 ≤ e.kind) ||
    (decide (e.kind = 1) && (decide (e.vpn % 512 ≠ 0) || decide (e.ppn ≠ 0) || e.rd || e.wr || e.at_ || e.ex || e.roc)) ||
    (e.roc && (!e.rd || e.wr || e.at_))

/-- A page entry maps a page in the reserved area of its home (R338). -/
def WindowEntry.reservedArea (e : WindowEntry) : Bool :=
  decide (e.kind = 0) && !bitOf e.ppn 21 && decide (e.ppn * 2 ^ 21 % 2 ^ 39 < 0x10000000)

/-- What the table does with one entry (R365, R366; result codes of Table 13.8): the result, the table, and whether an existing entry changed. -/
def Fabric.mapEntry (f : Fabric) (w : BitVec 128) : Nat × Fabric × Bool :=
  let e := windowEntry w
  if WindowEntry.bad e then (2, f, false)
  else if WindowEntry.reservedArea e then (4, f, false)
  else
    match Fabric.slotOf f e.vpn none with
    | some k =>
      match Fabric.entryAt f k with
      | some o => if o.tag = e.tag then (0, { f with table := NMap.insert f.table k w }, true) else (1, f, false)
      | none => (1, f, false)
    | none =>
      match (windowSlots e.vpn).find? (fun k => (NMap.find f.table k).isNone) with
      | some k => (0, { f with table := NMap.insert f.table k w }, false)
      | none => (3, f, false)

/-! ### Shoot-down (R370) -/

/-- The page a query may bring, as far as it is known before its answer. -/
def WindowQuery.translation (q : WindowQuery) : Translation :=
  { vpn := q.vpn, job := q.tag, home := q.server, ppn := 0, rd := false, wr := false, at_ := false, ex := false, roc := false, via := some q.via }

/-- Remove pages, and what came from indirect entries, from every window cache and lookaside of the module; what queries under way bring of them
is not to be used. -/
def State.shootDown (s : State) (gone : Translation → Bool) : State :=
  let keep (l : List Translation) : List Translation := l.filter (fun t => !gone t)
  { s with
    fabric := { s.fabric with queries := s.fabric.queries.map (fun q => { q with stale := q.stale || gone (WindowQuery.translation q) }) }
    cells := NMap.remap Cell.reset (fun x => { x with lookaside := keep x.lookaside }) s.cells
    regions := NMap.remap Region.reset (fun x => { x with windowCache := NMap.remap [] keep x.windowCache }) s.regions }

/-- The line-miss slots and copy slots that are outstanding, by cell and identity. -/
def State.outstandingSlots (s : State) : List (Nat × Nat) :=
  s.cells.flatMap (fun e => e.2.misses.map (fun m => (e.1, m.1)) ++ e.2.copies.map (fun k => (e.1, 2 ^ 64 + k.2.age)))

/-- A command that has written the table (steps 1 and 2 of R370) waits for what was outstanding then, and completes when all has returned. -/
def State.afterShootDown (s : State) (mb : Nat) (k : Running) (values : List Nat) (changed : Bool) : State :=
  let waits := if changed then State.outstandingSlots s else []
  if waits.isEmpty then State.completeReport s mb 0 values
  else State.modMailbox s mb (fun m => { m with running := some { k with stage := 1, values := values, waits := waits } })

def State.resumeShootDown (s : State) (mb : Nat) (k : Running) : State :=
  let now := State.outstandingSlots s
  let waits := k.waits.filter (fun w => now.contains w)
  if waits.isEmpty then State.completeReport s mb 0 k.values
  else State.modMailbox s mb (fun m => { m with running := some { k with waits := waits } })

/-- `WINDOW_MAP` (0x0200): the entries are those Baker reads by DMA. -/
def execWindowMap (mb : Nat) (entries : List (BitVec 128)) (s : State) : Host.Outcome State Fault Refusal :=
  match State.runs s mb 0x0200 with
  | none => .next s
  | some k =>
    if k.stage = 1 then .next (State.resumeShootDown s mb k)
    else
      .next (State.reading s mb (fun s =>
        let r := entries.foldl (fun (acc : Fabric × List Nat × List (BitVec 128)) w =>
          let a := Fabric.mapEntry acc.1 w
          (a.2.1, acc.2.1 ++ [a.1], if a.2.2 then acc.2.2 ++ [w] else acc.2.2)) (s.fabric, [], [])
        let changed := r.2.2.map windowEntry
        let s := State.shootDown { s with fabric := r.1 } (fun t => changed.any (fun e =>
          decide (t.vpn = e.vpn) || decide (t.via = some e.vpn)))
        State.afterShootDown s mb k r.2.1 (!changed.isEmpty)))

/-- The entries an unmap removes (Table 13.8). -/
def UnmapSel.picks (u : UnmapSel) (e : WindowEntry) : Bool :=
  match u with
  | .job t => decide (e.tag = t)
  | .pages first count => decide (first ≤ e.vpn ∧ e.vpn < first + count)

/-- `WINDOW_UNMAP` (0x0201): reports how many entries are removed. -/
def execWindowUnmap (mb : Nat) (sel : UnmapSel) (s : State) : Host.Outcome State Fault Refusal :=
  match State.runs s mb 0x0201 with
  | none => .next s
  | some k =>
    if k.stage = 1 then .next (State.resumeShootDown s mb k)
    else
      let removed := s.fabric.table.filter (fun e => UnmapSel.picks sel (windowEntry e.2))
      let pages := removed.map (fun e => (windowEntry e.2).vpn)
      let table := s.fabric.table.filter (fun e => !UnmapSel.picks sel (windowEntry e.2))
      let s := State.shootDown { s with fabric := { s.fabric with table := table } } (fun t =>
        pages.contains t.vpn || (match t.via with
          | some v => pages.contains v
          | none => false))
      .next (State.afterShootDown s mb k [removed.length] (!removed.isEmpty))

/-- `WINDOW_QUERY` (0x0202): the entries of the pages asked for, 16 bytes each, zero where there is none. -/
def execWindowQuery (mb first count dst : Nat) (s : State) : Host.Outcome State Fault Refusal :=
  State.command s mb 0x0202 (fun s =>
    let found := (List.range count).map (fun i =>
      match (Fabric.slotOf s.fabric (first + i) none).bind (NMap.find s.fabric.table) with
      | some w => w.toNat
      | none => 0)
    State.deliver s mb dst 0 (found.flatMap (toBytes 16)))

/-! ### Owner tags (R372) -/

/-- All of a range of 2 MiB pages is populated and outside the reserved area. -/
def State.populatedPages (s : State) (pa pages : Nat) : Bool :=
  (List.range pages).all (fun i => (homeOf (State.ilv s) (pa / 2 ^ 21 * 2 ^ 21 + i * 2 ^ 21)).2.2)

/-- `OWNER_SET` (0x0203). -/
def execOwnerSet (mb pa pages : Nat) (tag : BitVec 16) (s : State) : Host.Outcome State Fault Refusal :=
  State.command s mb 0x0203 (fun s =>
    if State.populatedPages s pa pages then
      let owners := (List.range pages).foldl (fun m i => NMap.set m 0 (pa / 2 ^ 21 + i) tag) s.fabric.owners
      State.complete { s with fabric := { s.fabric with owners := owners } } mb 0 []
    else State.complete s mb 1 [])

/-! ### Misses (R92, R369) -/

/-- What the window table holds of page `v`: a page entry, an indirect entry, or nothing. -/
inductive WindowFound where
  | page (t : Translation)
  | server (module via : Nat)
  | nothing
  deriving DecidableEq, Repr, Inhabited

def Fabric.resolve (f : Fabric) (v : Nat) : WindowFound :=
  match Fabric.page f v with
  | some e => .page (WindowEntry.translation e none)
  | none =>
    match Fabric.indirect f v with
    | some e => .server e.module e.vpn
    | none => .nothing

def State.setPark (s : State) (c slot : Nat) (f : ParkRecord → ParkRecord) : State :=
  State.modCell s c (fun x => { x with parkList := NMap.mod x.parkList slot f })

def State.fillRegion (s : State) (r : Nat) (t : Translation) : State := State.setRegion s r (Region.fillWindow (State.region s r) t)

/-- The record is handed to the runtime (R92): it is HELD, and logged. -/
def State.handOver (s : State) (c slot : Nat) : State :=
  match NMap.find (State.cell s c).parkList slot with
  | none => s
  | some p =>
    let s := State.setPark s c slot (fun p => { p with state := .held })
    State.log s 0x0021 3 c p.job [2, slot * 2 ^ 16 + c, p.code.toNat * 256 + p.detail.toNat, p.addr.toNat, p.stamp]

/-- Ask a window server for page `v` (R369); a server that is declared failed answers nothing. -/
def State.askServer (s : State) (q : WindowQuery) : State :=
  let s := State.count s .winQueries 0 (regionOf q.cell) 1
  State.emit { s with fabric := { s.fabric with queries := s.fabric.queries ++ [q] } } (.fabric q.server (.winQuery q.vpn q.tag))

/-- The region controller resolves a WINDOW_MISS record for page `v` (R92, R369): the table's page entry fills the window cache and the group is
replayed; an indirect entry's server is asked; else the runtime has the record. -/
def State.resolveMiss (s : State) (c slot v : Nat) (tag : Half) : State :=
  match Fabric.resolve s.fabric v with
  | .page t => State.setPark (State.fillRegion s (regionOf c) t) c slot (fun p => { p with state := .replay })
  | .server m via =>
    if (NMap.find s.fabric.failed m).isSome then State.handOver s c slot
    else State.askServer s { cell := c, slot := slot, vpn := v, tag := tag, server := m, via := via, stale := false }
  | .nothing => State.handOver s c slot

/-- `WIN_QUERY` (R369): a page entry of this module's own table whose job tag matches, or NONE. -/
def execWinQuery (source : Nat) (vpn : BitVec 32) (tag : BitVec 16) (s : State) : Host.Outcome State Fault Refusal :=
  let found := (Fabric.slotOf s.fabric vpn.toNat (some 0)).bind (NMap.find s.fabric.table)
  let answer := match found with
    | some w => if (windowEntry w).tag = tag then some w else none
    | none => none
  .next (State.emit s (.fabric source (.winReply vpn.toNat tag answer)))

/-- A query whose indirect entry has changed meanwhile brings nothing (R370): the group's record is resolved anew; a collective and a ring look their
page up again of themselves. -/
def State.askAgain (s : State) (q : WindowQuery) : State :=
  if 64 ≤ q.slot then s
  else match NMap.find (State.cell s q.cell).parkList q.slot with
    | some p => if p.state = .resolving then State.resolveMiss s q.cell q.slot q.vpn q.tag else s
    | none => s

/-- What a query's answer does for who asked: a group's record is replayed or handed over; slot 64 stands for the collective engine of the
cell's region, whose collective then finds the page or ends (R404); slot 128 + r for ring r, whose record names a binding block. -/
def State.settleQuery (s : State) (q : WindowQuery) (entry : Option WindowEntry) : State :=
  let s := { s with fabric := { s.fabric with queries := s.fabric.queries.erase q } }
  if q.stale then State.askAgain s q
  else match entry with
  | some e =>
    let s := State.fillRegion s (regionOf q.cell) (WindowEntry.translation { e with vpn := q.vpn } (some q.via))
    if 64 ≤ q.slot then s else State.setPark s q.cell q.slot (fun p => if p.state = .resolving then { p with state := .replay } else p)
  | none =>
    if q.slot = 64 then
      { s with groups := s.groups.map (fun g =>
          (g.1, if g.2.anchor = q.cell then
            { g.2 with run := g.2.run.map (fun r => if r.started || r.ending.isSome then r else { r with ending := some (5, s.moduleNumber) }) } else g.2)) }
    else if 128 ≤ q.slot then
      let x := State.ring s (q.slot - 128)
      if x.status = .running then State.setRing s (q.slot - 128) { x with status := .stopped, error := 8 } else s
    else
      match NMap.find (State.cell s q.cell).parkList q.slot with
      | some p => if p.state = .resolving then State.handOver s q.cell q.slot else s
      | none => s

/-- `WIN_REPLY` (R369), of the oldest query of that page to that server: a page entry fills the region window cache and the group is replayed; NONE
hands the record to the runtime. -/
def execWinReply (server : Nat) (vpn : BitVec 32) (tag : BitVec 16) (entry : Option (BitVec 128)) (s : State) : Host.Outcome State Fault Refusal :=
  match s.fabric.queries.find? (fun q => decide (q.server = server ∧ q.vpn = vpn.toNat ∧ q.tag = tag)) with
  | none => .next s
  | some q => .next (State.settleQuery s q (entry.map windowEntry))

end Sys2Proof.Machine
end

