-- ==== Sys2Proof/Machine/Placement.lean ====
section
/-!
DEFINITION. Launch records and the life of a group: placement (R60 to R71, R150, R485 to R488), retirement (R81), the park notice and replay
(R90 to R95), and the notify of a finished record (R489).
-/

namespace Sys2Proof.Machine

/-! ### Launch records (Table 16.9) -/

structure LaunchRecord where
  codeBase : Nat
  args : Nat
  groupBase : Nat
  groups : Nat
  epoch : Nat
  regs : Nat
  deferred : Bool
  spill : Nat
  bind : Nat
  target : Nat
  inc : Nat
  cells : Nat
  rest : Nat
  deriving DecidableEq, Repr, Inhabited

def launchRecord (v : Nat) : LaunchRecord :=
  { codeBase := bits v 1023 960, args := bits v 959 896, groupBase := bits v 895 832, groups := bits v 831 800, epoch := bits v 799 784
    regs := bits v 783 775, deferred := bitOf v 774, spill := bits v 773 772, bind := bits v 767 704, target := bits v 703 640
    inc := bits v 639 624, cells := bits v 575 192, rest := bits v 771 768 + bits v 623 576 + bits v 191 0 }

/-- The spill allowance in entries (R80). -/
def LaunchRecord.allowance (r : LaunchRecord) : Nat :=
  match r.spill with
  | 0 => 0
  | 1 => 32
  | 2 => 64
  | _ => 128

def Ring.size (x : Ring) : Nat := 2 ^ (x.sizeLog2 + 4)
def Ring.waiting (x : Ring) : Nat := (x.tail + 2 ^ 32 - x.head) % 2 ^ 32

/-- The region whose controller owns a ring: the lowest that holds a cell of its set (R487). -/
def Ring.owner (x : Ring) : Nat := ((List.range cellCount).find? (fun c => x.cells.getLsbD c)).getD 0 / 48

/-- Bytes of the module's own memory, as the region controllers read them. -/
def State.homeBytes (s : State) (pa n : Nat) : List Byte :=
  tabulate n (fun i => let h := homeOf (State.ilv s) (pa + i); State.byteAt s h.1 h.2.1)

/-- Record HEAD of a ring (R486). -/
def State.recordAt (s : State) (x : Ring) : LaunchRecord :=
  launchRecord (ofBytes (State.homeBytes s (x.base + 128 * (x.head % Ring.size x)) 128))

/-- What can be read at a fabric-virtual address under a job's windows: a page of some home, a page known only through a server, or nothing. -/
def State.windowFor (s : State) (r : Nat) (ea : Nat) : WindowFound :=
  match pageOf ea with
  | none => .nothing
  | some v =>
    match Region.translation (State.region s r) v with
    | some t => .page t
    | none => Fabric.resolve s.fabric v

/-- The checks of R488, in the order of their codes; a binding block whose page only a server knows does not fail here. -/
def State.recordError (s : State) (x : Ring) (r : LaunchRecord) : Option Nat :=
  let epoch := ((State.job s x.tag).epoch.getD 0).toNat
  let unreadable := match State.windowFor s (Ring.owner x) r.bind with
    | .page t => decide ((permission t x.tag .read).isSome)
    | .server _ _ => false
    | .nothing => true
  firstSome [check (decide (r.rest ≠ 0)) 1, check (decide (r.regs < 32 ∨ 256 < r.regs ∨ r.regs % 8 ≠ 0)) 2,
    check (decide (r.cells = 0) || decide (r.cells &&& x.cells.toNat ≠ r.cells)) 3, check (decide (r.spill ≠ 0) && !x.spill) 4,
    check (serialOlder 16 r.epoch epoch) 5, check (decide (r.groups = 0)) 6, check (decide (r.codeBase % 8 ≠ 0)) 7,
    check (decide (r.bind ≠ 0) && (decide (r.bind % 64 ≠ 0) || unreadable)) 8, check (decide (r.inc ≠ 0) && targetBad r.target) 9]

/-- A ring stops with an error code (R487, R488). -/
def State.stopRing (s : State) (ring code : Nat) : State :=
  let x := State.ring s ring
  if x.status = .stopped then s else State.setRing s ring { x with status := .stopped, error := code }

/-! ### Room (R62, R63, R67) -/

/-- Resident groups of a pipeline. -/
def Cell.pipeGroups (x : Cell) (p : Nat) : List (Nat × Group) := x.groups.filter (fun e => decide (e.1 / 16 = p))

/-- The lowest run of `n` free registers of a pipeline, in granules of 8. -/
def Cell.freeRun (x : Cell) (p n : Nat) : Option Nat :=
  (tabulate 64 (fun i => 8 * i)).find? (fun b =>
    decide (b + n ≤ 512) && (Cell.pipeGroups x p).all (fun e => decide (b + n ≤ e.2.regBase ∨ e.2.regBase + e.2.regs ≤ b)))

/-- Slot and register base for a group in a pipeline. -/
def Cell.roomIn (x : Cell) (p n : Nat) (deferred : Bool) : Option (Nat × Nat) :=
  let gs := Cell.pipeGroups x p
  if deferred ∧ x.deferLimit ≤ (gs.filter (fun e => e.2.deferred)).length then none
  else
    match (List.range 16).find? (fun i => (NMap.find x.groups (16 * p + i)).isNone), Cell.freeRun x p n with
    | some i, some b => some (16 * p + i, b)
    | _, _ => none

def Cell.room (x : Cell) (n : Nat) (deferred : Bool) : Option (Nat × Nat) :=
  if x.retiring then none
  else (List.range 4).foldl (fun a p => match a with
    | some r => some r
    | none => Cell.roomIn x p n deferred) none

/-- A Tasting run reserves the cell: no group is placed in it (R317). -/
def State.tasted (s : State) (c : Nat) : Bool := s.tasting.elim false (fun t => t.cells.contains c)

/-- The lowest-numbered allowed cell that has room (R63), with the slot and the register base. -/
def State.roomFor (s : State) (r : LaunchRecord) : Option (Nat × Nat × Nat) :=
  (List.range cellCount).foldl (fun a c => match a with
    | some v => some v
    | none =>
      if r.cells.testBit c && State.cellRuns s c && !State.tasted s c && (State.regionPower s (regionOf c)).on then (Cell.room (State.cell s c) r.regs r.deferred).map (fun b => (c, b.1, b.2)) else none) none

/-! ### Placement -/

/-- A group as placed: all lanes active (R60), u0 to u7 loaded (R71), every other register zero (Table 3.2), none marked (assumption 3). -/
def placedGroup (r : LaunchRecord) (ring launch age c slot base i : Nat) (tag : Half) : Group :=
  let gid := (r.groupBase + i) % 2 ^ 64
  let regs : List Nat := [gid % 2 ^ 32, gid / 2 ^ 32, r.args % 2 ^ 32, r.args / 2 ^ 32, c / 48 * 2 ^ 16 + c / 6 % 8 * 2 ^ 8 + c % 6,
    slot + b2n r.deferred * 2 ^ 8, r.regs + LaunchRecord.allowance r * 2 ^ 16, r.epoch]
  { ring := ring, launch := launch, job := tag, deferred := r.deferred, age := age, regBase := base, regs := r.regs
    allowance := LaunchRecord.allowance r, codeBase := BitVec.ofNat 64 r.codeBase, w := [], wPoison := [], wSource := []
    u := regs.zipIdx.foldl (fun m e => NMap.set m 0 e.2 (BitVec.ofNat 32 e.1)) [], uPoison := [], uSource := [], p := []
    active := BitVec.ofNat 32 (2 ^ 32 - 1), stack := [], spilled := 0, pc := 0, issued := false, fetched := [], awaited := [], acquire := [], hold := .none
    pendingFault := none, replays := 0 }

/-- The clearing of R150 before the first group of another job: local memory, its marks and the slice count (R234). -/
def Cell.forJob (x : Cell) (tag epoch : Half) : Cell :=
  let x := if x.lastJob = tag then x else Cell.reconfigure (Cell.clearLocal (Cell.disturbAll x)) 1
  { x with lastJob := tag, epochs := NMap.set x.epochs 0 tag.toNat epoch }

/-- The binding table written from a binding block (R296); an entry whose tag has counted waits for the next step. -/
def Sieve.bind (v : Sieve) (t : ScaleTable) (block : List Byte) (job : Half) : Sieve :=
  (List.range 16).foldl (fun v i =>
    let w := ofBytes ((block.drop (4 * i)).take 4)
    let slot := bits w 19 8
    let b : Binding := { valid := bitOf w 31, binLo := (ScaleTable.slot t slot).binLo, slot := slot, job := job }
    if (NMap.find v.counting.tags i).isSome then { v with waiting := NMap.set v.waiting default i b }
    else { v with bindings := NMap.set v.bindings default i b }) v

/-- The 64 bytes of a record's binding block: those of this module's memory, or those read from another module. -/
def State.bindingBlock (s : State) (x : Ring) (bind : Nat) : List Byte :=
  match x.binding, State.windowFor s (Ring.owner x) bind with
  | some b, _ => b.2
  | none, .page t => State.homeBytes s (fabricAddress t bind % 2 ^ 43) 64
  | none, _ => List.replicate 64 0

/-- What the placement of a record waits for: nothing; an answer; a window server's answer; or its binding block, at a fabric address of another
module. -/
inductive BindingNeed where
  | ready
  | waits
  | ask (server via : Nat)
  | fetch (fa : Nat)
  deriving DecidableEq, Repr, Inhabited

def State.bindingNeed (s : State) (x : Ring) (bind : Nat) : BindingNeed :=
  if bind = 0 then .ready
  else match x.binding with
    | some b => if b.2.isEmpty then .waits else .ready
    | none =>
      match State.windowFor s (Ring.owner x) bind with
      | .server m via => .ask m via
      | .page t => if t.home = s.moduleNumber then .ready else .fetch (fabricAddress t bind)
      | .nothing => .ready

/-- The owner reads a binding block from the module that is its home (R296, R374). -/
def State.fetchBinding (s : State) (ring : Nat) (x : Ring) (fa : Nat) : State :=
  let q : RequestPacket :=
    { source := s.moduleNumber, destination := fa / 2 ^ 43, sourceCell := 48 * Ring.owner x, txn := 0, tag := x.tag, reuse := 1
      body := .load (fa % 2 ^ 43) (BitVec.ofNat 64 (2 ^ 64 - 1)) }
  let op := s.nextId
  let s := State.setRing { s with nextId := op + 1 } ring { x with binding := some (op, []) }
  State.settleRegion (State.sendRemote s (48 * Ring.owner x) (128 + ring) op 3 q none []) (Ring.owner x)

/-- The launch's first group in a cell writes the binding table. -/
def State.bindCell (s : State) (c launch : Nat) (x : Ring) (r : LaunchRecord) : State :=
  match NMap.find s.launches launch with
  | none => s
  | some l =>
    if r.bind = 0 ∨ l.bound.contains c then s
    else
      let b := State.bindingBlock s x r.bind
      let s := { s with launches := NMap.insert s.launches launch { l with bound := l.bound ++ [c] } }
      State.modCell s c (fun y => { y with sieve := Sieve.bind y.sieve s.scale b x.tag })

/-- Put group `x.placed` of the record at HEAD where there is room for it. -/
def State.placeGroup (s : State) (ring : Nat) (x : Ring) (r : LaunchRecord) (c slot base : Nat) : State :=
  let launch := x.launch.getD s.nextId
  let s := if x.launch.isSome then s
    else { s with
      nextId := s.nextId + 1
      launches := NMap.insert s.launches launch
        { tag := x.tag, target := BitVec.ofNat 64 r.target, inc := r.inc, region := Ring.owner x, complete := false, bound := [], retired := [] } }
  let s := State.bindCell s c launch x r
  let s := State.modCell s c (fun y =>
    let y := Cell.forJob y x.tag ((State.job s x.tag).epoch.getD 0)
    let y := Cell.setGroup y slot (placedGroup r ring launch y.nextAge c slot base x.placed x.tag)
    { y with nextAge := y.nextAge + 1, sticky := NMap.set y.sticky 0 slot 0 })
  if x.placed + 1 = r.groups then
    let s := { s with launches := NMap.mod s.launches launch (fun l => { l with complete := true }) }
    State.setRing s ring { x with head := (x.head + 1) % 2 ^ 32, placed := 0, launch := none, binding := none }
  else State.setRing s ring { x with placed := x.placed + 1, launch := some launch }

/-- `GROUP_PLACE` (R63, R418): the ring's next group, after the record's checks (R488), goes to the lowest allowed cell and pipeline with room. -/
def execGroupPlace (ring : Nat) (s : State) : Host.Outcome State Fault Refusal :=
  let x := State.ring s ring
  if x.status ≠ .running ∨ Ring.waiting x = 0 ∨ s.phase ≠ .up ∨ (State.job s x.tag).checkpoint.isSome
      ∨ (State.region s (Ring.owner x)).fenced then .next s
  else
    let h := homeOf (State.ilv s) (x.base + 128 * (x.head % Ring.size x))
    let r := State.recordAt s x
    if (NMap.get s.regions Region.reset h.1).fenced then .next s
    else
      match (if x.placed = 0 then State.recordError s x r else none) with
      | some e => .next (State.stopRing s ring e)
      | none =>
        match State.bindingNeed s x r.bind with
        | .waits => .next s
        | .fetch fa => .next (State.fetchBinding s ring x fa)
        | .ask m via =>
          let q : WindowQuery :=
            { cell := 48 * Ring.owner x, slot := 128 + ring, vpn := r.bind / 2 ^ 21, tag := x.tag, server := m, via := via, stale := false }
          if s.fabric.queries.any (fun e => decide (e.slot = q.slot)) then .next s
          else if (NMap.find s.fabric.failed m).isSome then .next (State.stopRing s ring 8)
          else .next (State.askServer s q)
        | .ready =>
          match State.roomFor s r with
          | none => .next s
          | some p => .next (State.placeGroup s ring x r p.1 p.2.1 p.2.2)

/-! ### Retirement (R81, R95) -/

/-- A group leaves its slot, with its park record, its fetches and its entries of the register cache; its drawers close (R243). -/
def State.dropGroup (s : State) (g : GroupLoc) (grp : Group) : State :=
  let s := State.modCell s g.cell (fun x =>
    Cell.modCache
      { x with
        groups := NMap.erase x.groups g.slot
        parkList := NMap.erase x.parkList g.slot
        accesses := x.accesses.filter (fun e => decide (e.2.slot ≠ g.slot)) }
      (g.slot / 16) (fun l => RegCache.dropSlot l g.slot))
  State.closeDrawers s g.cell (ownerOf g.slot grp)

/-- `GROUP_RETIRE` (R81, R95): a group with no lane left, or one the runtime discards, leaves once every operation that writes its registers
has completed; its drawers then close (R243). -/
def execGroupRetire (g : GroupLoc) (s : State) : Host.Outcome State Fault Refusal :=
  match State.group s g with
  | none => .next s
  | some grp =>
    let x := State.cell s g.cell
    let discarded := match NMap.find x.parkList g.slot with
      | some p => decide (p.state = .discard)
      | none => decide (grp.active = 0)
    let answers := x.array.any (fun e => decide (e.2.owner = ownerOf g.slot grp) && (match e.2.kind with
      | .qry _ => true
      | .slc _ _ _ => true
      | _ => false))
    if !discarded ∨ x.accesses.any (fun e => decide (e.2.slot = g.slot ∧ e.2.kind ≠ .fetch)) ∨ answers then .next s
    else
      let s := { s with launches := NMap.mod s.launches grp.launch (fun l => { l with retired := l.retired ++ [(g.cell, g.slot, grp.age)] }) }
      .next (State.dropGroup s g grp)

/-! ### Park records (R90 to R95) -/

/-- A park notice has left its cell: it holds an ordinary MGT credit of the cell's path (R29), the earlier ones first. -/
def State.noticeSent (s : State) (g : GroupLoc) : Bool :=
  let path := mgtPath 3 g.cell
  ((State.noticesOn s path).take (mgtOrdinary path - Telemetry.alarmsOn s.tel path)).contains g.slot

/-- `PARK_NOTICE` (R29, R91, R92): the region controller takes the record of a notice that has come; a WINDOW_MISS it can resolve is replayed, or
asked of a server; every other record goes to the runtime, a POISON one after its source is logged. -/
def execParkNotice (g : GroupLoc) (s : State) : Host.Outcome State Fault Refusal :=
  match NMap.find (State.cell s g.cell).parkList g.slot with
  | none => .next s
  | some p =>
    if p.state ≠ .parked ∨ !State.noticeSent s g ∨ (NMap.get s.regions Region.reset (regionOf g.cell)).fenced then .next s
    else
      let s := State.setPark s g.cell g.slot (fun p => { p with state := .resolving })
      match p.code.toNat with
      | 2 =>
        let s := State.count s .wcMiss 0 (regionOf g.cell) 1
        match pageOf p.addr.toNat with
        | none => .next (State.handOver s g.cell g.slot)
        | some v => .next (State.resolveMiss s g.cell g.slot v p.job)
      | 4 =>
        let s := State.log s 0x0021 3 g.cell p.job [1, g.slot * 2 ^ 16 + g.cell, p.code.toNat * 256 + p.detail.toNat, p.addr.toNat, p.stamp]
        .next (State.handOver s g.cell g.slot)
      | _ => .next (State.handOver s g.cell g.slot)

/-- `GROUP_REPLAY` (R94): the cell resumes the group from PC; a slice fault that came while it was parked parks it again (R87). -/
def execGroupReplay (g : GroupLoc) (s : State) : Host.Outcome State Fault Refusal :=
  match State.group s g, NMap.find (State.cell s g.cell).parkList g.slot with
  | some grp, some p =>
    if p.state ≠ .replay then .next s
    else
      let n := min 0xFFFF (grp.replays + 1)
      let s := State.modCell s g.cell (fun x => { x with parkList := NMap.erase x.parkList g.slot })
      match grp.pendingFault with
      | none => .next (State.setGroup s g { grp with replays := n, fetched := [] })
      | some f =>
        .next (State.park s g { grp with replays := n, fetched := [], pendingFault := none }
          { code := 0x0B, detail := f.1, addr := f.2.1.toNat, lanes := 0, epoch := 0 } grp.pc f.2.2)
  | _, _ => .next s

/-! ### The notify of a record (R489) -/

/-- Work a retired group has left in a cell: its copies, array and chain instructions, collectives, stores and requests. -/
def State.leftBehind (s : State) (c slot age : Nat) : Bool :=
  let x := State.cell s c
  let o : Owner := { slot := slot, age := age }
  x.copies.any (fun e => decide (e.2.slot = slot)) || x.array.any (fun e => decide (e.2.owner = o)) || x.chain.any (fun e => decide (e.2.owner = o))
    || x.held.any (fun e => decide (e.2.slot = slot)) || x.misses.any (fun e => decide (e.2.slot = slot ∧ e.2.kind = .notify))
    || s.homeQueue.any (fun e => decide (e.2.source = .cell c slot)) || x.heldLocal.any (fun e => decide (e.2.slot = slot))
    || (State.region s (regionOf c)).txns.any (fun e => decide (e.2.cell = c ∧ e.2.slot = slot))
    || s.groups.any (fun g => (g.2.queue ++ (g.2.run.map (·.op)).toList).any (fun q => decide (q.cell = c ∧ q.slot = slot)))

/-- `LAUNCH_RECORD_DONE` (R489): every group of the record has retired and everything it did is complete; the owner notifies DONE_TARGET. -/
def execLaunchRecordDone (launch : Nat) (s : State) : Host.Outcome State Fault Refusal :=
  match NMap.find s.launches launch with
  | none => .next s
  | some l =>
    if !l.complete ∨ s.cells.any (fun e => e.2.groups.any (fun g => decide (g.2.launch = launch)))
        ∨ l.retired.any (fun r => State.leftBehind s r.1 r.2.1 r.2.2) then .next s
    else
      let s := { s with launches := NMap.erase s.launches launch }
      if l.inc = 0 then .next s
      else
        let c := 48 * l.region
        let q : RequestPacket :=
          { source := s.moduleNumber, destination := targetModule s.moduleNumber l.target.toNat, sourceCell := c, txn := 0, tag := l.tag, reuse := 0
            body := .notify l.target l.inc }
        .next (State.settleRegion (State.sendRemote { s with nextId := s.nextId + 1 } c 64 s.nextId 3 q none []) l.region)

end Sys2Proof.Machine
end

