-- ==== Sys2Proof/Machine/Collective.lean ====
section
/-!
DEFINITION. Collectives: the descriptor (Table 14.3), the algorithms (R408, R410, R414), the elements on their way (R407, R411), and the engine
that runs one collective of each group at a time (R404 to R407, R412 to R417).
-/

namespace Sys2Proof.Machine

/-! ### The descriptor (R402, R405) -/

/-- The fields of Table 14.3. -/
structure CollDesc where
  src : Nat
  dst : Nat
  count : Nat
  opn : Nat
  alg : Nat
  group : Nat
  fmt : Nat
  wblk : Bool
  wfmt : Nat
  slot : Nat
  root : Nat
  result : Nat
  rest : Nat
  deriving DecidableEq, Repr, Inhabited

def collDesc (v : Nat) : CollDesc :=
  { src := bits v 511 448, dst := bits v 447 384, count := bits v 383 352, opn := bits v 351 348, alg := bits v 347 346
    group := bits v 345 342, fmt := bits v 341 338, wblk := bitOf v 337, wfmt := bits v 336 333, slot := bits v 332 321
    root := bits v 320 307, result := bits v 306 288, rest := bits v 287 0 }

/-- L of R405, in elements. -/
def chunkLength (count p : Nat) : Nat := 64 * ((count + 64 * p - 1) / (64 * p))

/-- First element and element count of chunk `c`. -/
def chunkSpan (count p c : Nat) : Nat × Nat :=
  let l := chunkLength count p
  (c * l, min ((c + 1) * l) count - min (c * l) count)

/-- First element and element count of segment `k` of chunk `c`. -/
def segmentSpan (count p c k : Nat) : Nat × Nat :=
  let s := chunkSpan count p c
  (s.1 + 1024 * k, min 1024 (s.2 - 1024 * k))

def segmentsOf (count p c : Nat) : Nat := ((chunkSpan count p c).2 + 1023) / 1024

def CollOp.d (o : CollOp) : CollDesc := collDesc o.desc.toNat

/-- What SRC and DST hold on the member at position `pos`: first element and element count (R402). -/
def CollDesc.srcSpan (d : CollDesc) (p pos : Nat) : Nat × Nat :=
  if d.opn = 2 then chunkSpan d.count p pos else if d.opn = 3 ∧ pos ≠ d.root then (0, 0) else (0, d.count)

def CollDesc.dstSpan (d : CollDesc) (p pos : Nat) : Nat × Nat :=
  if d.opn = 1 then chunkSpan d.count p pos else if d.opn = 4 ∧ pos ≠ d.root then (0, 0) else (0, d.count)

/-- The chunks whose result the member writes. -/
def CollDesc.writes (d : CollDesc) (p pos : Nat) : List Nat :=
  if d.opn = 1 then [pos] else if d.opn = 4 ∧ pos ≠ d.root then [] else List.range p

/-! ### The algorithms (R408, R410, R414) -/

/-- One round on one member: the chunks it sends and to whom, the chunks it takes and from whom, whether those are added or copied. -/
structure CollRound where
  dest : Option Nat
  sends : List Nat
  source : Option Nat
  takes : List Nat
  add : Bool
  deriving DecidableEq, Repr, Inhabited

def gray (t : Nat) : Nat := t ^^^ (t / 2)

/-- The position at ring index `t`. -/
def ringAt (g : Bool) (t : Nat) : Nat := if g then gray t else t

/-- The ring index of position `i`. -/
def ringIndex (g : Bool) (p i : Nat) : Nat := if g then ((List.range p).find? (fun t => decide (gray t = i))).getD 0 else i

/-- One phase of a ring: the reduce-scatter, or the all-gather, which sends the chunks one index further on. -/
def ringPhase (g : Bool) (p i : Nat) (add : Bool) : List CollRound :=
  let t := ringIndex g p i
  (List.range (p - 1)).map (fun s =>
    let at_ (k : Nat) : Nat := ringAt g (k % p)
    let c := t + 2 * p - s - (if add then 1 else 0)
    { dest := some (at_ (t + 1)), sends := [at_ c], source := some (at_ (t + p - 1)), takes := [at_ (c - 1)], add := add })

/-- Chunks, of `p`, that agree with `i` in the lowest `j` bits. -/
def kept (p i j : Nat) : List Nat := (List.range p).filter (fun c => decide (c % 2 ^ j = i % 2 ^ j))

/-- Halving-doubling among the 2^k members from position `base`; `i` is the index inside. Chunk c counts as chunk c mod 2^k. -/
def halving (p base k i : Nat) : List CollRound :=
  (List.range k).map (fun j =>
    let partner := base + (i ^^^ 2 ^ j)
    { dest := some partner, sends := kept p (i ^^^ 2 ^ j) (j + 1), source := some partner, takes := kept p i (j + 1), add := true })

def doubling (p base k i : Nat) : List CollRound :=
  (List.range k).reverse.map (fun j =>
    let partner := base + (i ^^^ 2 ^ j)
    { dest := some partner, sends := kept p i (j + 1), source := some partner, takes := kept p (i ^^^ 2 ^ j) (j + 1), add := false })

/-- The number of trailing zero bits of `r` below `n`. -/
def lowDimension (r n : Nat) : Nat := ((List.range n).find? (fun j => r.testBit j)).getD n

/-- The binomial tree of ascending dimensions towards `root`: children first, then the parent. -/
def treeUp (p root i : Nat) : List CollRound :=
  let r := (i + p - root) % p
  let n := bitLen p
  let low := lowDimension r n
  let at_ (k : Nat) : Nat := (root + k) % p
  let all := List.range p
  ((List.range low).filter (fun j => decide (r + 2 ^ j < p))).map (fun j =>
      { dest := none, sends := [], source := some (at_ (r + 2 ^ j)), takes := all, add := true })
    ++ (if r = 0 then [] else [{ dest := some (at_ (r - 2 ^ low)), sends := all, source := none, takes := [], add := true }])

/-- Back along the same tree. -/
def treeDown (p root i : Nat) : List CollRound :=
  let r := (i + p - root) % p
  let n := bitLen p
  let low := lowDimension r n
  let at_ (k : Nat) : Nat := (root + k) % p
  let all := List.range p
  (if r = 0 then [] else [{ dest := none, sends := [], source := some (at_ (r - 2 ^ low)), takes := all, add := false }])
    ++ ((List.range low).reverse.filter (fun j => decide (r + 2 ^ j < p))).map (fun j =>
      { dest := some (at_ (r + 2 ^ j)), sends := all, source := none, takes := [], add := false })

/-- Recursive doubling from `root` (R410). -/
def broadcastPlan (p root i : Nat) : List CollRound :=
  let r := (i + p - root) % p
  let at_ (k : Nat) : Nat := (root + k) % p
  let all := List.range p
  (if r = 0 then [] else [{ dest := none, sends := [], source := some (at_ (r - 2 ^ Nat.log2 r)), takes := all, add := false }])
    ++ ((List.range (bitLen p)).filter (fun j => decide (bitLen r ≤ j ∧ r + 2 ^ j < p))).map (fun j =>
      { dest := some (at_ (r + 2 ^ j)), sends := all, source := none, takes := [], add := false })

/-- The blocks of R414: first position and dimension, largest first. -/
def recipeBlocks (p : Nat) : List (Nat × Nat) :=
  ((bitIndices (bitLen p) p).reverse.foldl (fun (acc : Nat × List (Nat × Nat)) k => (acc.1 + 2 ^ k, acc.2 ++ [(acc.1, k)])) (0, [])).2

/-- A reduction in Recipe mode for P not a power of two (R414). -/
def recipePlan (p i : Nat) : List CollRound :=
  let bs := recipeBlocks p
  let n := (bs.filter (fun b => decide (b.1 ≤ i))).length - 1
  let b := bs.getD n (0, 0)
  let all := List.range p
  let within := halving p b.1 b.2 (i - b.1) ++ doubling p b.1 b.2 (i - b.1)
  let fold := if i ≠ b.1 then []
    else (match bs[n + 1]? with
        | some later => [{ dest := none, sends := [], source := some later.1, takes := all, add := true }]
        | none => [])
      ++ (if n = 0 then [] else [{ dest := some (bs.getD (n - 1) (0, 0)).1, sends := all, source := none, takes := [], add := true }])
  within ++ fold ++ broadcastPlan p 0 i

def isPow2 (p : Nat) : Bool := decide (p = 2 ^ Nat.log2 p)

/-- ALG 1 or 2 asked for with P not a power of two runs as ALG 0 (R408). -/
def CollDesc.substituted (d : CollDesc) (p : Nat) (recipe : Bool) : Bool :=
  !recipe && decide (d.opn ≤ 2) && decide (d.alg = 1 ∨ d.alg = 2) && !isPow2 p

/-- What the member at position `i` does (R408, R410, R414). -/
def CollDesc.plan (d : CollDesc) (p i : Nat) (recipe : Bool) : List CollRound :=
  let k := Nat.log2 p
  let alg := if CollDesc.substituted d p recipe then 0 else d.alg
  if d.opn = 3 then broadcastPlan p d.root i
  else if d.opn = 2 then
    if isPow2 p && (recipe || decide (alg = 1)) then doubling p 0 k i else ringPhase false p i false
  else if recipe then
    if isPow2 p then halving p 0 k i ++ (if d.opn = 1 then [] else doubling p 0 k i) else recipePlan p i
  else if d.opn = 4 then treeUp p d.root i
  else if alg = 3 then treeUp p 0 i ++ treeDown p 0 i
  else if alg = 1 then halving p 0 k i ++ (if d.opn = 1 then [] else doubling p 0 k i)
  else ringPhase (decide (alg = 2)) p i true ++ (if d.opn = 1 then [] else ringPhase (decide (alg = 2)) p i false)

/-- The sends and arrivals of a plan, segment by segment; a send waits for the arrivals of its chunk in earlier rounds. -/
def CollDesc.schedule (d : CollDesc) (p : Nat) (rounds : List CollRound) : List SegmentSend × List SegmentReceive :=
  let segs (cs : List Nat) : List (Nat × Nat) := cs.flatMap (fun c => (List.range (segmentsOf d.count p c)).map (fun k => (c, k)))
  let r := rounds.foldl (fun (acc : (List SegmentSend × List SegmentReceive) × List Nat) x =>
    let out := match x.dest with
      | none => []
      | some m => (segs x.sends).map (fun ck =>
          { dest := m, chunk := ck.1, segment := ck.2, needs := (acc.2.filter (fun c => decide (c = ck.1))).length, final := !x.add, done := false })
    let in_ := match x.source with
      | none => []
      | some m => (segs x.takes).map (fun ck => { source := m, chunk := ck.1, segment := ck.2, add := x.add, done := false })
    ((acc.1.1 ++ out, acc.1.2 ++ in_), acc.2 ++ x.takes)) (([], []), [])
  r.1

/-- The positions a member sends to or receives from under some algorithm of the chapter (R399). -/
def partnersOf (p i : Nat) : List Nat :=
  let powers := (List.range (bitLen p)).filter (fun j => decide (2 ^ j < p))
  let steps := powers.flatMap (fun j => [(i + 2 ^ j) % p, (i + p - 2 ^ j) % p])
  let rounds := if isPow2 p then halving p 0 (Nat.log2 p) i ++ ringPhase true p i true else recipePlan p i
  let planned := rounds.flatMap (fun x => x.dest.toList ++ x.source.toList)
  (dedupe (steps ++ planned)).filter (fun j => decide (j ≠ i))

/-! ### Elements on their way (R407, R411) -/

/-- Pad with `z` to a multiple of 16. -/
def padBlocks {α : Type} (z : α) (l : List α) : List α := l ++ List.replicate ((16 - l.length % 16) % 16) z

def blocksOf {α : Type} (l : List α) : List (List α) := (List.range ((l.length + 15) / 16)).map (fun k => (l.drop (16 * k)).take 16)

/-- What one rule of R411 did. -/
structure BlockSum where
  elements : List Word
  header : BlockHeader
  rescaled : Bool
  sat : Nat
  deriving DecidableEq, Repr, Inhabited

/-- A block of S32 values in the form of `fmt` under a header's scale, X := 0xFF where R198 makes it a NaN block. -/
def encodedBlock (fmt : Nat) (h : BlockHeader) (rescaled : Bool) (es : List Nat) : BlockSum :=
  let b := encodeBlock fmt false (some h.x.toNat) (es.map (fun e => (ofS32 e, Round.rne)))
  { elements := b.2.map (fun c => BitVec.ofNat 32 c.bits), header := { h with x := BitVec.ofNat 8 b.1 }, rescaled := rescaled
    sat := (b.2.filter (·.sat)).length }

/-- A block that R411 poisons. -/
def poisonedBlock (h : BlockHeader) : BlockSum :=
  { elements := List.replicate 16 0, header := { h with poison := true }, rescaled := false, sat := 0 }

/-- R411 for the first sender of a block: its own S32 elements under X, RAISE 0. A poisoned element poisons its block. -/
def firstBlock (fmt x : Nat) (es : List Word) (bad : List Bool) : BlockSum :=
  let h : BlockHeader := { x := BitVec.ofNat 8 x, raise := 0, poison := false }
  if bad.any (fun b => b) then poisonedBlock h else encodedBlock fmt h false (es.map (·.toNat))

/-- The value as it leaves a member: under WBLK the first sender encodes it. The counts are the blocks poisoned and the saturations (R302). -/
def SegmentValue.encode (v : SegmentValue) (fmt x : Nat) : SegmentValue × Nat × Nat :=
  if v.blocks then (v, 0, 0)
  else
    let bs := ((blocksOf (padBlocks 0 v.elements)).zip (blocksOf (padBlocks false v.poisoned))).map (fun b => firstBlock fmt x b.1 b.2)
    ({ v with elements := bs.flatMap (·.elements), poisoned := [], headers := bs.map (·.header), blocks := true },
      (bs.filter (fun b => b.header.poison)).length, (bs.map (·.sat)).foldl (· + ·) 0)

/-- A block as S32 patterns. -/
def blockWords (fmt : Nat) (h : BlockHeader) (es : List Word) : List Word :=
  es.map (fun e => BitVec.ofNat 32 (toS32 .rne (blockValue fmt h.x.toNat e.toNat)))

/-- The value in S32 with a mark per element (R411): a poisoned block is marked throughout. -/
def SegmentValue.decode (v : SegmentValue) (fmt n : Nat) : List Word × List Bool :=
  if v.blocks then
    let bs := (blocksOf v.elements).zip v.headers
    ((bs.flatMap (fun b => if b.2.poison then List.replicate 16 (BitVec.ofNat 32 (canonicalNan 0)) else blockWords fmt b.2 b.1)).take n,
      (bs.flatMap (fun b => List.replicate 16 b.2.poison)).take n)
  else (v.elements, v.poisoned)

/-- The smallest n, at most 9, whose scale holds the magnitude. -/
def raiseNeeded (fmt x : Nat) (a : Nat × Int) : Nat :=
  let mv := maxBlock fmt
  ((List.range 10).find? (fun n => decide (a.1 = 0) || magLe a.1 a.2 mv.1 (mv.2 + ((x + n : Nat) : Int) - 127))).getD 9

/-- The rule of R411 for one block: `own` in S32 with its marks. A raise past the largest scale byte poisons as one past 8 does. -/
def blockSum (fmt : Nat) (h : BlockHeader) (got own : List Word) (bad : List Bool) : BlockSum :=
  let v := (blockWords fmt h got).zip own |>.map (fun p => fAdd .rne p.1.toNat p.2.toNat)
  let amax := (v.map ofS32).foldl largerMag (0, 0)
  let need := raiseNeeded fmt h.x.toNat amax
  if h.poison || bad.any (fun b => b) || decide (8 < h.raise + need ∨ (0 < need ∧ 254 < h.x.toNat + need)) then poisonedBlock h
  else encodedBlock fmt { x := BitVec.ofNat 8 (h.x.toNat + need), raise := h.raise + need, poison := false } (decide (0 < need)) v

/-- What an addition of the collective port gives and counts: the value, blocks raised, blocks poisoned, and the unit's own counts. -/
structure PortSum where
  value : SegmentValue
  rescales : Nat
  poisons : Nat
  counts : ChainCounts
  deriving DecidableEq, Repr, Inhabited

/-- Received + own, element by element (R290, R278, R291). -/
def plainSum (fmt : Nat) (m : SegmentMessage) (v : SegmentValue) : PortSum :=
  let one (i : Nat) : Nat × Bool × Bool × Bool :=
    let a := (m.elements.getD i 0).toNat
    let b := (v.elements.getD i 0).toNat
    if m.poisoned.getD i false || v.poisoned.getD i false then (poisonedElement fmt, true, false, false)
    else if fmt = fI32 then
      let t := sgn 32 a + sgn 32 b
      let c := clampTo (-(2 ^ 31 : Int)) (2 ^ 31 - 1) t
      (unsgn 32 c, false, decide (c ≠ t), false)
    else
      let c := fAdd .rne a b
      (c, false, false, Num.isNan (ofS32 c) && !Num.isNan (ofS32 a) && !Num.isNan (ofS32 b))
  let out := (List.range v.elements.length).map one
  { value := { v with elements := out.map (fun e => BitVec.ofNat 32 e.1), poisoned := out.map (fun e => e.2.1) }, rescales := 0, poisons := 0
    counts := { (default : ChainCounts) with
      sat := (out.filter (fun e => e.2.2.1)).length, nan := (out.filter (fun e => e.2.2.2)).length, poison := out.any (fun e => e.2.1) } }

/-- Received + own under R411. An own value that is itself in block form is decoded, and the larger RAISE and X stand. -/
def scaledSum (fmt : Nat) (m : SegmentMessage) (v : SegmentValue) : PortSum :=
  let own := SegmentValue.decode v fmt m.elements.length
  let os := blocksOf (padBlocks 0 own.1)
  let ob := blocksOf (padBlocks false own.2)
  let out := (m.headers.zip (blocksOf m.elements)).zipIdx.map (fun p =>
    let h := match (if v.blocks then v.headers[p.2]? else none) with
      | none => p.1.1
      | some o => { p.1.1 with raise := max p.1.1.raise o.raise }
    let x0 := match (if v.blocks then v.headers[p.2]? else none) with
      | none => p.1.1.x.toNat
      | some o => max p.1.1.x.toNat o.x.toNat
    let got := if x0 = p.1.1.x.toNat then p.1.2
      else (encodedBlock fmt { p.1.1 with x := BitVec.ofNat 8 x0 } false ((blockWords fmt p.1.1 p.1.2).map (·.toNat))).elements
    blockSum fmt { h with x := BitVec.ofNat 8 x0 } got (os.getD p.2 []) (ob.getD p.2 []))
  { value := { v with elements := out.flatMap (·.elements), poisoned := [], headers := out.map (·.header), blocks := true }
    rescales := (out.filter (·.rescaled)).length, poisons := (out.filter (fun b => b.header.poison)).length
    counts := { (default : ChainCounts) with sat := (out.map (·.sat)).foldl (· + ·) 0, poison := out.any (fun b => b.header.poison) } }

/-! ### Groups and the engine's memory accesses -/

def State.coll (s : State) (g : Nat) : Option CollGroup := NMap.find s.groups g
def State.setColl (s : State) (g : Nat) (x : CollGroup) : State := { s with groups := NMap.insert s.groups g x }
def State.modColl (s : State) (g : Nat) (f : CollGroup → CollGroup) : State := { s with groups := NMap.mod s.groups g f }

def CollGroup.p (g : CollGroup) : Nat := g.members.length
def CollGroup.module (g : CollGroup) (pos : Nat) : Nat := g.members.getD pos 0
def CollGroup.region (g : CollGroup) : Nat := regionOf g.anchor

/-- Every partner has confirmed (R399). -/
def CollGroup.usable (g : CollGroup) : Bool := (partnersOf (CollGroup.p g) g.pos).all (fun j => g.confirmed.contains j)

/-- The physical address of a fabric-virtual address that a collective may access: a page homed here with its permission (R404). -/
def State.collPhysical (s : State) (g : CollGroup) (ea : Nat) (want : Want) : Option Nat :=
  match State.windowFor s (CollGroup.region g) ea with
  | .page t => if t.home = s.moduleNumber ∧ (permission t g.tag want).isNone then some (fabricAddress t ea % 2 ^ 43) else none
  | _ => none

/-- Pages of 4 × `n` bytes from `ea`. -/
def collPages (ea n : Nat) : List Nat := if n = 0 then [] else tabulate ((ea + 4 * n - 1) / 2 ^ 21 + 1 - ea / 2 ^ 21) (fun i => ea / 2 ^ 21 + i)

/-- Elements `e0`, … (`n`) of an operand that starts with element `base` at `ea`, read at the home region cache 256 bytes at a time (R406); the bytes
that an incomplete copy writes there are free values (R185). -/
def State.collRead (s : State) (g : CollGroup) (ea base e0 n : Nat) : State × List Word × List Bool :=
  (List.range ((n + 63) / 64)).foldl (fun (acc : State × List Word × List Bool) k =>
    let a := ea + 4 * (e0 - base) + 256 * k
    let m := min 64 (n - 64 * k)
    match State.collPhysical acc.1 g a .read with
    | none => (acc.1, acc.2.1 ++ List.replicate m 0, acc.2.2 ++ List.replicate m true)
    | some pa =>
      let r := State.readPhysical acc.1 pa (4 * m) []
      let fa := acc.1.moduleNumber * 2 ^ 43 + pa
      let n := r.1.freeCount
      let bs := r.2.1.zipIdx.map (fun bi => if State.unsettledGlobal r.1 (fa + bi.2) then Config.freeByte (n + bi.2) else bi.1)
      let drawn := if (List.range (4 * m)).any (fun i => State.unsettledGlobal r.1 (fa + i)) then 4 * m else 0
      ({ r.1 with freeCount := n + drawn }, acc.2.1 ++ tabulate m (fun i => BitVec.ofNat 32 (ofBytes ((bs.drop (4 * i)).take 4))),
        acc.2.2 ++ tabulate m (fun i => r.2.2.getD (4 * i) false))) (s, [], [])

/-- The same for a write at module scope; incomplete copies of these bytes are disturbed (R185). -/
def State.collWrite (s : State) (g : CollGroup) (ea base e0 : Nat) (ws : List Word) (bad : List Bool) : State :=
  (List.range ((ws.length + 63) / 64)).foldl (fun s k =>
    let a := ea + 4 * (e0 - base) + 256 * k
    let mine := (ws.drop (64 * k)).take 64
    let marks := (bad.drop (64 * k)).take 64
    match State.collPhysical s g a .write with
    | none => s
    | some pa =>
      let s := State.disturbGlobal s (tabulate (4 * mine.length) (fun i => s.moduleNumber * 2 ^ 43 + pa + i))
      State.writePhysical s pa (mine.flatMap (fun w => toBytes 4 w.toNat)) (marks.flatMap (List.replicate 4)) 1 g.tag []) s

/-! ### Running a collective -/

def segmentKey (c k : Nat) : Nat := c * 2 ^ 22 + k

/-- The arrivals that a segment of the result waits for. -/
def CollRun.arrivals (r : CollRun) (c k : Nat) : Nat := (r.receives.filter (fun x => decide (x.chunk = c ∧ x.segment = k))).length

/-- The working value of a group whose staging area has been accessed: free values throughout (R400). -/
def State.spoilValue (s : State) (g : CollGroup) (v : SegmentValue) : State × SegmentValue :=
  if g.touched then
    let n := s.freeCount
    let k := v.elements.length
    let h := v.headers.length
    ({ s with freeCount := n + 2 * k + 3 * h },
      { v with
        elements := tabulate k (fun i => Config.freeWord (n + i))
        poisoned := if v.blocks then [] else tabulate k (fun i => Config.freeBit (n + k + i))
        headers := tabulate h (fun i =>
          { x := Config.freeByte (n + 2 * k + i), raise := (Config.freeByte (n + 2 * k + h + i)).toNat % 9
            poison := Config.freeBit (n + 2 * k + 2 * h + i) }) })
  else (s, v)

/-- Write to DST every segment of the result whose last arrival has come. -/
def State.writeResults (s : State) (g : CollGroup) (r : CollRun) : State × CollRun :=
  let d := CollOp.d r.op
  let p := CollGroup.p g
  let base := (CollDesc.dstSpan d p g.pos).1
  (CollDesc.writes d p g.pos).foldl (fun (acc : State × CollRun) c =>
    (List.range (segmentsOf d.count p c)).foldl (fun (acc : State × CollRun) k =>
      match NMap.find acc.2.values (segmentKey c k) with
      | none => acc
      | some v =>
        if acc.2.written.contains (segmentKey c k) ∨ v.got < CollRun.arrivals acc.2 c k then acc
        else
          let span := segmentSpan d.count p c k
          let w := State.spoilValue acc.1 g v
          let v := w.2
          let out := SegmentValue.decode v d.wfmt span.2
          let bad := (out.2.filter (fun b => b)).length
          let raised := (v.headers.map (·.raise)).foldl max acc.2.maxRaise
          let s := State.collWrite w.1 g d.dst base span.1 out.1 out.2
          (s, { acc.2 with
            written := acc.2.written ++ [segmentKey c k], maxRaise := raised
            poisonCount := if v.blocks then acc.2.poisonCount else acc.2.poisonCount + bad
            poisonSeen := acc.2.poisonSeen || decide (0 < bad) })) acc) (s, r)

/-- Grant receive halves in the order of the arrivals, as many as there are buffers (R407). -/
def State.grantHalves (s : State) (gid : Nat) (g : CollGroup) (r : CollRun) : State × CollRun :=
  let done := (r.receives.filter (fun x => x.done)).length
  let upTo := min r.receives.length (done + g.bufs)
  let new := (r.receives.take upTo).drop r.issued
  (new.foldl (fun s x => State.emit s (.fabric (CollGroup.module g x.source) (.segGrant gid))) s, { r with issued := max r.issued upTo })

/-- What a send carries. -/
def CollRun.message (r : CollRun) (gid pos : Nat) (x : SegmentSend) (v : SegmentValue) : SegmentMessage :=
  { group := gid, source := pos, tag := r.op.job, epoch := r.op.epoch, chunk := x.chunk, segment := x.segment, final := x.final, recipe := r.op.recipe
    elements := v.elements, poisoned := v.poisoned, headers := v.headers }

/-- One pass over the sends: each goes when it holds a grant, its value is ready, and no earlier send to the same member waits. -/
structure SendPass where
  s : State
  group : CollGroup
  run : CollRun
  blocked : List Nat
  done : List SegmentSend

def CollRun.wire (r : CollRun) : Bool := (CollOp.d r.op).wblk && !r.op.recipe

def sendStep (gid : Nat) (a : SendPass) (x : SegmentSend) : SendPass :=
  let key := segmentKey x.chunk x.segment
  let keep := { a with done := a.done ++ [x] }
  if x.done then keep
  else
    match NMap.find a.run.values key with
    | none => { keep with blocked := x.dest :: a.blocked }
    | some v =>
      if a.blocked.contains x.dest ∨ v.got < x.needs ∨ NMap.get a.group.grants 0 x.dest = 0 then { keep with blocked := x.dest :: a.blocked }
      else
        let w := State.spoilValue a.s a.group v
        let e := if CollRun.wire a.run then SegmentValue.encode w.2 (CollOp.d a.run.op).wfmt a.run.scale else (w.2, 0, 0)
        let s := State.emit w.1 (.fabric (CollGroup.module a.group x.dest) (.segment (CollRun.message a.run gid a.group.pos x e.1)))
        let s := if e.2.1 = 0 then s else State.count s .colPoisonBlocks 0 (CollGroup.region a.group) e.2.1
        let s := State.saturate s a.group.anchor (CollOp.d a.run.op).slot e.2.2
        { a with
          s := s
          group := { a.group with grants := NMap.upd a.group.grants 0 x.dest (fun n => n - 1) }
          run := { a.run with values := NMap.insert a.run.values key e.1, poisonCount := a.run.poisonCount + e.2.1 }
          done := a.done ++ [{ x with done := true }] }

/-- Move a group's collective on: results to DST, grants out, segments out. -/
def State.pumpColl (s : State) (gid : Nat) : State :=
  match State.coll s gid with
  | none => s
  | some g =>
    match g.run with
    | none => s
    | some r =>
      if !r.started || r.ending.isSome then s
      else
        let a := sendStep gid
        let p := r.sends.foldl a { s := s, group := g, run := r, blocked := [], done := [] }
        let r1 := { p.run with sends := p.done }
        let w := State.writeResults p.s p.group r1
        let q := State.grantHalves w.1 gid p.group w.2
        State.setColl q.1 gid { p.group with run := some q.2 }

/-- A collective as it leaves the queue. -/
def CollOp.begin_ (o : CollOp) : CollRun :=
  { op := o, started := false, sends := [], receives := [], issued := 0, values := [], waiting := [], written := [], scale := 127, subst := false
    rescales := 0, poisonCount := 0, poisonSeen := false, maxRaise := 0, lastRx := 0, ending := none }

/-- The member's own elements of every chunk it starts with. -/
def State.collLoad (s : State) (g : CollGroup) (o : CollOp) : State × NMap SegmentValue :=
  let d := CollOp.d o
  let p := CollGroup.p g
  let span := CollDesc.srcSpan d p g.pos
  let own := if d.opn = 2 then [g.pos] else if span.2 = 0 then [] else List.range p
  (List.range p).foldl (fun (acc : State × NMap SegmentValue) c =>
    (List.range (segmentsOf d.count p c)).foldl (fun (acc : State × NMap SegmentValue) k =>
      let e := segmentSpan d.count p c k
      let r := if own.contains c then State.collRead acc.1 g d.src span.1 e.1 e.2
        else (acc.1, List.replicate e.2 0, List.replicate e.2 false)
      let v : SegmentValue := { elements := r.2.1, poisoned := r.2.2, headers := [], blocks := false, got := 0 }
      (r.1, NMap.insert acc.2 (segmentKey c k) v)) acc) (s, [])

/-- The pages of SRC and DST (R404): known and allowed; asked of a server; or not to be had. -/
inductive PagesFound where
  | known
  | ask (q : WindowQuery)
  | waiting
  | bad
  deriving DecidableEq, Repr, Inhabited

def State.collPagesFound (s : State) (g : CollGroup) (o : CollOp) : PagesFound :=
  let d := CollOp.d o
  let p := CollGroup.p g
  let pages := (collPages d.src (CollDesc.srcSpan d p g.pos).2).map (fun v => (v, Want.read))
    ++ (collPages d.dst (CollDesc.dstSpan d p g.pos).2).map (fun v => (v, Want.write))
  pages.foldl (fun acc vw =>
    match acc with
    | .bad => .bad
    | _ =>
      match State.windowFor s (CollGroup.region g) (vw.1 * 2 ^ 21) with
      | .page t => if t.home = s.moduleNumber ∧ (permission t g.tag vw.2).isNone then acc else .bad
      | .nothing => .bad
      | .server m via =>
        let q : WindowQuery := { cell := g.anchor, slot := 64, vpn := vw.1, tag := g.tag, server := m, via := via, stale := false }
        if (NMap.find s.fabric.failed m).isSome then .bad
        else match acc with
          | .known => if s.fabric.queries.any (fun e => decide (e.cell = q.cell ∧ e.slot = q.slot ∧ e.vpn = q.vpn ∧ e.tag = q.tag)) then .waiting else .ask q
          | other => other) .known

/-- Fill the region window cache with the pages a collective uses (R404, R368). -/
def State.collFill (s : State) (g : CollGroup) (o : CollOp) : State :=
  let d := CollOp.d o
  let p := CollGroup.p g
  let pages := dedupe (collPages d.src (CollDesc.srcSpan d p g.pos).2 ++ collPages d.dst (CollDesc.dstSpan d p g.pos).2)
  pages.foldl (fun s v =>
    match Region.translation (State.region s (CollGroup.region g)) v with
    | some _ => State.count s .wcHit 0 (CollGroup.region g) 1
    | none =>
      match Fabric.resolve s.fabric v with
      | .page t => State.fillRegion (State.count s .wcMiss 0 (CollGroup.region g) 1) (CollGroup.region g) t
      | _ => s) s

/-- Begin a collective whose pages are known: read SRC, make the schedule, grant the first halves. -/
def State.beginColl (s : State) (gid : Nat) (g : CollGroup) (r : CollRun) (x : Nat) : State :=
  let o := r.op
  let d := CollOp.d o
  let p := CollGroup.p g
  let s := State.collFill s g o
  let l := State.collLoad s g o
  let sched := CollDesc.schedule d p (CollDesc.plan d p g.pos o.recipe)
  let subst := CollDesc.substituted d p o.recipe
  let s := if subst then State.count l.1 .colAlgSubst 0 (CollGroup.region g) 1 else l.1
  let r := { r with
    started := true, sends := sched.1, receives := sched.2, values := l.2, scale := x, subst := subst, lastRx := s.timebase }
  State.pumpColl (State.setColl s gid { g with run := some r }) gid

/-- `COLLECTIVE_START` (R404, R407): the engine takes the next collective of the queue. Its pages are resolved first, through a server where
need be; a member that has failed ends it (R415); a page it may not use ends it (R416); the wire scale is fetched (R411, R305). -/
def execCollectiveStart (group : Nat) (s : State) : Host.Outcome State Fault Refusal :=
  match State.coll s group with
  | none => .next s
  | some g =>
    let g := match g.run, g.queue with
      | none, o :: rest => { g with run := some (CollOp.begin_ o), queue := rest }
      | _, _ => g
    match g.run with
    | none => .next s
    | some r =>
      if r.started || r.ending.isSome || !State.regionServes s (CollGroup.region g) then .next s
      else
        let finish (status cause : Nat) : State := State.setColl s group { g with run := some { r with ending := some (status, cause) } }
        match g.lost with
        | some m => .next (finish 2 m)
        | none =>
          match State.collPagesFound s g r.op with
          | .bad => .next (finish 5 s.moduleNumber)
          | .waiting => .next (State.setColl s group g)
          | .ask q => .next (State.askServer (State.setColl s group g) q)
          | .known =>
            let d := CollOp.d r.op
            if CollRun.wire r then
              match Cell.scaleFor (State.cell s g.anchor) d.slot r.op.step d.wfmt with
              | none => .next (State.modCell (State.setColl s group g) g.anchor (fun x => Cell.askScale x d.slot r.op.step))
              | some x => .next (State.beginColl s group g r x)
            else .next (State.beginColl s group g r 127)

/-- `SEG_GRANT` (R407): the member at position `source` has reserved a receive half for us. -/
def execSegGrant (group source : Nat) (s : State) : Host.Outcome State Fault Refusal :=
  .next (State.pumpColl (State.modColl s group (fun g => { g with grants := NMap.upd g.grants 0 source (fun n => n + 1) })) group)

/-- The collective port of a cell takes the next descriptors of the segments that wait in its groups, up to 4 (R272). -/
def State.feedPort (s : State) (c : Nat) : Nat → State
  | 0 => s
  | n + 1 =>
    let x := State.cell s c
    if 4 ≤ x.port.length then s
    else
      match s.groups.find? (fun e => decide (e.2.anchor = c) && e.2.run.elim false (fun r => r.ending.isNone && decide (x.port.count e.1 < r.waiting.length))) with
      | none => s
      | some e => State.feedPort (State.setCell s c { x with port := x.port ++ [e.1] }) c n

/-- The first arrival expected that a segment can be. -/
def CollRun.expects (r : CollRun) (m : SegmentMessage) : Option Nat :=
  (r.receives.zipIdx.find? (fun x => !x.1.done && decide (x.2 < r.issued ∧ x.1.source = m.source ∧ x.1.chunk = m.chunk ∧ x.1.segment = m.segment)
    && (x.1.add == !m.final))).map (·.2)

def CollRun.arrived (r : CollRun) (i : Nat) : CollRun :=
  { r with receives := r.receives.zipIdx.map (fun x => if x.2 = i then { x.1 with done := true } else x.1) }

/-- `COLLECTIVE_SEGMENT` (R407, R417): a segment of an older epoch is discarded and its grant returned; one that is copied enters its place; one that is added waits
in its receive half for the collective port. -/
def execCollectiveSegment (m : SegmentMessage) (s : State) : Host.Outcome State Fault Refusal :=
  match State.coll s m.group with
  | none => .next s
  | some g =>
    let current := ((State.job s m.tag).epoch.getD 0).toNat
    if serialOlder 16 m.epoch.toNat current then
      .next (State.pumpColl (State.emit (State.count s .colEpochDrop 0 (CollGroup.region g) 1) (.fabric (CollGroup.module g m.source) (.segGrant m.group))) m.group)
    else
      match g.run with
      | none => .next s
      | some r =>
        if !r.started || r.ending.isSome || !State.regionServes s (CollGroup.region g) then .next s
        else
          match CollRun.expects r m with
          | none => .next s
          | some i =>
            let s := State.count s .colSegments 0 (CollGroup.region g) 1
            let r := { r with lastRx := s.timebase }
            if m.final then
              let r := CollRun.arrived r i
              let v : SegmentValue :=
                { elements := m.elements, poisoned := m.poisoned, headers := m.headers, blocks := CollRun.wire r
                  got := (NMap.get r.values default (segmentKey m.chunk m.segment)).got + 1 }
              .next (State.pumpColl (State.setColl s m.group
                { g with run := some { r with values := NMap.insert r.values (segmentKey m.chunk m.segment) v } }) m.group)
            else if r.waiting.contains m then .next s
            else .next (State.feedPort (State.setColl s m.group { g with run := some { r with waiting := r.waiting ++ [m] } }) g.anchor 4)

/-- What a residue error leaves of an addition (Table 18.1): every output poisoned, as if every word of the receive half were marked. -/
def PortSum.ofResidue (wire : Bool) (fmt wfmt : Nat) (m : SegmentMessage) (v : SegmentValue) : PortSum :=
  if wire then scaledSum wfmt { m with headers := m.headers.map (fun h => { h with poison := true }) } v
  else plainSum fmt { m with poisoned := m.elements.map (fun _ => true) } v

/-- The port's addition of the segment that has waited longest in a group (R272, R407): the half is freed and granted again. -/
def State.portMap (s : State) (cell gid : Nat) (g : CollGroup) (r : CollRun) (m : SegmentMessage) (rest : List SegmentMessage) (residueError : Bool) : State :=
  let d := CollOp.d r.op
  let key := segmentKey m.chunk m.segment
  let w := State.spoilValue s g (NMap.get r.values default key)
  let v := w.2
  let sum := if residueError then PortSum.ofResidue (CollRun.wire r) d.fmt d.wfmt m v
    else if CollRun.wire r then scaledSum d.wfmt m v else plainSum d.fmt m v
  let r1 := CollRun.arrived r ((CollRun.expects r m).getD r.receives.length)
  let r2 := { r1 with
    waiting := rest, values := NMap.insert r1.values key { sum.value with got := v.got + 1 }
    rescales := r1.rescales + sum.rescales, poisonCount := r1.poisonCount + sum.poisons }
  let s := State.count (State.countConversions w.1 cell sum.counts) .chainColl 0 cell 1
  let s := if sum.counts.poison then State.count s .chainPoison 0 cell 1 else s
  let s := if sum.rescales = 0 then s else State.count s .colRescale 0 (CollGroup.region g) sum.rescales
  let s := if sum.poisons = 0 then s else State.count s .colPoisonBlocks 0 (CollGroup.region g) sum.poisons
  let s := if residueError then State.residueError s cell else s
  State.pumpColl (State.setColl s gid { g with run := some r2 }) gid

/-- `COLLECTIVE_PORT_MAP` (R271, R272, R407): the chain unit runs the first descriptor of its collective port, in turn with group work that could begin,
once no earlier chain instruction is to write the staging area. The descriptor of a collective that has ended falls away. -/
def execCollectivePortMap (cell : Nat) (residueError : Bool) (s : State) : Host.Outcome State Fault Refusal :=
  let x := State.cell s cell
  match x.port with
  | [] => .next s
  | gid :: left =>
    if !State.cellRuns s cell || (!x.portTurn && Cell.chainReady x) then .next s
    else
      let s1 := State.setCell s cell { x with port := left, portTurn := false }
      match (State.coll s gid).bind (fun g => g.run.map (fun r => (g, r))) with
      | none => .next (State.feedPort s1 cell 4)
      | some (g, r) =>
        match r.waiting with
        | [] => .next (State.feedPort s1 cell 4)
        | m :: rest =>
          if r.ending.isSome then .next (State.feedPort s1 cell 4)
          else if x.chain.any (fun e => e.2.begun && pairsMeet [(g.stage, 8192 * g.bufs)] (ChainOp.plan e.2).outputs) then .next s
          else .next (State.feedPort (State.portMap s1 cell gid g r m rest residueError) cell 4)

/-! ### Completion (R406, R412, R413, R416) -/

/-- Write poisoned every sector of the result whose final value has not been written (R416). -/
def State.poisonUnwritten (s : State) (g : CollGroup) (r : CollRun) : State :=
  let d := CollOp.d r.op
  let p := CollGroup.p g
  let base := (CollDesc.dstSpan d p g.pos).1
  (CollDesc.writes d p g.pos).foldl (fun s c =>
    (List.range (segmentsOf d.count p c)).foldl (fun s k =>
      if r.written.contains (segmentKey c k) then s
      else
        let e := segmentSpan d.count p c k
        State.collWrite s g d.dst base e.1 (List.replicate e.2 0) (List.replicate e.2 true)) s) s

/-- The result record (Table 14.5). -/
def CollRun.record (r : CollRun) (status cause : Nat) : Nat :=
  min r.poisonCount (2 ^ 32 - 1) * 2 ^ 96 + min r.rescales (2 ^ 32 - 1) * 2 ^ 64 + cause % 2 ^ 14 * 2 ^ 50 + min r.maxRaise 8 * 2 ^ 40
    + b2n r.op.recipe * 2 ^ 33 + b2n r.subst * 2 ^ 32 + status

/-- The collective ends on this member with a status: DST, the record, the counter, the slot, in that order, and the report of R413. A local
reason is told to every member (R416). -/
def State.finishColl (s : State) (gid : Nat) (g : CollGroup) (r : CollRun) (status cause : Nat) : State :=
  let failed := decide (2 ≤ status)
  let d := CollOp.d r.op
  let reg := CollGroup.region g
  let s := if failed then State.poisonUnwritten s g r else s
  let s := State.modCell s g.anchor (fun x =>
    let written := tabulate 16 (fun i => d.result + i)
    Cell.disturbArray (Cell.disturbCopies (Cell.writeLocal x d.result (toBytes 16 (CollRun.record r status cause)) false) written) written)
  let s := State.spoil s g.anchor [(d.result, 16)]
  let s := State.incrementOf s r.op.cell r.op.counter
  let s := State.modCell s r.op.cell (fun x => { x with colls := x.colls - 1 })
  let s := State.count s .colDone 0 reg 1
  let s := if failed then State.count s .colFailed 0 reg 1 else s
  let maxr := if r.poisonSeen then 8 else r.maxRaise
  let s := if CollRun.wire r ∧ !failed ∧ 1 ≤ maxr then
      { s with scale := { s.scale with rescales := s.scale.rescales ++ [(d.slot, r.op.step, maxr, r.poisonSeen)] } }
    else s
  let own := decide (cause = s.moduleNumber)
  let s := if failed ∧ status ≠ 2 ∧ own = true then
      (g.members.filter (fun m => decide (m ≠ s.moduleNumber))).foldl (fun s m => State.emit s (.fabric m (.colAbort gid))) s
    else s
  State.setColl s gid { g with run := none, grants := if failed then [] else g.grants, touched := g.touched || !(CollGroup.staged g g.anchor [(d.result, 16)]).isEmpty }

/-- `COLLECTIVE_COMPLETE` (R406, R412): everything is sent, received and written, or the collective has been ended. -/
def execCollectiveComplete (group : Nat) (s : State) : Host.Outcome State Fault Refusal :=
  match State.coll s group with
  | none => .next s
  | some g =>
    match g.run with
    | none => .next s
    | some r =>
      match r.ending with
      | some e => .next (State.finishColl s group g r e.1 e.2)
      | none =>
        if !r.started || r.sends.any (fun x => !x.done) || r.receives.any (fun x => !x.done) then .next s
        else .next (State.finishColl s group g r (if r.poisonSeen || decide (0 < r.poisonCount) then 1 else 0) 0)

/-- End the running collective of a group for a reason (R415, R416); the completion itself follows. -/
def CollGroup.end_ (g : CollGroup) (status cause : Nat) : CollGroup :=
  { g with run := g.run.map (fun r => if r.ending.isSome then r else { r with ending := some (status, cause) }) }

/-- `COL_ABORT` (R416): the member at position `source` has ended the collective. -/
def execColAbort (group source : Nat) (s : State) : Host.Outcome State Fault Refusal :=
  .next (State.modColl s group (fun g => CollGroup.end_ g 4 (CollGroup.module g source)))

/-- `SEGMENT_TIMEOUT` (R416): a receive half has been reserved and nothing has come for RSP_TIMEOUT. -/
def execSegmentTimeout (group : Nat) (s : State) : Host.Outcome State Fault Refusal :=
  match State.coll s group with
  | none => .next s
  | some g =>
    match g.run with
    | none => .next s
    | some r =>
      let open_ := (r.receives.take r.issued).filter (fun x => !x.done)
      if r.started && decide (r.waiting.length < open_.length) && decide (r.lastRx + (s.fabric.rspTimeoutMs * 1000000 : Nat) ≤ (s.timebase : Int)) then
        .next (State.setColl s group (CollGroup.end_ g 3 s.moduleNumber))
      else .next s

end Sys2Proof.Machine
end

