-- ==== Sys2Proof/Machine/Flits.lean ====
section
/-!
DEFINITION. CRC-32, and the 256 bytes of a flit as received: its header, its trailer and its slices (R437 to R439, Tables 15.3 and 15.4).
-/

namespace Sys2Proof.Machine

/-- One bit of the CRC of the IEEE 802.3 frame check sequence, least significant bit first. -/
def crcBit (r : Nat) (bit : Bool) : Nat := if bitOf r 0 = bit then r / 2 else r / 2 ^^^ 0xEDB88320

/-- CRC-32: the register preset to all ones, the result complemented. -/
def crc32 (bs : List (BitVec 8)) : Nat :=
  (bs.foldl (fun r b => (List.range 8).foldl (fun r i => crcBit r (b.getLsbD i)) r) (2 ^ 32 - 1)) ^^^ (2 ^ 32 - 1)

/-- Where slice `k` of flit `i` of a codeword travels (R437): its logical lane and its block index, at full width and at half width. -/
def slicePlace (half : Bool) (i k : Nat) : Nat × Nat := if half then (k % 4, 2 * i + k / 4) else (k, i)

/-- Flits of a codeword time (R437): 20 at full width, 10 at half width. -/
def flitsPerCodeword (half : Bool) : Nat := if half then 10 else 20

end Sys2Proof.Machine

namespace Sys2Proof

/-- Bits of the header, which bytes 0 to 7 hold (Table 15.3). -/
def Flit.seq (f : Flit) : BitVec 12 := f.image.extractLsb' 52 12
def Flit.ack (f : Flit) : BitVec 12 := f.image.extractLsb' 40 12
def Flit.type (f : Flit) : Nat := (f.image.extractLsb' 37 3).toNat
def Flit.vc (f : Flit) : Nat := (f.image.extractLsb' 33 4).toNat
def Flit.cred (f : Flit) : Nat := (f.image.extractLsb' 31 2).toNat
def Flit.slots (f : Flit) : Nat := (f.image.extractLsb' 27 4).toNat
def Flit.start (f : Flit) : BitVec 15 := f.image.extractLsb' 12 15

/-- Bits of the trailer, which bytes 248 to 255 hold (Table 15.4). -/
def Flit.crc (f : Flit) : BitVec 32 := f.image.extractLsb' (1984 + 32) 32
def Flit.crVc (f : Flit) : Nat := (f.image.extractLsb' (1984 + 28) 4).toNat
def Flit.crCls (f : Flit) : Nat := (f.image.extractLsb' (1984 + 26) 2).toNat
def Flit.crTotal (f : Flit) : BitVec 12 := f.image.extractLsb' (1984 + 14) 12

/-- Slice `k` of the flit: bytes 32k to 32k + 31 (R437). -/
def Flit.slice (f : Flit) (k : Nat) : List (BitVec 8) := (Machine.toBytes 256 f.image.toNat).drop (32 * k) |>.take 32

/-- The CRC over bytes 0 to 251 checks (R439). -/
def Flit.crcOk (f : Flit) : Bool := decide (Machine.crc32 (Machine.toBytes 252 f.image.toNat) = f.crc.toNat)

/-- A good flit (R439). -/
def Flit.good (f : Flit) : Bool := f.fecOk && f.crcOk

/-- A reserved TYPE or reserved header bits (R439). -/
def Flit.reservedSet (f : Flit) : Bool := decide (4 ≤ f.type) || decide (f.image.extractLsb' 0 12 ≠ 0)

end Sys2Proof
end

