-- ==== Sys2Proof/Machine/Links.lean ====
section
/-!
DEFINITION. Ports as they carry traffic (chapter 15): lane maps, flits, acknowledgement, replay and credits (R436 to R446), and what a link
that goes down leaves behind (R391 to R396), with the routing of packets (R383 to R386).
-/

namespace Sys2Proof.Machine

/-! ### Lanes -/

def portLanes (p : Nat) : Nat := if portElectrical p then 8 else 9

/-- The instance number of a receive lane (Table 18.8). -/
def laneInstance (p l : Nat) : Nat := 9 * p + l

def usableCount (m : Nat) : Nat := popNat 9 m

/-- The lane map and the standby lane of a direction (R453): the lowest usable lanes, eight or four of them. `most` bounds the width. -/
def laneMap (usable most : Nat) : List Nat × Option Nat :=
  let l := bitIndices 9 usable
  if 8 ≤ l.length ∧ most = 8 then (l.take 8, l[8]?) else (l.take 4, none)

def Port.lane (x : Port) (l : Nat) : Lane := NMap.get x.lanes Lane.reset l
def Port.modLane (x : Port) (l : Nat) (f : Lane → Lane) : Port := { x with lanes := NMap.upd x.lanes Lane.reset l f }

/-- The port's lanes are judged (R451). -/
def Port.judged (x : Port) : Bool :=
  match x.state with
  | .fecLock => true
  | .deskew => true
  | .identity => true
  | .join => true
  | .live => true
  | .recovery => true
  | _ => false

/-- Flits travel on the port: its maps are set. -/
def Port.carries (x : Port) : Bool := decide (x.state = .identity ∨ x.state = .join) || Port.up x

/-! ### Credits (R445, R384, Table 1.5) -/

def pairKey (vc cls : Nat) : Nat := 4 * vc + cls

/-- Flits of a pair that the partner has not returned. -/
def Port.inFlight (x : Port) (vc cls : Nat) : Nat :=
  serialDiff 12 (NMap.get x.sent 0 (pairKey vc cls)) (NMap.get x.total 0 (pairKey vc cls) % 4096)

/-- The size of one escape level of a virtual channel (R384). -/
def levelSize (vc : Nat) : Nat := if vc = 1 then 8 else if vc = 2 then 16 else 4

/-- A credit of the class is free: the shared portion is common to all virtual channels (R26). -/
def Port.credit (x : Port) (vc cls : Nat) : Bool :=
  if cls = 0 then decide (((List.range 16).map (fun v => Port.inFlight x v 0)).foldl (· + ·) 0 < 1888)
  else decide (Port.inFlight x vc cls < levelSize vc)

/-- A credit of a pair goes back to the partner, and is to be reported (R445). -/
def Port.giveBack (x : Port) (pair : Nat) : Port :=
  { x with returned := NMap.upd x.returned 0 pair (fun n => (n + 1) % 4096), due := if x.due.any (fun e => decide (e.1 = pair)) then x.due else x.due ++ [(pair, 0)] }

/-- Credits of a pair returned since its last report. -/
def Port.change (x : Port) (pair : Nat) : Nat := serialDiff 12 (NMap.get x.returned 0 pair) (NMap.get x.told 0 pair)

/-- The pair that the next flit reports (R445): one that waits and must be reported now to be reported within 48 flits; else the one with the largest
unreported change, the longest waiting first; with none, pair 0 again. -/
def Port.reportPair (x : Port) : Nat :=
  match x.due.find? (fun e => decide (48 ≤ e.2 + x.due.length)) with
  | some e => e.1
  | none => x.due.foldl (fun best e => if Port.change x best < Port.change x e.1 then e.1 else best) ((x.due.head?.map (·.1)).getD 0)

/-- ACK and the credit report of a flit that is sent now (R440, R445). -/
def Port.report (x : Port) : FlitReport := { ack := x.rxLast, pair := Port.reportPair x, total := NMap.get x.returned 0 (Port.reportPair x) }

/-- The port once a flit with its report is sent. -/
def Port.reported (x : Port) : Port :=
  { x with
    told := NMap.set x.told 0 (Port.reportPair x) (NMap.get x.returned 0 (Port.reportPair x))
    due := (x.due.filter (fun e => decide (e.1 ≠ Port.reportPair x))).map (fun e => (e.1, e.2 + 1)) }

/-! ### Virtual channels (Tables 1.3, 13.4, 13.6) -/

/-- The virtual channel of a packet is fixed by what it is (Table 13.4): no message changes its class (R19). -/
def PacketKind.vc (k : PacketKind) : Nat :=
  match k with
  | .request _ => 1
  | .answer _ => 2
  | .window => 3
  | .timeProbe _ => 3
  | .timeReply _ _ _ _ => 3
  | .collective g _ => 4 + g
  | _ => 0

/-- A segment of a job in Recipe mode takes escape hops only, at its own level (R386). -/
def PacketKind.pinned (k : PacketKind) : Bool :=
  match k with
  | .collective _ recipe => recipe
  | _ => false

/-- The place of a virtual channel in the order of Table 13.6. -/
def vcOrder (vc : Nat) : Nat := if vc = 0 then 0 else if vc = 3 then 1 else if vc = 2 then 2 else if vc = 1 then 4 else 3

/-! ### Sending -/

/-- A flit goes out of port `p` with its ACK and credit report; one that the Bench has silenced sends it damaged (R457). -/
def State.speak (s : State) (p : Nat) (m : FlitReport → Bool → LinkMessage) : State :=
  let x := State.port s p
  State.emit (State.setPort s p (Port.reported x)) (.link p (m (Port.report x) x.silenced))

/-- Send a sequenced flit: it enters the replay buffer (R442). -/
def State.sendFlit (s : State) (p vc cred : Nat) (payload : List TransitPacket) (control : Option ControlMessage) : State :=
  let x := State.port s p
  let f : SentFlit := { seq := x.txNext, vc := vc, cred := cred, payload := payload, control := control }
  let sent := if control.isSome then x.sent else NMap.upd x.sent 0 (pairKey vc cred) (fun n => n + 1)
  State.speak (State.setPort s p { x with txNext := (x.txNext + 1) % 4096, replay := x.replay ++ [f], sent := sent }) p (.flit f)

/-- The replay buffer has room for a new flit (R442). -/
def Port.room (x : Port) : Bool := decide (x.replay.length < 2048)

/-- Send a CONTROL flit, which takes no credit (R440); while the replay buffer is full it waits. -/
def State.sendControl (s : State) (p : Nat) (m : ControlMessage) : State :=
  let x := State.port s p
  if Port.room x then State.sendFlit s p 0 0 [] (some m) else State.setPort s p { x with controls := x.controls ++ [m] }

/-- One packet of accepted flit `seq` has been forwarded or dropped: with the last, the credit of the flit returns (R445). -/
def Port.release (x : Port) (seq : Nat) : Port :=
  match x.inbound.find? (fun e => decide (e.seq = seq)) with
  | none => x
  | some e =>
    if 1 < e.left then { x with inbound := x.inbound.map (fun y => if y = e then { y with left := y.left - 1 } else y) }
    else Port.giveBack { x with inbound := x.inbound.filter (fun y => decide (y ≠ e)) } e.pair

def State.releaseCredit (s : State) (arrived : Option (Nat × Nat)) : State :=
  match arrived with
  | none => s
  | some a => State.modPort s a.1 (fun x => Port.release x a.2)

/-- What this module says of itself in a time packet. -/
def State.probe (s : State) : TimeProbe := { sender := s.moduleNumber, stamp := s.timebase, master := s.time.master, hops := s.time.hops }

/-- A time packet is stamped as it leaves (R389). -/
def State.stamped (s : State) (k : PacketKind) : PacketKind :=
  match k with
  | .timeProbe _ => .timeProbe (State.probe s)
  | .timeReply t1 t2 _ _ => .timeReply t1 t2 s.timebase (State.probe s)
  | other => other

/-- A packet leaves port `p` on a credit of class `cls`. -/
def State.leave (s : State) (p : Nat) (w : WaitingPacket) (cls : Nat) : State :=
  let s := State.sendFlit s p (PacketKind.vc w.packet.kind) cls [{ w.packet with kind := State.stamped s w.packet.kind }] none
  let s := State.releaseCredit s w.arrived
  match w.hop with
  | .adaptive => State.count s .routeAdaptive 0 p 1
  | .detour => State.count s .routeDetour 0 0 1
  | _ => s

/-- The credit class a waiting packet can leave on. -/
def Port.canLeave (x : Port) (w : WaitingPacket) : Option Nat := w.classes.find? (fun c => Port.credit x (PacketKind.vc w.packet.kind) c)

/-- One grant of a port (R387): CONTROL flits first, which take no credit; then, among the packets that have a credit, the virtual channels in
the order of Table 13.6, none passed over in more than 15 of 16 grants (R16), and within a channel the oldest. -/
def State.grantPort (s : State) (p : Nat) : Option State :=
  let x := State.port s p
  if !Port.room x then none
  else
    match x.controls with
    | m :: rest => some (State.sendFlit (State.setPort s p { x with controls := rest }) p 0 0 [] (some m))
    | [] =>
      let ready := if Port.up x then x.queued.filter (fun w => (Port.canLeave x w).isSome) else []
      let vcs := ready.map (fun w => PacketKind.vc w.packet.kind)
      let orders := (List.range 5).filter (fun o => vcs.any (fun v => decide (vcOrder v = o)))
      (arbitrate x.grants.passed orders).bind (fun o =>
        (roundRobin (NMap.find x.grants.last o) (vcs.filter (fun v => decide (vcOrder v = o)))).bind (fun vc =>
          (x.queued.zipIdx.find? (fun e => decide (PacketKind.vc e.1.packet.kind = vc) && (Port.canLeave x e.1).isSome)).bind (fun e =>
            (Port.canLeave x e.1).map (fun c =>
              let grants : Arbiter := { passed := passOver x.grants.passed orders o, last := NMap.insert x.grants.last o vc }
              State.leave (State.setPort s p { x with queued := x.queued.eraseIdx e.2, grants := grants }) p e.1 c))))

def State.drainFor (n : Nat) (s : State) (p : Nat) : State :=
  match n with
  | 0 => s
  | n + 1 =>
    match State.grantPort s p with
    | none => s
    | some t => State.drainFor n t p

/-- Send what waits at a port and has a credit and room. -/
def State.drain (s : State) (p : Nat) : State :=
  State.drainFor ((State.port s p).queued.length + (State.port s p).controls.length) s p

/-- A packet comes to a port; it waits there for a credit (R24, R384). -/
def State.toPort (s : State) (p : Nat) (w : WaitingPacket) : State :=
  State.drain (State.modPort s p (fun x => { x with queued := x.queued ++ [w] })) p

/-- A packet for the neighbour of a live port: its hop is the escape hop, on a shared credit or one of level 0. -/
def State.toNeighbour (s : State) (p : Nat) (k : PacketKind) : State :=
  match (State.port s p).partner with
  | none => s
  | some q =>
    State.toPort s p
      { packet := { source := s.moduleNumber, destination := q.module, level1 := false, kind := k }, classes := [0, 1], hop := .direct, arrived := none }

/-- A message that every live link carries on VC0 (R393, R396), but for one link. -/
def State.flood (s : State) (k : PacketKind) (but : Option Nat) : State :=
  (List.range portCount).foldl (fun s p =>
    if Port.up (State.port s p) && decide (but ≠ some p) then State.toNeighbour s p k else s) s

/-- Send again every flit of the replay buffer (R442, R443). -/
def State.replayAll (s : State) (p : Nat) : State :=
  let x := State.port s p
  let s := if x.replay.isEmpty then s else State.count s .replayFlits 0 p x.replay.length
  x.replay.foldl (fun s f => State.speak s p (.flit f)) s

/-! ### Routing (R383 to R386) -/

/-- The port is a live hop to its partner. -/
def State.hop (s : State) (p : Nat) : Option Nat :=
  let x := State.port s p
  if Port.up x then x.partner.bind (fun q => if (NMap.find s.fabric.failed q.module).isSome then none else some q.module) else none

/-- Set bits of the hypercube coordinates. -/
def coordinates (diff : Nat) : Nat := popNat 14 (diff / 8 * 8)

/-- Port `p` is an adaptive hop for a packet to `t` (R383, R386). -/
def State.adaptive (s : State) (p t : Nat) (pinned : Bool) : Bool :=
  match State.hop s p with
  | none => false
  | some n =>
    let diff := s.moduleNumber ^^^ t
    !pinned && (if coordinates diff = 0 then decide (n = t) else decide (coordinates (n ^^^ t) < coordinates diff))

/-- The neighbour of the escape hop to `t`: the lowest coordinate that differs, else the tray link. -/
def State.escapeTo (s : State) (t : Nat) : Nat :=
  let diff := s.moduleNumber ^^^ t
  match (bitIndices 14 diff).find? (fun d => decide (3 ≤ d)) with
  | some d => s.moduleNumber ^^^ 2 ^ d
  | none => t

/-- Live ports to module `n`. -/
def State.portsTo (s : State) (n : Nat) : List Nat := (List.range portCount).filter (fun p => decide (State.hop s p = some n))

/-- The neighbour of a detour (R385): the lowest other dimension, else the lowest live tray position. -/
def State.detourTo (s : State) (avoid : Nat) : Option Nat :=
  let dims := ((List.range s.fabric.dim).filter (fun e => decide (3 ≤ e))).map (fun e => s.moduleNumber ^^^ 2 ^ e)
  let tray := (List.range 8).map (fun i => s.moduleNumber / 8 * 8 + i)
  (dims ++ tray).find? (fun n => decide (n ≠ avoid ∧ n ≠ s.moduleNumber) && !(State.portsTo s n).isEmpty)

/-- A request that goes no further is answered LOST to its source module (R385, R395): at once where that is this one. -/
def State.answerLost (s : State) (q : RequestPacket) : State :=
  if q.source = s.moduleNumber then
    let t := txnParts q.txn
    match NMap.find (State.region s t.1).txns t.2.1 with
    | some x => if x.generation = t.2.2 then State.settleRegion (State.completeTxn s t.1 t.2.1 x (lostAnswer q)) t.1 else s
    | none => s
  else State.emit s (.answer (lostAnswer q) q.source)

/-- A packet dropped at level 1 (R385): a request is answered LOST, anything else is discarded, and the credit returns (Table 1.8). -/
def State.dropPacket (s : State) (k : PacketKind) (arrived : Option (Nat × Nat)) : State :=
  let s := State.releaseCredit (State.count s .routeDrop 0 0 1) arrived
  match k with
  | .request q => State.answerLost s q
  | _ => s

/-- Where a packet waits, if at all: the first of several ports on which a class of its own has a credit, else the first of them. -/
def State.portFor (s : State) (ports : List Nat) (vc : Nat) (classes : List Nat) : Option Nat :=
  firstSome [ports.find? (fun p => Port.room (State.port s p) && classes.any (fun c => Port.credit (State.port s p) vc c)), ports.head?]

/-- Route a packet (R383 to R386): an adaptive hop through the port offered, on a shared credit; else the escape hop, on a shared or a reserved
credit of the packet's level; else, at level 0, the detour, from where it goes on at level 1; at level 1 another adaptive hop, or the drop. A packet
that finds no credit waits at the port of its hop, one with no live hop at level 0 in the module. -/
def State.routePacket (s : State) (offered : Option Nat) (p : TransitPacket) (arrived : Option (Nat × Nat)) : State :=
  let vc := PacketKind.vc p.kind
  let pinned := PacketKind.pinned p.kind
  let level := if p.level1 then 2 else 1
  let go (at_ : Option Nat) (q : TransitPacket) (classes : List Nat) (hop : RouteHop) : State :=
    match at_ with
    | some i => State.toPort s i { packet := q, classes := classes, hop := hop, arrived := arrived }
    | none => { s with fabric := { s.fabric with unrouted := s.fabric.unrouted ++ [(q, arrived)] } }
  let open_ (i : Nat) : Bool := State.adaptive s i p.destination pinned && Port.credit (State.port s i) vc 0 && Port.room (State.port s i)
  if offered.any open_ then go offered p [0] .adaptive
  else
    let escape := State.escapeTo s p.destination
    let ports := State.portsTo s escape
    let others := (List.range portCount).filter (fun i => State.adaptive s i p.destination pinned)
    let classes := if pinned then [level] else [0, level]
    if !ports.isEmpty then go (State.portFor s ports vc classes) p classes .escape
    else if p.level1 then
      if others.isEmpty then State.dropPacket s p.kind arrived else go (State.portFor s others vc [0]) p [0] .adaptive
    else if pinned then go none p [] .escape
    else
      match State.detourTo s escape with
      | some n => go (State.portFor s (State.portsTo s n) vc [2]) { p with level1 := true } [2] .detour
      | none => go (State.portFor s others vc [0]) p [0] .adaptive

/-- Packets that wait at a port for more than its neighbour are routed again (R394, R395). -/
def State.reroute (s : State) (p : Nat) : State :=
  let away (w : WaitingPacket) : Bool := decide (w.hop ≠ .direct)
  let l := (State.port s p).queued.filter away
  l.foldl (fun s w => State.routePacket s none w.packet w.arrived) (State.modPort s p (fun x => { x with queued := x.queued.filter (fun w => !away w) }))

/-- Packets that found no live hop are routed again. -/
def State.routeWaiting (s : State) : State :=
  s.fabric.unrouted.foldl (fun s e => State.routePacket s none e.1 e.2) { s with fabric := { s.fabric with unrouted := [] } }

/-- `PACKET_ROUTE` (R383 to R386): a packet of this module, or one that a flit has brought, sets out or goes on. -/
def execPacketRoute (port : Nat) (p : ArrivedPacket) (s : State) : Host.Outcome State Fault Refusal :=
  if p.packet.destination = s.moduleNumber then .next s else .next (State.routePacket s (some port) p.packet p.arrived)


/-! ### Modules declared failed (R392 to R396) -/

/-- Move the stamps a port's windows run from. -/
def Port.shift (x : Port) (move : Stamp → Stamp) : Port :=
  let lane (k : Lane) : Lane := { k with uncorr := k.uncorr.map move, symbols := k.symbols.map (fun e => (move e.1, e.2)) }
  { x with
    since := move x.since, goodSince := x.goodSince.map move, lastRx := move x.lastRx, nakAt := x.nakAt.map move
    lanes := x.lanes.map (fun e => (e.1, lane e.2)) }

/-- Move a programme that is running. -/
def Programme.shift (x : Programme) (move : Stamp → Stamp) : Programme :=
  let v := x.image.toNat
  let field (hi lo : Nat) : Nat := (move (bits v hi lo : Nat)).toNat
  let w := setBits (setBits v 511 448 (field 511 448)) 447 384 (field 447 384)
  if x.running then { x with image := BitVec.ofNat 512 w, last := x.last.map move } else x

def Cell.shift (x : Cell) (move : Stamp → Stamp) : Cell :=
  { x with
    watch := x.watch.map (fun e => (e.1, { e.2 with since := e.2.since.map move }))
    sliceFaults := x.sliceFaults.map move, residueErrors := x.residueErrors.map move }

def Region.shift (x : Region) (move : Stamp → Stamp) : Region :=
  { x with txns := x.txns.map (fun e => (e.1, { e.2 with sent := move e.2.sent })) }

def Telemetry.shift (t : Telemetry) (move : Stamp → Stamp) : Telemetry :=
  { t with
    windowBase := move t.windowBase
    losses := t.losses.map (fun e => (e.1, { e.2 with written := e.2.written.map move })), trace := { t.trace with period := move t.trace.period } }

def Power.shift (x : Power) (move : Stamp → Stamp) : Power :=
  { x with
    hot := x.hot.map (fun e => { e with below := e.below.map move }), critSince := x.critSince.map (fun e => (e.1, move e.2))
    proofer := { x.proofer with lastRegion := x.proofer.lastRegion.map move }
    pwrEnSince := move x.pwrEnSince, resetAt := x.resetAt.map move }

def CollGroup.shift (x : CollGroup) (move : Stamp → Stamp) : CollGroup := { x with run := x.run.map (fun r => { r with lastRx := move r.lastRx }) }

def Presence.shift (x : Presence) (move : Stamp → Stamp) : Presence :=
  if x.windowOpen then { x with winStart := move x.winStart, winEnd := move x.winEnd } else x

def BankHealth.shift (x : BankHealth) (move : Stamp → Stamp) : BankHealth := { x with corrected := x.corrected.map (fun e => (e.1, e.2.map move)) }

def Mailbox.shift (x : Mailbox) (move : Stamp → Stamp) : Mailbox := { x with running := x.running.map (fun r => { r with since := move r.since }) }

/-- The timebase steps by Δ; every window that is open moves by Δ (R48, R52), whichever way the step goes: what remains of it is the same. -/
def State.shiftWindows (s : State) (move : Stamp → Stamp) : State :=
  { s with
    presence := Presence.shift s.presence move
    bench := s.bench.map (fun e => (e.1, Programme.shift e.2 move))
    ports := s.ports.map (fun e => (e.1, Port.shift e.2 move))
    cells := s.cells.map (fun e => (e.1, Cell.shift e.2 move))
    regions := s.regions.map (fun e => (e.1, Region.shift e.2 move))
    banks := s.banks.map (fun e => (e.1, BankHealth.shift e.2 move))
    nv := { s.nv with laneFailures := s.nv.laneFailures.map (fun e => (e.1, e.2.map move)) }
    tel := Telemetry.shift s.tel move
    power := Power.shift s.power move
    time := { s.time with lastService := move s.time.lastService }
    groups := s.groups.map (fun e => (e.1, CollGroup.shift e.2 move))
    scale := { s.scale with merges := s.scale.merges.map (fun e => (e.1, { e.2 with since := move e.2.since })) }
    jobs := s.jobs.map (fun e => (e.1, { e.2 with checkpoint := e.2.checkpoint.map (fun k => { k with started := move k.started }) }))
    host := { s.host with mailboxes := s.host.mailboxes.map (fun e => (e.1, Mailbox.shift e.2 move)) }
    fabric := { s.fabric with firstIdentity := s.fabric.firstIdentity.map move } }

/-- The timebase steps (R48). -/
def State.stepTime (s : State) (now : Nat) : State :=
  let old := s.timebase
  let s := State.shiftWindows s (fun t => t + now - old)
  let s := State.count { s with timebase := now, time := { s.time with stepped := true, lastService := now } } .timeSteps 0 0 1
  State.log (State.w1cSet s steppedKey) 0x0010 0 0 0 [old, now]

/-- The time master is the lowest-numbered module (R49): this one, when no neighbour announces a lower master that it does not know to have failed.
Else the parent is the neighbour with the lowest master, hop count and number (R390). -/
def TimeService.elect (t : TimeService) (own : Nat) (failed : NMap Nat) : TimeService :=
  let less (a b : TimeProbe) : Bool :=
    decide (a.master < b.master) || (decide (a.master = b.master) && (decide (a.hops < b.hops) || (decide (a.hops = b.hops) && decide (a.sender < b.sender))))
  let able := t.neighbours.filter (fun e => decide (e.2.master < own) && (NMap.find failed e.2.master).isNone)
  let best := able.foldl (fun (acc : Option TimeProbe) e => match acc with
    | none => some e.2
    | some b => if less e.2 b then some e.2 else acc) none
  match best with
  | none => { t with parent := none, master := own, hops := 0 }
  | some b => { t with parent := some b.sender, master := b.master, hops := b.hops + 1 }

def State.electTime (s : State) : State := { s with time := TimeService.elect s.time s.moduleNumber s.fabric.failed }

/-- What a module does when it learns that module `n` has failed (R394, R415): no hop leads to it, outstanding requests are answered LOST,
collectives with it end, queries to it end, packets that wait to go through it take another hop, and the alarm is raised. -/
def State.markFailed (s : State) (n incarnation : Nat) : State :=
  let s := { s with fabric := { s.fabric with failed := NMap.insert s.fabric.failed n incarnation, known := NMap.insert s.fabric.known n incarnation } }
  let s := State.settleAll s
  let s : State := { s with groups := s.groups.map (fun (e : Nat × CollGroup) =>
    if e.2.members.contains n ∧ e.2.lost.isNone then (e.1, CollGroup.end_ { e.2 with lost := some n } 2 n) else e) }
  let s := (s.fabric.queries.filter (fun (q : WindowQuery) => decide (q.server = n))).foldl (fun s q => State.settleQuery s q none) s
  let s := State.electTime { s with time := { s.time with neighbours := NMap.erase s.time.neighbours n } }
  let ports := (List.range portCount).filter (fun p => decide (((State.port s p).partner.map (·.module)) = some n))
  State.flag (State.raise (ports.foldl State.reroute s) 0xA1 0 0 n) 5

/-- Declare a neighbour failed (R392, R393); R540 counts it here, once. -/
def State.declareFailed (s : State) (n : Nat) : State :=
  let inc := NMap.get s.fabric.known 0 n
  let s := State.flood (State.count s .peerDeclared 0 0 1) (.peerDown n inc) none
  State.recoveryEvent (State.markFailed s n inc) 9

/-! ### A link goes down (R391, R395, R416, R443, R446) -/

/-- A packet left in the replay buffer (R395): a request is answered LOST, PEER_DOWN and PEER_UP go out again, everything else is discarded. -/
def State.strand (s : State) (p : Nat) (k : PacketKind) : State :=
  let s := State.count s .flitStranded 0 p 1
  match k with
  | .request q => State.answerLost s q
  | .peerDown n i => State.flood s (.peerDown n i) (some p)
  | .peerUp n i => State.flood s (.peerUp n i) (some p)
  | _ => s

/-- The port with nothing of its link left: sequence numbers, credits, maps and the partner lapse. -/
def Port.cleared (x : Port) (state : PortState) (now : Nat) : Port :=
  { x with
    state := state, since := now, usableTx := 0, usableRx := 0, txMap := [], rxMap := [], txStandby := none, rxStandby := none, lanes := []
    partner := none, lastRx := now, spareAsked := none, sparing := none, recovering := [], txNext := 0, replay := [], rxLast := 4095, naks := 0
    nakAt := none, sent := [], total := [], returned := [], told := [], due := [], queued := [], controls := [], grants := Arbiter.reset, inbound := [] }

/-- Some other link to module `n` is up. -/
def State.linkedTo (s : State) (n p : Nat) : Bool :=
  (List.range portCount).any (fun j => decide (j ≠ p) && Port.up (State.port s j) && decide (((State.port s j).partner.map (·.module)) = some n))

/-- No packet still holds a credit of a flit that came in by port `p`: its counts have lapsed (R446). -/
def State.forgetArrivals (s : State) (p : Nat) : State :=
  let keep (a : Option (Nat × Nat)) : Option (Nat × Nat) := a.filter (fun e => decide (e.1 ≠ p))
  { s with
    ports := s.ports.map (fun e => (e.1, { e.2 with queued := e.2.queued.map (fun w => { w with arrived := keep w.arrived }) }))
    fabric := { s.fabric with unrouted := s.fabric.unrouted.map (fun e => (e.1, keep e.2)) } }

/-- Take a port out of the state it is in. A link that was up goes down: what is in its replay buffer, or waits for its neighbour alone, is
disposed of, the other packets that wait are routed again (R395), and the time service and the routes lose it. -/
def State.takeDown (s : State) (p : Nat) (next : PortState) : State :=
  let x := State.port s p
  let s1 := State.setPort s p (Port.cleared x next s.timebase)
  if Port.up x then
    let n := x.partner.map (·.module)
    let s2 := State.recoveryEvent (State.flag (State.count s1 .linkDowns 0 p 1) 4) 2
    let own (w : WaitingPacket) : Bool := decide (w.hop = .direct)
    let left := (x.replay.flatMap (·.payload)) ++ (x.queued.filter own).map (·.packet)
    let s3 := left.foldl (fun s k => State.strand s p k.kind) (State.forgetArrivals s2 p)
    let s3 := (x.queued.filter (fun w => !own w)).foldl (fun s w =>
      State.routePacket (State.count s .flitStranded 0 p 1) none w.packet (w.arrived.filter (fun e => decide (e.1 ≠ p)))) s3
    match n with
    | some m => if State.linkedTo s3 m p then s3
        else State.electTime { s3 with time := { s3.time with neighbours := NMap.erase s3.time.neighbours m } }
    | none => s3
  else s1

/-- A link falls silent (R391, R392): when it was the last to its neighbour and no PEER_ACK has come, the neighbour is declared failed. -/
def State.silenceDown (s : State) (p : Nat) : State :=
  let x := State.port s p
  match x.partner with
  | none => State.takeDown s p .detect
  | some q =>
    let alone := !State.linkedTo s q.module p
    let answered := decide (NMap.find s.fabric.probes q.module = some true)
    let s1 := State.takeDown s p .detect
    let s2 := { s1 with fabric := { s1.fabric with probes := if alone then NMap.erase s1.fabric.probes q.module else s1.fabric.probes } }
    if alone ∧ !answered ∧ (NMap.find s.fabric.failed q.module).isNone then State.declareFailed s2 q.module else s2

/-- Leave JOINED (R393, R50, R483): every port that carries traffic goes back to bring-up. DESIGN CHOICE (assumption 52): HOLDOVER keeps its value
until the module joins again, as R50 names only the slewing that ends it. -/
def State.leaveJoined (s : State) : State :=
  let s := { s with joined := false, time := { s.time with synced := false }, fabric := { s.fabric with firstIdentity := none } }
  (List.range portCount).foldl (fun s p =>
    let x := State.port s p
    if Port.up x || decide (x.state = .join) then State.takeDown s p .detect else s) s

/-! ### Failed attempts, lanes and recoveries (R448, R450 to R455) -/

def PortState.code (x : PortState) : Nat :=
  match x with
  | .detect => 0
  | .laserCheck => 1
  | .txEq => 2
  | .rxAdapt => 3
  | .fecLock => 4
  | .deskew => 5
  | .identity => 6
  | .join => 7
  | .live => 8
  | .recovery => 9
  | .held => 10
  | .disabled => 11

/-- An attempt fails in the state the port is in (R448): counted and logged; the third in a row holds the port. -/
def State.attemptFailed (s : State) (p lanes : Nat) : State :=
  let x := State.port s p
  let s := State.log (State.count s .bringupFails 0 p 1) 0x0040 9 p 0 [1, p, PortState.code x.state, lanes]
  let n := x.failures + 1
  let s := State.modPort (State.takeDown s p (if 3 ≤ n then .held else .detect)) p (fun x => { x with failures := n })
  if 3 ≤ n then State.raise s 0x84 9 p 0 else s

/-- A direction continues at half width (R453). -/
def State.halfWidth (s : State) (p : Nat) : State :=
  State.recoveryEvent (State.flag (State.raise (State.count s .halfWidth 0 p 1) 0x83 9 p 0) 4) 1

/-- Begin the recovery of a direction of a live link (R450); one that is under way goes on within its bound (R455). -/
def State.startRecovery (s : State) (p : Nat) (transmit : Bool) : State :=
  let x := State.port s p
  if !Port.up x || x.recovering.contains transmit then s
  else
    let since : Stamp := if x.recovering.isEmpty then s.timebase else x.since
    let s := State.setPort s p { x with state := .recovery, since := since, recovering := x.recovering ++ [transmit], sparing := none }
    let s := State.recoveryEvent (State.flag (State.count s .recoveries 0 p 1) 4) 2
    if transmit then s else State.sendControl s p .recovery

/-- The times, within a day, at which a lane has failed. -/
def NonVolatile.laneFailed (v : NonVolatile) (lane now : Nat) : List Stamp := dayOf (NMap.get v.laneFailures [] lane) now ++ [(now : Stamp)]

/-- A receive lane has failed (Table 15.6, row `row`; R452 to R455). One that the Bench fails does not count towards retirement (R459). -/
def State.laneFailed (s : State) (p l row : Nat) (bench : Bool) : State :=
  let x := State.port s p
  if (Port.lane x l).failed then s
  else
    let id := laneInstance p l
    let s := State.log s 0x0040 10 id 0 [2, p, l, row]
    let s := if bench then s
      else
        let times := NonVolatile.laneFailed s.nv id s.timebase
        let s := { s with nv := { s.nv with laneFailures := NMap.insert s.nv.laneFailures id times } }
        if 3 ≤ times.length ∧ !s.nv.retiredLanes.contains id then
          State.log (State.raise { s with nv := { s.nv with retiredLanes := s.nv.retiredLanes ++ [id] } } 0x89 10 id 0) 0x0040 10 id 0 [3, p, l, 0]
        else s
    let usable := x.usableRx &&& (511 ^^^ 2 ^ l)
    let mapped := x.rxMap.zipIdx.find? (fun e => decide (e.1 = l))
    let x1 := Port.modLane { x with usableRx := usable } l (fun k => { k with failed := true, bench := bench, locked := false, good := 0, bad := 0 })
    let x2 := if x.rxStandby = some l then { x1 with rxStandby := none } else x1
    let s1 := State.setPort s p x2
    if usableCount usable < 4 then
      if Port.up x then State.takeDown s1 p .detect else State.attemptFailed s1 p (2 ^ l)
    else
      match mapped with
      | none => s1
      | some e =>
        if x2.rxStandby.isSome ∧ x2.sparing.isNone then
          State.modPort (State.sendControl s1 p (.spareReq e.2)) p (fun y => { y with sparing := some e.2 })
        else if Port.up x then State.startRecovery s1 p false
        else State.attemptFailed s1 p (2 ^ l)

/-! ### Receiving flits (R439 to R445) -/

/-- Something has arrived from the partner: the link and its neighbour are not silent (R391, R392). -/
def State.heard (s : State) (p : Nat) : State :=
  let x := State.port s p
  let s := State.setPort s p { x with lastRx := s.timebase }
  match x.partner with
  | some q => { s with fabric := { s.fabric with probes := NMap.erase s.fabric.probes q.module } }
  | none => s

/-- Ask for a replay (R442); the eighth NAK for one number starts recovery instead (R443). -/
def State.sendNak (s : State) (p : Nat) : State :=
  let x := State.port s p
  let s := State.setPort s p { x with naks := x.naks + 1, nakAt := some s.timebase }
  let s := State.speak (State.count s .nakSent 0 p 1) p (.nak x.txNext)
  if x.naks + 1 = 8 then State.startRecovery s p false else s

/-- A gap: a NAK goes out unless one stands. -/
def State.gap (s : State) (p : Nat) : State := if (State.port s p).nakAt.isSome then s else State.sendNak s p

/-- ACK and the credit report of a good flit (R440, R445). -/
def Port.takeReports (x : Port) (f : Flit) : Port :=
  { x with
    replay := x.replay.filter (fun e => decide (2048 ≤ serialDiff 12 f.ack.toNat e.seq))
    total := NMap.set x.total 0 (pairKey f.crVc f.crCls) f.crTotal.toNat }

/-- A flit that is not good is discarded whole (R439). -/
def State.badFlit (s : State) (p : Nat) (fecOk : Bool) : State :=
  State.gap (if fecOk then State.count s .crcFail 0 p 1 else s) p

/-- What every flit does before its type is looked at; the flit goes on when the result says so. -/
def State.arriveFlit (s : State) (p : Nat) (f : Flit) : State × Bool :=
  if !Port.carries (State.port s p) then (s, false)
  else
    let s := State.heard s p
    if !f.good then (State.badFlit s p f.fecOk, false)
    else
      let s := State.drain (State.modPort s p (fun x => Port.takeReports x f)) p
      if f.reservedSet then (State.count s .flitBad 0 p 1, false) else (s, true)

/-- A sequenced flit (R441): accepted only in sequence. -/
def State.acceptFlit (s : State) (p : Nat) (f : Flit) (take : Port → Port) : State :=
  let r := State.arriveFlit s p f
  if !r.2 then r.1
  else
    let x := State.port r.1 p
    if f.seq.toNat = (x.rxLast + 1) % 4096 then State.setPort r.1 p (take { x with rxLast := f.seq.toNat, naks := 0, nakAt := none })
    else State.gap r.1 p

/-- What an accepted DATA flit does at its port (R445): its credit returns at once when every packet of it is for this module and so is consumed;
else when the last of the others has been forwarded or dropped. -/
def Port.takeData (x : Port) (own : Nat) (f : Flit) : Port :=
  let away := (f.payload.filter (fun q => decide (q.destination ≠ own))).length
  if away = 0 then Port.giveBack x (pairKey f.vc f.cred)
  else { x with inbound := x.inbound ++ [{ seq := f.seq.toNat, pair := pairKey f.vc f.cred, left := away }] }

/-- `DATA_FLIT` (R440, R441, R445): an accepted flit delivers its packets, each a command of its own. -/
def execDataFlit (port : Nat) (f : Flit) (s : State) : Host.Outcome State Fault Refusal :=
  if !Port.up (State.port s port) then .next s else .next (State.acceptFlit s port f (fun x => Port.takeData x s.moduleNumber f))

/-- `CONTROL_FLIT` (R440, R449): sequenced, without credit; in JOIN it brings the partner's module state. -/
def execControlFlit (port : Nat) (f : Flit) (s : State) : Host.Outcome State Fault Refusal :=
  .next (State.acceptFlit s port f (fun x =>
    match f.control with
    | some c => { x with partner := x.partner.map (fun q => { q with joined := c.1, ahead := (c.2 : Int) - s.timebase }) }
    | none => x))

/-- `IDLE_FLIT` (R444). -/
def execIdleFlit (port : Nat) (f : Flit) (s : State) : Host.Outcome State Fault Refusal := .next (State.arriveFlit s port f).1

/-- `NAK` (R442): the transmitter sends again every flit after its ACK. -/
def execNak (port : Nat) (f : Flit) (s : State) : Host.Outcome State Fault Refusal :=
  let r := State.arriveFlit s port f
  .next (if r.2 then State.replayAll r.1 port else r.1)

/-- `NAK_RETRY_EXPIRY` (R442, R443): the expected flit has not come one round trip and 1 µs after the NAK. -/
def execNakRetryExpiry (port : Nat) (s : State) : Host.Outcome State Fault Refusal :=
  let x := State.port s port
  match x.nakAt, x.partner with
  | some t, some q => if Port.carries x && decide (t + q.roundTrip + 1000 ≤ s.timebase) then .next (State.sendNak s port) else .next s
  | _, _ => .next s

/-! ### Codewords and lanes (R436, R451, R452) -/

/-- Block `i` of a codeword's message: a sync bit, then a slice of 256 bits (R435). -/
def CodewordReport.block (c : CodewordReport) (i : Nat) : Nat := bits c.message.toNat (257 * i + 256) (257 * i)

/-- The 32 bytes of the slice in block `i`, each sent least significant bit first (R435). -/
def CodewordReport.slice (c : CodewordReport) (i : Nat) : List Byte :=
  (List.range 32).map (fun k => BitVec.ofNat 8 (bits (CodewordReport.block c i) (8 * k + 8) (8 * k + 1)))

/-- The field that the sync bits of blocks `first` to `first + n - 1` spell (R436), its most significant bit first. DESIGN CHOICE (assumption 101). -/
def CodewordReport.syncField (c : CodewordReport) (first n : Nat) : Nat :=
  (List.range n).foldl (fun v i => 2 * v + bits (CodewordReport.block c (first + i)) 0 0) 0

/-- The sync bits in block order (R436): the pattern 0b1010, the codeword number, the logical lane. -/
def CodewordReport.pattern (c : CodewordReport) : Bool := decide (CodewordReport.syncField c 0 4 = 0b1010)
def CodewordReport.number (c : CodewordReport) : Nat := CodewordReport.syncField c 4 12
def CodewordReport.logical (c : CodewordReport) : Nat := CodewordReport.syncField c 16 4

/-- Corrected symbols of the last `window` nanoseconds. -/
def Lane.corrected (k : Lane) (now window : Nat) : Nat :=
  ((k.symbols.filter (fun e => decide ((now : Int) < e.1 + window))).map (·.2)).foldl (· + ·) 0

/-- A lane after one codeword: FEC lock (R436), and the records of the last millisecond and second. -/
def Lane.codeword (k : Lane) (c : CodewordReport) (now : Nat) : Lane :=
  let inOrder := decide (CodewordReport.number c = k.next)
  let ok := c.correctable && CodewordReport.pattern c && (inOrder || (!k.locked && decide (k.good = 0)))
  let good := if ok then min 3 (k.good + 1) else if c.correctable && CodewordReport.pattern c && !k.locked then 1 else 0
  let bad := if ok then 0 else k.bad + 1
  { k with
    good := good, bad := bad, next := ((if c.correctable then CodewordReport.number c else k.next) + 1) % 4096
    locked := if k.locked then decide (bad < 4) else decide (3 ≤ good)
    uncorr := (k.uncorr.filter (fun t => decide ((now : Int) < t + 1000000))) ++ (if c.correctable then [] else [(now : Stamp)])
    symbols := (k.symbols.filter (fun e => decide ((now : Int) < e.1 + 1000000000))) ++ (if c.correctable ∧ 0 < c.symbols then [((now : Stamp), c.symbols)] else []) }

/-- Symbols of a lane in 10 ms and in 1 s are 212,500,000 and 21,250,000,000: the bounds of Table 15.6 as counts. -/
def failSymbols : Nat := 42500
def marginalSymbols : Nat := 425000

/-- `CODEWORD` (R436, R451, R452): the counters, FEC lock and lane health; a standby lane whose sync bits name the lane being switched takes
its place. -/
def execCodeword (port lane : Nat) (c : CodewordReport) (s : State) : Host.Outcome State Fault Refusal :=
  let x := State.port s port
  if !Port.judged x || decide (portLanes port ≤ lane ∨ portCount ≤ port) then .next s
  else
    let id := laneInstance port lane
    let s := State.countUnits s .fecCw id (2 ^ 20) 1
    let s := if c.correctable ∧ 0 < c.symbols then State.count s .fecSym 0 id c.symbols else s
    let s := if c.correctable then s else State.count s .fecUncorr 0 id 1
    let old := Port.lane x lane
    let k := Lane.codeword old c s.timebase
    let x := Port.modLane x lane (fun _ => k)
    let switched := x.sparing.isSome && decide (x.rxStandby = some lane) && c.correctable && CodewordReport.pattern c &&
      decide (some (CodewordReport.logical c) = x.sparing)
    let x := if switched then
        { x with rxMap := x.rxMap.set (CodewordReport.logical c) lane, rxStandby := none, sparing := none }
      else x
    let s := State.setPort s port x
    let marginal := decide (marginalSymbols < Lane.corrected k s.timebase 1000000000)
    let s := if marginal then State.beginEpisode s 0x82 10 id 0 0 else State.endEpisode s 0x82 10 id 0
    if old.failed then .next s
    else if old.locked ∧ !k.locked then .next (State.laneFailed s port lane 0 false)
    else if 4 ≤ k.uncorr.length then .next (State.laneFailed s port lane 1 false)
    else if failSymbols < Lane.corrected k s.timebase 10000000 then .next (State.laneFailed s port lane 2 false)
    else .next s

/-- `SPARE_REQ` (R452): the partner names a logical lane to be moved at the next codeword boundary. -/
def execSpareReq (port logical : Nat) (s : State) : Host.Outcome State Fault Refusal :=
  let x := State.port s port
  if Port.up x && x.txStandby.isSome && decide (logical < x.txMap.length) then .next (State.setPort s port { x with spareAsked := some logical })
  else .next s

/-- `LANE_SWITCH` (R452): the logical lane moves to the standby lane, and replay starts again from the latest ACK (R443). -/
def execLaneSwitch (port : Nat) (s : State) : Host.Outcome State Fault Refusal :=
  let x := State.port s port
  match x.spareAsked, x.txStandby with
  | some k, some l =>
    let old := x.txMap.getD k 0
    let s := State.setPort s port
      { x with txMap := x.txMap.set k l, txStandby := none, spareAsked := none, usableTx := x.usableTx &&& (511 ^^^ 2 ^ old) }
    let s := State.raise (State.count s .laneSpared 0 port 1) 0x81 9 port 0
    .next (State.replayAll (State.recoveryEvent (State.flag s 4) 1) port)
  | _, _ => .next s

/-- `RECOVERY` (R450): our receiver starts it, or the partner's CONTROL flit starts it in our transmit direction. -/
def execRecovery (port : Nat) (transmit : Bool) (_cause : RecoveryCause) (s : State) : Host.Outcome State Fault Refusal :=
  .next (State.startRecovery s port transmit)

/-- `RECOVERY_DONE` (R450, R453): the direction that began first goes on under its new map. -/
def execRecoveryDone (port : Nat) (usable : BitVec 9) (s : State) : Host.Outcome State Fault Refusal :=
  let x := State.port s port
  match x.recovering with
  | [] => .next s
  | transmit :: rest =>
    let had := if transmit then x.txMap.length else x.rxMap.length
    let ok := (if transmit then x.usableTx else x.usableRx) &&& usable.toNat
    if usableCount ok < 4 then .next (State.takeDown s port .detect)
    else
      let m := laneMap ok had
      let x := if transmit then { x with usableTx := ok, txMap := m.1, txStandby := m.2, spareAsked := none }
        else { x with usableRx := ok, rxMap := m.1, rxStandby := m.2, sparing := none, naks := 0 }
      let s := State.setPort s port { x with recovering := rest, state := if rest.isEmpty then .live else .recovery }
      let s := if had = 8 ∧ m.1.length = 4 then State.halfWidth s port else s
      .next (if transmit then State.replayAll s port else s)

/-- `RECOVERY_TIMEOUT` (R450): 300 µs have passed; the link goes down as a failure of bring-up. -/
def execRecoveryTimeout (port : Nat) (s : State) : Host.Outcome State Fault Refusal :=
  let x := State.port s port
  if x.state = .recovery ∧ x.since + 300000 ≤ s.timebase then .next (State.attemptFailed s port 0) else .next s

/-! ### Liveness (R391 to R396) -/

/-- `LINK_SILENCE_PROBE` (R392): every link to the neighbour has been silent for 750 µs; PEER_PROBE goes to it by detour. -/
def execLinkSilenceProbe (neighbour : Nat) (s : State) : Host.Outcome State Fault Refusal :=
  let ports := State.portsTo s neighbour
  if ports.isEmpty ∨ (NMap.find s.fabric.probes neighbour).isSome
      ∨ ports.any (fun p => decide ((s.timebase : Int) < (State.port s p).lastRx + 750000)) then .next s
  else
    let s := { s with fabric := { s.fabric with probes := NMap.insert s.fabric.probes neighbour false } }
    let p : TransitPacket := { source := s.moduleNumber, destination := neighbour, level1 := true, kind := .peerProbe s.moduleNumber }
    match (State.detourTo s neighbour).bind (fun n => State.portFor s (State.portsTo s n) 0 [2]) with
    | some i => .next (State.toPort s i { packet := p, classes := [2], hop := .detour, arrived := none })
    | none => .next s

/-- `PEER_PROBE` (R392): the answer takes its own route. -/
def execPeerProbe (source : Nat) (s : State) : Host.Outcome State Fault Refusal :=
  if source = s.moduleNumber then .next s
  else .next (State.routePacket s none { source := s.moduleNumber, destination := source, level1 := false, kind := .peerAck s.moduleNumber } none)

/-- `PEER_ACK` (R392): the neighbour is alive. -/
def execPeerAck (source : Nat) (s : State) : Host.Outcome State Fault Refusal :=
  if (NMap.find s.fabric.probes source).isSome then
    .next { s with fabric := { s.fabric with probes := NMap.insert s.fabric.probes source true } }
  else .next s

/-- `LINK_DOWN` (R391): silence needs its 1,000 µs; a region that is fenced or a port taken out keeps its port DISABLED. -/
def execLinkDown (port : Nat) (cause : DownCause) (s : State) : Host.Outcome State Fault Refusal :=
  let x := State.port s port
  if !Port.up x then .next s
  else
    match cause with
    | .silence => if x.lastRx + 1000000 ≤ s.timebase then .next (State.silenceDown s port) else .next s
    | .disabled => .next (State.takeDown s port .disabled)
    | .regionFenced => .next (State.takeDown s port .disabled)
    | .bringUpFailure => .next (State.attemptFailed s port 0)
    | .recoveryTimeout => .next (State.attemptFailed s port 0)
    | _ => .next (State.takeDown s port .detect)

/-- `PEER_DOWN` (R393, R394): the first one about a module is forwarded and acted on; one that names this module at its current incarnation
takes it out of JOINED. -/
def execPeerDown (port module incarnation : Nat) (s : State) : Host.Outcome State Fault Refusal :=
  if module = s.moduleNumber then
    if s.joined ∧ incarnation = s.nv.incarnation then .next (State.leaveJoined (State.raise s 0xA4 0 0 0)) else .next s
  else if incarnation < NMap.get s.fabric.known 0 module ∨ (NMap.find s.fabric.failed module).isSome then .next s
  else .next (State.markFailed (State.flood s (.peerDown module incarnation) (some port)) module incarnation)

/-- `PEER_UP` (R396): the failed mark is cleared, and the packet is forwarded. -/
def execPeerUp (port module incarnation : Nat) (s : State) : Host.Outcome State Fault Refusal :=
  let known := NMap.find s.fabric.known module
  let news := match known with
    | some k => decide (k < incarnation)
    | none => true
  if module = s.moduleNumber ∨ !news then .next s
  else
    let f := { s.fabric with failed := NMap.erase s.fabric.failed module, known := NMap.insert s.fabric.known module incarnation }
    .next (State.flood { s with fabric := f } (.peerUp module incarnation) (some port))

/-! ### Fabric time (R389, R390, R49, R50) -/

/-- `TIME_PROBE_TIMER` (R389): a probe waits at the port for a credit of VC3. -/
def execTimeProbeTimer (port : Nat) (s : State) : Host.Outcome State Fault Refusal :=
  if Port.up (State.port s port) then .next (State.toNeighbour s port (.timeProbe (State.probe s))) else .next s

/-- A time packet of a neighbour: the parent is chosen again. -/
def State.hearTime (s : State) (p : TimeProbe) : State :=
  State.electTime { s with time := { s.time with neighbours := NMap.insert s.time.neighbours p.sender p, lastService := s.timebase } }

/-- `TIME_PROBE` (R389): answered with the stamps of its arrival and, as the reply leaves, of the reply. -/
def execTimeProbe (port : Nat) (p : TimeProbe) (s : State) : Host.Outcome State Fault Refusal :=
  if Port.up (State.port s port) then
    let s := State.hearTime s p
    .next (State.toNeighbour s port (.timeReply p.stamp s.timebase s.timebase (State.probe s)))
  else .next s

/-- An offset estimate against the parent (R389, R47, Table 2.4): what the slewing has to make up, and the end of holdover (R50). -/
def State.estimate (s : State) (offset : Int) : State :=
  let t := s.time
  let out := t.synced && decide (offset < -20 ∨ 20 < offset)
  let s := if out then State.w1cSet (State.count s .timeOot 0 0 1) outOfTolKey else s
  let s := State.endEpisode s 0xA2 0 0 0
  { s with time := { t with
      offset := clampTo (-32767) 32767 offset, slew := offset, outOfTol := t.outOfTol || out, holdover := false, synced := s.joined } }

/-- `TIME_REPLY` (R389, R390): offset := ((t2 − t1) − (t4 − t3)) / 2 against the parent. An offset beyond 1 ms in holdover takes the module out
of JOINED (R50). -/
def execTimeReply (port : Nat) (t1 t2 t3 : Nat) (neighbour : TimeProbe) (s : State) : Host.Outcome State Fault Refusal :=
  if !Port.up (State.port s port) then .next s
  else
    let s := State.hearTime s neighbour
    let offset : Int := (((t2 : Int) - t1) - ((s.timebase : Int) - t3)) / 2
    if s.time.parent ≠ some neighbour.sender then .next s
    else if s.joined ∧ s.time.holdover ∧ (offset < -1000000 ∨ 1000000 < offset) then
      .next (State.leaveJoined { s with time := { s.time with offset := clampTo (-32767) 32767 offset, slew := 0 } })
    else .next (State.estimate s offset)

/-- `TIME_SERVICE_SILENCE` (R50): no time packet for 1 ms. -/
def execTimeServiceSilence (s : State) : Host.Outcome State Fault Refusal :=
  if s.joined && !s.time.holdover && decide (s.time.lastService + 1000000 ≤ s.timebase) then
    .next (State.beginEpisode { s with time := { s.time with holdover := true, synced := false, slew := 0 } } 0xA2 0 0 0 0)
  else .next s

end Sys2Proof.Machine
end

