-- ==== Sys2Proof/Machine/Bringup.lean ====
section
/-!
DEFINITION. Bring-up of a port (R447 to R449, R453, R454), the laser inputs (R433, R434), joining the fabric (R449, R48), and the fabric and link
commands (Tables 13.8 and 15.9).
-/

namespace Sys2Proof.Machine

/-! ### The laser inputs -/

/-- Receive lanes below −9 dBm (Table 15.6, row 3): every one that is not failed yet fails. -/
def State.darkLanes (s : State) (p dark : Nat) : State :=
  (bitIndices 9 dark).foldl (fun s l => if Port.judged (State.port s p) then State.laneFailed s p l 3 false else s) s

/-- `LASER_MEASURE` (R433, R434): both inputs of an optical port, every 10 µs. -/
def execLaserMeasure (port : Nat) (goodA goodB : Bool) (dbm10A dbm10B : Int) (dark : BitVec 9) (s : State) : Host.Outcome State Fault Refusal :=
  if portElectrical port ∨ portCount ≤ port then .next s
  else
    let x := State.port s port
    let both := goodA && goodB
    let since := if both then some (x.goodSince.getD s.timebase) else none
    let clear := match since with
      | some t => decide (t + 1000000000 ≤ s.timebase)
      | none => false
    let s := State.setPort s port
      { x with laserA := goodA, laserB := goodB, dbmA := dbm10A, dbmB := dbm10B, goodSince := since, squelched := !goodA && !goodB }
    let s := if clear then State.endEpisode (State.endEpisode s 0x87 9 port 0) 0x88 9 port 0 else s
    if !goodA ∧ !goodB then
      let s := State.beginEpisode s 0x88 9 port 0 0
      match x.state with
      | .disabled => .next s
      | .held => .next s
      | .detect => .next s
      | _ => .next (State.takeDown s port .detect)
    else
      let s := if both then s else State.beginEpisode s 0x87 9 port 0 0
      .next (State.darkLanes s port dark.toNat)

/-! ### Bring-up (Table 15.5) -/

/-- Lanes of a port that no rule has retired (R454), by receive direction. -/
def State.servingLanes (s : State) (p : Nat) : Nat :=
  maskOf ((List.range (portLanes p)).filter (fun l => !s.nv.retiredLanes.contains (laneInstance p l)))

def Port.enter (x : Port) (state : PortState) (now : Nat) : Port := { x with state := state, since := now }

/-- The port's optical engine has reached 90 °C and has not been below 80 °C since (Table 17.6): its transmitters are squelched. -/
def State.opticsCut (s : State) (p : Nat) : Bool :=
  s.power.hot.any (fun h => decide (h.row = 5 ∧ h.sensor.unit = p))

/-- `BEACON_DETECT` (R447): a module that is not JOINED now takes what fabric configure has set (R397). An optical port needs a good input; the
electrical port of region 7 is not connected and stays in DETECT (R380). -/
def execBeaconDetect (port : Nat) (s : State) : Host.Outcome State Fault Refusal :=
  let x := State.port s port
  if x.state ≠ .detect ∨ s.phase ≠ .up ∨ portCount ≤ port ∨ (!portElectrical port ∧ !x.laserA ∧ !x.laserB)
      ∨ (State.region s (portRegion port)).fenced ∨ State.opticsCut s port ∨ portUnwired port then .next s
  else
    let s := if s.joined then s
      else { s with moduleNumber := s.nv.module, fabric := { s.fabric with dim := s.nv.dim, rspTimeoutMs := s.fabric.nextTimeoutMs } }
    .next (State.setPort s port
      { Port.cleared x (if portElectrical port then .txEq else .laserCheck) s.timebase with
        usableTx := 2 ^ portLanes port - 1, usableRx := State.servingLanes s port })

/-- A step of bring-up ends: lanes that did not come through are failed; with fewer than four left the attempt fails. -/
def State.bringupStep (s : State) (p : Nat) (now next : PortState) (usableTx usableRx : Nat) : State :=
  let x := State.port s p
  if x.state ≠ now then s
  else
    let tx := x.usableTx &&& usableTx
    let rx := x.usableRx &&& usableRx
    if usableCount tx < 4 ∨ usableCount rx < 4 then
      State.attemptFailed s p ((x.usableRx &&& (511 ^^^ rx)) + (x.usableTx &&& (511 ^^^ tx)) * 2 ^ 16)
    else State.setPort s p (Port.enter { x with usableTx := tx, usableRx := rx } next s.timebase)

def execLaserCheckDone (port : Nat) (usableTx usableRx : BitVec 9) (s : State) : Host.Outcome State Fault Refusal :=
  .next (State.bringupStep s port .laserCheck .txEq usableTx.toNat usableRx.toNat)
def execTxEqDone (port : Nat) (usableTx usableRx : BitVec 9) (s : State) : Host.Outcome State Fault Refusal :=
  .next (State.bringupStep s port .txEq .rxAdapt usableTx.toNat usableRx.toNat)
def execRxAdaptDone (port : Nat) (usableTx usableRx : BitVec 9) (s : State) : Host.Outcome State Fault Refusal :=
  .next (State.bringupStep s port .rxAdapt .fecLock usableTx.toNat usableRx.toNat)
def execFecLockDone (port : Nat) (usableTx usableRx : BitVec 9) (s : State) : Host.Outcome State Fault Refusal :=
  .next (State.bringupStep s port .fecLock .deskew usableTx.toNat usableRx.toNat)

/-- `DESKEW_DONE` (R453): the lane map and the standby lane of each direction are set. -/
def execDeskewDone (port : Nat) (usableTx usableRx : BitVec 9) (s : State) : Host.Outcome State Fault Refusal :=
  if (State.port s port).state ≠ .deskew then .next s
  else
    let s := State.bringupStep s port .deskew .identity usableTx.toNat usableRx.toNat
    let x := State.port s port
    if x.state ≠ .identity then .next s
    else
      let tx := laneMap x.usableTx 8
      let rx := laneMap x.usableRx 8
      let s := State.setPort s port { x with txMap := tx.1, txStandby := tx.2, rxMap := rx.1, rxStandby := rx.2, lastRx := s.timebase }
      let s := if tx.1.length < 8 then State.halfWidth s port else s
      .next (if rx.1.length < 8 then State.halfWidth s port else s)

/-! ### Joining (R449) -/

/-- The module becomes JOINED (R393: a new incarnation); a partner's fabric time is taken in one step (R48). -/
def State.join (s : State) (time : Option Nat) : State :=
  let s := { s with joined := true, nv := { s.nv with incarnation := s.nv.incarnation + 1 } }
  let s := match time with
    | some t => State.stepTime s t
    | none => s
  State.electTime { s with time := { s.time with synced := true, holdover := false, lastService := s.timebase } }

/-- `IDENTITY_DONE` (R447, R382, R449): the partner is classified; a miscabled or mismatched port is held; a JOINED partner makes this module
JOINED. While SERVICED, no port leaves IDENTITY (R483). -/
def execIdentityDone (port : Nat) (p : PartnerIdentity) (s : State) : Host.Outcome State Fault Refusal :=
  let x := State.port s port
  if x.state ≠ .identity then .next s
  else
    let hold (code : Nat) : State :=
      State.setPort (State.beginEpisode s code 9 port 0 0) port (Port.cleared x .held s.timebase)
    let partner : Partner :=
      { module := p.module, incarnation := p.incarnation, region := p.region, port := p.port, joined := p.joined
        ahead := (p.fabricTime : Int) - s.timebase, roundTrip := p.roundTripNs }
    if p.dim ≠ s.fabric.dim ∨ !p.versionOk then .next (hold 0x86)
    else if p.module = s.moduleNumber ∨ 2 ^ s.fabric.dim ≤ p.module then .next (hold 0x85)
    else
      let s := State.endEpisode (State.endEpisode s 0x86 9 port 0) 0x85 9 port 0
      if State.serviced s then .next (State.setPort s port { x with partner := some partner })
      else
        let f := { s.fabric with
          firstIdentity := some (s.fabric.firstIdentity.getD s.timebase)
          known := NMap.insert s.fabric.known p.module (max p.incarnation (NMap.get s.fabric.known 0 p.module)) }
        let s := State.setPort { s with fabric := f } port { Port.enter x .join s.timebase with partner := some partner }
        .next (if p.joined ∧ !s.joined ∧ !s.debug then State.join s (some p.fabricTime) else s)

/-- `SELF_JOIN_EXPIRY` (R449). -/
def execSelfJoinExpiry (s : State) : Host.Outcome State Fault Refusal :=
  let partners := (List.range portCount).filterMap (fun p => (State.port s p).partner)
  match s.fabric.firstIdentity with
  | none => .next s
  | some t =>
    if s.joined ∨ s.phase ≠ .up ∨ State.serviced s ∨ s.debug ∨ s.timebase < t + 2000000000 ∨ partners.isEmpty ∨ partners.any (fun q => q.joined)
        ∨ partners.any (fun q => decide (q.module ≤ s.moduleNumber)) then .next s
    else .next (State.join s none)

/-- `JOIN_STATE_TIMER` (R449): the port says its module's state; with both modules JOINED it is LIVE, with every credit count at 0 (R446), and the
module's return is announced (R396). -/
def execJoinStateTimer (port : Nat) (s : State) : Host.Outcome State Fault Refusal :=
  let x := State.port s port
  if x.state ≠ .join then .next s
  else
    let s := State.sendControl s port (.moduleState s.joined s.timebase)
    match x.partner with
    | none => .next s
    | some q =>
      let s := if q.joined ∧ !s.joined ∧ !State.serviced s ∧ !s.debug then State.join s (some (q.ahead + s.timebase).toNat) else s
      if s.joined ∧ q.joined then
        let s := State.modPort s port (fun x =>
          { Port.enter x .live s.timebase with failures := 0, lastRx := s.timebase, sent := [], total := [], returned := [], told := [], due := [] })
        .next (State.routeWaiting (State.toNeighbour s port (.peerUp s.moduleNumber s.nv.incarnation)))
      else .next s

/-- The bound of a bring-up state (Table 15.5). -/
def PortState.bound (x : PortState) : Option Nat :=
  match x with
  | .laserCheck => some 50000000
  | .txEq => some 300000000
  | .rxAdapt => some 200000000
  | .fecLock => some 5000000
  | .deskew => some 1000000
  | .identity => some 2000000
  | .join => some 10000000
  | _ => none

/-- `BRINGUP_BOUND_EXPIRY` (R448): the bound runs from entry to the state; in JOIN only once both modules are JOINED, in IDENTITY not while SERVICED. -/
def execBringupBoundExpiry (port : Nat) (lanes : BitVec 32) (s : State) : Host.Outcome State Fault Refusal :=
  let x := State.port s port
  match PortState.bound x.state with
  | none => .next s
  | some b =>
    let waits := (decide (x.state = .join) && !(s.joined && x.partner.elim false (fun q => q.joined))) || (decide (x.state = .identity) && State.serviced s)
    if waits ∨ s.timebase < x.since + b then .next s else .next (State.attemptFailed s port lanes.toNat)

/-- `HELD_RETRY_EXPIRY` (R448): after 10 s the port retries. -/
def execHeldRetryExpiry (port : Nat) (s : State) : Host.Outcome State Fault Refusal :=
  let x := State.port s port
  if x.state = .held ∧ x.since + 10000000000 ≤ s.timebase then .next (State.setPort s port (Port.enter x .detect s.timebase)) else .next s

/-! ### Commands (Tables 13.8 and 15.9) -/

/-- `FABRIC_CONFIGURE` (0x0400): for the next bring-up; refused while JOINED, and with values that R379 or R377 does not allow. -/
def execFabricConfigure (mb module dim timeoutMs : Nat) (s : State) : Host.Outcome State Fault Refusal :=
  State.command s mb 0x0400 (fun s =>
    if s.joined ∨ 14 < dim ∨ 2 ^ dim ≤ module ∨ timeoutMs < 2 ∨ 100 < timeoutMs then State.complete s mb 1 []
    else
      State.complete { s with nv := { s.nv with module := module, dim := dim }, fabric := { s.fabric with nextTimeoutMs := timeoutMs } } mb 0 [])

/-- How a port is classified (R382): 0 none, 1 a dimension link, 2 an express link. -/
def State.portClass (s : State) (p : Nat) : Nat :=
  match Port.difference (State.port s p) s.moduleNumber with
  | none => 0
  | some x => if (singleBit x).isSome then 1 else 2

/-- `FABRIC_STATUS` (0x0401). -/
def execFabricStatus (mb dst : Nat) (s : State) : Host.Outcome State Fault Refusal :=
  State.command s mb 0x0401 (fun s =>
    let ports := (List.range portCount).flatMap (fun p =>
      let x := State.port s p
      [State.portClass s p, x.partner.elim 0 (fun q => q.module), PortState.code x.state])
    State.deliverReport s mb dst 0 (ports ++ s.fabric.failed.flatMap (fun e => [e.1, e.2]) ++ [s.time.master, s.time.parent.getD s.moduleNumber]))

/-- The port of a region. -/
def portAt (region port : Nat) : Option Nat := if region < 8 ∧ port < 5 then some (5 * region + port) else none

/-- `LINK_STATUS` (0x0402): what the model holds, and the readings of the optics that the command carries. -/
def execLinkStatus (mb region port dst : Nat) (readings : List (BitVec 64)) (s : State) : Host.Outcome State Fault Refusal :=
  State.command s mb 0x0402 (fun s =>
    match portAt region port with
    | none => State.deliverReport s mb dst 0 []
    | some p =>
      let x := State.port s p
      let lanes := (List.range (portLanes p)).map (fun l =>
        b2n (Port.lane x l).failed + 2 * b2n (s.nv.retiredLanes.contains (laneInstance p l)))
      State.deliverReport s mb dst 0
        ([PortState.code x.state, x.rxMap.length, x.txMap.length] ++ x.rxMap ++ x.txMap
          ++ [x.partner.elim 0 (fun q => q.roundTrip), unsgn 64 x.dbmA, unsgn 64 x.dbmB] ++ readings.map BitVec.toNat ++ lanes))

/-- `LINK_RETRAIN` (0x0403, 0): to DETECT; 1 when the port is DISABLED. -/
def execLinkRetrain (mb region port : Nat) (s : State) : Host.Outcome State Fault Refusal :=
  State.command s mb 0x0403 (fun s =>
    match portAt region port with
    | none => State.complete s mb 1 []
    | some p =>
      if (State.port s p).state = .disabled then State.complete s mb 1 []
      else State.complete (State.takeDown s p .detect) mb 0 [])

/-- `LINK_DISABLE` (0x0403, 1): the link goes down; the port's Proofer budget is given back. -/
def execLinkDisable (mb region port : Nat) (s : State) : Host.Outcome State Fault Refusal :=
  State.command s mb 0x0403 (fun s =>
    match portAt region port with
    | none => State.complete s mb 1 []
    | some p =>
      let s := State.withdraw (State.takeDown s p .disabled) (fun o => decide (o = .opticalPort p) || decide (o = .electricalPort p))
      State.complete (State.modPort s p (fun x => { x with wanted := false })) mb 0 [])

/-- `LANE_RESTORE` (0x0F12, R454): lanes leave retirement; the next bring-up uses them. -/
def execLaneRestore (mb region port : Nat) (mask : BitVec 9) (s : State) : Host.Outcome State Fault Refusal :=
  State.command s mb 0x0F12 (fun s =>
    match portAt region port with
    | none => State.completeReport s mb 0 [0]
    | some p =>
      let ids := (bitIndices 9 mask.toNat).map (laneInstance p)
      let gone := s.nv.retiredLanes.filter (fun l => ids.contains l)
      let nv := { s.nv with
        retiredLanes := s.nv.retiredLanes.filter (fun l => !ids.contains l)
        laneFailures := gone.foldl (fun m l => NMap.erase m l) s.nv.laneFailures }
      State.completeReport { s with nv := nv } mb 0 [maskOf (gone.map (fun l => l % 9))])

end Sys2Proof.Machine
end

