-- ==== Sys2Proof/Machine/Bench.lean ====
section
/-!
DEFINITION. The Bench (R456 to R459, R552): fault injection into this module's own ports.
-/

namespace Sys2Proof.Machine

/-- The fields of Table 15.7. -/
structure BenchFields where
  start : Nat
  stop : Nat
  region : Nat
  port : Nat
  dir : Nat
  action : Nat
  lane : Nat
  syms : Nat
  mode : Nat
  rateExp : Nat
  count : Nat
  vcAny : Bool
  vc : Nat
  rest : Nat
  deriving DecidableEq, Repr, Inhabited

def benchFields (v : Nat) : BenchFields :=
  { start := bits v 511 448, stop := bits v 447 384, region := bits v 383 381, port := bits v 380 378, dir := bits v 377 377, action := bits v 376 374
    lane := bits v 373 370, syms := bits v 369 366, mode := bits v 365 364, rateExp := bits v 363 358, count := bits v 357 326, vcAny := bitOf v 325
    vc := bits v 324 321, rest := bits v 320 0 }

def Programme.fields (x : Programme) : BenchFields := benchFields x.image.toNat
def BenchFields.at_ (f : BenchFields) : Nat := 5 * f.region + f.port

/-- A record that Tables 15.7 and 15.8 do not allow; `stamp` is the doorbell stamp of the command. -/
def BenchFields.bad (f : BenchFields) (stamp : Nat) : Bool :=
  let span := f.stop - f.start
  decide (f.start < stamp ∨ f.stop ≤ f.start ∨ span < 1000000 ∨ 3600000000000 < span ∨ 5 ≤ f.port ∨ 6 ≤ f.action ∨ f.mode = 3 ∨ f.rest ≠ 0)
    || (decide (f.action = 2 ∨ f.action = 3 ∨ f.action = 5) && decide (f.dir = 1))
    || (decide (f.action = 2 ∨ f.action = 4) && decide (portLanes (BenchFields.at_ f) ≤ f.lane))
    || (decide (f.mode = 0) && decide (f.rateExp < 4 ∨ 40 < f.rateExp)) || (decide (f.mode ≠ 0) && decide (f.count = 0))

/-- `BENCH_PROGRAMME` (0x0F10, R552): each accepted record takes the lowest slot whose LOADED bit is 0. -/
def execBenchProgramme (mb : Nat) (records : List (BitVec 512)) (s : State) : Host.Outcome State Fault Refusal :=
  State.command s mb 0x0F10 (fun s => State.reading s mb (fun s =>
    let stamp := (State.mailbox s mb).ackTime
    let r := (records.take 8).foldl (fun (acc : State × List Nat) w =>
      if BenchFields.bad (benchFields w.toNat) stamp then (acc.1, acc.2 ++ [1])
      else
        match (List.range 8).find? (fun i => !(State.programme acc.1 i).loaded) with
        | none => (acc.1, acc.2 ++ [2])
        | some i =>
          (State.modProgramme acc.1 i (fun _ => { image := w, loaded := true, running := false, events := 0, skipped := 0, ended := 0, last := none }),
            acc.2 ++ [0])) (s, [])
    State.completeReport r.1 mb 0 r.2))

/-- A lane that the Bench failed comes back as the standby lane of its direction (R459). -/
def State.restoreLanes (s : State) (p : Nat) (f : BenchFields) : State :=
  if f.action = 5 then State.modPort s p (fun x => { x with silenced := false })
  else if f.action ≠ 4 then s
  else if f.dir = 0 then
    State.modPort s p (fun x =>
      let x := { x with benchTx := x.benchTx.filter (fun l => decide (l ≠ f.lane)) }
      if Port.up x && x.txStandby.isNone && !x.txMap.contains f.lane then { x with txStandby := some f.lane, usableTx := x.usableTx ||| 2 ^ f.lane } else x)
  else
    State.modPort s p (fun x =>
      if (Port.lane x f.lane).bench then
        let x := Port.modLane x f.lane (fun k => { k with failed := false, bench := false, locked := true, bad := 0, uncorr := [], symbols := [] })
        if Port.up x && x.rxStandby.isNone && !x.rxMap.contains f.lane then { x with rxStandby := some f.lane, usableRx := x.usableRx ||| 2 ^ f.lane } else x
      else x)

/-- A programme ends (R456, R552): `why` is ENDED of Table 19.7. -/
def State.endProgramme (s : State) (i why : Nat) : State :=
  let x := State.programme s i
  if !x.loaded then s
  else
    let s := if x.running then State.restoreLanes s (BenchFields.at_ (Programme.fields x)) (Programme.fields x) else s
    State.modProgramme s i (fun x => { x with loaded := false, running := false, ended := why })

/-- `BENCH_CANCEL` (0x0F11): one programme, or all with 0xFF; the number ended. -/
def execBenchCancel (mb programme : Nat) (s : State) : Host.Outcome State Fault Refusal :=
  State.command s mb 0x0F11 (fun s =>
    let mine := (List.range 8).filter (fun i => (State.programme s i).loaded && decide (programme = 0xFF ∨ programme = i))
    State.completeReport (mine.foldl (fun s i => State.endProgramme s i 2) s) mb 0 [mine.length])

/-- `BENCH_START` (R456): a loaded programme whose window has begun. -/
def execBenchStart (programme : Nat) (s : State) : Host.Outcome State Fault Refusal :=
  let x := State.programme s programme
  let f := Programme.fields x
  if x.loaded && !x.running && decide (f.start ≤ s.timebase ∧ s.timebase < f.stop) then
    .next (State.modProgramme s programme (fun x => { x with running := true }))
  else .next s

/-- `BENCH_END` (R456, R459). -/
def execBenchEnd (programme : Nat) (s : State) : Host.Outcome State Fault Refusal :=
  let x := State.programme s programme
  if x.loaded && decide ((Programme.fields x).stop ≤ s.timebase) then .next (State.endProgramme s programme 1) else .next s

/-- The output is sequenced flit `n` of port `p`. -/
def Output.isFlit (o : Output) (p n : Nat) : Bool :=
  match o with
  | .link q (.flit f _ _) => decide (q = p ∧ f.seq = n)
  | _ => false

/-- Change the last output that is flit `n` of port `p`. -/
def changeFlit (out : List Output) (p n : Nat) (f : Output → List Output) : List Output :=
  (out.foldr (fun o (acc : List Output × Bool) =>
    if !acc.2 && Output.isFlit o p n then (f o ++ acc.1, true) else (o :: acc.1, acc.2)) ([], false)).1

def Output.damage (o : Output) : Output :=
  match o with
  | .link p (.flit f r _) => .link p (.flit f r true)
  | other => other

/-- The last output that is flit `n` of port `p`. -/
def flitAt (out : List Output) (p n : Nat) : Option Output := out.reverse.find? (fun o => Output.isFlit o p n)

/-- The effect of one event (Table 15.8): `number` is the flit's sequence number or the codeword's number. -/
def State.inject (s : State) (p : Nat) (f : BenchFields) (number : Nat) : State :=
  match f.action, f.dir with
  | 0, 0 => { s with out := changeFlit s.out p number (fun _ => []) }
  | 1, 0 => { s with out := changeFlit s.out p number (fun o => [Output.damage o]) }
  | 2, _ => State.emit s (.link p (.symbols f.lane number (if f.syms = 0 then 16 else f.syms)))
  | 3, _ =>
    match flitAt s.out p number, flitAt s.out p ((number + 1) % 4096) with
    | some a, some b => { s with out := changeFlit (changeFlit s.out p number (fun _ => [b])) p ((number + 1) % 4096) (fun _ => [a]) }
    | _, _ => s
  | 4, 0 => State.modPort s p (fun x => { x with benchTx := if x.benchTx.contains f.lane then x.benchTx else x.benchTx ++ [f.lane] })
  | 4, _ => if Port.judged (State.port s p) then State.laneFailed s p f.lane 0 true else s
  | 5, _ => State.modPort s p (fun x => { x with silenced := true })
  | _, _ => if Port.carries (State.port s p) then State.badFlit (State.heard s p) p true else s

/-- The event is one of the programme (R457, Table 15.7): with MODE 2 the first; of a flit that is sent, one that the filter takes: any with VC_ANY, else
a DATA flit of VC. What the model does not hold, counts and chances of the others and flits received, its sender answers for (assumption 54). -/
def State.benchSelects (s : State) (x : Programme) (number : Nat) : Bool :=
  let f := Programme.fields x
  let sent := decide (f.dir = 0) && [0, 1, 3].contains f.action
  (decide (f.mode ≠ 2) || decide (x.events = 0)) && (f.vcAny || !sent ||
    match flitAt s.out (BenchFields.at_ f) number with
    | some (.link _ (.flit g _ _)) => g.control.isNone && decide (g.vc = f.vc)
    | _ => false)

/-- `BENCH_INJECT` (R457, R458): an event the programme's mode and filter select; one that comes within 100 µs of the last is skipped. -/
def execBenchInject (programme number : Nat) (s : State) : Host.Outcome State Fault Refusal :=
  let x := State.programme s programme
  let f := Programme.fields x
  let p := BenchFields.at_ f
  if !x.running || decide (f.stop ≤ s.timebase) || !State.benchSelects s x number then .next s
  else
    let soon := match x.last with
      | some t => decide (s.timebase < t + 100000)
      | none => false
    if soon then
      .next (State.count (State.modProgramme s programme (fun x => { x with skipped := min 0xFFFF (x.skipped + 1) })) .benchSkipped 0 p 1)
    else
      let s := State.modProgramme s programme (fun x => { x with events := min (2 ^ 32 - 1) (x.events + 1), last := some s.timebase })
      let lane := if f.action = 2 ∨ f.action = 4 then f.lane else 0xF
      let s := State.log (State.count s .benchEvents 0 p 1) 0x0041 9 p 0 [programme, p, lane, f.action, number]
      .next (State.inject s p f number)

end Sys2Proof.Machine
end

