-- ==== Sys2Proof/Machine/Rings.lean ====
section
/-!
DEFINITION. The Sutha commands for launch rings, jobs and park records (0x0300 to 0x0313, Table 16.11), and the tail write (R487).
-/

namespace Sys2Proof.Machine

/-! ### Rings -/

/-- The cells of a set, by number. -/
def cellsOf (m : BitVec 384) : List Nat := (List.range cellCount).filter (fun c => m.getLsbD c)

/-- Result 3 of ring create: a cell is fed by another ring with other settings, or holds groups and would change. -/
def State.ringClash (s : State) (a : RingArgs) : Bool :=
  let spill := decide (a.spillBytes ≠ 0)
  (cellsOf a.cells).any (fun c =>
    let x := State.cell s c
    s.rings.any (fun e => decide (e.2.status ≠ .free) && e.2.cells.getLsbD c && (decide (e.2.deferLimit ≠ a.deferLimit) || (e.2.spill != spill)))
      || (!x.groups.isEmpty && (decide (x.deferLimit ≠ a.deferLimit) || (x.reservation != spill))))

/-- The whole ring lies in populated memory outside the reserved area, at a multiple of 4 KiB. -/
def State.baseUsable (s : State) (a : RingArgs) : Bool :=
  decide (a.base % 4096 = 0) && (List.range ((128 * 2 ^ (a.sizeLog2 + 4) + 255) / 256)).all (fun i => (homeOf (State.ilv s) (a.base + 256 * i)).2.2)

def State.ringResult (s : State) (a : RingArgs) : Nat :=
  if 64 ≤ a.ring then 2
  else if (State.ring s a.ring).status ≠ .free then 1
  else if a.tag = 0 ∨ 12 < a.sizeLog2 ∨ 15 < a.deferLimit ∨ (a.spillBytes ≠ 0 ∧ a.spillBytes ≠ 65536) ∨ a.cells = 0 then 2
  else if State.ringClash s a then 3
  else if !State.baseUsable s a then 4
  else 0

/-- `RING_CREATE` (0x0300): the ring runs; its cells take DEFER_LIMIT and the reservation (R67, R79); the job's first ring sets its layout
epoch (R419). -/
def execRingCreate (mb : Nat) (a : RingArgs) (s : State) : Host.Outcome State Fault Refusal :=
  State.command s mb 0x0300 (fun s => State.reading s mb (fun s =>
    match State.ringResult s a with
    | 0 =>
      let ring : Ring :=
        { Ring.reset with
          status := .running, tag := a.tag, base := a.base, sizeLog2 := a.sizeLog2, cells := a.cells, deferLimit := a.deferLimit
          spill := decide (a.spillBytes ≠ 0) }
      let s := State.setRing s a.ring ring
      let s := State.modJob s a.tag (fun j => if j.epoch.isSome then j else { j with epoch := some a.epoch0 })
      let s := (cellsOf a.cells).foldl (fun s c =>
        State.modCell s c (fun x => { x with deferLimit := a.deferLimit, reservation := decide (a.spillBytes ≠ 0) })) s
      State.complete s mb 0 []
    | n => State.complete s mb n []))

/-- `RING_DESTROY` (0x0301): the owner stops reading; groups already placed run on. -/
def execRingDestroy (mb ring : Nat) (s : State) : Host.Outcome State Fault Refusal :=
  State.command s mb 0x0301 (fun s => State.complete (State.setRing s ring Ring.reset) mb 0 [])

/-- A TAIL write (R487, R545): ignored where it would overfill the ring, which then stops with ERROR 0x0A. -/
def State.writeTail (s : State) (ring tail : Nat) : State :=
  let x := State.ring s ring
  if 64 ≤ ring ∨ x.status = .free then s
  else if Ring.size x < (tail % 2 ^ 32 + 2 ^ 32 - x.head) % 2 ^ 32 then State.stopRing s ring 0x0A
  else State.setRing s ring { x with tail := tail % 2 ^ 32 }

/-- `LAUNCH_RING_TAIL_WRITE` (R487, R545). -/
def execLaunchRingTailWrite (ring : Nat) (tail : BitVec 32) (s : State) : Host.Outcome State Fault Refusal :=
  .next (State.writeTail s ring tail.toNat)

/-! ### Jobs -/

/-- Lines leave the pinned class and become long reuse (R349). -/
def unpinLines (l : List CacheLine) (p : CacheLine → Bool) : List CacheLine :=
  l.map (fun x => if x.cls = 3 ∧ p x then { x with cls := 2, tag := 0 } else x)

/-- Unpin in every cache: lines of L1 and the block caches, whose `line` is a fabric address / 128, and of the region caches. -/
def State.unpinAll (s : State) (p : CacheLine → Bool) (q : Nat → RegionLine → Bool) : State :=
  { s with
    cells := s.cells.map (fun e => (e.1, { e.2 with l1 := e.2.l1.map (fun l => (l.1, unpinLines l.2 p)) }))
    blocks := s.blocks.map (fun e => (e.1, { e.2 with cache := e.2.cache.map (fun l => (l.1, unpinLines l.2 p)) }))
    regions := s.regions.map (fun e =>
      (e.1, { e.2 with cache := e.2.cache.map (fun l =>
        (l.1, l.2.map (fun x => if x.cls = 3 ∧ q e.1 x then { x with cls := 2, tag := 0 } else x))) })) }

/-- Number of pinned lines the same predicates pick, per cache level. -/
def State.pinnedCount (s : State) (p : CacheLine → Bool) (q : Nat → RegionLine → Bool) : List Nat :=
  let lines (l : List CacheLine) : Nat := (l.filter (fun x => decide (x.cls = 3) && p x)).length
  [(s.cells.map (fun e => (e.2.l1.map (fun l => lines l.2)).foldl (· + ·) 0)).foldl (· + ·) 0,
   (s.blocks.map (fun e => (e.2.cache.map (fun l => lines l.2)).foldl (· + ·) 0)).foldl (· + ·) 0,
   (s.regions.map (fun e => (e.2.cache.map (fun l => (l.2.filter (fun x => decide (x.cls = 3) && q e.1 x)).length)).foldl (· + ·) 0)).foldl (· + ·) 0]

/-- What job release clears in a cell: counters with the tag and their watchdogs (R162, R423), and its binding entries (R296). -/
def Cell.releaseJob (x : Cell) (tag : Half) : Cell :=
  let mine := (x.arrivals.filter (fun e => decide (e.2.tag = tag))).map (·.1)
  let others (m : NMap Binding) : NMap Binding := m.filter (fun e => decide (e.2.job ≠ tag))
  { x with
    arrivals := x.arrivals.filter (fun e => decide (e.2.tag ≠ tag))
    watch := x.watch.filter (fun e => !mine.contains e.1)
    epochs := NMap.erase x.epochs tag.toNat
    sieve := { x.sieve with bindings := others x.sieve.bindings, waiting := others x.sieve.waiting } }

/-- `JOB_RELEASE` (0x0302): after a checkpoint of the job that was accepted before it (R478). -/
def execJobRelease (mb : Nat) (tag : BitVec 16) (s : State) : Host.Outcome State Fault Refusal :=
  State.command s mb 0x0302 (fun s =>
    if (State.job s tag).checkpoint.elim false (fun k => State.ackedBefore s k.mailbox mb) then s
    else if s.cells.any (fun e => e.2.groups.any (fun g => decide (g.2.job = tag)))
        ∨ s.rings.any (fun e => decide (e.2.status ≠ .free ∧ e.2.tag = tag)) then State.complete s mb 1 []
    else if s.groups.any (fun e => decide (e.2.tag = tag)) then State.complete s mb 2 []
    else
      let s := { s with cells := NMap.remap Cell.reset (fun x => Cell.releaseJob x tag) s.cells }
      let s := State.unpinAll s (fun x => decide (x.tag = tag)) (fun _ x => decide (x.tag = tag))
      State.complete { s with jobs := NMap.erase s.jobs tag.toNat } mb 0 [])

def RingStatus.code (r : RingStatus) : Nat :=
  match r with
  | .free => 0
  | .running => 1
  | .stopped => 2

/-- STATE of a ring (Table 16.10): QUIESCED while a checkpoint of its job runs (Table 14.7, step 1). -/
def State.ringState (s : State) (x : Ring) : Nat :=
  if x.status = .running ∧ (State.job s x.tag).checkpoint.isSome then 3 else RingStatus.code x.status

def ParkState.code (p : ParkState) : Nat :=
  match p with
  | .parked => 1
  | .resolving => 2
  | .held => 3
  | .replay => 4
  | .discard => 5

/-- `JOB_STATUS` (0x0303): rings and heads, resident groups by class, parked groups by state, epoch, Recipe property. -/
def execJobStatus (mb : Nat) (tag : BitVec 16) (dst : Nat) (s : State) : Host.Outcome State Fault Refusal :=
  State.command s mb 0x0303 (fun s =>
    let rings := (s.rings.filter (fun e => decide (e.2.status ≠ .free ∧ e.2.tag = tag))).flatMap (fun e =>
      [e.1, e.2.head, e.2.tail, State.ringState s e.2, e.2.error])
    let groups := s.cells.flatMap (fun e => (e.2.groups.filter (fun g => decide (g.2.job = tag))).map (·.2))
    let parks := s.cells.flatMap (fun e => (e.2.parkList.filter (fun p => decide (p.2.job = tag))).map (·.2))
    let j := State.job s tag
    State.deliverReport s mb dst 0 (rings ++ [(groups.filter (fun g => !g.deferred)).length, (groups.filter (fun g => g.deferred)).length]
      ++ tabulate 5 (fun k => (parks.filter (fun p => decide (ParkState.code p.state = k + 1))).length)
      ++ [(j.epoch.getD 0).toNat, b2n j.recipe]))

/-! ### Park records -/

/-- The 64 bytes of a park record (Table 3.7). -/
def ParkRecord.bytes (p : ParkRecord) : List Byte :=
  toBytes 64 (p.stamp % 2 ^ 64 * 2 ^ 448 + p.addr.toNat * 2 ^ 384 + p.pc.toNat * 2 ^ 352 + p.mask.toNat * 2 ^ 320 + p.faultLanes.toNat * 2 ^ 288
    + p.job.toNat * 2 ^ 272 + p.epoch.toNat * 2 ^ 256 + p.code.toNat * 2 ^ 248 + p.detail.toNat * 2 ^ 240 + p.slot * 2 ^ 232
    + ParkState.code p.state * 2 ^ 224 + min 0xFFFF p.replays * 2 ^ 208 + p.depth * 2 ^ 200 + p.insn.toNat * 2 ^ 136)

/-- Region, block and logical cell of a cell number, as the location of Table 3.3 (u4). -/
def cellLocation (c : Nat) : Nat := c / 48 * 2 ^ 16 + c / 6 % 8 * 2 ^ 8 + c % 6

/-- The records of a job that a park list read returns, the HELD ones first, as 64 × cell + slot. -/
def State.parkKeys (s : State) (tag : Half) (limit : Nat) : List Nat :=
  let all := s.cells.flatMap (fun e => (e.2.parkList.filter (fun p => decide (p.2.job = tag))).map (fun p => (64 * e.1 + p.1, p.2)))
  let isHeld (p : Nat × ParkRecord) : Bool := decide (p.2.state = .held)
  ((all.filter isHeld ++ all.filter (fun p => !isHeld p)).map (·.1)).take (min limit 24576)

/-- An entry of a park list read: the cell's location, then the record; a record that has gone meanwhile has none. -/
def State.parkEntry (s : State) (k : Nat) : List Byte :=
  match NMap.find (State.cell s (k / 64)).parkList (k % 64) with
  | some p => toBytes 8 (cellLocation (k / 64)) ++ ParkRecord.bytes p
  | none => []

/-- `PARK_LIST_READ` (0x0310): 72 bytes for each record, 1,024 records a step; PROGRESS counts them (R477). Over SMBus one step takes all. -/
def execParkListRead (mb : Nat) (tag : BitVec 16) (dst limit : Nat) (s : State) : Host.Outcome State Fault Refusal :=
  State.command s mb 0x0310 (fun s =>
    let k := (State.mailbox s mb).running
    let i := (k.map (·.stage)).getD 0
    let keys := if i = 0 then State.parkKeys s tag limit else (k.map (·.values)).getD []
    let part := if mb = 16 then keys else (keys.drop (1024 * i)).take 1024
    let bytes := part.flatMap (State.parkEntry s)
    State.deliverUnit s mb (if mb = 16 then dst else dst + 73728 * i) (if mb = 16 then 0 else 1024 * i) part.length bytes keys (decide (mb = 16 ∨ keys.length ≤ 1024 * (i + 1))))

/-- The record a park command names, and its result where it may not act (Table 16.11): 1 not HELD, 2 another STAMP. -/
def State.parkTarget (s : State) (g : GroupLoc) (stamp : BitVec 64) : Option ParkRecord × Nat :=
  match NMap.find (State.cell s g.cell).parkList g.slot with
  | none => (none, 1)
  | some p => if p.state ≠ .held then (none, 1) else if BitVec.ofNat 64 p.stamp ≠ stamp then (none, 2) else (some p, 0)

/-- `PARK_STATE_READ` (0x0311, operation 0): a thread register's 32 lanes, a uniform register, the predicates, PC, or the mask and the mask stack. -/
def execParkStateRead (mb : Nat) (g : GroupLoc) (stamp : BitVec 64) (selector dst : Nat) (s : State) : Host.Outcome State Fault Refusal :=
  State.command s mb 0x0311 (fun s =>
    match (State.parkTarget s g stamp).1, State.group s g with
    | some p, some grp =>
      if selector < 0x100 then
        if grp.regs ≤ selector then State.complete s mb 3 []
        else State.deliver s mb dst 0 ((List.range 32).flatMap (fun l => toBytes 4 (Group.lane grp selector l)))
      else if selector < 0x140 then State.deliver s mb dst 0 (toBytes 4 (Group.uni grp (selector - 0x100)))
      else if selector = 0x140 then State.deliverReport s mb dst 0 (tabulate 8 (fun n => Group.pred grp n))
      else if selector = 0x141 then State.deliver s mb dst 0 (toBytes 4 p.pc.toNat)
      else if selector = 0x142 then
        State.deliverReport s mb dst 0 (p.mask.toNat :: grp.stack.flatMap (fun e => [match e.kind with
          | .reconv => 0
          | .pending => 1, e.pc.toNat, e.mask.toNat]) ++ (List.range grp.spilled).map (fun i =>
            Cell.localNat (State.cell s g.cell) (0x70000 + g.slot * 0x400 + 8 * i) 8))
      else State.complete s mb 3 []
    | _, _ => State.complete s mb (max 1 (State.parkTarget s g stamp).2) [])

/-- A write of one of the selectors of 0x0311: a thread register (all lanes, marks cleared, R93), a uniform register, the predicates, PC. -/
def Group.writeSelector (grp : Group) (selector : Nat) (data : List Word) : Option Group :=
  let at_ (i : Nat) : Nat := (data.getD i 0).toNat
  if selector < 0x100 then
    if grp.regs ≤ selector then none else some (Group.write grp selector (2 ^ 32 - 1) at_ 0 0)
  else if selector < 0x140 then some (Group.writeUni grp (selector - 0x100) (at_ 0) false 0)
  else if selector = 0x140 then some ((List.range 7).foldl (fun g n => Group.writePred g n (2 ^ 32 - 1) (at_ n)) grp)
  else if selector = 0x141 then some { grp with pc := BitVec.ofNat 31 (at_ 0) }
  else none

/-- `PARK_STATE_WRITE` (0x0311, operation 1). -/
def execParkStateWrite (mb : Nat) (g : GroupLoc) (stamp : BitVec 64) (selector : Nat) (data : List (BitVec 32)) (s : State) :
    Host.Outcome State Fault Refusal :=
  State.command s mb 0x0311 (fun s => State.reading s mb (fun s =>
    match (State.parkTarget s g stamp).1, State.group s g with
    | some _, some grp =>
      match Group.writeSelector grp selector data with
      | none => State.complete s mb 3 []
      | some grp =>
        let s := State.setGroup s g grp
        let s := if selector = 0x141 then State.setPark s g.cell g.slot (fun p => { p with pc := grp.pc }) else s
        State.complete s mb 0 []
    | _, _ => State.complete s mb (max 1 (State.parkTarget s g stamp).2) []))

/-- Order a replay, or a discard, of a HELD record. -/
def State.orderPark (s : State) (mb : Nat) (g : GroupLoc) (stamp : BitVec 64) (next : ParkState) : State :=
  match (State.parkTarget s g stamp).1 with
  | some _ => State.complete (State.setPark s g.cell g.slot (fun p => { p with state := next })) mb 0 []
  | none => State.complete s mb (State.parkTarget s g stamp).2 []

/-- `PARK_REPLAY` (0x0312). -/
def execParkReplay (mb : Nat) (g : GroupLoc) (stamp : BitVec 64) (s : State) : Host.Outcome State Fault Refusal :=
  State.command s mb 0x0312 (fun s => State.orderPark s mb g stamp .replay)

/-- `PARK_DISCARD` (0x0313). -/
def execParkDiscard (mb : Nat) (g : GroupLoc) (stamp : BitVec 64) (s : State) : Host.Outcome State Fault Refusal :=
  State.command s mb 0x0313 (fun s => State.orderPark s mb g stamp .discard)

end Sys2Proof.Machine
end

