-- ==== Sys2Proof/Machine/MemoryCommands.lean ====
section
/-!
DEFINITION. Host accesses through the memory window (R465, R466) and the memory commands (0x0210 to 0x0223, 0x0F04; Tables 12.6, 16.11, 16.12).
-/

namespace Sys2Proof.Machine

/-! ### The memory window (R463, R465, R466) -/

/-- The endpoint serves the host's windows: BOOT has ended, and no thermal trip holds the module off (Table 17.7, step 3). -/
def State.hostReady (s : State) : Bool :=
  match s.phase with
  | .selftest => true
  | .up => true
  | .faulted => !s.power.tripped
  | _ => false

/-- A host access to these bytes is refused (R466, R521). -/
def State.hostRefuses (s : State) (pa len : Nat) : Bool :=
  (List.range len).any (fun i => let h := homeOf (State.ilv s) (pa + i); !h.2.2 || !State.regionServes s h.1)

/-- Count and log a refused host access; one that reaches an unpopulated address is also R339's (assumption 34). -/
def State.hostRefusal (s : State) (pa len : Nat) : State :=
  let s := State.count s .hostRefused 0 0 1
  let bad := ((List.range len).find? (fun i => let h := homeOf (State.ilv s) (pa + i); !h.2.2 || !State.regionServes s h.1)).getD 0
  let h := homeOf (State.ilv s) (pa + bad)
  if !h.2.2 ∧ ¬ (!bitOf pa 42 ∧ h.2.1 < 0x10000000) then State.raise (State.count s .memUnmapped 0 h.1 1) 0x43 1 h.1 (pa + bad)
  else State.log s 0x0143 1 h.1 0 [pa + bad, 2 ^ 16 + h.1]

/-- `MEMORY_WINDOW_READ`: the sectors are read at their home region caches, and then completed, with EP set where one is poisoned; or
Unsupported Request. -/
def execMemoryWindowRead (offset len : Nat) (s : State) : Host.Outcome State Fault Refusal :=
  if !State.hostReady s ∨ 2 ^ s.host.winLog2 < offset + len ∨ len = 0 then .next (State.emit s .unsupported)
  else
    let pa := s.host.aperture + offset
    if State.hostRefuses s pa len then .next (State.emit (State.hostRefusal s pa len) .unsupported)
    else
      .next (State.settleAll (State.sendLines s { source := .host, base := pa, size := len, reads := true, granule := 0, waits := [], data := [] } 1 0 none
        (readParts pa len (2 ^ len - 1))))

/-- `MEMORY_WINDOW_WRITE`: performed at module scope before any later posted write (R463), and so in this step (assumption 99), or
discarded. -/
def execMemoryWindowWrite (offset : Nat) (w : WindowWrite) (s : State) : Host.Outcome State Fault Refusal :=
  let bytes := w.bytes
  if !State.hostReady s ∨ 2 ^ s.host.winLog2 < offset + bytes.length ∨ bytes = [] then .next s
  else
    let pa := s.host.aperture + offset
    if State.hostRefuses s pa bytes.length then .next (State.hostRefusal s pa bytes.length)
    else .next (State.writePhysical s pa bytes (List.replicate bytes.length false) 1 0 w.outcomes)

/-! ### Ranges of physical memory -/

/-- The sectors whose stack copies are lost (R357) are whole again where `p` holds of their bytes. -/
def Region.mend (x : Region) (r : Nat) (p : Nat → Bool) : Region :=
  { x with cache := x.cache.map (fun l => (l.1, l.2.map (fun y => { y with lost := y.lost.filter (fun i => !p (homeKey r (y.line * 128 + 32 * i))) }))) }

/-- The bytes of a range read as zero, with no poison, in the stacks too. -/
def State.zeroWhere (s : State) (p : Nat → Bool) : State :=
  { s with
    mem := s.mem.filter (fun e => !p e.1), memPoison := s.memPoison.filter (fun e => !p (e.1 * 32))
    regions := s.regions.map (fun e => (e.1, Region.mend e.2 e.1 p)) }

/-- Physical pages of this module are written (R144). -/
def State.writePages (s : State) (pages : List Nat) : State :=
  { s with codeWrites := pages.foldl (fun m p => NMap.set m 0 (s.moduleNumber * 2 ^ 22 + p) s.nextId) s.codeWrites }

/-- A byte key (`homeKey`) lies in a range of physical addresses. -/
def keyInRange (ilv pa len k : Nat) : Bool :=
  let a := physicalOf ilv (k / 2 ^ 39) (k % 2 ^ 39)
  decide (pa ≤ a ∧ a < pa + len)

/-- `MEMORY_CLEAR` (0x0210): one GiB, 512 pages, a step; the GiB cleared so far stand after each (R477). -/
def execMemoryClear (mb pa pages : Nat) (s : State) : Host.Outcome State Fault Refusal :=
  State.command s mb 0x0210 (fun s =>
    if State.populatedPages s pa pages then
      let i := State.stage s mb
      let first := pa / 2 ^ 21 + 512 * i
      let n := min 512 (pages - 512 * i)
      let s := State.zeroWhere s (keyInRange (State.ilv s) (first * 2 ^ 21) (n * 2 ^ 21))
      let s := State.writePages s (tabulate n (fun j => first + j))
      if pages ≤ 512 * (i + 1) then State.progress (State.complete s mb 0 []) mb (pages / 512)
      else State.progress (State.reportSoFar (State.goOn s mb []) mb [i + 1]) mb (i + 1)
    else State.complete s mb 1 [])

/-- `APERTURE_SET` (0x0211). -/
def execApertureSet (mb : Nat) (aperture : Nat) (s : State) : Host.Outcome State Fault Refusal :=
  State.command s mb 0x0211 (fun s =>
    if aperture % 2 ^ s.host.winLog2 = 0 then State.complete { s with host := { s.host with aperture := aperture % 2 ^ 64 } } mb 0 []
    else State.complete s mb 1 [])

/-- An entry of the module's table maps a page that a change of ILV_SIZE would move (R335). -/
def WindowEntry.blocksChange (e : WindowEntry) (own old new : Nat) : Bool :=
  let o := e.ppn * 2 ^ 21 % 2 ^ 39
  decide (e.kind = 0 ∧ e.module = own) && (bitOf e.ppn 21 ||
    (decide (regionBytes - max old new * 2 ^ 30 < o + 2 ^ 21) && decide (o < regionBytes - min old new * 2 ^ 30)))

/-- The pages whose memory lies in the top `top` bytes of the regions, under their region-local and their interleaved addresses. -/
def poolPages (top : Nat) : List Nat :=
  (List.range 8).flatMap (fun r => tabulate (top / 2 ^ 21) (fun i => (homeKey r (regionBytes - top)) / 2 ^ 21 + i)) ++ tabulate (8 * top / 2 ^ 21) (fun i => 2 ^ 21 + i)

/-- `INTERLEAVE_SET` (0x0220): the union of the old and the new pool is zeroed in every region. -/
def execInterleaveSet (mb : Nat) (gib : Nat) (s : State) : Host.Outcome State Fault Refusal :=
  State.command s mb 0x0220 (fun s =>
    if 96 < gib then State.complete s mb 2 []
    else if s.fabric.table.any (fun e => WindowEntry.blocksChange (windowEntry e.2) s.moduleNumber s.nv.ilvGib gib) then State.complete s mb 1 []
    else
      let top := max s.nv.ilvGib gib * 2 ^ 30
      let s := State.zeroWhere s (fun k => decide (regionBytes - top ≤ k % 2 ^ 39))
      let s := State.writePages s (poolPages top)
      State.complete { s with nv := { s.nv with ilvGib := gib } } mb 0 [])

/-- `UNPIN` (0x0221): lines of the job, or of a range of this module's memory, in every cache (R349). -/
def execUnpin (mb : Nat) (sel : UnpinSel) (s : State) : Host.Outcome State Fault Refusal :=
  State.command s mb 0x0221 (fun s =>
    let own := s.moduleNumber
    let ilv := State.ilv s
    let p (x : CacheLine) : Bool :=
      match sel with
      | .job t => decide (x.tag = t)
      | .range pa pages =>
        let a := x.line * 128
        decide (a / 2 ^ 43 = own) && decide (pa / 2 ^ 21 * 2 ^ 21 ≤ a % 2 ^ 43 ∧ a % 2 ^ 43 < pa / 2 ^ 21 * 2 ^ 21 + pages * 2 ^ 21)
    let q (r : Nat) (x : RegionLine) : Bool :=
      match sel with
      | .job t => decide (x.tag = t)
      | .range pa pages => keyInRange ilv (pa / 2 ^ 21 * 2 ^ 21) (pages * 2 ^ 21) (homeKey r (x.line * 128))
    let counts := State.pinnedCount s p q
    State.completeReport (State.unpinAll s p q) mb 0 counts)

/-! ### Scrubbing (R357) -/

/-- A GiB of a scrub (R361, R477): of a region's offsets, or of physical addresses. -/
inductive ScrubUnit where
  | offsets (region first : Nat)
  | addresses (first : Nat)
  deriving DecidableEq, Repr, Inhabited

/-- Unit `i` of a scrub: the regions of its mask one after the other, or the range given; none after the last. -/
def scrubUnit (mask : BitVec 8) (pa gib i : Nat) : Option ScrubUnit :=
  if gib = 0 then (((List.range 8).filter (fun r => mask.getLsbD r))[i / 192]?).map (fun r => .offsets r (i % 192 * 2 ^ 30))
  else if i < gib then some (.addresses (pa + i * 2 ^ 30)) else none

/-- Bytes of a unit in region r, from their first offset on: of region-local addresses, then of the interleaved pool. -/
def ScrubUnit.spans (u : ScrubUnit) (ilv r : Nat) : List (Nat × Nat) :=
  match u with
  | .offsets q first => if q = r then [(first, 2 ^ 30)] else []
  | .addresses first =>
    let clip (lo hi : Nat) : Nat × Nat := (max first lo, min (first + 2 ^ 30) hi - max first lo)
    let own := clip (r * 2 ^ 39) (r * 2 ^ 39 + (regionBytes - ilv))
    let pool := clip (2 ^ 42) (2 ^ 42 + 8 * ilv)
    [(own.1 - r * 2 ^ 39, own.2), (regionBytes - ilv + (pool.1 - 2 ^ 42) / 8, pool.2 / 8)].filter (fun x => decide (x.2 ≠ 0))

/-- The lines of a region's cache that a scrub skips in a span of offsets: dirty ones (R357). -/
def Region.dirtyIn (x : Region) (span : Nat × Nat) : Nat :=
  (x.cache.map (fun l => (l.2.filter (fun y => !y.dirty.isEmpty && decide (span.1 ≤ y.line * 128 ∧ y.line * 128 < span.1 + span.2))).length)).foldl (· + ·) 0

/-- Sectors of a unit that region r scrubs: where its controller serves, all but those of dirty lines. -/
def State.scrubbed (s : State) (mask : BitVec 8) (u : ScrubUnit) (r : Nat) : Nat :=
  if mask.getLsbD r && State.regionServes s r && State.stackPowered s r then
    ((ScrubUnit.spans u (State.ilv s) r).map (fun x => x.2 / 32 - 4 * Region.dirtyIn (State.region s r) x)).foldl (· + ·) 0
  else 0

/-- The sector lies in the unit. -/
def ScrubUnit.has (u : ScrubUnit) (ilv r o : Nat) : Bool := (ScrubUnit.spans u ilv r).any (fun x => decide (x.1 ≤ o ∧ o < x.1 + x.2))

/-- The next GiB of a scrub: its sectors are read and rewritten, `found` are the errors met; what is reported grows by it. -/
def State.scrubOne (s : State) (mask : BitVec 8) (u : ScrubUnit) (found : List SectorError) (sums : List Nat) : State × List Nat :=
  let mine := found.filter (fun e => mask.getLsbD e.region && ScrubUnit.has u (State.ilv s) e.region e.offset && State.scrubs s e.region e.offset)
  let n (r : Nat) : Nat := State.scrubbed s mask u r
  let t := mine.foldl (fun s e => State.scrubSector s e.region e.offset e.outcome) s
  let t := (List.range 8).foldl (fun t r => if n r = 0 then t else State.countUnits t .scrubSectors r (2 ^ 20) (n r)) t
  let kind (o : SectorOutcome) : Nat := (mine.filter (fun e => decide (e.outcome = o))).length
  (t, [sums.getD 0 0 + ((List.range 8).map n).foldl (· + ·) 0, sums.getD 1 0 + kind .corrected, sums.getD 2 0 + kind .uncorrectable])

/-- What a scrub reports: GiB scrubbed, corrected and uncorrectable sectors. -/
def scrubReport (sums : List Nat) : List Nat := [sums.getD 0 0 / 2 ^ 25, sums.getD 1 0, sums.getD 2 0]

/-- `SCRUB` (0x0222): one GiB a step, with the errors its sectors have; the result so far stands after each (R361). A new patrol interval takes effect
with the first. -/
def execScrub (mb : Nat) (mask : BitVec 8) (pa gib hours : Nat) (found : List SectorError) (s : State) : Host.Outcome State Fault Refusal :=
  match State.runs s mb 0x0222 with
  | none => .next s
  | some k =>
    let s := if k.stage = 0 ∧ 1 ≤ hours ∧ hours ≤ 168 then { s with host := { s.host with scrubHours := hours } } else s
    match scrubUnit mask pa gib k.stage with
    | none => .next (State.completeReport s mb 0 (scrubReport k.values))
    | some u =>
      let r := State.scrubOne s mask u found k.values
      let done := k.stage + 1
      let t := if (scrubUnit mask pa gib done).isNone then State.completeReport r.1 mb 0 (scrubReport r.2)
        else State.reportSoFar (State.goOn r.1 mb r.2) mb (scrubReport r.2)
      .next (State.progress t mb (r.2.getD 0 0 / 2 ^ 25))

/-- Groups are resident in a region. -/
def State.regionOccupied (s : State) (r : Nat) : Bool := s.cells.any (fun e => decide (regionOf e.1 = r) && !e.2.groups.isEmpty)

/-- The next GiB of an override of the scrub: dirty lines are written back, every sector is rewritten, and with `zero` the poisoned ones become zero
without poison. -/
def State.overrideOne (s : State) (mask : BitVec 8) (u : ScrubUnit) (zero : Bool) : State :=
  let ilv := State.ilv s
  let covers (k : Nat) : Bool := mask.getLsbD (k / 2 ^ 39) && ScrubUnit.has u ilv (k / 2 ^ 39) (k % 2 ^ 39)
  let clean (r : Nat) (x : RegionLine) : RegionLine := if covers (homeKey r (x.line * 128)) then { x with dirty := [], lost := [] } else x
  let written := (s.regions.map (fun e => (e.1,
    (e.2.cache.map (fun l => (l.2.map (fun x => if covers (homeKey e.1 (x.line * 128)) then b2n (!x.dirty.isEmpty) else 0)).foldl (· + ·) 0)).foldl (· + ·) 0)))
  let s := written.foldl (fun s e => if e.2 = 0 then s else State.count s .rcWriteback 0 e.1 e.2) s
  let s := { s with regions := s.regions.map (fun e => (e.1, { e.2 with cache := e.2.cache.map (fun l => (l.1, l.2.map (clean e.1))) })) }
  let bad := s.memPoison.filter (fun e => covers (e.1 * 32))
  if zero then
    State.writePages { s with
      mem := s.mem.filter (fun b => bad.all (fun e => decide (e.1 ≠ b.1 / 32)))
      memPoison := s.memPoison.filter (fun e => !covers (e.1 * 32)) } (bad.map (fun e => physicalOf ilv (e.1 * 32 / 2 ^ 39) (e.1 * 32 % 2 ^ 39) / 2 ^ 21))
  else s

/-- `SCRUB_OVERRIDE` (0x0F04): refused with groups resident in a named region when it begins; then one GiB a step (R477). -/
def execScrubOverride (mb : Nat) (mask : BitVec 8) (pa gib action : Nat) (s : State) : Host.Outcome State Fault Refusal :=
  State.command s mb 0x0F04 (fun s =>
    let i := State.stage s mb
    if i = 0 ∧ (List.range 8).any (fun r => mask.getLsbD r && State.regionOccupied s r) then State.complete s mb 1 []
    else
      match scrubUnit mask pa gib i with
      | none => State.complete s mb 0 []
      | some u =>
        let s := State.overrideOne s mask u (decide (action ≠ 0))
        if (scrubUnit mask pa gib (i + 1)).isNone then State.progress (State.complete s mb 0 []) mb (i + 1)
        else State.progress (State.reportSoFar (State.goOn s mb []) mb [i + 1]) mb (i + 1))

/-- `MEMORY_HEALTH` (0x0223): per pseudo-channel the three error counters and the spares left per bank; the retired pages. -/
def execMemoryHealth (mb dst : Nat) (s : State) : Host.Outcome State Fault Refusal :=
  State.command s mb 0x0223 (fun s =>
    let counter (c : Counter) (ch : Nat) : Nat := NMap.get s.tel.counters 0 (counterKey c 0 ch)
    State.deliverReport s mb dst 0 ((List.range 512).flatMap (fun ch =>
      [counter .memCe ch, counter .memUe ch, counter .memPoisonRead ch]
        ++ tabulate 32 (fun b => 16 - (NMap.get s.banks default (bankKey ch b)).spared.length)) ++ s.nv.retiredPages))

end Sys2Proof.Machine
end

