-- ==== Sys2Proof/Machine/Fence.lean ====
section
/-!
DEFINITION. Block fences (R30, R31, R519) and the reconfiguration of a block (R14, R524).
-/

namespace Sys2Proof.Machine

/-- The cells of a block. -/
def blockCells (b : Nat) : List Nat := tabulate 6 (fun i => 6 * b + i)

def RequestBody.isStore (b : RequestBody) : Bool :=
  match b with
  | .store _ _ _ _ => true
  | .atomic _ _ _ _ => true
  | _ => false

/-- A request of a cell of block `b`. -/
def HomeSource.ofBlock (h : HomeSource) (b : Nat) : Bool := (HomeSource.cell? h).elim false (fun c => decide (blockOf c = b))

/-- Requests of the block that have no credit yet: they go no further (R30, R31). -/
def State.ungranted (s : State) (b : Nat) : NMap HomeRequest :=
  s.homeQueue.filter (fun e => HomeSource.ofBlock e.2.source b && decide (e.2.stage = .cell))

/-- A store or atomic, or a copy's write. -/
def HomeBody.isStore (b : HomeBody) : Bool := !HomeBody.isRead b

/-- What a cell holds for want of an earlier operation is discarded when its block is fenced, with the space reserved for its answers (R24, R30). -/
def Cell.dropHeld (x : Cell) : Cell :=
  let gone := x.held.filterMap (fun e => e.2.miss)
  { x with
    held := [], heldLocal := []
    misses := x.misses.filter (fun m => !gone.contains m.1)
    accesses := x.accesses.filter (fun a => a.2.waits.all (fun w => !gone.contains w) && (NMap.find x.heldLocal a.1).isNone) }

/-- A block fence (R30, R31): issue stops, what has credit completes, what has none is dropped. The alarm's DETAIL holds the failed cell and, above it,
the count of the stores and atomics dropped. -/
def State.fenceBlock (s : State) (b : Nat) (cell : Option Nat) : State :=
  let x := State.block s b
  if x.fenced then s
  else
    let gone := State.ungranted s b
    let stores := (gone.filter (fun e => HomeBody.isStore e.2.body)).length
    let held := ((blockCells b).map (fun c => ((State.cell s c).held.filter (fun e => RequestBody.isStore e.2.packet.body)).length)).foldl (· + ·) 0
    let s := State.setBlock s b { x with fenced := true, failedCell := cell }
    let s := { s with homeQueue := s.homeQueue.filter (fun e => (NMap.find gone e.1).isNone) }
    let s := (blockCells b).foldl (fun s c => State.modCell s c Cell.dropHeld) s
    State.recoveryEvent (State.raise s 0x62 2 b (cell.getD 0 + (stores + held) * 2 ^ 32)) 8

/-- `UNCONTAINED_CELL_FAILURE` (R519). -/
def execUncontainedCellFailure (cell : Nat) (s : State) : Host.Outcome State Fault Refusal :=
  if cell < cellCount then .next (State.fenceBlock s (blockOf cell) (some cell)) else .next s

/-- `BLOCK_PARITY_FAILURE` (Table 18.1, R30). -/
def execBlockParityFailure (block : Nat) (s : State) : Host.Outcome State Fault Refusal :=
  if block < 64 then .next (State.fenceBlock s block none) else .next s

/-- `FENCED_RESPONSE` (R30): a response for a fenced block is accepted and discarded, and frees its slot. -/
def execFencedResponse (cell id : Nat) (s : State) : Host.Outcome State Fault Refusal :=
  match NMap.find (State.cell s cell).misses id with
  | none => .next s
  | some m =>
    if (State.block s (blockOf cell)).fenced && m.answer.isSome then
      .next (State.modCell s cell (fun x =>
        { x with misses := NMap.erase x.misses id, accesses := x.accesses.filter (fun e => !e.2.waits.contains id) }))
    else .next s

/-! ### Reconfiguration (R524) -/

/-- The logical cells of a block that have failed or are RETIRING. -/
def State.lostCells (s : State) (b : Nat) : List Nat :=
  (blockCells b).filter (fun c => (State.cell s c).retiring || decide ((State.block s b).failedCell = some c))

/-- A cell as it is after a remap: cleared under R150 and R162; what its rings and its block set stays. -/
def Cell.remapped (x : Cell) : Cell := { Cell.reset with deferLimit := x.deferLimit, reservation := x.reservation }

/-- Reconfigure a block: the first lost cell takes the spare, a further one fences the block. Whether it was remapped. -/
def State.reconfigure (s : State) (b : Nat) : State × Bool :=
  let x := State.block s b
  match State.lostCells s b with
  | [] => (s, false)
  | c :: rest =>
    let m := NonVolatile.cellMap s.nv b
    match m.spare with
    | none => (State.fenceBlock s b x.failedCell, false)
    | some slot =>
      if !rest.isEmpty ∨ (x.fenced ∧ x.failedCell = none) then (State.fenceBlock s b x.failedCell, false)
      else
        let k := c % 6
        let old := m.slots.getD k k
        let map : CellMap := { slots := m.slots.set k slot, spare := none, failed := m.failed ++ [old] }
        let s := { s with nv := { s.nv with cellMaps := NMap.set s.nv.cellMaps CellMap.reset b map } }
        let s := State.setBlock (State.modCell s c Cell.remapped) b { State.block s b with fenced := false, failedCell := none }
        let s := State.count s .remaps 0 b 1
        (State.log s 0x0012 2 b 0 [b, k, old, slot], true)

/-- Blocks with a lost cell: those without a resident group are reconfigured, the others deferred (R524, Table 14.7 step 4). -/
def State.remapAll (s : State) : State × Nat × Nat :=
  (List.range 64).foldl (fun (acc : State × Nat × Nat) b =>
    if (State.lostCells acc.1 b).isEmpty then acc
    else if (blockCells b).any (fun c => !(State.cell acc.1 c).groups.isEmpty) then (acc.1, acc.2.1, acc.2.2 + 1)
    else
      let r := State.reconfigure acc.1 b
      (r.1, acc.2.1 + b2n r.2, acc.2.2)) (s, 0, 0)

end Sys2Proof.Machine
end

