-- ==== Sys2Proof/Machine/Proofer.lean ====
section
/-!
DEFINITION. The Proofer (R499 to R503): admission, slice ramps, activity levels, voltage raises; and the operating point of a region (R504).
-/

namespace Sys2Proof.Machine

/-! ### Operating point (R504) -/

/-- min(VREQ, VPWR, VTHM) in mV. -/
def RegionPower.target (x : RegionPower) : Nat :=
  let a := x.vpwr.elim x.vreq (fun v => min v x.vreq)
  x.vthm.elim a (fun v => min v a)

/-- The next step of a rise, in mV: 10, or 5 where the target lies only 5 mV above. -/
def RegionPower.riseStep (x : RegionPower) : Nat := if RegionPower.target x < x.volt + 10 then RegionPower.target x - x.volt else 10

/-- Caps or VREQ of a region have changed: V falls at once where the target is lower (R504), and a V that falls below VREQ is an event of
THROTTLED. A raise that is no longer needed is withdrawn (R501). -/
def State.settleVoltage (s : State) (r : Nat) : State :=
  let x := State.regionPower s r
  if !x.on then s
  else
    let v := min x.volt (RegionPower.target x)
    let s1 := State.modRegionPower s r (fun y => { y with volt := v })
    let s2 := if v < x.volt ∧ v < x.vreq ∧ x.vreq ≤ x.volt then State.flag s1 0 else s1
    if RegionPower.target x ≤ v then State.withdraw s2 (fun o => decide (o = .voltage r)) else s2

/-! ### Requests (Table 17.3) -/

/-- The declared step, in quarter mA. -/
def State.stepOf (s : State) (o : ProoferObject) : Nat :=
  match o with
  | .regionPower _ => 4800
  | .stackPair _ => 2000
  | .opticalPort _ => 600
  | .electricalPort _ => 400
  | .slice c _ => (match (State.cell s c).sliceCount with
    | 1 => 120
    | 2 => 60
    | _ => 32)
  | .voltage r => if RegionPower.riseStep (State.regionPower s r) ≤ 5 then 600 else 1200
  | .activity _ => 400

/-- A mailbox runs region power with the region to come on (0x0103). -/
def State.powering (s : State) (r : Nat) : Bool :=
  s.host.mailboxes.any (fun e => e.2.running.elim false (fun k => decide (k.code = 0x0103 ∧ k.stage = 1 ∧ k.values = [r])))

/-- The port is to be enabled: DISABLED, its region powered. -/
def State.enabling (s : State) (p : Nat) : Bool :=
  let x := State.port s p
  decide (p < portCount) && x.wanted && decide (x.state = .disabled) && (State.regionPower s (portRegion p)).stackOn

/-- The object needs the activity of Table 17.3. -/
def State.needs (s : State) (o : ProoferObject) : Bool :=
  match o with
  | .regionPower r => decide (r < 8) && State.powering s r && !(State.regionPower s r).on
  | .stackPair r => decide (r < 8) && State.powering s r && (State.regionPower s r).on && !(State.regionPower s r).stackOn
  | .opticalPort p => State.enabling s p && !portElectrical p
  | .electricalPort p => State.enabling s p && portElectrical p
  | .slice c k => State.cellRuns s c && decide ((Cell.slice (State.cell s c) k).ramp = .waitGrant)
  | .voltage r =>
    let x := State.regionPower s r
    decide (r < 8) && x.on && x.granted.isNone && decide (x.volt < RegionPower.target x)
  | .activity r => decide (r < 8) && (State.regionPower s r).on && (State.regionPower s r).raising

/-- The largest depth since the counter was cleared (PROOFER_QMAX); `ticked` keeps the largest of this tick. -/
def State.deepest (s : State) (n : Nat) : State :=
  let key := counterKey .prooferQmax 0 0
  let most := max n (TickEvents.of s.tel.ticked s.timebase key)
  let s := State.count s .prooferQmax 0 0 (n - NMap.get s.tel.counters 0 key)
  { s with tel := { s.tel with ticked := { s.tel.ticked with counts := NMap.set s.tel.ticked.counts 0 key most } } }

/-- A request enters the queue: at most one per object (R501). -/
def State.enqueue (s : State) (o : ProoferObject) : State :=
  let q := s.power.proofer.queue
  if State.needs s o && !q.contains o then
    State.deepest (State.modProofer s (fun p => { p with queue := q ++ [o] })) (q.length + 1)
  else s

/-- `PROOFER_REQUEST` (R499, R500). -/
def execProoferRequest (req : ProoferObject) (s : State) : Host.Outcome State Fault Refusal := .next (State.enqueue s req)

/-- What a grant starts; for an object that no longer needs it, nothing (R501). -/
def State.startGranted (s : State) (o : ProoferObject) : State :=
  if !State.needs s o then s
  else
    match o with
    | .regionPower r => State.modRegionPower s r (fun x => { x with on := true, volt := RegionPower.target x, level := 0, raising := false, granted := none })
    | .stackPair r =>
      let s := State.modRegionPower s r (fun x => { x with stackOn := true })
      let s := State.setRegion s r { State.region s r with off := false }
      (List.range 17).foldl (fun s mb =>
        match State.runs s mb 0x0103 with
        | some k => if k.stage = 1 ∧ k.values = [r] then State.complete s mb 0 [] else s
        | none => s) s
    | .opticalPort p => State.modPort s p (fun x => Port.enter x .detect s.timebase)
    | .electricalPort p => State.modPort s p (fun x => Port.enter x .detect s.timebase)
    | .slice c k =>
      State.count (State.modCell s c (fun x => Cell.modSlice x k (fun v => { v with ramp := .start }))) .arrayRamps 0 (4 * c + k) 1
    | .voltage r => State.modRegionPower s r (fun x => { x with granted := some (RegionPower.riseStep x) })
    | .activity r => State.modRegionPower s r (fun x => { x with level := x.level + 100, raising := false })

/-- The request is a region power-up. -/
def ProoferObject.isRegion (o : ProoferObject) : Bool :=
  match o with
  | .regionPower _ => true
  | _ => false

/-- The oldest request can be granted (R500, R503). -/
def State.grantable (s : State) : Bool :=
  let p := s.power.proofer
  match p.queue with
  | [] => false
  | o :: _ =>
    !p.clamp && decide (State.stepOf s o ≤ p.rise)
      && !(ProoferObject.isRegion o && p.lastRegion.elim false (fun t => decide (s.timebase < t + 300000)))

/-- `PROOFER_GRANT` (R500): the oldest request, strictly in arrival order. -/
def execProoferGrant (s : State) : Host.Outcome State Fault Refusal :=
  match s.power.proofer.queue with
  | [] => .next s
  | o :: rest =>
    if !State.grantable s then .next s
    else
      let s1 := State.modProofer s (fun p =>
        { p with rise := p.rise - State.stepOf s o, queue := rest, lastRegion := if ProoferObject.isRegion o then some s.timebase else p.lastRegion })
      .next (State.startGranted (State.count s1 .prooferGrants 0 0 1) o)

/-! ### Slice ramps (R237, R502) -/

/-- The cell's slice, while it exists. -/
def State.sliceRamp (s : State) (c k : Nat) : Option Ramp :=
  if c < cellCount ∧ k < (State.cell s c).sliceCount then some (Cell.slice (State.cell s c) k).ramp else none

/-- `RAMP_START_DONE` (Table 7.10): all 16 rows handshake. -/
def execRampStartDone (c k : Nat) (s : State) : Host.Outcome State Fault Refusal :=
  if State.sliceRamp s c k = some .start then
    .next (State.settleArray (State.modCell s c (fun x => Cell.modSlice x k (fun v => { v with ramp := .run, rows := 16 }))) c)
  else .next s

/-- Spend a slice's step of F and let its stop ramp run. -/
def State.stopSlice (s : State) (c k : Nat) : State :=
  let n := State.stepOf s (.slice c k)
  State.modCell (State.modProofer s (fun p => { p with fall := p.fall - n })) c (fun x => Cell.modSlice x k (fun v => { v with ramp := .stop }))

/-- `SLICE_HOLD_EXPIRY` (Table 7.10, R502): with its queue empty, the slice stops if F allows and nothing waits before it; else it is held in
RUN. -/
def execSliceHoldExpiry (c k : Nat) (s : State) : Host.Outcome State Fault Refusal :=
  let p := s.power.proofer
  if State.sliceRamp s c k ≠ some .run ∨ (Cell.findOp (State.cell s c) k (fun _ => true)).isSome ∨ p.held.contains (.slice c k) then .next s
  else if p.held.isEmpty ∧ State.stepOf s (.slice c k) ≤ p.fall then .next (State.stopSlice s c k)
  else .next (State.modProofer s (fun p => { p with held := p.held ++ [.slice c k] }))

/-- Lowerings of activity levels at the front of what waits for F, while F lasts (R499, R502). -/
def Power.lower (x : Power) : List FallItem → Power
  | .level r :: rest =>
    if 400 ≤ x.proofer.fall then
      Power.lower
        { x with
          regions := NMap.upd x.regions RegionPower.reset r (fun y => { y with level := y.level - 100 })
          proofer := { x.proofer with fall := x.proofer.fall - 400, held := rest } } rest
    else x
  | _ => x

def State.lowerLevels (s : State) : State := { s with power := Power.lower s.power s.power.proofer.held }

/-- `HELD_SLICE_STOP` (R502): the slice that has waited longest stops when F is at least its step. -/
def execHeldSliceStop (c k : Nat) (s : State) : Host.Outcome State Fault Refusal :=
  match s.power.proofer.held with
  | .slice c' k' :: rest =>
    if c' = c ∧ k' = k ∧ State.stepOf s (.slice c k) ≤ s.power.proofer.fall then
      .next (State.lowerLevels (State.stopSlice (State.modProofer s (fun p => { p with held := rest })) c k))
    else .next s
  | _ => .next s

/-- `RAMP_STOP_DONE` (Table 7.10): no row handshakes. -/
def execRampStopDone (c k : Nat) (s : State) : Host.Outcome State Fault Refusal :=
  if State.sliceRamp s c k = some .stop then
    .next (State.modCell s c (fun x => Cell.modSlice x k (fun v => { v with ramp := .idle, rows := 0 })))
  else .next s

/-! ### The activity governor (R499) -/

/-- `GOVERNOR_INTERVAL` (R499): the estimate is what the region draws above its idle level. Within 100 mA of the band's upper end it asks for a
raise, and holds issue until the grant; below L it asks to lower L by 100 mA, and filler holds the current meanwhile. -/
def execGovernorInterval (region estimateMa : Nat) (s : State) : Host.Outcome State Fault Refusal :=
  let x := State.regionPower s region
  if 8 ≤ region ∨ !x.on then .next s
  else if x.level + 400 ≤ estimateMa then
    .next (State.enqueue (State.modRegionPower s region (fun y => { y with raising := true })) (.activity region))
  else if estimateMa < x.level ∧ 100 ≤ x.level ∧ !s.power.proofer.held.contains (.level region) then
    .next (State.lowerLevels (State.modProofer s (fun p => { p with held := p.held ++ [.level region] })))
  else .next s

/-- `VOLTAGE_RAISE_STEP` (R504): the rail rises by the granted step, no higher than the target. -/
def execVoltageRaiseStep (region : Nat) (s : State) : Host.Outcome State Fault Refusal :=
  let x := State.regionPower s region
  match x.granted with
  | some n => .next (State.modRegionPower s region (fun y => { y with volt := max y.volt (min (y.volt + n) (RegionPower.target y)), granted := none }))
  | none => .next s

/-- `LINK_ENABLE` (0x0403, 2): the port is to be enabled, through the Proofer (R460). -/
def execLinkEnable (mb region port : Nat) (s : State) : Host.Outcome State Fault Refusal :=
  State.command s mb 0x0403 (fun s =>
    match portAt region port with
    | none => State.complete s mb 1 []
    | some p =>
      let s := State.modPort s p (fun x => { x with wanted := true })
      State.complete (State.enqueue s (if portElectrical p then .electricalPort p else .opticalPort p)) mb 0 [])

end Sys2Proof.Machine
end

