-- ==== Sys2Proof/Machine/Regions.lean ====
section
/-!
DEFINITION. Region fences (R521 to R523), region power by command (0x0103), and the package network (R18).
-/

namespace Sys2Proof.Machine

/-! ### A region stops (R521, R345) -/

/-- The cells of a region. -/
def regionCells (r : Nat) : List Nat := tabulate 48 (fun i => 48 * r + i)
def regionPorts (r : Nat) : List Nat := tabulate 5 (fun i => 5 * r + i)

/-- Every dirty line of the region cache is written back, each counted, and the cache is empty; where the region controller does not answer,
nothing is written back. -/
def State.emptyCache (s : State) (r : Nat) (answers : Bool) : State :=
  let x := State.region s r
  let n := (x.cache.filter (fun e => e.2.any (fun l => !l.dirty.isEmpty))).map (fun e => (e.2.filter (fun l => !l.dirty.isEmpty)).length)
  let total := n.foldl (· + ·) 0
  let s := if answers ∧ 0 < total then State.count s .rcWriteback 0 r total else s
  State.setRegion s r { State.region s r with cache := [] }

/-- The Proofer object belongs to region `r`. -/
def ProoferObject.ofRegion (o : ProoferObject) (r : Nat) : Bool :=
  match o with
  | .regionPower q => decide (q = r)
  | .stackPair q => decide (q = r)
  | .opticalPort p => decide (portRegion p = r)
  | .electricalPort p => decide (portRegion p = r)
  | .slice c _ => decide (regionOf c = r)
  | .voltage q => decide (q = r)
  | .activity q => decide (q = r)

def FallItem.ofRegion (i : FallItem) (r : Nat) : Bool :=
  match i with
  | .slice c _ => decide (regionOf c = r)
  | .level q => decide (q = r)

/-- The rails of a region are off: nothing of it asks the Proofer for anything (R501), and fills in flight at its stacks are over. -/
def State.railsOff (s : State) (r : Nat) : State :=
  let s := State.modRegionPower s r (fun x =>
    { x with on := false, stackOn := false, vpwr := none, vthm := none, volt := 0, granted := none, level := 0, raising := false
             pace := { x.pace with volt := 0, pace := 0, throttle := false, valid := false } })
  let s := State.unhold (State.withdraw s (fun o => ProoferObject.ofRegion o r)) (fun i => FallItem.ofRegion i r)
  { s with
    stackQueue := s.stackQueue.filter (fun e => decide (e.2.region ≠ r))
    homeQueue := s.homeQueue.map (fun e => if e.2.region = r then (e.1, { e.2 with joined := none }) else e)
    power := { s.power with critSince := NMap.erase s.power.critSince r } }

/-- The region's ports go down and stay DISABLED. -/
def State.portsDown (s : State) (r : Nat) : State := (regionPorts r).foldl (fun s p => State.takeDown s p .disabled) s

/-- The module enters FAULTED (R523): it leaves the fabric, and commands that cannot finish complete (Table 16.7). -/
def State.enterFaulted (s : State) : State :=
  let s := if s.joined then State.leaveJoined s else s
  State.recoveryEvent (State.endCommands { s with phase := .faulted } 0xFFFC (fun _ => true)) 10

/-- Every region is fenced, or two regions four apart (R522, R523). -/
def State.tooManyFenced (s : State) : Bool :=
  let f (r : Nat) : Bool := (State.region s r).fenced
  (List.range 8).all f || (List.range 4).any (fun r => f r && f (r + 4))

/-- The log records in the region's part of the ring are lost (R522). -/
def State.loseLog (s : State) (r : Nat) : State :=
  let kept := s.tel.logRing.filter (fun e => decide (e.1 / 2 ^ 17 ≠ r))
  if kept.length < s.tel.logRing.length then State.flag { s with tel := { s.tel with logRing := kept } } 6 else s

/-- A region fence (R521). `answers`: its controller still answers. -/
def State.fenceRegion (s : State) (r : Nat) (answers : Bool) : State :=
  if (State.region s r).fenced then s
  else
    let s := State.setRegion s r { State.region s r with fenced := true }
    let s := State.portsDown (State.emptyCache s r answers) r
    let s := (regionPorts r).foldl (fun s p => State.modPort s p (fun x => { x with wanted := false })) s
    let s := State.loseLog (State.railsOff s r) r
    let s := State.endCommands s 0xFFFC (fun k => decide (k.code = 0x0103 ∧ k.stage = 1 ∧ k.values = [r]))
    let s := State.recoveryEvent (State.raise s 0x63 1 r 0) 8
    if State.tooManyFenced s then State.enterFaulted s else s

/-- `RC_HEARTBEAT_TIMEOUT` (Table 18.1): no heartbeat for 1 ms. -/
def execRcHeartbeatTimeout (region : Nat) (s : State) : Host.Outcome State Fault Refusal :=
  if region < 8 ∧ (State.regionPower s region).on ∧ !(State.region s region).fenced then
    .next (State.fenceRegion (State.raise s 0xC3 1 region 0) region false)
  else .next s

/-- The packets waiting at the package-network output into a region. -/
def State.packetsInto (s : State) (destination : Nat) : NMap PackagePacket := s.package.filter (fun e => decide (e.2.destination = destination))

/-- The output into a region grants this packet: its class has its turn (R16), its source is next among those with a packet of the class, and it is that
source's oldest of the class (Table 1.2). -/
def State.outputTurn (s : State) (destination : Nat) (cls : TrafficClass) (source : Nat) : Bool :=
  let here := State.packetsInto s destination
  let waiting := (classOrder.filter (fun k => here.any (fun e => decide (e.2.cls = k)))).map TrafficClass.rank
  let a := (State.region s destination).output
  decide (arbitrate a.passed waiting = some (TrafficClass.rank cls)) &&
    decide (roundRobin (NMap.find a.last (TrafficClass.rank cls)) ((here.filter (fun e => decide (e.2.cls = cls))).map (fun e => e.2.source)) = some source)

/-- The grant is recorded at that output's arbiter. -/
def State.outputGranted (s : State) (destination : Nat) (cls : TrafficClass) (source : Nat) : State :=
  let here := State.packetsInto s destination
  let waiting := (classOrder.filter (fun k => here.any (fun e => decide (e.2.cls = k)))).map TrafficClass.rank
  let x := State.region s destination
  State.setRegion s destination { x with output :=
    { passed := passOver x.output.passed waiting (TrafficClass.rank cls), last := NMap.insert x.output.last (TrafficClass.rank cls) source } }

/-- A packet arrives and is accepted: a request has come to its home, an answer to its cell; the credit of its pool is free (P14, P15, P17). -/
def State.packetArrives (s : State) (id : Nat) (p : PackagePacket) : State :=
  let s := State.emit { s with package := NMap.erase s.package id } (.package p)
  State.moveOn (match p.header with
    | .request k => { s with homeQueue := NMap.mod s.homeQueue k (fun q => { q with stage := .home }) }
    | h => State.land s h p.data) (fun _ => true)

/-- `PACKAGE_PACKET` (R18, Table 18.1): the packet that the output into `destination` grants crosses its hop. One that fails its CRC is resent from the
hop, on the credit it holds, up to three times; a fourth failure fences the sending region. -/
def execPackagePacket (source destination : Nat) (cls : TrafficClass) (crcOk : Bool) (s : State) : Host.Outcome State Fault Refusal :=
  match (State.packetsInto s destination).find? (fun e => decide (e.2.source = source ∧ e.2.cls = cls)) with
  | none => .next s
  | some e =>
    if !State.outputTurn s destination cls source then .next s
    else
    let x := State.region s source
    let n := NMap.get x.retries 0 destination
    if crcOk then
      .next (State.settleAll (State.packetArrives
        (State.outputGranted (State.setRegion s source { x with retries := NMap.erase x.retries destination }) destination cls source) e.1 e.2))
    else if n < 3 then
      .next (State.count (State.setRegion s source { x with retries := NMap.set x.retries 0 destination (n + 1) }) .pkgRetry 0 (8 * source + destination) 1)
    else .next (State.fenceRegion (State.setRegion s source { x with retries := NMap.erase x.retries destination }) source true)

/-! ### Region power (0x0103) -/

/-- A command completes, and the spec does not say with which RESULT. -/
def State.completeOpen (s : State) (mb : Nat) : State :=
  let f := State.free s
  State.complete f.2 mb ((Config.freeWord f.1).toNat % 2 ^ 16) []

/-- Live tray links: the partner differs in one of the three lowest dimensions only. -/
def State.trayLink (s : State) (p : Nat) : Bool :=
  let x := State.port s p
  Port.up x && x.partner.elim false (fun q => decide (q.module / 8 = s.moduleNumber / 8))

/-- The region holds the last live tray link of the module. -/
def State.lastTray (s : State) (r : Nat) : Bool :=
  let live := (List.range portCount).filter (fun p => State.trayLink s p)
  !live.isEmpty && live.all (fun p => decide (portRegion p = r))

/-- A cell whose rails are off: what its rings and its controller keep of it stays. -/
def Cell.unpowered (x : Cell) : Cell := { Cell.reset with deferLimit := x.deferLimit, reservation := x.reservation, retiring := x.retiring }

/-- `REGION_POWER_OFF` (0x0103, 0): refused with groups resident, or with the last live tray link; else the region cache is written back, and
its ports and its rails are off. -/
def execRegionPowerOff (mb region : Nat) (s : State) : Host.Outcome State Fault Refusal :=
  State.command s mb 0x0103 (fun s =>
    if 8 ≤ region ∨ (State.region s region).fenced then State.completeOpen s mb
    else if (regionCells region).any (fun c => !(State.cell s c).groups.isEmpty) then State.complete s mb 1 []
    else if State.lastTray s region then State.complete s mb 2 []
    else
      let s := State.emptyCache s region true
      let s := (regionPorts region).foldl (fun s p =>
        State.modPort s p (fun x => { x with wanted := x.wanted || decide (x.state ≠ .disabled) })) s
      let s := State.railsOff (State.portsDown s region) region
      let s := (regionCells region).foldl (fun s c => State.modCell s c Cell.unpowered) s
      let s := (List.range 8).foldl (fun s b =>
        State.setBlock s (8 * region + b) { State.block s (8 * region + b) with cache := [], sums := [] }) s
      State.complete (State.setRegion s region { State.region s region with off := true, windowCache := [], txns := [] }) mb 0 [])

/-- `REGION_POWER_ON` (0x0103, 1): the region's power-up is asked of the Proofer, then its stack pair's; the command completes when both are
up. -/
def execRegionPowerOn (mb region : Nat) (s : State) : Host.Outcome State Fault Refusal :=
  State.command s mb 0x0103 (fun s =>
    let p := State.regionPower s region
    if 8 ≤ region ∨ (State.region s region).fenced then State.completeOpen s mb
    else if p.on ∧ p.stackOn then State.complete s mb 0 []
    else
      let s := State.modMailbox s mb (fun m => { m with running := m.running.map (fun k => { k with stage := 1, values := [region] }) })
      State.enqueue s (if p.on then .stackPair region else .regionPower region))

/-- `THERMAL_FENCE_EXPIRY` (R511). -/
def execThermalFenceExpiry (region : Nat) (s : State) : Host.Outcome State Fault Refusal :=
  let hot := s.power.temps.any (fun e => (match e.1.cls with
    | .computeDie => decide (e.1.unit = region)
    | .baseDie => decide (e.1.unit = region)
    | .memoryStack => decide (e.1.unit / 2 = region)
    | _ => false) && decide (105 ≤ e.2))
  match NMap.find s.power.critSince region with
  | some t =>
    if region < 8 ∧ t + 100000000 ≤ s.timebase ∧ hot then .next (State.fenceRegion s region true) else .next s
  | none => .next s

end Sys2Proof.Machine
end

