-- ==== Sys2Proof/Machine/Thermal.lean ====
section
/-!
DEFINITION. Pace (R41 to R43), operating points, the power limit and the fast clamp (R504 to R507), thermal control (R509).
-/

namespace Sys2Proof.Machine

/-! ### Pace (R39 to R43) -/

/-- Table 2.1: core voltage in mV and guaranteed minimum pace in Mbeat/s. -/
def paceTable : List (Nat × Nat) := [(550, 820), (600, 950), (620, 1000), (650, 1080), (700, 1220), (750, 1350), (800, 1470), (850, 1570)]

/-- Pace `p` lies below the guaranteed minimum at `v` mV, interpolated between the rows of Table 2.1 (R39). -/
def belowGuaranteed (p v : Nat) : List (Nat × Nat) → Bool
  | a :: b :: rest =>
    if v ≤ a.1 then decide (p < a.2)
    else if v ≤ b.1 then decide (p * (b.1 - a.1) < a.2 * (b.1 - v) + b.2 * (v - a.1))
    else belowGuaranteed p v (b :: rest)
  | [a] => decide (p < a.2)
  | [] => false

/-- The lowest of the monitors of blocks that take part (R42). -/
def State.slowest (s : State) (r : Nat) (monitors : List Nat) : Option Nat :=
  (monitors.zipIdx.filter (fun m => decide (m.2 < 8) && !(State.block s (8 * r + m.2)).fenced)).foldl
    (fun (acc : Option Nat) m => some (acc.elim m.1 (fun a => min a m.1))) none

/-- `PACE_INTERVAL` (R41 to R43). -/
def execPaceInterval (region : Nat) (monitors : List Nat) (temp : BitVec 8) (s : State) : Host.Outcome State Fault Refusal :=
  if 8 ≤ region then .next s
  else
    let x := State.regionPower s region
    let blind (f : PaceRegister → PaceRegister) : State :=
      State.endEpisode (State.modRegionPower s region (fun y => { y with pace := f { y.pace with volt := y.volt / 5, pace := 0, valid := false } })) 0x61 1 region 0
    if !x.on then .next (blind (fun p => { p with throttle := false }))
    else
      match State.slowest s region monitors with
      | none => .next (blind (fun p => { p with temp := temp, seq := (p.seq + 1) % 2 ^ 12, throttle := decide (x.volt < x.vreq) }))
      | some m =>
        let p := m % 2 ^ 16
        let low := belowGuaranteed p x.volt paceTable
        let pace : PaceRegister :=
          { volt := x.volt / 5, temp := temp, paceMin := min x.pace.paceMin p, pace := p, seq := (x.pace.seq + 1) % 2 ^ 12
            throttle := decide (x.volt < x.vreq), lowpace := x.pace.lowpace || low, valid := true }
        let s := State.modRegionPower s region (fun y => { y with pace := pace })
        .next (if low then State.beginEpisode (State.w1cSet (State.count s .paceLow 0 region 1) (lowpaceKey region)) 0x61 1 region 0 0 else State.endEpisode s 0x61 1 region 0)

/-! ### The power limit (R505 to R507) -/

/-- LIMIT in force: the coolant and converter rows of Table 17.6 lower it. -/
def State.limit (s : State) : Nat :=
  let hot (row : Nat) : Bool := s.power.hot.any (fun h => decide (h.row = row))
  let a := if hot 6 then min s.nv.limit 2000 else s.nv.limit
  if hot 8 then min a 1800 else a

/-- Every region whose rails are on. -/
def State.poweredRegions (s : State) : List Nat := (List.range 8).filter (fun r => (State.regionPower s r).on)

/-- Lower VPWR of a region by `n` mV from the V in force, to 0.55 V at the lowest. -/
def State.cap (s : State) (r n : Nat) : State :=
  State.settleVoltage (State.modRegionPower s r (fun x => { x with vpwr := some (max 550 (x.volt - n)) })) r

/-- VPWR exceeds VREQ in every region: it is removed, and the episode of capping is over (R506). -/
def State.uncap (s : State) : State :=
  if (List.range 8).all (fun r => (State.regionPower s r).vpwr.elim true (fun v => decide ((State.regionPower s r).vreq < v))) then
    State.endEpisode ((List.range 8).foldl (fun s r => State.modRegionPower s r (fun x => { x with vpwr := none })) s) 0x21 0 0 0
  else s

/-- `POWER_LIMIT_INTERVAL` (R506). -/
def execPowerLimitInterval (meanWatts : Nat) (s : State) : Host.Outcome State Fault Refusal :=
  let limit := State.limit s
  let calm := if meanWatts + 60 < limit then s.power.calm + 1 else 0
  let s := { s with power := { s.power with calm := calm } }
  if limit < meanWatts then
    let s := (State.poweredRegions s).foldl (fun s r => if 550 < (State.regionPower s r).volt then State.cap s r 5 else s) s
    .next (State.beginEpisode s 0x21 0 0 0 0)
  else if 10 ≤ calm then
    let s := (State.poweredRegions s).foldl (fun s r =>
      State.modRegionPower s r (fun x => { x with vpwr := x.vpwr.map (fun v => v + 5) })) s
    .next (State.uncap s)
  else .next s

/-- `POWER_SAMPLE` (R507): the fast clamp engages at 2,900 W and releases below 2,700 W. -/
def execPowerSample (meanWatts : Nat) (s : State) : Host.Outcome State Fault Refusal :=
  if !s.power.proofer.clamp ∧ 2900 ≤ meanWatts then
    let s := State.count (State.modProofer s (fun p => { p with clamp := true })) .clamps 0 0 1
    let s := (State.poweredRegions s).foldl (fun s r => State.cap s r 25) s
    .next (State.beginEpisode s 0x21 0 0 0 0)
  else if s.power.proofer.clamp ∧ meanWatts < 2700 then .next (State.modProofer s (fun p => { p with clamp := false }))
  else .next s

/-! ### Thermal thresholds (R509, Table 17.6) -/

/-- A row of Table 17.6: threshold, alarm, release value, how long below it, all in °C and ns. -/
structure ThermalRow where
  number : Nat
  at_ : Int
  alarm : Nat
  release : Int
  hold : Nat
  deriving DecidableEq, Repr, Inhabited

def thermalRow (number : Nat) (at_ : Int) (alarm : Nat) (release : Int) (hold : Nat) : ThermalRow :=
  { number := number, at_ := at_, alarm := alarm, release := release, hold := hold }

/-- The rows of a sensor. -/
def thermalRows (c : SensorClass) : List ThermalRow :=
  match c with
  | .computeDie => [thermalRow 0 95 0x01 92 10000000, thermalRow 1 105 0x02 92 100000000]
  | .baseDie => [thermalRow 0 95 0x01 92 10000000, thermalRow 1 105 0x02 92 100000000]
  | .memoryStack => [thermalRow 2 95 0x04 90 10000000, thermalRow 3 105 0x02 90 100000000]
  | .opticalEngine => [thermalRow 4 80 0x05 75 0, thermalRow 5 90 0 80 0]
  | .converter => [thermalRow 6 110 0x06 100 1000000000]
  | .coolantInlet => [thermalRow 7 40 0x07 38 1000000000, thermalRow 8 45 0x08 42 1000000000]

/-- The region a sensor's throttle acts on. -/
def SensorRef.region (x : SensorRef) : Option Nat :=
  match x.cls with
  | .computeDie => some x.unit
  | .baseDie => some x.unit
  | .memoryStack => some (x.unit / 2)
  | _ => none

/-- KIND and SOURCE of a row's alarm (Table 18.2). -/
def SensorRef.source (x : SensorRef) (row : Nat) : Nat × Nat :=
  match x.cls with
  | .memoryStack => if row = 2 then (7, x.unit) else (1, x.unit / 2)
  | .opticalEngine => (9, x.unit)
  | .converter => (0, 0)
  | .coolantInlet => (0, 0)
  | _ => (1, x.unit)

/-- A condition of one of `rows` is current in region `r`. -/
def State.hotIn (s : State) (r : Nat) (rows : List Nat) : Bool :=
  s.power.hot.any (fun h => rows.contains h.row && decide (SensorRef.region h.sensor = some r))

/-- VTHM to 0.55 V (Table 17.6). -/
def State.critical (s : State) (r : Nat) : State :=
  let s := State.settleVoltage (State.modRegionPower s r (fun x => { x with vthm := some 550 })) r
  let since := NMap.insert s.power.critSince r ((NMap.find s.power.critSince r).getD s.timebase)
  { s with power := { s.power with critSince := since } }

/-- A threshold is reached. -/
def State.heat (s : State) (x : SensorRef) (row : ThermalRow) : State :=
  let s := { s with power := { s.power with hot := s.power.hot ++ [{ sensor := x, row := row.number, below := none }] } }
  let src := SensorRef.source x row.number
  let s := if row.alarm = 0 then s else State.beginEpisode s row.alarm src.1 src.2 0 0
  let s := match SensorRef.region x with
    | some r => if row.number = 1 ∨ row.number = 3 then State.critical s r else s
    | none => s
  if row.number = 5 then
    let s := State.modPort s x.unit (fun p => { p with squelched := true })
    if (State.port s x.unit).state = .disabled then s else State.takeDown s x.unit .detect
  else s

/-- A condition is over; its alarm's episode ends with the last condition of its source. -/
def State.cool (s : State) (x : SensorRef) (row : ThermalRow) : State :=
  let s := { s with power := { s.power with hot := s.power.hot.filter (fun h => !decide (h.sensor = x ∧ h.row = row.number)) } }
  let src := SensorRef.source x row.number
  let same := s.power.hot.any (fun h =>
    decide (SensorRef.source h.sensor h.row = src) && (thermalRows h.sensor.cls).any (fun t => decide (t.number = h.row ∧ t.alarm = row.alarm)))
  let s := if row.alarm = 0 ∨ same then s else State.endEpisode s row.alarm src.1 src.2 0
  let s := match SensorRef.region x with
    | some r => if State.hotIn s r [1, 3] then s else { s with power := { s.power with critSince := NMap.erase s.power.critSince r } }
    | none => s
  if row.number = 5 then
    State.modPort s x.unit (fun p => if p.state = .disabled then { p with squelched := false } else Port.enter { p with squelched := false } .detect s.timebase)
  else s

/-- One reading against one row. -/
def State.judge (s : State) (x : SensorRef) (t : Int) (row : ThermalRow) : State :=
  match s.power.hot.find? (fun h => decide (h.sensor = x ∧ h.row = row.number)) with
  | none => if row.at_ ≤ t then State.heat s x row else s
  | some h =>
    let below := if t < row.release then some (h.below.getD s.timebase) else none
    let s := { s with power := { s.power with hot := s.power.hot.map (fun e => if e = h then { e with below := below } else e) } }
    match below with
    | some b => if b + row.hold ≤ s.timebase then State.cool s x row else s
    | none => s

/-- The sensors of Table 17.6. -/
def SensorRef.exists_ (x : SensorRef) : Bool :=
  match x.cls with
  | .computeDie => decide (x.unit < 8 ∧ x.index < 16)
  | .baseDie => decide (x.unit < 8 ∧ x.index < 4)
  | .memoryStack => decide (x.unit < 16 ∧ x.index = 0)
  | .opticalEngine => decide (x.unit < portCount ∧ x.index = 0) && !portElectrical x.unit
  | .converter => decide (x.index = 0)
  | .coolantInlet => decide (x.unit = 0 ∧ x.index = 0)

/-- `THERMAL_SAMPLE` (R509). -/
def execThermalSample (sensor : SensorRef) (celsius : Int) (s : State) : Host.Outcome State Fault Refusal :=
  if !SensorRef.exists_ sensor then .next s
  else
    let temps := (s.power.temps.filter (fun e => decide (e.1 ≠ sensor))) ++ [(sensor, celsius)]
    let s := { s with power := { s.power with temps := temps } }
    .next ((thermalRows sensor.cls).foldl (fun s row => State.judge s sensor celsius row) s)

/-- `THERMAL_THROTTLE_STEP` (R509): 10 mV down from the V in force while a throttle condition is current; 10 mV up once none is, until VTHM exceeds
VREQ and is removed. A critical action holds 0.55 V. -/
def execThermalThrottleStep (region : Nat) (s : State) : Host.Outcome State Fault Refusal :=
  let x := State.regionPower s region
  if 8 ≤ region ∨ !x.on ∨ State.hotIn s region [1, 3] then .next s
  else if State.hotIn s region [0] then
    .next (State.settleVoltage (State.modRegionPower s region (fun y => { y with vthm := some (max 550 (y.volt - 10)) })) region)
  else
    match x.vthm with
    | some v =>
      .next (State.modRegionPower s region (fun y => { y with vthm := if y.vreq < v + 10 then none else some (v + 10) }))
    | none => .next s

/-! ### Commands (Table 16.11) -/

/-- `OPERATING_POINT` (0x0101, R504): VREQ of the regions of the mask. -/
def execOperatingPoint (mb : Nat) (mask : BitVec 8) (mode setpointMv : Nat) (s : State) : Host.Outcome State Fault Refusal :=
  State.command s mb 0x0101 (fun s =>
    let set (v : Nat) : State :=
      State.complete ((bitIndices 8 mask.toNat).foldl (fun s r =>
        State.settleVoltage (State.modRegionPower s r (fun x => { x with vreq := v })) r) s) mb 0 []
    match mode with
    | 0 => set 750
    | 1 => set 620
    | 2 => if 550 ≤ setpointMv ∧ setpointMv ≤ 850 ∧ setpointMv % 5 = 0 then set setpointMv else State.complete s mb 1 []
    | _ => State.completeOpen s mb)

/-- `POWER_LIMIT_SET` (0x0102, R505). -/
def execPowerLimitSet (mb watts : Nat) (s : State) : Host.Outcome State Fault Refusal :=
  State.command s mb 0x0102 (fun s =>
    if watts < 1000 ∨ 2400 < watts then State.complete s mb 1 []
    else State.complete { s with nv := { s.nv with limit := watts } } mb 0 [])

/-- `POWER_STATUS` (0x0100): the readings of the input that the command carries, each region's voltage, pace, temperature and throttle state, and
the limit in force. -/
def execPowerStatus (mb dst mV mA watts : Nat) (s : State) : Host.Outcome State Fault Refusal :=
  State.command s mb 0x0100 (fun s =>
    let regions := (List.range 8).flatMap (fun r =>
      let x := State.regionPower s r
      [x.volt, x.pace.pace, x.pace.temp.toNat, b2n (x.on && decide (x.volt < x.vreq))])
    State.deliverReport s mb dst 0 ([mV, mA, watts] ++ regions ++ [State.limit s]))

end Sys2Proof.Machine
end

