-- ==== Sys2Proof/Machine/Startup.lean ====
section
/-!
DEFINITION. Power inputs, power-down and start-up (R48, R494 to R498, R510 to R516, R576), module reset (0x0104), and the presence and seal
inputs (R480 to R483).
-/

namespace Sys2Proof.Machine

/-! ### What ends with the power of the rails (R576) -/

/-- A port whose rails have fallen: what its laser inputs last read is kept. -/
def Port.unpowered (x : Port) : Port :=
  { Port.reset with laserA := x.laserA, laserB := x.laserB, dbmA := x.dbmA, dbmB := x.dbmB, goodSince := x.goodSince }

/-- Links that were up have left LIVE. -/
def State.linksFall (s : State) : State :=
  (List.range portCount).foldl (fun s p =>
    if Port.up (State.port s p) then State.recoveryEvent (State.flag (State.count s .linkDowns 0 p 1) 4) 2 else s) s

def RegionPower.fallen (x : RegionPower) : RegionPower :=
  { RegionPower.reset with pace := { x.pace with volt := 0, pace := 0, throttle := false, valid := false } }

/-- Every rail fed from the intermediate bus has fallen: jobs, caches and stacked memory are lost, and what R576 lists is emptied. Baker keeps
what the auxiliary supply holds. -/
def State.powerDown (s : State) (phase : Phase) : State :=
  let s := State.linksFall (State.endCommands s 0xFFFC (fun _ => true))
  let s := (List.range 8).foldl (fun s i => State.endProgramme s i 3) s
  let s := if s.tel.logRing.isEmpty ∧ s.tel.buffers.isEmpty then s else State.flag s 6
  { s with
    cells := NMap.remap Cell.reset (fun x => { Cell.reset with retiring := x.retiring }) s.cells
    blocks := NMap.remap Block.reset (fun x => { Block.reset with fenced := x.fenced, failedCell := x.failedCell }) s.blocks
    regions := [], mem := [], memPoison := [], codeWrites := [], homeQueue := [], stackQueue := [], package := [], transfers := []
    banks := NMap.remap default (fun b => { (default : BankHealth) with spared := b.spared }) s.banks
    fabric := { Fabric.reset with known := s.fabric.known, rspTimeoutMs := s.fabric.rspTimeoutMs, nextTimeoutMs := s.fabric.nextTimeoutMs }
    scale := ScaleTable.reset
    tel := { s.tel with
      logRing := [], buffers := s.tel.buffers.filter (fun e => decide (e.1 = 8)), losses := [], episodes := []
      logPath := s.tel.logPath.filter (fun e => decide (e.1 = 8)) }
    phase := phase, joined := false, debug := false
    power := { s.power with
      regions := NMap.remap RegionPower.reset RegionPower.fallen s.power.regions, proofer := Proofer.full, temps := [], hot := [], critSince := []
      calm := 0, restart := false, resetAt := none }
    presence := if s.presence.windowOpen then { s.presence with windowOpen := false, pseq := (s.presence.pseq + 1) % 256 } else s.presence
    host := { s.host with aperture := 0 }
    rings := [], launches := [], jobs := [], tasting := none, groups := []
    time := { s.time with synced := false, holdover := false, parent := none, hops := 0, slew := 0, neighbours := [] }
    ports := NMap.remap Port.reset Port.unpowered s.ports }

/-- The bus is powered: neither OFF nor AUX, nor after a trip. -/
def State.powered (s : State) : Bool := decide (s.phase ≠ .off) && decide (s.phase ≠ .aux) && !s.power.tripped

/-- Keep an event for the next start-up (R496, R510, R579). -/
def State.latch (s : State) (sub d1 d2 d3 : Nat) : State :=
  let l : Latched := { sub := sub, stamp := s.timebase, d1 := d1, d2 := d2, d3 := d3 }
  { s with nv := { s.nv with latched := s.nv.latched ++ [l] } }

/-! ### Inputs (R494 to R498) -/

/-- The module as auxiliary power finds it: what Baker's non-volatile store and the fuses hold, and the model's own queue, outputs and counters
of free values and identities. -/
def State.auxReset (s : State) (phase : Phase) : State :=
  { State.reset with
    pending := s.pending, out := s.out, freeCount := s.freeCount, nextId := s.nextId, nv := s.nv, phase := phase
    banks := NMap.remap default (fun b => { (default : BankHealth) with spared := b.spared }) s.banks
    cells := NMap.remap Cell.reset (fun x => { Cell.reset with retiring := x.retiring }) s.cells }

/-- A break of the seal loop blows the next SERVICE fuse (R482); SERVICED keeps the module out of JOINED (R483). -/
def State.breakSeal (s : State) : State :=
  let nv := { s.nv with sealClosed := false, serviceBlown := min 64 (s.nv.serviceBlown + 1) }
  let s := State.raise { s with nv := nv } 0xC4 0 0 0
  if s.joined ∧ State.serviced s then State.leaveJoined s else s

/-- One change of the presence fields (R551). -/
def State.presenceChanged (s : State) : State :=
  { s with presence := { s.presence with pseq := (s.presence.pseq + 1) % 256 } }

/-- `AUX_POWER_ON` (R48, R510, R553): from OFF; a trip that is still latched is asserted again, and a seal loop that has opened meanwhile counts as
a break. -/
def execAuxPowerOn (straps : BitVec 3) (sealClosed jumper : Bool) (s : State) : Host.Outcome State Fault Refusal :=
  if s.phase ≠ .off then .next s
  else
    let s := State.auxReset s (if s.nv.trip then .faulted else .aux)
    let s := { s with
      host := { s.host with straps := straps }, presence := { s.presence with jumper := jumper, jmpAt := none, sealAt := none }
      power := { s.power with tripped := s.nv.trip } }
    if s.nv.sealClosed ∧ !sealClosed then .next (State.breakSeal s)
    else .next { s with nv := { s.nv with sealClosed := sealClosed } }

/-- `AUX_INPUT_LOSS` (R497): no volatile state survives. -/
def execAuxInputLoss (s : State) : Host.Outcome State Fault Refusal := .next (State.auxReset s .off)

/-- `PWR_EN_ASSERT` (R512): an assertion is new after 10 ms without one. -/
def execPwrEnAssert (s : State) : Host.Outcome State Fault Refusal :=
  if s.power.pwrEn ∨ s.phase = .off then .next s
  else
    let spent := s.power.spent && decide (s.timebase < s.power.pwrEnSince + 10000000)
    .next { s with power := { s.power with pwrEn := true, pwrEnSince := s.timebase, spent := spent } }

/-- `PWR_EN_DEASSERT` (R516): the orderly power-down; ignored while the trip stands (R510), but for the level of the pin. -/
def execPwrEnDeassert (s : State) : Host.Outcome State Fault Refusal :=
  if !s.power.pwrEn then .next s
  else
    let s := { s with power := { s.power with pwrEn := false, pwrEnSince := s.timebase } }
    .next (if State.powered s then State.powerDown s .aux else s)

/-- `MAIN_INPUT_DIP` (R496): at most 50 µs, which changes no state and no pace. -/
def execMainInputDip (ns mV : Nat) (s : State) : Host.Outcome State Fault Refusal :=
  if State.powered s ∧ ns ≤ 50000 ∧ mV < 36000 then .next (State.log (State.count s .inputDips 0 0 1) 0x0011 0 0 0 [1, ns, mV]) else .next s

/-- The converters stop (R496): the assertion of PWR_EN_N is spent (R512). -/
def State.inputOff (s : State) (sub ns mV : Nat) : State :=
  let s := State.recoveryEvent (State.powerDown (State.latch s sub ns mV 0) .aux) 10
  { s with power := { s.power with spent := true } }

/-- `MAIN_INPUT_LOSS` (R496): below 33.0 V. -/
def execMainInputLoss (ns mV : Nat) (s : State) : Host.Outcome State Fault Refusal :=
  if State.powered s ∧ mV < 33000 then .next (State.inputOff s 2 ns mV) else .next s

/-- `MAIN_INPUT_OVERVOLTAGE` (R496): above 48.0 V. -/
def execMainInputOvervoltage (ns mV : Nat) (s : State) : Host.Outcome State Fault Refusal :=
  if State.powered s ∧ 48000 < mV then .next (State.inputOff s 3 ns mV) else .next s

/-! ### Thermal trip (R510) -/

/-- Class of a trip comparator, and KIND and INSTANCE of its unit (Table 18.7). -/
def SensorRef.trip (x : SensorRef) : Option (Nat × Nat) :=
  match x.cls with
  | .computeDie => some (0, 2 ^ 16 + x.unit)
  | .baseDie => some (1, 2 ^ 16 + x.unit)
  | .memoryStack => some (2, 7 * 2 ^ 16 + x.unit)
  | .converter => some (3, 0)
  | _ => none

/-- `THERMAL_TRIP` (R510): a comparator at 115 °C or above. -/
def execThermalTrip (sensor : SensorRef) (celsius : Nat) (s : State) : Host.Outcome State Fault Refusal :=
  match SensorRef.trip sensor with
  | none => .next s
  | some k =>
    if !SensorRef.exists_ sensor ∨ celsius < 115 ∨ s.phase = .off ∨ s.power.tripped then .next s
    else
      let s := State.recoveryEvent (State.powerDown (State.latch s 4 k.1 k.2 celsius) .faulted) 10
      .next { s with power := { s.power with tripped := true, temps := [(sensor, (celsius : Int))] }, nv := { s.nv with trip := true } }

/-- `THERMTRIP_RELEASE` (R510): with PWR_EN_N deasserted, and no sensor whose last reading is 90 °C or above. -/
def execThermtripRelease (s : State) : Host.Outcome State Fault Refusal :=
  if s.power.tripped ∧ !s.power.pwrEn ∧ s.power.temps.all (fun e => decide (e.2 < 90)) then
    .next { s with phase := .aux, power := { s.power with tripped := false }, nv := { s.nv with trip := false } }
  else .next s

/-! ### Start-up (Tables 17.7 and 17.8) -/

/-- A latched event is logged with its own stamp, and raised as an alarm (R496, R510, R579). -/
def State.report (s : State) (l : Latched) : State :=
  let d := if l.sub = 4 then [l.sub, l.d1, l.d2, l.d3] else [l.sub, l.d1, l.d2]
  let s := { s with tel := Telemetry.send s.tel 8 { stamp := l.stamp, type := 0x0011, kind := 0, source := 0, job := 0, d := d } }
  let code := match l.sub with
    | 2 => 0x22
    | 3 => 0x23
    | _ => 0x03
  State.raise s code 0 0 0

/-- Step 2 for one region: its power-up is granted; where its rails or its controller fail it is fenced. -/
def State.bootRegion (s : State) (failed : BitVec 8) (r : Nat) : State :=
  let s := State.count s .prooferGrants 0 0 1
  if failed.toNat.testBit r then
    let s := State.setRegion s r { State.region s r with fenced := true }
    State.recoveryEvent (State.raise s 0x66 1 r 0) 8
  else State.modRegionPower s r (fun x => { x with on := true, volt := RegionPower.target x })

/-- Step 3: the stack pair of a region that is up; where a stack fails its training the region is fenced. -/
def State.trainStacks (s : State) (failed : BitVec 16) (r : Nat) : State :=
  if (State.region s r).fenced then s
  else
    let s := State.count s .prooferGrants 0 0 1
    if failed.toNat.testBit (2 * r) ∨ failed.toNat.testBit (2 * r + 1) then State.fenceRegion s r true
    else State.modRegionPower s r (fun x => { x with stackOn := true })

/-- Step 4: a row that fails the stack test is spared, or its page retired. -/
def State.testRow (s : State) (e : Nat × Nat × Nat) : State :=
  if rowExists e.1 e.2.1 e.2.2 ∧ !(State.region s (e.1 / 64)).fenced then State.spareRow s e.1 e.2.1 e.2.2 else s

/-- Step 5: cells of a block that fail self-test (R312); with more than one lost the block has no spare for them. -/
def State.failCells (s : State) (failed : List Nat) (b : Nat) : State :=
  let x := State.block s b
  let lost := (blockCells b).filter (fun c => failed.contains c)
  match lost with
  | [] => s
  | c :: rest =>
    if (State.region s (b / 8)).fenced ∨ (x.fenced ∧ x.failedCell.isNone) then s
    else if rest.isEmpty ∧ x.failedCell.isNone then State.setBlock s b { x with failedCell := some c }
    else State.fenceBlock s b (some c)

/-- Ports are enabled when D ≥ 1: each region's that is up. -/
def State.enablePorts (s : State) : State :=
  if s.fabric.dim = 0 then s
  else (List.range portCount).foldl (fun s p =>
    if (State.regionPower s (portRegion p)).stackOn then
      State.modPort (State.count s .prooferGrants 0 0 1) p (fun x => { Port.enter x .detect s.timebase with wanted := true })
    else s) s

/-- Steps 2 to 5 of Table 17.7; the stack test leaves memory at zero with no poison (R340). -/
def State.bringUp (s : State) (o : StartupOutcome) : State :=
  let s := s.nv.latched.foldl State.report s
  let s := { s with nv := { s.nv with latched := [] }, phase := .boot, host := { s.host with booted := true }, mem := [], memPoison := [] }
  let s := (List.range 8).foldl (fun s r => State.bootRegion s o.regionFailed r) s
  let s := (List.range 8).foldl (fun s r => State.trainStacks s o.stackFailed r) s
  let s := if s.phase = .faulted then s else { s with phase := .selftest }
  let s := o.rowsFailed.foldl State.testRow s
  let s := (List.range 64).foldl (fun s b => State.failCells s o.cellsFailed b) s
  let s := (State.remapAll s).1
  if s.phase = .faulted then s
  else if State.tooManyFenced s then State.enterFaulted s
  else
    State.enablePorts { s with phase := .up, moduleNumber := s.nv.module, fabric := { s.fabric with dim := s.nv.dim, rspTimeoutMs := s.fabric.nextTimeoutMs } }

/-- `STARTUP_BEGIN` (R512): the main input has been in range for 10 ms. Step 1 takes the active image, or the other bank, or stays on the boot
ROM (Table 17.8). -/
def execStartupBegin (o : StartupOutcome) (s : State) : Host.Outcome State Fault Refusal :=
  let p := s.power
  if !(decide (s.phase = .aux) && p.pwrEn && !p.spent && !p.tripped) && !(decide (s.phase = .boot) && p.restart) then .next s
  else
    let s := { s with power := { p with proofer := Proofer.full, restart := false } }
    if o.activeImageOk then .next (State.bringUp { s with host := { s.host with fallback := false } } o)
    else if o.otherImageOk then .next (State.bringUp (State.raise { s with host := { s.host with fallback := true } } 0xC1 0 0 0) o)
    else .next (State.enterFaulted s)

/-! ### Module reset (0x0104, R516) -/

/-- 10 ms from DONE. -/
def State.resetSoon (s : State) (mb : Nat) : State :=
  State.complete { s with power := { s.power with resetAt := some (s.timebase + 10000000) } } mb 0 []

/-- `MODULE_RESET_GRACEFUL` (0x0104, 0): 1 while groups are resident. -/
def execModuleResetGraceful (mb : Nat) (s : State) : Host.Outcome State Fault Refusal :=
  State.command s mb 0x0104 (fun s =>
    if s.cells.any (fun e => !e.2.groups.isEmpty) then State.complete s mb 1 [] else State.resetSoon s mb)

/-- `MODULE_RESET_FORCED` (0x0104, 1). -/
def execModuleResetForced (mb : Nat) (s : State) : Host.Outcome State Fault Refusal :=
  State.command s mb 0x0104 (fun s => State.resetSoon s mb)

/-- `MODULE_RESET_START` (R516): the power-down, without waiting for PWR_EN_N; a staged firmware image becomes active, and start-up follows. -/
def execModuleResetStart (s : State) : Host.Outcome State Fault Refusal :=
  match s.power.resetAt with
  | none => .next s
  | some t =>
    if s.timebase < t ∨ !State.powered s then .next s
    else
      let s := State.powerDown s .boot
      let nv := if s.nv.staged then { s.nv with active := 1 - s.nv.active, staged := false } else s.nv
      .next { s with nv := nv, power := { s.power with restart := true } }

/-! ### Presence and the seal (R480 to R483) -/

/-- `PRES_BTN_PRESS` (R481): the window [now, now + 120 s). The command is the end of the qualification time of R57: pin levels and shorter pulses
are its sender's (assumption 57). -/
def execPresBtnPress (s : State) : Host.Outcome State Fault Refusal :=
  if s.phase = .off then .next s
  else .next (State.presenceChanged
    { s with presence := { s.presence with winStart := s.timebase, winEnd := s.timebase + 120000000000, windowOpen := true } })

/-- `PRES_JMP_CHANGE` (R480, R481). -/
def execPresJmpChange (asserted : Bool) (s : State) : Host.Outcome State Fault Refusal :=
  if s.phase = .off ∨ s.presence.jumper = asserted then .next s
  else .next (State.presenceChanged { s with presence := { s.presence with jumper := asserted, jmpStamp := s.timebase, jmpAt := some s.timebase } })

/-- `SEAL_LOOP_OPEN` (R482). -/
def execSealLoopOpen (s : State) : Host.Outcome State Fault Refusal :=
  if s.phase = .off ∨ !s.nv.sealClosed then .next s
  else .next (State.presenceChanged (State.breakSeal { s with presence := { s.presence with sealAt := some s.timebase } }))

/-- `SEAL_LOOP_CLOSE` (R482). -/
def execSealLoopClose (s : State) : Host.Outcome State Fault Refusal :=
  if s.phase = .off ∨ s.nv.sealClosed then .next s
  else .next (State.presenceChanged { s with nv := { s.nv with sealClosed := true }, presence := { s.presence with sealAt := some s.timebase } })

end Sys2Proof.Machine
end

