-- ==== Sys2Proof/Machine/Tick.lean ====
section
/-!
DEFINITION. One tick of the 100 MHz reference (R47): the timebase, the Proofer's budgets, the presence window, and the counters of ticks.
-/

namespace Sys2Proof.Machine

/-! ### The timebase (R47, R50) -/

/-- A tick slews: something is left to make up, the module is not in holdover, and none of the last 999 ticks did. -/
def TimeService.slews (t : TimeService) : Bool := decide (t.slew ≠ 0) && !t.holdover && decide (999 ≤ t.sinceSlew)

/-- What one tick adds to the timebase: 10, or 9 or 11. -/
def TimeService.step (t : TimeService) : Nat := if TimeService.slews t then (if 0 < t.slew then 11 else 9) else 10

def TimeService.tick (t : TimeService) : TimeService :=
  if TimeService.slews t then { t with slew := if 0 < t.slew then t.slew - 1 else t.slew + 1, sinceSlew := 0 }
  else { t with sinceSlew := min 1000 (t.sinceSlew + 1) }

/-! ### Counters of ticks -/

/-- Groups of a cell that are neither parked nor without lanes. -/
def Cell.live (x : Cell) : NMap Group :=
  x.groups.filter (fun e => (NMap.find x.parkList e.1).isNone && decide (e.2.active ≠ 0))

/-- Arrival counters with a group waiting in `await` (AWAIT_STALL). -/
def Cell.awaitedCounters (x : Cell) : List Nat :=
  dedupe ((Cell.live x).filterMap (fun e =>
    match e.2.hold with
    | .await k _ => some k
    | _ => none))

/-- The group waits for its cell's epoch to come to the one it carries, or for the checkpoint that drains its collectives (R125, R418). -/
def State.epochHeld (s : State) (c : Nat) (g : Group) : Bool :=
  decide (g.hold = .epoch) &&
    (Cell.epochNewer (State.cell s c) g.job (Group.epoch g) || (State.job s g.job).checkpoint.elim false (fun k => decide (2 ≤ k.phase)))

/-- Pipelines that hold a resident group and have issued nothing since the last tick (ISSUE_STALL, R65); groups that R125 holds do not count. -/
def State.stalledPipes (s : State) (c : Nat) : List Nat :=
  let gs := (State.cell s c).groups.filter (fun e => !State.epochHeld s c e.2)
  (List.range 4).filter (fun p =>
    let mine := gs.filter (fun e => decide (e.1 / 16 = p))
    !mine.isEmpty && mine.all (fun e => !e.2.issued))

/-- Pools of which some group has an instruction ready and finds no credit (UNIT_STALL of P1, P2 and P3), and P4 where an access waits for line-miss
slots and its pipeline has none, by pool index. -/
def State.unitsFull (s : State) (c : Nat) : List Nat :=
  let x := State.cell s c
  let ready := (Cell.live x).filter (fun e => decide (e.2.fetched ≠ []) && State.holdOver s c e.1 e.2 && !State.governs s c e.2.fetched)
  let wants (lo hi : Nat) : List Nat :=
    (ready.filter (fun e => (fun op => decide (lo ≤ op ∧ op ≤ hi)) ((e.2.fetched.headD 0).toNat / 2 ^ 56))).map (fun e => e.1 / 16)
  (if (wants 0x80 0x87).any (fun p => !Cell.arrayCredit x p) then [0] else [])
    ++ (if (wants 0x90 0x9A).any (fun p => !Cell.chainCredit x p) then [1] else [])
    ++ (if 48 ≤ x.copies.length + x.colls ∧ ((wants 0x70 0x70) ++ (wants 0xA0 0xA0)) ≠ [] then [2] else [])
    ++ (if x.slotWaits.any (fun w => decide (32 ≤ Cell.slotsUsed x (w.slot / 16))) then [3] else [])

/-- Requests at a stage whose class has spent its pool, of the cells that `p` picks: by pool index (0 REQ, 1 CPY). -/
def State.poolsFull (s : State) (at_ next : RequestStage) (pool : TrafficClass → Nat) (p : Nat → Bool) : List Nat :=
  [TrafficClass.req, .cpy].filterMap (fun k =>
    let waits := s.homeQueue.any (fun e =>
      decide (e.2.stage = at_ ∧ e.2.after = [] ∧ HomeSource.cls e.2.source = k) && (HomeSource.cell? e.2.source).elim false p)
    if waits && decide (pool k ≤ State.heldAt s k next p) then some (TrafficClass.rank k) else none)

/-- Park notices of a cell that find its ordinary MGT credits spent (P8). -/
def State.noticesHeld (s : State) (c : Nat) : Bool :=
  let path := mgtPath 3 c
  decide (mgtOrdinary path - Telemetry.alarmsOn s.tel path < (State.noticesOn s path).length)

/-- A cell's counters of ticks: AWAIT_STALL, UNIT_STALL, BLOCK_STALL, ISSUE_STALL, EPOCH_HOLD once per waiting group (R125), RAMP_WAIT. -/
def State.tickCell (s : State) (c : Nat) : State :=
  let x := State.cell s c
  let s1 := (Cell.awaitedCounters x).foldl (fun t k => State.count t .awaitStall 0 (32 * c + k) 1) s
  let s1 := (State.unitsFull s c).foldl (fun t p => State.count t .unitStall p c 1) s1
  let s1 := (State.poolsFull s .cell .crossbar crossbarPool (fun d => decide (d = c))).foldl (fun t p => State.count t .blockStall p c 1) s1
  let s1 := if State.noticesHeld s c then State.count s1 .blockStall 3 c 1 else s1
  let s1 := (State.stalledPipes s c).foldl (fun t p => State.count t .issueStall 0 (4 * c + p) 1) s1
  let held := ((Cell.live x).filter (fun e => State.epochHeld s c e.2)).length
  let s2 := if held = 0 then s1 else State.count s1 .epochHold 0 c held
  let s3 := if x.slices.any (fun e => decide (e.2.ramp = .waitGrant)) then State.count s2 .rampWait 0 c 1 else s2
  State.modCell s3 c (fun x => { x with groups := x.groups.map (fun e => (e.1, { e.2 with issued := false })) })

/-- A block's requests that find P9 or P10 spent (REGION_STALL). -/
def State.tickBlock (s : State) (b : Nat) : State :=
  (State.poolsFull s .crossbar .network networkPool (fun c => decide (blockOf c = b))).foldl (fun t p => State.count t .regionStall p b 1) s

/-- Requests of region `r` for region `h` whose packets, or whose answers, find no credit (PACKAGE_STALL): by class (0 REQ, 1 CPY); 3 RSP where it is
the space for answers that is wanting (P17). -/
def State.packageFull (s : State) (r h : Nat) : List Nat :=
  let waits (k : TrafficClass) : Bool := s.homeQueue.any (fun e => decide (e.2.stage = .network ∧ e.2.region = h ∧ HomeSource.cls e.2.source = k) &&
    (HomeSource.cell? e.2.source).elim false (fun c => decide (regionOf c = r)))
  let short := decide (packagePool ≤ State.reserved s h r)
  ([TrafficClass.req, .cpy].filter (fun k => waits k && decide (packagePool ≤ State.packets s r h k))).map TrafficClass.rank
    ++ (if short && (waits .req || waits .cpy) then [3] else [])

def State.tickPackage (s : State) : State :=
  (List.range 64).foldl (fun t i =>
    if i / 8 = i % 8 then t else (State.packageFull s (i / 8) (i % 8)).foldl (fun t p => State.count t .packageStall p i 1) t) s

/-- Pseudo-channels that hold a command back (CHANNEL_STALL): a request that has come to its home finds no room at one, or an access waits for its
cell's 16 slots against it. -/
def State.channelsFull (s : State) : List Nat :=
  let fills := s.homeQueue.filterMap (fun e =>
    if decide (e.2.stage = .home) && e.2.joined.isNone && (State.fillOf s e.2.region e.2.line).isNone && !State.stackRoom s e.2.region e.2.line then
      some (channelInst e.2.region e.2.line) else none)
  let cells := s.cells.flatMap (fun e => (e.2.slotWaits.flatMap (·.channels)).filter (fun n => decide (16 ≤ Cell.slotsAgainst e.2 n)))
  dedupe (fills ++ cells)

/-- Virtual channels of a port with a flit that waits and no credit for it (VC_STALL). -/
def Port.stalled (x : Port) : List Nat :=
  dedupe ((x.queued.filter (fun w => (Port.canLeave x w).isNone)).map (fun w => PacketKind.vc w.packet.kind))

/-- A port that carries traffic sends IDLE flits whenever it has nothing else to send (R444): one stands for those of a tick (assumption 105). -/
def State.sendIdle (s : State) (p : Nat) : State :=
  let x := State.port s p
  if Port.carries x && !x.recovering.contains true then State.speak s p (.idle x.txNext) else s

/-- VC_STALL, ports whose replay buffer is full (REPLAY_FULL), and the IDLE flits. -/
def State.tickPorts (s : State) : State :=
  s.ports.foldl (fun t e =>
    let t := (Port.stalled e.2).foldl (fun t v => State.count t .vcStall v e.1 1) t
    State.sendIdle (if 2048 ≤ e.2.replay.length then State.count t .replayFull 0 e.1 1 else t) e.1) s

/-- Table 17.9: POWER_CAPPED and THERMAL_CAPPED of a region. -/
def State.tickRegion (s : State) (r : Nat) : State :=
  let x := State.regionPower s r
  let s1 := if x.vpwr.elim false (fun v => decide (v < x.vreq)) then State.count s .powerCapped 0 r 1 else s
  if x.vthm.elim false (fun v => decide (v < x.vreq)) then State.count s1 .thermalCapped 0 r 1 else s1

def FallItem.isSlice (i : FallItem) : Bool :=
  match i with
  | .slice _ _ => true
  | _ => false

/-- PROOFER_WAIT and STOP_HOLD, and the accrual of A and F (R500, R502). -/
def State.tickProofer (s : State) : State :=
  let p := s.power.proofer
  let s1 := if p.queue.isEmpty then s else State.count s .prooferWait 0 0 1
  let s2 := if p.held.any FallItem.isSlice then State.count s1 .stopHold 0 0 1 else s1
  State.lowerLevels (State.modProofer s2 (fun p => { p with rise := min 10000 (p.rise + 1), fall := min 20000 (p.fall + 2) }))

/-- The presence window ends at its end (R52, R481). -/
def State.tickPresence (s : State) : State :=
  if s.presence.windowOpen ∧ s.presence.winEnd ≤ s.timebase then
    State.presenceChanged { s with presence := { s.presence with windowOpen := false } }
  else s

/-- `TIMEBASE_TICK` (R47). -/
def execTimebaseTick (s : State) : Host.Outcome State Fault Refusal :=
  if s.phase = .off then .next s
  else
    let s := { s with timebase := s.timebase + TimeService.step s.time, time := TimeService.tick s.time }
    let s := s.cells.foldl (fun t e => State.tickCell t e.1) s
    let s := (List.range 64).foldl State.tickBlock s
    let s := (State.channelsFull s).foldl (fun t n => State.count t .channelStall 0 n 1) (State.tickPackage s)
    let s := (List.range 8).foldl State.tickRegion (State.tickPorts s)
    .next (State.tickPresence (if State.powered s then State.tickProofer s else s))

end Sys2Proof.Machine
end

