-- ==== Sys2Proof/Machine/Registers.lean ====
section
/-!
DEFINITION. What the host reads: the control window (Tables 16.2, 16.5, 16.10, 19.1 to 19.7) and the SMBus space (Table 19.9), computed from the
state.
-/

namespace Sys2Proof.Machine

/-! ### Status page (Tables 2.2, 2.4, 16.2, 16.3, 19.2) -/

/-- The level of the jumper, or of the seal loop, as a register read returns it: a read in the tick of a change returns the level before it (R59). -/
def State.jumperLevel (s : State) : Bool := if s.presence.jmpAt = some s.timebase then !s.presence.jumper else s.presence.jumper
def State.sealLevel (s : State) : Bool := if s.presence.sealAt = some s.timebase then !s.nv.sealClosed else s.nv.sealClosed

/-- Presence holds now (R480): by the jumper where it reads asserted and has not been removed (R481), or by a window. -/
def State.presence_ (s : State) : Bool :=
  (s.presence.jumper && State.jumperLevel s) || (s.presence.windowOpen && decide (s.presence.winStart ≤ s.timebase ∧ s.timebase < s.presence.winEnd))

/-- Bits [39:32] of the status word (Table 16.3). -/
def State.presenceByte (s : State) : Nat :=
  b2n s.presence.windowOpen * 2 ^ 7 + b2n (State.jumperLevel s) * 2 ^ 6 + b2n (State.sealLevel s) * 2 ^ 5 + b2n (State.serviced s) * 2 ^ 4
    + b2n s.debug * 2 ^ 3 + b2n (s.bench.any (fun e => e.2.running)) * 2 ^ 2 + b2n s.nv.staged * 2 + b2n (State.presence_ s)

/-- Mailboxes 0 to 15 for which `p` holds, one bit each. -/
def State.mailboxBits (s : State) (p : Mailbox → Bool) : Nat := maskOf ((List.range 16).filter (fun m => p (State.mailbox s m)))

/-- The status word that Baker writes at a rewrite with this HEARTBEAT (Table 16.2). -/
def State.statusWord (s : State) (heartbeat : Nat) : DWord :=
  BitVec.ofNat 64 (heartbeat % 256 * 2 ^ 56 + Mode.code (State.mode s) * 2 ^ 48 + Telemetry.summary s.tel * 2 ^ 40 + State.presenceByte s * 2 ^ 32
    + State.mailboxBits s (fun m => m.done) * 2 ^ 16 + State.mailboxBits s (fun m => m.busy))

/-- Table 2.2. -/
def PaceRegister.image (x : PaceRegister) : Nat :=
  x.volt % 256 * 2 ^ 56 + x.temp.toNat * 2 ^ 48 + x.paceMin % 2 ^ 16 * 2 ^ 32 + x.pace % 2 ^ 16 * 2 ^ 16 + x.seq % 2 ^ 12 * 2 ^ 4 + b2n x.throttle * 8
    + b2n x.lowpace * 4 + b2n x.valid * 2

/-- Table 2.4. -/
def TimeService.image (t : TimeService) : Nat :=
  unsgn 16 t.offset * 2 ^ 48 + (if t.synced then t.master % 2 ^ 14 else 0) * 2 ^ 16 + b2n t.outOfTol * 8 + b2n t.stepped * 4 + b2n t.holdover * 2
    + b2n t.synced

def State.paceImage (s : State) (r : Nat) : Nat := PaceRegister.image (State.regionPower s r).pace

/-- Table 19.2. -/
def State.statusPage (s : State) (o : Nat) : Nat :=
  if o = 0 then s.host.status.toNat
  else if o = 8 then s.host.mirrorAddr.toNat
  else if 0x100 ≤ o ∧ o < 0x140 then State.paceImage s ((o - 0x100) / 8)
  else if o = 0x140 then s.timebase
  else if o = 0x148 then TimeService.image s.time
  else if o = 0x180 then s.tel.errFlags
  else 0

/-! ### Identity and capability page (Tables 19.3 and 19.4) -/

/-- "XJ9-1536L", padded with zeros, the first character at the lowest offset. -/
def partNumber : List Nat := [0x58, 0x4A, 0x39, 0x2D, 0x31, 0x35, 0x33, 0x36, 0x4C]

/-- Bit vector of what holds for regions 0 to 7. -/
def regionBits (p : Nat → Bool) : Nat := maskOf ((List.range 8).filter p)

/-- Table 19.4. -/
def State.cellMapImage (s : State) (b : Nat) : Nat :=
  let m := NonVolatile.cellMap s.nv b
  let retiring := maskOf ((List.range 6).filter (fun c => (State.cell s (6 * b + c)).retiring))
  b2n (State.block s b).fenced * 2 ^ 34 + retiring * 2 ^ 28 + maskOf m.failed * 2 ^ 21 + m.spare.getD 7 * 2 ^ 18
    + (m.slots.zipIdx.map (fun e => e.1 * 8 ^ e.2)).foldl (· + ·) 0

/-- Enabled cells neither failed nor in a fenced block, once self-test has passed. -/
def State.usableCells (s : State) : Nat :=
  if s.phase ≠ .up then 0
  else ((List.range cellCount).filter (fun c =>
    !(State.block s (blockOf c)).fenced && decide ((State.block s (blockOf c)).failedCell ≠ some c))).length

/-- Register `o` of the page: fields of the store and of fuses read 0 until BOOT step 1 has ended (R544). -/
def State.identityPage (s : State) (o : Nat) : Nat :=
  let stored (n : Nat) : Nat := if s.host.booted then n else 0
  if o < 0x10 then ((List.range 8).map (fun i => partNumber.getD (o + i) 0 * 256 ^ i)).foldl (· + ·) 0
  else if o = 0x10 then 0x1536 * 2 ^ 32 + 0x0A39 * 2 ^ 16 + 0xB0
  else if o = 0x20 then stored (Config.serial.toNat % 2 ^ 64)
  else if o = 0x28 then stored (Config.serial.toNat / 2 ^ 64)
  else if o = 0x30 then stored (s.nv.incarnation % 2 ^ 32 * 2 ^ 32 + s.nv.dim % 16 * 2 ^ 16 + s.nv.module % 2 ^ 14)
  else if o = 0x40 then stored s.nv.bank0
  else if o = 0x48 then stored s.nv.bank1
  else if o = 0x50 then
    stored (s.nv.rollback % 2 ^ 32 * 2 ^ 32) + b2n s.nv.staged * 4 + b2n s.host.fallback * 2
      + stored ((if s.host.fallback then 1 - s.nv.active else s.nv.active) % 2)
  else if o = 0x60 then s.host.aperture
  else if o = 0x68 then s.host.winLog2 % 64 * 2 ^ 8 + stored (s.nv.ilvGib % 256)
  else if o = 0x70 then regionBits (fun r => (State.regionPower s r).on) * 2 ^ 8 + regionBits (fun r => (State.region s r).fenced)
  else if 0x200 ≤ o ∧ o < 0x400 then stored (State.cellMapImage s ((o - 0x200) / 8))
  else if o = 0x400 then 0x3FF
  else if o = 0x408 then stored (Config.tasting.toNat * 2 ^ 32) + State.usableCells s
  else if o = 0x410 then 64 * 2 ^ 16 + 4096
  else if 0x600 ≤ o ∧ o < 0x800 then
    stored (maskOf ((List.range 64).filter (fun i => (commandOf (8 * (o - 0x600) + i)).isSome)))
  else 0

/-! ### Mailboxes and rings (Tables 16.5 and 16.10) -/

/-- Word at offset `o` of a mailbox's registers: REQUEST, acknowledgement, completion, the stamps. -/
def Mailbox.register (m : Mailbox) (o : Nat) : Nat :=
  if o = 0 then m.request.toNat
  else if o = 8 then m.ackStatus % 256 * 2 ^ 56 + m.ackSeq % 2 ^ 16 * 2 ^ 16 + m.ackCode % 2 ^ 16
  else if o = 0x10 then m.result % 2 ^ 16 * 2 ^ 48 + m.resLen % 2 ^ 16 * 2 ^ 32 + m.doneSeq % 2 ^ 16 * 2 ^ 16 + m.progress % 2 ^ 16
  else if o = 0x18 then m.ackTime
  else if o = 0x20 then m.doneTime
  else 0

/-- Eight bytes of an area. -/
def areaWord (a : NMap Byte) (o : Nat) : Nat := ofBytes (tabulate 8 (fun i => NMap.get a 0 (o + i)))

/-- Table 16.5, one mailbox of the breadbox. -/
def Mailbox.word (m : Mailbox) (o : Nat) : Nat :=
  if o < 0x40 then Mailbox.register m o else if o < 0x800 then areaWord m.args (o - 0x40) else areaWord m.res (o - 0x800)

/-- Table 16.10: the low and the high word of a ring head. -/
def State.ringHead (s : State) (r : Nat) (high : Bool) : Nat :=
  let x := State.ring s r
  if high then x.tail * 2 ^ 32 + x.head
  else x.tag.toNat * 2 ^ 48 + State.ringState s x * 2 ^ 40 + x.error % 256 * 2 ^ 32 + x.sizeLog2 % 16 * 2 ^ 28

/-! ### Presence and Bench mirror (Tables 19.6 and 19.7) -/

def programmeBits (s : State) (p : Programme → Bool) : Nat := maskOf ((List.range 8).filter (fun i => p (State.programme s i)))

/-- Table 19.6. -/
def State.mirrorPage (s : State) (o : Nat) : Nat :=
  let v := s.presence
  if o = 0 then
    s.nv.rearmBlown % 256 * 2 ^ 40 + s.nv.serviceBlown % 256 * 2 ^ 32 + v.pseq % 256 * 2 ^ 24 + b2n s.debug * 2 ^ 7 + b2n (State.serviced s) * 2 ^ 6
      + b2n (State.sealLevel s) * 2 ^ 5 + b2n (State.jumperLevel s) * 2 ^ 4 + b2n v.windowOpen * 2 ^ 3
  else if o = 8 then unsgn 64 v.winStart
  else if o = 0x10 then unsgn 64 v.winEnd
  else if o = 0x18 then v.jmpStamp
  else if o = 0x20 then programmeBits s (fun x => x.running) * 2 ^ 8 + programmeBits s (fun x => x.loaded)
  else if 0x40 ≤ o ∧ o < 0x80 then
    let x := State.programme s ((o - 0x40) / 8)
    min x.events (2 ^ 32 - 1) * 2 ^ 32 + min x.skipped (2 ^ 16 - 1) * 2 ^ 16 + x.ended % 4
  else if 0x100 ≤ o ∧ o < 0x300 then (State.programme s ((o - 0x100) / 64)).image.toNat / 2 ^ (8 * ((o - 0x100) % 64)) % 2 ^ 64
  else 0

/-! ### The windows -/

/-- Register `o`, a multiple of 8, of the control window (Table 19.1); what no table names reads 0 (R543). -/
def State.control (s : State) (o : Nat) : Nat :=
  if o < 0x1000 then State.statusPage s o
  else if o < 0x2000 then State.identityPage s (o - 0x1000)
  else if 0x2000 ≤ o ∧ o < 0x2080 then (State.mailbox s ((o - 0x2000) / 8)).doorbell.toNat
  else if 0x10000 ≤ o ∧ o < 0x20000 then Mailbox.word (State.mailbox s ((o - 0x10000) / 0x1000)) (o % 0x1000)
  else if 0x20000 ≤ o ∧ o < 0x20400 then State.ringHead s ((o - 0x20000) / 16) (decide (o % 16 = 8))
  else if 0x30000 ≤ o ∧ o < 0x30400 then State.mirrorPage s (o - 0x30000)
  else 0

/-- Register `o`, a multiple of 8, of the SMBus space (Table 19.9). -/
def State.smbus (s : State) (o : Nat) : Nat :=
  let m := State.mailbox s 16
  if o = 0 then s.host.status.toNat
  else if o = 8 then 0x100 + 0x58 + s.host.straps.toNat
  else if o = 0x10 then s.tel.errFlags
  else if o = 0x18 then s.timebase
  else if 0x40 ≤ o ∧ o < 0x80 then State.paceImage s ((o - 0x40) / 8)
  else if 0x400 ≤ o ∧ o < 0x800 then State.identityPage s (o - 0x400)
  else if 0x800 ≤ o ∧ o < 0x830 then Mailbox.register m (o - 0x800)
  else if o = 0x830 then b2n m.done * 2 + b2n m.busy
  else if o = 0x838 then m.doorbell.toNat
  else if 0x900 ≤ o ∧ o < 0xA00 then areaWord m.args (o - 0x900)
  else if 0xA00 ≤ o ∧ o < 0xB00 then areaWord m.res (o - 0xA00)
  else 0

/-- A byte of the SMBus space, whose addresses wrap (R554). -/
def State.smbusByte (s : State) (a : Nat) : Byte :=
  let o := a % 0x1000
  BitVec.ofNat 8 (State.smbus s (o / 8 * 8) / 256 ^ (o % 8) % 256)

/-- `n` bytes of the SMBus space from `a`: each register is a single value from one moment (R555). Where the mailbox holds a result whose layout the
spec does not give, the bytes of OOB_RES are free values (assumption 31). -/
def State.smbusRead (s : State) (a n : Nat) : List Byte × State :=
  let hidden := !(State.mailbox s 16).report.isEmpty
  let inRes (i : Nat) : Bool := hidden && decide (0xA00 ≤ (a + i) % 0x1000 ∧ (a + i) % 0x1000 < 0xB00)
  (tabulate n (fun i => if inRes i then Config.freeByte (s.freeCount + i) else State.smbusByte s (a + i)),
   if hidden then { s with freeCount := s.freeCount + n } else s)

end Sys2Proof.Machine
end

