-- ==== Sys2Proof/Machine/Tasting.lean ====
section
/-!
DEFINITION. The Tasting Set and its runner (R314, R315, R317): files and their CRC, vector records, and a run that advances at each step of its
command. Assumption 103 names what the spec leaves open of the files.
-/

namespace Sys2Proof.Machine

/-! ### Files and records (R314, Table 10.7) -/

/-- The first word of a manifest. -/
def tastingMagic : Nat := 0x54534154

/-- Eight bytes of the module's memory. -/
def State.homeNat (s : State) (pa n : Nat) : Nat := ofBytes (State.homeBytes s pa n)

/-- One segment at `pa`, and where the next begins: the 8-byte header, the data, and a poison map of one bit per 4-byte word. -/
def State.tastingSegment (s : State) (pa : Nat) : TastingSegment × Nat :=
  let h := State.homeNat s pa 8
  let len := bits h 63 32
  let words := (len + 3) / 4
  let map := State.homeNat s (pa + 8 + len) ((words + 7) / 8)
  ({ addr := bits h 18 0, bytes := State.homeBytes s (pa + 8) len, marks := if bitOf h 19 then some (tabulate words (fun i => bitOf map i)) else none },
   pa + 8 + len + (if bitOf h 19 then (words + 7) / 8 else 0))

def State.tastingSegments (s : State) (n pa : Nat) : List TastingSegment :=
  match n with
  | 0 => []
  | n + 1 =>
    let r := State.tastingSegment s pa
    r.1 :: State.tastingSegments s n r.2

/-- The vector record at `pa` (Table 10.7). -/
def State.tastingVector (s : State) (pa : Nat) : TastingVector :=
  let v := State.homeNat s pa 64
  let segs := State.tastingSegments s (bits v 431 424 + bits v 423 416) (pa + 64)
  { vid := bits v 479 448, unit := bits v 447 440, flags := bits v 439 432
    insn := (tabulate 3 (fun i => BitVec.ofNat 64 (bits v (415 - 64 * i) (352 - 64 * i)))).takeWhile (fun w => decide (w ≠ 0))
    counts := tabulate 7 (fun i => bits v (32 * i + 31) (32 * i))
    inputs := segs.take (bits v 431 424), expected := segs.drop (bits v 431 424) }

/-- Addresses of up to `n` records of a file that ends at `stop`. -/
def State.tastingRecords (s : State) (n pa stop : Nat) : List Nat :=
  match n with
  | 0 => []
  | n + 1 =>
    let len := bits (State.homeNat s pa 64) 511 480
    if len < 64 ∨ len % 8 ≠ 0 ∨ stop < pa + len then [] else pa :: State.tastingRecords s n (pa + len) stop

def State.tastingFileOk (s : State) (f : TastingFile) : Bool := decide (crc32 (State.homeBytes s f.addr f.size) = f.crc.toNat)

/-- The vectors of a file that the arguments ask for, with the RECIPE bit of the file or of the record. -/
def State.tastingFile (s : State) (a : TastingArgs) (f : TastingFile) : List (TastingVector × Bool) :=
  ((State.tastingRecords s f.vectors f.addr (f.addr + f.size)).map (State.tastingVector s)).filterMap (fun v =>
    if a.unitMask.testBit v.unit ∧ a.firstVid ≤ v.vid ∧ v.vid ≤ a.lastVid then some (v, f.recipe || bitOf v.flags 0) else none)

/-! ### Running a vector (R315) -/

/-- An input segment, its poison map included, in local memory. -/
def Cell.loadSegment (x : Cell) (g : TastingSegment) : Cell :=
  let y := Cell.writeLocal x g.addr g.bytes false
  (g.marks.getD []).zipIdx.foldl (fun y m => if m.1 then Cell.markLocal y (g.addr + 4 * m.2) 1 true else y) y

/-- The group that runs a vector: 32 lanes, registers zero, its instructions given by the runner. -/
def tastingGroup (launch age : Nat) : Group :=
  { ring := 64, launch := launch, job := 0, deferred := false, age := age, regBase := 0, regs := 256, allowance := 0, codeBase := 0
    w := [], wPoison := [], wSource := [], u := [], uPoison := [], uSource := [], p := [], active := BitVec.ofNat 32 (2 ^ 32 - 1), stack := []
    spilled := 0, pc := 0, issued := false, fetched := [], awaited := [], acquire := [], hold := .none, pendingFault := none, replays := 0 }

/-- The counter of a 32-bit field of CNT, in the instance of the cell. -/
def State.tastingCounter (s : State) (c field : Nat) : Nat := NMap.get s.tel.counters 0 (field / 2 ^ 24 * 2 ^ 24 + c)

def State.modTasting (s : State) (f : Tasting → Tasting) : State := { s with tasting := s.tasting.map f }

/-- A vector begins on a reserved cell: its segments are in place and its group is resident. -/
def State.beginVector (s : State) (c : Nat) (v : TastingVector) (recipe : Bool) : State :=
  let age := (State.cell s c).nextAge
  let before := v.counts.map (State.tastingCounter s c)
  let launch := s.nextId
  let s := State.modCell { s with nextId := launch + 1 } c (fun x =>
    let x := v.inputs.foldl Cell.loadSegment x
    let x := Cell.setGroup x 0 (tastingGroup launch age)
    { x with nextAge := age + 1, sticky := NMap.set x.sticky 0 0 0 })
  State.modTasting (State.modJob s 0 (fun j => { j with recipe := recipe })) (fun t =>
    { t with running := t.running ++ [{ cell := c, age := age, vector := v, words := v.insn, before := before }] })

/-- The group of a vector has parked. -/
def State.vectorParked (s : State) (e : TastingVectorRun) : Bool := (NMap.find (State.cell s e.cell).parkList 0).isSome

/-- A vector is over: its group has parked, or has issued every word, and all that it did is complete. -/
def State.vectorOver (s : State) (e : TastingVectorRun) : Bool :=
  let issued := match Cell.group (State.cell s e.cell) 0 with
    | none => true
    | some g => (decide (e.words = []) && decide (g.fetched = []) && (State.cell s e.cell).accesses.all (fun a => decide (a.2.slot ≠ 0))) || State.vectorParked s e
  issued && !State.leftBehind s e.cell 0 e.age

/-- The next instruction of a vector whose last one has issued. -/
def State.feedVector (s : State) (e : TastingVectorRun) : State :=
  match Cell.group (State.cell s e.cell) 0, e.words with
  | some g, w :: _ =>
    if g.fetched = [] then
      let n := wordCount w
      State.modTasting (State.setGroup s { cell := e.cell, slot := 0 } { g with fetched := e.words.take n }) (fun t =>
        { t with running := t.running.map (fun r => if r.cell = e.cell then { r with words := r.words.drop n } else r) })
    else s
  | _, _ => s

/-- The first difference of an expected segment from local memory: the place, the eight bytes expected from there and those observed. -/
def TastingSegment.difference (g : TastingSegment) (x : Cell) : Option (List Nat) :=
  let marked (i : Nat) : Bool := NMap.get x.localPoison false ((g.addr + i) / 4 % 2 ^ 17)
  let wrong (i : Nat) : Bool := decide (g.bytes.getD i 0 ≠ Cell.localByte x (g.addr + i)) || g.marks.elim false (fun m => decide (m.getD (i / 4) false ≠ marked i))
  ((List.range g.bytes.length).find? wrong).map (fun i => [g.addr + i, ofBytes ((g.bytes.drop i).take 8), Cell.localNat x (g.addr + i) 8])

/-- Every listed counter has changed as expected; a field of zero lists none. -/
def State.countsAgree (s : State) (e : TastingVectorRun) : Bool :=
  (e.vector.counts.zip e.before).all (fun k => decide (k.1 = 0) || decide (State.tastingCounter s e.cell k.1 = k.2 + k.1 % 2 ^ 24))

/-- The verdict on a vector that is over (R315): where it fails, what the mismatch record says; the spec does not say where a record holds the sticky
word it expects, so that comparison is free. -/
def State.vectorVerdict (s : State) (e : TastingVectorRun) : Option (List Nat) × State :=
  let f := State.free s
  let sticky := bitOf e.vector.flags 2 && !Config.freeBit f.1
  let wrong := firstSome (e.vector.expected.map (fun g => TastingSegment.difference g (State.cell s e.cell)))
  let more := State.vectorParked s e || (bitOf e.vector.flags 1 && !State.countsAgree s e) || sticky
  (match wrong with
    | some d => some ([e.vector.vid, e.cell] ++ d)
    | none => if more then some [e.vector.vid, e.cell, 0, 0, 0] else none, if bitOf e.vector.flags 2 then f.2 else s)

/-- A vector is compared and its group leaves the cell. -/
def State.endVector (s : State) (e : TastingVectorRun) : State :=
  let v := State.vectorVerdict s e
  let s := match Cell.group (State.cell s e.cell) 0 with
    | none => v.2
    | some g => State.dropGroup v.2 { cell := e.cell, slot := 0 } g
  State.modTasting s (fun t =>
    { t with
      running := t.running.filter (fun r => decide (r.cell ≠ e.cell)), passed := t.passed + b2n v.1.isNone, failed := t.failed + b2n v.1.isSome
      records := if t.records.length < t.limit then t.records ++ v.1.toList else t.records })

/-! ### A run (R317) -/

/-- The cells a command names; none named is every enabled cell. Cells of fenced blocks and regions do not run. -/
def State.namedCells (s : State) (cells : List Nat) : List Nat :=
  (if cells.isEmpty then List.range cellCount else dedupe cells).filter (State.cellRuns s)

/-- Vectors run, passed, failed and skipped, and the mismatch records. -/
def Tasting.report (t : Tasting) : List Nat := [t.passed + t.failed, t.passed, t.failed, t.skipped] ++ t.records.flatten

/-- The run is over, or is ended: its groups leave and its cells are free again. -/
def State.endTasting (s : State) : State :=
  match s.tasting with
  | none => s
  | some t =>
    { t.running.foldl (fun s e =>
        match Cell.group (State.cell s e.cell) 0 with
        | none => s
        | some g => if g.ring = 64 then State.dropGroup s { cell := e.cell, slot := 0 } g else s) s with tasting := none }

/-- The manifest is checked first; files whose CRC fails are skipped; the cells that hold a group are refused and the others reserved, each as for a
group of another job (R150). -/
def State.beginTasting (s : State) (mb : Nat) (a : TastingArgs) (files : List TastingFile) : State :=
  let cells := State.namedCells s a.cells
  let busy := cells.filter (fun c => !(State.cell s c).groups.isEmpty)
  let idle := cells.filter (fun c => (State.cell s c).groups.isEmpty)
  if a.limit = 0 ∨ 4096 < a.limit ∨ State.homeNat s a.setAddr 4 ≠ tastingMagic then State.completeOpen s mb
  else if idle.isEmpty then State.complete s mb 3 []
  else
    let good := files.filter (State.tastingFileOk s)
    let t : Tasting :=
      { mailbox := mb, cells := idle, refused := !busy.isEmpty, limit := a.limit, work := good.flatMap (State.tastingFile s a), running := []
        passed := 0, failed := 0, skipped := ((files.filter (fun f => !State.tastingFileOk s f)).map (·.vectors)).foldl (· + ·) 0, records := [] }
    let s := State.modMailbox s mb (fun m => { m with running := m.running.map (fun k => { k with stage := 1 }) })
    { idle.foldl (fun s c => State.modCell s c (fun x => Cell.forJob x 0 0)) s with tasting := some t }

/-- The next vector goes to the lowest reserved cell that runs none; one of the other mode waits until none is under way. -/
def State.startVectors (s : State) : State :=
  match s.tasting with
  | none => s
  | some t =>
    (t.cells.filter (fun c => t.running.all (fun r => decide (r.cell ≠ c)))).foldl (fun s c =>
      match s.tasting with
      | none => s
      | some t =>
        match t.work with
        | [] => s
        | (v, recipe) :: rest =>
          if t.running.isEmpty ∨ (State.job s 0).recipe = recipe then
            State.beginVector { s with tasting := some { t with work := rest } } c v recipe
          else s) s

/-- What is reported so far; with no vector left the run completes, with 3 where it refused a cell. -/
def State.reportTasting (s : State) : State :=
  match s.tasting with
  | none => s
  | some t =>
    if t.work.isEmpty ∧ t.running.isEmpty then State.completeReport { s with tasting := none } t.mailbox (if t.refused then 3 else 0) (Tasting.report t)
    else State.reportSoFar s t.mailbox (Tasting.report t)

/-- One step of a run: vectors that are over are compared, others get their next instruction, and idle cells the next vectors. -/
def State.stepTasting (s : State) (t : Tasting) : State :=
  let s := t.running.foldl (fun s e => if State.vectorOver s e then State.endVector s e else State.feedVector s e) s
  State.reportTasting (State.startVectors s)

/-- `TASTING_RUN` (0x0702, R315, R317): one run at a time. -/
def execTastingRun (mb : Nat) (a : TastingArgs) (files : List TastingFile) (s : State) : Host.Outcome State Fault Refusal :=
  State.command s mb 0x0702 (fun s =>
    match s.tasting with
    | none => State.beginTasting s mb a files
    | some t => if t.mailbox = mb then State.stepTasting s t else s)

end Sys2Proof.Machine
end

