-- ==== Sys2Proof/Machine/Telemetry.lean ====
section
/-!
DEFINITION. Alarms, logs, traces and counters at Baker (R526 to R542).
-/

namespace Sys2Proof.Machine

/-! ### The alarm table (R527 to R529) -/

/-- The largest COUNT of a record (Table 18.3). -/
def countMax : Nat := 2 ^ 32 - 1

/-- An occurrence, or several merged at their source, joins a record. -/
def AlarmRecord.join (x : AlarmRecord) (o : AlarmOccurrence) : AlarmRecord := { x with last := o.last, count := min countMax (x.count + o.count) }

def AlarmOccurrence.record (o : AlarmOccurrence) : AlarmRecord :=
  { first := o.stamp, last := o.last, count := min countMax o.count, code := o.code, kind := o.kind, source := o.source, detail := o.detail }

/-- Count an occurrence in the reserved record of its code (R528). -/
def Telemetry.merge (t : Telemetry) (o : AlarmOccurrence) : Telemetry :=
  let x := match NMap.find t.reserved o.code with
    | some x => AlarmRecord.join x o
    | none => { AlarmOccurrence.record o with kind := 0, source := 0xFFFF }
  { t with reserved := NMap.insert t.reserved o.code x }

/-- The window of `len` ns that a stamp lies in (R52). -/
def Telemetry.window (t : Telemetry) (len : Nat) (stamp : Int) : Nat := ((stamp - t.windowBase) / len).toNat

/-- What a sender discards or merges counts in the window of its stamp (R52, R538): `sender` 8 is Baker. -/
def State.drop (s : State) (sender kind : Nat) (f : DropCount → DropCount) : State :=
  let window := Telemetry.window s.tel 10000000 s.timebase
  let key := 256 * window + 16 * sender + kind
  let old := (NMap.find s.tel.drops key).getD { start := window, logs := 0, traces := 0, merged := 0 }
  { s with tel := { s.tel with drops := NMap.insert s.tel.drops key (f old) } }

/-- The source of a sender's TELEMETRY_LOSS. -/
def senderSource (sender : Nat) : Nat × Nat := if sender < 8 then (1, sender) else (0, 0)

/-- A discard of a sender: counted for its window, and TELEMETRY_LOSS begins. -/
def State.discard (s : State) (sender kind : Nat) (f : DropCount → DropCount) : State :=
  let src := senderSource sender
  State.beginEpisode (State.drop s sender kind f) 0xE1 src.1 src.2 0 0

/-- An occurrence that finds no record for its key and no general record free (R528). -/
def State.mergeAlarm (s : State) (o : AlarmOccurrence) : State :=
  let s := State.flag (State.count { s with tel := Telemetry.merge s.tel o } .alarmsMerged 0 0 o.count) 8
  let s := State.discard s 8 o.kind (fun d => { d with merged := d.merged + o.count })
  if s.tel.mergeEpisode then s
  else
    let m : AlarmOccurrence := { code := 0xE2, kind := 0, source := 0, detail := 0, stamp := s.timebase, last := s.timebase, count := 1 }
    let s := State.count { s with tel := Telemetry.merge { s.tel with mergeEpisode := true } m } .alarmsRaised 0 0 1
    State.log s 0x01E2 0 0 0 [0, 0]

/-- An occurrence reaches the table (R527, R528). -/
def State.tabulateAlarm (s : State) (o : AlarmOccurrence) : State :=
  let s := State.count s .alarmsRaised 0 0 o.count
  let same (x : AlarmRecord) : Bool := decide (x.code = o.code ∧ x.kind = o.kind ∧ x.source = o.source)
  if s.tel.alarms.any same then
    { s with tel := { s.tel with alarms := s.tel.alarms.map (fun x => if same x then AlarmRecord.join x o else x) } }
  else if s.tel.alarms.length < 1024 then { s with tel := { s.tel with alarms := s.tel.alarms ++ [AlarmOccurrence.record o] } }
  else State.mergeAlarm s o

/-- Nothing of the same region is ahead of it: the FIFO from a region to Baker keeps its order (R46, Table 2.3). -/
def Telemetry.alarmFirst (t : Telemetry) (index : Nat) (o : AlarmOccurrence) : Bool :=
  (t.alarmPath.take index).all (fun a => decide (sourceRegion a.kind a.source ≠ sourceRegion o.kind o.source))

/-- `ALARM_OCCURRENCE` (R527): occurrence number `index` of those on their way, the first of its region. -/
def execAlarmOccurrence (index : Nat) (s : State) : Host.Outcome State Fault Refusal :=
  match s.tel.alarmPath[index]? with
  | none => .next s
  | some o => if !Telemetry.alarmFirst s.tel index o then .next s else .next (State.tabulateAlarm { s with tel := { s.tel with alarmPath := s.tel.alarmPath.eraseIdx index } } o)

/-- Table 18.3. -/
def AlarmRecord.image (x : AlarmRecord) : Nat :=
  x.first * 2 ^ 192 + x.last * 2 ^ 128 + x.count * 2 ^ 96 + x.code * 2 ^ 88 + x.kind * 2 ^ 84 + x.source * 2 ^ 68 + x.detail % 2 ^ 64

/-- Every outstanding record: the general ones, oldest first, then the reserved ones by code. -/
def Telemetry.outstanding (t : Telemetry) : List AlarmRecord := t.alarms ++ t.reserved.map (·.2)

/-- Records a read returns: up to the limit; over SMBus those that lie in the 240 bytes from the result offset (R493). -/
def Telemetry.returned (t : Telemetry) (mb dst limit : Nat) : List AlarmRecord :=
  let l := (Telemetry.outstanding t).take limit
  if mb = 16 then (l.zipIdx.filter (fun e => decide (dst ≤ 32 * e.2 ∧ 32 * e.2 + 32 ≤ dst + 240))).map (·.1) else l

/-- The records returned are acknowledged; ALARM_MERGED is released when a general record is free (R528, R529). -/
def Telemetry.acknowledge (t : Telemetry) (l : List AlarmRecord) : Telemetry :=
  let alarms := t.alarms.filter (fun x => !l.contains x)
  { t with alarms := alarms, reserved := t.reserved.filter (fun e => !l.contains e.2), mergeEpisode := t.mergeEpisode && decide (1024 ≤ alarms.length) }

/-- `ALARM_READ` (0x0802, R529). -/
def execAlarmRead (mb dst limit : Nat) (ack : Bool) (s : State) : Host.Outcome State Fault Refusal :=
  State.command s mb 0x0802 (fun s =>
    let bytes := ((Telemetry.outstanding s.tel).take limit).flatMap (fun x => toBytes 32 (AlarmRecord.image x))
    if ack ∧ (mb = 16 ∨ s.host.busMaster) then
      State.deliver { s with tel := Telemetry.acknowledge s.tel (Telemetry.returned s.tel mb dst limit) } mb dst 0 bytes
    else State.deliver s mb dst 0 bytes)

/-! ### The log (R531 to R535) -/

/-- Stacked memory of a region holds log records now. -/
def State.logServes (s : State) (r : Nat) : Bool := !(State.region s r).fenced && (State.regionPower s r).stackOn

/-- Baker writes a record with the next sequence number; in a part of the ring that is not there it is lost (R522, R531). -/
def State.appendLog (s : State) (r : LogRecord) : State :=
  let n := s.tel.logNext
  let slot := n % 2 ^ 20
  let ring := if State.logServes s (slot / 2 ^ 17) then NMap.insert s.tel.logRing slot (n, r) else NMap.erase s.tel.logRing slot
  State.count { s with tel := { s.tel with logRing := ring, logNext := n + 1 } } .logRecords 0 0 1

/-- A log message is discarded (R532): counted at its region, LOG_LOSS. -/
def State.dropLog (s : State) (region : Nat) (r : LogRecord) : State :=
  let s := State.flag (State.count s .logDrop r.kind region 1) 6
  State.discard s region r.kind (fun d => { d with logs := d.logs + 1 })

/-- No message of the same path is ahead of it (R46). -/
def Telemetry.logFirst (t : Telemetry) (index : Nat) (r : LogRecord) : Bool :=
  (t.logPath.take index).all (fun e => decide (mgtPath e.2.kind e.2.source ≠ mgtPath r.kind r.source))

/-- An ordinary MGT credit of the source's path is free (R22, R532). -/
def State.mgtCredit (s : State) (kind source : Nat) : Bool :=
  let path := mgtPath kind source
  decide (path.1 = 0) || decide (Telemetry.mgtUsed s.tel path (State.noticesOn s path).length < mgtOrdinary path)

/-- `LOG_MESSAGE` (R532, R533): message number `index` of those on their way, the first of its path, comes to the controller of `region`; without
an ordinary credit it is discarded. Baker's own records wait in a buffer of their own, 8. -/
def execLogMessage (region index : Nat) (s : State) : Host.Outcome State Fault Refusal :=
  match s.tel.logPath[index]? with
  | none => .next s
  | some e =>
    if e.1 ≠ region ∨ !Telemetry.logFirst s.tel index e.2 then .next s
    else
    let credit := State.mgtCredit s e.2.kind e.2.source
    let s := { s with tel := { s.tel with logPath := s.tel.logPath.eraseIdx index } }
    let b := NMap.get s.tel.buffers [] e.1
    let keep := { s with tel := { s.tel with buffers := NMap.set s.tel.buffers [] e.1 (b ++ [e.2]) } }
    if 8 ≤ e.1 then .next keep
    else if !credit then .next (State.dropLog s e.1 e.2)
    else if b.length < 1024 then .next keep
    else
      let x := (NMap.find s.tel.losses e.1).getD { count := 0, first := 0, last := 0, written := none }
      let x := { x with count := x.count + 1, first := if x.count = 0 then e.2.stamp else x.first, last := e.2.stamp }
      .next (State.dropLog { s with tel := { s.tel with losses := NMap.insert s.tel.losses e.1 x } } e.1 e.2)

/-- The first buffer with a record, from number `n` on, in round-robin order. -/
def Telemetry.turn (t : Telemetry) (n : Nat) : Option Nat :=
  ((List.range 9).map (fun i => (n + i) % 9)).find? (fun b => decide (NMap.get t.buffers [] b ≠ []))

/-- The log ring lies in stacked memory (R531): Baker writes it from the stack test on. -/
def State.logging (s : State) : Bool := decide (s.phase = .selftest) || decide (s.phase = .up)

/-- `LOG_RECORD_WRITE` (R532): the oldest record of the buffer whose turn it is. -/
def execLogRecordWrite (region : Nat) (s : State) : Host.Outcome State Fault Refusal :=
  if Telemetry.turn s.tel s.tel.nextBuffer ≠ some region ∨ !State.logging s then .next s
  else
    match NMap.get s.tel.buffers [] region with
    | [] => .next s
    | r :: rest =>
      let tel := { s.tel with buffers := NMap.set s.tel.buffers [] region rest, nextBuffer := (region + 1) % 9 }
      .next (State.appendLog { s with tel := tel } r)

/-- `LOSS_RECORD_WRITE` (R533): at most once in 1 ms per buffer. -/
def execLossRecordWrite (region : Nat) (s : State) : Host.Outcome State Fault Refusal :=
  match NMap.find s.tel.losses region with
  | none => .next s
  | some x =>
    let early := x.written.elim false (fun t => decide (s.timebase < t + 1000000))
    if x.count = 0 ∨ early ∨ !State.logging s then .next s
    else
      let s := { s with tel := { s.tel with losses := NMap.insert s.tel.losses region { x with count := 0, written := some s.timebase } } }
      .next (State.appendLog s
        { stamp := s.timebase, type := 0x0001, kind := 1, source := region, job := 0, d := [x.count, x.first, x.last] })

/-- A summary that takes in those of earlier windows that were not sent: it keeps the earliest start (R538). -/
def DropCount.total (l : List DropCount) : DropCount :=
  { start := l.foldl (fun a x => min a x.start) ((l.head?.map (·.start)).getD 0), logs := l.foldl (fun a x => a + x.logs) 0
    traces := l.foldl (fun a x => a + x.traces) 0, merged := l.foldl (fun a x => a + x.merged) 0 }

/-- `SUMMARY_WINDOW_END` (R538): one record per source kind for what was discarded in windows that have ended, once an ordinary MGT credit of the
sender's path is free; TELEMETRY_LOSS is released by a window with no discard. -/
def execSummaryWindowEnd (sender : Nat) (s : State) : Host.Outcome State Fault Refusal :=
  let now := Telemetry.window s.tel 10000000 s.timebase
  if 9 ≤ sender ∨ now ≤ NMap.get s.tel.windows 0 sender ∨ !State.logging s then .next s
  else
    let mine (e : Nat × DropCount) : Bool := decide (e.1 % 256 / 16 = sender)
    let ended := s.tel.drops.filter (fun e => mine e && decide (e.1 / 256 < now))
    let src := senderSource sender
    if ended.isEmpty then
      let s := { s with tel := { s.tel with windows := NMap.insert s.tel.windows sender now } }
      .next (if s.tel.drops.any mine then s else State.endEpisode s 0xE1 src.1 src.2 0)
    else if sender < 8 ∧ !State.mgtCredit s 1 sender then .next s
    else
      let s := { s with tel := { s.tel with windows := NMap.insert s.tel.windows sender now, drops := s.tel.drops.filter (fun e => !ended.contains e) } }
      .next ((dedupe (ended.map (fun e => e.1 % 16))).foldl (fun s k =>
        let x := DropCount.total ((ended.filter (fun e => decide (e.1 % 16 = k))).map (·.2))
        State.count (State.appendLog s
          { stamp := s.timebase, type := 0x0003, kind := src.1, source := src.2, job := 0
            d := [(10000000 * (x.start : Int) + s.tel.windowBase).toNat, k, x.logs, x.traces, x.merged] }) .summaries 0 0 1) s)

/-- Table 18.6. -/
def LogRecord.image (r : LogRecord) (seq : Nat) : Nat :=
  let d (i : Nat) : Nat := r.d.getD i 0 % 2 ^ 64
  seq % 2 ^ 64 * 2 ^ 448 + r.stamp % 2 ^ 64 * 2 ^ 384 + r.type % 2 ^ 16 * 2 ^ 368 + r.kind % 16 * 2 ^ 364 + r.source % 2 ^ 16 * 2 ^ 348
    + r.job.toNat * 2 ^ 332 + d 0 * 2 ^ 256 + d 1 * 2 ^ 192 + d 2 * 2 ^ 128 + d 3 * 2 ^ 64 + d 4

/-- The record with sequence number `n`, while its slot holds it (R534). -/
def State.logAt (s : State) (n : Nat) : Option LogRecord :=
  match NMap.find s.tel.logRing (n % 2 ^ 20) with
  | some e => if e.1 = n ∧ State.logServes s (n % 2 ^ 20 / 2 ^ 17) then some e.2 else none
  | none => none

/-- The gap record of a run of missing sequence numbers up to `n` (R535); `run`: its first, one more than that, 0 for no run. -/
def State.logGap (s : State) (n run : Nat) : List Nat :=
  if run = 0 then [] else [LogRecord.image { stamp := s.timebase, type := 0x0002, kind := 0, source := 0, job := 0, d := [run - 1, n - 1] } (run - 1)]

/-- The records of `k` sequence numbers from `n` on, in order, one gap record for each run that is missing (R535), and the run that is still being
passed at their end. -/
def State.retrieve (s : State) : Nat → Nat → Nat → List Nat × Nat
  | 0, _, run => ([], run)
  | k + 1, n, run =>
    match State.logAt s n with
    | some r =>
      let rest := State.retrieve s k (n + 1) 0
      (State.logGap s n run ++ [LogRecord.image r n] ++ rest.1, rest.2)
    | none => State.retrieve s k (n + 1) (if run = 0 then n + 1 else run)

/-- `LOG_RETRIEVE` (0x0803, R534, R535): sequence numbers begin at 1, and none is returned that has not been assigned. A step takes 1,024 of them,
64 KiB of records (R477); over SMBus one step takes all. -/
def execLogRetrieve (mb first count dst : Nat) (s : State) : Host.Outcome State Fault Refusal :=
  State.command s mb 0x0803 (fun s =>
    let k := ((State.mailbox s mb).running.map (·.values)).getD []
    let run := k.getD 0 0
    let before := k.getD 1 0
    let a := max 1 first + 1024 * State.stage s mb
    let left := min (first + count) s.tel.logNext - a
    let n := if mb = 16 then left else min 1024 left
    let r := State.retrieve s n a run
    let last := decide (left ≤ n)
    let records := if last then r.1 ++ State.logGap s (a + n) r.2 else r.1
    State.deliverUnit s mb (dst + (if mb = 16 then 0 else 64 * before)) before records.length (records.flatMap (fun v => toBytes 64 v)) [r.2, before + records.length] last)

/-! ### Traces (R536, R537) -/

/-- Records the host ring holds: 32-byte records after a header of 64 bytes. -/
def TraceConfig.capacity (t : TraceConfig) : Nat := (2 ^ t.ringLog2 - 64) / 32

/-- `TRACE_CONFIGURE` (0x0804). -/
def execTraceConfigure (mb : Nat) (mask : BitVec 8) (rates : List Nat) (ring size : Nat) (s : State) : Host.Outcome State Fault Refusal :=
  State.command s mb 0x0804 (fun s =>
    if ring % 64 ≠ 0 ∨ size ≠ 2 ^ Nat.log2 size ∨ size < 2 ^ 16 ∨ 2 ^ 30 < size then State.complete s mb 1 []
    else
      let trace : TraceConfig :=
        { mask := mask.toNat, limits := rates, ringAddr := ring, ringLog2 := Nat.log2 size, write := 0, read := 0, used := [], period := s.timebase }
      State.complete { s with tel := { s.tel with trace := trace } } mb 0 [])

/-- A trace record is discarded: counted for its source, TRACE_LOSS. -/
def State.dropTrace (s : State) (sender : Nat) (t : TraceRecord) : State :=
  let s := State.flag (State.count s .traceDrop t.source 0 1) 7
  State.discard s sender t.kind (fun d => { d with traces := d.traces + 1 })

/-- Messages of the record's path: alarms and notices that hold a credit, and log messages. -/
def State.pathLoad (s : State) (kind unit : Nat) : Nat :=
  let path := mgtPath kind unit
  Telemetry.mgtUsed s.tel path (State.noticesOn s path).length
    + (s.tel.logPath.filter (fun e => decide (mgtPath e.2.kind e.2.source = path))).length

/-- Fewer than 4 ordinary MGT credits are free on the source's path (R537). -/
def State.pathShort (s : State) (kind unit : Nat) : Bool :=
  let p := mgtPath kind unit
  decide (p.1 ≠ 0) && decide (mgtOrdinary p < State.pathLoad s kind unit + 4)

/-- Table of R536: a record in the host ring. -/
def TraceRecord.image (t : TraceRecord) (stamp : Nat) : Nat :=
  stamp % 2 ^ 64 * 2 ^ 192 + (t.kind % 16 * 2 ^ 16 + t.unit % 2 ^ 16) * 2 ^ 172 + t.source % 16 * 2 ^ 168 + t.event.toNat * 2 ^ 160 + t.data.toNat

/-- `TRACE_RECORD` (R536, R537): of a source that is enabled; discarded at its limit for the millisecond, on a short path, or with the host ring
full or out of reach of DMA. -/
def execTraceRecord (t : TraceRecord) (s : State) : Host.Outcome State Fault Refusal :=
  let c := s.tel.trace
  if !(decide (t.source < 8) && c.mask.testBit t.source) then .next s
  else
    let used := if Telemetry.window s.tel 1000000 c.period = Telemetry.window s.tel 1000000 s.timebase then c.used else []
    let n := NMap.get used 0 t.source
    let sender := sourceRegion t.kind t.unit
    if c.limits.getD t.source 0 ≤ n ∨ State.pathShort s t.kind t.unit then .next (State.dropTrace s sender t)
    else
      let s := { s with tel := { s.tel with trace := { c with used := NMap.set used 0 t.source (n + 1), period := s.timebase } } }
      if TraceConfig.capacity c ≤ (c.write + 2 ^ 64 - c.read) % 2 ^ 64 ∨ !s.host.busMaster then .next (State.dropTrace s 8 t)
      else
        let write := (c.write + 1) % 2 ^ 64
        let s := State.emit s (.hostWrite (c.ringAddr + 64 + 32 * (c.write % TraceConfig.capacity c)) (toBytes 32 (TraceRecord.image t s.timebase)))
        let s := State.emit s (.hostWrite c.ringAddr (toBytes 8 write))
        .next { s with tel := { s.tel with trace := { s.tel.trace with write := write } } }

/-- `TRACE_READ_POLL` (R536): Baker reads READ by DMA. -/
def execTraceReadPoll (readIndex : BitVec 64) (s : State) : Host.Outcome State Fault Refusal :=
  if s.tel.trace.ringLog2 ≠ 0 ∧ s.host.busMaster then .next { s with tel := { s.tel with trace := { s.tel.trace with read := readIndex.toNat } } }
  else .next s

/-! ### Counters (R541, R542) -/

/-- The record of a counter read (R542). -/
def State.counterImage (s : State) (key : Nat) : Nat :=
  let v := NMap.get s.tel.counters 0 key
  s.timebase * 2 ^ 192 + v * 2 ^ 128 + key % 2 ^ 32 * 2 ^ 96 + counterWidth (key / 2 ^ 24) * 2 ^ 88 + b2n (decide (v = counterMax key)) * 2 ^ 87

/-- `COUNTER_READ` (0x0800). -/
def execCounterRead (mb : Nat) (selectors : List (BitVec 32)) (dst : Nat) (s : State) : Host.Outcome State Fault Refusal :=
  State.command s mb 0x0800 (fun s => State.deliver s mb dst 0 (selectors.flatMap (fun k => toBytes 32 (State.counterImage s k.toNat))))

/-- Clear bits of ERR_FLAGS, as a 1 written to each does; a set stamped in this tick wins (R9, R530). -/
def State.clearErrFlags (s : State) (mask : Nat) : State :=
  let gone := (bitIndices 12 mask).filter (fun b => !State.w1cHeld s b)
  { s with tel := { s.tel with errFlags := s.tel.errFlags &&& ((2 ^ 12 - 1) ^^^ maskOf gone) } }

/-- Clear OUT_OF_TOL (bit 3) and STEPPED (bit 2) of TIME_STATUS (Table 2.4, R530). -/
def State.clearTimeFlags (s : State) (mask : Nat) : State :=
  { s with time := { s.time with
      outOfTol := s.time.outOfTol && (!mask.testBit 3 || State.w1cHeld s outOfTolKey)
      stepped := s.time.stepped && (!mask.testBit 2 || State.w1cHeld s steppedKey) } }

/-- Clear LOWPACE of region `r` (Table 2.2, R530). -/
def State.clearLowpace (s : State) (r : Nat) (clear : Bool) : State :=
  State.modRegionPower s r (fun x => { x with pace := { x.pace with lowpace := x.pace.lowpace && (!clear || State.w1cHeld s (lowpaceKey r)) } })

/-- A counter after a clear: the events stamped in its tick are counted after it (R542). -/
def State.cleared (s : State) (key : Nat) : Nat := min (TickEvents.of s.tel.ticked s.timebase key) (counterMax key)

/-- `COUNTER_CLEAR` (0x0801, R34, R542). -/
def execCounterClear (mb : Nat) (selectors : List (BitVec 32)) (paceMin : Bool) (errMask : BitVec 64) (lowMask : BitVec 8) (timeMask : BitVec 64)
    (s : State) : Host.Outcome State Fault Refusal :=
  State.command s mb 0x0801 (fun s =>
    let counters := selectors.foldl (fun m k => NMap.set m 0 k.toNat (State.cleared s k.toNat)) s.tel.counters
    let s := State.clearTimeFlags (State.clearErrFlags { s with tel := { s.tel with counters := counters } } errMask.toNat) timeMask.toNat
    let s := (List.range 8).foldl (fun s r => State.modRegionPower (State.clearLowpace s r (lowMask.toNat.testBit r)) r (fun x =>
      { x with pace := { x.pace with paceMin := if paceMin then 0xFFFF else x.pace.paceMin } })) s
    State.complete s mb 0 [])

end Sys2Proof.Machine
end

