-- ==== Sys2Proof/Machine/HostPort.lean ====
section
/-!
DEFINITION. Host writes to the control window, doorbells, the status word, the endpoint and the SMBus interface (chapters 16 and 19).
-/

namespace Sys2Proof.Machine

/-- The mailboxes are served: from BOOT on (Table 16.4). -/
def State.windowServes (s : State) : Bool := State.hostReady s || decide (s.phase = .boot)

/-! ### Doorbells (R474 to R476, R484, R549) -/

/-- The checks of Table 16.6 on a copied REQUEST, in the table's order: 0 when all pass. `seq` is the doorbell's. -/
def State.ackStatus (s : State) (mb seq : Nat) : Nat :=
  let v := (State.mailbox s mb).request.toNat
  let code := v % 2 ^ 16
  let len := bits v 43 32
  match commandOf code with
  | none => 1
  | some c =>
    if mb = 16 ∧ !(oobAlways ++ oobFromBoot).contains code then 1
    else if mb < 16 ∧ 4 ≤ mb ∧ c.cls ≠ .r then 2
    else if (if mb = 16 then 256 else 1984) < len ∨ len < 8 * c.arguments then 3
    else if c.cls = .p ∧ !State.presence_ s then 4
    else if !State.served s mb c then 5
    else if bits v 31 16 ≠ seq then 6
    else 0

/-- A doorbell is rung with `v` (R474, R475, R549): ignored while BUSY, at ACK_SEQ, or with reserved bits; else acknowledged, and the command accepted or
refused. -/
def State.ring_ (s : State) (mb : Nat) (v : Nat) : State :=
  let m := State.mailbox s mb
  if 2 ^ 16 ≤ v ∨ m.busy ∨ v = m.ackSeq then State.count s .doorbellIgnored 0 mb 1
  else
    let status := State.ackStatus s mb v
    let code := m.request.toNat % 2 ^ 16
    let acked (m : Mailbox) : Mailbox := { m with ackStatus := status, ackSeq := v, ackCode := code, ackTime := s.timebase }
    if status = 0 then
      let k : Running := { code := code, seq := v, argLen := bits m.request.toNat 43 32, args := m.args, stage := 0, values := [], waits := [], since := s.timebase }
      State.modMailbox s mb (fun m => { acked m with busy := true, done := false, running := some k })
    else
      State.modMailbox (State.count s .ackRefused 0 mb 1) mb (fun m => { acked m with result := 0xFFFF, doneSeq := v, done := true })

/-- The doorbell register after a write of `v`: SEQ takes bits [15:0]; the reserved bits read 0 (R10, Table 19.5). Assumption 33. -/
def doorbellImage (v : Nat) : DWord := BitVec.ofNat 64 (v % 2 ^ 16)

/-- `DOORBELL_WRITE` (R549): a 4-byte write at the doorbell's offset carries its low half. -/
def execDoorbellWrite (mailbox : Nat) (wide : Bool) (value : BitVec 64) (s : State) : Host.Outcome State Fault Refusal :=
  if 16 ≤ mailbox ∨ !State.windowServes s then .next s
  else
    let v := if wide then value.toNat else value.toNat % 2 ^ 32
    .next (State.ring_ (State.modMailbox s mailbox (fun m => { m with doorbell := doorbellImage v })) mailbox v)

/-! ### Register writes (R10, R462, R543) -/

/-- Bytes of a write: offset in the window, length. -/
def writeBytes (wide : Bool) (value : BitVec 64) : List Byte := toBytes (if wide then 8 else 4) value.toNat

/-- A write of `bs` at offset `o` of a mailbox: REQUEST and ARGS are RW. -/
def Mailbox.write (m : Mailbox) (o argEnd : Nat) (bs : List Byte) : Mailbox :=
  bs.zipIdx.foldl (fun m e =>
    let a := o + e.2
    if a < 8 then { m with request := BitVec.ofNat 64 (setBits m.request.toNat (8 * a + 7) (8 * a) e.1.toNat) }
    else if 0x40 ≤ a ∧ a < 0x40 + argEnd then { m with args := NMap.set m.args 0 (a - 0x40) e.1 }
    else m) m

/-- REQUEST holds a non-zero reserved field (Table 16.5): the behaviour is undefined (R10). -/
def Mailbox.reservedSet (m : Mailbox) : Bool := decide (2 ^ 44 ≤ m.request.toNat)

/-- `REGISTER_WRITE` (R543): REQUEST and ARGS of a mailbox take the value; every other register without behaviour of its own ignores it. -/
def execRegisterWrite (offset : Nat) (wide : Bool) (value : BitVec 64) (s : State) : Host.Outcome State Fault Refusal :=
  let aligned := if wide then decide (offset % 8 = 0) else decide (offset % 4 = 0)
  if !aligned ∨ offset < 0x10000 ∨ 0x20000 ≤ offset ∨ !State.windowServes s then .next s
  else
    let mb := (offset - 0x10000) / 0x1000
    let m := Mailbox.write (State.mailbox s mb) (offset % 0x1000) 0x7C0 (writeBytes wide value)
    if Mailbox.reservedSet m then .fault .reservedWritten else .next (State.modMailbox s mb (fun _ => m))

/-- `W1C_FLAG_WRITE` (R530): LOWPACE of PACE_n, OUT_OF_TOL and STEPPED, ERR_FLAGS. -/
def execW1cFlagWrite (offset : Nat) (wide : Bool) (value : BitVec 64) (s : State) : Host.Outcome State Fault Refusal :=
  let o := offset / 8 * 8
  let mask := if wide then value.toNat else value.toNat % 2 ^ 32 * 2 ^ (8 * (offset % 8))
  let aligned := if wide then decide (offset % 8 = 0) else decide (offset % 4 = 0)
  if !aligned ∨ !State.windowServes s then .next s
  else if o = 0x180 then .next (State.clearErrFlags s mask)
  else if o = 0x148 then .next (State.clearTimeFlags s mask)
  else if 0x100 ≤ o ∧ o < 0x140 then .next (State.clearLowpace s ((o - 0x100) / 8) (mask.testBit 2))
  else .next s

/-- `CONTROL_WINDOW_BAD_ACCESS` (R462): Unsupported Request; a write is discarded. -/
def execControlWindowBadAccess (offset len : Nat) (_isWrite : Bool) (s : State) : Host.Outcome State Fault Refusal :=
  let good := (decide (len = 4) && decide (offset % 4 = 0)) || (decide (len = 8) && decide (offset % 8 = 0))
  if good ∨ !State.windowServes s then .next s else .next (State.emit s .unsupported)

/-! ### The endpoint (R464, Table 16.1) -/

/-- `PCIE_RESET` (R464): the configuration space, the doorbells and the mirror address are reset. -/
def execPcieReset (s : State) : Host.Outcome State Fault Refusal :=
  let s := (List.range 16).foldl (fun s mb => State.modMailbox s mb (fun m => { m with doorbell := 0 })) s
  .next { s with host := { s.host with mirrorAddr := 0, busMaster := false, winLog2 := 34 } }

/-- A word of the configuration space: the device ID, the class code, the subsystem device ID, no interrupt pin (Table 16.1) and Bus Master Enable
(R464) stand where PCI puts them (PRESUMED); every other bit is a free value. Notes: assumption 106. -/
def State.configWord (s : State) (o : Nat) : BitVec 32 :=
  let free := (Config.configWord (o / 4 * 4)).toNat
  BitVec.ofNat 32 (
    if o / 4 = 0 then free % 2 ^ 16 + 0x0A39 * 2 ^ 16
    else if o / 4 = 1 then free / 8 * 8 + (if s.host.busMaster then 4 else 0) + free % 4
    else if o / 4 = 2 then free % 2 ^ 8 + 0x120000 * 2 ^ 8
    else if o / 4 = 11 then free % 2 ^ 16 + 0x1536 * 2 ^ 16
    else if o / 4 = 15 then free / 2 ^ 16 * 2 ^ 16 + free % 2 ^ 8
    else free)

/-- `CONFIGURATION_REQUEST` (R464, Table 16.1): Request Retry Status until BOOT ends. A new window size keeps APERTURE a multiple of it (R465). -/
def execConfigurationRequest (r : ConfigRequest) (s : State) : Host.Outcome State Fault Refusal :=
  if s.phase = .boot then .next (State.emit s .retry)
  else if !State.hostReady s then .next s
  else
    match r with
    | .read o => .next (State.emit s (.config o (some (State.configWord s o))))
    | .busMasterEnable on => .next { s with host := { s.host with busMaster := on } }
    | .resizeMemoryWindow n =>
      if 34 ≤ n ∧ n ≤ 41 then .next { s with host := { s.host with winLog2 := n, aperture := s.host.aperture / 2 ^ n * 2 ^ n } } else .next s
    | .other o => .next (State.emit s (.config o none))

/-! ### The status word (R467, R468, R470) -/

/-- `STATUS_REWRITE` (R467, R468). -/
def execStatusRewrite (s : State) : Host.Outcome State Fault Refusal :=
  if s.phase = .off then .next s
  else
    let w := State.statusWord s (s.host.status.toNat / 2 ^ 56 + 1)
    let s := { s with host := { s.host with status := w } }
    if s.host.mirrorAddr ≠ 0 ∧ s.host.busMaster then .next (State.emit s (.hostWrite s.host.mirrorAddr.toNat (toBytes 8 w.toNat))) else .next s

/-- `BAKER_WATCHDOG_RESTART` (R470). -/
def execBakerWatchdogRestart (s : State) : Host.Outcome State Fault Refusal :=
  if s.phase = .off then .next s
  else .next (State.recoveryEvent (State.raise (State.endTasting (State.endCommands s 0xFFFE (fun _ => true))) 0xC2 0 0 0) 7)

/-! ### SMBus (R492, R553 to R557) -/

/-- A write without a correct PEC is discarded, and counted (R492). -/
def State.pecFailed (s : State) : State := State.count s .smbPecFail 0 0 1

/-- `SMB_SET_POINTER` (R554). -/
def execSmbSetPointer (value : BitVec 16) (pecOk : Bool) (s : State) : Host.Outcome State Fault Refusal :=
  if s.phase = .off then .next s
  else if !pecOk then .next (State.pecFailed s)
  else .next { s with host := { s.host with smbPointer := value.toNat % 0x1000 } }

/-- `SMB_BLOCK_READ` (R555): 32 bytes, then the pointer advances. -/
def execSmbBlockRead (s : State) : Host.Outcome State Fault Refusal :=
  if s.phase = .off then .next s
  else
    let r := State.smbusRead s s.host.smbPointer 32
    let s := State.emit r.2 (.smbus r.1)
    .next { s with host := { s.host with smbPointer := (s.host.smbPointer + 32) % 0x1000 } }

/-- `SMB_STATUS_READ` (R554): the pointer is unchanged. -/
def execSmbStatusRead (s : State) : Host.Outcome State Fault Refusal :=
  if s.phase = .off then .next s else .next (State.emit s (.smbus (toBytes 8 s.host.status.toNat)))

/-- One byte of a Block Write: OOB REQUEST, OOB_ARGS and DOORBELL_OOB are RW (Table 19.9). -/
def Mailbox.smbWrite (m : Mailbox) (o : Nat) (b : Byte) : Mailbox :=
  if 0x800 ≤ o ∧ o < 0x808 then Mailbox.write m (o - 0x800) 0 [b]
  else if 0x838 ≤ o ∧ o < 0x840 then { m with doorbell := BitVec.ofNat 64 (setBits m.doorbell.toNat (8 * (o - 0x838) + 7) (8 * (o - 0x838)) b.toNat) }
  else if 0x900 ≤ o ∧ o < 0xA00 then { m with args := NMap.set m.args 0 (o - 0x900) b }
  else m

/-- A Block Write (R555, R556): it rings the out-of-band doorbell when it covers byte 0x838. -/
def State.smbBlock (s : State) (bytes : List Byte) (pecOk : Bool) : Host.Outcome State Fault Refusal :=
  if s.phase = .off ∨ bytes.isEmpty ∨ 32 < bytes.length then .next s
  else if !pecOk then .next (State.pecFailed s)
  else
    let p := s.host.smbPointer
    let m := bytes.zipIdx.foldl (fun m e => Mailbox.smbWrite m ((p + e.2) % 0x1000) e.1) (State.mailbox s 16)
    if Mailbox.reservedSet m then .fault .reservedWritten
    else
      let s := State.modMailbox { s with host := { s.host with smbPointer := (p + bytes.length) % 0x1000 } } 16 (fun _ => { m with doorbell := doorbellImage m.doorbell.toNat })
      if (List.range bytes.length).any (fun i => decide ((p + i) % 0x1000 = 0x838)) then .next (State.ring_ s 16 m.doorbell.toNat) else .next s

/-- `SMB_BLOCK_WRITE` (R555). -/
def execSmbBlockWrite (bytes : List (BitVec 8)) (pecOk : Bool) (s : State) : Host.Outcome State Fault Refusal := State.smbBlock s bytes pecOk

/-- `OOB_DOORBELL_WRITE` (R556): a Block Write that covers byte 0x838. -/
def execOobDoorbellWrite (bytes : List (BitVec 8)) (pecOk : Bool) (s : State) : Host.Outcome State Fault Refusal := State.smbBlock s bytes pecOk

end Sys2Proof.Machine
end

