-- ==== Sys2Proof/Machine/Commands.lean ====
section
/-!
DEFINITION. Sutha commands of chapters 10 and 16 that no other file holds (Tables 10.8, 16.11 and 16.12).
-/

namespace Sys2Proof.Machine

/-- Bytes of the identity and capability page. -/
def State.pageBytes (s : State) (o n : Nat) : List Byte := (List.range (n / 8)).flatMap (fun i => toBytes 8 (State.identityPage s (o + 8 * i)))

/-- Results in RES; over SMBus up to 240 bytes from a result offset (R493). -/
def State.inResult (s : State) (mb dst : Nat) (bytes : List Byte) : State :=
  State.complete s mb 0 (if mb = 16 then (bytes.drop dst).take 240 else bytes)

/-- `IDENTITY` (0x0000, R547). -/
def execIdentityCmd (mb dst : Nat) (s : State) : Host.Outcome State Fault Refusal :=
  State.command s mb 0x0000 (fun s => State.inResult s mb dst (State.pageBytes s 0 0x400))

/-- `CAPABILITY` (0x0001, R547). -/
def execCapability (mb dst : Nat) (s : State) : Host.Outcome State Fault Refusal :=
  State.command s mb 0x0001 (fun s => State.inResult s mb dst (State.pageBytes s 0x400 0x400))

/-- A command completes with 0xFFFD, RES valid as last updated (0x0003); a Tasting run that it ran is over. -/
def State.cancelled (s : State) (mb : Nat) : State :=
  let s := if s.tasting.elim false (fun t => decide (t.mailbox = mb)) then State.endTasting s else s
  State.modMailbox s mb (fun m =>
    { m with result := 0xFFFD, doneSeq := m.ackSeq, doneTime := s.timebase, busy := false, done := true, running := none })

/-- `CANCEL` (0x0003). -/
def execCancel (mb target : Nat) (s : State) : Host.Outcome State Fault Refusal :=
  State.command s mb 0x0003 (fun s =>
    if 4 ≤ mb ∧ target < 4 then State.complete s mb 3 []
    else
      match (State.mailbox s target).running with
      | none => State.complete s mb 1 []
      | some k =>
        if ((commandOf k.code).map (fun c => c.cancellable)).getD false then State.complete (State.cancelled s target) mb 0 []
        else State.complete s mb 2 [])

/-- `STATUS_MIRROR` (0x0010, R468). -/
def execStatusMirror (mb : Nat) (addr : BitVec 64) (s : State) : Host.Outcome State Fault Refusal :=
  State.command s mb 0x0010 (fun s => State.complete { s with host := { s.host with mirrorAddr := addr } } mb 0 [])

/-! ### Self-test and Recipe mode (R309, R312) -/

/-- What vectors leave in a cell's local memory and its marks: the spec does not say (assumption 5). -/
def State.scratch (s : State) (c : Nat) : State :=
  let x := State.cell s c
  if !x.groups.isEmpty then s
  else
    State.setCell { s with freeCount := s.freeCount + localSize + localSize / 4 } c
      { Cell.freeView x s.freeCount (List.range localSize) with
        localPoison := (List.range (localSize / 4)).foldl (fun m w => NMap.set m false w (Config.freeBit (s.freeCount + localSize + w))) [] }

/-- `SELF_TEST` (0x0700): one cell a step; cells run, passed and failed, and which failed; those become RETIRING (R477, R520). The cells are fixed when it
begins. -/
def execSelfTest (mb : Nat) (cells failed : List Nat) (s : State) : Host.Outcome State Fault Refusal :=
  State.command s mb 0x0700 (fun s =>
    let i := State.stage s mb
    let run := if i = 0 then State.namedCells s cells else ((State.mailbox s mb).running.map (·.values)).getD []
    let bad := (run.take (i + 1)).filter (fun c => failed.contains c)
    let report := [min run.length (i + 1), min run.length (i + 1) - bad.length, bad.length] ++ bad
    let s := match run[i]? with
      | none => s
      | some c => if failed.contains c then State.retireCell (State.scratch s c) c else State.scratch s c
    if run.length ≤ i + 1 then State.progress (State.completeReport s mb 0 report) mb (min run.length (i + 1))
    else State.progress (State.reportSoFar (State.goOn s mb run) mb report) mb (i + 1))

/-- `RECIPE_SET` (0x0701, R309). -/
def execRecipeSet (mb : Nat) (tag : BitVec 16) (on : Bool) (s : State) : Host.Outcome State Fault Refusal :=
  State.command s mb 0x0701 (fun s =>
    if s.cells.any (fun e => e.2.groups.any (fun g => decide (g.2.job = tag))) then State.complete s mb 1 []
    else State.complete (State.modJob s tag (fun j => { j with recipe := on })) mb 0 [])

/-! ### The scale table (R301, R308, R316) -/

/-- A configuration word that R301 refuses. -/
def scaleWordBad (w : Nat) : Bool :=
  decide (w % 2 ^ 34 ≠ 0) || !([3, 4, 5, 6].contains (bits w 62 59)) || decide (bits w 49 42 = 255)

/-- A slot with a new configuration: a change of FMT, HLEN or HEAD empties HIST and PEN; X is INIT_X at once for a FIXED slot (R308) and for one
that no update has reached (R305), else at its next update (assumption 97). -/
def ScaleSlot.configure (k : ScaleSlot) (w : Nat) : ScaleSlot :=
  let n : ScaleSlot := { k with
    dynamic := bitOf w 63, fmt := bits w 62 59, hlen := bits w 58 53, head := bits w 52 50, initX := bits w 49 42, binLo := sgn 8 (bits w 41 34) }
  let changed := decide (n.fmt ≠ k.fmt ∨ n.hlen ≠ k.hlen ∨ n.head ≠ k.head)
  { n with
    hist := if changed then List.replicate 64 0xFF else n.hist, pen := if changed then 0 else n.pen, x := if n.dynamic && k.done.isSome then n.x else n.initX
    restart := n.dynamic && k.done.isSome }

/-- `SCALE_CONFIGURE` (0x0703). -/
def execScaleConfigure (mb first count : Nat) (word : BitVec 64) (s : State) : Host.Outcome State Fault Refusal :=
  State.command s mb 0x0703 (fun s =>
    if scaleWordBad word.toNat then State.complete s mb 2 []
    else if 4096 < first + count then State.completeOpen s mb
    else
      let slots := (List.range count).foldl (fun m i =>
        NMap.upd m ScaleSlot.reset (first + i) (fun k => ScaleSlot.configure k word.toNat)) s.scale.slots
      State.complete { s with scale := { s.scale with slots := slots } } mb 0 [])

/-- Slot image (Table 10.3). CORR is that of the step being merged. -/
def State.scaleImage (s : State) (slot : Nat) : Nat :=
  let k := ScaleTable.slot s.scale slot
  let corr := max k.lateCorr (((ScaleTable.oldest s.scale slot).map (fun e => e.2.corr)).getD 0)
  b2n k.dynamic * 2 ^ 1023 + k.fmt * 2 ^ 1019 + k.hlen * 2 ^ 1013 + k.head * 2 ^ 1010 + k.initX * 2 ^ 1002 + unsgn 8 k.binLo * 2 ^ 994
    + k.x * 2 ^ 952 + k.pen * 2 ^ 949 + b2n k.satStep * 2 ^ 948 + corr % 16 * 2 ^ 944 + k.step.toNat * 2 ^ 896 + ofBytes (k.hist.take 64)

/-- `SCALE_READ` (0x0704). -/
def execScaleRead (mb first count dst : Nat) (s : State) : Host.Outcome State Fault Refusal :=
  State.command s mb 0x0704 (fun s =>
    State.deliver s mb dst 0 ((List.range (min count (4096 - first))).flatMap (fun i => toBytes 128 (State.scaleImage s (first + i)))))

/-- `SIEVE_READ` (0x0705): bins 0 to 63, ZERO, INF, NAN, SAT, whether there is an EXP_MAX, its value, and the step. -/
def execSieveRead (mb slot dst : Nat) (s : State) : Host.Outcome State Fault Refusal :=
  State.command s mb 0x0705 (fun s =>
    let k := ScaleTable.slot s.scale slot
    let h := k.area
    State.deliverReport s mb dst 0
      (tabulate 64 (fun i => NMap.get h.bins 0 i) ++ [h.zero, h.inf, h.nan, h.sat, b2n h.expMax.isSome, unsgn 64 (h.expMax.getD 0), (k.done.getD 0).toNat]))

/-! ### Privileged commands (Table 16.12) -/

/-- `FIRMWARE_UPDATE` (0x0F00): one MiB a step is read and verified (R477); then the image is staged in the inactive bank. -/
def execFirmwareUpdate (mb length : Nat) (version : BitVec 64) (signatureOk : Bool) (s : State) : Host.Outcome State Fault Refusal :=
  State.command s mb 0x0F00 (fun s =>
    State.reading s mb (fun s =>
      let i := State.stage s mb
      let verified (s : State) : State := State.progress s mb (length / 2 ^ 20)
      if length = 0 ∨ 2 ^ 26 < length then State.complete s mb 2 []
      else if 2 ^ 20 * (i + 1) < length then State.progress (State.reportSoFar (State.goOn s mb []) mb [2 ^ 20 * (i + 1)]) mb (i + 1)
      else if !signatureOk then verified (State.complete s mb 1 [])
      else if version.toNat / 2 ^ 32 < s.nv.rollback then verified (State.complete s mb 3 [])
      else
        let nv := if s.nv.active = 0 then { s.nv with bank1 := version.toNat, staged := true } else { s.nv with bank0 := version.toNat, staged := true }
        verified (State.complete { s with nv := nv } mb 0 [])))

/-- DEBUG takes a value; a change is a change of the presence fields (Table 19.6). -/
def State.setDebug (s : State) (on : Bool) : State := if s.debug = on then s else State.presenceChanged { s with debug := on }

/-- `DEBUG_UNLOCK` (0x0F01, 0). -/
def execDebugUnlock (mb : Nat) (s : State) : Host.Outcome State Fault Refusal :=
  State.command s mb 0x0F01 (fun s =>
    if s.joined ∨ s.cells.any (fun e => !e.2.groups.isEmpty) then State.complete s mb 1 [] else State.complete (State.setDebug s true) mb 0 [])

/-- `DEBUG_LOCK` (0x0F01, 1). -/
def execDebugLock (mb : Nat) (s : State) : Host.Outcome State Fault Refusal :=
  State.command s mb 0x0F01 (fun s => State.complete (State.setDebug s false) mb 0 [])

/-- `FUSE_PROGRAM` (0x0F02): fuses change from 0 to 1 only. -/
def execFuseProgram (mb word : Nat) (value : BitVec 32) (s : State) : Host.Outcome State Fault Refusal :=
  State.command s mb 0x0F02 (fun s =>
    let old := NMap.get s.nv.fuses 0 word
    if 64 ≤ word then State.completeOpen s mb
    else if old &&& value ≠ old then State.complete s mb 1 []
    else State.complete { s with nv := { s.nv with fuses := NMap.set s.nv.fuses 0 word value } } mb 0 [])

/-- `SEAL_REARM` (0x0F03, R483). -/
def execSealRearm (mb : Nat) (s : State) : Host.Outcome State Fault Refusal :=
  State.command s mb 0x0F03 (fun s =>
    if !s.nv.sealClosed then State.complete s mb 1 []
    else if 64 ≤ s.nv.rearmBlown then State.complete s mb 2 []
    else State.complete (State.presenceChanged { s with nv := { s.nv with rearmBlown := s.nv.rearmBlown + 1 } }) mb 0 [])

end Sys2Proof.Machine
end

