-- ==== Sys2Proof/Machine/Control.lean ====
section
/-!
DEFINITION. Control flow and the mask stack (0x50 to 0x56, words of unassigned opcodes, the spill and the reload; R76 to R81,
R115 to R118).
-/

namespace Sys2Proof.Machine

/-! ### The mask stack -/

/-- A mask-stack entry as it stands in local memory (Table 3.5). -/
def MaskEntry.word (e : MaskEntry) : Nat :=
  (if e.kind = .pending then 2 ^ 63 else 0) + e.pc.toNat * 2 ^ 32 + e.mask.toNat

def MaskEntry.ofWord (v : Nat) : MaskEntry :=
  { kind := if bitOf v 63 then .pending else .reconv, pc := BitVec.ofNat 31 (bits v 62 32), mask := BitVec.ofNat 32 v }

/-- The spill area of a slot (R79). -/
def spillArea (slot : Nat) : Nat := 0x70000 + slot * 0x400

/-- Spilled entry `i` of a slot, as its area holds it. -/
def Cell.spilledEntry (x : Cell) (slot i : Nat) : MaskEntry := MaskEntry.ofWord (Cell.localNat x (spillArea slot + 8 * i) 8)

/-- Spill (R78): the eight oldest hardware entries, oldest first, go to the top of the spill area. `stack` is top first. -/
def Cell.spill (x : Cell) (slot : Nat) (grp : Group) : Cell × Group :=
  let keep := grp.stack.take (grp.stack.length - 8)
  let old := (grp.stack.drop (grp.stack.length - 8)).reverse
  let x := old.zipIdx.foldl (fun x ei =>
    Cell.writeLocal x (spillArea slot + 8 * (grp.spilled + ei.2)) (toBytes 8 (MaskEntry.word ei.1)) false) x
  (x, { grp with stack := keep, spilled := grp.spilled + old.length })

/-- Reload (R78): the eight most recently spilled entries come back. -/
def Cell.reload (x : Cell) (slot : Nat) (grp : Group) : Group :=
  let n := min 8 grp.spilled
  let back := (tabulate n (fun i => Cell.spilledEntry x slot (grp.spilled - n + i))).reverse
  { grp with stack := grp.stack ++ back, spilled := grp.spilled - n }

/-- Pop the top entry, if there is one (R77). -/
def Group.pop (grp : Group) : Option Group :=
  match grp.stack with
  | [] => none
  | e :: r => some { grp with stack := r, active := e.mask, pc := e.pc }

/-- A pop that emptied the hardware stack over spilled entries holds the group for the reload (R78). -/
def Group.wantsReload (grp : Group) : Group :=
  if grp.stack.isEmpty && decide (0 < grp.spilled) then { grp with hold := .reload } else grp

/-- Lanes of `mask` that are not in `gone`. -/
def withoutLanes (mask : Word) (gone : Nat) : Word := mask &&& ~~~(BitVec.ofNat 32 gone)

/-- `exit` with no lane left active: as if `join` ran until an entry with a lane is reached (R81); spilled entries come back as
they are needed. -/
def Cell.unwind (x : Cell) (slot : Nat) : Nat → Group → Group
  | 0, grp => grp
  | fuel + 1, grp =>
    if grp.active ≠ 0 then grp
    else
      let grp := if grp.stack.isEmpty then Cell.reload x slot grp else grp
      match Group.pop grp with
      | none => grp
      | some grp => Cell.unwind x slot fuel grp

/-- Remove lanes for good (R81): from the active mask and from every entry, hardware and spilled. -/
def Cell.removeLanes (x : Cell) (slot gone : Nat) (grp : Group) : Cell × Group :=
  let x := (List.range grp.spilled).foldl (fun x i =>
    let e := Cell.spilledEntry x slot i
    Cell.writeLocal x (spillArea slot + 8 * i) (toBytes 8 (MaskEntry.word { e with mask := withoutLanes e.mask gone })) false) x
  let grp := { grp with
    active := withoutLanes grp.active gone
    stack := grp.stack.map (fun e => { e with mask := withoutLanes e.mask gone }) }
  let grp := Cell.unwind x slot (grp.stack.length + grp.spilled + 1) grp
  (x, Group.wantsReload grp)

/-! ### Issue of a branch-form instruction -/

/-- Fields that must be zero, EXT and GP of a branch-form word (R101, R102, R115, R116). -/
def brIllegal (f : BrForm) (guarded cp offA offB : Bool) (sub ext : Nat) : Bool :=
  decide (f.gp = 7 ∧ f.gn = 1) || (!guarded && decide (f.gp ≠ 7)) || decide (ext < f.ext.toNat)
    || (!cp && decide (f.cp ≠ 0 ∨ f.cn ≠ 0)) || (!offA && decide (f.offA ≠ 0)) || (!offB && decide (f.offB ≠ 0))
    || decide (f.sub.toNat &&& (1023 - sub) ≠ 0)
    || (decide (f.ext = 1) && decide (f.offA ≠ 0 ∨ 2 ^ 31 ≤ f.x1.toNat))

/-- Issue a branch-form instruction: `park` says why it parks, `sem` what it does to its cell and group. -/
def State.runBr (s : State) (op : Nat) (g : GroupLoc) (f : BrForm) (park : Group → Option ParkCause)
    (sem : Cell → Group → Cell × Group) : State :=
  match State.issuable s g (brWords op f) with
  | none => s
  | some grp =>
    match park grp with
    | some p => State.park s g grp p grp.pc (brWord op f)
    | none =>
      let r := sem (State.cell s g.cell) grp
      State.setCell s g.cell (Cell.setGroup r.1 g.slot { r.2 with fetched := [], issued := true })

def illegalIf (bad : Bool) (grp : Group) (detail : Nat) : Option ParkCause := if bad then some (illegal grp detail) else none

/-- PC plus a signed offset in words. -/
def Group.target (grp : Group) (off : BitVec 18) : BitVec 31 := grp.pc + off.signExtend 31

/-- The target of `bra` and `call` (R115). -/
def brTarget (grp : Group) (f : BrForm) : BitVec 31 :=
  if f.ext = 1 then BitVec.ofNat 31 f.x1.toNat else Group.target grp f.offA

/-- The address of the following instruction (R97). -/
def afterBr (grp : Group) (f : BrForm) : BitVec 31 := grp.pc + 1 + BitVec.ofNat 31 f.ext.toNat

/-- The active lanes in which the branch's condition holds. -/
def condLanes (grp : Group) (f : BrForm) : Nat :=
  grp.active.toNat &&& (Group.pred grp f.cp.toNat ^^^ (if bit1 f.cn then 2 ^ 32 - 1 else 0))

def execBra (g : GroupLoc) (f : BrForm) (s : State) : Host.Outcome State Fault Refusal :=
  .next (State.runBr s 0x50 g f (fun grp => illegalIf (brIllegal f false true true false 1 1) grp 0) (fun x grp =>
    let lanes := condLanes grp f
    let taken := if f.sub.toNat.testBit 0 then decide (lanes = grp.active.toNat) else decide (lanes ≠ 0)
    (x, { grp with pc := if taken then brTarget grp f else afterBr grp f })))

def execCall (g : GroupLoc) (f : BrForm) (s : State) : Host.Outcome State Fault Refusal :=
  .next (State.runBr s 0x51 g f
    (fun grp => illegalIf (brIllegal f false true true false 0x3F 1 || decide (f.cp ≠ 7 ∨ f.cn ≠ 0)) grp 0)
    (fun x grp =>
      (x, { Group.writeUni grp (f.sub.toNat % 64) (afterBr grp f).toNat false 0 with pc := brTarget grp f })))

def execRet (g : GroupLoc) (f : BrForm) (s : State) : Host.Outcome State Fault Refusal :=
  .next (State.runBr s 0x52 g f
    (fun grp =>
      let n := f.sub.toNat % 64
      firstSome [
        illegalIf (brIllegal f false true false false 0x3F 0 || decide (f.cp ≠ 7 ∨ f.cn ≠ 0)) grp 0,
        illegalIf (decide (2 ^ 31 ≤ Group.uni grp n)) grp 0,
        operandPark grp grp.active.toNat .uni n true])
    (fun x grp => (x, { grp with pc := BitVec.ofNat 31 (Group.uni grp (f.sub.toNat % 64)) })))

/-- A divergent `split` (R76): the lanes that disagree. -/
def divergent (grp : Group) (f : BrForm) : Bool :=
  decide (condLanes grp f ≠ 0) && decide (condLanes grp f ≠ grp.active.toNat)

/-- `split` (R76, R78, R80, R116): after a push onto a full hardware stack the group is held until the spill's grant. -/
def execSplit (g : GroupLoc) (f : BrForm) (s : State) : Host.Outcome State Fault Refusal :=
  .next (State.runBr s 0x53 g f
    (fun grp => firstSome [
      illegalIf (brIllegal f false true true true 0 0) grp 0,
      illegalIf (divergent grp f && decide (16 + grp.allowance < grp.stack.length + grp.spilled + 2)) grp 2])
    (fun x grp =>
      let taken := BitVec.ofNat 32 (condLanes grp f)
      if !divergent grp f then
        (x, { grp with pc := if taken = 0 then afterBr grp f else Group.target grp f.offA })
      else
        (x, { grp with
          stack := { kind := .pending, pc := Group.target grp f.offA, mask := taken }
            :: { kind := .reconv, pc := Group.target grp f.offB, mask := grp.active } :: grp.stack
          active := grp.active &&& ~~~taken
          pc := afterBr grp f
          hold := if 16 < grp.stack.length + 2 then .spill else grp.hold })))

/-- `join` (R77): PC and mask of the top entry. -/
def execJoin (g : GroupLoc) (f : BrForm) (s : State) : Host.Outcome State Fault Refusal :=
  .next (State.runBr s 0x54 g f
    (fun grp => firstSome [
      illegalIf (brIllegal f false false false false 0 0) grp 0,
      illegalIf (grp.stack.isEmpty && decide (grp.spilled = 0)) grp 3])
    (fun x grp =>
      let grp := if grp.stack.isEmpty then Cell.reload x g.slot grp else grp
      (x, Group.wantsReload ((Group.pop grp).getD grp))))

/-- `exit` (R81, R116): the lanes that execute it leave for good. -/
def execExit (g : GroupLoc) (f : BrForm) (s : State) : Host.Outcome State Fault Refusal :=
  .next (State.runBr s 0x55 g f
    (fun grp => illegalIf (brIllegal f true false false false 0 0) grp 0)
    (fun x grp => Cell.removeLanes x g.slot (Group.executing grp f.gp f.gn) { grp with pc := afterBr grp f }))

/-- `brk` (R116): it retires and parks its group with BREAK, PC at the following instruction. -/
def execBrk (g : GroupLoc) (f : BrForm) (s : State) : Host.Outcome State Fault Refusal :=
  match State.issuable s g (brWords 0x56 f) with
  | none => .next s
  | some grp =>
    if brIllegal f false false false false 0xFF 0 then .next (State.park s g grp (illegal grp 0) grp.pc (brWord 0x56 f))
    else
      .next (State.park s g { grp with issued := true } { code := 0x09, detail := f.sub.toNat, addr := 0, lanes := 0, epoch := 0 } (afterBr grp f)
        (brWord 0x56 f))

/-- The opcodes of Table 4.3 and of the units' chapters. -/
def assignedOpcodes : List Nat :=
  List.range 0x18 ++ [0x20, 0x21, 0x22, 0x23, 0x24, 0x25, 0x26, 0x27, 0x28, 0x29, 0x2A, 0x40, 0x41, 0x42, 0x48, 0x49]
    ++ [0x50, 0x51, 0x52, 0x53, 0x54, 0x55, 0x56, 0x60, 0x61, 0x62, 0x63, 0x64, 0x65, 0x66, 0x67, 0x68, 0x69, 0x6A, 0x6C, 0x6D]
    ++ [0x70, 0x71, 0x72, 0x73, 0x74, 0x75, 0x80, 0x81, 0x84, 0x85, 0x86, 0x87, 0x90, 0x91, 0x98, 0x99, 0x9A, 0xA0]

/-- A word whose opcode is unassigned parks its group with ILLEGAL, DETAIL 0x00 (R101, R103). -/
def execUnassignedOpcode (g : GroupLoc) (w : DWord) (s : State) : Host.Outcome State Fault Refusal :=
  match State.group s g with
  | none => .next s
  | some grp =>
    if grp.fetched.head? = some w ∧ ¬ assignedOpcodes.contains (w.toNat / 2 ^ 56) then
      match State.issuable s g grp.fetched with
      | none => .next s
      | some grp => .next (State.park s g grp (illegal grp 0) grp.pc w)
    else .next s

/-! ### The port-A grants of the mask stack (R78) -/

/-- The spill's grant: the eight entries are written and the group goes on. -/
def execMaskStackSpill (g : GroupLoc) (s : State) : Host.Outcome State Fault Refusal :=
  match State.group s g with
  | none => .next s
  | some grp =>
    if grp.hold = .spill then
      let x := State.cell s g.cell
      let r := Cell.spill x g.slot { grp with hold := .none }
      .next (State.setCell s g.cell (Cell.setGroup r.1 g.slot r.2))
    else .next s

/-- The reload's grant: the eight most recently spilled entries are back. -/
def execMaskStackReload (g : GroupLoc) (s : State) : Host.Outcome State Fault Refusal :=
  match State.group s g with
  | none => .next s
  | some grp =>
    if grp.hold = .reload then .next (State.setGroup s g (Cell.reload (State.cell s g.cell) g.slot { grp with hold := .none }))
    else .next s

end Sys2Proof.Machine
end

