-- ==== Sys2Proof/Machine/Float.lean ====
section
/-!
DEFINITION. Floating-point instructions (0x20 to 0x2A; R105, R107 to R111).
-/

namespace Sys2Proof.Machine

/-- The rounding direction of SUB[9:8] (R107). -/
def roundOf (f : RegForm) : Round :=
  match subField f 9 8 with
  | 0 => .rne
  | 1 => .rtz
  | 2 => .up
  | _ => .down

/-- Negation of an S32 operand: its sign bit (R107; SUB[5], [6], [7] for a, b, c). Notes: assumption 8. -/
def negIf (f : RegForm) (i : Nat) (v : Nat) : Nat := if subBit f i then v ^^^ 0x80000000 else v

def falu (f : RegForm) (fn : Nat → Nat → Nat → Nat) (o : Operands) (g : Group) : Group :=
  alu f (fun a b c => fn (negIf f 5 a) (negIf f 6 b) (negIf f 7 c)) o g

def execFadd (g : GroupLoc) (f : RegForm) (s : State) : Host.Outcome State Fault Refusal :=
  .next (State.runReg s 0x20 (shape2 0x3E0) g f (falu f (fun a b _ => fAdd (roundOf f) a b)))

def execFmul (g : GroupLoc) (f : RegForm) (s : State) : Host.Outcome State Fault Refusal :=
  .next (State.runReg s 0x21 (shape2 0x3E0) g f (falu f (fun a b _ => fMul (roundOf f) a b)))

def execFfma (g : GroupLoc) (f : RegForm) (s : State) : Host.Outcome State Fault Refusal :=
  .next (State.runReg s 0x22 (shape3 0x3E0) g f (falu f (fun a b c => fFma (roundOf f) a b c)))

/-- `fmin` and `fmax` take the SUB fields of R107: the rounding field and SUB[7] are named for them, and have nothing to act on (DEDUCED,
assumption 110). -/
def execFmin (g : GroupLoc) (f : RegForm) (s : State) : Host.Outcome State Fault Refusal :=
  .next (State.runReg s 0x23 (shape2 0x3E0) g f (falu f (fun a b _ => fMinMax false a b)))

def execFmax (g : GroupLoc) (f : RegForm) (s : State) : Host.Outcome State Fault Refusal :=
  .next (State.runReg s 0x24 (shape2 0x3E0) g f (falu f (fun a b _ => fMinMax true a b)))

def execFcmp (g : GroupLoc) (f : RegForm) (s : State) : Host.Outcome State Fault Refusal :=
  .next (State.runReg s 0x25 { shape2 0x3E0 with d := .pred } g f
    (predAlu f (fun a b => fCmp (subField f 9 7) (negIf f 5 a) (negIf f 6 b))))

/-- The 16-bit format of SUB[9] (R108). -/
def packedFormat (f : RegForm) : Nat := if subBit f 9 then fB16 else fH16

def execHadd2 (g : GroupLoc) (f : RegForm) (s : State) : Host.Outcome State Fault Refusal :=
  .next (State.runReg s 0x26 (shape2 0x200) g f (alu f (packed2 (packedFormat f) (fun a b _ => Num.add false a b))))

def execHmul2 (g : GroupLoc) (f : RegForm) (s : State) : Host.Outcome State Fault Refusal :=
  .next (State.runReg s 0x27 (shape2 0x200) g f (alu f (packed2 (packedFormat f) (fun a b _ => Num.mul a b))))

def execHfma2 (g : GroupLoc) (f : RegForm) (s : State) : Host.Outcome State Fault Refusal :=
  .next (State.runReg s 0x28 (shape3 0x200) g f
    (alu f (packed2 (packedFormat f) (fun a b c => Num.add false (Num.mul a b) c))))

/-- `cvt` (R109): source SUB[9:6], destination SUB[5:2], rounding SUB[1:0]; S64 is neither. -/
def execCvt (g : GroupLoc) (f : RegForm) (s : State) : Host.Outcome State Fault Refusal :=
  let src := subField f 9 6
  let dst := subField f 5 2
  let mode := if subField f 1 0 = 0 then Round.rne else Round.rtz
  .next (State.runReg s 0x29 { shape1 0x3FF with reserved := decide (8 < src ∨ 8 < dst ∨ 2 ≤ subField f 1 0) } g f
    (alu f (fun a _ _ => (convertNum src dst mode false (a % 2 ^ formatBits src)).bits)))

/-- `sfn` (R111). -/
def execSfn (g : GroupLoc) (f : RegForm) (s : State) : Host.Outcome State Fault Refusal :=
  .next (State.runReg s 0x2A { shape1 7 with reserved := decide (6 ≤ subField f 2 0) } g f
    (alu f (fun a _ _ => sfnFn (subField f 2 0) a)))

end Sys2Proof.Machine
end

