-- ==== Sys2Proof/Machine/Groups.lean ====
section
/-!
DEFINITION. `coll` (R401 to R404), the collective groups (R398 to R400), the ring watchdog (R423) and the checkpoint (R418 to R420).
-/

namespace Sys2Proof.Machine

/-! ### `coll` -/

/-- Fields of Table 14.2 that must hold a fixed value (R101). -/
def collIllegal (f : RegForm) : Option Nat := firstSome [chainIllegal f, check (decide (f.ext ≠ 0)) 0]

/-- The collective group a descriptor names, when it is set up and usable. -/
def State.collGroup (s : State) (k : Nat) : Option CollGroup := (State.coll s k).bind (fun g => if CollGroup.usable g then some g else none)

/-- The first page of an operand is homed on another module, as far as its translation is at hand (check 0x06). -/
def State.homedElsewhere (s : State) (c ea : Nat) : Bool :=
  match (pageOf ea).bind (State.pageFor s c) with
  | some t => decide (t.home ≠ s.moduleNumber)
  | none => false

/-- The member uses SRC, DST (R402, R578): a broadcast reads at its root alone, a reduction to a root writes there alone. -/
def CollDesc.usesSrc (d : CollDesc) (pos : Nat) : Bool := decide (d.opn ≠ 3 ∨ pos = d.root)
def CollDesc.usesDst (d : CollDesc) (pos : Nat) : Bool := decide (d.opn ≠ 4 ∨ pos = d.root)

/-- SRC and DST of the member share a byte without being equal, or are equal in an operation other than all-reduce. -/
def CollDesc.overlap (d : CollDesc) (p pos : Nat) : Bool :=
  let a := 4 * (CollDesc.srcSpan d p pos).2
  let b := 4 * (CollDesc.dstSpan d p pos).2
  let meet := CollDesc.usesSrc d pos && CollDesc.usesDst d pos && decide (d.src < d.dst + b ∧ d.dst < d.src + a)
  if d.src = d.dst ∧ a = b then decide (d.opn ≠ 0) && meet else meet

/-- The lowest-numbered check of Table 14.4 that fails. -/
def State.collFailure (s : State) (g : GroupLoc) (grp : Group) (f : RegForm) (v : Nat) : Option Nat :=
  let x := State.cell s g.cell
  match descriptorAt 64 v with
  | none => some 1
  | some a =>
    let d := collDesc (Cell.localNat x a 64)
    let own := State.collGroup s d.group
    let p := own.elim 1 CollGroup.p
    let pos := own.elim 0 (fun q => q.pos)
    failedCheck
      [(2, decide (subField f 9 6 ≠ 0) || (!cntEn f && decide (subField f 4 0 ≠ 0)) || decide (d.rest ≠ 0 ∨ 5 ≤ d.opn) || (!d.wblk && decide (d.wfmt ≠ 0))),
       (3, match own with
         | none => true
         | some q => decide (q.tag ≠ grp.job ∨ q.anchor ≠ g.cell)),
       (4, decide (d.fmt ≠ 0 ∧ d.fmt ≠ fI32) || (d.wblk && decide (d.fmt = fI32 ∨ (d.wfmt ≠ fE4 ∧ d.wfmt ≠ fE5 ∧ d.wfmt ≠ fI8) ∨ d.opn = 2 ∨ d.opn = 3
         ∨ d.alg = 1 ∨ d.alg = 3))),
       (5, decide (d.count = 0 ∨ 2 ^ 28 < d.count) || (if d.opn = 3 ∨ d.opn = 4 then decide (p ≤ d.root) else decide (d.root ≠ 0))),
       (6, (CollDesc.usesSrc d pos && (decide (d.src % 256 ≠ 0) || State.homedElsewhere s g.cell d.src))
         || (CollDesc.usesDst d pos && (decide (d.dst % 256 ≠ 0) || State.homedElsewhere s g.cell d.dst)) || CollDesc.overlap d p pos),
       (7, decide (d.result % 16 ≠ 0 ∨ localSize < d.result + 16) || (x.reservation && decide (0x70000 < d.result + 16)))]

/-- SRC and DST as far as the member uses them, with what it wants there; without a group of that number all are. -/
def State.collUses (s : State) (d : CollDesc) : List (Nat × Want) :=
  let pos := (State.collGroup s d.group).map (·.pos)
  (if pos.elim true (CollDesc.usesSrc d) then [(d.src, Want.read)] else []) ++ (if pos.elim true (CollDesc.usesDst d) then [(d.dst, Want.write)] else [])

/-- WINDOW_MISS, then PERMISSION, of the first pages of SRC and DST (R403). -/
def State.collAccess (s : State) (c : Nat) (grp : Group) (d : CollDesc) : Option ParkCause :=
  let park (code detail addr : Nat) : ParkCause := { code := code, detail := detail, addr := addr, lanes := 0, epoch := 0 }
  let miss (ea : Nat) : Option ParkCause := if ((pageOf ea).bind (State.pageFor s c)).isNone then some (park 0x02 0 ea) else none
  let deny (ea : Nat) (w : Want) : Option ParkCause :=
    (((pageOf ea).bind (State.pageFor s c)).bind (fun t => permission t grp.job w)).map (fun n => park 0x03 n ea)
  let used := State.collUses s d
  firstSome (used.map (fun u => miss u.1) ++ used.map (fun u => deny u.1 u.2))

/-- Everything that parks a `coll` after ILLEGAL (R85, R403). -/
def State.collPark (s : State) (g : GroupLoc) (f : RegForm) (grp : Group) : Option ParkCause :=
  let x := State.cell s g.cell
  let v := Group.uni grp (f.sa.toNat % 64)
  firstSome [operandPark grp grp.active.toNat .uni f.sa.toNat true, if (descriptorAt 64 v).isNone then none else wordsPark x [(v, 64)],
    epochStale x grp true, completionRange x grp (cntEn f) (subField f 4 0), badDescriptor (State.collFailure s g grp f v),
    State.collAccess s g.cell grp (collDesc (Cell.localNat x v 64)), reservedPark x (descriptorRange 64 v)]

/-- A collective that has passed its checks takes a slot of P3 and goes to the engine; a group that has lost a member completes it at once
(R404, R415). -/
def State.acceptColl (s : State) (g : GroupLoc) (grp : Group) (f : RegForm) : State :=
  let x := State.cell s g.cell
  let v := Cell.localNat x (Group.uni grp (f.sa.toNat % 64)) 64
  let d := collDesc v
  let ts := (State.collUses s d).filterMap (fun u => (pageOf u.1).bind (State.pageFor s g.cell))
  let fromRegion := dedupe (ts.filter (fun t => (Cell.translation x t.vpn).isNone))
  let o : CollOp :=
    { desc := BitVec.ofNat 512 v, cell := g.cell, slot := g.slot, job := grp.job, epoch := BitVec.ofNat 16 (Group.epoch grp), counter := counterArg f
      step := x.sieve.step, recipe := (State.job s grp.job).recipe }
  let s := if fromRegion.isEmpty then s else State.count s .wcHit 0 (regionOf g.cell) fromRegion.length
  let s := State.modCell s g.cell (fun x =>
    let y := Cell.setGroup (ts.foldl Cell.fillLookaside x) g.slot (Group.advance grp 0)
    { y with colls := y.colls + 1 })
  match State.coll s d.group with
  | none => s
  | some q =>
    match q.lost with
    | some m => State.modColl (State.finishColl s d.group q (CollOp.begin_ o) 2 m) d.group (fun y => { q with touched := y.touched })
    | none => State.setColl s d.group { q with queue := q.queue ++ [o] }

/-- `coll` (R401, R403, R404): the checks; then, while the job's checkpoint drains (R418) or a newer epoch is awaited (R125), the group is held,
and while no slot is free it waits. -/
def execColl (g : GroupLoc) (f : RegForm) (s : State) : Host.Outcome State Fault Refusal :=
  let s := State.reads s g (regWords 0xA0 f) (fun grp => descriptorRange 64 (Group.uni grp (f.sa.toNat % 64)))
  .next (State.runUnit s g (regWords 0xA0 f) (fun _ => collIllegal f) (State.collPark s g f) (fun grp =>
    let x := State.cell s g.cell
    let draining := match (State.job s grp.job).checkpoint with
      | some k => decide (2 ≤ k.phase)
      | none => false
    if draining || Cell.epochNewer x grp.job (Group.epoch grp) then some (State.setGroup s g { grp with hold := .epoch })
    else if x.copies.length + x.colls < 48 then some (State.acceptColl s g grp f)
    else none))

/-! ### Groups (R399, R400, R428) -/

/-- The header of a setup block (Table 14.1). -/
structure SetupHeader where
  group : Nat
  tag : Half
  members : Nat
  pos : Nat
  region : Nat
  block : Nat
  cell : Nat
  stage : Nat
  bufs : Nat
  rest : Nat
  deriving DecidableEq, Repr, Inhabited

def setupHeader (v : Nat) : SetupHeader :=
  { group := bits v 511 508, tag := BitVec.ofNat 16 (bits v 507 492), members := bits v 491 477, pos := bits v 476 463, region := bits v 462 460
    block := bits v 459 457, cell := bits v 456 454, stage := bits v 453 435, bufs := bits v 434 430, rest := bits v 429 0 }

def SetupHeader.anchor (h : SetupHeader) : Nat := 48 * h.region + 6 * h.block + h.cell

/-- Results 1, 2 and 4 of collective setup. -/
def State.setupResult (s : State) (h : SetupHeader) (members : List Half) : Nat :=
  if 12 ≤ h.group ∨ h.tag = 0 ∨ h.members = 0 ∨ 16384 < h.members ∨ members.length ≠ h.members ∨ h.members ≤ h.pos ∨ 6 ≤ h.cell ∨ h.bufs < 2
      ∨ 16 < h.bufs ∨ h.rest ≠ 0 ∨ members.any (fun m => decide (16384 ≤ m.toNat)) ∨ (members.getD h.pos 0).toNat ≠ s.moduleNumber then 1
  else if (State.coll s h.group).isSome then 2
  else if h.stage % 8192 ≠ 0
      ∨ (if (State.cell s (SetupHeader.anchor h)).reservation then 0x70000 else 0x80000) < h.stage + 8192 * h.bufs then 4
  else 0

/-- A SETUP message confirms its sender's position when all it carries agrees with the group (R399). -/
def CollGroup.confirm (g : CollGroup) (m : SetupMessage) : CollGroup :=
  if m.tag = g.tag ∧ m.members = CollGroup.p g ∧ m.receiverPos = g.pos ∧ CollGroup.module g m.senderPos = m.sender ∧ !g.confirmed.contains m.senderPos then
    { g with confirmed := g.confirmed ++ [m.senderPos] }
  else g

def CollGroup.unconfirmed (g : CollGroup) : List Nat := (partnersOf (CollGroup.p g) g.pos).filter (fun j => !g.confirmed.contains j)

/-- How long collective setup waits for its partners (Table 14.8). -/
def setupBound (members : Nat) : Nat := 100000000 + 1000 * members

/-- A setup command that waits: done when every partner has confirmed, result 3 with the missing positions at the bound. -/
def State.checkSetup (s : State) (mb : Nat) (k : Running) : State :=
  match k.values with
  | [gid] =>
    match State.coll s gid with
    | none => s
    | some g =>
      let missing := CollGroup.unconfirmed g
      if missing.isEmpty then State.complete s mb 0 []
      else if k.since + (setupBound (CollGroup.p g) : Nat) ≤ (s.timebase : Int) then State.completeReport s mb 3 missing
      else State.modMailbox s mb (fun m => { m with report := missing })
  | _ => s

/-- `COLLECTIVE_SETUP` (0x0500): the checks, the group table, and a SETUP message to every partner. -/
def execCollectiveSetup (mb : Nat) (header : BitVec 512) (members : List (BitVec 16)) (s : State) : Host.Outcome State Fault Refusal :=
  match State.runs s mb 0x0500 with
  | none => .next s
  | some k =>
    if k.stage = 1 then .next (State.checkSetup s mb k)
    else
      .next (State.reading s mb (fun s =>
        let h := setupHeader header.toNat
        match State.setupResult s h members with
        | 0 =>
          let g : CollGroup :=
            { tag := h.tag, members := members.map BitVec.toNat, pos := h.pos, anchor := SetupHeader.anchor h, stage := h.stage, bufs := h.bufs
              confirmed := [], lost := none, grants := [], queue := [], run := none, touched := false }
          let lost := g.members.find? (fun m => (NMap.find s.fabric.failed m).isSome)
          let mine := s.fabric.early.filter (fun m => decide (m.group = h.group))
          let g := mine.foldl CollGroup.confirm { g with lost := lost }
          let s := State.setColl { s with fabric := { s.fabric with early := s.fabric.early.filter (fun m => decide (m.group ≠ h.group)) } } h.group g
          let s := (partnersOf (CollGroup.p g) g.pos).foldl (fun s j =>
            State.emit s (.fabric (CollGroup.module g j) (.setup
              { group := h.group, tag := h.tag, members := CollGroup.p g, senderPos := g.pos, receiverPos := j, sender := s.moduleNumber }))) s
          let k := { k with stage := 1, values := [h.group], since := s.timebase }
          State.checkSetup (State.modMailbox s mb (fun m => { m with running := some k })) mb k
        | n => State.complete s mb n []))

/-- `SETUP` (R399): a partner's message confirms it, now or when the group is set up; a setup command that waited for it may complete. -/
def execSetup (m : SetupMessage) (s : State) : Host.Outcome State Fault Refusal :=
  match State.coll s m.group with
  | none => .next { s with fabric := { s.fabric with early := s.fabric.early ++ [m] } }
  | some g =>
    let s := State.setColl s m.group (CollGroup.confirm g m)
    .next ((List.range 16).foldl (fun s mb =>
      match State.runs s mb 0x0500 with
      | some k => if k.stage = 1 then State.checkSetup s mb k else s
      | none => s) s)

/-- `COLLECTIVE_RELEASE` (0x0501): 1 while collectives are queued. What the staging area holds afterwards the spec does not say. -/
def execCollectiveRelease (mb group : Nat) (s : State) : Host.Outcome State Fault Refusal :=
  State.command s mb 0x0501 (fun s =>
    match State.coll s group with
    | none => State.complete s mb 0 []
    | some g =>
      if g.run.isSome || !g.queue.isEmpty then State.complete s mb 1 []
      else
        let area := tabulate (8192 * g.bufs) (fun i => g.stage + i)
        let n := s.freeCount
        let s := State.modCell { s with freeCount := n + area.length + 2048 * g.bufs } g.anchor (fun x =>
          { Cell.freeView x n area with
            localPoison := (List.range (2048 * g.bufs)).foldl (fun m i =>
              NMap.set m false ((g.stage / 4 + i) % 2 ^ 17) (Config.freeBit (n + area.length + i))) x.localPoison })
        State.complete { s with groups := NMap.erase s.groups group } mb 0 [])

/-- `COLLECTIVE_STATUS` (0x0502): the group table, queue depth, failed members, and the current epoch. -/
def execCollectiveStatus (mb group dst : Nat) (s : State) : Host.Outcome State Fault Refusal :=
  State.command s mb 0x0502 (fun s =>
    match State.coll s group with
    | none => State.deliverReport s mb dst 0 []
    | some g =>
      let failed := g.members.filter (fun m => (NMap.find s.fabric.failed m).isSome)
      State.deliverReport s mb dst 0
        ([g.tag.toNat, CollGroup.p g, g.pos, g.anchor, g.stage, g.bufs] ++ g.members ++ [g.queue.length + b2n g.run.isSome] ++ failed
          ++ [((State.job s g.tag).epoch.getD 0).toNat]))

/-! ### The ring watchdog (R423) -/

/-- `RING_WATCHDOG` (0x0503): mark a counter with a period, or remove the mark; 1 when the cell has four. -/
def execRingWatchdog (mb cell counter periodMs : Nat) (s : State) : Host.Outcome State Fault Refusal :=
  State.command s mb 0x0503 (fun s =>
    let x := State.cell s cell
    if periodMs = 0 then State.complete (State.modCell s cell (fun x => { x with watch := NMap.erase x.watch counter })) mb 0 []
    else if (NMap.find x.watch counter).isNone ∧ 4 ≤ x.watch.length then State.complete s mb 1 []
    else
      let w : Watch := { period := periodMs, since := none, fired := false }
      State.complete (State.modCell s cell (fun x =>
        Cell.watchFrom { x with watch := NMap.insert x.watch counter w } counter s.timebase false)) mb 0 [])

/-- The waiting target of the group that came first. -/
def Cell.oldestTarget (x : Cell) (k : Nat) : Nat :=
  (x.groups.foldl (fun (acc : Option (Nat × Nat)) e => match e.2.hold with
    | .await j t => if j = k then (match acc with
        | some a => if e.2.age < a.1 then some (e.2.age, t.toNat) else acc
        | none => some (e.2.age, t.toNat)) else acc
    | _ => acc) none).elim 0 (fun a => a.2)

/-- `RING_WATCHDOG_EXPIRY` (R423): a stall has reached its period; once for that stall. -/
def execRingWatchdogExpiry (cell counter : Nat) (s : State) : Host.Outcome State Fault Refusal :=
  let x := State.cell s cell
  match NMap.find x.watch counter with
  | none => .next s
  | some w =>
    match w.since with
    | none => .next s
    | some t =>
      let n := (Cell.waiters x counter).length
      if w.fired ∨ n = 0 ∨ (s.timebase : Int) < t + (w.period * 1000000 : Nat) then .next s
      else
        let id := 32 * cell + counter
        let s := State.modCell s cell (fun x => { x with watch := NMap.mod x.watch counter (fun w => { w with fired := true }) })
        let s := State.count (State.raise s 0xA3 6 id 0) .ringStalls 0 cell 1
        .next (State.log s 0x0032 6 id (Cell.arrival x counter).tag [id, (Cell.arrival x counter).value.toNat, Cell.oldestTarget x counter, n])

/-! ### Checkpoints (R418 to R420) -/

/-- Collectives of a job that are accepted and not complete. -/
def State.pendingColls (s : State) (tag : Half) : Nat :=
  (s.groups.map (fun g => if g.2.tag = tag then g.2.queue.length + b2n g.2.run.isSome else 0)).foldl (· + ·) 0

/-- `CHECKPOINT` (0x0600): QUIESCE and DRAIN (steps 1 and 2 of Table 14.7); the job's placement stops and its new `coll` are held. -/
def execCheckpoint (mb : Nat) (tag : BitVec 16) (timeoutMs : Nat) (s : State) : Host.Outcome State Fault Refusal :=
  match State.runs s mb 0x0600 with
  | none => .next s
  | some k =>
    if k.stage = 1 ∨ (State.job s tag).checkpoint.isSome then .next s
    else
      let n := State.pendingColls s tag
      let c : Checkpoint := { mailbox := mb, phase := 2, started := s.timebase, timeout := timeoutMs, drained := n }
      let s := State.modJob s tag (fun j => { j with checkpoint := some c })
      .next (State.modMailbox s mb (fun m => { m with running := some { k with stage := 1, values := [tag.toNat] }, report := [2, n] }))

/-- The cells that hold a job: they keep its epoch, or run its groups. -/
def Cell.holdsJob (x : Cell) (tag : Half) : Bool :=
  decide (x.lastJob = tag) || (NMap.find x.epochs tag.toNat).isSome || x.groups.any (fun e => decide (e.2.job = tag))

/-- `CHECKPOINT_BUMP` (R418, R419): with the job's queues empty, the epoch advances in the module and in every cell that holds the job, pending
remaps run, and placement resumes. -/
def execCheckpointBump (tag : BitVec 16) (s : State) : Host.Outcome State Fault Refusal :=
  match (State.job s tag).checkpoint with
  | none => .next s
  | some k =>
    if State.pendingColls s tag ≠ 0 then .next s
    else
      let e := (State.job s tag).epoch.getD 0 + 1
      let s := State.modJob s tag (fun j => { j with epoch := some e, checkpoint := none })
      let s := { s with cells := s.cells.map (fun c =>
        if Cell.holdsJob c.2 tag then (c.1, { c.2 with epochs := NMap.set c.2.epochs 0 tag.toNat e }) else c) }
      let r := State.remapAll s
      .next (State.completeReport r.1 k.mailbox 0 [5, k.drained, e.toNat, r.2.1, r.2.2])

/-- `CHECKPOINT_TIMEOUT` (R418): the timeout ends before the bump: placement and the held `coll` resume under the old epoch; result 1. -/
def execCheckpointTimeout (tag : BitVec 16) (s : State) : Host.Outcome State Fault Refusal :=
  match (State.job s tag).checkpoint with
  | none => .next s
  | some k =>
    if (s.timebase : Int) < k.started + (k.timeout * 1000000 : Nat) then .next s
    else
      let n := State.pendingColls s tag
      let s := State.modJob s tag (fun j => { j with checkpoint := none })
      .next (State.completeReport s k.mailbox 1 [2, k.drained - n, ((State.job s tag).epoch.getD 0).toNat, 0, 0])

end Sys2Proof.Machine
end

