-- ==== Sys2Proof/Machine/Dispatch.lean ====
section
/-!
DEFINITION. The dispatch of a command to its meaning: one arm per constructor of Instr, in the order of the opcode table.
-/

namespace Sys2Proof.Machine

def exec (i : Instr) (s : State) : Host.Outcome State Fault Refusal :=
  match i with
  | .auxPowerOn straps sealClosed jumper => Sys2Proof.Machine.execAuxPowerOn straps sealClosed jumper s
  | .auxInputLoss => Sys2Proof.Machine.execAuxInputLoss s
  | .pwrEnAssert => Sys2Proof.Machine.execPwrEnAssert s
  | .startupBegin o => Sys2Proof.Machine.execStartupBegin o s
  | .pwrEnDeassert => Sys2Proof.Machine.execPwrEnDeassert s
  | .mainInputDip ns mV => Sys2Proof.Machine.execMainInputDip ns mV s
  | .mainInputLoss ns mV => Sys2Proof.Machine.execMainInputLoss ns mV s
  | .mainInputOvervoltage ns mV => Sys2Proof.Machine.execMainInputOvervoltage ns mV s
  | .thermalTrip sensor celsius => Sys2Proof.Machine.execThermalTrip sensor celsius s
  | .thermtripRelease => Sys2Proof.Machine.execThermtripRelease s
  | .timebaseTick => Sys2Proof.Machine.execTimebaseTick s
  | .paceInterval region monitors temp => Sys2Proof.Machine.execPaceInterval region monitors temp s
  | .presBtnPress => Sys2Proof.Machine.execPresBtnPress s
  | .presJmpChange asserted => Sys2Proof.Machine.execPresJmpChange asserted s
  | .sealLoopOpen => Sys2Proof.Machine.execSealLoopOpen s
  | .pcieReset => Sys2Proof.Machine.execPcieReset s
  | .memoryWindowRead offset len => Sys2Proof.Machine.execMemoryWindowRead offset len s
  | .memoryWindowWrite offset w => Sys2Proof.Machine.execMemoryWindowWrite offset w s
  | .controlWindowBadAccess offset len isWrite => Sys2Proof.Machine.execControlWindowBadAccess offset len isWrite s
  | .registerWrite offset wide value => Sys2Proof.Machine.execRegisterWrite offset wide value s
  | .w1cFlagWrite offset wide value => Sys2Proof.Machine.execW1cFlagWrite offset wide value s
  | .doorbellWrite mailbox wide value => Sys2Proof.Machine.execDoorbellWrite mailbox wide value s
  | .launchRingTailWrite ring tail => Sys2Proof.Machine.execLaunchRingTailWrite ring tail s
  | .groupPlace ring => Sys2Proof.Machine.execGroupPlace ring s
  | .statusRewrite => Sys2Proof.Machine.execStatusRewrite s
  | .bakerWatchdogRestart => Sys2Proof.Machine.execBakerWatchdogRestart s
  | .smbSetPointer value pecOk => Sys2Proof.Machine.execSmbSetPointer value pecOk s
  | .smbBlockRead => Sys2Proof.Machine.execSmbBlockRead s
  | .smbBlockWrite bytes pecOk => Sys2Proof.Machine.execSmbBlockWrite bytes pecOk s
  | .smbStatusRead => Sys2Proof.Machine.execSmbStatusRead s
  | .oobDoorbellWrite bytes pecOk => Sys2Proof.Machine.execOobDoorbellWrite bytes pecOk s
  | .identityCmd mb dst => Sys2Proof.Machine.execIdentityCmd mb dst s
  | .capability mb dst => Sys2Proof.Machine.execCapability mb dst s
  | .cancel mb target => Sys2Proof.Machine.execCancel mb target s
  | .statusMirror mb addr => Sys2Proof.Machine.execStatusMirror mb addr s
  | .powerStatus mb dst mV mA watts => Sys2Proof.Machine.execPowerStatus mb dst mV mA watts s
  | .operatingPoint mb mask mode setpointMv => Sys2Proof.Machine.execOperatingPoint mb mask mode setpointMv s
  | .powerLimitSet mb watts => Sys2Proof.Machine.execPowerLimitSet mb watts s
  | .regionPowerOff mb region => Sys2Proof.Machine.execRegionPowerOff mb region s
  | .regionPowerOn mb region => Sys2Proof.Machine.execRegionPowerOn mb region s
  | .moduleResetGraceful mb => Sys2Proof.Machine.execModuleResetGraceful mb s
  | .moduleResetForced mb => Sys2Proof.Machine.execModuleResetForced mb s
  | .windowMap mb entries => Sys2Proof.Machine.execWindowMap mb entries s
  | .windowUnmap mb sel => Sys2Proof.Machine.execWindowUnmap mb sel s
  | .windowQuery mb first count dst => Sys2Proof.Machine.execWindowQuery mb first count dst s
  | .ownerSet mb pa pages tag => Sys2Proof.Machine.execOwnerSet mb pa pages tag s
  | .memoryClear mb pa pages => Sys2Proof.Machine.execMemoryClear mb pa pages s
  | .apertureSet mb aperture => Sys2Proof.Machine.execApertureSet mb aperture s
  | .interleaveSet mb gib => Sys2Proof.Machine.execInterleaveSet mb gib s
  | .unpin mb sel => Sys2Proof.Machine.execUnpin mb sel s
  | .scrub mb mask pa gib hours found => Sys2Proof.Machine.execScrub mb mask pa gib hours found s
  | .memoryHealth mb dst => Sys2Proof.Machine.execMemoryHealth mb dst s
  | .ringCreate mb a => Sys2Proof.Machine.execRingCreate mb a s
  | .ringDestroy mb ring => Sys2Proof.Machine.execRingDestroy mb ring s
  | .jobRelease mb tag => Sys2Proof.Machine.execJobRelease mb tag s
  | .jobStatus mb tag dst => Sys2Proof.Machine.execJobStatus mb tag dst s
  | .parkListRead mb tag dst limit => Sys2Proof.Machine.execParkListRead mb tag dst limit s
  | .parkStateRead mb g stamp selector dst => Sys2Proof.Machine.execParkStateRead mb g stamp selector dst s
  | .parkStateWrite mb g stamp selector data => Sys2Proof.Machine.execParkStateWrite mb g stamp selector data s
  | .parkReplay mb g stamp => Sys2Proof.Machine.execParkReplay mb g stamp s
  | .parkDiscard mb g stamp => Sys2Proof.Machine.execParkDiscard mb g stamp s
  | .fabricConfigure mb module dim timeoutMs => Sys2Proof.Machine.execFabricConfigure mb module dim timeoutMs s
  | .fabricStatus mb dst => Sys2Proof.Machine.execFabricStatus mb dst s
  | .linkStatus mb region port dst readings => Sys2Proof.Machine.execLinkStatus mb region port dst readings s
  | .linkRetrain mb region port => Sys2Proof.Machine.execLinkRetrain mb region port s
  | .linkDisable mb region port => Sys2Proof.Machine.execLinkDisable mb region port s
  | .linkEnable mb region port => Sys2Proof.Machine.execLinkEnable mb region port s
  | .collectiveSetup mb header members => Sys2Proof.Machine.execCollectiveSetup mb header members s
  | .collectiveRelease mb group => Sys2Proof.Machine.execCollectiveRelease mb group s
  | .collectiveStatus mb group dst => Sys2Proof.Machine.execCollectiveStatus mb group dst s
  | .ringWatchdog mb cell counter periodMs => Sys2Proof.Machine.execRingWatchdog mb cell counter periodMs s
  | .checkpoint mb tag timeoutMs => Sys2Proof.Machine.execCheckpoint mb tag timeoutMs s
  | .checkpointBump tag => Sys2Proof.Machine.execCheckpointBump tag s
  | .checkpointTimeout tag => Sys2Proof.Machine.execCheckpointTimeout tag s
  | .selfTest mb cells failed => Sys2Proof.Machine.execSelfTest mb cells failed s
  | .recipeSet mb tag on => Sys2Proof.Machine.execRecipeSet mb tag on s
  | .tastingRun mb a files => Sys2Proof.Machine.execTastingRun mb a files s
  | .scaleConfigure mb first count word => Sys2Proof.Machine.execScaleConfigure mb first count word s
  | .scaleRead mb first count dst => Sys2Proof.Machine.execScaleRead mb first count dst s
  | .sieveRead mb slot dst => Sys2Proof.Machine.execSieveRead mb slot dst s
  | .counterRead mb selectors dst => Sys2Proof.Machine.execCounterRead mb selectors dst s
  | .counterClear mb selectors paceMin errMask lowMask timeMask => Sys2Proof.Machine.execCounterClear mb selectors paceMin errMask lowMask timeMask s
  | .alarmRead mb dst limit ack => Sys2Proof.Machine.execAlarmRead mb dst limit ack s
  | .logRetrieve mb first count dst => Sys2Proof.Machine.execLogRetrieve mb first count dst s
  | .traceConfigure mb mask rates ring size => Sys2Proof.Machine.execTraceConfigure mb mask rates ring size s
  | .firmwareUpdate mb length version signatureOk => Sys2Proof.Machine.execFirmwareUpdate mb length version signatureOk s
  | .debugUnlock mb => Sys2Proof.Machine.execDebugUnlock mb s
  | .debugLock mb => Sys2Proof.Machine.execDebugLock mb s
  | .fuseProgram mb word value => Sys2Proof.Machine.execFuseProgram mb word value s
  | .sealRearm mb => Sys2Proof.Machine.execSealRearm mb s
  | .scrubOverride mb mask pa gib action => Sys2Proof.Machine.execScrubOverride mb mask pa gib action s
  | .benchProgramme mb records => Sys2Proof.Machine.execBenchProgramme mb records s
  | .benchCancel mb programme => Sys2Proof.Machine.execBenchCancel mb programme s
  | .laneRestore mb region port mask => Sys2Proof.Machine.execLaneRestore mb region port mask s
  | .nop g f => Sys2Proof.Machine.execNop g f s
  | .iadd g f => Sys2Proof.Machine.execIadd g f s
  | .isub g f => Sys2Proof.Machine.execIsub g f s
  | .imul g f => Sys2Proof.Machine.execImul g f s
  | .imulhi g f => Sys2Proof.Machine.execImulhi g f s
  | .imad g f => Sys2Proof.Machine.execImad g f s
  | .imin g f => Sys2Proof.Machine.execImin g f s
  | .imax g f => Sys2Proof.Machine.execImax g f s
  | .iabs g f => Sys2Proof.Machine.execIabs g f s
  | .ishl g f => Sys2Proof.Machine.execIshl g f s
  | .ishr g f => Sys2Proof.Machine.execIshr g f s
  | .blut g f => Sys2Proof.Machine.execBlut g f s
  | .popc g f => Sys2Proof.Machine.execPopc g f s
  | .clz g f => Sys2Proof.Machine.execClz g f s
  | .brev g f => Sys2Proof.Machine.execBrev g f s
  | .bfe g f => Sys2Proof.Machine.execBfe g f s
  | .bfi g f => Sys2Proof.Machine.execBfi g f s
  | .shf g f => Sys2Proof.Machine.execShf g f s
  | .sel g f => Sys2Proof.Machine.execSel g f s
  | .mov g f => Sys2Proof.Machine.execMov g f s
  | .iadd64 g f => Sys2Proof.Machine.execIadd64 g f s
  | .imadw g f => Sys2Proof.Machine.execImadw g f s
  | .icmp g f => Sys2Proof.Machine.execIcmp g f s
  | .plop g f => Sys2Proof.Machine.execPlop g f s
  | .fadd g f => Sys2Proof.Machine.execFadd g f s
  | .fmul g f => Sys2Proof.Machine.execFmul g f s
  | .ffma g f => Sys2Proof.Machine.execFfma g f s
  | .fmin g f => Sys2Proof.Machine.execFmin g f s
  | .fmax g f => Sys2Proof.Machine.execFmax g f s
  | .fcmp g f => Sys2Proof.Machine.execFcmp g f s
  | .hadd2 g f => Sys2Proof.Machine.execHadd2 g f s
  | .hmul2 g f => Sys2Proof.Machine.execHmul2 g f s
  | .hfma2 g f => Sys2Proof.Machine.execHfma2 g f s
  | .cvt g f => Sys2Proof.Machine.execCvt g f s
  | .sfn g f => Sys2Proof.Machine.execSfn g f s
  | .ualu g f => Sys2Proof.Machine.execUalu g f s
  | .threadToUniform g f => Sys2Proof.Machine.execThreadToUniform g f s
  | .srd g f => Sys2Proof.Machine.execSrd g f s
  | .vote g f => Sys2Proof.Machine.execVote g f s
  | .shfl g f => Sys2Proof.Machine.execShfl g f s
  | .bra g f => Sys2Proof.Machine.execBra g f s
  | .call g f => Sys2Proof.Machine.execCall g f s
  | .ret g f => Sys2Proof.Machine.execRet g f s
  | .split g f => Sys2Proof.Machine.execSplit g f s
  | .join g f => Sys2Proof.Machine.execJoin g f s
  | .exit g f => Sys2Proof.Machine.execExit g f s
  | .brk g f => Sys2Proof.Machine.execBrk g f s
  | .unassignedOpcode g w => Sys2Proof.Machine.execUnassignedOpcode g w s
  | .ld g f => Sys2Proof.Machine.execLd g f s
  | .st g f => Sys2Proof.Machine.execSt g f s
  | .atomAdd g f => Sys2Proof.Machine.execAtomAdd g f s
  | .atomMin g f => Sys2Proof.Machine.execAtomMin g f s
  | .atomMax g f => Sys2Proof.Machine.execAtomMax g f s
  | .atomAnd g f => Sys2Proof.Machine.execAtomAnd g f s
  | .atomOr g f => Sys2Proof.Machine.execAtomOr g f s
  | .atomXor g f => Sys2Proof.Machine.execAtomXor g f s
  | .atomXch g f => Sys2Proof.Machine.execAtomXch g f s
  | .atomCas g f => Sys2Proof.Machine.execAtomCas g f s
  | .atomFadd g f => Sys2Proof.Machine.execAtomFadd g f s
  | .fence g f => Sys2Proof.Machine.execFence g f s
  | .inval g f => Sys2Proof.Machine.execInval g f s
  | .copy g f => Sys2Proof.Machine.execCopy g f s
  | .await g f => Sys2Proof.Machine.execAwait g f s
  | .cntSet g f => Sys2Proof.Machine.execCntSet g f s
  | .cntAdd g f => Sys2Proof.Machine.execCntAdd g f s
  | .cntRead g f => Sys2Proof.Machine.execCntRead g f s
  | .notify g f => Sys2Proof.Machine.execNotify g f s
  | .rnd g f => Sys2Proof.Machine.execRnd g f s
  | .step g f => Sys2Proof.Machine.execStep g f s
  | .mma g f => Sys2Proof.Machine.execMma g f s
  | .mslcConfig g f => Sys2Proof.Machine.execMslcConfig g f s
  | .mslcClaim g f => Sys2Proof.Machine.execMslcClaim g f s
  | .mslcRelease g f => Sys2Proof.Machine.execMslcRelease g f s
  | .mslcQuery g f => Sys2Proof.Machine.execMslcQuery g f s
  | .dopn g f => Sys2Proof.Machine.execDopn g f s
  | .drn g f => Sys2Proof.Machine.execDrn g f s
  | .dcls g f => Sys2Proof.Machine.execDcls g f s
  | .dqry g f => Sys2Proof.Machine.execDqry g f s
  | .chn g f => Sys2Proof.Machine.execChn g f s
  | .chstReadClear g f => Sys2Proof.Machine.execChstReadClear g f s
  | .chstReadOnly g f => Sys2Proof.Machine.execChstReadOnly g f s
  | .spk g f => Sys2Proof.Machine.execSpk g f s
  | .sgl g f => Sys2Proof.Machine.execSgl g f s
  | .sxp g f => Sys2Proof.Machine.execSxp g f s
  | .coll g f => Sys2Proof.Machine.execColl g f s
  | .instructionFetch g => Sys2Proof.Machine.execInstructionFetch g s
  | .lookasideFill g => Sys2Proof.Machine.execLookasideFill g s
  | .maskStackSpill g => Sys2Proof.Machine.execMaskStackSpill g s
  | .maskStackReload g => Sys2Proof.Machine.execMaskStackReload g s
  | .lineFill cell id => Sys2Proof.Machine.execLineFill cell id s
  | .groupRetire g => Sys2Proof.Machine.execGroupRetire g s
  | .parkNotice g => Sys2Proof.Machine.execParkNotice g s
  | .groupReplay g => Sys2Proof.Machine.execGroupReplay g s
  | .launchRecordDone launch => Sys2Proof.Machine.execLaunchRecordDone launch s
  | .counterIncrement cell counter amount => Sys2Proof.Machine.execCounterIncrement cell counter amount s
  | .copyCommand cell slot => Sys2Proof.Machine.execCopyCommand cell slot s
  | .copyComplete cell slot => Sys2Proof.Machine.execCopyComplete cell slot s
  | .copyNotify cell slot => Sys2Proof.Machine.execCopyNotify cell slot s
  | .homeRequest id => Sys2Proof.Machine.execHomeRequest id s
  | .stackCommandComplete id sectors => Sys2Proof.Machine.execStackCommandComplete id sectors s
  | .rowSpare channel bank row => Sys2Proof.Machine.execRowSpare channel bank row s
  | .patrolScrub region offset outcome => Sys2Proof.Machine.execPatrolScrub region offset outcome s
  | .rampStartDone cell slice => Sys2Proof.Machine.execRampStartDone cell slice s
  | .mmaOperandRelease cell slice => Sys2Proof.Machine.execMmaOperandRelease cell slice s
  | .dopnPreloadDone cell slice drawer => Sys2Proof.Machine.execDopnPreloadDone cell slice drawer s
  | .drainStart cell slice drawer => Sys2Proof.Machine.execDrainStart cell slice drawer s
  | .drainComplete cell slice drawer => Sys2Proof.Machine.execDrainComplete cell slice drawer s
  | .drawerClose cell slice drawer => Sys2Proof.Machine.execDrawerClose cell slice drawer s
  | .sliceHoldExpiry cell slice => Sys2Proof.Machine.execSliceHoldExpiry cell slice s
  | .rampStopDone cell slice => Sys2Proof.Machine.execRampStopDone cell slice s
  | .sliceFault cell slice => Sys2Proof.Machine.execSliceFault cell slice s
  | .waveWatchdogExpiry cell slice => Sys2Proof.Machine.execWaveWatchdogExpiry cell slice s
  | .sliceResetDone cell slice => Sys2Proof.Machine.execSliceResetDone cell slice s
  | .sliceAutoRelease cell slice => Sys2Proof.Machine.execSliceAutoRelease cell slice s
  | .chainStart cell => Sys2Proof.Machine.execChainStart cell s
  | .chainComplete cell residueError => Sys2Proof.Machine.execChainComplete cell residueError s
  | .collectivePortMap cell residueError => Sys2Proof.Machine.execCollectivePortMap cell residueError s
  | .sieveBankMerge cell => Sys2Proof.Machine.execSieveBankMerge cell s
  | .histogramContribution region slot => Sys2Proof.Machine.execHistogramContribution region slot s
  | .scaleStallExpiry slot => Sys2Proof.Machine.execScaleStallExpiry slot s
  | .scaleFetch cell slot => Sys2Proof.Machine.execScaleFetch cell slot s
  | .scaleAnswer cell slot => Sys2Proof.Machine.execScaleAnswer cell slot s
  | .satDirect slot => Sys2Proof.Machine.execSatDirect slot s
  | .rescaleReport slot => Sys2Proof.Machine.execRescaleReport slot s
  | .load q => Sys2Proof.Machine.execLoad q s
  | .store q => Sys2Proof.Machine.execStore q s
  | .atomic q => Sys2Proof.Machine.execAtomic q s
  | .get q => Sys2Proof.Machine.execGet q s
  | .put q => Sys2Proof.Machine.execPut q s
  | .notifyPacket q => Sys2Proof.Machine.execNotifyPacket q s
  | .loadData a => Sys2Proof.Machine.execLoadData a s
  | .storeAck a => Sys2Proof.Machine.execStoreAck a s
  | .atomicData a => Sys2Proof.Machine.execAtomicData a s
  | .getData a => Sys2Proof.Machine.execGetData a s
  | .putAck a => Sys2Proof.Machine.execPutAck a s
  | .notifyAck a => Sys2Proof.Machine.execNotifyAck a s
  | .rspTimeoutExpiry region entry => Sys2Proof.Machine.execRspTimeoutExpiry region entry s
  | .winQuery source vpn tag => Sys2Proof.Machine.execWinQuery source vpn tag s
  | .winReply server vpn tag entry => Sys2Proof.Machine.execWinReply server vpn tag entry s
  | .packetRoute port p => Sys2Proof.Machine.execPacketRoute port p s
  | .packagePacket source destination cls crcOk => Sys2Proof.Machine.execPackagePacket source destination cls crcOk s
  | .timeProbeTimer port => Sys2Proof.Machine.execTimeProbeTimer port s
  | .timeProbe port p => Sys2Proof.Machine.execTimeProbe port p s
  | .timeReply port t1 t2 t3 neighbour => Sys2Proof.Machine.execTimeReply port t1 t2 t3 neighbour s
  | .timeServiceSilence => Sys2Proof.Machine.execTimeServiceSilence s
  | .linkSilenceProbe neighbour => Sys2Proof.Machine.execLinkSilenceProbe neighbour s
  | .peerProbe source => Sys2Proof.Machine.execPeerProbe source s
  | .peerAck source => Sys2Proof.Machine.execPeerAck source s
  | .linkDown port cause => Sys2Proof.Machine.execLinkDown port cause s
  | .peerDown port module incarnation => Sys2Proof.Machine.execPeerDown port module incarnation s
  | .peerUp port module incarnation => Sys2Proof.Machine.execPeerUp port module incarnation s
  | .setup m => Sys2Proof.Machine.execSetup m s
  | .collectiveStart group => Sys2Proof.Machine.execCollectiveStart group s
  | .segGrant group source => Sys2Proof.Machine.execSegGrant group source s
  | .collectiveSegment m => Sys2Proof.Machine.execCollectiveSegment m s
  | .collectiveComplete group => Sys2Proof.Machine.execCollectiveComplete group s
  | .colAbort group source => Sys2Proof.Machine.execColAbort group source s
  | .segmentTimeout group => Sys2Proof.Machine.execSegmentTimeout group s
  | .ringWatchdogExpiry cell counter => Sys2Proof.Machine.execRingWatchdogExpiry cell counter s
  | .laserMeasure port goodA goodB dbm10A dbm10B dark => Sys2Proof.Machine.execLaserMeasure port goodA goodB dbm10A dbm10B dark s
  | .codeword port lane c => Sys2Proof.Machine.execCodeword port lane c s
  | .dataFlit port f => Sys2Proof.Machine.execDataFlit port f s
  | .controlFlit port f => Sys2Proof.Machine.execControlFlit port f s
  | .idleFlit port f => Sys2Proof.Machine.execIdleFlit port f s
  | .nak port f => Sys2Proof.Machine.execNak port f s
  | .nakRetryExpiry port => Sys2Proof.Machine.execNakRetryExpiry port s
  | .spareReq port logical => Sys2Proof.Machine.execSpareReq port logical s
  | .laneSwitch port => Sys2Proof.Machine.execLaneSwitch port s
  | .recovery port transmit cause => Sys2Proof.Machine.execRecovery port transmit cause s
  | .recoveryDone port usable => Sys2Proof.Machine.execRecoveryDone port usable s
  | .recoveryTimeout port => Sys2Proof.Machine.execRecoveryTimeout port s
  | .beaconDetect port => Sys2Proof.Machine.execBeaconDetect port s
  | .laserCheckDone port usableTx usableRx => Sys2Proof.Machine.execLaserCheckDone port usableTx usableRx s
  | .txEqDone port usableTx usableRx => Sys2Proof.Machine.execTxEqDone port usableTx usableRx s
  | .rxAdaptDone port usableTx usableRx => Sys2Proof.Machine.execRxAdaptDone port usableTx usableRx s
  | .fecLockDone port usableTx usableRx => Sys2Proof.Machine.execFecLockDone port usableTx usableRx s
  | .deskewDone port usableTx usableRx => Sys2Proof.Machine.execDeskewDone port usableTx usableRx s
  | .identityDone port p => Sys2Proof.Machine.execIdentityDone port p s
  | .selfJoinExpiry => Sys2Proof.Machine.execSelfJoinExpiry s
  | .joinStateTimer port => Sys2Proof.Machine.execJoinStateTimer port s
  | .bringupBoundExpiry port lanes => Sys2Proof.Machine.execBringupBoundExpiry port lanes s
  | .heldRetryExpiry port => Sys2Proof.Machine.execHeldRetryExpiry port s
  | .benchStart programme => Sys2Proof.Machine.execBenchStart programme s
  | .benchInject programme number => Sys2Proof.Machine.execBenchInject programme number s
  | .benchEnd programme => Sys2Proof.Machine.execBenchEnd programme s
  | .prooferRequest req => Sys2Proof.Machine.execProoferRequest req s
  | .prooferGrant => Sys2Proof.Machine.execProoferGrant s
  | .governorInterval region estimateMa => Sys2Proof.Machine.execGovernorInterval region estimateMa s
  | .heldSliceStop cell slice => Sys2Proof.Machine.execHeldSliceStop cell slice s
  | .powerLimitInterval meanWatts => Sys2Proof.Machine.execPowerLimitInterval meanWatts s
  | .powerSample meanWatts => Sys2Proof.Machine.execPowerSample meanWatts s
  | .thermalSample sensor celsius => Sys2Proof.Machine.execThermalSample sensor celsius s
  | .thermalThrottleStep region => Sys2Proof.Machine.execThermalThrottleStep region s
  | .voltageRaiseStep region => Sys2Proof.Machine.execVoltageRaiseStep region s
  | .thermalFenceExpiry region => Sys2Proof.Machine.execThermalFenceExpiry region s
  | .rcHeartbeatTimeout region => Sys2Proof.Machine.execRcHeartbeatTimeout region s
  | .uncontainedCellFailure cell => Sys2Proof.Machine.execUncontainedCellFailure cell s
  | .fencedResponse cell id => Sys2Proof.Machine.execFencedResponse cell id s
  | .alarmOccurrence index => Sys2Proof.Machine.execAlarmOccurrence index s
  | .logMessage region index => Sys2Proof.Machine.execLogMessage region index s
  | .lossRecordWrite region => Sys2Proof.Machine.execLossRecordWrite region s
  | .summaryWindowEnd sender => Sys2Proof.Machine.execSummaryWindowEnd sender s
  | .traceRecord t => Sys2Proof.Machine.execTraceRecord t s
  | .traceReadPoll readIndex => Sys2Proof.Machine.execTraceReadPoll readIndex s
  | .configurationRequest r => Sys2Proof.Machine.execConfigurationRequest r s
  | .sealLoopClose => Sys2Proof.Machine.execSealLoopClose s
  | .moduleResetStart => Sys2Proof.Machine.execModuleResetStart s
  | .logRecordWrite region => Sys2Proof.Machine.execLogRecordWrite region s
  | .blockParityFailure block => Sys2Proof.Machine.execBlockParityFailure block s
  | .drawerSettled cell slice drawer => Sys2Proof.Machine.execDrawerSettled cell slice drawer s

end Sys2Proof.Machine
end

