-- ==== Sys2Proof/WellFormed.lean ====
section
/-!
DEFINITION. Well-formed commands: each operand names something the module has (Tables 0.1, 1.1 and 18.8). What the host may send as an
argument of a Sutha command is not checked here: the command itself answers for it (Tables 16.11 and 16.12).
-/

namespace Sys2Proof

def numOk (n k : Nat) : Bool := decide (k < n)

/-- 384 cells, 4 pipelines of 16 slots (R61, Table 18.8). -/
def GroupLoc.ok (g : GroupLoc) : Bool := decide (g.cell < 384 ∧ g.slot < 64)

/-- Extension words the word does not announce are not there (R97). -/
def extOk (ext : BitVec 2) (x1 x2 : BitVec 64) : Bool := (decide (ext ≠ 0) || decide (x1 = 0)) && (decide (ext.toNat = 2) || decide (x2 = 0))

def RegForm.ok (f : RegForm) : Bool := extOk f.ext f.x1 f.x2
def BrForm.ok (f : BrForm) : Bool := extOk f.ext f.x1 f.x2
def MemForm.ok (f : MemForm) : Bool := extOk f.ext f.x1 f.x2

/-- The opcodes with a meaning (Table 4.3 and the tables of chapters 5, 7, 8, 9, 11 and 14). -/
def assigned (op : Nat) : Bool := 
  decide (op < 0x18 ∨ (0x20 ≤ op ∧ op ≤ 0x2A) ∨ (0x40 ≤ op ∧ op ≤ 0x42) ∨ op = 0x48 ∨ op = 0x49 ∨ (0x50 ≤ op ∧ op ≤ 0x56)
    ∨ (0x60 ≤ op ∧ op ≤ 0x6A) ∨ op = 0x6C ∨ op = 0x6D ∨ (0x70 ≤ op ∧ op ≤ 0x75) ∨ op = 0x80 ∨ op = 0x81 ∨ (0x84 ≤ op ∧ op ≤ 0x87)
    ∨ op = 0x90 ∨ op = 0x91 ∨ (0x98 ≤ op ∧ op ≤ 0x9A) ∨ op = 0xA0)

def unassigned (w : BitVec 64) : Bool := !assigned (w.toNat / 2 ^ 56)

/-- The instances of Table 17.6. -/
def SensorRef.ok (x : SensorRef) : Bool :=
  match x.cls with
  | .computeDie => decide (x.unit < 8 ∧ x.index < 16)
  | .baseDie => decide (x.unit < 8 ∧ x.index < 4)
  | .memoryStack => decide (x.unit < 16 ∧ x.index = 0)
  | .converter => decide (x.index = 0)
  | .opticalEngine => decide (x.unit < 40 ∧ x.unit % 5 < 4 ∧ x.index = 0)
  | .coolantInlet => decide (x.unit = 0 ∧ x.index = 0)

/-- Modules are 0 to 16,383 (R361), cells 0 to 383. -/
def RequestPacket.ok (q : RequestPacket) : Bool :=
  decide (q.source < 16384 ∧ q.destination < 16384 ∧ q.sourceCell < 384) &&
    match q.body with
    | .load _ mask => decide (mask ≠ 0)
    | .store _ mask bytes _ => decide (mask ≠ 0 ∧ bytes.length = 64)
    | .atomic _ _ n lanes => decide (n = 4 ∨ n = 8) && lanes.all (fun l => decide (l.lane < 32))
    | .get a len => decide (a % 256 = 0 ∧ len % 256 = 0 ∧ 0 < len ∧ len ≤ 4096 ∧ a % 2 ^ 21 + len ≤ 2 ^ 21)
    | .put _ mask bytes _ _ => decide (mask ≠ 0 ∧ bytes.length = 256)
    | .notify _ amount => decide (amount < 2 ^ 32)

def AnswerPacket.ok (a : AnswerPacket) : Bool := decide (a.source < 16384) && a.values.all (fun v => decide (v.1 < 32))

/-- Modules are 0 to 16,383 (R361), collective groups 0 to 11 (R398). -/
def TransitPacket.ok (p : TransitPacket) : Bool :=
  decide (p.source < 16384 ∧ p.destination < 16384) &&
    match p.kind with
    | .collective g _ => decide (g < 12)
    | _ => true

def ProoferObject.ok (o : ProoferObject) : Bool :=
  match o with
  | .regionPower r | .stackPair r | .voltage r | .activity r => decide (r < 8)
  | .opticalPort p => decide (p < 40 ∧ p % 5 < 4)
  | .electricalPort p => decide (p < 40 ∧ p % 5 = 4)
  | .slice c k => decide (c < 384 ∧ k < 4)

def SetupMessage.ok (m : SetupMessage) : Bool := decide (m.group < 16 ∧ m.sender < 16384 ∧ m.senderPos < m.members ∧ m.receiverPos < m.members)

def SegmentMessage.ok (m : SegmentMessage) : Bool := decide (m.group < 16 ∧ m.poisoned.length = m.elements.length)

/-- A packet's kind may travel on a virtual channel (Tables 1.3 and 13.4). -/
def PacketKind.onVc (k : PacketKind) (vc : Nat) : Bool :=
  match k with
  | .request _ => decide (vc = 1)
  | .answer _ => decide (vc = 2)
  | .window | .timeProbe _ | .timeReply _ _ _ _ => decide (vc = 3)
  | .collective g _ => decide (vc = 4 + g)
  | _ => decide (vc = 0)

/-- A flit of type `type`, or of a reserved one (Table 15.3). Its packets are as many as its START bits, of one virtual channel (R438); only a DATA
flit carries any. -/
def Flit.ok (f : Flit) (type : Nat) : Bool :=
  let t := (f.image.extractLsb' 37 3).toNat
  let starts := ((List.range 15).filter (fun i => f.image.getLsbD (12 + i))).length
  decide (t = type ∨ 4 ≤ t) && decide (f.payload.length = starts) && (decide (type = 0) || f.payload.isEmpty)
    && f.payload.all (fun p => TransitPacket.ok p && PacketKind.onVc p.kind (f.image.extractLsb' 33 4).toNat)

/-- Trace sources are 0 to 7 (R536). -/
def TraceRecord.ok (t : TraceRecord) : Bool := decide (t.source < 8)

/-- Every operand lies in the range the spec gives it. -/
def Instr.wellFormed (i : Instr) : Bool :=
  match i with
  | .auxPowerOn _ _ _ => true
  | .auxInputLoss => true
  | .pwrEnAssert => true
  | .startupBegin _ => true
  | .pwrEnDeassert => true
  | .mainInputDip _ _ => true
  | .mainInputLoss _ _ => true
  | .mainInputOvervoltage _ _ => true
  | .thermalTrip sensor _ => SensorRef.ok sensor
  | .thermtripRelease => true
  | .timebaseTick => true
  | .paceInterval region _ _ => numOk 8 region
  | .presBtnPress => true
  | .presJmpChange _ => true
  | .sealLoopOpen => true
  | .pcieReset => true
  | .memoryWindowRead _ _ => true
  | .memoryWindowWrite _ _ => true
  | .controlWindowBadAccess offset len _ => decide (¬ ((len = 4 ∨ len = 8) ∧ offset % len = 0))
  | .registerWrite offset wide _ => decide (offset % (if wide then 8 else 4) = 0)
  | .w1cFlagWrite offset wide _ => decide (offset % (if wide then 8 else 4) = 0)
  | .doorbellWrite mailbox _ _ => numOk 16 mailbox
  | .launchRingTailWrite ring _ => numOk 64 ring
  | .groupPlace ring => numOk 64 ring
  | .statusRewrite => true
  | .bakerWatchdogRestart => true
  | .smbSetPointer _ _ => true
  | .smbBlockRead => true
  | .smbBlockWrite bytes _ => decide (1 ≤ bytes.length ∧ bytes.length ≤ 32)
  | .smbStatusRead => true
  | .oobDoorbellWrite bytes _ => decide (1 ≤ bytes.length ∧ bytes.length ≤ 32)
  | .identityCmd mb _ => numOk 17 mb
  | .capability mb _ => numOk 17 mb
  | .cancel mb _ => numOk 17 mb
  | .statusMirror mb _ => numOk 17 mb
  | .powerStatus mb _ _ _ _ => numOk 17 mb
  | .operatingPoint mb _ _ _ => numOk 17 mb
  | .powerLimitSet mb _ => numOk 17 mb
  | .regionPowerOff mb _ => numOk 17 mb
  | .regionPowerOn mb _ => numOk 17 mb
  | .moduleResetGraceful mb => numOk 17 mb
  | .moduleResetForced mb => numOk 17 mb
  | .windowMap mb _ => numOk 17 mb
  | .windowUnmap mb _ => numOk 17 mb
  | .windowQuery mb _ _ _ => numOk 17 mb
  | .ownerSet mb _ _ _ => numOk 17 mb
  | .memoryClear mb _ _ => numOk 17 mb
  | .apertureSet mb _ => numOk 17 mb
  | .interleaveSet mb _ => numOk 17 mb
  | .unpin mb _ => numOk 17 mb
  | .scrub mb _ _ _ _ _ => numOk 17 mb
  | .memoryHealth mb _ => numOk 17 mb
  | .ringCreate mb _ => numOk 17 mb
  | .ringDestroy mb _ => numOk 17 mb
  | .jobRelease mb _ => numOk 17 mb
  | .jobStatus mb _ _ => numOk 17 mb
  | .parkListRead mb _ _ _ => numOk 17 mb
  | .parkStateRead mb g _ _ _ => numOk 17 mb && GroupLoc.ok g
  | .parkStateWrite mb g _ _ _ => numOk 17 mb && GroupLoc.ok g
  | .parkReplay mb g _ => numOk 17 mb && GroupLoc.ok g
  | .parkDiscard mb g _ => numOk 17 mb && GroupLoc.ok g
  | .fabricConfigure mb _ _ _ => numOk 17 mb
  | .fabricStatus mb _ => numOk 17 mb
  | .linkStatus mb _ _ _ _ => numOk 17 mb
  | .linkRetrain mb _ _ => numOk 17 mb
  | .linkDisable mb _ _ => numOk 17 mb
  | .linkEnable mb _ _ => numOk 17 mb
  | .collectiveSetup mb _ _ => numOk 17 mb
  | .collectiveRelease mb _ => numOk 17 mb
  | .collectiveStatus mb _ _ => numOk 17 mb
  | .ringWatchdog mb _ _ _ => numOk 17 mb
  | .checkpoint mb _ _ => numOk 17 mb
  | .checkpointBump _ => true
  | .checkpointTimeout _ => true
  | .selfTest mb _ _ => numOk 17 mb
  | .recipeSet mb _ _ => numOk 17 mb
  | .tastingRun mb _ _ => numOk 17 mb
  | .scaleConfigure mb _ _ _ => numOk 17 mb
  | .scaleRead mb _ _ _ => numOk 17 mb
  | .sieveRead mb _ _ => numOk 17 mb
  | .counterRead mb _ _ => numOk 17 mb
  | .counterClear mb _ _ _ _ _ => numOk 17 mb
  | .alarmRead mb _ _ _ => numOk 17 mb
  | .logRetrieve mb _ _ _ => numOk 17 mb
  | .traceConfigure mb _ _ _ _ => numOk 17 mb
  | .firmwareUpdate mb _ _ _ => numOk 17 mb
  | .debugUnlock mb => numOk 17 mb
  | .debugLock mb => numOk 17 mb
  | .fuseProgram mb _ _ => numOk 17 mb
  | .sealRearm mb => numOk 17 mb
  | .scrubOverride mb _ _ _ _ => numOk 17 mb
  | .benchProgramme mb _ => numOk 17 mb
  | .benchCancel mb _ => numOk 17 mb
  | .laneRestore mb _ _ _ => numOk 17 mb
  | .nop g f => GroupLoc.ok g && RegForm.ok f
  | .iadd g f => GroupLoc.ok g && RegForm.ok f
  | .isub g f => GroupLoc.ok g && RegForm.ok f
  | .imul g f => GroupLoc.ok g && RegForm.ok f
  | .imulhi g f => GroupLoc.ok g && RegForm.ok f
  | .imad g f => GroupLoc.ok g && RegForm.ok f
  | .imin g f => GroupLoc.ok g && RegForm.ok f
  | .imax g f => GroupLoc.ok g && RegForm.ok f
  | .iabs g f => GroupLoc.ok g && RegForm.ok f
  | .ishl g f => GroupLoc.ok g && RegForm.ok f
  | .ishr g f => GroupLoc.ok g && RegForm.ok f
  | .blut g f => GroupLoc.ok g && RegForm.ok f
  | .popc g f => GroupLoc.ok g && RegForm.ok f
  | .clz g f => GroupLoc.ok g && RegForm.ok f
  | .brev g f => GroupLoc.ok g && RegForm.ok f
  | .bfe g f => GroupLoc.ok g && RegForm.ok f
  | .bfi g f => GroupLoc.ok g && RegForm.ok f
  | .shf g f => GroupLoc.ok g && RegForm.ok f
  | .sel g f => GroupLoc.ok g && RegForm.ok f
  | .mov g f => GroupLoc.ok g && RegForm.ok f
  | .iadd64 g f => GroupLoc.ok g && RegForm.ok f
  | .imadw g f => GroupLoc.ok g && RegForm.ok f
  | .icmp g f => GroupLoc.ok g && RegForm.ok f
  | .plop g f => GroupLoc.ok g && RegForm.ok f
  | .fadd g f => GroupLoc.ok g && RegForm.ok f
  | .fmul g f => GroupLoc.ok g && RegForm.ok f
  | .ffma g f => GroupLoc.ok g && RegForm.ok f
  | .fmin g f => GroupLoc.ok g && RegForm.ok f
  | .fmax g f => GroupLoc.ok g && RegForm.ok f
  | .fcmp g f => GroupLoc.ok g && RegForm.ok f
  | .hadd2 g f => GroupLoc.ok g && RegForm.ok f
  | .hmul2 g f => GroupLoc.ok g && RegForm.ok f
  | .hfma2 g f => GroupLoc.ok g && RegForm.ok f
  | .cvt g f => GroupLoc.ok g && RegForm.ok f
  | .sfn g f => GroupLoc.ok g && RegForm.ok f
  | .ualu g f => GroupLoc.ok g && RegForm.ok f
  | .threadToUniform g f => GroupLoc.ok g && RegForm.ok f
  | .srd g f => GroupLoc.ok g && RegForm.ok f
  | .vote g f => GroupLoc.ok g && RegForm.ok f
  | .shfl g f => GroupLoc.ok g && RegForm.ok f
  | .bra g f => GroupLoc.ok g && BrForm.ok f
  | .call g f => GroupLoc.ok g && BrForm.ok f
  | .ret g f => GroupLoc.ok g && BrForm.ok f
  | .split g f => GroupLoc.ok g && BrForm.ok f
  | .join g f => GroupLoc.ok g && BrForm.ok f
  | .exit g f => GroupLoc.ok g && BrForm.ok f
  | .brk g f => GroupLoc.ok g && BrForm.ok f
  | .unassignedOpcode g w => GroupLoc.ok g && unassigned w
  | .ld g f => GroupLoc.ok g && MemForm.ok f
  | .st g f => GroupLoc.ok g && MemForm.ok f
  | .atomAdd g f => GroupLoc.ok g && MemForm.ok f
  | .atomMin g f => GroupLoc.ok g && MemForm.ok f
  | .atomMax g f => GroupLoc.ok g && MemForm.ok f
  | .atomAnd g f => GroupLoc.ok g && MemForm.ok f
  | .atomOr g f => GroupLoc.ok g && MemForm.ok f
  | .atomXor g f => GroupLoc.ok g && MemForm.ok f
  | .atomXch g f => GroupLoc.ok g && MemForm.ok f
  | .atomCas g f => GroupLoc.ok g && MemForm.ok f
  | .atomFadd g f => GroupLoc.ok g && MemForm.ok f
  | .fence g f => GroupLoc.ok g && MemForm.ok f
  | .inval g f => GroupLoc.ok g && MemForm.ok f
  | .copy g f => GroupLoc.ok g && RegForm.ok f
  | .await g f => GroupLoc.ok g && RegForm.ok f
  | .cntSet g f => GroupLoc.ok g && RegForm.ok f
  | .cntAdd g f => GroupLoc.ok g && RegForm.ok f
  | .cntRead g f => GroupLoc.ok g && RegForm.ok f
  | .notify g f => GroupLoc.ok g && RegForm.ok f
  | .rnd g f => GroupLoc.ok g && RegForm.ok f
  | .step g f => GroupLoc.ok g && RegForm.ok f
  | .mma g f => GroupLoc.ok g && RegForm.ok f
  | .mslcConfig g f => GroupLoc.ok g && RegForm.ok f
  | .mslcClaim g f => GroupLoc.ok g && RegForm.ok f
  | .mslcRelease g f => GroupLoc.ok g && RegForm.ok f
  | .mslcQuery g f => GroupLoc.ok g && RegForm.ok f
  | .dopn g f => GroupLoc.ok g && RegForm.ok f
  | .drn g f => GroupLoc.ok g && RegForm.ok f
  | .dcls g f => GroupLoc.ok g && RegForm.ok f
  | .dqry g f => GroupLoc.ok g && RegForm.ok f
  | .chn g f => GroupLoc.ok g && RegForm.ok f
  | .chstReadClear g f => GroupLoc.ok g && RegForm.ok f
  | .chstReadOnly g f => GroupLoc.ok g && RegForm.ok f
  | .spk g f => GroupLoc.ok g && RegForm.ok f
  | .sgl g f => GroupLoc.ok g && RegForm.ok f
  | .sxp g f => GroupLoc.ok g && RegForm.ok f
  | .coll g f => GroupLoc.ok g && RegForm.ok f
  | .instructionFetch g => GroupLoc.ok g
  | .lookasideFill g => GroupLoc.ok g
  | .maskStackSpill g => GroupLoc.ok g
  | .maskStackReload g => GroupLoc.ok g
  | .lineFill cell _ => numOk 384 cell
  | .groupRetire g => GroupLoc.ok g
  | .parkNotice g => GroupLoc.ok g
  | .groupReplay g => GroupLoc.ok g
  | .launchRecordDone _ => true
  | .counterIncrement cell counter _ => numOk 384 cell && numOk 32 counter
  | .copyCommand cell slot => numOk 384 cell && numOk 48 slot
  | .copyComplete cell slot => numOk 384 cell && numOk 48 slot
  | .copyNotify cell slot => numOk 384 cell && numOk 48 slot
  | .homeRequest _ => true
  | .stackCommandComplete _ _ => true
  | .rowSpare channel bank row => numOk 512 channel && numOk 32 bank && numOk 98304 row
  | .patrolScrub region _ _ => numOk 8 region
  | .rampStartDone cell slice => numOk 384 cell && numOk 4 slice
  | .mmaOperandRelease cell slice => numOk 384 cell && numOk 4 slice
  | .dopnPreloadDone cell slice drawer => numOk 384 cell && numOk 4 slice && numOk 4 drawer
  | .drainStart cell slice drawer => numOk 384 cell && numOk 4 slice && numOk 4 drawer
  | .drainComplete cell slice drawer => numOk 384 cell && numOk 4 slice && numOk 4 drawer
  | .drawerClose cell slice drawer => numOk 384 cell && numOk 4 slice && numOk 4 drawer
  | .sliceHoldExpiry cell slice => numOk 384 cell && numOk 4 slice
  | .rampStopDone cell slice => numOk 384 cell && numOk 4 slice
  | .sliceFault cell slice => numOk 384 cell && numOk 4 slice
  | .waveWatchdogExpiry cell slice => numOk 384 cell && numOk 4 slice
  | .sliceResetDone cell slice => numOk 384 cell && numOk 4 slice
  | .sliceAutoRelease cell slice => numOk 384 cell && numOk 4 slice
  | .chainStart cell => numOk 384 cell
  | .chainComplete cell _ => numOk 384 cell
  | .collectivePortMap cell _ => numOk 384 cell
  | .sieveBankMerge cell => numOk 384 cell
  | .histogramContribution region slot => numOk 8 region && numOk 4096 slot
  | .scaleStallExpiry slot => numOk 4096 slot
  | .scaleFetch cell slot => numOk 384 cell && numOk 4096 slot
  | .scaleAnswer cell slot => numOk 384 cell && numOk 4096 slot
  | .satDirect slot => numOk 4096 slot
  | .rescaleReport slot => numOk 4096 slot
  | .load q => RequestPacket.ok q
  | .store q => RequestPacket.ok q
  | .atomic q => RequestPacket.ok q
  | .get q => RequestPacket.ok q
  | .put q => RequestPacket.ok q
  | .notifyPacket q => RequestPacket.ok q
  | .loadData a => AnswerPacket.ok a
  | .storeAck a => AnswerPacket.ok a
  | .atomicData a => AnswerPacket.ok a
  | .getData a => AnswerPacket.ok a
  | .putAck a => AnswerPacket.ok a
  | .notifyAck a => AnswerPacket.ok a
  | .rspTimeoutExpiry region entry => numOk 8 region && numOk 65536 entry
  | .winQuery source _ _ => numOk 16384 source
  | .winReply server _ _ _ => numOk 16384 server
  | .packetRoute port p => numOk 40 port && TransitPacket.ok p.packet && p.arrived.all (fun a => decide (a.1 < 40 ∧ a.2 < 4096))
  | .packagePacket source destination _ _ => numOk 8 source && numOk 8 destination
  | .timeProbeTimer port => numOk 40 port
  | .timeProbe port _ => numOk 40 port
  | .timeReply port _ _ _ _ => numOk 40 port
  | .timeServiceSilence => true
  | .linkSilenceProbe neighbour => numOk 16384 neighbour
  | .peerProbe source => numOk 16384 source
  | .peerAck source => numOk 16384 source
  | .linkDown port _ => numOk 40 port
  | .peerDown port module _ => numOk 40 port && numOk 16384 module
  | .peerUp port module _ => numOk 40 port && numOk 16384 module
  | .setup m => SetupMessage.ok m
  | .collectiveStart group => numOk 16 group
  | .segGrant group source => numOk 16 group && numOk 16384 source
  | .collectiveSegment m => SegmentMessage.ok m
  | .collectiveComplete group => numOk 16 group
  | .colAbort group source => numOk 16 group && numOk 16384 source
  | .segmentTimeout group => numOk 16 group
  | .ringWatchdogExpiry cell counter => numOk 384 cell && numOk 32 counter
  | .laserMeasure port _ _ _ _ _ => numOk 40 port
  | .codeword port lane _ => numOk 40 port && numOk 9 lane
  | .dataFlit port f => numOk 40 port && Flit.ok f 0
  | .controlFlit port f => numOk 40 port && Flit.ok f 3
  | .idleFlit port f => numOk 40 port && Flit.ok f 1
  | .nak port f => numOk 40 port && Flit.ok f 2
  | .nakRetryExpiry port => numOk 40 port
  | .spareReq port logical => numOk 40 port && numOk 8 logical
  | .laneSwitch port => numOk 40 port
  | .recovery port _ _ => numOk 40 port
  | .recoveryDone port _ => numOk 40 port
  | .recoveryTimeout port => numOk 40 port
  | .beaconDetect port => numOk 40 port
  | .laserCheckDone port _ _ => numOk 40 port
  | .txEqDone port _ _ => numOk 40 port
  | .rxAdaptDone port _ _ => numOk 40 port
  | .fecLockDone port _ _ => numOk 40 port
  | .deskewDone port _ _ => numOk 40 port
  | .identityDone port _ => numOk 40 port
  | .selfJoinExpiry => true
  | .joinStateTimer port => numOk 40 port
  | .bringupBoundExpiry port _ => numOk 40 port
  | .heldRetryExpiry port => numOk 40 port
  | .benchStart programme => numOk 8 programme
  | .benchInject programme _ => numOk 8 programme
  | .benchEnd programme => numOk 8 programme
  | .prooferRequest req => ProoferObject.ok req
  | .prooferGrant => true
  | .governorInterval region _ => numOk 8 region
  | .heldSliceStop cell slice => numOk 384 cell && numOk 4 slice
  | .powerLimitInterval _ => true
  | .powerSample _ => true
  | .thermalSample sensor _ => SensorRef.ok sensor
  | .thermalThrottleStep region => numOk 8 region
  | .voltageRaiseStep region => numOk 8 region
  | .thermalFenceExpiry region => numOk 8 region
  | .rcHeartbeatTimeout region => numOk 8 region
  | .uncontainedCellFailure cell => numOk 384 cell
  | .fencedResponse cell _ => numOk 384 cell
  | .alarmOccurrence _ => true
  | .logMessage region _ => numOk 9 region
  | .lossRecordWrite region => numOk 8 region
  | .summaryWindowEnd sender => numOk 9 sender
  | .traceRecord t => TraceRecord.ok t
  | .traceReadPoll _ => true
  | .configurationRequest _ => true
  | .sealLoopClose => true
  | .moduleResetStart => true
  | .logRecordWrite region => numOk 8 region
  | .blockParityFailure block => numOk 64 block
  | .drawerSettled cell slice drawer => numOk 384 cell && numOk 4 slice && numOk 4 drawer

end Sys2Proof
end

