-- ==== Sys2Proof/Safety.lean ====
section
/-!
DEFINITION. What the statements call well kept and safe (the canonical form of the memories, a step that answers a next state), and the
words they are written in: what a command leaves alone, what an issued instruction writes.
-/

namespace Sys2Proof.Machine

/-- The canonical form of a memory: addresses strictly rising, no entry equal to what an unlisted address reads as (0). -/
def Memory.wf (m : List Host.Cell) : Bool := NMap.canon (0 : BitVec 8) m

/-- The local memory of a cell and its poison marks are in canonical form. -/
def Cell.wf (x : Cell) : Bool := Memory.wf x.localMem && NMap.canon false x.localPoison

/-- Every cell, block, region, port, region supply and bank, and every set of a region window cache, is listed at most once, keys rising. -/
def State.keyed (s : State) : Bool :=
  NMap.rising s.cells && NMap.rising s.blocks && NMap.rising s.regions && NMap.rising s.ports && NMap.rising s.power.regions && NMap.rising s.banks
    && s.regions.all (fun e => NMap.rising e.2.windowCache)

/-- The stacked memory, its poison marks, the pages written, and the local memory of every cell are in canonical form, and the maps of the units list each once. -/
def State.wf (s : State) : Bool :=
  Memory.wf s.mem && NMap.canon false s.memPoison && NMap.canon 0 s.codeWrites && s.cells.all (fun e => Cell.wf e.2) && State.keyed s

/-- A step is safe where it answers a next state. -/
def Safe (s : State) : Prop := ∃ t, step s = .next t

/-! ### Frames -/

/-- From `s` to `t` only the cell `c` changes: every other cell, and every field of the module but its cells, is as it was; so is every
byte of stacked memory. -/
def OnlyCell (s t : State) (c : Nat) : Prop :=
  t = { s with cells := t.cells } ∧ ∀ d, d ≠ c → State.cell t d = State.cell s d

/-- From `s` to `t` only the group at `g` changes, to `after`: in its cell also the register cache, nothing else (no byte of local memory,
no other group). -/
def OnlyGroup (s t : State) (g : GroupLoc) (after : Group) : Prop :=
  OnlyCell s t g.cell ∧ State.group t g = some after ∧
    (∀ k, k ≠ g.slot → Cell.group (State.cell t g.cell) k = Cell.group (State.cell s g.cell) k) ∧
    ∃ gs rc, State.cell t g.cell = { State.cell s g.cell with groups := gs, regCache := rc }

/-- The group moves past its words (R97); it has issued in this tick (ISSUE_STALL). -/
def Passed (grp after : Group) (ext : Nat) : Prop := after.pc = grp.pc + 1 + BitVec.ofNat 31 ext ∧ after.fetched = [] ∧ after.issued = true

/-- Only the thread registers of `ns` (and PC, the fetched words and that it has issued) differ between the groups. -/
def OnlyThreadRegs (grp after : Group) (ns : List Nat) : Prop :=
  after = { grp with w := after.w, wPoison := after.wPoison, wSource := after.wSource, pc := after.pc, fetched := after.fetched, issued := after.issued } ∧
    ∀ m, m ∉ ns → (∀ l, Group.lane after m l = Group.lane grp m l) ∧ Group.poisonOf after m = Group.poisonOf grp m

/-- Only predicate `n` (and PC, the fetched words and that it has issued) differ between the groups. -/
def OnlyPred (grp after : Group) (n : Nat) : Prop :=
  after = { grp with p := after.p, pc := after.pc, fetched := after.fetched, issued := after.issued } ∧
    ∀ m, m ≠ n → Group.pred after m = Group.pred grp m

/-- Only the uniform registers of `ns` (and PC, the fetched words and that it has issued) differ between the groups. -/
def OnlyUniform (grp after : Group) (ns : List Nat) : Prop :=
  after = { grp with u := after.u, uPoison := after.uPoison, uSource := after.uSource, pc := after.pc, fetched := after.fetched, issued := after.issued } ∧
    ∀ m, m ∉ ns → Group.uni after m = Group.uni grp m ∧ Group.uniPoison after m = Group.uniPoison grp m

/-- The register-form instruction of opcode `op` and shape `sh` at `g` issues and no check parks it: the group that issues it is `grp`. -/
def Issues (s : State) (op : Nat) (sh : Shape) (g : GroupLoc) (f : RegForm) (grp : Group) : Prop :=
  State.issuable s g (regWords op f) = some grp ∧ Group.awaits grp (shapeRegs sh f) = false ∧ regPark sh grp f = none

/-- Operands of 32 bits, by lane. -/
def Operands.a32 (o : Operands) (l : Nat) : BitVec 32 := BitVec.ofNat 32 (o.a l)
def Operands.b32 (o : Operands) (l : Nat) : BitVec 32 := BitVec.ofNat 32 (o.b l)
def Operands.c32 (o : Operands) (l : Nat) : BitVec 32 := BitVec.ofNat 32 (o.c l)

end Sys2Proof.Machine
end

