-- ==== Sys2Proof/Certificates/Slice0/Obligations.lean ====
section
/-!
DEFINITION. The statements for the provers, and the tables and words they are written with. `Outcome.next` is the answer of a command
that completes.
-/

open Sys2Proof Sys2Proof.Machine

/-! ### Reports: counters, alarms and logs -/

/-- The value of a counter (R541). -/
def Claims.counter (s : State) (c : Counter) (param inst : Nat) : Nat := NMap.get s.tel.counters 0 (counterKey c param inst)

/-- A counter has advanced by `n`, saturating (R36, R542). -/
def Claims.counted (s t : State) (c : Counter) (param inst n : Nat) : Prop :=
  Claims.counter t c param inst = min (counterMax (counterKey c param inst)) (Claims.counter s c param inst + n)

/-- An alarm has been raised (R527): the log record of its code is on its way. -/
def Claims.alarmed (s t : State) (code kind source detail : Nat) : Prop :=
  (sourceRegion kind source, { stamp := s.timebase, type := 0x100 + code, kind := kind, source := source, job := 0, d := [detail, kind * 2 ^ 16 + source] }) ∈ t.tel.logPath

/-- No staging area of a collective group anchored at the cell shares a byte with the ranges (start, length) of its local memory (R400). -/
def Claims.offStage (s : State) (c : Nat) (rs : List (Nat × Nat)) : Prop :=
  ∀ e ∈ s.groups, e.2.anchor = c → ∀ r ∈ rs, r.2 = 0 ∨ r.1 + r.2 ≤ e.2.stage ∨ e.2.stage + 8192 * e.2.bufs ≤ r.1

/-! ### What every flit says -/

/-- What a flit that port `x` sends now says (R440, R445), the port then being `y`: ACK is the last flit accepted, and the credit report is of a pair
with something to report: the first of them that would otherwise not be reported within 48 flits, else one with the largest unreported change, and of pair 0
where there is none; that pair is then reported, and the others have waited one flit more. -/
def Claims.says (x y : Port) (r : FlitReport) : Prop :=
  let change (k : Nat) : Nat := (NMap.get x.returned 0 k + 4096 - NMap.get x.told 0 k % 4096) % 4096
  r.ack = x.rxLast ∧ r.total = NMap.get x.returned 0 r.pair ∧ (x.due = [] → r.pair = 0) ∧ (x.due ≠ [] → r.pair ∈ x.due.map (·.1)) ∧
    (∀ e, x.due.find? (fun e => decide (48 ≤ e.2 + x.due.length)) = some e → r.pair = e.1) ∧
    ((∀ e ∈ x.due, e.2 + x.due.length < 48) → ∀ e ∈ x.due, change e.1 ≤ change r.pair) ∧
    y = { x with told := y.told, due := (x.due.filter (fun e => decide (e.1 ≠ r.pair))).map (fun e => (e.1, e.2 + 1)) } ∧ NMap.get y.told 0 r.pair = r.total ∧
    ∀ k, k ≠ r.pair → NMap.get y.told 0 k = NMap.get x.told 0 k

/-- Port `x` (number `p`) becomes `y` by sending the flits `ms`, each with its report: `outs` is what leaves. -/
def Claims.sends (p : Nat) (x y : Port) (ms : List (FlitReport → Bool → LinkMessage)) (outs : List Output) : Prop :=
  match ms with
  | [] => y = x ∧ outs = []
  | m :: rest => ∃ r z l, Claims.says x z r ∧ Claims.sends p z y rest l ∧ outs = .link p (m r x.silenced) :: l

/-! ### The machine -/

/-- One step is exec of the command in front, on the module with the queue's rest. -/
def Obligations.StepRunsFront : Prop :=
  ∀ (c : Instr) (rest : List Instr) (s : State), step { s with pending := c :: rest } = exec c { s with pending := rest }

/-- With no command waiting the block idles: the model's choice, log entry 1. -/
def Obligations.EmptyQueueIdles : Prop := ∀ s : State, s.pending = [] → step s = .next s

/-- What reset leaves: R48 (timebase), R67 (DEFER_LIMIT), R335, R505, Tables 2.2, 10.3, 16.2, 16.5, 16.10 and 19.3, column Reset. -/
def Obligations.ResetValues : Prop :=
  State.reset.phase = .aux ∧ State.reset.timebase = 0 ∧ State.reset.time.synced = false ∧ State.reset.pending = [] ∧
  State.reset.nv.limit = 2400 ∧ State.reset.nv.ilvGib = 0 ∧ State.reset.host.mirrorAddr = 0 ∧ State.reset.host.winLog2 = 34 ∧
  (∀ c, (State.cell State.reset c).deferLimit = 4) ∧
  (∀ r, (State.regionPower State.reset r).pace = { volt := 0, temp := 0, paceMin := 0xFFFF, pace := 0, seq := 0, throttle := false, lowpace := false, valid := false }) ∧
  (∀ k, (NMap.get State.reset.scale.slots ScaleSlot.reset k).x = 127 ∧ (NMap.get State.reset.scale.slots ScaleSlot.reset k).hlen = 15) ∧
  (∀ n, (NMap.get State.reset.host.mailboxes Mailbox.reset n).doorbell = 0 ∧ (NMap.get State.reset.host.mailboxes Mailbox.reset n).busy = false) ∧
  (∀ r, (NMap.get State.reset.rings Ring.reset r).status = .free) ∧ State.wf State.reset = true

/-- Every step keeps the canonical form of the stacked memory, of its poison marks and of every cell's local memory. -/
def Obligations.StepKeepsWf : Prop := ∀ s t : State, State.wf s = true → step s = .next t → State.wf t = true

/-- No command enters or reorders the queue, and the counters of free values and of identities never run backwards. -/
def Obligations.QueueIsConsumed : Prop :=
  ∀ s t : State, step s = .next t → t.pending = s.pending.tail ∧ s.freeCount ≤ t.freeCount ∧ s.nextId ≤ t.nextId

/-- R47, R444. A tick adds 10, or 9 or 11 where none of the last 999 did; no other command moves the timebase of a module that stays JOINED. -/
def Obligations.TimebaseRule : Prop :=
  (∀ s : State, s.phase ≠ .off →
    ∃ t, exec .timebaseTick s = .next t ∧
      (t.timebase = s.timebase + 10 ∨ ((t.timebase = s.timebase + 9 ∨ t.timebase = s.timebase + 11) ∧ 999 ≤ s.time.sinceSlew ∧ t.time.sinceSlew = 0)) ∧
      (t.timebase = s.timebase + 10 → t.time.sinceSlew ≤ s.time.sinceSlew + 1 ∧ t.time.slew = s.time.slew) ∧
      (t.timebase = s.timebase + 11 → t.time.slew = s.time.slew - 1) ∧ (t.timebase = s.timebase + 9 → t.time.slew = s.time.slew + 1) ∧
      t.mem = s.mem ∧ t.regions = s.regions ∧ t.jobs = s.jobs ∧ t.rings = s.rings ∧ t.nv = s.nv ∧
      (∃ l, t.out = s.out ++ l ∧ ∀ o ∈ l, ∃ p n r d, o = .link p (.idle n r d)) ∧
      ∀ p, let x := State.port s p
        let speaks : Prop := (x.state = .identity ∨ x.state = .join ∨ x.state = .live ∨ x.state = .recovery) ∧ true ∉ x.recovering
        (¬ speaks → State.port t p = x) ∧
          (speaks → (s.ports.map (·.1)).Nodup → ∃ r, Claims.says x (State.port t p) r ∧ .link p (.idle x.txNext r x.silenced) ∈ t.out)) ∧
  ∀ s t : State, step s = .next t → s.joined = true → t.joined = true →
    s.timebase ≤ t.timebase ∧ (s.pending.head? ≠ some .timebaseTick → t.timebase = s.timebase)

/-! ### Integer arithmetic -/

/-- A row of an opcode table: constructor, opcode, operand shape, and the value of a lane from its operands. -/
structure Claims.LaneRow where
  ctor : GroupLoc → RegForm → Instr
  op : Nat
  sh : RegForm → Shape
  fn : RegForm → BitVec 32 → BitVec 32 → BitVec 32 → BitVec 32

def Claims.pickBits (x : BitVec 32) (b : Bool) : BitVec 32 := if b then x else ~~~x

/-- Table 4.3, 0x01 to 0x11, in bit-vector arithmetic. -/
def Claims.integerRows : List Claims.LaneRow := [
  ⟨.iadd, 0x01, fun _ => shape2 0, fun _ a b _ => a + b⟩,
  ⟨.isub, 0x02, fun _ => shape2 0, fun _ a b _ => a - b⟩,
  ⟨.imul, 0x03, fun _ => shape2 0, fun _ a b _ => a * b⟩,
  ⟨.imulhi, 0x04, fun _ => shape2 1, fun f a b _ =>
    if f.sub.getLsbD 0 then (a.signExtend 64 * b.signExtend 64).extractLsb' 32 32 else (a.zeroExtend 64 * b.zeroExtend 64).extractLsb' 32 32⟩,
  ⟨.imad, 0x05, fun _ => shape3 0, fun _ a b c => a * b + c⟩,
  ⟨.imin, 0x06, fun _ => shape2 1, fun f a b _ => if f.sub.getLsbD 0 then (if a.sle b then a else b) else (if a.ule b then a else b)⟩,
  ⟨.imax, 0x07, fun _ => shape2 1, fun f a b _ => if f.sub.getLsbD 0 then (if a.sle b then b else a) else (if a.ule b then b else a)⟩,
  ⟨.iabs, 0x08, fun _ => shape1 0, fun _ a _ _ => if a.slt 0 then -a else a⟩,
  ⟨.ishl, 0x09, fun _ => shape2 0, fun _ a b _ => a <<< b.toNat⟩,
  ⟨.ishr, 0x0A, fun _ => shape2 1, fun f a b _ => if f.sub.getLsbD 0 then a.sshiftRight b.toNat else a >>> b.toNat⟩,
  ⟨.blut, 0x0B, fun _ => shape3 0x3FC, fun f a b c =>
    (List.range 8).foldl (fun r i => if f.sub.getLsbD (2 + i) then
      r ||| (Claims.pickBits c (i.testBit 2) &&& Claims.pickBits b (i.testBit 1) &&& Claims.pickBits a (i.testBit 0)) else r) 0⟩,
  ⟨.popc, 0x0C, fun _ => shape1 0, fun _ a _ _ => BitVec.ofNat 32 ((List.range 32).countP (fun i => a.getLsbD i))⟩,
  ⟨.clz, 0x0D, fun _ => shape1 0, fun _ a _ _ => BitVec.ofNat 32 ((List.range 32).takeWhile (fun i => !a.getMsbD i)).length⟩,
  ⟨.brev, 0x0E, fun _ => shape1 0, fun _ a _ _ => a.reverse⟩,
  ⟨.bfe, 0x0F, fun _ => shape3 1, fun f a b c =>
    let p := b.toNat % 32
    let n := min 32 (c.toNat % 64)
    if f.sub.getLsbD 0 then ((a.sshiftRight p) <<< (32 - n)).sshiftRight (32 - n) else ((a >>> p) <<< (32 - n)) >>> (32 - n)⟩,
  ⟨.bfi, 0x10, fun _ => shape3 0, fun _ a b c =>
    let p := b.toNat % 32
    let m : BitVec 32 := (BitVec.allOnes 32 >>> (32 - min 32 (b.toNat / 256 % 64))) <<< p
    (c &&& ~~~m) ||| ((a <<< p) &&& m)⟩,
  ⟨.shf, 0x11, fun _ => shape3 0, fun _ a b c => ((b ++ a) >>> (c.toNat % 64)).truncate 32⟩]

/-- A lane row does its work: it completes, its destination takes the value in the lanes that execute and loses its poison marks there,
and nothing else changes but PC. -/
def Claims.LaneRow.works (r : Claims.LaneRow) : Prop :=
  ∀ (s : State) (g : GroupLoc) (f : RegForm) (grp : Group), Issues s r.op (r.sh f) g f grp →
    ∃ t after, exec (r.ctor g f) s = .next t ∧ OnlyGroup s t g after ∧ Passed grp after f.ext.toNat ∧ OnlyThreadRegs grp after [f.dst.toNat] ∧
      let o := readOperands (r.sh f) grp f
      o.ex = Group.executing grp f.gp f.gn ∧
      ∀ l, l < 32 →
        Group.lane after f.dst.toNat l =
          (if o.ex.testBit l then (r.fn f (o.a32 l) (o.b32 l) (o.c32 l)).toNat else Group.lane grp f.dst.toNat l) ∧
        (Group.poisonOf after f.dst.toNat).testBit l = ((Group.poisonOf grp f.dst.toNat).testBit l && !o.ex.testBit l)

/-- R102, R104, R106 and Table 4.3: IADD, ISUB, IMUL, IMULHI, IMAD, IMIN, IMAX, IABS, ISHL, ISHR, BLUT, POPC, CLZ, BREV, BFE, BFI and SHF. -/
def Obligations.IntegerLanes : Prop := ∀ r ∈ Claims.integerRows, Claims.LaneRow.works r

/-! ### Moves, select and 64-bit integers -/

/-- A 64-bit pair of thread registers, low half first (R69). -/
def Claims.pair (grp : Group) (n l : Nat) : Nat := Group.lane grp n l + 2 ^ 32 * Group.lane grp (n + 1) l

/-- R69, R86, R102, R104 and Table 4.3: NOP changes PC only; SEL takes A where the predicate SUB[2:0] is true, else B; MOV moves a register or,
with SUB[0], a pair, with its poison marks; IADD64 adds pairs; IMADW adds a 64-bit product to a pair. -/
def Obligations.MovesAndPairs : Prop :=
  (∀ (s : State) (g : GroupLoc) (f : RegForm) (grp : Group),
    Issues s 0x00 { shape1 0 with d := .none, a := .none } g f grp →
      ∃ t, exec (.nop g f) s = .next t ∧ OnlyGroup s t g { grp with pc := grp.pc + 1 + BitVec.ofNat 31 f.ext.toNat, fetched := [], issued := true }) ∧
  (∀ (s : State) (g : GroupLoc) (f : RegForm) (grp : Group), Issues s 0x12 (shape2 7) g f grp →
    ∃ t after, exec (.sel g f) s = .next t ∧ OnlyGroup s t g after ∧ Passed grp after f.ext.toNat ∧ OnlyThreadRegs grp after [f.dst.toNat] ∧
      let o := readOperands (shape2 7) grp f
      ∀ l, l < 32 → Group.lane after f.dst.toNat l =
        (if o.ex.testBit l then (if (Group.pred grp (f.sub.toNat % 8)).testBit l then o.a l else o.b l) else Group.lane grp f.dst.toNat l)) ∧
  (∀ (s : State) (g : GroupLoc) (f : RegForm) (grp : Group), f.sub.getLsbD 0 = false →
    Issues s 0x13 { shape2 1 with d := .r32, a := .none, b := .r32, carries := true } g f grp →
    ∃ t after, exec (.mov g f) s = .next t ∧ OnlyGroup s t g after ∧ Passed grp after f.ext.toNat ∧ OnlyThreadRegs grp after [f.dst.toNat] ∧
      let ex := Group.executing grp f.gp f.gn
      ∀ l, l < 32 →
        Group.lane after f.dst.toNat l =
          (if ex.testBit l then (if f.ib = 1 then f.x1.toNat % 2 ^ 32 else Group.operand grp .r32 f.sb.toNat (bit1 f.ub) l) else Group.lane grp f.dst.toNat l) ∧
        (Group.poisonOf after f.dst.toNat).testBit l =
          (if ex.testBit l then decide (f.ib ≠ 1) && (Group.operandPoison grp .r32 f.sb.toNat (bit1 f.ub)).testBit l
            else (Group.poisonOf grp f.dst.toNat).testBit l)) ∧
  (∀ (s : State) (g : GroupLoc) (f : RegForm) (grp : Group), f.sub.getLsbD 0 = true →
    Issues s 0x13 { shape2 1 with d := .r64, a := .none, b := .r64, carries := true } g f grp →
    ∃ t after, exec (.mov g f) s = .next t ∧ OnlyGroup s t g after ∧ Passed grp after f.ext.toNat ∧
      OnlyThreadRegs grp after [f.dst.toNat, f.dst.toNat + 1] ∧
      ∀ l, l < 32 → Claims.pair after f.dst.toNat l =
        (if (Group.executing grp f.gp f.gn).testBit l then (if f.ib = 1 then f.x1.toNat else Group.operand grp .r64 f.sb.toNat (bit1 f.ub) l)
          else Claims.pair grp f.dst.toNat l)) ∧
  (∀ (s : State) (g : GroupLoc) (f : RegForm) (grp : Group),
    Issues s 0x14 { shape2 0 with d := .r64, a := .r64, b := .r64 } g f grp →
    ∃ t after, exec (.iadd64 g f) s = .next t ∧ OnlyGroup s t g after ∧ Passed grp after f.ext.toNat ∧
      OnlyThreadRegs grp after [f.dst.toNat, f.dst.toNat + 1] ∧
      let o := readOperands { shape2 0 with d := .r64, a := .r64, b := .r64 } grp f
      ∀ l, l < 32 → Claims.pair after f.dst.toNat l =
        (if o.ex.testBit l then (BitVec.ofNat 64 (o.a l) + BitVec.ofNat 64 (o.b l)).toNat else Claims.pair grp f.dst.toNat l)) ∧
  (∀ (s : State) (g : GroupLoc) (f : RegForm) (grp : Group),
    Issues s 0x15 { shape3 1 with d := .r64, c := .r64 } g f grp →
    ∃ t after, exec (.imadw g f) s = .next t ∧ OnlyGroup s t g after ∧ Passed grp after f.ext.toNat ∧
      OnlyThreadRegs grp after [f.dst.toNat, f.dst.toNat + 1] ∧
      let o := readOperands { shape3 1 with d := .r64, c := .r64 } grp f
      ∀ l, l < 32 → Claims.pair after f.dst.toNat l =
        (if o.ex.testBit l then
          ((if f.sub.getLsbD 0 then (o.a32 l).signExtend 64 * (o.b32 l).signExtend 64 else (o.a32 l).zeroExtend 64 * (o.b32 l).zeroExtend 64)
            + BitVec.ofNat 64 (o.c l)).toNat
        else Claims.pair grp f.dst.toNat l))

/-! ### Predicates -/

/-- Predicate `d` after an instruction gives it `v` in the lanes of `ex`: p7 is never written (R70, R105). -/
def Claims.predAfter (grp after : Group) (d ex : Nat) (v : Nat → Bool) : Prop :=
  OnlyPred grp after d ∧ ∀ l, l < 32 →
    (Group.pred after d).testBit l = if d ≠ 7 ∧ ex.testBit l then v l else (Group.pred grp d).testBit l

/-- The conditions of R105 on integers. -/
def Claims.integerCondition (code : Nat) (signed : Bool) (a b : BitVec 32) : Bool :=
  match code with
  | 0 => a == b
  | 1 => a != b
  | 2 => if signed then a.slt b else a.ult b
  | 3 => if signed then a.sle b else a.ule b
  | 4 => if signed then b.slt a else b.ult a
  | _ => if signed then b.sle a else b.ule a

/-- R70, R102, R105, R106, R113: ICMP, FCMP, PLOP and VOTE (any, all) write one predicate in the executing lanes. -/
def Obligations.Predicates : Prop :=
  (∀ (s : State) (g : GroupLoc) (f : RegForm) (grp : Group) (sh : Shape),
    sh = { shape2 0x3C0 with d := .pred, reserved := decide (6 ≤ f.sub.toNat / 128) } → Issues s 0x16 sh g f grp →
    ∃ t after, exec (.icmp g f) s = .next t ∧ OnlyGroup s t g after ∧ Passed grp after f.ext.toNat ∧
      let o := readOperands sh grp f
      Claims.predAfter grp after f.dst.toNat (Group.executing grp f.gp f.gn)
        (fun l => Claims.integerCondition (f.sub.toNat / 128) (f.sub.getLsbD 6) (o.a32 l) (o.b32 l))) ∧
  (∀ (s : State) (g : GroupLoc) (f : RegForm) (grp : Group) (sh : Shape), sh = { shape2 0x3E0 with d := .pred } → Issues s 0x25 sh g f grp →
    ∃ t after, exec (.fcmp g f) s = .next t ∧ OnlyGroup s t g after ∧ Passed grp after f.ext.toNat ∧
      let o := readOperands sh grp f
      Claims.predAfter grp after f.dst.toNat (Group.executing grp f.gp f.gn)
        (fun l => fCmp (f.sub.toNat / 128) (negIf f 5 (o.a l)) (negIf f 6 (o.b l)))) ∧
  (∀ (s : State) (g : GroupLoc) (f : RegForm) (grp : Group),
    Issues s 0x17 { shape2 0xF with d := .pred, a := .pred, b := .pred, imm := false } g f grp →
    ∃ t after, exec (.plop g f) s = .next t ∧ OnlyGroup s t g after ∧ Passed grp after f.ext.toNat ∧
      Claims.predAfter grp after f.dst.toNat (Group.executing grp f.gp f.gn)
        (fun l => f.sub.getLsbD (2 * b2n ((Group.pred grp f.sb.toNat).testBit l) + b2n ((Group.pred grp f.sa.toNat).testBit l)))) ∧
  (∀ (s : State) (g : GroupLoc) (f : RegForm) (grp : Group), f.sub.toNat % 4 < 2 →
    Issues s 0x48 { shape1 3 with d := .pred, a := .pred } g f grp →
    ∃ t after, exec (.vote g f) s = .next t ∧ OnlyGroup s t g after ∧ Passed grp after f.ext.toNat ∧
      let ex := Group.executing grp f.gp f.gn
      let p (l : Nat) : Bool := (Group.pred grp f.sa.toNat).testBit l
      Claims.predAfter grp after f.dst.toNat ex
        (fun _ => if f.sub.toNat % 4 = 0 then (List.range 32).any (fun l => ex.testBit l && p l)
          else (List.range 32).all (fun l => !ex.testBit l || p l)))

/-! ### Floating point -/

/-- 0x20 to 0x2A of Table 4.3, with the exact arithmetic and the one rounding of chapter 6. -/
def Claims.floatRows : List Claims.LaneRow := [
  ⟨.fadd, 0x20, fun _ => shape2 0x3E0, fun f a b _ => BitVec.ofNat 32 (fAdd (roundOf f) (negIf f 5 a.toNat) (negIf f 6 b.toNat))⟩,
  ⟨.fmul, 0x21, fun _ => shape2 0x3E0, fun f a b _ => BitVec.ofNat 32 (fMul (roundOf f) (negIf f 5 a.toNat) (negIf f 6 b.toNat))⟩,
  ⟨.ffma, 0x22, fun _ => shape3 0x3E0, fun f a b c =>
    BitVec.ofNat 32 (fFma (roundOf f) (negIf f 5 a.toNat) (negIf f 6 b.toNat) (negIf f 7 c.toNat))⟩,
  ⟨.fmin, 0x23, fun _ => shape2 0x3E0, fun f a b _ => BitVec.ofNat 32 (fMinMax false (negIf f 5 a.toNat) (negIf f 6 b.toNat))⟩,
  ⟨.fmax, 0x24, fun _ => shape2 0x3E0, fun f a b _ => BitVec.ofNat 32 (fMinMax true (negIf f 5 a.toNat) (negIf f 6 b.toNat))⟩,
  ⟨.hadd2, 0x26, fun _ => shape2 0x200, fun f a b _ =>
    BitVec.ofNat 32 (packed2 (packedFormat f) (fun a b _ => Machine.Num.add false a b) a.toNat b.toNat 0)⟩,
  ⟨.hmul2, 0x27, fun _ => shape2 0x200, fun f a b _ => BitVec.ofNat 32 (packed2 (packedFormat f) (fun a b _ => Machine.Num.mul a b) a.toNat b.toNat 0)⟩,
  ⟨.hfma2, 0x28, fun _ => shape3 0x200, fun f a b c =>
    BitVec.ofNat 32 (packed2 (packedFormat f) (fun a b c => Machine.Num.add false (Machine.Num.mul a b) c) a.toNat b.toNat c.toNat)⟩,
  ⟨.cvt, 0x29, fun f => { shape1 0x3FF with reserved := decide (8 < f.sub.toNat / 64 ∨ 8 < f.sub.toNat / 4 % 16 ∨ 2 ≤ f.sub.toNat % 4) },
    fun f a _ _ => BitVec.ofNat 32 (convertNum (f.sub.toNat / 64) (f.sub.toNat / 4 % 16) (if f.sub.toNat % 4 = 0 then .rne else .rtz) false
      (a.toNat % 2 ^ formatBits (f.sub.toNat / 64))).bits⟩,
  ⟨.sfn, 0x2A, fun f => { shape1 7 with reserved := decide (6 ≤ f.sub.toNat % 8) }, fun f a _ _ => BitVec.ofNat 32 (sfnFn (f.sub.toNat % 8) a.toNat)⟩]

/-- R102, R107 to R111: FADD, FMUL, FFMA, FMIN, FMAX, HADD2, HMUL2, HFMA2, CVT and SFN. -/
def Obligations.FloatLanes : Prop := ∀ r ∈ Claims.floatRows, Claims.LaneRow.works r

/-- R107: a NaN result is the canonical quiet NaN, whatever the inputs; FMIN and FMAX return the operand that is not NaN when exactly one is. -/
def Obligations.FloatNan : Prop :=
  (∀ mode a b, Machine.Num.isNan (ofS32 (fAdd mode a b)) = true → fAdd mode a b = 0x7FC00000) ∧
  (∀ mode a b, Machine.Num.isNan (ofS32 (fMul mode a b)) = true → fMul mode a b = 0x7FC00000) ∧
  (∀ mode a b c, Machine.Num.isNan (ofS32 (fFma mode a b c)) = true → fFma mode a b c = 0x7FC00000) ∧
  (∀ mx a b, Machine.Num.isNan (ofS32 a) = true → Machine.Num.isNan (ofS32 b) = true → fMinMax mx a b = 0x7FC00000) ∧
  (∀ mx a b, Machine.Num.isNan (ofS32 a) = true → Machine.Num.isNan (ofS32 b) = false → fMinMax mx a b = b) ∧
  (∀ mx a b, Machine.Num.isNan (ofS32 a) = false → Machine.Num.isNan (ofS32 b) = true → fMinMax mx a b = a)

/-- The rational number an exact value stands for (0 for NaN and the infinities, which no clause below meets). -/
def Claims.Num.value (v : Machine.Num) : Rat :=
  match v with
  | .fin neg m e => (if neg then -1 else 1) * (m : Rat) * (2 : Rat) ^ e
  | _ => 0

def Claims.Num.finite (v : Machine.Num) : Bool :=
  match v with
  | .fin _ _ _ => true
  | _ => false

/-- R107, the rounding directions on FADD and FMUL, for finite operands and a finite result: nearest, towards zero, upward, downward. -/
def Obligations.FloatRounding : Prop :=
  ∀ (a b : Nat) (mode : Round) (mul : Bool), Claims.Num.finite (ofS32 a) = true → Claims.Num.finite (ofS32 b) = true →
    let x := if mul then Claims.Num.value (ofS32 a) * Claims.Num.value (ofS32 b) else Claims.Num.value (ofS32 a) + Claims.Num.value (ofS32 b)
    let r := ofS32 (if mul then fMul mode a b else fAdd mode a b)
    Claims.Num.finite r = true →
      match mode with
      | .rne => ∀ y, Claims.Num.finite (ofS32 y) = true → |Claims.Num.value r - x| ≤ |Claims.Num.value (ofS32 y) - x|
      | .rtz => |Claims.Num.value r| ≤ |x| ∧ ∀ y, Claims.Num.finite (ofS32 y) = true → |Claims.Num.value (ofS32 y)| ≤ |x| →
          |Claims.Num.value (ofS32 y)| ≤ |Claims.Num.value r|
      | .up => x ≤ Claims.Num.value r ∧ ∀ y, Claims.Num.finite (ofS32 y) = true → x ≤ Claims.Num.value (ofS32 y) → Claims.Num.value r ≤ Claims.Num.value (ofS32 y)
      | .down => Claims.Num.value r ≤ x ∧ ∀ y, Claims.Num.finite (ofS32 y) = true → Claims.Num.value (ofS32 y) ≤ x → Claims.Num.value (ofS32 y) ≤ Claims.Num.value r
      | .sr _ => True

/-! ### Uniform registers, special registers and lane exchange -/

/-- Only uniform register `n` of the group changes, to `v` with poison mark `p`. -/
def Claims.uniAfter (grp after : Group) (n v : Nat) (p : Bool) : Prop :=
  OnlyUniform grp after [n] ∧ Group.uni after n = v ∧ Group.uniPoison after n = p

/-- The operations of R112. -/
def Claims.uniformFn (code : Nat) (a b : BitVec 32) : BitVec 32 :=
  match code with
  | 0 => a + b
  | 1 => a - b
  | 2 => a * b
  | 3 => a &&& b
  | 4 => a ||| b
  | 5 => a ^^^ b
  | 6 => a <<< b.toNat
  | 7 => a >>> b.toNat
  | 8 => if a.sle b then a else b
  | _ => if a.sle b then b else a

/-- What SRD reads into a uniform register (Table 4.8). -/
def Claims.special (s : State) (g : GroupLoc) (grp : Group) (sel : Nat) : Nat :=
  match sel with
  | 1 => grp.active.toNat
  | 3 => s.moduleNumber % 2 ^ 14
  | 4 => grp.job.toNat
  | _ => (NMap.get (State.cell s g.cell).epochs 0 grp.job.toNat).toNat

/-- The lane SHFL reads for lane `i` (R114). -/
def Claims.shuffleSource (mode ex i b : Nat) : Nat :=
  let s : Int := match mode with
    | 0 => ((b % 32 : Nat) : Int)
    | 1 => (i : Int) - b
    | 2 => (i : Int) + b
    | _ => ((i ^^^ (b % 32) : Nat) : Int)
  if s < 0 ∨ 31 < s then i else if ex.testBit s.toNat then s.toNat else i

/-- R86, R112, R113, R130: UALU, THREAD_TO_UNIFORM, SRD (MASK, TIME, MODULE, JOB, EPOCH) and VOTE (ballot) write a uniform register. -/
def Obligations.UniformWrites : Prop :=
  (∀ (s : State) (g : GroupLoc) (f : RegForm) (grp : Group) (sh : Shape),
    sh = { shape2 0xF with d := .uni, a := .uni, b := .uni, group := true, reserved := decide (10 ≤ f.sub.toNat % 16) } →
    Issues s 0x40 sh g f grp →
    ∃ t after, exec (.ualu g f) s = .next t ∧ OnlyGroup s t g after ∧ Passed grp after f.ext.toNat ∧
      let o := readOperands sh grp f
      Claims.uniAfter grp after f.dst.toNat (Claims.uniformFn (f.sub.toNat % 16) (o.a32 0) (o.b32 0)).toNat false) ∧
  (∀ (s : State) (g : GroupLoc) (f : RegForm) (grp : Group) (lane : Nat),
    Issues s 0x41 { shape1 0x3F with d := .uni, a := .thread, group := true, carries := true } g f grp →
    (if f.sub.getLsbD 5 then lane < 32 ∧ grp.active.getLsbD lane = true ∧ ∀ k, k < lane → grp.active.getLsbD k = false
      else lane = f.sub.toNat % 32) →
    ∃ t after, exec (.threadToUniform g f) s = .next t ∧ OnlyGroup s t g after ∧ Passed grp after f.ext.toNat ∧
      Claims.uniAfter grp after f.dst.toNat (Group.lane grp f.sa.toNat lane) ((Group.poisonOf grp f.sa.toNat).testBit lane)) ∧
  (∀ (s : State) (g : GroupLoc) (f : RegForm) (grp : Group) (sel : Nat), f.sub.toNat % 256 = sel → sel = 1 ∨ sel = 3 ∨ sel = 4 ∨ sel = 5 →
    Issues s 0x42 { shape1 0xFF with d := .uni, a := .none, group := true } g f grp →
    ∃ t after, exec (.srd g f) s = .next t ∧ OnlyGroup s t g after ∧ Passed grp after f.ext.toNat ∧
      Claims.uniAfter grp after f.dst.toNat (Claims.special s g grp sel) false) ∧
  (∀ (s : State) (g : GroupLoc) (f : RegForm) (grp : Group), f.sub.toNat % 256 = 2 →
    Issues s 0x42 { shape1 0xFF with d := .uniPair, a := .none, group := true } g f grp →
    ∃ t after, exec (.srd g f) s = .next t ∧ OnlyGroup s t g after ∧ Passed grp after f.ext.toNat ∧
      OnlyUniform grp after [f.dst.toNat, f.dst.toNat + 1] ∧ Group.uniPair after f.dst.toNat = s.timebase % 2 ^ 64) ∧
  (∀ (s : State) (g : GroupLoc) (f : RegForm) (grp : Group), f.sub.toNat % 4 = 2 → Issues s 0x48 { shape1 3 with d := .uni, a := .pred } g f grp →
    ∃ t after, exec (.vote g f) s = .next t ∧ OnlyGroup s t g after ∧ Passed grp after f.ext.toNat ∧
      Claims.uniAfter grp after f.dst.toNat (Group.pred grp f.sa.toNat &&& Group.executing grp f.gp f.gn) false)

/-- R86, R114, R130: SHFL gives each executing lane the value and the mark of its source lane; SRD of LANE gives the lane number. -/
def Obligations.LaneExchange : Prop :=
  (∀ (s : State) (g : GroupLoc) (f : RegForm) (grp : Group), Issues s 0x49 { shape2 3 with carries := true } g f grp →
    ∃ t after, exec (.shfl g f) s = .next t ∧ OnlyGroup s t g after ∧ Passed grp after f.ext.toNat ∧ OnlyThreadRegs grp after [f.dst.toNat] ∧
      let o := readOperands { shape2 3 with carries := true } grp f
      ∀ l, l < 32 →
        let src := Claims.shuffleSource (f.sub.toNat % 4) o.ex l (o.b l)
        Group.lane after f.dst.toNat l = (if o.ex.testBit l then o.a src else Group.lane grp f.dst.toNat l) ∧
        (Group.poisonOf after f.dst.toNat).testBit l =
          (if o.ex.testBit l then (Group.operandPoison grp .r32 f.sa.toNat (bit1 f.ua)).testBit src else (Group.poisonOf grp f.dst.toNat).testBit l)) ∧
  (∀ (s : State) (g : GroupLoc) (f : RegForm) (grp : Group), f.sub.toNat % 256 = 0 →
    Issues s 0x42 { shape1 0xFF with a := .none } g f grp →
    ∃ t after, exec (.srd g f) s = .next t ∧ OnlyGroup s t g after ∧ Passed grp after f.ext.toNat ∧ OnlyThreadRegs grp after [f.dst.toNat] ∧
      ∀ l, l < 32 → Group.lane after f.dst.toNat l =
        (if (Group.executing grp f.gp f.gn).testBit l then l else Group.lane grp f.dst.toNat l))

/-! ### Parking -/

/-- The register-form instructions of chapter 4 with their shapes: those whose only checks are ILLEGAL and POISON. -/
def Claims.parkRows : List ((GroupLoc → RegForm → Instr) × Nat × (RegForm → Shape)) :=
  (Claims.integerRows ++ Claims.floatRows).map (fun r => (r.ctor, r.op, r.sh)) ++ [
    (.nop, 0x00, fun _ => { shape1 0 with d := .none, a := .none }),
    (.sel, 0x12, fun _ => shape2 7),
    (.mov, 0x13, fun f =>
      let k := if f.sub.getLsbD 0 then OperandKind.r64 else OperandKind.r32
      { shape2 1 with d := k, a := .none, b := k, carries := true }),
    (.iadd64, 0x14, fun _ => { shape2 0 with d := .r64, a := .r64, b := .r64 }),
    (.imadw, 0x15, fun _ => { shape3 1 with d := .r64, c := .r64 }),
    (.icmp, 0x16, fun f => { shape2 0x3C0 with d := .pred, reserved := decide (6 ≤ f.sub.toNat / 128) }),
    (.plop, 0x17, fun _ => { shape2 0xF with d := .pred, a := .pred, b := .pred, imm := false }),
    (.fcmp, 0x25, fun _ => { shape2 0x3E0 with d := .pred }),
    (.ualu, 0x40, fun f => { shape2 0xF with d := .uni, a := .uni, b := .uni, group := true, reserved := decide (10 ≤ f.sub.toNat % 16) }),
    (.shfl, 0x49, fun _ => { shape2 3 with carries := true })]

/-- A parked group: its record holds what R88 and Table 3.7 say, PC is the instruction's own, and its registers are as they were. -/
def Claims.parkedAt (s t : State) (g : GroupLoc) (grp : Group) (code detail addr : Nat) (lanes : Word) (insn : DWord) : Prop :=
  OnlyCell { s with tel := t.tel } t g.cell ∧
  (∃ after, State.group t g = some after ∧
    after = { grp with pc := grp.pc, fetched := [], hold := after.hold }) ∧
  (∀ k, k ≠ g.slot → Cell.group (State.cell t g.cell) k = Cell.group (State.cell s g.cell) k) ∧
  (∃ gs pl rc sw, State.cell t g.cell = { State.cell s g.cell with groups := gs, parkList := pl, regCache := rc, slotWaits := sw }) ∧
  ∃ r, NMap.find (State.cell t g.cell).parkList g.slot = some r ∧ r.stamp = s.timebase ∧ r.code = BitVec.ofNat 8 code ∧
    r.detail = BitVec.ofNat 8 detail ∧ r.addr = BitVec.ofNat 64 addr ∧ r.faultLanes = lanes ∧ r.mask = grp.active ∧ r.pc = grp.pc ∧
    r.job = grp.job ∧ r.slot = g.slot ∧ r.state = .parked ∧ r.insn = insn

/-- R84, R86, R88, R99, R101: an illegal register-form word parks its group with ILLEGAL and the DETAIL of the first failing check; a
poisoned source parks it with POISON, DETAIL the first poisoned source in the order A, B, C; nothing is written. -/
def Obligations.RegisterFormParks : Prop :=
  ∀ r ∈ Claims.parkRows, ∀ (s : State) (g : GroupLoc) (f : RegForm) (grp : Group),
    State.issuable s g (regWords r.2.1 f) = some grp → Group.awaits grp (shapeRegs (r.2.2 f) f) = false →
    (∀ d, regIllegal (r.2.2 f) grp.regs f = some d →
      ∃ t, exec (r.1 g f) s = .next t ∧ Claims.parkedAt s t g grp 0x08 d 0 grp.active (regWord r.2.1 f)) ∧
    (∀ p, regIllegal (r.2.2 f) grp.regs f = none → regPark (r.2.2 f) grp f = some p →
      p.code = 0x04 ∧ ∃ t, exec (r.1 g f) s = .next t ∧
        Claims.parkedAt s t g grp 0x04 p.detail p.addr (faultLanes grp p) (regWord r.2.1 f))

/-! ### Control flow -/

/-- Lane `l` is active and its branch condition (CP, CN) holds. -/
def Claims.condition (grp : Group) (f : BrForm) (l : Nat) : Bool :=
  grp.active.getLsbD l && ((Group.pred grp f.cp.toNat).testBit l != decide (f.cn = 1))

/-- The following instruction, and the target of `bra` and `call` (R97, R115). -/
def Claims.following (grp : Group) (f : BrForm) : BitVec 31 := grp.pc + 1 + BitVec.ofNat 31 f.ext.toNat
def Claims.branchTarget (grp : Group) (f : BrForm) : BitVec 31 :=
  if f.ext = 1 then f.x1.truncate 31 else grp.pc + f.offA.signExtend 31

/-- R97, R115: BRA, CALL and RET move the whole group; CALL leaves the return address in a uniform register. -/
def Obligations.Branches : Prop :=
  (∀ (s : State) (g : GroupLoc) (f : BrForm) (grp : Group),
    State.issuable s g (brWords 0x50 f) = some grp → brIllegal f false true true false 1 1 = false →
    ∃ t after, exec (.bra g f) s = .next t ∧ OnlyGroup s t g after ∧ after = { grp with pc := after.pc, fetched := [], issued := true } ∧
      let taken : Bool := if f.sub.getLsbD 0 then (List.range 32).all (fun l => !grp.active.getLsbD l || Claims.condition grp f l)
        else (List.range 32).any (fun l => Claims.condition grp f l)
      after.pc = if taken then Claims.branchTarget grp f else Claims.following grp f) ∧
  (∀ (s : State) (g : GroupLoc) (f : BrForm) (grp : Group),
    State.issuable s g (brWords 0x51 f) = some grp → brIllegal f false true true false 0x3F 1 = false → f.cp = 7 → f.cn = 0 →
    ∃ t after, exec (.call g f) s = .next t ∧ OnlyGroup s t g after ∧ after.fetched = [] ∧ after.pc = Claims.branchTarget grp f ∧
      Claims.uniAfter grp after (f.sub.toNat % 64) (Claims.following grp f).toNat false) ∧
  (∀ (s : State) (g : GroupLoc) (f : BrForm) (grp : Group),
    State.issuable s g (brWords 0x52 f) = some grp → brIllegal f false true false false 0x3F 0 = false → f.cp = 7 → f.cn = 0 →
    Group.uniPoison grp (f.sub.toNat % 64) = false → Group.uni grp (f.sub.toNat % 64) < 2 ^ 31 →
    ∃ t, exec (.ret g f) s = .next t ∧
      OnlyGroup s t g { grp with pc := BitVec.ofNat 31 (Group.uni grp (f.sub.toNat % 64)), fetched := [], issued := true })

/-- R76, R77: SPLIT branches uniformly where the active lanes agree, else pushes RECONV and PENDING; JOIN pops the top entry. -/
def Obligations.SplitJoin : Prop :=
  (∀ (s : State) (g : GroupLoc) (f : BrForm) (grp : Group),
    State.issuable s g (brWords 0x53 f) = some grp → brIllegal f false true true true 0 0 = false →
    grp.stack.length + grp.spilled + 2 ≤ 16 + grp.allowance →
    ∃ t after, exec (.split g f) s = .next t ∧ OnlyGroup s t g after ∧
      let taken : Word := BitVec.ofNat 32 (condLanes grp f)
      let target := grp.pc + f.offA.signExtend 31
      let rpc := grp.pc + f.offB.signExtend 31
      (∀ l, l < 32 → taken.getLsbD l = Claims.condition grp f l) ∧
      (taken = 0 → after = { grp with pc := Claims.following grp f, fetched := [], issued := true }) ∧
      (taken ≠ 0 → taken = grp.active → after = { grp with pc := target, fetched := [], issued := true }) ∧
      (taken ≠ 0 → taken ≠ grp.active →
        after = { grp with
          stack := { kind := .pending, pc := target, mask := taken } :: { kind := .reconv, pc := rpc, mask := grp.active } :: grp.stack
          active := grp.active &&& ~~~taken, pc := Claims.following grp f, fetched := [], issued := true
          hold := if 16 < grp.stack.length + 2 then .spill else grp.hold })) ∧
  (∀ (s : State) (g : GroupLoc) (f : BrForm) (grp : Group) (e : MaskEntry) (rest : List MaskEntry),
    State.issuable s g (brWords 0x54 f) = some grp → brIllegal f false false false false 0 0 = false → grp.stack = e :: rest →
    ∃ t, exec (.join g f) s = .next t ∧
      OnlyGroup s t g { grp with
        stack := rest, active := e.mask, pc := e.pc, fetched := [], issued := true, hold := if rest = [] ∧ 0 < grp.spilled then .reload else grp.hold })

/-- R81, R116: EXIT takes the lanes that execute it out of the active mask and of every mask-stack entry; while lanes are left the group
goes on, and with no lane left and nothing on its stack it has none. -/
def Obligations.ExitRemovesLanes : Prop :=
  ∀ (s : State) (g : GroupLoc) (f : BrForm) (grp : Group),
    State.issuable s g (brWords 0x55 f) = some grp → brIllegal f true false false false 0 0 = false → grp.spilled = 0 →
    let gone : Word := BitVec.ofNat 32 (Group.executing grp f.gp f.gn)
    let entries := grp.stack.map (fun e => { e with mask := e.mask &&& ~~~gone })
    ∃ t after, exec (.exit g f) s = .next t ∧ OnlyGroup s t g after ∧
      (grp.active &&& ~~~gone ≠ 0 →
        after = { grp with active := grp.active &&& ~~~gone, stack := entries, pc := Claims.following grp f, fetched := [], issued := true }) ∧
      (grp.active &&& ~~~gone = 0 → (∀ e ∈ entries, e.mask = 0) → after.active = 0 ∧ after.stack = []) ∧
      (grp.active &&& ~~~gone = 0 → ∀ skipped e rest, entries = skipped ++ e :: rest → (∀ x ∈ skipped, x.mask = 0) → e.mask ≠ 0 →
        after.active = e.mask ∧ after.pc = e.pc ∧ after.stack = rest)

/-- R94, R101, R103, R116: BRK parks with BREAK, PC at the following instruction; a word of an unassigned opcode parks with ILLEGAL. -/
def Obligations.BreakAndUnassigned : Prop :=
  (∀ (s : State) (g : GroupLoc) (f : BrForm) (grp : Group),
    State.issuable s g (brWords 0x56 f) = some grp → brIllegal f false false false false 0xFF 0 = false →
    ∃ t r, exec (.brk g f) s = .next t ∧ (∃ after, State.group t g = some after ∧ after = { grp with pc := Claims.following grp f, fetched := [], hold := after.hold, issued := true }) ∧
      NMap.find (State.cell t g.cell).parkList g.slot = some r ∧ r.code = 0x09 ∧ r.detail = BitVec.ofNat 8 f.sub.toNat ∧
      r.pc = Claims.following grp f ∧ r.mask = grp.active ∧ r.state = .parked ∧ r.stamp = s.timebase ∧ r.job = grp.job ∧
      t.mem = s.mem ∧ ∀ c, c ≠ g.cell → State.cell t c = State.cell s c) ∧
  (∀ (s : State) (g : GroupLoc) (w : BitVec 64) (grp : Group),
    State.issuable s g [w] = some grp → unassigned w = true →
    ∃ t, exec (.unassignedOpcode g w) s = .next t ∧ Claims.parkedAt s t g grp 0x08 0x00 0 grp.active w)

/-! ### Local memory -/

/-- The memory-form instruction at `g` issues, none of its registers awaits a result, no acquire is outstanding and its word is legal. -/
def Claims.memIssues (s : State) (op : Nat) (k : MemKind) (g : GroupLoc) (f : MemForm) (grp : Group) : Prop :=
  State.issuable s g (memWords op f) = some grp ∧ Group.awaits grp (memRegs k f) = false ∧ State.acquiring s g.cell grp = false ∧
    memIllegal k grp.regs f = none

/-- The lanes that execute, ascending. -/
def Claims.lanes (grp : Group) (f : MemForm) : List Nat := (List.range 32).filter (fun l => (Group.executing grp f.gp f.gn).testBit l)

/-- Every executing lane of a local access is aligned, outside the spill reservation and has an unpoisoned address (R79, R85, R86, R120). -/
def Claims.localAllowed (s : State) (g : GroupLoc) (f : MemForm) (atomic : Bool) (grp : Group) : Prop :=
  f.space = 0 ∧ Group.operandPoison grp .r32 f.addr.toNat (bit1 f.ua) &&& Group.executing grp f.gp f.gn = 0 ∧
    ∀ l ∈ Claims.lanes grp f, effective f atomic grp l % 2 ^ f.size.toNat = 0 ∧
      ((State.cell s g.cell).reservation = true → effective f atomic grp l < 0x70000)

/-- Besides, no byte it names is undefined by an incomplete copy or drain, or lies in a staging area (R185, R400). -/
def Claims.localClear (s : State) (g : GroupLoc) (f : MemForm) (atomic : Bool) (grp : Group) : Prop :=
  Claims.localAllowed s g f atomic grp ∧
    ∀ l ∈ Claims.lanes grp f, Claims.offStage s g.cell [(effective f atomic grp l, 2 ^ f.size.toNat)] ∧
      ∀ i, i < 2 ^ f.size.toNat → Cell.unsettled (State.cell s g.cell) (effective f atomic grp l + i) = false

/-- No release that the cell holds for the group writes a byte that a lane names (R134), and the instruction is no release that has something to wait for (R138). -/
def Claims.unheld (s : State) (g : GroupLoc) (f : MemForm) (atomic : Bool) (grp : Group) : Prop :=
  (∀ l ∈ Claims.lanes grp f, ∀ i, i < 2 ^ f.size.toNat → effective f atomic grp l + i ∉ State.heldBytes s g.cell g.slot true) ∧
    (f.ord = 2 ∨ f.ord = 3 → State.outstanding s g.cell g.slot f.scope.toNat = [])

/-- No request of the region is outstanding to a module declared failed (such requests are answered LOST at once, R394). -/
def Claims.settled (s : State) (c : Nat) : Prop :=
  ∀ e ∈ (State.region s (regionOf c)).txns, NMap.find s.fabric.failed e.2.packet.destination = none

/-- Only the cell of `g` and the counters change: every other cell, every other group of the cell, every byte of stacked memory and every
other field of the module is as it was. -/
def Claims.cellAndCounters (s t : State) (g : GroupLoc) : Prop :=
  t = { s with cells := t.cells, tel := t.tel } ∧ (∀ c, c ≠ g.cell → State.cell t c = State.cell s c) ∧
    ∀ k, k ≠ g.slot → Cell.group (State.cell t g.cell) k = Cell.group (State.cell s g.cell) k

/-- The registers a datum of 2^size bytes takes: how many, and the bytes of each. -/
def Claims.dataRegs (f : MemForm) : Nat := if f.size.toNat ≤ 2 then 1 else 2 ^ f.size.toNat / 4
def Claims.regBytes (f : MemForm) : Nat := min 4 (2 ^ f.size.toNat)

/-- R119, R120, R146: a load from local memory writes its registers, extended as SX says, with the marks of the words read; it changes no memory. -/
def Obligations.LocalLoad : Prop :=
  ∀ (s : State) (g : GroupLoc) (f : MemForm) (grp : Group),
    Claims.memIssues s 0x60 .load g f grp → Claims.localClear s g f false grp → Claims.unheld s g f false grp → Claims.settled s g.cell →
    let x := State.cell s g.cell
    ∃ t after, exec (.ld g f) s = .next t ∧ Claims.cellAndCounters s t g ∧ State.group t g = some after ∧ Passed grp after 0 ∧
      (State.cell t g.cell).localMem = x.localMem ∧ (State.cell t g.cell).localPoison = x.localPoison ∧
      OnlyThreadRegs grp after (tabulate (Claims.dataRegs f) (fun k => f.data.toNat + k)) ∧
      ∀ k, k < Claims.dataRegs f → ∀ l, l < 32 →
        let a := effective f false grp l + 4 * k
        let v := Cell.localNat x a (Claims.regBytes f)
        Group.lane after (f.data.toNat + k) l =
          (if l ∈ Claims.lanes grp f then
            (if f.sx = 1 ∧ f.size.toNat < 2 then ((BitVec.ofNat (8 * 2 ^ f.size.toNat) v).signExtend 32).toNat else v)
          else Group.lane grp (f.data.toNat + k) l) ∧
        (Group.poisonOf after (f.data.toNat + k)).testBit l =
          (if l ∈ Claims.lanes grp f then NMap.get x.localPoison false (a % 2 ^ 19 / 4) else (Group.poisonOf grp (f.data.toNat + k)).testBit l)

/-- The lane whose store gives byte `a` its value: the highest-numbered executing lane that names it (R149). -/
def Claims.storingLane (f : MemForm) (grp : Group) (a : Nat) : Option Nat :=
  (Claims.lanes grp f).reverse.find? (fun l => decide (effective f false grp l ≤ a ∧ a < effective f false grp l + 2 ^ f.size.toNat))

/-- R146, R149: a store to local memory writes, at each byte an executing lane names, that of the highest such lane, with the poison mark of
its register; every byte and mark outside the lanes' effective addresses is as it was. -/
def Obligations.LocalStore : Prop :=
  ∀ (s : State) (g : GroupLoc) (f : MemForm) (grp : Group),
    Claims.memIssues s 0x61 .store g f grp → Claims.localClear s g f false grp → Claims.unheld s g f false grp → Claims.settled s g.cell →
    let x := State.cell s g.cell
    ∃ t, exec (.st g f) s = .next t ∧ Claims.cellAndCounters s t g ∧
      State.group t g = some { grp with pc := grp.pc + 1, fetched := [], issued := true } ∧
      (∀ a, a < 2 ^ 19 → Cell.localByte (State.cell t g.cell) a =
        match Claims.storingLane f grp a with
        | none => Cell.localByte x a
        | some l => (let i := a - effective f false grp l; BitVec.ofNat 8 (Group.lane grp (f.data.toNat + i / 4) l / 2 ^ (8 * (i % 4))))) ∧
      ∀ w, w < 2 ^ 17 → NMap.get (State.cell t g.cell).localPoison false w =
        (if (List.range 4).any (fun i => (Claims.storingLane f grp (4 * w + i)).isSome) then
          (List.range 4).any (fun i => match Claims.storingLane f grp (4 * w + i) with
            | none => false
            | some l => (Group.poisonOf grp (f.data.toNat + (4 * w + i - effective f false grp l) / 4)).testBit l)
        else NMap.get x.localPoison false w)

/-- The operation of an atomic on values of `w` bits (Table 4.3, R107, R123, R155). -/
def Claims.atomicValue (op : AtomicOp) (signed : Bool) (w v b c : Nat) : Nat :=
  match op with
  | .add => (v + b) % 2 ^ w
  | .min => if (if signed then (BitVec.ofNat w v).sle (BitVec.ofNat w b) else decide (v ≤ b)) then v else b
  | .max => if (if signed then (BitVec.ofNat w v).sle (BitVec.ofNat w b) else decide (v ≤ b)) then b else v
  | .and => v &&& b
  | .or => v ||| b
  | .xor => v ^^^ b
  | .xch => b
  | .cas => if v = c then b else v
  | .fadd => fAdd .rne v b

/-- The atomic instructions: constructor, opcode, kind of word, operation. -/
def Claims.atomicRows : List ((GroupLoc → MemForm → Instr) × Nat × MemKind × AtomicOp) := [
  (.atomAdd, 0x62, .atomic false false, .add), (.atomMin, 0x63, .atomic false true, .min), (.atomMax, 0x64, .atomic false true, .max),
  (.atomAnd, 0x65, .atomic false false, .and), (.atomOr, 0x66, .atomic false false, .or), (.atomXor, 0x67, .atomic false false, .xor),
  (.atomXch, 0x68, .atomic false false, .xch), (.atomCas, 0x69, .atomic true false, .cas), (.atomFadd, 0x6A, .fadd, .fadd)]

/-- R155: the sequence over the lanes that name one address, on local memory. -/
def Obligations.LocalAtomics : Prop :=
  ∀ r ∈ Claims.atomicRows, ∀ (s : State) (g : GroupLoc) (f : MemForm) (grp : Group),
    Claims.memIssues s r.2.1 r.2.2.1 g f grp → Claims.localClear s g f true grp → Claims.unheld s g f true grp → Claims.settled s g.cell →
    let x := State.cell s g.cell
    let w := 2 ^ f.size.toNat
    let a (l : Nat) : Nat := effective f true grp l
    let kind := if f.size.toNat ≤ 2 then OperandKind.r32 else OperandKind.r64
    let b (l : Nat) : Nat := Group.operand grp kind (f.off.toNat / 2 ^ 10) false l
    let c (l : Nat) : Nat := Group.operand grp kind (f.off.toNat / 2 % 2 ^ 8) false l
    let value (l : Nat) (ls : List Nat) : Nat :=
      ls.foldl (fun v k => Claims.atomicValue r.2.2.2 (decide (f.sx = 1)) (8 * w) v (b k) (c k)) (Cell.localNat x (a l) w)
    let naming (l : Nat) : List Nat := (Claims.lanes grp f).filter (fun k => decide (a k = a l))
    (Group.operandPoison grp kind (f.off.toNat / 2 ^ 10) false &&& Group.executing grp f.gp f.gn = 0) →
    (r.2.2.2 = .cas → Group.operandPoison grp kind (f.off.toNat / 2 % 2 ^ 8) false &&& Group.executing grp f.gp f.gn = 0) →
    (∀ l ∈ Claims.lanes grp f, Cell.localMarked x (a l) w = false) →
    ∃ t after, exec (r.1 g f) s = .next t ∧ Claims.cellAndCounters s t g ∧ State.group t g = some after ∧ Passed grp after 0 ∧
      OnlyThreadRegs grp after (if f.size.toNat ≤ 2 then [f.data.toNat] else [f.data.toNat, f.data.toNat + 1]) ∧
      (∀ l, l < 32 →
        (if f.size.toNat ≤ 2 then Group.lane after f.data.toNat l else Claims.pair after f.data.toNat l) =
          (if l ∈ Claims.lanes grp f then value l ((naming l).filter (fun k => decide (k < l)))
          else if f.size.toNat ≤ 2 then Group.lane grp f.data.toNat l else Claims.pair grp f.data.toNat l)) ∧
      (∀ l ∈ Claims.lanes grp f, Cell.localNat (State.cell t g.cell) (a l) w = value l (naming l)) ∧
      ∀ y, y < 2 ^ 19 → (∀ l ∈ Claims.lanes grp f, ¬ (a l ≤ y ∧ y < a l + w)) → Cell.localByte (State.cell t g.cell) y = Cell.localByte x y

/-! ### Counters and synchronisation -/

/-- Cell `y` is cell `x` with groups and arrival counters changed, nothing else. -/
def Claims.onlyCounters (x y : Cell) : Prop :=
  ∃ gs as w, y = { x with groups := gs, arrivals := as, watch := w }

/-- Cell `y` is cell `x` after an increment of counter `k` by `n` (R163, R166): its VALUE has grown modulo 2^32, every group whose await it
satisfies goes on, and no other counter, group or byte has changed. -/
def Claims.incremented (x y : Cell) (k n : Nat) : Prop :=
  Claims.onlyCounters x y ∧ (Cell.arrival y k).tag = (Cell.arrival x k).tag ∧
    (Cell.arrival y k).value = (Cell.arrival x k).value + BitVec.ofNat 32 n ∧ (∀ j, j ≠ k → Cell.arrival y j = Cell.arrival x j) ∧
    ∀ j, Cell.group y j = (Cell.group x j).map (fun grp =>
      if ∃ target, grp.hold = .await k target ∧ ((Cell.arrival x k).value + BitVec.ofNat 32 n - target).toNat < 2 ^ 31 then { grp with hold := .none }
      else grp)

/-- The group after a register-form instruction that writes no register. -/
def Claims.after (grp : Group) (f : RegForm) : Group := { grp with pc := grp.pc + 1 + BitVec.ofNat 31 f.ext.toNat, fetched := [], issued := true }

/-- R162 to R168: `cnt` set, add and read, `await`, and an increment that reaches its counter. -/
def Obligations.ArrivalCounters : Prop :=
  (∀ (s : State) (g : GroupLoc) (f : RegForm) (grp : Group), f.sub.toNat / 32 % 4 = 0 → Issues s 0x72 shapeCnt g f grp →
    let x := State.cell s g.cell
    let k := f.sub.toNat % 32
    ((Cell.arrival x k).tag = 0 ∨ (Cell.arrival x k).tag = grp.job) → Cell.namesCounter x k = false →
    ∃ t, exec (.cntSet g f) s = .next t ∧ OnlyCell s t g.cell ∧ Claims.onlyCounters x (State.cell t g.cell) ∧
      State.group t g = some (Claims.after grp f) ∧ (∀ j, j ≠ g.slot → Cell.group (State.cell t g.cell) j = Cell.group x j) ∧
      Cell.arrival (State.cell t g.cell) k = { value := (readOperands shapeCnt grp f).b32 0, tag := grp.job } ∧
      ∀ j, j ≠ k → Cell.arrival (State.cell t g.cell) j = Cell.arrival x j) ∧
  (∀ (s : State) (g : GroupLoc) (f : RegForm) (grp : Group), f.sub.toNat / 32 % 4 = 1 → Issues s 0x72 shapeCnt g f grp →
    let x := State.cell s g.cell
    let k := f.sub.toNat % 32
    let n := (readOperands shapeCnt grp f).b 0
    (Cell.arrival x k).tag = grp.job → 0 < n → n ≤ 65535 →
    ∃ t, exec (.cntAdd g f) s = .next t ∧ OnlyCell s t g.cell ∧
      Claims.incremented (Cell.setGroup x g.slot (Claims.after grp f)) (State.cell t g.cell) k n) ∧
  (∀ (s : State) (g : GroupLoc) (f : RegForm) (grp : Group) (sh : Shape), f.sub.toNat / 32 % 4 = 2 →
    sh = { shapeCnt with d := .uni, b := .none, imm := false } → Issues s 0x72 sh g f grp →
    (Cell.arrival (State.cell s g.cell) (f.sub.toNat % 32)).tag = grp.job →
    ∃ t after, exec (.cntRead g f) s = .next t ∧ OnlyGroup s t g after ∧ Passed grp after 0 ∧
      Claims.uniAfter grp after f.dst.toNat (Cell.arrival (State.cell s g.cell) (f.sub.toNat % 32)).value.toNat false) ∧
  (∀ (s : State) (g : GroupLoc) (f : RegForm) (grp : Group), Issues s 0x71 { shapeCnt with sub := 0x1F } g f grp →
    let x := State.cell s g.cell
    let k := f.sub.toNat % 32
    let target := (readOperands { shapeCnt with sub := 0x1F } grp f).b32 0
    let d := (target - (Cell.arrival x k).value).toNat
    (Cell.arrival x k).tag = grp.job → (d ≤ 2 ^ 24 ∨ 2 ^ 31 ≤ d) →
    ∃ t, exec (.await g f) s = .next t ∧ OnlyCell s t g.cell ∧ Claims.onlyCounters x (State.cell t g.cell) ∧
      State.group t g = some { Claims.after grp f with hold := if d = 0 ∨ 2 ^ 31 ≤ d then .none else .await k target } ∧
      (∀ j, j ≠ g.slot → Cell.group (State.cell t g.cell) j = Cell.group x j) ∧ ∀ j, Cell.arrival (State.cell t g.cell) j = Cell.arrival x j) ∧
  ∀ (s : State) (c k n : Nat), k < 32 → State.cellRuns s c = true →
    ∃ t, exec (.counterIncrement c k n) s = .next t ∧ OnlyCell s t c ∧ Claims.incremented (State.cell s c) (State.cell t c) k n

/-- R163 and R164: increments commute. -/
def Obligations.IncrementsCommute : Prop :=
  ∀ (s : State) (c k m n : Nat), k < 32 → State.cellRuns s c = true →
    ∃ t u v w, exec (.counterIncrement c k m) s = .next t ∧ exec (.counterIncrement c k n) t = .next u ∧
      exec (.counterIncrement c k n) s = .next v ∧ exec (.counterIncrement c k m) v = .next w ∧
      Cell.arrival (State.cell u c) k = Cell.arrival (State.cell w c) k ∧
      (Cell.arrival (State.cell u c) k).value = (Cell.arrival (State.cell s c) k).value + BitVec.ofNat 32 (m + n)

/-- R425, in bit-vector arithmetic. -/
def Claims.generatorRound (c0 c1 c2 c3 k0 k1 : BitVec 32) : BitVec 32 × BitVec 32 × BitVec 32 × BitVec 32 :=
  let p : BitVec 64 := (0xD2511F53 : BitVec 64) * c0.zeroExtend 64
  let q : BitVec 64 := (0xCD9E8D57 : BitVec 64) * c2.zeroExtend 64
  (q.extractLsb' 32 32 ^^^ c1 ^^^ k0, q.extractLsb' 0 32, p.extractLsb' 32 32 ^^^ c3 ^^^ k1, p.extractLsb' 0 32)

def Claims.G (key counter : BitVec 64) : BitVec 64 :=
  let r := (List.range 10).foldl (fun (y : (BitVec 32 × BitVec 32 × BitVec 32 × BitVec 32) × BitVec 32 × BitVec 32) _ =>
      (Claims.generatorRound y.1.1 y.1.2.1 y.1.2.2.1 y.1.2.2.2 y.2.1 y.2.2, y.2.1 + 0x9E3779B9, y.2.2 + 0xBB67AE85))
    ((counter.extractLsb' 0 32, counter.extractLsb' 32 32, 0, 0), key.extractLsb' 0 32, key.extractLsb' 32 32)
  r.1.2.1 ++ r.1.1

/-- R127, R425: RND writes the generator's value for the key of the group and the counter of each lane. -/
def Obligations.RandomGenerator : Prop :=
  Claims.G 0 0 = 0xE169C58D6627E8D5 ∧
  ∀ (s : State) (g : GroupLoc) (f : RegForm) (grp : Group) (sh : Shape),
    sh = { d := if f.sub.getLsbD 0 then .r64 else .r32, a := .r64, b := .uniPair, c := .none, sub := 1, imm := false, reserved := bit1 f.ua
           group := true, carries := false } → Issues s 0x74 sh g f grp →
    ∃ t after, exec (.rnd g f) s = .next t ∧ OnlyGroup s t g after ∧ Passed grp after 0 ∧
      OnlyThreadRegs grp after (if f.sub.getLsbD 0 then [f.dst.toNat, f.dst.toNat + 1] else [f.dst.toNat]) ∧
      ∀ l, l < 32 →
        let v := Claims.G (BitVec.ofNat 64 (Group.uniPair grp f.sb.toNat)) (BitVec.ofNat 64 (Claims.pair grp f.sa.toNat l))
        (if grp.active.getLsbD l then
          (if f.sub.getLsbD 0 then Claims.pair after f.dst.toNat l = v.toNat else Group.lane after f.dst.toNat l = v.toNat % 2 ^ 32)
        else Group.lane after f.dst.toNat l = Group.lane grp f.dst.toNat l)

/-- The cell sent request `q` under operation `id`, or holds it back until earlier operations are performed. -/
def Claims.sentOrHeld (s t : State) (c id : Nat) (q : RequestPacket) : Prop :=
  (∃ e tx, NMap.find (State.region t (regionOf c)).txns e = some tx ∧ tx.op = id ∧ tx.cell = c ∧ tx.sent = s.timebase ∧
    tx.packet = { q with txn := tx.packet.txn } ∧ t.out = s.out ++ [.request tx.packet]) ∨
  (∃ n h, NMap.find (State.cell t c).held n = some h ∧ h.op = id ∧ h.packet = q ∧ t.out = s.out)

/-- R137, R143, R171, R129 and R297: FENCE, INVAL, NOTIFY and STEP. -/
def Obligations.FenceInvalNotifyStep : Prop :=
  (∀ (s : State) (g : GroupLoc) (f : MemForm) (grp : Group), State.issuable s g (memWords 0x6C f) = some grp → fenceIllegal f = false →
    ∃ t, exec (.fence g f) s = .next t ∧ OnlyGroup s t g { grp with pc := grp.pc + 1, fetched := [], issued := true, hold := .fence f.scope.toNat }) ∧
  (∀ (s : State) (g : GroupLoc) (f : MemForm) (grp : Group), State.issuable s g (memWords 0x6D f) = some grp → fenceIllegal f = false →
    f.scope = 1 ∨ f.scope = 2 →
    let b := blockOf g.cell
    ∃ t, exec (.inval g f) s = .next t ∧ t = { s with cells := t.cells, blocks := t.blocks } ∧ (∀ c, c ≠ g.cell → State.cell t c = State.cell s c) ∧
      State.group t g = some { grp with pc := grp.pc + 1, fetched := [], issued := true } ∧ (State.cell t g.cell).localMem = (State.cell s g.cell).localMem ∧
      (∀ k, ∀ l ∈ NMap.get (State.cell t g.cell).l1 [] k, l.roc = false) ∧
      (∀ k, ∀ l ∈ NMap.get (State.cell s g.cell).l1 [] k, l.roc = false → l ∈ NMap.get (State.cell t g.cell).l1 [] k) ∧
      (∀ j, (f.scope = 1 ∨ j ≠ b) → State.block t j = State.block s j) ∧
      (f.scope = 2 → (State.block t b).fenced = (State.block s b).fenced ∧ (∀ k, ∀ l ∈ NMap.get (State.block t b).cache [] k, l.roc = false) ∧
        ∀ k, ∀ l ∈ NMap.get (State.block s b).cache [] k, l.roc = false → l ∈ NMap.get (State.block t b).cache [] k)) ∧
  (∀ (s : State) (g : GroupLoc) (f : RegForm) (grp : Group) (sh : Shape),
    sh = { d := .none, a := .uniPair, b := .uni, c := .none, sub := 0, imm := true, reserved := false, group := true, carries := false } →
    Issues s 0x73 sh g f grp →
    let target := Group.uniPair grp f.sa.toNat
    let n := (readOperands sh grp f).b 0
    let own := s.moduleNumber
    Group.epoch grp = (NMap.get (State.cell s g.cell).epochs 0 grp.job.toNat).toNat → targetBad target = false → 0 < n → n ≤ 65535 →
    Cell.slotsFree (State.cell s g.cell) (g.slot / 16) [none] = true → Claims.settled s g.cell → NMap.find s.fabric.failed (targetModule own target) = none →
    ∃ t m, exec (.notify g f) s = .next t ∧ State.group t g = some (Claims.after grp f) ∧
      NMap.find (State.cell t g.cell).misses s.nextId = some m ∧ m.kind = .notify ∧ m.pipeline = g.slot / 16 ∧ m.slot = g.slot ∧
      (∀ k, k ≠ s.nextId → NMap.find (State.cell t g.cell).misses k = NMap.find (State.cell s g.cell).misses k) ∧
      Claims.sentOrHeld s t g.cell s.nextId
        { source := own, destination := targetModule own target, sourceCell := g.cell, txn := 0, tag := grp.job, reuse := 0
          body := .notify (BitVec.ofNat 64 target) n } ∧
      (State.cell t g.cell).localMem = (State.cell s g.cell).localMem ∧ t.mem = s.mem ∧ t.tel = s.tel ∧
      ∀ c, c ≠ g.cell → State.cell t c = State.cell s c) ∧
  ∀ (s : State) (g : GroupLoc) (f : RegForm) (grp : Group), Issues s 0x75 { shapeCnt with sub := 0 } g f grp →
    Cell.statisticsPassed (State.cell s g.cell) = true →
    let v := (State.cell s g.cell).sieve
    let b := (readOperands { shapeCnt with sub := 0 } grp f).b32 0
    (v.frozen = none ∨ ¬ (0 < (b - v.step).toNat ∧ (b - v.step).toNat < 2 ^ 31)) →
    ∃ t, exec (.step g f) s = .next t ∧ State.group t g = some (Claims.after grp f) ∧ t.mem = s.mem ∧
      (State.cell t g.cell).localMem = (State.cell s g.cell).localMem ∧ (∀ c, c ≠ g.cell → State.cell t c = State.cell s c) ∧
      (if 0 < (b - v.step).toNat ∧ (b - v.step).toNat < 2 ^ 31 then
        (State.cell t g.cell).sieve.step = b ∧ (State.cell t g.cell).sieve.counting = { Bank.reset with step := b } ∧
        ∃ k, (State.cell t g.cell).sieve.frozen = some k ∧ k.step = v.step ∧ k.tags = v.counting.tags ∧ k.sats = v.counting.sats
      else (State.cell t g.cell).sieve = v ∧ t.scale = s.scale)

/-! ### The matrix array: what enters its queue -/

/-- An instruction of the array that waits for an answer to its group: `mslc` or `dqry`. -/
def Claims.answers (o : ArrayOp) : Bool :=
  match o.kind with
  | .slc _ _ _ => true
  | .qry _ => true
  | _ => false

/-- Group `g` issues an instruction with the words `ws`: none of its checks fails, a P1 credit is free, and no instruction it issued before waits
in the queue for its answer. -/
def Claims.arrayIssues (s : State) (g : GroupLoc) (ws : List DWord) (grp : Group) (illegal_ : Option Nat) (park : Option ParkCause) : Prop :=
  State.issuable s g ws = some grp ∧ illegal_ = none ∧ park = none ∧ Cell.arrayCredit (State.cell s g.cell) (g.slot / 16) = true ∧
    ∀ e ∈ (State.cell s g.cell).array, e.2.owner = ownerOf g.slot grp → Claims.answers e.2 = false

/-- The instruction is accepted (R231, R241): `o` stands in the cell's queue under the next identity, the group has passed its words, and nothing
has changed but the queue, the array's own state, the slice's place on the Proofer's fall list and the counters; no other group has changed but
those whose answers came. -/
def Claims.accepted (s t : State) (g : GroupLoc) (after : Group) (o : ArrayOp) : Prop :=
  let x := State.cell s g.cell
  let y := State.cell t g.cell
  t = { s with cells := t.cells, tel := t.tel, nextId := s.nextId + 1, power := t.power } ∧
    t.power = { s.power with proofer := { s.power.proofer with held := t.power.proofer.held } } ∧
    (∀ c, c ≠ g.cell → State.cell t c = State.cell s c) ∧
    y = { x with groups := y.groups, array := y.array, sliceCount := y.sliceCount, slices := y.slices } ∧
    State.group t g = some after ∧ NMap.find y.array s.nextId = some o ∧
    ∀ j, j ≠ g.slot → (∀ e ∈ x.array, Claims.answers e.2 = true → e.2.owner.slot ≠ j) → Cell.group y j = Cell.group x j

/-- R221, R231, R241, R245, R254: MMA, DOPN, DRN and DCLS enter the queue of the array. -/
def Obligations.ArrayInstructionsQueue : Prop :=
  (∀ (s : State) (g : GroupLoc) (f : RegForm) (grp : Group), let x := State.cell s g.cell
    Claims.arrayIssues s g (regWords 0x80 f) grp (mmaIllegal f) (mmaPark x g.slot f grp) →
    Claims.offStage s g.cell ([f.sa, f.sb].flatMap (fun r => Cell.mmaReads x (Group.uni grp r.toNat))) →
    ∃ t o, exec (.mma g f) s = .next t ∧ Claims.accepted s t g { grp with pc := grp.pc + 2, fetched := [], issued := true } o ∧
      o.kind = .mma (BitVec.ofNat 256 (Cell.localNat x (Group.uni grp f.sa.toNat) 32)) (BitVec.ofNat 256 (Cell.localNat x (Group.uni grp f.sb.toNat) 32)) f.x1 ∧
      o.slice = f.sub.toNat / 256 ∧ o.drawer = f.sub.toNat / 64 % 4 ∧ o.owner = { slot := g.slot, age := grp.age } ∧ o.begun = false ∧
      o.counter = (if f.sub.getLsbD 5 then some (f.sub.toNat % 32) else none)) ∧
  (∀ (s : State) (g : GroupLoc) (f : RegForm) (grp : Group), let x := State.cell s g.cell
    let v := Cell.localNat x (Group.uni grp (f.sa.toNat % 64)) 32
    let k := f.sub.toNat / 256
    let n := f.sub.toNat / 64 % 4
    Claims.arrayIssues s g (regWords 0x84 f) grp (drawerIllegal { shapeDrawer with a := .uni } f grp)
      (drawerPark x f 32 (Cell.openFailure x (ownerOf g.slot grp) f) (fun a => OpenDesc.ranges (openDesc (Cell.localNat x a 32))) grp) → x.array = [] →
    Claims.offStage s g.cell [(Group.uni grp (f.sa.toNat % 64), 32)] →
    ∃ t, exec (.dopn g f) s = .next t ∧ t = { s with cells := t.cells, tel := t.tel, nextId := s.nextId + 1, power := t.power } ∧ (State.group t g = some { grp with pc := grp.pc + 1, fetched := [], issued := true }) ∧
      (State.cell t g.cell).localMem = x.localMem ∧ (∀ c, c ≠ g.cell → State.cell t c = State.cell s c) ∧
      (Cell.issueOf (State.cell t g.cell) k n).status = .opened ∧ (Cell.issueOf (State.cell t g.cell) k n).owner = ownerOf g.slot grp ∧
      (Cell.issueOf (State.cell t g.cell) k n).mf = v / 2 ^ 217 % 16 ∧ (Cell.issueOf (State.cell t g.cell) k n).nf = v / 2 ^ 213 % 16 ∧
      (∀ j i, (j, i) ≠ (k, n) → Cell.issueOf (State.cell t g.cell) j i = Cell.issueOf x j i) ∧
      (if v / 2 ^ 210 % 4 = 0 then
        let d := Cell.drawer (State.cell t g.cell) k n
        d.opened = true ∧ d.owner = ownerOf g.slot grp ∧ d.mf = v / 2 ^ 217 % 16 ∧ d.nf = v / 2 ^ 213 % 16 ∧ d.preloaded = false ∧ d.chunks = 0 ∧ d.krem = 0 ∧
          (∀ r c, r < 16 * (d.mf + 1) → c < 16 * (d.nf + 1) → NMap.find d.entries (256 * r + c) = some { stack := [], outer := none, poison := false }) ∧
          (State.cell t g.cell).array = [] ∧
          (f.sub.getLsbD 5 = true → (Cell.arrival (State.cell t g.cell) (f.sub.toNat % 32)).value = (Cell.arrival x (f.sub.toNat % 32)).value + 1)
      else
        ∃ o, NMap.find (State.cell t g.cell).array s.nextId = some o ∧ o.kind = .opn (BitVec.ofNat 256 v) ∧ o.slice = k ∧ o.drawer = n ∧
          Cell.drawer (State.cell t g.cell) k n = Cell.drawer x k n ∧ ∀ j, Cell.arrival (State.cell t g.cell) j = Cell.arrival x j)) ∧
  (∀ (s : State) (g : GroupLoc) (f : RegForm) (grp : Group), let x := State.cell s g.cell
    let k := f.sub.toNat / 256
    let n := f.sub.toNat / 64 % 4
    let di := Cell.issueOf x k n
    let desc (v : Nat) : EpiDesc := epiDesc (Cell.localNat x v 64)
    let ranges (v : Nat) : List (Nat × Nat) := EpiDesc.inputs (desc v) (16 * (di.mf + 1)) (16 * (di.nf + 1)) ++ EpiDesc.outputs (desc v) (16 * (di.mf + 1)) (16 * (di.nf + 1))
    Claims.arrayIssues s g (regWords 0x85 f) grp (drawerIllegal { shapeDrawer with a := .uni } f grp)
      (drawerPark x f 64 (Cell.drainFailure x (ownerOf g.slot grp) f) ranges grp) →
    Claims.offStage s g.cell [(Group.uni grp (f.sa.toNat % 64), 64)] →
    ∃ t o, exec (.drn g f) s = .next t ∧ Claims.accepted s t g { grp with pc := grp.pc + 1, fetched := [], issued := true } o ∧
      o.kind = .drn (BitVec.ofNat 512 (Cell.localNat x (Group.uni grp (f.sa.toNat % 64)) 64)) x.sieve.step ∧ o.slice = k ∧ o.drawer = n ∧ o.begun = false ∧
      ((∀ e ∈ x.array, Claims.answers e.2 = false) → (Cell.issueOf (State.cell t g.cell) k n).status = .draining)) ∧
  ∀ (s : State) (g : GroupLoc) (f : RegForm) (grp : Group), let x := State.cell s g.cell
    let k := f.sub.toNat / 256
    let n := f.sub.toNat / 64 % 4
    Claims.arrayIssues s g (regWords 0x86 f) grp (drawerIllegal shapeDrawer f grp)
      (firstSome [partialGroup grp, badDescriptor (Cell.plainFailure x (ownerOf g.slot grp) f true)]) →
    ∃ t o, exec (.dcls g f) s = .next t ∧ Claims.accepted s t g { grp with pc := grp.pc + 1, fetched := [], issued := true } o ∧ o.kind = .cls ∧ o.slice = k ∧ o.drawer = n ∧
      ((∀ e ∈ x.array, Claims.answers e.2 = false) → (Cell.issueOf (State.cell t g.cell) k n).status = .closed)

/-- R233: the result of CONFIG, CLAIM and RELEASE on an array with an empty queue. -/
def Claims.sliceResult (x : Cell) (o : Owner) (op b : Nat) : Nat :=
  let n := x.sliceCount
  let slices := x.slices.map (·.2)
  match op with
  | 0 => if ¬ (b = 1 ∨ b = 2 ∨ b = 4) then 3
    else if slices.any (fun v => v.claimed.isSome || v.issue.any (fun d => decide (d.2.status ≠ .closed))) then 1
    else if slices.any (·.resetting) then 4 else 0
  | 1 => if n = 1 ∨ n ≤ b then 3 else if (Cell.slice x b).claimed.isSome ∧ (Cell.slice x b).claimed ≠ some o then 2
    else if (Cell.slice x b).resetting then 4 else 0
  | _ => if n = 1 ∨ n ≤ b ∨ (Cell.slice x b).claimed ≠ some o then 3
    else if (Cell.slice x b).issue.any (fun d => decide (d.2.status = .opened ∧ d.2.owner = o)) then 1 else 0

def Claims.sliceShape : Shape :=
  { d := .uni, a := .none, b := .uni, c := .none, sub := 3, imm := true, reserved := false, group := true, carries := false }

/-- The operand b of `mslc`. -/
def Claims.sliceOperand (grp : Group) (f : RegForm) : Nat := if f.ib = 1 then f.x1.toNat % 2 ^ 32 else Group.uni grp f.sb.toNat

/-- The checks of an `mslc` pass, and the queue is empty. -/
def Claims.sliceIssues (s : State) (g : GroupLoc) (f : RegForm) (grp : Group) (op : Nat) : Prop :=
  State.issuable s g (regWords 0x81 f) = some grp ∧ regIllegal Claims.sliceShape grp.regs f = none ∧ grp.active = BitVec.allOnes 32 ∧
    f.sub.toNat = op ∧ (op = 3 ∨ f.ib = 1 ∨ Group.uniPoison grp f.sb.toNat = false) ∧ (State.cell s g.cell).array = []

/-- R233, R266: MSLC and DQRY on an array whose queue is empty are decided at once. -/
def Obligations.ArrayAnswers : Prop :=
  (∀ r ∈ ([(Instr.mslcConfig, 0), (Instr.mslcClaim, 1), (Instr.mslcRelease, 2)] : List ((GroupLoc → RegForm → Instr) × Nat)),
    ∀ (s : State) (g : GroupLoc) (f : RegForm) (grp : Group), Claims.sliceIssues s g f grp r.2 →
    let x := State.cell s g.cell
    let o := ownerOf g.slot grp
    let b := Claims.sliceOperand grp f
    let code := Claims.sliceResult x o r.2 b
    ∃ t after, exec (r.1 g f) s = .next t ∧ OnlyCell { s with nextId := s.nextId + 1 } t g.cell ∧ State.group t g = some after ∧ Passed grp after f.ext.toNat ∧
      (∀ j, j ≠ g.slot → Cell.group (State.cell t g.cell) j = Cell.group x j) ∧
      Claims.uniAfter grp after f.dst.toNat code false ∧
      State.cell t g.cell = { x with groups := (State.cell t g.cell).groups, sliceCount := (State.cell t g.cell).sliceCount, slices := (State.cell t g.cell).slices } ∧
      (State.cell t g.cell).sliceCount = (if r.2 = 0 ∧ code = 0 then b else x.sliceCount) ∧
      (code ≠ 0 → (State.cell t g.cell).slices = x.slices) ∧
      (code = 0 → match r.2 with
        | 0 => ∀ k i, (Cell.slice (State.cell t g.cell) k).claimed = none ∧ Cell.issueOf (State.cell t g.cell) k i = DrawerIssue.reset
        | 1 => (Cell.slice (State.cell t g.cell) b).claimed = some o ∧ ∀ k, k ≠ b → Cell.slice (State.cell t g.cell) k = Cell.slice x k
        | _ => (Cell.slice (State.cell t g.cell) b).claimed = none ∧ ∀ k, k ≠ b → Cell.slice (State.cell t g.cell) k = Cell.slice x k)) ∧
  (∀ (s : State) (g : GroupLoc) (f : RegForm) (grp : Group), Claims.sliceIssues s g f grp 3 →
    let x := State.cell s g.cell
    let held (k : Nat) : Option Owner := if k < x.sliceCount then (Cell.slice x k).claimed else none
    x.sliceCount = 1 ∨ x.sliceCount = 2 ∨ x.sliceCount = 4 → (∀ k o, held k = some o → o.slot < 64) → (x.sliceCount = 1 → held 0 = none) →
    ∃ t after w, exec (.mslcQuery g f) s = .next t ∧ OnlyCell { s with nextId := s.nextId + 1 } t g.cell ∧ State.group t g = some after ∧
      Passed grp after f.ext.toNat ∧ (∀ j, j ≠ g.slot → Cell.group (State.cell t g.cell) j = Cell.group x j) ∧
      (State.cell t g.cell).slices = x.slices ∧ Claims.uniAfter grp after f.dst.toNat w false ∧
      w % 4 = x.sliceCount / 2 ∧ w / 4 % 2 = 0 ∧ w.testBit 3 = (List.range x.sliceCount).any (fun k => (Cell.slice x k).resetting) ∧
      ∀ k, k < 4 → w.testBit (4 + k) = (held k).isSome ∧ w / 2 ^ (8 + 6 * k) % 64 = ((held k).map (·.slot)).getD 0) ∧
  ∀ (s : State) (g : GroupLoc) (f : RegForm) (grp : Group), let x := State.cell s g.cell
    let k := f.sub.toNat / 256
    let d := Cell.drawer x k (f.sub.toNat / 64 % 4)
    State.issuable s g (regWords 0x87 f) = some grp → drawerIllegal { shapeDrawer with d := .uniPair } f grp = none → grp.active = BitVec.allOnes 32 →
    Cell.plainFailure x (ownerOf g.slot grp) f false = none → x.array = [] →
    d.chunks < 2 ^ 16 → d.krem < 2 ^ 12 → d.mf < 16 → d.nf < 16 → d.owner.slot < 64 →
    ∃ t after v, exec (.dqry g f) s = .next t ∧ t = { s with cells := t.cells, tel := t.tel, nextId := s.nextId + 1, power := t.power } ∧
      (∀ c, c ≠ g.cell → State.cell t c = State.cell s c) ∧
      State.cell t g.cell = { x with groups := (State.cell t g.cell).groups, slices := (State.cell t g.cell).slices } ∧
      State.group t g = some after ∧ (∀ j, j ≠ g.slot → Cell.group (State.cell t g.cell) j = Cell.group x j) ∧ Passed grp after 0 ∧
      (∀ j i, Cell.drawer (State.cell t g.cell) j i = Cell.drawer x j i) ∧
      OnlyUniform grp after [f.dst.toNat, f.dst.toNat + 1] ∧ Group.uniPair after f.dst.toNat = v ∧
      v / 2 ^ 48 = d.chunks ∧ v / 2 ^ 36 % 2 ^ 12 = d.krem ∧ v.testBit 35 = d.long ∧ v.testBit 34 = d.entries.any (fun e => e.2.poison) ∧
      v.testBit 33 = d.preloaded ∧ v.testBit 32 = d.int ∧ v / 2 ^ 28 % 16 = d.mf ∧ v / 2 ^ 24 % 16 = d.nf ∧ v / 2 ^ 18 % 64 = d.owner.slot ∧
      v / 2 ^ 16 % 4 = b2n d.opened ∧ v % 2 ^ 16 = 0

/-! ### The chain unit and collectives: what enters their queues -/

/-- The instructions of the chain unit with a descriptor: constructor, opcode, descriptor bytes, whether KD may be given, kind. -/
def Claims.chainRows : List ((GroupLoc → RegForm → Instr) × Nat × Nat × Bool × (RegForm → Nat → ChainKind)) := [
  (.chn, 0x90, 64, true, fun f v => .chn (BitVec.ofNat 512 v) (f.sub.getLsbD 6)), (.spk, 0x98, 64, false, fun _ v => .spk (BitVec.ofNat 512 v)),
  (.sgl, 0x99, 32, false, fun _ v => .sgl (BitVec.ofNat 256 v)), (.sxp, 0x9A, 64, false, fun _ v => .sxp (BitVec.ofNat 512 v))]

/-- R267, R268, R270, R276, R330: CHN, SPK, SGL and SXP enter the queue of the chain unit; CHST reads and clears sticky bits. -/
def Obligations.ChainInstructionsQueue : Prop :=
  (∀ r ∈ Claims.chainRows, ∀ (s : State) (g : GroupLoc) (f : RegForm) (grp : Group),
    let x := State.cell s g.cell
    let a := Group.uni grp f.sa.toNat
    let kind := r.2.2.2.2 f (Cell.localNat x a r.2.2.1)
    let plan := ChainKind.plan kind (chainImmediates f (r.2.2.2.1 && f.sub.getLsbD 6))
    State.issuable s g (regWords r.2.1 f) = some grp → chainIllegal f = none → Group.uniPoison grp f.sa.toNat = false →
    a % r.2.2.1 = 0 → a < 2 ^ 19 → Cell.localMarked x a r.2.2.1 = false →
    (f.sub.getLsbD 5 = true → (Cell.arrival x (f.sub.toNat % 32)).tag = grp.job) → chainFailure f r.2.2.2.1 r.2.2.1 a plan = none →
    reservedPark x (plan.inputs ++ plan.outputs ++ [(a, r.2.2.1)]) = none → Cell.chainCredit x (g.slot / 16) = true →
    Claims.offStage s g.cell [(a, r.2.2.1)] →
    ∃ t o, exec (r.1 g f) s = .next t ∧ OnlyCell { s with nextId := s.nextId + 1 } t g.cell ∧
      State.cell t g.cell = { x with groups := (State.cell t g.cell).groups, chain := (State.cell t g.cell).chain } ∧
      State.group t g = some { grp with pc := grp.pc + 1 + BitVec.ofNat 31 f.ext.toNat, fetched := [], issued := true } ∧
      (∀ j, j ≠ g.slot → Cell.group (State.cell t g.cell) j = Cell.group x j) ∧
      NMap.find (State.cell t g.cell).chain s.nextId = some o ∧ (∀ j, j ≠ s.nextId → NMap.find (State.cell t g.cell).chain j = NMap.find x.chain j) ∧
      o.kind = kind ∧ o.x1 = (if f.ext = 0 then 0 else f.x1) ∧ o.x2 = (if f.ext = 2 then f.x2 else 0) ∧
      o.owner = { slot := g.slot, age := grp.age } ∧ o.counter = (if f.sub.getLsbD 5 then some (f.sub.toNat % 32) else none) ∧
      o.step = x.sieve.step ∧ o.begun = false ∧ o.writes = []) ∧
  ∀ (ctor : GroupLoc → RegForm → Instr) (only : Nat), (ctor = .chstReadClear ∧ only = 0 ∨ ctor = .chstReadOnly ∧ only = 1) →
    ∀ (s : State) (g : GroupLoc) (f : RegForm) (grp : Group), f.sub.toNat % 2 = only →
    State.issuable s g (regWords 0x91 f) = some grp →
    regIllegal { d := .uni, a := .none, b := .none, c := .none, sub := 1, imm := false, reserved := false, group := true, carries := false } grp.regs f = none →
    let x := State.cell s g.cell
    (∀ e ∈ x.chain, e.2.owner = ownerOf g.slot grp → ChainKind.isChn e.2.kind = false) → NMap.get x.sticky 0 g.slot < 2 ^ 32 →
    ∃ t after, exec (ctor g f) s = .next t ∧ OnlyCell s t g.cell ∧ State.group t g = some after ∧ Passed grp after 0 ∧
      Claims.uniAfter grp after f.dst.toNat (NMap.get x.sticky 0 g.slot) false ∧
      State.cell t g.cell = { x with groups := (State.cell t g.cell).groups, sticky := (State.cell t g.cell).sticky } ∧
      (∀ j, j ≠ g.slot → Cell.group (State.cell t g.cell) j = Cell.group x j ∧ NMap.get (State.cell t g.cell).sticky 0 j = NMap.get x.sticky 0 j) ∧
      NMap.get (State.cell t g.cell).sticky 0 g.slot = if only = 0 then 0 else NMap.get x.sticky 0 g.slot

/-- R401 to R405, R415: COLL takes a slot of P3 and joins the queue of its collective group. -/
def Obligations.CollectiveQueues : Prop :=
  ∀ (s : State) (g : GroupLoc) (f : RegForm) (grp : Group) (q : CollGroup),
    let x := State.cell s g.cell
    let v := Cell.localNat x (Group.uni grp f.sa.toNat) 64
    let d := collDesc v
    State.issuable s g (regWords 0xA0 f) = some grp → collIllegal f = none → State.collPark s g f grp = none →
    (State.job s grp.job).checkpoint = none → Cell.epochNewer x grp.job (Group.epoch grp) = false → x.copies.length + x.colls < 48 →
    State.coll s d.group = some q → q.lost = none → Claims.offStage s g.cell [(Group.uni grp f.sa.toNat, 64)] →
    ∃ t o q', exec (.coll g f) s = .next t ∧ State.group t g = some { grp with pc := grp.pc + 1, fetched := [], issued := true } ∧
      State.coll t d.group = some q' ∧ q' = { q with queue := q.queue ++ [o] } ∧ (∀ k, k ≠ d.group → State.coll t k = State.coll s k) ∧
      o.desc = BitVec.ofNat 512 v ∧ o.cell = g.cell ∧ o.slot = g.slot ∧ o.job = grp.job ∧ o.epoch.toNat = Group.uni grp 7 % 2 ^ 16 ∧
      o.counter = (if f.sub.getLsbD 5 then some (f.sub.toNat % 32) else none) ∧ o.step = x.sieve.step ∧ o.recipe = (State.job s grp.job).recipe ∧
      (State.cell t g.cell).colls = x.colls + 1 ∧ (State.cell t g.cell).localMem = x.localMem ∧
      (∀ j, j ≠ g.slot → Cell.group (State.cell t g.cell) j = Cell.group x j) ∧ (∀ c, c ≠ g.cell → State.cell t c = State.cell s c) ∧
      t = { s with cells := t.cells, groups := t.groups, tel := t.tel }

/-! ### Fetches, lookaside fills and the grants of the mask stack -/

/-- The group at `g` wants its next instruction word: it is resident, runs, has lanes, is not the Tasting runner's, is not held for the lookaside, has no park record and no
fetch under way, and the words it has fetched do not make an instruction (R97, R118). -/
def Claims.wantsWord (s : State) (g : GroupLoc) (grp : Group) : Prop :=
  let x := State.cell s g.cell
  State.group s g = some grp ∧ State.cellRuns s g.cell = true ∧ NMap.find x.parkList g.slot = none ∧ grp.active ≠ 0 ∧ grp.ring ≠ 64 ∧
    (∀ v, grp.hold ≠ .lookaside v) ∧ (∀ e ∈ x.accesses, ¬ (e.2.slot = g.slot ∧ e.2.kind = .fetch)) ∧
    ∀ w rest, grp.fetched = w :: rest → rest.length < (if w.toNat / 2 ^ 50 % 4 = 3 then 0 else w.toNat / 2 ^ 50 % 4)

/-- The byte address of that word: CODE_BASE + 8 × PC, its extension words after it (R118). -/
def Claims.wordAddress (grp : Group) : Nat := (grp.codeBase.toNat + 8 * (grp.pc.toNat + grp.fetched.length)) % 2 ^ 64

/-- R84, R118, R144: what a fetch does where L1 holds the sector, where the page was written under the launch, where the page is in the region window cache only, in neither, or not executable. -/
def Claims.instructionFetches : Prop :=
  ∀ (s : State) (g : GroupLoc) (grp : Group), Claims.wantsWord s g grp →
    let x := State.cell s g.cell
    let ea := Claims.wordAddress grp
    (∀ (tr : Translation) (d : SectorData), ea < 2 ^ 53 → ea % 8 = 0 → Cell.translation x (ea / 2 ^ 21) = some tr →
      permission tr grp.job .fetch = none → cacheSector 7 x.l1 (fabricAddress tr ea) = some d → d.bytes.length = 32 →
      State.codeWritten s grp.launch (fabricAddress tr ea) = false →
      (∀ i, i < 32 → State.unsettledGlobal s (fabricAddress tr ea / 32 * 32 + i) = false) → Cell.slotsUsed x (g.slot / 16) ≤ 32 →
      Claims.settled s g.cell →
      ∃ t, exec (.instructionFetch g) s = .next t ∧ t = { s with cells := t.cells, tel := t.tel, nextId := s.nextId + 1 } ∧
        (∀ c, c ≠ g.cell → State.cell t c = State.cell s c) ∧
        State.group t g = some { grp with fetched := grp.fetched ++
          [BitVec.ofNat 64 (ofBytes (tabulate 8 (fun i => d.bytes.getD (fabricAddress tr ea % 32 + i) 0)))] } ∧
        (∀ k, k ≠ g.slot → Cell.group (State.cell t g.cell) k = Cell.group x k) ∧
        (∃ gs la l1 ac, State.cell t g.cell = { x with groups := gs, lookaside := la, l1 := l1, accesses := ac }) ∧
        Claims.counted s t .l1Hit 0 g.cell 1) ∧
    (∀ tr : Translation, ea < 2 ^ 53 → Cell.translation x (ea / 2 ^ 21) = some tr → permission tr grp.job .fetch = none →
      State.codeWritten s grp.launch (fabricAddress tr ea) = true →
      ∃ t, exec (.instructionFetch g) s = .next t ∧ t = { s with cells := t.cells, freeCount := s.freeCount + 2 } ∧
        (∀ c, c ≠ g.cell → State.cell t c = State.cell s c) ∧ (∃ gs la, State.cell t g.cell = { x with groups := gs, lookaside := la }) ∧
        (∀ k, k ≠ g.slot → Cell.group (State.cell t g.cell) k = Cell.group x k) ∧
        State.group t g = some { grp with fetched := grp.fetched ++ [Config.freeWord s.freeCount ++ Config.freeWord (s.freeCount + 1)] }) ∧
    (∀ v, ea < 2 ^ 53 → v = ea / 2 ^ 21 → Cell.translation x v = none → (Region.translation (State.region s (regionOf g.cell)) v).isSome = true →
      grp.hold = .none →
      ∃ t, exec (.instructionFetch g) s = .next t ∧ OnlyCell s t g.cell ∧ State.group t g = some { grp with hold := .lookaside v } ∧
        (∀ k, k ≠ g.slot → Cell.group (State.cell t g.cell) k = Cell.group x k) ∧ ∃ gs, State.cell t g.cell = { x with groups := gs }) ∧
    ((2 ^ 53 ≤ ea ∨ (Cell.translation x (ea / 2 ^ 21) = none ∧ Region.translation (State.region s (regionOf g.cell)) (ea / 2 ^ 21) = none)) →
      ∃ t, exec (.instructionFetch g) s = .next t ∧ Claims.parkedAt s t g grp 0x02 0 ea grp.active 0) ∧
    (∀ (tr : Translation) (d : Nat), ea < 2 ^ 53 → Cell.translation x (ea / 2 ^ 21) = some tr → permission tr grp.job .fetch = some d →
      ∃ t, exec (.instructionFetch g) s = .next t ∧ Claims.parkedAt s t g grp 0x03 d 0 grp.active 0)

/-- R78, R84, R368: the lookaside fill and the port-A grants of a spill and a reload. -/
def Claims.lookasideAndMaskStack : Prop :=
  (∀ (s : State) (g : GroupLoc) (grp : Group) (v : Nat), State.group s g = some grp → grp.hold = .lookaside v →
    let x := State.cell s g.cell
    let r := State.region s (regionOf g.cell)
    (Region.translation r v = none → ∃ t, exec (.lookasideFill g) s = .next t ∧ OnlyCell s t g.cell ∧
      State.group t g = some { grp with hold := .none } ∧ ∃ gs, State.cell t g.cell = { x with groups := gs }) ∧
    ∀ tr, Region.translation r v = some tr → ∃ t, exec (.lookasideFill g) s = .next t ∧
      t = { s with cells := t.cells, regions := t.regions, tel := t.tel } ∧ (∀ c, c ≠ g.cell → State.cell t c = State.cell s c) ∧
      (∀ k, k ≠ regionOf g.cell → State.region t k = State.region s k) ∧ State.group t g = some { grp with hold := .none } ∧
      (∃ gs, State.cell t g.cell = { x with groups := gs, lookaside := (tr :: x.lookaside.filter (fun u => decide (u.vpn ≠ tr.vpn))).take 64 }) ∧
      (∀ k, k ≠ g.slot → Cell.group (State.cell t g.cell) k = Cell.group x k) ∧
      (∃ wc, State.region t (regionOf g.cell) = { r with windowCache := wc }) ∧ Claims.counted s t .wcHit 0 (regionOf g.cell) 1) ∧
  (∀ (s : State) (g : GroupLoc) (grp : Group), State.group s g = some grp → grp.hold = .spill → 8 ≤ grp.stack.length → grp.spilled + 8 ≤ 128 →
    g.slot < 64 →
    let x := State.cell s g.cell
    let area := 0x70000 + g.slot * 0x400
    ∃ t, exec (.maskStackSpill g) s = .next t ∧ OnlyCell s t g.cell ∧
      State.group t g = some { grp with stack := grp.stack.take (grp.stack.length - 8), spilled := grp.spilled + 8, hold := .none } ∧
      (∀ k, k ≠ g.slot → Cell.group (State.cell t g.cell) k = Cell.group x k) ∧
      (∀ i e, i < 8 → grp.stack[grp.stack.length - 1 - i]? = some e →
        Cell.localNat (State.cell t g.cell) (area + 8 * (grp.spilled + i)) 8 = MaskEntry.word e) ∧
      (∀ a, a < 2 ^ 19 → a < area + 8 * grp.spilled ∨ area + 8 * grp.spilled + 64 ≤ a →
        Cell.localByte (State.cell t g.cell) a = Cell.localByte x a) ∧
      ∃ gs lm lp, State.cell t g.cell = { x with groups := gs, localMem := lm, localPoison := lp }) ∧
  ∀ (s : State) (g : GroupLoc) (grp : Group), State.group s g = some grp → grp.hold = .reload → 8 ≤ grp.spilled →
    let x := State.cell s g.cell
    ∃ t after, exec (.maskStackReload g) s = .next t ∧ OnlyGroup s t g after ∧
      after = { grp with stack := after.stack, spilled := grp.spilled - 8, hold := .none } ∧ after.stack.length = grp.stack.length + 8 ∧
      after.stack.take grp.stack.length = grp.stack ∧
      ∀ i, i < 8 → after.stack[grp.stack.length + 7 - i]? = some (Cell.spilledEntry x g.slot (grp.spilled - 8 + i))

/-- R78, R84, R118, R144, R368: fetches, lookaside fills, spills and reloads. -/
def Obligations.FetchesAndMaskStack : Prop := Claims.instructionFetches ∧ Claims.lookasideAndMaskStack

/-! ### The memory path: global accesses, line fills, the home region cache, the stacks -/

/-- Every executing lane of a global access names, unpoisoned and aligned, a page that the lookaside holds, that the job may use as `want`, and
that this module holds (R85, R120, R121, R363, R368). -/
def Claims.globalClear (s : State) (g : GroupLoc) (f : MemForm) (atomic : Bool) (want : Want) (grp : Group) (tr : Nat → Translation) : Prop :=
  f.space ≠ 0 ∧ Claims.lanes grp f ≠ [] ∧ Group.operandPoison grp .r64 f.addr.toNat (bit1 f.ua) &&& Group.executing grp f.gp f.gn = 0 ∧
    ∀ l ∈ Claims.lanes grp f, effective f atomic grp l % 2 ^ f.size.toNat = 0 ∧ effective f atomic grp l < 2 ^ 53 ∧
      Cell.translation (State.cell s g.cell) (effective f atomic grp l / 2 ^ 21) = some (tr l) ∧ permission (tr l) grp.job want = none ∧
      (tr l).home = s.moduleNumber ∧ (tr l).ppn < 2 ^ 22

/-- The fabric address of lane `l` (R363). -/
def Claims.fabric (f : MemForm) (atomic : Bool) (grp : Group) (tr : Nat → Translation) (l : Nat) : Nat :=
  fabricAddress (tr l) (effective f atomic grp l)

/-- No release held for the group writes a byte of this module's memory that a lane names (R134). -/
def Claims.unheldGlobal (s : State) (g : GroupLoc) (f : MemForm) (atomic : Bool) (grp : Group) (tr : Nat → Translation) : Prop :=
  ∀ l ∈ Claims.lanes grp f, ∀ i, i < 2 ^ f.size.toNat → Claims.fabric f atomic grp tr l + i ∉ State.heldBytes s g.cell g.slot false

/-- The lane whose store gives the byte of fabric address `a` its value: the highest-numbered that names it (R154). -/
def Claims.storingFabric (f : MemForm) (grp : Group) (tr : Nat → Translation) (a : Nat) : Option Nat :=
  (Claims.lanes grp f).reverse.find? (fun l => decide (Claims.fabric f false grp tr l ≤ a ∧ a < Claims.fabric f false grp tr l + 2 ^ f.size.toNat))

/-- The store request of one sector on its way to its home region cache. -/
def Claims.sendsStore (t : State) (g : GroupLoc) (k q : Nat) (byte : Nat → Option Byte) : Prop :=
  ∃ r bs bad, NMap.find t.homeQueue k = some r ∧ r.source = .cell g.cell g.slot ∧ r.body = .write (q % 4) bs bad ∧ r.joined = none ∧
    r.region = (homeOf (State.ilv t) (q * 32 % 2 ^ 43)).1 ∧ r.line = (homeOf (State.ilv t) (q * 32 % 2 ^ 43)).2.1 / 128 * 128 ∧
    ∀ i, i < 32 → NMap.find bs i = byte i

/-- R119, R152, R342: a load of this module's memory that L1 serves whole. -/
def Claims.globalLoadFromL1 : Prop :=
  ∀ (s : State) (g : GroupLoc) (f : MemForm) (grp : Group) (tr : Nat → Translation) (d : Nat → SectorData),
    Claims.memIssues s 0x60 .load g f grp → Claims.globalClear s g f false .read grp tr → Claims.unheldGlobal s g f false grp tr → Claims.settled s g.cell → f.scope.toNat ≤ 1 →
    s.nextId ∉ grp.acquire → Cell.slotsUsed (State.cell s g.cell) (g.slot / 16) ≤ 32 →
    (∀ l ∈ Claims.lanes grp f, cacheSector 7 (State.cell s g.cell).l1 (Claims.fabric f false grp tr l) = some (d l) ∧ (d l).bytes.length = 32 ∧
      ∀ i, i < 32 → State.unsettledGlobal s (Claims.fabric f false grp tr l / 32 * 32 + i) = false) →
    ∃ t after, exec (.ld g f) s = .next t ∧ t = { s with cells := t.cells, tel := t.tel, nextId := s.nextId + 1 } ∧
      (∀ c, c ≠ g.cell → State.cell t c = State.cell s c) ∧
      (∀ k, k ≠ g.slot → Cell.group (State.cell t g.cell) k = Cell.group (State.cell s g.cell) k) ∧
      (∃ gs rc la l1 ac sw, State.cell t g.cell =
        { State.cell s g.cell with groups := gs, regCache := rc, lookaside := la, l1 := l1, accesses := ac, slotWaits := sw }) ∧
      State.group t g = some after ∧ Passed grp after 0 ∧ OnlyThreadRegs grp after (tabulate (Claims.dataRegs f) (fun k => f.data.toNat + k)) ∧
      ∀ k, k < Claims.dataRegs f → ∀ l, l < 32 →
        let v := ofBytes (tabulate (Claims.regBytes f) (fun i => (d l).bytes.getD (Claims.fabric f false grp tr l % 32 + 4 * k + i) 0))
        Group.lane after (f.data.toNat + k) l =
          (if l ∈ Claims.lanes grp f then
            (if f.sx = 1 ∧ f.size.toNat < 2 then ((BitVec.ofNat (8 * 2 ^ f.size.toNat) v).signExtend 32).toNat else v)
          else Group.lane grp (f.data.toNat + k) l) ∧
        (Group.poisonOf after (f.data.toNat + k)).testBit l =
          (if l ∈ Claims.lanes grp f then (d l).poison else (Group.poisonOf grp (f.data.toNat + k)).testBit l)

/-- Requests of the module's cells are as they were, but for how far they have come on their way home, and copies' units, which may have been split
into lines; so are the cells, but for what a request that leaves one changes in it: the caches, the fills under way, and what its copies wait for. -/
def Claims.movedOn (s t : State) : Prop :=
  (∀ k q, k < s.nextId → NMap.find s.homeQueue k = some q → HomeBody.isUnit q.body = false →
    ∃ st af, NMap.find t.homeQueue k = some { q with stage := st, after := af }) ∧
    ∀ c, ∃ l1 ms cp, { State.cell t c with l1 := l1, misses := ms, copies := cp } = { State.cell s c with l1 := l1, misses := ms, copies := cp }

/-- R153 to R155, R159, R343: stores and atomics to this module's memory leave the cell as requests to the home region cache. -/
def Obligations.GlobalStoresAndAtomics : Prop :=
  (∀ (s : State) (g : GroupLoc) (f : MemForm) (grp : Group) (tr : Nat → Translation),
    Claims.memIssues s 0x61 .store g f grp → Claims.globalClear s g f false .write grp tr → Claims.unheldGlobal s g f false grp tr →
    Claims.settled s g.cell → NMap.rising s.homeQueue = true →
    ∃ t rc la, exec (.st g f) s = .next t ∧
      t = { s with cells := t.cells, blocks := t.blocks, homeQueue := t.homeQueue, nextId := t.nextId, package := t.package } ∧
      Claims.movedOn (State.setCell s g.cell { Cell.setGroup (State.cell s g.cell) g.slot { grp with pc := grp.pc + 1, fetched := [], issued := true } with
        regCache := rc, lookaside := la }) t ∧
      ∀ l ∈ Claims.lanes grp f, ∀ i, i < 2 ^ f.size.toNat →
        let q := (Claims.fabric f false grp tr l + i) / 32
        ∃ k, s.nextId ≤ k ∧ k < t.nextId ∧ Claims.sendsStore t g k q (fun i =>
          (Claims.storingFabric f grp tr (32 * q + i)).map (fun m =>
            (let j := 32 * q + i - Claims.fabric f false grp tr m; BitVec.ofNat 8 (Group.lane grp (f.data.toNat + j / 4) m / 2 ^ (8 * (j % 4))))))) ∧
  ∀ r ∈ Claims.atomicRows, ∀ (s : State) (g : GroupLoc) (f : MemForm) (grp : Group) (tr : Nat → Translation),
    Claims.memIssues s r.2.1 r.2.2.1 g f grp → Claims.globalClear s g f true .atomic grp tr → Claims.unheldGlobal s g f true grp tr →
    Claims.settled s g.cell →
    let kind := if f.size.toNat ≤ 2 then OperandKind.r32 else OperandKind.r64
    (Group.operandPoison grp kind (f.off.toNat / 2 ^ 10) false &&& Group.executing grp f.gp f.gn = 0) →
    (r.2.2.2 = .cas → Group.operandPoison grp kind (f.off.toNat / 2 % 2 ^ 8) false &&& Group.executing grp f.gp f.gn = 0) →
    Cell.slotsUsed (State.cell s g.cell) (g.slot / 16) ≤ 32 → NMap.rising s.homeQueue = true →
    ∃ t after a rc la ac, exec (r.1 g f) s = .next t ∧
      t = { s with cells := t.cells, blocks := t.blocks, homeQueue := t.homeQueue, nextId := t.nextId, package := t.package, tel := t.tel } ∧
      after = { grp with pc := grp.pc + 1, fetched := [], issued := true, acquire := if f.ord = 1 ∨ f.ord = 3 then grp.acquire ++ [s.nextId] else grp.acquire
                         awaited := grp.awaited ++ (if f.size.toNat ≤ 2 then [f.data.toNat] else [f.data.toNat, f.data.toNat + 1]) } ∧
      Claims.movedOn (State.setCell s g.cell { Cell.setGroup (State.cell s g.cell) g.slot after with regCache := rc, lookaside := la, accesses := ac }) t ∧
      NMap.find ac s.nextId = some a ∧ a.slot = g.slot ∧ a.reg = f.data.toNat ∧ a.kind = .atomic f.size.toNat ∧
      ∀ l ∈ Claims.lanes grp f, ∃ k ∈ a.waits, s.nextId < k ∧ k < t.nextId ∧ ∃ q ls, NMap.find t.homeQueue k = some q ∧ q.source = .cell g.cell g.slot ∧
        q.body = .atomic r.2.2.2 (decide (f.sx = 1)) (2 ^ f.size.toNat) ls ∧
        ({ lane := l, addr := Claims.fabric f true grp tr l, b := BitVec.ofNat 64 (Group.operand grp kind (f.off.toNat / 2 ^ 10) false l)
           c := BitVec.ofNat 64 (Group.operand grp kind (f.off.toNat / 2 % 2 ^ 8) false l) } : AtomicLane) ∈ ls

/-- No request of a cell is on its way, each stands at its home, and no cell holds anything back. -/
def Claims.nothingMoves (s : State) : Prop :=
  (∀ e ∈ s.homeQueue, e.2.stage = .home) ∧ ∀ c, (State.cell s c).held = [] ∧ (State.cell s c).heldLocal = []

/-- R152, R342, R343: the data of a line-miss slot reach the one load that waits for nothing else. -/
def Claims.lineFills : Prop :=
  ∀ (s : State) (c id op size : Nat) (signed : Bool) (m : Miss) (data : NMap SectorData) (a : Access) (grp : Group),
    let x := State.cell s c
    NMap.find x.misses id = some m → m.kind = .line → (State.block s (blockOf c)).fenced = false → m.answer = some data →
    NMap.rising data = true → (∀ i ∈ m.sectors, (NMap.find data i).isSome = true) → Claims.nothingMoves s → Claims.settled s c →
    (∀ e ∈ x.accesses, e.2.later.asks = []) → x.accesses.filter (fun e => e.2.waits.contains id) = [(op, a)] →
    a.waits = [id] → a.kind = .load size signed → size ≤ 4 → Cell.group x a.slot = some grp → (a.lanes.map (·.lane)).Nodup →
    (∀ y ∈ a.lanes, y.lane < 32 ∧ y.fa % 2 ^ size = 0 ∧ y.fa / 128 = m.line ∧ (NMap.find data (y.fa / 32 % 4)).isSome = true) →
    (∀ e ∈ data, e.1 < 4) →
    ∃ t after, exec (.lineFill c id) s = .next t ∧ t = { s with cells := t.cells, blocks := t.blocks, tel := t.tel } ∧
      (∀ d, d ≠ c → State.cell t d = State.cell s d) ∧
      (∃ gs l1 ms ac, State.cell t c = { x with groups := gs, l1 := l1, misses := ms, accesses := ac }) ∧
      NMap.find (State.cell t c).misses id = none ∧ NMap.find (State.cell t c).accesses op = none ∧
      (∀ k, k ≠ a.slot → Cell.group (State.cell t c) k = Cell.group x k) ∧ Cell.group (State.cell t c) a.slot = some after ∧
      after = { grp with w := after.w, wPoison := after.wPoison, wSource := after.wSource, awaited := unawait grp.awaited (destRegs a.reg size)
                         acquire := grp.acquire.erase op } ∧
      (1 < m.scope → m.roc = false → (State.cell t c).l1 = x.l1) ∧
      (m.scope ≤ 1 → (NMap.get x.l1 [] (cacheSet 7 m.line)).length < 8 → NMap.rising m.merge = true →
        (∀ l ∈ NMap.get x.l1 [] (cacheSet 7 m.line), l.line ≠ m.line) → ∀ i v, NMap.find data i = some v →
        i ∉ m.drop → ∃ d, cacheSector 7 (State.cell t c).l1 (m.line * 128 + 32 * i) = some d ∧
          d.poison = (v.poison && decide ((m.merge.filter (fun b => decide (b.1 / 32 = i))).length < 32)) ∧
          ∀ j, j < v.bytes.length → j < 32 → d.bytes.getD j 0 = (NMap.find m.merge (32 * i + j)).getD (v.bytes.getD j 0)) ∧
      ∀ k, k < (if size ≤ 2 then 1 else 2 ^ size / 4) → ∀ y ∈ a.lanes, ∀ v, NMap.find data (y.fa / 32 % 4) = some v →
        let n := min 4 (2 ^ size)
        let w := ofBytes (tabulate n (fun i => v.bytes.getD (y.fa % 32 + 4 * k + i) 0))
        Group.lane after (a.reg + k) y.lane = (if signed ∧ size < 2 then ((BitVec.ofNat (8 * 2 ^ size) w).signExtend 32).toNat else w) ∧
        (Group.poisonOf after (a.reg + k)).testBit y.lane = v.poison

/-- No request of any region is outstanding to a module declared failed. -/
def Claims.allSettled (s : State) : Prop :=
  ∀ r, ∀ e ∈ (State.region s r).txns, NMap.find s.fabric.failed e.2.packet.destination = none

/-- Request `id` of a cell has come to its home region cache, in order and in its turn, its address populated and the region served (R16, R31, R339,
R344, R521), no fill of its line is in flight, and no other request is on its way. -/
def Claims.atHome (s : State) (id c slot : Nat) (q : HomeRequest) : Prop :=
  NMap.find s.homeQueue id = some q ∧ q.source = .cell c slot ∧ (q.stage = .home ∨ (q.stage = .network ∧ regionOf c = q.region)) ∧ q.joined = none ∧
    State.inOrder s id q = true ∧ State.homeTurn s id q = true ∧ q.populated = true ∧ q.region < 8 ∧ State.regionServes s q.region = true ∧
    q.line % 128 = 0 ∧ State.fillOf s q.region q.line = none ∧ Claims.nothingMoves { s with homeQueue := NMap.erase s.homeQueue id } ∧ Claims.allSettled s

/-- The line of request `q` is in the region cache with sector `i` valid. -/
def Claims.sectorHeld (s : State) (q : HomeRequest) (i : Nat) : Prop := ∃ l, State.regionLine s q.region q.line = some l ∧ i ∈ l.valid

/-- The region cache of `r` changes in its lines, and its arbiter, only; every other region is as it was. -/
def Claims.onlyRegionCache (s t : State) (r : Nat) : Prop :=
  (∃ ca nw, State.region t r = { State.region s r with cache := ca, network := nw }) ∧ ∀ k, k ≠ r → State.region t k = State.region s k

/-- R155, R345, R346, R352, R356: what the home region cache does with a cell's store, atomic or load of sectors it holds, with a whole-sector
store of a line it lacks, and with a load of one it lacks. -/
def Obligations.HomeRequests : Prop :=
  (∀ (s : State) (id c slot i : Nat) (q : HomeRequest) (bs : NMap Byte) (bad : Bool),
    Claims.atHome s id c slot q → q.body = .write i bs bad → i < 4 → NMap.rising bs = true → (∀ e ∈ bs, e.1 < 32) →
    (Claims.sectorHeld s q i ∨ (32 ≤ bs.length ∧ ((State.regionLine s q.region q.line).isSome = true ∨ (State.regionLines s q.region q.line).length < 12))) →
    let o := q.line + 32 * i
    ∃ t, exec (.homeRequest id) s = .next t ∧
      t = { s with regions := t.regions, mem := t.mem, codeWrites := t.codeWrites, memPoison := t.memPoison, homeQueue := t.homeQueue, tel := t.tel } ∧
      Claims.onlyRegionCache s t q.region ∧ t.homeQueue = NMap.erase s.homeQueue id ∧ Claims.sectorHeld t q i ∧
      (∀ j, j < 32 → State.byteAt t q.region (o + j) = (NMap.find bs j).getD (State.byteAt s q.region (o + j))) ∧
      (∀ r p, homeKey r p < homeKey q.region o ∨ homeKey q.region o + 32 ≤ homeKey r p → State.byteAt t r p = State.byteAt s r p) ∧
      State.sectorPoisoned t q.region o = (bad || (decide (bs.length < 32) && State.sectorPoisoned s q.region o)) ∧
      ∀ r p, homeKey r p / 32 ≠ homeKey q.region o / 32 → State.sectorPoisoned t r p = State.sectorPoisoned s r p) ∧
  (∀ (s : State) (id c slot size : Nat) (q : HomeRequest) (op : AtomicOp) (signed : Bool) (lanes : List AtomicLane),
    Claims.atHome s id c slot q → q.body = .atomic op signed size lanes → (∀ l ∈ lanes, Claims.sectorHeld s q (l.addr / 32 % 4)) →
    (size = 4 ∨ size = 8) → (∀ l ∈ lanes, l.addr % size = 0) → (∀ k ∈ lanes, ∀ l ∈ lanes, k.addr / 32 = l.addr / 32) → lanes ≠ [] →
    (∀ l ∈ lanes, l.b.toNat < 2 ^ (8 * size) ∧ l.c.toNat < 2 ^ (8 * size)) → (∀ fa, State.unsettledGlobal s fa = false) →
    (∀ l ∈ lanes, State.sectorPoisoned s q.region (q.line + l.addr % 128) = false) →
    let read (s : State) (a : Nat) : Nat := ofBytes (tabulate size (fun i => State.byteAt s q.region (q.line + a % 128 + i)))
    ∃ t, exec (.homeRequest id) s = .next t ∧
      t = { s with cells := t.cells, regions := t.regions, mem := t.mem, codeWrites := t.codeWrites, homeQueue := t.homeQueue, tel := t.tel, package := t.package } ∧
      Claims.onlyRegionCache s t q.region ∧ t.homeQueue = NMap.erase s.homeQueue id ∧ (∀ d, d ≠ c → State.cell t d = State.cell s d) ∧
      (∀ l ∈ lanes, read t l.addr = (lanes.filter (fun k => decide (k.addr = l.addr))).foldl
        (fun v k => Claims.atomicValue op signed (8 * size) v k.b.toNat k.c.toNat) (read s l.addr)) ∧
      ∀ r p, (∀ l ∈ lanes, homeKey r p < homeKey q.region (q.line + l.addr % 128) ∨ homeKey q.region (q.line + l.addr % 128) + size ≤ homeKey r p) →
        State.byteAt t r p = State.byteAt s r p) ∧
  (∀ (s : State) (id c slot k : Nat) (q : HomeRequest) (secs : List Nat) (m : Miss),
    Claims.atHome s id c slot q → q.body = .read secs → secs ≠ [] → (∀ i ∈ secs, i < 4 ∧ Claims.sectorHeld s q i) →
    q.answers = some k → NMap.find (State.cell s c).misses k = some m → (∀ fa, State.unsettledGlobal s fa = false) →
    ∃ t, exec (.homeRequest id) s = .next t ∧
      t = { s with cells := t.cells, regions := t.regions, homeQueue := t.homeQueue, tel := t.tel, package := t.package } ∧
      Claims.onlyRegionCache s t q.region ∧ t.homeQueue = NMap.erase s.homeQueue id ∧ (∀ d, d ≠ c → State.cell t d = State.cell s d) ∧
      (∃ ms, State.cell t c = { State.cell s c with misses := ms }) ∧
      (regionOf c = q.region → t.package = s.package ∧ ∃ m', NMap.find (State.cell t c).misses k = some m' ∧ m' = { m with answer := m'.answer } ∧
        ∀ i, NMap.find (m'.answer.getD []) i =
          (if i ∈ secs then some (State.sector s q.region (q.line + 32 * i)) else NMap.find (m.answer.getD []) i)) ∧
      (regionOf c ≠ q.region → State.cell t c = State.cell s c ∧ ∃ p h, NMap.find t.package id = some p ∧ p.source = q.region ∧ p.destination = regionOf c ∧
        p.cls = .rsp ∧ p.header = h ∧ p.data.length = 128 ∧ (∀ j, j ≠ id → NMap.find t.package j = NMap.find s.package j) ∧
        ∀ i ∈ secs, ∀ j, j < 32 → p.data.getD (32 * i + j) 0 = State.byteAt s q.region (q.line + 32 * i + j))) ∧
  ∀ (s : State) (id c slot : Nat) (q : HomeRequest) (secs : List Nat),
    Claims.atHome s id c slot q → q.body = .read secs → secs ≠ [] → State.regionLine s q.region q.line = none →
    (State.regionLines s q.region q.line).length < 12 → s.stackQueue.length < 32 →
    ∃ t, exec (.homeRequest id) s = .next t ∧ Claims.onlyRegionCache s t q.region ∧ (∃ l, State.regionLine t q.region q.line = some l ∧ l.valid = []) ∧
      t = { s with regions := t.regions, tel := t.tel, nextId := s.nextId + 1
                   homeQueue := NMap.insert s.homeQueue id { q with stage := .home, joined := some s.nextId }
                   stackQueue := NMap.insert s.stackQueue s.nextId { region := q.region, line := q.line, channel := 64 * q.region + (channelOf q.line).1
                                                                     bank := (channelOf q.line).2.1, row := (channelOf q.line).2.2.1, write := false } }

/-- R352, R355 to R360: a stack command completes, a row is spared, the patrol reads a sector. -/
def Obligations.StackEvents : Prop :=
  (∀ (s : State) (id : Nat) (cmd : StackCommand) (outs : List SectorOutcome),
    NMap.find s.stackQueue id = some cmd → (∀ e ∈ s.stackQueue, ¬ (e.1 < id ∧ e.2.channel = cmd.channel ∧ e.2.bank = cmd.bank)) →
    (cmd.write = true → exec (.stackCommandComplete id outs) s = .next { s with stackQueue := NMap.erase s.stackQueue id }) ∧
    ∀ l : RegionLine, cmd.write = false → Claims.allSettled s → Claims.nothingMoves s →
    (∀ e ∈ s.homeQueue, e.2.joined ≠ some id) → cmd.line % 128 = 0 → State.regionLine s cmd.region cmd.line = some l →
    ∃ t l', exec (.stackCommandComplete id outs) s = .next t ∧
      t = { s with stackQueue := NMap.erase s.stackQueue id, regions := t.regions, banks := t.banks, memPoison := t.memPoison, tel := t.tel } ∧
      Claims.onlyRegionCache s t cmd.region ∧ State.regionLine t cmd.region cmd.line = some l' ∧ (∀ i, i < 4 → i ∈ l'.valid) ∧
      (∀ i, i < 4 → State.sectorPoisoned t cmd.region (cmd.line + 32 * i) =
        (State.sectorPoisoned s cmd.region (cmd.line + 32 * i) || decide (i ∉ l.valid ∧ outs.getD i .clean = .uncorrectable))) ∧
      (∀ r p, (∀ i, i < 4 → homeKey r p / 32 ≠ homeKey cmd.region (cmd.line + 32 * i) / 32) →
        State.sectorPoisoned t r p = State.sectorPoisoned s r p) ∧
      ∀ i, i < 4 → i ∉ l.valid → outs.getD i .clean = .uncorrectable → State.sectorPoisoned s cmd.region (cmd.line + 32 * i) = false →
        Claims.alarmed s t 0x41 8 (64 * cmd.region + (channelOf (cmd.line + 32 * i)).1) (homeKey cmd.region (cmd.line + 32 * i))) ∧
  (∀ (s : State) (channel bank row : Nat), channel < 512 → bank < 32 → row < 98304 →
    let b := NMap.get s.banks default (32 * channel + bank)
    (row ∈ b.failed ∨ 4 ≤ ((NMap.get b.corrected [] row).filter (fun at' => decide ((s.timebase : Int) < at' + 86400000000000))).length) →
    ∃ t, exec (.rowSpare channel bank row) s = .next t ∧ t = { s with banks := t.banks, tel := t.tel, nv := t.nv } ∧
      (∀ k, k ≠ 32 * channel + bank → NMap.get t.banks default k = NMap.get s.banks default k) ∧
      (let b' := NMap.get t.banks default (32 * channel + bank)
       row ∉ b'.failed ∧ NMap.get b'.corrected [] row = [] ∧
       (b.spared.length < 16 → b'.spared = b.spared ++ [row] ∧ t.nv = s.nv ∧ Claims.counted s t .rowSpared 0 channel 1) ∧
       (16 ≤ b.spared.length → b'.spared = b.spared ∧
        ∃ page, t.nv = { s.nv with retiredPages := t.nv.retiredPages } ∧ page ∈ t.nv.retiredPages ∧ (∀ p ∈ s.nv.retiredPages, p ∈ t.nv.retiredPages) ∧
          (∀ p ∈ t.nv.retiredPages, p = page ∨ p ∈ s.nv.retiredPages) ∧ Claims.alarmed s t 0x42 8 channel (page * 2 ^ 21)))) ∧
  ∀ (s : State) (r o : Nat) (out : SectorOutcome), r < 8 → o < 0x3000000000 → State.regionServes s r = true → State.stackPowered s r = true →
    State.stackRoom s r o = true →
    (∀ e ∈ s.stackQueue, ¬ (e.2.channel = 64 * r + (channelOf o).1 ∧ e.2.bank = (channelOf o).2.1)) →
    (∀ l, State.regionLine s r o = some l → l.dirty = [] ∧ o / 32 % 4 ∉ l.lost) →
    let held : Bool := (State.regionLine s r o).any (fun l => l.valid.contains (o / 32 % 4))
    ∃ t, exec (.patrolScrub r o out) s = .next t ∧ t = { s with banks := t.banks, memPoison := t.memPoison, regions := t.regions, tel := t.tel } ∧
      (held = false ∨ out ≠ .uncorrectable → t.regions = s.regions) ∧ Claims.onlyRegionCache s t r ∧
      State.sectorPoisoned t r o = (State.sectorPoisoned s r o || (decide (out = .uncorrectable) && !held)) ∧
      (held = true → out = .uncorrectable → State.sectorPoisoned s r o = false → ∃ l, State.regionLine t r o = some l ∧ o / 32 % 4 ∈ l.lost) ∧
      (∀ r' p, homeKey r' p / 32 ≠ homeKey r o / 32 → State.sectorPoisoned t r' p = State.sectorPoisoned s r' p) ∧
      (out = .uncorrectable → State.sectorPoisoned s r o = false → Claims.counted s t .memUe 0 (64 * r + (channelOf o).1) 1 ∧
        Claims.alarmed s t 0x41 8 (64 * r + (channelOf o).1) (homeKey r (o / 32 * 32))) ∧
      (out = .corrected → State.sectorPoisoned s r o = false → Claims.counted s t .memCe 0 (64 * r + (channelOf o).1) 1) ∧
      (State.sectorPoisoned s r o = true → Claims.counted s t .memPoisonRead 0 (64 * r + (channelOf o).1) 1)

/-- R119, R152, R342, R343: loads of global memory from L1 and from a line fill. -/
def Obligations.GlobalLoads : Prop := Claims.globalLoadFromL1 ∧ Claims.lineFills

/-! ### The life of a group -/

/-- Ring `ring` may place: it runs, has a record waiting, the module is up, its job has no checkpoint under way, and neither its owner's region nor
the region that holds the record is fenced. -/
def Claims.mayPlace (s : State) (ring : Nat) : Prop :=
  let x := State.ring s ring
  x.status = .running ∧ Ring.waiting x ≠ 0 ∧ s.phase = .up ∧ (State.job s x.tag).checkpoint = none ∧
    (State.region s (Ring.owner x)).fenced = false ∧
    (State.region s (homeOf (State.ilv s) (x.base + 128 * (x.head % 2 ^ (x.sizeLog2 + 4)))).1).fenced = false

/-- R60 to R63, R71, R80, R150, R486, R488: a record that fails a check stops its ring; else its next group goes to the place with room. Registers
hold Table 3.2's values; that none is marked poisoned is the model's choice (log entry 3). -/
def Obligations.GroupsArePlaced : Prop :=
  (∀ (s : State) (ring code : Nat), Claims.mayPlace s ring → (State.ring s ring).placed = 0 →
    State.recordError s (State.ring s ring) (State.recordAt s (State.ring s ring)) = some code →
    ∃ t, exec (.groupPlace ring) s = .next t ∧ t = { s with rings := t.rings } ∧
      State.ring t ring = { State.ring s ring with status := .stopped, error := code } ∧ ∀ k, k ≠ ring → State.ring t k = State.ring s k) ∧
  (∀ (s : State) (r : LaunchRecord) (c slot base : Nat), State.roomFor s r = some (c, slot, base) →
    c < 384 ∧ r.cells.testBit c = true ∧ State.cellRuns s c = true ∧ State.tasted s c = false ∧ slot < 64 ∧ Cell.group (State.cell s c) slot = none ∧ base % 8 = 0 ∧
    base + r.regs ≤ 512 ∧ (∀ e ∈ (State.cell s c).groups, e.1 / 16 = slot / 16 → base + r.regs ≤ e.2.regBase ∨ e.2.regBase + e.2.regs ≤ base) ∧
    ∀ d, d < c → r.cells.testBit d = true → State.cellRuns s d = true → State.tasted s d = false → (State.regionPower s (regionOf d)).on = true →
      Cell.room (State.cell s d) r.regs r.deferred = none) ∧
  ∀ (s : State) (ring c slot base : Nat), Claims.mayPlace s ring →
    let x := State.ring s ring
    let r := State.recordAt s x
    let y := State.cell s c
    (x.placed ≠ 0 ∨ State.recordError s x r = none) → r.bind = 0 → State.roomFor s r = some (c, slot, base) →
    ∃ t after, exec (.groupPlace ring) s = .next t ∧
      t = { s with cells := t.cells, rings := t.rings, launches := t.launches, nextId := t.nextId } ∧ (∀ d, d ≠ c → State.cell t d = State.cell s d) ∧
      (∀ k, k ≠ slot → Cell.group (State.cell t c) k = Cell.group y k) ∧ Cell.group (State.cell t c) slot = some after ∧
      after.active = 0xFFFFFFFF ∧ after.pc = 0 ∧ after.stack = [] ∧ after.spilled = 0 ∧ after.fetched = [] ∧ after.hold = .none ∧ after.job = x.tag ∧
      after.codeBase = BitVec.ofNat 64 r.codeBase ∧ after.regs = r.regs ∧ after.regBase = base ∧ after.deferred = r.deferred ∧ after.age = y.nextAge ∧
      after.allowance = [0, 32, 64, 128].getD r.spill 128 ∧
      (let gid := (r.groupBase + x.placed) % 2 ^ 64
       ∀ k, Group.uni after k = ([gid % 2 ^ 32, gid / 2 ^ 32, r.args % 2 ^ 32, r.args / 2 ^ 32 % 2 ^ 32, c / 48 * 2 ^ 16 + c / 6 % 8 * 2 ^ 8 + c % 6,
         slot + (if r.deferred then 256 else 0), (r.regs + after.allowance * 2 ^ 16) % 2 ^ 32, r.epoch % 2 ^ 32].getD k 0)) ∧
      (∀ k, Group.uniPoison after k = false ∧ Group.poisonOf after k = 0 ∧ ∀ l, Group.lane after k l = 0) ∧
      (∀ a, Cell.localByte (State.cell t c) a = if y.lastJob = x.tag then Cell.localByte y a else 0) ∧
      (∀ w, NMap.get (State.cell t c).localPoison false w = (decide (y.lastJob = x.tag) && NMap.get y.localPoison false w)) ∧
      (State.cell t c).lastJob = x.tag ∧ (State.cell t c).arrivals = y.arrivals ∧ (State.cell t c).parkList = y.parkList ∧
      (∀ k, k ≠ ring → State.ring t k = State.ring s k) ∧
      (x.placed + 1 = r.groups → State.ring t ring = { x with head := (x.head + 1) % 2 ^ 32, placed := 0, launch := none, binding := none }) ∧
      (x.placed + 1 ≠ r.groups → State.ring t ring = { x with placed := x.placed + 1, launch := some after.launch }) ∧
      (x.launch = none → ∃ l, NMap.find t.launches after.launch = some l ∧ l.tag = x.tag ∧ l.target = BitVec.ofNat 64 r.target ∧ l.inc = r.inc ∧
        l.region = Ring.owner x ∧ l.complete = decide (r.groups = x.placed + 1) ∧ l.retired = [])

/-- R81, R90, R92, R94, R95, R369: retirement, the park notice and replay. -/
def Claims.groupsRetireAndReplay : Prop :=
  (∀ (s : State) (g : GroupLoc) (grp : Group), State.group s g = some grp →
    let x := State.cell s g.cell
    (match NMap.find x.parkList g.slot with
      | some p => p.state = .discard
      | none => grp.active = 0) →
    (∀ e ∈ x.accesses, e.2.slot = g.slot → e.2.kind = .fetch) →
    (∀ e ∈ x.array, e.2.owner = { slot := g.slot, age := grp.age } → (∀ d, e.2.kind ≠ .qry d) ∧ ∀ a b d, e.2.kind ≠ .slc a b d) →
    ∃ t, exec (.groupRetire g) s = .next t ∧ t = { s with cells := t.cells, launches := t.launches, nextId := t.nextId } ∧
      (∀ c, c ≠ g.cell → State.cell t c = State.cell s c) ∧ State.group t g = none ∧
      NMap.find (State.cell t g.cell).parkList g.slot = none ∧ (∀ k, k ≠ g.slot → Cell.group (State.cell t g.cell) k = Cell.group x k) ∧
      (∃ gs pl rc ac sl ar, State.cell t g.cell =
        { x with groups := gs, parkList := pl, regCache := rc, accesses := ac, slices := sl, array := ar }) ∧
      (∀ l, NMap.find s.launches grp.launch = some l →
        NMap.find t.launches grp.launch = some { l with retired := l.retired ++ [(g.cell, g.slot, grp.age)] }) ∧
      ∀ k, k ≠ grp.launch → NMap.find t.launches k = NMap.find s.launches k) ∧
  (∀ (s : State) (g : GroupLoc) (p : ParkRecord), NMap.find (State.cell s g.cell).parkList g.slot = some p → p.state = .parked →
    State.noticeSent s g = true → (State.region s (regionOf g.cell)).fenced = false →
    let v := p.addr.toNat / 2 ^ 21
    ((p.code ≠ 2 ∨ 2 ^ 53 ≤ p.addr.toNat ∨ Fabric.resolve s.fabric v = .nothing) →
      ∃ t, exec (.parkNotice g) s = .next t ∧ OnlyCell { s with tel := t.tel } t g.cell ∧
        (∃ pl, State.cell t g.cell = { State.cell s g.cell with parkList := pl }) ∧
        NMap.find (State.cell t g.cell).parkList g.slot = some { p with state := .held } ∧
        (∀ k, k ≠ g.slot → NMap.find (State.cell t g.cell).parkList k = NMap.find (State.cell s g.cell).parkList k) ∧
        (p.code = 2 → Claims.counted s t .wcMiss 0 (regionOf g.cell) 1) ∧
        (p.code = 4 → (regionOf g.cell,
          { stamp := s.timebase, type := 0x0021, kind := 3, source := g.cell, job := p.job,
            d := [1, g.slot * 2 ^ 16 + g.cell, p.code.toNat * 256 + p.detail.toNat, p.addr.toNat, p.stamp] }) ∈ t.tel.logPath)) ∧
    ∀ tr, p.code = 2 → p.addr.toNat < 2 ^ 53 → Fabric.resolve s.fabric v = .page tr →
      ∃ t, exec (.parkNotice g) s = .next t ∧ t = { s with cells := t.cells, regions := t.regions, tel := t.tel } ∧
        (∀ c, c ≠ g.cell → State.cell t c = State.cell s c) ∧ (∃ pl, State.cell t g.cell = { State.cell s g.cell with parkList := pl }) ∧
        NMap.find (State.cell t g.cell).parkList g.slot = some { p with state := .replay } ∧
        (∃ wc, State.region t (regionOf g.cell) = { State.region s (regionOf g.cell) with windowCache := wc }) ∧
        Region.translation (State.region t (regionOf g.cell)) tr.vpn = some tr ∧
        (∀ k, k ≠ regionOf g.cell → State.region t k = State.region s k) ∧ Claims.counted s t .wcMiss 0 (regionOf g.cell) 1) ∧
  ∀ (s : State) (g : GroupLoc) (grp : Group) (p : ParkRecord), State.group s g = some grp →
    NMap.find (State.cell s g.cell).parkList g.slot = some p → p.state = .replay → grp.pendingFault = none →
    ∃ t, exec (.groupReplay g) s = .next t ∧ OnlyCell s t g.cell ∧
      State.group t g = some { grp with replays := min 0xFFFF (grp.replays + 1), fetched := [] } ∧
      NMap.find (State.cell t g.cell).parkList g.slot = none ∧
      (∀ k, k ≠ g.slot → Cell.group (State.cell t g.cell) k = Cell.group (State.cell s g.cell) k ∧
        NMap.find (State.cell t g.cell).parkList k = NMap.find (State.cell s g.cell).parkList k) ∧
      ∃ gs pl, State.cell t g.cell = { State.cell s g.cell with groups := gs, parkList := pl }

/-- R489: the record whose groups have all gone, and left nothing behind, is forgotten, and notifies its target. -/
def Claims.recordsFinish : Prop :=
  ∀ (s : State) (k : Nat) (l : Launch), NMap.find s.launches k = some l → l.complete = true →
    (∀ e ∈ s.cells, ∀ g ∈ e.2.groups, g.2.launch ≠ k) → (∀ r ∈ l.retired, State.leftBehind s r.1 r.2.1 r.2.2 = false) →
    (l.inc = 0 → exec (.launchRecordDone k) s = .next { s with launches := NMap.erase s.launches k }) ∧
    (l.inc ≠ 0 → ∀ entry, freeEntry (State.region s l.region).txns = some entry → Claims.settled s (48 * l.region) →
      NMap.find s.fabric.failed (targetModule s.moduleNumber l.target.toNat) = none →
      ∃ t n, exec (.launchRecordDone k) s = .next t ∧
        t = { s with launches := NMap.erase s.launches k, nextId := s.nextId + 1, regions := t.regions,
                     out := s.out ++ [.request { source := s.moduleNumber, destination := targetModule s.moduleNumber l.target.toNat,
                                                 sourceCell := 48 * l.region, txn := n, tag := l.tag, reuse := 0, body := .notify l.target l.inc }] } ∧
        (∃ x, NMap.find (State.region t l.region).txns entry = some x ∧ x.packet.txn = n ∧ x.packet.body = .notify l.target l.inc) ∧
        (∃ tx ge, State.region t l.region = { State.region s l.region with txns := tx, generations := ge }) ∧
        ∀ r, r ≠ l.region → State.region t r = State.region s r)

/-- R81, R90 to R95, R489: retirement, park notices, replay, and the end of a launch record. -/
def Obligations.GroupsLeave : Prop := Claims.groupsRetireAndReplay ∧ Claims.recordsFinish

/-! ### Copies -/

/-- The pages of a copy's global ranges, its gather list as memory holds it (R176, R179). -/
def Claims.gatherList (x : Cell) (d : CopyDesc) : List Nat := if d.gather then tabulate d.rows (fun i => Cell.localNat x (d.list + 4 * i) 4) else []
def Claims.copyPages (x : Cell) (d : CopyDesc) : List Nat :=
  dedupe (((CopyDesc.ranges d (Claims.gatherList x d)).filter (fun r => decide (r.space ≠ 0))).flatMap CopyRange.pages)

/-- R175, R178, R179: a copy whose checks pass takes a copy slot; one with a check that fails parks its group. -/
def Obligations.CopiesIssue : Prop :=
  (∀ (s : State) (g : GroupLoc) (f : RegForm) (grp : Group) (slot : Nat),
    let x := State.cell s g.cell
    let a := Group.uniPair grp (f.sa.toNat % 64)
    let d := copyDesc (Cell.localNat x a 64)
    State.issuable s g (regWords 0x70 f) = some grp → regIllegal shapeCopy grp.regs f = none → copyPark s g.cell grp f a = none →
    (copyRemote s g.cell d (Claims.copyPages x d) = false ∨ Cell.epochNewer x grp.job (Group.epoch grp) = false) → Cell.freeCopy x = some slot →
    Claims.offStage s g.cell ((a, 64) :: if d.gather then [(d.list, 4 * d.rows)] else []) →
    ∃ t k, exec (.copy g f) s = .next t ∧ t = { s with cells := t.cells, tel := t.tel, nextId := s.nextId + 1 } ∧
      (∀ c, c ≠ g.cell → State.cell t c = State.cell s c) ∧
      (∃ gs cs la, State.cell t g.cell = { x with groups := gs, copies := cs, lookaside := la }) ∧
      State.group t g = some { grp with pc := grp.pc + 1, fetched := [], issued := true } ∧
      (∀ j, j ≠ g.slot → Cell.group (State.cell t g.cell) j = Cell.group x j) ∧
      NMap.find x.copies slot = none ∧ slot < 48 ∧ NMap.find (State.cell t g.cell).copies slot = some k ∧
      (∀ j, j ≠ slot → NMap.find (State.cell t g.cell).copies j = NMap.find x.copies j) ∧
      k.desc = BitVec.ofNat 512 (Cell.localNat x a 64) ∧ k.counter = f.sub.toNat % 32 ∧ k.slot = g.slot ∧ k.job = grp.job ∧
      k.gather = Claims.gatherList x d ∧ k.phase = .moving ∧ k.nextRow = 0 ∧ k.rows = [] ∧ k.todo = [] ∧ k.waits = [] ∧ k.poisoned = false ∧ k.openBytes = [] ∧
      (let dropped := (k.gather.filter (fun v => decide (d.limit ≤ v))).length
       dropped ≠ 0 → Claims.counted s t .gatherDrop 0 g.cell dropped)) ∧
  ∀ (s : State) (g : GroupLoc) (f : RegForm) (grp : Group),
    let x := State.cell s g.cell
    let a := Group.uniPair grp (f.sa.toNat % 64)
    State.issuable s g (regWords 0x70 f) = some grp → regIllegal shapeCopy grp.regs f = none →
    Group.operandPoison grp .uniPair f.sa.toNat true = 0 → (Cell.arrival x (f.sub.toNat % 32)).tag = grp.job →
    ((a % 64 ≠ 0 ∨ 2 ^ 19 ≤ a) → ∃ t, exec (.copy g f) s = .next t ∧ Claims.parkedAt s t g grp 0x06 0x01 0 0 (regWord 0x70 f)) ∧
    (a % 64 = 0 → a < 2 ^ 19 → Cell.localMarked x a 64 = false → Claims.offStage s g.cell [(a, 64)] →
      let d := copyDesc (Cell.localNat x a 64)
      d.gather = false → d.srcSpace = 0 → d.dstSpace = 0 → d.note = false →
      ∀ n, CopyDesc.firstFailure d a [] = some n → ∃ t, exec (.copy g f) s = .next t ∧ Claims.parkedAt s t g grp 0x06 n 0 0 (regWord 0x70 f))

/-- R176, R177, R180, R186: the next row of a copy within local memory; the bytes are those of the conversion, the source's own where the
formats agree, and zero where the gather list selects no row. -/
def Claims.copyRowsMove : Prop :=
  ∀ (s : State) (c slot : Nat) (k : CopySlot), let x := State.cell s c
    let d := copyDesc k.desc.toNat
    let row := CopyDesc.sourceRow d k.gather k.nextRow
    let dst := strided d.dst d.dstStride k.nextRow
    NMap.find x.copies slot = some k → k.phase = .moving → State.cellRuns s c = true → Claims.settled s c → k.rows = [] → k.todo = [] → k.openBytes = [] →
    (∀ e ∈ x.copies, e.2.age < k.age → State.movable s c e.1 e.2 = false) → (∀ e ∈ x.heldLocal, e.2.slot = k.slot → k.age ≤ e.1) → k.nextRow < d.rows → d.srcSpace = 0 → d.dstSpace = 0 → d.mx = 0 → d.blk = false →
    (∀ g, row = some g → 0 ≤ strided d.src d.srcStride g ∧ strided d.src d.srcStride g + CopyDesc.srcRow d ≤ 2 ^ 19) →
    0 ≤ dst → dst + CopyDesc.dstRow d ≤ 2 ^ 19 → Claims.offStage s c [(dst.toNat, CopyDesc.dstRow d)] →
    (∀ g, row = some g → Claims.offStage s c [((strided d.src d.srcStride g).toNat, CopyDesc.srcRow d)]) →
    ∃ t k', exec (.copyCommand c slot) s = .next t ∧ OnlyCell { s with tel := t.tel } t c ∧
      (∃ lm lp cs ar, State.cell t c = { x with localMem := lm, localPoison := lp, copies := cs, array := ar }) ∧
      NMap.find (State.cell t c).copies slot = some k' ∧ k' = { k with nextRow := k.nextRow + 1, poisoned := k'.poisoned, marked := k'.marked } ∧
      (∀ i, i < CopyDesc.dstRow d → Cell.localByte (State.cell t c) (dst.toNat + i) =
        match row with
        | none => 0
        | some g =>
          let bytes := Cell.localBytes x (strided d.src d.srcStride g).toNat (CopyDesc.srcRow d)
          if d.srcFmt = d.dstFmt then bytes.getD i 0 else (CopyDesc.convertRow d bytes []).1.getD i 0) ∧
      (∀ a : Nat, a < 2 ^ 19 → ((a : Int) < dst ∨ dst + CopyDesc.dstRow d ≤ a) → Cell.localByte (State.cell t c) a = Cell.localByte x a) ∧
      ((∀ g, row = some g → Cell.localMarked x (strided d.src d.srcStride g).toNat (CopyDesc.srcRow d) = false) →
        k'.poisoned = k.poisoned ∧ ((∀ w ∈ k.marked, ∀ i, i < CopyDesc.dstRow d → (dst.toNat + i) / 4 ≠ w) →
          Cell.localMarked (State.cell t c) dst.toNat (CopyDesc.dstRow d) = false)) ∧
      ∀ g i, row = some g → i < CopyDesc.srcRow d → Cell.localMarked x ((strided d.src d.srcStride g).toNat + i) 1 = true → k'.poisoned = true

/-- R171, R184, R186, R187: a copy all of whose rows are written completes: its counter, then its slot or its notify. -/
def Claims.copiesComplete : Prop :=
  (∀ (s : State) (c slot : Nat) (k : CopySlot), let x := State.cell s c
    let d := copyDesc k.desc.toNat
    NMap.find x.copies slot = some k → k.phase = .moving → d.rows ≤ k.nextRow → k.rows = [] → k.todo = [] → k.waits = [] → k.openBytes = [] →
    ∃ t, exec (.copyComplete c slot) s = .next t ∧ OnlyCell { s with tel := t.tel } t c ∧
      Claims.incremented { x with copies := (State.cell t c).copies } (State.cell t c) k.counter 1 ∧
      NMap.find (State.cell t c).copies slot = (if d.note then some { k with phase := .notifying, data := [] } else none) ∧
      (∀ j, j ≠ slot → NMap.find (State.cell t c).copies j = NMap.find x.copies j) ∧
      Claims.counted s t .copyDone 0 c 1 ∧ (k.poisoned = true → Claims.counted s t .copyPoison 0 c 1) ∧
      ∀ m st, k.failure = some (m, st) → Claims.counted s t .copyError 0 c 1 ∧
        (regionOf c, { stamp := s.timebase, type := 0x0030, kind := 3, source := c, job := k.job, d := [3, k.descAddr, m, st] }) ∈ t.tel.logPath) ∧
  ∀ (s : State) (c slot entry : Nat) (k : CopySlot), let x := State.cell s c
    let d := copyDesc k.desc.toNat
    NMap.find x.copies slot = some k → k.phase = .notifying → freeEntry (State.region s (regionOf c)).txns = some entry → Claims.settled s c →
    NMap.find s.fabric.failed (targetModule s.moduleNumber d.target) = none →
    ∃ t n, exec (.copyNotify c slot) s = .next t ∧
      t = { s with cells := t.cells, regions := t.regions, nextId := s.nextId + 1, out := s.out ++ [.request
        { source := s.moduleNumber, destination := targetModule s.moduleNumber d.target, sourceCell := c, txn := n, tag := k.job, reuse := 0,
          body := .notify (BitVec.ofNat 64 d.target) d.inc }] } ∧
      (∀ j, j ≠ c → State.cell t j = State.cell s j) ∧ (∃ cs, State.cell t c = { x with copies := cs }) ∧
      NMap.find (State.cell t c).copies slot = some { k with phase := .notifySent } ∧
      (∀ j, j ≠ slot → NMap.find (State.cell t c).copies j = NMap.find x.copies j) ∧
      (∃ y, NMap.find (State.region t (regionOf c)).txns entry = some y ∧ y.packet.txn = n ∧ y.copy = some slot ∧ y.cell = c) ∧
      (∃ tx ge, State.region t (regionOf c) = { State.region s (regionOf c) with txns := tx, generations := ge }) ∧
      ∀ r, r ≠ regionOf c → State.region t r = State.region s r

/-- R171, R176 to R187: the copy unit moves rows, completes copies and sends their notifies. -/
def Obligations.CopyUnit : Prop := Claims.copyRowsMove ∧ Claims.copiesComplete

/-! ### The matrix array at work -/

/-- No instruction of the cell's queue waits only for its turn: no `mslc`, no `dqry`, no zeroed `dopn`. -/
def Claims.quietArray (x : Cell) : Prop :=
  ∀ e ∈ x.array, Claims.answers e.2 = false ∧ ∀ d, e.2.kind = .opn d → (openDesc d.toNat).pre ≠ 0

/-- Cell `y` is `x` after the increment of a completion counter, where one is named. -/
def Claims.counterDone (x y : Cell) (k : Option Nat) : Prop :=
  match k with
  | none => y = x
  | some k => Claims.incremented x y k 1

/-- From `s` to `t` only cell `c` and the counters change. -/
def Claims.cellOnly (s t : State) (c : Nat) : Prop := t = { s with cells := t.cells, tel := t.tel } ∧ ∀ d, d ≠ c → State.cell t d = State.cell s d

/-- Slice `k` of `y` is `v`, every other that of `x`. -/
def Claims.sliceNow (x y : Cell) (k : Nat) (v : Slice) : Prop := Cell.slice y k = v ∧ ∀ j, j ≠ k → Cell.slice y j = Cell.slice x j

/-- R237, R502, Table 7.10: the ramps of a slice; R235: the end of its reset; R234: its release when its owner is gone. -/
def Claims.slicesRamp : Prop :=
  (∀ (s : State) (c k : Nat), let x := State.cell s c
    c < 384 → k < x.sliceCount → (Cell.slice x k).ramp = .start → Claims.quietArray x →
    ∃ t, exec (.rampStartDone c k) s = .next t ∧ OnlyCell s t c ∧ (∃ sl, State.cell t c = { x with slices := sl }) ∧
      Claims.sliceNow x (State.cell t c) k { Cell.slice x k with ramp := .run, rows := 16 }) ∧
  (∀ (s : State) (c k : Nat), let x := State.cell s c
    c < 384 → k < x.sliceCount → (Cell.slice x k).ramp = .stop →
    ∃ t, exec (.rampStopDone c k) s = .next t ∧ OnlyCell s t c ∧ (∃ sl, State.cell t c = { x with slices := sl }) ∧
      Claims.sliceNow x (State.cell t c) k { Cell.slice x k with ramp := .idle, rows := 0 }) ∧
  (∀ (s : State) (c k : Nat), let x := State.cell s c
    let p := s.power.proofer
    let step := if x.sliceCount = 1 then 120 else if x.sliceCount = 2 then 60 else 32
    c < 384 → k < x.sliceCount → (Cell.slice x k).ramp = .run → (∀ e ∈ x.array, e.2.slice ≠ k) → .slice c k ∉ p.held →
    (p.held = [] → step ≤ p.fall → ∃ t, exec (.sliceHoldExpiry c k) s = .next t ∧
      t = { s with cells := t.cells, power := { s.power with proofer := { p with fall := p.fall - step } } } ∧ (∀ d, d ≠ c → State.cell t d = State.cell s d) ∧
      (∃ sl, State.cell t c = { x with slices := sl }) ∧ Claims.sliceNow x (State.cell t c) k { Cell.slice x k with ramp := .stop }) ∧
    ((p.held ≠ [] ∨ p.fall < step) →
      exec (.sliceHoldExpiry c k) s = .next { s with power := { s.power with proofer := { p with held := p.held ++ [.slice c k] } } })) ∧
  (∀ (s : State) (c k : Nat), let x := State.cell s c
    (Cell.slice x k).resetting = true → Claims.quietArray x →
    ∃ t, exec (.sliceResetDone c k) s = .next t ∧ OnlyCell s t c ∧ (∃ sl, State.cell t c = { x with slices := sl }) ∧
      Claims.sliceNow x (State.cell t c) k { Cell.slice x k with resetting := false }) ∧
  ∀ (s : State) (c k : Nat) (o : Owner), let x := State.cell s c
    (Cell.slice x k).claimed = some o → (∀ grp, Cell.group x o.slot = some grp → grp.age ≠ o.age) →
    (∀ e ∈ x.array, e.2.slice = k → e.2.owner = o → ArrayOp.isMma e.2 = true ∧ e.2.begun = true) →
    (∀ d ∈ (Cell.slice x k).drawers, d.2.opened = true → d.2.owner ≠ o) → Claims.quietArray x →
    ∃ t, exec (.sliceAutoRelease c k) s = .next t ∧ OnlyCell s t c ∧ (∃ sl, State.cell t c = { x with slices := sl }) ∧
      Claims.sliceNow x (State.cell t c) k { Cell.slice x k with claimed := none }

/-- R217, R223, R224, R231, R232, R247: the oldest `mma` of a slice not yet released reads its operands: every entry of its drawer takes the sums
of its rows, K-step by K-step; R254: the drawer settles; R245: a preload. -/
def Claims.drawersFill : Prop :=
  (∀ (s : State) (c k id : Nat) (o : ArrayOp) (a b : BitVec 256) (sh : BitVec 64) (p : Pairing), let x := State.cell s c
    let A := tileDesc a.toNat
    let B := tileDesc b.toNat
    let m := mmaShape sh.toNat
    let dr := Cell.drawer x k o.drawer
    Cell.findOp x k (fun o => ArrayOp.isMma o && !o.begun) = some (id, o) → o.kind = .mma a b sh → pairing A B = some p →
    State.sliceRuns s c k = true → o.openBytes = [] → Cell.underCopy x o.inputs = [] → Claims.offStage s c o.inputs → Claims.quietArray x →
    (∀ e ∈ x.array, e.1 < id → e.2.slice = k → e.2.drawer = o.drawer → ArrayOp.isMma e.2 = true) →
    ∃ t, exec (.mmaOperandRelease c k) s = .next t ∧ Claims.cellOnly s t c ∧
      Claims.counterDone { x with slices := (State.cell t c).slices, array := (State.cell t c).array } (State.cell t c) o.counter ∧
      Claims.sliceNow x (State.cell t c) k { Cell.slice x k with drawers := (Cell.slice (State.cell t c) k).drawers } ∧
      (∀ d, d ≠ o.drawer → Cell.drawer (State.cell t c) k d = Cell.drawer x k d) ∧
      NMap.find (State.cell t c).array id = some { o with begun := true, inputs := [] } ∧
      (∀ j, j ≠ id → NMap.find (State.cell t c).array j = NMap.find x.array j) ∧ Claims.counted s t .mmaDone 0 c 1 ∧
      let after := Cell.drawer (State.cell t c) k o.drawer
      after = { dr with chunks := after.chunks, krem := after.krem, long := after.long, entries := after.entries } ∧
      (A.sparse = false → B.sparse = false → ∀ i j, i < m.m → j < m.n → ∀ e, NMap.find dr.entries (256 * i + j) = some e →
        NMap.find after.entries (256 * i + j) = some ((List.range m.steps).foldl (fun e n =>
          let u := TileDesc.denseRow A x p (m.k0 + n) i
          let v := TileDesc.denseRow B x p (m.k0 + n) j
          let y := DrawerEntry.push dr.int 12 e (kstepSum p u v)
          { y with poison := y.poison || (List.range p.kstep).any (fun k => u.marks.getD k false || v.marks.getD k false) }) e))) ∧
  (∀ (s : State) (c k d id : Nat) (o : ArrayOp), let x := State.cell s c
    Cell.findOp x k (fun o => ArrayOp.isMma o && o.begun && decide (o.drawer = d)) = some (id, o) → Claims.quietArray x →
    ∃ t, exec (.drawerSettled c k d) s = .next t ∧ OnlyCell s t c ∧ State.cell t c = { x with array := NMap.erase x.array id }) ∧
  ∀ (s : State) (c k d id : Nat) (o : ArrayOp) (v : BitVec 256), let x := State.cell s c
    let e := openDesc v.toNat
    Cell.findOp x k (fun o => decide (o.drawer = d)) = some (id, o) → o.kind = .opn v → State.sliceRuns s c k = true → Cell.oldestOf x id k d = true →
    Cell.underCopy x (OpenDesc.ranges e) = [] → Claims.offStage s c (OpenDesc.ranges e) → Claims.quietArray x →
    ∃ t, exec (.dopnPreloadDone c k d) s = .next t ∧ OnlyCell s t c ∧
      Claims.counterDone { x with slices := (State.cell t c).slices, array := NMap.erase x.array id } (State.cell t c) o.counter ∧
      Claims.sliceNow x (State.cell t c) k { Cell.slice x k with drawers := (Cell.slice (State.cell t c) k).drawers } ∧
      (∀ j, j ≠ d → Cell.drawer (State.cell t c) k j = Cell.drawer x k j) ∧
      let after := Cell.drawer (State.cell t c) k d
      after.opened = true ∧ after.owner = o.owner ∧ after.mf = bits v.toNat 220 217 ∧ after.nf = bits v.toNat 216 213 ∧ after.int = e.int ∧
      after.preloaded = true ∧ after.chunks = 0 ∧ after.krem = 0 ∧ after.long = false ∧
      (∀ i j, i < e.m → j < e.n → ∃ y, NMap.find after.entries (256 * i + j) = some y ∧ y.stack = [] ∧
        (e.blk = false →
          let el := Cell.elementAt x e.fmt (if e.pre = 1 then e.src else e.src + i * e.spitch) j
          y.outer = some (if e.int then unsgn 48 (sgn 32 el.1) else toS32 .rne (decodeNum e.fmt el.1)) ∧ y.poison = el.2))

/-- What writes of a unit, in order, leave at a byte. -/
def Claims.writtenByte (ws : List LocalWrite) (a : Nat) (old : Byte) : Byte :=
  ws.foldl (fun v w => if w.addr ≤ a ∧ a < w.addr + w.bytes.length then w.bytes.getD (a - w.addr) 0 else v) old

/-- R254, R259 to R262: a drain reads its settled drawer, then its outputs are written; R240, R243: a drawer closes. -/
def Claims.drawersDrain : Prop :=
  (∀ (s : State) (c k d id : Nat) (o : ArrayOp) (v : BitVec 512) (n : BitVec 32), let x := State.cell s c
    Cell.findOp x k (fun o => decide (o.drawer = d)) = some (id, o) → o.kind = .drn v n → (epiDesc v.toNat).dsrc = false →
    State.sliceRuns s c k = true → o.begun = false → Cell.oldestOf x id k d = true → o.openBytes = [] → Cell.underCopy x o.inputs = [] →
    Claims.offStage s c o.inputs → Claims.quietArray x →
    let r := EpiDesc.drain (epiDesc v.toNat) x (Cell.drawer x k d) none
    ∃ t o', exec (.drainStart c k d) s = .next t ∧ OnlyCell s t c ∧ State.cell t c = { x with array := NMap.insert x.array id o' } ∧
      o' = { o with begun := true, writes := r.writes, feeds := r.feeds, counts := o'.counts }) ∧
  (∀ (s : State) (c k d id : Nat) (o : ArrayOp) (v : BitVec 512) (n : BitVec 32), let x := State.cell s c
    Cell.findOp x k (fun o => decide (o.drawer = d)) = some (id, o) → o.kind = .drn v n → o.begun = true → State.cellRuns s c = true →
    o.openBytes = [] → o.feeds = [] → (epiDesc v.toNat).dsrc = false → Claims.quietArray x →
    (∀ w ∈ o.writes, w.addr + w.bytes.length ≤ 2 ^ 19 ∧ w.marks.length = w.bytes.length) →
    Claims.offStage s c (o.writes.map (fun w => (w.addr, w.bytes.length))) →
    ∃ t, exec (.drainComplete c k d) s = .next t ∧ Claims.cellOnly s t c ∧
      (∀ a, a < 2 ^ 19 → Cell.localByte (State.cell t c) a = Claims.writtenByte o.writes a (Cell.localByte x a)) ∧
      (∀ w, w < 2 ^ 17 → (∀ y ∈ o.writes, w * 4 + 4 ≤ y.addr ∨ y.addr + y.bytes.length ≤ w * 4) →
        NMap.get (State.cell t c).localPoison false w = NMap.get x.localPoison false w) ∧
      (∃ gs lm lp as w cs ar sl st, State.cell t c =
        { x with groups := gs, localMem := lm, localPoison := lp, arrivals := as, watch := w, copies := cs, array := ar, slices := sl, sticky := st }) ∧
      NMap.find (State.cell t c).array id = none ∧ (Cell.drawer (State.cell t c) k d).opened = false ∧
      (∀ j, some j ≠ o.counter → Cell.arrival (State.cell t c) j = Cell.arrival x j) ∧
      (∀ j, o.counter = some j → (Cell.arrival (State.cell t c) j).value = (Cell.arrival x j).value + 1) ∧
      ((Cell.issueOf x k d).status = .draining → (∀ e ∈ x.array, e.1 ≠ id → e.2.slice = k → e.2.drawer = d → ∀ v n, e.2.kind ≠ .drn v n) →
        Cell.issueOf (State.cell t c) k d = DrawerIssue.reset) ∧ Claims.counted s t .drainDone 0 c 1) ∧
  ∀ (s : State) (c k d id : Nat) (o : ArrayOp), let x := State.cell s c
    Cell.findOp x k (fun o => decide (o.drawer = d)) = some (id, o) → o.kind = .cls → Claims.quietArray x →
    ∃ t, exec (.drawerClose c k d) s = .next t ∧ Claims.cellOnly s t c ∧
      (∃ sl, State.cell t c = { x with slices := sl, array := NMap.erase x.array id }) ∧
      Cell.drawer (State.cell t c) k d = { Cell.drawer x k d with opened := false } ∧
      (∀ j, j ≠ d → Cell.drawer (State.cell t c) k j = Cell.drawer x k j) ∧ (∀ j i, Cell.issueOf (State.cell t c) j i = Cell.issueOf x j i) ∧
      Claims.counted s t .drawerDiscard 0 c 1

/-- R235, R263: what a detected failure, or a wave that never ends, does to its slice. -/
def Claims.slicesFail : Prop :=
  ∀ (s : State) (c k : Nat), let x := State.cell s c
    State.cellRuns s c = true → k < x.sliceCount → (Cell.slice x k).resetting = false → Claims.quietArray x →
    (∀ e ∈ x.array, e.2.slice = k → ∀ v n, e.2.kind ≠ .drn v n) →
    (State.sliceRuns s c k = true → (Cell.findOp x k ArrayOp.isMma).isSome = true → exec (.waveWatchdogExpiry c k) s = exec (.sliceFault c k) s) ∧
    ∃ t, exec (.sliceFault c k) s = .next t ∧ t = { s with cells := t.cells, tel := t.tel, power := t.power } ∧
      t.power = { s.power with proofer := { s.power.proofer with queue := t.power.proofer.queue, held := t.power.proofer.held } } ∧
      (∀ d, d ≠ c → State.cell t d = State.cell s d) ∧
      (∃ gs pl rc as w ar sl sf rt sw, State.cell t c = { x with
        groups := gs, parkList := pl, slotWaits := sw, regCache := rc, arrivals := as, watch := w, array := ar, slices := sl, sliceFaults := sf, retiring := rt }) ∧
      Claims.sliceNow x (State.cell t c) k { Cell.slice x k with ramp := .idle, rows := 0, resetting := true, issue := [], drawers := [] } ∧
      (∀ e, e ∈ (State.cell t c).array ↔ (e ∈ x.array ∧ ∀ f ∈ x.array, f.2.slice = k → f.1 ≠ e.1)) ∧
      (∀ j, (Cell.arrival (State.cell t c) j).value = (Cell.arrival x j).value + BitVec.ofNat 32
        (x.array.filter (fun e => decide (e.2.slice = k ∧ e.2.counter = some j) && !(ArrayOp.isMma e.2 && e.2.begun))).length) ∧
      Claims.counted s t .sliceFaults 0 (4 * c + k) 1 ∧ Claims.alarmed s t 0x64 5 (4 * c + k) 0 ∧ t.tel.errFlags.testBit 3 = true ∧
      (∀ o grp, x.sliceCount ≠ 1 → (Cell.slice x k).claimed = some o → Cell.group x o.slot = some grp → grp.age = o.age →
        NMap.find x.parkList o.slot = none →
        ∃ r, NMap.find (State.cell t c).parkList o.slot = some r ∧ r.code = 0x0B ∧ r.detail = BitVec.ofNat 8 k ∧ r.state = .parked ∧ r.pc = grp.pc)

/-- R223 to R264: the array's slices, drawers, drains and faults. -/
def Obligations.ArrayEngine : Prop := Claims.slicesRamp ∧ Claims.drawersFill ∧ Claims.drawersDrain ∧ Claims.slicesFail

/-! ### The chain unit at work, the Sieve and the scale table -/

/-- R270, R271, R273, R293: the oldest waiting instruction of the chain unit reads its inputs; the oldest of all performs its outputs. -/
def Claims.chainWorks : Prop :=
  (∀ (s : State) (c id : Nat) (o : ChainOp) (scale : Option Nat), let x := State.cell s c
    let free := match o.kind with
      | .spk _ => 65536
      | _ => 0
    let r := ChainOp.run o x s.freeCount scale
    x.chain.find? (fun e => !e.2.begun) = some (id, o) → State.cellRuns s c = true → x.copies = [] → (x.portTurn = false ∨ x.port = []) →
    Claims.offStage s c (ChainOp.plan o).inputs →
    (∀ e ∈ x.chain, e.2.begun = true → pairsMeet (ChainOp.plan o).inputs (ChainOp.plan e.2).outputs = false) →
    (match ChainOp.chain o with
      | none => scale = none
      | some d => if d.dsrc then Cell.scaleFor x d.slot o.step d.dfmt = scale ∧ scale ≠ none else scale = none) →
    ∃ t o', exec (.chainStart c) s = .next t ∧ t = { s with cells := t.cells, tel := t.tel, scale := t.scale, freeCount := s.freeCount + free } ∧
      (∀ d, d ≠ c → State.cell t d = State.cell s d) ∧ (∃ v, State.cell t c = { x with chain := NMap.insert x.chain id o', sieve := v, portTurn := true }) ∧
      o' = { o with begun := true, scale := scale, writes := r.writes, counts := r.counts, markAll := o'.markAll } ∧ t.scale.slots = s.scale.slots ∧
      (State.cell t c).sieve.step = x.sieve.step ∧ (State.cell t c).sieve.bindings = x.sieve.bindings ∧ (State.cell t c).sieve.frozen = x.sieve.frozen) ∧
  ∀ (s : State) (c id : Nat) (o : ChainOp) (rest : NMap ChainOp) (residue : Bool), let x := State.cell s c
    x.chain = (id, o) :: rest → o.begun = true → State.cellRuns s c = true → o.markAll = false →
    (∀ w ∈ o.writes, w.addr + w.bytes.length ≤ 2 ^ 19) → Claims.offStage s c (ChainOp.plan o).outputs →
    Claims.offStage s c (o.writes.map (fun w => (w.addr, w.bytes.length))) →
    ∃ t, exec (.chainComplete c residue) s = .next t ∧ Claims.cellOnly s t c ∧
      (∃ gs lm lp as w cs ar ch st re rt, State.cell t c = { x with
        groups := gs, localMem := lm, localPoison := lp, arrivals := as, watch := w, copies := cs, array := ar, chain := ch, sticky := st, residueErrors := re, retiring := rt }) ∧
      NMap.find (State.cell t c).chain id = none ∧ (∀ j, j ≠ id → NMap.find (State.cell t c).chain j = NMap.find x.chain j) ∧
      (∀ j, some j ≠ o.counter → Cell.arrival (State.cell t c) j = Cell.arrival x j) ∧
      (∀ j, o.counter = some j → (Cell.arrival (State.cell t c) j).value = (Cell.arrival x j).value + 1) ∧ Claims.counted s t .chainDone 0 c 1 ∧
      (residue = true → Claims.counted s t .chainHwErr 0 c 1) ∧
      (residue = false → (∀ a, a < 2 ^ 19 → Cell.localByte (State.cell t c) a = Claims.writtenByte o.writes a (Cell.localByte x a)) ∧
        (State.cell t c).residueErrors = x.residueErrors ∧ (State.cell t c).retiring = x.retiring)

/-- The byte of HIST for an exponent (R304). -/
def Claims.histByte (e : Int) : Byte := BitVec.ofNat 8 (clampTo 0 254 (e + 127)).toNat

/-- R298, R299, R302 to R305, R413: the Sieve's banks and sums reach the slot, a complete step updates it, and conversions fetch their scales. -/
def Claims.scalesWork : Prop :=
  (∀ (s : State) (c : Nat) (k : Bank), let x := State.cell s c
    let old := (State.block s (blockOf c)).sums
    x.sieve.frozen = some k →
    ∃ t sums, exec (.sieveBankMerge c) s = .next t ∧ t = { s with cells := t.cells, blocks := t.blocks } ∧
      (∀ d, d ≠ c → State.cell t d = State.cell s d) ∧ State.cell t c = { x with sieve := { x.sieve with frozen := none } } ∧
      (∀ b, b ≠ blockOf c → State.block t b = State.block s b) ∧ State.block t (blockOf c) = { State.block s (blockOf c) with sums := sums } ∧
      (∀ tag slot, k.slots.filter (fun e => decide (e.2 = slot)) = [(tag, slot)] → (∀ e ∈ k.sats, e.1 ≠ slot) →
        NMap.find sums (slot * 2 ^ 32 + k.step.toNat) =
          some (Histogram.join 48 (NMap.get old Histogram.reset (slot * 2 ^ 32 + k.step.toNat)) (NMap.get k.tags Histogram.reset tag))) ∧
      ∀ key, (∀ e ∈ k.slots, key ≠ e.2 * 2 ^ 32 + k.step.toNat) → (∀ e ∈ k.sats, key ≠ e.1 * 2 ^ 32 + k.step.toNat) → NMap.find sums key = NMap.find old key) ∧
  (∀ (s : State) (region slot : Nat), region < 8 →
    ∃ t, exec (.histogramContribution region slot) s = .next t ∧ t = { s with blocks := t.blocks, scale := t.scale, tel := t.tel } ∧
      (∀ b, b / 8 = region → ∀ e ∈ (State.block t b).sums, e.1 / 2 ^ 32 ≠ slot) ∧ (∀ b, b / 8 ≠ region → State.block t b = State.block s b) ∧
      ∀ k, k ≠ slot → ScaleTable.slot t.scale k = ScaleTable.slot s.scale k) ∧
  (∀ (s : State) (region slot : Nat) (m : BitVec 32) (g : SlotMerge) (e : Int), let k := ScaleTable.slot s.scale slot
    region < 8 → (∀ b, b / 8 = region → (State.block s b).sums = []) → ScaleTable.due s.scale slot = [(m, g)] → State.stepComplete s slot m = true →
    k.dynamic = true → g.sums.expMax = some e → g.saturated = false → g.sums.sat = 0 → k.lateSat = false → k.lateSats = 0 → k.restart = false → g.corr = 0 → k.lateCorr = 0 → g.stalled = false →
    k.hlen < 16 →
    ∃ t, exec (.histogramContribution region slot) s = .next t ∧
      let v := ScaleTable.slot t.scale slot
      let listed := (v.hist.filter (fun b => decide (b ≠ 0xFF))).map (·.toNat)
      v.done = some m ∧ v.step = m ∧ v.area = g.sums ∧ v.satStep = false ∧ v.pen = k.pen - 1 ∧ v.hist.length = 64 ∧
      v.hist.head? = some (Claims.histByte e) ∧ (∀ i, 0 < i → i ≤ k.hlen → v.hist.getD i 0 = k.hist.getD (i - 1) 0xFF) ∧
      (∀ i, k.hlen < i → i < 64 → v.hist.getD i 0 = 0xFF) ∧
      v.x = (clampTo 0 254 ((listed.foldl max 0 : Nat) + k.head - elementEmax k.fmt + (if 1 < k.pen then 1 else 0))).toNat ∧
      v = { k with hist := v.hist, pen := v.pen, x := v.x, step := m, satStep := false, area := g.sums, done := some m } ∧
      Claims.counted s t .scaleUpdates 0 (slot % 8) 1) ∧
  (∀ (s : State) (slot : Nat) (m : BitVec 32) (g : SlotMerge), ScaleTable.oldest s.scale slot = some (m, g) → g.stalled = false →
    g.since + 100000000 ≤ s.timebase → (0x67, 1, slot % 8, slot) ∉ s.tel.episodes →
    ∃ t, exec (.scaleStallExpiry slot) s = .next t ∧ t = { s with scale := { s.scale with merges := t.scale.merges }, tel := t.tel } ∧
      (NMap.get t.scale.merges SlotMerge.none (slot * 2 ^ 32 + m.toNat)).stalled = true ∧
      Claims.alarmed s t 0x67 1 (slot % 8) (m.toNat * 2 ^ 32 + slot) ∧ (0x67, 1, slot % 8, slot) ∈ t.tel.episodes) ∧
  (∀ (s : State) (c slot : Nat) (a : ScaleAsk), let x := State.cell s c
    let k := ScaleTable.slot s.scale slot
    NMap.find x.scaleAsks slot = some a → a.answer = none → (k.dynamic = true → State.updateDue s slot a.step = false) →
    ∃ t, exec (.scaleFetch c slot) s = .next t ∧ OnlyCell s t c ∧ State.cell t c = { x with scaleAsks := NMap.insert x.scaleAsks slot { a with
      answer := some { slot := slot, fmt := k.fmt, x := if k.dynamic then k.x else k.initX, step := k.step, upTo := a.step } } }) ∧
  (∀ (s : State) (c slot : Nat) (a : ScaleAsk) (e : CachedScale), let x := State.cell s c
    NMap.find x.scaleAsks slot = some a → a.answer = some e →
    ∃ t, exec (.scaleAnswer c slot) s = .next t ∧ OnlyCell s t c ∧ State.cell t c = { x with
      scaleAsks := NMap.erase x.scaleAsks slot, scaleCache := (e :: x.scaleCache.filter (fun y => decide (y.slot ≠ slot))).take 32 }) ∧
  (∀ (s : State) (slot : Nat) (e : Nat × BitVec 32), let k := ScaleTable.slot s.scale slot
    let key := slot * 2 ^ 32 + e.2.toNat
    s.scale.saturations.find? (fun e => decide (e.1 = slot)) = some e →
    ∃ t, exec (.satDirect slot) s = .next t ∧ t = { s with scale := t.scale, tel := t.tel } ∧ t.scale.saturations = s.scale.saturations.erase e ∧
      t.scale.rescales = s.scale.rescales ∧ (∀ j, j ≠ slot → ScaleTable.slot t.scale j = ScaleTable.slot s.scale j) ∧
      (ScaleSlot.past k e.2 = true → ScaleTable.slot t.scale slot = { k with lateSat := true, lateSats := min (k.lateSats + 1) (2 ^ 48 - 1) } ∧ t.scale.merges = s.scale.merges ∧
        Claims.counted s t .lateReport 0 (slot % 8) 1) ∧
      (ScaleSlot.past k e.2 = false → t.tel = s.tel ∧ ScaleTable.slot t.scale slot = k ∧ (∀ j, j ≠ key → NMap.find t.scale.merges j = NMap.find s.scale.merges j) ∧
        ∃ m, NMap.find t.scale.merges key = some m ∧ m.saturated = true ∧
          m.sums.sat = min ((NMap.get s.scale.merges SlotMerge.none key).sums.sat + 1) (2 ^ 48 - 1))) ∧
  ∀ (s : State) (slot : Nat) (e : Nat × BitVec 32 × Nat × Bool), let k := ScaleTable.slot s.scale slot
    let key := slot * 2 ^ 32 + e.2.1.toNat
    s.scale.rescales.find? (fun e => decide (e.1 = slot)) = some e →
    ∃ t, exec (.rescaleReport slot) s = .next t ∧ t = { s with scale := t.scale, tel := t.tel } ∧ t.scale.rescales = s.scale.rescales.erase e ∧
      t.scale.saturations = s.scale.saturations ∧ (∀ j, j ≠ slot → ScaleTable.slot t.scale j = ScaleTable.slot s.scale j) ∧
      (ScaleSlot.past k e.2.1 = true → ScaleTable.slot t.scale slot = { k with lateCorr := max k.lateCorr e.2.2.1, lateSat := k.lateSat || e.2.2.2 } ∧
        t.scale.merges = s.scale.merges ∧ Claims.counted s t .lateReport 0 (slot % 8) 1) ∧
      (ScaleSlot.past k e.2.1 = false → t.tel = s.tel ∧ ScaleTable.slot t.scale slot = k ∧ (∀ j, j ≠ key → NMap.find t.scale.merges j = NMap.find s.scale.merges j) ∧
        ∃ m, NMap.find t.scale.merges key = some m ∧ m.corr = max (NMap.get s.scale.merges SlotMerge.none key).corr e.2.2.1 ∧
          m.saturated = ((NMap.get s.scale.merges SlotMerge.none key).saturated || e.2.2.2))

/-- R270 to R273, R294 to R305: the chain unit, the Sieve and the scale table. -/
def Obligations.ChainAndScales : Prop := Claims.chainWorks ∧ Claims.scalesWork

/-! ### Remote operations at the home and their answers; window queries -/

/-- The home takes a request of another module at physical address `pa` (R339, R372, R521): it names this module, the address is populated, its
region is served, and the page's owner tag is the request's. -/
def Claims.admitted (s : State) (q : RequestPacket) (pa : Nat) : Prop :=
  let h := homeOf (State.ilv s) pa
  q.destination = s.moduleNumber ∧ h.2.2 = true ∧ State.regionServes s h.1 = true ∧ NMap.get s.fabric.owners 0 (pa / 2 ^ 21) = q.tag

/-- The line of physical address `pa` stands whole in its home region cache, which serves it, and no fill of it is in flight. -/
def Claims.lineThere (s : State) (pa : Nat) : Prop :=
  let h := homeOf (State.ilv s) pa
  h.2.2 = true ∧ State.regionServes s h.1 = true ∧ State.fillOf s h.1 (h.2.1 / 128 * 128) = none ∧
    ∃ l, State.regionLine s h.1 (h.2.1 / 128 * 128) = some l ∧ ∀ i, i < 4 → i ∈ l.valid

/-- No request is on its way to a home region cache of this module, no cell holds anything back, and no copy under way leaves a byte undefined. -/
def Claims.homesIdle (s : State) : Prop :=
  s.homeQueue = [] ∧ Claims.nothingMoves s ∧ ∀ fa, State.unsettledGlobal s fa = false

/-- From `s` to `t` the module has sent `outs`, and besides only region caches' lines and arbiters, memory and counters may differ; no transfer but
those begun since is gone or changed. -/
def Claims.sent (s t : State) (outs : List Output) : Prop :=
  t = { s with regions := t.regions, mem := t.mem, codeWrites := t.codeWrites, memPoison := t.memPoison, tel := t.tel, out := s.out ++ outs
               transfers := t.transfers, nextId := t.nextId } ∧
    (∀ j, j < s.nextId → NMap.find t.transfers j = NMap.find s.transfers j) ∧
    ∀ r, ∃ ca nw, State.region t r = { State.region s r with cache := ca, network := nw }

/-- The `n` bytes from physical address `base`, and the marks of their sectors, as an answer carries them: those of the sectors asked for. -/
def Claims.dataAnswer (s : State) (q : RequestPacket) (base n granule : Nat) (asked : Nat → Bool) : Output :=
  let h := homeOf (State.ilv s) base
  .answer { source := s.moduleNumber, txn := q.txn, status := .done
            bytes := tabulate n (fun i => if asked (i / 32) then State.byteAt s h.1 (h.2.1 + i) else 0)
            poison := BitVec.ofNat 8 (maskOf ((List.range (n / 32)).filter (fun k => asked k && State.sectorPoisoned s h.1 (h.2.1 + 32 * k))))
            granule := granule, values := [] } q.source

def Claims.ack (s : State) (q : RequestPacket) (st : AnswerStatus) : Output :=
  .answer { source := s.moduleNumber, txn := q.txn, status := st, bytes := [], poison := 0, granule := 0, values := [] } q.source

/-- The masked bytes are stored from physical address `base` on: they, and no other byte, change; each sector stored to is poisoned if its
store is, or if it was and is not covered whole (R356). -/
def Claims.storedMasked (s t : State) (base n : Nat) (mask : Nat → Bool) (bs : List Byte) (poison : Nat → Bool) : Prop :=
  let h := homeOf (State.ilv s) base
  let here (k : Nat) : Nat := ((List.range 32).filter (fun i => mask (32 * k + i))).length
  (∀ i, i < n → State.byteAt t h.1 (h.2.1 + i) = if mask i then bs.getD i 0 else State.byteAt s h.1 (h.2.1 + i)) ∧
    (∀ r p, homeKey r p < homeKey h.1 h.2.1 ∨ homeKey h.1 h.2.1 + n ≤ homeKey r p → State.byteAt t r p = State.byteAt s r p) ∧
    (∀ k, k < n / 32 → State.sectorPoisoned t h.1 (h.2.1 + 32 * k) =
      if here k = 0 then State.sectorPoisoned s h.1 (h.2.1 + 32 * k)
      else (poison k || (decide (here k < 32) && State.sectorPoisoned s h.1 (h.2.1 + 32 * k)))) ∧
    ∀ r p, homeKey r p < homeKey h.1 h.2.1 ∨ homeKey h.1 h.2.1 + n ≤ homeKey r p → State.sectorPoisoned t r p = State.sectorPoisoned s r p

/-- The command that brings a request, and the physical address the request is checked by. -/
def Claims.arrives (q : RequestPacket) : Option (Instr × Nat) :=
  match q.body with
  | .load a _ => some (.load q, a)
  | .store a _ _ _ => some (.store q, a)
  | .atomic _ _ _ ls => some (.atomic q, (ls.head?.map (·.addr)).getD 0)
  | .put a _ _ _ _ => some (.put q, a)
  | .get _ _ => none
  | .notify _ _ => none

/-- R155, R356, R372, R374: a home performs another module's LOAD, STORE, ATOMIC, GET or PUT and answers it, or rejects it. -/
def Claims.homePerforms : Prop :=
  (∀ (s : State) (q : RequestPacket) (addr : Nat) (mask : BitVec 64), q.body = .load addr mask → addr < 2 ^ 43 →
    Claims.admitted s q addr → Claims.homesIdle s → Claims.lineThere s addr →
    ∃ t, exec (.load q) s = .next t ∧ t.mem = s.mem ∧ t.memPoison = s.memPoison ∧
      Claims.sent s t [Claims.dataAnswer s q (addr / 64 * 64) 64 0 (fun k => (List.range 32).any (fun i => mask.getLsbD (32 * k + i)))]) ∧
  (∀ (s : State) (q : RequestPacket) (addr n : Nat), q.body = .get addr n → addr % 256 = 0 → addr + n ≤ 2 ^ 43 → Claims.admitted s q addr →
    Claims.homesIdle s → (∀ k, k < 2 * (n / 256) → Claims.lineThere s (addr + 128 * k)) →
    ∃ t, exec (.get q) s = .next t ∧ t.mem = s.mem ∧ t.memPoison = s.memPoison ∧
      Claims.sent s t ((List.range (n / 256)).map (fun g => Claims.dataAnswer s q (addr + 256 * g) 256 g (fun _ => true)))) ∧
  (∀ (s : State) (q : RequestPacket) (addr : Nat) (mask : BitVec 64) (bs : List Byte) (poison : Bool),
    q.body = .store addr mask bs poison → Claims.admitted s q addr → Claims.homesIdle s → Claims.lineThere s addr →
    ∃ t, exec (.store q) s = .next t ∧ Claims.sent s t [Claims.ack s q .done] ∧
      Claims.storedMasked s t (addr / 64 * 64) 64 mask.getLsbD bs (fun _ => poison)) ∧
  (∀ (s : State) (q : RequestPacket) (addr : Nat) (mask : BitVec 256) (bs : List Byte) (poison : BitVec 8) (uses : BitVec 4),
    q.body = .put addr mask bs poison uses → Claims.admitted s q addr → Claims.homesIdle s →
    Claims.lineThere s (addr / 256 * 256) → Claims.lineThere s (addr / 256 * 256 + 128) →
    ∃ t, exec (.put q) s = .next t ∧ Claims.sent s t [Claims.ack s q .done] ∧
      Claims.storedMasked s t (addr / 256 * 256) 256 mask.getLsbD bs poison.getLsbD) ∧
  (∀ (s : State) (q : RequestPacket) (op : AtomicOp) (signed : Bool) (size : Nat) (l0 : AtomicLane) (rest : List AtomicLane),
    let lanes := l0 :: rest
    let h := homeOf (State.ilv s) l0.addr
    let place (a : Nat) : Nat := h.2.1 / 128 * 128 + a % 128
    let read (s : State) (a : Nat) : Nat := ofBytes (tabulate size (fun i => State.byteAt s h.1 (place a + i)))
    let after (ls : List AtomicLane) (a : Nat) : Nat := (ls.filter (fun k => decide (k.addr = a))).foldl
      (fun v k => Claims.atomicValue op signed (8 * size) v k.b.toNat k.c.toNat) (read s a)
    q.body = .atomic op signed size lanes → Claims.admitted s q l0.addr → Claims.homesIdle s → Claims.lineThere s l0.addr → (size = 4 ∨ size = 8) → (lanes.map (·.lane)).Nodup →
    (∀ l ∈ lanes, l.addr % size = 0 ∧ l.addr / 32 = l0.addr / 32 ∧ l.b.toNat < 2 ^ (8 * size) ∧ l.c.toNat < 2 ^ (8 * size)) →
    State.sectorPoisoned s h.1 (place l0.addr) = false →
    ∃ t a, exec (.atomic q) s = .next t ∧ Claims.sent s t [.answer a q.source] ∧ t.memPoison = s.memPoison ∧
      a = { source := s.moduleNumber, txn := q.txn, status := .done, bytes := [], poison := 0, granule := 0, values := a.values } ∧
      (∀ before l later, lanes = before ++ l :: later → (l.lane, BitVec.ofNat 64 (after before l.addr), false) ∈ a.values) ∧
      (∀ l ∈ lanes, read t l.addr = after lanes l.addr) ∧
      ∀ r p, (∀ l ∈ lanes, homeKey r p < homeKey h.1 (place l.addr) ∨ homeKey h.1 (place l.addr) + size ≤ homeKey r p) →
        State.byteAt t r p = State.byteAt s r p) ∧
  ∀ (s : State) (q : RequestPacket) (i : Instr) (pa : Nat), let h := homeOf (State.ilv s) pa
    let owner := NMap.get s.fabric.owners 0 (pa / 2 ^ 21)
    Claims.arrives q = some (i, pa) → q.destination = s.moduleNumber → h.2.2 = true → State.regionServes s h.1 = true → owner ≠ q.tag →
    ∃ t a, exec i s = .next t ∧ t = { s with tel := t.tel, out := s.out ++ [.answer a q.source] } ∧ a.status = .rejected ∧ a.txn = q.txn ∧
      (∀ addr mask, q.body = .load addr mask → a.poison = 3) ∧ (∀ v ∈ a.values, v.2.2 = true) ∧
      (∀ op sg n ls, q.body = .atomic op sg n ls → a.values.map (·.1) = ls.map (·.lane)) ∧ Claims.counted s t .homeReject 0 h.1 1 ∧
      (h.1, { stamp := s.timebase, type := 0x0031, kind := 1, source := h.1, job := q.tag
              d := [1, s.moduleNumber * 2 ^ 43 + pa, q.source, q.tag.toNat, owner.toNat] }) ∈ t.tel.logPath

/-- R171 to R173: a notify at its target. -/
def Claims.notifyArrives : Prop :=
  ∀ (s : State) (q : RequestPacket) (target : BitVec 64) (amount : Nat), let c := targetCell target.toNat
    let k := target.toNat % 32
    q.body = .notify target amount → q.destination = s.moduleNumber → targetBad target.toNat = false →
    (State.cellRuns s c = false → exec (.notifyPacket q) s = .next { s with out := s.out ++ [Claims.ack s q .lost] }) ∧
    (State.cellRuns s c = true → (Cell.arrival (State.cell s c) k).tag = q.tag →
      ∃ t, exec (.notifyPacket q) s = .next t ∧ t = { s with cells := t.cells, out := s.out ++ [Claims.ack s q .done] } ∧
        (∀ d, d ≠ c → State.cell t d = State.cell s d) ∧ Claims.incremented (State.cell s c) (State.cell t c) k amount) ∧
    (State.cellRuns s c = true → (Cell.arrival (State.cell s c) k).tag ≠ q.tag →
      ∃ t, exec (.notifyPacket q) s = .next t ∧ t = { s with tel := t.tel, out := s.out ++ [Claims.ack s q .rejected] } ∧
        Claims.counted s t .notifyRejectIn 0 c 1 ∧
        (regionOf c, { stamp := s.timebase, type := 0x0030, kind := 3, source := c, job := q.tag
                       d := [1, q.source % 2 ^ 14 * 2 ^ 16 + q.sourceCell % 2 ^ 16, q.tag.toNat, k] }) ∈ t.tel.logPath)

/-- Entry `e` of region `r` holds request `y` of a cell whose block is not fenced, nothing else of the region is owed by a module declared failed
(R377), and nothing waits for this request to go on its own way. -/
def Claims.holdsRequest (s : State) (r e : Nat) (y : Transaction) : Prop :=
  NMap.find (State.region s r).txns e = some y ∧ (∀ z ∈ (State.region s r).txns, NMap.find s.fabric.failed z.2.packet.destination = none) ∧
    (State.block s (blockOf y.cell)).fenced = false ∧ Claims.nothingMoves s

/-- Answer `a` is that of the request in entry `e` of region `r`, its generation too (R376). -/
def Claims.answersEntry (s : State) (a : AnswerPacket) (r e : Nat) (y : Transaction) : Prop :=
  Claims.holdsRequest s r e y ∧ a.txn.toNat / 2 ^ 22 = r ∧ a.txn.toNat / 2 ^ 8 % 2 ^ 14 = e ∧ a.txn.toNat % 2 ^ 8 = y.generation

/-- The entry is free again; other entries, other regions and other cells are as they were, and cell `c` may differ. -/
def Claims.entryFreed (s t : State) (r e c : Nat) : Prop :=
  t = { s with cells := t.cells, regions := t.regions, tel := t.tel } ∧
    State.region t r = { State.region s r with txns := NMap.erase (State.region s r).txns e } ∧ (∀ k, k ≠ r → State.region t k = State.region s k) ∧
    ∀ d, d ≠ c → State.cell t d = State.cell s d

/-- One access of cell `x`, of kind `kind`, waits for line-miss slot `m` and nothing else, for group `grp` (R152). -/
def Claims.waitsFor (x : Cell) (m op : Nat) (a : Access) (kind : AccessKind) (grp : Group) : Prop :=
  x.held = [] ∧ x.accesses.filter (fun e => e.2.waits.contains m) = [(op, a)] ∧ a.waits = [m] ∧ a.later.asks = [] ∧ a.kind = kind ∧
    Cell.group x a.slot = some grp ∧ (a.lanes.map (·.lane)).Nodup ∧ ∀ y ∈ a.lanes, y.lane < 32

/-- Cell `x` becomes `y`: the line-miss slot and the access are gone, the access's registers are no longer awaited, no other group changes. -/
def Claims.accessDone (x y : Cell) (m op size : Nat) (a : Access) (grp after : Group) : Prop :=
  (∃ gs ac, y = { x with groups := gs, misses := NMap.erase x.misses m, accesses := ac }) ∧ NMap.find y.accesses op = none ∧
    (∀ j, j ≠ op → NMap.find y.accesses j = NMap.find x.accesses j) ∧
    (∀ k, k ≠ a.slot → Cell.group y k = Cell.group x k) ∧ Cell.group y a.slot = some after ∧
    after = { grp with w := after.w, wPoison := after.wPoison, wSource := after.wSource, awaited := unawait grp.awaited (destRegs a.reg size)
                       acquire := grp.acquire.erase op }

/-- The registers of a load of 2^`size` bytes a lane take the bytes of the 64-byte range `base`, with the marks of its sectors. -/
def Claims.loadedFrom (a : Access) (after : Group) (size : Nat) (signed : Bool) (byte : Nat → Byte) (mark : Nat → Bool) : Prop :=
  ∀ k, k < (if size ≤ 2 then 1 else 2 ^ size / 4) → ∀ y ∈ a.lanes,
    let w := ofBytes (tabulate (min 4 (2 ^ size)) (fun i => byte (y.fa % 64 + 4 * k + i)))
    Group.lane after (a.reg + k) y.lane = (if signed ∧ size < 2 then ((BitVec.ofNat (8 * 2 ^ size) w).signExtend 32).toNat else w) ∧
    (Group.poisonOf after (a.reg + k)).testBit y.lane = mark (y.fa % 64 / 32)

def Claims.answerCommands : List (AnswerPacket → Instr) := [.loadData, .storeAck, .atomicData, .getData, .putAck, .notifyAck]

/-- R152, R171, R172, R373, R376, R377: what an answer does at the requester, a late one, and the one that never comes. -/
def Claims.answersReturn : Prop :=
  (∀ (s : State) (a : AnswerPacket) (r e addr m op size : Nat) (mask : BitVec 64) (y : Transaction) (ac : Access) (signed : Bool) (grp : Group) (ms : Miss),
    let x := State.cell s y.cell
    Claims.answersEntry s a r e y → y.packet.body = .load addr mask → a.status = .done → y.miss = some m → NMap.find x.misses m = some ms → ms.roc = false →
    Claims.waitsFor x m op ac (.load size signed) grp → size ≤ 4 →
    (∀ l ∈ ac.lanes, l.fa % 2 ^ size = 0 ∧ l.fa / 64 = (y.packet.destination * 2 ^ 43 + addr) / 64) →
    ∃ t after, exec (.loadData a) s = .next t ∧ Claims.entryFreed s t r e y.cell ∧ t.tel = s.tel ∧
      Claims.accessDone x (State.cell t y.cell) m op size ac grp after ∧ Claims.loadedFrom ac after size signed (fun i => a.bytes.getD i 0) a.poison.getLsbD) ∧
  (∀ (s : State) (r e addr m op size : Nat) (mask : BitVec 64) (y : Transaction) (ac : Access) (signed : Bool) (grp : Group),
    let x := State.cell s y.cell
    Claims.holdsRequest s r e y → y.packet.body = .load addr mask → y.sent + s.fabric.rspTimeoutMs * 1000000 ≤ s.timebase → y.miss = some m →
    Claims.waitsFor x m op ac (.load size signed) grp → size ≤ 4 →
    (∀ l ∈ ac.lanes, l.fa % 2 ^ size = 0 ∧ l.fa / 64 = (y.packet.destination * 2 ^ 43 + addr) / 64) →
    ∃ t after, exec (.rspTimeoutExpiry r e) s = .next t ∧ Claims.entryFreed s t r e y.cell ∧ Claims.counted s t .remoteLost 0 r 1 ∧
      Claims.accessDone x (State.cell t y.cell) m op size ac grp after ∧
      ∀ k, k < (if size ≤ 2 then 1 else 2 ^ size / 4) → ∀ l ∈ ac.lanes, (Group.poisonOf after (ac.reg + k)).testBit l.lane = true) ∧
  (∀ (s : State) (a : AnswerPacket) (r e addr : Nat) (mask : BitVec 64) (bs : List Byte) (poison : Bool) (y : Transaction),
    Claims.answersEntry s a r e y → y.packet.body = .store addr mask bs poison → a.status = .done →
    ∃ t, exec (.storeAck a) s = .next t ∧ Claims.entryFreed s t r e y.cell ∧ t.tel = s.tel ∧ t.cells = s.cells) ∧
  (∀ (s : State) (a : AnswerPacket) (r e m op size n : Nat) (o : AtomicOp) (signed : Bool) (lanes : List AtomicLane) (y : Transaction) (ac : Access)
      (grp : Group), let x := State.cell s y.cell
    Claims.answersEntry s a r e y → y.packet.body = .atomic o signed n lanes → a.status = .done → y.miss = some m →
    Claims.waitsFor x m op ac (.atomic size) grp → (size = 2 ∨ size = 3) →
    ∃ t after, exec (.atomicData a) s = .next t ∧ Claims.entryFreed s t r e y.cell ∧ Claims.accessDone x (State.cell t y.cell) m op size ac grp after ∧
      ∀ k, k < size - 1 → ∀ l ∈ lanes, l.lane ∈ ac.lanes.map (·.lane) → ∀ v p, a.values.find? (fun z => decide (z.1 = l.lane)) = some (l.lane, v, p) →
        Group.lane after (ac.reg + k) l.lane = v.toNat / 2 ^ (32 * k) % 2 ^ 32 ∧ (Group.poisonOf after (ac.reg + k)).testBit l.lane = p) ∧
  (∀ (s : State) (a : AnswerPacket) (r e addr slot : Nat) (mask : BitVec 256) (bs : List Byte) (poison : BitVec 8) (uses : BitVec 4) (y : Transaction)
      (k : CopySlot), let x := State.cell s y.cell
    Claims.answersEntry s a r e y → y.packet.body = .put addr mask bs poison uses → y.copy = some slot → NMap.find x.copies slot = some k →
    a.status = .done →
    ∃ t, exec (.putAck a) s = .next t ∧ Claims.entryFreed s t r e y.cell ∧ t.tel = s.tel ∧ (∃ cs, State.cell t y.cell = { x with copies := cs }) ∧
      NMap.find (State.cell t y.cell).copies slot = some { k with waits := k.waits.erase y.op } ∧
      ∀ j, j ≠ slot → NMap.find (State.cell t y.cell).copies j = NMap.find x.copies j) ∧
  (∀ (s : State) (a : AnswerPacket) (r e amount : Nat) (target : BitVec 64) (y : Transaction), let x := State.cell s y.cell
    Claims.answersEntry s a r e y → y.packet.body = .notify target amount →
    ∃ t, exec (.notifyAck a) s = .next t ∧ Claims.entryFreed s t r e y.cell ∧
      (∀ m, y.miss = some m → y.copy = none → State.cell t y.cell = { x with misses := NMap.erase x.misses m }) ∧
      (∀ k, y.miss = none → y.copy = some k → State.cell t y.cell = { x with copies := NMap.erase x.copies k }) ∧
      (a.status = .done → t.tel = s.tel) ∧ (a.status = .rejected → Claims.counted s t .notifyRejectOut 0 y.cell 1) ∧
      (a.status = .lost → Claims.counted s t .notifyLost 0 y.cell 1 ∧ Claims.counted s t .remoteLost 0 r 1)) ∧
  ∀ i ∈ Claims.answerCommands, ∀ (s : State) (a : AnswerPacket), a.txn.toNat / 2 ^ 22 < 8 →
    (∀ y, NMap.find (State.region s (a.txn.toNat / 2 ^ 22)).txns (a.txn.toNat / 2 ^ 8 % 2 ^ 14) = some y → y.generation ≠ a.txn.toNat % 2 ^ 8) →
    ∃ t, exec (i a) s = .next t ∧ t = { s with tel := t.tel } ∧ Claims.counted s t .rspLate 0 (a.txn.toNat / 2 ^ 22) 1

/-- R375: GET_DATA at a copy: the granule's sectors are kept for its rows; a row into local memory whose data are now all there is written. -/
def Claims.granulesArrive : Prop :=
  ∀ (s : State) (a : AnswerPacket) (r e addr n slot : Nat) (y : Transaction) (k : CopySlot), let x := State.cell s y.cell
    let d := copyDesc k.desc.toNat
    let src (g i : Nat) : Nat := CopySlot.fabric k ((strided d.src d.srcStride g + i) % (2 ^ 64 : Nat)).toNat
    let here (fa : Nat) : Bool := decide (fa / 256 = (y.packet.destination * 2 ^ 43 + addr) / 256 + a.granule)
    Claims.answersEntry s a r e y → y.packet.body = .get addr n → addr % 256 = 0 → a.status = .done → y.copy = some slot →
    NMap.find x.copies slot = some k → k.openBytes = [] → d.srcSpace ≠ 0 → d.dstSpace = 0 → d.mx = 0 → d.blk = false → d.srcFmt = d.dstFmt →
    (∀ row ∈ k.rows, ∃ g i, CopyDesc.sourceRow d k.gather row = some g ∧ i < CopyDesc.srcRow d ∧ src g i / 2 ^ 43 ≠ s.moduleNumber) →
    (∀ row ∈ k.rows, Claims.offStage s y.cell [((strided d.dst d.dstStride row).toNat, CopyDesc.dstRow d)]) →
    ∃ t k', exec (.getData a) s = .next t ∧ t = { s with cells := t.cells, regions := t.regions } ∧
      (let left := y.granules.erase a.granule
       let old := (State.region s r).txns
       let now := if left = [] then NMap.erase old e else NMap.insert old e { y with granules := left }
       State.region t r = { State.region s r with txns := now } ∧ k'.waits = if left = [] then k.waits.erase y.op else k.waits) ∧
      (∀ j, j ≠ r → State.region t j = State.region s j) ∧ (∀ c, c ≠ y.cell → State.cell t c = State.cell s c) ∧
      (∃ lm lp cs ar, State.cell t y.cell = { x with localMem := lm, localPoison := lp, copies := cs, array := ar }) ∧
      NMap.find (State.cell t y.cell).copies slot = some k' ∧ k' = { k with data := k'.data, waits := k'.waits, rows := k'.rows, poisoned := k'.poisoned, marked := k'.marked } ∧
      (∀ j, j ≠ slot → NMap.find (State.cell t y.cell).copies j = NMap.find x.copies j) ∧
      (∀ i, i < 8 → NMap.find k'.data ((y.packet.destination * 2 ^ 43 + addr) / 32 + 8 * a.granule + i) =
        some { bytes := tabulate 32 (fun j => a.bytes.getD (32 * i + j) 0), poison := a.poison.getLsbD i }) ∧
      ((∀ row ∈ k.rows, ∃ g i, CopyDesc.sourceRow d k.gather row = some g ∧ i < CopyDesc.srcRow d ∧ src g i / 2 ^ 43 ≠ s.moduleNumber ∧
          here (src g i) = false ∧ NMap.find k.data (src g i / 32) = none) →
        k'.rows = k.rows ∧ k'.poisoned = k.poisoned ∧ k'.marked = k.marked ∧ (State.cell t y.cell).localMem = x.localMem ∧ (State.cell t y.cell).localPoison = x.localPoison) ∧
      ∀ row g, k.rows = [row] → CopyDesc.sourceRow d k.gather row = some g →
        (∀ i, i < CopyDesc.srcRow d → here (src g i) = true ∨ (NMap.find k.data (src g i / 32)).isSome = true) →
        let dst := strided d.dst d.dstStride row
        0 ≤ dst → dst + CopyDesc.dstRow d ≤ 2 ^ 19 →
        k'.rows = [] ∧
        (∀ i, i < CopyDesc.dstRow d → Cell.localByte (State.cell t y.cell) (dst.toNat + i) =
          if here (src g i) then a.bytes.getD (src g i % 256) 0
          else ((NMap.find k.data (src g i / 32)).map (fun v => v.bytes.getD (src g i % 32) 0)).getD 0) ∧
        ∀ b : Nat, b < 2 ^ 19 → ((b : Int) < dst ∨ dst + CopyDesc.dstRow d ≤ b) → Cell.localByte (State.cell t y.cell) b = Cell.localByte x b

/-- R369: a server answers a window query from its own table, and what its answer does for the group that waits. -/
def Claims.windowQueries : Prop :=
  (∀ (s : State) (source : Nat) (vpn : BitVec 32) (tag : BitVec 16), let mine (k : Nat) (w : BitVec 128) : Prop := NMap.find s.fabric.table k = some w ∧
      (windowEntry w).vpn = vpn.toNat ∧ (windowEntry w).valid = true ∧ (windowEntry w).kind = 0
    (∀ k ∈ windowSlots vpn.toNat, ∀ w, mine k w → (∀ j ∈ windowSlots vpn.toNat, ∀ v, mine j v → j = k) → (windowEntry w).tag = tag →
      exec (.winQuery source vpn tag) s = .next { s with out := s.out ++ [.fabric source (.winReply vpn.toNat tag (some w))] }) ∧
    ((∀ k ∈ windowSlots vpn.toNat, ∀ w, mine k w → (windowEntry w).tag ≠ tag) →
      exec (.winQuery source vpn tag) s = .next { s with out := s.out ++ [.fabric source (.winReply vpn.toNat tag none)] })) ∧
  ∀ (s : State) (server : Nat) (vpn : BitVec 32) (tag : BitVec 16) (q : WindowQuery) (p : ParkRecord), let x := State.cell s q.cell
    let r := regionOf q.cell
    s.fabric.queries.find? (fun z => decide (z.server = server ∧ z.vpn = vpn.toNat ∧ z.tag = tag)) = some q → q.stale = false → q.slot < 64 →
    NMap.find x.parkList q.slot = some p → p.state = .resolving →
    (∀ w, let e := windowEntry w
      ∃ t, exec (.winReply server vpn tag (some w)) s = .next t ∧
        t = { s with cells := t.cells, regions := t.regions, fabric := { s.fabric with queries := s.fabric.queries.erase q } } ∧
        (∀ c, c ≠ q.cell → State.cell t c = State.cell s c) ∧ (∃ l, State.cell t q.cell = { x with parkList := l }) ∧
        NMap.find (State.cell t q.cell).parkList q.slot = some { p with state := .replay } ∧
        (∀ j, j ≠ q.slot → NMap.find (State.cell t q.cell).parkList j = NMap.find x.parkList j) ∧
        (∃ wc, State.region t r = { State.region s r with windowCache := wc }) ∧ (∀ k, k ≠ r → State.region t k = State.region s k) ∧
        Region.translation (State.region t r) q.vpn = some { vpn := q.vpn, job := e.tag, home := e.module, ppn := e.ppn, rd := e.rd, wr := e.wr
                                                             at_ := e.at_, ex := e.ex, roc := e.roc, via := some q.via }) ∧
    ∃ t, exec (.winReply server vpn tag none) s = .next t ∧
      t = { s with cells := t.cells, tel := t.tel, fabric := { s.fabric with queries := s.fabric.queries.erase q } } ∧
      (∀ c, c ≠ q.cell → State.cell t c = State.cell s c) ∧ (∃ l, State.cell t q.cell = { x with parkList := l }) ∧
      NMap.find (State.cell t q.cell).parkList q.slot = some { p with state := .held } ∧
      (∀ j, j ≠ q.slot → NMap.find (State.cell t q.cell).parkList j = NMap.find x.parkList j) ∧
      (r, { stamp := s.timebase, type := 0x0021, kind := 3, source := q.cell, job := p.job
            d := [2, q.slot * 2 ^ 16 + q.cell, p.code.toNat * 256 + p.detail.toNat, p.addr.toNat, p.stamp] }) ∈ t.tel.logPath

/-- R155, R171 to R173, R356, R369, R372 to R377: remote operations at both ends. -/
def Obligations.RemoteOperations : Prop :=
  Claims.homePerforms ∧ Claims.notifyArrives ∧ Claims.answersReturn ∧ Claims.granulesArrive ∧ Claims.windowQueries

/-! ### The host's windows -/

/-- The byte key of physical address `pa` (R334 to R336). -/
def Claims.keyOf (s : State) (pa : Nat) : Nat := let h := homeOf (State.ilv s) pa; h.1 * 2 ^ 39 + h.2.1

/-- A pin's level as a register returns it: in the tick of a change, the level before it (R59). -/
def Claims.levelRead (level : Bool) (changed : Option Nat) (s : State) : Bool := if changed = some s.timebase then !level else level

/-- R42, R43, R59, R339, R462 to R468, R470 and Tables 16.1 to 16.4: the memory window, the endpoint, the status word and PACE. -/
def Obligations.HostWindows : Prop :=
  (∀ (s : State) (offset len : Nat), State.hostReady s = true → 0 < len → offset + len ≤ 2 ^ s.host.winLog2 →
    let pa := s.host.aperture + offset
    (State.hostRefuses s pa len = false → pa + len ≤ 2 ^ 43 → Claims.homesIdle s → Claims.allSettled s → (∀ i, i < len → Claims.lineThere s (pa + i)) →
      ∃ t, exec (.memoryWindowRead offset len) s = .next t ∧
        t = { s with regions := t.regions, tel := t.tel, out := t.out, transfers := t.transfers, nextId := t.nextId } ∧
        (∀ j, j < s.nextId → NMap.find t.transfers j = NMap.find s.transfers j) ∧ t.out = s.out ++ [.completion (tabulate len (fun i => NMap.get s.mem 0 (Claims.keyOf s (pa + i))))
          ((List.range len).any (fun i => NMap.get s.memPoison false (Claims.keyOf s (pa + i) / 32)))]) ∧
    (State.hostRefuses s pa len = true →
      ∃ t, exec (.memoryWindowRead offset len) s = .next t ∧ t = { s with tel := t.tel, out := s.out ++ [.unsupported] } ∧ Claims.counted s t .hostRefused 0 0 1)) ∧
  (∀ (s : State) (offset : Nat) (bytes : List Byte) (outs : List SectorOutcome), State.hostReady s = true → bytes ≠ [] → offset + bytes.length ≤ 2 ^ s.host.winLog2 →
    let pa := s.host.aperture + offset
    (State.hostRefuses s pa bytes.length = false →
      ∃ t, exec (.memoryWindowWrite offset ⟨bytes, outs⟩) s = .next t ∧
        t = { s with
          mem := t.mem, codeWrites := t.codeWrites, memPoison := t.memPoison, regions := t.regions, tel := t.tel, banks := t.banks
          stackQueue := t.stackQueue, nextId := t.nextId } ∧
        (∀ k, NMap.get t.mem 0 k = match (List.range bytes.length).reverse.find? (fun i => decide (Claims.keyOf s (pa + i) = k)) with
          | some i => bytes.getD i 0
          | none => NMap.get s.mem 0 k) ∧
        ((∀ i, i < bytes.length → Claims.lineThere s (pa + i)) → t.banks = s.banks ∧ t.stackQueue = s.stackQueue ∧ t.nextId = s.nextId ∧
         ∀ k, (∀ i, i < bytes.length → Claims.keyOf s (pa + i) / 32 ≠ k) → NMap.get t.memPoison false k = NMap.get s.memPoison false k)) ∧
    (State.hostRefuses s pa bytes.length = true →
      ∃ t, exec (.memoryWindowWrite offset ⟨bytes, outs⟩) s = .next t ∧ t = { s with tel := t.tel } ∧ Claims.counted s t .hostRefused 0 0 1)) ∧
  (∀ (s : State) (offset len : Nat) (isWrite : Bool), State.windowServes s = true → ¬ (len = 4 ∧ offset % 4 = 0) → ¬ (len = 8 ∧ offset % 8 = 0) →
    exec (.controlWindowBadAccess offset len isWrite) s = .next { s with out := s.out ++ [.unsupported] }) ∧
  (∀ s : State, ∃ t, exec .pcieReset s = .next t ∧
    t = { s with host := { s.host with mailboxes := t.host.mailboxes, mirrorAddr := 0, busMaster := false, winLog2 := 34 } } ∧
    ∀ n, State.mailbox t n = if n < 16 then { State.mailbox s n with doorbell := 0 } else State.mailbox s n) ∧
  (∀ (s : State) (r : ConfigRequest), s.phase = .boot → exec (.configurationRequest r) s = .next { s with out := s.out ++ [.retry] }) ∧
  (∀ (s : State) (on : Bool) (n o : Nat), State.hostReady s = true →
    exec (.configurationRequest (.busMasterEnable on)) s = .next { s with host := { s.host with busMaster := on } } ∧
    exec (.configurationRequest (.other o)) s = .next { s with out := s.out ++ [.config o none] } ∧
    (∃ w : BitVec 32, exec (.configurationRequest (.read o)) s = .next { s with out := s.out ++ [.config o (some w)] } ∧
      (o / 4 = 0 → w.toNat / 2 ^ 16 = 0x0A39) ∧ (o / 4 = 1 → w.toNat.testBit 2 = s.host.busMaster) ∧ (o / 4 = 2 → w.toNat / 2 ^ 8 = 0x120000) ∧
      (o / 4 = 11 → w.toNat / 2 ^ 16 = 0x1536) ∧ (o / 4 = 15 → w.toNat / 2 ^ 8 % 2 ^ 8 = 0)) ∧
    ∃ t, exec (.configurationRequest (.resizeMemoryWindow n)) s = .next t ∧ t = { s with host := { s.host with winLog2 := t.host.winLog2, aperture := t.host.aperture } } ∧
      (if 34 ≤ n ∧ n ≤ 41 then t.host.winLog2 = n ∧ t.host.aperture % 2 ^ n = 0 ∧ t.host.aperture ≤ s.host.aperture ∧ s.host.aperture < t.host.aperture + 2 ^ n
      else t = s)) ∧
  (∀ s : State, s.phase ≠ .off →
    ∃ t, exec .statusRewrite s = .next t ∧ t = { s with host := { s.host with status := t.host.status }, out := t.out } ∧
      (let w := t.host.status.toNat
       w / 2 ^ 56 = (s.host.status.toNat / 2 ^ 56 + 1) % 256 ∧ w / 2 ^ 48 % 256 = Mode.code (State.mode s) ∧
       (∀ n, n < 16 → w.testBit (16 + n) = (State.mailbox s n).done ∧ w.testBit n = (State.mailbox s n).busy) ∧
       (∀ g, g < 7 → w.testBit (47 - g) =
         (s.tel.alarms.any (fun a => decide (a.code / 32 = g)) || s.tel.reserved.any (fun e => decide (e.2.code / 32 = g)))) ∧
       w.testBit 40 = (s.tel.alarms.any (fun a => decide (7 ≤ a.code / 32)) || s.tel.reserved.any (fun e => decide (7 ≤ e.2.code / 32))) ∧
       w.testBit 39 = s.presence.windowOpen ∧ w.testBit 38 = Claims.levelRead s.presence.jumper s.presence.jmpAt s ∧
       w.testBit 37 = Claims.levelRead s.nv.sealClosed s.presence.sealAt s ∧
       w.testBit 36 = decide (s.nv.rearmBlown < s.nv.serviceBlown) ∧ w.testBit 35 = s.debug ∧ w.testBit 34 = s.bench.any (fun e => e.2.running) ∧
       w.testBit 33 = s.nv.staged ∧
       w.testBit 32 = ((s.presence.jumper && decide (s.presence.jmpAt ≠ some s.timebase)) || (s.presence.windowOpen && decide (s.presence.winStart ≤ s.timebase) && decide (s.timebase < s.presence.winEnd)))) ∧
      t.out = (if s.host.mirrorAddr ≠ 0 ∧ s.host.busMaster = true then s.out ++ [.hostWrite s.host.mirrorAddr.toNat (toBytes 8 t.host.status.toNat)] else s.out)) ∧
  (∀ s : State, s.phase ≠ .off →
    ∃ t, exec .bakerWatchdogRestart s = .next t ∧
      t = { s with
        jobs := t.jobs, tel := t.tel, host := { s.host with mailboxes := t.host.mailboxes }, tasting := none, cells := t.cells, nextId := t.nextId } ∧
      (s.tasting = none → t.cells = s.cells ∧ t.nextId = s.nextId) ∧
      Claims.alarmed s t 0xC2 0 0 0 ∧
      ∀ n, let m := State.mailbox s n
        if n < 17 ∧ m.running ≠ none then
          State.mailbox t n = { m with
            result := 0xFFFE, resLen := 0, doneSeq := m.ackSeq, progress := 0, doneTime := s.timebase, res := [], report := [], busy := false, done := true, running := none }
        else State.mailbox t n = m) ∧
  ∀ (s : State) (r p : Nat) (monitors : List Nat) (temp : BitVec 8), r < 8 → (State.regionPower s r).on = true → monitors.length = 8 → p < 2 ^ 16 →
    (∃ b, b < 8 ∧ (State.block s (8 * r + b)).fenced = false ∧ monitors.getD b 0 = p) →
    (∀ b, b < 8 → (State.block s (8 * r + b)).fenced = false → p ≤ monitors.getD b 0) →
    let x := State.regionPower s r
    let low := belowGuaranteed p x.volt paceTable
    ∃ t, exec (.paceInterval r monitors temp) s = .next t ∧ t = { s with tel := t.tel, power := { s.power with regions := t.power.regions } } ∧
      (∀ q, q ≠ r → State.regionPower t q = State.regionPower s q) ∧
      State.regionPower t r = { x with pace :=
        { volt := x.volt / 5, temp := temp, paceMin := min x.pace.paceMin p, pace := p, seq := (x.pace.seq + 1) % 2 ^ 12
          throttle := decide (x.volt < x.vreq), lowpace := x.pace.lowpace || low, valid := true } } ∧
      (low = true → Claims.counted s t .paceLow 0 r 1)

/-! ### Registers, doorbells and SMBus -/

/-- R475: a doorbell rung while BUSY, or whose value equals ACK_SEQ, is ignored and counted; the running command goes on. -/
def Obligations.DoorbellIgnored : Prop :=
  ∀ (s : State) (n : Nat) (v : BitVec 64), n < 16 → State.windowServes s = true →
    ((State.mailbox s n).busy = true ∨ v.toNat = (State.mailbox s n).ackSeq) →
    ∃ t, exec (.doorbellWrite n true v) s = .next t ∧
      t = { s with tel := t.tel, host := { s.host with mailboxes := t.host.mailboxes } } ∧ Claims.counted s t .doorbellIgnored 0 n 1 ∧
      State.mailbox t n = { State.mailbox s n with doorbell := BitVec.ofNat 64 (v.toNat % 2 ^ 16) } ∧ ∀ k, k ≠ n → State.mailbox t k = State.mailbox s k

/-- The checks of Table 16.6 pass for the REQUEST of mailbox `n` and doorbell value `v`. -/
def Claims.acceptable (s : State) (n v : Nat) (c : CommandRow) : Prop :=
  let q := (State.mailbox s n).request
  commandOf (q.extractLsb' 0 16).toNat = some c ∧ (4 ≤ n → c.cls = .r) ∧ (q.extractLsb' 32 12).toNat ≤ 1984 ∧ 8 * c.arguments ≤ (q.extractLsb' 32 12).toNat ∧
    (c.cls = .p → s.presence.jumper = true ∧ s.presence.jmpAt ≠ some s.timebase ∨ s.presence.windowOpen = true ∧ s.presence.winStart ≤ s.timebase ∧ s.timebase < s.presence.winEnd) ∧
    servedIn c.states (State.mode s) = true ∧ (q.extractLsb' 16 16).toNat = v

/-- An event has set the W1C field of this key in the tick that stands (R9, R530). -/
def Claims.setNow (s : State) (key : Nat) : Bool := decide (NMap.find s.tel.w1cSets key = some s.timebase)

/-- The events that a counter's selector has counted in the tick that stands (R542). -/
def Claims.tickEvents (s : State) (key : Nat) : Nat :=
  if s.tel.ticked.at_ = s.timebase then NMap.get s.tel.ticked.counts 0 key else 0

/-- R9, R10, R463, R472, R474, R476, R487, R492, R493, R530, R543, R549, R553 to R556: writes to registers, doorbells and SMBus transactions. -/
def Obligations.RegisterWrites : Prop :=
  (∀ (s : State) (n : Nat) (v : BitVec 64), n < 16 → State.windowServes s = true →
    (v.toNat < 2 ^ 44 → ∃ t, exec (.registerWrite (0x10000 + 0x1000 * n) true v) s = .next t ∧
      t = { s with host := { s.host with mailboxes := t.host.mailboxes } } ∧ State.mailbox t n = { State.mailbox s n with request := v } ∧
      ∀ k, k ≠ n → State.mailbox t k = State.mailbox s k) ∧
    (2 ^ 44 ≤ v.toNat → exec (.registerWrite (0x10000 + 0x1000 * n) true v) s = .fault .reservedWritten)) ∧
  (∀ (s : State) (n o : Nat) (v : BitVec 64), n < 16 → State.windowServes s = true → o % 8 = 0 → o < 0x7C0 → (State.mailbox s n).request.toNat < 2 ^ 44 →
    ∃ t, exec (.registerWrite (0x10000 + 0x1000 * n + 0x40 + o) true v) s = .next t ∧
      t = { s with host := { s.host with mailboxes := t.host.mailboxes } } ∧
      State.mailbox t n = { State.mailbox s n with args := (State.mailbox t n).args } ∧ (∀ k, k ≠ n → State.mailbox t k = State.mailbox s k) ∧
      ∀ i, NMap.get (State.mailbox t n).args 0 i = if o ≤ i ∧ i < o + 8 then v.extractLsb' (8 * (i - o)) 8 else NMap.get (State.mailbox s n).args 0 i) ∧
  (∀ (s : State) (o : Nat) (wide : Bool) (v : BitVec 64), (o < 0x10000 ∨ 0x20000 ≤ o) → exec (.registerWrite o wide v) s = .next s) ∧
  (∀ (s : State) (v : BitVec 64), State.windowServes s = true →
    (∃ t, exec (.w1cFlagWrite 0x180 true v) s = .next t ∧ t = { s with tel := { s.tel with errFlags := t.tel.errFlags } } ∧
      ∀ i, i < 12 → t.tel.errFlags.testBit i = (s.tel.errFlags.testBit i && (!v.getLsbD i || Claims.setNow s i))) ∧
    exec (.w1cFlagWrite 0x148 true v) s =
      .next { s with time := { s.time with 
        outOfTol := s.time.outOfTol && (!v.getLsbD 3 || Claims.setNow s outOfTolKey)
        stepped := s.time.stepped && (!v.getLsbD 2 || Claims.setNow s steppedKey) } } ∧
    ∀ r, r < 8 → ∃ t, exec (.w1cFlagWrite (0x100 + 8 * r) true v) s = .next t ∧ t = { s with power := { s.power with regions := t.power.regions } } ∧
      (∀ q, q ≠ r → State.regionPower t q = State.regionPower s q) ∧
      State.regionPower t r = (let x := State.regionPower s r; { x with pace := { x.pace with lowpace := x.pace.lowpace && (!v.getLsbD 2 || Claims.setNow s (lowpaceKey r)) } })) ∧
  (∀ (s : State) (n : Nat) (v : BitVec 64) (c : CommandRow), n < 16 → State.windowServes s = true → v.toNat < 2 ^ 16 → (State.mailbox s n).busy = false →
    v.toNat ≠ (State.mailbox s n).ackSeq →
    let m := State.mailbox s n
    ∃ t, exec (.doorbellWrite n true v) s = .next t ∧ t = { s with tel := t.tel, host := { s.host with mailboxes := t.host.mailboxes } } ∧
      (∀ k, k ≠ n → State.mailbox t k = State.mailbox s k) ∧
      (Claims.acceptable s n v.toNat c → t.tel = s.tel ∧ State.mailbox t n = { m with
        doorbell := v, ackStatus := 0, ackSeq := v.toNat, ackCode := c.code, ackTime := s.timebase, busy := true, done := false
        running := some { code := c.code, seq := v.toNat, argLen := (m.request.extractLsb' 32 12).toNat, args := m.args, stage := 0, values := [], waits := [], since := (s.timebase : Stamp) } }) ∧
      ((∀ d, ¬ Claims.acceptable s n v.toNat d) → Claims.counted s t .ackRefused 0 n 1 ∧ (State.mailbox t n).ackStatus ≠ 0 ∧ State.mailbox t n = { m with
        doorbell := v, ackStatus := (State.mailbox t n).ackStatus, ackSeq := v.toNat, ackCode := (m.request.extractLsb' 0 16).toNat, ackTime := s.timebase
        result := 0xFFFF, doneSeq := v.toNat, done := true })) ∧
  (∀ (s : State) (r : Nat) (tail : BitVec 32), r < 64 → (State.ring s r).status = .running → (State.ring s r).head < 2 ^ 32 →
    let x := State.ring s r
    ∃ t, exec (.launchRingTailWrite r tail) s = .next t ∧ t = { s with rings := t.rings } ∧ (∀ q, q ≠ r → State.ring t q = State.ring s q) ∧
      State.ring t r = (if (tail - BitVec.ofNat 32 x.head).toNat ≤ 2 ^ (x.sizeLog2 + 4) then { x with tail := tail.toNat }
        else { x with status := .stopped, error := 0x0A })) ∧
  (∀ s : State, s.phase ≠ .off →
    (∀ (p : BitVec 16), exec (.smbSetPointer p true) s = .next { s with host := { s.host with smbPointer := p.toNat % 0x1000 } }) ∧
    (∀ (p : BitVec 16), ∃ t, exec (.smbSetPointer p false) s = .next t ∧ t = { s with tel := t.tel } ∧ Claims.counted s t .smbPecFail 0 0 1) ∧
    exec .smbStatusRead s = .next { s with out := s.out ++ [.smbus (toBytes 8 s.host.status.toNat)] } ∧
    ((State.mailbox s 16).report = [] → exec .smbBlockRead s = .next { s with
      out := s.out ++ [.smbus (tabulate 32 (fun i =>
        let o := (s.host.smbPointer + i) % 0x1000
        BitVec.ofNat 8 (State.smbus s (o / 8 * 8) / 2 ^ (8 * (o % 8)))))]
      host := { s.host with smbPointer := (s.host.smbPointer + 32) % 0x1000 } })) ∧
  (∀ (s : State) (bytes : List Byte), s.phase ≠ .off → bytes ≠ [] → bytes.length ≤ 32 → (State.mailbox s 16).request.toNat < 2 ^ 44 →
    0x900 ≤ s.host.smbPointer → s.host.smbPointer + bytes.length ≤ 0xA00 →
    ∃ t, exec (.smbBlockWrite bytes true) s = .next t ∧
      t = { s with host := { s.host with mailboxes := t.host.mailboxes, smbPointer := s.host.smbPointer + bytes.length } } ∧
      (∀ k, k ≠ 16 → State.mailbox t k = State.mailbox s k) ∧ State.mailbox t 16 = { State.mailbox s 16 with args := (State.mailbox t 16).args } ∧
      ∀ i, NMap.get (State.mailbox t 16).args 0 i =
        if s.host.smbPointer ≤ 0x900 + i ∧ 0x900 + i < s.host.smbPointer + bytes.length then bytes.getD (0x900 + i - s.host.smbPointer) 0
        else NMap.get (State.mailbox s 16).args 0 i) ∧
  ∀ (s : State) (bytes : List Byte) (c : CommandRow), s.phase ≠ .off → s.host.smbPointer = 0x838 → bytes.length = 8 → ofBytes bytes < 2 ^ 16 →
    let m := State.mailbox s 16
    m.request.toNat < 2 ^ 44 → m.busy = false → ofBytes bytes ≠ m.ackSeq → commandOf (m.request.extractLsb' 0 16).toNat = some c → c.cls ≠ .p →
    (c.code ∈ [0x0000, 0x0001, 0x0100, 0x0802] ∨ c.code ∈ [0x0102, 0x0104, 0x0401, 0x0402, 0x0800, 0x0801, 0x0803] ∧ s.phase ≠ .aux) →
    8 * c.arguments ≤ (m.request.extractLsb' 32 12).toNat → (m.request.extractLsb' 32 12).toNat ≤ 256 → (m.request.extractLsb' 16 16).toNat = ofBytes bytes →
    ∃ t, exec (.oobDoorbellWrite bytes true) s = .next t ∧
      t = { s with host := { s.host with mailboxes := t.host.mailboxes, smbPointer := 0x840 } } ∧ (∀ k, k ≠ 16 → State.mailbox t k = State.mailbox s k) ∧
      State.mailbox t 16 = { m with
        doorbell := BitVec.ofNat 64 (ofBytes bytes), ackStatus := 0, ackSeq := ofBytes bytes, ackCode := c.code, ackTime := s.timebase, busy := true, done := false
        running := some { code := c.code, seq := ofBytes bytes, argLen := (m.request.extractLsb' 32 12).toNat, args := m.args, stage := 0, values := [], waits := [], since := (s.timebase : Stamp) } }

/-! ### Sutha commands -/

/-- The mailbox a Sutha command row names and the code it runs under (Table 16.8). -/
def Claims.suthaRow (i : Instr) : Option (Nat × Nat) :=
  match i with
  | .identityCmd mb _ => some (mb, 0x0000)
  | .capability mb _ => some (mb, 0x0001)
  | .cancel mb _ => some (mb, 0x0003)
  | .statusMirror mb _ => some (mb, 0x0010)
  | .powerStatus mb _ _ _ _ => some (mb, 0x0100)
  | .operatingPoint mb _ _ _ => some (mb, 0x0101)
  | .powerLimitSet mb _ => some (mb, 0x0102)
  | .regionPowerOff mb _ => some (mb, 0x0103)
  | .regionPowerOn mb _ => some (mb, 0x0103)
  | .moduleResetGraceful mb => some (mb, 0x0104)
  | .moduleResetForced mb => some (mb, 0x0104)
  | .windowMap mb _ => some (mb, 0x0200)
  | .windowUnmap mb _ => some (mb, 0x0201)
  | .windowQuery mb _ _ _ => some (mb, 0x0202)
  | .ownerSet mb _ _ _ => some (mb, 0x0203)
  | .memoryClear mb _ _ => some (mb, 0x0210)
  | .apertureSet mb _ => some (mb, 0x0211)
  | .interleaveSet mb _ => some (mb, 0x0220)
  | .unpin mb _ => some (mb, 0x0221)
  | .scrub mb _ _ _ _ _ => some (mb, 0x0222)
  | .memoryHealth mb _ => some (mb, 0x0223)
  | .ringCreate mb _ => some (mb, 0x0300)
  | .ringDestroy mb _ => some (mb, 0x0301)
  | .jobRelease mb _ => some (mb, 0x0302)
  | .jobStatus mb _ _ => some (mb, 0x0303)
  | .parkListRead mb _ _ _ => some (mb, 0x0310)
  | .parkStateRead mb _ _ _ _ => some (mb, 0x0311)
  | .parkStateWrite mb _ _ _ _ => some (mb, 0x0311)
  | .parkReplay mb _ _ => some (mb, 0x0312)
  | .parkDiscard mb _ _ => some (mb, 0x0313)
  | .fabricConfigure mb _ _ _ => some (mb, 0x0400)
  | .fabricStatus mb _ => some (mb, 0x0401)
  | .linkStatus mb _ _ _ _ => some (mb, 0x0402)
  | .linkRetrain mb _ _ => some (mb, 0x0403)
  | .linkDisable mb _ _ => some (mb, 0x0403)
  | .linkEnable mb _ _ => some (mb, 0x0403)
  | .collectiveSetup mb _ _ => some (mb, 0x0500)
  | .collectiveRelease mb _ => some (mb, 0x0501)
  | .collectiveStatus mb _ _ => some (mb, 0x0502)
  | .ringWatchdog mb _ _ _ => some (mb, 0x0503)
  | .checkpoint mb _ _ => some (mb, 0x0600)
  | .selfTest mb _ _ => some (mb, 0x0700)
  | .recipeSet mb _ _ => some (mb, 0x0701)
  | .tastingRun mb _ _ => some (mb, 0x0702)
  | .scaleConfigure mb _ _ _ => some (mb, 0x0703)
  | .scaleRead mb _ _ _ => some (mb, 0x0704)
  | .sieveRead mb _ _ => some (mb, 0x0705)
  | .counterRead mb _ _ => some (mb, 0x0800)
  | .counterClear mb _ _ _ _ _ => some (mb, 0x0801)
  | .alarmRead mb _ _ _ => some (mb, 0x0802)
  | .logRetrieve mb _ _ _ => some (mb, 0x0803)
  | .traceConfigure mb _ _ _ _ => some (mb, 0x0804)
  | .firmwareUpdate mb _ _ _ => some (mb, 0x0F00)
  | .debugUnlock mb => some (mb, 0x0F01)
  | .debugLock mb => some (mb, 0x0F01)
  | .fuseProgram mb _ _ => some (mb, 0x0F02)
  | .sealRearm mb => some (mb, 0x0F03)
  | .scrubOverride mb _ _ _ _ => some (mb, 0x0F04)
  | .benchProgramme mb _ => some (mb, 0x0F10)
  | .benchCancel mb _ => some (mb, 0x0F11)
  | .laneRestore mb _ _ _ => some (mb, 0x0F12)
  | _ => none

/-- The rows whose arguments or data Baker reads from host memory (R473). -/
def Claims.readsHost (i : Instr) : Bool :=
  match i with
  | .windowMap _ _ => true
  | .ringCreate _ _ => true
  | .parkStateWrite _ _ _ _ _ => true
  | .collectiveSetup _ _ _ => true
  | .firmwareUpdate _ _ _ _ => true
  | .benchProgramme _ _ => true
  | _ => false

/-- It is the turn of a command of mailbox `mb` (R478): no other mailbox, acknowledged before it (by ACK_TIME, then by number), has a command that may
act on the same object and has not begun. Which may is log entry 104. -/
def Claims.turn (s : State) (mb code : Nat) : Prop :=
  commandFamily code = 0 ∨ ∀ m k, m < 17 → m ≠ mb → (State.mailbox s m).running = some k → k.stage = 0 → commandFamily k.code = commandFamily code →
    (State.mailbox s mb).ackTime < (State.mailbox s m).ackTime ∨ ((State.mailbox s mb).ackTime = (State.mailbox s m).ackTime ∧ mb < m)

/-- Mailbox `mb` runs a command of this code, which has begun or whose turn it is (R478). -/
def Claims.runs (s : State) (mb code : Nat) : Prop :=
  ∃ k, (State.mailbox s mb).running = some k ∧ k.code = code ∧ (k.stage = 0 → Claims.turn s mb code)

/-- A unit of a long operation is done and another follows (R477): the command goes on, keeping `values`, with PROGRESS, and where RES holds results
so far (log entry 100), those; nothing else of the module changes. -/
def Claims.goesOn (u t : State) (mb progress : Nat) (values : List Nat) (res : Option (List Nat)) : Prop :=
  t = { u with host := { u.host with mailboxes := t.host.mailboxes }, freeCount := u.freeCount + (if res = none then 0 else 1) } ∧
    (∀ n, n ≠ mb → State.mailbox t n = State.mailbox u n) ∧
    State.mailbox t mb = { State.mailbox u mb with
      running := (State.mailbox u mb).running.map (fun k => { k with stage := k.stage + 1, values := values }), progress := progress
      report := res.getD (State.mailbox u mb).report, resLen := (State.mailbox t mb).resLen } ∧
    (res = none → (State.mailbox t mb).resLen = (State.mailbox u mb).resLen) ∧ (res ≠ none → (State.mailbox t mb).resLen ≤ (if mb = 16 then 256 else 2048))

/-- From `u` to `t` the command of mailbox `mb` completes (R474, step 5, Table 16.5): RESULT, RES_LEN, DONE_SEQ, DONE_TIME, RES, BUSY and DONE are
written, REQUEST, ARGS, the acknowledgement and the doorbell are as they were, and nothing else of the module changes. -/
def Claims.ends (u t : State) (mb result : Nat) (res : List Byte) (progress : Nat := 0) : Prop :=
  t = { u with host := { u.host with mailboxes := t.host.mailboxes } } ∧ (∀ k, k ≠ mb → State.mailbox t k = State.mailbox u k) ∧
    (let m := State.mailbox u mb
     State.mailbox t mb = { m with
       result := result, resLen := res.length, doneSeq := m.ackSeq, progress := progress, doneTime := u.timebase, res := (State.mailbox t mb).res,
       report := [], busy := false, done := true, running := none }) ∧
    ∀ i, NMap.get (State.mailbox t mb).res 0 i = res.getD i 0

/-- Command `mb` ends with a RESULT that the spec does not name: a free value. -/
def Claims.endsOpen (s t : State) (mb : Nat) : Prop := ∃ result, Claims.ends { s with freeCount := s.freeCount + 1 } t mb result []

/-- The same with values of which the spec gives no layout in RES: their number of bytes is a free value within the area (log entry 31). -/
def Claims.reports (u t : State) (mb result : Nat) (values : List Nat) (progress : Nat := 0) : Prop :=
  t = { u with host := { u.host with mailboxes := t.host.mailboxes }, freeCount := u.freeCount + 1 } ∧
    (∀ k, k ≠ mb → State.mailbox t k = State.mailbox u k) ∧
    (let m := State.mailbox u mb
     State.mailbox t mb = { m with
       result := result, resLen := (State.mailbox t mb).resLen, doneSeq := m.ackSeq, progress := progress, doneTime := u.timebase,
       res := [], report := values, busy := false, done := true, running := none }) ∧
    (State.mailbox t mb).resLen ≤ (if mb = 16 then 256 else 2048)

/-- Results with a host address (R473), or over SMBus with a result offset (R493); without Bus Master Enable RESULT is 0xFFFB. -/
def Claims.delivers (u t : State) (mb dst : Nat) (bytes : List Byte) : Prop :=
  if mb = 16 then Claims.ends u t mb 0 ((bytes.drop dst).take 240)
  else if u.host.busMaster then Claims.ends { u with out := u.out ++ [.hostWrite dst bytes] } t mb 0 []
  else Claims.ends u t mb 0xFFFB []

/-- The same for values of which the spec gives no layout. -/
def Claims.deliversValues (u t : State) (mb dst : Nat) (values : List Nat) : Prop :=
  if mb = 16 then Claims.reports u t mb 0 values
  else if u.host.busMaster then Claims.ends { u with out := u.out ++ [.hostReport dst values] } t mb 0 []
  else Claims.ends u t mb 0xFFFB []

/-- A step of a long read (R477): `bytes` of records, `before` of which others came before, go to host memory; the last step completes the command with
`total` records in PROGRESS. Over SMBus one step delivers all; without Bus Master Enable the command ends with 0xFFFB (R464). -/
def Claims.deliversUnit (u t : State) (mb dst before total : Nat) (bytes : List Byte) (values : List Nat) (last : Bool) : Prop :=
  if mb = 16 ∧ last then Claims.ends u t mb 0 ((bytes.drop dst).take 240) (total % 2 ^ 16)
  else if u.host.busMaster = false then Claims.ends u t mb 0xFFFB [] (before % 2 ^ 16)
  else if last then Claims.ends { u with out := u.out ++ [.hostWrite dst bytes] } t mb 0 [] (total % 2 ^ 16)
  else Claims.goesOn { u with out := u.out ++ [.hostWrite dst bytes] } t mb (total % 2 ^ 16) values none

/-- A row of a Sutha command changes nothing while its mailbox does not run its code (the model's choice, log entry 32) or another's turn is before it
(R478, log entry 104); a command that must read host memory completes with 0xFFFB while DMA is off (R464, R473). -/
def Obligations.SuthaRowsNeedTheirCode : Prop :=
  (∀ (i : Instr) (s : State) (mb code : Nat), Claims.suthaRow i = some (mb, code) → ¬ Claims.runs s mb code → exec i s = .next s) ∧
  ∀ (i : Instr) (s : State) (mb code : Nat), Claims.suthaRow i = some (mb, code) → Claims.readsHost i = true →
    (∃ k, (State.mailbox s mb).running = some k ∧ k.code = code ∧ k.stage ≠ 1 ∧ (k.stage = 0 → Claims.turn s mb code)) → mb ≠ 16 → s.host.busMaster = false →
    ∃ t, exec i s = .next t ∧ Claims.ends s t mb 0xFFFB []

/-- A read command: the row, its mailbox, destination and code, and the bytes it returns. -/
structure Claims.ByteRead where
  row : Instr
  mb : Nat
  dst : Nat
  code : Nat
  bytes : List Byte

/-- The read commands that return records of a given layout: windows (Table 13.2), scale slots (Table 10.3) and counters (R542). -/
def Claims.byteReads (s : State) (mb dst first count : Nat) (keys : List (BitVec 32)) : List Claims.ByteRead :=
  [⟨.windowQuery mb first count dst, mb, dst, 0x0202, (List.range count).flatMap (fun i =>
      toBytes 16 (((Fabric.slotOf s.fabric (first + i) none).bind (NMap.find s.fabric.table)).elim 0 (fun w => w.toNat)))⟩,
   ⟨.scaleRead mb first count dst, mb, dst, 0x0704, (List.range (min count (4096 - first))).flatMap (fun i => toBytes 128 (State.scaleImage s (first + i)))⟩,
   ⟨.counterRead mb keys dst, mb, dst, 0x0800, keys.flatMap (fun k =>
      let v := NMap.get s.tel.counters 0 k.toNat
      toBytes 32 (s.timebase * 2 ^ 192 + v * 2 ^ 128 + k.toNat * 2 ^ 96 + counterWidth (k.toNat / 2 ^ 24) * 2 ^ 88
        + (if v = 2 ^ counterWidth (k.toNat / 2 ^ 24) - 1 then 2 ^ 87 else 0)))⟩]

/-- A read command whose values have no layout in the spec. -/
structure Claims.ValueRead where
  row : Instr
  mb : Nat
  dst : Nat
  code : Nat
  values : List Nat

/-- Those commands and the values they report: power status, memory health, job status, fabric status, collective status and Sieve. -/
def Claims.valueReads (s : State) (mb dst n mV mA watts : Nat) (tag : BitVec 16) : List Claims.ValueRead :=
  let count (c : Counter) (p i : Nat) : Nat := NMap.get s.tel.counters 0 (counterKey c p i)
  let groups := s.cells.flatMap (fun e => (e.2.groups.filter (fun g => decide (g.2.job = tag))).map (·.2))
  let parks := s.cells.flatMap (fun e => (e.2.parkList.filter (fun p => decide (p.2.job = tag))).map (·.2.state))
  [⟨.powerStatus mb dst mV mA watts, mb, dst, 0x0100, [mV, mA, watts] ++ (List.range 8).flatMap (fun r =>
      let x := State.regionPower s r
      [x.volt, x.pace.pace, x.pace.temp.toNat, if x.on ∧ x.volt < x.vreq then 1 else 0]) ++ [State.limit s]⟩,
   ⟨.memoryHealth mb dst, mb, dst, 0x0223, (List.range 512).flatMap (fun ch =>
      [count .memCe 0 ch, count .memUe 0 ch, count .memPoisonRead 0 ch] ++
        tabulate 32 (fun b => 16 - (NMap.get s.banks default (bankKey ch b)).spared.length)) ++ s.nv.retiredPages⟩,
   ⟨.jobStatus mb tag dst, mb, dst, 0x0303,
      (s.rings.filter (fun e => decide (e.2.status ≠ .free ∧ e.2.tag = tag))).flatMap (fun e => [e.1, e.2.head, e.2.tail, State.ringState s e.2, e.2.error])
        ++ [(groups.filter (fun g => !g.deferred)).length, (groups.filter (fun g => g.deferred)).length]
        ++ [ParkState.parked, .resolving, .held, .replay, .discard].map (fun p => (parks.filter (fun x => decide (x = p))).length)
        ++ [((State.job s tag).epoch.getD 0).toNat, if (State.job s tag).recipe then 1 else 0]⟩,
   ⟨.fabricStatus mb dst, mb, dst, 0x0401, (List.range 40).flatMap (fun p =>
      [State.portClass s p, (State.port s p).partner.elim 0 (fun x => x.module), PortState.code (State.port s p).state])
        ++ s.fabric.failed.flatMap (fun e => [e.1, e.2]) ++ [s.time.master, s.time.parent.getD s.moduleNumber]⟩,
   ⟨.collectiveStatus mb n dst, mb, dst, 0x0502, match State.coll s n with
      | none => []
      | some q => [q.tag.toNat, CollGroup.p q, q.pos, q.anchor, q.stage, q.bufs] ++ q.members ++ [q.queue.length + (if q.run.isSome then 1 else 0)]
        ++ q.members.filter (fun m => (NMap.find s.fabric.failed m).isSome) ++ [((State.job s q.tag).epoch.getD 0).toNat]⟩,
   ⟨.sieveRead mb n dst, mb, dst, 0x0705,
      let k := ScaleTable.slot s.scale n
      tabulate 64 (fun i => NMap.get k.area.bins 0 i) ++ [k.area.zero, k.area.inf, k.area.nan, k.area.sat, if k.area.expMax.isSome then 1 else 0,
        unsgn 64 (k.area.expMax.getD 0), (k.done.getD 0).toNat]⟩]

/-- The park records of a job, as 64 × cell + slot, the HELD ones first (0x0310). -/
def Claims.parkKeys (s : State) (tag : BitVec 16) : List Nat :=
  let parked := s.cells.flatMap (fun e => (e.2.parkList.filter (fun p => decide (p.2.job = tag))).map (fun p => (64 * e.1 + p.1, p.2.state)))
  (parked.filter (fun p => decide (p.2 = .held)) ++ parked.filter (fun p => decide (p.2 ≠ .held))).map (·.1)

/-- Tables 10.8, 12.6, 13.8, 14.8, 15.9 and 16.11, R477: what the read commands return; they change nothing but their mailbox. -/
def Obligations.SuthaReads : Prop :=
  (∀ (s : State) (mb dst first count : Nat) (keys : List (BitVec 32)), ∀ r ∈ Claims.byteReads s mb dst first count keys,
    Claims.runs s r.mb r.code → ∃ t, exec r.row s = .next t ∧ Claims.delivers s t r.mb r.dst r.bytes) ∧
  (∀ (s : State) (mb dst n mV mA watts : Nat) (tag : BitVec 16), ∀ r ∈ Claims.valueReads s mb dst n mV mA watts tag,
    Claims.runs s r.mb r.code → ∃ t, exec r.row s = .next t ∧ Claims.deliversValues s t r.mb r.dst r.values) ∧
  (∀ (s : State) (mb dst : Nat), ∀ r ∈ ([(.identityCmd mb dst, 0x0000, 0), (.capability mb dst, 0x0001, 0x400)] : List (Instr × Nat × Nat)), Claims.runs s mb r.2.1 →
    ∃ t, exec r.1 s = .next t ∧
      let page := (List.range 128).flatMap (fun i => toBytes 8 (State.identityPage s (r.2.2 + 8 * i)))
      Claims.ends s t mb 0 (if mb = 16 then (page.drop dst).take 240 else page)) ∧
  (∀ (s : State) (mb region port dst : Nat) (readings : List (BitVec 64)), Claims.runs s mb 0x0402 → region < 8 → port < 5 →
    let p := 5 * region + port
    let x := State.port s p
    ∃ t, exec (.linkStatus mb region port dst readings) s = .next t ∧ Claims.deliversValues s t mb dst
      ([PortState.code x.state, x.rxMap.length, x.txMap.length] ++ x.rxMap ++ x.txMap ++ [x.partner.elim 0 (fun q => q.roundTrip), unsgn 64 x.dbmA, unsgn 64 x.dbmB]
        ++ readings.map BitVec.toNat ++ (List.range (portLanes p)).map (fun l =>
          (if (Port.lane x l).failed then 1 else 0) + (if laneInstance p l ∈ s.nv.retiredLanes then 2 else 0)))) ∧
  (∀ (s : State) (mb dst : Nat) (g : GroupLoc) (stamp : BitVec 64) (selector : Nat) (p : ParkRecord) (grp : Group), Claims.runs s mb 0x0311 →
    NMap.find (State.cell s g.cell).parkList g.slot = some p → p.state = .held → BitVec.ofNat 64 p.stamp = stamp → State.group s g = some grp →
    ∃ t, exec (.parkStateRead mb g stamp selector dst) s = .next t ∧
      if selector < grp.regs ∧ selector < 0x100 then
        Claims.delivers s t mb dst ((List.range 32).flatMap (fun l => toBytes 4 (Group.lane grp selector l)))
      else if 0x100 ≤ selector ∧ selector < 0x140 then Claims.delivers s t mb dst (toBytes 4 (Group.uni grp (selector - 0x100)))
      else if selector = 0x140 then Claims.deliversValues s t mb dst (tabulate 8 (fun n => Group.pred grp n))
      else if selector = 0x141 then Claims.delivers s t mb dst (toBytes 4 p.pc.toNat)
      else if selector = 0x142 then ∃ rest, Claims.deliversValues s t mb dst (p.mask.toNat :: rest) ∧ rest.length = 3 * grp.stack.length + grp.spilled
      else Claims.ends s t mb 3 []) ∧
  (∀ (s : State) (mb dst limit : Nat) (tag : BitVec 16) (k : Running), (State.mailbox s mb).running = some k → Claims.runs s mb 0x0310 →
    let keys := if k.stage = 0 then (Claims.parkKeys s tag).take (min limit 24576) else k.values
    let before := if mb = 16 then 0 else 1024 * k.stage
    let part := if mb = 16 then keys else (keys.drop before).take 1024
    ∃ t, exec (.parkListRead mb tag dst limit) s = .next t ∧
      Claims.deliversUnit s t mb (dst + 72 * before) before (before + part.length) (part.flatMap (fun i =>
        let c := i / 64
        match NMap.find (State.cell s c).parkList (i % 64) with
        | some p => toBytes 8 (c / 48 * 2 ^ 16 + c / 6 % 8 * 2 ^ 8 + c % 6) ++ ParkRecord.bytes p
        | none => [])) keys (decide (mb = 16 ∨ keys.length ≤ 1024 * (k.stage + 1)))) ∧
  ∀ (s : State) (mb first count dst : Nat) (k : Running), (State.mailbox s mb).running = some k → Claims.runs s mb 0x0803 → 1 ≤ first →
    first + count ≤ s.tel.logNext → k.values.getD 0 0 = 0 → (∀ i, i < count → ∃ r, State.logAt s (first + i) = some r) →
    let before := k.values.getD 1 0
    let a := first + 1024 * k.stage
    let left := first + count - a
    let n := if mb = 16 then left else min 1024 left
    ∃ t, exec (.logRetrieve mb first count dst) s = .next t ∧
      Claims.deliversUnit s t mb (if mb = 16 then dst else dst + 64 * before) before (before + n)
        ((List.range n).flatMap (fun i => toBytes 64 (LogRecord.image ((State.logAt s (a + i)).getD default) (a + i)))) [0, before + n] (decide (left ≤ n))

/-! ### Sutha commands on windows and memory -/

/-- Every byte key picked reads as zero without poison; every other byte and mark of stacked memory is as it was. -/
def Claims.zeroed (s t : State) (p : Nat → Prop) : Prop :=
  (∀ k, p k → NMap.get t.mem 0 k = 0) ∧ (∀ k, ¬ p k → NMap.get t.mem 0 k = NMap.get s.mem 0 k) ∧
    (∀ k, p (k * 32) → NMap.get t.memPoison false k = false) ∧ ∀ k, ¬ p (k * 32) → NMap.get t.memPoison false k = NMap.get s.memPoison false k

/-- No line-miss slot and no copy slot of the module is outstanding (R370, step 4). -/
def Claims.quiet (s : State) : Prop := ∀ e ∈ s.cells, e.2.misses = [] ∧ e.2.copies = []

/-- The regions are as they were: their window caches, by set, and everything else. -/
def Claims.sameRegions (s t : State) : Prop :=
  (∀ r, State.region t r = { State.region s r with windowCache := (State.region t r).windowCache }) ∧
    ∀ r k, NMap.get (State.region t r).windowCache [] k = NMap.get (State.region s r).windowCache [] k

/-- The lines pinned with a tag have become long reuse (R349). -/
def Claims.unpinned (tag : BitVec 16) (m : NMap (List CacheLine)) : NMap (List CacheLine) :=
  m.map (fun l => (l.1, l.2.map (fun x => if x.cls = 3 ∧ x.tag = tag then { x with cls := 2, tag := 0 } else x)))

/-- R335, R349, R364 to R366, R370, R372 and Tables 12.6, 13.8 and 16.11: what the commands on windows and memory do. -/
def Obligations.SuthaMemoryCommands : Prop :=
  (∀ (s : State) (mb : Nat) (k : Running) (w : BitVec 128) (slot : Nat), (State.mailbox s mb).running = some k → k.code = 0x0200 → k.stage ≠ 1 → (k.stage = 0 → Claims.turn s mb 0x0200) →
    (mb = 16 ∨ s.host.busMaster = true) → State.keyed s = true →
    let e := windowEntry w
    WindowEntry.bad e = false → WindowEntry.reservedArea e = false → Fabric.slotOf s.fabric e.vpn none = none →
    (windowSlots e.vpn).find? (fun k => (NMap.find s.fabric.table k).isNone) = some slot →
    ∃ t, exec (.windowMap mb [w]) s = .next t ∧
      Claims.reports { s with cells := t.cells, regions := t.regions, fabric := { s.fabric with table := t.fabric.table } } t mb 0 [0] ∧
      (∀ c, State.cell t c = State.cell s c) ∧ Claims.sameRegions s t ∧
      NMap.find t.fabric.table slot = some w ∧ (∀ k, k ≠ slot → NMap.find t.fabric.table k = NMap.find s.fabric.table k) ∧
      Fabric.slotOf t.fabric e.vpn none = some slot) ∧
  (∀ (s : State) (mb : Nat) (k : Running) (ws : List (BitVec 128)), (State.mailbox s mb).running = some k → k.code = 0x0200 → k.stage ≠ 1 → (k.stage = 0 → Claims.turn s mb 0x0200) →
    (mb = 16 ∨ s.host.busMaster = true) → State.keyed s = true → (∀ w ∈ ws, WindowEntry.bad (windowEntry w) = true) →
    ∃ t, exec (.windowMap mb ws) s = .next t ∧
      Claims.reports { s with cells := t.cells, regions := t.regions } t mb 0 (ws.map (fun _ => 2)) ∧
      (∀ c, State.cell t c = State.cell s c) ∧ Claims.sameRegions s t) ∧
  (∀ (s : State) (mb : Nat) (k : Running) (sel : UnmapSel), (State.mailbox s mb).running = some k → k.code = 0x0201 → k.stage ≠ 1 → (k.stage = 0 → Claims.turn s mb 0x0201) →
    Claims.quiet s → State.keyed s = true →
    let picked (w : BitVec 128) : Prop := match sel with
      | .job t => w.extractLsb' 80 16 = t
      | .pages first n => first ≤ (w.extractLsb' 96 32).toNat ∧ (w.extractLsb' 96 32).toNat < first + n
    ∃ t gone, exec (.windowUnmap mb sel) s = .next t ∧
      Claims.reports { s with cells := t.cells, regions := t.regions, fabric := { s.fabric with table := t.fabric.table, queries := t.fabric.queries } } t mb 0 [gone] ∧
      (∃ f : WindowQuery → Bool, t.fabric.queries = s.fabric.queries.map (fun q => { q with stale := f q }) ∧
        ∀ q, f q = true ↔ q.stale = true ∨ ∃ e ∈ s.fabric.table, picked e.2 ∧
          (q.vpn = (e.2.extractLsb' 96 32).toNat ∨ q.via = (e.2.extractLsb' 96 32).toNat)) ∧
      t.fabric.table.length + gone = s.fabric.table.length ∧ (∀ e, e ∈ t.fabric.table ↔ e ∈ s.fabric.table ∧ ¬ picked e.2) ∧
      (∀ c tr, tr ∈ (State.cell t c).lookaside ↔ tr ∈ (State.cell s c).lookaside ∧
        ∀ e ∈ s.fabric.table, picked e.2 → tr.vpn ≠ (e.2.extractLsb' 96 32).toNat ∧ tr.via ≠ some (e.2.extractLsb' 96 32).toNat) ∧
      (∀ c, State.cell t c = { State.cell s c with lookaside := (State.cell t c).lookaside }) ∧
      (∀ r, State.region t r = { State.region s r with windowCache := (State.region t r).windowCache }) ∧
      ∀ r k tr, tr ∈ NMap.get (State.region t r).windowCache [] k ↔ tr ∈ NMap.get (State.region s r).windowCache [] k ∧
        ∀ e ∈ s.fabric.table, picked e.2 → tr.vpn ≠ (e.2.extractLsb' 96 32).toNat ∧ tr.via ≠ some (e.2.extractLsb' 96 32).toNat) ∧
  (∀ (s : State) (mb pa pages : Nat) (tag : BitVec 16), Claims.runs s mb 0x0203 → State.populatedPages s pa pages = true →
    ∃ t, exec (.ownerSet mb pa pages tag) s = .next t ∧ Claims.ends { s with fabric := { s.fabric with owners := t.fabric.owners } } t mb 0 [] ∧
      ∀ n, NMap.get t.fabric.owners 0 n = if pa / 2 ^ 21 ≤ n ∧ n < pa / 2 ^ 21 + pages then tag else NMap.get s.fabric.owners 0 n) ∧
  (∀ (s : State) (mb pa pages : Nat) (k : Running), (State.mailbox s mb).running = some k → Claims.runs s mb 0x0210 → State.populatedPages s pa pages = true →
    let first := pa / 2 ^ 21 + 512 * k.stage
    let n := min 512 (pages - 512 * k.stage)
    ∃ t, exec (.memoryClear mb pa pages) s = .next t ∧
      (let u : State := { s with mem := t.mem, codeWrites := t.codeWrites, memPoison := t.memPoison, regions := t.regions }
       if pages ≤ 512 * (k.stage + 1) then Claims.ends u t mb 0 [] (pages / 512 % 2 ^ 16)
       else Claims.goesOn u t mb ((k.stage + 1) % 2 ^ 16) [] (some [k.stage + 1])) ∧
      (∀ r, State.region t r = { State.region s r with cache := (State.region t r).cache }) ∧
      Claims.zeroed s t (fun k => let a := physicalOf (State.ilv s) (k / 2 ^ 39) (k % 2 ^ 39)
        first ≤ a / 2 ^ 21 ∧ a / 2 ^ 21 < first + n) ∧
      ∀ p, NMap.get t.codeWrites 0 p =
        (if s.moduleNumber * 2 ^ 22 + first ≤ p ∧ p < s.moduleNumber * 2 ^ 22 + first + n then s.nextId else NMap.get s.codeWrites 0 p)) ∧
  (∀ (s : State) (mb pa pages : Nat) (tag : BitVec 16), State.populatedPages s pa pages = false →
    (Claims.runs s mb 0x0203 → ∃ t, exec (.ownerSet mb pa pages tag) s = .next t ∧ Claims.ends s t mb 1 []) ∧
    (Claims.runs s mb 0x0210 → ∃ t, exec (.memoryClear mb pa pages) s = .next t ∧ Claims.ends s t mb 1 [])) ∧
  (∀ (s : State) (mb a : Nat), Claims.runs s mb 0x0211 → a < 2 ^ 64 →
    ∃ t, exec (.apertureSet mb a) s = .next t ∧
      if a % 2 ^ s.host.winLog2 = 0 then Claims.ends { s with host := { s.host with aperture := a } } t mb 0 [] else Claims.ends s t mb 1 []) ∧
  (∀ (s : State) (mb gib : Nat), Claims.runs s mb 0x0220 →
    let maps := s.fabric.table.any (fun e => WindowEntry.blocksChange (windowEntry e.2) s.moduleNumber s.nv.ilvGib gib)
    ∃ t, exec (.interleaveSet mb gib) s = .next t ∧
      if 96 < gib then Claims.ends s t mb 2 [] else if maps = true then Claims.ends s t mb 1 []
      else Claims.ends { s with
          mem := t.mem, memPoison := t.memPoison, codeWrites := t.codeWrites, regions := t.regions, nv := { s.nv with ilvGib := gib } } t mb 0 [] ∧
        (∀ r, State.region t r = { State.region s r with cache := (State.region t r).cache }) ∧
        (∀ n, NMap.get t.codeWrites 0 n = if n ∈ (poolPages (max s.nv.ilvGib gib * 2 ^ 30)).map (fun p => s.moduleNumber * 2 ^ 22 + p) then s.nextId
          else NMap.get s.codeWrites 0 n) ∧
        Claims.zeroed s t (fun k => 0x3000000000 - max s.nv.ilvGib gib * 2 ^ 30 ≤ k % 2 ^ 39)) ∧
  (∀ (s : State) (mb : Nat) (tag : BitVec 16), Claims.runs s mb 0x0221 →
    ∃ t counts, exec (.unpin mb (.job tag)) s = .next t ∧
      Claims.reports { s with cells := t.cells, blocks := t.blocks, regions := t.regions } t mb 0 counts ∧ counts.length = 3 ∧
      (∀ c, State.cell t c = { State.cell s c with l1 := Claims.unpinned tag (State.cell s c).l1 }) ∧
      (∀ b, State.block t b = { State.block s b with cache := Claims.unpinned tag (State.block s b).cache }) ∧
      ∀ r, State.region t r = { State.region s r with cache := (State.region s r).cache.map (fun l =>
        (l.1, l.2.map (fun x => if x.cls = 3 ∧ x.tag = tag then { x with cls := 2, tag := 0 } else x))) }) ∧
  (∀ (s : State) (mb gib pa hours : Nat) (mask : BitVec 8) (k : Running) (unit : ScrubUnit), (State.mailbox s mb).running = some k → Claims.runs s mb 0x0222 →
    scrubUnit mask pa gib k.stage = some unit →
    let u : State := if k.stage = 0 ∧ 1 ≤ hours ∧ hours ≤ 168 then { s with host := { s.host with scrubHours := hours } } else s
    let sectors := k.values.getD 0 0 + ((List.range 8).map (State.scrubbed s mask unit)).foldl (· + ·) 0
    let sums := [sectors, k.values.getD 1 0, k.values.getD 2 0]
    let report := [sectors / 2 ^ 25, k.values.getD 1 0, k.values.getD 2 0]
    ∃ t, exec (.scrub mb mask pa gib hours []) s = .next t ∧
      if scrubUnit mask pa gib (k.stage + 1) = none then Claims.reports { u with tel := t.tel } t mb 0 report (sectors / 2 ^ 25 % 2 ^ 16)
      else Claims.goesOn { u with tel := t.tel } t mb (sectors / 2 ^ 25 % 2 ^ 16) sums (some report)) ∧
  ∀ (s : State) (mb pa gib action : Nat) (mask : BitVec 8) (k : Running), (State.mailbox s mb).running = some k → Claims.runs s mb 0x0F04 → State.wf s = true →
    let busy := (List.range 8).any (fun r => mask.getLsbD r && s.cells.any (fun e => decide (e.1 / 48 = r) && !e.2.groups.isEmpty))
    ∃ t, exec (.scrubOverride mb mask pa gib action) s = .next t ∧
      if k.stage = 0 ∧ busy = true then Claims.ends s t mb 1 []
      else match scrubUnit mask pa gib k.stage with
        | none => Claims.ends s t mb 0 []
        | some unit =>
          let covers (k : Nat) : Prop := mask.getLsbD (k / 2 ^ 39) = true ∧ ScrubUnit.has unit (State.ilv s) (k / 2 ^ 39) (k % 2 ^ 39) = true
          (let u : State := { s with mem := t.mem, codeWrites := t.codeWrites, memPoison := t.memPoison, tel := t.tel, regions := t.regions }
           if scrubUnit mask pa gib (k.stage + 1) = none then Claims.ends u t mb 0 [] ((k.stage + 1) % 2 ^ 16)
           else Claims.goesOn u t mb ((k.stage + 1) % 2 ^ 16) [] (some [k.stage + 1])) ∧
          (action = 0 → t.mem = s.mem ∧ t.memPoison = s.memPoison) ∧
          (action ≠ 0 → ∀ k, NMap.get t.memPoison false k = true ↔ NMap.get s.memPoison false k = true ∧ ¬ covers (k * 32)) ∧
          (∀ k, NMap.get s.memPoison false (k / 32) = false → NMap.get t.mem 0 k = NMap.get s.mem 0 k) ∧
          ∀ r, State.region t r = { State.region s r with cache := (State.region t r).cache }

/-! ### Sutha commands on rings, jobs, park records, collective groups and checkpoints -/

/-- Only the group at `g` differs between two states with the same other cells, groups and records. -/
def Claims.onlyParked (s t : State) (g : GroupLoc) : Prop :=
  (∀ c, c ≠ g.cell → State.cell t c = State.cell s c) ∧
    State.cell t g.cell = { State.cell s g.cell with groups := (State.cell t g.cell).groups, parkList := (State.cell t g.cell).parkList } ∧
    ∀ k, k ≠ g.slot → Cell.group (State.cell t g.cell) k = Cell.group (State.cell s g.cell) k ∧
      NMap.find (State.cell t g.cell).parkList k = NMap.find (State.cell s g.cell).parkList k

/-- R93, R162, R309, R349, R399, R418, R419, R423, R486 and Tables 14.7, 14.8 and 16.11. -/
def Obligations.SuthaJobCommands : Prop :=
  (∀ (s : State) (mb : Nat) (a : RingArgs), Claims.runs s mb 0x0300 → (mb = 16 ∨ s.host.busMaster = true) → a.ring < 64 →
    (State.ring s a.ring).status = .free → a.tag ≠ 0 → a.sizeLog2 ≤ 12 → a.deferLimit ≤ 15 → a.spillBytes = 0 ∨ a.spillBytes = 65536 → a.cells ≠ 0 →
    State.ringClash s a = false → State.baseUsable s a = true →
    ∃ t, exec (.ringCreate mb a) s = .next t ∧ Claims.ends { s with rings := t.rings, jobs := t.jobs, cells := t.cells } t mb 0 [] ∧
      State.ring t a.ring = { Ring.reset with
        status := .running, tag := a.tag, base := a.base, sizeLog2 := a.sizeLog2, cells := a.cells, deferLimit := a.deferLimit, spill := decide (a.spillBytes = 65536) } ∧
      (∀ r, r ≠ a.ring → State.ring t r = State.ring s r) ∧
      State.job t a.tag = { State.job s a.tag with epoch := some ((State.job s a.tag).epoch.getD a.epoch0) } ∧
      (∀ u, u ≠ a.tag → State.job t u = State.job s u) ∧
      ∀ c, State.cell t c = if c < 384 ∧ a.cells.getLsbD c = true then
        { State.cell s c with deferLimit := a.deferLimit, reservation := decide (a.spillBytes = 65536) } else State.cell s c) ∧
  (∀ (s : State) (mb : Nat) (a : RingArgs), Claims.runs s mb 0x0300 → (mb = 16 ∨ s.host.busMaster = true) → a.ring < 64 →
    (State.ring s a.ring).status ≠ .free → ∃ t, exec (.ringCreate mb a) s = .next t ∧ Claims.ends s t mb 1 []) ∧
  (∀ (s : State) (mb ring : Nat), Claims.runs s mb 0x0301 →
    ∃ t, exec (.ringDestroy mb ring) s = .next t ∧ Claims.ends { s with rings := t.rings } t mb 0 [] ∧
      ∀ r, State.ring t r = if r = ring then Ring.reset else State.ring s r) ∧
  (∀ (s : State) (mb : Nat) (tag : BitVec 16) (k : Checkpoint), Claims.runs s mb 0x0302 → (State.job s tag).checkpoint = some k →
    (State.mailbox s k.mailbox).ackTime < (State.mailbox s mb).ackTime → exec (.jobRelease mb tag) s = .next s) ∧
  (∀ (s : State) (mb : Nat) (tag : BitVec 16), Claims.runs s mb 0x0302 → tag ≠ 0 → State.keyed s = true →
    (∀ k, (State.job s tag).checkpoint = some k → (State.mailbox s mb).ackTime < (State.mailbox s k.mailbox).ackTime ∨
      ((State.mailbox s mb).ackTime = (State.mailbox s k.mailbox).ackTime ∧ mb ≤ k.mailbox)) →
    let held := s.cells.any (fun e => e.2.groups.any (fun g => decide (g.2.job = tag))) || s.rings.any (fun e => decide (e.2.status ≠ .free ∧ e.2.tag = tag))
    let grouped := s.groups.any (fun e => decide (e.2.tag = tag))
    ∃ t, exec (.jobRelease mb tag) s = .next t ∧
      if held = true then Claims.ends s t mb 1 [] else if grouped = true then Claims.ends s t mb 2 []
      else Claims.ends { s with cells := t.cells, blocks := t.blocks, regions := t.regions, jobs := t.jobs } t mb 0 [] ∧
        State.job t tag = Job.reset ∧ (∀ u, u ≠ tag → State.job t u = State.job s u) ∧
        (∀ c k, (Cell.arrival (State.cell t c) k).tag ≠ tag ∧ ((Cell.arrival (State.cell s c) k).tag ≠ tag →
          Cell.arrival (State.cell t c) k = Cell.arrival (State.cell s c) k)) ∧
        (∀ c, State.cell t c = { State.cell s c with
          arrivals := (State.cell t c).arrivals, watch := (State.cell t c).watch, epochs := (State.cell t c).epochs
          l1 := Claims.unpinned tag (State.cell s c).l1
          sieve := { (State.cell s c).sieve with bindings := (State.cell t c).sieve.bindings, waiting := (State.cell t c).sieve.waiting } }) ∧
        (∀ b, State.block t b = { State.block s b with cache := Claims.unpinned tag (State.block s b).cache }) ∧
        ∀ r, State.region t r = { State.region s r with cache := (State.region t r).cache }) ∧
  (∀ (s : State) (mb : Nat) (g : GroupLoc) (stamp : BitVec 64) (selector : Nat) (data : List (BitVec 32)) (p : ParkRecord) (grp : Group),
    Claims.runs s mb 0x0311 → (mb = 16 ∨ s.host.busMaster = true) → NMap.find (State.cell s g.cell).parkList g.slot = some p → p.state = .held →
    BitVec.ofNat 64 p.stamp = stamp → State.group s g = some grp → selector < 0x100 → selector < grp.regs →
    ∃ t after, exec (.parkStateWrite mb g stamp selector data) s = .next t ∧ Claims.ends { s with cells := t.cells } t mb 0 [] ∧ Claims.onlyParked s t g ∧
      State.group t g = some after ∧ OnlyThreadRegs grp after [selector] ∧ after.pc = grp.pc ∧ after.fetched = grp.fetched ∧ Group.poisonOf after selector = 0 ∧
      (∀ l, l < 32 → Group.lane after selector l = (data.getD l 0).toNat) ∧ NMap.find (State.cell t g.cell).parkList g.slot = some p) ∧
  (∀ r ∈ ([(Instr.parkReplay, 0x0312, .replay), (.parkDiscard, 0x0313, .discard)] : List ((Nat → GroupLoc → BitVec 64 → Instr) × Nat × ParkState)),
    ∀ (s : State) (mb : Nat) (g : GroupLoc) (stamp : BitVec 64), Claims.runs s mb r.2.1 →
    ∃ t, exec (r.1 mb g stamp) s = .next t ∧
      match NMap.find (State.cell s g.cell).parkList g.slot with
      | none => Claims.ends s t mb 1 []
      | some p =>
        if p.state ≠ .held then Claims.ends s t mb 1 [] else if BitVec.ofNat 64 p.stamp ≠ stamp then Claims.ends s t mb 2 []
        else Claims.ends { s with cells := t.cells } t mb 0 [] ∧ Claims.onlyParked s t g ∧ State.group t g = State.group s g ∧
          NMap.find (State.cell t g.cell).parkList g.slot = some { p with state := r.2.2 }) ∧
  (∀ (s : State) (mb : Nat) (tag : BitVec 16) (on : Bool), Claims.runs s mb 0x0701 →
    ∃ t, exec (.recipeSet mb tag on) s = .next t ∧
      if (∃ e ∈ s.cells, ∃ g ∈ e.2.groups, g.2.job = tag) then Claims.ends s t mb 1 []
      else Claims.ends { s with jobs := t.jobs } t mb 0 [] ∧ State.job t tag = { State.job s tag with recipe := on } ∧
        ∀ u, u ≠ tag → State.job t u = State.job s u) ∧
  (∀ (s : State) (mb cell counter period : Nat), Claims.runs s mb 0x0503 →
    let x := State.cell s cell
    ∃ t, exec (.ringWatchdog mb cell counter period) s = .next t ∧
      if period ≠ 0 ∧ NMap.find x.watch counter = none ∧ 4 ≤ x.watch.length then Claims.ends s t mb 1 []
      else Claims.ends { s with cells := t.cells } t mb 0 [] ∧ (∀ c, c ≠ cell → State.cell t c = State.cell s c) ∧
        State.cell t cell = { x with watch := (State.cell t cell).watch } ∧ (∀ k, k ≠ counter → NMap.find (State.cell t cell).watch k = NMap.find x.watch k) ∧
        NMap.find (State.cell t cell).watch counter = (if period = 0 then none else
          some { period := period, since := if Cell.waiters x counter = [] then none else some s.timebase, fired := false })) ∧
  (∀ (s : State) (mb : Nat) (k : Running) (header : BitVec 512) (members : List (BitVec 16)), (State.mailbox s mb).running = some k → k.code = 0x0500 →
    k.stage ≠ 1 → (k.stage = 0 → Claims.turn s mb 0x0500) → (mb = 16 ∨ s.host.busMaster = true) →
    let h := setupHeader header.toNat
    let partners := partnersOf members.length h.pos
    State.setupResult s h members = 0 → (∀ m ∈ s.fabric.early, m.group ≠ h.group) → (∀ m ∈ members, NMap.find s.fabric.failed m.toNat = none) →
    ∃ t u g, exec (.collectiveSetup mb header members) s = .next t ∧
      u = { s with groups := t.groups, out := s.out ++ partners.map (fun j => .fabric (members.getD j 0).toNat (.setup
        { group := h.group, tag := h.tag, members := members.length, senderPos := h.pos, receiverPos := j, sender := s.moduleNumber })) } ∧
      State.coll t h.group = some g ∧ (∀ i, i ≠ h.group → State.coll t i = State.coll s i) ∧
      g.tag = h.tag ∧ g.members = members.map BitVec.toNat ∧ g.pos = h.pos ∧ g.anchor = 48 * h.region + 6 * h.block + h.cell ∧ g.stage = h.stage ∧
      g.bufs = h.bufs ∧ g.touched = false ∧ g.confirmed = [] ∧ g.queue = [] ∧ g.run = none ∧
      (partners = [] → Claims.ends u t mb 0 []) ∧
      (partners ≠ [] → t = { u with host := { u.host with mailboxes := t.host.mailboxes } } ∧ (∀ n, n ≠ mb → State.mailbox t n = State.mailbox s n) ∧
        State.mailbox t mb = { State.mailbox s mb with running := some { k with stage := 1, values := [h.group], since := s.timebase }, report := partners })) ∧
  (∀ (s : State) (mb group : Nat) (q : CollGroup), Claims.runs s mb 0x0501 → State.coll s group = some q →
    ∃ t, exec (.collectiveRelease mb group) s = .next t ∧
      if q.run.isSome ∨ q.queue ≠ [] then Claims.ends s t mb 1 []
      else Claims.ends { s with cells := t.cells, groups := t.groups, freeCount := t.freeCount } t mb 0 [] ∧ State.coll t group = none ∧
        (∀ i, i ≠ group → State.coll t i = State.coll s i) ∧ (∀ c, c ≠ q.anchor → State.cell t c = State.cell s c) ∧
        (State.cell t q.anchor).groups = (State.cell s q.anchor).groups ∧ ∀ a, a < 2 ^ 19 → (a < q.stage ∨ q.stage + 8192 * q.bufs ≤ a) → q.stage + 8192 * q.bufs ≤ 2 ^ 19 →
          Cell.localByte (State.cell t q.anchor) a = Cell.localByte (State.cell s q.anchor) a) ∧
  (∀ (s : State) (mb timeout : Nat) (tag : BitVec 16) (k : Running), (State.mailbox s mb).running = some k → k.code = 0x0600 → k.stage ≠ 1 → (k.stage = 0 → Claims.turn s mb 0x0600) →
    (State.job s tag).checkpoint = none →
    let n := State.pendingColls s tag
    ∃ t, exec (.checkpoint mb tag timeout) s = .next t ∧ t = { s with jobs := t.jobs, host := { s.host with mailboxes := t.host.mailboxes } } ∧
      State.job t tag = { State.job s tag with checkpoint := some { mailbox := mb, phase := 2, started := s.timebase, timeout := timeout, drained := n } } ∧
      (∀ u, u ≠ tag → State.job t u = State.job s u) ∧ (∀ m, m ≠ mb → State.mailbox t m = State.mailbox s m) ∧
      State.mailbox t mb = { State.mailbox s mb with running := some { k with stage := 1, values := [tag.toNat] }, report := [2, n] }) ∧
  (∀ (s : State) (tag : BitVec 16) (k : Checkpoint), (State.job s tag).checkpoint = some k → State.pendingColls s tag = 0 →
    (∀ b, b < 64 → State.lostCells s b = []) →
    let e := (State.job s tag).epoch.getD 0 + 1
    ∃ t, exec (.checkpointBump tag) s = .next t ∧
      Claims.reports { s with jobs := t.jobs, cells := t.cells } t k.mailbox 0 [5, k.drained, e.toNat, 0, 0] ∧
      State.job t tag = { State.job s tag with epoch := some e, checkpoint := none } ∧ (∀ u, u ≠ tag → State.job t u = State.job s u) ∧
      (∀ c, State.cell t c = { State.cell s c with epochs := (State.cell t c).epochs }) ∧
      ∀ c u, NMap.get (State.cell t c).epochs 0 u =
        (if u = tag.toNat ∧ Cell.holdsJob (State.cell s c) tag = true ∧ (NMap.find s.cells c).isSome then e else NMap.get (State.cell s c).epochs 0 u)) ∧
  ∀ (s : State) (tag : BitVec 16) (k : Checkpoint), (State.job s tag).checkpoint = some k → k.started + k.timeout * 1000000 ≤ s.timebase →
    ∃ t, exec (.checkpointTimeout tag) s = .next t ∧
      Claims.reports { s with jobs := t.jobs } t k.mailbox 1 [2, k.drained - State.pendingColls s tag, ((State.job s tag).epoch.getD 0).toNat, 0, 0] ∧
      State.job t tag = { State.job s tag with checkpoint := none } ∧ ∀ u, u ≠ tag → State.job t u = State.job s u

/-! ### Sutha commands on power, the fabric and the links -/

/-- Port `p` has gone to `next` with nothing of its link left (R443, R446, R448); every other port is as it was. -/
def Claims.portDown (s t : State) (p : Nat) (next : PortState) : Prop :=
  (let x := State.port s p
   let y := State.port t p
   y = { x with
     state := next, since := s.timebase, usableTx := 0, usableRx := 0, txMap := [], rxMap := [], txStandby := none, rxStandby := none, lanes := []
     partner := none, lastRx := s.timebase, spareAsked := none, sparing := none, recovering := [], txNext := 0, replay := [], rxLast := 4095, naks := 0
     nakAt := none, sent := [], total := [], returned := [], told := [], due := [], queued := [], controls := [], grants := Arbiter.reset, inbound := [], wanted := y.wanted, failures := y.failures }) ∧
    ∀ q, q ≠ p → State.port t q = State.port s q

/-- No packet that waits in the module came in by port `p` and still holds a credit of its link. -/
def Claims.noArrivals (s : State) (p : Nat) : Prop :=
  (∀ e ∈ s.ports, ∀ w ∈ e.2.queued, ∀ a, w.arrived = some a → a.1 ≠ p) ∧ ∀ e ∈ s.fabric.unrouted, ∀ a, e.2 = some a → a.1 ≠ p

/-- R377, R379, R454, R460, R468, R499 to R501, R504, R505, R516 and Tables 13.8, 15.9 and 16.11. A port's replay buffer and queue are empty where a
link goes down: what full ones leave behind is stated with the links. -/
def Obligations.SuthaPlatformCommands : Prop :=
  (∀ (s : State) (mb target : Nat), Claims.runs s mb 0x0003 →
    (4 ≤ mb → target < 4 → ∃ t, exec (.cancel mb target) s = .next t ∧ Claims.ends s t mb 3 []) ∧
    ((mb < 4 ∨ 4 ≤ target) → (State.mailbox s target).running = none → ∃ t, exec (.cancel mb target) s = .next t ∧ Claims.ends s t mb 1 []) ∧
    ((mb < 4 ∨ 4 ≤ target) → mb = target → ∃ t, exec (.cancel mb target) s = .next t ∧ Claims.ends s t mb 2 [])) ∧
  (∀ (s : State) (mb target : Nat) (k : Running) (c : CommandRow), Claims.runs s mb 0x0003 → mb ≠ target → (mb < 4 ∨ 4 ≤ target) →
    (State.mailbox s target).running = some k → commandOf k.code = some c →
    ∃ t u, exec (.cancel mb target) s = .next t ∧
      if c.cancellable then Claims.ends u t mb 0 [] ∧
        (let v : State := if ∃ r, s.tasting = some r ∧ r.mailbox = target then State.endTasting s else s
         u = { v with host := { v.host with mailboxes := u.host.mailboxes } } ∧ v.host = s.host ∧ v.tasting = (if ∃ r, s.tasting = some r ∧ r.mailbox = target then none else s.tasting)) ∧
        (∀ n, n ≠ target → State.mailbox u n = State.mailbox s n) ∧
        State.mailbox u target = { State.mailbox s target with
          result := 0xFFFD, doneSeq := (State.mailbox s target).ackSeq, doneTime := s.timebase, busy := false, done := true, running := none }
      else Claims.ends s t mb 2 []) ∧
  (∀ (s : State) (mb : Nat) (addr : BitVec 64), Claims.runs s mb 0x0010 →
    ∃ t, exec (.statusMirror mb addr) s = .next t ∧ Claims.ends { s with host := { s.host with mirrorAddr := addr } } t mb 0 []) ∧
  (∀ (s : State) (mb mode setpoint v : Nat) (mask : BitVec 8), Claims.runs s mb 0x0101 →
    (mode = 0 ∧ v = 750 ∨ mode = 1 ∧ v = 620 ∨ mode = 2 ∧ v = setpoint ∧ 550 ≤ v ∧ v ≤ 850 ∧ v % 5 = 0) →
    ∃ t, exec (.operatingPoint mb mask mode setpoint) s = .next t ∧
      Claims.ends { s with tel := t.tel, power := { s.power with regions := t.power.regions, proofer := { s.power.proofer with queue := t.power.proofer.queue } } } t mb 0 [] ∧
      (∀ o ∈ t.power.proofer.queue, o ∈ s.power.proofer.queue) ∧
      ∀ r, State.regionPower t r =
        (let x := State.regionPower s r
         if r < 8 ∧ mask.getLsbD r = true then
           { x with vreq := v, volt := if x.on then min x.volt (min v (min (x.vpwr.getD v) (x.vthm.getD v))) else x.volt } else x)) ∧
  (∀ (s : State) (mb setpoint : Nat) (mask : BitVec 8), Claims.runs s mb 0x0101 → ¬ (550 ≤ setpoint ∧ setpoint ≤ 850 ∧ setpoint % 5 = 0) →
    ∃ t, exec (.operatingPoint mb mask 2 setpoint) s = .next t ∧ Claims.ends s t mb 1 []) ∧
  (∀ (s : State) (mb mode setpoint : Nat) (mask : BitVec 8), Claims.runs s mb 0x0101 → 3 ≤ mode →
    ∃ t, exec (.operatingPoint mb mask mode setpoint) s = .next t ∧ Claims.endsOpen s t mb) ∧
  (∀ (s : State) (mb watts : Nat), Claims.runs s mb 0x0102 →
    ∃ t, exec (.powerLimitSet mb watts) s = .next t ∧
      if 1000 ≤ watts ∧ watts ≤ 2400 then Claims.ends { s with nv := { s.nv with limit := watts } } t mb 0 [] else Claims.ends s t mb 1 []) ∧
  (∀ (s : State) (mb r : Nat), Claims.runs s mb 0x0103 → r < 8 → (State.region s r).fenced = false →
    (∀ c, c / 48 = r → (State.cell s c).groups = []) → State.lastTray s r = false → (∀ p, p / 5 = r → (State.port s p).replay = [] ∧ (State.port s p).queued = []) →
    ∃ t, exec (.regionPowerOff mb r) s = .next t ∧ (State.region t r).off = true ∧ (State.region t r).cache = [] ∧ (State.regionPower t r).on = false ∧
      (State.regionPower t r).stackOn = false ∧ (State.regionPower t r).volt = 0 ∧ (∀ p, p / 5 = r → (State.port t p).state = .disabled) ∧
      (∀ c, c / 48 = r → State.cell t c = { Cell.reset with
        deferLimit := (State.cell s c).deferLimit, reservation := (State.cell s c).reservation, retiring := (State.cell s c).retiring }) ∧
      t.mem = s.mem ∧ t.memPoison = s.memPoison ∧ t.nv = s.nv ∧ (State.mailbox t mb).result = 0 ∧ (State.mailbox t mb).done = true ∧
      (State.mailbox t mb).busy = false ∧ (State.mailbox t mb).running = none) ∧
  (∀ (s : State) (mb r : Nat), Claims.runs s mb 0x0103 → r < 8 → (State.region s r).fenced = false → (∃ c, c / 48 = r ∧ (State.cell s c).groups ≠ []) →
    ∃ t, exec (.regionPowerOff mb r) s = .next t ∧ Claims.ends s t mb 1 []) ∧
  (∀ (s : State) (mb r : Nat), Claims.runs s mb 0x0103 →
    (r < 8 → (State.region s r).fenced = false → (∀ c, c / 48 = r → (State.cell s c).groups = []) → State.lastTray s r = true →
      ∃ t, exec (.regionPowerOff mb r) s = .next t ∧ Claims.ends s t mb 2 []) ∧
    ((8 ≤ r ∨ (State.region s r).fenced = true) → (∃ t, exec (.regionPowerOff mb r) s = .next t ∧ Claims.endsOpen s t mb) ∧
      ∃ t, exec (.regionPowerOn mb r) s = .next t ∧ Claims.endsOpen s t mb) ∧
    (r < 8 → (State.region s r).fenced = false → (State.regionPower s r).on = true → (State.regionPower s r).stackOn = true →
      ∃ t, exec (.regionPowerOn mb r) s = .next t ∧ Claims.ends s t mb 0 [])) ∧
  (∀ (s : State) (mb r : Nat) (k : Running), (State.mailbox s mb).running = some k → k.code = 0x0103 → r < 8 → (State.region s r).fenced = false →
    let o : ProoferObject := if (State.regionPower s r).on then .stackPair r else .regionPower r
    ((State.regionPower s r).on = true → (State.regionPower s r).stackOn = false) → o ∉ s.power.proofer.queue →
    ∃ t, exec (.regionPowerOn mb r) s = .next t ∧
      t = { s with
        tel := t.tel, host := { s.host with mailboxes := t.host.mailboxes }
        power := { s.power with proofer := { s.power.proofer with queue := s.power.proofer.queue ++ [o] } } } ∧
      (∀ n, n ≠ mb → State.mailbox t n = State.mailbox s n) ∧
      State.mailbox t mb = { State.mailbox s mb with running := some { k with stage := 1, values := [r] } }) ∧
  (∀ (s : State) (mb : Nat), Claims.runs s mb 0x0104 →
    let later : State := { s with power := { s.power with resetAt := some (s.timebase + 10000000) } }
    (∃ t, exec (.moduleResetForced mb) s = .next t ∧ Claims.ends later t mb 0 []) ∧
    ∃ t, exec (.moduleResetGraceful mb) s = .next t ∧
      if (∃ e ∈ s.cells, e.2.groups ≠ []) then Claims.ends s t mb 1 [] else Claims.ends later t mb 0 []) ∧
  (∀ (s : State) (mb module dim timeout : Nat), Claims.runs s mb 0x0400 →
    ∃ t, exec (.fabricConfigure mb module dim timeout) s = .next t ∧
      if s.joined = false ∧ dim ≤ 14 ∧ module < 2 ^ dim ∧ 2 ≤ timeout ∧ timeout ≤ 100 then
        Claims.ends { s with nv := { s.nv with module := module, dim := dim }, fabric := { s.fabric with nextTimeoutMs := timeout } } t mb 0 []
      else Claims.ends s t mb 1 []) ∧
  (∀ (s : State) (mb region port : Nat), Claims.runs s mb 0x0403 → (8 ≤ region ∨ 5 ≤ port) →
    ∀ i ∈ [Instr.linkRetrain mb region port, .linkDisable mb region port, .linkEnable mb region port], ∃ t, exec i s = .next t ∧ Claims.ends s t mb 1 []) ∧
  (∀ (s : State) (mb region port : Nat), Claims.runs s mb 0x0403 → region < 8 → port < 5 →
    let p := 5 * region + port
    let x := State.port s p
    x.replay = [] → x.queued = [] → Claims.noArrivals s p →
    (x.state ≠ .disabled → ∃ t, exec (.linkRetrain mb region port) s = .next t ∧
      Claims.ends { s with ports := t.ports, tel := t.tel, time := t.time } t mb 0 [] ∧ Claims.portDown s t p .detect ∧ (State.port t p).wanted = x.wanted ∧
      (State.port t p).failures = x.failures) ∧
    (x.state = .disabled → ∃ t, exec (.linkRetrain mb region port) s = .next t ∧ Claims.ends s t mb 1 []) ∧
    (∃ t, exec (.linkDisable mb region port) s = .next t ∧
      Claims.ends { s with
        ports := t.ports, tel := t.tel, time := t.time
        power := { s.power with proofer := { s.power.proofer with queue := t.power.proofer.queue } } } t mb 0 [] ∧
      Claims.portDown s t p .disabled ∧ (State.port t p).wanted = false ∧ (State.port t p).failures = x.failures ∧
      ∀ o, o ∈ t.power.proofer.queue ↔ o ∈ s.power.proofer.queue ∧ o ≠ .opticalPort p ∧ o ≠ .electricalPort p) ∧
    (∃ t, exec (.linkEnable mb region port) s = .next t ∧
      Claims.ends { s with
        ports := t.ports, tel := t.tel
        power := { s.power with proofer := { s.power.proofer with queue := t.power.proofer.queue } } } t mb 0 [] ∧
      State.port t p = { x with wanted := true } ∧ (∀ q, q ≠ p → State.port t q = State.port s q) ∧
      (let o : ProoferObject := if p % 5 = 4 then .electricalPort p else .opticalPort p
       t.power.proofer.queue =
        (if x.state = .disabled ∧ (State.regionPower s region).stackOn = true ∧ o ∉ s.power.proofer.queue then s.power.proofer.queue ++ [o]
        else s.power.proofer.queue)))) ∧
  (∀ (s : State) (mb region port : Nat) (mask : BitVec 9), Claims.runs s mb 0x0F12 → (8 ≤ region ∨ 5 ≤ port) →
    ∃ t, exec (.laneRestore mb region port mask) s = .next t ∧ Claims.reports s t mb 0 [0]) ∧
  ∀ (s : State) (mb region port : Nat) (mask : BitVec 9), Claims.runs s mb 0x0F12 → region < 8 → port < 5 →
    let id (l : Nat) : Nat := 9 * (5 * region + port) + l
    ∃ t back, exec (.laneRestore mb region port mask) s = .next t ∧ Claims.reports { s with nv := t.nv } t mb 0 [back] ∧
      t.nv = { s.nv with retiredLanes := t.nv.retiredLanes, laneFailures := t.nv.laneFailures } ∧
      (∀ n, n ∈ t.nv.retiredLanes ↔ n ∈ s.nv.retiredLanes ∧ ¬ ∃ l, l < 9 ∧ mask.getLsbD l = true ∧ n = id l) ∧
      ∀ l, l < 9 → back.testBit l = (mask.getLsbD l && decide (id l ∈ s.nv.retiredLanes))

/-! ### Sutha commands for tests, telemetry and service; the Bench -/

/-- A scale slot with a new configuration word (R301, R308, Table 10.3): X of a DYNAMIC slot that an update has reached stays until the next (log
entry 97). -/
def Claims.configured (k : ScaleSlot) (w : BitVec 64) : ScaleSlot :=
  let n : ScaleSlot := { k with
    dynamic := w.getLsbD 63, fmt := (w.extractLsb' 59 4).toNat, hlen := (w.extractLsb' 53 6).toNat, head := (w.extractLsb' 50 3).toNat
    initX := (w.extractLsb' 42 8).toNat, binLo := (w.extractLsb' 34 8).toInt }
  let n : ScaleSlot := if n.fmt = k.fmt ∧ n.hlen = k.hlen ∧ n.head = k.head then n else { n with hist := List.replicate 64 0xFF, pen := 0 }
  let later : Bool := w.getLsbD 63 && k.done.isSome
  { n with x := if later then k.x else n.initX, restart := later }

/-- R301, R308, R315 to R317, R483, R520, R529, R530, R536, R542, R551 and Tables 10.8, 16.11 and 16.12. -/
def Obligations.SuthaServiceCommands : Prop :=
  (∀ (s : State) (mb : Nat) (cells failed : List Nat) (k : Running), (State.mailbox s mb).running = some k → Claims.runs s mb 0x0700 →
    let run := if k.stage = 0 then State.namedCells s cells else k.values
    let n := min run.length (k.stage + 1)
    let bad := (run.take (k.stage + 1)).filter (fun c => decide (c ∈ failed))
    let report := [n, n - bad.length, bad.length] ++ bad
    ∃ t u, exec (.selfTest mb cells failed) s = .next t ∧ u = { s with cells := u.cells, tel := u.tel, freeCount := u.freeCount } ∧
      (if run.length ≤ k.stage + 1 then Claims.reports u t mb 0 report (n % 2 ^ 16)
       else Claims.goesOn u t mb ((k.stage + 1) % 2 ^ 16) run (some report)) ∧
      ∀ c, State.cell t c = { State.cell s c with
        localMem := (State.cell t c).localMem, localPoison := (State.cell t c).localPoison, retiring := (State.cell t c).retiring } ∧
        ((State.cell s c).groups ≠ [] → (State.cell t c).localMem = (State.cell s c).localMem ∧ (State.cell t c).localPoison = (State.cell s c).localPoison) ∧
        (run[k.stage]? = some c → c ∈ failed → (State.cell t c).retiring = true) ∧
        (c ∉ failed → (State.cell t c).retiring = (State.cell s c).retiring) ∧ (run[k.stage]? ≠ some c → State.cell t c = State.cell s c)) ∧
  (∀ (s : State) (mb : Nat) (a : TastingArgs) (files : List TastingFile), Claims.runs s mb 0x0702 → s.tasting = none →
    let cells := State.namedCells s a.cells
    let idle := cells.filter (fun c => (State.cell s c).groups.isEmpty)
    let good := files.filter (fun f => decide (crc32 (State.homeBytes s f.addr f.size) = f.crc.toNat))
    let bad := files.filter (fun f => decide (crc32 (State.homeBytes s f.addr f.size) ≠ f.crc.toNat))
    ∃ t, exec (.tastingRun mb a files) s = .next t ∧
      if a.limit = 0 ∨ 4096 < a.limit ∨ ofBytes (State.homeBytes s a.setAddr 4) ≠ 0x54534154 then
        ∃ result, Claims.ends { s with freeCount := s.freeCount + 1 } t mb result []
      else if idle = [] then Claims.ends s t mb 3 []
      else (let r : Tasting :=
          { mailbox := mb, cells := idle, refused := decide (idle.length < cells.length), limit := a.limit, work := good.flatMap (State.tastingFile s a), running := []
            passed := 0, failed := 0, skipped := (bad.map (·.vectors)).foldl (· + ·) 0, records := [] }
        t = { s with cells := t.cells, tasting := some r, host := { s.host with mailboxes := t.host.mailboxes } } ∧
          (∀ n, n ≠ mb → State.mailbox t n = State.mailbox s n) ∧
          State.mailbox t mb = { State.mailbox s mb with running := (State.mailbox s mb).running.map (fun k => { k with stage := 1 }) }) ∧
        (∀ c ∈ idle, State.cell t c = Cell.forJob (State.cell s c) 0 0) ∧ ∀ c, c ∉ idle → State.cell t c = State.cell s c) ∧
  (∀ (s : State) (mb c : Nat) (a : TastingArgs) (files : List TastingFile) (r : Tasting) (v : TastingVector) (recipe : Bool)
    (rest : List (TastingVector × Bool)), Claims.runs s mb 0x0702 → s.tasting = some r → r.mailbox = mb → r.running = [] → r.cells = [c] →
    r.work = (v, recipe) :: rest →
    let x := State.cell s c
    let now : Tasting := { r with
      work := rest, running := [{ cell := c, age := x.nextAge, vector := v, words := v.insn, before := v.counts.map (State.tastingCounter s c) }] }
    ∃ t, exec (.tastingRun mb a files) s = .next t ∧
      t = { s with
        cells := t.cells, jobs := t.jobs, nextId := s.nextId + 1, freeCount := s.freeCount + 1, tasting := some now
        host := { s.host with mailboxes := t.host.mailboxes } } ∧
      State.job t 0 = { State.job s 0 with recipe := recipe } ∧ (∀ u, u ≠ 0 → State.job t u = State.job s u) ∧
      (∀ d, d ≠ c → State.cell t d = State.cell s d) ∧ Cell.group (State.cell t c) 0 = some (tastingGroup s.nextId x.nextAge) ∧
      (∀ k, k ≠ 0 → Cell.group (State.cell t c) k = Cell.group x k) ∧
      (let y := v.inputs.foldl Cell.loadSegment x
       (State.cell t c).localMem = y.localMem ∧ (State.cell t c).localPoison = y.localPoison) ∧
      (∀ n, n ≠ mb → State.mailbox t n = State.mailbox s n) ∧
      State.mailbox t mb = { State.mailbox s mb with report := Tasting.report r, resLen := (State.mailbox t mb).resLen } ∧
      (State.mailbox t mb).resLen ≤ (if mb = 16 then 256 else 2048)) ∧
  (∀ (s : State) (mb : Nat) (a : TastingArgs) (files : List TastingFile) (r : Tasting), Claims.runs s mb 0x0702 → s.tasting = some r → r.mailbox = mb →
    r.running = [] → r.work = [] →
    ∃ t, exec (.tastingRun mb a files) s = .next t ∧ Claims.reports { s with tasting := none } t mb (if r.refused then 3 else 0)
      ([r.passed + r.failed, r.passed, r.failed, r.skipped] ++ r.records.flatten)) ∧
  (∀ (s : State) (mb first count : Nat) (w : BitVec 64), Claims.runs s mb 0x0703 →
    ((w.extractLsb' 0 34 ≠ 0 ∨ w.extractLsb' 59 4 ∉ [3, 4, 5, 6] ∨ w.extractLsb' 42 8 = 255) →
      ∃ t, exec (.scaleConfigure mb first count w) s = .next t ∧ Claims.ends s t mb 2 []) ∧
    (w.extractLsb' 0 34 = 0 → w.extractLsb' 59 4 ∈ [3, 4, 5, 6] → w.extractLsb' 42 8 ≠ 255 → first + count ≤ 4096 →
      ∃ t, exec (.scaleConfigure mb first count w) s = .next t ∧ Claims.ends { s with scale := { s.scale with slots := t.scale.slots } } t mb 0 [] ∧
        ∀ k, ScaleTable.slot t.scale k = if first ≤ k ∧ k < first + count then Claims.configured (ScaleTable.slot s.scale k) w else ScaleTable.slot s.scale k)) ∧
  (∀ (s : State) (mb first count : Nat) (w : BitVec 64), Claims.runs s mb 0x0703 → w.extractLsb' 0 34 = 0 → w.extractLsb' 59 4 ∈ [3, 4, 5, 6] →
    w.extractLsb' 42 8 ≠ 255 → 4096 < first + count → ∃ t, exec (.scaleConfigure mb first count w) s = .next t ∧ Claims.endsOpen s t mb) ∧
  (∀ (s : State) (mb : Nat) (keys : List (BitVec 32)) (paceMin : Bool) (err time : BitVec 64) (low : BitVec 8), Claims.runs s mb 0x0801 →
    ∃ t, exec (.counterClear mb keys paceMin err low time) s = .next t ∧
      Claims.ends { s with
        tel := { s.tel with counters := t.tel.counters, errFlags := t.tel.errFlags }
        time := { s.time with
          outOfTol := s.time.outOfTol && (!time.getLsbD 3 || Claims.setNow s outOfTolKey)
          stepped := s.time.stepped && (!time.getLsbD 2 || Claims.setNow s steppedKey) }
        power := { s.power with regions := t.power.regions } } t mb 0 [] ∧
      (∀ k, NMap.get t.tel.counters 0 k = if (∃ x ∈ keys, x.toNat = k) then min (Claims.tickEvents s k) (counterMax k) else NMap.get s.tel.counters 0 k) ∧
      (∀ i, i < 12 → t.tel.errFlags.testBit i = (s.tel.errFlags.testBit i && (!err.getLsbD i || Claims.setNow s i))) ∧
      ∀ r, State.regionPower t r =
        (let x := State.regionPower s r
         if r < 8 then { x with pace := { x.pace with
           paceMin := if paceMin then 0xFFFF else x.pace.paceMin, lowpace := x.pace.lowpace && (!low.getLsbD r || Claims.setNow s (lowpaceKey r)) } } else x)) ∧
  (∀ (s : State) (c : Counter) (param inst n : Nat), c ≠ .flagEvents →
    Claims.tickEvents (State.count s c param inst n) (counterKey c param inst) = Claims.tickEvents s (counterKey c param inst) + n) ∧
  (∀ (s : State) (mb dst limit : Nat) (ack : Bool), Claims.runs s mb 0x0802 →
    let records := (s.tel.alarms ++ s.tel.reserved.map (·.2)).take limit
    let gone := if mb = 16 then (records.zipIdx.filter (fun e => decide (dst ≤ 32 * e.2 ∧ 32 * e.2 + 32 ≤ dst + 240))).map (·.1) else records
    ∃ t, exec (.alarmRead mb dst limit ack) s = .next t ∧
      Claims.delivers { s with tel := t.tel } t mb dst (records.flatMap (fun x => toBytes 32 (AlarmRecord.image x))) ∧
      (ack = false ∨ (mb ≠ 16 ∧ s.host.busMaster = false) → t.tel = s.tel) ∧
      (ack = true → mb = 16 ∨ s.host.busMaster = true →
        t.tel = { s.tel with alarms := t.tel.alarms, reserved := t.tel.reserved, mergeEpisode := t.tel.mergeEpisode } ∧
        (∀ x, x ∈ t.tel.alarms ↔ x ∈ s.tel.alarms ∧ x ∉ gone) ∧ (∀ e, e ∈ t.tel.reserved ↔ e ∈ s.tel.reserved ∧ e.2 ∉ gone) ∧
        t.tel.mergeEpisode = (s.tel.mergeEpisode && decide (1024 ≤ t.tel.alarms.length)))) ∧
  (∀ (s : State) (mb ring size n : Nat) (mask : BitVec 8) (rates : List Nat), Claims.runs s mb 0x0804 → ring % 64 = 0 → size = 2 ^ n → 16 ≤ n → n ≤ 30 →
    ∃ t, exec (.traceConfigure mb mask rates ring size) s = .next t ∧
      Claims.ends { s with tel := { s.tel with trace :=
        { mask := mask.toNat, limits := rates, ringAddr := ring, ringLog2 := n, write := 0, read := 0, used := [], period := s.timebase } } } t mb 0 []) ∧
  (∀ (s : State) (mb ring size : Nat) (mask : BitVec 8) (rates : List Nat), Claims.runs s mb 0x0804 →
    (ring % 64 ≠ 0 ∨ ∀ n, 16 ≤ n → n ≤ 30 → size ≠ 2 ^ n) →
    ∃ t, exec (.traceConfigure mb mask rates ring size) s = .next t ∧ Claims.ends s t mb 1 []) ∧
  (∀ (s : State) (mb length : Nat) (version : BitVec 64) (signed : Bool) (k : Running), (State.mailbox s mb).running = some k → Claims.runs s mb 0x0F00 →
    (mb = 16 ∨ s.host.busMaster = true) →
    let mib := length / 2 ^ 20
    ∃ t, exec (.firmwareUpdate mb length version signed) s = .next t ∧
      if length = 0 ∨ 2 ^ 26 < length then Claims.ends s t mb 2 []
      else if 2 ^ 20 * (k.stage + 1) < length then Claims.goesOn s t mb ((k.stage + 1) % 2 ^ 16) [] (some [2 ^ 20 * (k.stage + 1)])
      else if signed = false then Claims.ends s t mb 1 [] mib
      else if version.toNat / 2 ^ 32 < s.nv.rollback then Claims.ends s t mb 3 [] mib
      else Claims.ends { s with nv := if s.nv.active = 0 then { s.nv with bank1 := version.toNat, staged := true }
        else { s.nv with bank0 := version.toNat, staged := true } } t mb 0 [] mib) ∧
  (∀ (s : State) (mb : Nat), Claims.runs s mb 0x0F01 →
    let set (on : Bool) : State := if s.debug = on then s else
      { s with debug := on, presence := { s.presence with pseq := (s.presence.pseq + 1) % 256 } }
    (∃ t, exec (.debugLock mb) s = .next t ∧ Claims.ends (set false) t mb 0 []) ∧
    ∃ t, exec (.debugUnlock mb) s = .next t ∧
      if s.joined = true ∨ (∃ e ∈ s.cells, e.2.groups ≠ []) then Claims.ends s t mb 1 [] else Claims.ends (set true) t mb 0 []) ∧
  (∀ (s : State) (mb word : Nat) (value : BitVec 32), Claims.runs s mb 0x0F02 → word < 64 →
    let old := NMap.get s.nv.fuses 0 word
    ∃ t, exec (.fuseProgram mb word value) s = .next t ∧
      if old &&& ~~~value ≠ 0 then Claims.ends s t mb 1 []
      else Claims.ends { s with nv := { s.nv with fuses := t.nv.fuses } } t mb 0 [] ∧
        ∀ k, NMap.get t.nv.fuses 0 k = if k = word then value else NMap.get s.nv.fuses 0 k) ∧
  (∀ (s : State) (mb word : Nat) (value : BitVec 32), Claims.runs s mb 0x0F02 → 64 ≤ word →
    ∃ t, exec (.fuseProgram mb word value) s = .next t ∧ Claims.endsOpen s t mb) ∧
  ∀ (s : State) (mb : Nat), Claims.runs s mb 0x0F03 →
    ∃ t, exec (.sealRearm mb) s = .next t ∧
      if s.nv.sealClosed = false then Claims.ends s t mb 1 [] else if 64 ≤ s.nv.rearmBlown then Claims.ends s t mb 2 []
      else Claims.ends { s with
        nv := { s.nv with rearmBlown := s.nv.rearmBlown + 1 }, presence := { s.presence with pseq := (s.presence.pseq + 1) % 256 } } t mb 0 []

/-- A programme slot of the Bench that a record takes (R552). -/
def Claims.loadedProgramme (w : BitVec 512) : Programme :=
  { image := w, loaded := true, running := false, events := 0, skipped := 0, ended := 0, last := none }

/-- Of port `x` a Bench programme that ends has changed no more than `y` shows, whichever its action (R459). -/
def Claims.benchPort (x y : Port) : Prop :=
  y = { x with
    silenced := y.silenced, benchTx := y.benchTx, txStandby := y.txStandby, usableTx := y.usableTx, rxStandby := y.rxStandby, usableRx := y.usableRx
    lanes := y.lanes }

/-- The running programme `v` has ended its action: a silenced transmitter speaks again; a lane it failed comes back, as the standby lane where a
direction that is up has none (R459). -/
def Claims.benchRestored (s t : State) (v : BitVec 512) : Prop :=
  let p := 5 * (v.extractLsb' 381 3).toNat + (v.extractLsb' 378 3).toNat
  let action := (v.extractLsb' 374 3).toNat
  let lane := (v.extractLsb' 370 4).toNat
  let x := State.port s p
  let y := State.port t p
  (∀ q, q ≠ p → State.port t q = State.port s q) ∧ (action ≠ 4 → action ≠ 5 → y = x) ∧ (action = 5 → y = { x with silenced := false }) ∧
    (action = 4 → v.getLsbD 377 = false →
      let rest := x.benchTx.filter (fun l => decide (l ≠ lane))
      y = if Port.up x = true ∧ x.txStandby = none ∧ lane ∉ x.txMap then { x with benchTx := rest, txStandby := some lane, usableTx := x.usableTx ||| 2 ^ lane }
        else { x with benchTx := rest }) ∧
    (action = 4 → v.getLsbD 377 = true →
      let k := NMap.get x.lanes Lane.reset lane
      (k.bench = false → y = x) ∧
      (k.bench = true →
        y = (if Port.up x = true ∧ x.rxStandby = none ∧ lane ∉ x.rxMap then { x with lanes := y.lanes, rxStandby := some lane, usableRx := x.usableRx ||| 2 ^ lane }
          else { x with lanes := y.lanes }) ∧
        NMap.get y.lanes Lane.reset lane = { k with failed := false, bench := false, locked := true, bad := 0, uncorr := [], symbols := [] } ∧
        ∀ l, l ≠ lane → NMap.get y.lanes Lane.reset l = NMap.get x.lanes Lane.reset l))

/-- R456 to R459, R552 and Tables 15.7 to 15.9. -/
def Obligations.BenchCommands : Prop :=
  (∀ (s : State) (mb : Nat) (records : List (BitVec 512)), Claims.runs s mb 0x0F10 → (mb = 16 ∨ s.host.busMaster = true) →
    let free := (List.range 8).filter (fun i => !(State.programme s i).loaded)
    ∃ t codes, exec (.benchProgramme mb records) s = .next t ∧ Claims.reports { s with bench := t.bench } t mb 0 codes ∧
      codes.length = min 8 records.length ∧
      (∀ k w, k < 8 → records[k]? = some w →
        let n := (codes.take k).count 0
        codes[k]? = some (if BenchFields.bad (benchFields w.toNat) (State.mailbox s mb).ackTime = true then 1 else if n < free.length then 0 else 2) ∧
        (codes[k]? = some 0 → ∀ i, free[n]? = some i → State.programme t i = Claims.loadedProgramme w)) ∧
      ∀ i, i ∉ free.take (codes.count 0) → State.programme t i = State.programme s i) ∧
  (∀ (s : State) (mb n : Nat), Claims.runs s mb 0x0F11 →
    let ended (i : Nat) : Bool := (State.programme s i).loaded && decide (i < 8) && decide (n = 0xFF ∨ n = i)
    ∃ t, exec (.benchCancel mb n) s = .next t ∧
      Claims.reports { s with bench := t.bench, ports := t.ports } t mb 0 [((List.range 8).filter ended).length] ∧
      (∀ i, State.programme t i = if ended i then { State.programme s i with loaded := false, running := false, ended := 2 } else State.programme s i) ∧
      (∀ p, Claims.benchPort (State.port s p) (State.port t p)) ∧ ((∀ i, ended i = true → (State.programme s i).running = false) → t.ports = s.ports) ∧
      ∀ i, ended i = true → (∀ j, ended j = true → j ≠ i → (State.programme s j).running = false) → (State.programme s i).running = true →
        Claims.benchRestored s t (State.programme s i).image) ∧
  (∀ (s : State) (i : Nat), let x := State.programme s i
    let start := (x.image.extractLsb' 448 64).toNat
    let stop := (x.image.extractLsb' 384 64).toNat
    (x.loaded = true → x.running = false → start ≤ s.timebase → s.timebase < stop →
      ∃ t, exec (.benchStart i) s = .next t ∧ t = { s with bench := t.bench } ∧
        ∀ j, State.programme t j = if j = i then { x with running := true } else State.programme s j) ∧
    (s.timebase < start → exec (.benchStart i) s = .next s) ∧
    (x.loaded = true → stop ≤ s.timebase →
      ∃ t, exec (.benchEnd i) s = .next t ∧ t = { s with bench := t.bench, ports := t.ports } ∧
        (∀ j, State.programme t j = if j = i then { x with loaded := false, running := false, ended := 1 } else State.programme s j) ∧
        (x.running = false → t.ports = s.ports) ∧ (x.running = true → Claims.benchRestored s t x.image)) ∧
    (s.timebase < stop → exec (.benchEnd i) s = .next s)) ∧
  (∀ (s : State) (i n : Nat), let x := State.programme s i
    let v := x.image
    let p := 5 * (v.extractLsb' 381 3).toNat + (v.extractLsb' 378 3).toNat
    let action := (v.extractLsb' 374 3).toNat
    let lane := (v.extractLsb' 370 4).toNat
    let receive := v.getLsbD 377
    let vc := (v.extractLsb' 321 4).toNat
    -- R457: with MODE 2 the first event alone; of the flits that are sent, without VC_ANY, the DATA flits of VC
    let once : Prop := v.extractLsb' 364 2 = 2 → x.events = 0
    let filtered : Prop := v.getLsbD 325 = false ∧ receive = false ∧ (action = 0 ∨ action = 1 ∨ action = 3)
    let matched : Prop := ∃ before f r d after, s.out = before ++ .link p (.flit f r d) :: after ∧ f.seq = n ∧
      (∀ o ∈ after, Output.isFlit o p n = false) ∧ f.control = none ∧ f.vc = vc
    (¬ once ∨ (filtered ∧ ¬ matched) → exec (.benchInject i n) s = .next s) ∧
    (once → (filtered → matched) → x.running = true → s.timebase < (v.extractLsb' 384 64).toNat →
    (∀ last, x.last = some last → s.timebase < last + 100000 →
      ∃ t, exec (.benchInject i n) s = .next t ∧ t = { s with bench := t.bench, tel := t.tel } ∧ Claims.counted s t .benchSkipped 0 p 1 ∧
        State.programme t i = { x with skipped := min 0xFFFF (x.skipped + 1) } ∧ ∀ j, j ≠ i → State.programme t j = State.programme s j) ∧
    ((∀ last, x.last = some last → last + 100000 ≤ s.timebase) →
      ∃ t, exec (.benchInject i n) s = .next t ∧
        State.programme t i = { x with events := min (2 ^ 32 - 1) (x.events + 1), last := some s.timebase } ∧
        (∀ j, j ≠ i → State.programme t j = State.programme s j) ∧
        (sourceRegion 9 p, { stamp := s.timebase, type := 0x0041, kind := 9, source := p, job := 0
                             d := [i, p, if action = 2 ∨ action = 4 then lane else 0xF, action, n] }) ∈ t.tel.logPath ∧
        (action < 4 → action = 2 ∨ action = 3 ∨ receive = false → Claims.counted s t .benchEvents 0 p 1 ∧ t = { s with bench := t.bench, tel := t.tel, out := t.out }) ∧
        (action < 2 → receive = false → ∀ before f r damaged after, s.out = before ++ .link p (.flit f r damaged) :: after → f.seq = n →
          (∀ o ∈ after, Output.isFlit o p n = false) → t.out = before ++ (if action = 0 then after else .link p (.flit f r true) :: after)) ∧
        (action = 2 → t.out = s.out ++ [.link p (.symbols lane n (let k := (v.extractLsb' 366 4).toNat
          if k = 0 then 16 else k))]) ∧
        (action = 3 → ∀ before a ra da b rb db between after,
          s.out = before ++ .link p (.flit a ra da) :: between ++ .link p (.flit b rb db) :: after → a.seq = n → b.seq = (n + 1) % 4096 →
          (∀ o ∈ between ++ after, Output.isFlit o p n = false) → (∀ o ∈ after, Output.isFlit o p b.seq = false) →
          t.out = before ++ .link p (.flit b rb db) :: between ++ .link p (.flit a ra da) :: after) ∧
        (action = 4 → receive = false → t = { s with bench := t.bench, tel := t.tel, ports := t.ports } ∧ (∀ q, q ≠ p → State.port t q = State.port s q) ∧
          State.port t p = { State.port s p with benchTx := if lane ∈ (State.port s p).benchTx then (State.port s p).benchTx else (State.port s p).benchTx ++ [lane] }) ∧
        (action = 5 → t = { s with bench := t.bench, tel := t.tel, ports := t.ports } ∧ (∀ q, q ≠ p → State.port t q = State.port s q) ∧
          State.port t p = { State.port s p with silenced := true })))) ∧
  ∀ (s : State) (i n : Nat), let x := State.programme s i
    x.running = false ∨ (x.image.extractLsb' 384 64).toNat ≤ s.timebase → exec (.benchInject i n) s = .next s

/-! ### Routing, fabric time and liveness -/

/-- No packet and no CONTROL message waits at the port. -/
def Claims.idlePort (x : Port) : Prop := x.queued = [] ∧ x.controls = []

/-- Port `x` has become `y` by sending packet `k` on virtual channel `vc` with a credit of class `cls` in a flit with report `r`: the flit is in its
replay buffer (R442, R445), and its arbiter has taken note of the grant (Table 13.6). -/
def Claims.flitQueued (x y : Port) (vc cls : Nat) (k : TransitPacket) (r : FlitReport) : Prop :=
  ∃ z : Port, z = { x with
    txNext := (x.txNext + 1) % 4096, replay := x.replay ++ [{ seq := x.txNext, vc := vc, cred := cls, payload := [k], control := none }], sent := z.sent
    grants := z.grants } ∧ Claims.says z y r ∧
    NMap.get z.sent 0 (4 * vc + cls) = NMap.get x.sent 0 (4 * vc + cls) + 1 ∧ ∀ j, j ≠ 4 * vc + cls → NMap.get z.sent 0 j = NMap.get x.sent 0 j

/-- The packet leaves from port `p`, and no other port changes. -/
def Claims.leaves (s t : State) (p vc cls : Nat) (k : TransitPacket) : Prop :=
  ∃ r, Claims.flitQueued (State.port s p) (State.port t p) vc cls k r ∧ (∀ q, q ≠ p → State.port t q = State.port s q) ∧
    t = { s with ports := t.ports, tel := t.tel, out := s.out ++ [.link p (.flit
      { seq := (State.port s p).txNext, vc := vc, cred := cls, payload := [k], control := none } r (State.port s p).silenced)] }

/-- The packet waits at port `p`, at which nothing waited, and nothing else has happened (R24, R384). -/
def Claims.waitsAt (s t : State) (p : Nat) (w : WaitingPacket) : Prop :=
  State.port t p = { State.port s p with queued := [w] } ∧ (∀ q, q ≠ p → State.port t q = State.port s q) ∧ t = { s with ports := t.ports }

/-- A credit of the class that a packet for the neighbour takes is there: shared, else of level 0. -/
def Claims.directClass (x : Port) (vc : Nat) : Nat := if Port.credit x vc 0 then 0 else 1

/-- A packet for the neighbour of port `p`, at which nothing waits, leaves where a credit and room are there; else it waits. -/
def Claims.toNeighbour (s t : State) (p vc : Nat) (k : PacketKind) : Prop :=
  let x := State.port s p
  ∀ q : Partner, x.partner = some q →
    let w : TransitPacket := { source := s.moduleNumber, destination := q.module, level1 := false, kind := k }
    if x.replay.length < 2048 ∧ Port.credit x vc (Claims.directClass x vc) = true then Claims.leaves s t p vc (Claims.directClass x vc) w ∧ t.tel = s.tel
    else Claims.waitsAt s t p { packet := w, classes := [0, 1], hop := .direct, arrived := none }

/-- A live link of port `p` to module `n`, which is not declared failed (R383). -/
def Claims.linkTo (s : State) (p n : Nat) : Prop :=
  p < 40 ∧ ((State.port s p).state = .live ∨ (State.port s p).state = .recovery) ∧ NMap.find s.fabric.failed n = none ∧
    ∃ q, (State.port s p).partner = some q ∧ q.module = n

/-- Set bits of `a xor b` at or above 3 (R383). -/
def Claims.distance (a b : Nat) : Nat := ((List.range 14).filter (fun d => decide (3 ≤ d) && (a ^^^ b).testBit d)).length

/-- The escape hop of a packet for `t` goes to `n`: the lowest set bit at or above 3 of the difference, else the tray link to `t` (R383). -/
def Claims.escapeHop (s : State) (t n : Nat) : Prop :=
  (∃ d, 3 ≤ d ∧ d < 14 ∧ (s.moduleNumber ^^^ t).testBit d = true ∧ (∀ j, 3 ≤ j → j < d → (s.moduleNumber ^^^ t).testBit j = false) ∧
    n = s.moduleNumber ^^^ 2 ^ d) ∨ (Claims.distance s.moduleNumber t = 0 ∧ n = t)

/-- Port `p` is an adaptive hop towards `t` (R383). -/
def Claims.adaptiveHop (s : State) (p t : Nat) : Prop :=
  ∃ n, Claims.linkTo s p n ∧ ((Claims.distance s.moduleNumber t = 0 ∧ n = t) ∨ Claims.distance n t < Claims.distance s.moduleNumber t)

def Claims.room (s : State) (p : Nat) : Prop := (State.port s p).replay.length < 2048

/-- A segment of a job in Recipe mode is pinned to escape hops at its own level (R386). -/
def Claims.pinned (p : TransitPacket) : Prop := ∃ g, p.kind = .collective g true

/-- The virtual channel of a packet (Tables 1.3, 13.4). -/
def Claims.vcOf (p : TransitPacket) : Nat :=
  match p.kind with
  | .request _ => 1
  | .answer _ => 2
  | .window => 3
  | .timeProbe _ => 3
  | .timeReply _ _ _ _ => 3
  | .collective g _ => 4 + g
  | _ => 0

/-- The packet as it leaves: a time packet carries the stamp of its leaving (R389). -/
def Claims.asSent (s : State) (p : TransitPacket) : TransitPacket := { p with kind := State.stamped s p.kind }

/-- The port offered is no adaptive hop that the packet can take now. -/
def Claims.notOffered (s : State) (port : Nat) (p : TransitPacket) : Prop :=
  port < 40 ∧ (Claims.pinned p ∨ ¬ Claims.adaptiveHop s port p.destination ∨ Port.credit (State.port s port) (Claims.vcOf p) 0 = false)

/-- Port `e` has the only live link to the escape hop of a packet for `t`. -/
def Claims.escapePort (s : State) (t e : Nat) : Prop :=
  ∃ n, Claims.escapeHop s t n ∧ Claims.linkTo s e n ∧ ∀ q, Claims.linkTo s q n → q = e

/-- Port `e` has the only live link to the lowest dimension of 3 or more, apart from module `n`, that has one (R385). -/
def Claims.detourPort (s : State) (n e : Nat) : Prop :=
  ∃ d, 3 ≤ d ∧ d < s.fabric.dim ∧ s.moduleNumber ^^^ 2 ^ d ≠ n ∧ Claims.linkTo s e (s.moduleNumber ^^^ 2 ^ d) ∧
    (∀ q, Claims.linkTo s q (s.moduleNumber ^^^ 2 ^ d) → q = e) ∧
    ∀ j q, 3 ≤ j → j < d → s.moduleNumber ^^^ 2 ^ j ≠ n → ¬ Claims.linkTo s q (s.moduleNumber ^^^ 2 ^ j)

/-- R383 to R386: the hops a packet takes. -/
def Claims.packetsRoute : Prop :=
  (∀ (s : State) (port : Nat) (p : TransitPacket), p.destination ≠ s.moduleNumber → ¬ Claims.pinned p → Claims.adaptiveHop s port p.destination →
    Claims.room s port → Claims.idlePort (State.port s port) → Port.credit (State.port s port) (Claims.vcOf p) 0 = true →
    ∃ t, exec (.packetRoute port ⟨p, none⟩) s = .next t ∧ Claims.leaves s t port (Claims.vcOf p) 0 (Claims.asSent s p) ∧ Claims.counted s t .routeAdaptive 0 port 1) ∧
  (∀ (s : State) (port e : Nat) (p : TransitPacket), p.destination ≠ s.moduleNumber → Claims.notOffered s port p → Claims.escapePort s p.destination e →
    Claims.idlePort (State.port s e) →
    let x := State.port s e
    let level := if p.level1 then 2 else 1
    (Claims.room s e → ∀ cls : Nat, (cls = 0 ∧ ¬ Claims.pinned p ∨ cls = level ∧ (Claims.pinned p ∨ Port.credit x (Claims.vcOf p) 0 = false)) →
      Port.credit x (Claims.vcOf p) cls = true →
      ∃ t, exec (.packetRoute port ⟨p, none⟩) s = .next t ∧ Claims.leaves s t e (Claims.vcOf p) cls (Claims.asSent s p) ∧ t.tel = s.tel) ∧
    (¬ Claims.room s e ∨ (Port.credit x (Claims.vcOf p) 0 = false ∧ Port.credit x (Claims.vcOf p) level = false) →
      ∃ t w, exec (.packetRoute port ⟨p, none⟩) s = .next t ∧ Claims.waitsAt s t e w ∧ w.packet = p ∧ w.hop = .escape ∧ w.arrived = none ∧
        ∀ c, c ∈ w.classes ↔ c = level ∨ (c = 0 ∧ ¬ Claims.pinned p))) ∧
  (∀ (s : State) (port e n : Nat) (p : TransitPacket), p.destination ≠ s.moduleNumber → p.level1 = false → ¬ Claims.pinned p → Claims.notOffered s port p →
    Claims.escapeHop s p.destination n → (∀ q, ¬ Claims.linkTo s q n) → Claims.detourPort s n e →
    Claims.room s e → Claims.idlePort (State.port s e) → Port.credit (State.port s e) (Claims.vcOf p) 2 = true →
    ∃ t, exec (.packetRoute port ⟨p, none⟩) s = .next t ∧ Claims.leaves s t e (Claims.vcOf p) 2 (Claims.asSent s { p with level1 := true }) ∧
      Claims.counted s t .routeDetour 0 0 1) ∧
  (∀ (s : State) (port n : Nat) (p : TransitPacket), p.destination ≠ s.moduleNumber → p.level1 = false → Claims.notOffered s port p →
    Claims.escapeHop s p.destination n → (∀ q m, ¬ Claims.linkTo s q m) →
    exec (.packetRoute port ⟨p, none⟩) s = .next { s with fabric := { s.fabric with unrouted := s.fabric.unrouted ++ [(p, none)] } }) ∧
  ∀ (s : State) (port n : Nat) (p : TransitPacket), port < 40 → p.destination ≠ s.moduleNumber → p.level1 = true → Claims.escapeHop s p.destination n →
    (∀ q, ¬ Claims.linkTo s q n) → (∀ q, ¬ Claims.adaptiveHop s q p.destination) →
    (∀ q, p.kind = .request q → q.source ≠ s.moduleNumber →
      ∃ t, exec (.packetRoute port ⟨p, none⟩) s = .next t ∧ Claims.counted s t .routeDrop 0 0 1 ∧ t = { s with tel := t.tel, out := s.out ++ [.answer
        { source := q.destination, txn := q.txn, status := .lost, bytes := [], poison := 255, granule := 0, values := [] } q.source] }) ∧
    ((∀ q, p.kind ≠ .request q) →
      ∃ t, exec (.packetRoute port ⟨p, none⟩) s = .next t ∧ Claims.counted s t .routeDrop 0 0 1 ∧ t = { s with tel := t.tel })

/-- R16, R18: the only packet that waits for the output into a region crosses when it passes its CRC, a request to its home and an answer to its cell;
one that fails is resent, up to three times. -/
def Claims.packageHops : Prop :=
  ∀ (s : State) (a b id : Nat) (cls : TrafficClass) (p : PackagePacket), a ≠ b → (id, p) ∈ s.package → p.source = a → p.destination = b → p.cls = cls →
    (∀ e ∈ s.package, e.2.destination = b → e = (id, p)) →
    let x := State.region s a
    let crossed (t : State) : Prop :=
      State.region t a = { x with retries := NMap.erase x.retries b } ∧ State.region t b = { State.region s b with output := (State.region t b).output } ∧
        ∀ r, r ≠ a → r ≠ b → State.region t r = State.region s r
    (∀ k, p.header = .request k → Claims.allSettled s → Claims.nothingMoves { s with homeQueue := NMap.mod s.homeQueue k (fun q => { q with stage := .home }) } →
      ∃ t, exec (.packagePacket a b cls true) s = .next t ∧ crossed t ∧
        t = { s with regions := t.regions, homeQueue := t.homeQueue, package := NMap.erase s.package id, out := s.out ++ [.package p] } ∧
        NMap.find t.homeQueue k = (NMap.find s.homeQueue k).map (fun q => { q with stage := .home }) ∧
        ∀ j, j ≠ k → NMap.find t.homeQueue j = NMap.find s.homeQueue j) ∧
    (∀ k c, p.header = .completion k c → Claims.allSettled s → Claims.nothingMoves s →
      ∃ t, exec (.packagePacket a b cls true) s = .next t ∧ crossed t ∧
        t = { s with regions := t.regions, cells := t.cells, package := NMap.erase s.package id, out := s.out ++ [.package p] } ∧
        (∀ d, d ≠ c → State.cell t d = State.cell s d) ∧
        State.cell t c = { State.cell s c with copies := (State.cell s c).copies.map (fun e => (e.1, { e.2 with waits := e.2.waits.erase k })) }) ∧
    (NMap.get x.retries 0 b < 3 → ∃ t, exec (.packagePacket a b cls false) s = .next t ∧ t = { s with regions := t.regions, tel := t.tel } ∧
      (∃ m, State.region t a = { x with retries := m } ∧ NMap.get m 0 b = NMap.get x.retries 0 b + 1 ∧
        ∀ j, j ≠ b → NMap.get m 0 j = NMap.get x.retries 0 j) ∧
      (∀ r, r ≠ a → State.region t r = State.region s r) ∧ Claims.counted s t .pkgRetry 0 (8 * a + b) 1)

/-- Of these time packets `b` has the lowest master, then the lowest hop count, then the lowest module number (R390). -/
def Claims.bestTime (l : NMap TimeProbe) (b : TimeProbe) : Prop :=
  (∃ k, (k, b) ∈ l) ∧ ∀ e ∈ l, b.master < e.2.master ∨ (b.master = e.2.master ∧ (b.hops < e.2.hops ∨ (b.hops = e.2.hops ∧ b.sender ≤ e.2.sender)))

/-- The time packets of the neighbours that name a master lower than this module, and not declared failed (R49). -/
def Claims.masters (s : State) (l : NMap TimeProbe) : NMap TimeProbe :=
  l.filter (fun e => decide (e.2.master < s.moduleNumber ∧ NMap.find s.fabric.failed e.2.master = none))

/-- R49, R390: the master and the parent that the neighbours' time packets `l` leave: this module, where none names a lower one, else the best. -/
def Claims.elects (s t : State) (l : NMap TimeProbe) : Prop :=
  (Claims.masters s l = [] → t.time.parent = none ∧ t.time.master = s.moduleNumber ∧ t.time.hops = 0) ∧
    ∀ b, Claims.bestTime (Claims.masters s l) b → t.time.parent = some b.sender ∧ t.time.master = b.master ∧ t.time.hops = b.hops + 1

/-- No packet waits anywhere in the module. -/
def Claims.noneWait (s : State) : Prop := (∀ p, p < 40 → Claims.idlePort (State.port s p)) ∧ s.fabric.unrouted = []

/-- R47, R50, R389, R390: probes, replies and their absence. -/
def Claims.timeService : Prop :=
  (∀ (s : State) (port : Nat), Port.up (State.port s port) = true → Claims.idlePort (State.port s port) →
    ∃ t, exec (.timeProbeTimer port) s = .next t ∧
      Claims.toNeighbour s t port 3 (.timeProbe { sender := s.moduleNumber, stamp := s.timebase, master := s.time.master, hops := s.time.hops })) ∧
  (∀ (s : State) (port : Nat) (p : TimeProbe), Port.up (State.port s port) = true → Claims.idlePort (State.port s port) →
    let l := NMap.insert s.time.neighbours p.sender p
    ∃ t u, exec (.timeProbe port p) s = .next t ∧ Claims.elects s u l ∧
      u = { s with time := { s.time with
        neighbours := l, lastService := s.timebase, parent := u.time.parent, master := u.time.master, hops := u.time.hops } } ∧
      Claims.toNeighbour u t port 3 (.timeReply p.stamp s.timebase s.timebase
        { sender := s.moduleNumber, stamp := s.timebase, master := u.time.master, hops := u.time.hops })) ∧
  (∀ (s : State) (port t1 t2 t3 : Nat) (p : TimeProbe), Port.up (State.port s port) = true →
    let l := NMap.insert s.time.neighbours p.sender p
    let offset : Int := (((t2 : Int) - t1) - ((s.timebase : Int) - t3)) / 2
    let far := s.time.synced && decide (offset < -20 ∨ 20 < offset)
    let lost : Prop := s.joined = true ∧ s.time.holdover = true ∧ (offset < -1000000 ∨ 1000000 < offset)
    (Claims.bestTime (Claims.masters s l) p → ¬ lost →
      ∃ t, exec (.timeReply port t1 t2 t3 p) s = .next t ∧
        t = { s with
          time := { s.time with
            neighbours := l, lastService := s.timebase, parent := some p.sender, master := p.master, hops := p.hops + 1
            offset := t.time.offset, slew := offset, outOfTol := s.time.outOfTol || far, holdover := false, synced := s.joined }
          tel := t.tel } ∧
        t.time.offset = max (-32767) (min 32767 offset) ∧ (far = true → Claims.counted s t .timeOot 0 0 1) ∧ (0xA2, 0, 0, 0) ∉ t.tel.episodes) ∧
    (Claims.bestTime (Claims.masters s l) p → lost → Claims.noneWait s → (∀ q, q < 40 → (State.port s q).replay = []) →
      ∃ t, exec (.timeReply port t1 t2 t3 p) s = .next t ∧ t.joined = false ∧ t.time.synced = false ∧ t.time.slew = 0) ∧
    ((∀ b, Claims.bestTime (Claims.masters s l) b → b.sender ≠ p.sender) → ∃ t, exec (.timeReply port t1 t2 t3 p) s = .next t ∧ Claims.elects s t l ∧
      t = { s with time := { s.time with neighbours := l, lastService := s.timebase, parent := t.time.parent, master := t.time.master, hops := t.time.hops } })) ∧
  ∀ (s : State), s.joined = true → s.time.holdover = false → s.time.lastService + 1000000 ≤ s.timebase → (0xA2, 0, 0, 0) ∉ s.tel.episodes →
    ∃ t, exec .timeServiceSilence s = .next t ∧ t = { s with time := { s.time with holdover := true, synced := false, slew := 0 }, tel := t.tel } ∧
      Claims.alarmed s t 0xA2 0 0 0 ∧ (0xA2, 0, 0, 0) ∈ t.tel.episodes

/-- Every live link but that of port `but` carries packet `k` on VC0 (R393, R396), at once or as soon as a credit is there; the other ports are as
they were. -/
def Claims.floods (s t : State) (k : PacketKind) (but : Option Nat) : Prop :=
  ∀ p, let x := State.port s p
    if p < 40 ∧ Port.up x = true ∧ but ≠ some p then
      ∀ q : Partner, x.partner = some q →
        let w : TransitPacket := { source := s.moduleNumber, destination := q.module, level1 := false, kind := k }
        if x.replay.length < 2048 ∧ Port.credit x 0 (Claims.directClass x 0) = true then
          ∃ r, Claims.flitQueued x (State.port t p) 0 (Claims.directClass x 0) w r ∧
            .link p (.flit { seq := x.txNext, vc := 0, cred := Claims.directClass x 0, payload := [w], control := none } r x.silenced) ∈ t.out
        else State.port t p = { x with queued := [{ packet := w, classes := [0, 1], hop := .direct, arrived := none }] }
    else State.port t p = x

/-- Nothing of this module waits for module `n`: no request is outstanding to it or to another failed one, no window query, and no collective
group has it as a member. -/
def Claims.owedNothing (s : State) (n : Nat) : Prop :=
  (∀ r, ∀ e ∈ (State.region s r).txns, NMap.find s.fabric.failed e.2.packet.destination = none ∧ e.2.packet.destination ≠ n) ∧
    (∀ q ∈ s.fabric.queries, q.server ≠ n) ∧ ∀ g ∈ s.groups, n ∉ g.2.members

/-- The module has learned that `n` has failed (R393, R394): it is marked with its incarnation, forwarded, out of the time service, and alarmed. -/
def Claims.failureKnown (s t : State) (n incarnation : Nat) (but : Option Nat) : Prop :=
  NMap.find t.fabric.failed n = some incarnation ∧ (∀ m, m ≠ n → NMap.find t.fabric.failed m = NMap.find s.fabric.failed m) ∧
    NMap.find t.fabric.known n = some incarnation ∧ NMap.find t.time.neighbours n = none ∧ Claims.floods s t (.peerDown n incarnation) but ∧
    Claims.alarmed s t 0xA1 0 0 n

/-- R391 to R396: silent neighbours, links that go down, PEER_DOWN and PEER_UP. -/
def Claims.liveness : Prop :=
  (∀ (s : State) (n : Nat), (∃ p, Claims.linkTo s p n) → (∀ p, Claims.linkTo s p n → (State.port s p).lastRx + 750000 ≤ s.timebase) →
    NMap.find s.fabric.probes n = none →
    let u : State := { s with fabric := { s.fabric with probes := NMap.insert s.fabric.probes n false } }
    (∀ e, Claims.detourPort s n e → Claims.room s e → Claims.idlePort (State.port s e) → Port.credit (State.port s e) 0 2 = true →
      ∃ t, exec (.linkSilenceProbe n) s = .next t ∧ Claims.counted s t .routeDetour 0 0 1 ∧
        Claims.leaves u t e 0 2 { source := s.moduleNumber, destination := n, level1 := true, kind := .peerProbe s.moduleNumber }) ∧
    ((∀ q m, m ≠ n → ¬ Claims.linkTo s q m) → exec (.linkSilenceProbe n) s = .next u)) ∧
  (∀ (s : State) (n e : Nat), n ≠ s.moduleNumber → Claims.escapePort s n e → Claims.idlePort (State.port s e) → Claims.room s e →
    let x := State.port s e
    Port.credit x 0 (Claims.directClass x 0) = true →
    ∃ t, exec (.peerProbe n) s = .next t ∧ t.tel = s.tel ∧
      Claims.leaves s t e 0 (Claims.directClass x 0) { source := s.moduleNumber, destination := n, level1 := false, kind := .peerAck s.moduleNumber }) ∧
  (∀ (s : State) (n : Nat), (NMap.find s.fabric.probes n).isSome = true →
    exec (.peerAck n) s = .next { s with fabric := { s.fabric with probes := NMap.insert s.fabric.probes n true } }) ∧
  (∀ (s : State) (p : Nat), let x := State.port s p
    p < 40 → Port.up x = true → x.replay = [] → x.queued = [] → Claims.noArrivals s p →
    (∀ c : DownCause, c ∉ [.silence, .bringUpFailure, .recoveryTimeout] →
      ∃ t, exec (.linkDown p c) s = .next t ∧ t = { s with ports := t.ports, tel := t.tel, time := t.time } ∧
        Claims.portDown s t p (if c = .disabled ∨ c = .regionFenced then .disabled else .detect) ∧ (State.port t p).failures = x.failures ∧
        (State.port t p).wanted = x.wanted ∧ Claims.counted s t .linkDowns 0 p 1) ∧
    (∀ c : DownCause, c ∈ [.bringUpFailure, .recoveryTimeout] →
      ∃ t, exec (.linkDown p c) s = .next t ∧ t = { s with ports := t.ports, tel := t.tel, time := t.time } ∧
        Claims.portDown s t p (if 3 ≤ x.failures + 1 then .held else .detect) ∧ (State.port t p).failures = x.failures + 1 ∧
        (State.port t p).wanted = x.wanted ∧ Claims.counted s t .bringupFails 0 p 1 ∧ Claims.counted s t .linkDowns 0 p 1 ∧
        (3 ≤ x.failures + 1 → Claims.alarmed s t 0x84 9 p 0)) ∧
    ∀ q : Partner, x.partner = some q → x.lastRx + 1000000 ≤ s.timebase →
      (((∃ j, j < 40 ∧ j ≠ p ∧ Port.up (State.port s j) = true ∧ (State.port s j).partner.map (·.module) = some q.module) ∨
          NMap.find s.fabric.probes q.module = some true) →
        ∃ t, exec (.linkDown p .silence) s = .next t ∧
          t = { s with ports := t.ports, tel := t.tel, time := t.time, fabric := { s.fabric with probes := t.fabric.probes } } ∧
          Claims.portDown s t p .detect ∧ Claims.counted s t .linkDowns 0 p 1) ∧
      ((∀ j, j < 40 → j ≠ p → Port.up (State.port s j) = true → (State.port s j).partner.map (·.module) ≠ some q.module) →
        NMap.find s.fabric.probes q.module ≠ some true → NMap.find s.fabric.failed q.module = none → Claims.owedNothing s q.module → Claims.noneWait s →
        ∃ t down, exec (.linkDown p .silence) s = .next t ∧ Claims.portDown s down p .detect ∧ down = { s with ports := down.ports } ∧
          t = { s with
            ports := t.ports, tel := t.tel, time := t.time, out := t.out
            fabric := { s.fabric with failed := t.fabric.failed, known := t.fabric.known, probes := NMap.erase s.fabric.probes q.module } } ∧
          Claims.failureKnown down t q.module (NMap.get s.fabric.known 0 q.module) none ∧ Claims.counted s t .linkDowns 0 p 1 ∧
          Claims.counted s t .peerDeclared 0 0 1)) ∧
  (∀ (s : State) (p n i : Nat), n ≠ s.moduleNumber →
    (NMap.get s.fabric.known 0 n ≤ i → NMap.find s.fabric.failed n = none → Claims.owedNothing s n → Claims.noneWait s →
      ∃ t, exec (.peerDown p n i) s = .next t ∧ Claims.failureKnown s t n i (some p) ∧
        t = { s with ports := t.ports, tel := t.tel, time := t.time, out := t.out
                     fabric := { s.fabric with failed := t.fabric.failed, known := t.fabric.known } }) ∧
    (i < NMap.get s.fabric.known 0 n ∨ (NMap.find s.fabric.failed n).isSome = true → exec (.peerDown p n i) s = .next s)) ∧
  (∀ (s : State) (p : Nat), s.joined = true → (∀ q, q < 40 → (State.port s q).replay = []) → Claims.noneWait s →
    ∃ t, exec (.peerDown p s.moduleNumber s.nv.incarnation) s = .next t ∧ t.joined = false ∧ t.time.synced = false ∧
      t = { s with ports := t.ports, tel := t.tel, time := t.time, joined := false, fabric := { s.fabric with firstIdentity := none } } ∧
      Claims.alarmed s t 0xA4 0 0 0 ∧
      ∀ q, q < 40 → let x := State.port s q
        if Port.up x = true ∨ x.state = .join then
          (State.port t q).state = .detect ∧ (State.port t q).partner = none ∧ (State.port t q).failures = x.failures
        else State.port t q = x) ∧
  ∀ (s : State) (p n i : Nat), n ≠ s.moduleNumber → (∀ k, NMap.find s.fabric.known n = some k → k < i) → Claims.noneWait s →
    ∃ t, exec (.peerUp p n i) s = .next t ∧ Claims.floods s t (.peerUp n i) (some p) ∧
      t = { s with ports := t.ports, out := t.out
                   fabric := { s.fabric with failed := NMap.erase s.fabric.failed n, known := NMap.insert s.fabric.known n i } }

/-- R16, R18, R24, R47 to R50, R383 to R386, R389 to R396: routing, the package network, the time service and liveness. -/
def Obligations.RoutingTimeAndPeers : Prop := Claims.packetsRoute ∧ Claims.packageHops ∧ Claims.timeService ∧ Claims.liveness

/-! ### Collectives -/

/-- From `s` to `t` collective group `gid` becomes `g`, and every other group is as it was. -/
def Claims.groupNow (s t : State) (gid : Nat) (g : CollGroup) : Prop :=
  NMap.find t.groups gid = some g ∧ ∀ j, j ≠ gid → NMap.find t.groups j = NMap.find s.groups j

/-- The group's engine may use fabric-virtual address `ea` as `want`: the page is in its region window cache, of the group's job, permitted and
homed here, and physical address `pa` is populated at a served region (R404). -/
def Claims.collAt (s : State) (g : CollGroup) (want : Want) (ea pa : Nat) : Prop :=
  ea < 2 ^ 53 ∧ (homeOf (State.ilv s) pa).2.2 = true ∧ State.regionServes s (homeOf (State.ilv s) pa).1 = true ∧
    ∃ t, Region.translation (State.region s (regionOf g.anchor)) (ea / 2 ^ 21) = some t ∧ t.home = s.moduleNumber ∧ permission t g.tag want = none ∧
      pa = (t.home * 2 ^ 43 + t.ppn * 2 ^ 21 + ea % 2 ^ 21) % 2 ^ 43

/-- The 32-bit element at a physical address, and its sector's mark. -/
def Claims.elementAt (s : State) (pa : Nat) : Word :=
  BitVec.ofNat 32 (ofBytes (tabulate 4 (fun j => let h := homeOf (State.ilv s) (pa + j); State.byteAt s h.1 h.2.1)))
def Claims.markAt (s : State) (pa : Nat) : Bool := let h := homeOf (State.ilv s) pa; State.sectorPoisoned s h.1 h.2.1

/-- L of R405; the segments of a chunk; the key of a segment. -/
def Claims.chunkLen (count p : Nat) : Nat := 64 * ((count + 64 * p - 1) / (64 * p))
def Claims.segments (count p c : Nat) : Nat :=
  (min ((c + 1) * Claims.chunkLen count p) count - min (c * Claims.chunkLen count p) count + 1023) / 1024
def Claims.segKey (c k : Nat) : Nat := c * 2 ^ 22 + k

/-- R404, R407, R408, R415: a collective leaves its group's queue. For a ring reduce-scatter (ALG 0) the sends and arrivals are those of R408, the
member's elements are read, and receive halves are granted in order, one a buffer. -/
def Claims.collectivesStart : Prop :=
  (∀ (s : State) (gid m : Nat) (g : CollGroup) (o : CollOp) (rest : List CollOp),
    NMap.find s.groups gid = some g → g.run = none → g.queue = o :: rest → g.lost = some m → State.regionServes s (regionOf g.anchor) = true →
    ∃ t r, exec (.collectiveStart gid) s = .next t ∧ t = { s with groups := t.groups } ∧
      Claims.groupNow s t gid { g with run := some r, queue := rest } ∧ r.op = o ∧ r.ending = some (2, m)) ∧
  (∀ (s : State) (gid : Nat) (g : CollGroup) (o : CollOp) (rest : List CollOp), let d := collDesc o.desc.toNat
    NMap.find s.groups gid = some g → g.run = none → g.queue = o :: rest → g.lost = none → State.regionServes s (regionOf g.anchor) = true →
    d.opn ≤ 1 → 0 < d.count → d.src < 2 ^ 53 → Region.translation (State.region s (regionOf g.anchor)) (d.src / 2 ^ 21) = none →
    (∀ k e, NMap.find s.fabric.table k = some e → (windowEntry e).vpn ≠ d.src / 2 ^ 21 ∧ (windowEntry e).vpn ≠ d.src / 2 ^ 21 / 512 * 512) →
    ∃ t r, exec (.collectiveStart gid) s = .next t ∧ t = { s with groups := t.groups } ∧
      Claims.groupNow s t gid { g with run := some r, queue := rest } ∧ r.op = o ∧ r.ending = some (5, s.moduleNumber)) ∧
  ∀ (s : State) (gid : Nat) (g : CollGroup) (o : CollOp) (rest : List CollOp), let d := collDesc o.desc.toNat
    let p := g.members.length
    let l := Claims.chunkLen d.count p
    NMap.find s.groups gid = some g → g.run = none → g.queue = o :: rest → g.lost = none → State.regionServes s (regionOf g.anchor) = true →
    d.opn = 1 → d.alg = 0 → o.recipe = false → d.wblk = false → 2 ≤ p → g.pos < p → 0 < d.count → g.grants = [] → d.src % 256 = 0 → d.dst % 256 = 0 →
    (∀ fa, State.unsettledGlobal s fa = false) → (∀ e, e < d.count → ∃ pa, Claims.collAt s g .read (d.src + 4 * e) pa ∧ Claims.lineThere s pa) →
    (∀ e, g.pos * l ≤ e → e < min ((g.pos + 1) * l) d.count → ∃ pa, Claims.collAt s g .write (d.dst + 4 * (e - g.pos * l)) pa) →
    ∃ t r, exec (.collectiveStart gid) s = .next t ∧
      t = { s with groups := t.groups, regions := t.regions, tel := t.tel
                   out := s.out ++ (r.receives.take g.bufs).map (fun _ => .fabric (g.members.getD ((g.pos + p - 1) % p) 0) (.segGrant gid)) } ∧
      (∀ k, ∃ ca, State.region t k = { State.region s k with cache := ca }) ∧
      Claims.groupNow s t gid { g with run := some r, queue := rest } ∧
      r.op = o ∧ r.started = true ∧ r.ending = none ∧ r.waiting = [] ∧ r.written = [] ∧ r.issued = min r.receives.length g.bufs ∧
      r.sends = (List.range (p - 1)).flatMap (fun i => let c := (g.pos + 2 * p - i - 1) % p
        (List.range (Claims.segments d.count p c)).map (fun k =>
          { dest := (g.pos + 1) % p, chunk := c, segment := k, needs := if i = 0 then 0 else 1, final := false, done := false })) ∧
      r.receives = (List.range (p - 1)).flatMap (fun i => let c := (g.pos + 2 * p - i - 2) % p
        (List.range (Claims.segments d.count p c)).map (fun k =>
          { source := (g.pos + p - 1) % p, chunk := c, segment := k, add := true, done := false })) ∧
      ∀ c k, c < p → k < Claims.segments d.count p c → ∃ v, NMap.find r.values (Claims.segKey c k) = some v ∧ v.got = 0 ∧ v.blocks = false ∧
        ∀ i pa, i < 1024 → c * l + 1024 * k + i < min ((c + 1) * l) d.count → Claims.collAt s g .read (d.src + 4 * (c * l + 1024 * k + i)) pa →
          v.elements.getD i 0 = Claims.elementAt s pa ∧ v.poisoned.getD i false = Claims.markAt s pa

/-- Arrival `y`, in `receives` after `pre`, is the first one still expected that segment `m` can be, and it holds a granted half (R407). -/
def Claims.expected (r : CollRun) (m : SegmentMessage) (pre post : List SegmentReceive) (y : SegmentReceive) : Prop :=
  r.receives = pre ++ y :: post ∧ pre.length < r.issued ∧ y.done = false ∧ y.source = m.source ∧ y.chunk = m.chunk ∧ y.segment = m.segment ∧
    y.add = (!m.final) ∧ ∀ z ∈ pre, ¬ (z.done = false ∧ z.source = m.source ∧ z.chunk = m.chunk ∧ z.segment = m.segment ∧ z.add = !m.final)

/-- Only this group, the region caches, memory and the stacks' errors and commands, the counters and what has been sent differ, and the bytes that copies
under way leave open (R185). -/
def Claims.groupMoves (s t : State) (gid : Nat) : Prop :=
  t = { s with
    groups := t.groups, regions := t.regions, mem := t.mem, codeWrites := t.codeWrites, memPoison := t.memPoison, banks := t.banks, stackQueue := t.stackQueue
    nextId := t.nextId, tel := t.tel, out := t.out, cells := t.cells } ∧
    (∀ c, State.cell t c = { State.cell s c with copies := (State.cell t c).copies }) ∧
    (∀ k, ∃ ca, State.region t k = { State.region s k with cache := ca }) ∧ (∀ j, j ≠ gid → NMap.find t.groups j = NMap.find s.groups j)

/-- R407, R417: grants, segments, and the additions of the collective port. -/
def Claims.segmentsMove : Prop :=
  (∀ (s : State) (gid source : Nat) (g : CollGroup), NMap.find s.groups gid = some g →
    (g.run = none → ∃ t gr, exec (.segGrant gid source) s = .next t ∧ t = { s with groups := t.groups } ∧
      Claims.groupNow s t gid { g with grants := gr } ∧ NMap.get gr 0 source = NMap.get g.grants 0 source + 1 ∧
      ∀ j, j ≠ source → NMap.get gr 0 j = NMap.get g.grants 0 j) ∧
    ∀ (r : CollRun) (x : SegmentSend) (v : SegmentValue), g.run = some r → r.started = true → r.ending = none → r.sends = [x] → x.done = false → g.touched = false →
      x.dest = source → NMap.get g.grants 0 source = 0 → NMap.find r.values (Claims.segKey x.chunk x.segment) = some v → x.needs ≤ v.got →
      ((collDesc r.op.desc.toNat).wblk = false ∨ r.op.recipe = true) → r.receives.length ≤ r.issued →
      (∀ k v, NMap.find r.values k = some v → k ∈ r.written) →
      ∃ t gr va, exec (.segGrant gid source) s = .next t ∧
        t = { s with groups := t.groups, out := s.out ++ [.fabric (g.members.getD source 0) (.segment
          { group := gid, source := g.pos, tag := r.op.job, epoch := r.op.epoch, chunk := x.chunk, segment := x.segment, final := x.final, recipe := r.op.recipe
            elements := v.elements, poisoned := v.poisoned, headers := v.headers })] } ∧
        Claims.groupNow s t gid { g with grants := gr, run := some { r with sends := [{ x with done := true }], values := va } } ∧
        NMap.get gr 0 source = 0 ∧ ∀ k, NMap.find va k = NMap.find r.values k) ∧
  (∀ (s : State) (m : SegmentMessage) (g : CollGroup), NMap.find s.groups m.group = some g → g.run = none →
    2 ^ 15 ≤ (m.epoch - (State.job s m.tag).epoch.getD 0).toNat →
    ∃ t, exec (.collectiveSegment m) s = .next t ∧ t = { s with tel := t.tel, out := s.out ++ [.fabric (g.members.getD m.source 0) (.segGrant m.group)] } ∧
      Claims.counted s t .colEpochDrop 0 (regionOf g.anchor) 1) ∧
  (∀ (s : State) (m : SegmentMessage) (g : CollGroup) (r : CollRun) (pre post : List SegmentReceive) (y : SegmentReceive),
    NMap.find s.groups m.group = some g → g.run = some r → r.started = true → r.ending = none → State.regionServes s (regionOf g.anchor) = true →
    (m.epoch - (State.job s m.tag).epoch.getD 0).toNat < 2 ^ 15 → Claims.expected r m pre post y →
    (m.final = false → m ∉ r.waiting → ∃ t, exec (.collectiveSegment m) s = .next t ∧ t = { s with groups := t.groups, tel := t.tel, cells := t.cells } ∧
      (∀ c, c ≠ g.anchor → State.cell t c = State.cell s c) ∧
      (let x := State.cell s g.anchor
       State.cell t g.anchor = { x with port := (State.cell t g.anchor).port } ∧ x.port <+: (State.cell t g.anchor).port ∧
         (4 ≤ x.port.length → (State.cell t g.anchor).port = x.port) ∧
         (x.port = [] → r.waiting = [] → (∀ e ∈ s.groups, e.2.anchor = g.anchor → e.1 = m.group) → (State.cell t g.anchor).port = [m.group])) ∧
      Claims.groupNow s t m.group { g with run := some { r with lastRx := s.timebase, waiting := r.waiting ++ [m] } } ∧
      Claims.counted s t .colSegments 0 (regionOf g.anchor) 1) ∧
    (m.final = true → g.touched = false → ((collDesc r.op.desc.toNat).wblk = false ∨ r.op.recipe = true) →
      let d := collDesc r.op.desc.toNat
      let key := Claims.segKey m.chunk m.segment
      let l := Claims.chunkLen d.count g.members.length
      let v : SegmentValue := { elements := m.elements, poisoned := m.poisoned, headers := m.headers, blocks := false
                                got := (NMap.get r.values default key).got + 1 }
      ∃ t r' gr, exec (.collectiveSegment m) s = .next t ∧ Claims.groupMoves s t m.group ∧
        NMap.find t.groups m.group = some { g with run := some r', grants := gr } ∧ r'.receives = pre ++ { y with done := true } :: post ∧
        r'.op = r.op ∧ r'.lastRx = s.timebase ∧ NMap.find r'.values key = some v ∧ (∀ j, j ≠ key → NMap.find r'.values j = NMap.find r.values j) ∧
        Claims.counted s t .colSegments 0 (regionOf g.anchor) 1 ∧
        (d.opn = 2 → m.chunk < g.members.length → m.segment < Claims.segments d.count g.members.length m.chunk → key ∉ r.written →
          (r.receives.filter (fun z => decide (z.chunk = m.chunk ∧ z.segment = m.segment))).length ≤ v.got →
          (∀ j w, j ≠ key → NMap.find r.values j = some w → j ∈ r.written) → d.dst % 256 = 0 → (∀ b ∈ m.poisoned, b = false) →
          (d.dst + 4 * (m.chunk * l + 1024 * m.segment)) / 2 ^ 21 = (d.dst + 4 * (m.chunk * l + 1024 * m.segment) + 4095) / 2 ^ 21 →
          m.elements.length ≤ 1024 →
          key ∈ r'.written ∧
          ∀ i pa, i < m.elements.length → (∀ j, j < m.elements.length → ∃ pa, Claims.collAt s g .write (d.dst + 4 * (m.chunk * l + 1024 * m.segment + j)) pa) →
            Claims.collAt s g .write (d.dst + 4 * (m.chunk * l + 1024 * m.segment + i)) pa → Claims.elementAt t pa = m.elements.getD i 0))) ∧
  ∀ (s : State) (cell gid : Nat) (left : List Nat) (residue : Bool) (g : CollGroup) (r : CollRun) (m : SegmentMessage) (rest : List SegmentMessage),
    let d := collDesc r.op.desc.toNat
    let x := State.cell s cell
    let v := NMap.get r.values default (Claims.segKey m.chunk m.segment)
    x.port = gid :: left → (x.portTurn = true ∨ ∀ e ∈ x.chain, e.2.begun = true) → (∀ e ∈ x.chain, e.2.begun = true →
      ∀ q ∈ (ChainOp.plan e.2).outputs, q.1 + q.2 ≤ g.stage ∨ g.stage + 8192 * g.bufs ≤ q.1) →
    NMap.find s.groups gid = some g → g.anchor = cell → g.run = some r → r.ending = none → r.started = true → r.waiting = m :: rest → g.touched = false →
    State.cellRuns s cell = true → (d.wblk = false ∨ r.op.recipe = true) →
    ∃ t r' v' gr, exec (.collectivePortMap cell residue) s = .next t ∧
      t = { s with
        groups := t.groups, regions := t.regions, mem := t.mem, codeWrites := t.codeWrites, memPoison := t.memPoison, banks := t.banks, stackQueue := t.stackQueue
        nextId := t.nextId, tel := t.tel, out := t.out, cells := t.cells } ∧
      (∀ c, c ≠ cell → State.cell t c = { State.cell s c with copies := (State.cell t c).copies }) ∧
      (let y := State.cell t cell
       y = { x with
         port := y.port, portTurn := false, copies := y.copies, residueErrors := if residue then y.residueErrors else x.residueErrors
         retiring := if residue then y.retiring else x.retiring }) ∧ left <+: (State.cell t cell).port ∧
      (∀ j, j ≠ gid → NMap.find t.groups j = NMap.find s.groups j) ∧
      NMap.find t.groups gid = some { g with run := some r', grants := gr } ∧ r'.waiting = rest ∧
      NMap.find r'.values (Claims.segKey m.chunk m.segment) = some v' ∧ v'.got = v.got + 1 ∧ v'.elements.length = v.elements.length ∧
      Claims.counted s t .chainColl 0 cell 1 ∧ (residue = true → Claims.counted s t .chainHwErr 0 cell 1) ∧
      ∀ i, i < v.elements.length → i < m.elements.length →
        let a := m.elements.getD i 0
        let b := v.elements.getD i 0
        let bad := residue || m.poisoned.getD i false || v.poisoned.getD i false
        v'.poisoned.getD i false = bad ∧
        (bad = false → v'.elements.getD i 0 =
          if d.fmt = fI32 then BitVec.ofInt 32 (max (-(2 ^ 31)) (min (2 ^ 31 - 1) (a.toInt + b.toInt)))
          else BitVec.ofNat 32 (fAdd .rne a.toNat b.toNat))

/-- R406, R412, R413, R415, R416: a collective completes, or is ended. -/
def Claims.collectivesEnd : Prop :=
  (∀ (s : State) (gid : Nat) (g : CollGroup) (r : CollRun), let d := collDesc r.op.desc.toNat
    let poisoned := r.poisonSeen || decide (0 < r.poisonCount)
    NMap.find s.groups gid = some g → g.run = some r → d.result + 16 ≤ 2 ^ 19 → Claims.offStage s g.anchor [(d.result, 16)] →
    ((r.ending = none ∧ r.started = true ∧ (∀ x ∈ r.sends, x.done = true) ∧ (∀ x ∈ r.receives, x.done = true)) ∨ r.ending.isSome = true) →
    let status := match r.ending with
      | some e => e.1
      | none => if poisoned then 1 else 0
    let cause := match r.ending with
      | some e => e.2
      | none => 0
    status < 256 →
    ∃ t, exec (.collectiveComplete gid) s = .next t ∧
      t = { s with
        cells := t.cells, groups := t.groups, regions := t.regions, mem := t.mem, codeWrites := t.codeWrites, memPoison := t.memPoison, banks := t.banks
        stackQueue := t.stackQueue, nextId := t.nextId, scale := t.scale, tel := t.tel
        out := s.out ++ (if 3 ≤ status ∧ cause = s.moduleNumber then
          (g.members.filter (fun m => decide (m ≠ s.moduleNumber))).map (fun m => .fabric m (.colAbort gid)) else []) } ∧
      (∀ k, ∃ ca, State.region t k = { State.region s k with cache := ca }) ∧ (status < 2 → t.mem = s.mem ∧ t.memPoison = s.memPoison ∧ t.banks = s.banks ∧ t.stackQueue = s.stackQueue ∧ t.nextId = s.nextId) ∧
      Claims.groupNow s t gid { g with run := none, grants := if 2 ≤ status then [] else g.grants } ∧
      (∀ c, c ≠ g.anchor → c ≠ r.op.cell → State.cell t c = { State.cell s c with copies := (State.cell t c).copies } ∧
        (status < 2 → (State.cell t c).copies = (State.cell s c).copies)) ∧
      Cell.localNat (State.cell t g.anchor) d.result 16 = min r.poisonCount (2 ^ 32 - 1) * 2 ^ 96 + min r.rescales (2 ^ 32 - 1) * 2 ^ 64 +
        cause % 2 ^ 14 * 2 ^ 50 + min r.maxRaise 8 * 2 ^ 40 + (if r.op.recipe then 2 ^ 33 else 0) + (if r.subst then 2 ^ 32 else 0) + status ∧
      (∀ a, a < 2 ^ 19 → a < d.result ∨ d.result + 16 ≤ a → Cell.localByte (State.cell t g.anchor) a = Cell.localByte (State.cell s g.anchor) a) ∧
      (State.cell t r.op.cell).colls = (State.cell s r.op.cell).colls - 1 ∧
      (∀ k, (Cell.arrival (State.cell t r.op.cell) k).value =
        (Cell.arrival (State.cell s r.op.cell) k).value + (if r.op.counter = some k then 1 else 0)) ∧
      Claims.counted s t .colDone 0 (regionOf g.anchor) 1 ∧ (2 ≤ status → Claims.counted s t .colFailed 0 (regionOf g.anchor) 1) ∧
      (let raise := if r.poisonSeen then 8 else r.maxRaise
       t.scale = if d.wblk = true ∧ r.op.recipe = false ∧ status < 2 ∧ 1 ≤ raise then
         { s.scale with rescales := s.scale.rescales ++ [(d.slot, r.op.step, raise, r.poisonSeen)] } else s.scale)) ∧
  (∀ (s : State) (gid source : Nat) (g : CollGroup) (r : CollRun), NMap.find s.groups gid = some g → g.run = some r → r.ending = none →
    ∃ t, exec (.colAbort gid source) s = .next t ∧ t = { s with groups := t.groups } ∧
      Claims.groupNow s t gid { g with run := some { r with ending := some (4, g.members.getD source 0) } }) ∧
  (∀ (s : State) (gid : Nat) (g : CollGroup) (r : CollRun), NMap.find s.groups gid = some g → g.run = some r → r.ending = none → r.started = true →
    r.waiting.length < ((r.receives.take r.issued).filter (fun x => !x.done)).length → r.lastRx + s.fabric.rspTimeoutMs * 1000000 ≤ s.timebase →
    ∃ t, exec (.segmentTimeout gid) s = .next t ∧ t = { s with groups := t.groups } ∧
      Claims.groupNow s t gid { g with run := some { r with ending := some (3, s.moduleNumber) } }) ∧
  ∀ (s : State) (m : SetupMessage),
    (NMap.find s.groups m.group = none → exec (.setup m) s = .next { s with fabric := { s.fabric with early := s.fabric.early ++ [m] } }) ∧
    ∀ g, NMap.find s.groups m.group = some g → (∀ mb k, (State.mailbox s mb).running = some k → k.code ≠ 0x0500) →
      ∃ t, exec (.setup m) s = .next t ∧ t = { s with groups := t.groups } ∧
        Claims.groupNow s t m.group (if m.tag = g.tag ∧ m.members = g.members.length ∧ m.receiverPos = g.pos ∧
          g.members.getD m.senderPos 0 = m.sender ∧ m.senderPos ∉ g.confirmed then { g with confirmed := g.confirmed ++ [m.senderPos] } else g)

/-- R399, R404 to R417: the life of a collective on one member. -/
def Obligations.CollectivesRun : Prop := Claims.collectivesStart ∧ Claims.segmentsMove ∧ Claims.collectivesEnd

/-- R400: a store of a group into a staging area, and what the collectives of that area then send. -/
def Obligations.StagingAccess : Prop :=
  (∀ (s : State) (g : GroupLoc) (f : MemForm) (grp : Group) (gid l : Nat) (q : CollGroup),
    Claims.memIssues s 0x61 .store g f grp → Claims.localAllowed s g f false grp → Claims.unheld s g f false grp → Claims.settled s g.cell →
    NMap.find s.groups gid = some q → q.anchor = g.cell → l ∈ Claims.lanes grp f → q.stage ≤ effective f false grp l →
    effective f false grp l < q.stage + 8192 * q.bufs →
    ∃ t, exec (.st g f) s = .next t ∧ t = { s with cells := t.cells, groups := t.groups, tel := t.tel, freeCount := t.freeCount } ∧
      NMap.find t.groups gid = some { q with touched := true } ∧
      ∀ j w, NMap.find s.groups j = some w → w.anchor ≠ g.cell → NMap.find t.groups j = some w) ∧
  ∀ (s : State) (gid source : Nat) (g : CollGroup) (r : CollRun) (x : SegmentSend) (v : SegmentValue),
    NMap.find s.groups gid = some g → g.touched = true → g.run = some r → r.started = true → r.ending = none → r.sends = [x] → x.done = false →
    x.dest = source → NMap.get g.grants 0 source = 0 → NMap.find r.values (Claims.segKey x.chunk x.segment) = some v → x.needs ≤ v.got →
    v.blocks = false → v.headers = [] → ((collDesc r.op.desc.toNat).wblk = false ∨ r.op.recipe = true) → r.receives.length ≤ r.issued →
    (∀ k v, NMap.find r.values k = some v → k ∈ r.written) →
    let n := v.elements.length
    ∃ t, exec (.segGrant gid source) s = .next t ∧
      t = { s with groups := t.groups, freeCount := s.freeCount + 2 * n, out := s.out ++ [.fabric (g.members.getD source 0) (.segment
        { group := gid, source := g.pos, tag := r.op.job, epoch := r.op.epoch, chunk := x.chunk, segment := x.segment, final := x.final, recipe := r.op.recipe
          elements := (List.range n).map (fun i => Config.freeWord (s.freeCount + i))
          poisoned := (List.range n).map (fun i => Config.freeBit (s.freeCount + n + i)), headers := [] })] } ∧
      ∀ j, j ≠ gid → NMap.find t.groups j = NMap.find s.groups j

/-! ### Links: flits, lanes and recovery -/

/-- Port `x` has become `y` at `now` by taking the ACK and the credit report of a good flit (R440, R442, R445). -/
def Claims.reported (x : Port) (f : Flit) (now : Nat) (y : Port) : Prop :=
  y = { x with lastRx := now, total := y.total
               replay := x.replay.filter (fun e => decide (2048 ≤ (f.ack.toNat + 4096 - e.seq % 4096) % 4096)) } ∧
    NMap.get y.total 0 (4 * f.crVc + f.crCls) = f.crTotal.toNat ∧ ∀ j, j ≠ 4 * f.crVc + f.crCls → NMap.get y.total 0 j = NMap.get x.total 0 j

/-- Port `p` becomes `y` and sends the flits `ms`, its neighbour is no longer probed (R392), and besides only the counters may differ. -/
def Claims.portHears (s t : State) (p : Nat) (y : Port) (ms : List (FlitReport → Bool → LinkMessage)) : Prop :=
  ∃ outs, Claims.sends p y (State.port t p) ms outs ∧ (∀ q, q ≠ p → State.port t q = State.port s q) ∧
    t = { s with ports := t.ports, tel := t.tel, out := s.out ++ outs, fabric := { s.fabric with
      probes := match (State.port s p).partner with
        | some q => NMap.erase s.fabric.probes q.module
        | none => s.fabric.probes } }

/-- Port `p` becomes `y` and sends the flits `ms`, and besides only the counters may differ. -/
def Claims.portBecomes (s t : State) (p : Nat) (y : Port) (ms : List (FlitReport → Bool → LinkMessage)) : Prop :=
  ∃ outs, Claims.sends p y (State.port t p) ms outs ∧ (∀ q, q ≠ p → State.port t q = State.port s q) ∧ t = { s with ports := t.ports, tel := t.tel, out := s.out ++ outs }

def Claims.flitCommand (i : Nat → Flit → Instr) : Prop := i = .dataFlit ∨ i = .controlFlit ∨ i = .idleFlit ∨ i = .nak

/-- The sequenced CONTROL flit port `x` sends next. -/
def Claims.controlFlit (x : Port) (m : ControlMessage) : SentFlit := { seq := x.txNext, vc := 0, cred := 0, payload := [], control := some m }

/-- Port `x` begins, at `now`, the recovery of a direction, the first under way (R450). -/
def Claims.recoveryBegun (x : Port) (now : Nat) (transmit : Bool) : Port :=
  { x with
    state := .recovery, since := now, recovering := [transmit], sparing := none, txNext := if transmit then x.txNext else (x.txNext + 1) % 4096
    replay := if transmit then x.replay else x.replay ++ [Claims.controlFlit x .recovery] }
def Claims.recoverySent (x : Port) (transmit : Bool) : List (FlitReport → Bool → LinkMessage) :=
  if transmit then [] else [.flit (Claims.controlFlit x .recovery)]

/-- R439 to R445: flits as they arrive, and NAKs. -/
def Claims.flitsArrive : Prop :=
  (∀ (s : State) (p : Nat) (f : Flit), let x := State.port s p
    (x.state = .live ∨ x.state = .recovery) → f.good = true → f.reservedSet = false → Claims.idlePort x →
    (f.seq.toNat = (x.rxLast + 1) % 4096 →
      (let away := (f.payload.filter (fun q => decide (q.destination ≠ s.moduleNumber))).length
       0 < away → ∃ t y, exec (.dataFlit p f) s = .next t ∧ Claims.reported x f s.timebase y ∧ t.tel = s.tel ∧
        Claims.portHears s t p { y with
          rxLast := f.seq.toNat, naks := 0, nakAt := none
          inbound := x.inbound ++ [{ seq := f.seq.toNat, pair := 4 * f.vc + f.cred, left := away }] } []) ∧
      ((∀ q ∈ f.payload, q.destination = s.moduleNumber) → ∃ t y r, exec (.dataFlit p f) s = .next t ∧ Claims.reported x f s.timebase y ∧ t.tel = s.tel ∧
        Claims.portHears s t p { y with
          rxLast := f.seq.toNat, naks := 0, nakAt := none, returned := r
          due := if 4 * f.vc + f.cred ∈ x.due.map (·.1) then x.due else x.due ++ [(4 * f.vc + f.cred, 0)] } [] ∧
        NMap.get r 0 (4 * f.vc + f.cred) = (NMap.get x.returned 0 (4 * f.vc + f.cred) + 1) % 4096 ∧
        ∀ j, j ≠ 4 * f.vc + f.cred → NMap.get r 0 j = NMap.get x.returned 0 j) ∧
      ∃ t y, exec (.controlFlit p f) s = .next t ∧ Claims.reported x f s.timebase y ∧ t.tel = s.tel ∧
        Claims.portHears s t p { y with
          rxLast := f.seq.toNat, naks := 0, nakAt := none
          partner := match f.control with
            | some c => x.partner.map (fun q => { q with joined := c.1, ahead := (c.2 : Int) - s.timebase })
            | none => x.partner } []) ∧
    (f.seq.toNat ≠ (x.rxLast + 1) % 4096 → ∀ i ∈ [Instr.dataFlit p f, .controlFlit p f],
      (x.nakAt.isSome = true → ∃ t y, exec i s = .next t ∧ Claims.reported x f s.timebase y ∧ Claims.portHears s t p y [] ∧ t.tel = s.tel) ∧
      (x.nakAt = none → x.naks ≠ 7 → ∃ t y, exec i s = .next t ∧ Claims.reported x f s.timebase y ∧
        Claims.portHears s t p { y with naks := x.naks + 1, nakAt := some s.timebase } [.nak x.txNext] ∧ Claims.counted s t .nakSent 0 p 1) ∧
      (x.nakAt = none → x.naks = 7 → x.recovering = [] → x.replay.length < 2048 → ∃ t y, exec i s = .next t ∧ Claims.reported x f s.timebase y ∧
        Claims.portHears s t p (Claims.recoveryBegun { y with naks := 8, nakAt := some s.timebase } s.timebase false)
          (.nak x.txNext :: Claims.recoverySent y false) ∧ Claims.counted s t .nakSent 0 p 1 ∧ Claims.counted s t .recoveries 0 p 1)) ∧
    (∃ t y, exec (.idleFlit p f) s = .next t ∧ Claims.reported x f s.timebase y ∧ Claims.portHears s t p y [] ∧ t.tel = s.tel) ∧
    ∃ t y, exec (.nak p f) s = .next t ∧ Claims.reported x f s.timebase y ∧
      Claims.portHears s t p y (y.replay.map .flit) ∧
      (y.replay ≠ [] → Claims.counted s t .replayFlits 0 p y.replay.length)) ∧
  (∀ i, Claims.flitCommand i → ∀ (s : State) (p : Nat) (f : Flit), let x := State.port s p
    (x.state = .live ∨ x.state = .recovery) →
    (f.good = true → f.reservedSet = true → Claims.idlePort x →
      ∃ t y, exec (i p f) s = .next t ∧ Claims.reported x f s.timebase y ∧ Claims.portHears s t p y [] ∧ Claims.counted s t .flitBad 0 p 1) ∧
    (f.good = false → x.nakAt = none → x.naks ≠ 7 →
      ∃ t, exec (i p f) s = .next t ∧ Claims.counted s t .nakSent 0 p 1 ∧ (f.fecOk = true → Claims.counted s t .crcFail 0 p 1) ∧
        Claims.portHears s t p { x with lastRx := s.timebase, naks := x.naks + 1, nakAt := some s.timebase } [.nak x.txNext]) ∧
    (f.good = false → x.nakAt.isSome = true → ∃ t, exec (i p f) s = .next t ∧ (f.fecOk = true → Claims.counted s t .crcFail 0 p 1) ∧
      Claims.portHears s t p { x with lastRx := s.timebase } []) ∧
    (f.good = false → x.nakAt = none → x.naks = 7 → x.recovering = [] → x.replay.length < 2048 →
      ∃ t, exec (i p f) s = .next t ∧ Claims.counted s t .nakSent 0 p 1 ∧ Claims.counted s t .recoveries 0 p 1 ∧
        Claims.portHears s t p (Claims.recoveryBegun { x with lastRx := s.timebase, naks := 8, nakAt := some s.timebase } s.timebase false)
          (.nak x.txNext :: Claims.recoverySent x false))) ∧
  ∀ (s : State) (p : Nat) (t0 : Stamp) (q : Partner), let x := State.port s p
    (x.state = .live ∨ x.state = .recovery) → x.nakAt = some t0 → x.partner = some q → t0 + q.roundTrip + 1000 ≤ s.timebase →
    let y := { x with naks := x.naks + 1, nakAt := some s.timebase }
    (x.naks ≠ 7 → ∃ t, exec (.nakRetryExpiry p) s = .next t ∧ Claims.portBecomes s t p y [.nak x.txNext] ∧ Claims.counted s t .nakSent 0 p 1) ∧
    (x.naks = 7 → x.recovering = [] → x.replay.length < 2048 → ∃ t, exec (.nakRetryExpiry p) s = .next t ∧
      Claims.portBecomes s t p (Claims.recoveryBegun y s.timebase false) (.nak x.txNext :: Claims.recoverySent y false) ∧
      Claims.counted s t .nakSent 0 p 1 ∧ Claims.counted s t .recoveries 0 p 1)

/-- R454: a lane failure, by row `row` of Table 15.6, is logged and recorded; the third within 24 hours retires the lane, with an alarm. -/
def Claims.laneRecorded (s t : State) (p l row : Nat) : Prop :=
  let id := 9 * p + l
  let recent := (NMap.get s.nv.laneFailures [] id).filter (fun x => decide ((s.timebase : Int) < x + 86400000000000))
  (sourceRegion 10 id, { stamp := s.timebase, type := 0x0040, kind := 10, source := id, job := 0, d := [2, p, l, row] }) ∈ t.tel.logPath ∧
    t.nv = { s.nv with laneFailures := t.nv.laneFailures, retiredLanes := t.nv.retiredLanes } ∧
    NMap.find t.nv.laneFailures id = some (recent ++ [(s.timebase : Stamp)]) ∧ (∀ j, j ≠ id → NMap.find t.nv.laneFailures j = NMap.find s.nv.laneFailures j) ∧
    if 2 ≤ recent.length ∧ id ∉ s.nv.retiredLanes then t.nv.retiredLanes = s.nv.retiredLanes ++ [id] ∧ Claims.alarmed s t 0x89 10 id 0
    else t.nv.retiredLanes = s.nv.retiredLanes

/-- Corrected symbols of a lane in the last `window` nanoseconds. -/
def Claims.symbolsIn (l : List (Stamp × Nat)) (now window : Nat) : Nat :=
  ((l.filter (fun e => decide ((now : Int) < e.1 + window))).map (·.2)).foldl (· + ·) 0

/-- The sync bits of `n` blocks of a codeword, from block `first` on, spell the bits of `v`, the most significant first (R435, R436; which end comes
first is log entry 101). -/
def Claims.syncBits (c : CodewordReport) (first n v : Nat) : Prop := ∀ i, i < n → c.message.getLsbD (257 * (first + i)) = v.testBit (n - 1 - i)

/-- Lane `l` of port `p`, which stands as `x`, has failed by row `row` of Table 15.6 (R451 to R454) with lanes enough left: a mapped lane of a link that
is up asks for the standby lane, or starts recovery where there is none. -/
def Claims.laneLost (s t : State) (x : Port) (p l row : Nat) : Prop :=
  ∃ y y0 ms, Claims.laneRecorded s t p l row ∧
    y0 = { x with
      usableRx := x.usableRx &&& (511 ^^^ 2 ^ l), lanes := y0.lanes, rxStandby := if x.rxStandby = some l then none else x.rxStandby } ∧
    (Port.lane y0 l).failed = true ∧ (Port.lane y0 l).locked = false ∧ (∀ i, i ≠ l → Port.lane y0 i = Port.lane x i) ∧
    Claims.portBecomes s { t with nv := s.nv } p y ms ∧ (l ∉ x.rxMap → y = y0 ∧ ms = []) ∧
    ∀ j, (x.state = .live ∨ x.state = .recovery) → x.sparing = none → x.replay.length < 2048 → j < x.rxMap.length → x.rxMap.getD j 0 = l →
      (∀ i, i < j → x.rxMap.getD i 0 ≠ l) →
      (∀ b, x.rxStandby = some b → b ≠ l →
        y = { y0 with sparing := some j, txNext := (x.txNext + 1) % 4096, replay := x.replay ++ [Claims.controlFlit x (.spareReq j)] } ∧
        ms = [.flit (Claims.controlFlit x (.spareReq j))]) ∧
      (x.rxStandby = none → x.recovering = [] → y = Claims.recoveryBegun y0 s.timebase false ∧ ms = Claims.recoverySent x false ∧
        Claims.counted s t .recoveries 0 p 1)

/-- Receive lanes of port `x` that are left without lane `l`. -/
def Claims.lanesLeft (x : Port) (l : Nat) : Nat := ((List.range 9).filter (fun i => (x.usableRx &&& (511 ^^^ 2 ^ l)).testBit i)).length

/-- R436, R451 to R453: a good codeword, a bad one, and the fourth bad one, which fails the lane. -/
def Claims.codewords : Prop :=
  (∀ (s : State) (p l : Nat) (c : CodewordReport), let x := State.port s p
    let k := Port.lane x l
    let id := 9 * p + l
    let syms := k.symbols.filter (fun e => decide ((s.timebase : Int) < e.1 + 1000000000)) ++ (if 0 < c.symbols then [((s.timebase : Stamp), c.symbols)] else [])
    p < 40 → l < (if p % 5 = 4 then 8 else 9) → x.state ∈ [.fecLock, .deskew, .identity, .join, .live, .recovery] → x.sparing = none → k.failed = false →
    c.correctable = true → Claims.syncBits c 0 4 0b1010 → Claims.syncBits c 4 12 k.next → k.next < 4096 → k.bad ≤ 3 →
    (k.uncorr.filter (fun t => decide ((s.timebase : Int) < t + 1000000))).length < 4 → Claims.symbolsIn syms s.timebase 10000000 ≤ 42500 →
    ∃ t y, exec (.codeword p l c) s = .next t ∧ Claims.portBecomes s t p y [] ∧ y = { x with lanes := y.lanes } ∧
      Port.lane y l = { k with good := min 3 (k.good + 1), bad := 0, next := (k.next + 1) % 4096, locked := k.locked || decide (2 ≤ k.good)
                               uncorr := k.uncorr.filter (fun t => decide ((s.timebase : Int) < t + 1000000)), symbols := syms } ∧
      (∀ j, j ≠ l → Port.lane y j = Port.lane x j) ∧ (0 < c.symbols → Claims.counted s t .fecSym 0 id c.symbols) ∧
      ((0x82, 10, id, 0) ∈ t.tel.episodes ↔ 425000 < Claims.symbolsIn syms s.timebase 1000000000)) ∧
  ∀ (s : State) (p l : Nat) (c : CodewordReport), let x := State.port s p
    let k := Port.lane x l
    let id := 9 * p + l
    let recent := k.uncorr.filter (fun t => decide ((s.timebase : Int) < t + 1000000))
    let syms := k.symbols.filter (fun e => decide ((s.timebase : Int) < e.1 + 1000000000))
    p < 40 → l < (if p % 5 = 4 then 8 else 9) → x.state ∈ [.fecLock, .deskew, .identity, .join, .live, .recovery] → k.failed = false → c.correctable = false →
    (k.bad < 3 → recent.length < 3 → Claims.symbolsIn syms s.timebase 10000000 ≤ 42500 →
      ∃ t y, exec (.codeword p l c) s = .next t ∧ Claims.portBecomes s t p y [] ∧ y = { x with lanes := y.lanes } ∧
        Port.lane y l = { k with good := 0, bad := k.bad + 1, next := (k.next + 1) % 4096, uncorr := recent ++ [(s.timebase : Stamp)], symbols := syms } ∧
        (∀ j, j ≠ l → Port.lane y j = Port.lane x j) ∧ Claims.counted s t .fecUncorr 0 id 1) ∧
    (k.locked = true → k.bad = 3 → 4 ≤ Claims.lanesLeft x l →
      ∃ t, exec (.codeword p l c) s = .next t ∧ Claims.counted s t .fecUncorr 0 id 1 ∧ Claims.laneLost s t x p l 0)

/-- The lane map and standby lane that usable lanes `u` give a direction that had `had` lanes (R453). -/
def Claims.mapOf (u had : Nat) : List Nat × Option Nat :=
  let l := (List.range 9).filter (fun i => u.testBit i)
  if 8 ≤ l.length ∧ had = 8 then (l.take 8, l[8]?) else (l.take 4, none)

/-- R443, R450, R452, R453: sparing and recovery. -/
def Claims.recoveries : Prop :=
  (∀ (s : State) (p k : Nat), let x := State.port s p
    (x.state = .live ∨ x.state = .recovery) → x.txStandby.isSome = true → k < x.txMap.length →
    ∃ t, exec (.spareReq p k) s = .next t ∧ Claims.portBecomes s t p { x with spareAsked := some k } [] ∧ t.tel = s.tel) ∧
  (∀ (s : State) (p k : Nat), (State.port s p).txStandby = none → exec (.spareReq p k) s = .next s ∧ exec (.laneSwitch p) s = .next s) ∧
  (∀ (s : State) (p k l : Nat), let x := State.port s p
    x.spareAsked = some k → x.txStandby = some l →
    ∃ t, exec (.laneSwitch p) s = .next t ∧ Claims.portBecomes s t p
      { x with txMap := x.txMap.set k l, txStandby := none, spareAsked := none, usableTx := x.usableTx &&& (511 ^^^ 2 ^ (x.txMap.getD k 0)) }
      (x.replay.map .flit) ∧
      Claims.counted s t .laneSpared 0 p 1 ∧ Claims.alarmed s t 0x81 9 p 0 ∧ (x.replay ≠ [] → Claims.counted s t .replayFlits 0 p x.replay.length)) ∧
  (∀ (s : State) (p : Nat) (transmit : Bool) (cause : RecoveryCause), let x := State.port s p
    (x.state = .live ∨ x.state = .recovery) → x.recovering = [] → (transmit = true ∨ x.replay.length < 2048) →
    ∃ t, exec (.recovery p transmit cause) s = .next t ∧
      Claims.portBecomes s t p (Claims.recoveryBegun x s.timebase transmit) (Claims.recoverySent x transmit) ∧ Claims.counted s t .recoveries 0 p 1) ∧
  (∀ (s : State) (p : Nat) (transmit : Bool) (cause : RecoveryCause), let x := State.port s p
    (x.state = .live ∨ x.state = .recovery) → (transmit ∈ x.recovering → exec (.recovery p transmit cause) s = .next s) ∧
    (x.recovering = [!transmit] → (transmit = true ∨ x.replay.length < 2048) → ∃ t, exec (.recovery p transmit cause) s = .next t ∧
      Claims.portBecomes s t p { Claims.recoveryBegun x s.timebase transmit with since := x.since, recovering := [!transmit, transmit] }
        (Claims.recoverySent x transmit) ∧ Claims.counted s t .recoveries 0 p 1)) ∧
  (∀ (s : State) (p : Nat) (usable : BitVec 9) (transmit : Bool), let x := State.port s p
    let u := (if transmit then x.usableTx else x.usableRx) &&& usable.toNat
    let had := if transmit then x.txMap.length else x.rxMap.length
    let m := Claims.mapOf u had
    x.recovering = [transmit] → 4 ≤ ((List.range 9).filter (fun i => u.testBit i)).length →
    ∃ t, exec (.recoveryDone p usable) s = .next t ∧ Claims.portBecomes s t p
      (if transmit then { x with recovering := [], state := .live, usableTx := u, txMap := m.1, txStandby := m.2, spareAsked := none }
      else { x with recovering := [], state := .live, usableRx := u, rxMap := m.1, rxStandby := m.2, sparing := none, naks := 0 })
      (if transmit then x.replay.map .flit else []) ∧
      (had = 8 → m.1.length = 4 → Claims.alarmed s t 0x83 9 p 0 ∧ Claims.counted s t .halfWidth 0 p 1)) ∧
  (∀ (s : State) (p : Nat) (usable : BitVec 9) (transmit : Bool), let x := State.port s p
    let u := (if transmit then x.usableTx else x.usableRx) &&& usable.toNat
    x.recovering = [transmit] → (x.state = .live ∨ x.state = .recovery) → x.replay = [] → x.queued = [] → Claims.noArrivals s p → ((List.range 9).filter (fun i => u.testBit i)).length < 4 →
    ∃ t, exec (.recoveryDone p usable) s = .next t ∧ t = { s with ports := t.ports, tel := t.tel, time := t.time } ∧ Claims.portDown s t p .detect ∧
      Claims.counted s t .linkDowns 0 p 1) ∧
  ∀ (s : State) (p : Nat), let x := State.port s p
    x.state = .recovery → x.since + 300000 ≤ s.timebase → x.replay = [] → x.queued = [] → Claims.noArrivals s p →
    ∃ t, exec (.recoveryTimeout p) s = .next t ∧ t = { s with ports := t.ports, tel := t.tel, time := t.time } ∧
      Claims.portDown s t p (if 3 ≤ x.failures + 1 then .held else .detect) ∧ (State.port t p).failures = x.failures + 1 ∧
      Claims.counted s t .bringupFails 0 p 1 ∧ (3 ≤ x.failures + 1 → Claims.alarmed s t 0x84 9 p 0)

/-- R433, R434, Table 15.6: the laser inputs of an optical port, with no lane dark and with one. -/
def Claims.lasers : Prop :=
  ∀ (s : State) (p : Nat) (a b : Bool) (da db : Int), let x := State.port s p
    let y : Port := { x with laserA := a, laserB := b, dbmA := da, dbmB := db, squelched := !a && !b
                             goodSince := if a && b then some (x.goodSince.getD s.timebase) else none }
    p < 40 → p % 5 ≠ 4 →
    (∀ (l : Nat) (dark : BitVec 9), dark.toNat = 2 ^ l → (a = true ∨ b = true) → x.state ∈ [.fecLock, .deskew, .identity, .join, .live, .recovery] →
      (Port.lane x l).failed = false → 4 ≤ Claims.lanesLeft x l → ∃ t, exec (.laserMeasure p a b da db dark) s = .next t ∧ Claims.laneLost s t y p l 3) ∧
    (a = true ∨ b = true → ∃ t, exec (.laserMeasure p a b da db 0) s = .next t ∧ Claims.portBecomes s t p y [] ∧
      ((a && b) = false → (0x87, 9, p, 0) ∉ s.tel.episodes → Claims.alarmed s t 0x87 9 p 0 ∧ (0x87, 9, p, 0) ∈ t.tel.episodes) ∧
      ((a && b) = true → ∀ t0, x.goodSince = some t0 → t0 + 1000000000 ≤ s.timebase → (0x87, 9, p, 0) ∉ t.tel.episodes ∧ (0x88, 9, p, 0) ∉ t.tel.episodes)) ∧
    (a = false → b = false → (0x88, 9, p, 0) ∉ s.tel.episodes →
      ∃ t u, exec (.laserMeasure p a b da db 0) s = .next t ∧ Claims.portBecomes s u p y [] ∧ u.tel = s.tel ∧ Claims.alarmed s t 0x88 9 p 0 ∧
        (x.state ∈ [.disabled, .held, .detect] → t = { u with tel := t.tel }) ∧
        (x.state ∉ [.disabled, .held, .detect] → x.replay = [] → x.queued = [] → Claims.noArrivals s p → t = { u with ports := t.ports, tel := t.tel, time := t.time } ∧
          Claims.portDown u t p .detect))

/-- R445: every pair that has changed is reported within 48 flits: of the pairs with something to report, the one at place `i` has waited fewer than 48 - `i`
flits, and neither a flit that is sent nor a credit that returns ends that. -/
def Claims.reportsInTime : Prop :=
  let inTime (x : Port) : Prop := (x.due.map (·.1)).Nodup ∧ ∀ i e, x.due[i]? = some e → e.2 + i < 48 ∧ e.1 < 64 ∧ e.1 % 4 < 3
  ∀ x : Port, inTime x → inTime (Port.reported x) ∧ ∀ k, k < 64 → k % 4 < 3 → inTime (Port.giveBack x k)

/-- R433, R434, R436, R439 to R445, R450 to R454: flits, lanes, recovery and laser inputs. -/
def Obligations.LinksCarry : Prop := Claims.flitsArrive ∧ Claims.reportsInTime ∧ Claims.codewords ∧ Claims.recoveries ∧ Claims.lasers

/-! ### Bring-up -/

/-- An attempt of port `p` fails in the state it is in (R448): counted, logged with the lanes, and the port returns to DETECT, or, for the third
time in a row, is held with an alarm. -/
def Claims.attemptFails (s t : State) (p lanes : Nat) : Prop :=
  let x := State.port s p
  t = { s with ports := t.ports, tel := t.tel, time := t.time } ∧ Claims.portDown s t p (if 3 ≤ x.failures + 1 then .held else .detect) ∧
    (State.port t p).failures = x.failures + 1 ∧ (State.port t p).wanted = x.wanted ∧ Claims.counted s t .bringupFails 0 p 1 ∧
    (sourceRegion 9 p, { stamp := s.timebase, type := 0x0040, kind := 9, source := p, job := 0, d := [1, p, PortState.code x.state, lanes] }) ∈ t.tel.logPath ∧
    (3 ≤ x.failures + 1 → Claims.alarmed s t 0x84 9 p 0)

/-- The steps from LASER_CHECK to FEC_LOCK: the command that ends each, its state and the next (Table 15.5). -/
def Claims.bringupRow (i : Nat → BitVec 9 → BitVec 9 → Instr) (now next : PortState) : Prop :=
  (i = .laserCheckDone ∧ now = .laserCheck ∧ next = .txEq) ∨ (i = .txEqDone ∧ now = .txEq ∧ next = .rxAdapt) ∨
    (i = .rxAdaptDone ∧ now = .rxAdapt ∧ next = .fecLock) ∨ (i = .fecLockDone ∧ now = .fecLock ∧ next = .deskew) ∨
    (i = .deskewDone ∧ now = .deskew ∧ next = .identity)

/-- Lanes of a nine-bit mask. -/
def Claims.lanesOf (u : Nat) : Nat := ((List.range 9).filter (fun i => u.testBit i)).length

/-- R447, R448, R453, R454: from the beacon to the lane map. -/
def Claims.portsTrain : Prop :=
  (∀ (s : State) (p : Nat), let x := State.port s p
    p < 40 → p ≠ 39 → x.state = .detect → s.phase = .up → (p % 5 = 4 ∨ x.laserA = true ∨ x.laserB = true) → (State.region s (p / 5)).fenced = false →
    (∀ h ∈ s.power.hot, h.row = 5 → h.sensor.unit ≠ p) →
    ∃ t y, exec (.beaconDetect p) s = .next t ∧ State.port t p = y ∧ (∀ q, q ≠ p → State.port t q = State.port s q) ∧
      t = { s with
        ports := t.ports, moduleNumber := if s.joined then s.moduleNumber else s.nv.module
        fabric := if s.joined then s.fabric else { s.fabric with dim := s.nv.dim, rspTimeoutMs := s.fabric.nextTimeoutMs } } ∧
      y = { x with
        state := if p % 5 = 4 then .txEq else .laserCheck, since := s.timebase, lastRx := s.timebase, usableTx := if p % 5 = 4 then 255 else 511
        usableRx := y.usableRx, txMap := [], rxMap := [], txStandby := none, rxStandby := none, lanes := [], partner := none, spareAsked := none
        sparing := none, recovering := [], txNext := 0, replay := [], rxLast := 4095, naks := 0, nakAt := none, sent := [], total := [], returned := [], told := [], due := [], queued := [], controls := []
        grants := Arbiter.reset, inbound := [] } ∧
      ∀ l, l < 9 → y.usableRx.testBit l = (decide (l < (if p % 5 = 4 then 8 else 9)) && decide (9 * p + l ∉ s.nv.retiredLanes))) ∧
  (∀ i now next, Claims.bringupRow i now next → ∀ (s : State) (p : Nat) (a b : BitVec 9), let x := State.port s p
    let tx := x.usableTx &&& a.toNat
    let rx := x.usableRx &&& b.toNat
    x.state = now →
    (4 ≤ Claims.lanesOf tx → 4 ≤ Claims.lanesOf rx →
      (next ≠ .identity → ∃ t, exec (i p a b) s = .next t ∧ t.tel = s.tel ∧
        Claims.portBecomes s t p { x with state := next, since := s.timebase, usableTx := tx, usableRx := rx } []) ∧
      (next = .identity → ∃ t, exec (i p a b) s = .next t ∧
        Claims.portBecomes s t p { x with
          state := .identity, since := s.timebase, usableTx := tx, usableRx := rx, txMap := (Claims.mapOf tx 8).1, txStandby := (Claims.mapOf tx 8).2
          rxMap := (Claims.mapOf rx 8).1, rxStandby := (Claims.mapOf rx 8).2, lastRx := s.timebase } [] ∧
        (Claims.lanesOf tx < 8 ∨ Claims.lanesOf rx < 8 → Claims.alarmed s t 0x83 9 p 0) ∧
        (8 ≤ Claims.lanesOf tx → 8 ≤ Claims.lanesOf rx → t.tel = s.tel))) ∧
    (Claims.lanesOf tx < 4 ∨ Claims.lanesOf rx < 4 → ∃ t, exec (i p a b) s = .next t ∧
      Claims.attemptFails s t p ((x.usableRx &&& (511 ^^^ rx)) + (x.usableTx &&& (511 ^^^ tx)) * 2 ^ 16))) ∧
  (∀ (s : State) (p b : Nat) (lanes : BitVec 32), let x := State.port s p
    (x.state, b) ∈ [(PortState.laserCheck, 50000000), (.txEq, 300000000), (.rxAdapt, 200000000), (.fecLock, 5000000), (.deskew, 1000000),
      (.identity, 2000000), (.join, 10000000)] →
    (x.since + b ≤ s.timebase → (x.state = .join → s.joined = true ∧ ∃ q, x.partner = some q ∧ q.joined = true) →
      (x.state = .identity → State.serviced s = false) →
      ∃ t, exec (.bringupBoundExpiry p lanes) s = .next t ∧ Claims.attemptFails s t p lanes.toNat) ∧
    (x.state = .join → s.joined = false → exec (.bringupBoundExpiry p lanes) s = .next s)) ∧
  ∀ (s : State) (p : Nat), (State.port s p).state = .held → (State.port s p).since + 10000000000 ≤ s.timebase →
    ∃ t, exec (.heldRetryExpiry p) s = .next t ∧ Claims.portBecomes s t p { State.port s p with state := .detect, since := s.timebase } [] ∧ t.tel = s.tel

/-- The module has become JOINED (R393, R449): a new incarnation; its timebase is `now`, and where that is a step it is counted and logged and every
open window moves with it (R48). No group, register or byte changes. -/
def Claims.joins (s t : State) (now : Nat) (stepped : Bool) : Prop :=
  t.joined = true ∧ (∃ l, t.nv = { s.nv with incarnation := s.nv.incarnation + 1, laneFailures := l }) ∧ t.timebase = now ∧ t.time.synced = true ∧ t.time.holdover = false ∧
    t.time.lastService = now ∧ t.mem = s.mem ∧ t.memPoison = s.memPoison ∧ t.phase = s.phase ∧
    t.host = { s.host with mailboxes := t.host.mailboxes } ∧ (∀ n, ∃ r, State.mailbox t n = { State.mailbox s n with running := r }) ∧
    (∀ c, ∃ w f e, State.cell t c = { State.cell s c with watch := w, sliceFaults := f, residueErrors := e }) ∧
    (stepped = true → t.time.stepped = true ∧ Claims.counted s t .timeSteps 0 0 1 ∧
      (8, { stamp := now, type := 0x0010, kind := 0, source := 0, job := 0, d := [s.timebase, now] }) ∈ t.tel.logPath ∧
      (s.presence.windowOpen = true → t.presence.winStart = s.presence.winStart + now - s.timebase ∧
        t.presence.winEnd = s.presence.winEnd + now - s.timebase))

/-- R48, R382, R396, R447, R449: IDENTITY, JOIN and LIVE. -/
def Claims.portsJoin : Prop :=
  (∀ (s : State) (p : Nat) (i : PartnerIdentity), let x := State.port s p
    let q : Partner := { module := i.module, incarnation := i.incarnation, region := i.region, port := i.port, joined := i.joined
                         ahead := (i.fabricTime : Int) - s.timebase, roundTrip := i.roundTripNs }
    let fits := i.dim = s.fabric.dim ∧ i.versionOk = true
    let cabled := i.module ≠ s.moduleNumber ∧ i.module < 2 ^ s.fabric.dim
    x.state = .identity →
    (¬ fits → ∃ t, exec (.identityDone p i) s = .next t ∧ t = { s with ports := t.ports, tel := t.tel } ∧ Claims.portDown s t p .held ∧
      (State.port t p).failures = x.failures ∧ ((0x86, 9, p, 0) ∉ s.tel.episodes → Claims.alarmed s t 0x86 9 p 0)) ∧
    (fits → ¬ cabled → ∃ t, exec (.identityDone p i) s = .next t ∧ t = { s with ports := t.ports, tel := t.tel } ∧ Claims.portDown s t p .held ∧
      (State.port t p).failures = x.failures ∧ ((0x85, 9, p, 0) ∉ s.tel.episodes → Claims.alarmed s t 0x85 9 p 0)) ∧
    (fits → cabled → State.serviced s = true → ∃ t, exec (.identityDone p i) s = .next t ∧ Claims.portBecomes s t p { x with partner := some q } []) ∧
    (fits → cabled → State.serviced s = false → (i.joined = false ∨ s.joined = true ∨ s.debug = true) →
      ∃ t, exec (.identityDone p i) s = .next t ∧ State.port t p = { x with state := .join, since := s.timebase, partner := some q } ∧
        (∀ j, j ≠ p → State.port t j = State.port s j) ∧
        t = { s with
          ports := t.ports, tel := t.tel
          fabric := { s.fabric with
            firstIdentity := some (s.fabric.firstIdentity.getD s.timebase)
            known := NMap.insert s.fabric.known i.module (max i.incarnation (NMap.get s.fabric.known 0 i.module)) } }) ∧
    (fits → cabled → State.serviced s = false → i.joined = true → s.joined = false → s.debug = false →
      ∃ t, exec (.identityDone p i) s = .next t ∧ Claims.joins s t i.fabricTime true ∧ (State.port t p).state = .join ∧
        (State.port t p).partner = some q)) ∧
  (∀ (s : State) (t0 : Stamp), s.fabric.firstIdentity = some t0 → s.joined = false → s.phase = .up → State.serviced s = false → s.debug = false →
    t0 + 2000000000 ≤ s.timebase → (∃ p q, p < 40 ∧ (State.port s p).partner = some q) →
    (∀ p q, p < 40 → (State.port s p).partner = some q → q.joined = false ∧ s.moduleNumber < q.module) →
    ∃ t, exec .selfJoinExpiry s = .next t ∧ Claims.joins s t s.timebase false ∧
      t = { s with joined := true, nv := { s.nv with incarnation := s.nv.incarnation + 1 }, time := t.time }) ∧
  ∀ (s : State) (p : Nat) (q : Partner), let x := State.port s p
    let f : SentFlit := { seq := x.txNext, vc := 0, cred := 0, payload := [], control := some (.moduleState s.joined s.timebase) }
    let up : SentFlit := { seq := (x.txNext + 1) % 4096, vc := 0, cred := 0, payload := [{ source := s.moduleNumber, destination := q.module, level1 := false, kind := .peerUp s.moduleNumber s.nv.incarnation }], control := none }
    x.state = .join → x.partner = some q → Claims.idlePort x → s.fabric.unrouted = [] → x.replay.length < 2047 →
    (s.joined = true → q.joined = true → ∃ t y z r, exec (.joinStateTimer p) s = .next t ∧ Claims.says x z r ∧ State.port t p = y ∧
      (∀ j, j ≠ p → State.port t j = State.port s j) ∧ t = { s with
        ports := t.ports, tel := t.tel
        out := s.out ++ [.link p (.flit f r x.silenced), .link p (.flit up { ack := x.rxLast, pair := 0, total := 0 } x.silenced)] } ∧
      y = { x with state := .live, since := s.timebase, failures := 0, lastRx := s.timebase, txNext := (x.txNext + 2) % 4096
                   replay := x.replay ++ [f, up], sent := y.sent, total := [], returned := [], told := [], due := []
                   grants := y.grants } ∧
      NMap.get y.sent 0 0 = 1 ∧ ∀ j, j ≠ 0 → NMap.get y.sent 0 j = 0) ∧
    ((q.joined = false ∨ (s.joined = false ∧ (State.serviced s = true ∨ s.debug = true))) → ∃ t, exec (.joinStateTimer p) s = .next t ∧
      Claims.portBecomes s t p { x with txNext := (x.txNext + 1) % 4096, replay := x.replay ++ [f] } [.flit f]) ∧
    (q.joined = true → s.joined = false → State.serviced s = false → s.debug = false →
      ∃ t, exec (.joinStateTimer p) s = .next t ∧ Claims.joins s t (q.ahead + s.timebase).toNat true ∧ (State.port t p).state = .live ∧
        (State.port t p).failures = 0)

/-- R48, R382, R396, R447 to R449, R453, R454: bring-up of a port. -/
def Obligations.BringUp : Prop := Claims.portsTrain ∧ Claims.portsJoin

/-! ### The Proofer, the activity governor, power limiting and thermal control -/

/-- V a region may run at: min(VREQ, VPWR, VTHM) (R504). -/
def Claims.setpoint (x : RegionPower) : Nat := min (min x.vreq (x.vpwr.getD x.vreq)) (x.vthm.getD x.vreq)

/-- A region power-up command (0x0103) for region `r` is under way. -/
def Claims.poweringUp (s : State) (r : Nat) : Prop :=
  ∃ e ∈ s.host.mailboxes, ∃ k, e.2.running = some k ∧ k.code = 0x0103 ∧ k.stage = 1 ∧ k.values = [r]

/-- A DISABLED port that is to be enabled, its region powered. -/
def Claims.toEnable (s : State) (p : Nat) : Prop :=
  p < 40 ∧ (State.port s p).wanted = true ∧ (State.port s p).state = .disabled ∧ (State.regionPower s (p / 5)).stackOn = true

/-- The object needs the activity of its row of Table 17.3. -/
def Claims.wants (s : State) (o : ProoferObject) : Prop :=
  match o with
  | .regionPower r => r < 8 ∧ Claims.poweringUp s r ∧ (State.regionPower s r).on = false
  | .stackPair r => r < 8 ∧ Claims.poweringUp s r ∧ (State.regionPower s r).on = true ∧ (State.regionPower s r).stackOn = false
  | .opticalPort p => Claims.toEnable s p ∧ p % 5 ≠ 4
  | .electricalPort p => Claims.toEnable s p ∧ p % 5 = 4
  | .slice c k => State.cellRuns s c = true ∧ (Cell.slice (State.cell s c) k).ramp = .waitGrant
  | .voltage r => r < 8 ∧ (State.regionPower s r).on = true ∧ (State.regionPower s r).granted = none ∧
      (State.regionPower s r).volt < Claims.setpoint (State.regionPower s r)
  | .activity r => r < 8 ∧ (State.regionPower s r).on = true ∧ (State.regionPower s r).raising = true

/-- The next voltage step, in mV: 10, or 5 where the target lies only 5 mV above (R504). -/
def Claims.voltStep (x : RegionPower) : Nat := if Claims.setpoint x < x.volt + 10 then Claims.setpoint x - x.volt else 10

/-- The declared step of Table 17.3, in quarter milliamperes. -/
def Claims.stepOf (s : State) (o : ProoferObject) : Nat :=
  match o with
  | .regionPower _ => 4 * 1200
  | .stackPair _ => 4 * 500
  | .opticalPort _ => 4 * 150
  | .electricalPort _ => 4 * 100
  | .slice c _ => if (State.cell s c).sliceCount = 1 then 4 * 30 else if (State.cell s c).sliceCount = 2 then 4 * 15 else 4 * 8
  | .voltage r => if Claims.voltStep (State.regionPower s r) ≤ 5 then 4 * 150 else 4 * 300
  | .activity _ => 4 * 100

def Claims.isRegion (o : ProoferObject) : Bool :=
  match o with
  | .regionPower _ => true
  | _ => false

/-- From `s` to `t` region `r`'s power state becomes `x`, the others' stay. -/
def Claims.regionNow (s t : State) (r : Nat) (x : RegionPower) : Prop :=
  State.regionPower t r = x ∧ ∀ q, q ≠ r → State.regionPower t q = State.regionPower s q

/-- The proofer is `p`, and of power control only it and the regions may differ. -/
def Claims.prooferNow (s t : State) (p : Proofer) : Prop := t.power = { s.power with regions := t.power.regions, proofer := p }

/-- What a grant starts (Table 17.3, last column). -/
def Claims.started (s t : State) (o : ProoferObject) : Prop :=
  match o with
  | .regionPower r => t = { s with power := t.power, tel := t.tel } ∧ Claims.regionNow s t r (let x := State.regionPower s r
      { x with on := true, volt := Claims.setpoint x, level := 0, raising := false, granted := none })
  | .stackPair r => t = { s with power := t.power, tel := t.tel, regions := t.regions, host := t.host } ∧
      Claims.regionNow s t r { State.regionPower s r with stackOn := true } ∧
      State.region t r = { State.region s r with off := false } ∧ (∀ q, q ≠ r → State.region t q = State.region s q) ∧
      ∀ mb, mb < 17 → ∀ k, (State.mailbox s mb).running = some k → k.code = 0x0103 → k.stage = 1 → k.values = [r] →
        (State.mailbox t mb).running = none ∧ (State.mailbox t mb).done = true ∧ (State.mailbox t mb).busy = false ∧ (State.mailbox t mb).result = 0
  | .opticalPort p => t = { s with power := t.power, tel := t.tel, ports := t.ports } ∧ t.power.regions = s.power.regions ∧
      State.port t p = { State.port s p with state := .detect, since := s.timebase } ∧ ∀ q, q ≠ p → State.port t q = State.port s q
  | .electricalPort p => t = { s with power := t.power, tel := t.tel, ports := t.ports } ∧ t.power.regions = s.power.regions ∧
      State.port t p = { State.port s p with state := .detect, since := s.timebase } ∧ ∀ q, q ≠ p → State.port t q = State.port s q
  | .slice c k => t = { s with power := t.power, tel := t.tel, cells := t.cells } ∧ t.power.regions = s.power.regions ∧
      (∀ d, d ≠ c → State.cell t d = State.cell s d) ∧ (∃ sl, State.cell t c = { State.cell s c with slices := sl }) ∧
      Claims.sliceNow (State.cell s c) (State.cell t c) k { Cell.slice (State.cell s c) k with ramp := .start } ∧ Claims.counted s t .arrayRamps 0 (4 * c + k) 1
  | .voltage r => t = { s with power := t.power, tel := t.tel } ∧ Claims.regionNow s t r (let x := State.regionPower s r
      { x with granted := some (Claims.voltStep x) })
  | .activity r => t = { s with power := t.power, tel := t.tel } ∧ Claims.regionNow s t r (let x := State.regionPower s r
      { x with level := x.level + 100, raising := false })

/-- R499 to R502, R504: requests, grants, levels, held slices and granted raises. -/
def Claims.admission : Prop :=
  (∀ (s : State) (o : ProoferObject), let p := s.power.proofer
    (Claims.wants s o → o ∉ p.queue → ∃ t, exec (.prooferRequest o) s = .next t ∧
      t = { s with power := { s.power with proofer := { p with queue := p.queue ++ [o] } }, tel := t.tel } ∧
      (Claims.counter s .prooferQmax 0 0 < 2 ^ 32 - 1 → p.queue.length < 2 ^ 32 - 1 →
        Claims.counter t .prooferQmax 0 0 = max (Claims.counter s .prooferQmax 0 0) (p.queue.length + 1))) ∧
    (¬ Claims.wants s o ∨ o ∈ p.queue → exec (.prooferRequest o) s = .next s)) ∧
  (∀ (s : State) (o : ProoferObject) (rest : List ProoferObject), let p := s.power.proofer
    p.queue = o :: rest → p.clamp = false → Claims.stepOf s o ≤ p.rise →
    (Claims.isRegion o = true → ∀ t0, p.lastRegion = some t0 → t0 + 300000 ≤ s.timebase) →
    ∃ t, exec .prooferGrant s = .next t ∧ Claims.counted s t .prooferGrants 0 0 1 ∧
      Claims.prooferNow s t { p with
        rise := p.rise - Claims.stepOf s o, queue := rest, lastRegion := if Claims.isRegion o then some s.timebase else p.lastRegion } ∧
      (Claims.wants s o → Claims.started s t o) ∧ (¬ Claims.wants s o → t = { s with power := t.power, tel := t.tel } ∧ t.power.regions = s.power.regions)) ∧
  (∀ (s : State) (o : ProoferObject) (rest : List ProoferObject), let p := s.power.proofer
    p.queue = o :: rest → (p.clamp = true ∨ p.rise < Claims.stepOf s o ∨ (Claims.isRegion o = true ∧ ∃ t0, p.lastRegion = some t0 ∧ s.timebase < t0 + 300000)) →
    exec .prooferGrant s = .next s) ∧
  (∀ (s : State) (r est : Nat), let x := State.regionPower s r
    let p := s.power.proofer
    r < 8 → x.on = true →
    (x.level + 400 ≤ est → .activity r ∉ p.queue → ∃ t, exec (.governorInterval r est) s = .next t ∧ t = { s with power := t.power, tel := t.tel } ∧
      Claims.regionNow s t r { x with raising := true } ∧ Claims.prooferNow s t { p with queue := p.queue ++ [.activity r] }) ∧
    (est < x.level → 100 ≤ x.level → p.held = [] → 400 ≤ p.fall → ∃ t, exec (.governorInterval r est) s = .next t ∧ t = { s with power := t.power } ∧
      Claims.regionNow s t r { x with level := x.level - 100 } ∧ Claims.prooferNow s t { p with fall := p.fall - 400 }) ∧
    (est < x.level → 100 ≤ x.level → p.held = [] → p.fall < 400 →
      exec (.governorInterval r est) s = .next { s with power := { s.power with proofer := { p with held := [.level r] } } })) ∧
  (∀ (s : State) (c k : Nat) (rest : List FallItem), let p := s.power.proofer
    let x := State.cell s c
    p.held = .slice c k :: rest → Claims.stepOf s (.slice c k) ≤ p.fall → (∀ r, rest.head? ≠ some (.level r)) →
    ∃ t, exec (.heldSliceStop c k) s = .next t ∧ t = { s with cells := t.cells, power := t.power } ∧ t.power.regions = s.power.regions ∧
      Claims.prooferNow s t { p with fall := p.fall - Claims.stepOf s (.slice c k), held := rest } ∧ (∀ d, d ≠ c → State.cell t d = State.cell s d) ∧
      (∃ sl, State.cell t c = { x with slices := sl }) ∧ Claims.sliceNow x (State.cell t c) k { Cell.slice x k with ramp := .stop }) ∧
  ∀ (s : State) (r n : Nat), let x := State.regionPower s r
    x.granted = some n → ∃ t, exec (.voltageRaiseStep r) s = .next t ∧ t = { s with power := { s.power with regions := t.power.regions } } ∧
      Claims.regionNow s t r { x with volt := max x.volt (min (x.volt + n) (Claims.setpoint x)), granted := none }

/-- LIMIT in force (R505, Table 17.6). -/
def Claims.limitNow (s : State) : Nat :=
  min s.nv.limit (min (if ∃ h ∈ s.power.hot, h.row = 6 then 2000 else s.nv.limit) (if ∃ h ∈ s.power.hot, h.row = 8 then 1800 else s.nv.limit))

/-- Every powered region that `p` picks has VPWR lowered by `n` mV from the V in force, to 0.55 V at the lowest; V follows; the others stay. -/
def Claims.capped (s t : State) (n : Nat) (p : RegionPower → Prop) : Prop :=
  ∀ r, let x := State.regionPower s r
    let y := { x with vpwr := some (max 550 (x.volt - n)) }
    (r < 8 ∧ x.on = true ∧ p x → State.regionPower t r = { y with volt := min x.volt (Claims.setpoint y) }) ∧
    (¬ (r < 8 ∧ x.on = true ∧ p x) → State.regionPower t r = x)

/-- Of power control, only the operating points of the regions, and raises no longer needed, have changed (R501, R504). -/
def Claims.onlyRegions (x y : Power) : Prop := y = { x with regions := y.regions, proofer := { x.proofer with queue := y.proofer.queue } }

/-- R505 to R507: the power limit and the fast clamp. -/
def Claims.powerLimits : Prop :=
  (∀ (s : State) (w : Nat), s.power.proofer.clamp = false → 2900 ≤ w →
    ∃ t, exec (.powerSample w) s = .next t ∧ t = { s with power := t.power, tel := t.tel } ∧
      Claims.onlyRegions { s.power with proofer := { s.power.proofer with clamp := true } } t.power ∧ Claims.counted s t .clamps 0 0 1 ∧
      Claims.capped s t 25 (fun _ => True) ∧ ((0x21, 0, 0, 0) ∉ s.tel.episodes → Claims.alarmed s t 0x21 0 0 0) ∧ (0x21, 0, 0, 0) ∈ t.tel.episodes) ∧
  (∀ (s : State) (w : Nat), s.power.proofer.clamp = true → w < 2700 →
    exec (.powerSample w) s = .next { s with power := { s.power with proofer := { s.power.proofer with clamp := false } } }) ∧
  (∀ (s : State) (w : Nat), Claims.limitNow s < w →
    ∃ t, exec (.powerLimitInterval w) s = .next t ∧ t = { s with power := t.power, tel := t.tel } ∧ Claims.onlyRegions { s.power with calm := 0 } t.power ∧
      Claims.capped s t 5 (fun x => 550 < x.volt) ∧ ((0x21, 0, 0, 0) ∉ s.tel.episodes → Claims.alarmed s t 0x21 0 0 0) ∧ (0x21, 0, 0, 0) ∈ t.tel.episodes) ∧
  (∀ (s : State) (w : Nat), w ≤ Claims.limitNow s → (w + 60 < Claims.limitNow s → s.power.calm + 1 < 10) →
    exec (.powerLimitInterval w) s = .next { s with power := { s.power with calm := if w + 60 < Claims.limitNow s then s.power.calm + 1 else 0 } }) ∧
  ∀ (s : State) (w : Nat), w + 60 < Claims.limitNow s → 9 ≤ s.power.calm →
    let raised (x : RegionPower) : Option Nat := if x.on then x.vpwr.map (fun v => v + 5) else x.vpwr
    ∃ t, exec (.powerLimitInterval w) s = .next t ∧ t = { s with power := { s.power with calm := s.power.calm + 1, regions := t.power.regions }, tel := t.tel } ∧
      ((∃ r v, r < 8 ∧ raised (State.regionPower s r) = some v ∧ v ≤ (State.regionPower s r).vreq) →
        t.tel = s.tel ∧ ∀ r, r < 8 → State.regionPower t r = { State.regionPower s r with vpwr := raised (State.regionPower s r) }) ∧
      ((∀ r v, r < 8 → raised (State.regionPower s r) = some v → (State.regionPower s r).vreq < v) →
        (0x21, 0, 0, 0) ∉ t.tel.episodes ∧ ∀ r, r < 8 → State.regionPower t r = { State.regionPower s r with vpwr := none })

/-- Table 17.6: sensor class, row, threshold and release in °C, alarm (0: none), time below the release value in ns. -/
def Claims.thermalTable : List (SensorClass × Nat × Int × Int × Nat × Nat) :=
  [(.computeDie, 0, 95, 92, 0x01, 10000000), (.computeDie, 1, 105, 92, 0x02, 100000000), (.baseDie, 0, 95, 92, 0x01, 10000000),
   (.baseDie, 1, 105, 92, 0x02, 100000000), (.memoryStack, 2, 95, 90, 0x04, 10000000), (.memoryStack, 3, 105, 90, 0x02, 100000000),
   (.opticalEngine, 4, 80, 75, 0x05, 0), (.opticalEngine, 5, 90, 80, 0, 0), (.converter, 6, 110, 100, 0x06, 1000000000),
   (.coolantInlet, 7, 40, 38, 0x07, 1000000000), (.coolantInlet, 8, 45, 42, 0x08, 1000000000)]

/-- The sensors of Table 17.6. -/
def Claims.sensorFits (x : SensorRef) : Prop :=
  match x.cls with
  | .computeDie => x.unit < 8 ∧ x.index < 16
  | .baseDie => x.unit < 8 ∧ x.index < 4
  | .memoryStack => x.unit < 16 ∧ x.index = 0
  | .opticalEngine => x.unit < 40 ∧ x.unit % 5 ≠ 4 ∧ x.index = 0
  | .converter => x.index = 0
  | .coolantInlet => x.unit = 0 ∧ x.index = 0

/-- KIND and SOURCE of a row's alarm (Table 18.2): a stack for MEM_HOT, else the region, the port or the module. -/
def Claims.thermalSource (x : SensorRef) (row : Nat) : Nat × Nat :=
  if row ≤ 1 then (1, x.unit) else if row = 2 then (7, x.unit) else if row = 3 then (1, x.unit / 2) else if row ≤ 5 then (9, x.unit) else (0, 0)

/-- R509, R511, Table 17.6: samples of a sensor with no condition in force (nothing waits at the port of an optical engine: what a port that goes down leaves behind is
stated with the links), the end of its only one, and the throttle's steps. -/
def Claims.thermal : Prop :=
  (∀ (s : State) (x : SensorRef) (c : Int), Claims.sensorFits x → (∀ h ∈ s.power.hot, h.sensor ≠ x) →
    (x.cls = .opticalEngine → (State.port s x.unit).replay = [] ∧ (State.port s x.unit).queued = [] ∧ Claims.noArrivals s x.unit) →
    let temps := s.power.temps.filter (fun e => decide (e.1 ≠ x)) ++ [(x, c)]
    ∃ t, exec (.thermalSample x c) s = .next t ∧
      Claims.onlyRegions { s.power with temps := temps, hot := t.power.hot, critSince := t.power.critSince } t.power ∧ t = { s with power := t.power, tel := t.tel, ports := t.ports, time := t.time } ∧
      (∀ h, h ∈ t.power.hot ↔ h ∈ s.power.hot ∨ (h.sensor = x ∧ h.below = none ∧ ∃ e ∈ Claims.thermalTable, e.1 = x.cls ∧ e.2.1 = h.row ∧ e.2.2.1 ≤ c)) ∧
      (∀ cls row atC rel alarm hold, (cls, row, atC, rel, alarm, hold) ∈ Claims.thermalTable → cls = x.cls → atC ≤ c → alarm ≠ 0 →
        let src := Claims.thermalSource x row
        (alarm, src.1, src.2, 0) ∈ t.tel.episodes ∧ ((alarm, src.1, src.2, 0) ∉ s.tel.episodes → Claims.alarmed s t alarm src.1 src.2 0)) ∧
      ((∀ e ∈ Claims.thermalTable, e.1 = x.cls → c < e.2.2.1) → t = { s with power := { s.power with temps := temps } }) ∧
      (let r := if x.cls = .memoryStack then x.unit / 2 else x.unit
       (x.cls ∈ [.computeDie, .baseDie, .memoryStack] → (105 ≤ c →
          let y := { State.regionPower s r with vthm := some 550 }
          Claims.regionNow s t r (if y.on then { y with volt := min y.volt (Claims.setpoint y) } else y) ∧
          NMap.find t.power.critSince r = some ((NMap.find s.power.critSince r).getD s.timebase)) ∧
        (c < 105 → t.power.regions = s.power.regions ∧ t.power.critSince = s.power.critSince)) ∧
       (x.cls ∉ [.computeDie, .baseDie, .memoryStack] → t.power.regions = s.power.regions ∧ t.power.critSince = s.power.critSince)) ∧
      (x.cls = .opticalEngine → 90 ≤ c → (State.port t x.unit).squelched = true ∧
        (State.port t x.unit).state = (if (State.port s x.unit).state = .disabled then .disabled else .detect)) ∧
      (x.cls ≠ .opticalEngine ∨ c < 90 → t.ports = s.ports) ∧ ∀ q, q ≠ x.unit → State.port t q = State.port s q) ∧
  (∀ (s : State) (x : SensorRef) (c at' rel : Int) (row alarm hold : Nat) (b : Stamp), Claims.sensorFits x →
    (x.cls, row, at', rel, alarm, hold) ∈ Claims.thermalTable → s.power.hot = [{ sensor := x, row := row, below := some b }] → c < rel →
    (∀ e ∈ Claims.thermalTable, e.1 = x.cls → c < e.2.2.1) → b + hold ≤ s.timebase →
    ∃ t, exec (.thermalSample x c) s = .next t ∧ t = { s with power := t.power, tel := t.tel, ports := t.ports } ∧
      t.power = { s.power with temps := t.power.temps, hot := [], critSince := t.power.critSince } ∧
      (alarm ≠ 0 → let src := Claims.thermalSource x row
        (alarm, src.1, src.2, 0) ∉ t.tel.episodes) ∧
      (row = 5 → (State.port t x.unit).squelched = false ∧ ((State.port s x.unit).state ≠ .disabled → (State.port t x.unit).state = .detect)) ∧
      (row = 1 → NMap.find t.power.critSince x.unit = none) ∧ (row = 3 → NMap.find t.power.critSince (x.unit / 2) = none)) ∧
  ∀ (s : State) (r : Nat), let x := State.regionPower s r
    let here (row : Nat) (h : HotCondition) : Prop := h.row = row ∧ ((h.sensor.cls = .memoryStack ∧ h.sensor.unit / 2 = r) ∨
      ((h.sensor.cls = .computeDie ∨ h.sensor.cls = .baseDie) ∧ h.sensor.unit = r))
    r < 8 → x.on = true → (∀ h ∈ s.power.hot, ¬ here 1 h ∧ ¬ here 3 h) →
    ((∃ h ∈ s.power.hot, here 0 h) → ∃ t, exec (.thermalThrottleStep r) s = .next t ∧ t = { s with power := t.power, tel := t.tel } ∧
      Claims.onlyRegions s.power t.power ∧
      let y := { x with vthm := some (max 550 (x.volt - 10)) }
      Claims.regionNow s t r { y with volt := min x.volt (Claims.setpoint y) }) ∧
    ((∀ h ∈ s.power.hot, ¬ here 0 h) → ∀ v, x.vthm = some v → ∃ t, exec (.thermalThrottleStep r) s = .next t ∧
      t = { s with power := { s.power with regions := t.power.regions } } ∧
      Claims.regionNow s t r { x with vthm := if x.vreq < v + 10 then none else some (v + 10) })

/-- R499 to R509: admission, the power limit and thermal control. -/
def Obligations.PowerIsControlled : Prop := Claims.admission ∧ Claims.powerLimits ∧ Claims.thermal

/-! ### Fences, alarms, logs and traces -/

/-- A request of block `b`, of a cell or of a copy, that has no credit yet (R30, R31). -/
def Claims.ungranted (b : Nat) (q : HomeRequest) : Bool :=
  decide (q.stage = .cell) && match q.source with
    | .cell c _ => decide (c / 6 = b)
    | .copy c _ => decide (c / 6 = b)
    | _ => false

/-- Stores and atomics among requests. -/
def Claims.homeStores (l : NMap HomeRequest) : Nat :=
  (l.filter (fun e => match e.2.body with
    | .read _ => false
    | .granuleRead _ => false
    | _ => true)).length
def Claims.heldStores (l : NMap HeldPacket) : Nat :=
  (l.filter (fun e => match e.2.packet.body with
    | .store _ _ _ _ => true
    | .atomic _ _ _ _ => true
    | _ => false)).length

/-- What a cell holds for want of an earlier operation is gone, with the slots and accesses that waited for it (R24, R30). -/
def Claims.heldDropped (x y : Cell) : Prop :=
  y = { x with held := [], heldLocal := [], misses := y.misses, accesses := y.accesses } ∧
    (∀ m, m ∈ y.misses ↔ m ∈ x.misses ∧ ∀ h ∈ x.held, h.2.miss ≠ some m.1) ∧
    ∀ a, a ∈ y.accesses ↔ a ∈ x.accesses ∧ NMap.find x.heldLocal a.1 = none ∧ ∀ h ∈ x.held, ∀ m, h.2.miss = some m → m ∉ a.2.waits

/-- Block `b` has been fenced (R30, R31): what had no credit is gone, the alarm counts the stores and atomics of it, and of the block's cells nothing
else changes. -/
def Claims.blockFenced (s t : State) (b : Nat) (cell : Option Nat) : Prop :=
  t = { s with blocks := t.blocks, cells := t.cells, homeQueue := t.homeQueue, tel := t.tel } ∧
    State.block t b = { State.block s b with fenced := true, failedCell := cell } ∧ (∀ c, c ≠ b → State.block t c = State.block s c) ∧
    (∀ c, (c / 6 = b → Claims.heldDropped (State.cell s c) (State.cell t c)) ∧ (c / 6 ≠ b → State.cell t c = State.cell s c)) ∧
    (∀ e, e ∈ t.homeQueue ↔ e ∈ s.homeQueue ∧ ¬ ∃ d ∈ s.homeQueue, d.1 = e.1 ∧ Claims.ungranted b d.2 = true) ∧
    Claims.alarmed s t 0x62 2 b (cell.getD 0 + (Claims.homeStores (s.homeQueue.filter (fun e => Claims.ungranted b e.2)) +
      ((List.range 6).map (fun i => Claims.heldStores (State.cell s (6 * b + i)).held)).foldl (· + ·) 0) * 2 ^ 32) ∧
    Claims.counted s t .recoveryEvents 8 0 1 ∧ t.tel.errFlags.testBit 10 = true ∧ t.tel.errFlags.testBit 11 = true

/-- A link that was up, or a port on its way there, has gone to `next` with nothing of its link left (R443, R446). -/
def Claims.lapsed (x y : Port) (next : PortState) (now : Nat) (wanted : Bool) : Prop :=
  y = { x with
    state := next, since := now, usableTx := 0, usableRx := 0, txMap := [], rxMap := [], txStandby := none, rxStandby := none, lanes := []
    partner := none, lastRx := now, spareAsked := none, sparing := none, recovering := [], txNext := 0, replay := [], rxLast := 4095, naks := 0
    nakAt := none, sent := [], total := [], returned := [], told := [], due := [], queued := [], controls := [], grants := Arbiter.reset, inbound := [], wanted := wanted }

def Claims.portUp (x : Port) : Prop := x.state = .live ∨ x.state = .recovery

/-- The object, or what waits for F, belongs to region `r`. -/
def Claims.ofRegion (r : Nat) (o : ProoferObject) : Prop :=
  match o with
  | .regionPower q => q = r
  | .stackPair q => q = r
  | .opticalPort p => p / 5 = r
  | .electricalPort p => p / 5 = r
  | .slice c _ => c / 48 = r
  | .voltage q => q = r
  | .activity q => q = r
def Claims.fallOfRegion (r : Nat) (o : FallItem) : Prop :=
  match o with
  | .slice c _ => c / 48 = r
  | .level q => q = r

/-- Mailbox `m` of the state `s` as it is once what it ran has completed with RESULT `v`, nothing else of it changed. -/
def Claims.ended (s : State) (m : Mailbox) (v : Nat) : Mailbox :=
  { m with
    result := v, resLen := 0, doneSeq := m.ackSeq, progress := 0, doneTime := s.timebase, res := [], report := [], busy := false, done := true
    running := none }

/-- Region `r` has been fenced (R511, R521, R522): its lines written back where its controller answers, its ports DISABLED, its rails off. -/
def Claims.regionFenced (s t : State) (r : Nat) (answers : Bool) : Prop :=
  let dirty := ((State.region s r).cache.map (fun e => (e.2.filter (fun l => decide (l.dirty ≠ []))).length)).foldl (· + ·) 0
  let x := State.regionPower s r
  State.region t r = { State.region s r with fenced := true, cache := [] } ∧ (∀ q, q ≠ r → State.region t q = State.region s q) ∧
    (answers = true → 0 < dirty → Claims.counted s t .rcWriteback 0 r dirty) ∧
    (answers = false ∨ dirty = 0 → Claims.counter t .rcWriteback 0 r = Claims.counter s .rcWriteback 0 r) ∧
    (∀ p, p / 5 = r → Claims.lapsed (State.port s p) (State.port t p) .disabled s.timebase false) ∧
    (∀ p, p / 5 = r → Claims.portUp (State.port s p) → Claims.counted s t .linkDowns 0 p 1) ∧
    State.regionPower t r = { x with
      on := false, stackOn := false, vpwr := none, vthm := none, volt := 0, granted := none, level := 0, raising := false
      pace := { x.pace with volt := 0, pace := 0, throttle := false, valid := false } } ∧
    (∀ q, q ≠ r → State.regionPower t q = State.regionPower s q) ∧
    (∀ o, o ∈ t.power.proofer.queue ↔ o ∈ s.power.proofer.queue ∧ ¬ Claims.ofRegion r o) ∧
    (∀ o, o ∈ t.power.proofer.held ↔ o ∈ s.power.proofer.held ∧ ¬ Claims.fallOfRegion r o) ∧
    t.power = { s.power with
      regions := t.power.regions, critSince := t.power.critSince
      proofer := { s.power.proofer with queue := t.power.proofer.queue, held := t.power.proofer.held } } ∧
    NMap.find t.power.critSince r = none ∧ (∀ q, q ≠ r → NMap.find t.power.critSince q = NMap.find s.power.critSince q) ∧
    (∀ e, e ∈ t.stackQueue ↔ e ∈ s.stackQueue ∧ e.2.region ≠ r) ∧
    t.homeQueue = s.homeQueue.map (fun e => if e.2.region = r then (e.1, { e.2 with joined := none }) else e) ∧
    (∀ e, e ∈ t.tel.logRing ↔ e ∈ s.tel.logRing ∧ e.1 / 2 ^ 17 ≠ r) ∧
    ((∃ e ∈ s.tel.logRing, e.1 / 2 ^ 17 = r) → t.tel.errFlags.testBit 6 = true) ∧
    Claims.alarmed s t 0x63 1 r 0 ∧ Claims.counted s t .recoveryEvents 8 0 1

/-- After the fence of region `r`, R522 and R523 ask for FAULTED. -/
def Claims.failsModule (s : State) (r : Nat) : Prop :=
  (∀ q, q < 8 → q = r ∨ (State.region s q).fenced = true) ∨
    ∃ q, q < 4 ∧ (q = r ∨ (State.region s q).fenced = true) ∧ (q + 4 = r ∨ (State.region s (q + 4)).fenced = true)

/-- Nothing is left at port `p` that a link going down would have to dispose of. -/
def Claims.clearPort (s : State) (p : Nat) : Prop := (State.port s p).replay = [] ∧ (State.port s p).queued = [] ∧ Claims.noArrivals s p

/-- The fence where the module goes on: a region power-up under way ends, and nothing else of the module changes. Nothing waits at the links that
go down: what it leaves behind is stated with the links. -/
def Claims.fencesRegion (s t : State) (r : Nat) (answers : Bool) : Prop :=
  ((∀ p, p / 5 = r → Claims.clearPort s p) → ¬ Claims.failsModule s r →
    Claims.regionFenced s t r answers ∧ (∀ p, p / 5 ≠ r → State.port t p = State.port s p) ∧
      t = { s with
        regions := t.regions, ports := t.ports, power := t.power, tel := t.tel, time := t.time, stackQueue := t.stackQueue, homeQueue := t.homeQueue
        host := { s.host with mailboxes := t.host.mailboxes }, jobs := t.jobs } ∧
      ((∀ p, p / 5 = r → ¬ Claims.portUp (State.port s p)) → t.time = s.time) ∧
      (¬ Claims.poweringUp s r → t.host = s.host ∧ t.jobs = s.jobs) ∧
      ∀ mb, let ends := ∃ k, (State.mailbox s mb).running = some k ∧ k.code = 0x0103 ∧ k.stage = 1 ∧ k.values = [r]
        (mb < 17 → ends → State.mailbox t mb = Claims.ended s (State.mailbox s mb) 0xFFFC) ∧
          (17 ≤ mb ∨ ¬ ends → State.mailbox t mb = State.mailbox s mb)) ∧
  ((∀ p, Claims.clearPort s p) → Claims.failsModule s r →
    Claims.regionFenced s t r answers ∧ t.phase = .faulted ∧ t.joined = false ∧ Claims.counted s t .recoveryEvents 10 0 1 ∧
      (s.joined = true → ∀ p, p < 40 → p / 5 ≠ r → Claims.portUp (State.port s p) ∨ (State.port s p).state = .join →
        Claims.lapsed (State.port s p) (State.port t p) .detect s.timebase (State.port s p).wanted) ∧
      ∀ mb, mb < 17 → (∀ k, (State.mailbox s mb).running = some k → State.mailbox t mb = Claims.ended s (State.mailbox s mb) 0xFFFC) ∧
        ((State.mailbox s mb).running = none → State.mailbox t mb = State.mailbox s mb))

/-- R18, R30, R31, R511, R519, R521 to R523: block and region fences. -/
def Claims.fences : Prop :=
  (∀ (s : State) (c : Nat), c < 384 →
    ((State.block s (c / 6)).fenced = false → ∃ t, exec (.uncontainedCellFailure c) s = .next t ∧ Claims.blockFenced s t (c / 6) (some c)) ∧
    ((State.block s (c / 6)).fenced = true → exec (.uncontainedCellFailure c) s = .next s)) ∧
  (∀ (s : State) (b : Nat), b < 64 →
    ((State.block s b).fenced = false → ∃ t, exec (.blockParityFailure b) s = .next t ∧ Claims.blockFenced s t b none) ∧
    ((State.block s b).fenced = true → exec (.blockParityFailure b) s = .next s)) ∧
  (∀ (s : State) (c id : Nat) (m : Miss), let x := State.cell s c
    NMap.find x.misses id = some m →
    ((State.block s (c / 6)).fenced = true → m.answer ≠ none → ∃ t y, exec (.fencedResponse c id) s = .next t ∧ t = { s with cells := t.cells } ∧
      State.cell t c = y ∧ (∀ d, d ≠ c → State.cell t d = State.cell s d) ∧ y = { x with misses := y.misses, accesses := y.accesses } ∧
      NMap.find y.misses id = none ∧ (∀ k, k ≠ id → NMap.find y.misses k = NMap.find x.misses k) ∧
      ∀ e, e ∈ y.accesses ↔ e ∈ x.accesses ∧ id ∉ e.2.waits) ∧
    ((State.block s (c / 6)).fenced = false → exec (.fencedResponse c id) s = .next s)) ∧
  (∀ (s : State) (r : Nat), r < 8 → (State.regionPower s r).on = true → (State.region s r).fenced = false →
    ∃ t, exec (.rcHeartbeatTimeout r) s = .next t ∧ Claims.alarmed s t 0xC3 1 r 0 ∧ Claims.fencesRegion s t r false) ∧
  (∀ (s : State) (r : Nat), (State.regionPower s r).on = false ∨ (State.region s r).fenced = true → exec (.rcHeartbeatTimeout r) s = .next s) ∧
  (∀ (s : State) (r : Nat) (t0 : Stamp), r < 8 → NMap.find s.power.critSince r = some t0 → (State.region s r).fenced = false →
    (t0 + 100000000 ≤ s.timebase → (∃ e ∈ s.power.temps, 105 ≤ e.2 ∧
        (((e.1.cls = .computeDie ∨ e.1.cls = .baseDie) ∧ e.1.unit = r) ∨ (e.1.cls = .memoryStack ∧ e.1.unit / 2 = r))) →
      ∃ t, exec (.thermalFenceExpiry r) s = .next t ∧ Claims.fencesRegion s t r true) ∧
    (s.timebase < t0 + 100000000 → exec (.thermalFenceExpiry r) s = .next s)) ∧
  ∀ (s : State) (a b id : Nat) (cls : TrafficClass) (p : PackagePacket), a < 8 → b < 8 → a ≠ b → (State.region s a).fenced = false →
    (id, p) ∈ s.package → p.source = a → p.destination = b → p.cls = cls → (∀ e ∈ s.package, e.2.destination = b → e = (id, p)) →
    3 ≤ NMap.get (State.region s a).retries 0 b →
    ∃ t m, exec (.packagePacket a b cls false) s = .next t ∧ NMap.find m b = none ∧ (∀ j, j ≠ b → NMap.find m j = NMap.find (State.region s a).retries j) ∧
      Claims.fencesRegion (State.setRegion s a { State.region s a with retries := m }) t a true

/-- Of Baker's records only those of `x` differ from `s`: all else but counters and the sticky flags is as it was. -/
def Claims.records (s t : State) (x : Telemetry) : Prop :=
  t = { s with tel := { x with counters := t.tel.counters, errFlags := t.tel.errFlags, w1cSets := t.tel.w1cSets, ticked := t.tel.ticked } }

/-- The window of `n` ns that a stamp lies in: they follow on from the base that a step of the timebase moves (R48, R52). -/
def Claims.window (s : State) (n : Nat) (stamp : Stamp) : Nat := ((stamp - s.tel.windowBase) / n).toNat

/-- A sender's discard is counted in the window of its stamp, and TELEMETRY_LOSS is current (R52, R538); nothing is said of the other records of `t`. -/
def Claims.discarded (s t : State) (sender kind logs traces merged : Nat) : Prop :=
  let window := Claims.window s 10000000 s.timebase
  let key := 256 * window + 16 * sender + kind
  let old := (NMap.find s.tel.drops key).getD { start := window, logs := 0, traces := 0, merged := 0 }
  let src : Nat × Nat := if sender < 8 then (1, sender) else (0, 0)
  NMap.find t.tel.drops key =
      some { old with logs := old.logs + logs, traces := old.traces + traces, merged := old.merged + merged } ∧
    (∀ k, k ≠ key → NMap.find t.tel.drops k = NMap.find s.tel.drops k) ∧
    (0xE1, src.1, src.2, 0) ∈ t.tel.episodes ∧ ((0xE1, src.1, src.2, 0) ∉ s.tel.episodes → Claims.alarmed s t 0xE1 src.1 src.2 0)

/-- A record joins another (R527). -/
def Claims.joined (x : AlarmRecord) (o : AlarmOccurrence) : AlarmRecord := { x with last := o.last, count := min (2 ^ 32 - 1) (x.count + o.count) }

/-- R46, R526 to R529: an occurrence reaches the alarm table, once none of its region is ahead of it. -/
def Claims.alarms : Prop :=
  ∀ (s : State) (i : Nat) (o : AlarmOccurrence), s.tel.alarmPath[i]? = some o →
    let path := s.tel.alarmPath.eraseIdx i
    let same (x : AlarmRecord) : Prop := x.code = o.code ∧ x.kind = o.kind ∧ x.source = o.source
    let ahead := ∃ j a, j < i ∧ s.tel.alarmPath[j]? = some a ∧ sourceRegion a.kind a.source = sourceRegion o.kind o.source
    (ahead → exec (.alarmOccurrence i) s = .next s) ∧
    (¬ ahead → (∃ x ∈ s.tel.alarms, same x) → ∃ t, exec (.alarmOccurrence i) s = .next t ∧
      Claims.records s t { s.tel with alarmPath := path, alarms := t.tel.alarms } ∧ Claims.counted s t .alarmsRaised 0 0 o.count ∧
      t.tel.alarms.length = s.tel.alarms.length ∧
      ∀ (j : Nat) (x : AlarmRecord), s.tel.alarms[j]? = some x → (same x → t.tel.alarms[j]? = some (Claims.joined x o)) ∧ (¬ same x → t.tel.alarms[j]? = some x)) ∧
    (¬ ahead → (∀ x ∈ s.tel.alarms, ¬ same x) → s.tel.alarms.length < 1024 → ∃ t, exec (.alarmOccurrence i) s = .next t ∧
      Claims.counted s t .alarmsRaised 0 0 o.count ∧
      Claims.records s t { s.tel with
        alarmPath := path
        alarms := s.tel.alarms ++ [{ first := o.stamp, last := o.last, count := min (2 ^ 32 - 1) o.count, code := o.code, kind := o.kind
                                     source := o.source, detail := o.detail }] }) ∧
    (¬ ahead → (∀ x ∈ s.tel.alarms, ¬ same x) → 1024 ≤ s.tel.alarms.length → o.code ≠ 0xE2 → ∃ t, exec (.alarmOccurrence i) s = .next t ∧
      t = { s with tel := t.tel } ∧ t.tel.alarms = s.tel.alarms ∧ t.tel.mergeEpisode = true ∧ Claims.counted s t .alarmsMerged 0 0 o.count ∧
      t.tel.errFlags.testBit 8 = true ∧ Claims.discarded s t 8 o.kind 0 0 o.count ∧
      NMap.find t.tel.reserved o.code = some (match NMap.find s.tel.reserved o.code with
        | some x => Claims.joined x o
        | none => { first := o.stamp, last := o.last, count := min (2 ^ 32 - 1) o.count, code := o.code, kind := 0, source := 0xFFFF, detail := o.detail }) ∧
      (∀ k, k ≠ o.code → k ≠ 0xE2 → NMap.find t.tel.reserved k = NMap.find s.tel.reserved k) ∧
      (s.tel.mergeEpisode = true → NMap.find t.tel.reserved 0xE2 = NMap.find s.tel.reserved 0xE2 ∧ Claims.counted s t .alarmsRaised 0 0 o.count) ∧
      (s.tel.mergeEpisode = false → Claims.counted s t .alarmsRaised 0 0 (o.count + 1) ∧ (∃ x, NMap.find t.tel.reserved 0xE2 = some x) ∧
        (8, { stamp := s.timebase, type := 0x01E2, kind := 0, source := 0, job := 0, d := [0, 0] }) ∈ t.tel.logPath))

/-- R423: a stall of ring counter `k` of cell `c` reaches its period: RING_STALL, once, with the oldest waiting target and the number that wait. -/
def Claims.ringStalls : Prop :=
  ∀ (s : State) (c k : Nat) (w : Watch) (t0 : Nat), let x := State.cell s c
    let n := (Cell.waiters x k).length
    NMap.find x.watch k = some w → w.since = some t0 →
    (w.fired = false → 0 < n → t0 + w.period * 1000000 ≤ s.timebase → ∃ t y, exec (.ringWatchdogExpiry c k) s = .next t ∧
      t = { s with cells := t.cells, tel := t.tel } ∧ State.cell t c = { x with watch := y } ∧ (∀ d, d ≠ c → State.cell t d = State.cell s d) ∧
      NMap.find y k = some { w with fired := true } ∧ (∀ j, j ≠ k → NMap.find y j = NMap.find x.watch j) ∧
      Claims.alarmed s t 0xA3 6 (32 * c + k) 0 ∧ Claims.counted s t .ringStalls 0 c 1 ∧
      ∃ e ∈ x.groups, ∃ target, e.2.hold = .await k target ∧ (∀ f ∈ x.groups, ∀ v, f.2.hold = .await k v → e.2.age ≤ f.2.age) ∧
        (sourceRegion 6 (32 * c + k), { stamp := s.timebase, type := 0x0032, kind := 6, source := 32 * c + k, job := (Cell.arrival x k).tag
                                        d := [32 * c + k, (Cell.arrival x k).value.toNat, target.toNat, n] }) ∈ t.tel.logPath) ∧
    (w.fired = true ∨ n = 0 ∨ s.timebase < t0 + w.period * 1000000 → exec (.ringWatchdogExpiry c k) s = .next s)

/-- Stacked memory of region `r` can be written by Baker. -/
def Claims.ringServes (s : State) (r : Nat) : Prop := (State.region s r).fenced = false ∧ (State.regionPower s r).stackOn = true

/-- Record `r` has the sequence number `n` and lies in its slot of the ring, where the slot's region serves (R522, R531). -/
def Claims.inSlot (s t : State) (n : Nat) (r : LogRecord) : Prop :=
  (Claims.ringServes s (n % 2 ^ 20 / 2 ^ 17) → NMap.find t.tel.logRing (n % 2 ^ 20) = some (n, r)) ∧
    (¬ Claims.ringServes s (n % 2 ^ 20 / 2 ^ 17) → NMap.find t.tel.logRing (n % 2 ^ 20) = none)

/-- Baker writes the log while the stacks serve: from SELFTEST on. -/
def Claims.logging (s : State) : Prop := s.phase = .selftest ∨ s.phase = .up

/-- Credits of a source's MGT path that its alarms and park notices hold (R22, R29, Table 1.5: `ord` of a cell 4, of a block or a region 8, for any
message). -/
def Claims.pathOrd (path : Nat × Nat × Nat) : Nat := if path.1 = 3 then 4 else 8
def Claims.pathAlarms (s : State) (path : Nat × Nat × Nat) : Nat := (s.tel.alarmPath.filter (fun a => decide (mgtPath a.kind a.source = path))).length
def Claims.pathNotices (s : State) (path : Nat × Nat × Nat) : Nat :=
  if path.1 = 3 then ((State.cell s path.2.1).parkList.filter (fun e => decide (e.2.state = .parked))).length else 0

/-- An ordinary credit of the source's path is free (R22, R532); Baker's own sources need none. -/
def Claims.mgtFree (s : State) (kind source : Nat) : Prop :=
  let p := mgtPath kind source
  p.1 = 0 ∨ Claims.pathAlarms s p + Claims.pathNotices s p < Claims.pathOrd p

/-- R46, R531 to R533: messages reach their buffers, once none of their path is ahead of them, and records the ring. -/
def Claims.logs : Prop :=
  (∀ (s : State) (i r : Nat) (m : LogRecord), s.tel.logPath[i]? = some (r, m) →
    let b := NMap.get s.tel.buffers [] r
    let ahead := ∃ j e, j < i ∧ s.tel.logPath[j]? = some e ∧ mgtPath e.2.kind e.2.source = mgtPath m.kind m.source
    let free := Claims.mgtFree s m.kind m.source
    (ahead → exec (.logMessage r i) s = .next s) ∧ (∀ q, q ≠ r → exec (.logMessage q i) s = .next s) ∧
    (¬ ahead → 8 ≤ r ∨ (free ∧ b.length < 1024) → ∃ t, exec (.logMessage r i) s = .next t ∧
      t = { s with tel := { s.tel with logPath := s.tel.logPath.eraseIdx i, buffers := t.tel.buffers } } ∧
      NMap.get t.tel.buffers [] r = b ++ [m] ∧ ∀ q, q ≠ r → NMap.get t.tel.buffers [] q = NMap.get s.tel.buffers [] q) ∧
    (¬ ahead → r < 8 → ¬ free ∨ 1024 ≤ b.length → ∃ t l, exec (.logMessage r i) s = .next t ∧
      Claims.records s t { s.tel with
        logPath := s.tel.logPath.eraseIdx i ++ l, alarmPath := t.tel.alarmPath, drops := t.tel.drops, episodes := t.tel.episodes, losses := t.tel.losses
        w1cSets := t.tel.w1cSets } ∧
      Claims.counted s t .logDrop m.kind r 1 ∧ t.tel.errFlags.testBit 6 = true ∧ Claims.discarded s t r m.kind 1 0 0 ∧
      (¬ free → t.tel.losses = s.tel.losses) ∧
      (free → (∀ q, q ≠ r → NMap.find t.tel.losses q = NMap.find s.tel.losses q) ∧ ∃ x, NMap.find t.tel.losses r = some x ∧ x.last = m.stamp ∧
        (∀ y, NMap.find s.tel.losses r = some y → x.count = y.count + 1 ∧ x.written = y.written ∧ x.first = (if y.count = 0 then m.stamp else y.first)) ∧
        (NMap.find s.tel.losses r = none → x.count = 1 ∧ x.written = none ∧ x.first = m.stamp)))) ∧
  (∀ (s : State) (k r : Nat) (m : LogRecord) (rest : List LogRecord), k < 9 → r = (s.tel.nextBuffer + k) % 9 →
    (∀ i, i < k → NMap.get s.tel.buffers [] ((s.tel.nextBuffer + i) % 9) = []) → NMap.get s.tel.buffers [] r = m :: rest →
    (Claims.logging s → ∃ t, exec (.logRecordWrite r) s = .next t ∧
      Claims.records s t { s.tel with
        buffers := t.tel.buffers, nextBuffer := (r + 1) % 9, logNext := s.tel.logNext + 1, logRing := t.tel.logRing } ∧
      NMap.get t.tel.buffers [] r = rest ∧ (∀ q, q ≠ r → NMap.get t.tel.buffers [] q = NMap.get s.tel.buffers [] q) ∧
      Claims.inSlot s t s.tel.logNext m ∧ (∀ j, j ≠ s.tel.logNext % 2 ^ 20 → NMap.find t.tel.logRing j = NMap.find s.tel.logRing j) ∧
      Claims.counted s t .logRecords 0 0 1) ∧
    (∀ q, q ≠ r → exec (.logRecordWrite q) s = .next s) ∧ (¬ Claims.logging s → exec (.logRecordWrite r) s = .next s)) ∧
  (∀ (s : State) (r : Nat) (x : LossEntry), NMap.find s.tel.losses r = some x →
    (0 < x.count → (∀ t0, x.written = some t0 → t0 + 1000000 ≤ s.timebase) → Claims.logging s → ∃ t, exec (.lossRecordWrite r) s = .next t ∧
      Claims.records s t { s.tel with losses := t.tel.losses, logNext := s.tel.logNext + 1, logRing := t.tel.logRing } ∧
      NMap.find t.tel.losses r = some { x with count := 0, written := some s.timebase } ∧
      (∀ q, q ≠ r → NMap.find t.tel.losses q = NMap.find s.tel.losses q) ∧
      Claims.inSlot s t s.tel.logNext { stamp := s.timebase, type := 0x0001, kind := 1, source := r, job := 0, d := [x.count, x.first, x.last] } ∧
      (∀ j, j ≠ s.tel.logNext % 2 ^ 20 → NMap.find t.tel.logRing j = NMap.find s.tel.logRing j) ∧ Claims.counted s t .logRecords 0 0 1) ∧
    (x.count = 0 ∨ (∃ t0, x.written = some t0 ∧ s.timebase < t0 + 1000000) → exec (.lossRecordWrite r) s = .next s)) ∧
  ∀ (s : State) (n : Nat), let now := Claims.window s 10000000 s.timebase
    let src : Nat × Nat := if n < 8 then (1, n) else (0, 0)
    let mine (e : Nat × DropCount) : Prop := e.1 % 256 / 16 = n
    let ended := s.tel.drops.filter (fun e => decide (e.1 % 256 / 16 = n) && decide (e.1 / 256 < now))
    let kinds := dedupe (ended.map (fun e => e.1 % 16))
    let of (k : Nat) := ended.filter (fun e => decide (e.1 % 16 = k))
    n < 9 → NMap.get s.tel.windows 0 n < now → Claims.logging s →
    (ended = [] → ∃ t, exec (.summaryWindowEnd n) s = .next t ∧
      t = { s with tel := { s.tel with windows := NMap.insert s.tel.windows n now, episodes := t.tel.episodes } } ∧
      ((∃ e ∈ s.tel.drops, mine e) → t.tel.episodes = s.tel.episodes) ∧
      ((∀ e ∈ s.tel.drops, ¬ mine e) → ∀ e, e ∈ t.tel.episodes ↔ e ∈ s.tel.episodes ∧ e ≠ (0xE1, src.1, src.2, 0))) ∧
    (ended ≠ [] → n = 8 ∨ Claims.mgtFree s 1 n → ∃ t, exec (.summaryWindowEnd n) s = .next t ∧
      Claims.records s t { s.tel with
        windows := NMap.insert s.tel.windows n now, drops := t.tel.drops, logNext := s.tel.logNext + kinds.length, logRing := t.tel.logRing
        w1cSets := t.tel.w1cSets } ∧
      (∀ e, e ∈ t.tel.drops ↔ e ∈ s.tel.drops ∧ e ∉ ended) ∧ Claims.counted s t .summaries 0 0 kinds.length ∧
      ∀ (i k : Nat), kinds[i]? = some k → ∃ start, (∃ e ∈ of k, e.2.start = start) ∧ (∀ e ∈ of k, start ≤ e.2.start) ∧
        Claims.inSlot s t (s.tel.logNext + i)
          { stamp := s.timebase, type := 0x0003, kind := src.1, source := src.2, job := 0
            d := [(10000000 * (start : Int) + s.tel.windowBase).toNat, k, ((of k).map (fun e => e.2.logs)).foldl (· + ·) 0,
              ((of k).map (fun e => e.2.traces)).foldl (· + ·) 0, ((of k).map (fun e => e.2.merged)).foldl (· + ·) 0] }) ∧
    (ended ≠ [] → n ≠ 8 → ¬ Claims.mgtFree s 1 n → exec (.summaryWindowEnd n) s = .next s)

/-- Fewer than four ordinary MGT credits are free on the path of a source (R537). -/
def Claims.fewCredits (s : State) (kind unit : Nat) : Prop :=
  let p := mgtPath kind unit
  let used := Claims.pathAlarms s p + min (Claims.pathNotices s p) (Claims.pathOrd p - Claims.pathAlarms s p) +
    (s.tel.logPath.filter (fun e => decide (mgtPath e.2.kind e.2.source = p))).length
  p.1 ≠ 0 ∧ Claims.pathOrd p < used + 4

/-- R536, R537: traces to the host ring. -/
def Claims.traces : Prop :=
  (∀ (s : State) (t' : TraceRecord), let c := s.tel.trace
    let used := if Claims.window s 1000000 c.period = Claims.window s 1000000 s.timebase then NMap.get c.used 0 t'.source else 0
    let cap := (2 ^ c.ringLog2 - 64) / 32
    let room := (c.write + 2 ^ 64 - c.read) % 2 ^ 64 < cap
    (8 ≤ t'.source ∨ c.mask.testBit t'.source = false → exec (.traceRecord t') s = .next s) ∧
    (t'.source < 8 → c.mask.testBit t'.source = true → c.limits.getD t'.source 0 ≤ used ∨ Claims.fewCredits s t'.kind t'.unit →
      ∃ t l, exec (.traceRecord t') s = .next t ∧
        Claims.records s t { s.tel with
          logPath := s.tel.logPath ++ l, alarmPath := t.tel.alarmPath, drops := t.tel.drops, episodes := t.tel.episodes
          w1cSets := t.tel.w1cSets } ∧
        Claims.counted s t .traceDrop t'.source 0 1 ∧ t.tel.errFlags.testBit 7 = true ∧
        Claims.discarded s t (sourceRegion t'.kind t'.unit) t'.kind 0 1 0) ∧
    (t'.source < 8 → c.mask.testBit t'.source = true → used < c.limits.getD t'.source 0 → ¬ Claims.fewCredits s t'.kind t'.unit →
      ∃ t, exec (.traceRecord t') s = .next t ∧ NMap.get t.tel.trace.used 0 t'.source = used + 1 ∧ t.tel.trace.period = s.timebase ∧
        (room → s.host.busMaster = true →
          let w := (c.write + 1) % 2 ^ 64
          let image := s.timebase % 2 ^ 64 * 2 ^ 192 + (t'.kind % 16 * 2 ^ 16 + t'.unit % 2 ^ 16) * 2 ^ 172 + t'.source * 2 ^ 168 + t'.event.toNat * 2 ^ 160 + t'.data.toNat
          t = { s with
            tel := { s.tel with trace := { c with used := t.tel.trace.used, period := s.timebase, write := w } }
            out := s.out ++ [.hostWrite (c.ringAddr + 64 + 32 * (c.write % cap)) (toBytes 32 image), .hostWrite c.ringAddr (toBytes 8 w)] }) ∧
        (¬ room ∨ s.host.busMaster = false → t.out = s.out ∧ t.tel.trace = { c with used := t.tel.trace.used, period := s.timebase } ∧
          Claims.counted s t .traceDrop t'.source 0 1 ∧ t.tel.errFlags.testBit 7 = true ∧ Claims.discarded s t 8 t'.kind 0 1 0))) ∧
  ∀ (s : State) (v : BitVec 64), s.tel.trace.ringLog2 ≠ 0 → s.host.busMaster = true →
    exec (.traceReadPoll v) s = .next { s with tel := { s.tel with trace := { s.tel.trace with read := v.toNat } } }

/-- Chapter 18: fences, alarms, logs and traces. -/
def Obligations.FailuresAreReported : Prop := Claims.fences ∧ Claims.alarms ∧ Claims.ringStalls ∧ Claims.logs ∧ Claims.traces

/-! ### Start-up, power inputs, presence and the seal -/

/-- The bus is powered. -/
def Claims.powered (s : State) : Prop := s.phase ≠ .off ∧ s.phase ≠ .aux ∧ s.power.tripped = false

/-- The rails have fallen (R576): Baker's store is `nv` and power control `pw` but for the regions, what R576 lists is emptied, every command
that ran has ended with 0xFFFC, and Baker keeps the rest. Every map lists a key once (`State.wf`, which every step keeps). -/
def Claims.fallen (s t : State) (phase : Phase) (nv : NonVolatile) (pw : Power) : Prop :=
  t = { s with
    cells := t.cells, blocks := t.blocks, regions := [], mem := [], memPoison := [], codeWrites := [], homeQueue := [], stackQueue := [], package := []
    transfers := [], tasting := none, banks := t.banks
    fabric := { Fabric.reset with known := s.fabric.known, rspTimeoutMs := s.fabric.rspTimeoutMs, nextTimeoutMs := s.fabric.nextTimeoutMs }
    scale := ScaleTable.reset, nv := nv, tel := t.tel, phase := phase, joined := false, debug := false, power := { pw with regions := t.power.regions }
    presence := if s.presence.windowOpen then { s.presence with windowOpen := false, pseq := (s.presence.pseq + 1) % 256 } else s.presence
    host := { s.host with aperture := 0, mailboxes := t.host.mailboxes }, rings := [], launches := [], jobs := [], groups := []
    time := { s.time with synced := false, holdover := false, parent := none, hops := 0, slew := 0, neighbours := [] }
    ports := t.ports, bench := t.bench } ∧
    (∀ c, State.cell t c = { Cell.reset with retiring := (State.cell s c).retiring }) ∧
    (∀ b, State.block t b = { Block.reset with fenced := (State.block s b).fenced, failedCell := (State.block s b).failedCell }) ∧
    (∀ b, NMap.get t.banks default b = { (default : BankHealth) with spared := (NMap.get s.banks default b).spared }) ∧
    (∀ r, State.regionPower t r = { RegionPower.reset with
      pace := { (State.regionPower s r).pace with volt := 0, pace := 0, throttle := false, valid := false } }) ∧
    (∀ p, let x := State.port s p
      State.port t p = { Port.reset with laserA := x.laserA, laserB := x.laserB, dbmA := x.dbmA, dbmB := x.dbmB, goodSince := x.goodSince }) ∧
    (∀ p, p < 40 → Claims.portUp (State.port s p) → Claims.counted s t .linkDowns 0 p 1) ∧
    (∀ i, State.programme t i = (if i < 8 ∧ (State.programme s i).loaded = true
      then { State.programme s i with loaded := false, running := false, ended := 3 } else State.programme s i)) ∧
    (∀ mb, State.mailbox t mb = (if mb < 17 ∧ (State.mailbox s mb).running ≠ none then Claims.ended s (State.mailbox s mb) 0xFFFC else State.mailbox s mb)) ∧
    t.tel.alarms = s.tel.alarms ∧ t.tel.reserved = s.tel.reserved ∧ t.tel.logNext = s.tel.logNext ∧ t.tel.logRing = [] ∧ t.tel.losses = [] ∧
    t.tel.episodes = [] ∧ (∀ r, r ≠ 8 → NMap.get t.tel.buffers [] r = []) ∧ NMap.get t.tel.buffers [] 8 = NMap.get s.tel.buffers [] 8 ∧
    (s.tel.logRing ≠ [] ∨ s.tel.buffers ≠ [] → t.tel.errFlags.testBit 6 = true)

/-- What is left of power control when the rails have fallen, but for the regions. -/
def Claims.powerAfter (x : Power) : Power :=
  { x with proofer := Proofer.full, temps := [], hot := [], critSince := [], calm := 0, restart := false, resetAt := none }

/-- The module as auxiliary power finds it (R497, R576): the non-volatile store, the outputs already made and the model's own queue and counters of
free values and identities stay, and each cell's RETIRING mark and each bank's spared rows. -/
def Claims.auxState (s t : State) (nv : NonVolatile) (phase : Phase) (host : HostSide) (presence : Presence) (power : Power) (tel : Telemetry) : Prop :=
  t = { State.reset with
    pending := s.pending, out := s.out, freeCount := s.freeCount, nextId := s.nextId, nv := nv, phase := phase, host := host, presence := presence
    power := power, tel := tel, cells := t.cells, banks := t.banks } ∧
    (∀ c, State.cell t c = { Cell.reset with retiring := (State.cell s c).retiring }) ∧
    ∀ b, NMap.get t.banks default b = { (default : BankHealth) with spared := (NMap.get s.banks default b).spared }

/-- R495 to R498, R510, R516, R576: auxiliary power, PWR_EN_N, the main input, the thermal trip and the reset of the module. -/
def Claims.powerInputs : Prop :=
  (∀ (s : State) (straps : BitVec 3) (closed jumper : Bool), State.wf s = true → s.phase = .off →
    let phase : Phase := if s.nv.trip then .faulted else .aux
    let host := { HostSide.reset with straps := straps }
    let presence := { Presence.reset with jumper := jumper }
    let power := { Power.reset with tripped := s.nv.trip }
    (s.nv.sealClosed = false ∨ closed = true → ∃ t, exec (.auxPowerOn straps closed jumper) s = .next t ∧
      Claims.auxState s t { s.nv with sealClosed := closed } phase host presence power Telemetry.reset) ∧
    (s.nv.sealClosed = true → closed = false → ∃ t, exec (.auxPowerOn straps closed jumper) s = .next t ∧
      Claims.auxState s t { s.nv with sealClosed := false, serviceBlown := min 64 (s.nv.serviceBlown + 1) } phase host presence power
        { Telemetry.reset with
          alarmPath := [{ code := 0xC4, kind := 0, source := 0, detail := 0, stamp := 0, last := 0, count := 1 }]
          logPath := [(8, { stamp := 0, type := 0x01C4, kind := 0, source := 0, job := 0, d := [0, 0] })] })) ∧
  (∀ (s : State) (straps : BitVec 3) (closed jumper : Bool), s.phase ≠ .off → exec (.auxPowerOn straps closed jumper) s = .next s) ∧
  (∀ s : State, State.wf s = true → ∃ t, exec .auxInputLoss s = .next t ∧
    Claims.auxState s t s.nv .off HostSide.reset Presence.reset Power.reset Telemetry.reset) ∧
  (∀ s : State, s.power.pwrEn = false → s.phase ≠ .off → exec .pwrEnAssert s = .next { s with
    power := { s.power with
      pwrEn := true, pwrEnSince := s.timebase, spent := s.power.spent && decide (s.timebase < s.power.pwrEnSince + 10000000) } }) ∧
  (∀ s : State, s.power.pwrEn = true →
    let pw := { s.power with pwrEn := false, pwrEnSince := s.timebase }
    (State.wf s = true → Claims.powered s → ∃ t, exec .pwrEnDeassert s = .next t ∧ Claims.fallen s t .aux s.nv (Claims.powerAfter pw)) ∧
    (¬ Claims.powered s → exec .pwrEnDeassert s = .next { s with power := pw })) ∧
  (∀ (s : State) (ns mV : Nat), (Claims.powered s → ns ≤ 50000 → mV < 36000 → ∃ t, exec (.mainInputDip ns mV) s = .next t ∧
      Claims.counted s t .inputDips 0 0 1 ∧ Claims.records s t { s.tel with
        logPath := s.tel.logPath ++ [(8, { stamp := s.timebase, type := 0x0011, kind := 0, source := 0, job := 0, d := [1, ns, mV] })] }) ∧
    (¬ Claims.powered s → exec (.mainInputDip ns mV) s = .next s)) ∧
  (∀ (i : Nat → Nat → Instr) (sub : Nat) (fails : Nat → Prop),
    (i = .mainInputLoss ∧ sub = 2 ∧ fails = fun mV => mV < 33000) ∨ (i = .mainInputOvervoltage ∧ sub = 3 ∧ fails = fun mV => 48000 < mV) →
    ∀ (s : State) (ns mV : Nat),
      (State.wf s = true → Claims.powered s → fails mV → ∃ t, exec (i ns mV) s = .next t ∧ Claims.counted s t .recoveryEvents 10 0 1 ∧
        Claims.fallen s t .aux { s.nv with latched := s.nv.latched ++ [{ sub := sub, stamp := s.timebase, d1 := ns, d2 := mV, d3 := 0 }] }
          { Claims.powerAfter s.power with spent := true }) ∧
      (¬ Claims.powered s ∨ ¬ fails mV → exec (i ns mV) s = .next s)) ∧
  (∀ (s : State) (x : SensorRef) (c cls unit : Nat), State.wf s = true → Claims.sensorFits x → s.phase ≠ .off → s.power.tripped = false → 115 ≤ c →
    (x.cls, cls, unit) ∈ [(SensorClass.computeDie, 0, 2 ^ 16 + x.unit), (.baseDie, 1, 2 ^ 16 + x.unit), (.memoryStack, 2, 7 * 2 ^ 16 + x.unit), (.converter, 3, 0)] →
    ∃ t, exec (.thermalTrip x c) s = .next t ∧ Claims.counted s t .recoveryEvents 10 0 1 ∧
      Claims.fallen s t .faulted
        { s.nv with trip := true, latched := s.nv.latched ++ [{ sub := 4, stamp := s.timebase, d1 := cls, d2 := unit, d3 := c }] }
        { Claims.powerAfter s.power with tripped := true, temps := [(x, (c : Int))] }) ∧
  (∀ (s : State) (x : SensorRef) (c : Nat), c < 115 ∨ s.power.tripped = true ∨ x.cls = .opticalEngine ∨ x.cls = .coolantInlet →
    exec (.thermalTrip x c) s = .next s) ∧
  (∀ s : State, s.power.tripped = true → (s.power.pwrEn = false → (∀ e ∈ s.power.temps, e.2 < 90) →
      exec .thermtripRelease s = .next { s with phase := .aux, power := { s.power with tripped := false }, nv := { s.nv with trip := false } }) ∧
    ((s.power.pwrEn = true ∨ ∃ e ∈ s.power.temps, 90 ≤ e.2) → exec .thermtripRelease s = .next s)) ∧
  ∀ (s : State) (t0 : Stamp), s.power.resetAt = some t0 →
    (State.wf s = true → t0 ≤ s.timebase → Claims.powered s → ∃ t, exec .moduleResetStart s = .next t ∧
      Claims.fallen s t .boot (if s.nv.staged then { s.nv with active := 1 - s.nv.active, staged := false } else s.nv)
        { Claims.powerAfter s.power with restart := true }) ∧
    (s.timebase < t0 ∨ ¬ Claims.powered s → exec .moduleResetStart s = .next s)

/-- Start-up begins (R512, R516). -/
def Claims.begins (s : State) : Prop :=
  (s.phase = .aux ∧ s.power.pwrEn = true ∧ s.power.spent = false ∧ s.power.tripped = false) ∨ (s.phase = .boot ∧ s.power.restart = true)

/-- The module as a power-down leaves it for start-up, with no cell to replace. -/
def Claims.fresh (s : State) : Prop :=
  State.wf s = true ∧ (∀ p, (State.port s p).state = .disabled) ∧ (∀ r, (State.region s r).fenced = false) ∧ (∀ c, (State.cell s c).retiring = false) ∧
    ∀ b, (State.block s b).failedCell = none

/-- The latched events are logged with their stamps, and raised (R496, R510, R579). -/
def Claims.latchedReported (s t : State) : Prop :=
  t.nv.latched = [] ∧ ∀ l ∈ s.nv.latched,
    (8, { stamp := l.stamp, type := 0x0011, kind := 0, source := 0, job := 0, d := if l.sub = 4 then [l.sub, l.d1, l.d2, l.d3] else [l.sub, l.d1, l.d2] }) ∈ t.tel.logPath ∧
      Claims.alarmed s t (if l.sub = 2 then 0x22 else if l.sub = 3 then 0x23 else 0x03) 0 0 0

/-- Start-up has run to its end with every region up (Table 17.7), but for Baker's store, the banks and the cells of `x`. -/
def Claims.startedUp (s t x : State) (fallback : Bool) : Prop :=
  t = { s with
    nv := { x.nv with latched := [] }, banks := x.banks, blocks := x.blocks, cells := x.cells, phase := .up, moduleNumber := s.nv.module, mem := [], memPoison := []
    fabric := { s.fabric with dim := s.nv.dim, rspTimeoutMs := s.fabric.nextTimeoutMs }, host := { s.host with fallback := fallback, booted := true }
    power := { s.power with proofer := Proofer.full, restart := false, regions := t.power.regions }, tel := t.tel, ports := t.ports } ∧
    (∀ r, r < 8 → State.regionPower t r = { State.regionPower s r with on := true, stackOn := true, volt := Claims.setpoint (State.regionPower s r) }) ∧
    (∀ r, 8 ≤ r → State.regionPower t r = State.regionPower s r) ∧
    (s.nv.dim = 0 → t.ports = s.ports) ∧
    (s.nv.dim ≠ 0 → (∀ p, p < 40 → State.port t p = { State.port s p with state := .detect, since := s.timebase, wanted := true }) ∧
      ∀ p, 40 ≤ p → State.port t p = State.port s p) ∧
    Claims.counted s t .prooferGrants 0 0 (16 + if s.nv.dim = 0 then 0 else 40) ∧ (fallback = true → Claims.alarmed s t 0xC1 0 0 0) ∧
    Claims.latchedReported s t

/-- Table 17.7, Table 17.8, R14, R358, R521 to R523: start-up. -/
def Claims.startsUp : Prop :=
  (∀ (s : State) (o : StartupOutcome), ¬ Claims.begins s → exec (.startupBegin o) s = .next s) ∧
  (∀ (s : State) (o : StartupOutcome), Claims.begins s → Claims.fresh s → o.activeImageOk = true ∨ o.otherImageOk = true → o.regionFailed = 0 →
    o.stackFailed = 0 → o.rowsFailed = [] → o.cellsFailed = [] →
    ∃ t, exec (.startupBegin o) s = .next t ∧ Claims.startedUp s t s (!o.activeImageOk)) ∧
  (∀ (s : State) (o : StartupOutcome) (ch bank row : Nat), Claims.begins s → Claims.fresh s → o.activeImageOk = true → o.regionFailed = 0 →
    o.stackFailed = 0 → o.rowsFailed = [(ch, bank, row)] → o.cellsFailed = [] → ch < 512 → bank < 32 → row < 98304 →
    let x := NMap.get s.banks default (bankKey ch bank)
    x.spared.length < 16 → ∃ t, exec (.startupBegin o) s = .next t ∧ Claims.startedUp s t { s with banks := t.banks } false ∧
      (NMap.get t.banks default (bankKey ch bank)).spared = x.spared ++ [row] ∧ (∀ k, k ≠ bankKey ch bank → NMap.get t.banks default k = NMap.get s.banks default k) ∧
      Claims.counted s t .rowSpared 0 ch 1) ∧
  (∀ (s : State) (o : StartupOutcome) (c slot : Nat), Claims.begins s → Claims.fresh s → o.activeImageOk = true → o.regionFailed = 0 →
    o.stackFailed = 0 → o.rowsFailed = [] → o.cellsFailed = [c] → c < 384 → (State.block s (c / 6)).fenced = false →
    (∀ i, i < 6 → (State.cell s (6 * (c / 6) + i)).groups = []) →
    let m := NMap.get s.nv.cellMaps CellMap.reset (c / 6)
    m.spare = some slot → ∃ t, exec (.startupBegin o) s = .next t ∧
      Claims.startedUp s t { s with nv := { s.nv with cellMaps := t.nv.cellMaps }, cells := t.cells, blocks := t.blocks } false ∧
      NMap.get t.nv.cellMaps CellMap.reset (c / 6) =
        { slots := m.slots.set (c % 6) slot, spare := none, failed := m.failed ++ [m.slots.getD (c % 6) (c % 6)] } ∧
      (∀ b, b ≠ c / 6 → NMap.get t.nv.cellMaps CellMap.reset b = NMap.get s.nv.cellMaps CellMap.reset b) ∧
      (∀ b, State.block t b = State.block s b) ∧ (∀ d, d ≠ c → State.cell t d = State.cell s d) ∧
      State.cell t c = { Cell.reset with deferLimit := (State.cell s c).deferLimit, reservation := (State.cell s c).reservation } ∧
      Claims.counted s t .remaps 0 (c / 6) 1) ∧
  (∀ (s : State) (o : StartupOutcome), Claims.begins s → Claims.fresh s → o.activeImageOk = true →
    let bad (r : Nat) : Prop := o.regionFailed.toNat.testBit r = true ∨ o.stackFailed.toNat.testBit (2 * r) = true ∨ o.stackFailed.toNat.testBit (2 * r + 1) = true
    ∃ t, exec (.startupBegin o) s = .next t ∧ t.host.booted = true ∧ Claims.latchedReported s t ∧
      (∀ r, r < 8 → ((State.region t r).fenced = true ↔ bad r)) ∧
      (∀ r, r < 8 → o.regionFailed.toNat.testBit r = true → Claims.alarmed s t 0x66 1 r 0) ∧
      (∀ r, r < 8 → o.regionFailed.toNat.testBit r = false → bad r → Claims.alarmed s t 0x63 1 r 0) ∧
      (t.phase = .faulted ↔ (∀ r, r < 8 → bad r) ∨ ∃ r, r < 4 ∧ bad r ∧ bad (r + 4)) ∧ (t.phase = .faulted ∨ t.phase = .up)) ∧
  ∀ (s : State) (o : StartupOutcome), Claims.begins s → s.joined = false → o.activeImageOk = false →
    o.otherImageOk = false → ∃ t, exec (.startupBegin o) s = .next t ∧
      t = { s with
        phase := .faulted, power := { s.power with proofer := Proofer.full, restart := false }, tel := t.tel, jobs := t.jobs
        host := { s.host with mailboxes := t.host.mailboxes } } ∧
      Claims.counted s t .recoveryEvents 10 0 1 ∧
      ∀ mb, State.mailbox t mb = (if mb < 17 ∧ (State.mailbox s mb).running ≠ none then Claims.ended s (State.mailbox s mb) 0xFFFC else State.mailbox s mb)

/-- R480 to R483, R551: presence windows, the jumper and the seal loop. -/
def Claims.presence : Prop :=
  (∀ s : State, s.phase ≠ .off →
    exec .presBtnPress s = .next { s with
      presence := { s.presence with
        winStart := s.timebase, winEnd := s.timebase + 120000000000, windowOpen := true, pseq := (s.presence.pseq + 1) % 256 } }) ∧
  (∀ (s : State) (b : Bool), s.phase ≠ .off → s.presence.jumper ≠ b →
    exec (.presJmpChange b) s = .next { s with
      presence := { s.presence with jumper := b, jmpStamp := s.timebase, jmpAt := some s.timebase, pseq := (s.presence.pseq + 1) % 256 } }) ∧
  (∀ s : State, s.phase ≠ .off → s.nv.sealClosed = true →
    let nv := { s.nv with sealClosed := false, serviceBlown := min 64 (s.nv.serviceBlown + 1) }
    let pr := { s.presence with sealAt := some s.timebase, pseq := (s.presence.pseq + 1) % 256 }
    (s.joined = false ∨ nv.serviceBlown ≤ nv.rearmBlown → ∃ t, exec .sealLoopOpen s = .next t ∧ t = { s with nv := nv, presence := pr, tel := t.tel } ∧
      Claims.alarmed s t 0xC4 0 0 0) ∧
    (s.joined = true → nv.rearmBlown < nv.serviceBlown → (∀ p, Claims.clearPort s p) → ∃ t, exec .sealLoopOpen s = .next t ∧
      Claims.alarmed s t 0xC4 0 0 0 ∧
      t = { s with
        nv := nv, presence := pr, tel := t.tel, joined := false, time := t.time, fabric := { s.fabric with firstIdentity := none }, ports := t.ports } ∧
      t.time.synced = false ∧
      ∀ p, (p < 40 ∧ (Claims.portUp (State.port s p) ∨ (State.port s p).state = .join) →
          Claims.lapsed (State.port s p) (State.port t p) .detect s.timebase (State.port s p).wanted) ∧
        (40 ≤ p ∨ (¬ Claims.portUp (State.port s p) ∧ (State.port s p).state ≠ .join) → State.port t p = State.port s p))) ∧
  (∀ s : State, s.phase ≠ .off → s.nv.sealClosed = false →
    exec .sealLoopClose s = .next { s with nv := { s.nv with sealClosed := true }, presence := { s.presence with sealAt := some s.timebase, pseq := (s.presence.pseq + 1) % 256 } } ∧
      exec .sealLoopOpen s = .next s) ∧
  ∀ s : State, s.phase = .off → exec .presBtnPress s = .next s ∧ (∀ b, exec (.presJmpChange b) s = .next s) ∧ exec .sealLoopOpen s = .next s ∧
    exec .sealLoopClose s = .next s

/-- Chapters 16 and 17: power inputs, start-up, presence and the seal. -/
def Obligations.StartUpAndPowerDown : Prop := Claims.powerInputs ∧ Claims.startsUp ∧ Claims.presence
end

