-- ==== Sys2Proof/Laws/Maps.lean ====
section
/-!
SUPPORT. Laws of the sparse maps: read after write, and the canonical form that every operation keeps.
-/

namespace Sys2Proof.Machine

variable {V : Type}

theorem NMap.find_append (a b : NMap V) (k : Nat) : NMap.find (a ++ b) k = (NMap.find a k).or (NMap.find b k) := by
  induction a with
  | nil => simp [NMap.find]
  | cons e r ih => obtain ⟨j, v⟩ := e; by_cases h : j = k <;> simp [NMap.find, h, ih]

theorem NMap.find_filter (p : Nat → Bool) (m : NMap V) (k : Nat) :
    NMap.find (m.filter (fun e => p e.1)) k = if p k then NMap.find m k else none := by
  induction m with
  | nil => simp [NMap.find]
  | cons e r ih =>
    obtain ⟨j, v⟩ := e
    by_cases h : j = k
    · subst h; by_cases hp : p j <;> simp [hp, NMap.find, ih]
    · by_cases hp : p j <;> simp [hp, NMap.find, h, ih]

theorem NMap.find_below (m : NMap V) (k j : Nat) : NMap.find (NMap.below m k) j = if j < k then NMap.find m j else none := by
  simpa [NMap.below] using NMap.find_filter (fun j => decide (j < k)) m j

theorem NMap.find_above (m : NMap V) (k j : Nat) : NMap.find (NMap.above m k) j = if k < j then NMap.find m j else none := by
  simpa [NMap.above] using NMap.find_filter (fun j => decide (k < j)) m j

@[simp] theorem NMap.find_nil (k : Nat) : NMap.find ([] : NMap V) k = none := rfl

@[simp] theorem NMap.find_insert (m : NMap V) (k j : Nat) (v : V) :
    NMap.find (NMap.insert m k v) j = if k = j then some v else NMap.find m j := by
  rw [NMap.insert, NMap.find_append, NMap.find_below]
  rcases Nat.lt_trichotomy j k with h | h | h
  · have h' : k ≠ j := by omega
    have h'' : ¬ k < j := by omega
    simp only [h, if_true, h', if_false, NMap.find, NMap.find_above, h'']
    cases NMap.find m j <;> rfl
  · subst h; simp [NMap.find]
  · have h' : k ≠ j := by omega
    have h'' : ¬ j < k := by omega
    simp [h, h', h'', NMap.find, NMap.find_above]

@[simp] theorem NMap.find_erase (m : NMap V) (k j : Nat) :
    NMap.find (NMap.erase m k) j = if k = j then none else NMap.find m j := by
  rw [NMap.erase, NMap.find_append, NMap.find_below, NMap.find_above]
  rcases Nat.lt_trichotomy j k with h | h | h
  · have h' : k ≠ j := by omega
    have h'' : ¬ k < j := by omega
    simp [h, h', h'']
  · subst h; simp
  · have h' : k ≠ j := by omega
    have h'' : ¬ j < k := by omega
    simp [h, h', h'']

@[simp] theorem NMap.get_nil (d : V) (k : Nat) : NMap.get ([] : NMap V) d k = d := rfl

@[simp] theorem NMap.get_insert (m : NMap V) (d v : V) (k j : Nat) :
    NMap.get (NMap.insert m k v) d j = if k = j then v else NMap.get m d j := by
  unfold NMap.get; rw [NMap.find_insert]; split <;> rfl

variable [DecidableEq V]

/-- Read after write. -/
@[simp] theorem NMap.get_set (m : NMap V) (d v : V) (k j : Nat) :
    NMap.get (NMap.set m d k v) d j = if k = j then v else NMap.get m d j := by
  unfold NMap.set
  split
  · next h => unfold NMap.get; rw [NMap.find_erase]; split <;> simp [h]
  · exact NMap.get_insert m d v k j

@[simp] theorem NMap.get_upd (m : NMap V) (d : V) (k j : Nat) (f : V → V) :
    NMap.get (NMap.upd m d k f) d j = if k = j then f (NMap.get m d k) else NMap.get m d j := by
  unfold NMap.upd; rw [NMap.get_set]

omit [DecidableEq V] in
/-- Rising keys are pairwise rising keys. -/
theorem NMap.rising_iff (m : NMap V) : NMap.rising m = true ↔ m.Pairwise (fun a b => a.1 < b.1) := by
  induction m with
  | nil => simp [NMap.rising]
  | cons e r ih =>
    obtain ⟨j, v⟩ := e
    cases r with
    | nil => simp [NMap.rising]
    | cons f q =>
      obtain ⟨k, w⟩ := f
      simp only [NMap.rising, Bool.and_eq_true, decide_eq_true_eq, ih]
      constructor
      · rintro ⟨h, hr⟩
        refine List.pairwise_cons.2 ⟨?_, hr⟩
        intro x hx
        rcases List.mem_cons.1 hx with rfl | hx
        · exact h
        · exact Nat.lt_trans h ((List.pairwise_cons.1 hr).1 x hx)
      · intro h
        have := List.pairwise_cons.1 h
        exact ⟨this.1 (k, w) (by simp), this.2⟩

theorem NMap.canon_iff (d : V) (m : NMap V) :
    NMap.canon d m = true ↔ m.Pairwise (fun a b => a.1 < b.1) ∧ ∀ e ∈ m, e.2 ≠ d := by
  simp [NMap.canon, NMap.rising_iff]

@[simp] theorem NMap.canon_nil (d : V) : NMap.canon d ([] : NMap V) = true := rfl

theorem NMap.canon_filter {d : V} {m : NMap V} (p : Nat × V → Bool) (h : NMap.canon d m = true) : NMap.canon d (m.filter p) = true := by
  rw [NMap.canon_iff] at *
  exact ⟨h.1.filter p, fun e he => h.2 e (List.mem_filter.1 he).1⟩

theorem NMap.canon_erase {d : V} {m : NMap V} (k : Nat) (h : NMap.canon d m = true) : NMap.canon d (NMap.erase m k) = true := by
  rw [NMap.canon_iff] at *
  refine ⟨List.pairwise_append.2 ⟨h.1.filter _, h.1.filter _, ?_⟩, ?_⟩
  · intro a ha b hb
    have h1 := (List.mem_filter.1 ha).2
    have h2 := (List.mem_filter.1 hb).2
    simp only [decide_eq_true_eq] at h1 h2
    omega
  · intro e he
    rcases List.mem_append.1 he with he | he <;> exact h.2 e (List.mem_filter.1 he).1

theorem NMap.canon_insert {d v : V} {m : NMap V} (k : Nat) (hv : v ≠ d) (h : NMap.canon d m = true) :
    NMap.canon d (NMap.insert m k v) = true := by
  rw [NMap.canon_iff] at *
  refine ⟨List.pairwise_append.2 ⟨h.1.filter _, List.pairwise_cons.2 ⟨?_, h.1.filter _⟩, ?_⟩, ?_⟩
  · intro b hb
    have h2 := (List.mem_filter.1 hb).2
    simpa using h2
  · intro a ha b hb
    have h1 := (List.mem_filter.1 ha).2
    simp only [decide_eq_true_eq] at h1
    rcases List.mem_cons.1 hb with rfl | hb
    · exact h1
    · have h2 := (List.mem_filter.1 hb).2
      simp only [decide_eq_true_eq] at h2
      omega
  · intro e he
    rcases List.mem_append.1 he with he | he
    · exact h.2 e (List.mem_filter.1 he).1
    · rcases List.mem_cons.1 he with rfl | he
      · exact hv
      · exact h.2 e (List.mem_filter.1 he).1

/-- A write keeps the canonical form. -/
theorem NMap.canon_set {d : V} {m : NMap V} (k : Nat) (v : V) (h : NMap.canon d m = true) : NMap.canon d (NMap.set m d k v) = true := by
  unfold NMap.set
  split
  · exact NMap.canon_erase k h
  · next hv => exact NMap.canon_insert k hv h

theorem NMap.canon_remap {d : V} {m : NMap V} (f : V → V) (h : NMap.canon d m = true) : NMap.canon d (NMap.remap d f m) = true := by
  rw [NMap.canon_iff] at *
  refine ⟨List.Pairwise.filter _ (List.pairwise_map.2 ?_), ?_⟩
  · exact h.1.imp (fun h => h)
  · intro e he
    have := (List.mem_filter.1 he).2
    simpa using this

/-- Canonical maps that read the same everywhere are equal data. -/
theorem NMap.canon_ext {d : V} {m n : NMap V} (hm : NMap.canon d m = true) (hn : NMap.canon d n = true)
    (h : ∀ k, NMap.get m d k = NMap.get n d k) : m = n := by
  have key : ∀ (m : NMap V), NMap.canon d m = true → ∀ k v, (k, v) ∈ m ↔ (NMap.get m d k = v ∧ v ≠ d) := by
    intro m
    induction m with
    | nil => intro _ k v; simp; intro h; exact h.symm
    | cons e r ih =>
      obtain ⟨j, w⟩ := e
      intro hc k v
      rw [NMap.canon_iff] at hc
      have hp := List.pairwise_cons.1 hc.1
      have hr : NMap.canon d r = true := (NMap.canon_iff d r).2 ⟨hp.2, fun e he => hc.2 e (List.mem_cons_of_mem _ he)⟩
      have hw : w ≠ d := hc.2 (j, w) (by simp)
      by_cases hk : j = k
      · subst hk
        have hnot : ∀ u, (j, u) ∉ r := fun u hu => Nat.lt_irrefl j (hp.1 (j, u) hu)
        constructor
        · intro hin
          rcases List.mem_cons.1 hin with hin | hin
          · cases hin; exact ⟨by simp [NMap.get, NMap.find], hw⟩
          · exact absurd hin (hnot v)
        · rintro ⟨hg, _⟩
          simp [NMap.get, NMap.find] at hg
          simp [hg]
      · have : NMap.get ((j, w) :: r) d k = NMap.get r d k := by simp [NMap.get, NMap.find, hk]
        rw [this, ← ih hr k v]
        constructor
        · intro hin
          rcases List.mem_cons.1 hin with hin | hin
          · cases hin; exact absurd rfl hk
          · exact hin
        · exact List.mem_cons_of_mem _
  have same : ∀ e, e ∈ m ↔ e ∈ n := by
    rintro ⟨k, v⟩; rw [key m hm, key n hn, h k]
  have srt : ∀ m : NMap V, NMap.canon d m = true → m.Pairwise (fun a b => a.1 < b.1) := fun m h => ((NMap.canon_iff d m).1 h).1
  have nd : ∀ m : NMap V, NMap.canon d m = true → m.Nodup := fun m h => (srt m h).imp (fun {a b} hab => by rintro rfl; exact Nat.lt_irrefl _ hab)
  have perm : m.Perm n := (List.perm_ext_iff_of_nodup (nd m hm) (nd n hn)).2 same
  exact perm.eq_of_pairwise (fun a b _ _ hab hba => absurd (Nat.lt_trans hab hba) (Nat.lt_irrefl _)) (srt m hm) (srt n hn)

end Sys2Proof.Machine
end

