-- ==== Sys2Proof/Laws/State.lean ====
section
/-!
SUPPORT. What each update of the state leaves alone: one lemma per field per update.
-/

namespace Sys2Proof.Machine

/-! ### State.setCell -/

@[simp] theorem State.setCell_pending (s : State) (c : Nat) (x : Cell) : (State.setCell s c x).pending = s.pending := by unfold State.setCell; rfl
@[simp] theorem State.setCell_out (s : State) (c : Nat) (x : Cell) : (State.setCell s c x).out = s.out := by unfold State.setCell; rfl
@[simp] theorem State.setCell_freeCount (s : State) (c : Nat) (x : Cell) : (State.setCell s c x).freeCount = s.freeCount := by unfold State.setCell; rfl
@[simp] theorem State.setCell_nextId (s : State) (c : Nat) (x : Cell) : (State.setCell s c x).nextId = s.nextId := by unfold State.setCell; rfl
@[simp] theorem State.setCell_timebase (s : State) (c : Nat) (x : Cell) : (State.setCell s c x).timebase = s.timebase := by unfold State.setCell; rfl
@[simp] theorem State.setCell_moduleNumber (s : State) (c : Nat) (x : Cell) : (State.setCell s c x).moduleNumber = s.moduleNumber := by unfold State.setCell; rfl
@[simp] theorem State.setCell_blocks (s : State) (c : Nat) (x : Cell) : (State.setCell s c x).blocks = s.blocks := by unfold State.setCell; rfl
@[simp] theorem State.setCell_regions (s : State) (c : Nat) (x : Cell) : (State.setCell s c x).regions = s.regions := by unfold State.setCell; rfl
@[simp] theorem State.setCell_mem (s : State) (c : Nat) (x : Cell) : (State.setCell s c x).mem = s.mem := by unfold State.setCell; rfl
@[simp] theorem State.setCell_memPoison (s : State) (c : Nat) (x : Cell) : (State.setCell s c x).memPoison = s.memPoison := by unfold State.setCell; rfl
@[simp] theorem State.setCell_codeWrites (s : State) (c : Nat) (x : Cell) : (State.setCell s c x).codeWrites = s.codeWrites := by unfold State.setCell; rfl
@[simp] theorem State.setCell_homeQueue (s : State) (c : Nat) (x : Cell) : (State.setCell s c x).homeQueue = s.homeQueue := by unfold State.setCell; rfl
@[simp] theorem State.setCell_stackQueue (s : State) (c : Nat) (x : Cell) : (State.setCell s c x).stackQueue = s.stackQueue := by unfold State.setCell; rfl
@[simp] theorem State.setCell_package (s : State) (c : Nat) (x : Cell) : (State.setCell s c x).package = s.package := by unfold State.setCell; rfl
@[simp] theorem State.setCell_transfers (s : State) (c : Nat) (x : Cell) : (State.setCell s c x).transfers = s.transfers := by unfold State.setCell; rfl
@[simp] theorem State.setCell_banks (s : State) (c : Nat) (x : Cell) : (State.setCell s c x).banks = s.banks := by unfold State.setCell; rfl
@[simp] theorem State.setCell_fabric (s : State) (c : Nat) (x : Cell) : (State.setCell s c x).fabric = s.fabric := by unfold State.setCell; rfl
@[simp] theorem State.setCell_scale (s : State) (c : Nat) (x : Cell) : (State.setCell s c x).scale = s.scale := by unfold State.setCell; rfl
@[simp] theorem State.setCell_nv (s : State) (c : Nat) (x : Cell) : (State.setCell s c x).nv = s.nv := by unfold State.setCell; rfl
@[simp] theorem State.setCell_tel (s : State) (c : Nat) (x : Cell) : (State.setCell s c x).tel = s.tel := by unfold State.setCell; rfl
@[simp] theorem State.setCell_phase (s : State) (c : Nat) (x : Cell) : (State.setCell s c x).phase = s.phase := by unfold State.setCell; rfl
@[simp] theorem State.setCell_joined (s : State) (c : Nat) (x : Cell) : (State.setCell s c x).joined = s.joined := by unfold State.setCell; rfl
@[simp] theorem State.setCell_debug (s : State) (c : Nat) (x : Cell) : (State.setCell s c x).debug = s.debug := by unfold State.setCell; rfl
@[simp] theorem State.setCell_power (s : State) (c : Nat) (x : Cell) : (State.setCell s c x).power = s.power := by unfold State.setCell; rfl
@[simp] theorem State.setCell_presence (s : State) (c : Nat) (x : Cell) : (State.setCell s c x).presence = s.presence := by unfold State.setCell; rfl
@[simp] theorem State.setCell_host (s : State) (c : Nat) (x : Cell) : (State.setCell s c x).host = s.host := by unfold State.setCell; rfl
@[simp] theorem State.setCell_rings (s : State) (c : Nat) (x : Cell) : (State.setCell s c x).rings = s.rings := by unfold State.setCell; rfl
@[simp] theorem State.setCell_launches (s : State) (c : Nat) (x : Cell) : (State.setCell s c x).launches = s.launches := by unfold State.setCell; rfl
@[simp] theorem State.setCell_jobs (s : State) (c : Nat) (x : Cell) : (State.setCell s c x).jobs = s.jobs := by unfold State.setCell; rfl
@[simp] theorem State.setCell_tasting (s : State) (c : Nat) (x : Cell) : (State.setCell s c x).tasting = s.tasting := by unfold State.setCell; rfl
@[simp] theorem State.setCell_time (s : State) (c : Nat) (x : Cell) : (State.setCell s c x).time = s.time := by unfold State.setCell; rfl
@[simp] theorem State.setCell_ports (s : State) (c : Nat) (x : Cell) : (State.setCell s c x).ports = s.ports := by unfold State.setCell; rfl
@[simp] theorem State.setCell_bench (s : State) (c : Nat) (x : Cell) : (State.setCell s c x).bench = s.bench := by unfold State.setCell; rfl
@[simp] theorem State.setCell_groups (s : State) (c : Nat) (x : Cell) : (State.setCell s c x).groups = s.groups := by unfold State.setCell; rfl

/-! ### State.modCell -/

@[simp] theorem State.modCell_pending (s : State) (c : Nat) (f : Cell → Cell) : (State.modCell s c f).pending = s.pending := by unfold State.modCell; rfl
@[simp] theorem State.modCell_out (s : State) (c : Nat) (f : Cell → Cell) : (State.modCell s c f).out = s.out := by unfold State.modCell; rfl
@[simp] theorem State.modCell_freeCount (s : State) (c : Nat) (f : Cell → Cell) : (State.modCell s c f).freeCount = s.freeCount := by unfold State.modCell; rfl
@[simp] theorem State.modCell_nextId (s : State) (c : Nat) (f : Cell → Cell) : (State.modCell s c f).nextId = s.nextId := by unfold State.modCell; rfl
@[simp] theorem State.modCell_timebase (s : State) (c : Nat) (f : Cell → Cell) : (State.modCell s c f).timebase = s.timebase := by unfold State.modCell; rfl
@[simp] theorem State.modCell_moduleNumber (s : State) (c : Nat) (f : Cell → Cell) : (State.modCell s c f).moduleNumber = s.moduleNumber := by unfold State.modCell; rfl
@[simp] theorem State.modCell_blocks (s : State) (c : Nat) (f : Cell → Cell) : (State.modCell s c f).blocks = s.blocks := by unfold State.modCell; rfl
@[simp] theorem State.modCell_regions (s : State) (c : Nat) (f : Cell → Cell) : (State.modCell s c f).regions = s.regions := by unfold State.modCell; rfl
@[simp] theorem State.modCell_mem (s : State) (c : Nat) (f : Cell → Cell) : (State.modCell s c f).mem = s.mem := by unfold State.modCell; rfl
@[simp] theorem State.modCell_memPoison (s : State) (c : Nat) (f : Cell → Cell) : (State.modCell s c f).memPoison = s.memPoison := by unfold State.modCell; rfl
@[simp] theorem State.modCell_codeWrites (s : State) (c : Nat) (f : Cell → Cell) : (State.modCell s c f).codeWrites = s.codeWrites := by unfold State.modCell; rfl
@[simp] theorem State.modCell_homeQueue (s : State) (c : Nat) (f : Cell → Cell) : (State.modCell s c f).homeQueue = s.homeQueue := by unfold State.modCell; rfl
@[simp] theorem State.modCell_stackQueue (s : State) (c : Nat) (f : Cell → Cell) : (State.modCell s c f).stackQueue = s.stackQueue := by unfold State.modCell; rfl
@[simp] theorem State.modCell_package (s : State) (c : Nat) (f : Cell → Cell) : (State.modCell s c f).package = s.package := by unfold State.modCell; rfl
@[simp] theorem State.modCell_transfers (s : State) (c : Nat) (f : Cell → Cell) : (State.modCell s c f).transfers = s.transfers := by unfold State.modCell; rfl
@[simp] theorem State.modCell_banks (s : State) (c : Nat) (f : Cell → Cell) : (State.modCell s c f).banks = s.banks := by unfold State.modCell; rfl
@[simp] theorem State.modCell_fabric (s : State) (c : Nat) (f : Cell → Cell) : (State.modCell s c f).fabric = s.fabric := by unfold State.modCell; rfl
@[simp] theorem State.modCell_scale (s : State) (c : Nat) (f : Cell → Cell) : (State.modCell s c f).scale = s.scale := by unfold State.modCell; rfl
@[simp] theorem State.modCell_nv (s : State) (c : Nat) (f : Cell → Cell) : (State.modCell s c f).nv = s.nv := by unfold State.modCell; rfl
@[simp] theorem State.modCell_tel (s : State) (c : Nat) (f : Cell → Cell) : (State.modCell s c f).tel = s.tel := by unfold State.modCell; rfl
@[simp] theorem State.modCell_phase (s : State) (c : Nat) (f : Cell → Cell) : (State.modCell s c f).phase = s.phase := by unfold State.modCell; rfl
@[simp] theorem State.modCell_joined (s : State) (c : Nat) (f : Cell → Cell) : (State.modCell s c f).joined = s.joined := by unfold State.modCell; rfl
@[simp] theorem State.modCell_debug (s : State) (c : Nat) (f : Cell → Cell) : (State.modCell s c f).debug = s.debug := by unfold State.modCell; rfl
@[simp] theorem State.modCell_power (s : State) (c : Nat) (f : Cell → Cell) : (State.modCell s c f).power = s.power := by unfold State.modCell; rfl
@[simp] theorem State.modCell_presence (s : State) (c : Nat) (f : Cell → Cell) : (State.modCell s c f).presence = s.presence := by unfold State.modCell; rfl
@[simp] theorem State.modCell_host (s : State) (c : Nat) (f : Cell → Cell) : (State.modCell s c f).host = s.host := by unfold State.modCell; rfl
@[simp] theorem State.modCell_rings (s : State) (c : Nat) (f : Cell → Cell) : (State.modCell s c f).rings = s.rings := by unfold State.modCell; rfl
@[simp] theorem State.modCell_launches (s : State) (c : Nat) (f : Cell → Cell) : (State.modCell s c f).launches = s.launches := by unfold State.modCell; rfl
@[simp] theorem State.modCell_jobs (s : State) (c : Nat) (f : Cell → Cell) : (State.modCell s c f).jobs = s.jobs := by unfold State.modCell; rfl
@[simp] theorem State.modCell_tasting (s : State) (c : Nat) (f : Cell → Cell) : (State.modCell s c f).tasting = s.tasting := by unfold State.modCell; rfl
@[simp] theorem State.modCell_time (s : State) (c : Nat) (f : Cell → Cell) : (State.modCell s c f).time = s.time := by unfold State.modCell; rfl
@[simp] theorem State.modCell_ports (s : State) (c : Nat) (f : Cell → Cell) : (State.modCell s c f).ports = s.ports := by unfold State.modCell; rfl
@[simp] theorem State.modCell_bench (s : State) (c : Nat) (f : Cell → Cell) : (State.modCell s c f).bench = s.bench := by unfold State.modCell; rfl
@[simp] theorem State.modCell_groups (s : State) (c : Nat) (f : Cell → Cell) : (State.modCell s c f).groups = s.groups := by unfold State.modCell; rfl

/-! ### State.setGroup -/

@[simp] theorem State.setGroup_pending (s : State) (g : GroupLoc) (x : Group) : (State.setGroup s g x).pending = s.pending := by unfold State.setGroup; rfl
@[simp] theorem State.setGroup_out (s : State) (g : GroupLoc) (x : Group) : (State.setGroup s g x).out = s.out := by unfold State.setGroup; rfl
@[simp] theorem State.setGroup_freeCount (s : State) (g : GroupLoc) (x : Group) : (State.setGroup s g x).freeCount = s.freeCount := by unfold State.setGroup; rfl
@[simp] theorem State.setGroup_nextId (s : State) (g : GroupLoc) (x : Group) : (State.setGroup s g x).nextId = s.nextId := by unfold State.setGroup; rfl
@[simp] theorem State.setGroup_timebase (s : State) (g : GroupLoc) (x : Group) : (State.setGroup s g x).timebase = s.timebase := by unfold State.setGroup; rfl
@[simp] theorem State.setGroup_moduleNumber (s : State) (g : GroupLoc) (x : Group) : (State.setGroup s g x).moduleNumber = s.moduleNumber := by unfold State.setGroup; rfl
@[simp] theorem State.setGroup_blocks (s : State) (g : GroupLoc) (x : Group) : (State.setGroup s g x).blocks = s.blocks := by unfold State.setGroup; rfl
@[simp] theorem State.setGroup_regions (s : State) (g : GroupLoc) (x : Group) : (State.setGroup s g x).regions = s.regions := by unfold State.setGroup; rfl
@[simp] theorem State.setGroup_mem (s : State) (g : GroupLoc) (x : Group) : (State.setGroup s g x).mem = s.mem := by unfold State.setGroup; rfl
@[simp] theorem State.setGroup_memPoison (s : State) (g : GroupLoc) (x : Group) : (State.setGroup s g x).memPoison = s.memPoison := by unfold State.setGroup; rfl
@[simp] theorem State.setGroup_codeWrites (s : State) (g : GroupLoc) (x : Group) : (State.setGroup s g x).codeWrites = s.codeWrites := by unfold State.setGroup; rfl
@[simp] theorem State.setGroup_homeQueue (s : State) (g : GroupLoc) (x : Group) : (State.setGroup s g x).homeQueue = s.homeQueue := by unfold State.setGroup; rfl
@[simp] theorem State.setGroup_stackQueue (s : State) (g : GroupLoc) (x : Group) : (State.setGroup s g x).stackQueue = s.stackQueue := by unfold State.setGroup; rfl
@[simp] theorem State.setGroup_package (s : State) (g : GroupLoc) (x : Group) : (State.setGroup s g x).package = s.package := by unfold State.setGroup; rfl
@[simp] theorem State.setGroup_transfers (s : State) (g : GroupLoc) (x : Group) : (State.setGroup s g x).transfers = s.transfers := by unfold State.setGroup; rfl
@[simp] theorem State.setGroup_banks (s : State) (g : GroupLoc) (x : Group) : (State.setGroup s g x).banks = s.banks := by unfold State.setGroup; rfl
@[simp] theorem State.setGroup_fabric (s : State) (g : GroupLoc) (x : Group) : (State.setGroup s g x).fabric = s.fabric := by unfold State.setGroup; rfl
@[simp] theorem State.setGroup_scale (s : State) (g : GroupLoc) (x : Group) : (State.setGroup s g x).scale = s.scale := by unfold State.setGroup; rfl
@[simp] theorem State.setGroup_nv (s : State) (g : GroupLoc) (x : Group) : (State.setGroup s g x).nv = s.nv := by unfold State.setGroup; rfl
@[simp] theorem State.setGroup_tel (s : State) (g : GroupLoc) (x : Group) : (State.setGroup s g x).tel = s.tel := by unfold State.setGroup; rfl
@[simp] theorem State.setGroup_phase (s : State) (g : GroupLoc) (x : Group) : (State.setGroup s g x).phase = s.phase := by unfold State.setGroup; rfl
@[simp] theorem State.setGroup_joined (s : State) (g : GroupLoc) (x : Group) : (State.setGroup s g x).joined = s.joined := by unfold State.setGroup; rfl
@[simp] theorem State.setGroup_debug (s : State) (g : GroupLoc) (x : Group) : (State.setGroup s g x).debug = s.debug := by unfold State.setGroup; rfl
@[simp] theorem State.setGroup_power (s : State) (g : GroupLoc) (x : Group) : (State.setGroup s g x).power = s.power := by unfold State.setGroup; rfl
@[simp] theorem State.setGroup_presence (s : State) (g : GroupLoc) (x : Group) : (State.setGroup s g x).presence = s.presence := by unfold State.setGroup; rfl
@[simp] theorem State.setGroup_host (s : State) (g : GroupLoc) (x : Group) : (State.setGroup s g x).host = s.host := by unfold State.setGroup; rfl
@[simp] theorem State.setGroup_rings (s : State) (g : GroupLoc) (x : Group) : (State.setGroup s g x).rings = s.rings := by unfold State.setGroup; rfl
@[simp] theorem State.setGroup_launches (s : State) (g : GroupLoc) (x : Group) : (State.setGroup s g x).launches = s.launches := by unfold State.setGroup; rfl
@[simp] theorem State.setGroup_jobs (s : State) (g : GroupLoc) (x : Group) : (State.setGroup s g x).jobs = s.jobs := by unfold State.setGroup; rfl
@[simp] theorem State.setGroup_tasting (s : State) (g : GroupLoc) (x : Group) : (State.setGroup s g x).tasting = s.tasting := by unfold State.setGroup; rfl
@[simp] theorem State.setGroup_time (s : State) (g : GroupLoc) (x : Group) : (State.setGroup s g x).time = s.time := by unfold State.setGroup; rfl
@[simp] theorem State.setGroup_ports (s : State) (g : GroupLoc) (x : Group) : (State.setGroup s g x).ports = s.ports := by unfold State.setGroup; rfl
@[simp] theorem State.setGroup_bench (s : State) (g : GroupLoc) (x : Group) : (State.setGroup s g x).bench = s.bench := by unfold State.setGroup; rfl
@[simp] theorem State.setGroup_groups (s : State) (g : GroupLoc) (x : Group) : (State.setGroup s g x).groups = s.groups := by unfold State.setGroup; rfl

/-! ### State.setBlock -/

@[simp] theorem State.setBlock_pending (s : State) (b : Nat) (x : Block) : (State.setBlock s b x).pending = s.pending := by unfold State.setBlock; rfl
@[simp] theorem State.setBlock_out (s : State) (b : Nat) (x : Block) : (State.setBlock s b x).out = s.out := by unfold State.setBlock; rfl
@[simp] theorem State.setBlock_freeCount (s : State) (b : Nat) (x : Block) : (State.setBlock s b x).freeCount = s.freeCount := by unfold State.setBlock; rfl
@[simp] theorem State.setBlock_nextId (s : State) (b : Nat) (x : Block) : (State.setBlock s b x).nextId = s.nextId := by unfold State.setBlock; rfl
@[simp] theorem State.setBlock_timebase (s : State) (b : Nat) (x : Block) : (State.setBlock s b x).timebase = s.timebase := by unfold State.setBlock; rfl
@[simp] theorem State.setBlock_moduleNumber (s : State) (b : Nat) (x : Block) : (State.setBlock s b x).moduleNumber = s.moduleNumber := by unfold State.setBlock; rfl
@[simp] theorem State.setBlock_cells (s : State) (b : Nat) (x : Block) : (State.setBlock s b x).cells = s.cells := by unfold State.setBlock; rfl
@[simp] theorem State.setBlock_regions (s : State) (b : Nat) (x : Block) : (State.setBlock s b x).regions = s.regions := by unfold State.setBlock; rfl
@[simp] theorem State.setBlock_mem (s : State) (b : Nat) (x : Block) : (State.setBlock s b x).mem = s.mem := by unfold State.setBlock; rfl
@[simp] theorem State.setBlock_memPoison (s : State) (b : Nat) (x : Block) : (State.setBlock s b x).memPoison = s.memPoison := by unfold State.setBlock; rfl
@[simp] theorem State.setBlock_codeWrites (s : State) (b : Nat) (x : Block) : (State.setBlock s b x).codeWrites = s.codeWrites := by unfold State.setBlock; rfl
@[simp] theorem State.setBlock_homeQueue (s : State) (b : Nat) (x : Block) : (State.setBlock s b x).homeQueue = s.homeQueue := by unfold State.setBlock; rfl
@[simp] theorem State.setBlock_stackQueue (s : State) (b : Nat) (x : Block) : (State.setBlock s b x).stackQueue = s.stackQueue := by unfold State.setBlock; rfl
@[simp] theorem State.setBlock_package (s : State) (b : Nat) (x : Block) : (State.setBlock s b x).package = s.package := by unfold State.setBlock; rfl
@[simp] theorem State.setBlock_transfers (s : State) (b : Nat) (x : Block) : (State.setBlock s b x).transfers = s.transfers := by unfold State.setBlock; rfl
@[simp] theorem State.setBlock_banks (s : State) (b : Nat) (x : Block) : (State.setBlock s b x).banks = s.banks := by unfold State.setBlock; rfl
@[simp] theorem State.setBlock_fabric (s : State) (b : Nat) (x : Block) : (State.setBlock s b x).fabric = s.fabric := by unfold State.setBlock; rfl
@[simp] theorem State.setBlock_scale (s : State) (b : Nat) (x : Block) : (State.setBlock s b x).scale = s.scale := by unfold State.setBlock; rfl
@[simp] theorem State.setBlock_nv (s : State) (b : Nat) (x : Block) : (State.setBlock s b x).nv = s.nv := by unfold State.setBlock; rfl
@[simp] theorem State.setBlock_tel (s : State) (b : Nat) (x : Block) : (State.setBlock s b x).tel = s.tel := by unfold State.setBlock; rfl
@[simp] theorem State.setBlock_phase (s : State) (b : Nat) (x : Block) : (State.setBlock s b x).phase = s.phase := by unfold State.setBlock; rfl
@[simp] theorem State.setBlock_joined (s : State) (b : Nat) (x : Block) : (State.setBlock s b x).joined = s.joined := by unfold State.setBlock; rfl
@[simp] theorem State.setBlock_debug (s : State) (b : Nat) (x : Block) : (State.setBlock s b x).debug = s.debug := by unfold State.setBlock; rfl
@[simp] theorem State.setBlock_power (s : State) (b : Nat) (x : Block) : (State.setBlock s b x).power = s.power := by unfold State.setBlock; rfl
@[simp] theorem State.setBlock_presence (s : State) (b : Nat) (x : Block) : (State.setBlock s b x).presence = s.presence := by unfold State.setBlock; rfl
@[simp] theorem State.setBlock_host (s : State) (b : Nat) (x : Block) : (State.setBlock s b x).host = s.host := by unfold State.setBlock; rfl
@[simp] theorem State.setBlock_rings (s : State) (b : Nat) (x : Block) : (State.setBlock s b x).rings = s.rings := by unfold State.setBlock; rfl
@[simp] theorem State.setBlock_launches (s : State) (b : Nat) (x : Block) : (State.setBlock s b x).launches = s.launches := by unfold State.setBlock; rfl
@[simp] theorem State.setBlock_jobs (s : State) (b : Nat) (x : Block) : (State.setBlock s b x).jobs = s.jobs := by unfold State.setBlock; rfl
@[simp] theorem State.setBlock_tasting (s : State) (b : Nat) (x : Block) : (State.setBlock s b x).tasting = s.tasting := by unfold State.setBlock; rfl
@[simp] theorem State.setBlock_time (s : State) (b : Nat) (x : Block) : (State.setBlock s b x).time = s.time := by unfold State.setBlock; rfl
@[simp] theorem State.setBlock_ports (s : State) (b : Nat) (x : Block) : (State.setBlock s b x).ports = s.ports := by unfold State.setBlock; rfl
@[simp] theorem State.setBlock_bench (s : State) (b : Nat) (x : Block) : (State.setBlock s b x).bench = s.bench := by unfold State.setBlock; rfl
@[simp] theorem State.setBlock_groups (s : State) (b : Nat) (x : Block) : (State.setBlock s b x).groups = s.groups := by unfold State.setBlock; rfl

/-! ### State.setRegion -/

@[simp] theorem State.setRegion_pending (s : State) (r : Nat) (x : Region) : (State.setRegion s r x).pending = s.pending := by unfold State.setRegion; rfl
@[simp] theorem State.setRegion_out (s : State) (r : Nat) (x : Region) : (State.setRegion s r x).out = s.out := by unfold State.setRegion; rfl
@[simp] theorem State.setRegion_freeCount (s : State) (r : Nat) (x : Region) : (State.setRegion s r x).freeCount = s.freeCount := by unfold State.setRegion; rfl
@[simp] theorem State.setRegion_nextId (s : State) (r : Nat) (x : Region) : (State.setRegion s r x).nextId = s.nextId := by unfold State.setRegion; rfl
@[simp] theorem State.setRegion_timebase (s : State) (r : Nat) (x : Region) : (State.setRegion s r x).timebase = s.timebase := by unfold State.setRegion; rfl
@[simp] theorem State.setRegion_moduleNumber (s : State) (r : Nat) (x : Region) : (State.setRegion s r x).moduleNumber = s.moduleNumber := by unfold State.setRegion; rfl
@[simp] theorem State.setRegion_cells (s : State) (r : Nat) (x : Region) : (State.setRegion s r x).cells = s.cells := by unfold State.setRegion; rfl
@[simp] theorem State.setRegion_blocks (s : State) (r : Nat) (x : Region) : (State.setRegion s r x).blocks = s.blocks := by unfold State.setRegion; rfl
@[simp] theorem State.setRegion_mem (s : State) (r : Nat) (x : Region) : (State.setRegion s r x).mem = s.mem := by unfold State.setRegion; rfl
@[simp] theorem State.setRegion_memPoison (s : State) (r : Nat) (x : Region) : (State.setRegion s r x).memPoison = s.memPoison := by unfold State.setRegion; rfl
@[simp] theorem State.setRegion_codeWrites (s : State) (r : Nat) (x : Region) : (State.setRegion s r x).codeWrites = s.codeWrites := by unfold State.setRegion; rfl
@[simp] theorem State.setRegion_homeQueue (s : State) (r : Nat) (x : Region) : (State.setRegion s r x).homeQueue = s.homeQueue := by unfold State.setRegion; rfl
@[simp] theorem State.setRegion_stackQueue (s : State) (r : Nat) (x : Region) : (State.setRegion s r x).stackQueue = s.stackQueue := by unfold State.setRegion; rfl
@[simp] theorem State.setRegion_package (s : State) (r : Nat) (x : Region) : (State.setRegion s r x).package = s.package := by unfold State.setRegion; rfl
@[simp] theorem State.setRegion_transfers (s : State) (r : Nat) (x : Region) : (State.setRegion s r x).transfers = s.transfers := by unfold State.setRegion; rfl
@[simp] theorem State.setRegion_banks (s : State) (r : Nat) (x : Region) : (State.setRegion s r x).banks = s.banks := by unfold State.setRegion; rfl
@[simp] theorem State.setRegion_fabric (s : State) (r : Nat) (x : Region) : (State.setRegion s r x).fabric = s.fabric := by unfold State.setRegion; rfl
@[simp] theorem State.setRegion_scale (s : State) (r : Nat) (x : Region) : (State.setRegion s r x).scale = s.scale := by unfold State.setRegion; rfl
@[simp] theorem State.setRegion_nv (s : State) (r : Nat) (x : Region) : (State.setRegion s r x).nv = s.nv := by unfold State.setRegion; rfl
@[simp] theorem State.setRegion_tel (s : State) (r : Nat) (x : Region) : (State.setRegion s r x).tel = s.tel := by unfold State.setRegion; rfl
@[simp] theorem State.setRegion_phase (s : State) (r : Nat) (x : Region) : (State.setRegion s r x).phase = s.phase := by unfold State.setRegion; rfl
@[simp] theorem State.setRegion_joined (s : State) (r : Nat) (x : Region) : (State.setRegion s r x).joined = s.joined := by unfold State.setRegion; rfl
@[simp] theorem State.setRegion_debug (s : State) (r : Nat) (x : Region) : (State.setRegion s r x).debug = s.debug := by unfold State.setRegion; rfl
@[simp] theorem State.setRegion_power (s : State) (r : Nat) (x : Region) : (State.setRegion s r x).power = s.power := by unfold State.setRegion; rfl
@[simp] theorem State.setRegion_presence (s : State) (r : Nat) (x : Region) : (State.setRegion s r x).presence = s.presence := by unfold State.setRegion; rfl
@[simp] theorem State.setRegion_host (s : State) (r : Nat) (x : Region) : (State.setRegion s r x).host = s.host := by unfold State.setRegion; rfl
@[simp] theorem State.setRegion_rings (s : State) (r : Nat) (x : Region) : (State.setRegion s r x).rings = s.rings := by unfold State.setRegion; rfl
@[simp] theorem State.setRegion_launches (s : State) (r : Nat) (x : Region) : (State.setRegion s r x).launches = s.launches := by unfold State.setRegion; rfl
@[simp] theorem State.setRegion_jobs (s : State) (r : Nat) (x : Region) : (State.setRegion s r x).jobs = s.jobs := by unfold State.setRegion; rfl
@[simp] theorem State.setRegion_tasting (s : State) (r : Nat) (x : Region) : (State.setRegion s r x).tasting = s.tasting := by unfold State.setRegion; rfl
@[simp] theorem State.setRegion_time (s : State) (r : Nat) (x : Region) : (State.setRegion s r x).time = s.time := by unfold State.setRegion; rfl
@[simp] theorem State.setRegion_ports (s : State) (r : Nat) (x : Region) : (State.setRegion s r x).ports = s.ports := by unfold State.setRegion; rfl
@[simp] theorem State.setRegion_bench (s : State) (r : Nat) (x : Region) : (State.setRegion s r x).bench = s.bench := by unfold State.setRegion; rfl
@[simp] theorem State.setRegion_groups (s : State) (r : Nat) (x : Region) : (State.setRegion s r x).groups = s.groups := by unfold State.setRegion; rfl

/-! ### State.setByte -/

@[simp] theorem State.setByte_pending (s : State) (r o : Nat) (b : Byte) : (State.setByte s r o b).pending = s.pending := by unfold State.setByte; rfl
@[simp] theorem State.setByte_out (s : State) (r o : Nat) (b : Byte) : (State.setByte s r o b).out = s.out := by unfold State.setByte; rfl
@[simp] theorem State.setByte_freeCount (s : State) (r o : Nat) (b : Byte) : (State.setByte s r o b).freeCount = s.freeCount := by unfold State.setByte; rfl
@[simp] theorem State.setByte_nextId (s : State) (r o : Nat) (b : Byte) : (State.setByte s r o b).nextId = s.nextId := by unfold State.setByte; rfl
@[simp] theorem State.setByte_timebase (s : State) (r o : Nat) (b : Byte) : (State.setByte s r o b).timebase = s.timebase := by unfold State.setByte; rfl
@[simp] theorem State.setByte_moduleNumber (s : State) (r o : Nat) (b : Byte) : (State.setByte s r o b).moduleNumber = s.moduleNumber := by unfold State.setByte; rfl
@[simp] theorem State.setByte_cells (s : State) (r o : Nat) (b : Byte) : (State.setByte s r o b).cells = s.cells := by unfold State.setByte; rfl
@[simp] theorem State.setByte_blocks (s : State) (r o : Nat) (b : Byte) : (State.setByte s r o b).blocks = s.blocks := by unfold State.setByte; rfl
@[simp] theorem State.setByte_regions (s : State) (r o : Nat) (b : Byte) : (State.setByte s r o b).regions = s.regions := by unfold State.setByte; rfl
@[simp] theorem State.setByte_memPoison (s : State) (r o : Nat) (b : Byte) : (State.setByte s r o b).memPoison = s.memPoison := by unfold State.setByte; rfl
@[simp] theorem State.setByte_homeQueue (s : State) (r o : Nat) (b : Byte) : (State.setByte s r o b).homeQueue = s.homeQueue := by unfold State.setByte; rfl
@[simp] theorem State.setByte_stackQueue (s : State) (r o : Nat) (b : Byte) : (State.setByte s r o b).stackQueue = s.stackQueue := by unfold State.setByte; rfl
@[simp] theorem State.setByte_package (s : State) (r o : Nat) (b : Byte) : (State.setByte s r o b).package = s.package := by unfold State.setByte; rfl
@[simp] theorem State.setByte_transfers (s : State) (r o : Nat) (b : Byte) : (State.setByte s r o b).transfers = s.transfers := by unfold State.setByte; rfl
@[simp] theorem State.setByte_banks (s : State) (r o : Nat) (b : Byte) : (State.setByte s r o b).banks = s.banks := by unfold State.setByte; rfl
@[simp] theorem State.setByte_fabric (s : State) (r o : Nat) (b : Byte) : (State.setByte s r o b).fabric = s.fabric := by unfold State.setByte; rfl
@[simp] theorem State.setByte_scale (s : State) (r o : Nat) (b : Byte) : (State.setByte s r o b).scale = s.scale := by unfold State.setByte; rfl
@[simp] theorem State.setByte_nv (s : State) (r o : Nat) (b : Byte) : (State.setByte s r o b).nv = s.nv := by unfold State.setByte; rfl
@[simp] theorem State.setByte_tel (s : State) (r o : Nat) (b : Byte) : (State.setByte s r o b).tel = s.tel := by unfold State.setByte; rfl
@[simp] theorem State.setByte_phase (s : State) (r o : Nat) (b : Byte) : (State.setByte s r o b).phase = s.phase := by unfold State.setByte; rfl
@[simp] theorem State.setByte_joined (s : State) (r o : Nat) (b : Byte) : (State.setByte s r o b).joined = s.joined := by unfold State.setByte; rfl
@[simp] theorem State.setByte_debug (s : State) (r o : Nat) (b : Byte) : (State.setByte s r o b).debug = s.debug := by unfold State.setByte; rfl
@[simp] theorem State.setByte_power (s : State) (r o : Nat) (b : Byte) : (State.setByte s r o b).power = s.power := by unfold State.setByte; rfl
@[simp] theorem State.setByte_presence (s : State) (r o : Nat) (b : Byte) : (State.setByte s r o b).presence = s.presence := by unfold State.setByte; rfl
@[simp] theorem State.setByte_host (s : State) (r o : Nat) (b : Byte) : (State.setByte s r o b).host = s.host := by unfold State.setByte; rfl
@[simp] theorem State.setByte_rings (s : State) (r o : Nat) (b : Byte) : (State.setByte s r o b).rings = s.rings := by unfold State.setByte; rfl
@[simp] theorem State.setByte_launches (s : State) (r o : Nat) (b : Byte) : (State.setByte s r o b).launches = s.launches := by unfold State.setByte; rfl
@[simp] theorem State.setByte_jobs (s : State) (r o : Nat) (b : Byte) : (State.setByte s r o b).jobs = s.jobs := by unfold State.setByte; rfl
@[simp] theorem State.setByte_tasting (s : State) (r o : Nat) (b : Byte) : (State.setByte s r o b).tasting = s.tasting := by unfold State.setByte; rfl
@[simp] theorem State.setByte_time (s : State) (r o : Nat) (b : Byte) : (State.setByte s r o b).time = s.time := by unfold State.setByte; rfl
@[simp] theorem State.setByte_ports (s : State) (r o : Nat) (b : Byte) : (State.setByte s r o b).ports = s.ports := by unfold State.setByte; rfl
@[simp] theorem State.setByte_bench (s : State) (r o : Nat) (b : Byte) : (State.setByte s r o b).bench = s.bench := by unfold State.setByte; rfl
@[simp] theorem State.setByte_groups (s : State) (r o : Nat) (b : Byte) : (State.setByte s r o b).groups = s.groups := by unfold State.setByte; rfl

/-! ### State.setPoison -/

@[simp] theorem State.setPoison_pending (s : State) (r o : Nat) (p : Bool) : (State.setPoison s r o p).pending = s.pending := by unfold State.setPoison; rfl
@[simp] theorem State.setPoison_out (s : State) (r o : Nat) (p : Bool) : (State.setPoison s r o p).out = s.out := by unfold State.setPoison; rfl
@[simp] theorem State.setPoison_freeCount (s : State) (r o : Nat) (p : Bool) : (State.setPoison s r o p).freeCount = s.freeCount := by unfold State.setPoison; rfl
@[simp] theorem State.setPoison_nextId (s : State) (r o : Nat) (p : Bool) : (State.setPoison s r o p).nextId = s.nextId := by unfold State.setPoison; rfl
@[simp] theorem State.setPoison_timebase (s : State) (r o : Nat) (p : Bool) : (State.setPoison s r o p).timebase = s.timebase := by unfold State.setPoison; rfl
@[simp] theorem State.setPoison_moduleNumber (s : State) (r o : Nat) (p : Bool) : (State.setPoison s r o p).moduleNumber = s.moduleNumber := by unfold State.setPoison; rfl
@[simp] theorem State.setPoison_cells (s : State) (r o : Nat) (p : Bool) : (State.setPoison s r o p).cells = s.cells := by unfold State.setPoison; rfl
@[simp] theorem State.setPoison_blocks (s : State) (r o : Nat) (p : Bool) : (State.setPoison s r o p).blocks = s.blocks := by unfold State.setPoison; rfl
@[simp] theorem State.setPoison_regions (s : State) (r o : Nat) (p : Bool) : (State.setPoison s r o p).regions = s.regions := by unfold State.setPoison; rfl
@[simp] theorem State.setPoison_mem (s : State) (r o : Nat) (p : Bool) : (State.setPoison s r o p).mem = s.mem := by unfold State.setPoison; rfl
@[simp] theorem State.setPoison_codeWrites (s : State) (r o : Nat) (p : Bool) : (State.setPoison s r o p).codeWrites = s.codeWrites := by unfold State.setPoison; rfl
@[simp] theorem State.setPoison_homeQueue (s : State) (r o : Nat) (p : Bool) : (State.setPoison s r o p).homeQueue = s.homeQueue := by unfold State.setPoison; rfl
@[simp] theorem State.setPoison_stackQueue (s : State) (r o : Nat) (p : Bool) : (State.setPoison s r o p).stackQueue = s.stackQueue := by unfold State.setPoison; rfl
@[simp] theorem State.setPoison_package (s : State) (r o : Nat) (p : Bool) : (State.setPoison s r o p).package = s.package := by unfold State.setPoison; rfl
@[simp] theorem State.setPoison_transfers (s : State) (r o : Nat) (p : Bool) : (State.setPoison s r o p).transfers = s.transfers := by unfold State.setPoison; rfl
@[simp] theorem State.setPoison_banks (s : State) (r o : Nat) (p : Bool) : (State.setPoison s r o p).banks = s.banks := by unfold State.setPoison; rfl
@[simp] theorem State.setPoison_fabric (s : State) (r o : Nat) (p : Bool) : (State.setPoison s r o p).fabric = s.fabric := by unfold State.setPoison; rfl
@[simp] theorem State.setPoison_scale (s : State) (r o : Nat) (p : Bool) : (State.setPoison s r o p).scale = s.scale := by unfold State.setPoison; rfl
@[simp] theorem State.setPoison_nv (s : State) (r o : Nat) (p : Bool) : (State.setPoison s r o p).nv = s.nv := by unfold State.setPoison; rfl
@[simp] theorem State.setPoison_tel (s : State) (r o : Nat) (p : Bool) : (State.setPoison s r o p).tel = s.tel := by unfold State.setPoison; rfl
@[simp] theorem State.setPoison_phase (s : State) (r o : Nat) (p : Bool) : (State.setPoison s r o p).phase = s.phase := by unfold State.setPoison; rfl
@[simp] theorem State.setPoison_joined (s : State) (r o : Nat) (p : Bool) : (State.setPoison s r o p).joined = s.joined := by unfold State.setPoison; rfl
@[simp] theorem State.setPoison_debug (s : State) (r o : Nat) (p : Bool) : (State.setPoison s r o p).debug = s.debug := by unfold State.setPoison; rfl
@[simp] theorem State.setPoison_power (s : State) (r o : Nat) (p : Bool) : (State.setPoison s r o p).power = s.power := by unfold State.setPoison; rfl
@[simp] theorem State.setPoison_presence (s : State) (r o : Nat) (p : Bool) : (State.setPoison s r o p).presence = s.presence := by unfold State.setPoison; rfl
@[simp] theorem State.setPoison_host (s : State) (r o : Nat) (p : Bool) : (State.setPoison s r o p).host = s.host := by unfold State.setPoison; rfl
@[simp] theorem State.setPoison_rings (s : State) (r o : Nat) (p : Bool) : (State.setPoison s r o p).rings = s.rings := by unfold State.setPoison; rfl
@[simp] theorem State.setPoison_launches (s : State) (r o : Nat) (p : Bool) : (State.setPoison s r o p).launches = s.launches := by unfold State.setPoison; rfl
@[simp] theorem State.setPoison_jobs (s : State) (r o : Nat) (p : Bool) : (State.setPoison s r o p).jobs = s.jobs := by unfold State.setPoison; rfl
@[simp] theorem State.setPoison_tasting (s : State) (r o : Nat) (p : Bool) : (State.setPoison s r o p).tasting = s.tasting := by unfold State.setPoison; rfl
@[simp] theorem State.setPoison_time (s : State) (r o : Nat) (p : Bool) : (State.setPoison s r o p).time = s.time := by unfold State.setPoison; rfl
@[simp] theorem State.setPoison_ports (s : State) (r o : Nat) (p : Bool) : (State.setPoison s r o p).ports = s.ports := by unfold State.setPoison; rfl
@[simp] theorem State.setPoison_bench (s : State) (r o : Nat) (p : Bool) : (State.setPoison s r o p).bench = s.bench := by unfold State.setPoison; rfl
@[simp] theorem State.setPoison_groups (s : State) (r o : Nat) (p : Bool) : (State.setPoison s r o p).groups = s.groups := by unfold State.setPoison; rfl

/-! ### State.emit -/

@[simp] theorem State.emit_pending (s : State) (o : Output) : (State.emit s o).pending = s.pending := by unfold State.emit; rfl
@[simp] theorem State.emit_freeCount (s : State) (o : Output) : (State.emit s o).freeCount = s.freeCount := by unfold State.emit; rfl
@[simp] theorem State.emit_nextId (s : State) (o : Output) : (State.emit s o).nextId = s.nextId := by unfold State.emit; rfl
@[simp] theorem State.emit_timebase (s : State) (o : Output) : (State.emit s o).timebase = s.timebase := by unfold State.emit; rfl
@[simp] theorem State.emit_moduleNumber (s : State) (o : Output) : (State.emit s o).moduleNumber = s.moduleNumber := by unfold State.emit; rfl
@[simp] theorem State.emit_cells (s : State) (o : Output) : (State.emit s o).cells = s.cells := by unfold State.emit; rfl
@[simp] theorem State.emit_blocks (s : State) (o : Output) : (State.emit s o).blocks = s.blocks := by unfold State.emit; rfl
@[simp] theorem State.emit_regions (s : State) (o : Output) : (State.emit s o).regions = s.regions := by unfold State.emit; rfl
@[simp] theorem State.emit_mem (s : State) (o : Output) : (State.emit s o).mem = s.mem := by unfold State.emit; rfl
@[simp] theorem State.emit_memPoison (s : State) (o : Output) : (State.emit s o).memPoison = s.memPoison := by unfold State.emit; rfl
@[simp] theorem State.emit_codeWrites (s : State) (o : Output) : (State.emit s o).codeWrites = s.codeWrites := by unfold State.emit; rfl
@[simp] theorem State.emit_homeQueue (s : State) (o : Output) : (State.emit s o).homeQueue = s.homeQueue := by unfold State.emit; rfl
@[simp] theorem State.emit_stackQueue (s : State) (o : Output) : (State.emit s o).stackQueue = s.stackQueue := by unfold State.emit; rfl
@[simp] theorem State.emit_package (s : State) (o : Output) : (State.emit s o).package = s.package := by unfold State.emit; rfl
@[simp] theorem State.emit_transfers (s : State) (o : Output) : (State.emit s o).transfers = s.transfers := by unfold State.emit; rfl
@[simp] theorem State.emit_banks (s : State) (o : Output) : (State.emit s o).banks = s.banks := by unfold State.emit; rfl
@[simp] theorem State.emit_fabric (s : State) (o : Output) : (State.emit s o).fabric = s.fabric := by unfold State.emit; rfl
@[simp] theorem State.emit_scale (s : State) (o : Output) : (State.emit s o).scale = s.scale := by unfold State.emit; rfl
@[simp] theorem State.emit_nv (s : State) (o : Output) : (State.emit s o).nv = s.nv := by unfold State.emit; rfl
@[simp] theorem State.emit_tel (s : State) (o : Output) : (State.emit s o).tel = s.tel := by unfold State.emit; rfl
@[simp] theorem State.emit_phase (s : State) (o : Output) : (State.emit s o).phase = s.phase := by unfold State.emit; rfl
@[simp] theorem State.emit_joined (s : State) (o : Output) : (State.emit s o).joined = s.joined := by unfold State.emit; rfl
@[simp] theorem State.emit_debug (s : State) (o : Output) : (State.emit s o).debug = s.debug := by unfold State.emit; rfl
@[simp] theorem State.emit_power (s : State) (o : Output) : (State.emit s o).power = s.power := by unfold State.emit; rfl
@[simp] theorem State.emit_presence (s : State) (o : Output) : (State.emit s o).presence = s.presence := by unfold State.emit; rfl
@[simp] theorem State.emit_host (s : State) (o : Output) : (State.emit s o).host = s.host := by unfold State.emit; rfl
@[simp] theorem State.emit_rings (s : State) (o : Output) : (State.emit s o).rings = s.rings := by unfold State.emit; rfl
@[simp] theorem State.emit_launches (s : State) (o : Output) : (State.emit s o).launches = s.launches := by unfold State.emit; rfl
@[simp] theorem State.emit_jobs (s : State) (o : Output) : (State.emit s o).jobs = s.jobs := by unfold State.emit; rfl
@[simp] theorem State.emit_tasting (s : State) (o : Output) : (State.emit s o).tasting = s.tasting := by unfold State.emit; rfl
@[simp] theorem State.emit_time (s : State) (o : Output) : (State.emit s o).time = s.time := by unfold State.emit; rfl
@[simp] theorem State.emit_ports (s : State) (o : Output) : (State.emit s o).ports = s.ports := by unfold State.emit; rfl
@[simp] theorem State.emit_bench (s : State) (o : Output) : (State.emit s o).bench = s.bench := by unfold State.emit; rfl
@[simp] theorem State.emit_groups (s : State) (o : Output) : (State.emit s o).groups = s.groups := by unfold State.emit; rfl

/-! ### State.count -/

@[simp] theorem State.count_pending (s : State) (k : Counter) (p i n : Nat) : (State.count s k p i n).pending = s.pending := by unfold State.count; rfl
@[simp] theorem State.count_out (s : State) (k : Counter) (p i n : Nat) : (State.count s k p i n).out = s.out := by unfold State.count; rfl
@[simp] theorem State.count_freeCount (s : State) (k : Counter) (p i n : Nat) : (State.count s k p i n).freeCount = s.freeCount := by unfold State.count; rfl
@[simp] theorem State.count_nextId (s : State) (k : Counter) (p i n : Nat) : (State.count s k p i n).nextId = s.nextId := by unfold State.count; rfl
@[simp] theorem State.count_timebase (s : State) (k : Counter) (p i n : Nat) : (State.count s k p i n).timebase = s.timebase := by unfold State.count; rfl
@[simp] theorem State.count_moduleNumber (s : State) (k : Counter) (p i n : Nat) : (State.count s k p i n).moduleNumber = s.moduleNumber := by unfold State.count; rfl
@[simp] theorem State.count_cells (s : State) (k : Counter) (p i n : Nat) : (State.count s k p i n).cells = s.cells := by unfold State.count; rfl
@[simp] theorem State.count_blocks (s : State) (k : Counter) (p i n : Nat) : (State.count s k p i n).blocks = s.blocks := by unfold State.count; rfl
@[simp] theorem State.count_regions (s : State) (k : Counter) (p i n : Nat) : (State.count s k p i n).regions = s.regions := by unfold State.count; rfl
@[simp] theorem State.count_mem (s : State) (k : Counter) (p i n : Nat) : (State.count s k p i n).mem = s.mem := by unfold State.count; rfl
@[simp] theorem State.count_memPoison (s : State) (k : Counter) (p i n : Nat) : (State.count s k p i n).memPoison = s.memPoison := by unfold State.count; rfl
@[simp] theorem State.count_codeWrites (s : State) (k : Counter) (p i n : Nat) : (State.count s k p i n).codeWrites = s.codeWrites := by unfold State.count; rfl
@[simp] theorem State.count_homeQueue (s : State) (k : Counter) (p i n : Nat) : (State.count s k p i n).homeQueue = s.homeQueue := by unfold State.count; rfl
@[simp] theorem State.count_stackQueue (s : State) (k : Counter) (p i n : Nat) : (State.count s k p i n).stackQueue = s.stackQueue := by unfold State.count; rfl
@[simp] theorem State.count_package (s : State) (k : Counter) (p i n : Nat) : (State.count s k p i n).package = s.package := by unfold State.count; rfl
@[simp] theorem State.count_transfers (s : State) (k : Counter) (p i n : Nat) : (State.count s k p i n).transfers = s.transfers := by unfold State.count; rfl
@[simp] theorem State.count_banks (s : State) (k : Counter) (p i n : Nat) : (State.count s k p i n).banks = s.banks := by unfold State.count; rfl
@[simp] theorem State.count_fabric (s : State) (k : Counter) (p i n : Nat) : (State.count s k p i n).fabric = s.fabric := by unfold State.count; rfl
@[simp] theorem State.count_scale (s : State) (k : Counter) (p i n : Nat) : (State.count s k p i n).scale = s.scale := by unfold State.count; rfl
@[simp] theorem State.count_nv (s : State) (k : Counter) (p i n : Nat) : (State.count s k p i n).nv = s.nv := by unfold State.count; rfl
@[simp] theorem State.count_phase (s : State) (k : Counter) (p i n : Nat) : (State.count s k p i n).phase = s.phase := by unfold State.count; rfl
@[simp] theorem State.count_joined (s : State) (k : Counter) (p i n : Nat) : (State.count s k p i n).joined = s.joined := by unfold State.count; rfl
@[simp] theorem State.count_debug (s : State) (k : Counter) (p i n : Nat) : (State.count s k p i n).debug = s.debug := by unfold State.count; rfl
@[simp] theorem State.count_power (s : State) (k : Counter) (p i n : Nat) : (State.count s k p i n).power = s.power := by unfold State.count; rfl
@[simp] theorem State.count_presence (s : State) (k : Counter) (p i n : Nat) : (State.count s k p i n).presence = s.presence := by unfold State.count; rfl
@[simp] theorem State.count_host (s : State) (k : Counter) (p i n : Nat) : (State.count s k p i n).host = s.host := by unfold State.count; rfl
@[simp] theorem State.count_rings (s : State) (k : Counter) (p i n : Nat) : (State.count s k p i n).rings = s.rings := by unfold State.count; rfl
@[simp] theorem State.count_launches (s : State) (k : Counter) (p i n : Nat) : (State.count s k p i n).launches = s.launches := by unfold State.count; rfl
@[simp] theorem State.count_jobs (s : State) (k : Counter) (p i n : Nat) : (State.count s k p i n).jobs = s.jobs := by unfold State.count; rfl
@[simp] theorem State.count_tasting (s : State) (k : Counter) (p i n : Nat) : (State.count s k p i n).tasting = s.tasting := by unfold State.count; rfl
@[simp] theorem State.count_time (s : State) (k : Counter) (p i n : Nat) : (State.count s k p i n).time = s.time := by unfold State.count; rfl
@[simp] theorem State.count_ports (s : State) (k : Counter) (p i n : Nat) : (State.count s k p i n).ports = s.ports := by unfold State.count; rfl
@[simp] theorem State.count_bench (s : State) (k : Counter) (p i n : Nat) : (State.count s k p i n).bench = s.bench := by unfold State.count; rfl
@[simp] theorem State.count_groups (s : State) (k : Counter) (p i n : Nat) : (State.count s k p i n).groups = s.groups := by unfold State.count; rfl

/-! ### State.flag -/

@[simp] theorem State.flag_pending (s : State) (b : Nat) : (State.flag s b).pending = s.pending := by unfold State.flag; rfl
@[simp] theorem State.flag_out (s : State) (b : Nat) : (State.flag s b).out = s.out := by unfold State.flag; rfl
@[simp] theorem State.flag_freeCount (s : State) (b : Nat) : (State.flag s b).freeCount = s.freeCount := by unfold State.flag; rfl
@[simp] theorem State.flag_nextId (s : State) (b : Nat) : (State.flag s b).nextId = s.nextId := by unfold State.flag; rfl
@[simp] theorem State.flag_timebase (s : State) (b : Nat) : (State.flag s b).timebase = s.timebase := by unfold State.flag; rfl
@[simp] theorem State.flag_moduleNumber (s : State) (b : Nat) : (State.flag s b).moduleNumber = s.moduleNumber := by unfold State.flag; rfl
@[simp] theorem State.flag_cells (s : State) (b : Nat) : (State.flag s b).cells = s.cells := by unfold State.flag; rfl
@[simp] theorem State.flag_blocks (s : State) (b : Nat) : (State.flag s b).blocks = s.blocks := by unfold State.flag; rfl
@[simp] theorem State.flag_regions (s : State) (b : Nat) : (State.flag s b).regions = s.regions := by unfold State.flag; rfl
@[simp] theorem State.flag_mem (s : State) (b : Nat) : (State.flag s b).mem = s.mem := by unfold State.flag; rfl
@[simp] theorem State.flag_memPoison (s : State) (b : Nat) : (State.flag s b).memPoison = s.memPoison := by unfold State.flag; rfl
@[simp] theorem State.flag_codeWrites (s : State) (b : Nat) : (State.flag s b).codeWrites = s.codeWrites := by unfold State.flag; rfl
@[simp] theorem State.flag_homeQueue (s : State) (b : Nat) : (State.flag s b).homeQueue = s.homeQueue := by unfold State.flag; rfl
@[simp] theorem State.flag_stackQueue (s : State) (b : Nat) : (State.flag s b).stackQueue = s.stackQueue := by unfold State.flag; rfl
@[simp] theorem State.flag_package (s : State) (b : Nat) : (State.flag s b).package = s.package := by unfold State.flag; rfl
@[simp] theorem State.flag_transfers (s : State) (b : Nat) : (State.flag s b).transfers = s.transfers := by unfold State.flag; rfl
@[simp] theorem State.flag_banks (s : State) (b : Nat) : (State.flag s b).banks = s.banks := by unfold State.flag; rfl
@[simp] theorem State.flag_fabric (s : State) (b : Nat) : (State.flag s b).fabric = s.fabric := by unfold State.flag; rfl
@[simp] theorem State.flag_scale (s : State) (b : Nat) : (State.flag s b).scale = s.scale := by unfold State.flag; rfl
@[simp] theorem State.flag_nv (s : State) (b : Nat) : (State.flag s b).nv = s.nv := by unfold State.flag; rfl
@[simp] theorem State.flag_phase (s : State) (b : Nat) : (State.flag s b).phase = s.phase := by unfold State.flag; rfl
@[simp] theorem State.flag_joined (s : State) (b : Nat) : (State.flag s b).joined = s.joined := by unfold State.flag; rfl
@[simp] theorem State.flag_debug (s : State) (b : Nat) : (State.flag s b).debug = s.debug := by unfold State.flag; rfl
@[simp] theorem State.flag_power (s : State) (b : Nat) : (State.flag s b).power = s.power := by unfold State.flag; rfl
@[simp] theorem State.flag_presence (s : State) (b : Nat) : (State.flag s b).presence = s.presence := by unfold State.flag; rfl
@[simp] theorem State.flag_host (s : State) (b : Nat) : (State.flag s b).host = s.host := by unfold State.flag; rfl
@[simp] theorem State.flag_rings (s : State) (b : Nat) : (State.flag s b).rings = s.rings := by unfold State.flag; rfl
@[simp] theorem State.flag_launches (s : State) (b : Nat) : (State.flag s b).launches = s.launches := by unfold State.flag; rfl
@[simp] theorem State.flag_jobs (s : State) (b : Nat) : (State.flag s b).jobs = s.jobs := by unfold State.flag; rfl
@[simp] theorem State.flag_tasting (s : State) (b : Nat) : (State.flag s b).tasting = s.tasting := by unfold State.flag; rfl
@[simp] theorem State.flag_time (s : State) (b : Nat) : (State.flag s b).time = s.time := by unfold State.flag; rfl
@[simp] theorem State.flag_ports (s : State) (b : Nat) : (State.flag s b).ports = s.ports := by unfold State.flag; rfl
@[simp] theorem State.flag_bench (s : State) (b : Nat) : (State.flag s b).bench = s.bench := by unfold State.flag; rfl
@[simp] theorem State.flag_groups (s : State) (b : Nat) : (State.flag s b).groups = s.groups := by unfold State.flag; rfl

/-! ### State.log -/

@[simp] theorem State.log_pending (s : State) (y k o : Nat) (j : Half) (d : List Nat) : (State.log s y k o j d).pending = s.pending := by unfold State.log; rfl
@[simp] theorem State.log_out (s : State) (y k o : Nat) (j : Half) (d : List Nat) : (State.log s y k o j d).out = s.out := by unfold State.log; rfl
@[simp] theorem State.log_freeCount (s : State) (y k o : Nat) (j : Half) (d : List Nat) : (State.log s y k o j d).freeCount = s.freeCount := by unfold State.log; rfl
@[simp] theorem State.log_nextId (s : State) (y k o : Nat) (j : Half) (d : List Nat) : (State.log s y k o j d).nextId = s.nextId := by unfold State.log; rfl
@[simp] theorem State.log_timebase (s : State) (y k o : Nat) (j : Half) (d : List Nat) : (State.log s y k o j d).timebase = s.timebase := by unfold State.log; rfl
@[simp] theorem State.log_moduleNumber (s : State) (y k o : Nat) (j : Half) (d : List Nat) : (State.log s y k o j d).moduleNumber = s.moduleNumber := by unfold State.log; rfl
@[simp] theorem State.log_cells (s : State) (y k o : Nat) (j : Half) (d : List Nat) : (State.log s y k o j d).cells = s.cells := by unfold State.log; rfl
@[simp] theorem State.log_blocks (s : State) (y k o : Nat) (j : Half) (d : List Nat) : (State.log s y k o j d).blocks = s.blocks := by unfold State.log; rfl
@[simp] theorem State.log_regions (s : State) (y k o : Nat) (j : Half) (d : List Nat) : (State.log s y k o j d).regions = s.regions := by unfold State.log; rfl
@[simp] theorem State.log_mem (s : State) (y k o : Nat) (j : Half) (d : List Nat) : (State.log s y k o j d).mem = s.mem := by unfold State.log; rfl
@[simp] theorem State.log_memPoison (s : State) (y k o : Nat) (j : Half) (d : List Nat) : (State.log s y k o j d).memPoison = s.memPoison := by unfold State.log; rfl
@[simp] theorem State.log_codeWrites (s : State) (y k o : Nat) (j : Half) (d : List Nat) : (State.log s y k o j d).codeWrites = s.codeWrites := by unfold State.log; rfl
@[simp] theorem State.log_homeQueue (s : State) (y k o : Nat) (j : Half) (d : List Nat) : (State.log s y k o j d).homeQueue = s.homeQueue := by unfold State.log; rfl
@[simp] theorem State.log_stackQueue (s : State) (y k o : Nat) (j : Half) (d : List Nat) : (State.log s y k o j d).stackQueue = s.stackQueue := by unfold State.log; rfl
@[simp] theorem State.log_package (s : State) (y k o : Nat) (j : Half) (d : List Nat) : (State.log s y k o j d).package = s.package := by unfold State.log; rfl
@[simp] theorem State.log_transfers (s : State) (y k o : Nat) (j : Half) (d : List Nat) : (State.log s y k o j d).transfers = s.transfers := by unfold State.log; rfl
@[simp] theorem State.log_banks (s : State) (y k o : Nat) (j : Half) (d : List Nat) : (State.log s y k o j d).banks = s.banks := by unfold State.log; rfl
@[simp] theorem State.log_fabric (s : State) (y k o : Nat) (j : Half) (d : List Nat) : (State.log s y k o j d).fabric = s.fabric := by unfold State.log; rfl
@[simp] theorem State.log_scale (s : State) (y k o : Nat) (j : Half) (d : List Nat) : (State.log s y k o j d).scale = s.scale := by unfold State.log; rfl
@[simp] theorem State.log_nv (s : State) (y k o : Nat) (j : Half) (d : List Nat) : (State.log s y k o j d).nv = s.nv := by unfold State.log; rfl
@[simp] theorem State.log_phase (s : State) (y k o : Nat) (j : Half) (d : List Nat) : (State.log s y k o j d).phase = s.phase := by unfold State.log; rfl
@[simp] theorem State.log_joined (s : State) (y k o : Nat) (j : Half) (d : List Nat) : (State.log s y k o j d).joined = s.joined := by unfold State.log; rfl
@[simp] theorem State.log_debug (s : State) (y k o : Nat) (j : Half) (d : List Nat) : (State.log s y k o j d).debug = s.debug := by unfold State.log; rfl
@[simp] theorem State.log_power (s : State) (y k o : Nat) (j : Half) (d : List Nat) : (State.log s y k o j d).power = s.power := by unfold State.log; rfl
@[simp] theorem State.log_presence (s : State) (y k o : Nat) (j : Half) (d : List Nat) : (State.log s y k o j d).presence = s.presence := by unfold State.log; rfl
@[simp] theorem State.log_host (s : State) (y k o : Nat) (j : Half) (d : List Nat) : (State.log s y k o j d).host = s.host := by unfold State.log; rfl
@[simp] theorem State.log_rings (s : State) (y k o : Nat) (j : Half) (d : List Nat) : (State.log s y k o j d).rings = s.rings := by unfold State.log; rfl
@[simp] theorem State.log_launches (s : State) (y k o : Nat) (j : Half) (d : List Nat) : (State.log s y k o j d).launches = s.launches := by unfold State.log; rfl
@[simp] theorem State.log_jobs (s : State) (y k o : Nat) (j : Half) (d : List Nat) : (State.log s y k o j d).jobs = s.jobs := by unfold State.log; rfl
@[simp] theorem State.log_tasting (s : State) (y k o : Nat) (j : Half) (d : List Nat) : (State.log s y k o j d).tasting = s.tasting := by unfold State.log; rfl
@[simp] theorem State.log_time (s : State) (y k o : Nat) (j : Half) (d : List Nat) : (State.log s y k o j d).time = s.time := by unfold State.log; rfl
@[simp] theorem State.log_ports (s : State) (y k o : Nat) (j : Half) (d : List Nat) : (State.log s y k o j d).ports = s.ports := by unfold State.log; rfl
@[simp] theorem State.log_bench (s : State) (y k o : Nat) (j : Half) (d : List Nat) : (State.log s y k o j d).bench = s.bench := by unfold State.log; rfl
@[simp] theorem State.log_groups (s : State) (y k o : Nat) (j : Half) (d : List Nat) : (State.log s y k o j d).groups = s.groups := by unfold State.log; rfl

/-! ### State.endEpisode -/

@[simp] theorem State.endEpisode_pending (s : State) (c k o u : Nat) : (State.endEpisode s c k o u).pending = s.pending := by unfold State.endEpisode; rfl
@[simp] theorem State.endEpisode_out (s : State) (c k o u : Nat) : (State.endEpisode s c k o u).out = s.out := by unfold State.endEpisode; rfl
@[simp] theorem State.endEpisode_freeCount (s : State) (c k o u : Nat) : (State.endEpisode s c k o u).freeCount = s.freeCount := by unfold State.endEpisode; rfl
@[simp] theorem State.endEpisode_nextId (s : State) (c k o u : Nat) : (State.endEpisode s c k o u).nextId = s.nextId := by unfold State.endEpisode; rfl
@[simp] theorem State.endEpisode_timebase (s : State) (c k o u : Nat) : (State.endEpisode s c k o u).timebase = s.timebase := by unfold State.endEpisode; rfl
@[simp] theorem State.endEpisode_moduleNumber (s : State) (c k o u : Nat) : (State.endEpisode s c k o u).moduleNumber = s.moduleNumber := by unfold State.endEpisode; rfl
@[simp] theorem State.endEpisode_cells (s : State) (c k o u : Nat) : (State.endEpisode s c k o u).cells = s.cells := by unfold State.endEpisode; rfl
@[simp] theorem State.endEpisode_blocks (s : State) (c k o u : Nat) : (State.endEpisode s c k o u).blocks = s.blocks := by unfold State.endEpisode; rfl
@[simp] theorem State.endEpisode_regions (s : State) (c k o u : Nat) : (State.endEpisode s c k o u).regions = s.regions := by unfold State.endEpisode; rfl
@[simp] theorem State.endEpisode_mem (s : State) (c k o u : Nat) : (State.endEpisode s c k o u).mem = s.mem := by unfold State.endEpisode; rfl
@[simp] theorem State.endEpisode_memPoison (s : State) (c k o u : Nat) : (State.endEpisode s c k o u).memPoison = s.memPoison := by unfold State.endEpisode; rfl
@[simp] theorem State.endEpisode_codeWrites (s : State) (c k o u : Nat) : (State.endEpisode s c k o u).codeWrites = s.codeWrites := by unfold State.endEpisode; rfl
@[simp] theorem State.endEpisode_homeQueue (s : State) (c k o u : Nat) : (State.endEpisode s c k o u).homeQueue = s.homeQueue := by unfold State.endEpisode; rfl
@[simp] theorem State.endEpisode_stackQueue (s : State) (c k o u : Nat) : (State.endEpisode s c k o u).stackQueue = s.stackQueue := by unfold State.endEpisode; rfl
@[simp] theorem State.endEpisode_package (s : State) (c k o u : Nat) : (State.endEpisode s c k o u).package = s.package := by unfold State.endEpisode; rfl
@[simp] theorem State.endEpisode_transfers (s : State) (c k o u : Nat) : (State.endEpisode s c k o u).transfers = s.transfers := by unfold State.endEpisode; rfl
@[simp] theorem State.endEpisode_banks (s : State) (c k o u : Nat) : (State.endEpisode s c k o u).banks = s.banks := by unfold State.endEpisode; rfl
@[simp] theorem State.endEpisode_fabric (s : State) (c k o u : Nat) : (State.endEpisode s c k o u).fabric = s.fabric := by unfold State.endEpisode; rfl
@[simp] theorem State.endEpisode_scale (s : State) (c k o u : Nat) : (State.endEpisode s c k o u).scale = s.scale := by unfold State.endEpisode; rfl
@[simp] theorem State.endEpisode_nv (s : State) (c k o u : Nat) : (State.endEpisode s c k o u).nv = s.nv := by unfold State.endEpisode; rfl
@[simp] theorem State.endEpisode_phase (s : State) (c k o u : Nat) : (State.endEpisode s c k o u).phase = s.phase := by unfold State.endEpisode; rfl
@[simp] theorem State.endEpisode_joined (s : State) (c k o u : Nat) : (State.endEpisode s c k o u).joined = s.joined := by unfold State.endEpisode; rfl
@[simp] theorem State.endEpisode_debug (s : State) (c k o u : Nat) : (State.endEpisode s c k o u).debug = s.debug := by unfold State.endEpisode; rfl
@[simp] theorem State.endEpisode_power (s : State) (c k o u : Nat) : (State.endEpisode s c k o u).power = s.power := by unfold State.endEpisode; rfl
@[simp] theorem State.endEpisode_presence (s : State) (c k o u : Nat) : (State.endEpisode s c k o u).presence = s.presence := by unfold State.endEpisode; rfl
@[simp] theorem State.endEpisode_host (s : State) (c k o u : Nat) : (State.endEpisode s c k o u).host = s.host := by unfold State.endEpisode; rfl
@[simp] theorem State.endEpisode_rings (s : State) (c k o u : Nat) : (State.endEpisode s c k o u).rings = s.rings := by unfold State.endEpisode; rfl
@[simp] theorem State.endEpisode_launches (s : State) (c k o u : Nat) : (State.endEpisode s c k o u).launches = s.launches := by unfold State.endEpisode; rfl
@[simp] theorem State.endEpisode_jobs (s : State) (c k o u : Nat) : (State.endEpisode s c k o u).jobs = s.jobs := by unfold State.endEpisode; rfl
@[simp] theorem State.endEpisode_tasting (s : State) (c k o u : Nat) : (State.endEpisode s c k o u).tasting = s.tasting := by unfold State.endEpisode; rfl
@[simp] theorem State.endEpisode_time (s : State) (c k o u : Nat) : (State.endEpisode s c k o u).time = s.time := by unfold State.endEpisode; rfl
@[simp] theorem State.endEpisode_ports (s : State) (c k o u : Nat) : (State.endEpisode s c k o u).ports = s.ports := by unfold State.endEpisode; rfl
@[simp] theorem State.endEpisode_bench (s : State) (c k o u : Nat) : (State.endEpisode s c k o u).bench = s.bench := by unfold State.endEpisode; rfl
@[simp] theorem State.endEpisode_groups (s : State) (c k o u : Nat) : (State.endEpisode s c k o u).groups = s.groups := by unfold State.endEpisode; rfl

/-! ### State.withdraw -/

@[simp] theorem State.withdraw_pending (s : State) (p : ProoferObject → Bool) : (State.withdraw s p).pending = s.pending := by unfold State.withdraw; rfl
@[simp] theorem State.withdraw_out (s : State) (p : ProoferObject → Bool) : (State.withdraw s p).out = s.out := by unfold State.withdraw; rfl
@[simp] theorem State.withdraw_freeCount (s : State) (p : ProoferObject → Bool) : (State.withdraw s p).freeCount = s.freeCount := by unfold State.withdraw; rfl
@[simp] theorem State.withdraw_nextId (s : State) (p : ProoferObject → Bool) : (State.withdraw s p).nextId = s.nextId := by unfold State.withdraw; rfl
@[simp] theorem State.withdraw_timebase (s : State) (p : ProoferObject → Bool) : (State.withdraw s p).timebase = s.timebase := by unfold State.withdraw; rfl
@[simp] theorem State.withdraw_moduleNumber (s : State) (p : ProoferObject → Bool) : (State.withdraw s p).moduleNumber = s.moduleNumber := by unfold State.withdraw; rfl
@[simp] theorem State.withdraw_cells (s : State) (p : ProoferObject → Bool) : (State.withdraw s p).cells = s.cells := by unfold State.withdraw; rfl
@[simp] theorem State.withdraw_blocks (s : State) (p : ProoferObject → Bool) : (State.withdraw s p).blocks = s.blocks := by unfold State.withdraw; rfl
@[simp] theorem State.withdraw_regions (s : State) (p : ProoferObject → Bool) : (State.withdraw s p).regions = s.regions := by unfold State.withdraw; rfl
@[simp] theorem State.withdraw_mem (s : State) (p : ProoferObject → Bool) : (State.withdraw s p).mem = s.mem := by unfold State.withdraw; rfl
@[simp] theorem State.withdraw_memPoison (s : State) (p : ProoferObject → Bool) : (State.withdraw s p).memPoison = s.memPoison := by unfold State.withdraw; rfl
@[simp] theorem State.withdraw_codeWrites (s : State) (p : ProoferObject → Bool) : (State.withdraw s p).codeWrites = s.codeWrites := by unfold State.withdraw; rfl
@[simp] theorem State.withdraw_homeQueue (s : State) (p : ProoferObject → Bool) : (State.withdraw s p).homeQueue = s.homeQueue := by unfold State.withdraw; rfl
@[simp] theorem State.withdraw_stackQueue (s : State) (p : ProoferObject → Bool) : (State.withdraw s p).stackQueue = s.stackQueue := by unfold State.withdraw; rfl
@[simp] theorem State.withdraw_package (s : State) (p : ProoferObject → Bool) : (State.withdraw s p).package = s.package := by unfold State.withdraw; rfl
@[simp] theorem State.withdraw_transfers (s : State) (p : ProoferObject → Bool) : (State.withdraw s p).transfers = s.transfers := by unfold State.withdraw; rfl
@[simp] theorem State.withdraw_banks (s : State) (p : ProoferObject → Bool) : (State.withdraw s p).banks = s.banks := by unfold State.withdraw; rfl
@[simp] theorem State.withdraw_fabric (s : State) (p : ProoferObject → Bool) : (State.withdraw s p).fabric = s.fabric := by unfold State.withdraw; rfl
@[simp] theorem State.withdraw_scale (s : State) (p : ProoferObject → Bool) : (State.withdraw s p).scale = s.scale := by unfold State.withdraw; rfl
@[simp] theorem State.withdraw_nv (s : State) (p : ProoferObject → Bool) : (State.withdraw s p).nv = s.nv := by unfold State.withdraw; rfl
@[simp] theorem State.withdraw_tel (s : State) (p : ProoferObject → Bool) : (State.withdraw s p).tel = s.tel := by unfold State.withdraw; rfl
@[simp] theorem State.withdraw_phase (s : State) (p : ProoferObject → Bool) : (State.withdraw s p).phase = s.phase := by unfold State.withdraw; rfl
@[simp] theorem State.withdraw_joined (s : State) (p : ProoferObject → Bool) : (State.withdraw s p).joined = s.joined := by unfold State.withdraw; rfl
@[simp] theorem State.withdraw_debug (s : State) (p : ProoferObject → Bool) : (State.withdraw s p).debug = s.debug := by unfold State.withdraw; rfl
@[simp] theorem State.withdraw_presence (s : State) (p : ProoferObject → Bool) : (State.withdraw s p).presence = s.presence := by unfold State.withdraw; rfl
@[simp] theorem State.withdraw_host (s : State) (p : ProoferObject → Bool) : (State.withdraw s p).host = s.host := by unfold State.withdraw; rfl
@[simp] theorem State.withdraw_rings (s : State) (p : ProoferObject → Bool) : (State.withdraw s p).rings = s.rings := by unfold State.withdraw; rfl
@[simp] theorem State.withdraw_launches (s : State) (p : ProoferObject → Bool) : (State.withdraw s p).launches = s.launches := by unfold State.withdraw; rfl
@[simp] theorem State.withdraw_jobs (s : State) (p : ProoferObject → Bool) : (State.withdraw s p).jobs = s.jobs := by unfold State.withdraw; rfl
@[simp] theorem State.withdraw_tasting (s : State) (p : ProoferObject → Bool) : (State.withdraw s p).tasting = s.tasting := by unfold State.withdraw; rfl
@[simp] theorem State.withdraw_time (s : State) (p : ProoferObject → Bool) : (State.withdraw s p).time = s.time := by unfold State.withdraw; rfl
@[simp] theorem State.withdraw_ports (s : State) (p : ProoferObject → Bool) : (State.withdraw s p).ports = s.ports := by unfold State.withdraw; rfl
@[simp] theorem State.withdraw_bench (s : State) (p : ProoferObject → Bool) : (State.withdraw s p).bench = s.bench := by unfold State.withdraw; rfl
@[simp] theorem State.withdraw_groups (s : State) (p : ProoferObject → Bool) : (State.withdraw s p).groups = s.groups := by unfold State.withdraw; rfl

/-! ### State.unhold -/

@[simp] theorem State.unhold_pending (s : State) (p : FallItem → Bool) : (State.unhold s p).pending = s.pending := by unfold State.unhold; rfl
@[simp] theorem State.unhold_out (s : State) (p : FallItem → Bool) : (State.unhold s p).out = s.out := by unfold State.unhold; rfl
@[simp] theorem State.unhold_freeCount (s : State) (p : FallItem → Bool) : (State.unhold s p).freeCount = s.freeCount := by unfold State.unhold; rfl
@[simp] theorem State.unhold_nextId (s : State) (p : FallItem → Bool) : (State.unhold s p).nextId = s.nextId := by unfold State.unhold; rfl
@[simp] theorem State.unhold_timebase (s : State) (p : FallItem → Bool) : (State.unhold s p).timebase = s.timebase := by unfold State.unhold; rfl
@[simp] theorem State.unhold_moduleNumber (s : State) (p : FallItem → Bool) : (State.unhold s p).moduleNumber = s.moduleNumber := by unfold State.unhold; rfl
@[simp] theorem State.unhold_cells (s : State) (p : FallItem → Bool) : (State.unhold s p).cells = s.cells := by unfold State.unhold; rfl
@[simp] theorem State.unhold_blocks (s : State) (p : FallItem → Bool) : (State.unhold s p).blocks = s.blocks := by unfold State.unhold; rfl
@[simp] theorem State.unhold_regions (s : State) (p : FallItem → Bool) : (State.unhold s p).regions = s.regions := by unfold State.unhold; rfl
@[simp] theorem State.unhold_mem (s : State) (p : FallItem → Bool) : (State.unhold s p).mem = s.mem := by unfold State.unhold; rfl
@[simp] theorem State.unhold_memPoison (s : State) (p : FallItem → Bool) : (State.unhold s p).memPoison = s.memPoison := by unfold State.unhold; rfl
@[simp] theorem State.unhold_codeWrites (s : State) (p : FallItem → Bool) : (State.unhold s p).codeWrites = s.codeWrites := by unfold State.unhold; rfl
@[simp] theorem State.unhold_homeQueue (s : State) (p : FallItem → Bool) : (State.unhold s p).homeQueue = s.homeQueue := by unfold State.unhold; rfl
@[simp] theorem State.unhold_stackQueue (s : State) (p : FallItem → Bool) : (State.unhold s p).stackQueue = s.stackQueue := by unfold State.unhold; rfl
@[simp] theorem State.unhold_package (s : State) (p : FallItem → Bool) : (State.unhold s p).package = s.package := by unfold State.unhold; rfl
@[simp] theorem State.unhold_transfers (s : State) (p : FallItem → Bool) : (State.unhold s p).transfers = s.transfers := by unfold State.unhold; rfl
@[simp] theorem State.unhold_banks (s : State) (p : FallItem → Bool) : (State.unhold s p).banks = s.banks := by unfold State.unhold; rfl
@[simp] theorem State.unhold_fabric (s : State) (p : FallItem → Bool) : (State.unhold s p).fabric = s.fabric := by unfold State.unhold; rfl
@[simp] theorem State.unhold_scale (s : State) (p : FallItem → Bool) : (State.unhold s p).scale = s.scale := by unfold State.unhold; rfl
@[simp] theorem State.unhold_nv (s : State) (p : FallItem → Bool) : (State.unhold s p).nv = s.nv := by unfold State.unhold; rfl
@[simp] theorem State.unhold_tel (s : State) (p : FallItem → Bool) : (State.unhold s p).tel = s.tel := by unfold State.unhold; rfl
@[simp] theorem State.unhold_phase (s : State) (p : FallItem → Bool) : (State.unhold s p).phase = s.phase := by unfold State.unhold; rfl
@[simp] theorem State.unhold_joined (s : State) (p : FallItem → Bool) : (State.unhold s p).joined = s.joined := by unfold State.unhold; rfl
@[simp] theorem State.unhold_debug (s : State) (p : FallItem → Bool) : (State.unhold s p).debug = s.debug := by unfold State.unhold; rfl
@[simp] theorem State.unhold_presence (s : State) (p : FallItem → Bool) : (State.unhold s p).presence = s.presence := by unfold State.unhold; rfl
@[simp] theorem State.unhold_host (s : State) (p : FallItem → Bool) : (State.unhold s p).host = s.host := by unfold State.unhold; rfl
@[simp] theorem State.unhold_rings (s : State) (p : FallItem → Bool) : (State.unhold s p).rings = s.rings := by unfold State.unhold; rfl
@[simp] theorem State.unhold_launches (s : State) (p : FallItem → Bool) : (State.unhold s p).launches = s.launches := by unfold State.unhold; rfl
@[simp] theorem State.unhold_jobs (s : State) (p : FallItem → Bool) : (State.unhold s p).jobs = s.jobs := by unfold State.unhold; rfl
@[simp] theorem State.unhold_tasting (s : State) (p : FallItem → Bool) : (State.unhold s p).tasting = s.tasting := by unfold State.unhold; rfl
@[simp] theorem State.unhold_time (s : State) (p : FallItem → Bool) : (State.unhold s p).time = s.time := by unfold State.unhold; rfl
@[simp] theorem State.unhold_ports (s : State) (p : FallItem → Bool) : (State.unhold s p).ports = s.ports := by unfold State.unhold; rfl
@[simp] theorem State.unhold_bench (s : State) (p : FallItem → Bool) : (State.unhold s p).bench = s.bench := by unfold State.unhold; rfl
@[simp] theorem State.unhold_groups (s : State) (p : FallItem → Bool) : (State.unhold s p).groups = s.groups := by unfold State.unhold; rfl

/-! ### State.raise -/

@[simp] theorem State.raise_pending (s : State) (c k o d : Nat) : (State.raise s c k o d).pending = s.pending := by
  unfold State.raise; rw [State.log_pending]
@[simp] theorem State.raise_out (s : State) (c k o d : Nat) : (State.raise s c k o d).out = s.out := by
  unfold State.raise; rw [State.log_out]
@[simp] theorem State.raise_freeCount (s : State) (c k o d : Nat) : (State.raise s c k o d).freeCount = s.freeCount := by
  unfold State.raise; rw [State.log_freeCount]
@[simp] theorem State.raise_nextId (s : State) (c k o d : Nat) : (State.raise s c k o d).nextId = s.nextId := by
  unfold State.raise; rw [State.log_nextId]
@[simp] theorem State.raise_timebase (s : State) (c k o d : Nat) : (State.raise s c k o d).timebase = s.timebase := by
  unfold State.raise; rw [State.log_timebase]
@[simp] theorem State.raise_moduleNumber (s : State) (c k o d : Nat) : (State.raise s c k o d).moduleNumber = s.moduleNumber := by
  unfold State.raise; rw [State.log_moduleNumber]
@[simp] theorem State.raise_cells (s : State) (c k o d : Nat) : (State.raise s c k o d).cells = s.cells := by
  unfold State.raise; rw [State.log_cells]
@[simp] theorem State.raise_blocks (s : State) (c k o d : Nat) : (State.raise s c k o d).blocks = s.blocks := by
  unfold State.raise; rw [State.log_blocks]
@[simp] theorem State.raise_regions (s : State) (c k o d : Nat) : (State.raise s c k o d).regions = s.regions := by
  unfold State.raise; rw [State.log_regions]
@[simp] theorem State.raise_mem (s : State) (c k o d : Nat) : (State.raise s c k o d).mem = s.mem := by
  unfold State.raise; rw [State.log_mem]
@[simp] theorem State.raise_memPoison (s : State) (c k o d : Nat) : (State.raise s c k o d).memPoison = s.memPoison := by
  unfold State.raise; rw [State.log_memPoison]
@[simp] theorem State.raise_codeWrites (s : State) (c k o d : Nat) : (State.raise s c k o d).codeWrites = s.codeWrites := by
  unfold State.raise; rw [State.log_codeWrites]
@[simp] theorem State.raise_homeQueue (s : State) (c k o d : Nat) : (State.raise s c k o d).homeQueue = s.homeQueue := by
  unfold State.raise; rw [State.log_homeQueue]
@[simp] theorem State.raise_stackQueue (s : State) (c k o d : Nat) : (State.raise s c k o d).stackQueue = s.stackQueue := by
  unfold State.raise; rw [State.log_stackQueue]
@[simp] theorem State.raise_package (s : State) (c k o d : Nat) : (State.raise s c k o d).package = s.package := by
  unfold State.raise; rw [State.log_package]
@[simp] theorem State.raise_transfers (s : State) (c k o d : Nat) : (State.raise s c k o d).transfers = s.transfers := by
  unfold State.raise; rw [State.log_transfers]
@[simp] theorem State.raise_banks (s : State) (c k o d : Nat) : (State.raise s c k o d).banks = s.banks := by
  unfold State.raise; rw [State.log_banks]
@[simp] theorem State.raise_fabric (s : State) (c k o d : Nat) : (State.raise s c k o d).fabric = s.fabric := by
  unfold State.raise; rw [State.log_fabric]
@[simp] theorem State.raise_scale (s : State) (c k o d : Nat) : (State.raise s c k o d).scale = s.scale := by
  unfold State.raise; rw [State.log_scale]
@[simp] theorem State.raise_nv (s : State) (c k o d : Nat) : (State.raise s c k o d).nv = s.nv := by
  unfold State.raise; rw [State.log_nv]
@[simp] theorem State.raise_phase (s : State) (c k o d : Nat) : (State.raise s c k o d).phase = s.phase := by
  unfold State.raise; rw [State.log_phase]
@[simp] theorem State.raise_joined (s : State) (c k o d : Nat) : (State.raise s c k o d).joined = s.joined := by
  unfold State.raise; rw [State.log_joined]
@[simp] theorem State.raise_debug (s : State) (c k o d : Nat) : (State.raise s c k o d).debug = s.debug := by
  unfold State.raise; rw [State.log_debug]
@[simp] theorem State.raise_power (s : State) (c k o d : Nat) : (State.raise s c k o d).power = s.power := by
  unfold State.raise; rw [State.log_power]
@[simp] theorem State.raise_presence (s : State) (c k o d : Nat) : (State.raise s c k o d).presence = s.presence := by
  unfold State.raise; rw [State.log_presence]
@[simp] theorem State.raise_host (s : State) (c k o d : Nat) : (State.raise s c k o d).host = s.host := by
  unfold State.raise; rw [State.log_host]
@[simp] theorem State.raise_rings (s : State) (c k o d : Nat) : (State.raise s c k o d).rings = s.rings := by
  unfold State.raise; rw [State.log_rings]
@[simp] theorem State.raise_launches (s : State) (c k o d : Nat) : (State.raise s c k o d).launches = s.launches := by
  unfold State.raise; rw [State.log_launches]
@[simp] theorem State.raise_jobs (s : State) (c k o d : Nat) : (State.raise s c k o d).jobs = s.jobs := by
  unfold State.raise; rw [State.log_jobs]
@[simp] theorem State.raise_tasting (s : State) (c k o d : Nat) : (State.raise s c k o d).tasting = s.tasting := by
  unfold State.raise; rw [State.log_tasting]
@[simp] theorem State.raise_time (s : State) (c k o d : Nat) : (State.raise s c k o d).time = s.time := by
  unfold State.raise; rw [State.log_time]
@[simp] theorem State.raise_ports (s : State) (c k o d : Nat) : (State.raise s c k o d).ports = s.ports := by
  unfold State.raise; rw [State.log_ports]
@[simp] theorem State.raise_bench (s : State) (c k o d : Nat) : (State.raise s c k o d).bench = s.bench := by
  unfold State.raise; rw [State.log_bench]
@[simp] theorem State.raise_groups (s : State) (c k o d : Nat) : (State.raise s c k o d).groups = s.groups := by
  unfold State.raise; rw [State.log_groups]

/-! ### State.countUnits -/

@[simp] theorem State.countUnits_pending (s : State) (k : Counter) (i u n : Nat) : (State.countUnits s k i u n).pending = s.pending := by
  unfold State.countUnits; dsimp only; split
  · rfl
  · rw [State.count_pending]
@[simp] theorem State.countUnits_out (s : State) (k : Counter) (i u n : Nat) : (State.countUnits s k i u n).out = s.out := by
  unfold State.countUnits; dsimp only; split
  · rfl
  · rw [State.count_out]
@[simp] theorem State.countUnits_freeCount (s : State) (k : Counter) (i u n : Nat) : (State.countUnits s k i u n).freeCount = s.freeCount := by
  unfold State.countUnits; dsimp only; split
  · rfl
  · rw [State.count_freeCount]
@[simp] theorem State.countUnits_nextId (s : State) (k : Counter) (i u n : Nat) : (State.countUnits s k i u n).nextId = s.nextId := by
  unfold State.countUnits; dsimp only; split
  · rfl
  · rw [State.count_nextId]
@[simp] theorem State.countUnits_timebase (s : State) (k : Counter) (i u n : Nat) : (State.countUnits s k i u n).timebase = s.timebase := by
  unfold State.countUnits; dsimp only; split
  · rfl
  · rw [State.count_timebase]
@[simp] theorem State.countUnits_moduleNumber (s : State) (k : Counter) (i u n : Nat) : (State.countUnits s k i u n).moduleNumber = s.moduleNumber := by
  unfold State.countUnits; dsimp only; split
  · rfl
  · rw [State.count_moduleNumber]
@[simp] theorem State.countUnits_cells (s : State) (k : Counter) (i u n : Nat) : (State.countUnits s k i u n).cells = s.cells := by
  unfold State.countUnits; dsimp only; split
  · rfl
  · rw [State.count_cells]
@[simp] theorem State.countUnits_blocks (s : State) (k : Counter) (i u n : Nat) : (State.countUnits s k i u n).blocks = s.blocks := by
  unfold State.countUnits; dsimp only; split
  · rfl
  · rw [State.count_blocks]
@[simp] theorem State.countUnits_regions (s : State) (k : Counter) (i u n : Nat) : (State.countUnits s k i u n).regions = s.regions := by
  unfold State.countUnits; dsimp only; split
  · rfl
  · rw [State.count_regions]
@[simp] theorem State.countUnits_mem (s : State) (k : Counter) (i u n : Nat) : (State.countUnits s k i u n).mem = s.mem := by
  unfold State.countUnits; dsimp only; split
  · rfl
  · rw [State.count_mem]
@[simp] theorem State.countUnits_memPoison (s : State) (k : Counter) (i u n : Nat) : (State.countUnits s k i u n).memPoison = s.memPoison := by
  unfold State.countUnits; dsimp only; split
  · rfl
  · rw [State.count_memPoison]
@[simp] theorem State.countUnits_codeWrites (s : State) (k : Counter) (i u n : Nat) : (State.countUnits s k i u n).codeWrites = s.codeWrites := by
  unfold State.countUnits; dsimp only; split
  · rfl
  · rw [State.count_codeWrites]
@[simp] theorem State.countUnits_homeQueue (s : State) (k : Counter) (i u n : Nat) : (State.countUnits s k i u n).homeQueue = s.homeQueue := by
  unfold State.countUnits; dsimp only; split
  · rfl
  · rw [State.count_homeQueue]
@[simp] theorem State.countUnits_stackQueue (s : State) (k : Counter) (i u n : Nat) : (State.countUnits s k i u n).stackQueue = s.stackQueue := by
  unfold State.countUnits; dsimp only; split
  · rfl
  · rw [State.count_stackQueue]
@[simp] theorem State.countUnits_package (s : State) (k : Counter) (i u n : Nat) : (State.countUnits s k i u n).package = s.package := by
  unfold State.countUnits; dsimp only; split
  · rfl
  · rw [State.count_package]
@[simp] theorem State.countUnits_transfers (s : State) (k : Counter) (i u n : Nat) : (State.countUnits s k i u n).transfers = s.transfers := by
  unfold State.countUnits; dsimp only; split
  · rfl
  · rw [State.count_transfers]
@[simp] theorem State.countUnits_banks (s : State) (k : Counter) (i u n : Nat) : (State.countUnits s k i u n).banks = s.banks := by
  unfold State.countUnits; dsimp only; split
  · rfl
  · rw [State.count_banks]
@[simp] theorem State.countUnits_fabric (s : State) (k : Counter) (i u n : Nat) : (State.countUnits s k i u n).fabric = s.fabric := by
  unfold State.countUnits; dsimp only; split
  · rfl
  · rw [State.count_fabric]
@[simp] theorem State.countUnits_scale (s : State) (k : Counter) (i u n : Nat) : (State.countUnits s k i u n).scale = s.scale := by
  unfold State.countUnits; dsimp only; split
  · rfl
  · rw [State.count_scale]
@[simp] theorem State.countUnits_nv (s : State) (k : Counter) (i u n : Nat) : (State.countUnits s k i u n).nv = s.nv := by
  unfold State.countUnits; dsimp only; split
  · rfl
  · rw [State.count_nv]
@[simp] theorem State.countUnits_phase (s : State) (k : Counter) (i u n : Nat) : (State.countUnits s k i u n).phase = s.phase := by
  unfold State.countUnits; dsimp only; split
  · rfl
  · rw [State.count_phase]
@[simp] theorem State.countUnits_joined (s : State) (k : Counter) (i u n : Nat) : (State.countUnits s k i u n).joined = s.joined := by
  unfold State.countUnits; dsimp only; split
  · rfl
  · rw [State.count_joined]
@[simp] theorem State.countUnits_debug (s : State) (k : Counter) (i u n : Nat) : (State.countUnits s k i u n).debug = s.debug := by
  unfold State.countUnits; dsimp only; split
  · rfl
  · rw [State.count_debug]
@[simp] theorem State.countUnits_power (s : State) (k : Counter) (i u n : Nat) : (State.countUnits s k i u n).power = s.power := by
  unfold State.countUnits; dsimp only; split
  · rfl
  · rw [State.count_power]
@[simp] theorem State.countUnits_presence (s : State) (k : Counter) (i u n : Nat) : (State.countUnits s k i u n).presence = s.presence := by
  unfold State.countUnits; dsimp only; split
  · rfl
  · rw [State.count_presence]
@[simp] theorem State.countUnits_host (s : State) (k : Counter) (i u n : Nat) : (State.countUnits s k i u n).host = s.host := by
  unfold State.countUnits; dsimp only; split
  · rfl
  · rw [State.count_host]
@[simp] theorem State.countUnits_rings (s : State) (k : Counter) (i u n : Nat) : (State.countUnits s k i u n).rings = s.rings := by
  unfold State.countUnits; dsimp only; split
  · rfl
  · rw [State.count_rings]
@[simp] theorem State.countUnits_launches (s : State) (k : Counter) (i u n : Nat) : (State.countUnits s k i u n).launches = s.launches := by
  unfold State.countUnits; dsimp only; split
  · rfl
  · rw [State.count_launches]
@[simp] theorem State.countUnits_jobs (s : State) (k : Counter) (i u n : Nat) : (State.countUnits s k i u n).jobs = s.jobs := by
  unfold State.countUnits; dsimp only; split
  · rfl
  · rw [State.count_jobs]
@[simp] theorem State.countUnits_tasting (s : State) (k : Counter) (i u n : Nat) : (State.countUnits s k i u n).tasting = s.tasting := by
  unfold State.countUnits; dsimp only; split
  · rfl
  · rw [State.count_tasting]
@[simp] theorem State.countUnits_time (s : State) (k : Counter) (i u n : Nat) : (State.countUnits s k i u n).time = s.time := by
  unfold State.countUnits; dsimp only; split
  · rfl
  · rw [State.count_time]
@[simp] theorem State.countUnits_ports (s : State) (k : Counter) (i u n : Nat) : (State.countUnits s k i u n).ports = s.ports := by
  unfold State.countUnits; dsimp only; split
  · rfl
  · rw [State.count_ports]
@[simp] theorem State.countUnits_bench (s : State) (k : Counter) (i u n : Nat) : (State.countUnits s k i u n).bench = s.bench := by
  unfold State.countUnits; dsimp only; split
  · rfl
  · rw [State.count_bench]
@[simp] theorem State.countUnits_groups (s : State) (k : Counter) (i u n : Nat) : (State.countUnits s k i u n).groups = s.groups := by
  unfold State.countUnits; dsimp only; split
  · rfl
  · rw [State.count_groups]

/-! ### State.beginEpisode -/

@[simp] theorem State.beginEpisode_pending (s : State) (c k o u d : Nat) : (State.beginEpisode s c k o u d).pending = s.pending := by
  unfold State.beginEpisode; split
  · rfl
  · rw [State.raise_pending]
@[simp] theorem State.beginEpisode_out (s : State) (c k o u d : Nat) : (State.beginEpisode s c k o u d).out = s.out := by
  unfold State.beginEpisode; split
  · rfl
  · rw [State.raise_out]
@[simp] theorem State.beginEpisode_freeCount (s : State) (c k o u d : Nat) : (State.beginEpisode s c k o u d).freeCount = s.freeCount := by
  unfold State.beginEpisode; split
  · rfl
  · rw [State.raise_freeCount]
@[simp] theorem State.beginEpisode_nextId (s : State) (c k o u d : Nat) : (State.beginEpisode s c k o u d).nextId = s.nextId := by
  unfold State.beginEpisode; split
  · rfl
  · rw [State.raise_nextId]
@[simp] theorem State.beginEpisode_timebase (s : State) (c k o u d : Nat) : (State.beginEpisode s c k o u d).timebase = s.timebase := by
  unfold State.beginEpisode; split
  · rfl
  · rw [State.raise_timebase]
@[simp] theorem State.beginEpisode_moduleNumber (s : State) (c k o u d : Nat) : (State.beginEpisode s c k o u d).moduleNumber = s.moduleNumber := by
  unfold State.beginEpisode; split
  · rfl
  · rw [State.raise_moduleNumber]
@[simp] theorem State.beginEpisode_cells (s : State) (c k o u d : Nat) : (State.beginEpisode s c k o u d).cells = s.cells := by
  unfold State.beginEpisode; split
  · rfl
  · rw [State.raise_cells]
@[simp] theorem State.beginEpisode_blocks (s : State) (c k o u d : Nat) : (State.beginEpisode s c k o u d).blocks = s.blocks := by
  unfold State.beginEpisode; split
  · rfl
  · rw [State.raise_blocks]
@[simp] theorem State.beginEpisode_regions (s : State) (c k o u d : Nat) : (State.beginEpisode s c k o u d).regions = s.regions := by
  unfold State.beginEpisode; split
  · rfl
  · rw [State.raise_regions]
@[simp] theorem State.beginEpisode_mem (s : State) (c k o u d : Nat) : (State.beginEpisode s c k o u d).mem = s.mem := by
  unfold State.beginEpisode; split
  · rfl
  · rw [State.raise_mem]
@[simp] theorem State.beginEpisode_memPoison (s : State) (c k o u d : Nat) : (State.beginEpisode s c k o u d).memPoison = s.memPoison := by
  unfold State.beginEpisode; split
  · rfl
  · rw [State.raise_memPoison]
@[simp] theorem State.beginEpisode_codeWrites (s : State) (c k o u d : Nat) : (State.beginEpisode s c k o u d).codeWrites = s.codeWrites := by
  unfold State.beginEpisode; split
  · rfl
  · rw [State.raise_codeWrites]
@[simp] theorem State.beginEpisode_homeQueue (s : State) (c k o u d : Nat) : (State.beginEpisode s c k o u d).homeQueue = s.homeQueue := by
  unfold State.beginEpisode; split
  · rfl
  · rw [State.raise_homeQueue]
@[simp] theorem State.beginEpisode_stackQueue (s : State) (c k o u d : Nat) : (State.beginEpisode s c k o u d).stackQueue = s.stackQueue := by
  unfold State.beginEpisode; split
  · rfl
  · rw [State.raise_stackQueue]
@[simp] theorem State.beginEpisode_package (s : State) (c k o u d : Nat) : (State.beginEpisode s c k o u d).package = s.package := by
  unfold State.beginEpisode; split
  · rfl
  · rw [State.raise_package]
@[simp] theorem State.beginEpisode_transfers (s : State) (c k o u d : Nat) : (State.beginEpisode s c k o u d).transfers = s.transfers := by
  unfold State.beginEpisode; split
  · rfl
  · rw [State.raise_transfers]
@[simp] theorem State.beginEpisode_banks (s : State) (c k o u d : Nat) : (State.beginEpisode s c k o u d).banks = s.banks := by
  unfold State.beginEpisode; split
  · rfl
  · rw [State.raise_banks]
@[simp] theorem State.beginEpisode_fabric (s : State) (c k o u d : Nat) : (State.beginEpisode s c k o u d).fabric = s.fabric := by
  unfold State.beginEpisode; split
  · rfl
  · rw [State.raise_fabric]
@[simp] theorem State.beginEpisode_scale (s : State) (c k o u d : Nat) : (State.beginEpisode s c k o u d).scale = s.scale := by
  unfold State.beginEpisode; split
  · rfl
  · rw [State.raise_scale]
@[simp] theorem State.beginEpisode_nv (s : State) (c k o u d : Nat) : (State.beginEpisode s c k o u d).nv = s.nv := by
  unfold State.beginEpisode; split
  · rfl
  · rw [State.raise_nv]
@[simp] theorem State.beginEpisode_phase (s : State) (c k o u d : Nat) : (State.beginEpisode s c k o u d).phase = s.phase := by
  unfold State.beginEpisode; split
  · rfl
  · rw [State.raise_phase]
@[simp] theorem State.beginEpisode_joined (s : State) (c k o u d : Nat) : (State.beginEpisode s c k o u d).joined = s.joined := by
  unfold State.beginEpisode; split
  · rfl
  · rw [State.raise_joined]
@[simp] theorem State.beginEpisode_debug (s : State) (c k o u d : Nat) : (State.beginEpisode s c k o u d).debug = s.debug := by
  unfold State.beginEpisode; split
  · rfl
  · rw [State.raise_debug]
@[simp] theorem State.beginEpisode_power (s : State) (c k o u d : Nat) : (State.beginEpisode s c k o u d).power = s.power := by
  unfold State.beginEpisode; split
  · rfl
  · rw [State.raise_power]
@[simp] theorem State.beginEpisode_presence (s : State) (c k o u d : Nat) : (State.beginEpisode s c k o u d).presence = s.presence := by
  unfold State.beginEpisode; split
  · rfl
  · rw [State.raise_presence]
@[simp] theorem State.beginEpisode_host (s : State) (c k o u d : Nat) : (State.beginEpisode s c k o u d).host = s.host := by
  unfold State.beginEpisode; split
  · rfl
  · rw [State.raise_host]
@[simp] theorem State.beginEpisode_rings (s : State) (c k o u d : Nat) : (State.beginEpisode s c k o u d).rings = s.rings := by
  unfold State.beginEpisode; split
  · rfl
  · rw [State.raise_rings]
@[simp] theorem State.beginEpisode_launches (s : State) (c k o u d : Nat) : (State.beginEpisode s c k o u d).launches = s.launches := by
  unfold State.beginEpisode; split
  · rfl
  · rw [State.raise_launches]
@[simp] theorem State.beginEpisode_jobs (s : State) (c k o u d : Nat) : (State.beginEpisode s c k o u d).jobs = s.jobs := by
  unfold State.beginEpisode; split
  · rfl
  · rw [State.raise_jobs]
@[simp] theorem State.beginEpisode_tasting (s : State) (c k o u d : Nat) : (State.beginEpisode s c k o u d).tasting = s.tasting := by
  unfold State.beginEpisode; split
  · rfl
  · rw [State.raise_tasting]
@[simp] theorem State.beginEpisode_time (s : State) (c k o u d : Nat) : (State.beginEpisode s c k o u d).time = s.time := by
  unfold State.beginEpisode; split
  · rfl
  · rw [State.raise_time]
@[simp] theorem State.beginEpisode_ports (s : State) (c k o u d : Nat) : (State.beginEpisode s c k o u d).ports = s.ports := by
  unfold State.beginEpisode; split
  · rfl
  · rw [State.raise_ports]
@[simp] theorem State.beginEpisode_bench (s : State) (c k o u d : Nat) : (State.beginEpisode s c k o u d).bench = s.bench := by
  unfold State.beginEpisode; split
  · rfl
  · rw [State.raise_bench]
@[simp] theorem State.beginEpisode_groups (s : State) (c k o u d : Nat) : (State.beginEpisode s c k o u d).groups = s.groups := by
  unfold State.beginEpisode; split
  · rfl
  · rw [State.raise_groups]

/-! ### State.recoveryEvent -/

@[simp] theorem State.recoveryEvent_pending (s : State) (row : Nat) : (State.recoveryEvent s row).pending = s.pending := by
  unfold State.recoveryEvent; dsimp only; split
  · rw [State.count_pending]
  · split
    · rw [State.flag_pending, State.flag_pending, State.count_pending]
    · rw [State.flag_pending, State.count_pending]
@[simp] theorem State.recoveryEvent_out (s : State) (row : Nat) : (State.recoveryEvent s row).out = s.out := by
  unfold State.recoveryEvent; dsimp only; split
  · rw [State.count_out]
  · split
    · rw [State.flag_out, State.flag_out, State.count_out]
    · rw [State.flag_out, State.count_out]
@[simp] theorem State.recoveryEvent_freeCount (s : State) (row : Nat) : (State.recoveryEvent s row).freeCount = s.freeCount := by
  unfold State.recoveryEvent; dsimp only; split
  · rw [State.count_freeCount]
  · split
    · rw [State.flag_freeCount, State.flag_freeCount, State.count_freeCount]
    · rw [State.flag_freeCount, State.count_freeCount]
@[simp] theorem State.recoveryEvent_nextId (s : State) (row : Nat) : (State.recoveryEvent s row).nextId = s.nextId := by
  unfold State.recoveryEvent; dsimp only; split
  · rw [State.count_nextId]
  · split
    · rw [State.flag_nextId, State.flag_nextId, State.count_nextId]
    · rw [State.flag_nextId, State.count_nextId]
@[simp] theorem State.recoveryEvent_timebase (s : State) (row : Nat) : (State.recoveryEvent s row).timebase = s.timebase := by
  unfold State.recoveryEvent; dsimp only; split
  · rw [State.count_timebase]
  · split
    · rw [State.flag_timebase, State.flag_timebase, State.count_timebase]
    · rw [State.flag_timebase, State.count_timebase]
@[simp] theorem State.recoveryEvent_moduleNumber (s : State) (row : Nat) : (State.recoveryEvent s row).moduleNumber = s.moduleNumber := by
  unfold State.recoveryEvent; dsimp only; split
  · rw [State.count_moduleNumber]
  · split
    · rw [State.flag_moduleNumber, State.flag_moduleNumber, State.count_moduleNumber]
    · rw [State.flag_moduleNumber, State.count_moduleNumber]
@[simp] theorem State.recoveryEvent_cells (s : State) (row : Nat) : (State.recoveryEvent s row).cells = s.cells := by
  unfold State.recoveryEvent; dsimp only; split
  · rw [State.count_cells]
  · split
    · rw [State.flag_cells, State.flag_cells, State.count_cells]
    · rw [State.flag_cells, State.count_cells]
@[simp] theorem State.recoveryEvent_blocks (s : State) (row : Nat) : (State.recoveryEvent s row).blocks = s.blocks := by
  unfold State.recoveryEvent; dsimp only; split
  · rw [State.count_blocks]
  · split
    · rw [State.flag_blocks, State.flag_blocks, State.count_blocks]
    · rw [State.flag_blocks, State.count_blocks]
@[simp] theorem State.recoveryEvent_regions (s : State) (row : Nat) : (State.recoveryEvent s row).regions = s.regions := by
  unfold State.recoveryEvent; dsimp only; split
  · rw [State.count_regions]
  · split
    · rw [State.flag_regions, State.flag_regions, State.count_regions]
    · rw [State.flag_regions, State.count_regions]
@[simp] theorem State.recoveryEvent_mem (s : State) (row : Nat) : (State.recoveryEvent s row).mem = s.mem := by
  unfold State.recoveryEvent; dsimp only; split
  · rw [State.count_mem]
  · split
    · rw [State.flag_mem, State.flag_mem, State.count_mem]
    · rw [State.flag_mem, State.count_mem]
@[simp] theorem State.recoveryEvent_memPoison (s : State) (row : Nat) : (State.recoveryEvent s row).memPoison = s.memPoison := by
  unfold State.recoveryEvent; dsimp only; split
  · rw [State.count_memPoison]
  · split
    · rw [State.flag_memPoison, State.flag_memPoison, State.count_memPoison]
    · rw [State.flag_memPoison, State.count_memPoison]
@[simp] theorem State.recoveryEvent_codeWrites (s : State) (row : Nat) : (State.recoveryEvent s row).codeWrites = s.codeWrites := by
  unfold State.recoveryEvent; dsimp only; split
  · rw [State.count_codeWrites]
  · split
    · rw [State.flag_codeWrites, State.flag_codeWrites, State.count_codeWrites]
    · rw [State.flag_codeWrites, State.count_codeWrites]
@[simp] theorem State.recoveryEvent_homeQueue (s : State) (row : Nat) : (State.recoveryEvent s row).homeQueue = s.homeQueue := by
  unfold State.recoveryEvent; dsimp only; split
  · rw [State.count_homeQueue]
  · split
    · rw [State.flag_homeQueue, State.flag_homeQueue, State.count_homeQueue]
    · rw [State.flag_homeQueue, State.count_homeQueue]
@[simp] theorem State.recoveryEvent_stackQueue (s : State) (row : Nat) : (State.recoveryEvent s row).stackQueue = s.stackQueue := by
  unfold State.recoveryEvent; dsimp only; split
  · rw [State.count_stackQueue]
  · split
    · rw [State.flag_stackQueue, State.flag_stackQueue, State.count_stackQueue]
    · rw [State.flag_stackQueue, State.count_stackQueue]
@[simp] theorem State.recoveryEvent_package (s : State) (row : Nat) : (State.recoveryEvent s row).package = s.package := by
  unfold State.recoveryEvent; dsimp only; split
  · rw [State.count_package]
  · split
    · rw [State.flag_package, State.flag_package, State.count_package]
    · rw [State.flag_package, State.count_package]
@[simp] theorem State.recoveryEvent_transfers (s : State) (row : Nat) : (State.recoveryEvent s row).transfers = s.transfers := by
  unfold State.recoveryEvent; dsimp only; split
  · rw [State.count_transfers]
  · split
    · rw [State.flag_transfers, State.flag_transfers, State.count_transfers]
    · rw [State.flag_transfers, State.count_transfers]
@[simp] theorem State.recoveryEvent_banks (s : State) (row : Nat) : (State.recoveryEvent s row).banks = s.banks := by
  unfold State.recoveryEvent; dsimp only; split
  · rw [State.count_banks]
  · split
    · rw [State.flag_banks, State.flag_banks, State.count_banks]
    · rw [State.flag_banks, State.count_banks]
@[simp] theorem State.recoveryEvent_fabric (s : State) (row : Nat) : (State.recoveryEvent s row).fabric = s.fabric := by
  unfold State.recoveryEvent; dsimp only; split
  · rw [State.count_fabric]
  · split
    · rw [State.flag_fabric, State.flag_fabric, State.count_fabric]
    · rw [State.flag_fabric, State.count_fabric]
@[simp] theorem State.recoveryEvent_scale (s : State) (row : Nat) : (State.recoveryEvent s row).scale = s.scale := by
  unfold State.recoveryEvent; dsimp only; split
  · rw [State.count_scale]
  · split
    · rw [State.flag_scale, State.flag_scale, State.count_scale]
    · rw [State.flag_scale, State.count_scale]
@[simp] theorem State.recoveryEvent_nv (s : State) (row : Nat) : (State.recoveryEvent s row).nv = s.nv := by
  unfold State.recoveryEvent; dsimp only; split
  · rw [State.count_nv]
  · split
    · rw [State.flag_nv, State.flag_nv, State.count_nv]
    · rw [State.flag_nv, State.count_nv]
@[simp] theorem State.recoveryEvent_phase (s : State) (row : Nat) : (State.recoveryEvent s row).phase = s.phase := by
  unfold State.recoveryEvent; dsimp only; split
  · rw [State.count_phase]
  · split
    · rw [State.flag_phase, State.flag_phase, State.count_phase]
    · rw [State.flag_phase, State.count_phase]
@[simp] theorem State.recoveryEvent_joined (s : State) (row : Nat) : (State.recoveryEvent s row).joined = s.joined := by
  unfold State.recoveryEvent; dsimp only; split
  · rw [State.count_joined]
  · split
    · rw [State.flag_joined, State.flag_joined, State.count_joined]
    · rw [State.flag_joined, State.count_joined]
@[simp] theorem State.recoveryEvent_debug (s : State) (row : Nat) : (State.recoveryEvent s row).debug = s.debug := by
  unfold State.recoveryEvent; dsimp only; split
  · rw [State.count_debug]
  · split
    · rw [State.flag_debug, State.flag_debug, State.count_debug]
    · rw [State.flag_debug, State.count_debug]
@[simp] theorem State.recoveryEvent_power (s : State) (row : Nat) : (State.recoveryEvent s row).power = s.power := by
  unfold State.recoveryEvent; dsimp only; split
  · rw [State.count_power]
  · split
    · rw [State.flag_power, State.flag_power, State.count_power]
    · rw [State.flag_power, State.count_power]
@[simp] theorem State.recoveryEvent_presence (s : State) (row : Nat) : (State.recoveryEvent s row).presence = s.presence := by
  unfold State.recoveryEvent; dsimp only; split
  · rw [State.count_presence]
  · split
    · rw [State.flag_presence, State.flag_presence, State.count_presence]
    · rw [State.flag_presence, State.count_presence]
@[simp] theorem State.recoveryEvent_host (s : State) (row : Nat) : (State.recoveryEvent s row).host = s.host := by
  unfold State.recoveryEvent; dsimp only; split
  · rw [State.count_host]
  · split
    · rw [State.flag_host, State.flag_host, State.count_host]
    · rw [State.flag_host, State.count_host]
@[simp] theorem State.recoveryEvent_rings (s : State) (row : Nat) : (State.recoveryEvent s row).rings = s.rings := by
  unfold State.recoveryEvent; dsimp only; split
  · rw [State.count_rings]
  · split
    · rw [State.flag_rings, State.flag_rings, State.count_rings]
    · rw [State.flag_rings, State.count_rings]
@[simp] theorem State.recoveryEvent_launches (s : State) (row : Nat) : (State.recoveryEvent s row).launches = s.launches := by
  unfold State.recoveryEvent; dsimp only; split
  · rw [State.count_launches]
  · split
    · rw [State.flag_launches, State.flag_launches, State.count_launches]
    · rw [State.flag_launches, State.count_launches]
@[simp] theorem State.recoveryEvent_jobs (s : State) (row : Nat) : (State.recoveryEvent s row).jobs = s.jobs := by
  unfold State.recoveryEvent; dsimp only; split
  · rw [State.count_jobs]
  · split
    · rw [State.flag_jobs, State.flag_jobs, State.count_jobs]
    · rw [State.flag_jobs, State.count_jobs]
@[simp] theorem State.recoveryEvent_tasting (s : State) (row : Nat) : (State.recoveryEvent s row).tasting = s.tasting := by
  unfold State.recoveryEvent; dsimp only; split
  · rw [State.count_tasting]
  · split
    · rw [State.flag_tasting, State.flag_tasting, State.count_tasting]
    · rw [State.flag_tasting, State.count_tasting]
@[simp] theorem State.recoveryEvent_time (s : State) (row : Nat) : (State.recoveryEvent s row).time = s.time := by
  unfold State.recoveryEvent; dsimp only; split
  · rw [State.count_time]
  · split
    · rw [State.flag_time, State.flag_time, State.count_time]
    · rw [State.flag_time, State.count_time]
@[simp] theorem State.recoveryEvent_ports (s : State) (row : Nat) : (State.recoveryEvent s row).ports = s.ports := by
  unfold State.recoveryEvent; dsimp only; split
  · rw [State.count_ports]
  · split
    · rw [State.flag_ports, State.flag_ports, State.count_ports]
    · rw [State.flag_ports, State.count_ports]
@[simp] theorem State.recoveryEvent_bench (s : State) (row : Nat) : (State.recoveryEvent s row).bench = s.bench := by
  unfold State.recoveryEvent; dsimp only; split
  · rw [State.count_bench]
  · split
    · rw [State.flag_bench, State.flag_bench, State.count_bench]
    · rw [State.flag_bench, State.count_bench]
@[simp] theorem State.recoveryEvent_groups (s : State) (row : Nat) : (State.recoveryEvent s row).groups = s.groups := by
  unfold State.recoveryEvent; dsimp only; split
  · rw [State.count_groups]
  · split
    · rw [State.flag_groups, State.flag_groups, State.count_groups]
    · rw [State.flag_groups, State.count_groups]

end Sys2Proof.Machine
end

