-- ==== Sys2Proof/Laws/Ops.lean ====
section
/-!
SUPPORT. What the shared operations over cells, groups and memory do: read after write, what parking writes, what an issued instruction
changes, and the canonical form of the memories.
-/

namespace Sys2Proof.Machine

/-! ### Cells, blocks and regions -/

@[simp] theorem State.cell_setCell (s : State) (c d : Nat) (x : Cell) :
    State.cell (State.setCell s c x) d = if c = d then x else State.cell s d := by
  unfold State.cell State.setCell; exact NMap.get_set ..

@[simp] theorem State.cell_modCell (s : State) (c d : Nat) (f : Cell → Cell) :
    State.cell (State.modCell s c f) d = if c = d then f (State.cell s c) else State.cell s d := by
  unfold State.modCell; exact State.cell_setCell ..

@[simp] theorem State.block_setBlock (s : State) (b d : Nat) (x : Block) :
    State.block (State.setBlock s b x) d = if b = d then x else State.block s d := by
  unfold State.block State.setBlock; exact NMap.get_set ..

@[simp] theorem State.region_setRegion (s : State) (r d : Nat) (x : Region) :
    State.region (State.setRegion s r x) d = if r = d then x else State.region s d := by
  unfold State.region State.setRegion; exact NMap.get_set ..

/-- What an update of another field leaves: cells, blocks and regions are read through their own maps. -/
theorem State.cell_congr {s t : State} (h : s.cells = t.cells) (c : Nat) : State.cell s c = State.cell t c := by unfold State.cell; rw [h]
theorem State.block_congr {s t : State} (h : s.blocks = t.blocks) (b : Nat) : State.block s b = State.block t b := by unfold State.block; rw [h]
theorem State.region_congr {s t : State} (h : s.regions = t.regions) (r : Nat) : State.region s r = State.region t r := by
  unfold State.region; rw [h]

@[simp] theorem State.cell_count (s : State) (k : Counter) (p i n c : Nat) : State.cell (State.count s k p i n) c = State.cell s c :=
  State.cell_congr (State.count_cells ..) c
@[simp] theorem State.cell_flag (s : State) (b c : Nat) : State.cell (State.flag s b) c = State.cell s c :=
  State.cell_congr (State.flag_cells ..) c
@[simp] theorem State.cell_log (s : State) (y k o : Nat) (j : Half) (d : List Nat) (c : Nat) :
    State.cell (State.log s y k o j d) c = State.cell s c := State.cell_congr (State.log_cells ..) c
@[simp] theorem State.cell_emit (s : State) (o : Output) (c : Nat) : State.cell (State.emit s o) c = State.cell s c :=
  State.cell_congr (State.emit_cells ..) c
@[simp] theorem State.cell_setByte (s : State) (r o : Nat) (b : Byte) (c : Nat) : State.cell (State.setByte s r o b) c = State.cell s c :=
  State.cell_congr (State.setByte_cells ..) c
@[simp] theorem State.cell_setBlock (s : State) (b : Nat) (x : Block) (c : Nat) : State.cell (State.setBlock s b x) c = State.cell s c :=
  State.cell_congr (State.setBlock_cells ..) c
@[simp] theorem State.cell_setRegion (s : State) (r : Nat) (x : Region) (c : Nat) : State.cell (State.setRegion s r x) c = State.cell s c :=
  State.cell_congr (State.setRegion_cells ..) c
@[simp] theorem State.block_setCell (s : State) (c : Nat) (x : Cell) (b : Nat) : State.block (State.setCell s c x) b = State.block s b :=
  State.block_congr (State.setCell_blocks ..) b
@[simp] theorem State.region_setCell (s : State) (c : Nat) (x : Cell) (r : Nat) : State.region (State.setCell s c x) r = State.region s r :=
  State.region_congr (State.setCell_regions ..) r

/-! ### Groups -/

@[simp] theorem Cell.group_setGroup (x : Cell) (k j : Nat) (g : Group) :
    Cell.group (Cell.setGroup x k g) j = if k = j then some g else Cell.group x j := by
  unfold Cell.group Cell.setGroup; exact NMap.find_insert ..

@[simp] theorem State.group_setGroup (s : State) (g : GroupLoc) (x : Group) : State.group (State.setGroup s g x) g = some x := by
  simp [State.group, State.setGroup]

/-- A group of another place is as it was. -/
theorem State.group_setGroup_ne (s : State) (g h : GroupLoc) (x : Group) (ne : h ≠ g) :
    State.group (State.setGroup s g x) h = State.group s h := by
  unfold State.group State.setGroup
  rw [State.cell_modCell]
  split
  · next hc =>
    rw [Cell.group_setGroup]
    split
    · next hs => exact absurd (by cases h; cases g; simp_all) ne
    · rw [hc]
  · rfl

/-! ### Registers of a group -/

theorem Group.lane_lt (g : Group) (n l : Nat) : Group.lane g n l < 2 ^ 32 := by unfold Group.lane; exact (BitVec.isLt _)

theorem tabulate_getD {α : Type} (n : Nat) (f : Nat → α) (i : Nat) (d : α) : (tabulate n f).getD i d = if i < n then f i else d := by
  unfold tabulate
  by_cases h : i < n <;> simp [List.getD, h]

/-- A lane after a register write: the lanes that execute take the value, every other lane and register is as it was (R102). -/
theorem Group.lane_write (g : Group) (n ex : Nat) (v : Nat → Nat) (poison : Nat) (src : DWord) (m l : Nat) (hl : l < 32) :
    Group.lane (Group.write g n ex v poison src) m l =
      if n = m ∧ ex.testBit l = true then v l % 2 ^ 32 else Group.lane g m l := by
  unfold Group.write Group.lane
  dsimp only
  rw [NMap.get_set]
  by_cases h : n = m
  · subst h
    rw [if_pos rfl, tabulate_getD, if_pos hl]
    by_cases he : ex.testBit l = true
    · simp [he]
    · simp only [he]
      simp
  · rw [if_neg h, if_neg (fun c => h c.1)]

/-- Parts of a group a register write leaves alone. -/
theorem Group.write_frame (g : Group) (n ex : Nat) (v : Nat → Nat) (poison : Nat) (src : DWord) :
    Group.write g n ex v poison src =
      { g with w := (Group.write g n ex v poison src).w, wPoison := (Group.write g n ex v poison src).wPoison,
               wSource := (Group.write g n ex v poison src).wSource } := rfl

theorem Group.pred_writePred (g : Group) (n ex v m l : Nat) (hl : l < 32) (hn : n < 7) :
    (Group.pred (Group.writePred g n ex v) m).testBit l =
      if n = m ∧ ex.testBit l = true then v.testBit l else (Group.pred g m).testBit l := by
  have h7 : n ≠ 7 := by omega
  unfold Group.writePred
  rw [if_neg h7]
  by_cases hm : m = 7
  · subst hm
    simp [Group.pred, h7]
  · by_cases h : n = m
    · subst h
      simp only [Group.pred, h7, if_false, NMap.get_set, if_true, true_and]
      rw [BitVec.toNat_ofNat, Nat.testBit_mod_two_pow]
      simp only [hl, decide_true, Bool.true_and, Nat.testBit_or, Nat.testBit_and, Nat.testBit_xor]
      cases (BitVec.toNat (NMap.get g.p 0 n)).testBit l <;> cases ex.testBit l <;> simp
    · simp only [Group.pred, hm, if_false, NMap.get_set, h, false_and]

/-- The one result of an issue that nothing parks: the group after it, the register-cache accesses, nothing else. -/
theorem State.runReg_issued {s : State} {op : Nat} {sh : Shape} {g : GroupLoc} {f : RegForm} {sem : Operands → Group → Group} {grp : Group}
    (hi : State.issuable s g (regWords op f) = some grp) (ha : Group.awaits grp (shapeRegs sh f) = false)
    (hp : regPark sh grp f = none) :
    State.runReg s op sh g f sem = State.issued s sh g f grp (regEffect sh f sem grp) := by
  unfold State.runReg; rw [hi]; simp [ha, hp]

/-- The issue of an instruction that a check parks. -/
theorem State.runReg_parked {s : State} {op : Nat} {sh : Shape} {g : GroupLoc} {f : RegForm} {sem : Operands → Group → Group} {grp : Group}
    {p : ParkCause} (hi : State.issuable s g (regWords op f) = some grp) (ha : Group.awaits grp (shapeRegs sh f) = false)
    (hp : regPark sh grp f = some p) :
    State.runReg s op sh g f sem = State.park s g grp p grp.pc (regWord op f) := by
  unfold State.runReg; rw [hi]; simp [ha, hp]

@[simp] theorem State.group_issued (s : State) (sh : Shape) (g : GroupLoc) (f : RegForm) (before after : Group) :
    State.group (State.issued s sh g f before after) g = some after := by
  unfold State.issued State.group
  simp [Cell.modCache, Cell.group, Cell.setGroup]

theorem State.cell_issued (s : State) (sh : Shape) (g : GroupLoc) (f : RegForm) (before after : Group) (c : Nat) (h : c ≠ g.cell) :
    State.cell (State.issued s sh g f before after) c = State.cell s c := by
  unfold State.issued
  rw [State.cell_modCell, if_neg (fun e => h e.symm)]

/-- The group that may issue is the resident group, its hold over. -/
theorem State.issuable_group {s : State} {g : GroupLoc} {ws : List DWord} {grp : Group} (h : State.issuable s g ws = some grp) :
    ∃ old, State.group s g = some old ∧ grp = { old with hold := .none } := by
  unfold State.issuable at h
  revert h
  show (match Cell.group (State.cell s g.cell) g.slot with | none => none | some grp => _) = some grp → _
  cases hg : Cell.group (State.cell s g.cell) g.slot with
  | none => intro h; cases h
  | some old =>
    intro h
    dsimp only at h
    split at h
    · cases h; exact ⟨old, hg, rfl⟩
    · cases h

/-! ### Parking -/

/-- The record a park writes. -/
def parkRecord (s : State) (g : GroupLoc) (grp : Group) (p : ParkCause) (pc : BitVec 31) (insn : DWord) : ParkRecord :=
  { stamp := s.timebase, addr := BitVec.ofNat 64 p.addr, pc := pc, mask := grp.active
    faultLanes := faultLanes grp p
    job := grp.job, epoch := BitVec.ofNat 16 p.epoch, code := BitVec.ofNat 8 p.code, detail := BitVec.ofNat 8 p.detail
    slot := g.slot, state := .parked, replays := grp.replays, depth := min 255 (grp.stack.length + grp.spilled), insn := insn }

/-- What a park writes: the group's PC, no fetched words, its record (R83, R88, Table 3.7). -/
theorem State.park_record (s : State) (g : GroupLoc) (grp : Group) (p : ParkCause) (pc : BitVec 31) (insn : DWord) :
    ∃ r, NMap.find (State.cell (State.park s g grp p pc insn) g.cell).parkList g.slot = some r ∧
      r.stamp = s.timebase ∧ r.addr = BitVec.ofNat 64 p.addr ∧ r.pc = pc ∧ r.mask = grp.active ∧
      r.faultLanes = faultLanes grp p ∧ r.job = grp.job ∧ r.epoch = BitVec.ofNat 16 p.epoch ∧
      r.code = BitVec.ofNat 8 p.code ∧ r.detail = BitVec.ofNat 8 p.detail ∧ r.slot = g.slot ∧ r.state = .parked ∧
      r.replays = grp.replays ∧ r.insn = insn := by
  unfold State.park
  dsimp only
  refine ⟨parkRecord s g grp p pc insn, ?_, rfl, rfl, rfl, rfl, rfl, rfl, rfl, rfl, rfl, rfl, rfl, rfl, rfl⟩
  split <;> simp [Cell.modCache, parkRecord]

/-- The group after a park: only its PC, its fetched words and a lookaside hold change (R84). -/
theorem State.park_group (s : State) (g : GroupLoc) (grp : Group) (p : ParkCause) (pc : BitVec 31) (insn : DWord) :
    ∃ h, State.group (State.park s g grp p pc insn) g = some { grp with pc := pc, fetched := [], hold := h } := by
  unfold State.park State.group
  dsimp only
  refine ⟨match grp.hold with
    | .lookaside _ => Hold.none
    | h => h, ?_⟩
  split <;> simp [Cell.modCache, Cell.group, Cell.setGroup] <;> cases grp.hold <;> rfl

theorem State.park_mem (s : State) (g : GroupLoc) (grp : Group) (p : ParkCause) (pc : BitVec 31) (insn : DWord) :
    (State.park s g grp p pc insn).mem = s.mem := by
  unfold State.park; dsimp only; split <;> simp

/-! ### Stacked memory -/

/-- Read after write of a byte of stacked memory. -/
@[simp] theorem State.byteAt_setByte (s : State) (r o r' o' : Nat) (b : Byte) :
    State.byteAt (State.setByte s r o b) r' o' = if homeKey r o = homeKey r' o' then b else State.byteAt s r' o' := by
  unfold State.byteAt State.setByte; exact NMap.get_set ..

/-- Every write to stacked memory keeps its canonical form. -/
theorem State.setByte_wf (s : State) (r o : Nat) (b : Byte) (h : Memory.wf s.mem = true) : Memory.wf (State.setByte s r o b).mem = true := by
  unfold Memory.wf State.setByte at *; exact NMap.canon_set _ _ h

theorem State.setPoison_wf (s : State) (r o : Nat) (p : Bool) (h : NMap.canon false s.memPoison = true) :
    NMap.canon false (State.setPoison s r o p).memPoison = true := by
  unfold State.setPoison; exact NMap.canon_set _ _ h

/-- A fold of steps that each keep a property keeps it. -/
theorem foldl_keeps {α β : Type} (P : β → Prop) (f : β → α → β) (hf : ∀ b a, P b → P (f b a)) (l : List α) (b : β) (h : P b) :
    P (l.foldl f b) := by
  induction l generalizing b with
  | nil => exact h
  | cons a r ih => exact ih _ (hf b a h)

theorem State.storeSector_wf (s : State) (r o : Nat) (bs : NMap Byte) (p : Bool) (h : Memory.wf s.mem = true)
    (hp : NMap.canon false s.memPoison = true) :
    Memory.wf (State.storeSector s r o bs p).mem = true ∧ NMap.canon false (State.storeSector s r o bs p).memPoison = true := by
  unfold State.storeSector
  dsimp only
  have key := foldl_keeps (fun s : State => Memory.wf s.mem = true ∧ NMap.canon false s.memPoison = true)
    (fun s ib => State.setByte s r (o / 32 * 32 + ib.1 % 32) ib.2)
    (fun s a hs => ⟨State.setByte_wf s _ _ _ hs.1, by rw [State.setByte_memPoison]; exact hs.2⟩) bs s ⟨h, hp⟩
  split
  · exact ⟨by rw [State.setPoison_mem]; exact key.1, State.setPoison_wf _ _ _ _ key.2⟩
  · split
    · exact ⟨by rw [State.setPoison_mem]; exact key.1, State.setPoison_wf _ _ _ _ key.2⟩
    · exact key

/-- Every write to local memory keeps its canonical form. -/
theorem Cell.writeLocal_wf (x : Cell) (a : Nat) (bs : List Byte) (p : Bool) (h : Cell.wf x = true) : Cell.wf (Cell.writeLocal x a bs p) = true := by
  unfold Cell.wf at *
  rw [Bool.and_eq_true] at *
  refine ⟨?_, ?_⟩
  · exact foldl_keeps (fun m => Memory.wf m = true) _ (fun m a hm => NMap.canon_set _ _ hm) _ _ h.1
  · exact foldl_keeps (fun m => NMap.canon false m = true) _ (fun m a hm => NMap.canon_set _ _ hm) _ _ h.2

theorem Cell.markLocal_wf (x : Cell) (a n : Nat) (p : Bool) (h : Cell.wf x = true) : Cell.wf (Cell.markLocal x a n p) = true := by
  unfold Cell.wf at *
  rw [Bool.and_eq_true] at *
  exact ⟨h.1, foldl_keeps (fun m => NMap.canon false m = true) _ (fun m a hm => NMap.canon_set _ _ hm) _ _ h.2⟩

theorem Cell.clearLocal_wf (x : Cell) : Cell.wf (Cell.clearLocal x) = true := rfl

/-- Reset memory has the canonical form. -/
theorem State.reset_wf_mem : Memory.wf State.reset.mem = true := rfl

/-- A byte written records its page's last write; the record keeps its canonical form. -/
theorem State.setByte_codeWrites_canon (s : State) (r o : Nat) (b : Byte) (h : NMap.canon 0 s.codeWrites = true) :
    NMap.canon 0 (State.setByte s r o b).codeWrites = true := by
  unfold State.setByte; exact NMap.canon_set _ _ h

/-! ### Staging areas (R400) -/

/-- Ranges that share no byte with a staging area touch no word of it. -/
theorem CollGroup.staged_off {q : CollGroup} {c : Nat} {rs : List (Nat × Nat)}
    (h : q.anchor = c → ∀ r ∈ rs, r.2 = 0 ∨ r.1 + r.2 ≤ q.stage ∨ q.stage + 8192 * q.bufs ≤ r.1) : CollGroup.staged q c rs = [] := by
  unfold CollGroup.staged
  split
  · rfl
  · rename_i ha
    have hf : rs.filter (fun r => decide (0 < r.2 ∧ r.1 < q.stage + 8192 * q.bufs ∧ q.stage < r.1 + r.2)) = [] :=
      List.filter_eq_nil_iff.mpr (fun r hr => by
        have := h (not_not.mp ha) r hr
        simp only [decide_eq_true_eq]
        omega)
    rw [hf]; rfl

/-- An access that touches no staging area changes nothing. -/
theorem State.spoil_off {s : State} {c : Nat} {rs : List (Nat × Nat)} (h : ∀ e ∈ s.groups, CollGroup.staged e.2 c rs = []) :
    State.spoil s c rs = s := by
  unfold State.spoil
  rw [if_pos]
  exact List.all_eq_true.mpr (fun e he => by rw [h e he]; rfl)

/-- Whatever is accessed, only the cell, the marks of its groups and the free values drawn differ. -/
theorem State.spoil_frame (s : State) (c : Nat) (rs : List (Nat × Nat)) :
    State.spoil s c rs = { s with
      cells := (State.spoil s c rs).cells, groups := (State.spoil s c rs).groups, freeCount := (State.spoil s c rs).freeCount } := by
  unfold State.spoil
  split <;> rfl

/-- An instruction that does not issue, or reads outside every staging area as it does, leaves the state as it was. -/
theorem State.reads_off {s : State} {g : GroupLoc} {ws : List DWord} {rs : Group → List (Nat × Nat)}
    (h : ∀ grp, State.issuable s g ws = some grp → ∀ e ∈ s.groups, CollGroup.staged e.2 g.cell (rs grp) = []) : State.reads s g ws rs = s := by
  unfold State.reads
  split
  · rfl
  · rename_i grp hg
    exact State.spoil_off (h grp hg)

end Sys2Proof.Machine
end

