-- ==== Sys2Proof/Laws/Issue.lean ====
section
/-!
SUPPORT. What the issue of a register-form instruction does: one lemma for each shape of effect.
-/

namespace Sys2Proof.Machine

/-- The issue of a register-form instruction changes its group and nothing else. -/
theorem onlyGroup_issued (s : State) (sh : Shape) (g : GroupLoc) (f : RegForm) (b a : Group) : OnlyGroup s (State.issued s sh g f b a) g a := by
  refine ⟨⟨?_, fun d hd => State.cell_issued s sh g f b a d hd⟩, State.group_issued .., ?_, ?_⟩
  · unfold State.issued State.modCell State.setCell; rfl
  · intro k hk
    unfold State.issued; simp [Cell.modCache, Cell.group, Cell.setGroup, Ne.symm hk]
  · unfold State.issued; rw [State.cell_modCell, if_pos rfl]; exact ⟨_, _, rfl⟩

/-- Poison marks after a register write. -/
theorem Group.poisonOf_write (g : Group) (n ex : Nat) (v : Nat → Nat) (poison : Nat) (src : DWord) (m : Nat) (l : Nat) (hl : l < 32) :
    (Group.poisonOf (Group.write g n ex v poison src) m).testBit l =
      if n = m ∧ ex.testBit l = true then poison.testBit l else (Group.poisonOf g m).testBit l := by
  unfold Group.write Group.poisonOf
  dsimp only
  rw [NMap.get_set]
  by_cases h : n = m
  · subst h
    simp only [if_true, BitVec.toNat_ofNat, Nat.testBit_mod_two_pow, hl, decide_true, Bool.true_and, Nat.testBit_or, Nat.testBit_and,
      Nat.testBit_xor, true_and]
    cases (BitVec.toNat (NMap.get g.wPoison 0 n)).testBit l <;> cases ex.testBit l <;> simp
  · simp [h]

/-- A register write leaves every other register. -/
theorem Group.write_other (g : Group) (n ex : Nat) (v : Nat → Nat) (poison : Nat) (src : DWord) (m : Nat) (h : m ≠ n) :
    (∀ l, Group.lane (Group.write g n ex v poison src) m l = Group.lane g m l) ∧ Group.poisonOf (Group.write g n ex v poison src) m = Group.poisonOf g m := by
  refine ⟨fun l => ?_, ?_⟩
  · unfold Group.write Group.lane; dsimp only; rw [NMap.get_set, if_neg (Ne.symm h)]
  · unfold Group.write Group.poisonOf; dsimp only; rw [NMap.get_set, if_neg (Ne.symm h)]

/-- A register write and the advance of PC change one register. -/
theorem only_write (grp : Group) (n ex : Nat) (v : Nat → Nat) (p : Nat) (src : DWord) (e : Nat) :
    OnlyThreadRegs grp (Group.advance (Group.write grp n ex v p src) e) [n] :=
  ⟨rfl, fun m hm => Group.write_other grp n ex v p src m (by simpa using hm)⟩

/-- A pair write and the advance of PC change two registers. -/
theorem only_writePair (grp : Group) (n ex : Nat) (v : Nat → Nat) (p : Nat) (src : DWord) (e : Nat) :
    OnlyThreadRegs grp (Group.advance (Group.writePair grp n ex v p src) e) [n, n+1] := by
  refine ⟨rfl, fun m hm => ?_⟩
  simp only [List.mem_cons, List.not_mem_nil, or_false, not_or] at hm
  have h1 := Group.write_other grp n ex (fun l => v l % 2^32) p src m hm.1
  have h2 := Group.write_other (Group.write grp n ex (fun l => v l % 2 ^ 32) p src) (n+1) ex (fun l => v l / 2^32) p src m hm.2
  exact ⟨fun l => (h2.1 l).trans (h1.1 l), h2.2.trans h1.2⟩

/-- An instruction that nothing parks issues. -/
theorem issued_of {s : State} {op : Nat} {sh : Shape} {g : GroupLoc} {f : RegForm} {grp : Group} (sem : Operands → Group → Group)
    (h : Issues s op sh g f grp) : State.runReg s op sh g f sem = State.issued s sh g f grp (regEffect sh f sem grp) :=
  State.runReg_issued h.1 h.2.1 h.2.2

/-- Everything a 32-bit lane instruction does. -/
theorem alu_spec {s : State} {op : Nat} {sh : Shape} {g : GroupLoc} {f : RegForm} {grp : Group} (fn : Nat → Nat → Nat → Nat)
  (h : Issues s op sh g f grp) :
    ∃ after, State.runReg s op sh g f (alu f fn) = State.issued s sh g f grp after ∧ Passed grp after f.ext.toNat ∧ OnlyThreadRegs grp after [f.dst.toNat] ∧
      (let o := readOperands sh grp f
       (∀ l, l < 32 → Group.lane after f.dst.toNat l =
        if o.ex.testBit l then fn (o.a l) (o.b l) (o.c l) % 2^32 else Group.lane grp f.dst.toNat l) ∧
       ∀ l, l < 32 → (Group.poisonOf after f.dst.toNat).testBit l = ((Group.poisonOf grp f.dst.toNat).testBit l && !o.ex.testBit l)) := by
  obtain ⟨hi, ha, hp⟩ := h
  refine ⟨_, State.runReg_issued hi ha hp, ⟨rfl, rfl, rfl⟩, ⟨rfl, ?_⟩, ?_, ?_⟩
  · intro m hm
    exact Group.write_other grp _ _ _ _ 0 m (by simpa using hm)
  · intro l hl
    have := Group.lane_write grp f.dst.toNat (readOperands sh grp f).ex (fun l => fn ((readOperands sh grp f).a l) ((readOperands sh grp f).b l) ((readOperands sh grp f).c l)) 0 0 f.dst.toNat l hl
    simp only [true_and] at this
    exact this
  · intro l hl
    have := Group.poisonOf_write grp f.dst.toNat (readOperands sh grp f).ex (fun l => fn ((readOperands sh grp f).a l) ((readOperands sh grp f).b l) ((readOperands sh grp f).c l)) 0 0 f.dst.toNat l hl
    have e : (Group.poisonOf (regEffect sh f (alu f fn) grp) f.dst.toNat) = Group.poisonOf (Group.write grp f.dst.toNat (readOperands sh grp f).ex (fun l => fn ((readOperands sh grp f).a l) ((readOperands sh grp f).b l) ((readOperands sh grp f).c l)) 0 0) f.dst.toNat := rfl
    rw [e, this]
    cases (readOperands sh grp f).ex.testBit l <;> simp



/-- A 32-bit operand is below 2^32. -/
theorem operand32_lt (g : Group) (k : OperandKind) (n : Nat) (u : Bool) (l : Nat) (hk : k = .r32 ∨ k = .none ∨ k = .thread ∨ k = .uni) : Group.operand g k n u l < 2 ^ 32 := by
  rcases hk with rfl | rfl | rfl | rfl <;> simp [Group.operand, OperandKind.isUni, OperandKind.wide, Group.uni]
  · split
    · exact BitVec.isLt _
    · exact Group.lane_lt ..
  · exact Group.lane_lt ..
  · exact BitVec.isLt _

/-- A predicate write and the advance of PC change one predicate (R70). -/
theorem only_writePred (grp : Group) (n ex v : Nat) (e : Nat) : OnlyPred grp (Group.advance (Group.writePred grp n ex v) e) n := by
  by_cases h7 : n = 7
  · subst h7; exact ⟨rfl, fun m _ => rfl⟩
  · refine ⟨?_, fun m hm => ?_⟩
    · unfold Group.writePred; rw [if_neg h7]; rfl
    · unfold Group.writePred; rw [if_neg h7]
      unfold Group.pred Group.advance; dsimp only; rw [NMap.get_set, if_neg (Ne.symm hm)]

/-- A uniform write and the advance of PC change one uniform register. -/
theorem only_writeUni (grp : Group) (n v : Nat) (p : Bool) (src : DWord) (e : Nat) :
    OnlyUniform grp (Group.advance (Group.writeUni grp n v p src) e) [n] := by
  refine ⟨rfl, fun m hm => ?_⟩
  have h : n ≠ m := fun h => hm (by simp [h])
  unfold Group.writeUni Group.uni Group.uniPoison Group.advance; dsimp only
  rw [NMap.get_set, if_neg h, NMap.get_set, if_neg h]; exact ⟨rfl, rfl⟩

@[simp] theorem Group.uni_writeUni (g : Group) (n v : Nat) (p : Bool) (src : DWord) (m : Nat) :
    Group.uni (Group.writeUni g n v p src) m = if n = m then v % 2 ^ 32 else Group.uni g m := by
  unfold Group.writeUni Group.uni; dsimp only; rw [NMap.get_set]; split <;> simp

@[simp] theorem Group.uniPoison_writeUni (g : Group) (n v : Nat) (p : Bool) (src : DWord) (m : Nat) :
    Group.uniPoison (Group.writeUni g n v p src) m = if n = m then p else Group.uniPoison g m := by
  unfold Group.writeUni Group.uniPoison; dsimp only; rw [NMap.get_set]

theorem Group.uni_lt (g : Group) (n : Nat) : Group.uni g n < 2 ^ 32 := BitVec.isLt _

end Sys2Proof.Machine
end

