-- ==== Sys2Proof/Tests/Slice0.lean ====
section
/-!
SUPPORT. Tests: ill-formed commands; commands run on small states, the expected values taken from the spec or worked out by hand from it; and for the
statements a state and operands that meet their hypotheses (`witness_…`).
-/

namespace Sys2Proof.Tests

open Sys2Proof.Machine

/-! ### Small states -/

/-- What a command answers is a next state of which `p` holds. -/
def after (i : Instr) (s : State) (p : State → Bool) : Bool :=
  match exec i s with
  | .next t => p t
  | _ => false

/-- It ends in the fault of reserved bits. -/
def faults (i : Instr) (s : State) : Bool :=
  match exec i s with
  | .fault e => decide (e = .reservedWritten)
  | _ => false

/-- A command that is done changes nothing. -/
def idles (i : Instr) (s : State) : Bool := after i s (fun t => decide (t = s))

/-- All 32 lanes of a register at `v`. -/
def all (v : Nat) : List Word := List.replicate 32 (BitVec.ofNat 32 v)

/-- A group with every lane active and 64 registers: w1, w2 and w4 hold the values given. -/
def grpOf (a b c : Nat) : Group := { (default : Group) with regs := 64, active := 0xFFFFFFFF, w := [(1, all a), (2, all b), (4, all c)] }
def grp0 : Group := grpOf 0 0 0

def g0 : GroupLoc := { cell := 0, slot := 0 }

/-- Cell 0 with group `x` in slot 0, its words fetched. -/
def cellWith (x : Group) (ws : List DWord) : Cell := { Cell.reset with groups := [(0, { x with fetched := ws })] }
def withGroup (x : Group) (ws : List DWord) : State := { State.reset with cells := [(0, cellWith x ws)] }

def lane (t : State) (n l : Nat) : Nat := (State.group t g0).elim 0 (fun x => Group.lane x n l)
def uni (t : State) (n : Nat) : Nat := (State.group t g0).elim 0 (fun x => Group.uni x n)
def pred (t : State) (n : Nat) : Nat := (State.group t g0).elim 0 (fun x => Group.pred x n)

/-- Unguarded words: a register form, a branch form, a memory form of local space. -/
def rf (dst sa sb sc sub : Nat) : RegForm :=
  { (default : RegForm) with
    gp := 7, dst := BitVec.ofNat 8 dst, sa := BitVec.ofNat 8 sa, sb := BitVec.ofNat 8 sb, sc := BitVec.ofNat 8 sc, sub := BitVec.ofNat 10 sub }
def bf (offA offB sub : Nat) : BrForm :=
  { (default : BrForm) with gp := 7, cp := 7, offA := BitVec.ofNat 18 offA, offB := BitVec.ofNat 18 offB, sub := BitVec.ofNat 10 sub }
def mf (data addr off size : Nat) : MemForm :=
  { (default : MemForm) with gp := 7, data := BitVec.ofNat 8 data, addr := BitVec.ofNat 8 addr, off := BitVec.ofNat 18 off, size := BitVec.ofNat 3 size }

/-- A word with its fields: value and lowest bit of each. -/
def word (l : List (Nat × Nat)) : Nat := (l.map (fun e => e.1 * 2 ^ e.2)).foldl (· + ·) 0
/-- `n` bytes of `v` in memory from `a`. -/
def bytesAt (a n v : Nat) : List Host.Cell := (toBytes n v).zipIdx.filterMap (fun e => if e.1 = 0 then none else some (a + e.2, e.1))
/-- A page of job 0 on this module with every permission. -/
def page (vpn ppn : Nat) : Translation := { vpn := vpn, job := 0, home := 0, ppn := ppn, rd := true, wr := true, at_ := true, ex := true, roc := false, via := none }
def withCell (x : Cell) : State := { State.reset with cells := [(0, x)] }

/-! ### The machine -/

theorem witness_EmptyQueueIdles : State.reset.pending = [] := rfl

set_option maxRecDepth 20000 in
/-- A tick from reset: the memories are in canonical form, the step answers, the queue is consumed. -/
theorem witness_StepKeepsWf : State.wf State.reset = true ∧ ∃ t, step { State.reset with pending := [.timebaseTick] } = .next t ∧ t.pending = [] ∧ t.timebase = 10 :=
  ⟨by decide, _, rfl, rfl, rfl⟩

set_option maxRecDepth 20000 in
theorem witness_TimebaseRule : State.reset.phase ≠ .off ∧ ({ State.reset with joined := true } : State).joined = true ∧
    (∃ t, step { State.reset with joined := true } = .next t ∧ t.joined = true) ∧
    after .timebaseTick { State.reset with time := { State.reset.time with slew := 3, sinceSlew := 999 } }
      (fun t => decide (t.timebase = 11 ∧ t.time.slew = 2 ∧ t.time.sinceSlew = 0)) = true :=
  ⟨by decide, rfl, ⟨_, rfl, rfl⟩, by decide⟩

set_option maxRecDepth 20000 in
theorem witness_QueueIsConsumed : ∃ t, step { State.reset with pending := [.timebaseTick, .timebaseTick] } = .next t ∧ t.pending = [.timebaseTick] := ⟨_, rfl, rfl⟩

/-! ### Register-form instructions -/

/-- Operand fields for a row's shape: the unused ones 0. -/
def rowForm (r : Claims.LaneRow) : RegForm :=
  let sh := r.sh default
  rf 3 1 (if sh.b = .none then 0 else 2) (if sh.c = .none then 0 else 4) 0

theorem witness_IntegerLanes : ∀ r ∈ Claims.integerRows,
    Issues (withGroup grp0 (regWords r.op (rowForm r))) r.op (r.sh (rowForm r)) g0 (rowForm r) { grp0 with fetched := regWords r.op (rowForm r) } := by
  unfold Issues; decide

theorem witness_FloatLanes : ∀ r ∈ Claims.floatRows,
    Issues (withGroup grp0 (regWords r.op (rowForm r))) r.op (r.sh (rowForm r)) g0 (rowForm r) { grp0 with fetched := regWords r.op (rowForm r) } := by
  unfold Issues; decide

/-- Lane 5 of w3 after the instruction on w1, w2 and w4. -/
def gives (i : GroupLoc → RegForm → Instr) (op : Nat) (f : RegForm) (a b c v : Nat) : Bool :=
  after (i g0 f) (withGroup (grpOf a b c) (regWords op f)) (fun t => decide (lane t 3 5 = v))

theorem test_integer_adds : gives .iadd 1 (rf 3 1 2 0 0) 0xFFFFFFFF 2 0 1 = true ∧ gives .isub 2 (rf 3 1 2 0 0) 1 2 0 0xFFFFFFFF = true ∧
    gives .imul 3 (rf 3 1 2 0 0) 0x10000 0x10003 0 0x30000 = true ∧ gives .imulhi 4 (rf 3 1 2 0 1) 0xFFFFFFFF 2 0 0xFFFFFFFF = true ∧
    gives .imulhi 4 (rf 3 1 2 0 0) 0xFFFFFFFF 2 0 1 = true ∧ gives .imad 5 (rf 3 1 2 4 0) 5 6 7 37 = true ∧
    gives .imin 6 (rf 3 1 2 0 1) 0xFFFFFFFF 2 0 0xFFFFFFFF = true ∧ gives .imin 6 (rf 3 1 2 0 0) 0xFFFFFFFF 2 0 2 = true ∧
    gives .imax 7 (rf 3 1 2 0 1) 0xFFFFFFFF 2 0 2 = true ∧ gives .iabs 8 (rf 3 1 0 0 0) 0x80000000 0 0 0x80000000 = true ∧
    gives .iabs 8 (rf 3 1 0 0 0) 0xFFFFFFFB 0 0 5 = true := by decide

theorem test_integer_bits : gives .ishl 9 (rf 3 1 2 0 0) 3 31 0 0x80000000 = true ∧ gives .ishl 9 (rf 3 1 2 0 0) 3 32 0 0 = true ∧
    gives .ishr 10 (rf 3 1 2 0 1) 0x80000000 40 0 0xFFFFFFFF = true ∧ gives .ishr 10 (rf 3 1 2 0 0) 0x80000000 31 0 1 = true ∧
    gives .blut 11 (rf 3 1 2 4 0x200) 12 10 9 8 = true ∧ gives .blut 11 (rf 3 1 2 4 (0xCA * 4)) 0xF 0x3 0x5 11 = true ∧
    gives .popc 12 (rf 3 1 0 0 0) 0xF00F 0 0 8 = true ∧ gives .clz 13 (rf 3 1 0 0 0) 0 0 0 32 = true ∧ gives .clz 13 (rf 3 1 0 0 0) 1 0 0 31 = true ∧
    gives .brev 14 (rf 3 1 0 0 0) 1 0 0 0x80000000 = true ∧ gives .bfe 15 (rf 3 1 2 4 1) 0xF0 4 4 0xFFFFFFFF = true ∧
    gives .bfe 15 (rf 3 1 2 4 0) 0xF0 4 4 15 = true ∧ gives .bfi 16 (rf 3 1 2 4 0) 0xA (0x404) 0xFFFF 0xFFAF = true ∧
    gives .shf 17 (rf 3 1 2 4 0) 0x12345678 0x9ABCDEF0 16 0xDEF01234 = true := by decide

/-- 1.5, 2.0, -0.25, infinity and NaN in S32. -/
theorem test_float : gives .fadd 0x20 (rf 3 1 2 0 0) 0x3FC00000 0x40000000 0 0x40600000 = true ∧
    gives .fadd 0x20 (rf 3 1 2 0 0x20) 0x3FC00000 0x40000000 0 0x3F000000 = true ∧
    gives .fmul 0x21 (rf 3 1 2 0 0) 0x3FC00000 0x40000000 0 0x40400000 = true ∧ gives .fmul 0x21 (rf 3 1 2 0 0) 0 0x7F800000 0 0x7FC00000 = true ∧
    gives .ffma 0x22 (rf 3 1 2 4 0) 0x3FC00000 0x40000000 0xBE800000 0x40300000 = true ∧
    gives .fmin 0x23 (rf 3 1 2 0 0) 0x7FC00000 0x40000000 0 0x40000000 = true ∧ gives .fmax 0x24 (rf 3 1 2 0 0) 0x3FC00000 0x40000000 0 0x40000000 = true ∧
    gives .fmin 0x23 (rf 3 1 2 0 0) 0x80000000 0 0 0x80000000 = true := by decide

theorem test_packed : gives .hadd2 0x26 (rf 3 1 2 0 0) 0x3C003C00 0x40003C00 0 0x42004000 = true ∧
    gives .hmul2 0x27 (rf 3 1 2 0 0x200) 0x3F803F80 0x40004000 0 0x40004000 = true ∧
    gives .hfma2 0x28 (rf 3 1 2 4 0) 0x3C003C00 0x40003C00 0x3C003C00 0x42004000 = true := by decide

/-- The shape, opcode and word of a witness. -/
def issuesAt (op : Nat) (sh : Shape) (f : RegForm) : Prop := Issues (withGroup grp0 (regWords op f)) op sh g0 f { grp0 with fetched := regWords op f }

theorem witness_MovesAndPairs : issuesAt 0x00 { shape1 0 with d := .none, a := .none } (rf 0 0 0 0 0) ∧ issuesAt 0x12 (shape2 7) (rf 3 1 2 0 7) ∧
    issuesAt 0x13 { shape2 1 with d := .r32, a := .none, b := .r32, carries := true } (rf 3 0 2 0 0) ∧
    issuesAt 0x13 { shape2 1 with d := .r64, a := .none, b := .r64, carries := true } (rf 6 0 2 0 1) ∧
    issuesAt 0x14 { shape2 0 with d := .r64, a := .r64, b := .r64 } (rf 6 2 4 0 0) ∧ issuesAt 0x15 { shape3 1 with d := .r64, c := .r64 } (rf 6 1 2 4 1) := by
  unfold issuesAt Issues; decide

theorem test_moves : gives .sel 0x12 (rf 3 1 2 0 7) 8 9 0 8 = true ∧ gives .sel 0x12 (rf 3 1 2 0 0) 8 9 0 9 = true ∧ gives .mov 0x13 (rf 3 0 2 0 0) 0 9 0 9 = true ∧
    after (.nop g0 (rf 0 0 0 0 0)) (withGroup grp0 (regWords 0 (rf 0 0 0 0 0))) (fun t => decide ((State.group t g0).map (·.pc) = some 1)) = true := by decide

/-- w1 is 2^32 − 1 and w2 is 1: the pair w2 is 1, and −1 × 1 + (w4, w5) = 6 in the pair w6. -/
theorem test_pairs :
    after (.iadd64 g0 (rf 6 2 2 0 0)) (withGroup (grpOf 0 0x80000000 0) (regWords 0x14 (rf 6 2 2 0 0))) (fun t => decide (lane t 6 0 = 0 ∧ lane t 7 0 = 1)) = true ∧
    after (.imadw g0 (rf 6 1 2 4 1)) (withGroup (grpOf 0xFFFFFFFF 1 7) (regWords 0x15 (rf 6 1 2 4 1))) (fun t => decide (lane t 6 31 = 6 ∧ lane t 7 31 = 0)) = true ∧
    after (.imadw g0 (rf 6 1 2 4 0)) (withGroup (grpOf 0xFFFFFFFF 1 7) (regWords 0x15 (rf 6 1 2 4 0))) (fun t => decide (lane t 6 31 = 6 ∧ lane t 7 31 = 1)) = true := by
  decide

theorem witness_Predicates : issuesAt 0x16 { shape2 0x3C0 with d := .pred, reserved := decide (6 ≤ (rf 1 1 2 0 0x2C0).sub.toNat / 128) } (rf 1 1 2 0 0x2C0) ∧
    issuesAt 0x25 { shape2 0x3E0 with d := .pred } (rf 1 1 2 0 0x380) ∧
    issuesAt 0x17 { shape2 0xF with d := .pred, a := .pred, b := .pred, imm := false } (rf 1 0 7 0 8) ∧
    issuesAt 0x48 { shape1 3 with d := .pred, a := .pred } (rf 1 7 0 0 1) := by unfold issuesAt Issues; decide

def setsPred (i : GroupLoc → RegForm → Instr) (op : Nat) (f : RegForm) (a b v : Nat) : Bool :=
  after (i g0 f) (withGroup (grpOf a b 0) (regWords op f)) (fun t => decide (pred t f.dst.toNat = v))

theorem test_predicates : setsPred .icmp 0x16 (rf 1 1 2 0 (2 * 128 + 64)) 0xFFFFFFFF 2 0xFFFFFFFF = true ∧ setsPred .icmp 0x16 (rf 1 1 2 0 (2 * 128)) 0xFFFFFFFF 2 0 = true ∧
    setsPred .fcmp 0x25 (rf 1 1 2 0 0) 0x80000000 0 0xFFFFFFFF = true ∧ setsPred .plop 0x17 (rf 1 7 0 0 4) 0 0 0 = true ∧
    setsPred .plop 0x17 (rf 1 7 0 0 2) 0 0 0xFFFFFFFF = true ∧ setsPred .plop 0x17 (rf 7 7 0 0 0) 0 0 0xFFFFFFFF = true ∧
    setsPred .vote 0x48 (rf 1 7 0 0 1) 0 0 0xFFFFFFFF = true ∧ setsPred .vote 0x48 (rf 1 0 0 0 0) 0 0 0 = true := by decide

/-- Exact values: 1.5 and 0.5 and their sum are finite; NaN and 2.0 for FMIN. -/
theorem witness_FloatRounding : Claims.Num.finite (ofS32 0x3FC00000) = true ∧ Claims.Num.finite (ofS32 0x3F000000) = true ∧
    Claims.Num.finite (ofS32 (fAdd .up 0x3FC00000 0x3F000000)) = true ∧ Claims.Num.finite (ofS32 (fMul .down 0x3FC00000 0x3F000000)) = true := by decide

theorem witness_FloatNan : Machine.Num.isNan (ofS32 (fAdd .rne 0x7F800000 0xFF800000)) = true ∧ Machine.Num.isNan (ofS32 (fMul .rtz 0 0x7F800000)) = true ∧
    Machine.Num.isNan (ofS32 (fFma .up 0 0x7F800000 0)) = true ∧ Machine.Num.isNan (ofS32 0x7FC00001) = true ∧ Machine.Num.isNan (ofS32 0x40000000) = false := by decide

/-- Both sources uniform. -/
def ru (dst sa sb sub : Nat) : RegForm := { rf dst sa sb 0 sub with ua := 1, ub := 1 }

theorem witness_UniformWrites :
    issuesAt 0x40 { shape2 0xF with d := .uni, a := .uni, b := .uni, group := true, reserved := decide (10 ≤ (ru 1 2 3 9).sub.toNat % 16) } (ru 1 2 3 9) ∧
    issuesAt 0x41 { shape1 0x3F with d := .uni, a := .thread, group := true, carries := true } (rf 1 2 0 0 0x20) ∧
    (0 < 32 ∧ grp0.active.getLsbD 0 = true ∧ ∀ k, k < 0 → grp0.active.getLsbD k = false) ∧
    issuesAt 0x42 { shape1 0xFF with d := .uni, a := .none, group := true } (rf 1 0 0 0 5) ∧
    issuesAt 0x42 { shape1 0xFF with d := .uniPair, a := .none, group := true } (rf 2 0 0 0 2) ∧
    issuesAt 0x48 { shape1 3 with d := .uni, a := .pred } (rf 1 7 0 0 2) := by unfold issuesAt Issues; decide

theorem witness_LaneExchange : issuesAt 0x49 { shape2 3 with carries := true } (rf 3 1 2 0 3) ∧ issuesAt 0x42 { shape1 0xFF with a := .none } (rf 3 0 0 0 0) := by
  unfold issuesAt Issues; decide

def setsUni (i : GroupLoc → RegForm → Instr) (op : Nat) (f : RegForm) (x : Group) (v : Nat) : Bool :=
  after (i g0 f) (withGroup x (regWords op f)) (fun t => decide (uni t f.dst.toNat = v))

theorem test_uniform : setsUni .ualu 0x40 (ru 1 2 3 8) { grp0 with u := [(2, 0xFFFFFFFE), (3, 1)] } 0xFFFFFFFE = true ∧
    setsUni .ualu 0x40 (ru 1 2 3 6) { grp0 with u := [(2, 1), (3, 33)] } 0 = true ∧
    setsUni .threadToUniform 0x41 (rf 1 2 0 0 31) { grp0 with w := [(2, (List.range 32).map (BitVec.ofNat 32))] } 31 = true ∧
    setsUni .srd 0x42 (rf 1 0 0 0 4) { grp0 with job := 9 } 9 = true ∧ setsUni .vote 0x48 (rf 1 7 0 0 2) { grp0 with active := 0xF0 } 0xF0 = true := by decide

/-- SHFL down by 2: lane 29 reads lane 31, lane 30 its own. -/
theorem test_shuffle : after (.shfl g0 (rf 3 1 2 0 2)) (withGroup { grp0 with w := [(1, (List.range 32).map (BitVec.ofNat 32)), (2, all 2)] }
    (regWords 0x49 (rf 3 1 2 0 2))) (fun t => decide (lane t 3 29 = 31 ∧ lane t 3 30 = 30 ∧ lane t 3 0 = 2)) = true := by decide

/-- An odd register of a pair (DETAIL 0x04), one beyond REGS (0x01), a guard p7 inverted (0x00), and a poisoned source B. -/
theorem witness_RegisterFormParks : regIllegal { shape2 0 with d := .r64, a := .r64, b := .r64 } 64 (rf 6 3 4 0 0) = some 4 ∧
    regIllegal (shape2 0) 64 (rf 64 1 2 0 0) = some 1 ∧ regIllegal (shape2 0) 64 { rf 3 1 2 0 0 with gn := 1 } = some 0 ∧
    regIllegal (shape2 0) 64 (rf 3 1 2 0 0) = none ∧
    (regPark (shape2 0) { grp0 with wPoison := [(2, 8)] } (rf 3 1 2 0 0)).map (fun p => (p.code, p.detail, p.lanes)) = some (4, 2, 8) := by decide

def parks (i : Instr) (s : State) (code detail : Nat) : Bool :=
  after i s (fun t => decide ((NMap.find (State.cell t 0).parkList 0).map (fun r => (r.code.toNat, r.detail.toNat)) = some (code, detail)))

theorem test_register_parks : parks (.iadd g0 (rf 64 1 2 0 0)) (withGroup grp0 (regWords 1 (rf 64 1 2 0 0))) 8 1 = true ∧
    parks (.iadd g0 (rf 3 1 2 0 0)) (withGroup { grp0 with wPoison := [(2, 8)] } (regWords 1 (rf 3 1 2 0 0))) 4 2 = true := by decide

/-! ### Control flow -/

def branchAt (op : Nat) (f : BrForm) (x : Group) : State := withGroup x (brWords op f)

/-- The group is as given, its words fetched. -/
def issuesBr (op : Nat) (f : BrForm) (x : Group) : Prop := State.issuable (branchAt op f x) g0 (brWords op f) = some { x with fetched := brWords op f }

theorem witness_Branches : issuesBr 0x50 (bf 5 0 1) grp0 ∧ brIllegal (bf 5 0 1) false true true false 1 1 = false ∧
    issuesBr 0x51 (bf 0x3FFFF 0 3) grp0 ∧ brIllegal (bf 0x3FFFF 0 3) false true true false 0x3F 1 = false ∧
    issuesBr 0x52 (bf 0 0 3) grp0 ∧ brIllegal (bf 0 0 3) false true false false 0x3F 0 = false ∧ (bf 0 0 3).cp = 7 ∧ (bf 0 0 3).cn = 0 ∧
    Group.uniPoison grp0 3 = false ∧ Group.uni grp0 3 < 2 ^ 31 := by unfold issuesBr; decide

def goesTo (i : GroupLoc → BrForm → Instr) (op : Nat) (f : BrForm) (x : Group) (p : BitVec 31) (m : Word) (depth : Nat) : Bool :=
  after (i g0 f) (branchAt op f x) (fun t => decide ((State.group t g0).map (fun y => (y.pc, y.active, y.stack.length)) = some (p, m, depth)))

/-- OFF_A −1 from PC 8; p1 true in lane 0 only: BRA any and all. -/
theorem test_branches : goesTo .bra 0x50 (bf 0x3FFFF 0 0) { grp0 with pc := 8 } 7 0xFFFFFFFF 0 = true ∧
    goesTo .bra 0x50 { bf 4 0 0 with cp := 1 } { grp0 with pc := 8, p := [(1, 1)] } 12 0xFFFFFFFF 0 = true ∧
    goesTo .bra 0x50 { bf 4 0 1 with cp := 1 } { grp0 with pc := 8, p := [(1, 1)] } 9 0xFFFFFFFF 0 = true ∧
    after (.call g0 (bf 4 0 3)) (branchAt 0x51 (bf 4 0 3) { grp0 with pc := 8 }) (fun t => decide (uni t 3 = 9)) = true ∧
    goesTo .ret 0x52 (bf 0 0 3) { grp0 with u := [(3, 77)] } 77 0xFFFFFFFF 0 = true := by decide

theorem witness_SplitJoin : issuesBr 0x53 (bf 4 8 0) grp0 ∧ brIllegal (bf 4 8 0) false true true true 0 0 = false ∧
    grp0.stack.length + grp0.spilled + 2 ≤ 16 + grp0.allowance ∧
    issuesBr 0x54 { bf 0 0 0 with cp := 0 } { grp0 with stack := [{ kind := .reconv, pc := 3, mask := 1 }] } ∧
    brIllegal { bf 0 0 0 with cp := 0 } false false false false 0 0 = false := by unfold issuesBr; decide

theorem test_split : goesTo .split 0x53 { bf 4 8 0 with cp := 1 } { grp0 with pc := 8, p := [(1, 0xF)] } 9 0xFFFFFFF0 2 = true ∧
    goesTo .split 0x53 { bf 4 8 0 with cp := 1 } { grp0 with pc := 8, p := [(1, 0xFFFFFFFF)] } 12 0xFFFFFFFF 0 = true ∧
    goesTo .join 0x54 { bf 0 0 0 with cp := 0 } { grp0 with active := 0xF0, stack := [{ kind := .pending, pc := 12, mask := 0xF }] } 12 0xF 0 = true := by decide

theorem witness_ExitRemovesLanes : issuesBr 0x55 { bf 0 0 0 with cp := 0, gp := 1 } { grp0 with p := [(1, 1)] } ∧
    brIllegal { bf 0 0 0 with cp := 0, gp := 1 } true false false false 0 0 = false ∧ grp0.spilled = 0 := by unfold issuesBr; decide

theorem test_exit : goesTo .exit 0x55 { bf 0 0 0 with cp := 0, gp := 1 } { grp0 with pc := 8, p := [(1, 1)] } 9 0xFFFFFFFE 0 = true ∧
    goesTo .exit 0x55 { bf 0 0 0 with cp := 0 } { grp0 with active := 3, stack := [{ kind := .pending, pc := 2, mask := 1 }, { kind := .reconv, pc := 9, mask := 7 }] }
      9 4 0 = true := by decide

theorem witness_BreakAndUnassigned : issuesBr 0x56 { bf 0 0 0x2A with cp := 0 } grp0 ∧ brIllegal { bf 0 0 0x2A with cp := 0 } false false false false 0xFF 0 = false ∧
    unassigned 0x1800000000000000 = true ∧ unassigned 0xFF00000000000000 = true ∧
    State.issuable (withGroup grp0 [0x1800000000000000]) g0 [0x1800000000000000] = some { grp0 with fetched := [0x1800000000000000] } := by unfold issuesBr; decide

theorem test_breaks : parks (.brk g0 { bf 0 0 0x2A with cp := 0 }) (branchAt 0x56 { bf 0 0 0x2A with cp := 0 } grp0) 9 0x2A = true ∧
    parks (.unassignedOpcode g0 0x1800000000000000) (withGroup grp0 [0x1800000000000000]) 8 0 = true := by decide

/-! ### Local memory -/

def memAt (op : Nat) (f : MemForm) (x : Group) : State := withGroup x (memWords op f)

/-- Every lane at address 0x7FFFC, the last word; without a reservation. -/
theorem witness_LocalLoad : Claims.memIssues (memAt 0x60 (mf 8 1 0 2) (grpOf 0x7FFFC 0 0)) 0x60 .load g0 (mf 8 1 0 2) { grpOf 0x7FFFC 0 0 with fetched := memWords 0x60 (mf 8 1 0 2) } ∧
    Claims.localClear (memAt 0x60 (mf 8 1 0 2) (grpOf 0x7FFFC 0 0)) g0 (mf 8 1 0 2) false { grpOf 0x7FFFC 0 0 with fetched := memWords 0x60 (mf 8 1 0 2) } ∧
    Claims.settled (memAt 0x60 (mf 8 1 0 2) (grpOf 0x7FFFC 0 0)) 0 := by
  unfold Claims.memIssues Claims.localClear Claims.localAllowed Claims.settled Claims.offStage; decide

theorem witness_LocalStore : Claims.memIssues (memAt 0x61 (mf 8 1 0 0) (grpOf 3 0 0)) 0x61 .store g0 (mf 8 1 0 0) { grpOf 3 0 0 with fetched := memWords 0x61 (mf 8 1 0 0) } ∧
    Claims.localClear (memAt 0x61 (mf 8 1 0 0) (grpOf 3 0 0)) g0 (mf 8 1 0 0) false { grpOf 3 0 0 with fetched := memWords 0x61 (mf 8 1 0 0) } := by
  unfold Claims.memIssues Claims.localClear Claims.localAllowed Claims.offStage; decide

/-- w1 is the address, w2 and w4 the operands b and c. -/
def af : MemForm := mf 8 1 (2 * 2 ^ 10) 2
def afc : MemForm := mf 8 1 (2 * 2 ^ 10 + 4 * 2) 2

theorem witness_LocalAtomics : ∀ r ∈ Claims.atomicRows,
    Claims.memIssues (memAt r.2.1 (if r.2.2.2 = .cas then afc else af) (grpOf 8 1 0)) r.2.1 r.2.2.1 g0 (if r.2.2.2 = .cas then afc else af)
      { grpOf 8 1 0 with fetched := memWords r.2.1 (if r.2.2.2 = .cas then afc else af) } := by unfold Claims.memIssues; decide

/-- Nothing held; a release with nothing before it. -/
theorem witness_LocalAccesses_unheld : let grp := grpOf 8 1 0
    Claims.unheld (memAt 0x60 (mf 8 1 0 2) grp) g0 (mf 8 1 0 2) false { grp with fetched := memWords 0x60 (mf 8 1 0 2) } ∧
    Claims.unheld (memAt 0x61 (mf 8 1 0 2) grp) g0 { mf 8 1 0 2 with ord := 2, scope := 3 } false { grp with fetched := memWords 0x61 (mf 8 1 0 2) } ∧
    Claims.unheld (memAt 0x62 af grp) g0 af true { grp with fetched := memWords 0x62 af } := by
  unfold Claims.unheld; decide

theorem witness_LocalAtomics_clear : Claims.localClear (memAt 0x62 af (grpOf 8 1 0)) g0 af true { grpOf 8 1 0 with fetched := memWords 0x62 af } ∧
    ∀ l ∈ Claims.lanes { grpOf 8 1 0 with fetched := memWords 0x62 af } af, Cell.localMarked (State.cell (memAt 0x62 af (grpOf 8 1 0)) 0) (effective af true (grpOf 8 1 0) l) 4 = false := by
  unfold Claims.localClear Claims.localAllowed Claims.offStage; decide

/-- Bytes 0x80, 1, 2 and 3 from address 4; a signed byte, a halfword, a word. -/
def loads (f : MemForm) (v : Nat) : Bool :=
  after (.ld g0 f) { State.reset with cells := [(0, { cellWith (grpOf 4 0 0) (memWords 0x60 f) with localMem := [(4, 0x80), (5, 1), (6, 2), (7, 3)] })] }
    (fun t => decide (lane t 8 31 = v))

set_option maxRecDepth 20000 in
theorem test_local : loads { mf 8 1 0 0 with sx := 1 } 0xFFFFFF80 = true ∧ loads (mf 8 1 0 1) 0x180 = true ∧ loads (mf 8 1 0 2) 0x3020180 = true ∧
    after (.st g0 (mf 8 1 4 2)) (memAt 0x61 (mf 8 1 4 2) { grpOf 4 0 0 with w := [(1, all 4), (8, (List.range 32).map (BitVec.ofNat 32))] })
      (fun t => decide ((State.cell t 0).localMem = [(8, 31)])) = true := by decide

set_option maxRecDepth 20000 in
/-- 32 lanes add 1 to one word: lane 5 sees 5, memory holds 32. -/
theorem test_atomics : after (.atomAdd g0 af) (memAt 0x62 af (grpOf 8 1 0)) (fun t => decide (lane t 8 5 = 5 ∧ (State.cell t 0).localMem = [(8, 32)])) = true ∧
    after (.atomCas g0 afc) (memAt 0x69 afc (grpOf 8 1 0)) (fun t => decide (lane t 8 0 = 0 ∧ lane t 8 5 = 1 ∧ (State.cell t 0).localMem = [(8, 1)])) = true := by decide

/-! ### Counters, synchronisation, units -/

/-- Job 9 holds counter 3 at 0xFFFFFFFF; u2 is 1. -/
def grpJ : Group := { grp0 with job := 9, u := [(2, 1)] }
def cellJ (x : Group) (ws : List DWord) : Cell := { cellWith x ws with arrivals := [(3, { value := 0xFFFFFFFF, tag := 9 })] }
def cf (sub : Nat) : RegForm := { rf 0 0 2 0 sub with ub := 1 }
def issuesIn (s : State) (op : Nat) (sh : Shape) (f : RegForm) (x : Group) : Prop := Issues s op sh g0 f { x with fetched := regWords op f }

theorem witness_ArrivalCounters : issuesIn (withCell (cellJ grpJ (regWords 0x72 (cf 3)))) 0x72 shapeCnt (cf 3) grpJ ∧
    Cell.namesCounter (cellJ grpJ (regWords 0x72 (cf 3))) 3 = false ∧ (Cell.arrival (cellJ grpJ []) 3).tag = 9 ∧
    issuesIn (withCell (cellJ grpJ (regWords 0x72 (cf 0x23)))) 0x72 shapeCnt (cf 0x23) grpJ ∧
    (0 < (readOperands shapeCnt grpJ (cf 0x23)).b 0 ∧ (readOperands shapeCnt grpJ (cf 0x23)).b 0 ≤ 65535) ∧
    issuesIn (withCell (cellJ grpJ (regWords 0x72 (rf 5 0 0 0 0x43)))) 0x72 { shapeCnt with d := .uni, b := .none, imm := false } (rf 5 0 0 0 0x43) grpJ ∧
    issuesIn (withCell (cellJ grpJ (regWords 0x71 (cf 3)))) 0x71 { shapeCnt with sub := 0x1F } (cf 3) grpJ ∧
    ((1 : BitVec 32) - (Cell.arrival (cellJ grpJ []) 3).value).toNat ≤ 2 ^ 24 ∧ State.cellRuns (withCell (cellJ grpJ [])) 0 = true := by
  unfold issuesIn Issues; decide

theorem witness_IncrementsCommute : 31 < 32 ∧ State.cellRuns State.reset 383 = true := by decide

def counterAfter (i : Instr) (s : State) (v : Nat) : Bool := after i s (fun t => decide ((Cell.arrival (State.cell t 0) 3).value.toNat = v))

theorem test_counters : counterAfter (.cntAdd g0 (cf 0x23)) (withCell (cellJ grpJ (regWords 0x72 (cf 0x23)))) 0 = true ∧
    counterAfter (.cntSet g0 (cf 3)) (withCell (cellJ grpJ (regWords 0x72 (cf 3)))) 1 = true ∧
    counterAfter (.counterIncrement 0 3 5) (withCell (cellJ grpJ [])) 4 = true ∧
    after (.await g0 (cf 3)) (withCell (cellJ grpJ (regWords 0x71 (cf 3)))) (fun t => decide ((State.group t g0).map (·.hold) = some (.await 3 1))) = true ∧
    after (.counterIncrement 0 3 2) (withCell (cellJ { grpJ with hold := .await 3 1 } [])) (fun t => decide ((State.group t g0).map (·.hold) = some .none)) = true := by
  decide

def rndF : RegForm := { rf 8 0 2 0 1 with ub := 1 }

theorem witness_RandomGenerator : issuesIn (withGroup grp0 (regWords 0x74 rndF)) 0x74
    { d := if rndF.sub.getLsbD 0 then .r64 else .r32, a := .r64, b := .uniPair, c := .none, sub := 1, imm := false, reserved := bit1 rndF.ua, group := true, carries := false }
    rndF grp0 := by unfold issuesIn Issues; decide

set_option maxRecDepth 20000 in
/-- The value of R425 for key and counter 0, low half (the rule's own example). -/
theorem test_rnd : after (.rnd g0 rndF) (withGroup grp0 (regWords 0x74 rndF)) (fun t => decide (lane t 8 0 = 0x6627E8D5 ∧ lane t 9 0 = 0xE169C58D)) = true := by decide

def sf (scope : Nat) : MemForm := { (default : MemForm) with gp := 7, space := if scope ≤ 1 then 0 else 1, scope := BitVec.ofNat 3 scope }
def ntf : RegForm := { rf 0 4 2 0 0 with ua := 1, ub := 1 }
def shapeNotify : Shape := { d := .none, a := .uniPair, b := .uni, c := .none, sub := 0, imm := true, reserved := false, group := true, carries := false }

/-- FENCE of every scope; INVAL of cell and block scope; a notify of module 5, cell 383, counter 31 is not asked: target 0x50000 is module 5, cell 0. -/
theorem witness_FenceInvalNotifyStep : (∀ n ∈ [1, 2, 3, 4, 5], fenceIllegal (sf n) = false) ∧
    State.issuable (withGroup grp0 (memWords 0x6C (sf 5))) g0 (memWords 0x6C (sf 5)) = some { grp0 with fetched := memWords 0x6C (sf 5) } ∧
    State.issuable (withGroup grp0 (memWords 0x6D (sf 2))) g0 (memWords 0x6D (sf 2)) = some { grp0 with fetched := memWords 0x6D (sf 2) } ∧
    issuesIn (withGroup { grp0 with u := [(2, 1), (4, 0x50000)] } (regWords 0x73 ntf)) 0x73 shapeNotify ntf { grp0 with u := [(2, 1), (4, 0x50000)] } ∧
    targetBad 0x50000 = false ∧ targetModule 0 0x50000 = 5 ∧ Cell.slotsFree (cellWith grp0 []) 0 [none] = true ∧ Group.epoch grp0 = 0 ∧
    issuesIn (withGroup grpJ (regWords 0x75 (cf 0))) 0x75 { shapeCnt with sub := 0 } (cf 0) grpJ ∧ Cell.statisticsPassed (cellWith grpJ []) = true ∧
    (cellWith grpJ []).sieve.frozen = none := by unfold issuesIn Issues; decide

theorem test_sync : after (.fence g0 (sf 4)) (withGroup grp0 (memWords 0x6C (sf 4))) (fun t => decide ((State.group t g0).map (·.hold) = some (.fence 4))) = true ∧
    after (.notify g0 ntf) (withGroup { grp0 with u := [(2, 1), (4, 0x50000)] } (regWords 0x73 ntf)) (fun t => decide (t.out.length = 1)) = true ∧
    after (.step g0 (cf 0)) (withGroup grpJ (regWords 0x75 (cf 0))) (fun t => decide ((State.cell t 0).sieve.step = 1)) = true := by decide

/-- A B16 tile of 16 rows and 16 elements at 0x1000; descriptors at 0x40 (tiles, open) and 0x80 (epilogue: S32 to 0x4000). -/
def tileWord : Nat := word [(0x1000, 237), (32, 221), (16, 212), (16, 196), (2, 192)]
def grpA : Group := { grp0 with u := [(2, 0x40), (3, 0x40), (4, 0x80)] }
def mmaF : RegForm := { (default : RegForm) with gp := 7, ext := 1, ua := 1, ub := 1, sa := 2, sb := 3, sub := 0x23 }
def unitF (sa sub : Nat) : RegForm := { rf 0 sa 0 0 sub with ua := 1 }
def opened : Slice := { Slice.reset with issue := [(0, { DrawerIssue.reset with status := .opened, owner := ownerOf 0 grpA })] }
def cellA (m : List Host.Cell) (ws : List DWord) : Cell := { cellWith grpA ws with localMem := m, slices := [(0, opened)], arrivals := [(3, { value := 0, tag := 0 })] }
def tiles : List Host.Cell := bytesAt 0x40 32 tileWord

set_option maxRecDepth 20000 in
theorem witness_ArrayInstructionsQueue_mma : let s := withCell (cellA tiles (regWords 0x80 mmaF))
    let grp := { grpA with fetched := regWords 0x80 mmaF }
    Claims.arrayIssues s g0 (regWords 0x80 mmaF) grp (mmaIllegal mmaF) (mmaPark (State.cell s 0) 0 mmaF grp) := by
  unfold Claims.arrayIssues; decide

def epiWord : Nat := word [(0x4000, 493), (64, 477)]

set_option maxRecDepth 20000 in
theorem witness_ArrayInstructionsQueue_drawers :
    (let f := unitF 2 0x23
     let s := withCell { cellA [] (regWords 0x84 f) with slices := [] }
     let x := State.cell s 0
     let grp := { grpA with fetched := regWords 0x84 f }
     Claims.arrayIssues s g0 (regWords 0x84 f) grp (drawerIllegal { shapeDrawer with a := .uni } f grp)
       (drawerPark x f 32 (Cell.openFailure x (ownerOf 0 grp) f) (fun a => OpenDesc.ranges (openDesc (Cell.localNat x a 32))) grp) ∧ x.array = []) ∧
    (let f := unitF 4 0x23
     let s := withCell (cellA (bytesAt 0x80 64 epiWord) (regWords 0x85 f))
     let x := State.cell s 0
     let grp := { grpA with fetched := regWords 0x85 f }
     let di := Cell.issueOf x 0 0
     Claims.arrayIssues s g0 (regWords 0x85 f) grp (drawerIllegal { shapeDrawer with a := .uni } f grp)
       (drawerPark x f 64 (Cell.drainFailure x (ownerOf 0 grp) f) (fun v =>
         EpiDesc.inputs (epiDesc (Cell.localNat x v 64)) (16 * (di.mf + 1)) (16 * (di.nf + 1)) ++ EpiDesc.outputs (epiDesc (Cell.localNat x v 64)) (16 * (di.mf + 1)) (16 * (di.nf + 1))) grp)) ∧
    (let f := rf 0 0 0 0 0
     let s := withCell (cellA [] (regWords 0x86 f))
     let x := State.cell s 0
     let grp := { grpA with fetched := regWords 0x86 f }
     Claims.arrayIssues s g0 (regWords 0x86 f) grp (drawerIllegal shapeDrawer f grp) (firstSome [partialGroup grp, badDescriptor (Cell.plainFailure x (ownerOf 0 grp) f true)])) := by
  unfold Claims.arrayIssues; decide

def slcF (op : Nat) : RegForm := { rf 5 0 0 0 op with ib := 1, ext := 1, x1 := 2 }

theorem witness_ArrayAnswers : (∀ op ∈ [0, 1, 2, 3], Claims.sliceIssues (withGroup grp0 (regWords 0x81 (slcF op))) g0 (slcF op) { grp0 with fetched := regWords 0x81 (slcF op) } op) ∧
    Claims.sliceResult (cellWith grp0 []) (ownerOf 0 grp0) 0 2 = 0 ∧
    Claims.sliceResult { cellWith grp0 [] with sliceCount := 2 } (ownerOf 0 grp0) 1 1 = 0 ∧
    (let f := rf 6 0 0 0 0
     let x := cellA [] (regWords 0x87 f)
     State.issuable (withCell x) g0 (regWords 0x87 f) = some { grpA with fetched := regWords 0x87 f } ∧ drawerIllegal { shapeDrawer with d := .uniPair } f grpA = none ∧
       Cell.plainFailure x (ownerOf 0 grpA) f false = none ∧ grpA.active = BitVec.allOnes 32 ∧ (Cell.drawer x 0 0).chunks < 2 ^ 16) := by
  unfold Claims.sliceIssues; decide

theorem test_slices : after (.mslcConfig g0 (slcF 0)) (withGroup grp0 (regWords 0x81 (slcF 0))) (fun t => decide (uni t 5 = 0 ∧ (State.cell t 0).sliceCount = 2)) = true ∧
    after (.mslcClaim g0 (slcF 1)) (withGroup grp0 (regWords 0x81 (slcF 1))) (fun t => decide (uni t 5 = 3)) = true := by decide

/-- CHN: MAP of one S32 element from 0x1000 to 0x2000; SPK: a B16 tile of 16 elements; SGL: one score; SXP: one row. -/
def chnWord : Nat := word [(1, 493), (1, 477), (0x1000, 458), (4, 442), (0x2000, 346), (4, 330)]
def spkWord : Nat := word [(0x1000, 493), (32, 477), (1, 468), (16, 452), (2, 448), (0x2000, 421), (32, 405), (0x3000, 386), (8, 370)]
def sglWord : Nat := word [(0x1000, 237), (1, 221), (0x2000, 202), (1, 186), (0x3000, 164)]
def sxpWord : Nat := word [(0x1000, 493), (4, 477), (1, 461), (1, 445), (0x2000, 422), (0x3000, 403), (4, 387), (1, 371)]
def chainDescOf (op : Nat) : Nat := if op = 0x90 then chnWord else if op = 0x98 then spkWord else if op = 0x99 then sglWord else sxpWord
def cellC (op : Nat) : Cell := { cellWith grpA (regWords op (unitF 2 0)) with localMem := bytesAt 0x40 64 (chainDescOf op) }

set_option maxRecDepth 20000 in
theorem witness_ChainInstructionsQueue : ∀ r ∈ Claims.chainRows, let f := unitF 2 0
    let x := cellC r.2.1
    let plan := ChainKind.plan (r.2.2.2.2 f (Cell.localNat x 0x40 r.2.2.1)) (chainImmediates f (r.2.2.2.1 && f.sub.getLsbD 6))
    State.issuable (withCell x) g0 (regWords r.2.1 f) = some { grpA with fetched := regWords r.2.1 f } ∧ chainIllegal f = none ∧ Group.uniPoison grpA 2 = false ∧
      0x40 % r.2.2.1 = 0 ∧ Cell.localMarked x 0x40 r.2.2.1 = false ∧ f.sub.getLsbD 5 = false ∧ chainFailure f r.2.2.2.1 r.2.2.1 0x40 plan = none ∧
      reservedPark x (plan.inputs ++ plan.outputs ++ [(0x40, r.2.2.1)]) = none ∧ Cell.chainCredit x 0 = true := by decide

theorem witness_ChainInstructionsQueue_chst :
    let sh : Shape := { d := .uni, a := .none, b := .none, c := .none, sub := 1, imm := false, reserved := false, group := true, carries := false }
    State.issuable (withGroup grp0 (regWords 0x91 (rf 5 0 0 0 1))) g0 (regWords 0x91 (rf 5 0 0 0 1)) = some { grp0 with fetched := regWords 0x91 (rf 5 0 0 0 1) } ∧
      regIllegal sh 64 (rf 5 0 0 0 1) = none ∧ regIllegal sh 64 (rf 5 0 0 0 0) = none ∧ (cellWith grp0 []).chain = [] ∧ NMap.get (cellWith grp0 []).sticky 0 0 < 2 ^ 32 := by
  decide

theorem test_sticky : after (.chstReadClear g0 (rf 5 0 0 0 0)) (withCell { cellWith grp0 (regWords 0x91 (rf 5 0 0 0 0)) with sticky := [(0, 6)] })
      (fun t => decide (uni t 5 = 6 ∧ (State.cell t 0).sticky = [])) = true ∧
    after (.chstReadOnly g0 (rf 5 0 0 0 1)) (withCell { cellWith grp0 (regWords 0x91 (rf 5 0 0 0 1)) with sticky := [(0, 6)] })
      (fun t => decide (uni t 5 = 6 ∧ (State.cell t 0).sticky = [(0, 6)])) = true := by decide

/-- No collective group is set up in the states that `withCell` makes: their cells have no staging area (the hypotheses on staging areas of the
statements about loads, stores, atomics, copies, the array and the chain unit). -/
theorem witness_offStage (x : Cell) (c : Nat) (rs : List (Nat × Nat)) : Claims.offStage (withCell x) c rs := by
  intro e he
  exact absurd he (by simp [withCell, State.reset])

def twoMembers : CollGroup := { (default : CollGroup) with members := [0, 1], pos := 0, anchor := 0, confirmed := [1] }
/-- All-reduce of 64 elements from 0 to 0x1000, group 0, record at 0x100. -/
def collWord : Nat := word [(0x1000, 384), (64, 352), (0x100, 288)]
def stateColl : State :=
  { State.reset with
    cells := [(0, { cellWith grpA (regWords 0xA0 (unitF 2 0)) with localMem := bytesAt 0x40 64 collWord, lookaside := [page 0 0] })]
    groups := [(0, twoMembers)] }

set_option maxRecDepth 20000 in
theorem witness_CollectiveQueues : let f := unitF 2 0
    let x := State.cell stateColl 0
    State.issuable stateColl g0 (regWords 0xA0 f) = some { grpA with fetched := regWords 0xA0 f } ∧ collIllegal f = none ∧ State.collPark stateColl g0 f grpA = none ∧
      (State.job stateColl 0).checkpoint = none ∧ Cell.epochNewer x 0 (Group.epoch grpA) = false ∧ x.copies.length + x.colls < 48 ∧
      (collDesc (Cell.localNat x 0x40 64)).group = 0 ∧ State.coll stateColl 0 = some twoMembers ∧ twoMembers.lost = none ∧
      Claims.offStage stateColl 0 [(Group.uni grpA f.sa.toNat, 64)] := by unfold Claims.offStage; decide

set_option maxRecDepth 20000 in
theorem test_coll : after (.coll g0 (unitF 2 0)) stateColl (fun t => decide ((State.coll t 0).map (fun q => q.queue.length) = some 1 ∧ (State.cell t 0).colls = 1)) = true := by
  decide

/-! ### Fetches, the lookaside, the mask stack -/

/-- A group at PC 0 of code page 0x200000, and its cell with the code's sector in L1. -/
def grpF : Group := { grp0 with codeBase := 0x200000 }
def codeLine : CacheLine := { line := 0x4000, sectors := [(0, { bytes := List.replicate 32 7, poison := false })], cls := 0, tag := 0, roc := false }
def cellF (look : List Translation) : Cell := { cellWith grpF [] with lookaside := look, l1 := [(cacheSet 7 0x4000, [codeLine])] }

theorem wants_of (s : State) (grp : Group) (hg : State.group s g0 = some grp) (hf : grp.fetched = []) (hr : State.cellRuns s 0 = true)
    (hp : NMap.find (State.cell s 0).parkList 0 = none) (ha : grp.active ≠ 0) (hn : grp.ring ≠ 64) (hh : grp.hold = .none) (hc : (State.cell s 0).accesses = []) :
    Claims.wantsWord s g0 grp :=
  ⟨hg, hr, hp, ha, hn, by simp [hh], by simp [g0, hc], by simp [hf]⟩

theorem witness_FetchesAndMaskStack_hit : Claims.wantsWord (withCell (cellF [page 1 1])) g0 { grpF with fetched := [] } ∧
    Cell.translation (cellF [page 1 1]) 1 = some (page 1 1) ∧ permission (page 1 1) 0 .fetch = none ∧
    cacheSector 7 (cellF []).l1 (fabricAddress (page 1 1) 0x200000) = some { bytes := List.replicate 32 7, poison := false } ∧
    Claims.wordAddress grpF = 0x200000 ∧ Cell.slotsUsed (cellF []) 0 ≤ 32 ∧ Claims.settled (withCell (cellF [])) 0 ∧
    State.codeWritten (withCell (cellF [page 1 1])) 0 0x200000 = false ∧
    State.codeWritten { withCell (cellF [page 1 1]) with codeWrites := [(1, 1)] } 0 (fabricAddress (page 1 1) 0x200000) = true ∧
    ∀ fa, State.unsettledGlobal (withCell (cellF [])) fa = false :=
  ⟨wants_of _ _ (by decide) (by decide) (by decide) (by decide) (by decide) (by decide) (by decide) (by decide), by decide, by decide, by decide, by decide, by decide,
    by unfold Claims.settled; decide, by decide, by decide, fun _ => rfl⟩

theorem witness_FetchesAndMaskStack_parks : Claims.wantsWord (withCell (cellF [])) g0 { grpF with fetched := [] } ∧ Cell.translation (cellF []) 1 = none ∧
    Region.translation (State.region (withCell (cellF [])) 0) 1 = none ∧
    permission { page 1 1 with ex := false } 0 .fetch ≠ none ∧ permission { page 1 1 with job := 9 } 0 .fetch ≠ none :=
  ⟨wants_of _ _ (by decide) (by decide) (by decide) (by decide) (by decide) (by decide) (by decide) (by decide), by decide, by decide, by decide, by decide⟩

/-- The region window cache has page 1; 24 mask-stack entries; 128 of them spilled. -/
def regionF : State := { withCell (cellF []) with regions := [(0, { Region.reset with windowCache := [(windowSet 1, [page 1 1])] })] }
def entries (n : Nat) : List MaskEntry := List.replicate n { kind := .pending, pc := 5, mask := 6 }

theorem witness_FetchesAndMaskStack_window : Region.translation (State.region regionF 0) 1 = some (page 1 1) ∧ State.group regionF g0 = some { grpF with fetched := [] } ∧
    (State.group (withGroup { grpF with hold := .lookaside 1 } []) g0).map (·.hold) = some (.lookaside 1) ∧
    (State.group (withGroup { grpF with hold := .spill, stack := entries 16, spilled := 120 } []) g0).map (fun x => (x.hold, x.stack.length, x.spilled)) =
      some (.spill, 16, 120) ∧
    (State.group (withGroup { grpF with hold := .reload, spilled := 8 } []) g0).map (fun x => (x.hold, x.spilled)) = some (.reload, 8) := by decide

theorem test_fetch : after (.instructionFetch g0) (withCell (cellF [page 1 1]))
      (fun t => decide ((State.group t g0).map (·.fetched) = some [0x0707070707070707])) = true ∧
    after (.instructionFetch g0) { withCell (cellF [page 1 1]) with codeWrites := [(1, 1)] }
      (fun t => decide (t.freeCount = 2 ∧ (State.group t g0).map (·.fetched.length) = some 1)) = true ∧
    parks (.instructionFetch g0) (withCell (cellF [])) 2 0 = true ∧
    after (.instructionFetch g0) regionF (fun t => decide ((State.group t g0).map (·.hold) = some (.lookaside 1))) = true ∧
    after (.lookasideFill g0) { regionF with cells := [(0, cellWith { grpF with hold := .lookaside 1 } [])] }
      (fun t => decide ((State.cell t 0).lookaside.length = 1)) = true := by decide

set_option maxRecDepth 20000 in
/-- Table 3.5: an entry in memory is its kind, PC and mask; the oldest lies lowest. -/
theorem test_spill : after (.maskStackSpill g0) (withGroup { grpF with hold := .spill, stack := entries 16 } [])
      (fun t => decide ((State.group t g0).map (fun x => (x.stack.length, x.spilled)) = some (8, 8) ∧
        Cell.localNat (State.cell t 0) 0x70000 8 = MaskEntry.word { kind := .pending, pc := 5, mask := 6 })) = true := by decide

/-! ### The memory path -/

/-- A global word access of lanes at 0x200000 (w4). -/
def gf : MemForm := { mf 8 4 0 2 with space := 1 }
def gaf : MemForm := { mf 8 4 (2 * 2 ^ 10) 2 with space := 1 }
def grpG : Group := grpOf 0 1 0x200000
def memG (op : Nat) (f : MemForm) : State := withCell { cellWith grpG (memWords op f) with lookaside := [page 1 1], l1 := [(cacheSet 7 0x4000, [codeLine])] }

theorem witness_GlobalLoads_l1 : Claims.memIssues (memG 0x60 gf) 0x60 .load g0 gf { grpG with fetched := memWords 0x60 gf } ∧
    Claims.globalClear (memG 0x60 gf) g0 gf false .read { grpG with fetched := memWords 0x60 gf } (fun _ => page 1 1) ∧
    Claims.unheldGlobal (memG 0x60 gf) g0 gf false { grpG with fetched := memWords 0x60 gf } (fun _ => page 1 1) ∧ Claims.settled (memG 0x60 gf) 0 ∧
    (memG 0x60 gf).nextId ∉ grpG.acquire ∧ Cell.slotsUsed (State.cell (memG 0x60 gf) 0) 0 ≤ 32 ∧
    (∀ l ∈ Claims.lanes grpG gf, cacheSector 7 (State.cell (memG 0x60 gf) 0).l1 (Claims.fabric gf false grpG (fun _ => page 1 1) l) =
      some { bytes := List.replicate 32 7, poison := false }) ∧ ∀ fa, State.unsettledGlobal (memG 0x60 gf) fa = false :=
  ⟨by unfold Claims.memIssues; decide, by unfold Claims.globalClear; decide, by unfold Claims.unheldGlobal; decide, by unfold Claims.settled; decide, by decide, by decide, by decide, fun _ => rfl⟩

theorem witness_GlobalStoresAndAtomics :
    Claims.memIssues (memG 0x61 gf) 0x61 .store g0 gf { grpG with fetched := memWords 0x61 gf } ∧
    Claims.globalClear (memG 0x61 gf) g0 gf false .write { grpG with fetched := memWords 0x61 gf } (fun _ => page 1 1) ∧
    Claims.unheldGlobal (memG 0x61 gf) g0 gf false { grpG with fetched := memWords 0x61 gf } (fun _ => page 1 1) ∧ NMap.rising (memG 0x61 gf).homeQueue = true ∧
    Claims.settled (memG 0x61 gf) 0 ∧
    ∀ r ∈ Claims.atomicRows, let f := if r.2.2.2 = .cas then { gaf with off := gaf.off + 8 } else gaf
      Claims.memIssues (memG r.2.1 f) r.2.1 r.2.2.1 g0 f { grpG with fetched := memWords r.2.1 f } ∧
      Claims.globalClear (memG r.2.1 f) g0 f true .atomic { grpG with fetched := memWords r.2.1 f } (fun _ => page 1 1) ∧
      Claims.unheldGlobal (memG r.2.1 f) g0 f true { grpG with fetched := memWords r.2.1 f } (fun _ => page 1 1) ∧
      Cell.slotsUsed (State.cell (memG r.2.1 f) 0) 0 ≤ 32 := by
  unfold Claims.memIssues Claims.unheldGlobal Claims.globalClear Claims.settled; decide

def testBytes (t : State) : Option HomeBody := (t.homeQueue.head?).map (fun e => e.2.body)

set_option maxRecDepth 20000 in
theorem test_global : after (.ld g0 gf) (memG 0x60 gf) (fun t => decide (lane t 8 3 = 0x07070707)) = true ∧
    after (.st g0 gf) (memG 0x61 gf) (fun t => decide (testBytes t = some (.write 0 [(0, 0), (1, 0), (2, 0), (3, 0)] false))) = true ∧
    after (.atomAdd g0 gaf) (memG 0x62 gaf) (fun t => decide ((State.cell t 0).misses.length ≤ 32 ∧ t.homeQueue.length = 1)) = true := by decide

/-- A load of 4 bytes by lane 5 waits for line-miss slot 3. -/
def missG : Miss := { (default : Miss) with kind := .line, line := 0x4000, sectors := [0], accesses := [7], answer := some [(0, { bytes := List.replicate 32 9, poison := false })] }
def accessG : Access := { (default : Access) with reg := 8, kind := .load 2 false, lanes := [{ lane := 5, fa := 0x200000, ea := 0x200000 }], waits := [3] }
def fillG : State := withCell { cellWith grpG [] with misses := [(3, missG)], accesses := [(7, accessG)] }

theorem witness_GlobalLoads_fill : NMap.find (State.cell fillG 0).misses 3 = some missG ∧ NMap.rising (missG.answer.getD []) = true ∧
    (∀ i ∈ missG.sectors, (NMap.find (missG.answer.getD []) i).isSome = true) ∧ (State.cell fillG 0).held = [] ∧ Claims.settled fillG 0 ∧
    (∀ e ∈ (State.cell fillG 0).accesses, e.2.later.asks = []) ∧ (State.cell fillG 0).accesses.filter (fun e => e.2.waits.contains 3) = [(7, accessG)] ∧
    (Cell.group (State.cell fillG 0) 0).isSome = true ∧ (accessG.lanes.map (·.lane)).Nodup ∧
    (∀ y ∈ accessG.lanes, y.lane < 32 ∧ y.fa % 4 = 0 ∧ y.fa / 128 = missG.line ∧ (NMap.find (missG.answer.getD []) (y.fa / 32 % 4)).isSome = true) ∧
    (∀ e ∈ missG.answer.getD [], e.1 < 4) ∧ NMap.rising missG.merge = true := by unfold Claims.settled; decide

/-- A request of cell 0 in the crossbar of its own region, its line in the region cache. -/
def reqH (b : HomeBody) : HomeRequest :=
  { source := .cell 0 0, region := 0, line := 0x80, body := b, scope := 0, cls := 0, tag := 0, uses := none, answers := some 5, stage := .network, after := []
    populated := true, begins := true, joined := none }
def lineH : RegionLine := { line := 1, cls := 0, tag := 0, valid := [0, 1, 2, 3], dirty := [], lost := [], uses := 0, expired := false }
def homeS (b : HomeBody) (lines : List RegionLine) : State :=
  { withCell { Cell.reset with misses := [(5, missG)] } with
    homeQueue := [(2, reqH b)]
    regions := [(0, { Region.reset with cache := if lines = [] then [] else [(regionSet 0x80, lines)] })] }
def addLane (l : Nat) : AtomicLane := { lane := l, addr := 0x204, b := 3, c := 0 }

/-- What holds of the default and of every value listed holds of every value read. -/
theorem get_of {α : Type} (P : α → Prop) (d : α) (hd : P d) (m : NMap α) (h : ∀ e ∈ m, P e.2) (k : Nat) : P (NMap.get m d k) := by
  unfold NMap.get
  induction m with
  | nil => exact hd
  | cons e rest ih =>
    obtain ⟨j, w⟩ := e
    simp only [NMap.find]
    split
    · exact h (j, w) (by simp)
    · exact ih (fun e he => h e (by simp [he]))

theorem allSettled_of (s : State) (h : ∀ e ∈ s.regions, e.2.txns = []) : Claims.allSettled s := by
  intro r e he
  rw [State.region, get_of (fun x => x.txns = []) Region.reset rfl s.regions h r] at he
  cases he

theorem nothingMoves_of (s : State) (hq : ∀ e ∈ s.homeQueue, e.2.stage = .home) (h : ∀ e ∈ s.cells, e.2.held = [] ∧ e.2.heldLocal = []) :
    Claims.nothingMoves s := ⟨hq, get_of (fun x => x.held = [] ∧ x.heldLocal = []) Cell.reset ⟨rfl, rfl⟩ s.cells h⟩

/-- Requests of each kind of a line held, of one absent, and a whole-sector store of an absent line. -/
def wholeH : HomeBody := .write 3 (tabulate 32 (fun j => (j, 9))) false
theorem witness_HomeRequests : ∀ b ∈ [HomeBody.write 3 [(0, 1), (31, 2)] false, .atomic .add false 4 [addLane 0, addLane 1], .read [0, 3], wholeH], ∀ ls ∈ [[lineH], []],
    Claims.atHome (homeS b ls) 2 0 0 (reqH b) ∧ (ls = [lineH] → ∃ l, State.regionLine (homeS b ls) 0 0x80 = some l ∧ ∀ i ∈ [0, 1, 2, 3], i ∈ l.valid) ∧
      (ls = [] → State.regionLine (homeS b ls) 0 0x80 = none ∧ (State.regionLines (homeS b ls) 0 0x80).length < 12) ∧ (homeS b ls).stackQueue.length < 32 ∧
      (∀ l ∈ [addLane 0, addLane 1], State.sectorPoisoned (homeS b ls) 0 (0x80 + l.addr % 128) = false) ∧
      NMap.find (State.cell (homeS b ls) 0).misses 5 = some missG ∧ ∀ fa, State.unsettledGlobal (homeS b ls) fa = false := by
  intro b hb ls hl
  have hn : Claims.nothingMoves { homeS b ls with homeQueue := NMap.erase (homeS b ls).homeQueue 2 } :=
    nothingMoves_of _ (by revert b ls; decide) (by revert b ls; decide)
  have hs : Claims.allSettled (homeS b ls) := allSettled_of _ (by intro e he; simp only [homeS, List.mem_singleton] at he; subst he; rfl)
  refine ⟨⟨?_, ?_, ?_, ?_, ?_, ?_, ?_, ?_, ?_, ?_, ?_, hn, hs⟩, ?_, ?_, ?_, ?_, ?_, fun _ => rfl⟩ <;> clear hs hn
  case refine_12 => intro h; subst h; exact ⟨lineH, by revert b; decide, by decide⟩
  all_goals revert b ls; decide

set_option maxRecDepth 20000 in
/-- Two lanes add 3 to the word at 0x204; a store of bytes 0 and 31; a load of a line not held asks its stack. -/
theorem test_home : after (.homeRequest 2) (homeS (.atomic .add false 4 [addLane 0, addLane 1]) [lineH]) (fun t => decide (State.byteAt t 0 0x84 = 6)) = true ∧
    after (.homeRequest 2) (homeS (.write 3 [(0, 1), (31, 2)] false) [lineH]) (fun t => decide (State.byteAt t 0 0xE0 = 1 ∧ State.byteAt t 0 0xFF = 2)) = true ∧
    after (.homeRequest 2) (homeS (.read [0, 3]) []) (fun t => decide (t.stackQueue.length = 1)) = true := by decide

/-- Command 4 fills sectors 1 to 3 of the line at region 1, offset 0x80. -/
def cmdS : StackCommand :=
  { region := 1, line := 0x80, channel := 64 + (channelOf 0x80).1, bank := (channelOf 0x80).2.1, row := (channelOf 0x80).2.2.1, write := false }
def stackS : State :=
  { State.reset with
    stackQueue := [(4, cmdS)], regions := [(1, { Region.reset with cache := [(regionSet 0x80, [{ lineH with valid := [0] }])] })]
    power := { State.reset.power with regions := [(1, { RegionPower.reset with stackOn := true }), (7, { RegionPower.reset with stackOn := true })] } }
/-- Row 7 of channel 3, bank 31 has an uncorrectable error; its bank has used all its spares. -/
def bankS (spares : List Nat) : State :=
  { State.reset with banks := [(32 * 511 + 31, { spared := spares, failed := [98303], corrected := [(5, [0, 0, 0, 0])] })] }

theorem witness_StackEvents : Claims.allSettled stackS ∧ Claims.nothingMoves stackS ∧ NMap.find stackS.stackQueue 4 = some cmdS ∧
    (∀ e ∈ stackS.stackQueue, ¬ (e.1 < 4 ∧ e.2.channel = cmdS.channel ∧ e.2.bank = cmdS.bank)) ∧ (∀ e ∈ stackS.homeQueue, e.2.joined ≠ some 4) ∧
    State.regionLine stackS 1 0x80 = some { lineH with valid := [0] } ∧
    98303 ∈ (NMap.get (bankS []).banks default (32 * 511 + 31)).failed ∧ (NMap.get (bankS [1, 2]).banks default (32 * 511 + 31)).spared.length < 16 ∧
    16 ≤ (NMap.get (bankS (List.range 16)).banks default (32 * 511 + 31)).spared.length ∧
    4 ≤ ((NMap.get (NMap.get (bankS []).banks default (32 * 511 + 31)).corrected [] 5).filter (fun at' => decide ((0 : Int) < at' + 86400000000000))).length ∧
    (∀ e ∈ [(7, 0x2FFFFFFFE0), (1, 0x80)], State.regionServes stackS e.1 = true ∧ State.stackPowered stackS e.1 = true ∧
      State.sectorPoisoned stackS e.1 e.2 = false) ∧ State.stackRoom stackS 7 0x2FFFFFFFE0 = true ∧ State.regionLine stackS 7 0x2FFFFFFFE0 = none ∧
    State.stackRoom { stackS with stackQueue := [] } 1 0x80 = true :=
  ⟨allSettled_of _ (by decide), nothingMoves_of _ (by decide) (by decide), by decide, by decide, by decide, by decide, by decide, by decide, by decide, by decide,
    by decide, by decide, by decide, by decide⟩

theorem test_stack : after (.stackCommandComplete 4 [.uncorrectable, .uncorrectable]) stackS
      (fun t => decide (t.stackQueue = [] ∧ State.sectorPoisoned t 1 0xA0 = true ∧ State.sectorPoisoned t 1 0x80 = false)) = true ∧
    after (.rowSpare 511 31 98303) (bankS []) (fun t => decide ((NMap.get t.banks default (32 * 511 + 31)).spared = [98303])) = true ∧
    after (.rowSpare 511 31 98303) (bankS (List.range 16)) (fun t => decide (t.nv.retiredPages.length = 1)) = true ∧
    after (.patrolScrub 1 0x80 .uncorrectable) { stackS with stackQueue := [] }
      (fun t => decide (State.sectorPoisoned t 1 0x80 = false ∧ (State.regionLine t 1 0x80).map (·.lost) = some [0])) = true ∧
    after (.patrolScrub 7 0x2FFFFFFFE0 .uncorrectable) stackS (fun t => decide (State.sectorPoisoned t 7 0x2FFFFFFFE0 = true)) = true := by decide

/-! ### Placement, retirement, park notices -/

/-- A record of two groups for cell 0: 32 registers, code at 0x200000, ARGS 0x77; one of no groups. -/
def recordWord (groups inc : Nat) : Nat := word [(0x200000, 960), (0x77, 896), (groups, 800), (32, 775), (1, 192), (0x50000, 640), (inc, 624)]
def ringP (placed : Nat) : Ring := { Ring.reset with status := .running, base := 0x10010000, cells := 3, tail := 1, placed := placed }
def placeS (groups placed : Nat) : State :=
  { State.reset with
    phase := .up
    mem := bytesAt 0x10010000 128 (recordWord groups 4)
    rings := [(0, ringP placed)]
    power := { Power.reset with regions := [(0, { RegionPower.reset with on := true })] } }

set_option maxRecDepth 20000 in
theorem witness_GroupsArePlaced : Claims.mayPlace (placeS 0 0) 0 ∧ (State.ring (placeS 0 0) 0).placed = 0 ∧
    State.recordError (placeS 0 0) (ringP 0) (State.recordAt (placeS 0 0) (ringP 0)) = some 6 ∧
    Claims.mayPlace (placeS 2 0) 0 ∧ Claims.mayPlace (placeS 2 1) 0 ∧
    State.recordError (placeS 2 0) (ringP 0) (State.recordAt (placeS 2 0) (ringP 0)) = none ∧ (State.recordAt (placeS 2 0) (ringP 0)).bind = 0 ∧
    State.roomFor (placeS 2 0) (State.recordAt (placeS 2 0) (ringP 0)) = some (0, 0, 0) := by unfold Claims.mayPlace; decide

set_option maxRecDepth 20000 in
/-- The record is placed in two steps; u2 is ARGS, u6 the registers, and HEAD moves when the last group is placed. -/
theorem test_place : after (.groupPlace 0) (placeS 2 0) (fun t => decide (uni t 2 = 0x77 ∧ uni t 6 = 32 ∧ (State.ring t 0).placed = 1 ∧ t.launches.length = 1)) = true ∧
    after (.groupPlace 0) (placeS 2 1) (fun t => decide ((State.ring t 0).head = 1 ∧ uni t 0 = 1)) = true ∧
    after (.groupPlace 0) (placeS 0 0) (fun t => decide ((State.ring t 0).error = 6 ∧ (State.ring t 0).status = .stopped)) = true := by decide

/-- A group that has lost its lanes; park records of a window miss at page 5, of a page held back, and of a fault to report. -/
def recP (code : Nat) (state : ParkState) : ParkRecord :=
  { (default : ParkRecord) with addr := 0xA00000, code := BitVec.ofNat 8 code, slot := 0, state := state, mask := 1, faultLanes := 1 }
def parkedS (code : Nat) (state : ParkState) : State := withCell { cellWith { grp0 with active := 0, launch := 4 } [] with parkList := [(0, recP code state)] }
/-- Page 5 of the window table: job 0 owns it, this module holds it. -/
def tableS (code : Nat) (state : ParkState) : State :=
  { parkedS code state with
    fabric := { Fabric.reset with table := [(bucketPlace (bucket1 5), BitVec.ofNat 128 (word [(5, 96), (9, 44), (1, 41), (1, 40)]))] } }

theorem witness_GroupsLeave : State.group (withGroup { grp0 with active := 0 } []) g0 = some { grp0 with active := 0, fetched := [] } ∧
    (NMap.find (State.cell (parkedS 2 .discard) 0).parkList 0).map (·.state) = some .discard ∧
    NMap.find (State.cell (parkedS 2 .parked) 0).parkList 0 = some (recP 2 .parked) ∧ Fabric.resolve Fabric.reset 5 = .nothing ∧
    NMap.find (State.cell (parkedS 4 .parked) 0).parkList 0 = some (recP 4 .parked) ∧
    (match Fabric.resolve (tableS 2 .parked).fabric 5 with
      | .page tr => decide (tr.vpn = 5 ∧ tr.ppn = 9)
      | _ => false) = true ∧
    State.noticeSent (parkedS 4 .parked) g0 = true ∧ State.noticeSent (tableS 2 .parked) g0 = true ∧
    NMap.find (State.cell (parkedS 2 .replay) 0).parkList 0 = some (recP 2 .replay) ∧ grp0.pendingFault = none := by decide

/-- Launch 4 has no group left; its notify is owed to counter 0 of cell 0 of module 5. -/
def launchS (inc : Nat) : State :=
  { State.reset with launches := [(4, { (default : Launch) with target := 0x50000, inc := inc, complete := true, retired := [(0, 3, 0)] })] }

theorem witness_GroupsLeave_records : (∀ inc ∈ [0, 65535], NMap.find (launchS inc).launches 4 = some
      { (default : Launch) with target := 0x50000, inc := inc, complete := true, retired := [(0, 3, 0)] } ∧ State.leftBehind (launchS inc) 0 3 0 = false) ∧
    freeEntry (State.region (launchS 1) 0).txns = some 0 ∧ Claims.settled (launchS 1) 0 ∧ NMap.find (launchS 1).fabric.failed (targetModule 0 0x50000) = none := by
  unfold Claims.settled; decide

theorem test_leave : after (.groupRetire g0) (withGroup { grp0 with active := 0 } []) (fun t => decide (State.group t g0 = none)) = true ∧
    after (.parkNotice g0) (parkedS 4 .parked) (fun t => decide ((NMap.find (State.cell t 0).parkList 0).map (·.state) = some .held ∧ t.tel.logPath.length = 2)) = true ∧
    after (.parkNotice g0) (tableS 2 .parked) (fun t => decide ((NMap.find (State.cell t 0).parkList 0).map (·.state) = some .replay)) = true ∧
    after (.groupReplay g0) (parkedS 2 .replay) (fun t => decide ((State.group t g0).map (·.replays) = some 1 ∧ (State.cell t 0).parkList = [])) = true ∧
    after (.launchRecordDone 4) (launchS 1) (fun t => decide (t.launches = [] ∧ t.out.length = 1)) = true := by decide

/-! ### Copies -/

/-- A copy of 2 rows of 4 bytes (E4) from 0x1000 to 0x2000, destination rows 8 apart; `note` notifies counter 0 of cell 0, module 5. -/
def copyWord (rows note : Nat) : Nat := word [(0x1000, 448), (0x2000, 384), (rows, 368), (4, 352), (3, 280), (3, 276), (1, 261), (4, 320), (8, 288), (note, 259), (note * 0x50000, 64), (note, 48)]
def copyF : RegForm := unitF 2 0
def grpC : Group := { grp0 with u := [(2, 0x40)] }
def copyS (desc : Nat) : State :=
  withCell { cellWith grpC (regWords 0x70 copyF) with localMem := bytesAt 0x40 64 desc ++ bytesAt 0x1000 8 0x0807060504030201 }

set_option maxRecDepth 20000 in
theorem witness_CopiesIssue : State.issuable (copyS (copyWord 2 0)) g0 (regWords 0x70 copyF) = some { grpC with fetched := regWords 0x70 copyF } ∧
    Group.uniPair grpC 2 = 0x40 ∧ regIllegal shapeCopy 64 copyF = none ∧ copyPark (copyS (copyWord 2 0)) 0 grpC copyF 0x40 = none ∧
    copyRemote (copyS (copyWord 2 0)) 0 (copyDesc (copyWord 2 0)) [] = false ∧ Cell.freeCopy (State.cell (copyS 0) 0) = some 0 ∧
    Cell.localNat (State.cell (copyS (copyWord 2 0)) 0) 0x40 64 = copyWord 2 0 ∧
    Group.operandPoison grpC .uniPair 2 true = 0 ∧ (Cell.arrival (State.cell (copyS 0) 0) 0).tag = grpC.job ∧ (copyDesc (copyWord 0 0)).gather = false ∧
    (CopyDesc.firstFailure (copyDesc (copyWord 0 0)) 0x40 []).isSome = true := by decide

/-- The same copy in slot 3, with `row` rows done. -/
def slotC (phase : CopyPhase) (row note : Nat) : CopySlot :=
  { (default : CopySlot) with descAddr := 0x40, desc := BitVec.ofNat 512 (copyWord 2 note), counter := 3, phase := phase, nextRow := row }
def movingS (phase : CopyPhase) (row note : Nat) : State := withCell { State.cell (copyS 0) 0 with copies := [(3, slotC phase row note)] }

set_option maxRecDepth 20000 in
theorem witness_CopyUnit : (∀ row ∈ [0, 1], let k := slotC .moving row 0
      let d := copyDesc k.desc.toNat
      let dst := strided d.dst d.dstStride row
      NMap.find (State.cell (movingS .moving row 0) 0).copies 3 = some k ∧ State.cellRuns (movingS .moving row 0) 0 = true ∧ Claims.settled (movingS .moving row 0) 0 ∧
      row < d.rows ∧ d.srcSpace = 0 ∧ d.dstSpace = 0 ∧ d.mx = 0 ∧ d.blk = false ∧ CopyDesc.sourceRow d k.gather row = some row ∧
      0 ≤ strided d.src d.srcStride row ∧ strided d.src d.srcStride row + CopyDesc.srcRow d ≤ 2 ^ 19 ∧ 0 ≤ dst ∧ dst + CopyDesc.dstRow d ≤ 2 ^ 19 ∧
      k.rows = [] ∧ k.todo = [] ∧ k.openBytes = [] ∧ k.waits = [] ∧
      (∀ e ∈ (State.cell (movingS .moving row 0) 0).copies, e.2.age < k.age → State.movable (movingS .moving row 0) 0 e.1 e.2 = false) ∧
      ∀ e ∈ (State.cell (movingS .moving row 0) 0).heldLocal, e.2.slot = k.slot → k.age ≤ e.1) ∧
    (copyDesc (slotC .moving 2 1).desc.toNat).rows ≤ 2 ∧ freeEntry (State.region (movingS .notifying 2 1) 0).txns = some 0 ∧
    NMap.find Fabric.reset.failed (targetModule 0 (copyDesc (slotC .notifying 2 1).desc.toNat).target) = none := by
  unfold Claims.settled; decide

set_option maxRecDepth 20000 in
theorem test_copies : after (.copy g0 copyF) (copyS (copyWord 2 0)) (fun t => decide ((NMap.find (State.cell t 0).copies 0).map (fun k => (k.counter, k.nextRow)) = some (0, 0))) = true ∧
    parks (.copy g0 copyF) (copyS (copyWord 0 0)) 6 3 = true ∧
    after (.copyCommand 0 3) (movingS .moving 1 0) (fun t => decide (Cell.localNat (State.cell t 0) 0x2008 4 = 0x08070605 ∧ Cell.localNat (State.cell t 0) 0x2000 4 = 0)) = true ∧
    after (.copyComplete 0 3) (movingS .moving 2 0) (fun t => decide ((State.cell t 0).copies = [] ∧ (Cell.arrival (State.cell t 0) 3).value = 1)) = true ∧
    after (.copyNotify 0 3) (movingS .notifying 2 1) (fun t => decide (t.out.length = 1)) = true := by decide

/-! ### The matrix array at work -/

theorem quiet_of (x : Cell) (h : x.array.all (fun e => !Claims.answers e.2 && (match e.2.kind with
    | .opn d => decide ((openDesc d.toNat).pre ≠ 0)
    | _ => true)) = true) : Claims.quietArray x := by
  intro e he
  have := List.all_eq_true.mp h e he
  simp only [Bool.and_eq_true, Bool.not_eq_true'] at this
  refine ⟨this.1, fun d hd => ?_⟩
  have h2 := this.2
  rw [hd] at h2
  simpa using h2

/-- Two rows' 16 elements of B16 at 0x1000 (1 in row 0, the rest 0), one K-step; drawer 2 of slice 0 open for 16 by 16 entries. -/
def opA (kind : ArrayKind) (begun : Bool) : ArrayOp := { (default : ArrayOp) with kind := kind, drawer := 2, counter := some 3, begun := begun }
def kindMma : ArrayKind := .mma (BitVec.ofNat 256 tileWord) (BitVec.ofNat 256 tileWord) 0
def preWord : Nat := word [(0x1000, 237), (64, 221), (1, 210)]
def kindDrn : ArrayKind := .drn (BitVec.ofNat 512 epiWord) 0
def openDrawer : Drawer := { Drawer.reset with opened := true, entries := [(0, { (default : DrawerEntry) with outer := some 0 })] }
def runS (ops : NMap ArrayOp) (ramp : Ramp) : State :=
  withCell { cellWith grp0 [] with
    localMem := bytesAt 0x1000 4 0x3F803F80
    arrivals := [(3, { value := 0, tag := 0 })]
    array := ops
    slices := [(0, { Slice.reset with ramp := ramp, rows := 16, drawers := [(2, openDrawer)] })] }

theorem witness_ArrayEngine_ramps : (∀ r ∈ [Ramp.start, .stop, .run], (Cell.slice (State.cell (runS [] r) 0) 0).ramp = r ∧ 0 < (State.cell (runS [] r) 0).sliceCount) ∧
    Claims.quietArray (State.cell (runS [] .run) 0) ∧ FallItem.slice 0 0 ∉ (runS [] .run).power.proofer.held ∧ 120 ≤ (runS [] .run).power.proofer.fall ∧
    (let x := { Cell.reset with slices := [(3, { Slice.reset with resetting := true, claimed := some { slot := 63, age := 9 } })], sliceCount := 4 }
     (Cell.slice x 3).resetting = true ∧ (Cell.slice x 3).claimed = some { slot := 63, age := 9 } ∧ Cell.group x 63 = none ∧ x.array = [] ∧
       (Cell.slice x 3).drawers = []) :=
  ⟨by decide, quiet_of _ (by decide), by decide, by decide, by decide⟩

set_option maxRecDepth 20000 in
theorem witness_ArrayEngine_fill : (let s := runS [(5, opA kindMma false)] .run
      Cell.findOp (State.cell s 0) 0 (fun o => ArrayOp.isMma o && !o.begun) = some (5, opA kindMma false) ∧ State.sliceRuns s 0 0 = true ∧
        Claims.quietArray (State.cell s 0) ∧ ∀ e ∈ (State.cell s 0).array, ¬ e.1 < 5) ∧
    (pairing (tileDesc tileWord) (tileDesc tileWord)).isSome = true ∧ (tileDesc tileWord).sparse = false ∧ (mmaShape 0).m = 16 ∧ (mmaShape 0).steps = 1 ∧
    (let s := runS [(5, opA kindMma true)] .run
     Cell.findOp (State.cell s 0) 0 (fun o => ArrayOp.isMma o && o.begun && decide (o.drawer = 2)) = some (5, opA kindMma true) ∧ Claims.quietArray (State.cell s 0)) ∧
    (let o := opA (.opn (BitVec.ofNat 256 preWord)) false
     let s := runS [(5, o)] .run
     Cell.findOp (State.cell s 0) 0 (fun o => decide (o.drawer = 2)) = some (5, o) ∧ State.sliceRuns s 0 0 = true ∧ Cell.oldestOf (State.cell s 0) 5 0 2 = true ∧
     Claims.quietArray (State.cell s 0)) :=
  ⟨⟨by decide, by decide, quiet_of _ (by decide), by decide⟩, by decide, by decide, by decide, by decide, ⟨by decide, quiet_of _ (by decide)⟩,
    ⟨by decide, by decide, by decide, quiet_of _ (by decide)⟩⟩

def drained (ws : List LocalWrite) : ArrayOp := { opA kindDrn true with writes := ws }

set_option maxRecDepth 20000 in
theorem witness_ArrayEngine_drain : (let s := runS [(5, opA kindDrn false)] .run
      Cell.findOp (State.cell s 0) 0 (fun o => decide (o.drawer = 2)) = some (5, opA kindDrn false) ∧ (epiDesc (BitVec.ofNat 512 epiWord).toNat).dsrc = false ∧
        State.sliceRuns s 0 0 = true ∧ Cell.oldestOf (State.cell s 0) 5 0 2 = true ∧ Claims.quietArray (State.cell s 0)) ∧
    (let o := drained [{ addr := 0x7FFFE, bytes := [1, 2], marks := [false, false] }]
     let s := runS [(5, o)] .run
     Cell.findOp (State.cell s 0) 0 (fun o => decide (o.drawer = 2)) = some (5, o) ∧ Claims.quietArray (State.cell s 0) ∧
     ∀ w ∈ o.writes, w.addr + w.bytes.length ≤ 2 ^ 19 ∧ w.marks.length = w.bytes.length) ∧
    (let s := runS [(5, opA .cls false)] .run
     Cell.findOp (State.cell s 0) 0 (fun o => decide (o.drawer = 2)) = some (5, opA .cls false) ∧ Claims.quietArray (State.cell s 0)) :=
  ⟨⟨by decide, by decide, by decide, by decide, quiet_of _ (by decide)⟩, ⟨by decide, quiet_of _ (by decide), by decide⟩, ⟨by decide, quiet_of _ (by decide)⟩⟩

/-- No copy is under way there. -/
theorem witness_ArrayEngine_undisturbed (ops : NMap ArrayOp) (r : Ramp) (rs : List (Nat × Nat)) : Cell.underCopy (State.cell (runS ops r) 0) rs = [] := rfl
theorem witness_ArrayEngine_last : ∀ e ∈ (State.cell (runS [(5, opA kindDrn true)] .run) 0).array, e.1 ≠ 5 → e.2.slice = 0 → e.2.drawer = 2 → ∀ v n, e.2.kind ≠ .drn v n := by
  intro e he h
  have : e = (5, opA kindDrn true) := by simpa [runS, withCell, State.cell, NMap.get, NMap.find] using he
  exact absurd (by rw [this]) h

/-- Slice 3 of four is claimed by the group of slot 0 and runs an `mma`. -/
def faultS : State :=
  withCell { cellWith grp0 [] with
    sliceCount := 4
    array := [(5, { opA kindMma false with slice := 3 })]
    slices := [(3, { Slice.reset with ramp := .run, claimed := some { slot := 0, age := 0 } })] }

theorem witness_ArrayEngine_fault : State.cellRuns faultS 0 = true ∧ 3 < (State.cell faultS 0).sliceCount ∧ (Cell.slice (State.cell faultS 0) 3).resetting = false ∧
    Claims.quietArray (State.cell faultS 0) ∧ (∀ e ∈ (State.cell faultS 0).array, ∀ v n, e.2.kind ≠ .drn v n) ∧ State.sliceRuns faultS 0 3 = true ∧
    (Cell.findOp (State.cell faultS 0) 3 ArrayOp.isMma).isSome = true ∧ (Cell.group (State.cell faultS 0) 0).map (·.age) = some 0 ∧
    NMap.find (State.cell faultS 0).parkList 0 = none :=
  ⟨by decide, by decide, by decide, quiet_of _ (by decide), by simp [faultS, withCell, State.cell, NMap.get, NMap.find, opA, kindMma, cellWith], by decide, by decide,
    by decide, by decide⟩

set_option maxRecDepth 20000 in
/-- 1.0 × 1.0 twice in K-step 0 gives 2.0 on the stack of entry (0, 0). -/
theorem test_mma : after (.mmaOperandRelease 0 0) (runS [(5, opA kindMma false)] .run)
      (fun t => decide ((NMap.find (Cell.drawer (State.cell t 0) 0 2).entries 0).map (·.stack) = some [(0, 0x40000000)] ∧ (Cell.arrival (State.cell t 0) 3).value = 1)) = true := by
  decide

set_option maxRecDepth 20000 in
theorem test_array : after (.rampStartDone 0 0) (runS [] .start) (fun t => decide ((Cell.slice (State.cell t 0) 0).ramp = .run)) = true ∧
    after (.sliceHoldExpiry 0 0) (runS [] .run) (fun t => decide ((Cell.slice (State.cell t 0) 0).ramp = .stop ∧ t.power.proofer.fall = 19880)) = true ∧
    after (.drainComplete 0 0 2) (runS [(5, drained [{ addr := 0x7FFFE, bytes := [1, 2], marks := [false, false] }])] .run)
      (fun t => decide (Cell.localByte (State.cell t 0) 0x7FFFF = 2 ∧ (State.cell t 0).array = [])) = true ∧
    after (.sliceFault 0 3) faultS (fun t => decide ((NMap.find (State.cell t 0).parkList 0).map (fun r => (r.code, r.detail)) = some (11, 3))) = true := by decide

/-! ### The chain unit at work, the Sieve, the scale table -/

def opC (begun : Bool) (ws : List LocalWrite) : ChainOp :=
  { (default : ChainOp) with kind := .chn (BitVec.ofNat 512 chnWord) false, counter := some 3, begun := begun, writes := ws }
def chainS (o : ChainOp) : State := withCell { cellWith grp0 [] with localMem := bytesAt 0x1000 4 0x3F800000, arrivals := [(3, { value := 0, tag := 0 })], chain := [(7, o)] }
def topWrite : List LocalWrite := [{ addr := 0x7FFFE, bytes := [1, 2], marks := [false, false] }]

set_option maxRecDepth 20000 in
theorem witness_ChainAndScales_chain : ((State.cell (chainS (opC false [])) 0).chain.find? (fun e => !e.2.begun)) = some (7, opC false []) ∧
    State.cellRuns (chainS (opC false [])) 0 = true ∧ (State.cell (chainS (opC false [])) 0).copies = [] ∧
    (State.cell (chainS (opC false [])) 0).port = [] ∧
    (∀ e ∈ (State.cell (chainS (opC false [])) 0).chain, e.2.begun = false) ∧
    (match ChainOp.chain (opC false []) with
      | none => false
      | some d => !d.dsrc) = true ∧
    (State.cell (chainS (opC true topWrite)) 0).chain = [(7, opC true topWrite)] ∧ (opC true topWrite).markAll = false ∧
    ∀ w ∈ (opC true topWrite).writes, w.addr + w.bytes.length ≤ 2 ^ 19 := by decide

/-- Step 0 of slot 4095 had EXP_MAX 10; cell 0's frozen bank of step 0 feeds that slot from tag 5. -/
def mergeT : SlotMerge := { SlotMerge.none with participated := true, sums := { Histogram.reset with expMax := some 10 } }
def scaleS (m : SlotMerge) : State :=
  { State.reset with
    timebase := 100000000
    scale := { ScaleTable.reset with
               slots := [(4095, { ScaleSlot.reset with dynamic := true })]
               merges := [(4095 * 2 ^ 32, m)]
               saturations := [(4095, 9)]
               rescales := [(4095, 9, 2, false)] } }
def frozenS : State :=
  withCell { Cell.reset with sieve := { Sieve.reset with
                                        step := 1
                                        frozen := some { Bank.reset with tags := [(5, { Histogram.reset with zero := 3 })], slots := [(5, 4095)] } } }
def askS (answer : Option CachedScale) : State := withCell { Cell.reset with scaleAsks := [(4095, { step := 0, answer := answer })] }

theorem witness_ChainAndScales_scales : (State.cell frozenS 0).sieve.frozen.isSome = true ∧ ScaleTable.due (scaleS mergeT).scale 4095 = [(0, mergeT)] ∧
    State.stepComplete (scaleS mergeT) 4095 0 = true ∧ (ScaleTable.slot (scaleS mergeT).scale 4095).dynamic = true ∧ mergeT.sums.expMax = some 10 ∧
    mergeT.saturated = false ∧ mergeT.sums.sat = 0 ∧ mergeT.corr = 0 ∧ mergeT.stalled = false ∧ (ScaleTable.slot (scaleS mergeT).scale 4095).hlen < 16 ∧
    ((ScaleTable.slot (scaleS mergeT).scale 4095).lateSats = 0 ∧ (ScaleTable.slot (scaleS mergeT).scale 4095).restart = false) ∧
    (∀ b, (State.block (scaleS mergeT) b).sums = []) ∧
    ScaleTable.oldest (scaleS mergeT).scale 4095 = some (0, mergeT) ∧ mergeT.since + 100000000 ≤ (scaleS mergeT).timebase ∧
    (0x67, 1, 4095 % 8, 4095) ∉ (scaleS mergeT).tel.episodes ∧
    NMap.find (State.cell (askS none) 0).scaleAsks 4095 = some { step := 0, answer := none } ∧
    State.updateDue (askS none) 4095 0 = false ∧ (NMap.find (State.cell (askS (some default)) 0).scaleAsks 4095).isSome = true ∧
    ((scaleS mergeT).scale.saturations.find? (fun e => decide (e.1 = 4095))).isSome = true ∧ ScaleSlot.past (ScaleTable.slot (scaleS mergeT).scale 4095) 9 = false ∧
    ScaleSlot.past { ScaleSlot.reset with done := some 9 } 9 = true :=
  ⟨by decide, by decide, by decide, by decide, by decide, by decide, by decide, by decide, by decide, by decide, by decide, fun _ => rfl, by decide, by decide, by decide,
    by decide, by decide, by decide, by decide, by decide, by decide⟩

set_option maxRecDepth 20000 in
/-- MAP of one S32 copies 1.0; X is 10 + 127 + 1 − 8 = 130 for E4. -/
theorem test_chain : after (.chainStart 0) (chainS (opC false [])) (fun t => decide ((NMap.find (State.cell t 0).chain 7).map (fun o => o.writes.map (fun w => ofBytes w.bytes)) = some [0x3F800000])) = true ∧
    after (.chainComplete 0 false) (chainS (opC true topWrite)) (fun t => decide (Cell.localByte (State.cell t 0) 0x7FFFF = 2 ∧ (State.cell t 0).chain = [])) = true ∧
    after (.histogramContribution 7 4095) (scaleS mergeT) (fun t => decide ((ScaleTable.slot t.scale 4095).x = 130)) = true ∧
    after (.sieveBankMerge 0) frozenS (fun t => decide ((State.block t 0).sums.map (fun e => (e.1, e.2.zero)) = [(4095 * 2 ^ 32, 3)])) = true ∧
    after (.scaleStallExpiry 4095) (scaleS mergeT) (fun t => decide (t.tel.logPath.length = 1)) = true ∧
    after (.scaleFetch 0 4095) (askS none) (fun t => decide ((NMap.find (State.cell t 0).scaleAsks 4095).bind (fun a => a.answer.map (·.x)) = some 127)) = true ∧
    after (.scaleAnswer 0 4095) (askS (some default)) (fun t => decide ((State.cell t 0).scaleCache.length = 1)) = true := by decide

/-! ### Remote operations -/

def reqR (body : RequestBody) : RequestPacket := { (default : RequestPacket) with source := 5, txn := 77, body := body }
/-- The lines of the 512 bytes from physical address 0x10000000 stand whole in region cache 0. -/
def linesR : NMap (List RegionLine) := tabulate 4 (fun k => (32 + k, [{ lineH with line := 0x200000 + k }]))
def homeR (poisoned : Bool) : State :=
  { State.reset with
    regions := [(0, { Region.reset with cache := linesR })]
    mem := [(0x10000004, 9)]
    memPoison := if poisoned then [(0x10000000 / 32 + 1, true)] else [] }
def laneR (l : Nat) : AtomicLane := { lane := l, addr := 0x10000004, b := 2, c := 0 }

/-- The lowest address that is populated, with the pool of size 0 (R336). -/
theorem witness_RemoteOperations_home : (∀ b ∈ [RequestBody.load 0x10000000 3, .get 0x10000000 512, .store 0x10000000 3 [1, 2] false, .put 0x10000000 3 [1, 2] 1 2,
      .atomic .add false 4 [laneR 0, laneR 31]], Claims.admitted (homeR true) (reqR b) 0x10000000 ∧ Claims.admitted (homeR true) (reqR b) 0x10000100) ∧
    ([laneR 0, laneR 31].map (·.lane)).Nodup ∧ (homeOf (State.ilv (homeR true)) 0x10000004).2.2 = true ∧
    State.sectorPoisoned (homeR true) 0 (0x10000000 / 128 * 128 + 0x10000004 % 128) = false ∧
    NMap.get (homeR true).fabric.owners 0 (0x10000000 / 2 ^ 21) ≠ 9 := by unfold Claims.admitted; decide

theorem lineThere_of (s : State) (pa r o : Nat) (l : RegionLine) (hh : homeOf (State.ilv s) pa = (r, o, true)) (hs : State.regionServes s r = true)
    (hf : State.fillOf s r (o / 128 * 128) = none) (hl : State.regionLine s r (o / 128 * 128) = some l) (hv : l.valid = [0, 1, 2, 3]) : Claims.lineThere s pa := by
  unfold Claims.lineThere
  rw [hh]
  exact ⟨rfl, hs, hf, l, hl, fun i hi => by rw [hv]; simp only [List.mem_cons]; omega⟩

/-- Nothing else is on its way, and the lines stand in the region cache. -/
theorem witness_RemoteOperations_lines (b : Bool) : Claims.homesIdle (homeR b) ∧ ∀ k, k < 4 → Claims.lineThere (homeR b) (0x10000000 + 128 * k) :=
  ⟨⟨rfl, nothingMoves_of _ (by cases b <;> decide) (by cases b <;> decide), fun _ => by cases b <;> rfl⟩, fun k hk => by
    have : k = 0 ∨ k = 1 ∨ k = 2 ∨ k = 3 := by omega
    rcases this with rfl | rfl | rfl | rfl
    · exact lineThere_of _ _ 0 0x10000000 { lineH with line := 0x200000 } (by cases b <;> decide) (by cases b <;> decide) (by cases b <;> decide) (by cases b <;> decide) rfl
    · exact lineThere_of _ _ 0 0x10000080 { lineH with line := 0x200001 } (by cases b <;> decide) (by cases b <;> decide) (by cases b <;> decide) (by cases b <;> decide) rfl
    · exact lineThere_of _ _ 0 0x10000100 { lineH with line := 0x200002 } (by cases b <;> decide) (by cases b <;> decide) (by cases b <;> decide) (by cases b <;> decide) rfl
    · exact lineThere_of _ _ 0 0x10000180 { lineH with line := 0x200003 } (by cases b <;> decide) (by cases b <;> decide) (by cases b <;> decide) (by cases b <;> decide) rfl⟩

theorem witness_RemoteOperations_notify : targetBad 0xFE9F = false ∧ targetCell 0xFE9F = 383 ∧ targetBad 31 = false ∧ State.cellRuns State.reset (targetCell 31) = true ∧
    (Cell.arrival (State.cell State.reset (targetCell 31)) 31).tag = 0 ∧
    State.cellRuns { State.reset with regions := [(0, { Region.reset with fenced := true })] } (targetCell 31) = false := by decide

/-- The last entry of region 7, generation 255; a group of cell 0 waits for line-miss slot 3, a copy in slot 2. -/
def txnR : BitVec 32 := BitVec.ofNat 32 (7 * 2 ^ 22 + 16383 * 2 ^ 8 + 255)
def entryR (body : RequestBody) : Transaction :=
  { (default : Transaction) with generation := 255, packet := { reqR body with destination := 5 }, op := 9, miss := some 3, copy := some 2 }
def accessR (kind : AccessKind) : Access :=
  { (default : Access) with reg := 8, kind := kind, lanes := [{ lane := 31, fa := 5 * 2 ^ 43 + 0x200004, ea := 0x200004 }], waits := [3] }
/-- Row 0 of the copy comes from module 5: 4 bytes at 0x200000. -/
def copyR : CopySlot :=
  { (default : CopySlot) with
    desc := BitVec.ofNat 512 (word [(0x200000, 448), (0x2000, 384), (1, 368), (4, 352), (3, 280), (3, 276), (1, 286), (1, 261)])
    pages := [{ page 1 1 with home := 5 }], rows := [0], waits := [9], nextRow := 1 }
def waitS (body : RequestBody) (kind : AccessKind) : State :=
  { withCell { cellWith grp0 [] with misses := [(3, missG)], accesses := [(7, accessR kind)], copies := [(2, copyR)] } with
    regions := [(7, { Region.reset with txns := [(16383, { entryR body with granules := [0, 1] })] })]
    timebase := 10000000 }
def answerR : AnswerPacket := { (default : AnswerPacket) with source := 5, txn := txnR, bytes := List.replicate 256 0xAB }

set_option maxRecDepth 20000 in
theorem witness_RemoteOperations_answers : ∀ b ∈ [RequestBody.load 0x200000 0xF0, .store 0x200000 3 [1] false, .atomic .add false 4 [laneR 31], .get 0x200000 512,
      .put 0x200000 3 [1, 2] 1 0, .notify 0x50000 1], let y := { entryR b with granules := [0, 1] }
    ∀ k ∈ [AccessKind.load 2 false, .atomic 2], Claims.answersEntry (waitS b k) answerR 7 16383 y ∧ y.sent + Fabric.reset.rspTimeoutMs * 1000000 ≤ (waitS b k).timebase ∧
      NMap.find (State.cell (waitS b k) 0).misses 3 = some missG ∧ missG.roc = false ∧
      Claims.waitsFor (State.cell (waitS b k) 0) 3 7 (accessR k) k { grp0 with fetched := [] } ∧
      (∀ l ∈ (accessR k).lanes, l.fa % 4 = 0 ∧ l.fa / 64 = (5 * 2 ^ 43 + 0x200000) / 64) ∧ NMap.find (State.cell (waitS b k) 0).copies 2 = some copyR := by
  intro b hb y k hk
  have hn : Claims.nothingMoves (waitS b k) := nothingMoves_of _ (by intro e he; cases he) (by intro e he; simp only [waitS, withCell, List.mem_singleton] at he; subst he; exact ⟨rfl, rfl⟩)
  refine ⟨⟨⟨?_, ?_, ?_, hn⟩, ?_, ?_, ?_⟩, ?_, ?_, ?_, ?_, ?_, ?_⟩ <;> clear hn <;> revert b k <;> (try unfold Claims.waitsFor) <;> decide

theorem witness_RemoteOperations_late : answerR.txn.toNat / 2 ^ 22 < 8 ∧
    NMap.find (State.region State.reset (answerR.txn.toNat / 2 ^ 22)).txns (answerR.txn.toNat / 2 ^ 8 % 2 ^ 14) = none := by decide

/-- All of the row's bytes come in granule 0. -/
theorem witness_RemoteOperations_granules : let d := copyDesc copyR.desc.toNat
    let src (i : Nat) : Nat := CopySlot.fabric copyR ((strided d.src d.srcStride 0 + i) % (2 ^ 64 : Nat)).toNat
    d.srcSpace ≠ 0 ∧ d.dstSpace = 0 ∧ d.mx = 0 ∧ d.blk = false ∧ d.srcFmt = d.dstFmt ∧ CopyDesc.sourceRow d copyR.gather 0 = some 0 ∧
      (∀ i, i < CopyDesc.srcRow d → src i / 256 = (5 * 2 ^ 43 + 0x200000) / 256 ∧ src i / 2 ^ 43 = 5) ∧ CopyDesc.srcRow d = 4 ∧ copyR.rows = [0] ∧
      0 ≤ strided d.dst d.dstStride 0 ∧ strided d.dst d.dstStride 0 + CopyDesc.dstRow d ≤ 2 ^ 19 ∧
      src 0 / 256 ≠ (5 * 2 ^ 43 + 0x200000) / 256 + 1 ∧ NMap.find copyR.data (src 0 / 32) = none := by decide

def pageWord (vpn tag : Nat) : BitVec 128 := BitVec.ofNat 128 (word [(vpn, 96), (tag, 80), (9, 44), (1, 41), (1, 40)])
def queryR : WindowQuery := { cell := 0, slot := 63, vpn := 5, tag := 7, server := 4, via := 0, stale := false }
def queryS : State :=
  { withCell { Cell.reset with parkList := [(63, recP 2 .resolving)] } with
    fabric := { Fabric.reset with table := [(bucketPlace (bucket1 5), pageWord 5 7)], queries := [queryR] } }

theorem witness_RemoteOperations_windows : bucketPlace (bucket1 5) ∈ windowSlots 5 ∧ NMap.find queryS.fabric.table (bucketPlace (bucket1 5)) = some (pageWord 5 7) ∧
    (windowEntry (pageWord 5 7)).vpn = 5 ∧ (windowEntry (pageWord 5 7)).valid = true ∧ (windowEntry (pageWord 5 7)).kind = 0 ∧ (windowEntry (pageWord 5 7)).tag = 7 ∧
    (∀ k ∈ windowSlots 5, NMap.find queryS.fabric.table k ≠ none → k = bucketPlace (bucket1 5)) ∧ (∀ k ∈ windowSlots 0xFFFFFFFF, NMap.find queryS.fabric.table k = none) ∧
    queryS.fabric.queries.filter (fun z => decide (z.server = 4 ∧ z.vpn = 5 ∧ z.tag = 7)) = [queryR] ∧
    NMap.find (State.cell queryS 0).parkList 63 = some (recP 2 .resolving) := by decide

set_option maxRecDepth 20000 in
theorem test_remote_home : after (.atomic (reqR (.atomic .add false 4 [laneR 0, laneR 31]))) (homeR false) (fun t => decide (State.byteAt t 0 0x10000004 = 13)) = true ∧
    after (.store (reqR (.store 0x10000000 3 [1, 2] false))) (homeR false) (fun t => decide (State.byteAt t 0 0x10000001 = 2 ∧ t.out.length = 1)) = true ∧
    after (.put (reqR (.put 0x10000000 3 [1, 2] 1 2))) (homeR false) (fun t => decide (State.sectorPoisoned t 0 0x10000000 = true)) = true ∧
    after (.get (reqR (.get 0x10000000 512))) (homeR false) (fun t => decide (t.out.length = 2)) = true ∧
    after (.notifyPacket (reqR (.notify 31 5))) State.reset (fun t => decide ((Cell.arrival (State.cell t 0) 31).value = 5)) = true := by decide

set_option maxRecDepth 20000 in
theorem test_remote_answers : after (.loadData answerR) (waitS (.load 0x200000 0xF0) (.load 2 false)) (fun t => decide (lane t 8 31 = 0xABABABAB ∧ (State.region t 7).txns = [])) = true ∧
    after (.getData answerR) (waitS (.get 0x200000 512) (.load 2 false)) (fun t => decide (Cell.localNat (State.cell t 0) 0x2000 4 = 0xABABABAB)) = true ∧
    after (.putAck answerR) (waitS (.put 0x200000 3 [1, 2] 1 0) (.load 2 false)) (fun t => decide ((NMap.find (State.cell t 0).copies 2).map (·.waits) = some [])) = true ∧
    after (.rspTimeoutExpiry 7 16383) (waitS (.load 0x200000 0xF0) (.load 2 false)) (fun t => decide ((State.region t 7).txns = [])) = true ∧
    after (.winReply 4 5 7 none) queryS (fun t => decide ((NMap.find (State.cell t 0).parkList 63).map (·.state) = some .held)) = true := by decide

/-! ### The host -/

/-- The module is up; the window begins at the last byte of a hole, or at memory; mailbox 15 runs code 0x0002 or is idle, its REQUEST `req`. -/
def upS : State := { State.reset with phase := .up }
def boxS (req : Nat) (busy : Bool) : State :=
  { upS with
    regions := [(0, { Region.reset with cache := linesR })]
    host := { HostSide.reset with
                       aperture := 0x10000000
                       mailboxes := [(15, { Mailbox.reset with
                                            request := BitVec.ofNat 64 req, busy := busy, ackSeq := 7
                                            running := if busy then some { (default : Running) with code := 1, seq := 7 } else none })] } }

theorem witness_HostWindows : State.hostReady upS = true ∧ (boxS 0 false).host.winLog2 = 34 ∧ State.hostRefuses (boxS 0 false) 0x10000000 16 = false ∧
    State.hostRefuses upS 0 16 = true ∧ State.hostRefuses upS 0xFFFFFFF 1 = true ∧ State.windowServes upS = true ∧ ¬ (4 = 4 ∧ 6 % 4 = 0) ∧ (∀ n ∈ [34, 41, 33], n < 42) ∧
    upS.phase ≠ .off ∧ (State.mailbox (boxS 0 true) 15).running ≠ none := by decide

/-- The 16 bytes at the window's start stand in region cache 0. -/
theorem witness_HostWindows_lines : Claims.homesIdle (boxS 0 false) ∧ Claims.allSettled (boxS 0 false) ∧ 0x10000000 + 16 ≤ 2 ^ 43 ∧ (0 : Nat) + 16 ≤ 2 ^ (boxS 0 false).host.winLog2 ∧
    ∀ i, i < 16 → Claims.lineThere (boxS 0 false) (0x10000000 + i) :=
  ⟨⟨rfl, nothingMoves_of _ (by decide) (by decide), fun _ => rfl⟩, allSettled_of _ (by decide), by decide, by decide, fun i hi => by
    have hh : homeOf (State.ilv (boxS 0 false)) (0x10000000 + i) = (0, 0x10000000 + i, true) := (by decide : ∀ i, i < 16 → homeOf (State.ilv (boxS 0 false)) (0x10000000 + i) = (0, 0x10000000 + i, true)) i hi
    have hl : (0x10000000 + i) / 128 * 128 = 0x10000000 := by omega
    exact lineThere_of _ _ 0 _ { lineH with line := 0x200000 } hh rfl (by rw [hl]; rfl) (by rw [hl]; rfl) rfl⟩

/-- Region 7 is on at 0.75 V, no block fenced: the slowest monitor counts. -/
def paceS (volt : Nat) : State := { upS with power := { Power.reset with regions := [(7, { RegionPower.reset with on := true, volt := volt })] } }

theorem witness_HostWindows_pace : (State.regionPower (paceS 750) 7).on = true ∧ ((List.range 8).map (· + 65528)).length = 8 ∧
    (∃ b, b < 8 ∧ (State.block (paceS 750) (56 + b)).fenced = false ∧ ((List.range 8).map (· + 65528)).getD b 0 = 65528) ∧
    ∀ b, b < 8 → 65528 ≤ ((List.range 8).map (· + 65528)).getD b 0 :=
  ⟨by decide, by decide, ⟨0, by decide⟩, by decide⟩

/-- A doorbell of mailbox 15 while BUSY, or of ACK_SEQ. -/
theorem witness_DoorbellIgnored : State.windowServes (boxS 0 true) = true ∧ (State.mailbox (boxS 0 true) 15).busy = true ∧ (State.mailbox (boxS 0 false) 15).ackSeq = 7 := by decide

/-- REQUEST for IDENTITY_GET (0x0000), SEQ 8. -/
theorem witness_RegisterWrites : State.windowServes (boxS 0 false) = true ∧ (State.mailbox (boxS (8 * 2 ^ 16) false) 15).busy = false ∧
    8 ≠ (State.mailbox (boxS 0 false) 15).ackSeq ∧
    (commandOf 0).isSome = true ∧ (∀ c, commandOf 0 = some c → Claims.acceptable (boxS (8 * 2 ^ 16) false) 15 8 c) ∧
    (∀ d, ¬ Claims.acceptable (boxS (9 * 2 ^ 16) false) 15 8 d) ∧
    (State.ring { upS with rings := [(63, { Ring.reset with status := .running })] } 63).status = .running ∧
    (boxS (2 ^ 44 - 1) false).host.smbPointer + 32 ≤ 0x1000 ∧ (State.mailbox upS 16).report = [] := by
  refine ⟨by decide, by decide, by decide, by decide, ?_, ?_, by decide, by decide, by decide⟩
  · intro c h
    have h0 : commandOf 0 = some ((commandOf 0).getD default) := by decide
    rw [h0, Option.some.injEq] at h
    subst h
    unfold Claims.acceptable
    decide
  · intro d h
    exact absurd h.2.2.2.2.2.2 (by decide)

/-- The SMBus pointer at the last 32 bytes of ARGS, at DOORBELL; REQUEST asks for 0x0000, SEQ 8. -/
def smbS (p : Nat) : State := { upS with host := { HostSide.reset with smbPointer := p, mailboxes := [(16, { Mailbox.reset with request := 8 * 2 ^ 16 })] } }

theorem witness_RegisterWrites_smbus : (smbS 0x9E0).phase ≠ .off ∧ 0x900 ≤ (smbS 0x9E0).host.smbPointer ∧ (smbS 0x9E0).host.smbPointer + 32 ≤ 0xA00 ∧
    (State.mailbox (smbS 0x9E0) 16).request.toNat < 2 ^ 44 ∧ (smbS 0x838).host.smbPointer = 0x838 ∧ (State.mailbox (smbS 0x838) 16).busy = false ∧
    ofBytes [8, 0, 0, 0, 0, 0, 0, 0] ≠ (State.mailbox (smbS 0x838) 16).ackSeq ∧ ((commandOf 0).map (fun c => (c.code, c.arguments)) = some (0, 0)) ∧
    ((State.mailbox (smbS 0x838) 16).request.extractLsb' 16 16).toNat = ofBytes [8, 0, 0, 0, 0, 0, 0, 0] := by decide

set_option maxRecDepth 20000 in
theorem test_host : after (.memoryWindowWrite 0 ⟨[1, 2], []⟩) (boxS 0 false) (fun t => decide (State.byteAt t 0 0x10000001 = 2)) = true ∧
    after (.memoryWindowRead 0 2) { boxS 0 false with mem := [(0x10000001, 2)] } (fun t => decide (t.out = [.completion [0, 2] false])) = true ∧
    after (.doorbellWrite 15 true 8) (boxS (8 * 2 ^ 16) false) (fun t => decide ((State.mailbox t 15).busy = true)) = true ∧
    after (.doorbellWrite 15 true 8) (boxS (9 * 2 ^ 16) false) (fun t => decide ((State.mailbox t 15).busy = false ∧ (State.mailbox t 15).result = 0xFFFF)) = true ∧
    after (.registerWrite 0x1F040 true 0x0807060504030201) (boxS 0 false) (fun t => decide (NMap.get (State.mailbox t 15).args 0 7 = 8)) = true ∧
    faults (.registerWrite 0x1F000 true (2 ^ 44)) (boxS 0 false) = true ∧
    after (.paceInterval 7 ((List.range 8).map (· + 65528)) 40) (paceS 750) (fun t => decide ((State.regionPower t 7).pace.pace = 65528)) = true ∧
    after .statusRewrite upS (fun t => decide (t.host.status.toNat / 2 ^ 56 = 1)) = true := by decide

/-! ### Sutha commands -/

/-- Mailbox 15 runs `code` at stage 0, DMA on; the module is up. -/
def runOf (code : Nat) : Running := { (default : Running) with code := code, seq := 7 }
def cmd (s : State) (code : Nat) : State :=
  { s with host := { s.host with busMaster := true, mailboxes := [(15, { Mailbox.reset with busy := true, ackSeq := 7, running := some (runOf code) })] } }

/-- No other mailbox runs a command: it is the turn of mailbox 15. -/
theorem turn_cmd (s : State) (code : Nat) : Claims.turn (cmd s code) 15 code :=
  Or.inr (fun m k _ hm h => absurd h (by simp [State.mailbox, cmd, NMap.get, NMap.find, Ne.symm hm, Mailbox.reset]))
theorem runs_cmd (s : State) (code : Nat) : Claims.runs (cmd s code) 15 code := ⟨runOf code, rfl, rfl, fun _ => turn_cmd s code⟩

theorem witness_SuthaRowsNeedTheirCode : Claims.suthaRow (.windowMap 15 []) = some (15, 0x0200) ∧ ¬ Claims.runs upS 15 0x0200 ∧ Claims.readsHost (.windowMap 15 []) = true ∧
    (let s : State := { cmd upS 0x0200 with host := { (cmd upS 0x0200).host with busMaster := false } }
     (∃ k, (State.mailbox s 15).running = some k ∧ k.code = 0x0200 ∧ k.stage ≠ 1 ∧ (k.stage = 0 → Claims.turn s 15 0x0200)) ∧ 15 ≠ 16 ∧ s.host.busMaster = false) :=
  ⟨rfl, (by rintro ⟨k, h, _⟩; cases h), rfl, ⟨runOf 0x0200, rfl, rfl, by decide, fun _ => turn_cmd upS 0x0200⟩, by decide, rfl⟩

/-- A HELD group at cell 0, slot 0, stamp 9; log record 1 stands in the ring. -/
def heldS : State := withCell { cellWith { grp0 with u := [(63, 5)] } [] with parkList := [(0, { recP 2 .held with stamp := 9 })] }
def logS : State := { upS with power := { Power.reset with regions := [(0, { RegionPower.reset with stackOn := true })] }, tel := { Telemetry.reset with logNext := 2, logRing := [(1, 1, (default : LogRecord))] } }

theorem witness_SuthaReads : (∀ code, Claims.runs (cmd upS code) 15 code) ∧
    NMap.find (State.cell (cmd heldS 0x0311) 0).parkList 0 = some { recP 2 .held with stamp := 9 } ∧ (State.group (cmd heldS 0x0311) g0).map (·.regs) = some 64 ∧
    1 + 1 ≤ (cmd logS 0x0803).tel.logNext ∧ (State.logAt (cmd logS 0x0803) 1).isSome = true :=
  ⟨runs_cmd upS, by decide, by decide, by decide, by decide⟩

/-- The window table maps page 5 for job 7, which a lookaside and a region cache hold. -/
def mappedS : State :=
  { withCell { Cell.reset with lookaside := [page 5 9] } with
    fabric := { Fabric.reset with table := [(bucketPlace (bucket1 5), pageWord 5 7)] }
    regions := [(0, { Region.reset with windowCache := [(windowSet 5, [page 5 9])] })] }

theorem witness_SuthaMemoryCommands : (∀ code, Claims.runs (cmd mappedS code) 15 code) ∧ (runOf 0).stage ≠ 1 ∧ (cmd mappedS 0).host.busMaster = true ∧ State.keyed mappedS = true ∧
    WindowEntry.bad (windowEntry 0) = true ∧
    (let w := BitVec.ofNat 128 (word [(6, 96), (7, 80), (2 ^ 21 + 9, 44), (1, 41), (1, 40)])
     WindowEntry.bad (windowEntry w) = false ∧ WindowEntry.reservedArea (windowEntry w) = false ∧ Fabric.slotOf mappedS.fabric 6 none = none ∧
       ((windowSlots 6).find? (fun k => (NMap.find mappedS.fabric.table k).isNone)).isSome = true) ∧
    Claims.quiet mappedS ∧ (pageWord 5 7).extractLsb' 80 16 = 7 ∧ ((pageWord 5 7).extractLsb' 96 32).toNat = 5 ∧
    State.populatedPages upS 0x10000000 1 = true ∧ State.populatedPages upS 0x2FFFE00000 2 = false ∧ State.populatedPages upS 0 1 = false ∧ State.wf upS = true :=
  ⟨runs_cmd mappedS, by decide, by decide, by decide, by decide, by decide, by unfold Claims.quiet; decide, by decide, by decide, by decide, by decide, by decide, by decide⟩

/-- Ring 63 on cells 0 and 383; collective group 11 of this module alone, staged in the last 16 KiB of cell 383; job 7's checkpoint drains. -/
def ringA : RingArgs := { ring := 63, tag := 7, base := 0x10000000, sizeLog2 := 0, cells := BitVec.ofNat 384 (2 ^ 383 + 1), deferLimit := 15, spillBytes := 65536, epoch0 := 3 }
def setupWord (members pos : Nat) : BitVec 512 :=
  BitVec.ofNat 512 (word [(11, 508), (7, 492), (members, 477), (pos, 463), (7, 460), (7, 457), (5, 454), (0x7C000, 435), (2, 430)])
def checkS : State := { upS with timebase := 5000000, jobs := [(7, { Job.reset with checkpoint := some { mailbox := 15, phase := 2, started := 0, timeout := 5, drained := 0 } })] }
def groupedS : State := { upS with groups := [(11, { twoMembers with bufs := 2, stage := 0x7C000, anchor := 383 })] }

set_option maxRecDepth 20000 in
theorem witness_SuthaJobCommands : (State.ring upS 63).status = .free ∧ State.ringClash upS ringA = false ∧ State.baseUsable upS ringA = true ∧ State.keyed upS = true ∧
    ringA.cells.getLsbD 383 = true ∧
    (∀ n ∈ [1, 2], State.setupResult upS (setupHeader (setupWord n 0).toNat) ([0, 9].take n) = 0) ∧ upS.fabric.early = [] ∧ partnersOf 1 0 = [] ∧ partnersOf 2 0 = [1] ∧
    upS.fabric.failed = [] ∧ (State.coll groupedS 11).isSome = true ∧
    (State.job upS 7).checkpoint = none ∧ (State.job checkS 7).checkpoint.isSome = true ∧ State.pendingColls checkS 7 = 0 ∧
    0 + 5 * 1000000 ≤ checkS.timebase ∧ NMap.find (State.cell heldS 0).parkList 0 = some { recP 2 .held with stamp := 9 } := by decide

theorem witness_SuthaJobCommands_bump (b : Nat) : State.lostCells checkS b = [] :=
  List.filter_eq_nil_iff.mpr (fun c _ => by
    simp [State.cell, State.block, NMap.get, NMap.find, checkS, upS, State.reset, Cell.reset, Block.reset])

def platformS : State :=
  { upS with
    power := { Power.reset with regions := [(0, { RegionPower.reset with on := true, stackOn := true, volt := 750 })] }
    nv := { NonVolatile.reset with retiredLanes := [9 * 39 + 8] } }
/-- Mailbox 3 runs a command that another may cancel, mailbox 15 the cancel. -/
def cancelS (code : Nat) : State :=
  { upS with host := { HostSide.reset with mailboxes := [(3, { Mailbox.reset with running := some (runOf code) }), (15, { Mailbox.reset with running := some (runOf 0x0003) })] } }

theorem cancelled_turn : Claims.turn (cancelS 0x0210) 3 0x0210 := by
  refine Or.inr (fun m k hm hne h _ hf => ?_)
  by_cases h15 : m = 15
  · subst h15; cases h; exact absurd hf (by decide)
  · simp [State.mailbox, cancelS, NMap.get, NMap.find, Ne.symm hne, Ne.symm h15, Mailbox.reset] at h

theorem witness_SuthaPlatformCommands : (∀ code, Claims.runs (cmd platformS code) 15 code) ∧ Claims.runs (cancelS 0x0210) 15 0x0003 ∧ (15 ≠ 3 ∧ ¬ (15 < 4 ∨ 4 ≤ 3)) ∧
    Claims.runs (cancelS 0x0210) 3 0x0210 ∧ ((commandOf 0x0210).map (·.cancellable)) = some true ∧ ((commandOf 0x0100).map (·.cancellable)) = some false ∧
    (∀ v ∈ [550, 850], 550 ≤ v ∧ v ≤ 850 ∧ v % 5 = 0) ∧ ¬ (550 ≤ 551 ∧ 551 ≤ 850 ∧ 551 % 5 = 0) ∧ (State.region platformS 7).fenced = false ∧
    (∀ c, (State.cell platformS c).groups = []) ∧ State.lastTray platformS 7 = false ∧ (∀ p, (State.port platformS p).replay = []) ∧ (State.regionPower platformS 7).on = false ∧
    ProoferObject.regionPower 7 ∉ platformS.power.proofer.queue ∧ (State.port platformS 39).state = .disabled ∧
    (State.port { platformS with ports := [(39, { Port.reset with state := .live })] } 39).state ≠ .disabled :=
  ⟨runs_cmd platformS, ⟨_, rfl, rfl, fun _ => Or.inl rfl⟩, by decide, ⟨_, rfl, rfl, fun _ => cancelled_turn⟩, by decide, by decide, by decide, by decide, by decide, fun _ => rfl, by decide, fun _ => rfl, by decide, by decide,
    by decide, by decide⟩

theorem witness_SuthaServiceCommands : (∀ code, Claims.runs (cmd upS code) 15 code) ∧ (cmd upS 0x0802).host.busMaster = true ∧
    ((0x0000000000000000 : BitVec 64).extractLsb' 59 4 ∉ [3, 4, 5, 6]) ∧
    (let w : BitVec 64 := BitVec.ofNat 64 (word [(1, 63), (6, 59), (1, 53), (254, 42)]); w.extractLsb' 0 34 = 0 ∧ w.extractLsb' 59 4 ∈ [3, 4, 5, 6] ∧ w.extractLsb' 42 8 ≠ 255) ∧
    0x40 % 64 = 0 ∧ 65536 = 2 ^ 16 ∧ 63 < 64 :=
  ⟨runs_cmd upS, by decide, by decide, by decide, by decide, by decide, by decide⟩

/-- SCRUB over all regions from 0, 1 GiB; a second GiB follows the first of 2, none the last. -/
def scrubS (hours : Nat) : State := { cmd upS 0x0222 with host := { (cmd upS 0x0222).host with scrubHours := hours } }
/-- A Tasting run of mailbox 15 on cell 383: one vector to go, none, refused cells. -/
def vectorT : TastingVector :=
  { (default : TastingVector) with vid := 5, insn := [0] }
def tasteT (work : List (TastingVector × Bool)) : Tasting :=
  { mailbox := 15, cells := [383], refused := false, limit := 4096, work := work, running := [], passed := 1, failed := 0, skipped := 0, records := [] }
def tasteS (t : Option Tasting) : State := { cmd upS 0x0702 with tasting := t }

theorem witness_SuthaMemoryCommands_scrub : ((State.mailbox (scrubS 24) 15).running.map (·.code)) = some 0x0222 ∧
    (scrubUnit 255 0 1 0).isSome = true ∧ scrubUnit 255 0 1 1 = none ∧ (scrubUnit 255 0 2 1).isSome = true ∧ (scrubUnit 255 0 0 0).isSome = true := by decide

theorem witness_SuthaServiceCommands_tasting : (∀ t, Claims.runs (tasteS t) 15 0x0702) ∧ (tasteS none).tasting = none ∧
    (tasteS (some (tasteT [(vectorT, true)]))).tasting = some (tasteT [(vectorT, true)]) ∧ (tasteT []).work = [] ∧ (tasteT []).cells = [383] ∧ (tasteT []).running = [] :=
  ⟨fun _ => runs_cmd upS 0x0702, rfl, rfl, rfl, rfl, rfl⟩

set_option maxRecDepth 20000 in
/-- The check value of CRC-32 (ISO-HDLC, reflected 0x04C11DB7). -/
theorem test_crc32 : crc32 ("123456789".toList.map (fun c => BitVec.ofNat 8 c.toNat)) = 0xCBF43926 := by decide

/-- A programme of port 39: from 1 ms to 2 ms, action 0 on transmit, mode 0 with rate exponent 4; a record of zeros is refused. -/
def benchWord (action : Nat) : BitVec 512 := BitVec.ofNat 512 (word [(1000000, 448), (2000000, 384), (7, 381), (4, 378), (action, 374), (4, 358)])
def progB (running : Bool) (last : Option Nat) : Programme := { Programme.reset with image := benchWord 1, loaded := true, running := running, last := last }
/-- What a flit of a port that has received none and has no credit to return says. -/
def said : FlitReport := { ack := 4095, pair := 0, total := 0 }
def benchS (x : Programme) (time : Nat) : State :=
  { upS with
    timebase := time, bench := [(7, x)]
    out := [.link 39 (.flit { seq := 4095, vc := 0, cred := 0, payload := [], control := none } said false), .unsupported] }

theorem witness_BenchCommands : Claims.runs (cmd upS 0x0F10) 15 0x0F10 ∧ BenchFields.bad (benchFields 0) 0 = true ∧ BenchFields.bad (benchFields (benchWord 1).toNat) 0 = false ∧
    (State.programme upS 0).loaded = false ∧ (∀ j, j < 8 → (State.programme { upS with bench := tabulate 8 (fun k => (k, progB false none)) } j).loaded = true) ∧
    (∀ i, (State.programme upS i).running = false) ∧
    ((benchWord 1).extractLsb' 448 64).toNat ≤ 1000000 ∧ 1999999 < ((benchWord 1).extractLsb' 384 64).toNat ∧ ((benchWord 1).extractLsb' 374 3).toNat = 1 ∧
    (benchWord 1).getLsbD 377 = false ∧ (State.programme (benchS (progB true (some 1500000)) 1599999) 7).running = true ∧
    (∀ o ∈ [Output.unsupported], Output.isFlit o 39 4095 = false) :=
  ⟨runs_cmd upS _, by decide, by decide, by decide, by decide, fun _ => rfl, by decide, by decide, by decide, by decide, by decide, by decide⟩

set_option maxRecDepth 20000 in
theorem test_sutha : after (.ownerSet 15 0x10000000 1 7) (cmd upS 0x0203) (fun t => decide (NMap.get t.fabric.owners 0 0x80 = 7 ∧ (State.mailbox t 15).done = true)) = true ∧
    after (.powerLimitSet 15 999) (cmd upS 0x0102) (fun t => decide (t.nv.limit = 2400 ∧ (State.mailbox t 15).result = 1)) = true ∧
    after (.ringCreate 15 ringA) (cmd upS 0x0300) (fun t => decide ((State.cell t 383).deferLimit = 15 ∧ (State.cell t 382).deferLimit = 4)) = true ∧
    after (.windowMap 15 [pageWord 5 7]) (cmd upS 0x0200) (fun t => decide (t.fabric.table = [])) = true ∧
    after (.fuseProgram 15 63 5) (cmd upS 0x0F02) (fun t => decide (t.nv.fuses = [(63, 5)])) = true ∧
    after (.checkpointBump 7) checkS (fun t => decide ((State.job t 7).epoch = some 1)) = true ∧
    after (.benchInject 7 4095) (benchS (progB true (some 1500000)) 1599999) (fun t => decide ((State.programme t 7).skipped = 1)) = true ∧
    after (.benchInject 7 4095) (benchS (progB true (some 1500000)) 1600000)
      (fun t => decide ((State.programme t 7).events = 1 ∧ t.out = [.link 39 (.flit { seq := 4095, vc := 0, cred := 0, payload := [], control := none } said true), .unsupported])) = true ∧
    after (.laneRestore 15 7 4 0x100) (cmd platformS 0x0F12) (fun t => decide (t.nv.retiredLanes = [])) = true := by decide

/-- Mailbox 5 runs `code` at stage `stage`, accepted at 9, beside the command of mailbox 15, accepted at 10 (R478). -/
def twoCmds (s : State) (code stage other : Nat) : State :=
  { s with host := { s.host with
      busMaster := true
      mailboxes := [(5, { Mailbox.reset with busy := true, ackTime := 9, running := some { runOf code with stage := stage } }),
        (15, { Mailbox.reset with busy := true, ackTime := 10, running := some (runOf other) })] } }

set_option maxRecDepth 20000 in
/-- R478: the later command of a family waits for the earlier one to begin; R477: the second of two GiB completes a clear of 513 pages. -/
theorem test_turns : after (.ownerSet 15 0x10000000 1 7) (twoCmds upS 0x0210 0 0x0203) (fun t => decide (t.fabric.owners = [])) = true ∧
    after (.ownerSet 15 0x10000000 1 7) (twoCmds upS 0x0210 1 0x0203) (fun t => decide (t.fabric.owners = [(128, 7)])) = true ∧
    after (.ownerSet 15 0x10000000 1 7) (twoCmds upS 0x0300 0 0x0203) (fun t => decide (t.fabric.owners = [(128, 7)])) = true ∧
    after (.selfTest 15 [5, 6] [6]) (cmd upS 0x0700) (fun t => decide ((State.mailbox t 15).progress = 1 ∧ (State.mailbox t 15).done = false ∧
      (State.mailbox t 15).report = [1, 1, 0])) = true ∧
    after (.benchInject 7 4095) (benchS { progB true none with image := benchWord 1 ||| 2 ^ 365, events := 1 } 1500000)
      (fun t => decide ((State.programme t 7).events = 1)) = true ∧
    after (.benchInject 7 4095) (benchS { progB true none with image := benchWord 1 ||| 2 ^ 321 } 1500000)
      (fun t => decide ((State.programme t 7).events = 0)) = true := by decide

set_option maxRecDepth 20000 in
/-- R542: a clear leaves the events of its own tick; of an earlier tick, none. -/
theorem test_counterClear : let k := BitVec.ofNat 32 (counterKey .linkDowns 0 3)
    after (.counterClear 15 [k] false 0 0 0) (cmd (State.count upS .linkDowns 0 3 1) 0x0801) (fun t => decide (NMap.get t.tel.counters 0 k.toNat = 1)) = true ∧
    after (.counterClear 15 [k] false 0 0 0) (cmd { State.count upS .linkDowns 0 3 1 with timebase := upS.timebase + 10 } 0x0801)
      (fun t => decide (NMap.get t.tel.counters 0 k.toNat = 0)) = true := by decide

/-- The second step of a run of a command of each long kind; the last of its units. -/
theorem witness_SuthaReads_units (code : Nat) : Claims.runs (twoCmds upS code 1 0x0003) 5 code :=
  ⟨{ runOf code with stage := 1 }, rfl, rfl, fun h => nomatch h⟩

/-! ### Routing, time, peers -/

/-- Port 39 is LIVE to module `n`; `sent` shared credits of VC0 are out. -/
def portL (n sent : Nat) : Port :=
  { Port.reset with state := .live, partner := some { (default : Partner) with module := n }, sent := if sent = 0 then [] else [(0, sent)] }
def netS (n sent : Nat) : State := { upS with ports := [(39, portL n sent)], fabric := { Fabric.reset with dim := 5 } }
/-- A request of module 3, and a segment of a Recipe job. -/
def packetR (dest : Nat) (level1 : Bool) : TransitPacket :=
  { source := 3, destination := dest, level1 := level1, kind := .request { (default : RequestPacket) with source := 3 } }
def packetC (dest : Nat) : TransitPacket := { source := 3, destination := dest, level1 := false, kind := .collective 0 true }

theorem free_of (p : TransitPacket) (h : ∀ g, p.kind ≠ .collective g true) : ¬ Claims.pinned p := fun ⟨g, hg⟩ => h g hg
theorem unpinned (d : Nat) (b : Bool) : ¬ Claims.pinned (packetR d b) := fun ⟨_, h⟩ => nomatch h
theorem linked (n sent : Nat) : Claims.linkTo (netS n sent) 39 n := ⟨by decide, Or.inl rfl, rfl, _, rfl, rfl⟩
theorem link_only (n sent q k : Nat) (h : Claims.linkTo (netS n sent) q k) : q = 39 ∧ k = n := by
  obtain ⟨_, h1, _, p, h2, h3⟩ := h
  by_cases hq : q = 39
  · subst hq; cases h2; exact ⟨rfl, h3.symm⟩
  · simp [State.port, netS, NMap.get, NMap.find, Ne.symm hq, Port.reset] at h1
theorem idle39 (n sent : Nat) : Claims.idlePort (State.port (netS n sent) 39) := ⟨rfl, rfl⟩
theorem no_link (q m : Nat) : ¬ Claims.linkTo upS q m := fun h => by rcases h.2.1 with h | h <;> cases h

theorem witness_RoutingTimeAndPeers_adaptive : (packetR 24 false).destination ≠ 0 ∧ ¬ Claims.pinned (packetR 24 false) ∧
    Claims.adaptiveHop (netS 8 0) 39 24 ∧ Claims.room (netS 8 0) 39 ∧ Claims.idlePort (State.port (netS 8 0) 39) ∧ Port.credit (State.port (netS 8 0) 39) 1 0 = true :=
  ⟨by decide, unpinned _ _, ⟨8, linked 8 0, Or.inr (by decide)⟩, by unfold Claims.room; decide, idle39 _ _, by decide⟩

/-- Pinned by Recipe mode, or with no shared credit left, or no credit at all, or a full replay buffer. -/
theorem witness_RoutingTimeAndPeers_escape : Claims.escapePort (netS 8 1888) 24 39 ∧ Claims.notOffered (netS 8 1888) 39 (packetR 24 false) ∧
    Claims.pinned (packetC 24) ∧ Claims.notOffered (netS 8 0) 39 (packetC 24) ∧ Claims.escapePort (netS 8 0) 24 39 ∧
    Claims.room (netS 8 1888) 39 ∧ Claims.idlePort (State.port (netS 8 1888) 39) ∧ Port.credit (State.port (netS 8 1888) 39) 1 0 = false ∧
    Port.credit (State.port (netS 8 1888) 39) 1 1 = true ∧ Port.credit (State.port (netS 8 1888) 39) 1 2 = true ∧ Port.credit (State.port (netS 8 0) 39) 4 1 = true ∧
    (let x := { portL 8 1888 with sent := [(0, 1888), (5, 8)] }; Port.credit x 1 0 = false ∧ Port.credit x 1 1 = false) ∧
    ¬ (List.replicate 2048 (default : SentFlit)).length < 2048 :=
  ⟨⟨8, Or.inl ⟨3, by decide⟩, linked 8 1888, fun q h => (link_only _ _ q _ h).1⟩, ⟨by decide, Or.inr (Or.inr (by decide))⟩, ⟨0, rfl⟩, ⟨by decide, Or.inl ⟨0, rfl⟩⟩,
    ⟨8, Or.inl ⟨3, by decide⟩, linked 8 0, fun q h => (link_only _ _ q _ h).1⟩, by unfold Claims.room; decide, idle39 _ _, by decide, by decide, by decide, by decide,
    by decide, by rw [List.length_replicate]; exact Nat.lt_irrefl _⟩

/-- No link to 8, one to 16: the detour of dimension 4. -/
theorem witness_RoutingTimeAndPeers_detour : Claims.notOffered (netS 16 0) 38 (packetR 8 false) ∧ Claims.escapeHop (netS 16 0) 8 8 ∧ (∀ q, ¬ Claims.linkTo (netS 16 0) q 8) ∧
    Claims.detourPort (netS 16 0) 8 39 ∧ Claims.room (netS 16 0) 39 ∧ Port.credit (State.port (netS 16 0) 39) 1 2 = true ∧ (packetR 8 false).level1 = false := by
  have no8 : ∀ q, ¬ Claims.linkTo (netS 16 0) q 8 := fun q h => absurd (link_only _ _ q _ h).2 (by decide)
  refine ⟨⟨by decide, Or.inr (Or.inl ?_)⟩, Or.inl ⟨3, by decide⟩, no8, ⟨4, by decide, by decide, by decide, linked 16 0, fun q h => (link_only _ _ q _ h).1, ?_⟩,
    by unfold Claims.room; decide, by decide, rfl⟩
  · rintro ⟨n, h, -⟩
    exact absurd (link_only _ _ 38 _ h).1 (by decide)
  · intro j q h3 h4
    obtain rfl : j = 3 := by omega
    intro h; exact absurd rfl h

/-- No live link at all: the packet stays; on level 1 it is dropped, be it a request of another module or no request. -/
theorem witness_RoutingTimeAndPeers_nohop : (∀ q m, ¬ Claims.linkTo upS q m) ∧ Claims.notOffered upS 39 (packetR 8 false) ∧ Claims.escapeHop upS 8 8 ∧
    (∀ q, ¬ Claims.adaptiveHop upS q 8) ∧ (packetR 8 true).level1 = true ∧ (∀ q, (packetR 8 true).kind = .request q → q.source ≠ upS.moduleNumber) ∧
    ∀ q, { packetR 8 true with kind := .window }.kind ≠ .request q :=
  ⟨no_link, ⟨by decide, Or.inr (Or.inl (fun ⟨n, h, _⟩ => no_link _ n h))⟩, Or.inl ⟨3, by decide⟩, fun q ⟨n, h, _⟩ => no_link q n h, rfl,
    (fun q h => by cases h; decide), fun _ h => nomatch h⟩

/-- A package packet of region 0 for region 7: request 2, a load of cell 0; and a completion for cell 336. -/
def packP (h : PackageHeader) (cls : TrafficClass) : PackagePacket := { source := 0, destination := 7, cls := cls, header := h, data := List.replicate 128 0 }
def packS (h : PackageHeader) (cls : TrafficClass) : State :=
  { withCell Cell.reset with phase := .up, package := [(5, packP h cls)], homeQueue := [(2, { reqH (.read [0]) with region := 7, stage := .package })] }

theorem witness_RoutingTimeAndPeers_package : ∀ e ∈ [(PackageHeader.request 2, TrafficClass.req), (.completion 2 336, .rsp)], let s := packS e.1 e.2
    (0 ≠ 7 ∧ (5, packP e.1 e.2) ∈ s.package ∧ (∀ x ∈ s.package, x.2.destination = 7 → x = (5, packP e.1 e.2)) ∧ NMap.get (State.region s 0).retries 0 7 < 3) ∧
    Claims.allSettled s ∧ Claims.nothingMoves { s with homeQueue := NMap.mod s.homeQueue 2 (fun q => { q with stage := .home }) } ∧
    Claims.nothingMoves { s with homeQueue := [] } := by
  intro e he
  have h1 : Claims.allSettled (packS e.1 e.2) := allSettled_of _ (by intro x hx; cases hx)
  have h2 : Claims.nothingMoves { packS e.1 e.2 with homeQueue := NMap.mod (packS e.1 e.2).homeQueue 2 (fun q => { q with stage := .home }) } :=
    nothingMoves_of _ (by intro x hx; simp only [packS, NMap.mod, List.map, List.mem_singleton] at hx; subst hx; rfl)
      (by intro x hx; simp only [packS, withCell, List.mem_singleton] at hx; subst hx; exact ⟨rfl, rfl⟩)
  have h3 : Claims.nothingMoves { packS e.1 e.2 with homeQueue := [] } :=
    nothingMoves_of _ (by intro x hx; cases hx) (by intro x hx; simp only [packS, withCell, List.mem_singleton] at hx; subst hx; exact ⟨rfl, rfl⟩)
  exact ⟨by clear h1 h2 h3; revert e; decide, h1, h2, h3⟩

def probeT : TimeProbe := { sender := 8, stamp := 5, master := 0, hops := 0 }
/-- Module 9, whose neighbour 8 names master 0: it is the best of those that name a lower master. -/
def timeS : State := { netS 8 0 with moduleNumber := 9 }
theorem best8 : Claims.bestTime (Claims.masters timeS (NMap.insert timeS.time.neighbours 8 probeT)) probeT := ⟨⟨8, by decide⟩, by decide⟩

theorem noneWait_of (s : State) (h : ∀ e ∈ s.ports, Claims.idlePort e.2) (hu : s.fabric.unrouted = []) : Claims.noneWait s :=
  ⟨fun p _ => get_of Claims.idlePort Port.reset ⟨rfl, rfl⟩ s.ports h p, hu⟩
theorem noArrivals_of (s : State) (p : Nat) (h : ∀ e ∈ s.ports, e.2.queued = []) (hu : s.fabric.unrouted = []) : Claims.noArrivals s p :=
  ⟨fun e he w hw => (by rw [h e he] at hw; cases hw), fun e he => (by rw [hu] at he; cases he)⟩

theorem witness_RoutingTimeAndPeers_time : Port.up (State.port (netS 8 0) 39) = true ∧ Claims.masters (netS 8 0) [(8, probeT)] = [] ∧
    Claims.bestTime (Claims.masters timeS (NMap.insert timeS.time.neighbours 8 probeT)) probeT ∧ Port.up (State.port timeS 39) = true ∧ timeS.joined = false ∧
    (let s : State := { timeS with joined := true, time := { timeS.time with holdover := true } }
     s.joined = true ∧ s.time.holdover = true ∧ ((1000001 : Int) < -1000000 ∨ (1000000 : Int) < 1000001) ∧ Claims.noneWait s ∧ ∀ q, q < 40 → (State.port s q).replay = []) ∧
    (let s : State := { netS 8 0 with joined := true, timebase := 1000000 }
     s.joined = true ∧ s.time.holdover = false ∧ s.time.lastService + 1000000 ≤ s.timebase ∧ (0xA2, 0, 0, 0) ∉ s.tel.episodes) :=
  ⟨by decide, by decide, best8, by decide, by decide, ⟨rfl, rfl, Or.inr (by decide), noneWait_of _ (by intro e he; cases he with | head => exact ⟨rfl, rfl⟩ | tail _ h => cases h) rfl, by decide⟩,
    by decide⟩

/-- Ports 38 and 39 are LIVE to modules 16 and 8, a millisecond after the last flit. -/
def twoS : State := { upS with ports := [(38, portL 16 0), (39, portL 8 0)], fabric := { Fabric.reset with dim := 5 }, timebase := 1000000 }
theorem two_only (q k : Nat) (h : Claims.linkTo twoS q k) : (q = 38 ∧ k = 16) ∨ (q = 39 ∧ k = 8) := by
  obtain ⟨_, h1, _, p, h2, h3⟩ := h
  by_cases hq : q = 39
  · subst hq; cases h2; exact Or.inr ⟨rfl, h3.symm⟩
  · by_cases hr : q = 38
    · subst hr; cases h2; exact Or.inl ⟨rfl, h3.symm⟩
    · simp [State.port, twoS, NMap.get, NMap.find, Ne.symm hq, Ne.symm hr, Port.reset] at h1

theorem witness_RoutingTimeAndPeers_probes : Claims.linkTo twoS 39 8 ∧ (∀ p, Claims.linkTo twoS p 8 → (State.port twoS p).lastRx + 750000 ≤ twoS.timebase) ∧
    NMap.find twoS.fabric.probes 8 = none ∧ Claims.detourPort twoS 8 38 ∧ Claims.room twoS 38 ∧ Claims.idlePort (State.port twoS 38) ∧
    Port.credit (State.port twoS 38) 0 2 = true ∧ (∀ q m, m ≠ 8 → ¬ Claims.linkTo (netS 8 0) q m) ∧
    Claims.escapePort (netS 8 0) 8 39 ∧ 8 ≠ (netS 8 0).moduleNumber ∧ Port.credit (State.port (netS 8 0) 39) 0 (Claims.directClass (State.port (netS 8 0) 39) 0) = true ∧
    (NMap.find { Fabric.reset with probes := [(8, false)] }.probes 8).isSome = true := by
  refine ⟨⟨by decide, Or.inl rfl, rfl, _, rfl, rfl⟩, ?_, by decide, ⟨4, by decide, by decide, by decide, ⟨by decide, Or.inl rfl, rfl, _, rfl, rfl⟩, ?_, ?_⟩,
    by unfold Claims.room; decide, ⟨rfl, rfl⟩, by decide, ?_, ⟨8, Or.inl ⟨3, by decide⟩, linked 8 0, fun q h => (link_only _ _ q _ h).1⟩, by decide, by decide, by decide⟩
  · intro p h; rcases two_only _ _ h with ⟨rfl, e⟩ | ⟨rfl, -⟩
    · exact absurd e (by decide)
    · decide
  · intro q h; rcases two_only _ _ h with ⟨rfl, -⟩ | ⟨-, h⟩
    · rfl
    · exact absurd h (by decide)
  · intro j q h3 h4
    obtain rfl : j = 3 := by omega
    intro h; exact absurd rfl h
  · intro q m hm h; exact hm (link_only _ _ _ _ h).2

/-- One link, silent for 1 ms: down for a cause of its own, or its neighbour declared failed; with another link to 8, or an answer, not. -/
theorem witness_RoutingTimeAndPeers_peers : (let s : State := { netS 8 0 with timebase := 1000000 }
     Port.up (State.port s 39) = true ∧ (State.port s 39).replay = [] ∧ (State.port s 39).queued = [] ∧ Claims.noArrivals s 39 ∧
     (State.port s 39).partner = some { (default : Partner) with module := 8 } ∧ (State.port s 39).lastRx + 1000000 ≤ s.timebase ∧ NMap.find s.fabric.probes 8 ≠ some true ∧
     (∀ j, j < 40 → j ≠ 39 → Port.up (State.port s j) = true → (State.port s j).partner.map (·.module) ≠ some 8) ∧ NMap.find s.fabric.failed 8 = none ∧
     Claims.owedNothing s 8 ∧ Claims.noneWait s ∧ (∀ q, q < 40 → (State.port s q).replay = []) ∧ NMap.get s.fabric.known 0 8 ≤ 0 ∧ 8 ≠ s.moduleNumber ∧
     ∀ k, NMap.find s.fabric.known 8 = some k → k < 1) ∧
    NMap.find { Fabric.reset with probes := [(8, true)] }.probes 8 = some true ∧
    0 < NMap.get { Fabric.reset with known := [(8, 1)] }.known 0 8 ∧ ({ netS 8 0 with joined := true } : State).joined = true :=
  ⟨⟨by decide, by decide, by decide, noArrivals_of _ _ (by decide) rfl, rfl, by decide, by decide, by decide, by decide, ⟨(fun r e h => nomatch h), by decide, by decide⟩,
    noneWait_of _ (by intro e he; cases he with | head => exact ⟨rfl, rfl⟩ | tail _ h => cases h) rfl, by decide, by decide, by decide, (fun k h => nomatch h)⟩,
    by decide, by decide, rfl⟩

set_option maxRecDepth 20000 in
/-- Offset of R389: ((1005 − 1000) − (0 − 40)) / 2 = 22. A packet whose escape hop has no credit waits there. -/
theorem test_fabric : after (.packetRoute 39 ⟨packetR 24 false, none⟩) (netS 8 0) (fun t => decide ((State.port t 39).replay.length = 1)) = true ∧
    after (.packetRoute 39 ⟨packetC 24, none⟩) { netS 8 0 with ports := [(39, { portL 8 1888 with sent := [(17, 4)] })] }
      (fun t => decide ((State.port t 39).replay = [] ∧ ((State.port t 39).queued.map (·.classes)) = [[1]])) = true ∧
    after (.packetRoute 39 ⟨packetR 8 true, none⟩) upS (fun t => decide (t.out.length = 1)) = true ∧
    after (.timeReply 39 1000 1005 40 probeT) timeS (fun t => decide (t.time.slew = 22 ∧ t.time.hops = 1)) = true ∧
    after (.packagePacket 0 7 .req false) (packS (.request 2) .req) (fun t => decide (NMap.get (State.region t 0).retries 0 7 = 1 ∧ t.package.length = 1)) = true ∧
    after (.packagePacket 0 7 .req true) (packS (.request 2) .req) (fun t => decide (t.package = [] ∧ t.out.length = 1 ∧ t.homeQueue.map (·.2.stage) = [.home])) = true ∧
    after (.peerDown 39 8 0) (netS 16 0) (fun t => decide (t.fabric.failed = [(8, 0)])) = true ∧
    after (.linkDown 39 .silence) { netS 8 0 with timebase := 1000000 } (fun t => decide ((State.port t 39).state = .detect ∧ t.fabric.failed = [(8, 0)])) = true := by decide

/-! ### Collectives at work -/

/-- Reduce-scatter (OP 1, ALG 0) and all-gather (OP 2) of 128 elements of S32 between members 0 (this module) and 1, record at 0x100; a page at the lowest
populated address. -/
def collW (op : Nat) : Nat := word [(0x200000, 448), (0x201000, 384), (128, 352), (op, 348), (0x100, 288)]
def opG (op : Nat) : CollOp := { (default : CollOp) with desc := BitVec.ofNat 512 (collW op), counter := some 3 }
def pageG : Translation := page 1 0x80
def groupG (queue : List CollOp) (run : Option CollRun) : CollGroup := { twoMembers with stage := 0x40000, bufs := 2, queue := queue, run := run }
def collS (g : CollGroup) (pages : List Translation) : State :=
  { withCell { Cell.reset with arrivals := [(3, { value := 0, tag := 0 })], colls := 1, port := [11] } with
    groups := [(11, g)]
    mem := [(0x10000000, 5)]
    regions := [(0, { Region.reset with windowCache := [(windowSet 1, pages)], cache := linesR })]
    timebase := 10000000 }

theorem home_at (g : CollGroup) (e : Nat) (h : e < 2048) : homeOf (State.ilv (collS g [pageG])) (0x10000000 + 4 * e) = (0, 0x10000000 + 4 * e, true) := by
  have hb : bitOf (0x10000000 + 4 * e) 42 = false := by
    simp only [bitOf, decide_eq_false_iff_not]
    omega
  have hi : State.ilv (collS g [pageG]) = 0 := by simp [State.ilv, collS, withCell, State.reset, NonVolatile.reset]
  rw [hi]
  unfold homeOf
  rw [if_neg (by simp [hb])]
  simp only [bits, regionBytes, Prod.mk.injEq]
  exact ⟨by omega, by omega, decide_eq_true (by omega)⟩

theorem coll_at (g : CollGroup) (hg : g.anchor = 0) (ht : g.tag = 0) (want : Want) (hw : permission pageG 0 want = none) (e : Nat) (h : e < 2048) :
    Claims.collAt (collS g [pageG]) g want (0x200000 + 4 * e) (0x10000000 + 4 * e) := by
  refine ⟨by omega, by rw [home_at g e h], by rw [home_at g e h]; rfl, pageG, ?_, rfl, by rw [ht]; exact hw, ?_⟩
  · rw [show (0x200000 + 4 * e) / 2 ^ 21 = 1 by omega, hg]
    rfl
  · show _ = (0 * 2 ^ 43 + 0x80 * 2 ^ 21 + _) % 2 ^ 43
    omega

theorem coll_line (g : CollGroup) (e : Nat) (h : e < 128) : Claims.lineThere (collS g [pageG]) (0x10000000 + 4 * e) := by
  have hk : ∃ k, k < 4 ∧ (0x10000000 + 4 * e) / 128 * 128 = 0x10000000 + 128 * k := ⟨e / 32, by omega, by omega⟩
  obtain ⟨k, hk, hl⟩ := hk
  unfold Claims.lineThere
  rw [home_at g e (by omega)]
  refine ⟨rfl, rfl, ?_, { lineH with line := 0x200000 + k }, ?_, fun i hi => (by decide : ∀ i, i < 4 → i ∈ lineH.valid) i hi⟩ <;> dsimp only <;> rw [hl]
  · rfl
  · rcases (by omega : k = 0 ∨ k = 1 ∨ k = 2 ∨ k = 3) with rfl | rfl | rfl | rfl <;> rfl

theorem witness_CollectivesRun_start : (let g := groupG [opG 1] none
     let s := collS g [pageG]
     let d := collDesc (opG 1).desc.toNat
     NMap.find s.groups 11 = some g ∧ g.run = none ∧ g.queue = [opG 1] ∧ g.lost = none ∧ State.regionServes s (regionOf g.anchor) = true ∧ d.opn = 1 ∧ d.alg = 0 ∧
       (opG 1).recipe = false ∧ d.wblk = false ∧ 2 ≤ g.members.length ∧ g.pos < g.members.length ∧ 0 < d.count ∧ g.grants = [] ∧ d.src % 256 = 0 ∧ d.dst % 256 = 0 ∧
       d.src = 0x200000 ∧ d.dst = 0x200000 + 4 * 1024 ∧ d.count = 128 ∧ Claims.chunkLen 128 2 = 64) ∧
    (let s := collS { groupG [opG 1] none with lost := some 1 } []
     (NMap.find s.groups 11).map (·.lost) = some (some 1) ∧ Region.translation (State.region s 0) (0x200000 / 2 ^ 21) = none ∧ s.fabric.table = []) := by decide

theorem witness_CollectivesRun_pages (e : Nat) (h : e < 128) : let g := groupG [opG 1] none
    Claims.collAt (collS g [pageG]) g .read (0x200000 + 4 * e) (0x10000000 + 4 * e) ∧ Claims.lineThere (collS g [pageG]) (0x10000000 + 4 * e) ∧
      (∀ fa, State.unsettledGlobal (collS g [pageG]) fa = false) ∧
    Claims.collAt (collS g [pageG]) g .write (0x200000 + 4 * 1024 + 4 * e) (0x10000000 + 4 * (1024 + e)) := by
  refine ⟨coll_at _ rfl rfl _ (by decide) e (by omega), coll_line _ e h, fun _ => rfl, ?_⟩
  have := coll_at (groupG [opG 1] none) rfl rfl .write (by decide) (1024 + e) (by omega)
  rwa [show 0x200000 + 4 * 1024 + 4 * e = 0x200000 + 4 * (1024 + e) by omega]

/-- A run that will send chunk 1 and expects chunk 0; segments that are added, and that are copied. -/
def sendG : SegmentSend := { dest := 1, chunk := 1, segment := 0, needs := 0, final := false, done := false }
def recvG (add : Bool) : SegmentReceive := { source := 1, chunk := 0, segment := 0, add := add, done := false }
def valueG : SegmentValue := { elements := List.replicate 64 0x40000000, poisoned := List.replicate 64 false, headers := [], blocks := false, got := 0 }
def runG (op : Nat) (waiting : List SegmentMessage) (values : NMap SegmentValue) (written : List Nat) : CollRun :=
  { (default : CollRun) with op := opG op, started := true, sends := [sendG], receives := [recvG (op = 1)], issued := 1, waiting := waiting, values := values, written := written }
def segG (final : Bool) : SegmentMessage :=
  { (default : SegmentMessage) with group := 11, source := 1, final := final, elements := List.replicate 64 0x3F800000, poisoned := List.replicate 64 false }

theorem witness_CollectivesRun_grants : let r := runG 1 [] [(0, valueG), (2 ^ 22, valueG)] [0, 2 ^ 22]
    let s := collS (groupG [] (some r)) [pageG]
    NMap.find s.groups 11 = some (groupG [] (some r)) ∧ r.started = true ∧ r.ending = none ∧ r.sends = [sendG] ∧ sendG.dest = 1 ∧
      NMap.find r.values (Claims.segKey sendG.chunk sendG.segment) = some valueG ∧ sendG.needs ≤ valueG.got ∧ (collDesc r.op.desc.toNat).wblk = false ∧
      r.receives.length ≤ r.issued ∧ (∀ e ∈ r.values, e.1 ∈ r.written) := by decide

theorem witness_CollectivesRun_added : let r := runG 1 [] [] []
    let s := collS (groupG [] (some r)) [pageG]
    State.regionServes s 0 = true ∧ ((segG false).epoch - (State.job s (segG false).tag).epoch.getD 0).toNat < 2 ^ 15 ∧ segG false ∉ r.waiting ∧
      Claims.expected r (segG false) [] [] (recvG true) ∧ 2 ^ 15 ≤ ({ segG true with epoch := 0xFFFF }.epoch - (State.job s 0).epoch.getD 0).toNat := by
  unfold Claims.expected; decide

theorem witness_CollectivesRun_copied : let r := runG 2 [] [] []
    let d := collDesc r.op.desc.toNat
    Claims.expected r (segG true) [] [] (recvG false) ∧ d.opn = 2 ∧ 0 < Claims.segments d.count 2 0 ∧ 0 ∉ r.written ∧
      (r.receives.filter (fun z => decide (z.chunk = 0 ∧ z.segment = 0))).length ≤ 1 ∧ d.dst % 256 = 0 ∧ (∀ b ∈ (segG true).poisoned, b = false) ∧
      d.dst / 2 ^ 21 = (d.dst + 4095) / 2 ^ 21 ∧ (segG true).elements.length ≤ 1024 := by unfold Claims.expected; decide

theorem witness_CollectivesRun_port : let r := runG 1 [segG false] [(0, valueG)] []
    let s := collS (groupG [] (some r)) [pageG]
    s.groups.filter (fun e => decide (e.2.anchor = 0)) = [(11, groupG [] (some r))] ∧ r.waiting = [segG false] ∧ State.cellRuns s 0 = true ∧ r.started = true ∧
      (State.cell s 0).port = [11] ∧ (State.cell s 0).chain = [] := by decide

theorem witness_CollectivesRun_end : (∀ e ∈ [none, some (3, 0)], let r : CollRun := { runG 1 [] [] [] with sends := [], receives := [], ending := e }
     let s := collS (groupG [] (some r)) []
     (NMap.find s.groups 11).bind (·.run) = some r ∧ (collDesc r.op.desc.toNat).result + 16 ≤ 2 ^ 19 ∧
       Claims.offStage s 0 [((collDesc r.op.desc.toNat).result, 16)] ∧ (∀ x ∈ r.sends, x.done = true) ∧ (∀ x ∈ r.receives, x.done = true)) ∧
    (let r := runG 1 [] [] []
     r.waiting.length < ((r.receives.take r.issued).filter (fun x => !x.done)).length ∧ r.lastRx + Fabric.reset.rspTimeoutMs * 1000000 ≤ 10000000) ∧
    NMap.find (collS (groupG [] none) []).groups 5 = none ∧ (∀ mb, (State.mailbox (collS (groupG [] none) []) mb).running = none) :=
  ⟨by unfold Claims.offStage; decide, by decide, by decide, fun _ => rfl⟩

/-- A store to 0x40000, the first byte of the staging area, and a send of a group whose area has been accessed; an untouched group sends what it holds. -/
def stagedS : State := { memAt 0x61 (mf 8 1 0 2) (grpOf 0x40000 0 0) with groups := [(11, groupG [] none)] }
def sentG (touched : Bool) : State :=
  collS { groupG [] (some (runG 1 [] [(0, valueG), (2 ^ 22, valueG)] [0, 2 ^ 22])) with touched := touched } [pageG]

theorem witness_StagingAccess :
    Claims.memIssues stagedS 0x61 .store g0 (mf 8 1 0 2) { grpOf 0x40000 0 0 with fetched := memWords 0x61 (mf 8 1 0 2) } ∧
    Claims.localAllowed stagedS g0 (mf 8 1 0 2) false { grpOf 0x40000 0 0 with fetched := memWords 0x61 (mf 8 1 0 2) } ∧
    Claims.unheld stagedS g0 (mf 8 1 0 2) false { grpOf 0x40000 0 0 with fetched := memWords 0x61 (mf 8 1 0 2) } ∧ Claims.settled stagedS 0 ∧
    NMap.find stagedS.groups 11 = some (groupG [] none) ∧ (groupG [] none).anchor = 0 ∧ 31 ∈ Claims.lanes (grpOf 0x40000 0 0) (mf 8 1 0 2) ∧
    (groupG [] none).stage ≤ effective (mf 8 1 0 2) false (grpOf 0x40000 0 0) 31 ∧
    (NMap.find (sentG true).groups 11).map (·.touched) = some true ∧ valueG.headers = [] ∧ valueG.blocks = false := by
  unfold Claims.memIssues Claims.localAllowed Claims.unheld Claims.settled; decide

set_option maxRecDepth 20000 in
theorem test_staging : after (.st g0 (mf 8 1 0 2)) stagedS (fun t => decide ((NMap.find t.groups 11).map (·.touched) = some true)) = true ∧
    after (.segGrant 11 1) (sentG true) (fun t => decide (t.freeCount = 128 ∧ t.out.length = 1)) = true ∧
    after (.segGrant 11 1) (sentG false) (fun t => decide (t.freeCount = 0 ∧ t.out.length = 1)) = true := by decide

set_option maxRecDepth 20000 in
/-- 1.0 + 2.0 = 3.0; chunk 1's element 0 is the word 5 of memory in none of the chunks but chunk 0. -/
theorem test_collectives : after (.collectivePortMap 0 false) (collS (groupG [] (some (runG 1 [segG false] [(0, valueG)] []))) [pageG])
      (fun t => decide (((NMap.find t.groups 11).bind (·.run)).map (fun r => (NMap.get r.values default 0).elements.head?) = some (some 0x40400000))) = true ∧
    after (.collectiveStart 11) (collS (groupG [opG 1] none) [pageG])
      (fun t => decide (((NMap.find t.groups 11).bind (·.run)).map (fun r => ((NMap.get r.values default 0).elements.head?, r.sends.map (·.chunk), r.receives.map (·.chunk)))
        = some (some 5, [1], [0]))) = true ∧
    after (.segmentTimeout 11) (collS (groupG [] (some (runG 1 [] [] []))) []) (fun t => decide (((NMap.find t.groups 11).bind (·.run)).bind (·.ending) = some (3, 0))) = true ∧
    after (.setup { (default : SetupMessage) with group := 5 }) (collS (groupG [] none) []) (fun t => decide (t.fabric.early.length = 1)) = true ∧
    after (.collectiveComplete 11) (collS (groupG [] (some { runG 1 [] [] [] with sends := [], receives := [] })) [])
      (fun t => decide (((NMap.find t.groups 11).bind (·.run)).isNone ∧ (Cell.arrival (State.cell t 0) 3).value = 1 ∧ (State.cell t 0).colls = 0)) = true := by decide

/-! ### Links -/

/-- Port 39 with nine lanes of which 8 is standby, a flit outstanding, its last flit received 4095. -/
def portK : Port :=
  { portL 8 0 with
    usableTx := 511, usableRx := 511, txMap := List.range 8, rxMap := List.range 8, txStandby := some 8, rxStandby := some 8
    replay := [{ seq := 4, vc := 0, cred := 0, payload := [], control := none }] }
def linkS (x : Port) : State := { upS with ports := [(38, x)], timebase := 86400000000000 }
/-- A flit of VC2, class 1, that acknowledges seq 4 and reports 4095 for VC15, class 2; `low`: the reserved header bits. -/
def flitOf (seq low crc : Nat) : Flit :=
  { image := BitVec.ofNat 2048 (word [(seq, 52), (4, 40), (2, 33), (1, 31), (low, 0), (crc, 2016), (15, 2012), (2, 2010), (4095, 1998)]), fecOk := true
    payload := [], control := some (true, 5) }
/-- The next flit expected, seq 0, with its CRC (by an independent CRC-32). -/
def flitK : Flit := flitOf 0 0 0xFADEC611

/-- One byte of the CRC, and sixty zero bytes. -/
def crcByte (r : Nat) (b : BitVec 8) : Nat := (List.range 8).foldl (fun r i => crcBit r (b.getLsbD i)) r
def zeros60 : List (BitVec 8) := List.replicate 60 0

set_option maxRecDepth 20000 in
theorem crc_a0 : zeros60.foldl crcByte 0xa350af8f = 0x8df1951e := by decide
set_option maxRecDepth 20000 in
theorem crc_a1 : zeros60.foldl crcByte 0x8df1951e = 0x50b523d2 := by decide
set_option maxRecDepth 20000 in
theorem crc_a2 : zeros60.foldl crcByte 0x50b523d2 = 0xfd8349db := by decide
set_option maxRecDepth 20000 in
theorem crc_a3 : zeros60.foldl crcByte 0xfd8349db = 0x37d95593 := by decide
set_option maxRecDepth 20000 in
theorem crc_b0 : zeros60.foldl crcByte 0x6ffaaf11 = 0xe8cc0d3c := by decide
set_option maxRecDepth 20000 in
theorem crc_b1 : zeros60.foldl crcByte 0xe8cc0d3c = 0x634ad6e1 := by decide
set_option maxRecDepth 20000 in
theorem crc_b2 : zeros60.foldl crcByte 0x634ad6e1 = 0x38eedd4d := by decide
set_option maxRecDepth 20000 in
theorem crc_b3 : zeros60.foldl crcByte 0x38eedd4d = 0xde8547e2 := by decide

/-- A flit whose bytes 8 to 247 are zero is good where its CRC is that of its head, the zeros and its trailer. -/
theorem goodFlit {f : Flit} {head tail : List (BitVec 8)} {a b c d e : Nat}
    (h : toBytes 252 f.image.toNat = head ++ (zeros60 ++ (zeros60 ++ (zeros60 ++ (zeros60 ++ tail))))) (h0 : head.foldl crcByte (2 ^ 32 - 1) = a)
    (h1 : zeros60.foldl crcByte a = b) (h2 : zeros60.foldl crcByte b = c) (h3 : zeros60.foldl crcByte c = d) (h4 : zeros60.foldl crcByte d = e)
    (h5 : tail.foldl crcByte e ^^^ (2 ^ 32 - 1) = f.crc.toNat) (hf : f.fecOk = true) : f.good = true := by
  have g : crc32 (toBytes 252 f.image.toNat) = f.crc.toNat := by
    show (List.foldl crcByte (2 ^ 32 - 1) (toBytes 252 f.image.toNat)) ^^^ (2 ^ 32 - 1) = f.crc.toNat
    rw [h, List.foldl_append, List.foldl_append, List.foldl_append, List.foldl_append, List.foldl_append, h0, h1, h2, h3, h4, h5]
  rw [Flit.good, Flit.crcOk, hf, decide_eq_true g]; rfl

set_option maxRecDepth 20000 in
theorem test_flitCrc : flitK.good = true :=
  goodFlit (head := [0, 0, 0, 0x80, 4, 4, 0, 0]) (tail := [0, 0xC0, 0xFF, 0xFB]) (by decide) (by decide) crc_a0 crc_a1 crc_a2 crc_a3 (by decide) rfl
set_option maxRecDepth 20000 in
theorem test_flitCrc_reserved : (flitOf 0 1 0xF9273E72).good = true :=
  goodFlit (head := [1, 0, 0, 0x80, 4, 4, 0, 0]) (tail := [0, 0xC0, 0xFF, 0xFB]) (by decide) (by decide) crc_b0 crc_b1 crc_b2 crc_b3 (by decide) rfl
set_option maxRecDepth 20000 in
/-- Tables 15.3 and 15.4: the fields, and the slice that begins at byte 224. -/
theorem test_flitFields : flitK.ack = 4 ∧ flitK.vc = 2 ∧ flitK.cred = 1 ∧ flitK.crVc = 15 ∧ flitK.crCls = 2 ∧
    flitK.crTotal = 4095 ∧ (flitOf 0 1 0).reservedSet = true ∧ flitK.reservedSet = false := by decide

set_option maxRecDepth 20000 in
theorem witness_LinksCarry_flits : (State.port (linkS portK) 38).state = .live ∧ flitK.good = true ∧ flitK.seq.toNat = (portK.rxLast + 1) % 4096 ∧
    flitK.seq.toNat ≠ ({ portK with rxLast := 5 }.rxLast + 1) % 4096 ∧ portK.nakAt = none ∧ portK.naks ≠ 7 ∧ { portK with nakAt := some 5 }.nakAt.isSome = true ∧
    { flitK with fecOk := false }.good = false ∧ (flitOf 0 1 0xF9273E72).good = true ∧ (flitOf 0 1 0xF9273E72).reservedSet = true ∧
    (let x := { portK with nakAt := some 5, naks := 7 }
     x.nakAt = some 5 ∧ x.partner = some { (default : Partner) with module := 8 } ∧ 5 + 0 + 1000 ≤ (linkS x).timebase ∧ x.recovering = []) :=
  ⟨rfl, test_flitCrc, by decide, by decide, rfl, by decide, rfl, rfl, test_flitCrc_reserved, by decide, by decide⟩

def goodWord : CodewordReport := { correctable := true, symbols := 1, message := 1 + 2 ^ 514 }
/-- Lane 0 has had three bad codewords, with standby and without; it failed twice in the last 24 hours. -/
def badLane (standby : Option Nat) : Port := { portK with lanes := [(0, { Lane.reset with locked := true, bad := 3 })], rxStandby := standby }

set_option maxRecDepth 20000 in
theorem witness_LinksCarry_codewords : (Port.lane portK 0).failed = false ∧ (∀ i, i < 4 → goodWord.message.getLsbD (257 * i) = Nat.testBit 0b1010 (3 - i)) ∧
    (∀ i, i < 12 → goodWord.message.getLsbD (257 * (4 + i)) = (Port.lane portK 0).next.testBit (11 - i)) ∧ (Port.lane portK 0).next < 4096 ∧ (Port.lane portK 0).bad ≤ 3 ∧
    ((Port.lane portK 0).uncorr.filter (fun t => decide (86400000000000 < t + 1000000))).length < 4 ∧
    Claims.symbolsIn ((Port.lane portK 0).symbols ++ [(86400000000000, 1)]) 86400000000000 10000000 ≤ 42500 ∧ (38 < 40 ∧ 8 < if 38 % 5 = 4 then 8 else 9) ∧
    (∀ b ∈ [some 8, none], (Port.lane (badLane b) 0).locked = true ∧ (Port.lane (badLane b) 0).bad = 3 ∧ (badLane b).rxMap.getD 0 0 = 0 ∧
      4 ≤ ((List.range 9).filter (fun i => ((badLane b).usableRx &&& (511 ^^^ 2 ^ 0)).testBit i)).length ∧ (badLane b).sparing = none ∧ (badLane b).recovering = []) := by
  decide

theorem witness_LinksCarry_recoveries : portK.txStandby.isSome = true ∧ 7 < portK.txMap.length ∧ { portK with spareAsked := some 7 }.spareAsked = some 7 ∧
    (∀ d ∈ [true, false], { portK with recovering := [d] }.recovering = [d]) ∧ 4 ≤ ((List.range 9).filter (fun i => (511 &&& (15 : BitVec 9).toNat).testBit i)).length ∧
    ((List.range 9).filter (fun i => (511 &&& (7 : BitVec 9).toNat).testBit i)).length < 4 ∧
    (let x := { portK with state := .recovery, replay := [], failures := 2 }
     x.state = .recovery ∧ x.since + 300000 ≤ (linkS x).timebase ∧ x.replay = [] ∧ 3 ≤ x.failures + 1) := by decide

theorem witness_LinksCarry_lasers : 38 % 5 ≠ 4 ∧ (0x87, 9, 38, 0) ∉ (linkS portK).tel.episodes ∧ (0x88, 9, 38, 0) ∉ (linkS portK).tel.episodes ∧
    portK.state ∉ [.disabled, .held, .detect] ∧ { portK with replay := [] }.replay = [] := by decide

/-- An out-of-sequence or bad flit while a NAK stands or as the eighth; a dark lane; the second direction; nothing left at a port that goes down. -/
theorem witness_LinksCarry_clear : Claims.idlePort portK ∧ { portK with nakAt := some 5 }.nakAt.isSome = true ∧
    (let x := { portK with naks := 7 }; x.naks = 7 ∧ x.nakAt = none ∧ x.recovering = [] ∧ x.replay.length < 2048) ∧
    0 < ([packetR 24 false].filter (fun q => decide (q.destination ≠ (linkS portK).moduleNumber))).length ∧
    (∀ q ∈ [packetR 0 false], q.destination = (linkS portK).moduleNumber) ∧
    (∀ b ∈ [some 8, none], 4 ≤ Claims.lanesLeft (badLane b) 0 ∧ (badLane b).sparing = none ∧ (badLane b).replay.length < 2048 ∧ 0 < (badLane b).rxMap.length) ∧
    (1 : BitVec 9).toNat = 2 ^ 0 ∧ { portK with txStandby := none }.txStandby = none ∧
    (∀ d ∈ [true, false], true ∈ { portK with recovering := [true] }.recovering ∧ { portK with recovering := [!d] }.recovering = [!d]) ∧
    (let x := { portK with state := .recovery, replay := [] }
     x.queued = [] ∧ Claims.noArrivals (linkS x) 38 ∧ x.replay = []) :=
  ⟨⟨rfl, rfl⟩, rfl, by decide, by decide, by decide, by decide, by decide, rfl, by decide, rfl, noArrivals_of _ _ (by decide) rfl, rfl⟩

set_option maxRecDepth 100000 in
theorem test_links : after (.dataFlit 38 { flitK with fecOk := false }) (linkS portK) (fun t => decide (t.out = [.link 38 (.nak 0 { ack := 4095, pair := 0, total := 0 } false)])) = true ∧
    after (.codeword 38 0 { goodWord with correctable := false }) (linkS (badLane (some 8))) (fun t => decide ((State.port t 38).sparing = some 0)) = true ∧
    after (.laneSwitch 38) (linkS { portK with spareAsked := some 7 }) (fun t => decide ((State.port t 38).txMap = [0, 1, 2, 3, 4, 5, 6, 8])) = true ∧
    after (.recoveryDone 38 15) (linkS { portK with recovering := [false] }) (fun t => decide ((State.port t 38).rxMap = [0, 1, 2, 3])) = true ∧
    after (.recoveryTimeout 38) (linkS { portK with state := .recovery, failures := 2 }) (fun t => decide ((State.port t 38).state = .held)) = true := by decide

set_option maxRecDepth 20000 in
/-- R441: the next flit is accepted, and what it acknowledges leaves the replay buffer. -/
theorem test_links_accept : after (.dataFlit 38 flitK) (linkS portK) (fun t => decide ((State.port t 38).rxLast = 0 ∧ (State.port t 38).replay = [])) = true := by
  simp only [after, exec, execDataFlit, State.acceptFlit, State.arriveFlit, test_flitCrc]
  decide

/-- A port that reports in time, with two pairs that wait. -/
theorem witness_LinksCarry_reports : ([(4, 45), (9, 1)].map (·.1)).Nodup ∧ ∀ i e, ([(4, 45), (9, 1)] : List (Nat × Nat))[i]? = some e → e.2 + i < 48 ∧ e.1 < 64 ∧ e.1 % 4 < 3 := by
  refine ⟨by decide, fun i e h => ?_⟩
  match i, h with
  | 0, h => simp at h; subst h; decide
  | 1, h => simp at h; subst h; decide

set_option maxRecDepth 20000 in
/-- R445: the pair with the largest unreported change is reported first, the longest waiting of equals, one that would wait 48 flits before it; R444: an IDLE flit at a tick. -/
theorem test_reports : (Port.report { portK with returned := [(4, 2), (8, 3), (9, 3)], due := [(4, 2), (9, 1), (8, 0)] }).pair = 9 ∧
    (Port.reported { portK with returned := [(4, 2), (8, 3), (9, 3)], due := [(4, 2), (9, 1), (8, 0)] }).due = [(4, 3), (8, 1)] ∧
    (Port.report { portK with returned := [(4, 2), (8, 3), (9, 3)], due := [(4, 45), (9, 1), (8, 0)] }).pair = 4 ∧
    after .timebaseTick (linkS portK) (fun t => decide (t.out = [.link 38 (.idle 0 said false)])) = true ∧
    after .timebaseTick (linkS { portK with recovering := [true] }) (fun t => decide (t.out = [])) = true := by decide

/-! ### Bring-up -/

/-- An optical port 38 in DETECT; its lane 8 is retired. -/
def trainS (st : PortState) : State :=
  { linkS { Port.reset with state := st, usableTx := 511, usableRx := 511, failures := 2 } with
    nv := { NonVolatile.reset with retiredLanes := [9 * 38 + 8], dim := 14 } }

theorem witness_BringUp_train : (State.port (trainS .detect) 38).state = .detect ∧ (trainS .detect).phase = .up ∧ (State.port (trainS .detect) 38).laserA = true ∧
    (State.region (trainS .detect) 7).fenced = false ∧ (trainS .detect).power.hot = [] ∧
    Claims.bringupRow .laserCheckDone .laserCheck .txEq ∧ Claims.bringupRow .deskewDone .deskew .identity ∧
    4 ≤ Claims.lanesOf (511 &&& (15 : BitVec 9).toNat) ∧ Claims.lanesOf (511 &&& (7 : BitVec 9).toNat) < 4 ∧ 8 ≤ Claims.lanesOf (511 &&& (510 : BitVec 9).toNat) ∧
    (∀ e ∈ [(PortState.laserCheck, 50000000), (.txEq, 300000000), (.rxAdapt, 200000000), (.fecLock, 5000000), (.deskew, 1000000), (.identity, 2000000)],
      (State.port (trainS e.1) 38).state = e.1 ∧ (State.port (trainS e.1) 38).since + e.2 ≤ (trainS e.1).timebase) ∧ State.serviced (trainS .identity) = false ∧
    (State.port (trainS .held) 38).since + 10000000000 ≤ (trainS .held).timebase ∧ (trainS .join).joined = false :=
  ⟨by decide, by decide, by decide, by decide, by decide, Or.inl ⟨rfl, rfl, rfl⟩, Or.inr (Or.inr (Or.inr (Or.inr ⟨rfl, rfl, rfl⟩))), by decide, by decide, by decide,
    by decide, by decide, by decide, by decide⟩

/-- Module 0 of a fabric of dimension 14; its neighbour is module 16383. -/
def joinS (st : PortState) (partner joined : Bool) : State :=
  { upS with
    ports := [(38, { Port.reset with state := st, partner := some { (default : Partner) with module := 16383, joined := partner } })]
    fabric := { Fabric.reset with dim := 14, firstIdentity := some 0 }, timebase := 2000000000, joined := joined }
def idJ (module dim : Nat) (joined : Bool) : PartnerIdentity :=
  { module := module, incarnation := 1, region := 7, port := 4, dim := dim, versionOk := true, joined := joined, fabricTime := 5, roundTripNs := 20 }

theorem witness_BringUp_join : (State.port (joinS .identity false false) 38).state = .identity ∧ (idJ 16383 14 true).dim = (joinS .identity false false).fabric.dim ∧
    (idJ 16383 13 true).dim ≠ (joinS .identity false false).fabric.dim ∧ 16383 < 2 ^ 14 ∧ ¬ (0 ≠ (joinS .identity false false).moduleNumber) ∧
    State.serviced (joinS .identity false false) = false ∧ (joinS .identity false false).debug = false ∧
    (joinS .join false false).fabric.firstIdentity = some 0 ∧ 0 + 2000000000 ≤ (joinS .join false false).timebase ∧
    (∃ p q, p < 40 ∧ (State.port (joinS .join false false) p).partner = some q) ∧
    (∀ p q, p < 40 → (State.port (joinS .join false false) p).partner = some q → q.joined = false ∧ 0 < q.module) ∧
    (State.port (joinS .join true true) 38).state = .join := by
  refine ⟨by decide, by decide, by decide, by decide, by decide, by decide, by decide, by decide, by decide, ⟨38, _, by decide, rfl⟩, ?_, by decide⟩
  intro p q _ h
  by_cases hp : p = 38
  · subst hp
    cases h
    decide
  · simp [State.port, joinS, NMap.get, NMap.find, Ne.symm hp, Port.reset] at h

theorem witness_BringUp_clear : 38 ≠ 39 ∧ Claims.idlePort (State.port (joinS .join true true) 38) ∧ (joinS .join true true).fabric.unrouted = [] ∧
    (State.port (joinS .join true true) 38).replay.length < 2047 ∧ (joinS .join false false).phase = .up := ⟨by decide, ⟨rfl, rfl⟩, rfl, by decide, by decide⟩

set_option maxRecDepth 20000 in
theorem test_bringup : after (.beaconDetect 38) (trainS .detect) (fun t => decide ((State.port t 38).state = .laserCheck ∧ (State.port t 38).usableRx = 255)) = true ∧
    after (.deskewDone 38 15 511) (trainS .deskew) (fun t => decide ((State.port t 38).txMap = [0, 1, 2, 3] ∧ (State.port t 38).rxStandby = some 8)) = true ∧
    after (.txEqDone 38 7 511) (trainS .txEq) (fun t => decide ((State.port t 38).state = .held)) = true ∧
    after (.identityDone 38 (idJ 16383 13 true)) (joinS .identity false false) (fun t => decide ((State.port t 38).state = .held)) = true ∧
    after (.identityDone 38 (idJ 16383 14 true)) (joinS .identity false false) (fun t => decide (t.joined = true ∧ t.timebase = 5 ∧ t.nv.incarnation = 1)) = true ∧
    after (.joinStateTimer 38) (joinS .join true true) (fun t => decide ((State.port t 38).state = .live ∧ t.out.length = 2)) = true ∧
    after .selfJoinExpiry (joinS .join false false) (fun t => decide (t.joined = true)) = true := by decide

/-! ### Power and heat -/

def regionW (volt level : Nat) : RegionPower := { RegionPower.reset with on := true, stackOn := true, volt := volt, level := level }
def powerS (p : Proofer) (x : RegionPower) : State := { upS with timebase := 1000000000, power := { Power.reset with proofer := p, regions := [(7, x)] } }
/-- Mailbox 0 powers region 7 up. -/
def upRegion (s : State) : State :=
  { s with host := { HostSide.reset with mailboxes := [(0, { Mailbox.reset with running := some { runOf 0x0103 with stage := 1, values := [7] } })] } }
def queueP (o : ProoferObject) (last : Option Nat) (clamp : Bool) : Proofer := { Proofer.full with queue := [o], lastRegion := last, clamp := clamp }

theorem witness_PowerIsControlled_requests : Claims.wants (upRegion (powerS Proofer.full RegionPower.reset)) (.regionPower 7) ∧
    Claims.wants (upRegion (powerS Proofer.full { RegionPower.reset with on := true })) (.stackPair 7) ∧
    Claims.wants { powerS Proofer.full (regionW 750 0) with ports := [(38, { Port.reset with wanted := true })] } (.opticalPort 38) ∧
    Claims.wants { powerS Proofer.full (regionW 750 0) with ports := [(39, { Port.reset with wanted := true })] } (.electricalPort 39) ∧
    Claims.wants { upS with cells := [(383, { Cell.reset with slices := [(0, { Slice.reset with ramp := .waitGrant })] })] } (.slice 383 0) ∧
    Claims.wants (powerS Proofer.full (regionW 745 0)) (.voltage 7) ∧ Claims.wants (powerS Proofer.full { regionW 750 0 with raising := true }) (.activity 7) ∧
    ProoferObject.regionPower 7 ∉ Proofer.full.queue ∧ ¬ Claims.wants (powerS Proofer.full (regionW 750 0)) (.voltage 7) :=
  ⟨⟨by decide, ⟨_, .head _, _, rfl, rfl, rfl, rfl⟩, by decide⟩, ⟨by decide, ⟨_, .head _, _, rfl, rfl, rfl, rfl⟩, by decide, by decide⟩,
    by unfold Claims.wants Claims.toEnable; decide, by unfold Claims.wants Claims.toEnable; decide, by unfold Claims.wants; decide, by unfold Claims.wants; decide,
    by unfold Claims.wants; decide, by decide, by unfold Claims.wants; decide⟩

theorem witness_PowerIsControlled_grants : (let p := queueP (.regionPower 7) (some 999700000) false
     p.queue = [.regionPower 7] ∧ p.clamp = false ∧ Claims.stepOf (powerS p RegionPower.reset) (.regionPower 7) ≤ p.rise ∧ 999700000 + 300000 ≤ 1000000000) ∧
    ¬ 999700001 + 300000 ≤ 1000000000 ∧ Claims.stepOf (powerS Proofer.full (regionW 745 0)) (.voltage 7) = 600 ∧
    (queueP (.activity 7) none true).clamp = true ∧ (powerS Proofer.full (regionW 750 0)).power.proofer.held = [] ∧ 400 ≤ Proofer.full.fall ∧
    (let p := { Proofer.full with held := [.slice 383 3, .slice 0 0] }
     Claims.stepOf (powerS p (regionW 750 0)) (.slice 383 3) ≤ p.fall ∧ ∀ r, ([.slice 0 0] : List FallItem).head? ≠ some (.level r)) ∧
    (State.regionPower (powerS Proofer.full { regionW 745 0 with granted := some 5 }) 7).granted = some 5 :=
  ⟨by decide, by decide, by decide, by decide, by decide, by decide, ⟨by decide, fun r h => nomatch h⟩, by decide⟩

/-- Power samples at 2,900 W and below 2,700 W; intervals above LIMIT, and 61 W below it for the tenth time. -/
theorem witness_PowerIsControlled_limits : (powerS Proofer.full (regionW 750 0)).power.proofer.clamp = false ∧ (queueP (.activity 7) none true).clamp = true ∧
    Claims.limitNow (powerS Proofer.full (regionW 750 0)) = 2400 ∧ 2339 + 60 < 2400 ∧
    (let s : State := { powerS Proofer.full (regionW 750 0) with power := { (powerS Proofer.full { regionW 700 0 with vpwr := some 745 }).power with calm := 9 } }
     9 ≤ s.power.calm ∧ (∃ r v, r < 8 ∧ (if (State.regionPower s r).on then (State.regionPower s r).vpwr.map (· + 5) else (State.regionPower s r).vpwr) = some v ∧
       v ≤ (State.regionPower s r).vreq)) := by
  refine ⟨by decide, by decide, ?_, by decide, by decide, 7, 750, by decide⟩
  simp [Claims.limitNow, powerS, upS, State.reset, NonVolatile.reset, Power.reset]

def sensorW : SensorRef := { cls := .computeDie, unit := 7, index := 15 }
def hotS (row : Nat) : State := { powerS Proofer.full (regionW 750 0) with power := { (powerS Proofer.full (regionW 750 0)).power with hot := [{ sensor := sensorW, row := row, below := some 0 }] } }

theorem witness_PowerIsControlled_heat : Claims.sensorFits sensorW ∧ (∀ h ∈ (powerS Proofer.full (regionW 750 0)).power.hot, h.sensor ≠ sensorW) ∧
    (SensorClass.computeDie, 1, (105 : Int), (92 : Int), 0x02, 100000000) ∈ Claims.thermalTable ∧ (91 : Int) < 92 ∧
    (∀ e ∈ Claims.thermalTable, e.1 = .computeDie → (91 : Int) < e.2.2.1) ∧ 0 + 100000000 ≤ (hotS 1).timebase ∧ (State.regionPower (hotS 0) 7).on = true ∧
    (∃ h ∈ (hotS 0).power.hot, h.row = 0 ∧ h.sensor.unit = 7) ∧ (∀ h ∈ (hotS 0).power.hot, h.row ≠ 1 ∧ h.row ≠ 3) :=
  ⟨⟨by decide, by decide⟩, by decide, by decide, by decide, by decide, by decide, by decide, ⟨_, .head _, rfl, rfl⟩, by decide⟩

/-- An optical engine whose port has nothing waiting. -/
theorem witness_PowerIsControlled_engine : let s := powerS Proofer.full (regionW 750 0)
    Claims.sensorFits { cls := .opticalEngine, unit := 3, index := 0 } ∧ (State.port s 3).replay = [] ∧ (State.port s 3).queued = [] ∧ Claims.noArrivals s 3 :=
  ⟨⟨by decide, by decide⟩, by decide, by decide, noArrivals_of _ _ (by decide) rfl⟩

set_option maxRecDepth 20000 in
theorem test_power : after .prooferGrant (upRegion (powerS (queueP (.regionPower 7) (some 999700000) false) RegionPower.reset))
      (fun t => decide ((State.regionPower t 7).on = true ∧ t.power.proofer.rise = 5200)) = true ∧
    idles .prooferGrant (upRegion (powerS (queueP (.regionPower 7) (some 999700001) false) RegionPower.reset)) = true ∧
    after (.governorInterval 7 400) (powerS Proofer.full (regionW 750 0)) (fun t => decide (t.power.proofer.queue = [.activity 7])) = true ∧
    after (.powerSample 2900) (powerS Proofer.full (regionW 750 0)) (fun t => decide ((State.regionPower t 7).volt = 725 ∧ t.power.proofer.clamp = true)) = true ∧
    after (.powerLimitInterval 2401) (powerS Proofer.full (regionW 750 0)) (fun t => decide ((State.regionPower t 7).vpwr = some 745)) = true ∧
    after (.thermalSample sensorW 105) (powerS Proofer.full (regionW 750 0)) (fun t => decide ((State.regionPower t 7).vthm = some 550 ∧ t.power.hot.length = 2)) = true ∧
    after (.thermalThrottleStep 7) (hotS 0) (fun t => decide ((State.regionPower t 7).volt = 740)) = true := by decide

/-! ### Failures and reports -/

theorem witness_FailuresAreReported_fences : (State.block upS (383 / 6)).fenced = false ∧ (State.regionPower (powerS Proofer.full (regionW 750 0)) 7).on = true ∧
    (State.region upS 7).fenced = false ∧ (∀ p, (State.port upS p).replay = []) ∧ ¬ Claims.failsModule upS 7 ∧
    (let s : State := { upS with regions := [(3, { Region.reset with fenced := true })] }
     Claims.failsModule s 7 ∧ (∀ p, (State.port s p).replay = [])) ∧
    (let s : State := { fillG with blocks := [(0, { Block.reset with fenced := true })] }
     NMap.find (State.cell s 0).misses 3 = some missG ∧ (State.block s 0).fenced = true ∧ missG.answer ≠ none) ∧
    (let s : State := { powerS Proofer.full (regionW 750 0) with power := { (powerS Proofer.full (regionW 750 0)).power with temps := [(sensorW, 105)], critSince := [(7, 900000000)] } }
     NMap.find s.power.critSince 7 = some 900000000 ∧ 900000000 + 100000000 ≤ s.timebase ∧ ∃ e ∈ s.power.temps, 105 ≤ e.2 ∧ e.1.cls = .computeDie ∧ e.1.unit = 7) ∧
    3 ≤ NMap.get (State.region { upS with regions := [(0, { Region.reset with retries := [(7, 3)] })] } 0).retries 0 7 :=
  ⟨by decide, by decide, by decide, fun _ => rfl, by unfold Claims.failsModule; decide, ⟨by unfold Claims.failsModule; decide, fun _ => rfl⟩, by decide,
    ⟨by decide, by decide, _, .head _, by decide⟩, by decide⟩

/-- An occurrence of alarm 0x21 on its way, a record of it in the table, or the table full of another. -/
def occA : AlarmOccurrence := { code := 0x21, kind := 0, source := 0, detail := 3, stamp := 5, last := 6, count := 2 }
def recA (code : Nat) : AlarmRecord := { first := 1, last := 1, count := 1, code := code, kind := 0, source := 0, detail := 0 }
def alarmS (l : List AlarmRecord) (merging : Bool) : State := { upS with tel := { Telemetry.reset with alarmPath := [occA], alarms := l, mergeEpisode := merging } }

theorem witness_FailuresAreReported_alarms : (alarmS [] false).tel.alarmPath[0]? = some occA ∧
    (∃ x ∈ (alarmS [recA 0x21] false).tel.alarms, x.code = occA.code ∧ x.kind = occA.kind ∧ x.source = occA.source) ∧
    (∀ x ∈ (alarmS (List.replicate 1024 (recA 0x22)) true).tel.alarms, x.code ≠ occA.code) ∧
    1024 ≤ (alarmS (List.replicate 1024 (recA 0x22)) true).tel.alarms.length ∧ (alarmS (List.replicate 1023 (recA 0x22)) true).tel.alarms.length < 1024 ∧ occA.code ≠ 0xE2 :=
  ⟨rfl, ⟨_, .head _, rfl, rfl, rfl⟩, by intro x hx; rw [List.eq_of_mem_replicate hx]; decide, by unfold alarmS; rw [List.length_replicate], by unfold alarmS; rw [List.length_replicate]; decide, by decide⟩

/-- Counter 31 of cell 383, watched for 1 ms, has held a group since 0. -/
def stallS (fired : Bool) : State :=
  { State.reset with
    timebase := 1000000
    cells := [(383, { Cell.reset with groups := [(0, { grp0 with hold := .await 31 7 })], watch := [(31, { period := 1, since := some 0, fired := fired })] })] }

theorem witness_FailuresAreReported_stalls : (∀ f ∈ [true, false], NMap.find (State.cell (stallS f) 383).watch 31 = some { period := 1, since := some 0, fired := f }) ∧
    0 < (Cell.waiters (State.cell (stallS false) 383) 31).length ∧ 0 + 1 * 1000000 ≤ (stallS false).timebase := by decide

def noteL : LogRecord := { (default : LogRecord) with type := 0x100, kind := 3 }
def logsS (full : Bool) : State :=
  { powerS Proofer.full (regionW 750 0) with
    tel := { Telemetry.reset with
             logPath := [(7, noteL)], buffers := if full then [(7, List.replicate 1024 noteL)] else [(7, [noteL])]
             losses := [(7, { count := 2, first := 1, last := 2, written := none })], drops := [(16 * 7 + 3, { start := 0, logs := 2, traces := 0, merged := 0 })] } }

theorem witness_FailuresAreReported_logs : (logsS true).tel.logPath[0]? = some (7, noteL) ∧ 1024 ≤ (NMap.get (logsS true).tel.buffers [] 7).length ∧
    (NMap.get (logsS false).tel.buffers [] 7).length < 1024 ∧ (∀ i, i < 7 → NMap.get (logsS false).tel.buffers [] (((logsS false).tel.nextBuffer + i) % 9) = []) ∧
    NMap.get (logsS false).tel.buffers [] 7 = noteL :: [] ∧ Claims.logging (logsS false) ∧ (NMap.find (logsS false).tel.losses 7).map (·.count) = some 2 ∧
    NMap.get (logsS false).tel.windows 0 7 / 10000000 < (logsS false).timebase / 10000000 ∧
    ((logsS false).tel.drops.filter (fun e => decide (e.1 / 16 = 7) && decide (e.2.start < (logsS false).timebase / 10000000 * 10000000))).length = 1 :=
  ⟨rfl, Nat.le_of_eq (List.length_replicate (n := 1024) (a := noteL)).symm, by decide, by decide, by decide, Or.inr rfl, by decide, by decide, by decide⟩

/-- A ring of 2^16 bytes; source 7 may trace once a millisecond. -/
def traceS (used : Nat) (dma : Bool) : State :=
  { upS with
    host := { HostSide.reset with busMaster := dma }
    tel := { Telemetry.reset with trace := { mask := 0x80, limits := [0, 0, 0, 0, 0, 0, 0, 1], ringAddr := 0x1000, ringLog2 := 16, write := 2045, read := 0, used := [(7, used)], period := 0 } } }
def traceR : TraceRecord := { source := 7, event := 1, kind := 3, unit := 383, data := 5 }

theorem witness_FailuresAreReported_traces : (traceS 0 true).tel.trace.mask.testBit 7 = true ∧ ¬ Claims.fewCredits (traceS 0 true) 3 383 ∧
    (traceS 0 true).tel.trace.limits.getD 7 0 = 1 ∧ (2045 + 2 ^ 64 - 0) % 2 ^ 64 < (2 ^ 16 - 64) / 32 ∧ (traceS 1 true).tel.trace.limits.getD 7 0 ≤ 1 ∧
    Claims.fewCredits { traceS 0 true with tel := { (traceS 0 true).tel with alarmPath := [{ occA with kind := 3, source := 383 }] } } 3 383 ∧
    (traceS 0 true).tel.trace.ringLog2 ≠ 0 := by unfold Claims.fewCredits; decide

/-- Nothing waits at any port; a hop that has failed three times; two occurrences of one region; free credits, and a discard whose window has ended. -/
theorem witness_FailuresAreReported_clear : (∀ p, Claims.clearPort upS p) ∧
    (let s : State := { packS (.request 2) .req with regions := [(0, { Region.reset with retries := [(7, 3)] })] }
     (5, packP (.request 2) .req) ∈ s.package ∧ (∀ e ∈ s.package, e.2.destination = 7 → e = (5, packP (.request 2) .req)) ∧ 3 ≤ NMap.get (State.region s 0).retries 0 7 ∧
       (State.region s 0).fenced = false) ∧
    (let s : State := { upS with tel := { Telemetry.reset with alarmPath := [occA, occA], logPath := [(7, noteL), (7, noteL)] } }
     (∃ j a, j < 1 ∧ s.tel.alarmPath[j]? = some a ∧ sourceRegion a.kind a.source = sourceRegion occA.kind occA.source) ∧
       (¬ ∃ j a, j < 0 ∧ s.tel.alarmPath[j]? = some a ∧ sourceRegion a.kind a.source = sourceRegion occA.kind occA.source) ∧
       (∃ j e, j < 1 ∧ s.tel.logPath[j]? = some e ∧ mgtPath e.2.kind e.2.source = mgtPath noteL.kind noteL.source) ∧
       ¬ ∃ j e, j < 0 ∧ s.tel.logPath[j]? = some e ∧ mgtPath e.2.kind e.2.source = mgtPath noteL.kind noteL.source) ∧
    Claims.mgtFree (logsS false) noteL.kind noteL.source ∧ Claims.mgtFree (logsS false) 1 7 ∧
    ¬ Claims.mgtFree { upS with tel := { Telemetry.reset with alarmPath := List.replicate 8 { occA with kind := 1, source := 7 } } } 1 7 ∧
    NMap.get (logsS false).tel.windows 0 7 < Claims.window (logsS false) 10000000 (logsS false).timebase ∧
    ((logsS false).tel.drops.filter (fun e => decide (e.1 % 256 / 16 = 7) && decide (e.1 / 256 < Claims.window (logsS false) 10000000 (logsS false).timebase))).length = 1 ∧
    ({ logsS false with tel := { (logsS false).tel with drops := [] } } : State).tel.drops = [] :=
  ⟨fun p => ⟨rfl, rfl, noArrivals_of _ _ (by decide) rfl⟩, by decide,
    ⟨⟨0, occA, by decide, rfl, rfl⟩, (fun ⟨_, _, h, _⟩ => absurd h (Nat.not_lt_zero _)), ⟨0, (7, noteL), by decide, rfl, rfl⟩, (fun ⟨_, _, h, _⟩ => absurd h (Nat.not_lt_zero _))⟩,
    by unfold Claims.mgtFree; decide, by unfold Claims.mgtFree; decide, by unfold Claims.mgtFree; decide, by decide, by decide, rfl⟩

set_option maxRecDepth 20000 in
theorem test_failures : after (.uncontainedCellFailure 383) upS (fun t => decide ((State.block t 63).failedCell = some 383 ∧ t.tel.logPath.length = 1)) = true ∧
    after (.rcHeartbeatTimeout 7) { powerS Proofer.full (regionW 750 0) with regions := [(3, { Region.reset with fenced := true })] } (fun t => decide (t.phase = .faulted)) = true ∧
    after (.alarmOccurrence 0) (alarmS [recA 0x21] false) (fun t => decide (t.tel.alarms.map (fun x => (x.count, x.last)) = [(3, 6)])) = true ∧
    after (.ringWatchdogExpiry 383 31) (stallS false) (fun t => decide ((NMap.find (State.cell t 383).watch 31).map (·.fired) = some true)) = true ∧
    idles (.ringWatchdogExpiry 383 31) (stallS true) = true ∧
    after (.logRecordWrite 7) (logsS false) (fun t => decide (t.tel.logNext = 2 ∧ t.tel.nextBuffer = 8)) = true ∧
    after (.lossRecordWrite 7) (logsS false) (fun t => decide (t.tel.logNext = 2 ∧ (NMap.find t.tel.losses 7).map (·.count) = some 0)) = true ∧
    after (.traceRecord traceR) (traceS 0 true) (fun t => decide (t.tel.trace.write = 2046 ∧ t.out.length = 2)) = true ∧
    after (.traceRecord traceR) (traceS 1 true) (fun t => decide (t.out = [] ∧ t.tel.errFlags = 0x80)) = true := by decide

/-! ### Start-up, power inputs, presence -/

def offS (trip closed : Bool) : State := { State.reset with phase := .off, nv := { NonVolatile.reset with trip := trip, sealClosed := closed } }

theorem witness_StartUpAndPowerDown_inputs : State.wf (offS true true) = true ∧ (offS true true).phase = .off ∧ (offS true true).nv.sealClosed = true ∧
    upS.phase ≠ .off ∧ upS.power.pwrEn = false ∧ { upS with power := { Power.reset with pwrEn := true } }.power.pwrEn = true ∧ State.wf upS = true ∧
    Claims.powered upS ∧ ¬ Claims.powered State.reset ∧ 50000 ≤ 50000 ∧ 35999 < 36000 ∧ Claims.sensorFits sensorW ∧
    (let s : State := { upS with power := { Power.reset with tripped := true, temps := [(sensorW, 89)] } }
     s.power.tripped = true ∧ s.power.pwrEn = false ∧ ∀ e ∈ s.power.temps, e.2 < 90) ∧
    (let s : State := { upS with power := { Power.reset with resetAt := some 0 } }
     s.power.resetAt = some 0 ∧ 0 ≤ s.timebase) :=
  ⟨by decide, by decide, by decide, by decide, by decide, by decide, by decide, by unfold Claims.powered; decide, by unfold Claims.powered; decide, by decide, by decide,
    ⟨by decide, by decide⟩, by decide, by decide⟩

/-- Power is enabled in AUX; dimension 4; Baker has a latched main-input loss. -/
def bootS : State :=
  { State.reset with
    power := { Power.reset with pwrEn := true }
    nv := { NonVolatile.reset with dim := 4, latched := [{ sub := 2, stamp := 9, d1 := 1, d2 := 2, d3 := 0 }] } }
def outcome (regs stks : Nat) (rows : List (Nat × Nat × Nat)) (cells : List Nat) : StartupOutcome :=
  { activeImageOk := true, otherImageOk := false, regionFailed := BitVec.ofNat 8 regs, stackFailed := BitVec.ofNat 16 stks, rowsFailed := rows, cellsFailed := cells }

theorem witness_StartUpAndPowerDown_start : Claims.begins bootS ∧ Claims.fresh bootS ∧ ¬ Claims.begins State.reset ∧
    (NMap.get bootS.banks default (bankKey 511 31)).spared.length < 16 ∧ (State.block bootS (383 / 6)).fenced = false ∧
    (∀ c, (State.cell bootS c).groups = []) ∧ (NMap.get bootS.nv.cellMaps CellMap.reset (383 / 6)).spare = some 6 ∧ bootS.joined = false :=
  ⟨by unfold Claims.begins; decide, ⟨by decide, fun _ => rfl, fun _ => rfl, fun _ => rfl, fun _ => rfl⟩, by unfold Claims.begins; decide, by decide, by decide,
    fun _ => rfl, by decide, by decide⟩

theorem witness_StartUpAndPowerDown_presence : upS.phase ≠ .off ∧ upS.presence.jumper ≠ true ∧ upS.nv.sealClosed = false ∧
    (let s : State := { upS with nv := { NonVolatile.reset with sealClosed := true }, joined := true }
     s.nv.sealClosed = true ∧ s.joined = true ∧ s.nv.rearmBlown < min 64 (s.nv.serviceBlown + 1) ∧ ∀ p, Claims.clearPort s p) :=
  ⟨by decide, by decide, by decide, by decide, by decide, by decide, fun _ => ⟨rfl, rfl, noArrivals_of _ _ (by decide) rfl⟩⟩

set_option maxRecDepth 20000 in
/-- Region 7 and its partner region 3 (R523) fail: FAULTED; region 7 alone does not fault the module. -/
theorem test_startup : after (.startupBegin (outcome 0 0 [] [])) bootS (fun t => decide (t.phase = .up ∧ (State.port t 39).state = .detect)) = true ∧
    after (.startupBegin (outcome 0x80 0 [] [])) bootS (fun t => decide (t.phase = .up ∧ (State.region t 7).fenced = true)) = true ∧
    after (.startupBegin (outcome 0x80 0x80 [] [])) bootS (fun t => decide (t.phase = .faulted)) = true ∧
    after (.startupBegin (outcome 0 0 [(511, 31, 98303)] [])) bootS (fun t => decide ((NMap.get t.banks default (bankKey 511 31)).spared = [98303])) = true ∧
    after (.startupBegin (outcome 0 0 [] [383])) bootS (fun t => decide ((NMap.get t.nv.cellMaps CellMap.reset 63).slots = [0, 1, 2, 3, 4, 6])) = true := by decide

set_option maxRecDepth 20000 in
theorem test_power_inputs : after (.auxPowerOn 5 false true) (offS true true) (fun t => decide (t.phase = .faulted ∧ t.nv.serviceBlown = 1 ∧ t.presence.jumper = true)) = true ∧
    after (.mainInputLoss 1 32999) upS (fun t => decide (t.phase = .aux ∧ t.power.spent = true)) = true ∧
    after (.mainInputLoss 1 33000) upS (fun t => decide (t.phase = .up)) = true ∧
    after (.thermalTrip sensorW 115) upS (fun t => decide (t.phase = .faulted ∧ t.nv.trip = true)) = true ∧
    after .presBtnPress { upS with timebase := 7 } (fun t => decide (t.presence.winEnd = 120000000007 ∧ t.presence.pseq = 1)) = true ∧
    after .sealLoopOpen { upS with nv := { NonVolatile.reset with sealClosed := true } } (fun t => decide (t.nv.serviceBlown = 1 ∧ t.nv.sealClosed = false)) = true := by decide

/-! ### Ill-formed commands -/

set_option maxRecDepth 8000 in
theorem test_wf_assigned : (List.range 256).all (fun op => assigned op = assignedOpcodes.contains op) = true := by decide
theorem test_wf_unassigned_word : (Instr.unassignedOpcode g0 0x2B00000000000000).wellFormed = true ∧ (Instr.unassignedOpcode g0 0xA000000000000000).wellFormed = false := by decide
theorem test_wf_cell : (Instr.nop { cell := 383, slot := 63 } (rf 0 0 0 0 0)).wellFormed = true ∧ (Instr.nop { cell := 384, slot := 0 } (rf 0 0 0 0 0)).wellFormed = false ∧
    (Instr.instructionFetch { cell := 0, slot := 64 }).wellFormed = false := by decide
theorem test_wf_ext_reg : (Instr.iadd g0 { rf 0 0 0 0 0 with ext := 1, x1 := 5 }).wellFormed = true ∧ (Instr.iadd g0 { rf 0 0 0 0 0 with x1 := 5 }).wellFormed = false ∧
    (Instr.iadd g0 { rf 0 0 0 0 0 with ext := 1, x2 := 5 }).wellFormed = false := by decide
theorem test_wf_ext_branch : (Instr.bra g0 { bf 0 0 0 with x1 := 1 }).wellFormed = false := by decide
theorem test_wf_ext_memory : (Instr.ld g0 { mf 0 0 0 0 with x2 := 1 }).wellFormed = false := by decide
theorem test_wf_region : (Instr.paceInterval 7 [] 0).wellFormed = true ∧ (Instr.paceInterval 8 [] 0).wellFormed = false := by decide
theorem test_wf_mailbox : (Instr.doorbellWrite 16 false 1).wellFormed = false ∧ (Instr.cancel 16 0).wellFormed = true ∧ (Instr.cancel 17 0).wellFormed = false := by decide
theorem test_wf_ring : (Instr.groupPlace 63).wellFormed = true ∧ (Instr.groupPlace 64).wellFormed = false := by decide
theorem test_wf_window_access : (Instr.controlWindowBadAccess 2 4 false).wellFormed = true ∧ (Instr.controlWindowBadAccess 8 8 true).wellFormed = false := by decide
theorem test_wf_window_write : (Instr.registerWrite 4 false 0).wellFormed = true ∧ (Instr.registerWrite 4 true 0).wellFormed = false ∧
    (Instr.w1cFlagWrite 6 false 0).wellFormed = false := by decide
theorem test_wf_block_write : (Instr.smbBlockWrite [] true).wellFormed = false ∧ (Instr.oobDoorbellWrite (List.replicate 33 0) true).wellFormed = false :=
  ⟨by decide, rfl⟩
theorem test_wf_sensor : (Instr.thermalSample { cls := .baseDie, unit := 7, index := 3 } 20).wellFormed = true ∧ (Instr.thermalSample { cls := .baseDie, unit := 7, index := 4 } 20).wellFormed = false ∧
    (Instr.thermalTrip { cls := .opticalEngine, unit := 4, index := 0 } 120).wellFormed = false := by decide
theorem test_wf_request : ∀ b ∈ [RequestBody.load 0 0, .store 0 1 [] false, .atomic .add false 2 [], .get 256 255, .get (2 ^ 21 - 256) 512, .put 0 0 (List.replicate 256 0) 0 0, .notify 0 (2 ^ 32)],
    (Instr.load { source := 1, destination := 0, sourceCell := 0, txn := 0, tag := 0, reuse := 0, body := b }).wellFormed = false := by decide
theorem test_wf_request_get : (Instr.get { source := 1, destination := 0, sourceCell := 0, txn := 0, tag := 0, reuse := 0, body := .get 256 512 }).wellFormed = true := by decide
theorem test_wf_answer : (Instr.loadData { source := 16384, txn := 0, status := .done, bytes := [], poison := 0, granule := 0, values := [] }).wellFormed = false := by decide
theorem test_wf_transit : (Instr.packetRoute 0 ⟨{ source := 0, destination := 1, level1 := false, kind := .window }, (some (39, 4095))⟩).wellFormed = true ∧
    (Instr.packetRoute 0 ⟨{ source := 0, destination := 16384, level1 := false, kind := .window }, none⟩).wellFormed = false ∧
    (Instr.packetRoute 0 ⟨{ source := 0, destination := 1, level1 := false, kind := .window }, (some (40, 0))⟩).wellFormed = false := by decide
theorem test_wf_proofer : (Instr.prooferRequest (.electricalPort 4)).wellFormed = true ∧ (Instr.prooferRequest (.opticalPort 4)).wellFormed = false ∧ (Instr.prooferRequest (.slice 0 4)).wellFormed = false := by decide
theorem test_wf_setup : (Instr.setup { group := 0, tag := 0, members := 4, senderPos := 4, receiverPos := 0, sender := 1 }).wellFormed = false := by decide
theorem test_wf_segment :
    (Instr.collectiveSegment { group := 0, source := 0, tag := 0, epoch := 0, chunk := 0, segment := 0, final := false, recipe := false, elements := [1], poisoned := [], headers := [] }).wellFormed = false := by decide
theorem test_wf_flit : (Instr.idleFlit 40 (default : Flit)).wellFormed = false ∧ (Instr.dataFlit 0 { (default : Flit) with payload := [default] }).wellFormed = false := by decide
theorem test_wf_trace : (Instr.traceRecord { source := 8, event := 0, kind := 0, unit := 0, data := 0 }).wellFormed = false := by decide
theorem test_wf_units : (Instr.copyCommand 0 48).wellFormed = false ∧ (Instr.counterIncrement 0 32 1).wellFormed = false ∧ (Instr.drainStart 0 4 0).wellFormed = false ∧
    (Instr.rowSpare 512 0 0).wellFormed = false ∧ (Instr.scaleStallExpiry 4096).wellFormed = false ∧ (Instr.codeword 0 9 default).wellFormed = false := by decide

end Sys2Proof.Tests
end

section
/-!
SUPPORT. What an SMBus Block Write into OOB_ARGS does, and the refutation of O45 that follows from it.
-/

namespace Sys2Proof.Machine

/-- Read after write of a mailbox. -/
@[simp] theorem State.mailbox_modMailbox (s : State) (n k : Nat) (f : Mailbox → Mailbox) :
    State.mailbox (State.modMailbox s n f) k = if n = k then f (State.mailbox s n) else State.mailbox s k := by
  unfold State.mailbox State.modMailbox; exact NMap.get_upd ..

/-- The argument bytes once `bytes` lie in them from byte `a` on. -/
def argsWith (args : NMap Byte) (a : Nat) (bytes : List Byte) : NMap Byte :=
  bytes.zipIdx.foldl (fun r e => NMap.set r 0 (a + e.2) e.1) args

/-- One byte at an address of OOB_ARGS (Table 19.9) goes to the arguments and nowhere else. -/
theorem Mailbox.smbWrite_args (m : Mailbox) (o : Nat) (b : Byte) (lo : 0x900 ≤ o) (hi : o < 0xA00) :
    Mailbox.smbWrite m o b = { m with args := NMap.set m.args 0 (o - 0x900) b } := by
  have notRequest : ¬ (0x800 ≤ o ∧ o < 0x808) := by omega
  have notDoorbell : ¬ (0x838 ≤ o ∧ o < 0x840) := by omega
  rw [Mailbox.smbWrite, if_neg notRequest, if_neg notDoorbell, if_pos ⟨lo, hi⟩]

/-- The same for a list of bytes with their offsets from the pointer `p`, all of which fall in OOB_ARGS. -/
theorem Mailbox.foldl_smbWrite_args (p : Nat) (es : List (Byte × Nat)) (lo : 0x900 ≤ p) (hi : ∀ e ∈ es, p + e.2 < 0xA00) (m : Mailbox) :
    es.foldl (fun m e => Mailbox.smbWrite m ((p + e.2) % 0x1000) e.1) m =
      { m with args := es.foldl (fun r e => NMap.set r 0 (p - 0x900 + e.2) e.1) m.args } := by
  induction es generalizing m with
  | nil => rfl
  | cons e es ih =>
    have he : p + e.2 < 0xA00 := hi e (List.mem_cons_self ..)
    have noWrap : (p + e.2) % 0x1000 = p + e.2 := by omega
    have offset : p + e.2 - 0x900 = p - 0x900 + e.2 := by omega
    rw [List.foldl_cons, noWrap, Mailbox.smbWrite_args m _ _ (by omega) he, offset, ih (fun x hx => hi x (List.mem_cons_of_mem _ hx)),
      List.foldl_cons]

/-- A Block Write inside OOB_ARGS (R555): the arguments take the bytes and the pointer advances, and DOORBELL_OOB, though not addressed, loses
what it holds in its reserved bits (R10). -/
theorem exec_smbBlockWrite_args (s : State) (bytes : List Byte) (on : s.phase ≠ .off) (nonempty : bytes ≠ []) (len : bytes.length ≤ 32)
    (req : (State.mailbox s 16).request.toNat < 2 ^ 44) (lo : 0x900 ≤ s.host.smbPointer) (hi : s.host.smbPointer + bytes.length ≤ 0xA00) :
    exec (.smbBlockWrite bytes true) s =
      .next (State.modMailbox { s with host := { s.host with smbPointer := s.host.smbPointer + bytes.length } } 16 (fun m =>
        { m with args := argsWith m.args (s.host.smbPointer - 0x900) bytes, doorbell := doorbellImage m.doorbell.toNat })) := by
  have taken : ¬ (s.phase = .off ∨ bytes.isEmpty = true ∨ 32 < bytes.length) := by
    rintro (h | h | h)
    · exact on h
    · exact nonempty (List.isEmpty_iff.mp h)
    · omega
  have inArgs : ∀ e ∈ bytes.zipIdx, s.host.smbPointer + e.2 < 0xA00 := fun e he => by
    have := List.snd_lt_of_mem_zipIdx he
    omega
  have quiet : (List.range bytes.length).any (fun i => decide ((s.host.smbPointer + i) % 0x1000 = 0x838)) = false := by
    rw [List.any_eq_false]
    intro i hi'
    have := List.mem_range.mp hi'
    rw [decide_eq_true_eq]
    omega
  have noWrap : (s.host.smbPointer + bytes.length) % 0x1000 = s.host.smbPointer + bytes.length := by omega
  have unreserved : ∀ a, Mailbox.reservedSet { State.mailbox s 16 with args := a } = false := fun _ => decide_eq_false (Nat.not_le.mpr req)
  show State.smbBlock s bytes true = _
  unfold State.smbBlock
  rw [if_neg taken]
  simp only [Mailbox.foldl_smbWrite_args _ _ lo inArgs, unreserved, quiet, noWrap]
  rfl

end Sys2Proof.Machine

open Sys2Proof Sys2Proof.Machine

/-- Refutes O45: its clause on Block Writes into OOB_ARGS says that mailbox 16 keeps everything but its arguments, but the write also clears the
reserved bits of DOORBELL_OOB (assumption 33), so it fails where one of them is set. The state below holds bit 16 there; the clause does not exclude it. -/
theorem not_registerWrites : ¬ Obligations.RegisterWrites := by
  unfold Obligations.RegisterWrites
  rintro ⟨-, -, -, -, -, -, -, blockWrite, -⟩
  obtain ⟨t, run, -, -, kept, -⟩ := blockWrite
    { State.reset with
      phase := .up
      host := { HostSide.reset with smbPointer := 0x900, mailboxes := [(16, { Mailbox.reset with doorbell := 2 ^ 16 })] } }
    [1] (by decide) (by decide) (by decide) (by decide) (by decide) (by decide)
  rw [exec_smbBlockWrite_args _ [1] (by decide) (by decide) (by decide) (by decide) (by decide) (by decide)] at run
  cases run
  rw [State.mailbox_modMailbox, if_pos rfl] at kept
  have doorbell : doorbellImage (2 ^ 16) = 2 ^ 16 := congrArg Mailbox.doorbell kept
  exact absurd doorbell (by decide)

end

section
/-!
SUPPORT. Requests at rest: where every request stands at its home and no cell holds anything back, nothing moves on (R24, R134, R138), and where no
request is outstanding to a failed module there is nothing to settle (R394).
-/

namespace Sys2Proof.Machine

/-- A fold each of whose steps leaves the start as it is ends where it began. -/
theorem foldl_fixed {α β : Type} {f : β → α → β} {l : List α} {b : β} (h : ∀ a ∈ l, f b a = b) : l.foldl f b = b := by
  induction l with
  | nil => rfl
  | cons a r ih => rw [List.foldl_cons, h a (List.mem_cons_self ..), ih (fun x hx => h x (List.mem_cons_of_mem _ hx))]

/-- What a map lists at a key is one of its entries. -/
theorem NMap.mem_of_find {V : Type} {m : NMap V} {k : Nat} {v : V} (h : NMap.find m k = some v) : (k, v) ∈ m := by
  induction m with
  | nil => cases h
  | cons e r ih =>
    obtain ⟨j, w⟩ := e
    by_cases hj : j = k
    · rw [NMap.find, if_pos hj] at h
      cases h; subst hj; exact List.mem_cons_self ..
    · rw [NMap.find, if_neg hj] at h
      exact List.mem_cons_of_mem _ (ih h)

/-- What an erasure leaves were entries before. -/
theorem NMap.mem_of_mem_erase {V : Type} {m : NMap V} {k : Nat} {e : Nat × V} (h : e ∈ NMap.erase m k) : e ∈ m := by
  rcases List.mem_append.1 h with h | h <;> exact (List.mem_filter.1 h).1

/-- An entry after an insertion is the new one, or was there before. -/
theorem NMap.mem_of_mem_insert {V : Type} {m : NMap V} {k : Nat} {v : V} {e : Nat × V} (h : e ∈ NMap.insert m k v) : e = (k, v) ∨ e ∈ NMap.erase m k := by
  rcases List.mem_append.1 h with h | h
  · exact .inr (List.mem_append_left _ h)
  · rcases List.mem_cons.1 h with rfl | h
    · exact .inl rfl
    · exact .inr (List.mem_append_right _ h)

/-! ### Nothing moves -/

/-- A request at its home is granted nothing more. -/
theorem State.grantPackage_home {s : State} (h : ∀ e ∈ s.homeQueue, e.2.stage = .home) : State.grantPackage s = s := by
  refine foldl_fixed (fun e _ => ?_)
  split
  · rfl
  · next q hq =>
    have home : q.stage = .home := h _ (NMap.mem_of_find hq)
    split
    · rfl
    · rw [if_neg (by rw [home]; exact fun c => nomatch c.1)]

theorem State.leaveCell_home {s : State} (h : ∀ e ∈ s.homeQueue, e.2.stage = .home) (id : Nat) : State.leaveCell s id = s := by
  unfold State.leaveCell
  split
  · rfl
  · next q hq =>
    have home : q.stage = .home := h _ (NMap.mem_of_find hq)
    split
    · rfl
    · dsimp only
      rw [if_neg (by rw [home]; exact fun c => nomatch c.1)]

theorem State.grantRound_home {s : State} (h : ∀ e ∈ s.homeQueue, e.2.stage = .home) : State.grantRound s = s := by
  have crossing : s.homeQueue.filterMap (fun e => if e.2.stage = .crossbar then (HomeSource.cell? e.2.source).map blockOf else none) = [] :=
    List.filterMap_eq_nil_iff.2 (fun e he => if_neg (by rw [h e he]; exact fun c => nomatch c))
  unfold State.grantRound
  dsimp only
  rw [State.grantPackage_home h, crossing]
  exact foldl_fixed (fun e _ => State.leaveCell_home h e.1)

theorem State.grant_home {s : State} (h : ∀ e ∈ s.homeQueue, e.2.stage = .home) : State.grant s = s := by
  show State.grantUpTo _ s = s
  rw [State.grantUpTo, State.grantRound_home h, if_pos rfl]

/-- A cell that holds nothing lets nothing go. -/
theorem State.flushHeld_none {s : State} (h : Claims.nothingMoves s) (c : Nat) : State.flushHeld s c = s := by
  obtain ⟨home, held⟩ := h
  obtain ⟨remote, own⟩ := held c
  unfold State.flushHeld
  rw [remote, own]
  show State.flushUpTo 1 s c = s
  have once : State.flushOnce (State.grant s) c = s := by
    rw [State.grant_home home]
    unfold State.flushOnce
    dsimp only
    rw [own, List.foldl_nil, remote, List.foldl_nil]
  rw [State.flushUpTo, once]
  exact if_neg (Nat.lt_irrefl _)

/-- With every request at home and nothing held back, nothing moves on. -/
theorem State.moveOn_none {s : State} (h : Claims.nothingMoves s) (p : Nat → Bool) : State.moveOn s p = s := by
  unfold State.moveOn
  rw [State.grant_home h.1]
  refine foldl_fixed (fun e _ => ?_)
  split
  · exact State.flushHeld_none h e.1
  · rfl

/-- A step that leaves or removes requests, and leaves what the cells hold, leaves them at rest. -/
theorem nothingMoves_of {s t : State} (h : Claims.nothingMoves s) (queue : ∀ e ∈ t.homeQueue, e.2.stage = .home ∨ e ∈ s.homeQueue)
    (held : ∀ c, (State.cell t c).held = (State.cell s c).held ∧ (State.cell t c).heldLocal = (State.cell s c).heldLocal) : Claims.nothingMoves t := by
  obtain ⟨home, none⟩ := h
  refine ⟨fun e he => (queue e he).elim id (home e), fun c => ?_⟩
  rw [(held c).1, (held c).2]
  exact none c

/-! ### Nothing to settle -/

theorem State.settleUpTo_none {s : State} {r : Nat} (h : ∀ e ∈ (State.region s r).txns, NMap.find s.fabric.failed e.2.packet.destination = none) (n : Nat) :
    State.settleUpTo n s r = s := by
  cases n with
  | zero => rfl
  | succ n =>
    have absent : (State.region s r).txns.find? (fun e => (NMap.find s.fabric.failed e.2.packet.destination).isSome) = none :=
      List.find?_eq_none.2 (fun e he => by rw [h e he]; exact Bool.false_ne_true)
    rw [State.settleUpTo, absent]

/-- With no request outstanding to a failed module there is none to answer. -/
theorem State.settleAll_none {s : State} (h : Claims.allSettled s) : State.settleAll s = s :=
  foldl_fixed (fun r _ => State.settleUpTo_none (h r) _)

/-- A step that leaves the transaction tables and the failed modules leaves nothing to settle. -/
theorem allSettled_of {s t : State} (h : Claims.allSettled s) (txns : ∀ r, (State.region t r).txns = (State.region s r).txns)
    (failed : t.fabric.failed = s.fabric.failed) : Claims.allSettled t := by
  intro r e he
  rw [txns] at he
  rw [failed]
  exact h r e he

end Sys2Proof.Machine
end

section
/-!
SUPPORT. The operations of an atomic (R104, R107, R155): they are those the statements name, and a result fits in the word it is stored to.
-/

namespace Sys2Proof.Machine

/-! ### A rounded S32 value is a 32-bit pattern -/

theorem lt_two_pow_bitLen (m : Nat) : m < 2 ^ bitLen m := by
  unfold bitLen
  split
  · next h => rw [h]; exact Nat.one_pos
  · exact Nat.lt_log2_self

/-- A magnitude below 2^n units before rounding has at most 2^n after it. -/
theorem roundMag_le (mode : Round) (neg : Bool) (m n : Nat) (e q : Int) (h : e + bitLen m ≤ q + n) : roundMag mode neg m e q ≤ 2 ^ n := by
  have width := lt_two_pow_bitLen m
  unfold roundMag
  split
  · next hq =>
    calc m * 2 ^ (e - q).toNat ≤ 2 ^ bitLen m * 2 ^ (e - q).toNat := Nat.mul_le_mul_right _ width.le
      _ = 2 ^ (bitLen m + (e - q).toNat) := (Nat.pow_add ..).symm
      _ ≤ 2 ^ n := Nat.pow_le_pow_right (by decide) (by omega)
  · next hq =>
    have quotient : m / 2 ^ (q - e).toNat < 2 ^ n := by
      refine Nat.div_lt_of_lt_mul (lt_of_lt_of_le width ?_)
      rw [← Nat.pow_add]
      exact Nat.pow_le_pow_right (by decide) (by omega)
    have rounded : ∀ up : Bool, (if up then m / 2 ^ (q - e).toNat + 1 else m / 2 ^ (q - e).toNat) ≤ 2 ^ n := fun up => by
      cases up
      · exact quotient.le
      · exact quotient
    exact rounded _

/-- A normal magnitude within the largest finite S32 value has an exponent field of at most 254. -/
theorem exponent_le {t : Nat} {q : Int} (h : magLe t q (2 ^ 24 - 1) 104 = true) (k : Nat) (ht : 2 ^ (23 + k) ≤ t) : q + k ≤ 104 := by
  by_contra beyond
  unfold magLe at h
  split at h <;> rw [decide_eq_true_eq] at h
  · have big : 2 ^ 24 * 2 ^ (104 - q).toNat ≤ t := by
      rw [← Nat.pow_add]
      exact le_trans (Nat.pow_le_pow_right (by decide) (by omega)) ht
    have := Nat.two_pow_pos (104 - q).toNat
    omega
  · have big : 2 ^ 24 ≤ t * 2 ^ (q - 104).toNat := by
      calc 2 ^ 24 ≤ 2 ^ (23 + k + (q - 104).toNat) := Nat.pow_le_pow_right (by decide) (by omega)
        _ = 2 ^ (23 + k) * 2 ^ (q - 104).toNat := Nat.pow_add ..
        _ ≤ t * 2 ^ (q - 104).toNat := Nat.mul_le_mul_right _ ht
    omega

/-- A finite value rounded to S32, with its sign, is a 32-bit pattern (Table 6.1). -/
theorem encodeFinite_s32_lt (neg : Bool) (m : Nat) (e : Int) :
    (encodeFinite { eb := 8, fb := 23, bias := 127, top := .ieee } .rne false neg m e).bits < 2 ^ 32 := by
  have sign : signBit { eb := 8, fb := 23, bias := 127, top := .ieee } neg ≤ 2 ^ 31 := by cases neg <;> decide
  unfold encodeFinite
  dsimp only
  generalize signBit _ neg = s at sign ⊢
  split
  · show s < _; omega
  generalize hq : (if e + (bitLen m : Int) - 1 < 1 - 127 then (1 - 127 : Int) else e + bitLen m - 1) - ((23 : Nat) : Int) = q
  have rounded : roundMag .rne neg m e q ≤ 2 ^ 24 := roundMag_le _ _ _ _ _ _ (by split at hq <;> omega)
  generalize roundMag .rne neg m e q = t at rounded ⊢
  split
  · show (if _ then _ else _ : Conv).bits < _
    split
    · show s + (2 ^ 8 - 1) * 2 ^ 23 < 2 ^ 32; omega
    · show s + ((2 ^ 8 - 2) * 2 ^ 23 + (2 ^ 23 - 1)) < 2 ^ 32; omega
  · next within =>
    have fits : magLe t q (2 ^ 24 - 1) 104 = true := by
      cases h : magLe t q (2 ^ 24 - 1) 104
      · exact absurd (show (!magLe t q _ _) = true from by rw [show magLe t q (maxFinite { eb := 8, fb := 23, bias := 127, top := .ieee }).1 (maxFinite { eb := 8, fb := 23, bias := 127, top := .ieee }).2.1 = false from h]; rfl) within
      · rfl
    split
    · show s + t < _; omega
    · next normal =>
      by_cases top : t = 2 ^ (23 + 1)
      · have := exponent_le fits 1 (by omega)
        rw [if_pos top]
        show s + (q + 1 + 23 + 127).toNat * 2 ^ 23 + (2 ^ 23 - 2 ^ 23) < 2 ^ 32
        omega
      · have := exponent_le fits 0 (by omega)
        rw [if_neg top]
        show s + (q + 23 + 127).toNat * 2 ^ 23 + (t - 2 ^ 23) < 2 ^ 32
        omega

theorem fAdd_rne_lt (a b : Nat) : fAdd .rne a b < 2 ^ 32 := by
  show (encodeNum 0 .rne false _).bits < _
  generalize Num.add _ _ _ = v
  cases v with
  | nan => exact (by decide : (0x7FC00000 : Nat) < 2 ^ 32)
  | inf neg => cases neg <;> decide
  | fin neg m e => exact encodeFinite_s32_lt neg m e

/-! ### The operations -/

/-- The signed order of n-bit patterns, by value and as bit vectors. -/
theorem sgn_le_iff_sle {w : Nat} (hw : w = 32 ∨ w = 64) (v b : Nat) : decide (sgn w v ≤ sgn w b) = (BitVec.ofNat w v).sle (BitVec.ofNat w b) := by
  have value : ∀ x, sgn w x = (BitVec.ofNat w x).toInt := fun x => by
    rw [BitVec.toInt_eq_toNat_cond, BitVec.toNat_ofNat]
    unfold sgn
    rcases hw with rfl | rfl <;> split <;> split <;> omega
  rw [value, value]
  rfl

theorem atomicFn_eq {w : Nat} (hw : w = 32 ∨ w = 64) (op : AtomicOp) (signed : Bool) (v b c : Nat) :
    atomicFn op signed w v b c = Claims.atomicValue op signed w v b c := by
  cases op with
  | min => cases signed <;> simp only [atomicFn, Claims.atomicValue, sgn_le_iff_sle hw, if_true, Bool.false_eq_true, if_false]
  | max => cases signed <;> simp only [atomicFn, Claims.atomicValue, sgn_le_iff_sle hw, if_true, Bool.false_eq_true, if_false]
  | _ => rfl

/-- An atomic on w-bit words leaves a w-bit word. -/
theorem atomicValue_lt {w : Nat} (hw : w = 32 ∨ w = 64) (op : AtomicOp) (signed : Bool) {v b : Nat} (c : Nat) (hv : v < 2 ^ w) (hb : b < 2 ^ w) :
    Claims.atomicValue op signed w v b c < 2 ^ w := by
  cases op with
  | add => exact Nat.mod_lt _ (Nat.two_pow_pos w)
  | min => exact ite_lt_two_pow hv hb
  | max => exact ite_lt_two_pow hb hv
  | and => exact lt_of_le_of_lt Nat.and_le_left hv
  | or => exact Nat.or_lt_two_pow hv hb
  | xor => exact Nat.xor_lt_two_pow hv hb
  | xch => exact hb
  | cas => exact ite_lt_two_pow hb hv
  | fadd => exact lt_of_lt_of_le (fAdd_rne_lt v b) (by rcases hw with rfl | rfl <;> decide)
where
  ite_lt_two_pow {p : Prop} [Decidable p] {x y w : Nat} (hx : x < 2 ^ w) (hy : y < 2 ^ w) : (if p then x else y) < 2 ^ w := by
    split
    · exact hx
    · exact hy

end Sys2Proof.Machine
end

section
/-!
SUPPORT. The lines of a region cache, and the way a request that has come to its home is taken (R345 to R347, R352).
-/

namespace Sys2Proof.Machine

/-! ### What changes with a line -/

theorem onlyRegionCache_trans {s t u : State} {r : Nat} (h : Claims.onlyRegionCache s t r) (k : Claims.onlyRegionCache t u r) :
    Claims.onlyRegionCache s u r := by
  obtain ⟨⟨_, _, hr⟩, ho⟩ := h
  obtain ⟨⟨ca, nw, kr⟩, ko⟩ := k
  exact ⟨⟨ca, nw, by rw [kr, hr]⟩, fun d hd => (ko d hd).trans (ho d hd)⟩

theorem onlyRegionCache_of_regions {s t : State} (r : Nat) (h : t.regions = s.regions) : Claims.onlyRegionCache s t r :=
  ⟨⟨(State.region s r).cache, (State.region s r).network, State.region_congr h r⟩, fun k _ => State.region_congr h k⟩

theorem onlyRegionCache_setRegion (s : State) (r : Nat) (ca : NMap (List RegionLine)) (nw : Arbiter) :
    Claims.onlyRegionCache s (State.setRegion s r { State.region s r with cache := ca, network := nw }) r :=
  ⟨⟨ca, nw, by rw [State.region_setRegion, if_pos rfl]⟩, fun k hk => by rw [State.region_setRegion, if_neg (Ne.symm hk)]⟩

/-- The transaction tables are as they were. -/
theorem onlyRegionCache_txns {s t : State} {r : Nat} (h : Claims.onlyRegionCache s t r) (k : Nat) : (State.region t k).txns = (State.region s k).txns := by
  obtain ⟨⟨ca, nw, here⟩, others⟩ := h
  by_cases hk : k = r
  · rw [hk, here]
  · rw [others k hk]

/-- Of the module only the cache and the arbiter of region `r`, and counters, have changed. -/
def AtCache (s t : State) (r : Nat) : Prop := t = { s with regions := t.regions, tel := t.tel } ∧ Claims.onlyRegionCache s t r

theorem AtCache.trans {s t u : State} {r : Nat} (h : AtCache s t r) (k : AtCache t u r) : AtCache s u r :=
  ⟨by rw [k.1, h.1], onlyRegionCache_trans h.2 k.2⟩

theorem AtCache.cell {s t : State} {r : Nat} (h : AtCache s t r) (c : Nat) : State.cell t c = State.cell s c := by rw [h.1]; rfl
theorem AtCache.byteAt {s t : State} {r : Nat} (h : AtCache s t r) (q o : Nat) : State.byteAt t q o = State.byteAt s q o := by rw [h.1]; rfl
theorem AtCache.sectorPoisoned {s t : State} {r : Nat} (h : AtCache s t r) (q o : Nat) : State.sectorPoisoned t q o = State.sectorPoisoned s q o := by
  rw [h.1]; rfl
theorem AtCache.unsettledGlobal {s t : State} {r : Nat} (h : AtCache s t r) (fa : Nat) : State.unsettledGlobal t fa = State.unsettledGlobal s fa := by
  rw [h.1]; rfl

theorem State.count_eq (s : State) (k : Counter) (p i n : Nat) :
    State.count s k p i n = { s with tel := Telemetry.count s.tel s.timebase k p i n } := rfl

theorem atCache_count (s : State) (k : Counter) (p i n r : Nat) : AtCache s (State.count s k p i n) r :=
  ⟨by rw [State.count_eq], onlyRegionCache_of_regions r (State.count_regions ..)⟩

/-- A grant touches the arbiter of its region. -/
theorem atCache_homeGranted (s : State) (q : HomeRequest) : AtCache s (State.homeGranted s q) q.region := ⟨rfl, onlyRegionCache_setRegion ..⟩

theorem atCache_setRegionLines (s : State) (r o : Nat) (l : List RegionLine) : AtCache s (State.setRegionLines s r o l) r :=
  ⟨rfl, onlyRegionCache_setRegion ..⟩

/-! ### Read after write of a line -/

@[simp] theorem State.regionLines_setRegionLines (s : State) (r o : Nat) (l : List RegionLine) :
    State.regionLines (State.setRegionLines s r o l) r o = l := by
  unfold State.regionLines State.setRegionLines
  rw [State.region_setRegion, if_pos rfl, NMap.get_set, if_pos rfl]

/-- The line at the head of its set is the one that is found. -/
theorem State.regionLine_setRegionLines (s : State) (r o : Nat) (x : RegionLine) (l : List RegionLine) (h : x.line = o / 128) :
    State.regionLine (State.setRegionLines s r o (x :: l)) r o = some x := by
  unfold State.regionLine
  rw [State.regionLines_setRegionLines, List.find?_cons, decide_eq_true h]

theorem State.regionLine_line {s : State} {r o : Nat} {l : RegionLine} (h : State.regionLine s r o = some l) : l.line = o / 128 :=
  by unfold State.regionLine at h; simpa using List.find?_some h

/-- Offsets of one line name the same line. -/
theorem State.regionLine_of_sameLine (s : State) (r : Nat) {o p : Nat} (h : o / 128 = p / 128) : State.regionLine s r o = State.regionLine s r p := by
  unfold State.regionLine State.regionLines regionSet
  rw [h]

/-- A line that is there is changed, and nothing else but its place in the set. -/
theorem State.touchRegion_line {s : State} {r o : Nat} {l : RegionLine} (h : State.regionLine s r o = some l) (f : RegionLine → RegionLine)
    (hf : ∀ x, (f x).line = x.line) :
    AtCache s (State.touchRegion s r o f) r ∧ State.regionLine (State.touchRegion s r o f) r o = some (f l) := by
  have found : (State.regionLines s r o).find? (fun x => decide (x.line = o / 128)) = some l := h
  have at_ : (f l).line = o / 128 := (hf l).trans (State.regionLine_line h)
  unfold State.touchRegion
  dsimp only
  rw [found]
  exact ⟨atCache_setRegionLines .., State.regionLine_setRegionLines _ _ _ _ _ at_⟩

theorem State.hitClass_line (s : State) (r o cls : Nat) (tag : Half) (x : RegionLine) : (State.hitClass s r o cls tag x).line = x.line := by
  unfold State.hitClass; dsimp only; split_ifs <;> rfl

theorem State.hitClass_valid (s : State) (r o cls : Nat) (tag : Half) (x : RegionLine) : (State.hitClass s r o cls tag x).valid = x.valid := by
  unfold State.hitClass; dsimp only; split_ifs <;> rfl

theorem State.useLine_line {s : State} {r o : Nat} {l : RegionLine} (h : State.regionLine s r o = some l) (cls : Nat) (tag : Half) (copyRead : Bool) :
    AtCache s (State.useLine s r o cls tag copyRead) r ∧
      ∃ l', State.regionLine (State.useLine s r o cls tag copyRead) r o = some l' ∧ l'.valid = l.valid := by
  obtain ⟨step, line⟩ := State.touchRegion_line h (fun x => if copyRead then x else State.hitClass s r o cls tag x)
    (fun x => by split_ifs; exacts [rfl, State.hitClass_line ..])
  exact ⟨step, _, line, by split_ifs; exacts [rfl, State.hitClass_valid ..]⟩

theorem State.useRead_line {s : State} {r o : Nat} {l : RegionLine} (h : State.regionLine s r o = some l) : AtCache s (State.useRead s r o) r :=
  (State.touchRegion_line h _ (fun x => by split_ifs <;> rfl)).1

theorem mem_dedupe {α : Type} [BEq α] [LawfulBEq α] (l : List α) (x : α) : x ∈ dedupe l ↔ x ∈ l := by
  have gather : ∀ (l a : List α), x ∈ l.foldl (fun a x => if a.contains x then a else x :: a) a ↔ x ∈ a ∨ x ∈ l := by
    intro l
    induction l with
    | nil => simp
    | cons y r ih =>
      intro a
      rw [List.foldl_cons, ih]
      by_cases hy : y ∈ a
      · rw [if_pos (List.contains_iff_mem.2 hy), List.mem_cons]
        exact ⟨fun h => h.elim .inl (fun h => .inr (.inr h)), fun h => h.elim .inl (fun h => h.elim (fun e => .inl (e ▸ hy)) .inr)⟩
      · rw [if_neg (fun c => hy (List.contains_iff_mem.1 c)), List.mem_cons, List.mem_cons]
        tauto
  unfold dedupe
  rw [List.mem_reverse, gather]
  simp

/-- A written sector of a line that is there is valid. -/
theorem State.dirtySector_line {s : State} {r o : Nat} {l : RegionLine} (h : State.regionLine s r o = some l) :
    AtCache s (State.dirtySector s r o) r ∧ ∃ l', State.regionLine (State.dirtySector s r o) r o = some l' ∧ o / 32 % 4 ∈ l'.valid := by
  obtain ⟨step, line⟩ := State.touchRegion_line h (fun x => RegionLine.write x (o / 32 % 4)) (fun _ => rfl)
  exact ⟨step, _, line, (mem_dedupe ..).2 (List.mem_append_right _ (List.mem_singleton_self _))⟩

/-- With a free way a line that is not there is allocated, no sector valid. -/
theorem State.allocate_freeWay {s : State} {r o : Nat} (absent : State.regionLine s r o = none) (way : (State.regionLines s r o).length < 12) (cls : Nat)
    (tag : Half) : ∃ t l, State.allocate s r o cls tag = some t ∧ AtCache s t r ∧ State.regionLine t r o = some l ∧ l.valid = [] := by
  have none_ : (State.regionLines s r o).any (fun x => decide (x.line = o / 128)) = false :=
    List.any_eq_false.2 (fun x hx => List.find?_eq_none.1 absent x hx)
  unfold State.allocate
  dsimp only
  rw [none_, if_neg Bool.false_ne_true, if_pos way]
  refine ⟨_, _, rfl, ?_, State.regionLine_setRegionLines _ _ _ _ _ rfl, rfl⟩
  split
  · exact (atCache_count ..).trans (atCache_setRegionLines ..)
  · exact atCache_setRegionLines ..

/-! ### The way a request takes -/

section
variable {s : State} {id c slot : Nat} {q : HomeRequest}

/-- The request waits for nothing but its line. -/
theorem State.homeWay_atHome (h : Claims.atHome s id c slot q) :
    ¬ ((!(decide (q.stage = .home) || (decide (q.stage = .network) && (HomeSource.cell? q.source).elim false (fun c => decide (regionOf c = q.region))))
        || q.joined.isSome || !State.inOrder s id q) = true) ∧ ¬ ((!q.populated || !State.regionServes s q.region) = true) := by
  obtain ⟨-, source, stage, joined, order, -, populated, -, serves, -⟩ := h
  rw [joined, order, populated, serves, source]
  refine ⟨?_, by decide⟩
  rcases stage with stage | ⟨stage, region⟩
  · rw [stage]; simp
  · rw [stage]; simp [HomeSource.cell?, region]

theorem State.homeWay_hit (h : Claims.atHome s id c slot q) (unit : HomeBody.isUnit q.body = false)
    (holds : State.holds s q.region q.line (HomeBody.needs q.body) = true) : State.homeWay s id q = some .hit := by
  obtain ⟨ready, serves⟩ := State.homeWay_atHome h
  obtain ⟨-, -, -, -, -, -, -, -, -, -, fill, -⟩ := h
  unfold State.homeWay
  dsimp only
  rw [if_neg ready, if_neg serves, unit, if_neg Bool.false_ne_true, fill]
  dsimp only
  rw [if_pos holds]

theorem State.homeWay_allocates (h : Claims.atHome s id c slot q) (unit : HomeBody.isUnit q.body = false)
    (lacks : State.holds s q.region q.line (HomeBody.needs q.body) = false) {t : State} (way : State.allocate s q.region q.line q.cls q.tag = some t)
    {w : HomeWay} (room : (if (HomeBody.needs q.body).isEmpty then some HomeWay.install else if State.stackRoom t q.region q.line then some .fill else none) = some w) :
    State.homeWay s id q = some w := by
  obtain ⟨ready, serves⟩ := State.homeWay_atHome h
  obtain ⟨-, -, -, -, -, -, -, -, -, -, fill, -⟩ := h
  unfold State.homeWay
  dsimp only
  rw [if_neg ready, if_neg serves, unit, if_neg Bool.false_ne_true, fill]
  dsimp only
  rw [lacks, if_neg Bool.false_ne_true, way]
  exact room

/-- The request is taken its way; what is left at rest stays so. -/
theorem exec_homeRequest_of {w : HomeWay} {t : State} (h : Claims.atHome s id c slot q) (way : State.homeWay s id q = some w)
    (take : State.takeHome (State.homeGranted s q) id q w = t) (rest : Claims.nothingMoves t) (settled : Claims.allSettled t) :
    exec (.homeRequest id) s = .next t := by
  obtain ⟨found, -, -, -, -, turn, -⟩ := h
  show Host.Outcome.next (State.settleAll (State.homeRequest s id)) = _
  unfold State.homeRequest
  rw [found]
  dsimp only
  rw [way]
  dsimp only
  rw [if_pos turn, take, State.moveOn_none rest, State.settleAll_none settled]

/-- With the request gone everything is at rest. -/
theorem nothingMoves_taken (h : Claims.atHome s id c slot q) {t : State} (queue : t.homeQueue = NMap.erase s.homeQueue id)
    (held : ∀ d, (State.cell t d).held = (State.cell s d).held ∧ (State.cell t d).heldLocal = (State.cell s d).heldLocal) : Claims.nothingMoves t := by
  obtain ⟨-, -, -, -, -, -, -, -, -, -, -, rest, -⟩ := h
  exact nothingMoves_of rest (fun e he => .inr (queue ▸ he)) held

theorem allSettled_taken (h : Claims.atHome s id c slot q) {t : State} (cache : Claims.onlyRegionCache s t q.region) (fabric : t.fabric = s.fabric) :
    Claims.allSettled t := by
  obtain ⟨-, -, -, -, -, -, -, -, -, -, -, -, settled⟩ := h
  exact allSettled_of settled (onlyRegionCache_txns cache) (by rw [fabric])

theorem atCache_taken (s : State) (id : Nat) (q : HomeRequest) : AtCache (State.taken s id) (State.taken (State.homeGranted s q) id) q.region :=
  ⟨rfl, onlyRegionCache_setRegion ..⟩

/-- A request served by a line that is there: the line's sectors stay valid. -/
theorem State.takeHome_hit {l : RegionLine} (line : State.regionLine s q.region q.line = some l) : ∃ t l',
    State.takeHome (State.homeGranted s q) id q .hit = State.perform t id q ∧ AtCache (State.taken s id) t q.region ∧
      State.regionLine t q.region q.line = some l' ∧ l'.valid = l.valid := by
  have granted : State.regionLine (State.count (State.taken (State.homeGranted s q) id) .rcHit 0 q.region 1) q.region q.line = some l := by
    rw [← line]
    show (NMap.get (State.region (State.homeGranted s q) q.region).cache [] _).find? _ = (NMap.get (State.region s q.region).cache [] _).find? _
    unfold State.homeGranted
    rw [State.region_setRegion, if_pos rfl]
  obtain ⟨step, l', line', valid⟩ := State.useLine_line granted q.cls q.tag (HomeSource.copies q.source && HomeBody.isRead q.body)
  exact ⟨_, l', rfl, ((atCache_taken s id q).trans (atCache_count ..)).trans step, line', valid⟩

end

end Sys2Proof.Machine
end

section
/-!
SUPPORT. Bytes of stacked memory: what a store to a sector, and the words of an atomic, leave at every address (R155, R356).
-/

namespace Sys2Proof.Machine

theorem homeKey_add (r o i : Nat) : homeKey r (o + i) = homeKey r o + i := by unfold homeKey; omega

/-- Of the module only stacked memory, and what it says of code pages, has changed. -/
def AtMemory (s t : State) : Prop := t = { s with mem := t.mem, codeWrites := t.codeWrites }

theorem AtMemory.trans {s t u : State} (h : AtMemory s t) (k : AtMemory t u) : AtMemory s u := by
  unfold AtMemory at *
  rw [k, h]

theorem atMemory_setByte (s : State) (r o : Nat) (b : Byte) : AtMemory s (State.setByte s r o b) := rfl

theorem atMemory_foldl {α : Type} {f : State → α → State} (hf : ∀ s a, AtMemory s (f s a)) (l : List α) (s : State) : AtMemory s (l.foldl f s) :=
  foldl_keeps (AtMemory s) f (fun t a h => h.trans (hf t a)) l s rfl

/-! ### A store to one sector -/

/-- Bytes written one by one at places of their own: each address reads as the byte written there, else as before. -/
theorem State.byteAt_setBytes {r base : Nat} {put : Nat × Byte → Nat} (bs : NMap Byte) (places : ∀ e ∈ bs, put e = base + e.1)
    (distinct : bs.Pairwise (fun a b => a.1 < b.1)) (s : State) :
    (∀ j, State.byteAt (bs.foldl (fun s e => State.setByte s r (put e) e.2) s) r (base + j) = (NMap.find bs j).getD (State.byteAt s r (base + j))) ∧
    ∀ q p, (∀ e ∈ bs, homeKey q p ≠ homeKey r base + e.1) →
      State.byteAt (bs.foldl (fun s e => State.setByte s r (put e) e.2) s) q p = State.byteAt s q p := by
  induction bs generalizing s with
  | nil => exact ⟨fun _ => rfl, fun _ _ _ => rfl⟩
  | cons e bs ih =>
    obtain ⟨above, rest⟩ := List.pairwise_cons.1 distinct
    have here : put e = base + e.1 := places e (List.mem_cons_self ..)
    obtain ⟨inside, outside⟩ := ih (fun x hx => places x (List.mem_cons_of_mem _ hx)) rest (State.setByte s r (put e) e.2)
    refine ⟨fun j => ?_, fun q p far => ?_⟩
    · rw [List.foldl_cons, inside, State.byteAt_setByte, here, homeKey_add, homeKey_add]
      obtain ⟨k, b⟩ := e
      by_cases hk : k = j
      · have later : NMap.find bs j = none := by
          cases h : NMap.find bs j with
          | none => rfl
          | some v => exact absurd (above _ (NMap.mem_of_find h)) (by simp [hk])
        rw [NMap.find, if_pos hk, later, hk, if_pos rfl]; rfl
      · rw [NMap.find, if_neg hk, if_neg (fun h => hk (Nat.add_left_cancel h))]
    · rw [List.foldl_cons, outside q p (fun x hx => far x (List.mem_cons_of_mem _ hx)), State.byteAt_setByte, here, homeKey_add,
        if_neg (Ne.symm (far e (List.mem_cons_self ..)))]

/-- A store to a sector: its bytes, every other byte, its poison mark, every other mark (R356). -/
theorem State.storeSector_spec {o : Nat} (aligned : o % 32 = 0) (s : State) (r : Nat) (bs : NMap Byte) (bad : Bool) (rising : NMap.rising bs = true)
    (inside : ∀ e ∈ bs, e.1 < 32) :
    ∃ t, State.storeSector s r o bs bad = t ∧ t = { s with mem := t.mem, codeWrites := t.codeWrites, memPoison := t.memPoison } ∧
      (∀ j, j < 32 → State.byteAt t r (o + j) = (NMap.find bs j).getD (State.byteAt s r (o + j))) ∧
      (∀ q p, homeKey q p < homeKey r o ∨ homeKey r o + 32 ≤ homeKey q p → State.byteAt t q p = State.byteAt s q p) ∧
      State.sectorPoisoned t r o = (bad || (decide (bs.length < 32) && State.sectorPoisoned s r o)) ∧
      ∀ q p, homeKey q p / 32 ≠ homeKey r o / 32 → State.sectorPoisoned t q p = State.sectorPoisoned s q p := by
  have base : o / 32 * 32 = o := by omega
  obtain ⟨written, kept⟩ := State.byteAt_setBytes (r := r) (base := o) (put := fun e => o + e.1 % 32) bs
    (fun e he => by rw [Nat.mod_eq_of_lt (inside e he)]) ((NMap.rising_iff bs).1 rising) s
  have frame : AtMemory s (bs.foldl (fun s e => State.setByte s r (o + e.1 % 32) e.2) s) := atMemory_foldl (fun t e => atMemory_setByte ..) bs s
  generalize hu : bs.foldl (fun s e => State.setByte s r (o + e.1 % 32) e.2) s = u at written kept frame
  have marks : ∀ q p, State.sectorPoisoned u q p = State.sectorPoisoned s q p := fun q p => by rw [frame]; rfl
  have far : ∀ q p, homeKey q p < homeKey r o ∨ homeKey r o + 32 ≤ homeKey q p → State.byteAt u q p = State.byteAt s q p :=
    fun q p h => kept q p (fun e he => by have := inside e he; omega)
  have readMark : ∀ (p : Bool) q x, State.sectorPoisoned (State.setPoison u r o p) q x = if homeKey r o / 32 = homeKey q x / 32 then p else State.sectorPoisoned u q x :=
    fun p q x => NMap.get_set ..
  have result : State.storeSector s r o bs bad = if bad then State.setPoison u r o true else if 32 ≤ bs.length then State.setPoison u r o false else u := by
    unfold State.storeSector
    dsimp only
    rw [base, hu]
  have marked : ∀ p, State.setPoison u r o p = { s with mem := u.mem, codeWrites := u.codeWrites, memPoison := (State.setPoison u r o p).memPoison } := fun p => by
    unfold State.setPoison; rw [frame]
  refine ⟨_, rfl, ?_⟩
  rw [result]
  cases bad with
  | true =>
    rw [if_pos rfl]
    refine ⟨by rw [marked true], fun j _ => written j, far, ?_, fun q p h => ?_⟩
    · rw [readMark, if_pos rfl, Bool.true_or]
    · rw [readMark, if_neg (Ne.symm h), marks]
  | false =>
    rw [if_neg Bool.false_ne_true]
    by_cases whole : 32 ≤ bs.length
    · rw [if_pos whole]
      refine ⟨by rw [marked false], fun j _ => written j, far, ?_, fun q p h => ?_⟩
      · rw [readMark, if_pos rfl, decide_eq_false (by omega)]; rfl
      · rw [readMark, if_neg (Ne.symm h), marks]
    · rw [if_neg whole]
      refine ⟨by rw [frame], fun j _ => written j, far, ?_, fun q p _ => marks q p⟩
      rw [marks, decide_eq_true (by omega)]; rfl

/-! ### Words -/

theorem toBytes_length (n v : Nat) : (toBytes n v).length = n := by
  induction n generalizing v with
  | zero => rfl
  | succ n ih => rw [toBytes, List.length_cons, ih]

/-- The low bytes of a value read back as the value (R4). -/
theorem ofBytes_toBytes (n : Nat) : ∀ v, v < 2 ^ (8 * n) → ofBytes (toBytes n v) = v := by
  induction n with
  | zero => intro v h; rw [toBytes, ofBytes]; omega
  | succ n ih =>
    intro v h
    have width : 2 ^ (8 * (n + 1)) = 256 * 2 ^ (8 * n) := by rw [Nat.mul_add, Nat.pow_add, Nat.mul_comm]
    rw [toBytes, ofBytes, ih (v / 256) (by omega), BitVec.toNat_ofNat]
    omega

theorem tabulate_congr {α : Type} {n : Nat} {f g : Nat → α} (h : ∀ i, i < n → f i = g i) : tabulate n f = tabulate n g :=
  List.map_congr_left (fun i hi => h i (List.mem_range.1 hi))

theorem tabulate_getD_self {α : Type} (l : List α) (d : α) : tabulate l.length (fun i => l.getD i d) = l := by
  refine List.ext_getElem (by simp [tabulate]) (fun i _ h => ?_)
  simp [tabulate, List.getElem?_eq_getElem h]

/-- A word is stored byte by byte. -/
def State.writeWord (s : State) (r p size v : Nat) : State :=
  (toBytes size v).zipIdx.foldl (fun s bi => State.setByte s r (p + bi.2) bi.1) s

theorem State.byteAt_writeBytes (r p : Nat) (l : List Byte) (s : State) (n : Nat) :
    (∀ i, i < l.length → State.byteAt ((l.zipIdx n).foldl (fun s bi => State.setByte s r (p + bi.2) bi.1) s) r (p + (n + i)) = l.getD i 0) ∧
    ∀ q x, homeKey q x < homeKey r p + n ∨ homeKey r p + (n + l.length) ≤ homeKey q x →
      State.byteAt ((l.zipIdx n).foldl (fun s bi => State.setByte s r (p + bi.2) bi.1) s) q x = State.byteAt s q x := by
  induction l generalizing s n with
  | nil => exact ⟨fun i hi => absurd hi (Nat.not_lt_zero i), fun _ _ _ => rfl⟩
  | cons b l ih =>
    obtain ⟨inside, outside⟩ := ih (State.setByte s r (p + n) b) (n + 1)
    refine ⟨fun i hi => ?_, fun q x far => ?_⟩
    · rw [List.zipIdx_cons, List.foldl_cons]
      cases i with
      | zero =>
        rw [outside _ _ (by left; rw [homeKey_add]; omega), State.byteAt_setByte, Nat.add_zero, if_pos rfl]; rfl
      | succ i =>
        have := inside i (by simpa using hi)
        rw [show n + (i + 1) = n + 1 + i by omega, this]; rfl
    · rw [List.zipIdx_cons, List.foldl_cons, outside q x (by rw [List.length_cons] at far; omega), State.byteAt_setByte, homeKey_add,
        if_neg (by rw [List.length_cons] at far; omega)]

theorem State.byteAt_writeWord (s : State) (r p size v : Nat) :
    (∀ i, i < size → State.byteAt (State.writeWord s r p size v) r (p + i) = (toBytes size v).getD i 0) ∧
    ∀ q x, homeKey q x < homeKey r p ∨ homeKey r p + size ≤ homeKey q x → State.byteAt (State.writeWord s r p size v) q x = State.byteAt s q x := by
  obtain ⟨inside, outside⟩ := State.byteAt_writeBytes r p (toBytes size v) s 0
  rw [toBytes_length] at inside outside
  exact ⟨fun i hi => by have := inside i hi; rwa [Nat.zero_add] at this, fun q x h => outside q x (by omega)⟩

theorem atMemory_writeWord (s : State) (r p size v : Nat) : AtMemory s (State.writeWord s r p size v) := atMemory_foldl (fun t _ => atMemory_setByte t ..) _ s

/-- The final values of an atomic go to their words in the line. -/
def State.writeWords (s : State) (r line size : Nat) (m : NMap Nat) : State :=
  m.foldl (fun s e => State.writeWord s r (line + e.1 % 128) size e.2) s

/-- A word of region memory at the place of an address in a line. -/
def State.wordAt (s : State) (r line size a : Nat) : Nat := ofBytes (tabulate size (fun i => State.byteAt s r (line + a % 128 + i)))

/-- Words of one aligned size in one line: each that is written reads as its value, any other as before, and no byte outside them changes. -/
theorem State.writeWords_spec {r line size : Nat} (m : NMap Nat) (aligned : ∀ e ∈ m, e.1 % size = 0)
    (divides : 128 % size = 0) (sameLine : ∀ e ∈ m, ∀ f ∈ m, e.1 / 128 = f.1 / 128) (distinct : m.Pairwise (fun a b => a.1 < b.1))
    (fits : ∀ e ∈ m, e.2 < 2 ^ (8 * size)) (s : State) :
    (∀ a, a % size = 0 → (∀ e ∈ m, e.1 / 128 = a / 128) →
      State.wordAt (State.writeWords s r line size m) r line size a = (NMap.find m a).getD (State.wordAt s r line size a)) ∧
    ∀ q x, (∀ e ∈ m, homeKey q x < homeKey r (line + e.1 % 128) ∨ homeKey r (line + e.1 % 128) + size ≤ homeKey q x) →
      State.byteAt (State.writeWords s r line size m) q x = State.byteAt s q x := by
  induction m generalizing s with
  | nil => exact ⟨fun _ _ _ => rfl, fun _ _ _ => rfl⟩
  | cons e m ih =>
    obtain ⟨above, rest⟩ := List.pairwise_cons.1 distinct
    have tail : ∀ {x}, x ∈ m → x ∈ e :: m := fun h => List.mem_cons_of_mem _ h
    obtain ⟨inside, outside⟩ := ih (fun x hx => aligned x (tail hx)) (fun x hx y hy => sameLine x (tail hx) y (tail hy)) rest
      (fun x hx => fits x (tail hx)) (State.writeWord s r (line + e.1 % 128) size e.2)
    obtain ⟨here, far⟩ := State.byteAt_writeWord s r (line + e.1 % 128) size e.2
    refine ⟨fun a ha same => ?_, fun q x apart => ?_⟩
    · have step := inside a ha (fun x hx => same x (tail hx))
      show State.wordAt (State.writeWords (State.writeWord s r (line + e.1 % 128) size e.2) r line size m) r line size a = _
      obtain ⟨k, v⟩ := e
      rw [step]
      by_cases hk : k = a
      · subst hk
        have later : NMap.find m k = none := by
          cases h : NMap.find m k with
          | none => rfl
          | some w => exact absurd (above _ (NMap.mem_of_find h)) (Nat.lt_irrefl k)
        have bytes : tabulate size (fun i => State.byteAt (State.writeWord s r (line + k % 128) size v) r (line + k % 128 + i)) = toBytes size v := by
          rw [tabulate_congr here]
          have := tabulate_getD_self (toBytes size v) 0
          rwa [toBytes_length] at this
        rw [later, NMap.find, if_pos rfl]
        show ofBytes _ = v
        rw [bytes, ofBytes_toBytes size v (fits (k, v) (List.mem_cons_self ..))]
      · have sameK : k / 128 = a / 128 := same (k, v) (List.mem_cons_self ..)
        have alignedK : k % size = 0 := aligned (k, v) (List.mem_cons_self ..)
        have apart : k % 128 + size ≤ a % 128 ∨ a % 128 + size ≤ k % 128 := by
          obtain ⟨n, hn⟩ := Nat.dvd_of_mod_eq_zero divides
          have hk' : k % 128 % size = 0 := by rw [hn, Nat.mod_mul_right_mod]; exact alignedK
          have ha' : a % 128 % size = 0 := by rw [hn, Nat.mod_mul_right_mod]; exact ha
          obtain ⟨x, hx⟩ := Nat.dvd_of_mod_eq_zero hk'
          obtain ⟨y, hy⟩ := Nat.dvd_of_mod_eq_zero ha'
          have ne : x ≠ y := fun h => hk (by
            have : k % 128 = a % 128 := by rw [hx, hy, h]
            omega)
          rw [hx, hy]
          rcases Nat.lt_or_gt_of_ne ne with h | h
          · left; calc size * x + size = size * (x + 1) := (Nat.mul_succ ..).symm
              _ ≤ size * y := Nat.mul_le_mul_left _ h
          · right; calc size * y + size = size * (y + 1) := (Nat.mul_succ ..).symm
              _ ≤ size * x := Nat.mul_le_mul_left _ h
        have untouched : State.wordAt (State.writeWord s r (line + k % 128) size v) r line size a = State.wordAt s r line size a := by
          unfold State.wordAt
          rw [tabulate_congr (fun i hi => far r (line + a % 128 + i) (by unfold homeKey; dsimp only; omega))]
        rw [untouched, NMap.find, if_neg hk]
    · show State.byteAt (State.writeWords (State.writeWord s r (line + e.1 % 128) size e.2) r line size m) q x = _
      rw [outside q x (fun y hy => apart y (tail hy)), far q x (apart e (List.mem_cons_self ..))]

theorem atMemory_writeWords (s : State) (r line size : Nat) (m : NMap Nat) : AtMemory s (State.writeWords s r line size m) :=
  atMemory_foldl (fun t _ => atMemory_writeWord t ..) m s

end Sys2Proof.Machine
end

section
/-!
SUPPORT. What the home does with a request of a cell: sectors read, words of an atomic, and the answers (R155, R345, R18).
-/

namespace Sys2Proof.Machine

/-! ### Maps built by insertion -/

theorem NMap.mem_keys_iff {V : Type} (m : NMap V) (k : Nat) : k ∈ m.map (·.1) ↔ (NMap.find m k).isSome = true := by
  induction m with
  | nil => simp
  | cons e r ih =>
    obtain ⟨j, v⟩ := e
    rw [List.map_cons, List.mem_cons, ih, NMap.find]
    by_cases h : j = k
    · simp [h]
    · rw [if_neg h]
      exact or_iff_right (Ne.symm h)

theorem NMap.pairwise_insert {V : Type} {m : NMap V} (h : m.Pairwise (fun a b => a.1 < b.1)) (k : Nat) (v : V) :
    (NMap.insert m k v).Pairwise (fun a b => a.1 < b.1) := by
  refine List.pairwise_append.2 ⟨h.filter _, List.pairwise_cons.2 ⟨fun e he => of_decide_eq_true (List.mem_filter.1 he).2, h.filter _⟩, fun a ha b hb => ?_⟩
  have below : a.1 < k := of_decide_eq_true (List.mem_filter.1 ha).2
  rcases List.mem_cons.1 hb with rfl | hb
  · exact below
  · exact lt_trans below (of_decide_eq_true (List.mem_filter.1 hb).2)

/-- Entries that agree with a function of their keys, inserted one by one. -/
theorem NMap.find_insertAll {V : Type} {f : Nat → V} (l : NMap V) (agree : ∀ e ∈ l, e.2 = f e.1) (m : NMap V) (j : Nat) :
    NMap.find (l.foldl (fun m e => NMap.insert m e.1 e.2) m) j = if j ∈ l.map (·.1) then some (f j) else NMap.find m j := by
  induction l generalizing m with
  | nil => rfl
  | cons e l ih =>
    rw [List.foldl_cons, ih (fun x hx => agree x (List.mem_cons_of_mem _ hx)), NMap.find_insert, List.map_cons]
    by_cases later : j ∈ l.map (·.1)
    · rw [if_pos later, if_pos (List.mem_cons_of_mem _ later)]
    · rw [if_neg later]
      by_cases here : e.1 = j
      · rw [if_pos here, if_pos (here ▸ List.mem_cons_self ..), agree e (List.mem_cons_self ..), here]
      · rw [if_neg here, if_neg (fun h => (List.mem_cons.1 h).elim (fun h => here h.symm) later)]

theorem NMap.mem_insertAll {V : Type} {f : Nat → V} (l : List Nat) : ∀ e ∈ l.foldl (fun m i => NMap.insert m i (f i)) ([] : NMap V), e.2 = f e.1 :=
  foldl_keeps (fun m : NMap V => ∀ e ∈ m, e.2 = f e.1) _ (fun m i h e he => by
    rcases NMap.mem_of_mem_insert he with rfl | he
    · rfl
    · exact h e (NMap.mem_of_mem_erase he)) l [] (fun _ he => nomatch he)

theorem NMap.find_tabulated {V : Type} {f : Nat → V} (l : List Nat) (j : Nat) :
    NMap.find (l.foldl (fun m i => NMap.insert m i (f i)) ([] : NMap V)) j = if j ∈ l then some (f j) else none := by
  have := NMap.find_insertAll (f := f) (l.map (fun i => (i, f i))) (fun e he => by
    obtain ⟨i, _, rfl⟩ := List.mem_map.1 he; rfl) [] j
  rw [List.foldl_map, List.map_map, show ((fun e : Nat × V => e.1) ∘ fun i => (i, f i)) = id from rfl, List.map_id] at this
  exact this

/-! ### Sectors read -/

theorem AtCache.sector {s t : State} {r : Nat} (h : AtCache s t r) (q o : Nat) : State.sector t q o = State.sector s q o := by rw [h.1]; rfl

/-- A group reads the sectors as they are where no copy is incomplete there (R185). -/
theorem State.readForGroup_settled {s : State} (settled : ∀ fa, State.unsettledGlobal s fa = false) (r line : Nat) (secs : List Nat) :
    State.readForGroup s r line secs = (s, State.readLine s r line secs) := by
  have draws : State.sectorsDraw s secs.length (secs.map (fun i => State.fabricOf s r (line + 32 * i))) = 0 := by
    unfold State.sectorsDraw
    rw [if_neg]
    simp [settled]
  have same : ∀ n fa d, State.groupSector s n fa d = d := fun n fa d => by
    unfold State.groupSector
    simp only [settled, Bool.false_eq_true, if_false]
    rw [List.zipIdx_map_fst]
  unfold State.readForGroup
  dsimp only
  rw [draws]
  simp only [same]
  exact Prod.ext rfl (List.zipIdx_map_fst ..)

theorem State.find_readLine (s : State) (r line : Nat) (secs : List Nat) (i : Nat) :
    NMap.find (State.readLine s r line secs) i = if i ∈ secs then some (State.sector s r (line + 32 * i)) else none :=
  NMap.find_tabulated (f := fun i => State.sector s r (line + 32 * i)) secs i

theorem State.mem_readLine_keys (s : State) (r line : Nat) (secs : List Nat) (i : Nat) : i ∈ (State.readLine s r line secs).map (·.1) ↔ i ∈ secs := by
  rw [NMap.mem_keys_iff, State.find_readLine]
  by_cases h : i ∈ secs <;> simp [h]

theorem State.sector_byte {s : State} {r o i : Nat} (aligned : o % 32 = 0) (hi : i < 32) : (State.sector s r o).bytes.getD i 0 = State.byteAt s r (o + i) := by
  have bytes : (State.sector s r o).bytes = tabulate 32 (fun i => State.byteAt s r (o / 32 * 32 + i)) := rfl
  rw [bytes, tabulate_getD, if_pos hi, show o / 32 * 32 = o by omega]

/-- The bytes of a package packet that carries sectors of a line. -/
theorem State.lineBytes_readLine {s : State} {r line : Nat} {secs : List Nat} (aligned : line % 128 = 0) {i j : Nat} (hi : i ∈ secs) (range : i < 4) (hj : j < 32) :
    (lineBytes (State.readLine s r line secs)).getD (32 * i + j) 0 = State.byteAt s r (line + 32 * i + j) := by
  unfold lineBytes
  rw [tabulate_getD, if_pos (by omega), show (32 * i + j) / 32 = i by omega, show (32 * i + j) % 32 = j by omega, State.find_readLine, if_pos hi]
  exact State.sector_byte (by omega) hj

/-- The marks of a package packet that carries sectors of a line. -/
theorem State.poison_readLine {s : State} {r line : Nat} {secs : List Nat} {i : Nat} (hi : i ∈ secs) :
    (((State.readLine s r line secs).filter (fun e => e.2.poison)).map (·.1)).contains i = (State.sector s r (line + 32 * i)).poison := by
  have agree := NMap.mem_insertAll (f := fun i => State.sector s r (line + 32 * i)) secs
  have found : NMap.find (State.readLine s r line secs) i = some (State.sector s r (line + 32 * i)) := by rw [State.find_readLine, if_pos hi]
  rw [Bool.eq_iff_iff, List.contains_iff_mem, List.mem_map]
  constructor
  · rintro ⟨e, he, rfl⟩
    obtain ⟨here, marked⟩ := List.mem_filter.1 he
    rw [← agree e here]
    exact marked
  · exact fun h => ⟨_, List.mem_filter.2 ⟨NMap.mem_of_find found, h⟩, rfl⟩

/-- Sectors that a packet carries arrive as they were read. -/
theorem State.carriedSector {s : State} {r line : Nat} {secs : List Nat} (aligned : line % 128 = 0) {i : Nat} (hi : i ∈ secs) (range : i < 4) :
    ({ bytes := tabulate 32 (fun k => (lineBytes (State.readLine s r line secs)).getD (32 * i + k) 0)
       poison := (((State.readLine s r line secs).filter (fun e => e.2.poison)).map (·.1)).contains i } : SectorData) = State.sector s r (line + 32 * i) := by
  rw [State.poison_readLine hi, tabulate_congr (fun k hk => State.lineBytes_readLine aligned hi range hk)]
  show _ = ({ bytes := tabulate 32 _, poison := _ } : SectorData)
  rw [tabulate_congr (g := fun k => State.byteAt s r ((line + 32 * i) / 32 * 32 + k)) (fun k _ => by rw [show (line + 32 * i) / 32 * 32 = line + 32 * i by omega])]
  rfl

/-! ### Answers -/

theorem NMap.find_mod {V : Type} (m : NMap V) (k j : Nat) (f : V → V) :
    NMap.find (NMap.mod m k f) j = if k = j then (NMap.find m j).map f else NMap.find m j := by
  induction m with
  | nil => simp [NMap.mod]
  | cons e r ih =>
    obtain ⟨i, v⟩ := e
    show NMap.find ((if i = k then (i, f v) else (i, v)) :: NMap.mod r k f) j = _
    by_cases hk : i = k
    · subst hk
      by_cases hj : i = j <;> simp [NMap.find, hj, ih]
    · rw [if_neg hk, NMap.find, NMap.find, ih]
      by_cases hj : i = j
      · rw [if_pos hj, if_neg (fun h => hk (hj.trans h.symm)), if_pos hj]
      · rw [if_neg hj, if_neg hj]

/-- Of a cell, what it holds back stays as it is when values are delivered. -/
theorem Cell.finishAccess_held (x : Cell) (id : Nat) (a : Access) :
    (Cell.finishAccess x id a).held = x.held ∧ (Cell.finishAccess x id a).heldLocal = x.heldLocal := by
  unfold Cell.finishAccess
  dsimp only
  split
  · exact ⟨rfl, rfl⟩
  · split
    · exact ⟨rfl, rfl⟩
    · exact ⟨rfl, rfl⟩
    · split <;> exact ⟨rfl, rfl⟩

theorem Cell.deliver_held (x : Cell) (miss base : Nat) (secs : NMap SectorData) (values : NMap (DWord × Bool)) :
    (Cell.deliver x miss base secs values).held = x.held ∧ (Cell.deliver x miss base secs values).heldLocal = x.heldLocal := by
  refine foldl_keeps (fun y : Cell => y.held = x.held ∧ y.heldLocal = x.heldLocal) _ (fun y e h => ?_) _ x ⟨rfl, rfl⟩
  dsimp only
  split
  · split
    · obtain ⟨remote, own⟩ := Cell.finishAccess_held y e.1 { e.2 with
        waits := e.2.waits.erase miss
        sectors := secs.foldl (fun m d => NMap.insert m (base + d.1) d.2) e.2.sectors
        values := values.foldl (fun m d => NMap.insert m d.1 d.2) e.2.values }
      exact ⟨remote.trans h.1, own.trans h.2⟩
    · exact h
  · exact h

/-- One cell of the module, and what is on the package network, have changed; the cell holds back what it held. -/
def Answered (s t : State) (c : Nat) : Prop :=
  t = { s with cells := t.cells, package := t.package } ∧ (∀ d, d ≠ c → State.cell t d = State.cell s d) ∧
    ∀ d, (State.cell t d).held = (State.cell s d).held ∧ (State.cell t d).heldLocal = (State.cell s d).heldLocal

theorem answered_modCell (s : State) (c : Nat) (f : Cell → Cell) (hf : ∀ x, (f x).held = x.held ∧ (f x).heldLocal = x.heldLocal) :
    Answered s (State.modCell s c f) c := by
  refine ⟨rfl, fun d hd => by rw [State.cell_modCell, if_neg (Ne.symm hd)], fun d => ?_⟩
  rw [State.cell_modCell]
  split
  · next h => rw [← h]; exact hf _
  · exact ⟨rfl, rfl⟩

theorem answered_package (s : State) (c : Nat) (m : NMap PackagePacket) : Answered s { s with package := m } c :=
  ⟨rfl, fun _ _ => rfl, fun _ => ⟨rfl, rfl⟩⟩

/-- The answer of an atomic, all of its addresses changed. -/
theorem answered_values {q : HomeRequest} {c slot : Nat} (source : q.source = .cell c slot) (s : State) (id : Nat) (values : NMap (DWord × Bool)) :
    Answered s (State.answerValues s id q values 0) c := by
  unfold State.answerValues
  rw [source]
  show Answered s (State.reply s q.region id c (.values id c values 0) _) c
  unfold State.reply
  split
  · show Answered s (State.landValues s id c values 0) c
    unfold State.landValues
    split
    · exact answered_modCell s c _ (fun _ => ⟨rfl, rfl⟩)
    · exact answered_modCell s c _ (fun x => Cell.deliver_held x id 0 [] values)
  · exact answered_package s c _

/-! ### Words of an atomic -/

theorem ofBytes_lt (l : List Byte) : ofBytes l < 2 ^ (8 * l.length) := by
  induction l with
  | nil => exact Nat.one_pos
  | cons b l ih =>
    have width : 2 ^ (8 * (l.length + 1)) = 256 * 2 ^ (8 * l.length) := by rw [Nat.mul_add, Nat.pow_add, Nat.mul_comm]
    have := b.isLt
    rw [ofBytes, List.length_cons]
    omega

/-- The word at an address, as it is read out of the sector at offset `o`. -/
def State.sectorWord (s : State) (r o size a : Nat) : Nat := ofBytes (tabulate size (fun i => (State.sector s r o).bytes.getD ((a + i) % 32) 0))

theorem State.sectorWord_lt (s : State) (r o size a : Nat) : State.sectorWord s r o size a < 2 ^ (8 * size) := by
  have := ofBytes_lt (tabulate size (fun i => (State.sector s r o).bytes.getD ((a + i) % 32) 0))
  rwa [show (tabulate size _).length = size by simp [tabulate]] at this

/-- A word of the sector of an address is the word at its place in the line. -/
theorem State.sectorWord_eq (s : State) (r : Nat) {line size a b : Nat} (aligned : line % 128 = 0) (hsize : size = 4 ∨ size = 8) (word : a % size = 0)
    (same : a / 32 = b / 32) : State.sectorWord s r (line + 32 * (b / 32 % 4)) size a = State.wordAt s r line size a := by
  unfold State.sectorWord State.wordAt
  rw [tabulate_congr (fun i hi => ?_)]
  have place : (a + i) % 32 = a % 32 + i := by rcases hsize with rfl | rfl <;> omega
  rw [State.sector_byte (by omega) (by omega), place]
  congr 1
  omega

section
variable (op : AtomicOp) (signed : Bool) (w : Nat) (read : Nat → Nat)

/-- One lane of an atomic: its address takes the result, the lane the value before it. -/
def laneStep (acc : NMap Nat × NMap Nat) (l : AtomicLane) : NMap Nat × NMap Nat :=
  let v := (NMap.find acc.1 l.addr).getD (read l.addr)
  (NMap.insert acc.1 l.addr (atomicFn op signed w v l.b.toNat l.c.toNat), NMap.insert acc.2 l.lane v)

theorem atomicLanes_eq (lanes : List AtomicLane) : atomicLanes op signed w read lanes = lanes.foldl (laneStep op signed w read) ([], []) := rfl

/-- Lanes are applied in order to each address (R155). -/
theorem find_laneSteps (lanes : List AtomicLane) (acc : NMap Nat × NMap Nat) (a : Nat) :
    (NMap.find (lanes.foldl (laneStep op signed w read) acc).1 a).getD (read a) =
      (lanes.filter (fun k => decide (k.addr = a))).foldl (fun v k => atomicFn op signed w v k.b.toNat k.c.toNat) ((NMap.find acc.1 a).getD (read a)) := by
  induction lanes generalizing acc with
  | nil => rfl
  | cons l lanes ih =>
    rw [List.foldl_cons, ih]
    show List.foldl _ ((NMap.find (NMap.insert acc.1 l.addr _) a).getD (read a)) _ = _
    rw [NMap.find_insert, List.filter_cons]
    by_cases h : l.addr = a
    · subst h
      rw [if_pos rfl, if_pos (decide_eq_true rfl), List.foldl_cons]; rfl
    · rw [if_neg h, if_neg (fun c => h (of_decide_eq_true c))]

/-- The values to be stored: of addresses of lanes, in rising order, each a word. -/
theorem laneSteps_keep (hw : w = 32 ∨ w = 64) (all : List AtomicLane) (words : ∀ l ∈ all, l.b.toNat < 2 ^ w) (reads : ∀ a, read a < 2 ^ w)
    (lanes : List AtomicLane) (sub : ∀ l ∈ lanes, l ∈ all) (acc : NMap Nat × NMap Nat)
    (h : acc.1.Pairwise (fun a b => a.1 < b.1) ∧ ∀ e ∈ acc.1, e.2 < 2 ^ w ∧ ∃ l ∈ all, l.addr = e.1) :
    (lanes.foldl (laneStep op signed w read) acc).1.Pairwise (fun a b => a.1 < b.1) ∧
      ∀ e ∈ (lanes.foldl (laneStep op signed w read) acc).1, e.2 < 2 ^ w ∧ ∃ l ∈ all, l.addr = e.1 := by
  induction lanes generalizing acc with
  | nil => exact h
  | cons l lanes ih =>
    obtain ⟨rising, entries⟩ := h
    have mine : l ∈ all := sub l (List.mem_cons_self ..)
    have old : (NMap.find acc.1 l.addr).getD (read l.addr) < 2 ^ w := by
      cases found : NMap.find acc.1 l.addr with
      | none => exact reads l.addr
      | some v => exact (entries _ (NMap.mem_of_find found)).1
    refine ih (fun x hx => sub x (List.mem_cons_of_mem _ hx)) _ ⟨NMap.pairwise_insert rising _ _, fun e he => ?_⟩
    rcases NMap.mem_of_mem_insert he with rfl | he
    · exact ⟨by rw [atomicFn_eq hw]; exact atomicValue_lt hw op signed _ old (words l mine), l, mine, rfl⟩
    · exact entries e (NMap.mem_of_mem_erase he)

end

/-- An atomic on one unpoisoned sector (R155): each address takes its lanes' results in order, no other byte changes. -/
theorem State.atomicHome_spec {s : State} {r line size : Nat} {lanes : List AtomicLane} {l : RegionLine} (op : AtomicOp) (signed : Bool) (aligned : line % 128 = 0)
    (hsize : size = 4 ∨ size = 8) (words : ∀ k ∈ lanes, k.addr % size = 0 ∧ k.b.toNat < 2 ^ (8 * size))
    (oneSector : ∀ k ∈ lanes, ∀ l ∈ lanes, k.addr / 32 = l.addr / 32) (some_ : lanes ≠ []) (settled : ∀ fa, State.unsettledGlobal s fa = false)
    (clean : ∀ k ∈ lanes, State.sectorPoisoned s r (line + k.addr % 128) = false) (there : State.regionLine s r line = some l) :
    ∃ u t values, State.atomicHome s r line op signed size lanes = (t, values, 0) ∧ AtMemory s u ∧ AtCache u t r ∧
      (∀ k ∈ lanes, State.wordAt t r line size k.addr =
        (lanes.filter (fun x => decide (x.addr = k.addr))).foldl (fun v x => Claims.atomicValue op signed (8 * size) v x.b.toNat x.c.toNat)
          (State.wordAt s r line size k.addr)) ∧
      ∀ q x, (∀ k ∈ lanes, homeKey q x < homeKey r (line + k.addr % 128) ∨ homeKey r (line + k.addr % 128) + size ≤ homeKey q x) →
        State.byteAt t q x = State.byteAt s q x := by
  have hw : 8 * size = 32 ∨ 8 * size = 64 := by omega
  obtain ⟨k0, rest, rfl⟩ := List.exists_cons_of_ne_nil some_
  have first : k0 ∈ k0 :: rest := List.mem_cons_self ..
  have reads : ∀ k ∈ k0 :: rest, State.sectorWord s r (line + 32 * (k0.addr / 32 % 4)) size k.addr = State.wordAt s r line size k.addr :=
    fun k hk => State.sectorWord_eq s r aligned hsize (words k hk).1 (oneSector k hk k0 first)
  have bound := State.sectorWord_lt s r (line + 32 * (k0.addr / 32 % 4)) size
  generalize hread : State.sectorWord s r (line + 32 * (k0.addr / 32 % 4)) size = read at reads bound
  generalize hm : (atomicLanes op signed (8 * size) read (k0 :: rest)).1 = m
  obtain ⟨rising, entries⟩ : m.Pairwise (fun a b => a.1 < b.1) ∧ ∀ e ∈ m, e.2 < 2 ^ (8 * size) ∧ ∃ k ∈ k0 :: rest, k.addr = e.1 := by
    rw [← hm, atomicLanes_eq]
    exact laneSteps_keep op signed _ read hw _ (fun k hk => (words k hk).2) bound _ (fun _ h => h) _ ⟨List.Pairwise.nil, fun _ h => nomatch h⟩
  obtain ⟨written, kept⟩ := State.writeWords_spec (r := r) (line := line) (size := size) m
    (fun e he => by obtain ⟨-, k, hk, addr⟩ := entries e he; rw [← addr]; exact (words k hk).1) (by rcases hsize with rfl | rfl <;> rfl)
    (fun e he f hf => by
      obtain ⟨-, k, hk, addrE⟩ := entries e he
      obtain ⟨-, j, hj, addrF⟩ := entries f hf
      have := oneSector k hk j hj
      omega)
    rising (fun e he => (entries e he).1) s
  have memory := atMemory_writeWords s r line size m
  have base : (line + k0.addr % 128) / 128 = line / 128 := by omega
  have here : State.regionLine (State.writeWords s r line size m) r (line + k0.addr % 128) = some l := by
    rw [memory, State.regionLine_of_sameLine _ _ base]
    exact there
  obtain ⟨cache, -⟩ := State.dirtySector_line here
  have result : ∃ values, State.atomicHome s r line op signed size (k0 :: rest) =
      (State.dirtySector (State.writeWords s r line size m) r (line + k0.addr % 128), values, 0) := by
    have line_ : (line + k0.addr % 128) / 128 * 128 = line := by omega
    have sector_ : (line + k0.addr % 128) / 32 % 4 = k0.addr / 32 % 4 := by omega
    unfold State.atomicHome
    dsimp only [List.head?_cons, Option.map_some, Option.getD_some]
    rw [line_, sector_, State.readForGroup_settled settled]
    dsimp only
    rw [State.find_readLine, if_pos (List.mem_singleton_self _), clean k0 first, if_neg Bool.false_ne_true]
    rw [← hm, ← hread]
    exact ⟨_, rfl⟩
  obtain ⟨values, result⟩ := result
  refine ⟨_, _, values, result, memory, cache, fun k hk => ?_, fun q x far => ?_⟩
  · have same : ∀ e ∈ m, e.1 / 128 = k.addr / 128 := fun e he => by
      obtain ⟨-, j, hj, addr⟩ := entries e he
      have := oneSector j hj k hk
      omega
    have word : State.wordAt (State.dirtySector (State.writeWords s r line size m) r (line + k0.addr % 128)) r line size k.addr =
        State.wordAt (State.writeWords s r line size m) r line size k.addr := by
      unfold State.wordAt
      rw [tabulate_congr (fun i _ => cache.byteAt r _)]
    have steps := find_laneSteps op signed (8 * size) read (k0 :: rest) ([], []) k.addr
    rw [← atomicLanes_eq, hm, NMap.find_nil, Option.getD_none, reads k hk] at steps
    rw [word, written _ (words k hk).1 same, steps]
    simp only [atomicFn_eq hw]
  · rw [cache.byteAt, kept q x (fun e he => by obtain ⟨-, k, hk, addr⟩ := entries e he; rw [← addr]; exact far k hk)]

end Sys2Proof.Machine
end

section
/-!
PROOFS. O33: what a home region cache does with the stores, atomics and loads of a cell.
-/

namespace Sys2Proof.Machine

section
variable {s : State} {id c slot : Nat} {q : HomeRequest}

theorem State.holds_of_line {l : RegionLine} {needs : List Nat} (line : State.regionLine s q.region q.line = some l) (valid : ∀ i ∈ needs, i ∈ l.valid) :
    State.holds s q.region q.line needs = true := by
  unfold State.holds
  rw [line]
  exact List.all_eq_true.2 (fun i hi => List.contains_iff_mem.2 (valid i hi))

theorem State.holds_absent {needs : List Nat} (absent : State.regionLine s q.region q.line = none) : State.holds s q.region q.line needs = false := by
  unfold State.holds
  rw [absent]

/-- The line of a request is there, or has a free way: either way the request is performed on a line that is there. -/
theorem takeHome_write {needs : List Nat} (h : Claims.atHome s id c slot q) (unit : HomeBody.isUnit q.body = false) (hn : HomeBody.needs q.body = needs)
    (may : (∃ l, State.regionLine s q.region q.line = some l ∧ ∀ i ∈ needs, i ∈ l.valid) ∨
      (needs = [] ∧ State.regionLine s q.region q.line = none ∧ (State.regionLines s q.region q.line).length < 12)) :
    ∃ w t l, State.homeWay s id q = some w ∧ State.takeHome (State.homeGranted s q) id q w = State.perform t id q ∧
      AtCache (State.taken s id) t q.region ∧ State.regionLine t q.region q.line = some l := by
  rcases may with ⟨l, line, valid⟩ | ⟨nothing, absent, way⟩
  · obtain ⟨t, l', take, cache, line', -⟩ := State.takeHome_hit (id := id) line
    exact ⟨.hit, t, l', State.homeWay_hit h unit (hn ▸ State.holds_of_line line valid), take, cache, line'⟩
  · obtain ⟨t0, -, here, -⟩ := State.allocate_freeWay absent way q.cls q.tag
    have same : State.regionLines (State.taken (State.homeGranted s q) id) q.region q.line = State.regionLines s q.region q.line := by
      show NMap.get (State.region (State.homeGranted s q) q.region).cache [] _ = NMap.get (State.region s q.region).cache [] _
      unfold State.homeGranted
      rw [State.region_setRegion, if_pos rfl]
    have absent' : State.regionLine (State.taken (State.homeGranted s q) id) q.region q.line = none := by
      unfold State.regionLine at absent ⊢
      rw [same]
      exact absent
    obtain ⟨t, l, allocated, cache, line, -⟩ := State.allocate_freeWay absent' (same ▸ way) q.cls q.tag
    refine ⟨.install, t, l, State.homeWay_allocates h unit (State.holds_absent absent) here (by rw [hn, nothing]; rfl), ?_,
      (atCache_taken s id q).trans cache, line⟩
    show State.perform ((State.allocate (State.taken (State.homeGranted s q) id) q.region q.line q.cls q.tag).getD _) id q = _
    rw [allocated]
    rfl

/-- R345, R346, R356: a store. -/
theorem homeRequest_write {i : Nat} {bs : NMap Byte} {bad : Bool} (h : Claims.atHome s id c slot q) (body : q.body = .write i bs bad) (hi : i < 4)
    (rising : NMap.rising bs = true) (inside : ∀ e ∈ bs, e.1 < 32)
    (may : Claims.sectorHeld s q i ∨
      (32 ≤ bs.length ∧ ((State.regionLine s q.region q.line).isSome = true ∨ (State.regionLines s q.region q.line).length < 12))) :
    ∃ t, exec (.homeRequest id) s = .next t ∧
      t = { s with regions := t.regions, mem := t.mem, codeWrites := t.codeWrites, memPoison := t.memPoison, homeQueue := t.homeQueue, tel := t.tel } ∧
      Claims.onlyRegionCache s t q.region ∧ t.homeQueue = NMap.erase s.homeQueue id ∧ Claims.sectorHeld t q i ∧
      (∀ j, j < 32 → State.byteAt t q.region (q.line + 32 * i + j) = (NMap.find bs j).getD (State.byteAt s q.region (q.line + 32 * i + j))) ∧
      (∀ r p, homeKey r p < homeKey q.region (q.line + 32 * i) ∨ homeKey q.region (q.line + 32 * i) + 32 ≤ homeKey r p → State.byteAt t r p = State.byteAt s r p) ∧
      State.sectorPoisoned t q.region (q.line + 32 * i) = (bad || (decide (bs.length < 32) && State.sectorPoisoned s q.region (q.line + 32 * i))) ∧
      ∀ r p, homeKey r p / 32 ≠ homeKey q.region (q.line + 32 * i) / 32 → State.sectorPoisoned t r p = State.sectorPoisoned s r p := by
  have parts := h
  obtain ⟨-, source, -, -, -, -, -, -, -, aligned, -⟩ := parts
  have needs : HomeBody.needs q.body = if 32 ≤ bs.length then [] else [i] := by rw [body]; rfl
  have may' : (∃ l, State.regionLine s q.region q.line = some l ∧ ∀ k ∈ (if 32 ≤ bs.length then [] else [i]), k ∈ l.valid) ∨
      ((if 32 ≤ bs.length then [] else [i]) = [] ∧ State.regionLine s q.region q.line = none ∧ (State.regionLines s q.region q.line).length < 12) := by
    rcases may with ⟨l, line, valid⟩ | ⟨whole, room⟩
    · refine .inl ⟨l, line, fun k hk => ?_⟩
      split at hk
      · cases hk
      · rw [List.mem_singleton.1 hk]; exact valid
    · rw [if_pos whole]
      cases line : State.regionLine s q.region q.line with
      | some l => exact .inl ⟨l, rfl, fun _ hk => nomatch hk⟩
      | none => exact .inr ⟨rfl, rfl, room.resolve_left (by rw [line]; exact Bool.false_ne_true)⟩
  obtain ⟨w, t1, l, way, take, cache1, line⟩ := takeHome_write h (by rw [body]; rfl) needs may'
  obtain ⟨t2, stored, memory, bytes, otherBytes, mark, otherMarks⟩ :=
    State.storeSector_spec (o := q.line + 32 * i) (by omega) t1 q.region bs bad rising inside
  have line2 : State.regionLine t2 q.region (q.line + 32 * i) = some l := by
    rw [State.regionLine_of_sameLine _ _ (show (q.line + 32 * i) / 128 = q.line / 128 by omega), memory]
    exact line
  obtain ⟨cache3, l', line3, valid⟩ := State.dirtySector_line line2
  generalize ht : State.dirtySector t2 q.region (q.line + 32 * i) = t at cache3 line3
  have performed : State.perform t1 id q = t := by
    unfold State.perform
    rw [body]
    show State.answerStore (State.dirtySector (State.storeSector t1 q.region (q.line + 32 * i) bs bad) q.region (q.line + 32 * i)) id q = t
    unfold State.answerStore
    rw [source, stored, ht]
  have frame : t = { State.taken s id with regions := t.regions, mem := t.mem, codeWrites := t.codeWrites, memPoison := t.memPoison, tel := t.tel } := by
    rw [cache3.1, memory, cache1.1]
  have only : Claims.onlyRegionCache s t q.region :=
    onlyRegionCache_trans (t := t2) (onlyRegionCache_trans (t := t1) cache1.2 (onlyRegionCache_of_regions _ (by rw [memory]))) cache3.2
  have queue : t.homeQueue = NMap.erase s.homeQueue id := by rw [frame]; rfl
  refine ⟨t, exec_homeRequest_of h way (take.trans performed) (nothingMoves_taken h queue (fun d => by rw [frame]; exact ⟨rfl, rfl⟩))
      (allSettled_taken h only (by rw [frame]; rfl)), by rw [frame]; rfl, only, queue, ⟨l', ?_, ?_⟩, fun j hj => ?_, fun r p far => ?_, ?_, fun r p far => ?_⟩
  · rw [State.regionLine_of_sameLine _ _ (show q.line / 128 = (q.line + 32 * i) / 128 by omega)]; exact line3
  · rwa [show (q.line + 32 * i) / 32 % 4 = i by omega] at valid
  · rw [cache3.byteAt, bytes j hj, cache1.byteAt]; rfl
  · rw [cache3.byteAt, otherBytes r p far, cache1.byteAt]; rfl
  · rw [cache3.sectorPoisoned, mark, cache1.sectorPoisoned]; rfl
  · rw [cache3.sectorPoisoned, otherMarks r p far, cache1.sectorPoisoned]; rfl

/-- R155, R352: an atomic. -/
theorem homeRequest_atomic {size : Nat} {op : AtomicOp} {signed : Bool} {lanes : List AtomicLane} (h : Claims.atHome s id c slot q)
    (body : q.body = .atomic op signed size lanes) (held : ∀ l ∈ lanes, Claims.sectorHeld s q (l.addr / 32 % 4)) (hsize : size = 4 ∨ size = 8)
    (words : ∀ l ∈ lanes, l.addr % size = 0) (oneSector : ∀ k ∈ lanes, ∀ l ∈ lanes, k.addr / 32 = l.addr / 32) (some_ : lanes ≠ [])
    (operands : ∀ l ∈ lanes, l.b.toNat < 2 ^ (8 * size) ∧ l.c.toNat < 2 ^ (8 * size)) (settled : ∀ fa, State.unsettledGlobal s fa = false)
    (clean : ∀ l ∈ lanes, State.sectorPoisoned s q.region (q.line + l.addr % 128) = false) :
    ∃ t, exec (.homeRequest id) s = .next t ∧
      t = { s with cells := t.cells, regions := t.regions, mem := t.mem, codeWrites := t.codeWrites, homeQueue := t.homeQueue, tel := t.tel, package := t.package } ∧
      Claims.onlyRegionCache s t q.region ∧ t.homeQueue = NMap.erase s.homeQueue id ∧ (∀ d, d ≠ c → State.cell t d = State.cell s d) ∧
      (∀ l ∈ lanes, State.wordAt t q.region q.line size l.addr = (lanes.filter (fun k => decide (k.addr = l.addr))).foldl
        (fun v k => Claims.atomicValue op signed (8 * size) v k.b.toNat k.c.toNat) (State.wordAt s q.region q.line size l.addr)) ∧
      ∀ r p, (∀ l ∈ lanes, homeKey r p < homeKey q.region (q.line + l.addr % 128) ∨ homeKey q.region (q.line + l.addr % 128) + size ≤ homeKey r p) →
        State.byteAt t r p = State.byteAt s r p := by
  have parts := h
  obtain ⟨-, source, -, -, -, -, -, -, -, aligned, -⟩ := parts
  have unit : HomeBody.isUnit q.body = false := by rw [body]; rfl
  obtain ⟨k, hk⟩ := List.exists_mem_of_ne_nil lanes some_
  obtain ⟨l, line, -⟩ := held k hk
  have valid : ∀ i ∈ HomeBody.needs q.body, i ∈ l.valid := fun i hi => by
    rw [body] at hi
    obtain ⟨j, hj, rfl⟩ := List.mem_map.1 ((mem_dedupe ..).1 hi)
    obtain ⟨l', line', valid⟩ := held j hj
    cases line.symm.trans line'
    exact valid
  obtain ⟨t1, l1, take, cache1, line1, -⟩ := State.takeHome_hit (id := id) line
  obtain ⟨t2, t3, values, result, memory, cache3, wordsAt, others⟩ := State.atomicHome_spec op signed aligned hsize
    (fun k hk => ⟨words k hk, (operands k hk).1⟩) oneSector some_ (fun fa => by rw [cache1.unsettledGlobal]; exact settled fa)
    (fun k hk => by rw [cache1.sectorPoisoned]; exact clean k hk) line1
  have answered := answered_values source t3 id values
  generalize ht : State.answerValues t3 id q values 0 = t at answered
  obtain ⟨answer, otherCells, holds⟩ := answered
  have performed : State.perform t1 id q = t := by
    unfold State.perform
    rw [body]
    dsimp only
    rw [result]
    exact ht
  have frame3 : t3 = { State.taken s id with regions := t3.regions, mem := t3.mem, codeWrites := t3.codeWrites, tel := t3.tel } := by
    rw [cache3.1, memory, cache1.1]
  have frame : t = { State.taken s id with
      cells := t.cells, regions := t.regions, mem := t.mem, codeWrites := t.codeWrites, tel := t.tel, package := t.package } := by rw [answer, frame3]
  have only : Claims.onlyRegionCache s t q.region :=
    onlyRegionCache_trans (t := t3) (onlyRegionCache_trans (t := t2) (onlyRegionCache_trans (t := t1) cache1.2
      (onlyRegionCache_of_regions _ (by rw [memory]))) cache3.2) (onlyRegionCache_of_regions _ (by rw [answer]))
  have queue : t.homeQueue = NMap.erase s.homeQueue id := by rw [frame]; rfl
  have cells : ∀ d, State.cell t3 d = State.cell s d := fun d => by rw [frame3]; rfl
  have byte : ∀ r p, State.byteAt t r p = State.byteAt t3 r p := fun r p => by rw [answer]; rfl
  refine ⟨t, exec_homeRequest_of h (State.homeWay_hit h unit (State.holds_of_line line valid)) (take.trans performed)
      (nothingMoves_taken h queue (fun d => by rw [← cells d]; exact holds d)) (allSettled_taken h only (by rw [frame]; rfl)),
    by rw [frame]; rfl, only, queue, fun d hd => (otherCells d hd).trans (cells d), fun k hk => ?_, fun r p far => ?_⟩
  · have before : State.wordAt t1 q.region q.line size k.addr = State.wordAt s q.region q.line size k.addr := by
      unfold State.wordAt
      rw [tabulate_congr (fun i _ => cache1.byteAt q.region _)]
      rfl
    have after : State.wordAt t q.region q.line size k.addr = State.wordAt t3 q.region q.line size k.addr := by
      unfold State.wordAt
      rw [tabulate_congr (fun i _ => byte q.region _)]
    rw [after, wordsAt k hk, before]
  · rw [byte, others r p far, cache1.byteAt]; rfl

/-- The sectors of a load as its answer brings them. -/
def carriedSectors (s : State) (q : HomeRequest) (secs : List Nat) : NMap SectorData :=
  ((State.readLine s q.region q.line secs).map (·.1)).foldl (fun m i => NMap.insert m i
    { bytes := tabulate 32 (fun k => (lineBytes (State.readLine s q.region q.line secs)).getD (32 * i + k) 0)
      poison := (((State.readLine s q.region q.line secs).filter (fun e => e.2.poison)).map (·.1)).contains i }) []

/-- What a slot has been answered: the sectors read, and what it had of others. -/
theorem find_carriedSectors {secs : List Nat} (m : Miss) (aligned : q.line % 128 = 0) (range : ∀ i ∈ secs, i < 4) (i : Nat) :
    NMap.find ((Miss.answerWith m (carriedSectors s q secs)).answer.getD []) i =
      if i ∈ secs then some (State.sector s q.region (q.line + 32 * i)) else NMap.find (m.answer.getD []) i := by
  have keys : i ∈ (carriedSectors s q secs).map (·.1) ↔ i ∈ secs := by
    unfold carriedSectors
    rw [NMap.mem_keys_iff, NMap.find_tabulated, ← State.mem_readLine_keys s q.region q.line secs i]
    split <;> simp_all
  show NMap.find ((carriedSectors s q secs).foldl (fun a e => NMap.insert a e.1 e.2) (m.answer.getD [])) i = _
  unfold carriedSectors at keys ⊢
  rw [NMap.find_insertAll _ (NMap.mem_insertAll _)]
  by_cases hi : i ∈ secs
  · rw [if_pos (keys.2 hi), if_pos hi, State.carriedSector aligned hi (range i hi)]
  · rw [if_neg (fun k => hi (keys.1 k)), if_neg hi]

/-- The answer of a load of the home's own region reaches its slot at once. -/
theorem State.reply_near {u : State} {k : Nat} {secs : List Nat} (near : regionOf c = q.region) (source : q.source = .cell c slot) (answers : q.answers = some k) :
    State.reply u q.region id c (.sectors id q ((State.readLine s q.region q.line secs).map (·.1))
      (((State.readLine s q.region q.line secs).filter (fun e => e.2.poison)).map (·.1))) (lineBytes (State.readLine s q.region q.line secs)) =
    State.modCell u c (fun x => Cell.modMiss x k (fun y => Miss.answerWith y (carriedSectors s q secs))) := by
  rw [State.reply, if_pos near]
  show State.landSectors u id q (carriedSectors s q secs) = _
  unfold State.landSectors
  rw [source, answers]

/-- The answer to a cell of another region waits on the package network. -/
theorem State.reply_far {u : State} {r : Nat} {header : PackageHeader} {data : List Byte} (far : regionOf c ≠ r) :
    State.reply u r id c header data =
      { u with package := NMap.insert u.package id { source := r, destination := regionOf c, cls := .rsp, header := header, data := data } } := by
  rw [State.reply, if_neg far]

/-- R345: a load whose sectors are there is answered in its region, or by a packet to its own. -/
theorem homeRequest_read {k : Nat} {secs : List Nat} {m : Miss} (h : Claims.atHome s id c slot q) (body : q.body = .read secs) (some_ : secs ≠ [])
    (held : ∀ i ∈ secs, i < 4 ∧ Claims.sectorHeld s q i) (answers : q.answers = some k) (miss : NMap.find (State.cell s c).misses k = some m)
    (settled : ∀ fa, State.unsettledGlobal s fa = false) :
    ∃ t, exec (.homeRequest id) s = .next t ∧
      t = { s with cells := t.cells, regions := t.regions, homeQueue := t.homeQueue, tel := t.tel, package := t.package } ∧
      Claims.onlyRegionCache s t q.region ∧ t.homeQueue = NMap.erase s.homeQueue id ∧ (∀ d, d ≠ c → State.cell t d = State.cell s d) ∧
      (∃ ms, State.cell t c = { State.cell s c with misses := ms }) ∧
      (regionOf c = q.region → t.package = s.package ∧ ∃ m', NMap.find (State.cell t c).misses k = some m' ∧ m' = { m with answer := m'.answer } ∧
        ∀ i, NMap.find (m'.answer.getD []) i =
          (if i ∈ secs then some (State.sector s q.region (q.line + 32 * i)) else NMap.find (m.answer.getD []) i)) ∧
      (regionOf c ≠ q.region → State.cell t c = State.cell s c ∧ ∃ p h, NMap.find t.package id = some p ∧ p.source = q.region ∧ p.destination = regionOf c ∧
        p.cls = .rsp ∧ p.header = h ∧ p.data.length = 128 ∧ (∀ j, j ≠ id → NMap.find t.package j = NMap.find s.package j) ∧
        ∀ i ∈ secs, ∀ j, j < 32 → p.data.getD (32 * i + j) 0 = State.byteAt s q.region (q.line + 32 * i + j)) := by
  have parts := h
  obtain ⟨-, source, -, -, -, -, -, -, -, aligned, -⟩ := parts
  have unit : HomeBody.isUnit q.body = false := by rw [body]; rfl
  obtain ⟨i0, hi0⟩ := List.exists_mem_of_ne_nil secs some_
  obtain ⟨-, l, line, -⟩ := held i0 hi0
  have valid : ∀ i ∈ HomeBody.needs q.body, i ∈ l.valid := fun i hi => by
    rw [body] at hi
    obtain ⟨-, l', line', valid⟩ := held i hi
    cases line.symm.trans line'
    exact valid
  obtain ⟨t1, l1, take, cache1, line1, -⟩ := State.takeHome_hit (id := id) line
  have cache2 := cache1.trans (State.useRead_line line1)
  have data : State.readLine t1 q.region q.line secs = State.readLine s q.region q.line secs := by
    unfold State.readLine
    simp only [cache1.sector]
    rfl
  generalize hu : State.useRead t1 q.region q.line = u at cache2
  have performed : State.perform t1 id q = State.reply u q.region id c
      (.sectors id q ((State.readLine s q.region q.line secs).map (·.1)) (((State.readLine s q.region q.line secs).filter (fun e => e.2.poison)).map (·.1)))
      (lineBytes (State.readLine s q.region q.line secs)) := by
    have own : (HomeSource.copies q.source || decide (q.source = .host)) = false := by rw [source]; rfl
    unfold State.perform
    rw [body]
    dsimp only
    rw [own, if_neg Bool.false_ne_true, State.readForGroup_settled (fun fa => by rw [cache1.unsettledGlobal]; exact settled fa), data]
    dsimp only
    rw [hu]
    unfold State.answerSectors
    rw [source]
    rfl
  have frameU : u = { State.taken s id with regions := u.regions, tel := u.tel } := cache2.1
  have cells : ∀ d, State.cell u d = State.cell s d := fun d => by rw [frameU]; rfl
  have way := State.homeWay_hit h unit (State.holds_of_line line valid)
  have range : ∀ i ∈ secs, i < 4 := fun i hi => (held i hi).1
  by_cases near : regionOf c = q.region
  · rw [State.reply_near near source answers] at performed
    generalize ht : State.modCell u c _ = t at performed
    have frame : t = { State.taken s id with cells := t.cells, regions := t.regions, tel := t.tel } := by rw [← ht, State.modCell, State.setCell, frameU]
    have only : Claims.onlyRegionCache s t q.region := onlyRegionCache_trans (t := u) cache2.2 (onlyRegionCache_of_regions _ (by rw [← ht, State.modCell_regions]))
    have queue : t.homeQueue = NMap.erase s.homeQueue id := by rw [frame]; rfl
    have others : ∀ d, d ≠ c → State.cell t d = State.cell s d := fun d hd => by rw [← ht, State.cell_modCell, if_neg (Ne.symm hd), cells]
    have mine : State.cell t c = Cell.modMiss (State.cell s c) k (fun y => Miss.answerWith y (carriedSectors s q secs)) := by
      rw [← ht, State.cell_modCell, if_pos rfl, cells]
    refine ⟨t, exec_homeRequest_of h way (take.trans performed) (nothingMoves_taken h queue (fun d => ?_)) (allSettled_taken h only (by rw [frame]; rfl)),
      by rw [frame]; rfl, only, queue, others, ⟨_, mine⟩, fun _ => ⟨by rw [frame]; rfl, ?_⟩, fun far => absurd near far⟩
    · by_cases hd : d = c
      · rw [hd, mine]; exact ⟨rfl, rfl⟩
      · rw [others d hd]; exact ⟨rfl, rfl⟩
    · refine ⟨Miss.answerWith m (carriedSectors s q secs), ?_, rfl, find_carriedSectors m aligned range⟩
      rw [mine]
      show NMap.find (NMap.mod (State.cell s c).misses k (fun y => Miss.answerWith y (carriedSectors s q secs))) k = _
      rw [NMap.find_mod, if_pos rfl, miss]
      rfl
  · rw [State.reply_far near] at performed
    generalize ht : ({ u with package := _ } : State) = t at performed
    have frame : t = { State.taken s id with regions := t.regions, tel := t.tel, package := t.package } := by rw [← ht, frameU]
    have only : Claims.onlyRegionCache s t q.region := onlyRegionCache_trans (t := u) cache2.2 (onlyRegionCache_of_regions _ (by rw [← ht]))
    have queue : t.homeQueue = NMap.erase s.homeQueue id := by rw [frame]; rfl
    have same : ∀ d, State.cell t d = State.cell s d := fun d => by rw [frame]; rfl
    have package : u.package = s.package := by rw [frameU]; rfl
    refine ⟨t, exec_homeRequest_of h way (take.trans performed) (nothingMoves_taken h queue (fun d => by rw [same d]; exact ⟨rfl, rfl⟩))
        (allSettled_taken h only (by rw [frame]; rfl)),
      by rw [frame]; rfl, only, queue, fun d _ => same d, ⟨_, same c⟩, fun n => absurd n near, fun _ => ⟨same c, ?_⟩⟩
    rw [← ht]
    refine ⟨_, _, by rw [NMap.find_insert, if_pos rfl], rfl, rfl, rfl, rfl, by simp [lineBytes, tabulate], fun j hj => ?_,
      fun i hi j hj => State.lineBytes_readLine aligned hi (range i hi) hj⟩
    rw [NMap.find_insert, if_neg (Ne.symm hj), package]

/-- R345, R352: a load of a line that is not there allocates it and asks the stack for it. -/
theorem homeRequest_fill {secs : List Nat} (h : Claims.atHome s id c slot q) (body : q.body = .read secs) (some_ : secs ≠ [])
    (absent : State.regionLine s q.region q.line = none) (freeWay : (State.regionLines s q.region q.line).length < 12) (room : s.stackQueue.length < 32) :
    ∃ t, exec (.homeRequest id) s = .next t ∧ Claims.onlyRegionCache s t q.region ∧ (∃ l, State.regionLine t q.region q.line = some l ∧ l.valid = []) ∧
      t = { s with
        regions := t.regions, tel := t.tel, nextId := s.nextId + 1
        homeQueue := NMap.insert s.homeQueue id { q with stage := .home, joined := some s.nextId }
        stackQueue := NMap.insert s.stackQueue s.nextId
          { region := q.region, line := q.line, channel := 64 * q.region + (channelOf q.line).1
            bank := (channelOf q.line).2.1, row := (channelOf q.line).2.2.1, write := false } } := by
  have unit : HomeBody.isUnit q.body = false := by rw [body]; rfl
  have needs : (HomeBody.needs q.body).isEmpty = false := by rw [body]; exact Bool.eq_false_iff.2 (fun h => some_ (List.isEmpty_iff.1 h))
  obtain ⟨t0, -, here, cache0, -⟩ := State.allocate_freeWay absent freeWay q.cls q.tag
  have same : State.regionLines (State.homeGranted s q) q.region q.line = State.regionLines s q.region q.line := by
    show NMap.get (State.region (State.homeGranted s q) q.region).cache [] _ = NMap.get (State.region s q.region).cache [] _
    unfold State.homeGranted
    rw [State.region_setRegion, if_pos rfl]
  have absent' : State.regionLine (State.homeGranted s q) q.region q.line = none := by
    unfold State.regionLine at absent ⊢
    rw [same]
    exact absent
  obtain ⟨t1, l, allocated, cache1, line, valid⟩ := State.allocate_freeWay absent' (same ▸ freeWay) q.cls q.tag
  have cache := (atCache_homeGranted s q).trans cache1
  have stackRoom : State.stackRoom t0 q.region q.line = true := by
    have queue : t0.stackQueue = s.stackQueue := by rw [cache0.1]
    have few : ∀ p : Nat × StackCommand → Bool, (s.stackQueue.filter p).length < 32 := fun p => lt_of_le_of_lt (List.length_filter_le ..) room
    unfold State.stackRoom
    dsimp only
    rw [queue, List.filter_filter]
    exact decide_eq_true ⟨lt_trans (few _) (by decide), few _⟩
  have way : State.homeWay s id q = some .fill :=
    State.homeWay_allocates h unit (State.holds_absent absent) here (by rw [needs, if_neg Bool.false_ne_true, if_pos stackRoom])
  generalize ht : State.takeHome (State.homeGranted s q) id q .fill = t
  have taken : t = State.stackIssue { t1 with homeQueue := NMap.insert t1.homeQueue id { q with stage := .home, joined := some t1.nextId } } q.region q.line false := by
    rw [← ht]
    unfold State.takeHome
    dsimp only
    rw [allocated]
    rfl
  have frame : t = { s with
      regions := t.regions, tel := t.tel, nextId := s.nextId + 1
      homeQueue := NMap.insert s.homeQueue id { q with stage := .home, joined := some s.nextId }
      stackQueue := NMap.insert s.stackQueue s.nextId
        { region := q.region, line := q.line, channel := 64 * q.region + (channelOf q.line).1
          bank := (channelOf q.line).2.1, row := (channelOf q.line).2.2.1, write := false } } := by
    rw [taken, State.stackIssue, cache.1]
    rfl
  have regions : t.regions = t1.regions := by rw [taken, State.stackIssue]
  have only : Claims.onlyRegionCache s t q.region := onlyRegionCache_trans (t := t1) cache.2 (onlyRegionCache_of_regions _ regions)
  have rest : Claims.nothingMoves t := by
    obtain ⟨-, -, -, -, -, -, -, -, -, -, -, rest, -⟩ := h
    refine nothingMoves_of rest (fun e he => ?_) (fun d => by rw [frame]; exact ⟨rfl, rfl⟩)
    rw [frame] at he
    rcases NMap.mem_of_mem_insert he with rfl | he
    · exact .inl rfl
    · exact .inr he
  refine ⟨t, exec_homeRequest_of h way ht rest (allSettled_taken h only (by rw [frame])), only, ⟨l, ?_, valid⟩, frame⟩
  rw [← line]
  unfold State.regionLine State.regionLines State.region
  rw [regions]

end

end Sys2Proof.Machine

open Sys2Proof Sys2Proof.Machine

/-- Settles O33: the request is taken by the line that is there, or by one allocated for it; what is performed on the line says the rest. -/
theorem homeRequests : Obligations.HomeRequests := by
  unfold Obligations.HomeRequests
  refine ⟨?_, ?_, ?_, ?_⟩
  · intro s id c slot i q bs bad h body hi rising inside may
    exact homeRequest_write h body hi rising inside may
  · intro s id c slot size q op signed lanes h body held hsize words oneSector some_ operands settled clean
    exact homeRequest_atomic h body held hsize words oneSector some_ operands settled clean
  · intro s id c slot k q secs m h body some_ held answers miss settled
    exact homeRequest_read h body some_ held answers miss settled
  · intro s id c slot q secs h body some_ absent freeWay room
    exact homeRequest_fill h body some_ absent freeWay room

end

section
/-!
SUPPORT. Reports: what a counter, a flag, a log record and an alarm change in Baker's records, and what they leave (R36, R526 to R530, R540, R542).
-/

namespace Sys2Proof.Machine

/-! ### Counters -/

theorem counterKey_code (c : Counter) (p i : Nat) : counterKey c p i / 2 ^ 24 = Counter.code c := by unfold counterKey; omega

/-- Counters of two codes are two counters. -/
theorem counterKey_ne {c d : Counter} (h : Counter.code c ≠ Counter.code d) (p i q j : Nat) : counterKey c p i ≠ counterKey d q j :=
  fun e => h (by rw [← counterKey_code c p i, e, counterKey_code])

/-- Baker's records go on from `s` to `t`: of the counters only those of `keys`, and the flags' own, advance; nothing sent is taken back, no flag is
cleared. -/
structure Reports (keys : List Nat) (s t : State) : Prop where
  quiet : ∀ key, key / 2 ^ 24 ≠ Counter.code .flagEvents → key ∉ keys → NMap.get t.tel.counters 0 key = NMap.get s.tel.counters 0 key
  sent : ∀ e ∈ s.tel.logPath, e ∈ t.tel.logPath
  flags : ∀ b, s.tel.errFlags.testBit b = true → t.tel.errFlags.testBit b = true

/-- From `s` to `t` nothing but Baker's records changes. -/
def OnlyRecords (s t : State) : Prop := t = { s with tel := t.tel }

theorem OnlyRecords.trans {s t u : State} (h : OnlyRecords s t) (k : OnlyRecords t u) : OnlyRecords s u := by
  unfold OnlyRecords at *
  rw [k, h]

theorem Reports.refl (s : State) : Reports [] s s := ⟨fun _ _ _ => rfl, fun _ h => h, fun _ h => h⟩

theorem Reports.trans {k l : List Nat} {s t u : State} (h : Reports k s t) (g : Reports l t u) : Reports (k ++ l) s u where
  quiet := fun key flag out => by
    rw [g.quiet key flag (fun m => out (List.mem_append_right _ m)), h.quiet key flag (fun m => out (List.mem_append_left _ m))]
  sent := fun e he => g.sent e (h.sent e he)
  flags := fun b hb => g.flags b (h.flags b hb)

/-- A step that leaves the records' counters, log path and flags. -/
theorem reports_of_same {s t : State} (counters : t.tel.counters = s.tel.counters) (sent : ∀ e ∈ s.tel.logPath, e ∈ t.tel.logPath)
    (flags : t.tel.errFlags = s.tel.errFlags) : Reports [] s t :=
  ⟨fun _ _ _ => by rw [counters], sent, fun _ h => by rw [flags]; exact h⟩

theorem reports_of_tel {s t : State} (tel : t.tel = s.tel) : Reports [] s t :=
  reports_of_same (by rw [tel]) (fun _ h => by rw [tel]; exact h) (by rw [tel])

theorem Telemetry.addAt_get (t : Telemetry) (now key n k : Nat) :
    NMap.get (Telemetry.addAt t now key n).counters 0 k = if key = k then min (NMap.get t.counters 0 key + n) (counterMax key) else NMap.get t.counters 0 k := by
  unfold Telemetry.addAt
  exact NMap.get_upd t.counters 0 key k (fun v => min (v + n) (counterMax key))

theorem Telemetry.flag_get (t : Telemetry) (now b : Nat) {k : Nat} (hk : k / 2 ^ 24 ≠ Counter.code .flagEvents) :
    NMap.get (Telemetry.flag t now b).counters 0 k = NMap.get t.counters 0 k := by
  unfold Telemetry.flag
  rw [Telemetry.addAt_get, if_neg (fun e => hk (by rw [← e, counterKey_code]))]

theorem State.flag_eq (s : State) (b : Nat) : State.flag s b = { s with tel := Telemetry.flag s.tel s.timebase b } := rfl

theorem onlyRecords_flag (s : State) (b : Nat) : OnlyRecords s (State.flag s b) := rfl

theorem reports_flag (s : State) (b : Nat) : Reports [] s (State.flag s b) where
  quiet := fun key flag _ => Telemetry.flag_get s.tel s.timebase b flag
  sent := fun _ h => h
  flags := fun k h => by
    show (s.tel.errFlags ||| 2 ^ b).testBit k = true
    rw [Nat.testBit_or, h, Bool.true_or]

theorem flag_set (s : State) (b : Nat) : (State.flag s b).tel.errFlags.testBit b = true := by
  show (s.tel.errFlags ||| 2 ^ b).testBit b = true
  rw [Nat.testBit_or, Nat.testBit_two_pow_self, Bool.or_true]

/-- A count advances its counter, and sets flag 9 where the counter saturates. -/
theorem Telemetry.count_cases (t : Telemetry) (now : Nat) (c : Counter) (p i n : Nat) :
    Telemetry.count t now c p i n = Telemetry.addAt t now (counterKey c p i) n ∨
      Telemetry.count t now c p i n = Telemetry.flag (Telemetry.addAt t now (counterKey c p i) n) now 9 := by
  unfold Telemetry.count
  generalize counterKey c p i = key
  dsimp only
  split
  · exact .inr rfl
  · exact .inl rfl

theorem Telemetry.count_counters (t : Telemetry) (now : Nat) (c : Counter) (p i n : Nat) {k : Nat} (hk : k / 2 ^ 24 ≠ Counter.code .flagEvents) :
    NMap.get (Telemetry.count t now c p i n).counters 0 k =
      if counterKey c p i = k then min (NMap.get t.counters 0 (counterKey c p i) + n) (counterMax (counterKey c p i)) else NMap.get t.counters 0 k := by
  obtain e | e := Telemetry.count_cases t now c p i n
  · rw [e, Telemetry.addAt_get]
  · rw [e, Telemetry.flag_get _ _ _ hk, Telemetry.addAt_get]

theorem Telemetry.addAt_eq (t : Telemetry) (now key n : Nat) :
    Telemetry.addAt t now key n = { t with counters := (Telemetry.addAt t now key n).counters, ticked := (Telemetry.addAt t now key n).ticked } := rfl

theorem Telemetry.flag_eq (t : Telemetry) (now b : Nat) :
    Telemetry.flag t now b = { t with
      counters := (Telemetry.flag t now b).counters, ticked := (Telemetry.flag t now b).ticked, errFlags := t.errFlags ||| 2 ^ b
      w1cSets := (Telemetry.flag t now b).w1cSets } := rfl

/-- A count touches counters and sticky flags only. -/
theorem Telemetry.count_eq (t : Telemetry) (now : Nat) (c : Counter) (p i n : Nat) :
    Telemetry.count t now c p i n = { t with
      counters := (Telemetry.count t now c p i n).counters, ticked := (Telemetry.count t now c p i n).ticked
      errFlags := (Telemetry.count t now c p i n).errFlags, w1cSets := (Telemetry.count t now c p i n).w1cSets } := by
  obtain e | e := Telemetry.count_cases t now c p i n
  · rw [e, Telemetry.addAt_eq]
  · rw [e, Telemetry.flag_eq, Telemetry.addAt_eq]

theorem Telemetry.count_logPath (t : Telemetry) (now : Nat) (c : Counter) (p i n : Nat) : (Telemetry.count t now c p i n).logPath = t.logPath := by
  rw [Telemetry.count_eq]

theorem Telemetry.count_flags (t : Telemetry) (now : Nat) (c : Counter) (p i n : Nat) {b : Nat} (h : t.errFlags.testBit b = true) :
    (Telemetry.count t now c p i n).errFlags.testBit b = true := by
  obtain e | e := Telemetry.count_cases t now c p i n
  · rw [e, Telemetry.addAt_eq]; exact h
  · rw [e, Telemetry.flag_eq, Telemetry.addAt_eq]
    exact (Nat.testBit_or ..).trans (by rw [h, Bool.true_or])

theorem onlyRecords_count (s : State) (c : Counter) (p i n : Nat) : OnlyRecords s (State.count s c p i n) := rfl

theorem reports_count (s : State) (c : Counter) (p i n : Nat) : Reports [counterKey c p i] s (State.count s c p i n) where
  quiet := fun key flag out => by
    rw [State.count_eq]
    show NMap.get (Telemetry.count ..).counters 0 key = _
    rw [Telemetry.count_counters _ _ _ _ _ _ flag, if_neg (fun e => out (List.mem_singleton.2 e.symm))]
  sent := fun e h => by rw [State.count_eq]; show e ∈ (Telemetry.count ..).logPath; rw [Telemetry.count_logPath]; exact h
  flags := fun b h => by rw [State.count_eq]; exact Telemetry.count_flags _ _ _ _ _ _ h

/-- A count advances its counter, saturating. -/
theorem counted_count (s : State) (c : Counter) (p i n : Nat) (hc : Counter.code c ≠ Counter.code .flagEvents) : Claims.counted s (State.count s c p i n) c p i n := by
  unfold Claims.counted Claims.counter
  rw [State.count_eq]
  show NMap.get (Telemetry.count ..).counters 0 _ = _
  rw [Telemetry.count_counters _ _ _ _ _ _ (by rw [counterKey_code]; exact hc), if_pos rfl, Nat.min_comm]

section
variable {keys : List Nat} {s t u : State} {c : Counter} {p i : Nat}

theorem Reports.counter (h : Reports keys s t) (hc : Counter.code c ≠ Counter.code .flagEvents) (out : counterKey c p i ∉ keys) :
    Claims.counter t c p i = Claims.counter s c p i :=
  h.quiet _ (by rw [counterKey_code]; exact hc) out

theorem Reports.counted_after {n : Nat} (h : Claims.counted s t c p i n) (k : Reports keys t u) (hc : Counter.code c ≠ Counter.code .flagEvents)
    (out : counterKey c p i ∉ keys) : Claims.counted s u c p i n := by
  unfold Claims.counted at *
  rw [k.counter hc out, h]

theorem Reports.counted_before {n : Nat} (h : Reports keys s t) (hc : Counter.code c ≠ Counter.code .flagEvents) (out : counterKey c p i ∉ keys)
    (k : Claims.counted t u c p i n) : Claims.counted s u c p i n := by
  unfold Claims.counted at *
  rw [k, h.counter hc out]

/-- Two counts of one counter add up. -/
theorem counted_add {n m : Nat} (h : Claims.counted s t c p i n) (k : Claims.counted t u c p i m) : Claims.counted s u c p i (n + m) := by
  unfold Claims.counted at *
  rw [k, h]
  omega

end

/-! ### Log records, alarms, episodes and recoveries -/

theorem State.log_eq (s : State) (y k o : Nat) (j : Half) (d : List Nat) :
    State.log s y k o j d = { s with tel := { s.tel with
      logPath := s.tel.logPath ++ [(sourceRegion k o, { stamp := s.timebase, type := y, kind := k, source := o, job := j, d := d })] } } := rfl

theorem onlyRecords_log (s : State) (y k o : Nat) (j : Half) (d : List Nat) : OnlyRecords s (State.log s y k o j d) := rfl

theorem reports_log (s : State) (y k o : Nat) (j : Half) (d : List Nat) : Reports [] s (State.log s y k o j d) :=
  reports_of_same rfl (fun _ h => List.mem_append_left _ h) rfl

theorem logged_log (s : State) (y k o : Nat) (j : Half) (d : List Nat) :
    (sourceRegion k o, { stamp := s.timebase, type := y, kind := k, source := o, job := j, d := d }) ∈ (State.log s y k o j d).tel.logPath :=
  List.mem_append_right _ (List.mem_singleton_self _)

/-- An occurrence that leaves its source changes the alarm path only. -/
theorem Telemetry.occur_eq (t : Telemetry) (n : Nat) (o : AlarmOccurrence) : Telemetry.occur t n o = { t with alarmPath := (Telemetry.occur t n o).alarmPath } := by
  unfold Telemetry.occur
  dsimp only
  split <;> rfl

/-- An alarm is one occurrence on its way, and one log record (R527). -/
theorem State.raise_eq (s : State) (code k o d : Nat) : ∃ path, State.raise s code k o d = { s with tel := { s.tel with
    alarmPath := path
    logPath := s.tel.logPath ++ [(sourceRegion k o, { stamp := s.timebase, type := 0x100 + code, kind := k, source := o, job := 0, d := [d, k * 2 ^ 16 + o] })] } } := by
  unfold State.raise
  dsimp only
  rw [Telemetry.occur_eq, State.log_eq]
  exact ⟨_, rfl⟩

theorem onlyRecords_raise (s : State) (code k o d : Nat) : OnlyRecords s (State.raise s code k o d) := by
  obtain ⟨path, h⟩ := State.raise_eq s code k o d
  unfold OnlyRecords
  rw [h]

theorem reports_raise (s : State) (code k o d : Nat) : Reports [] s (State.raise s code k o d) := by
  obtain ⟨path, h⟩ := State.raise_eq s code k o d
  rw [h]
  exact reports_of_same rfl (fun _ h => List.mem_append_left _ h) rfl

theorem alarmed_raise (s : State) (code k o d : Nat) : Claims.alarmed s (State.raise s code k o d) code k o d := by
  obtain ⟨path, h⟩ := State.raise_eq s code k o d
  unfold Claims.alarmed
  rw [h]
  exact List.mem_append_right _ (List.mem_singleton_self _)

/-- An alarm raised stays raised. -/
theorem Reports.alarmed {keys : List Nat} {s t u : State} {code k o d : Nat} (h : Claims.alarmed s t code k o d) (g : Reports keys t u) :
    Claims.alarmed s u code k o d := g.sent _ h

/-- Of a later moment of the same tick an alarm says the same. -/
theorem alarmed_of {s t u : State} {code k o d : Nat} (time : t.timebase = s.timebase) (h : Claims.alarmed t u code k o d) : Claims.alarmed s u code k o d := by
  unfold Claims.alarmed at *; rw [← time]; exact h

theorem onlyRecords_recoveryEvent (s : State) (row : Nat) : OnlyRecords s (State.recoveryEvent s row) := by
  unfold State.recoveryEvent
  dsimp only
  split
  · exact onlyRecords_count ..
  · split
    · exact ((onlyRecords_count ..).trans (onlyRecords_flag ..)).trans (onlyRecords_flag ..)
    · exact (onlyRecords_count ..).trans (onlyRecords_flag ..)

theorem reports_recoveryEvent (s : State) (row : Nat) : Reports [counterKey .recoveryEvents row 0] s (State.recoveryEvent s row) := by
  have counted := reports_count s .recoveryEvents row 0 1
  unfold State.recoveryEvent
  dsimp only
  split
  · exact counted
  · split
    · exact (counted.trans (reports_flag _ 10)).trans (reports_flag _ 11)
    · exact counted.trans (reports_flag _ 10)

theorem counted_recoveryEvent (s : State) (row : Nat) : Claims.counted s (State.recoveryEvent s row) .recoveryEvents row 0 1 := by
  have counted := counted_count s .recoveryEvents row 0 1 (by decide)
  have after : ∀ {u}, Reports [] (State.count s .recoveryEvents row 0 1) u → Claims.counted s u .recoveryEvents row 0 1 :=
    fun h => h.counted_after counted (by decide) (fun m => nomatch m)
  unfold State.recoveryEvent
  dsimp only
  split
  · exact counted
  · split
    · exact after ((reports_flag _ 10).trans (reports_flag _ 11))
    · exact after (reports_flag _ 10)

/-! ### Counters and sticky flags aside -/

/-- From `x` to `y` only counters and sticky flags change. -/
def Quiet (x y : Telemetry) : Prop := y = { x with counters := y.counters, errFlags := y.errFlags, w1cSets := y.w1cSets, ticked := y.ticked }

theorem Quiet.trans {x y z : Telemetry} (h : Quiet x y) (k : Quiet y z) : Quiet x z := by
  unfold Quiet at *; rw [k, h]

theorem State.tel_count (s : State) (c : Counter) (p i n : Nat) : (State.count s c p i n).tel = Telemetry.count s.tel s.timebase c p i n := by
  rw [State.count_eq]

theorem quiet_count (s : State) (c : Counter) (p i n : Nat) : Quiet s.tel (State.count s c p i n).tel := by
  rw [State.tel_count]
  exact Telemetry.count_eq s.tel s.timebase c p i n

theorem quiet_flag (s : State) (b : Nat) : Quiet s.tel (State.flag s b).tel := by
  unfold Quiet
  rw [State.flag_eq]
  dsimp only
  rw [Telemetry.flag_eq]

theorem quiet_recoveryEvent (s : State) (row : Nat) : Quiet s.tel (State.recoveryEvent s row).tel := by
  have counted := quiet_count s .recoveryEvents row 0 1
  unfold State.recoveryEvent
  dsimp only
  split
  · exact counted
  · split
    · exact (counted.trans (quiet_flag _ 10)).trans (quiet_flag _ 11)
    · exact counted.trans (quiet_flag _ 10)

/-! ### Episodes -/

/-- The condition of an episode is current. -/
def State.addEpisode (s : State) (e : Nat × Nat × Nat × Nat) : State := { s with tel := { s.tel with episodes := s.tel.episodes ++ [e] } }

theorem State.beginEpisode_eq (s : State) (c k o u d : Nat) : State.beginEpisode s c k o u d =
    if s.tel.episodes.contains (c, k, o, u) then s else State.raise (State.addEpisode s (c, k, o, u)) c k o d := rfl

theorem reports_addEpisode (s : State) (e : Nat × Nat × Nat × Nat) : Reports [] s (State.addEpisode s e) := reports_of_same rfl (fun _ h => h) rfl

theorem onlyRecords_beginEpisode (s : State) (c k o u d : Nat) : OnlyRecords s (State.beginEpisode s c k o u d) := by
  rw [State.beginEpisode_eq]
  split
  · rfl
  · exact OnlyRecords.trans (t := State.addEpisode s (c, k, o, u)) rfl (onlyRecords_raise ..)

/-- An episode that has begun is current, and its alarm is raised where it was not (R526). -/
theorem beginEpisode_current (s : State) (c k o u d : Nat) : (c, k, o, u) ∈ (State.beginEpisode s c k o u d).tel.episodes ∧
    ((c, k, o, u) ∉ s.tel.episodes → Claims.alarmed s (State.beginEpisode s c k o u d) c k o d) := by
  rw [State.beginEpisode_eq]
  split
  · next h =>
    have h' := List.contains_iff_mem.1 h
    exact ⟨h', fun n => absurd h' n⟩
  · refine ⟨?_, fun _ => alarmed_of (t := State.addEpisode s (c, k, o, u)) rfl (alarmed_raise ..)⟩
    obtain ⟨path, h⟩ := State.raise_eq (State.addEpisode s (c, k, o, u)) c k o d
    rw [h]
    exact List.mem_append_right _ (List.mem_singleton_self _)

theorem reports_endEpisode (s : State) (c k o u : Nat) : Reports [] s (State.endEpisode s c k o u) := reports_of_same rfl (fun _ h => h) rfl

theorem not_mem_endEpisode (s : State) (c k o u : Nat) : (c, k, o, u) ∉ (State.endEpisode s c k o u).tel.episodes :=
  fun h => of_decide_eq_true (List.mem_filter.1 h).2 rfl

theorem reports_w1cSet (s : State) (k : Nat) : Reports [] s (State.w1cSet s k) := reports_of_same rfl (fun _ h => h) rfl

end Sys2Proof.Machine
end

section
/-!
SUPPORT. Ports: reading after writing, what a flit says, and a packet that comes to an idle port, which leaves or waits (R384, R387, R440, R445).
-/

namespace Sys2Proof.Machine

/-! ### Reading and writing ports -/

@[simp] theorem State.port_setPort (s : State) (p q : Nat) (x : Port) : State.port (State.setPort s p x) q = if p = q then x else State.port s q :=
  NMap.get_set ..

theorem State.port_setPort_same (s : State) (p : Nat) (x : Port) : State.port (State.setPort s p x) p = x := by rw [State.port_setPort, if_pos rfl]

theorem State.port_setPort_ne (s : State) {p q : Nat} (h : q ≠ p) (x : Port) : State.port (State.setPort s p x) q = State.port s q := by
  rw [State.port_setPort, if_neg (Ne.symm h)]

theorem State.port_congr {s t : State} (h : t.ports = s.ports) (p : Nat) : State.port t p = State.port s p := by unfold State.port; rw [h]

/-! ### What a flit says -/

/-- The pair with the largest unreported change so far is among those seen, and none seen has a larger change. -/
theorem foldl_change (x : Port) (l : List (Nat × Nat)) (b : Nat) :
    let m := l.foldl (fun best e => if Port.change x best < Port.change x e.1 then e.1 else best) b
    (m = b ∨ m ∈ l.map (·.1)) ∧ Port.change x b ≤ Port.change x m ∧ ∀ e ∈ l, Port.change x e.1 ≤ Port.change x m := by
  induction l generalizing b with
  | nil => exact ⟨.inl rfl, Nat.le_refl _, fun _ h => nomatch h⟩
  | cons e l ih =>
    rw [List.foldl_cons]
    obtain ⟨from_, above, all⟩ := ih (if Port.change x b < Port.change x e.1 then e.1 else b)
    refine ⟨?_, Nat.le_trans ?_ above, fun f hf => ?_⟩
    · obtain h | h := from_
      · rw [h]
        split
        · exact .inr List.mem_cons_self
        · exact .inl rfl
      · exact .inr (List.mem_cons_of_mem _ h)
    · split
      · next h => exact Nat.le_of_lt h
      · exact Nat.le_refl _
    · obtain rfl | h := List.mem_cons.1 hf
      · refine Nat.le_trans ?_ above
        split
        · exact Nat.le_refl _
        · next h => exact Nat.le_of_not_lt h
      · exact all f h

theorem Port.reportPair_urgent {x : Port} {e : Nat × Nat} (h : x.due.find? (fun e => decide (48 ≤ e.2 + x.due.length)) = some e) : Port.reportPair x = e.1 := by
  unfold Port.reportPair; rw [h]

/-- With no pair that must be reported now the pair is one that waits, with the largest change. -/
theorem Port.reportPair_rest {x : Port} (h : x.due.find? (fun e => decide (48 ≤ e.2 + x.due.length)) = none) :
    (x.due = [] → Port.reportPair x = 0) ∧ (x.due ≠ [] → Port.reportPair x ∈ x.due.map (·.1)) ∧ ∀ e ∈ x.due, Port.change x e.1 ≤ Port.change x (Port.reportPair x) := by
  have pair : Port.reportPair x =
      x.due.foldl (fun best e => if Port.change x best < Port.change x e.1 then e.1 else best) ((x.due.head?.map (·.1)).getD 0) := by
    unfold Port.reportPair; rw [h]
  obtain ⟨from_, -, all⟩ := foldl_change x x.due ((x.due.head?.map (·.1)).getD 0)
  rw [← pair] at from_ all
  refine ⟨fun none_ => ?_, fun some_ => ?_, all⟩
  · rw [pair, none_]; rfl
  · obtain h | h := from_
    · obtain ⟨e, l, hl⟩ := List.exists_cons_of_ne_nil some_
      rw [h, hl]
      exact List.mem_cons_self
    · exact h

theorem claims_says (x : Port) : Claims.says x (Port.reported x) (Port.report x) := by
  have told : ∀ k, NMap.get (Port.reported x).told 0 k = if Port.reportPair x = k then NMap.get x.returned 0 (Port.reportPair x) else NMap.get x.told 0 k :=
    fun k => NMap.get_set ..
  have pairs : (x.due = [] → Port.reportPair x = 0) ∧ (x.due ≠ [] → Port.reportPair x ∈ x.due.map (·.1)) ∧
      ((∀ e ∈ x.due, e.2 + x.due.length < 48) → ∀ e ∈ x.due, Port.change x e.1 ≤ Port.change x (Port.reportPair x)) := by
    cases h : x.due.find? (fun e => decide (48 ≤ e.2 + x.due.length)) with
    | none =>
      obtain ⟨idle, waits, most⟩ := Port.reportPair_rest h
      exact ⟨idle, waits, fun _ => most⟩
    | some e =>
      have mem := List.mem_of_find?_eq_some h
      have late : 48 ≤ e.2 + x.due.length := by simpa using List.find?_some h
      rw [Port.reportPair_urgent h]
      refine ⟨fun none_ => ?_, fun _ => List.mem_map_of_mem mem, fun early => ?_⟩
      · rw [none_] at mem; exact nomatch mem
      · exact absurd (early e mem) (by omega)
  obtain ⟨idle, waits, most⟩ := pairs
  refine ⟨rfl, rfl, idle, waits, fun e he => Port.reportPair_urgent he, most, rfl, ?_, fun k hk => ?_⟩
  · rw [told]; exact if_pos rfl
  · exact (told k).trans (if_neg (Ne.symm hk))

/-! ### One packet at an idle port -/

theorem arbitrate_single (passed : NMap Nat) (o : Nat) : arbitrate passed [o] = some o := by
  unfold arbitrate
  dsimp only
  rw [List.filter_singleton]
  cases decide (16 ≤ NMap.get passed 0 o + [o].length) <;> rfl

theorem roundRobin_single (last : Option Nat) (v : Nat) : roundRobin last [v] = some v := by
  unfold roundRobin
  cases last with
  | none => rfl
  | some n => cases h : decide (n < v) <;> simp [h, firstSome]

theorem vcOrder_lt (v : Nat) : vcOrder v < 5 := by unfold vcOrder; split_ifs <;> omega

theorem orders_single (v : Nat) : (List.range 5).filter (fun o => [v].any (fun v => decide (vcOrder v = o))) = [vcOrder v] := by
  have h := vcOrder_lt v
  simp only [List.any_cons, List.any_nil, Bool.or_false]
  generalize vcOrder v = o at h
  revert o
  decide

/-- The port with one packet waiting. -/
def Port.holding (x : Port) (w : WaitingPacket) : Port := { x with queued := [w] }

/-- The port with the grant of its one packet noted. -/
def Port.granted (x : Port) (vc : Nat) : Port :=
  { x with queued := [], controls := [], grants := { passed := passOver x.grants.passed [vcOrder vc] (vcOrder vc), last := NMap.insert x.grants.last (vcOrder vc) vc } }

/-- The port once packet `k` has left it on a credit of class `cls`, but for the report (R442, R445). -/
def Port.sending (x : Port) (vc cls : Nat) (k : TransitPacket) : Port :=
  { x with
    txNext := (x.txNext + 1) % 4096, replay := x.replay ++ [{ seq := x.txNext, vc := vc, cred := cls, payload := [k], control := none }]
    sent := NMap.upd x.sent 0 (pairKey vc cls) (fun n => n + 1) }

theorem Port.sent_sending (x : Port) (vc cls : Nat) (k : TransitPacket) (j : Nat) :
    NMap.get (Port.sending x vc cls k).sent 0 j = if pairKey vc cls = j then NMap.get x.sent 0 (pairKey vc cls) + 1 else NMap.get x.sent 0 j :=
  NMap.get_upd x.sent 0 (pairKey vc cls) j (fun n => n + 1)

theorem claims_flitQueued {x : Port} (idle : Claims.idlePort x) (w : WaitingPacket) (vc cls : Nat) (k : TransitPacket) :
    Claims.flitQueued x (Port.reported (Port.sending (Port.granted (Port.holding x w) vc) vc cls k)) vc cls k
      (Port.report (Port.sending (Port.granted (Port.holding x w) vc) vc cls k)) := by
  obtain ⟨queued, controls⟩ := idle
  refine ⟨Port.sending (Port.granted (Port.holding x w) vc) vc cls k, ?_, claims_says _, ?_, fun j hj => ?_⟩
  · unfold Port.sending Port.granted Port.holding
    rw [← queued, ← controls]
  · rw [Port.sent_sending]; exact if_pos rfl
  · rw [Port.sent_sending]; exact if_neg (Ne.symm hj)

/-- The packet as it leaves. -/
def State.sentPacket (s : State) (k : TransitPacket) : TransitPacket := { k with kind := State.stamped s k.kind }

/-- What the hop of a packet that leaves counts (R383, R385). -/
def State.hopCounted (s : State) (p : Nat) (hop : RouteHop) : State :=
  match hop with
  | .adaptive => State.count s .routeAdaptive 0 p 1
  | .detour => State.count s .routeDetour 0 0 1
  | _ => s

theorem State.sendFlit_packet (s : State) (p vc cls : Nat) (k : TransitPacket) : State.sendFlit s p vc cls [k] none =
    State.emit (State.setPort (State.setPort s p (Port.sending (State.port s p) vc cls k)) p (Port.reported (Port.sending (State.port s p) vc cls k)))
      (.link p (.flit { seq := (State.port s p).txNext, vc := vc, cred := cls, payload := [k], control := none }
        (Port.report (Port.sending (State.port s p) vc cls k)) (State.port s p).silenced)) := by
  unfold State.sendFlit State.speak
  dsimp only
  rw [State.port_setPort_same]
  rfl

theorem State.leave_eq {w : WaitingPacket} (arrived : w.arrived = none) (s : State) (p cls : Nat) : State.leave s p w cls =
    State.hopCounted (State.sendFlit s p (PacketKind.vc w.packet.kind) cls [State.sentPacket s w.packet] none) p w.hop := by
  unfold State.leave
  rw [arrived]
  cases w.hop <;> rfl

section
variable {s : State} {p : Nat} {w : WaitingPacket}

/-- The one packet that waits at a port that is up leaves where it has a credit and room. -/
theorem State.grantPort_single {c : Nat} {x : Port} (port : State.port s p = Port.holding x w) (controls : x.controls = [])
    (up : Port.up x = true) (room : x.replay.length < 2048) (can : Port.canLeave x w = some c) :
    State.grantPort s p = some (State.leave (State.setPort s p (Port.granted (Port.holding x w) (PacketKind.vc w.packet.kind))) p w c) := by
  have room' : Port.room (Port.holding x w) = true := decide_eq_true room
  have up' : Port.up (Port.holding x w) = true := up
  have can' : Port.canLeave (Port.holding x w) w = some c := can
  have controls' : (Port.holding x w).controls = [] := controls
  have queued : (Port.holding x w).queued = [w] := rfl
  unfold State.grantPort
  dsimp only
  rw [port, room', controls', up', queued]
  simp only [Bool.not_true, Bool.false_eq_true, if_false, if_true, List.filter_cons, List.filter_nil, can', Option.isSome_some, List.map_cons, List.map_nil,
    orders_single, arbitrate_single, Option.bind_some, decide_true, roundRobin_single, List.zipIdx_cons, List.zipIdx_nil, List.find?_cons, Bool.and_self,
    Option.map_some, List.eraseIdx_cons_zero]
  rfl

theorem State.grantPort_waits {x : Port} (port : State.port s p = Port.holding x w) (controls : x.controls = [])
    (cannot : ¬ x.replay.length < 2048 ∨ Port.canLeave x w = none) : State.grantPort s p = none := by
  have controls' : (Port.holding x w).controls = [] := controls
  have queued : (Port.holding x w).queued = [w] := rfl
  unfold State.grantPort
  dsimp only
  rw [port, controls', queued]
  obtain room | can := cannot
  · have room' : Port.room (Port.holding x w) = false := decide_eq_false room
    rw [room']; rfl
  · have can' : Port.canLeave (Port.holding x w) w = none := can
    simp only [List.filter_cons, List.filter_nil, can', Option.isSome_none, Bool.false_eq_true, if_false, ite_self, List.map_nil, List.any_nil,
      List.filter_false, arbitrate]
    split <;> rfl

/-- The module with one packet waiting at port `p`. -/
theorem State.toPort_idle (idle : Claims.idlePort (State.port s p)) : ∃ r, State.port r p = Port.holding (State.port s p) w ∧
    (∀ q, q ≠ p → State.port r q = State.port s q) ∧ r = { s with ports := r.ports } ∧ State.toPort s p w = State.drainFor 1 r p := by
  obtain ⟨queued, controls⟩ := idle
  have hold : ({ State.port s p with queued := (State.port s p).queued ++ [w] } : Port) = Port.holding (State.port s p) w := by rw [queued]; rfl
  have comes : State.toPort s p w = State.drain (State.setPort s p (Port.holding (State.port s p) w)) p :=
    congrArg (fun x => State.drain (State.setPort s p x) p) hold
  refine ⟨State.setPort s p (Port.holding (State.port s p) w), State.port_setPort_same .., fun q h => State.port_setPort_ne s h _, rfl, ?_⟩
  rw [comes]
  unfold State.drain
  rw [State.port_setPort_same]
  show State.drainFor ([w].length + (State.port s p).controls.length) _ p = _
  rw [controls]
  rfl

/-- A packet that is granted leaves. -/
theorem claims_leaves_sendFlit {r : State} (idle : Claims.idlePort (State.port s p)) (vc cls : Nat) (k : TransitPacket)
    (port : State.port r p = Port.granted (Port.holding (State.port s p) w) vc) (others : ∀ q, q ≠ p → State.port r q = State.port s q)
    (frame : r = { s with ports := r.ports }) : Claims.leaves s (State.sendFlit r p vc cls [k] none) p vc cls k ∧ (State.sendFlit r p vc cls [k] none).tel = s.tel := by
  rw [State.sendFlit_packet, port]
  have sent := claims_flitQueued idle w vc cls k
  generalize Port.sending (Port.granted (Port.holding (State.port s p) w) vc) vc cls k = S at sent ⊢
  have now : State.port (State.setPort (State.setPort r p S) p (Port.reported S)) p = Port.reported S := State.port_setPort_same ..
  have rest : ∀ q, q ≠ p → State.port (State.setPort (State.setPort r p S) p (Port.reported S)) q = State.port s q := fun q hq =>
    (State.port_setPort_ne _ hq _).trans ((State.port_setPort_ne _ hq _).trans (others q hq))
  have whole : State.setPort (State.setPort r p S) p (Port.reported S) = { r with ports := (State.setPort (State.setPort r p S) p (Port.reported S)).ports } := rfl
  generalize State.setPort (State.setPort r p S) p (Port.reported S) = v at now rest whole ⊢
  have all : v = { s with ports := v.ports } := by rw [whole, frame]
  refine ⟨⟨Port.report S, ?_, rest, ?_⟩, by rw [all]; rfl⟩
  · exact now ▸ sent
  · rw [all]; rfl

/-- A packet that comes to an idle port leaves where it has a credit and room. -/
theorem State.toPort_leaves {c : Nat} (idle : Claims.idlePort (State.port s p)) (up : Port.up (State.port s p) = true)
    (room : Claims.room s p) (can : Port.canLeave (State.port s p) w = some c) (arrived : w.arrived = none) :
    ∃ u, Claims.leaves s u p (PacketKind.vc w.packet.kind) c (State.sentPacket s w.packet) ∧ u.tel = s.tel ∧ State.toPort s p w = State.hopCounted u p w.hop := by
  obtain ⟨r, port, others, frame, eq⟩ := State.toPort_idle (w := w) idle
  rw [eq]
  unfold State.drainFor
  rw [State.grantPort_single port idle.2 up room can, State.leave_eq arrived]
  have packet : State.sentPacket (State.setPort r p (Port.granted (Port.holding (State.port s p) w) (PacketKind.vc w.packet.kind))) w.packet = State.sentPacket s w.packet := by
    rw [frame]; rfl
  rw [packet]
  obtain ⟨leaves, tel⟩ := claims_leaves_sendFlit idle (PacketKind.vc w.packet.kind) c (State.sentPacket s w.packet)
    (r := State.setPort r p (Port.granted (Port.holding (State.port s p) w) (PacketKind.vc w.packet.kind)))
    (State.port_setPort_same ..) (fun q hq => (State.port_setPort_ne _ hq _).trans (others q hq)) (by rw [frame]; rfl)
  exact ⟨_, leaves, tel, rfl⟩

/-- A packet that comes to an idle port waits there where it has no credit, or the replay buffer no room. -/
theorem State.toPort_waits (idle : Claims.idlePort (State.port s p)) (cannot : ¬ Claims.room s p ∨ Port.canLeave (State.port s p) w = none) :
    Claims.waitsAt s (State.toPort s p w) p w := by
  obtain ⟨r, port, others, frame, eq⟩ := State.toPort_idle (w := w) idle
  rw [eq]
  unfold State.drainFor
  rw [State.grantPort_waits port idle.2 cannot]
  exact ⟨port, others, frame⟩

end

end Sys2Proof.Machine
end

section
/-!
SUPPORT. Routing: the hops of a packet in the words of the specification, and where a packet goes on each of them (R383 to R386).
-/

namespace Sys2Proof.Machine

/-! ### Links and hops -/

theorem portUp_iff (x : Port) : Port.up x = true ↔ x.state = .live ∨ x.state = .recovery := by simp [Port.up]

theorem State.hop_eq_some (s : State) (p n : Nat) : State.hop s p = some n ↔
    ((State.port s p).state = .live ∨ (State.port s p).state = .recovery) ∧ NMap.find s.fabric.failed n = none ∧ ∃ q, (State.port s p).partner = some q ∧ q.module = n := by
  unfold State.hop
  dsimp only
  split
  · next up =>
    rw [and_iff_right ((portUp_iff _).1 up), Option.bind_eq_some_iff]
    constructor
    · rintro ⟨q, partner, h⟩
      split at h
      · exact nomatch h
      · next alive =>
        obtain rfl := Option.some.inj h
        exact ⟨Option.not_isSome_iff_eq_none.1 alive, q, partner, rfl⟩
    · rintro ⟨alive, q, partner, rfl⟩
      refine ⟨q, partner, ?_⟩
      rw [alive]; rfl
  · next up => exact ⟨(nomatch ·), fun h => absurd ((portUp_iff _).2 h.1) up⟩

theorem claims_linkTo_iff (s : State) (p n : Nat) : Claims.linkTo s p n ↔ p < 40 ∧ State.hop s p = some n := by
  rw [State.hop_eq_some]; rfl

theorem linkTo_up {s : State} {p n : Nat} (h : Claims.linkTo s p n) : Port.up (State.port s p) = true := (portUp_iff _).2 h.2.1

theorem coordinates_eq (a b : Nat) : coordinates (a ^^^ b) = Claims.distance a b := by
  unfold coordinates popNat Claims.distance
  congr 2
  funext i
  have h : (a ^^^ b) / 8 * 8 = (a ^^^ b) / 2 ^ 3 * 2 ^ 3 := rfl
  rw [h, Nat.testBit_mul_two_pow, Nat.testBit_div_two_pow]
  by_cases le : 3 ≤ i
  · rw [decide_eq_true le, Bool.true_and, Bool.true_and, Nat.sub_add_cancel le]
  · rw [decide_eq_false le, Bool.false_and, Bool.false_and]

theorem pinned_iff (p : TransitPacket) : PacketKind.pinned p.kind = true ↔ Claims.pinned p := by
  unfold Claims.pinned
  cases p.kind <;> simp [PacketKind.pinned]

theorem vc_eq (p : TransitPacket) : PacketKind.vc p.kind = Claims.vcOf p := by
  unfold Claims.vcOf PacketKind.vc
  cases p.kind <;> rfl

theorem State.adaptive_iff (s : State) (p t : Nat) (pinned : Bool) : State.adaptive s p t pinned = true ↔
    pinned = false ∧ ∃ n, State.hop s p = some n ∧ ((Claims.distance s.moduleNumber t = 0 ∧ n = t) ∨ Claims.distance n t < Claims.distance s.moduleNumber t) := by
  unfold State.adaptive
  cases h : State.hop s p with
  | none => simp
  | some n =>
    simp only [coordinates_eq, Bool.and_eq_true, Bool.not_eq_true', Option.some.injEq, exists_eq_left']
    refine and_congr_right fun _ => ?_
    split
    · next zero => rw [zero]; simp
    · next far => simp [far]

/-- A port of the module is an adaptive hop for a packet that is not pinned just where R383 says. -/
theorem State.adaptive_iff_claims {s : State} {p : Nat} (hp : p < 40) (q : TransitPacket) : State.adaptive s p q.destination (PacketKind.pinned q.kind) = true ↔
    ¬ Claims.pinned q ∧ Claims.adaptiveHop s p q.destination := by
  rw [State.adaptive_iff, ← pinned_iff, Bool.not_eq_true]
  refine and_congr_right fun _ => exists_congr fun n => and_congr_left fun _ => ?_
  rw [claims_linkTo_iff, and_iff_right hp]

theorem testBit_bitIndices {v d : Nat} (hd : 3 ≤ d) (range : d < 14) (bit : v.testBit d = true) (least : ∀ j, 3 ≤ j → j < d → v.testBit j = false) :
    (bitIndices 14 v).find? (fun d => decide (3 ≤ d)) = some d := by
  unfold bitIndices
  rw [List.find?_filter, List.find?_range_eq_some]
  refine ⟨by simp [hd, bit], List.mem_range.2 range, fun j hj => ?_⟩
  by_cases le : 3 ≤ j
  · simp [least j le hj]
  · simp [le]

theorem State.escapeTo_of {s : State} {t n : Nat} (h : Claims.escapeHop s t n) : State.escapeTo s t = n := by
  unfold State.escapeTo
  dsimp only
  obtain ⟨d, hd, range, bit, least, rfl⟩ | ⟨zero, rfl⟩ := h
  · rw [testBit_bitIndices hd range bit least]
  · have none_ : (bitIndices 14 (s.moduleNumber ^^^ n)).find? (fun d => decide (3 ≤ d)) = none := by
      refine List.find?_eq_none.2 fun d hd => ?_
      obtain ⟨range, bit⟩ := List.mem_filter.1 hd
      intro le
      have empty := List.filter_eq_nil_iff.1 (List.eq_nil_of_length_eq_zero zero) d range
      rw [le, bit] at empty
      exact empty rfl
    rw [none_]

/-- The one live port to module `n`. -/
theorem State.portsTo_single {s : State} {e n : Nat} (link : Claims.linkTo s e n) (only : ∀ q, Claims.linkTo s q n → q = e) : State.portsTo s n = [e] := by
  unfold State.portsTo portCount
  obtain ⟨he, hop⟩ := (claims_linkTo_iff s e n).1 link
  have only' : ∀ q ∈ List.range 40, decide (State.hop s q = some n) = decide (q = e) := fun q hq =>
    decide_eq_decide.2 ⟨fun h => only q ((claims_linkTo_iff s q n).2 ⟨List.mem_range.1 hq, h⟩), fun h => h ▸ hop⟩
  rw [List.filter_congr only']
  clear only' only hop link
  revert e
  decide

theorem State.portsTo_none {s : State} {n : Nat} (none_ : ∀ q, ¬ Claims.linkTo s q n) : State.portsTo s n = [] :=
  List.filter_eq_nil_iff.2 fun q hq h => none_ q ((claims_linkTo_iff s q n).2 ⟨List.mem_range.1 hq, of_decide_eq_true h⟩)

theorem State.portFor_single (s : State) (e vc : Nat) (classes : List Nat) : State.portFor s [e] vc classes = some e := by
  unfold State.portFor
  cases h : [e].find? (fun p => Port.room (State.port s p) && classes.any (fun c => Port.credit (State.port s p) vc c)) with
  | none => rfl
  | some i =>
    have := List.mem_of_find?_eq_some h
    rw [List.mem_singleton.1 this]; rfl

theorem State.detourTo_of {s : State} {n e : Nat} (h : Claims.detourPort s n e) : ∃ m, State.detourTo s n = some m ∧ State.portsTo s m = [e] ∧ Claims.linkTo s e m := by
  obtain ⟨d, three, range, apart, link, only, least⟩ := h
  refine ⟨s.moduleNumber ^^^ 2 ^ d, ?_, State.portsTo_single link only, link⟩
  unfold State.detourTo
  dsimp only
  have other : ∀ k, s.moduleNumber ^^^ 2 ^ k ≠ s.moduleNumber := fun k h => by
    have := congrArg (fun v => v.testBit k) h
    simp at this
  have first : (((List.range s.fabric.dim).filter (fun e => decide (3 ≤ e))).map (fun e => s.moduleNumber ^^^ 2 ^ e)).find?
      (fun m => decide (m ≠ n ∧ m ≠ s.moduleNumber) && !(State.portsTo s m).isEmpty) = some (s.moduleNumber ^^^ 2 ^ d) := by
    rw [List.find?_map, List.find?_filter]
    have at_d : (List.range s.fabric.dim).find? (fun k => decide (decide (3 ≤ k) = true ∧
        ((fun m => decide (m ≠ n ∧ m ≠ s.moduleNumber) && !(State.portsTo s m).isEmpty) ∘ fun e => s.moduleNumber ^^^ 2 ^ e) k = true)) = some d := by
      rw [List.find?_range_eq_some]
      refine ⟨?_, List.mem_range.2 range, fun j hj => ?_⟩
      · simp [three, apart, State.portsTo_single link only]
      · by_cases le : 3 ≤ j
        · by_cases eq : s.moduleNumber ^^^ 2 ^ j = n
          · simp [eq]
          · simp [State.portsTo_none (least j · le hj eq)]
        · simp [le]
    exact congrArg (Option.map _) at_d
  rw [List.find?_append, first]
  rfl

theorem State.detourTo_none {s : State} (avoid : Nat) (alone : ∀ q m, m ≠ avoid → ¬ Claims.linkTo s q m) : State.detourTo s avoid = none := by
  unfold State.detourTo
  refine List.find?_eq_none.2 fun m _ h => ?_
  obtain ⟨apart, live⟩ := Bool.and_eq_true_iff.1 h
  rw [State.portsTo_none (alone · m (of_decide_eq_true apart).1)] at live
  exact absurd live (by decide)

/-! ### Where a packet goes -/

section
variable {s : State} {offered : Option Nat} {p : TransitPacket} {arrived : Option (Nat × Nat)}

/-- The port offered is an adaptive hop that the packet can take now. -/
def State.takes (s : State) (p : TransitPacket) (i : Nat) : Bool :=
  State.adaptive s i p.destination (PacketKind.pinned p.kind) && Port.credit (State.port s i) (PacketKind.vc p.kind) 0 && Port.room (State.port s i)

theorem State.takes_notOffered {port : Nat} (h : Claims.notOffered s port p) : State.takes s p port = false := by
  obtain ⟨hp, cannot⟩ := h
  unfold State.takes
  obtain pin | hop | credit := cannot
  · rw [Bool.eq_false_iff.2 (fun h => ((State.adaptive_iff_claims hp p).1 h).1 pin)]; rfl
  · rw [Bool.eq_false_iff.2 (fun h => hop ((State.adaptive_iff_claims hp p).1 h).2)]; rfl
  · rw [vc_eq, credit, Bool.and_false]; rfl

theorem State.routePacket_adaptive {i : Nat} (open_ : State.takes s p i = true) :
    State.routePacket s (some i) p arrived = State.toPort s i { packet := p, classes := [0], hop := .adaptive, arrived := arrived } := by
  unfold State.routePacket
  exact if_pos open_

/-- The credit classes of an escape hop. -/
def TransitPacket.escapeClasses (p : TransitPacket) : List Nat :=
  if PacketKind.pinned p.kind then [if p.level1 then 2 else 1] else [0, if p.level1 then 2 else 1]

theorem State.routePacket_escape {e n : Nat} (closed : offered.any (State.takes s p) = false) (escape : State.escapeTo s p.destination = n) (ports : State.portsTo s n = [e]) :
    State.routePacket s offered p arrived = State.toPort s e { packet := p, classes := TransitPacket.escapeClasses p, hop := .escape, arrived := arrived } := by
  unfold State.routePacket
  dsimp only
  refine (if_neg (fun h => Bool.eq_false_iff.1 closed h)).trans ?_
  rw [escape, ports, State.portFor_single]
  rfl

theorem State.routePacket_detour {e n m : Nat} (closed : offered.any (State.takes s p) = false) (escape : State.escapeTo s p.destination = n)
    (ports : State.portsTo s n = []) (level : p.level1 = false) (free : PacketKind.pinned p.kind = false) (detour : State.detourTo s n = some m)
    (way : State.portsTo s m = [e]) :
    State.routePacket s offered p arrived = State.toPort s e { packet := { p with level1 := true }, classes := [2], hop := .detour, arrived := arrived } := by
  unfold State.routePacket
  dsimp only
  refine (if_neg (fun h => Bool.eq_false_iff.1 closed h)).trans ?_
  rw [escape, ports, level, free, detour]
  dsimp only
  rw [way, State.portFor_single]
  rfl

theorem State.routePacket_unrouted (closed : offered.any (State.takes s p) = false) (ports : State.portsTo s (State.escapeTo s p.destination) = [])
    (level : p.level1 = false) (detour : State.detourTo s (State.escapeTo s p.destination) = none)
    (others : (List.range portCount).filter (fun i => State.adaptive s i p.destination (PacketKind.pinned p.kind)) = []) :
    State.routePacket s offered p arrived = { s with fabric := { s.fabric with unrouted := s.fabric.unrouted ++ [(p, arrived)] } } := by
  unfold State.routePacket
  dsimp only
  refine (if_neg (fun h => Bool.eq_false_iff.1 closed h)).trans ?_
  rw [ports, level, detour, others]
  cases PacketKind.pinned p.kind <;> rfl

theorem State.routePacket_drop (closed : offered.any (State.takes s p) = false) (ports : State.portsTo s (State.escapeTo s p.destination) = [])
    (level : p.level1 = true) (others : (List.range portCount).filter (fun i => State.adaptive s i p.destination (PacketKind.pinned p.kind)) = []) :
    State.routePacket s offered p arrived = State.dropPacket s p.kind arrived := by
  unfold State.routePacket
  dsimp only
  refine (if_neg (fun h => Bool.eq_false_iff.1 closed h)).trans ?_
  rw [ports, level, others]
  rfl

end

end Sys2Proof.Machine
end

section
/-!
SUPPORT. PACKET_ROUTE: the hop a packet takes, its waiting and its drop (R383 to R386).
-/

namespace Sys2Proof.Machine

/-! ### What counting leaves -/

theorem onlyRecords_hopCounted (s : State) (p : Nat) (hop : RouteHop) : OnlyRecords s (State.hopCounted s p hop) := by
  cases hop with
  | adaptive => exact onlyRecords_count ..
  | detour => exact onlyRecords_count ..
  | direct => rfl
  | escape => rfl

theorem leaves_records {s u t : State} {p vc cls : Nat} {k : TransitPacket} (h : Claims.leaves s u p vc cls k) (same : OnlyRecords u t) :
    Claims.leaves s t p vc cls k := by
  obtain ⟨r, flit, others, frame⟩ := h
  have ports : t.ports = u.ports := by rw [same]
  refine ⟨r, ?_, fun q hq => ?_, ?_⟩
  · rw [State.port_congr ports]; exact flit
  · rw [State.port_congr ports]; exact others q hq
  · rw [same, frame]

theorem counted_of_tel {s u t : State} {c : Counter} {p i n : Nat} (tel : u.tel = s.tel) (h : Claims.counted u t c p i n) : Claims.counted s t c p i n := by
  unfold Claims.counted Claims.counter at *
  rw [← tel]; exact h

/-! ### The hops -/

section
variable {s : State} {port : Nat} {p : TransitPacket}

theorem exec_packetRoute (away : p.destination ≠ s.moduleNumber) : exec (.packetRoute port ⟨p, none⟩) s = .next (State.routePacket s (some port) p none) := by
  show execPacketRoute port ⟨p, none⟩ s = _
  exact if_neg away

theorem exec_packetRoute_adaptive (away : p.destination ≠ s.moduleNumber) (free : ¬ Claims.pinned p) (hop : Claims.adaptiveHop s port p.destination)
    (room : Claims.room s port) (idle : Claims.idlePort (State.port s port)) (credit : Port.credit (State.port s port) (Claims.vcOf p) 0 = true) :
    ∃ t, exec (.packetRoute port ⟨p, none⟩) s = .next t ∧ Claims.leaves s t port (Claims.vcOf p) 0 (Claims.asSent s p) ∧ Claims.counted s t .routeAdaptive 0 port 1 := by
  rw [← vc_eq] at credit ⊢
  have link : ∃ n, Claims.linkTo s port n := hop.imp fun n h => h.1
  obtain ⟨n, link⟩ := link
  have takes : State.takes s p port = true := by
    unfold State.takes
    rw [(State.adaptive_iff_claims link.1 p).2 ⟨free, hop⟩, credit]
    exact decide_eq_true room
  have can : Port.canLeave (State.port s port) { packet := p, classes := [0], hop := .adaptive, arrived := none } = some 0 := by
    simp [Port.canLeave, credit]
  obtain ⟨u, leaves, tel, eq⟩ := State.toPort_leaves idle (linkTo_up link) room can rfl
  refine ⟨_, exec_packetRoute away, ?_⟩
  rw [State.routePacket_adaptive takes, eq]
  exact ⟨leaves_records leaves (onlyRecords_hopCounted ..), counted_of_tel tel (counted_count u .routeAdaptive 0 port 1 (by decide))⟩

theorem notOffered_closed (h : Claims.notOffered s port p) : (some port).any (State.takes s p) = false := State.takes_notOffered h

/-- A packet whose escape hop is live comes to the port of it. -/
theorem State.routePacket_toEscape {e : Nat} {offered : Option Nat} (closed : offered.any (State.takes s p) = false) (way : Claims.escapePort s p.destination e) :
    State.routePacket s offered p none = State.toPort s e { packet := p, classes := TransitPacket.escapeClasses p, hop := .escape, arrived := none } ∧
      Port.up (State.port s e) = true := by
  obtain ⟨n, escape, link, only⟩ := way
  exact ⟨State.routePacket_escape closed (State.escapeTo_of escape) (State.portsTo_single link only), (linkTo_up link)⟩

/-- The class an escape hop takes: shared before the one of the packet's level, which alone is a pinned packet's. -/
theorem canLeave_escape {x : Port} {cls : Nat} (which : cls = 0 ∧ ¬ Claims.pinned p ∨ cls = (if p.level1 then 2 else 1) ∧ (Claims.pinned p ∨ Port.credit x (Claims.vcOf p) 0 = false))
    (credit : Port.credit x (Claims.vcOf p) cls = true) :
    Port.canLeave x { packet := p, classes := TransitPacket.escapeClasses p, hop := .escape, arrived := none } = some cls := by
  unfold Port.canLeave TransitPacket.escapeClasses
  rw [vc_eq]
  obtain ⟨rfl, free⟩ | ⟨rfl, pin | none_⟩ := which
  · rw [if_neg (mt (pinned_iff p).1 free), List.find?_cons, credit]
  · rw [if_pos ((pinned_iff p).2 pin), List.find?_cons, credit]
  · split <;> simp [none_, credit]

theorem canLeave_escape_none {x : Port} (shared : Port.credit x (Claims.vcOf p) 0 = false) (level : Port.credit x (Claims.vcOf p) (if p.level1 then 2 else 1) = false) :
    Port.canLeave x { packet := p, classes := TransitPacket.escapeClasses p, hop := .escape, arrived := none } = none := by
  unfold Port.canLeave TransitPacket.escapeClasses
  rw [vc_eq]
  split <;> simp [shared, level]

theorem mem_escapeClasses (c : Nat) : c ∈ TransitPacket.escapeClasses p ↔ c = (if p.level1 then 2 else 1) ∨ (c = 0 ∧ ¬ Claims.pinned p) := by
  unfold TransitPacket.escapeClasses
  rw [← pinned_iff]
  split
  · next pin => simp [pin]
  · next free => simp [free, or_comm]

theorem exec_packetRoute_escape {e : Nat} (away : p.destination ≠ s.moduleNumber) (closed : Claims.notOffered s port p) (way : Claims.escapePort s p.destination e)
    (idle : Claims.idlePort (State.port s e)) :
    let x := State.port s e
    let level := if p.level1 then 2 else 1
    (Claims.room s e → ∀ cls : Nat, (cls = 0 ∧ ¬ Claims.pinned p ∨ cls = level ∧ (Claims.pinned p ∨ Port.credit x (Claims.vcOf p) 0 = false)) →
      Port.credit x (Claims.vcOf p) cls = true →
      ∃ t, exec (.packetRoute port ⟨p, none⟩) s = .next t ∧ Claims.leaves s t e (Claims.vcOf p) cls (Claims.asSent s p) ∧ t.tel = s.tel) ∧
    (¬ Claims.room s e ∨ (Port.credit x (Claims.vcOf p) 0 = false ∧ Port.credit x (Claims.vcOf p) level = false) →
      ∃ t w, exec (.packetRoute port ⟨p, none⟩) s = .next t ∧ Claims.waitsAt s t e w ∧ w.packet = p ∧ w.hop = .escape ∧ w.arrived = none ∧
        ∀ c, c ∈ w.classes ↔ c = level ∨ (c = 0 ∧ ¬ Claims.pinned p)) := by
  obtain ⟨route, up⟩ := State.routePacket_toEscape (notOffered_closed closed) way
  dsimp only
  refine ⟨fun room cls which credit => ?_, fun cannot => ?_⟩
  · obtain ⟨u, leaves, tel, eq⟩ := State.toPort_leaves idle up room (canLeave_escape which credit) rfl
    refine ⟨u, ?_, ?_, tel⟩
    · rw [exec_packetRoute away, route, eq]; rfl
    · rw [← vc_eq]; exact leaves
  · have waits := State.toPort_waits (w := { packet := p, classes := TransitPacket.escapeClasses p, hop := .escape, arrived := none }) idle
      (cannot.imp_right fun none_ => canLeave_escape_none none_.1 none_.2)
    rw [← route] at waits
    exact ⟨_, _, exec_packetRoute away, waits, rfl, rfl, rfl, fun c => mem_escapeClasses c⟩

theorem exec_packetRoute_detour {e n : Nat} (away : p.destination ≠ s.moduleNumber) (level : p.level1 = false) (free : ¬ Claims.pinned p)
    (closed : Claims.notOffered s port p) (escape : Claims.escapeHop s p.destination n) (dead : ∀ q, ¬ Claims.linkTo s q n) (way : Claims.detourPort s n e)
    (room : Claims.room s e) (idle : Claims.idlePort (State.port s e)) (credit : Port.credit (State.port s e) (Claims.vcOf p) 2 = true) :
    ∃ t, exec (.packetRoute port ⟨p, none⟩) s = .next t ∧ Claims.leaves s t e (Claims.vcOf p) 2 (Claims.asSent s { p with level1 := true }) ∧
      Claims.counted s t .routeDetour 0 0 1 := by
  obtain ⟨m, detour, ports, link⟩ := State.detourTo_of way
  rw [← vc_eq] at credit ⊢
  have can : Port.canLeave (State.port s e) { packet := { p with level1 := true }, classes := [2], hop := .detour, arrived := none } = some 2 := by
    simp [Port.canLeave, credit]
  obtain ⟨u, leaves, tel, eq⟩ := State.toPort_leaves idle (linkTo_up link) room can rfl
  refine ⟨_, exec_packetRoute away, ?_⟩
  rw [State.routePacket_detour (notOffered_closed closed) (State.escapeTo_of escape) (State.portsTo_none dead) level
    (Bool.eq_false_iff.2 (mt (pinned_iff p).1 free)) detour ports, eq]
  exact ⟨leaves_records leaves (onlyRecords_hopCounted ..), counted_of_tel tel (counted_count u .routeDetour 0 0 1 (by decide))⟩

theorem adaptive_nil {t : Nat} {pinned : Bool} (none_ : ∀ q, q < 40 → State.adaptive s q t pinned = false) :
    (List.range portCount).filter (fun i => State.adaptive s i t pinned) = [] :=
  List.filter_eq_nil_iff.2 fun q hq => Bool.eq_false_iff.1 (none_ q (List.mem_range.1 hq))

theorem exec_packetRoute_unrouted (away : p.destination ≠ s.moduleNumber) (level : p.level1 = false) (closed : Claims.notOffered s port p)
    (dead : ∀ q m, ¬ Claims.linkTo s q m) :
    exec (.packetRoute port ⟨p, none⟩) s = .next { s with fabric := { s.fabric with unrouted := s.fabric.unrouted ++ [(p, none)] } } := by
  rw [exec_packetRoute away, State.routePacket_unrouted (notOffered_closed closed) (State.portsTo_none (dead · _)) level
    (State.detourTo_none _ fun q m _ => dead q m) (adaptive_nil fun q hq => ?_)]
  refine Bool.eq_false_iff.2 fun h => ?_
  obtain ⟨-, n, link, -⟩ := (State.adaptive_iff_claims hq p).1 h
  exact dead q n link

/-- A packet at level 1 that no hop takes is dropped. -/
theorem exec_packetRoute_drop {n : Nat} (hp : port < 40) (away : p.destination ≠ s.moduleNumber) (level : p.level1 = true) (escape : Claims.escapeHop s p.destination n)
    (dead : ∀ q, ¬ Claims.linkTo s q n) (none_ : ∀ q, ¬ Claims.adaptiveHop s q p.destination) :
    exec (.packetRoute port ⟨p, none⟩) s = .next (State.dropPacket s p.kind none) := by
  have closed : Claims.notOffered s port p := ⟨hp, .inr (.inl (none_ port))⟩
  have ports : State.portsTo s (State.escapeTo s p.destination) = [] := by rw [State.escapeTo_of escape]; exact State.portsTo_none dead
  rw [exec_packetRoute away, State.routePacket_drop (notOffered_closed closed) ports level (adaptive_nil fun q hq => ?_)]
  exact Bool.eq_false_iff.2 fun h => none_ q ((State.adaptive_iff_claims hq p).1 h).2

theorem dropPacket_request {q : RequestPacket} (other : q.source ≠ s.moduleNumber) : ∃ t, State.dropPacket s (.request q) none = t ∧ Claims.counted s t .routeDrop 0 0 1 ∧
    t = { s with tel := t.tel, out := s.out ++ [.answer
      { source := q.destination, txn := q.txn, status := .lost, bytes := [], poison := 255, granule := 0, values := [] } q.source] } := by
  have counted := counted_count s .routeDrop 0 0 1 (by decide)
  have frame := onlyRecords_count s .routeDrop 0 0 1
  have lost : State.dropPacket s (.request q) none = State.emit (State.count s .routeDrop 0 0 1) (.answer (lostAnswer q) q.source) := by
    unfold State.dropPacket State.releaseCredit State.answerLost
    dsimp only
    refine if_neg ?_
    rw [frame]
    exact other
  rw [lost]
  refine ⟨_, rfl, counted, ?_⟩
  generalize State.count s .routeDrop 0 0 1 = u at frame
  unfold OnlyRecords at frame
  rw [frame]
  rfl

theorem dropPacket_other (other : ∀ q, p.kind ≠ .request q) : State.dropPacket s p.kind none = State.count s .routeDrop 0 0 1 := by
  unfold State.dropPacket State.releaseCredit
  dsimp only
  split
  · next q kind => exact absurd kind (other q)
  · rfl

end

theorem packetsRoute : Claims.packetsRoute := by
  refine ⟨fun s port p away free hop room idle credit => exec_packetRoute_adaptive away free hop room idle credit,
    fun s port e p away closed way idle => exec_packetRoute_escape away closed way idle,
    fun s port e n p away level free closed escape dead way room idle credit =>
      exec_packetRoute_detour away level free closed escape dead way room idle credit,
    fun s port n p away level closed _ dead => exec_packetRoute_unrouted away level closed dead,
    fun s port n p hp away level escape dead none_ => ⟨fun q kind other => ?_, fun other => ?_⟩⟩
  · rw [exec_packetRoute_drop hp away level escape dead none_, kind]
    obtain ⟨t, eq, counted, frame⟩ := dropPacket_request (s := s) other
    exact ⟨t, by rw [eq], counted, frame⟩
  · rw [exec_packetRoute_drop hp away level escape dead none_, dropPacket_other other]
    exact ⟨_, rfl, counted_count s .routeDrop 0 0 1 (by decide), onlyRecords_count ..⟩

end Sys2Proof.Machine
end

section
/-!
SUPPORT. PACKAGE_PACKET: the only packet that waits for the output into a region (R16, R18).
-/

namespace Sys2Proof.Machine

theorem foldl_least {v : Nat} (l : List Nat) (same : ∀ x ∈ l, x = v) :
    ∀ a : Option Nat, (a = none ∧ l ≠ []) ∨ a = some v → l.foldl (fun (a : Option Nat) b => some (a.elim b (fun x => min x b))) a = some v := by
  induction l with
  | nil => exact fun a ha => ha.elim (fun h => absurd rfl h.2) id
  | cons x l ih =>
    intro a ha
    rw [List.foldl_cons]
    refine ih (fun y hy => same y (List.mem_cons_of_mem _ hy)) _ (.inr ?_)
    rw [same x List.mem_cons_self]
    obtain ⟨rfl, -⟩ | rfl := ha
    · rfl
    · exact congrArg some (Nat.min_self v)

/-- Round-robin among requests of one requester. -/
theorem roundRobin_same {v : Nat} {l : List Nat} (some_ : l ≠ []) (same : ∀ x ∈ l, x = v) (last : Option Nat) : roundRobin last l = some v := by
  have least := foldl_least l same none (.inl ⟨rfl, some_⟩)
  unfold roundRobin
  dsimp only
  rw [least]
  cases last with
  | none => rfl
  | some n =>
    dsimp only
    by_cases later : l.filter (fun k => decide (n < k)) = []
    · rw [later]; rfl
    · rw [foldl_least _ (fun x hx => same x (List.mem_filter.1 hx).1) none (.inl ⟨rfl, later⟩)]; rfl

section
variable {s : State} {id : Nat} {p : PackagePacket}

/-- The packet is the only one for its output. -/
def State.onlyInto (s : State) (id : Nat) (p : PackagePacket) : Prop :=
  (id, p) ∈ s.package ∧ ∀ e ∈ s.package, e.2.destination = p.destination → e = (id, p)

theorem State.packetsInto_only (h : State.onlyInto s id p) :
    ∃ l, State.packetsInto s p.destination = (id, p) :: l ∧ ∀ e ∈ State.packetsInto s p.destination, e = (id, p) := by
  obtain ⟨mem, only⟩ := h
  have same : ∀ e ∈ State.packetsInto s p.destination, e = (id, p) := fun e he => by
    obtain ⟨he, into⟩ := List.mem_filter.1 he
    exact only e he (of_decide_eq_true into)
  have there : (id, p) ∈ State.packetsInto s p.destination := List.mem_filter.2 ⟨mem, decide_eq_true rfl⟩
  obtain ⟨e, l, eq⟩ := List.exists_cons_of_ne_nil (List.ne_nil_of_mem there)
  have first : e = (id, p) := same e (by rw [eq]; exact List.mem_cons_self)
  exact ⟨l, by rw [eq, first], same⟩

theorem State.find_packetsInto (h : State.onlyInto s id p) :
    (State.packetsInto s p.destination).find? (fun e => decide (e.2.source = p.source ∧ e.2.cls = p.cls)) = some (id, p) := by
  obtain ⟨l, eq, -⟩ := State.packetsInto_only h
  rw [eq]
  exact List.find?_cons_of_pos (decide_eq_true ⟨rfl, rfl⟩)

/-- The output grants the only packet that waits for it. -/
theorem State.outputTurn_only (h : State.onlyInto s id p) : State.outputTurn s p.destination p.cls p.source = true := by
  obtain ⟨l, eq, only⟩ := State.packetsInto_only h
  have one : ∀ k, (State.packetsInto s p.destination).any (fun e => decide (e.2.cls = k)) = decide (p.cls = k) := fun k => by
    refine Bool.eq_iff_iff.2 ⟨fun h => ?_, fun h => ?_⟩
    · obtain ⟨e, he, hk⟩ := List.any_eq_true.1 h
      rw [only e he] at hk
      exact hk
    · exact List.any_eq_true.2 ⟨(id, p), by rw [eq]; exact List.mem_cons_self, h⟩
  have classes : classOrder.filter (fun k => (State.packetsInto s p.destination).any (fun e => decide (e.2.cls = k))) = [p.cls] := by
    rw [List.filter_congr fun k _ => one k]
    cases p.cls <;> rfl
  have sources : ∀ last, roundRobin last (((State.packetsInto s p.destination).filter (fun e => decide (e.2.cls = p.cls))).map (fun e => e.2.source)) = some p.source := by
    refine roundRobin_same ?_ fun x hx => ?_
    · refine List.ne_nil_of_mem (a := p.source) (List.mem_map.2 ⟨(id, p), List.mem_filter.2 ⟨?_, decide_eq_true rfl⟩, rfl⟩)
      rw [eq]
      exact List.mem_cons_self
    · obtain ⟨e, he, rfl⟩ := List.mem_map.1 hx
      rw [only e (List.mem_filter.1 he).1]
  unfold State.outputTurn
  dsimp only
  rw [classes, sources]
  simp [arbitrate_single]

/-- What PACKAGE_PACKET does with the only packet for its output. -/
theorem exec_packagePacket_only (h : State.onlyInto s id p) (crcOk : Bool) :
    exec (.packagePacket p.source p.destination p.cls crcOk) s =
      let x := State.region s p.source
      let n := NMap.get x.retries 0 p.destination
      if crcOk then .next (State.settleAll (State.packetArrives
        (State.outputGranted (State.setRegion s p.source { x with retries := NMap.erase x.retries p.destination }) p.destination p.cls p.source) id p))
      else if n < 3 then
        .next (State.count (State.setRegion s p.source { x with retries := NMap.set x.retries 0 p.destination (n + 1) }) .pkgRetry 0 (8 * p.source + p.destination) 1)
      else .next (State.fenceRegion (State.setRegion s p.source { x with retries := NMap.erase x.retries p.destination }) p.source true) := by
  show execPackagePacket p.source p.destination p.cls crcOk s = _
  unfold execPackagePacket
  rw [State.find_packetsInto h]
  dsimp only
  rw [State.outputTurn_only h]
  rfl

/-- The state as the packet crosses: the failures of its hop are forgotten, and the grant is noted. -/
def State.crossing (s : State) (p : PackagePacket) : State :=
  State.outputGranted (State.setRegion s p.source { State.region s p.source with retries := NMap.erase (State.region s p.source).retries p.destination }) p.destination p.cls p.source

theorem State.crossing_regions (apart : p.source ≠ p.destination) :
    State.region (State.crossing s p) p.source = { State.region s p.source with retries := NMap.erase (State.region s p.source).retries p.destination } ∧
    State.region (State.crossing s p) p.destination = { State.region s p.destination with output := (State.region (State.crossing s p) p.destination).output } ∧
    (∀ r, r ≠ p.source → r ≠ p.destination → State.region (State.crossing s p) r = State.region s r) ∧
    (∀ r, (State.region (State.crossing s p) r).txns = (State.region s r).txns) := by
  have region : ∀ r, State.region (State.crossing s p) r =
      if p.destination = r then { State.region s p.destination with output := (State.region (State.crossing s p) p.destination).output }
      else if p.source = r then { State.region s p.source with retries := NMap.erase (State.region s p.source).retries p.destination }
      else State.region s r := fun r => by
    unfold State.crossing State.outputGranted
    dsimp only
    rw [State.region_setRegion, State.region_setRegion, State.region_setRegion, State.region_setRegion, if_pos rfl, if_neg apart]
  refine ⟨?_, ?_, fun r hs hd => ?_, fun r => ?_⟩
  · rw [region, if_neg (Ne.symm apart), if_pos rfl]
  · exact (region _).trans (if_pos rfl)
  · rw [region, if_neg (Ne.symm hd), if_neg (Ne.symm hs)]
  · rw [region]
    split
    · next e => rw [← e]
    · split
      · next e => rw [← e]
      · rfl

/-- A request has come to its home. -/
def State.homeReached (s : State) (k : Nat) : NMap HomeRequest := NMap.mod s.homeQueue k (fun q => { q with stage := .home })

theorem State.find_homeReached (s : State) (k j : Nat) : NMap.find (State.homeReached s k) j =
    if k = j then (NMap.find s.homeQueue j).map (fun q => { q with stage := .home }) else NMap.find s.homeQueue j := NMap.find_mod ..

theorem State.packetArrives_request {k : Nat} (header : p.header = .request k) (still : Claims.nothingMoves { s with homeQueue := State.homeReached s k }) :
    State.packetArrives s id p = { s with package := NMap.erase s.package id, out := s.out ++ [.package p], homeQueue := State.homeReached s k } := by
  unfold State.packetArrives
  rw [header]
  exact State.moveOn_none (s := { s with package := NMap.erase s.package id, out := s.out ++ [.package p], homeQueue := State.homeReached s k })
    (nothingMoves_of still (fun e he => .inr he) fun c => ⟨rfl, rfl⟩) _

theorem State.packetArrives_completion {k c : Nat} (header : p.header = .completion k c) (still : Claims.nothingMoves s) :
    State.packetArrives s id p = State.modCell { s with package := NMap.erase s.package id, out := s.out ++ [.package p] } c (fun x => Cell.copyAnswered x k) := by
  unfold State.packetArrives
  rw [header]
  refine State.moveOn_none (s := State.modCell { s with package := NMap.erase s.package id, out := s.out ++ [.package p] } c (fun x => Cell.copyAnswered x k))
    (nothingMoves_of still (fun e he => .inr he) fun d => ?_) _
  rw [State.cell_modCell]
  split
  · next e => rw [← e]; exact ⟨rfl, rfl⟩
  · exact ⟨rfl, rfl⟩

/-- The packet crosses, and nothing is left to settle. -/
theorem exec_packagePacket_crosses (alone : State.onlyInto s id p) (apart : p.source ≠ p.destination) (quiet : Claims.allSettled s)
    (regions : (State.packetArrives (State.crossing s p) id p).regions = (State.crossing s p).regions) (fabric : (State.packetArrives (State.crossing s p) id p).fabric = s.fabric) :
    exec (.packagePacket p.source p.destination p.cls true) s = .next (State.packetArrives (State.crossing s p) id p) := by
  obtain ⟨-, -, -, txns⟩ := State.crossing_regions (s := s) apart
  have region : ∀ r, State.region (State.packetArrives (State.crossing s p) id p) r = State.region (State.crossing s p) r := fun r => by
    unfold State.region; rw [regions]
  have settled : Claims.allSettled (State.packetArrives (State.crossing s p) id p) := allSettled_of quiet (fun r => by rw [region, txns]) (by rw [fabric])
  rw [exec_packagePacket_only alone]
  dsimp only
  rw [if_pos rfl]
  exact congrArg Host.Outcome.next (State.settleAll_none settled)

end

theorem packageHops : Claims.packageHops := by
  intro s a b id cls p apart mem source destination class_ only
  subst source destination class_
  have alone : State.onlyInto s id p := ⟨mem, only⟩
  obtain ⟨at_source, at_destination, elsewhere, -⟩ := State.crossing_regions (s := s) (p := p) apart
  refine ⟨fun k header quiet still => ?_, fun k c header quiet still => ?_, fun few => ?_⟩
  · have arrives := State.packetArrives_request (s := State.crossing s p) (id := id) header (nothingMoves_of still (fun e he => .inr he) fun c => ⟨rfl, rfl⟩)
    refine ⟨_, (exec_packagePacket_crosses alone apart quiet (by rw [arrives]) (by rw [arrives]; rfl)).trans (congrArg _ arrives),
      ⟨at_source, at_destination, elsewhere⟩, rfl, ?_, fun j hj => ?_⟩
    · exact (State.find_homeReached s k k).trans (if_pos rfl)
    · exact (State.find_homeReached s k j).trans (if_neg (Ne.symm hj))
  · have arrives := State.packetArrives_completion (s := State.crossing s p) (id := id) header (nothingMoves_of still (fun e he => .inr he) fun c => ⟨rfl, rfl⟩)
    refine ⟨_, (exec_packagePacket_crosses alone apart quiet (by rw [arrives]; rfl) (by rw [arrives]; rfl)).trans (congrArg _ arrives),
      ⟨at_source, at_destination, elsewhere⟩, rfl, fun d hd => ?_, ?_⟩
    · rw [State.cell_modCell, if_neg (Ne.symm hd)]; rfl
    · rw [State.cell_modCell, if_pos rfl]; rfl
  · rw [exec_packagePacket_only alone]
    dsimp only
    rw [if_neg Bool.false_ne_true, if_pos few]
    generalize hu : State.setRegion s p.source { State.region s p.source with
      retries := NMap.set (State.region s p.source).retries 0 p.destination (NMap.get (State.region s p.source).retries 0 p.destination + 1) } = u
    have counted := counted_count u .pkgRetry 0 (8 * p.source + p.destination) 1 (by decide)
    have records := onlyRecords_count u .pkgRetry 0 (8 * p.source + p.destination) 1
    have region : ∀ r, State.region (State.count u .pkgRetry 0 (8 * p.source + p.destination) 1) r = State.region u r := fun r => by
      unfold State.region; rw [records]
    refine ⟨_, rfl, ?_, ⟨NMap.set (State.region s p.source).retries 0 p.destination (NMap.get (State.region s p.source).retries 0 p.destination + 1), ?_, ?_, fun j hj => ?_⟩,
      fun r hr => ?_, counted_of_tel (by rw [← hu]; rfl) counted⟩
    · rw [records, ← hu]; rfl
    · rw [region, ← hu, State.region_setRegion, if_pos rfl]
    · rw [NMap.get_set, if_pos rfl]
    · rw [NMap.get_set, if_neg (Ne.symm hj)]
    · rw [region, ← hu, State.region_setRegion, if_neg (Ne.symm hr)]

end Sys2Proof.Machine
end

section
/-!
SUPPORT. A link that goes down with nothing left behind: its port lapses, it is counted, and the time service loses it (R391, R443, R446).
-/

namespace Sys2Proof.Machine

theorem NMap.get_mapValues {V : Type} (f : V → V) (d : V) (same : f d = d) (m : NMap V) (k : Nat) :
    NMap.get (m.map (fun e => (e.1, f e.2))) d k = f (NMap.get m d k) := by
  induction m with
  | nil => exact same.symm
  | cons e r ih =>
    by_cases h : e.1 = k
    · unfold NMap.get; simp [NMap.find, h]
    · have hd : NMap.get (e :: r) d k = NMap.get r d k := by unfold NMap.get; simp [NMap.find, h]
      have hf : NMap.get ((e :: r).map (fun e => (e.1, f e.2))) d k = NMap.get (r.map (fun e => (e.1, f e.2))) d k := by
        unfold NMap.get; simp [NMap.find, h]
      rw [hd, hf, ih]

/-- The packet does not hold a credit of a flit that came in by port `p`. -/
def OffPort (p : Nat) (arrived : Option (Nat × Nat)) : Prop := ∀ a, arrived = some a → a.1 ≠ p

theorem OffPort.filter {p : Nat} {arrived : Option (Nat × Nat)} (h : OffPort p arrived) : arrived.filter (fun e => decide (e.1 ≠ p)) = arrived := by
  cases arrived with
  | none => rfl
  | some a => simp [h a rfl]

/-- None of the packets that wait at port `q` came in by port `p`. -/
def QueueOff (s : State) (p q : Nat) : Prop := ∀ w ∈ (State.port s q).queued, OffPort p w.arrived

theorem queueOff_of_noArrivals {s : State} {p : Nat} (h : Claims.noArrivals s p) (q : Nat) : QueueOff s p q := by
  intro w hw
  unfold State.port NMap.get at hw
  cases found : NMap.find s.ports q with
  | none => rw [found] at hw; exact nomatch hw
  | some x =>
    rw [found] at hw
    exact h.1 (q, x) (NMap.mem_of_find found) w hw

theorem State.port_forgetArrivals (s : State) (p q : Nat) : State.port (State.forgetArrivals s p) q =
    { State.port s q with queued := (State.port s q).queued.map (fun w => { w with arrived := w.arrived.filter (fun e => decide (e.1 ≠ p)) }) } :=
  NMap.get_mapValues (fun x : Port => { x with queued := x.queued.map (fun w => { w with arrived := w.arrived.filter (fun e => decide (e.1 ≠ p)) }) })
    Port.reset rfl s.ports q

theorem State.port_forgetArrivals_off {s : State} {p q : Nat} (h : QueueOff s p q) : State.port (State.forgetArrivals s p) q = State.port s q := by
  have same : (State.port s q).queued.map (fun w => { w with arrived := w.arrived.filter (fun e => decide (e.1 ≠ p)) }) = (State.port s q).queued :=
    (List.map_congr_left fun w hw => by rw [(h w hw).filter]; rfl).trans (List.map_id _)
  rw [State.port_forgetArrivals, same]

theorem State.forgetArrivals_frame {s : State} {p : Nat} (h : ∀ e ∈ s.fabric.unrouted, OffPort p e.2) :
    State.forgetArrivals s p = { s with ports := (State.forgetArrivals s p).ports } := by
  have same : s.fabric.unrouted.map (fun e => (e.1, e.2.filter (fun a => decide (a.1 ≠ p)))) = s.fabric.unrouted :=
    (List.map_congr_left fun e he => by rw [(h e he).filter]; rfl).trans (List.map_id _)
  unfold State.forgetArrivals
  dsimp only
  rw [same]

theorem TimeService.elect_frame (t : TimeService) (own : Nat) (failed : NMap Nat) : TimeService.elect t own failed = { t with
    parent := (TimeService.elect t own failed).parent, master := (TimeService.elect t own failed).master, hops := (TimeService.elect t own failed).hops } := by
  unfold TimeService.elect
  dsimp only
  split <;> rfl

/-- What the time service of `y` may differ from that of `x` in when a neighbour is heard or lost. -/
def SameClock (x y : TimeService) : Prop := y = { x with neighbours := y.neighbours, parent := y.parent, master := y.master, hops := y.hops }

theorem SameClock.trans {x y z : TimeService} (h : SameClock x y) (k : SameClock y z) : SameClock x z := by
  unfold SameClock at *; rw [k, h]

theorem sameClock_elect (t : TimeService) (own : Nat) (failed : NMap Nat) (l : NMap TimeProbe) : SameClock t (TimeService.elect { t with neighbours := l } own failed) := by
  unfold SameClock
  rw [TimeService.elect_frame]

/-- Port `p` has lapsed to `next`, and of the rest of the module only records and the choice of the time service have changed. -/
structure Lowered (s t : State) (p : Nat) (next : PortState) : Prop where
  frame : t = { s with ports := t.ports, tel := t.tel, time := t.time }
  clock : SameClock s.time t.time
  here : State.port t p = Port.cleared (State.port s p) next s.timebase
  others : ∀ q, q ≠ p → QueueOff s p q → State.port t q = State.port s q
  reports : Reports [counterKey .linkDowns 0 p, counterKey .recoveryEvents 2 0] s t
  quiet : Quiet s.tel t.tel

/-- The link counted as gone down (R530, R540). -/
def State.linkLost (s : State) (p : Nat) : State := State.recoveryEvent (State.flag (State.count s .linkDowns 0 p 1) 4) 2

theorem onlyRecords_linkLost (s : State) (p : Nat) : OnlyRecords s (State.linkLost s p) :=
  ((onlyRecords_count ..).trans (onlyRecords_flag ..)).trans (onlyRecords_recoveryEvent ..)

theorem reports_linkLost (s : State) (p : Nat) : Reports [counterKey .linkDowns 0 p, counterKey .recoveryEvents 2 0] s (State.linkLost s p) :=
  ((reports_count s .linkDowns 0 p 1).trans (reports_flag _ 4)).trans (reports_recoveryEvent _ 2)

theorem quiet_linkLost (s : State) (p : Nat) : Quiet s.tel (State.linkLost s p).tel :=
  ((quiet_count s .linkDowns 0 p 1).trans (quiet_flag _ 4)).trans (quiet_recoveryEvent _ 2)

theorem counted_linkLost (s : State) (p : Nat) : Claims.counted s (State.linkLost s p) .linkDowns 0 p 1 :=
  (((reports_flag _ 4).trans (reports_recoveryEvent _ 2))).counted_after (counted_count s .linkDowns 0 p 1 (by decide)) (by decide)
    (fun h => counterKey_ne (by decide) _ _ _ _ (List.mem_singleton.1 h))

section
variable {s : State} {p : Nat} {next : PortState}

theorem State.takeDown_idle (down : Port.up (State.port s p) = false) : State.takeDown s p next = State.setPort s p (Port.cleared (State.port s p) next s.timebase) := by
  unfold State.takeDown
  dsimp only
  rw [down]
  rfl

/-- A port that carries nothing is taken out of its state. -/
theorem lowered_idle (down : Port.up (State.port s p) = false) : Lowered s (State.takeDown s p next) p next ∧
    (State.takeDown s p next).tel = s.tel ∧ (State.takeDown s p next).time = s.time := by
  rw [State.takeDown_idle down]
  refine ⟨⟨rfl, rfl, State.port_setPort_same .., fun q hq _ => State.port_setPort_ne s hq _, ?_, rfl⟩, rfl, rfl⟩
  exact ⟨fun _ _ _ => rfl, fun _ h => h, fun _ h => h⟩

theorem State.takeDown_up (up : Port.up (State.port s p) = true) (replay : (State.port s p).replay = []) (queued : (State.port s p).queued = []) :
    let s3 := State.forgetArrivals (State.linkLost (State.setPort s p (Port.cleared (State.port s p) next s.timebase)) p) p
    State.takeDown s p next = s3 ∨ ∃ l, State.takeDown s p next = State.electTime { s3 with time := { s3.time with neighbours := l } } := by
  unfold State.takeDown
  dsimp only
  rw [up, replay, queued]
  simp only [if_true, List.flatMap_nil, List.filter_nil, List.map_nil, List.append_nil, List.foldl_nil]
  split
  · split
    · exact .inl rfl
    · exact .inr ⟨_, rfl⟩
  · exact .inl rfl

/-- A link that carries traffic goes down, nothing waiting at it. -/
theorem lowered_up (up : Port.up (State.port s p) = true) (replay : (State.port s p).replay = []) (queued : (State.port s p).queued = [])
    (unrouted : ∀ e ∈ s.fabric.unrouted, OffPort p e.2) : Lowered s (State.takeDown s p next) p next ∧ Claims.counted s (State.takeDown s p next) .linkDowns 0 p 1 := by
  have route := State.takeDown_up (next := next) up replay queued
  dsimp only at route
  generalize h1 : State.setPort s p (Port.cleared (State.port s p) next s.timebase) = s1 at route
  have frame1 : s1 = { s with ports := s1.ports } := by rw [← h1]; rfl
  have here1 : State.port s1 p = Port.cleared (State.port s p) next s.timebase := by rw [← h1]; exact State.port_setPort_same ..
  have others1 : ∀ q, q ≠ p → State.port s1 q = State.port s q := fun q hq => by rw [← h1]; exact State.port_setPort_ne s hq _
  have counted := counted_of_tel (s := s) (by rw [frame1]) (counted_linkLost s1 p)
  have reports : Reports _ s (State.linkLost s1 p) := (reports_of_tel (by rw [frame1])).trans (reports_linkLost s1 p)
  have records := onlyRecords_linkLost s1 p
  have quiet := quiet_linkLost s1 p
  generalize State.linkLost s1 p = s2 at route counted reports records quiet
  have port2 : ∀ q, State.port s2 q = State.port s1 q := fun q => State.port_congr (by rw [records]) q
  have frame3 := State.forgetArrivals_frame (s := s2) (p := p) (by rw [records, frame1]; exact unrouted)
  have here3 : State.port (State.forgetArrivals s2 p) p = Port.cleared (State.port s p) next s.timebase := by
    rw [State.port_forgetArrivals, port2, here1]; rfl
  have others3 : ∀ q, q ≠ p → QueueOff s p q → State.port (State.forgetArrivals s2 p) q = State.port s q := fun q hq off => by
    have same : State.port s2 q = State.port s q := (port2 q).trans (others1 q hq)
    rw [State.port_forgetArrivals_off (by unfold QueueOff; rw [same]; exact off), same]
  generalize State.forgetArrivals s2 p = s3 at route frame3 here3 others3
  have tel3 : s3.tel = s2.tel := by rw [frame3]
  have quiet3 : Quiet s.tel s3.tel := by rw [tel3]; rw [frame1] at quiet; exact quiet
  have whole : s3 = { s with ports := s3.ports, tel := s3.tel } := by rw [frame3, records, frame1]
  obtain eq | ⟨l, eq⟩ := route
  · rw [eq]
    refine ⟨⟨by rw [whole], by rw [whole]; rfl, here3, others3, ?_, quiet3⟩, ?_⟩
    · exact reports.trans (reports_of_tel tel3)
    · exact (reports_of_tel tel3).counted_after counted (by decide) (fun m => nomatch m)
  · rw [eq]
    refine ⟨⟨?_, ?_, here3, others3, ?_, quiet3⟩, ?_⟩
    · unfold State.electTime; rw [whole]
    · have clock := sameClock_elect s3.time s3.moduleNumber s3.fabric.failed l
      have time : s3.time = s.time := by rw [whole]
      rw [time] at clock
      unfold State.electTime
      rw [time]
      exact clock
    · exact reports.trans (reports_of_tel tel3)
    · exact (reports_of_tel (t := State.electTime { s3 with time := { s3.time with neighbours := l } }) tel3).counted_after counted (by decide) (fun m => nomatch m)

end

end Sys2Proof.Machine
end

section
/-!
SUPPORT. Leaving JOINED with nothing waiting: every port that carries traffic goes back to bring-up (R50, R393).
-/

namespace Sys2Proof.Machine

/-- The port carries traffic or is joining: it goes back to bring-up as the module leaves JOINED. -/
def Port.engaged (x : Port) : Bool := Port.up x || decide (x.state = .join)

/-- Nothing waits at the ports of the module, nothing is held for replay, and no packet without a hop holds a credit. -/
def Idle (s : State) : Prop := (∀ q, q < 40 → (State.port s q).queued = [] ∧ (State.port s q).replay = []) ∧ ∀ e ∈ s.fabric.unrouted, e.2 = none

/-- The counters of links that went down. -/
def downKeys (l : List Nat) : List Nat := l.flatMap (fun p => [counterKey .linkDowns 0 p, counterKey .recoveryEvents 2 0])

/-- From `s` to `t` the engaged ports of `l` have gone back to DETECT. -/
structure Disengaged (s t : State) (l : List Nat) : Prop where
  frame : t = { s with ports := t.ports, tel := t.tel, time := t.time }
  clock : SameClock s.time t.time
  taken : ∀ q, q < 40 → q ∈ l → Port.engaged (State.port s q) = true → State.port t q = Port.cleared (State.port s q) .detect s.timebase
  kept : ∀ q, q < 40 → q ∉ l ∨ Port.engaged (State.port s q) = false → State.port t q = State.port s q
  reports : Reports (downKeys (l.filter (fun q => Port.engaged (State.port s q)))) s t
  quiet : Quiet s.tel t.tel

theorem lowered_of_idle {s : State} {p : Nat} {next : PortState} (idle : Idle s) (hp : p < 40) : Lowered s (State.takeDown s p next) p next := by
  obtain ⟨ports, unrouted⟩ := idle
  cases up : Port.up (State.port s p) with
  | false => exact (lowered_idle up).1
  | true => exact (lowered_up up (ports p hp).2 (ports p hp).1 (fun e he a ha => by rw [unrouted e he] at ha; exact nomatch ha)).1

theorem Lowered.port {s t : State} {p : Nat} {next : PortState} (h : Lowered s t p next) (idle : Idle s) {q : Nat} (hq : q < 40) (other : q ≠ p) :
    State.port t q = State.port s q :=
  h.others q other (by unfold QueueOff; rw [(idle.1 q hq).1]; exact fun _ h => nomatch h)

theorem Lowered.idle {s t : State} {p : Nat} {next : PortState} (h : Lowered s t p next) (idle : Idle s) : Idle t := by
  refine ⟨fun q hq => ?_, by rw [h.frame]; exact idle.2⟩
  by_cases same : q = p
  · rw [same, h.here]; exact ⟨rfl, rfl⟩
  · rw [h.port idle hq same]; exact idle.1 q hq

/-- One port goes back to bring-up where it is engaged. -/
def State.disengage (s : State) (p : Nat) : State := if Port.engaged (State.port s p) then State.takeDown s p .detect else s

theorem disengaged_foldl (l : List Nat) (range : ∀ p ∈ l, p < 40) (distinct : l.Nodup) (s : State) (idle : Idle s) : Disengaged s (l.foldl State.disengage s) l := by
  induction l generalizing s with
  | nil => exact ⟨rfl, rfl, fun _ _ h => (nomatch h), fun _ _ _ => rfl, Reports.refl s, rfl⟩
  | cons p l ih =>
    obtain ⟨fresh, distinct⟩ := List.nodup_cons.1 distinct
    have hp := range p List.mem_cons_self
    have range' : ∀ q ∈ l, q < 40 := fun q hq => range q (List.mem_cons_of_mem _ hq)
    rw [List.foldl_cons]
    cases engaged : Port.engaged (State.port s p) with
    | false =>
      have same : State.disengage s p = s := by unfold State.disengage; rw [engaged]; rfl
      rw [same]
      have rest := ih range' distinct s idle
      refine ⟨rest.frame, rest.clock, fun q hq mem on => ?_, fun q hq out => ?_, ?_, rest.quiet⟩
      · obtain rfl | mem := List.mem_cons.1 mem
        · rw [engaged] at on; exact nomatch on
        · exact rest.taken q hq mem on
      · exact rest.kept q hq (out.imp_left fun n m => n (List.mem_cons_of_mem _ m))
      · rw [List.filter_cons_of_neg (by rw [engaged]; exact Bool.false_ne_true)]
        exact rest.reports
    | true =>
      have same : State.disengage s p = State.takeDown s p .detect := by unfold State.disengage; rw [engaged]; rfl
      rw [same]
      have first := lowered_of_idle (next := .detect) idle hp
      generalize State.takeDown s p .detect = u at first
      have rest := ih range' distinct u (first.idle idle)
      have now : u.timebase = s.timebase := by rw [first.frame]
      have port : ∀ q, q < 40 → q ≠ p → State.port u q = State.port s q := fun q hq other => first.port idle hq other
      refine ⟨by rw [rest.frame, first.frame], first.clock.trans rest.clock, fun q hq mem on => ?_, fun q hq out => ?_, ?_, first.quiet.trans rest.quiet⟩
      · by_cases eq : q = p
        · rw [eq, rest.kept p hp (.inl fresh), first.here]
        · rw [rest.taken q hq ((List.mem_cons.1 mem).resolve_left eq) (by rw [port q hq eq]; exact on), port q hq eq, now]
      · have other : q ≠ p := fun eq => out.elim (fun n => n (by rw [eq]; exact List.mem_cons_self)) (fun off => by rw [eq, engaged] at off; exact nomatch off)
        rw [rest.kept q hq (out.imp (fun n m => n (List.mem_cons_of_mem _ m)) fun off => by rw [port q hq other]; exact off), port q hq other]
      · have same : l.filter (fun q => Port.engaged (State.port u q)) = l.filter (fun q => Port.engaged (State.port s q)) :=
          List.filter_congr fun q hq => by rw [port q (range' q hq) fun eq => fresh (eq ▸ hq)]
        have reports := first.reports.trans rest.reports
        rw [same] at reports
        have keys : (p :: l).filter (fun q => Port.engaged (State.port s q)) = p :: l.filter (fun q => Port.engaged (State.port s q)) :=
          List.filter_cons_of_pos engaged
        rw [keys]
        exact reports

/-- The module once it counts as outside JOINED, its ports as they were. -/
def State.unjoined (s : State) : State :=
  { s with joined := false, time := { s.time with synced := false }, fabric := { s.fabric with firstIdentity := none } }

theorem State.leaveJoined_eq (s : State) : State.leaveJoined s = (List.range 40).foldl State.disengage (State.unjoined s) := rfl

theorem disengaged_leaveJoined {s : State} (idle : Idle s) : Disengaged (State.unjoined s) (State.leaveJoined s) (List.range 40) := by
  rw [State.leaveJoined_eq]
  exact disengaged_foldl _ (fun p hp => List.mem_range.1 hp) List.nodup_range _ idle

end Sys2Proof.Machine
end

section
/-!
SUPPORT. The time service: the choice of master and parent, packets for a neighbour, and the offset (R47, R50, R389, R390).
-/

namespace Sys2Proof.Machine

/-! ### The best of the neighbours -/

/-- `a` comes before `b`: a lower master, else fewer hops, else a lower number (R390). -/
def TimeProbe.before (a b : TimeProbe) : Bool :=
  decide (a.master < b.master) || (decide (a.master = b.master) && (decide (a.hops < b.hops) || (decide (a.hops = b.hops) && decide (a.sender < b.sender))))

theorem TimeProbe.before_iff (a b : TimeProbe) : TimeProbe.before a b = true ↔
    a.master < b.master ∨ (a.master = b.master ∧ (a.hops < b.hops ∨ (a.hops = b.hops ∧ a.sender < b.sender))) := by
  simp [TimeProbe.before]

/-- The better of the best so far and the next. -/
def TimeProbe.better (acc : Option TimeProbe) (e : Nat × TimeProbe) : Option TimeProbe :=
  match acc with
  | none => some e.2
  | some b => if TimeProbe.before e.2 b then some e.2 else acc

/-- `b` is no worse than `a`. -/
def TimeProbe.upTo (b a : TimeProbe) : Prop :=
  b.master < a.master ∨ (b.master = a.master ∧ (b.hops < a.hops ∨ (b.hops = a.hops ∧ b.sender ≤ a.sender)))

theorem TimeProbe.upTo_of_not_before {a b : TimeProbe} (h : ¬ TimeProbe.before a b = true) : TimeProbe.upTo b a := by
  rw [TimeProbe.before_iff] at h; unfold TimeProbe.upTo; omega

theorem TimeProbe.upTo_of_before {a b c : TimeProbe} (h : TimeProbe.before a b = true) (k : TimeProbe.upTo c a) : TimeProbe.upTo c b := by
  rw [TimeProbe.before_iff] at h; unfold TimeProbe.upTo at *; omega

theorem foldl_better (l : NMap TimeProbe) (b : TimeProbe) : ∃ r, l.foldl TimeProbe.better (some b) = some r ∧ (r = b ∨ ∃ k, (k, r) ∈ l) ∧
    TimeProbe.upTo r b ∧ ∀ e ∈ l, TimeProbe.upTo r e.2 := by
  induction l generalizing b with
  | nil => exact ⟨b, rfl, .inl rfl, .inr ⟨rfl, .inr ⟨rfl, Nat.le_refl _⟩⟩, fun _ h => nomatch h⟩
  | cons e l ih =>
    rw [List.foldl_cons]
    cases better : TimeProbe.before e.2 b with
    | true =>
      have step : TimeProbe.better (some b) e = some e.2 := by unfold TimeProbe.better; dsimp only; rw [better]; rfl
      obtain ⟨r, fold, from_, above, all⟩ := ih e.2
      refine ⟨r, by rw [step]; exact fold, .inr ?_, TimeProbe.upTo_of_before better above, fun f hf => ?_⟩
      · obtain rfl | ⟨k, hk⟩ := from_
        · exact ⟨e.1, List.mem_cons_self⟩
        · exact ⟨k, List.mem_cons_of_mem _ hk⟩
      · obtain rfl | hf := List.mem_cons.1 hf
        · exact above
        · exact all f hf
    | false =>
      have step : TimeProbe.better (some b) e = some b := by unfold TimeProbe.better; dsimp only; rw [better]; rfl
      obtain ⟨r, fold, from_, above, all⟩ := ih b
      refine ⟨r, by rw [step]; exact fold, from_.imp_right fun ⟨k, hk⟩ => ⟨k, List.mem_cons_of_mem _ hk⟩, above, fun f hf => ?_⟩
      obtain rfl | hf := List.mem_cons.1 hf
      · have stays := TimeProbe.upTo_of_not_before (by rw [better]; exact Bool.false_ne_true)
        unfold TimeProbe.upTo at *
        omega
      · exact all f hf

/-- The choice among neighbours finds the best, where there is one. -/
theorem foldl_better_none (l : NMap TimeProbe) : (l = [] → l.foldl TimeProbe.better none = none) ∧
    (l ≠ [] → ∃ r, l.foldl TimeProbe.better none = some r ∧ Claims.bestTime l r) := by
  cases l with
  | nil => exact ⟨fun _ => rfl, fun h => absurd rfl h⟩
  | cons e l =>
    refine ⟨(nomatch ·), fun _ => ?_⟩
    obtain ⟨r, fold, from_, above, all⟩ := foldl_better l e.2
    refine ⟨r, fold, ?_, fun f hf => ?_⟩
    · obtain rfl | ⟨k, hk⟩ := from_
      · exact ⟨e.1, List.mem_cons_self⟩
      · exact ⟨k, List.mem_cons_of_mem _ hk⟩
    · obtain rfl | hf := List.mem_cons.1 hf
      · exact above
      · exact all f hf

theorem bestTime_unique {l : NMap TimeProbe} {a b : TimeProbe} (ha : Claims.bestTime l a) (hb : Claims.bestTime l b) :
    a.master = b.master ∧ a.hops = b.hops ∧ a.sender = b.sender := by
  obtain ⟨⟨i, mem_a⟩, least_a⟩ := ha
  obtain ⟨⟨j, mem_b⟩, least_b⟩ := hb
  have h := least_a _ mem_b
  have k := least_b _ mem_a
  dsimp only at h k
  omega

/-! ### Electing -/

/-- The time service as it hears or loses a neighbour now. -/
def State.hearing (s : State) (l : NMap TimeProbe) : State := { s with time := { s.time with neighbours := l, lastService := s.timebase } }

theorem masters_eq (s : State) (l : NMap TimeProbe) :
    l.filter (fun e => decide (e.2.master < s.moduleNumber) && (NMap.find s.fabric.failed e.2.master).isNone) = Claims.masters s l := by
  unfold Claims.masters
  congr 1
  funext e
  rw [Bool.decide_and]
  congr 1
  cases NMap.find s.fabric.failed e.2.master <;> rfl

/-- The time service under the best of the neighbours, if there is one. -/
def TimeService.under (t : TimeService) (own : Nat) (best : Option TimeProbe) : TimeService :=
  match best with
  | none => { t with parent := none, master := own, hops := 0 }
  | some b => { t with parent := some b.sender, master := b.master, hops := b.hops + 1 }

theorem State.electTime_eq (s : State) : State.electTime s =
    { s with time := TimeService.under s.time s.moduleNumber ((Claims.masters s s.time.neighbours).foldl TimeProbe.better none) } := by
  rw [← masters_eq]; rfl

/-- The choice of master and parent: this module where no neighbour names a lower one, else the best's. -/
theorem State.electTime_cases (s : State) :
    (Claims.masters s s.time.neighbours = [] ∧ State.electTime s = { s with time := { s.time with parent := none, master := s.moduleNumber, hops := 0 } }) ∨
    ∃ b, Claims.bestTime (Claims.masters s s.time.neighbours) b ∧
      State.electTime s = { s with time := { s.time with parent := some b.sender, master := b.master, hops := b.hops + 1 } } := by
  rw [State.electTime_eq]
  obtain ⟨empty, some_⟩ := foldl_better_none (Claims.masters s s.time.neighbours)
  by_cases none_ : Claims.masters s s.time.neighbours = []
  · rw [empty none_]; exact .inl ⟨none_, rfl⟩
  · obtain ⟨b, fold, best⟩ := some_ none_
    rw [fold]; exact .inr ⟨b, best, rfl⟩

theorem bestTime_ne_nil {l : NMap TimeProbe} {b : TimeProbe} (h : Claims.bestTime l b) : l ≠ [] := by
  obtain ⟨⟨k, mem⟩, -⟩ := h
  exact List.ne_nil_of_mem mem

/-- What hearing a time packet does: master and parent are chosen, and nothing else of the time service moves. -/
theorem hearTime_spec (s : State) (p : TimeProbe) : ∃ pa ma ho,
    State.hearTime s p = { s with time := { s.time with
      neighbours := NMap.insert s.time.neighbours p.sender p, lastService := s.timebase, parent := pa, master := ma, hops := ho } } ∧
    (Claims.masters s (NMap.insert s.time.neighbours p.sender p) = [] → pa = none ∧ ma = s.moduleNumber ∧ ho = 0) ∧
    ∀ b, Claims.bestTime (Claims.masters s (NMap.insert s.time.neighbours p.sender p)) b → pa = some b.sender ∧ ma = b.master ∧ ho = b.hops + 1 := by
  have hears : State.hearTime s p = State.electTime (State.hearing s (NMap.insert s.time.neighbours p.sender p)) := rfl
  rw [hears]
  obtain ⟨none_, eq⟩ | ⟨b, best, eq⟩ := State.electTime_cases (State.hearing s (NMap.insert s.time.neighbours p.sender p))
  · exact ⟨_, _, _, eq, fun _ => ⟨rfl, rfl, rfl⟩, fun b best => absurd none_ (bestTime_ne_nil best)⟩
  · refine ⟨_, _, _, eq, fun none_ => absurd none_ (bestTime_ne_nil best), fun c other => ?_⟩
    obtain ⟨master, hops, sender⟩ := bestTime_unique best other
    rw [master, hops, sender]; exact ⟨rfl, rfl, rfl⟩

/-! ### Packets for a neighbour -/

theorem canLeave_direct (x : Port) (w : TransitPacket) (vc : Nat) (hvc : PacketKind.vc w.kind = vc) :
    Port.canLeave x { packet := w, classes := [0, 1], hop := .direct, arrived := none } =
      if Port.credit x vc (Claims.directClass x vc) = true then some (Claims.directClass x vc) else none := by
  unfold Port.canLeave Claims.directClass
  rw [← hvc]
  dsimp only
  cases shared : Port.credit x (PacketKind.vc w.kind) 0 <;> cases level : Port.credit x (PacketKind.vc w.kind) 1 <;>
    simp [shared, level]

theorem claims_toNeighbour {s : State} {p vc : Nat} {k : PacketKind} (up : Port.up (State.port s p) = true) (idle : Claims.idlePort (State.port s p))
    (stamp : State.stamped s k = k) (hvc : PacketKind.vc k = vc) : Claims.toNeighbour s (State.toNeighbour s p k) p vc k := by
  intro q partner
  have comes : State.toNeighbour s p k = State.toPort s p
      { packet := { source := s.moduleNumber, destination := q.module, level1 := false, kind := k }, classes := [0, 1], hop := .direct, arrived := none } := by
    unfold State.toNeighbour; rw [partner]
  have can := canLeave_direct (State.port s p) { source := s.moduleNumber, destination := q.module, level1 := false, kind := k } vc hvc
  dsimp only
  rw [comes]
  split
  · next h =>
    obtain ⟨room, credit⟩ := h
    rw [if_pos credit] at can
    obtain ⟨u, leaves, tel, eq⟩ := State.toPort_leaves idle up room can rfl
    have sent : State.sentPacket s { source := s.moduleNumber, destination := q.module, level1 := false, kind := k } =
        { source := s.moduleNumber, destination := q.module, level1 := false, kind := k } := by
      unfold State.sentPacket; rw [stamp]
    dsimp only at leaves
    rw [sent, hvc] at leaves
    rw [eq]
    exact ⟨leaves, tel⟩
  · next h =>
    refine State.toPort_waits idle ((not_and_or.1 h).imp_right fun credit => ?_)
    exact can.trans (if_neg credit)

/-! ### The commands -/

theorem exec_timeProbeTimer {s : State} {port : Nat} (up : Port.up (State.port s port) = true) (idle : Claims.idlePort (State.port s port)) :
    ∃ t, exec (.timeProbeTimer port) s = .next t ∧
      Claims.toNeighbour s t port 3 (.timeProbe { sender := s.moduleNumber, stamp := s.timebase, master := s.time.master, hops := s.time.hops }) := by
  refine ⟨_, if_pos up, ?_⟩
  exact claims_toNeighbour up idle rfl rfl

theorem exec_timeProbe {s : State} {port : Nat} {p : TimeProbe} (up : Port.up (State.port s port) = true) (idle : Claims.idlePort (State.port s port)) :
    let l := NMap.insert s.time.neighbours p.sender p
    ∃ t u, exec (.timeProbe port p) s = .next t ∧ Claims.elects s u l ∧
      u = { s with time := { s.time with
        neighbours := l, lastService := s.timebase, parent := u.time.parent, master := u.time.master, hops := u.time.hops } } ∧
      Claims.toNeighbour u t port 3 (.timeReply p.stamp s.timebase s.timebase
        { sender := s.moduleNumber, stamp := s.timebase, master := u.time.master, hops := u.time.hops }) := by
  obtain ⟨pa, ma, ho, hears, none_, best⟩ := hearTime_spec s p
  refine ⟨_, State.hearTime s p, if_pos up, ?_, ?_, ?_⟩
  · rw [hears]; exact ⟨none_, best⟩
  · rw [hears]
  · rw [hears]
    exact claims_toNeighbour up idle rfl rfl

end Sys2Proof.Machine
end

section
/-!
SUPPORT. TIME_REPLY and the silence of the time service (R47, R50, R389, R390).
-/

namespace Sys2Proof.Machine

theorem clampTo_eq (lo hi v : Int) (h : lo ≤ hi) : clampTo lo hi v = max lo (min hi v) := by
  unfold clampTo; split_ifs <;> omega

/-- The offset that a reply of the parent gives (R389). -/
def State.timeOffset (s : State) (t1 t2 t3 : Nat) : Int := (((t2 : Int) - t1) - ((s.timebase : Int) - t3)) / 2

/-- The module is out of tolerance of the time it holds (Table 2.4). -/
def State.farOff (s : State) (offset : Int) : Bool := s.time.synced && decide (offset < -20 ∨ 20 < offset)

/-- The step out of tolerance is counted and noted. -/
def State.tolerance (s : State) (offset : Int) : State :=
  if State.farOff s offset then State.w1cSet (State.count s .timeOot 0 0 1) outOfTolKey else s

theorem onlyRecords_tolerance (s : State) (offset : Int) : OnlyRecords s (State.tolerance s offset) := by
  unfold State.tolerance
  split
  · exact (onlyRecords_count s .timeOot 0 0 1).trans rfl
  · rfl

theorem counted_tolerance {s : State} {offset : Int} (far : State.farOff s offset = true) : Claims.counted s (State.tolerance s offset) .timeOot 0 0 1 := by
  unfold State.tolerance
  rw [if_pos far]
  exact (reports_w1cSet _ outOfTolKey).counted_after (counted_count s .timeOot 0 0 1 (by decide)) (by decide) fun h => nomatch h

theorem State.estimate_eq (s : State) (offset : Int) : State.estimate s offset =
    { State.endEpisode (State.tolerance s offset) 0xA2 0 0 0 with
      time := { s.time with
        offset := clampTo (-32767) 32767 offset, slew := offset, outOfTol := s.time.outOfTol || State.farOff s offset, holdover := false
        synced := (State.endEpisode (State.tolerance s offset) 0xA2 0 0 0).joined } } := rfl

/-- An estimate against the parent: what is to be slewed, the end of holdover, and the tolerance. -/
theorem State.estimate_spec (s : State) (offset : Int) : ∃ tel, State.estimate s offset =
    { s with
      time := { s.time with
        offset := max (-32767) (min 32767 offset), slew := offset, outOfTol := s.time.outOfTol || State.farOff s offset, holdover := false, synced := s.joined }
      tel := tel } ∧
    (State.farOff s offset = true → Claims.counted s { s with tel := tel } .timeOot 0 0 1) ∧ (0xA2, 0, 0, 0) ∉ tel.episodes := by
  have records := onlyRecords_tolerance s offset
  have counted := counted_tolerance (s := s) (offset := offset)
  have estimate := State.estimate_eq s offset
  rw [clampTo_eq _ _ _ (by decide)] at estimate
  generalize State.tolerance s offset = u at records counted estimate
  have ended := not_mem_endEpisode u 0xA2 0 0 0
  have after := reports_endEpisode u 0xA2 0 0 0
  generalize hv : State.endEpisode u 0xA2 0 0 0 = v at estimate ended after
  have frame : v = { s with tel := v.tel } := by
    have whole : v = { u with tel := v.tel } := by rw [← hv]; rfl
    rw [whole, records]
  refine ⟨v.tel, ?_, fun far => ?_, ended⟩
  · rw [estimate, frame]
  · have told : Claims.counted s v .timeOot 0 0 1 := after.counted_after (counted far) (by decide) fun h => nomatch h
    exact told

/-- The offset is beyond 1 ms in holdover: the module leaves JOINED (R50). -/
def State.timeLost (s : State) (offset : Int) : Prop := s.joined = true ∧ s.time.holdover = true ∧ (offset < -1000000 ∨ 1000000 < offset)

/-- The module as it leaves JOINED for an offset. -/
def State.losing (s : State) (offset : Int) : State := { s with time := { s.time with offset := clampTo (-32767) 32767 offset, slew := 0 } }

section
variable {s : State} {port t1 t2 t3 : Nat} {p : TimeProbe}

theorem exec_timeReply_other (up : Port.up (State.port s port) = true) (other : (State.hearTime s p).time.parent ≠ some p.sender) :
    exec (.timeReply port t1 t2 t3 p) s = .next (State.hearTime s p) := by
  show execTimeReply port t1 t2 t3 p s = _
  unfold execTimeReply
  rw [up]
  exact if_pos other

theorem exec_timeReply_own (up : Port.up (State.port s port) = true) (own : (State.hearTime s p).time.parent = some p.sender) :
    (State.timeLost (State.hearTime s p) (State.timeOffset s t1 t2 t3) →
      exec (.timeReply port t1 t2 t3 p) s = .next (State.leaveJoined (State.losing (State.hearTime s p) (State.timeOffset s t1 t2 t3)))) ∧
    (¬ State.timeLost (State.hearTime s p) (State.timeOffset s t1 t2 t3) →
      exec (.timeReply port t1 t2 t3 p) s = .next (State.estimate (State.hearTime s p) (State.timeOffset s t1 t2 t3))) := by
  have run : exec (.timeReply port t1 t2 t3 p) s = execTimeReply port t1 t2 t3 p s := rfl
  unfold execTimeReply at run
  rw [up] at run
  have mine := run.trans ((if_neg (by decide)).trans (if_neg (fun h => h own)))
  exact ⟨fun lost => mine.trans (if_pos (by exact lost)), fun steady => mine.trans (if_neg (by exact steady))⟩

theorem exec_timeReply_parent (up : Port.up (State.port s port) = true) (best : Claims.bestTime (Claims.masters s (NMap.insert s.time.neighbours p.sender p)) p)
    (steady : ¬ State.timeLost s (State.timeOffset s t1 t2 t3)) :
    ∃ t, exec (.timeReply port t1 t2 t3 p) s = .next t ∧
      t = { s with
        time := { s.time with
          neighbours := NMap.insert s.time.neighbours p.sender p, lastService := s.timebase, parent := some p.sender, master := p.master, hops := p.hops + 1
          offset := t.time.offset, slew := State.timeOffset s t1 t2 t3, outOfTol := s.time.outOfTol || State.farOff s (State.timeOffset s t1 t2 t3)
          holdover := false, synced := s.joined }
        tel := t.tel } ∧
      t.time.offset = max (-32767) (min 32767 (State.timeOffset s t1 t2 t3)) ∧
      (State.farOff s (State.timeOffset s t1 t2 t3) = true → Claims.counted s t .timeOot 0 0 1) ∧ (0xA2, 0, 0, 0) ∉ t.tel.episodes := by
  obtain ⟨pa, ma, ho, hears, -, choice⟩ := hearTime_spec s p
  obtain ⟨rfl, rfl, rfl⟩ := choice p best
  obtain ⟨-, run⟩ := exec_timeReply_own (t1 := t1) (t2 := t2) (t3 := t3) up (by rw [hears])
  obtain ⟨tel, estimate, counted, ended⟩ := State.estimate_spec (State.hearTime s p) (State.timeOffset s t1 t2 t3)
  rw [hears] at run estimate counted
  exact ⟨_, (run steady).trans (congrArg _ estimate), rfl, rfl, counted, ended⟩

theorem exec_timeReply_lost (up : Port.up (State.port s port) = true) (best : Claims.bestTime (Claims.masters s (NMap.insert s.time.neighbours p.sender p)) p)
    (lost : State.timeLost s (State.timeOffset s t1 t2 t3)) (idle : Idle s) :
    ∃ t, exec (.timeReply port t1 t2 t3 p) s = .next t ∧ t.joined = false ∧ t.time.synced = false ∧ t.time.slew = 0 := by
  obtain ⟨pa, ma, ho, hears, -, choice⟩ := hearTime_spec s p
  obtain ⟨rfl, rfl, rfl⟩ := choice p best
  obtain ⟨run, -⟩ := exec_timeReply_own (t1 := t1) (t2 := t2) (t3 := t3) up (by rw [hears])
  have left := disengaged_leaveJoined (s := State.losing (State.hearTime s p) (State.timeOffset s t1 t2 t3)) (by rw [hears]; exact idle)
  rw [hears] at run left
  refine ⟨_, run lost, ?_, ?_, ?_⟩
  · rw [left.frame]; rfl
  · rw [left.clock]; rfl
  · rw [left.clock]; rfl

theorem exec_timeReply_elsewhere (up : Port.up (State.port s port) = true)
    (other : ∀ b, Claims.bestTime (Claims.masters s (NMap.insert s.time.neighbours p.sender p)) b → b.sender ≠ p.sender) :
    ∃ t, exec (.timeReply port t1 t2 t3 p) s = .next t ∧ Claims.elects s t (NMap.insert s.time.neighbours p.sender p) ∧
      t = { s with time := { s.time with
        neighbours := NMap.insert s.time.neighbours p.sender p, lastService := s.timebase, parent := t.time.parent, master := t.time.master, hops := t.time.hops } } := by
  obtain ⟨pa, ma, ho, hears, none_, choice⟩ := hearTime_spec s p
  have parent : (State.hearTime s p).time.parent ≠ some p.sender := by
    have elected := foldl_better_none (Claims.masters s (NMap.insert s.time.neighbours p.sender p))
    rw [hears]
    by_cases empty : Claims.masters s (NMap.insert s.time.neighbours p.sender p) = []
    · rw [(none_ empty).1]; exact fun h => nomatch h
    · obtain ⟨b, -, best⟩ := elected.2 empty
      rw [(choice b best).1]
      exact fun h => other b best (Option.some.inj h)
  refine ⟨_, exec_timeReply_other up parent, ?_, ?_⟩
  · rw [hears]; exact ⟨none_, choice⟩
  · rw [hears]

end

theorem exec_timeServiceSilence {s : State} (joined : s.joined = true) (held : s.time.holdover = false) (late : s.time.lastService + 1000000 ≤ s.timebase)
    (fresh : (0xA2, 0, 0, 0) ∉ s.tel.episodes) :
    ∃ t, exec .timeServiceSilence s = .next t ∧ t = { s with time := { s.time with holdover := true, synced := false, slew := 0 }, tel := t.tel } ∧
      Claims.alarmed s t 0xA2 0 0 0 ∧ (0xA2, 0, 0, 0) ∈ t.tel.episodes := by
  have silent : (s.joined && !s.time.holdover && decide (s.time.lastService + 1000000 ≤ s.timebase)) = true := by
    rw [joined, held, decide_eq_true late]; rfl
  have run : exec .timeServiceSilence s =
      .next (State.beginEpisode { s with time := { s.time with holdover := true, synced := false, slew := 0 } } 0xA2 0 0 0 0) := if_pos silent
  generalize hu : ({ s with time := { s.time with holdover := true, synced := false, slew := 0 } } : State) = u at run
  obtain ⟨current, raised⟩ := beginEpisode_current u 0xA2 0 0 0 0
  have records := onlyRecords_beginEpisode u 0xA2 0 0 0 0
  have alarm := raised (by rw [← hu]; exact fresh)
  generalize State.beginEpisode u 0xA2 0 0 0 0 = t at run current records alarm
  refine ⟨t, run, ?_, alarmed_of (by rw [← hu]) alarm, current⟩
  rw [records, ← hu]

theorem idle_of_noneWait {s : State} (wait : Claims.noneWait s) (replay : ∀ q, q < 40 → (State.port s q).replay = []) : Idle s :=
  ⟨fun q hq => ⟨(wait.1 q hq).1, replay q hq⟩, fun e he => by rw [wait.2] at he; exact nomatch he⟩

theorem timeService : Claims.timeService :=
  ⟨fun _ _ up idle => exec_timeProbeTimer up idle, fun _ _ _ up idle => exec_timeProbe up idle,
    fun _ _ _ _ _ _ up => ⟨fun best steady => exec_timeReply_parent up best steady,
      fun best lost wait replay => exec_timeReply_lost up best lost (idle_of_noneWait wait replay), fun other => exec_timeReply_elsewhere up other⟩,
    fun _ joined held late fresh => exec_timeServiceSilence joined held late fresh⟩

end Sys2Proof.Machine
end

section
/-!
SUPPORT. Messages that every live link carries, and a module that is learned to have failed (R393, R394, R396).
-/

namespace Sys2Proof.Machine

/-! ### One link after the other -/

/-- Port `p`, where nothing waited, has message `k` for its neighbour in its replay buffer and on its way, or keeps it until it may leave. -/
def Carries (s t : State) (k : PacketKind) (p : Nat) : Prop :=
  let x := State.port s p
  ∀ q : Partner, x.partner = some q →
    let w : TransitPacket := { source := s.moduleNumber, destination := q.module, level1 := false, kind := k }
    if x.replay.length < 2048 ∧ Port.credit x 0 (Claims.directClass x 0) = true then
      ∃ r, Claims.flitQueued x (State.port t p) 0 (Claims.directClass x 0) w r ∧
        .link p (.flit { seq := x.txNext, vc := 0, cred := Claims.directClass x 0, payload := [w], control := none } r x.silenced) ∈ t.out
    else State.port t p = { x with queued := [{ packet := w, classes := [0, 1], hop := .direct, arrived := none }] }

theorem claims_floods_iff (s t : State) (k : PacketKind) (but : Option Nat) : Claims.floods s t k but ↔
    ∀ p, if p < 40 ∧ Port.up (State.port s p) = true ∧ but ≠ some p then Carries s t k p else State.port t p = State.port s p := Iff.rfl

/-- All that waits at port `p` is for its neighbour. -/
def OnlyDirect (s : State) (p : Nat) : Prop := ∀ w ∈ (State.port s p).queued, w.hop = .direct

/-- A message that any link may carry: it is not stamped, and travels on VC0. -/
def Plain (k : PacketKind) : Prop := (∀ s, State.stamped s k = k) ∧ PacketKind.vc k = 0

/-- The message comes to port `p` of the state `s`, nothing waiting there. -/
structure Told (s t : State) (k : PacketKind) (p : Nat) : Prop where
  frame : t = { s with ports := t.ports, out := t.out }
  sent : ∀ o ∈ s.out, o ∈ t.out
  here : Carries s t k p
  direct : OnlyDirect t p
  others : ∀ q, q ≠ p → State.port t q = State.port s q

theorem told_toNeighbour {s : State} {p : Nat} {k : PacketKind} (plain : Plain k) (up : Port.up (State.port s p) = true) (idle : Claims.idlePort (State.port s p)) :
    Told s (State.toNeighbour s p k) k p := by
  cases partner : (State.port s p).partner with
  | none =>
    have same : State.toNeighbour s p k = s := by unfold State.toNeighbour; rw [partner]
    rw [same]
    refine ⟨rfl, fun _ h => h, fun q h => ?_, ?_, fun _ _ => rfl⟩
    · rw [partner] at h; exact nomatch h
    · unfold OnlyDirect; rw [idle.1]; exact fun _ h => nomatch h
  | some q =>
    have spec := claims_toNeighbour up idle (plain.1 s) plain.2 q partner
    dsimp only at spec
    split at spec
    · next able =>
      obtain ⟨⟨r, flit, others, frame⟩, tel⟩ := spec
      refine ⟨?_, fun o ho => ?_, fun q' h => ?_, ?_, others⟩
      · rw [tel] at frame; rw [frame]
      · rw [frame]; exact List.mem_append_left _ ho
      · obtain rfl := Option.some.inj (partner.symm.trans h)
        dsimp only
        rw [if_pos able]
        refine ⟨r, flit, ?_⟩
        rw [frame]
        exact List.mem_append_right _ (List.mem_singleton_self _)
      · obtain ⟨z, z_eq, ⟨-, -, -, -, -, -, port, -⟩, -⟩ := flit
        unfold OnlyDirect
        rw [port, z_eq]
        dsimp only
        rw [idle.1]
        exact fun _ h => nomatch h
    · next unable =>
      obtain ⟨here, others, frame⟩ := spec
      refine ⟨by rw [frame], fun o ho => by rw [frame]; exact ho, fun q' h => ?_, ?_, others⟩
      · obtain rfl := Option.some.inj (partner.symm.trans h)
        dsimp only
        rw [if_neg unable, here]
      · unfold OnlyDirect
        rw [here]
        intro w hw
        rw [List.mem_singleton.1 hw]

/-! ### All links -/

/-- The links that carry a message. -/
def State.carrier (s : State) (but : Option Nat) (p : Nat) : Bool := Port.up (State.port s p) && decide (but ≠ some p)

def State.tell (k : PacketKind) (but : Option Nat) (s : State) (p : Nat) : State := if State.carrier s but p then State.toNeighbour s p k else s

/-- The links of `l` that carry the message have it. -/
structure Flooded (s t : State) (k : PacketKind) (but : Option Nat) (l : List Nat) : Prop where
  frame : t = { s with ports := t.ports, out := t.out }
  sent : ∀ o ∈ s.out, o ∈ t.out
  told : ∀ p ∈ l, State.carrier s but p = true → Carries s t k p ∧ OnlyDirect t p
  kept : ∀ p, p ∉ l ∨ State.carrier s but p = false → State.port t p = State.port s p

theorem carries_congr {s s' t t' : State} {k : PacketKind} {p : Nat} (h : Carries s t k p) (start : State.port s' p = State.port s p)
    (number : s'.moduleNumber = s.moduleNumber) (stop : State.port t' p = State.port t p) (sent : ∀ o ∈ t.out, o ∈ t'.out) : Carries s' t' k p := by
  unfold Carries at *
  rw [start, number, stop]
  intro x q partner
  have told := h q partner
  dsimp only at told ⊢
  split at told
  · next able =>
    obtain ⟨r, flit, out⟩ := told
    rw [if_pos able]
    exact ⟨r, flit, sent _ out⟩
  · next unable => rw [if_neg unable]; exact told

theorem flooded_foldl {k : PacketKind} (plain : Plain k) (but : Option Nat) (l : List Nat) (distinct : l.Nodup) (s : State)
    (idle : ∀ p ∈ l, Claims.idlePort (State.port s p)) : Flooded s (l.foldl (State.tell k but) s) k but l := by
  induction l generalizing s with
  | nil => exact ⟨rfl, fun _ h => h, fun _ h => (nomatch h), fun _ _ => rfl⟩
  | cons p l ih =>
    obtain ⟨fresh, distinct⟩ := List.nodup_cons.1 distinct
    rw [List.foldl_cons]
    cases carrier : State.carrier s but p with
    | false =>
      have same : State.tell k but s p = s := by unfold State.tell; rw [carrier]; rfl
      rw [same]
      have rest := ih distinct s fun q hq => idle q (List.mem_cons_of_mem _ hq)
      refine ⟨rest.frame, rest.sent, fun q hq on => ?_, fun q out => rest.kept q (out.imp_left fun n m => n (List.mem_cons_of_mem _ m))⟩
      obtain rfl | hq := List.mem_cons.1 hq
      · rw [carrier] at on; exact nomatch on
      · exact rest.told q hq on
    | true =>
      have same : State.tell k but s p = State.toNeighbour s p k := by unfold State.tell; rw [carrier]; rfl
      have up : Port.up (State.port s p) = true := (Bool.and_eq_true_iff.1 carrier).1
      have first := told_toNeighbour plain up (idle p List.mem_cons_self)
      rw [same]
      generalize State.toNeighbour s p k = u at first
      have other : ∀ q ∈ l, q ≠ p := fun q hq eq => fresh (eq ▸ hq)
      have carry : ∀ q, q ≠ p → State.carrier u but q = State.carrier s but q := fun q hq => by unfold State.carrier; rw [first.others q hq]
      have rest := ih distinct u fun q hq => by rw [first.others q (other q hq)]; exact idle q (List.mem_cons_of_mem _ hq)
      refine ⟨by rw [rest.frame, first.frame], fun o ho => rest.sent o (first.sent o ho), fun q hq on => ?_, fun q out => ?_⟩
      · have later : State.port (l.foldl (State.tell k but) u) p = State.port u p := rest.kept p (.inl fresh)
        by_cases eq : q = p
        · rw [eq]
          refine ⟨carries_congr first.here rfl rfl later rest.sent, ?_⟩
          unfold OnlyDirect
          rw [later]
          exact first.direct
        · have mem := (List.mem_cons.1 hq).resolve_left eq
          obtain ⟨carries, direct⟩ := rest.told q mem (by rw [carry q eq]; exact on)
          exact ⟨carries_congr carries (first.others q eq).symm (by rw [first.frame]) rfl fun _ h => h, direct⟩
      · have eq : q ≠ p := fun eq => out.elim (fun n => n (by rw [eq]; exact List.mem_cons_self)) fun off => by rw [eq, carrier] at off; exact nomatch off
        rw [rest.kept q (out.imp (fun n m => n (List.mem_cons_of_mem _ m)) fun off => by rw [carry q eq]; exact off), first.others q eq]

/-- What a flood does to a module at whose ports nothing waits. -/
theorem flood_spec {s : State} {k : PacketKind} (plain : Plain k) (but : Option Nat) (idle : ∀ p, p < 40 → Claims.idlePort (State.port s p)) :
    State.flood s k but = { s with ports := (State.flood s k but).ports, out := (State.flood s k but).out } ∧
    Claims.floods s (State.flood s k but) k but ∧ ∀ p, p < 40 → OnlyDirect (State.flood s k but) p := by
  have flooded : Flooded s (State.flood s k but) k but (List.range 40) :=
    flooded_foldl plain but (List.range 40) List.nodup_range s fun p hp => idle p (List.mem_range.1 hp)
  refine ⟨flooded.frame, (claims_floods_iff ..).2 fun p => ?_, fun p hp => ?_⟩
  · split
    · next h =>
      obtain ⟨hp, up, other⟩ := h
      exact (flooded.told p (List.mem_range.2 hp) (Bool.and_eq_true_iff.2 ⟨up, decide_eq_true other⟩)).1
    · next h =>
      refine flooded.kept p ?_
      by_cases hp : p < 40
      · refine .inr (Bool.eq_false_iff.2 fun carrier => h ?_)
        obtain ⟨up, other⟩ := Bool.and_eq_true_iff.1 carrier
        exact ⟨hp, up, of_decide_eq_true other⟩
      · exact .inl fun mem => hp (List.mem_range.1 mem)
  · cases carrier : State.carrier s but p with
    | true => exact (flooded.told p (List.mem_range.2 hp) carrier).2
    | false =>
      unfold OnlyDirect
      rw [flooded.kept p (.inr carrier), (idle p hp).1]
      exact fun _ h => nomatch h

theorem plain_peerDown (n i : Nat) : Plain (.peerDown n i) := ⟨fun _ => rfl, rfl⟩
theorem plain_peerUp (n i : Nat) : Plain (.peerUp n i) := ⟨fun _ => rfl, rfl⟩

end Sys2Proof.Machine
end

section
/-!
SUPPORT. What a module does when it learns that another has failed, nothing of its own waiting for it (R393, R394).
-/

namespace Sys2Proof.Machine

/-- Ports that hold packets for the neighbour only keep them. -/
theorem State.reroute_direct {s : State} {p : Nat} (direct : OnlyDirect s p) :
    State.reroute s p = { s with ports := (State.reroute s p).ports } ∧ ∀ q, State.port (State.reroute s p) q = State.port s q := by
  have away : (State.port s p).queued.filter (fun w => decide (w.hop ≠ .direct)) = [] :=
    List.filter_eq_nil_iff.2 fun w hw h => of_decide_eq_true h (direct w hw)
  have stay : (State.port s p).queued.filter (fun w => !decide (w.hop ≠ .direct)) = (State.port s p).queued :=
    List.filter_eq_self.2 fun w hw => by rw [direct w hw]; rfl
  have same : State.reroute s p = State.setPort s p { State.port s p with queued := (State.port s p).queued.filter (fun w => !decide (w.hop ≠ .direct)) } := by
    unfold State.reroute
    dsimp only
    rw [away]
    rfl
  rw [same, stay]
  refine ⟨rfl, fun q => ?_⟩
  rw [State.port_setPort]
  split
  · next eq => rw [← eq]
  · rfl

theorem foldl_reroute (l : List Nat) (s : State) (direct : ∀ p ∈ l, OnlyDirect s p) :
    l.foldl State.reroute s = { s with ports := (l.foldl State.reroute s).ports } ∧ ∀ q, State.port (l.foldl State.reroute s) q = State.port s q := by
  induction l generalizing s with
  | nil => exact ⟨rfl, fun _ => rfl⟩
  | cons p l ih =>
    obtain ⟨frame, port⟩ := State.reroute_direct (direct p List.mem_cons_self)
    rw [List.foldl_cons]
    generalize State.reroute s p = u at frame port
    obtain ⟨frame', port'⟩ := ih u fun q hq => by unfold OnlyDirect; rw [port]; exact direct q (List.mem_cons_of_mem _ hq)
    exact ⟨by rw [frame', frame], fun q => by rw [port', port]⟩

/-- The module with `n` marked as failed. -/
def State.marked (s : State) (n incarnation : Nat) : State :=
  { s with fabric := { s.fabric with failed := NMap.insert s.fabric.failed n incarnation, known := NMap.insert s.fabric.known n incarnation } }

/-- The mark, and the time service without the failed module. -/
def State.parted (s : State) (n incarnation : Nat) : State :=
  State.electTime { State.marked s n incarnation with time := { s.time with neighbours := NMap.erase s.time.neighbours n } }

/-- The collectives with module `n` have ended (R415). -/
def State.endedWith (s : State) (n : Nat) : State := { s with groups := s.groups.map (fun (e : Nat × CollGroup) =>
    if e.2.members.contains n ∧ e.2.lost.isNone then (e.1, CollGroup.end_ { e.2 with lost := some n } 2 n) else e) }

/-- The queries to module `n` have ended. -/
def State.unasked (s : State) (n : Nat) : State :=
  (s.fabric.queries.filter (fun (q : WindowQuery) => decide (q.server = n))).foldl (fun s q => State.settleQuery s q none) s

/-- The time service without module `n`. -/
def State.unheard (s : State) (n : Nat) : State := State.electTime { s with time := { s.time with neighbours := NMap.erase s.time.neighbours n } }

/-- The ports whose partner is module `n`. -/
def State.portsOf (s : State) (n : Nat) : List Nat := (List.range portCount).filter (fun p => decide (((State.port s p).partner.map (·.module)) = some n))

/-- The packets that wait to go through module `n` are routed again, and the alarm is raised. -/
def State.failureRaised (s : State) (n : Nat) : State := State.flag (State.raise ((State.portsOf s n).foldl State.reroute s) 0xA1 0 0 n) 5

theorem State.markFailed_eq (s : State) (n incarnation : Nat) : State.markFailed s n incarnation =
    State.failureRaised (State.unheard (State.unasked (State.endedWith (State.settleAll (State.marked s n incarnation)) n) n) n) n := by
  unfold State.markFailed State.failureRaised State.unheard State.unasked State.endedWith State.portsOf State.marked
  rfl

theorem State.markFailed_owed {s : State} {n : Nat} (incarnation : Nat) (owed : Claims.owedNothing s n) :
    State.markFailed s n incarnation = State.failureRaised (State.parted s n incarnation) n := by
  obtain ⟨requests, queries, members⟩ := owed
  have settled : State.settleAll (State.marked s n incarnation) = State.marked s n incarnation := by
    refine State.settleAll_none fun r e he => ?_
    obtain ⟨alive, other⟩ := requests r e he
    show NMap.find (NMap.insert s.fabric.failed n incarnation) e.2.packet.destination = none
    rw [NMap.find_insert, if_neg (Ne.symm other), alive]
  have ended : State.endedWith (State.marked s n incarnation) n = State.marked s n incarnation := by
    have groups : s.groups.map (fun (e : Nat × CollGroup) =>
        if e.2.members.contains n ∧ e.2.lost.isNone then (e.1, CollGroup.end_ { e.2 with lost := some n } 2 n) else e) = s.groups := by
      refine (List.map_congr_left fun e he => ?_).trans (List.map_id _)
      exact if_neg fun h => members e he (List.contains_iff_mem.1 h.1)
    exact congrArg (fun g => { State.marked s n incarnation with groups := g }) groups
  have unasked : State.unasked (State.marked s n incarnation) n = State.marked s n incarnation := by
    have none_ : s.fabric.queries.filter (fun (q : WindowQuery) => decide (q.server = n)) = [] :=
      List.filter_eq_nil_iff.2 fun q hq h => queries q hq (of_decide_eq_true h)
    exact congrArg (fun l : List WindowQuery => l.foldl (fun s q => State.settleQuery s q none) (State.marked s n incarnation)) none_
  rw [State.markFailed_eq, settled, ended, unasked]
  rfl

/-- What learning of a failure changes. -/
theorem markFailed_spec {s : State} {n : Nat} (incarnation : Nat) (owed : Claims.owedNothing s n) (direct : ∀ p, p < 40 → OnlyDirect s p) :
    State.markFailed s n incarnation = { State.marked s n incarnation with
      ports := (State.markFailed s n incarnation).ports, tel := (State.markFailed s n incarnation).tel, time := (State.markFailed s n incarnation).time } ∧
    (∀ q, State.port (State.markFailed s n incarnation) q = State.port s q) ∧
    NMap.find (State.markFailed s n incarnation).time.neighbours n = none ∧ Reports [] s (State.markFailed s n incarnation) ∧
    Claims.alarmed s (State.markFailed s n incarnation) 0xA1 0 0 n := by
  rw [State.markFailed_owed incarnation owed]
  have frame1 : State.parted s n incarnation = { State.marked s n incarnation with time := (State.parted s n incarnation).time } := rfl
  have neighbours : (State.parted s n incarnation).time.neighbours = NMap.erase s.time.neighbours n := by
    unfold State.parted State.electTime
    rw [TimeService.elect_frame]
  have port1 : ∀ q, State.port (State.parted s n incarnation) q = State.port s q := fun _ => rfl
  generalize State.parted s n incarnation = u at frame1 neighbours port1
  unfold State.failureRaised
  obtain ⟨frame2, port2⟩ := foldl_reroute (State.portsOf u n) u fun p hp => by
    unfold OnlyDirect
    rw [port1]
    exact direct p (List.mem_range.1 (List.mem_filter.1 hp).1)
  generalize (State.portsOf u n).foldl State.reroute u = v at frame2 port2
  have tel : v.tel = s.tel := by rw [frame2, frame1]; rfl
  have now : v.timebase = s.timebase := by rw [frame2, frame1]; rfl
  have records := (onlyRecords_raise v 0xA1 0 0 n).trans (onlyRecords_flag _ 5)
  have reports : Reports [] s (State.flag (State.raise v 0xA1 0 0 n) 5) :=
    (reports_of_tel tel).trans ((reports_raise v 0xA1 0 0 n).trans (reports_flag _ 5))
  have alarm : Claims.alarmed v (State.flag (State.raise v 0xA1 0 0 n) 5) 0xA1 0 0 n := (reports_flag _ 5).alarmed (alarmed_raise v 0xA1 0 0 n)
  generalize State.flag (State.raise v 0xA1 0 0 n) 5 = t at records reports alarm
  have whole : t = { State.marked s n incarnation with ports := v.ports, tel := t.tel, time := u.time } := by
    unfold OnlyRecords at records
    rw [records, frame2, frame1]
  refine ⟨by rw [whole], fun q => ?_, ?_, reports, alarmed_of now alarm⟩
  · exact (State.port_congr (by rw [whole]) q).trans ((port2 q).trans (port1 q))
  · rw [whole]
    show NMap.find u.time.neighbours n = none
    rw [neighbours, NMap.find_erase, if_pos rfl]

/-- The failure of a module whose message has gone to every live link. -/
theorem failureKnown_markFailed {s u : State} {n incarnation : Nat} {but : Option Nat} (frame : u = { s with ports := u.ports, tel := u.tel, out := u.out })
    (floods : Claims.floods s u (.peerDown n incarnation) but) (direct : ∀ p, p < 40 → OnlyDirect u p) (owed : Claims.owedNothing s n) :
    let t := State.markFailed u n incarnation
    Claims.failureKnown s t n incarnation but ∧ Reports [] u t ∧
      t = { s with ports := t.ports, tel := t.tel, time := t.time, out := t.out, fabric := { s.fabric with failed := t.fabric.failed, known := t.fabric.known } } := by
  have owed' : Claims.owedNothing u n := by rw [frame]; exact owed
  obtain ⟨whole, port, neighbour, reports, alarm⟩ := markFailed_spec incarnation owed' direct
  generalize State.markFailed u n incarnation = t at whole port neighbour reports alarm
  have out : t.out = u.out := by rw [whole]; rfl
  have failed : t.fabric.failed = NMap.insert s.fabric.failed n incarnation := by rw [whole, frame]; rfl
  have known : t.fabric.known = NMap.insert s.fabric.known n incarnation := by rw [whole, frame]; rfl
  refine ⟨⟨?_, fun m hm => ?_, ?_, neighbour, ?_, ?_⟩, reports, ?_⟩
  · rw [failed, NMap.find_insert, if_pos rfl]
  · rw [failed, NMap.find_insert, if_neg (Ne.symm hm)]
  · rw [known, NMap.find_insert, if_pos rfl]
  · refine (claims_floods_iff ..).2 fun p => ?_
    have told := (claims_floods_iff ..).1 floods p
    split
    · next h => rw [if_pos h] at told; exact carries_congr told rfl rfl (port p) fun o ho => by rw [out]; exact ho
    · next h => rw [if_neg h] at told; rw [port, told]
  · exact alarmed_of (by rw [frame]) alarm
  · rw [whole, frame]; rfl

end Sys2Proof.Machine
end

section
/-!
SUPPORT. The commands of liveness (R391 to R396).
-/

namespace Sys2Proof.Machine

/-! ### LINK_SILENCE_PROBE, PEER_PROBE, PEER_ACK -/

section
variable {s : State} {n : Nat}

/-- The probe of neighbour `n` is noted. -/
def State.probing (s : State) (n : Nat) : State := { s with fabric := { s.fabric with probes := NMap.insert s.fabric.probes n false } }

theorem exec_linkSilenceProbe (link : ∃ p, Claims.linkTo s p n) (silent : ∀ p, Claims.linkTo s p n → (State.port s p).lastRx + 750000 ≤ s.timebase)
    (fresh : NMap.find s.fabric.probes n = none) : exec (.linkSilenceProbe n) s =
      match (State.detourTo s n).bind (fun m => State.portFor s (State.portsTo s m) 0 [2]) with
      | some i => .next (State.toPort (State.probing s n) i
          { packet := { source := s.moduleNumber, destination := n, level1 := true, kind := .peerProbe s.moduleNumber }, classes := [2], hop := .detour, arrived := none })
      | none => .next (State.probing s n) := by
  have goes : ¬ ((State.portsTo s n).isEmpty ∨ (NMap.find s.fabric.probes n).isSome ∨
      (State.portsTo s n).any (fun p => decide ((s.timebase : Int) < (State.port s p).lastRx + 750000))) := by
    rintro (empty | probed | heard)
    · obtain ⟨p, h⟩ := link
      obtain ⟨hp, hop⟩ := (claims_linkTo_iff s p n).1 h
      have mem : p ∈ State.portsTo s n := List.mem_filter.2 ⟨List.mem_range.2 hp, decide_eq_true hop⟩
      rw [List.isEmpty_iff.1 empty] at mem
      exact nomatch mem
    · rw [fresh] at probed; exact nomatch probed
    · obtain ⟨p, mem, early⟩ := List.any_eq_true.1 heard
      obtain ⟨range, hop⟩ := List.mem_filter.1 mem
      have := silent p ((claims_linkTo_iff s p n).2 ⟨List.mem_range.1 range, of_decide_eq_true hop⟩)
      exact absurd (of_decide_eq_true early) (Int.not_lt.2 this)
  exact if_neg goes

theorem exec_linkSilenceProbe_detour (link : ∃ p, Claims.linkTo s p n) (silent : ∀ p, Claims.linkTo s p n → (State.port s p).lastRx + 750000 ≤ s.timebase)
    (fresh : NMap.find s.fabric.probes n = none) {e : Nat} (way : Claims.detourPort s n e) (room : Claims.room s e) (idle : Claims.idlePort (State.port s e))
    (credit : Port.credit (State.port s e) 0 2 = true) :
    ∃ t, exec (.linkSilenceProbe n) s = .next t ∧ Claims.counted s t .routeDetour 0 0 1 ∧
      Claims.leaves (State.probing s n) t e 0 2 { source := s.moduleNumber, destination := n, level1 := true, kind := .peerProbe s.moduleNumber } := by
  obtain ⟨m, detour, ports, link'⟩ := State.detourTo_of way
  have run := exec_linkSilenceProbe link silent fresh
  rw [detour, Option.bind_some, ports, State.portFor_single] at run
  dsimp only at run
  have up := linkTo_up link'
  have can : Port.canLeave (State.port s e) { packet := { source := s.moduleNumber, destination := n, level1 := true, kind := .peerProbe s.moduleNumber }
                                              classes := [2], hop := .detour, arrived := none } = some 2 := by
    simp [Port.canLeave, PacketKind.vc, credit]
  obtain ⟨u, leaves, tel, eq⟩ := State.toPort_leaves (s := State.probing s n) idle up room can rfl
  rw [eq] at run
  exact ⟨_, run, counted_of_tel tel (counted_count u .routeDetour 0 0 1 (by decide)), leaves_records leaves (onlyRecords_hopCounted ..)⟩

theorem exec_linkSilenceProbe_alone (link : ∃ p, Claims.linkTo s p n) (silent : ∀ p, Claims.linkTo s p n → (State.port s p).lastRx + 750000 ≤ s.timebase)
    (fresh : NMap.find s.fabric.probes n = none) (alone : ∀ q m, m ≠ n → ¬ Claims.linkTo s q m) : exec (.linkSilenceProbe n) s = .next (State.probing s n) := by
  rw [exec_linkSilenceProbe link silent fresh, State.detourTo_none n alone]
  rfl

theorem exec_peerProbe {e : Nat} (other : n ≠ s.moduleNumber) (way : Claims.escapePort s n e) (idle : Claims.idlePort (State.port s e)) (room : Claims.room s e)
    (credit : Port.credit (State.port s e) 0 (Claims.directClass (State.port s e) 0) = true) :
    ∃ t, exec (.peerProbe n) s = .next t ∧ t.tel = s.tel ∧ Claims.leaves s t e 0 (Claims.directClass (State.port s e) 0)
      { source := s.moduleNumber, destination := n, level1 := false, kind := .peerAck s.moduleNumber } := by
  obtain ⟨route, up⟩ := State.routePacket_toEscape (s := s) (offered := none)
    (p := { source := s.moduleNumber, destination := n, level1 := false, kind := .peerAck s.moduleNumber }) rfl way
  have free : ¬ Claims.pinned { source := s.moduleNumber, destination := n, level1 := false, kind := .peerAck s.moduleNumber } := fun ⟨g, h⟩ => nomatch h
  have can := canLeave_escape (p := { source := s.moduleNumber, destination := n, level1 := false, kind := .peerAck s.moduleNumber })
    (x := State.port s e) (cls := Claims.directClass (State.port s e) 0) (by
      unfold Claims.directClass
      split
      · exact .inl ⟨rfl, free⟩
      · next shared => exact .inr ⟨rfl, .inr (Bool.eq_false_iff.2 shared)⟩) credit
  obtain ⟨u, leaves, tel, eq⟩ := State.toPort_leaves idle up room can rfl
  refine ⟨u, ?_, tel, leaves⟩
  have run : exec (.peerProbe n) s = .next (State.routePacket s none { source := s.moduleNumber, destination := n, level1 := false, kind := .peerAck s.moduleNumber } none) :=
    if_neg other
  rw [run, route, eq]
  rfl

theorem exec_peerAck (probed : (NMap.find s.fabric.probes n).isSome = true) :
    exec (.peerAck n) s = .next { s with fabric := { s.fabric with probes := NMap.insert s.fabric.probes n true } } := if_pos probed

end

/-! ### LINK_DOWN -/

theorem portDown_of_lowered {s t : State} {p : Nat} {next : PortState} (low : Lowered s t p next) (off : ∀ q, QueueOff s p q) : Claims.portDown s t p next := by
  refine ⟨?_, fun q hq => low.others q hq (off q)⟩
  dsimp only
  rw [low.here]
  rfl

/-- A link that carries traffic goes down, with nothing of it left behind. -/
structure WentDown (s t : State) (p : Nat) (next : PortState) : Prop where
  low : Lowered s t p next
  counted : Claims.counted s t .linkDowns 0 p 1
  off : ∀ q, QueueOff s p q

section
variable {s : State} {p : Nat} {next : PortState}

theorem wentDown (up : Port.up (State.port s p) = true) (replay : (State.port s p).replay = []) (queued : (State.port s p).queued = [])
    (arrivals : Claims.noArrivals s p) (next : PortState) : WentDown s (State.takeDown s p next) p next := by
  obtain ⟨low, counted⟩ := lowered_up (next := next) up replay queued arrivals.2
  exact ⟨low, counted, queueOff_of_noArrivals arrivals⟩

theorem WentDown.spec {t : State} (h : WentDown s t p next) : t = { s with ports := t.ports, tel := t.tel, time := t.time } ∧ Claims.portDown s t p next ∧
    (State.port t p).failures = (State.port s p).failures ∧ (State.port t p).wanted = (State.port s p).wanted ∧ Claims.counted s t .linkDowns 0 p 1 :=
  ⟨h.low.frame, portDown_of_lowered h.low h.off, by rw [h.low.here]; rfl, by rw [h.low.here]; rfl, h.counted⟩

/-- The failed attempt, counted and logged. -/
def State.attemptLogged (s : State) (p lanes : Nat) : State :=
  State.log (State.count s .bringupFails 0 p 1) 0x0040 9 p 0 [1, p, PortState.code (State.port s p).state, lanes]

theorem State.attemptFailed_eq (s : State) (p lanes : Nat) : State.attemptFailed s p lanes =
    let t := State.modPort (State.takeDown (State.attemptLogged s p lanes) p (if 3 ≤ (State.port s p).failures + 1 then .held else .detect)) p
      (fun x => { x with failures := (State.port s p).failures + 1 })
    if 3 ≤ (State.port s p).failures + 1 then State.raise t 0x84 9 p 0 else t := rfl

/-- The third failure in a row is alarmed. -/
def State.heldAlarm (s : State) (p n : Nat) : State := if 3 ≤ n then State.raise s 0x84 9 p 0 else s

theorem heldAlarm_spec (s : State) (p n : Nat) : OnlyRecords s (State.heldAlarm s p n) ∧ Reports [] s (State.heldAlarm s p n) ∧
    (3 ≤ n → Claims.alarmed s (State.heldAlarm s p n) 0x84 9 p 0) := by
  unfold State.heldAlarm
  split
  · exact ⟨onlyRecords_raise .., reports_raise .., fun _ => alarmed_raise ..⟩
  · next h => exact ⟨rfl, Reports.refl s, fun k => absurd k h⟩

theorem attemptFailed_spec (up : Port.up (State.port s p) = true) (replay : (State.port s p).replay = []) (queued : (State.port s p).queued = [])
    (arrivals : Claims.noArrivals s p) (lanes : Nat) :
    let t := State.attemptFailed s p lanes
    let n := (State.port s p).failures + 1
    t = { s with ports := t.ports, tel := t.tel, time := t.time } ∧ Claims.portDown s t p (if 3 ≤ n then .held else .detect) ∧ (State.port t p).failures = n ∧
      (State.port t p).wanted = (State.port s p).wanted ∧ Claims.counted s t .bringupFails 0 p 1 ∧ Claims.counted s t .linkDowns 0 p 1 ∧
      (3 ≤ n → Claims.alarmed s t 0x84 9 p 0) := by
  have records : OnlyRecords s (State.attemptLogged s p lanes) := (onlyRecords_count s .bringupFails 0 p 1).trans (onlyRecords_log ..)
  have fails : Claims.counted s (State.attemptLogged s p lanes) .bringupFails 0 p 1 :=
    (reports_log ..).counted_after (counted_count s .bringupFails 0 p 1 (by decide)) (by decide) fun h => nomatch h
  have logged : Reports _ s (State.attemptLogged s p lanes) := (reports_count s .bringupFails 0 p 1).trans (reports_log ..)
  have eq := State.attemptFailed_eq s p lanes
  dsimp only at eq ⊢
  generalize State.attemptLogged s p lanes = u at records fails logged eq
  have port1 : ∀ q, State.port u q = State.port s q := fun q => State.port_congr (by rw [records]) q
  have now : u.timebase = s.timebase := by rw [records]
  have arrivals1 : Claims.noArrivals u p := by rw [records]; exact arrivals
  have down := wentDown (s := u) (p := p) (by rw [port1]; exact up) (by rw [port1]; exact replay) (by rw [port1]; exact queued) arrivals1
    (if 3 ≤ (State.port s p).failures + 1 then .held else .detect)
  generalize State.takeDown u p (if 3 ≤ (State.port s p).failures + 1 then .held else .detect) = v at down eq
  generalize hw : State.modPort v p (fun x => { x with failures := (State.port s p).failures + 1 }) = w at eq
  have frame3 : w = { v with ports := w.ports } := by rw [← hw]; rfl
  have here3 : State.port w p = { State.port v p with failures := (State.port s p).failures + 1 } := by rw [← hw]; exact State.port_setPort_same ..
  have others3 : ∀ q, q ≠ p → State.port w q = State.port v q := fun q hq => by rw [← hw]; exact State.port_setPort_ne v hq _
  have tel3 : w.tel = v.tel := by rw [frame3]
  obtain ⟨records4, reports4, alarm4⟩ := heldAlarm_spec w p ((State.port s p).failures + 1)
  have eq' : State.attemptFailed s p lanes = State.heldAlarm w p ((State.port s p).failures + 1) := eq
  rw [eq']
  generalize State.heldAlarm w p ((State.port s p).failures + 1) = t at records4 reports4 alarm4
  have port4 : ∀ q, State.port t q = State.port w q := fun q => State.port_congr (by rw [records4]) q
  have frame : t = { s with ports := t.ports, tel := t.tel, time := t.time } := by
    unfold OnlyRecords at records records4
    rw [records4, frame3, down.low.frame, records]
  have here : State.port t p = { Port.cleared (State.port s p) (if 3 ≤ (State.port s p).failures + 1 then .held else .detect) s.timebase with
      failures := (State.port s p).failures + 1 } := by rw [port4, here3, down.low.here, port1, now]
  have tail : Reports [] v t := (reports_of_tel tel3).trans reports4
  refine ⟨frame, ⟨?_, fun q hq => ?_⟩, by rw [here], by rw [here]; rfl, ?_, ?_, fun three => ?_⟩
  · dsimp only
    rw [here]
    rfl
  · rw [port4, others3 q hq, down.low.others q hq (down.off q), port1]
  · have all := down.low.reports.trans tail
    refine all.counted_after fails (by decide) fun h => ?_
    obtain h | h := List.mem_cons.1 h
    · exact counterKey_ne (by decide) _ _ _ _ h
    · exact counterKey_ne (by decide) _ _ _ _ (List.mem_singleton.1 h)
  · refine logged.counted_before (by decide) (fun h => ?_) (tail.counted_after down.counted (by decide) fun h => nomatch h)
    exact counterKey_ne (by decide) _ _ _ _ (List.mem_singleton.1 h)
  · refine alarmed_of ?_ (alarm4 three)
    rw [frame3, down.low.frame, records]

end

end Sys2Proof.Machine
end

section
/-!
SUPPORT. The last link to a neighbour falls silent; PEER_DOWN and PEER_UP (R391 to R396).
-/

namespace Sys2Proof.Machine

/-! ### Silence -/

theorem linkedTo_iff (s : State) (n p : Nat) : State.linkedTo s n p = true ↔
    ∃ j, j < 40 ∧ j ≠ p ∧ Port.up (State.port s j) = true ∧ (State.port s j).partner.map (·.module) = some n := by
  unfold State.linkedTo portCount
  rw [List.any_eq_true]
  refine exists_congr fun j => ?_
  rw [List.mem_range, Bool.and_eq_true, Bool.and_eq_true, decide_eq_true_iff, decide_eq_true_iff, and_assoc]

/-- What is said of `n` in the state `s` holds in `s'` where its ports, number, time and failed modules are the same, and records made later do not undo it. -/
theorem failureKnown_congr {s s' t t' : State} {n incarnation : Nat} {but : Option Nat} {keys : List Nat} (h : Claims.failureKnown s t n incarnation but)
    (port : ∀ p, State.port s' p = State.port s p) (number : s'.moduleNumber = s.moduleNumber) (time : s'.timebase = s.timebase)
    (failed : s'.fabric.failed = s.fabric.failed) (records : OnlyRecords t t') (reports : Reports keys t t') : Claims.failureKnown s' t' n incarnation but := by
  obtain ⟨mark, others, known, neighbour, floods, alarm⟩ := h
  have fabric : t'.fabric = t.fabric := by rw [records]
  have out : t'.out = t.out := by rw [records]
  have after : ∀ p, State.port t' p = State.port t p := State.port_congr (by rw [records])
  refine ⟨by rw [fabric]; exact mark, fun m hm => by rw [fabric, failed]; exact others m hm, by rw [fabric]; exact known, by rw [records]; exact neighbour, ?_, ?_⟩
  · refine (claims_floods_iff ..).2 fun p => ?_
    have told := (claims_floods_iff ..).1 floods p
    rw [port]
    split
    · next h => rw [if_pos h] at told; exact carries_congr told (port p) number (after p) fun o ho => by rw [out]; exact ho
    · next h => rw [if_neg h] at told; rw [after, told]
  · exact reports.alarmed (alarmed_of time.symm alarm)

/-- The failure of a neighbour is counted and told to every live link. -/
theorem declareFailed_spec {s : State} {n : Nat} (owed : Claims.owedNothing s n) (idle : ∀ p, p < 40 → Claims.idlePort (State.port s p)) :
    let t := State.declareFailed s n
    Claims.failureKnown s t n (NMap.get s.fabric.known 0 n) none ∧ Claims.counted s t .peerDeclared 0 0 1 ∧
      Reports [counterKey .peerDeclared 0 0, counterKey .recoveryEvents 9 0] s t ∧
      t = { s with ports := t.ports, tel := t.tel, time := t.time, out := t.out, fabric := { s.fabric with failed := t.fabric.failed, known := t.fabric.known } } := by
  have records1 := onlyRecords_count s .peerDeclared 0 0 1
  have counted := counted_count s .peerDeclared 0 0 1 (by decide)
  have reports1 := reports_count s .peerDeclared 0 0 1
  have eq : State.declareFailed s n = State.recoveryEvent
      (State.markFailed (State.flood (State.count s .peerDeclared 0 0 1) (.peerDown n (NMap.get s.fabric.known 0 n)) none) n (NMap.get s.fabric.known 0 n)) 9 := rfl
  dsimp only
  rw [eq]
  clear eq
  generalize State.count s .peerDeclared 0 0 1 = a at records1 counted reports1
  have port1 : ∀ p, State.port a p = State.port s p := State.port_congr (by rw [records1])
  obtain ⟨frame2, floods, direct⟩ := flood_spec (plain_peerDown n (NMap.get s.fabric.known 0 n)) none fun p hp => by rw [port1]; exact idle p hp
  generalize State.flood a (.peerDown n (NMap.get s.fabric.known 0 n)) none = b at frame2 floods direct
  have reports2 : Reports [] a b := reports_of_tel (by rw [frame2])
  obtain ⟨known, reports3, frame3⟩ := failureKnown_markFailed (s := a) (by rw [frame2]) floods direct (by rw [records1]; exact owed)
  generalize State.markFailed b n (NMap.get s.fabric.known 0 n) = c at known reports3 frame3
  have records4 := onlyRecords_recoveryEvent c 9
  have reports4 := reports_recoveryEvent c 9
  generalize State.recoveryEvent c 9 = t at records4 reports4
  refine ⟨failureKnown_congr known (fun p => (port1 p).symm) (by rw [records1]) (by rw [records1]) (by rw [records1]) records4 reports4, ?_, ?_, ?_⟩
  · refine ((reports2.trans reports3).trans reports4).counted_after counted (by decide) fun h => ?_
    exact counterKey_ne (by decide) _ _ _ _ (List.mem_singleton.1 h)
  · exact reports1.trans ((reports2.trans reports3).trans reports4)
  · unfold OnlyRecords at records1 records4
    rw [records4, frame3, records1]

section
variable {s : State} {p : Nat} {q : Partner}

/-- The module once the silent link is down: the probe of its last neighbour is forgotten. -/
def State.silenced (s : State) (p : Nat) (q : Partner) : State :=
  let t := State.takeDown s p .detect
  { t with fabric := { t.fabric with probes := if !State.linkedTo s q.module p then NMap.erase t.fabric.probes q.module else t.fabric.probes } }

theorem State.silenceDown_eq (partner : (State.port s p).partner = some q) : State.silenceDown s p =
    if !State.linkedTo s q.module p ∧ !decide (NMap.find s.fabric.probes q.module = some true) ∧ (NMap.find s.fabric.failed q.module).isNone then
      State.declareFailed (State.silenced s p q) q.module
    else State.silenced s p q := by
  unfold State.silenceDown
  dsimp only
  rw [partner]
  rfl

theorem exec_linkDown_silence (up : Port.up (State.port s p) = true) (late : (State.port s p).lastRx + 1000000 ≤ s.timebase) :
    exec (.linkDown p .silence) s = .next (State.silenceDown s p) := by
  have run : exec (.linkDown p .silence) s = execLinkDown p .silence s := rfl
  unfold execLinkDown at run
  exact run.trans ((if_neg (by rw [up]; decide)).trans (if_pos late))

theorem silenced_spec (up : Port.up (State.port s p) = true) (replay : (State.port s p).replay = []) (queued : (State.port s p).queued = [])
    (arrivals : Claims.noArrivals s p) (q : Partner) : let t := State.silenced s p q
    t = { s with ports := t.ports, tel := t.tel, time := t.time, fabric := { s.fabric with probes := t.fabric.probes } } ∧ Claims.portDown s t p .detect ∧
      Claims.counted s t .linkDowns 0 p 1 ∧ Reports [counterKey .linkDowns 0 p, counterKey .recoveryEvents 2 0] s t ∧
      (State.linkedTo s q.module p = false → t.fabric.probes = NMap.erase s.fabric.probes q.module) := by
  have down := wentDown up replay queued arrivals .detect
  obtain ⟨frame, port, -, -, counted⟩ := down.spec
  have reports := down.low.reports
  unfold State.silenced
  dsimp only
  generalize State.takeDown s p .detect = t at frame port counted reports
  have fabric : t.fabric = s.fabric := by rw [frame]
  refine ⟨?_, port, counted, reports.trans (reports_of_tel rfl), fun alone => ?_⟩
  · rw [fabric]
    rw [frame]
  · rw [alone, fabric]
    rfl

/-- The silence of one of several links, or of a neighbour that has answered. -/
theorem exec_linkDown_answered (up : Port.up (State.port s p) = true) (replay : (State.port s p).replay = []) (queued : (State.port s p).queued = [])
    (arrivals : Claims.noArrivals s p) (partner : (State.port s p).partner = some q) (late : (State.port s p).lastRx + 1000000 ≤ s.timebase)
    (alive : (∃ j, j < 40 ∧ j ≠ p ∧ Port.up (State.port s j) = true ∧ (State.port s j).partner.map (·.module) = some q.module) ∨
      NMap.find s.fabric.probes q.module = some true) :
    ∃ t, exec (.linkDown p .silence) s = .next t ∧ t = { s with ports := t.ports, tel := t.tel, time := t.time, fabric := { s.fabric with probes := t.fabric.probes } } ∧
      Claims.portDown s t p .detect ∧ Claims.counted s t .linkDowns 0 p 1 := by
  obtain ⟨frame, port, counted, -, -⟩ := silenced_spec up replay queued arrivals q
  refine ⟨State.silenced s p q, ?_, frame, port, counted⟩
  rw [exec_linkDown_silence up late, State.silenceDown_eq partner]
  refine congrArg _ (if_neg ?_)
  rintro ⟨alone, unanswered, -⟩
  obtain other | answered := alive
  · rw [(linkedTo_iff ..).2 other] at alone; exact nomatch alone
  · rw [decide_eq_true answered] at unanswered; exact nomatch unanswered

/-- The silence of the last link to a neighbour that has not answered: it is declared failed. -/
theorem exec_linkDown_failed (up : Port.up (State.port s p) = true) (replay : (State.port s p).replay = []) (queued : (State.port s p).queued = [])
    (arrivals : Claims.noArrivals s p) (partner : (State.port s p).partner = some q) (late : (State.port s p).lastRx + 1000000 ≤ s.timebase)
    (alone : ∀ j, j < 40 → j ≠ p → Port.up (State.port s j) = true → (State.port s j).partner.map (·.module) ≠ some q.module)
    (unanswered : NMap.find s.fabric.probes q.module ≠ some true) (alive : NMap.find s.fabric.failed q.module = none)
    (owed : Claims.owedNothing s q.module) (wait : Claims.noneWait s) :
    ∃ t down, exec (.linkDown p .silence) s = .next t ∧ Claims.portDown s down p .detect ∧ down = { s with ports := down.ports } ∧
      t = { s with
        ports := t.ports, tel := t.tel, time := t.time, out := t.out
        fabric := { s.fabric with failed := t.fabric.failed, known := t.fabric.known, probes := NMap.erase s.fabric.probes q.module } } ∧
      Claims.failureKnown down t q.module (NMap.get s.fabric.known 0 q.module) none ∧ Claims.counted s t .linkDowns 0 p 1 ∧
      Claims.counted s t .peerDeclared 0 0 1 := by
  have last : State.linkedTo s q.module p = false := Bool.eq_false_iff.2 fun h => by
    obtain ⟨j, hj, other, up', same⟩ := (linkedTo_iff ..).1 h
    exact alone j hj other up' same
  obtain ⟨frame, down, counted, reports, probes⟩ := silenced_spec up replay queued arrivals q
  have run : exec (.linkDown p .silence) s = .next (State.declareFailed (State.silenced s p q) q.module) := by
    rw [exec_linkDown_silence up late, State.silenceDown_eq partner]
    refine congrArg _ (if_pos ⟨by rw [last]; rfl, by rw [decide_eq_false unanswered]; rfl, by rw [alive]; rfl⟩)
  have probes' := probes last
  generalize State.silenced s p q = u at frame down counted reports run probes'
  have idle : ∀ j, j < 40 → Claims.idlePort (State.port u j) := fun j hj => by
    obtain ⟨here, others⟩ := down
    by_cases same : j = p
    · dsimp only at here
      rw [same, here]; exact ⟨rfl, rfl⟩
    · rw [others j same]; exact wait.1 j hj
  have known_eq : u.fabric.known = s.fabric.known := by rw [frame]
  obtain ⟨known, declared, reports', frame'⟩ := declareFailed_spec (s := u) (n := q.module) (by rw [frame]; exact owed) idle
  rw [known_eq] at known
  generalize State.declareFailed u q.module = t at run known declared reports' frame'
  refine ⟨t, { s with ports := u.ports }, run, down, rfl, ?_, ?_, ?_, ?_⟩
  · have fabric : u.fabric = { s.fabric with probes := NMap.erase s.fabric.probes q.module } := by rw [← probes', frame]
    rw [fabric, frame] at frame'
    exact frame'
  · exact failureKnown_congr (t' := t) known (fun j => rfl) (by rw [frame]) (by rw [frame]) (by rw [frame]) rfl (Reports.refl t)
  · refine reports'.counted_after counted (by decide) fun h => ?_
    obtain h | h := List.mem_cons.1 h
    · exact counterKey_ne (by decide) _ _ _ _ h
    · exact counterKey_ne (by decide) _ _ _ _ (List.mem_singleton.1 h)
  · refine reports.counted_before (by decide) (fun h => ?_) declared
    obtain h | h := List.mem_cons.1 h
    · exact counterKey_ne (by decide) _ _ _ _ h
    · exact counterKey_ne (by decide) _ _ _ _ (List.mem_singleton.1 h)

end

/-- A link that some other cause takes down: DISABLED where its port is taken out or its region is fenced. -/
theorem exec_linkDown_taken {s : State} {p : Nat} {c : DownCause} (up : Port.up (State.port s p) = true)
    (cause : c ∉ [DownCause.silence, .bringUpFailure, .recoveryTimeout]) :
    exec (.linkDown p c) s = .next (State.takeDown s p (if c = .disabled ∨ c = .regionFenced then .disabled else .detect)) := by
  have goes : ¬ (!Port.up (State.port s p)) = true := by rw [up]; decide
  refine (if_neg goes).trans ?_
  cases c with
  | silence => exact absurd cause (by decide)
  | bringUpFailure => exact absurd cause (by decide)
  | recoveryTimeout => exact absurd cause (by decide)
  | _ => rfl

theorem exec_linkDown_attempt {s : State} {p : Nat} {c : DownCause} (up : Port.up (State.port s p) = true) (cause : c ∈ [DownCause.bringUpFailure, .recoveryTimeout]) :
    exec (.linkDown p c) s = .next (State.attemptFailed s p 0) := by
  have goes : ¬ (!Port.up (State.port s p)) = true := by rw [up]; decide
  refine (if_neg goes).trans ?_
  cases c with
  | bringUpFailure => rfl
  | recoveryTimeout => rfl
  | _ => exact absurd cause (by decide)

/-! ### PEER_DOWN and PEER_UP -/

section
variable {s : State} {p n i : Nat}

theorem exec_peerDown_news (other : n ≠ s.moduleNumber) (news : NMap.get s.fabric.known 0 n ≤ i) (alive : NMap.find s.fabric.failed n = none)
    (owed : Claims.owedNothing s n) (wait : Claims.noneWait s) :
    ∃ t, exec (.peerDown p n i) s = .next t ∧ Claims.failureKnown s t n i (some p) ∧
      t = { s with ports := t.ports, tel := t.tel, time := t.time, out := t.out
                   fabric := { s.fabric with failed := t.fabric.failed, known := t.fabric.known } } := by
  have run : exec (.peerDown p n i) s = .next (State.markFailed (State.flood s (.peerDown n i) (some p)) n i) :=
    (if_neg other).trans (if_neg (not_or.2 ⟨Nat.not_lt.2 news, by rw [alive]; exact Bool.false_ne_true⟩))
  obtain ⟨frame, floods, direct⟩ := flood_spec (plain_peerDown n i) (some p) wait.1
  obtain ⟨known, -, whole⟩ := failureKnown_markFailed (by rw [frame]) floods direct owed
  exact ⟨_, run, known, whole⟩

theorem exec_peerDown_old (other : n ≠ s.moduleNumber) (old : i < NMap.get s.fabric.known 0 n ∨ (NMap.find s.fabric.failed n).isSome = true) :
    exec (.peerDown p n i) s = .next s := (if_neg other).trans (if_pos old)

/-- A message that this module has failed, at its incarnation: it leaves JOINED. -/
theorem exec_peerDown_self (joined : s.joined = true) (replay : ∀ q, q < 40 → (State.port s q).replay = []) (wait : Claims.noneWait s) :
    ∃ t, exec (.peerDown p s.moduleNumber s.nv.incarnation) s = .next t ∧ t.joined = false ∧ t.time.synced = false ∧
      t = { s with ports := t.ports, tel := t.tel, time := t.time, joined := false, fabric := { s.fabric with firstIdentity := none } } ∧
      Claims.alarmed s t 0xA4 0 0 0 ∧
      ∀ q, q < 40 → let x := State.port s q
        if Port.up x = true ∨ x.state = .join then
          (State.port t q).state = .detect ∧ (State.port t q).partner = none ∧ (State.port t q).failures = x.failures
        else State.port t q = x := by
  have run : exec (.peerDown p s.moduleNumber s.nv.incarnation) s = .next (State.leaveJoined (State.raise s 0xA4 0 0 0)) :=
    (if_pos rfl).trans (if_pos ⟨joined, rfl⟩)
  have records := onlyRecords_raise s 0xA4 0 0 0
  have alarm := alarmed_raise s 0xA4 0 0 0
  generalize State.raise s 0xA4 0 0 0 = u at run records alarm
  have idle : Idle u := by rw [records]; exact idle_of_noneWait wait replay
  have port : ∀ q, State.port (State.unjoined u) q = State.port s q := State.port_congr (by rw [records]; rfl)
  have left := disengaged_leaveJoined idle
  generalize State.leaveJoined u = t at run left
  refine ⟨t, run, ?_, ?_, ?_, ?_, fun q hq => ?_⟩
  · rw [left.frame]; rfl
  · rw [left.clock]; rfl
  · rw [left.frame, records]; rfl
  · exact ((reports_of_tel (s := u) (t := State.unjoined u) rfl).trans left.reports).alarmed alarm
  · dsimp only
    have engaged : Port.engaged (State.port s q) = true ↔ Port.up (State.port s q) = true ∨ (State.port s q).state = .join := by
      unfold Port.engaged; rw [Bool.or_eq_true, decide_eq_true_iff]
    split
    · next h =>
      rw [left.taken q hq (List.mem_range.2 hq) (by rw [port]; exact engaged.2 h), port]
      exact ⟨rfl, rfl, rfl⟩
    · next h => rw [left.kept q hq (.inr (by rw [port]; exact Bool.eq_false_iff.2 (mt engaged.1 h))), port]

theorem exec_peerUp (other : n ≠ s.moduleNumber) (news : ∀ k, NMap.find s.fabric.known n = some k → k < i) (wait : Claims.noneWait s) :
    ∃ t, exec (.peerUp p n i) s = .next t ∧ Claims.floods s t (.peerUp n i) (some p) ∧
      t = { s with ports := t.ports, out := t.out
                   fabric := { s.fabric with failed := NMap.erase s.fabric.failed n, known := NMap.insert s.fabric.known n i } } := by
  generalize hu : ({ s with fabric := { s.fabric with failed := NMap.erase s.fabric.failed n, known := NMap.insert s.fabric.known n i } } : State) = u
  have run : exec (.peerUp p n i) s = .next (State.flood u (.peerUp n i) (some p)) := by
    rw [← hu]
    refine if_neg (not_or.2 ⟨other, fun h => ?_⟩)
    cases known : NMap.find s.fabric.known n with
    | none => rw [known] at h; exact nomatch h
    | some k =>
      rw [known] at h
      dsimp only at h
      rw [decide_eq_true (news k known)] at h
      exact nomatch h
  obtain ⟨frame, floods, -⟩ := flood_spec (s := u) (plain_peerUp n i) (some p) (by rw [← hu]; exact wait.1)
  generalize State.flood u (.peerUp n i) (some p) = t at run frame floods
  refine ⟨t, run, (claims_floods_iff ..).2 fun j => ?_, by rw [frame, ← hu]⟩
  have told := (claims_floods_iff ..).1 floods j
  have port : State.port u j = State.port s j := State.port_congr (by rw [← hu]) j
  rw [port] at told
  split
  · next h => rw [if_pos h] at told; exact carries_congr told port.symm (by rw [← hu]) rfl fun _ h => h
  · next h => rw [if_neg h] at told; exact told

end

theorem liveness : Claims.liveness := by
  refine ⟨fun s n link silent fresh => ⟨fun e way room idle credit => exec_linkSilenceProbe_detour link silent fresh way room idle credit,
      fun alone => exec_linkSilenceProbe_alone link silent fresh alone⟩,
    fun s n e other way idle room credit => exec_peerProbe other way idle room credit, fun s n probed => exec_peerAck probed,
    fun s p hp up replay queued arrivals => ⟨fun c cause => ?_, fun c cause => ?_, fun q partner late =>
      ⟨fun alive => exec_linkDown_answered up replay queued arrivals partner late alive,
        fun alone unanswered alive owed wait => exec_linkDown_failed up replay queued arrivals partner late alone unanswered alive owed wait⟩⟩,
    fun s p n i other => ⟨fun news alive owed wait => exec_peerDown_news other news alive owed wait, fun old => exec_peerDown_old other old⟩,
    fun s p joined replay wait => exec_peerDown_self joined replay wait, fun s p n i other news wait => exec_peerUp other news wait⟩
  · exact ⟨_, exec_linkDown_taken up cause, (wentDown up replay queued arrivals _).spec⟩
  · exact ⟨_, exec_linkDown_attempt up cause, attemptFailed_spec up replay queued arrivals 0⟩

end Sys2Proof.Machine
end

section
open Sys2Proof Sys2Proof.Machine

/-- Settles O53: each hop of a packet by its branch of the routing, the package hop of the only packet for its output, the choice of the best
neighbour as a fold over their time packets, and links that go down with nothing left behind. -/
theorem routingTimeAndPeers : Obligations.RoutingTimeAndPeers := ⟨packetsRoute, packageHops, timeService, liveness⟩

end

section
/-!
SUPPORT. Baker's records: what counting, a discard and a record in the ring change, and the MGT credits of a path (R22, R531 to R533, R537, R538).
-/

namespace Sys2Proof.Machine

/-! ### Records of `s` and `t` -/

/-- What the records say of `s` and `t`, where nothing but records changes. -/
theorem claims_records {s t : State} {x : Telemetry} (only : OnlyRecords s t) (quiet : Quiet x t.tel) : Claims.records s t x := by
  unfold OnlyRecords Quiet at *
  unfold Claims.records
  rw [← quiet]
  exact only

/-! ### Discards -/

/-- The key of what a sender discards now (R538). -/
def State.dropKey (s : State) (sender kind : Nat) : Nat := 256 * Claims.window s 10000000 s.timebase + 16 * sender + kind

/-- What has been counted under that key. -/
def State.dropOld (s : State) (sender kind : Nat) : DropCount :=
  (NMap.find s.tel.drops (State.dropKey s sender kind)).getD { start := Claims.window s 10000000 s.timebase, logs := 0, traces := 0, merged := 0 }

theorem State.drop_eq (s : State) (sender kind : Nat) (f : DropCount → DropCount) : State.drop s sender kind f =
    { s with tel := { s.tel with drops := NMap.insert s.tel.drops (State.dropKey s sender kind) (f (State.dropOld s sender kind)) } } := rfl

/-- An episode begins where it is not current: it adds to the records on their way. -/
theorem State.beginEpisode_adds (s : State) (c k o u d : Nat) : ∃ path l ep,
    State.beginEpisode s c k o u d = { s with tel := { s.tel with episodes := ep, alarmPath := path, logPath := s.tel.logPath ++ l } } := by
  rw [State.beginEpisode_eq]
  split
  · exact ⟨s.tel.alarmPath, [], s.tel.episodes, by rw [List.append_nil]⟩
  · obtain ⟨path, h⟩ := State.raise_eq (State.addEpisode s (c, k, o, u)) c k o d
    rw [h]
    exact ⟨_, _, _, rfl⟩

/-- A discard is counted for its window, and TELEMETRY_LOSS is current. -/
theorem State.discard_spec (s : State) (sender kind : Nat) (f : DropCount → DropCount) : ∃ path l ep,
    State.discard s sender kind f = { s with tel := { s.tel with
      drops := NMap.insert s.tel.drops (State.dropKey s sender kind) (f (State.dropOld s sender kind)), episodes := ep, alarmPath := path
      logPath := s.tel.logPath ++ l } } ∧
    (0xE1, (senderSource sender).1, (senderSource sender).2, 0) ∈ ep ∧
    ((0xE1, (senderSource sender).1, (senderSource sender).2, 0) ∉ s.tel.episodes →
      Claims.alarmed s (State.discard s sender kind f) 0xE1 (senderSource sender).1 (senderSource sender).2 0) := by
  have eq : State.discard s sender kind f = State.beginEpisode (State.drop s sender kind f) 0xE1 (senderSource sender).1 (senderSource sender).2 0 0 := rfl
  have drop := State.drop_eq s sender kind f
  obtain ⟨path, l, ep, adds⟩ := State.beginEpisode_adds (State.drop s sender kind f) 0xE1 (senderSource sender).1 (senderSource sender).2 0 0
  obtain ⟨current, raised⟩ := beginEpisode_current (State.drop s sender kind f) 0xE1 (senderSource sender).1 (senderSource sender).2 0 0
  rw [eq]
  refine ⟨path, l, ep, ?_, ?_, fun fresh => alarmed_of rfl (raised fresh)⟩
  · rw [adds, drop]
  · rw [adds] at current; exact current

/-- What is said of a discard whose count is `f`, the records of `s` being those of `u` in drops, episodes and messages. -/
theorem claims_discarded {s u : State} {sender kind logs traces merged : Nat} {f : DropCount → DropCount}
    (hf : ∀ d, f d = { d with logs := d.logs + logs, traces := d.traces + traces, merged := d.merged + merged })
    (time : u.timebase = s.timebase) (base : u.tel.windowBase = s.tel.windowBase) (drops : u.tel.drops = s.tel.drops) (episodes : u.tel.episodes = s.tel.episodes) :
    Claims.discarded s (State.discard u sender kind f) sender kind logs traces merged := by
  obtain ⟨path, l, ep, eq, current, raised⟩ := State.discard_spec u sender kind f
  have window : Claims.window u 10000000 u.timebase = Claims.window s 10000000 s.timebase := by unfold Claims.window; rw [time, base]
  have key : State.dropKey u sender kind = State.dropKey s sender kind := by unfold State.dropKey; rw [window]
  have old : State.dropOld u sender kind = State.dropOld s sender kind := by unfold State.dropOld; rw [key, window, drops]
  have alarm := fun fresh => alarmed_of (s := s) time (raised fresh)
  rw [eq] at alarm ⊢
  rw [episodes] at alarm
  refine ⟨?_, fun k hk => ?_, current, alarm⟩
  · show NMap.find (NMap.insert u.tel.drops _ _) _ = _
    rw [key, old, hf, NMap.find_insert]
    exact if_pos rfl
  · show NMap.find (NMap.insert u.tel.drops _ _) _ = _
    rw [key, drops, NMap.find_insert]
    exact if_neg (Ne.symm hk)

/-- Reports of a discard: it counts nothing and takes nothing back. -/
theorem reports_discard (s : State) (sender kind : Nat) (f : DropCount → DropCount) : Reports [] s (State.discard s sender kind f) := by
  obtain ⟨path, l, ep, eq, -, -⟩ := State.discard_spec s sender kind f
  rw [eq]
  exact reports_of_same rfl (fun _ h => List.mem_append_left _ h) rfl

/-! ### The MGT credits of a path -/

theorem length_insertByStamp (l : List (Nat × Nat)) (e : Nat × Nat) :
    (l.takeWhile (fun y => decide (y.1 ≤ e.1)) ++ e :: l.dropWhile (fun y => decide (y.1 ≤ e.1))).length = l.length + 1 := by
  have split := congrArg List.length (List.takeWhile_append_dropWhile (p := fun y : Nat × Nat => decide (y.1 ≤ e.1)) (l := l))
  rw [List.length_append] at split
  rw [List.length_append, List.length_cons]
  omega

/-- Every park notice that waits is listed once. -/
theorem Cell.notices_length (x : Cell) : (Cell.notices x).length = (x.parkList.filter (fun e => decide (e.2.state = .parked))).length := by
  have fold : ∀ (l acc : List (Nat × Nat)), (l.foldl (fun (l : List (Nat × Nat)) (e : Nat × Nat) =>
      l.takeWhile (fun y => decide (y.1 ≤ e.1)) ++ e :: l.dropWhile (fun y => decide (y.1 ≤ e.1))) acc).length = acc.length + l.length := by
    intro l
    induction l with
    | nil => exact fun _ => rfl
    | cons e l ih =>
      intro acc
      rw [List.foldl_cons, ih, length_insertByStamp, List.length_cons]
      omega
  unfold Cell.notices
  dsimp only
  rw [List.length_map, fold, List.length_nil, Nat.zero_add, List.length_map]

theorem State.noticesOn_length (s : State) (path : Nat × Nat × Nat) : (State.noticesOn s path).length = Claims.pathNotices s path := by
  unfold State.noticesOn Claims.pathNotices
  split
  · exact Cell.notices_length _
  · rfl

theorem mgtOrdinary_eq (kind source : Nat) : mgtOrdinary (mgtPath kind source) = Claims.pathOrd (mgtPath kind source) := by
  unfold mgtPath
  split
  · rfl
  · rfl
  · rfl
  · rfl
  · rfl
  · split <;> rfl

theorem Telemetry.mgtUsed_eq (s : State) (path : Nat × Nat × Nat) : Telemetry.mgtUsed s.tel path (State.noticesOn s path).length =
    Claims.pathAlarms s path + min (Claims.pathNotices s path) (mgtOrdinary path - Claims.pathAlarms s path) := by
  unfold Telemetry.mgtUsed
  rw [State.noticesOn_length]
  rfl

theorem State.mgtCredit_iff (s : State) (kind source : Nat) : State.mgtCredit s kind source = true ↔ Claims.mgtFree s kind source := by
  unfold State.mgtCredit Claims.mgtFree
  dsimp only
  rw [Telemetry.mgtUsed_eq, mgtOrdinary_eq, Bool.or_eq_true, decide_eq_true_iff, decide_eq_true_iff]
  refine or_congr_right ?_
  omega

theorem State.pathShort_iff (s : State) (kind unit : Nat) : State.pathShort s kind unit = true ↔ Claims.fewCredits s kind unit := by
  unfold State.pathShort State.pathLoad Claims.fewCredits
  dsimp only
  rw [Bool.and_eq_true, decide_eq_true_iff, decide_eq_true_iff, Telemetry.mgtUsed_eq, mgtOrdinary_eq]

end Sys2Proof.Machine
end

section
/-!
SUPPORT. The alarm table (R46, R526 to R529) and the ring watchdog (R423).
-/

namespace Sys2Proof.Machine

theorem all_take_iff {α : Type} (l : List α) (i : Nat) (p : α → Bool) : (l.take i).all p = true ↔ ∀ j a, j < i → l[j]? = some a → p a = true := by
  rw [List.all_eq_true]
  constructor
  · intro h j a hj ha
    refine h a (List.mem_iff_getElem?.2 ⟨j, ?_⟩)
    rw [List.getElem?_take, if_pos hj, ha]
  · intro h a ha
    obtain ⟨j, hj⟩ := List.mem_iff_getElem?.1 ha
    rw [List.getElem?_take] at hj
    split at hj
    · next lt => exact h j a lt hj
    · exact nomatch hj

/-! ### The alarm table -/

/-- The occurrence has the key of the record. -/
def AlarmOccurrence.fits (o : AlarmOccurrence) (x : AlarmRecord) : Bool := decide (x.code = o.code ∧ x.kind = o.kind ∧ x.source = o.source)

theorem AlarmOccurrence.fits_iff (o : AlarmOccurrence) (x : AlarmRecord) : AlarmOccurrence.fits o x = true ↔ x.code = o.code ∧ x.kind = o.kind ∧ x.source = o.source :=
  decide_eq_true_iff

/-- The state as occurrence number `i` has left its path, and is counted. -/
def State.alarmTaken (s : State) (i : Nat) (o : AlarmOccurrence) : State :=
  State.count { s with tel := { s.tel with alarmPath := s.tel.alarmPath.eraseIdx i } } .alarmsRaised 0 0 o.count

theorem alarmTaken_spec (s : State) (i : Nat) (o : AlarmOccurrence) : OnlyRecords s (State.alarmTaken s i o) ∧
    Quiet { s.tel with alarmPath := s.tel.alarmPath.eraseIdx i } (State.alarmTaken s i o).tel ∧ Claims.counted s (State.alarmTaken s i o) .alarmsRaised 0 0 o.count ∧
    Reports [counterKey .alarmsRaised 0 0] s (State.alarmTaken s i o) := by
  unfold State.alarmTaken
  generalize hu : ({ s with tel := { s.tel with alarmPath := s.tel.alarmPath.eraseIdx i } } : State) = u
  have records := onlyRecords_count u .alarmsRaised 0 0 o.count
  have quiet := quiet_count u .alarmsRaised 0 0 o.count
  have counted := counted_count u .alarmsRaised 0 0 o.count (by decide)
  have reports := reports_count u .alarmsRaised 0 0 o.count
  have before : Reports [] s u := by rw [← hu]; exact reports_of_same rfl (fun _ h => h) rfl
  refine ⟨OnlyRecords.trans (t := u) (by rw [← hu]; rfl) records, ?_, before.counted_before (by decide) (fun h => nomatch h) counted, before.trans reports⟩
  rw [← hu] at quiet ⊢
  exact quiet

section
variable {s : State} {i : Nat} {o : AlarmOccurrence}

theorem alarmFirst_iff (s : State) (i : Nat) (o : AlarmOccurrence) : Telemetry.alarmFirst s.tel i o = true ↔
    ¬ ∃ j a, j < i ∧ s.tel.alarmPath[j]? = some a ∧ sourceRegion a.kind a.source = sourceRegion o.kind o.source := by
  unfold Telemetry.alarmFirst
  rw [all_take_iff]
  constructor
  · rintro h ⟨j, a, hj, ha, same⟩
    exact of_decide_eq_true (h j a hj ha) same
  · intro h j a hj ha
    exact decide_eq_true fun same => h ⟨j, a, hj, ha, same⟩

theorem exec_alarmOccurrence_ahead (there : s.tel.alarmPath[i]? = some o)
    (ahead : ∃ j a, j < i ∧ s.tel.alarmPath[j]? = some a ∧ sourceRegion a.kind a.source = sourceRegion o.kind o.source) : exec (.alarmOccurrence i) s = .next s := by
  have run : exec (.alarmOccurrence i) s = execAlarmOccurrence i s := rfl
  unfold execAlarmOccurrence at run
  rw [there] at run
  have late : Telemetry.alarmFirst s.tel i o = false := Bool.eq_false_iff.2 fun h => (alarmFirst_iff s i o).1 h ahead
  exact run.trans (if_pos (by rw [late]; rfl))

/-- What the table does with an occurrence that is the first of its region. -/
def State.tabulated (c : State) (o : AlarmOccurrence) : State :=
  if c.tel.alarms.any (AlarmOccurrence.fits o) then
    { c with tel := { c.tel with alarms := c.tel.alarms.map (fun x => if AlarmOccurrence.fits o x then AlarmRecord.join x o else x) } }
  else if c.tel.alarms.length < 1024 then { c with tel := { c.tel with alarms := c.tel.alarms ++ [AlarmOccurrence.record o] } }
  else State.mergeAlarm c o

theorem exec_alarmOccurrence_first (there : s.tel.alarmPath[i]? = some o)
    (first : ¬ ∃ j a, j < i ∧ s.tel.alarmPath[j]? = some a ∧ sourceRegion a.kind a.source = sourceRegion o.kind o.source) :
    exec (.alarmOccurrence i) s = .next (State.tabulated (State.alarmTaken s i o) o) := by
  have run : exec (.alarmOccurrence i) s = execAlarmOccurrence i s := rfl
  unfold execAlarmOccurrence at run
  rw [there] at run
  have early := (alarmFirst_iff s i o).2 first
  exact run.trans (if_neg (by rw [early]; decide))

/-- Its alarms are those of before. -/
theorem alarms_alarmTaken (s : State) (i : Nat) (o : AlarmOccurrence) : (State.alarmTaken s i o).tel.alarms = s.tel.alarms := by
  obtain ⟨-, quiet, -, -⟩ := alarmTaken_spec s i o
  rw [quiet]

theorem any_fits_iff (l : List AlarmRecord) (o : AlarmOccurrence) : l.any (AlarmOccurrence.fits o) = true ↔ ∃ x ∈ l, x.code = o.code ∧ x.kind = o.kind ∧ x.source = o.source := by
  rw [List.any_eq_true]
  exact exists_congr fun x => and_congr_right fun _ => decide_eq_true_iff

/-- An occurrence joins the record of its key. -/
theorem tabulated_joins (known : ∃ x ∈ s.tel.alarms, x.code = o.code ∧ x.kind = o.kind ∧ x.source = o.source) :
    let t := State.tabulated (State.alarmTaken s i o) o
    Claims.records s t { s.tel with alarmPath := s.tel.alarmPath.eraseIdx i, alarms := t.tel.alarms } ∧ Claims.counted s t .alarmsRaised 0 0 o.count ∧
      t.tel.alarms.length = s.tel.alarms.length ∧ ∀ (j : Nat) (x : AlarmRecord), s.tel.alarms[j]? = some x →
        ((x.code = o.code ∧ x.kind = o.kind ∧ x.source = o.source) → t.tel.alarms[j]? = some (Claims.joined x o)) ∧
        (¬ (x.code = o.code ∧ x.kind = o.kind ∧ x.source = o.source) → t.tel.alarms[j]? = some x) := by
  obtain ⟨records, quiet, counted, -⟩ := alarmTaken_spec s i o
  have alarms := alarms_alarmTaken s i o
  generalize State.alarmTaken s i o = c at records quiet counted alarms
  have eq : State.tabulated c o = { c with tel := { c.tel with alarms := s.tel.alarms.map (fun x => if AlarmOccurrence.fits o x then AlarmRecord.join x o else x) } } := by
    unfold State.tabulated
    rw [alarms, if_pos ((any_fits_iff s.tel.alarms o).2 known)]
  rw [eq]
  refine ⟨claims_records (OnlyRecords.trans records rfl) ?_, counted, List.length_map _, fun j x hx => ?_⟩
  · unfold Quiet at *
    rw [quiet]
  · have at_j : (s.tel.alarms.map (fun x => if AlarmOccurrence.fits o x then AlarmRecord.join x o else x))[j]? =
        some (if AlarmOccurrence.fits o x then AlarmRecord.join x o else x) := by rw [List.getElem?_map, hx]; rfl
    refine ⟨fun same => at_j.trans ?_, fun other => at_j.trans ?_⟩
    · exact congrArg some (if_pos ((AlarmOccurrence.fits_iff o x).2 same))
    · exact congrArg some (if_neg fun h => other ((AlarmOccurrence.fits_iff o x).1 h))

/-- An occurrence of a new key takes a free general record. -/
theorem tabulated_adds (fresh : ∀ x ∈ s.tel.alarms, ¬ (x.code = o.code ∧ x.kind = o.kind ∧ x.source = o.source)) (free : s.tel.alarms.length < 1024) :
    let t := State.tabulated (State.alarmTaken s i o) o
    Claims.counted s t .alarmsRaised 0 0 o.count ∧ Claims.records s t { s.tel with
      alarmPath := s.tel.alarmPath.eraseIdx i
      alarms := s.tel.alarms ++ [{ first := o.stamp, last := o.last, count := min (2 ^ 32 - 1) o.count, code := o.code, kind := o.kind
                                   source := o.source, detail := o.detail }] } := by
  obtain ⟨records, quiet, counted, -⟩ := alarmTaken_spec s i o
  have alarms := alarms_alarmTaken s i o
  generalize State.alarmTaken s i o = c at records quiet counted alarms
  have unknown : ¬ s.tel.alarms.any (AlarmOccurrence.fits o) = true := fun h => by
    obtain ⟨x, mem, same⟩ := (any_fits_iff s.tel.alarms o).1 h
    exact fresh x mem same
  have eq : State.tabulated c o = { c with tel := { c.tel with alarms := s.tel.alarms ++ [AlarmOccurrence.record o] } } := by
    unfold State.tabulated
    rw [alarms, if_neg unknown, if_pos free]
  rw [eq]
  refine ⟨counted, claims_records (OnlyRecords.trans records rfl) ?_⟩
  unfold Quiet at *
  rw [quiet]
  rfl

end

/-! ### The reserved records -/

/-- The record of its code with the occurrence joined (R528). -/
def AlarmOccurrence.reservedIn (o : AlarmOccurrence) (m : NMap AlarmRecord) : AlarmRecord :=
  match NMap.find m o.code with
  | some x => Claims.joined x o
  | none => { first := o.stamp, last := o.last, count := min (2 ^ 32 - 1) o.count, code := o.code, kind := 0, source := 0xFFFF, detail := o.detail }

theorem Telemetry.merge_eq (t : Telemetry) (o : AlarmOccurrence) : Telemetry.merge t o = { t with reserved := NMap.insert t.reserved o.code (AlarmOccurrence.reservedIn o t.reserved) } := by
  unfold Telemetry.merge AlarmOccurrence.reservedIn
  cases NMap.find t.reserved o.code <;> rfl

/-- A discard stays said where drops and episodes are the same and no message is taken back. -/
theorem discarded_congr {s t u : State} {sender kind logs traces merged : Nat} (h : Claims.discarded s t sender kind logs traces merged)
    (drops : u.tel.drops = t.tel.drops) (episodes : u.tel.episodes = t.tel.episodes) (sent : ∀ e ∈ t.tel.logPath, e ∈ u.tel.logPath) :
    Claims.discarded s u sender kind logs traces merged := by
  obtain ⟨here, others, current, alarm⟩ := h
  refine ⟨by rw [drops]; exact here, fun k hk => by rw [drops]; exact others k hk, by rw [episodes]; exact current, fun fresh => sent _ (alarm fresh)⟩

/-- The occurrence is counted in the reserved record of its code, as a discard of Baker's. -/
def State.mergedOnce (s : State) (o : AlarmOccurrence) : State :=
  State.discard (State.flag (State.count { s with tel := Telemetry.merge s.tel o } .alarmsMerged 0 0 o.count) 8) 8 o.kind (fun d => { d with merged := d.merged + o.count })

/-- The occurrence of ALARM_MERGED. -/
def State.mergeOccurrence (s : State) : AlarmOccurrence :=
  { code := 0xE2, kind := 0, source := 0, detail := 0, stamp := s.timebase, last := s.timebase, count := 1 }

/-- ALARM_MERGED begins (R526, R528). -/
def State.mergeBegun (s : State) : State :=
  State.log (State.count { s with tel := Telemetry.merge { s.tel with mergeEpisode := true } (State.mergeOccurrence s) } .alarmsRaised 0 0 1) 0x01E2 0 0 0 [0, 0]

theorem State.mergeAlarm_eq (s : State) (o : AlarmOccurrence) : State.mergeAlarm s o =
    if (State.mergedOnce s o).tel.mergeEpisode then State.mergedOnce s o else State.mergeBegun (State.mergedOnce s o) := rfl

theorem mergedOnce_spec (s : State) (o : AlarmOccurrence) : let t := State.mergedOnce s o
    OnlyRecords s t ∧ Reports [counterKey .alarmsMerged 0 0] s t ∧ Claims.counted s t .alarmsMerged 0 0 o.count ∧ t.tel.errFlags.testBit 8 = true ∧
      Claims.discarded s t 8 o.kind 0 0 o.count ∧ t.tel.alarms = s.tel.alarms ∧ t.tel.mergeEpisode = s.tel.mergeEpisode ∧
      t.tel.reserved = NMap.insert s.tel.reserved o.code (AlarmOccurrence.reservedIn o s.tel.reserved) := by
  unfold State.mergedOnce
  dsimp only
  rw [Telemetry.merge_eq]
  generalize hm : ({ s with tel := { s.tel with reserved := NMap.insert s.tel.reserved o.code (AlarmOccurrence.reservedIn o s.tel.reserved) } } : State) = m
  have quiet := (quiet_count m .alarmsMerged 0 0 o.count).trans (quiet_flag _ 8)
  have only := (onlyRecords_count m .alarmsMerged 0 0 o.count).trans (onlyRecords_flag _ 8)
  have reports := (reports_count m .alarmsMerged 0 0 o.count).trans (reports_flag _ 8)
  have counted := (reports_flag _ 8).counted_after (counted_count m .alarmsMerged 0 0 o.count (by decide)) (by decide) fun h => nomatch h
  have flag := flag_set (State.count m .alarmsMerged 0 0 o.count) 8
  generalize State.flag (State.count m .alarmsMerged 0 0 o.count) 8 = u at quiet only reports counted flag
  have start : Reports [] s m := by rw [← hm]; exact reports_of_same rfl (fun _ h => h) rfl
  have tel : Quiet { s.tel with reserved := NMap.insert s.tel.reserved o.code (AlarmOccurrence.reservedIn o s.tel.reserved) } u.tel := by
    rw [← hm] at quiet; exact quiet
  have whole : OnlyRecords s u := OnlyRecords.trans (t := m) (by rw [← hm]; rfl) only
  have discarded : Claims.discarded s (State.discard u 8 o.kind (fun d => { d with merged := d.merged + o.count })) 8 o.kind 0 0 o.count := by
    refine claims_discarded (fun d => rfl) (by rw [whole]) ?_ ?_ ?_
    · rw [tel]
    · rw [tel]
    · rw [tel]
  have after := reports_discard u 8 o.kind (fun d => { d with merged := d.merged + o.count })
  obtain ⟨path, l, ep, eq, -, -⟩ := State.discard_spec u 8 o.kind (fun d => { d with merged := d.merged + o.count })
  generalize State.discard u 8 o.kind (fun d => { d with merged := d.merged + o.count }) = t at discarded after eq
  refine ⟨whole.trans ?_, start.trans (reports.trans after), ?_, after.flags 8 flag, discarded, ?_, ?_, ?_⟩
  · rw [eq]; rfl
  · exact after.counted_after (start.counted_before (by decide) (fun h => nomatch h) counted) (by decide) fun h => nomatch h
  · rw [eq]; dsimp only; rw [tel]
  · rw [eq]; dsimp only; rw [tel]
  · rw [eq]; dsimp only; rw [tel]

theorem mergeBegun_spec (s : State) : let t := State.mergeBegun s
    OnlyRecords s t ∧ Reports [counterKey .alarmsRaised 0 0] s t ∧ Claims.counted s t .alarmsRaised 0 0 1 ∧
      (8, { stamp := s.timebase, type := 0x01E2, kind := 0, source := 0, job := 0, d := [0, 0] }) ∈ t.tel.logPath ∧
      t.tel.alarms = s.tel.alarms ∧ t.tel.mergeEpisode = true ∧ t.tel.drops = s.tel.drops ∧ t.tel.episodes = s.tel.episodes ∧
      ∃ x, t.tel.reserved = NMap.insert s.tel.reserved 0xE2 x := by
  unfold State.mergeBegun
  dsimp only
  rw [Telemetry.merge_eq]
  have code : (State.mergeOccurrence s).code = 0xE2 := rfl
  rw [code]
  dsimp only
  generalize AlarmOccurrence.reservedIn (State.mergeOccurrence s) s.tel.reserved = x
  generalize hm : ({ s with tel := { s.tel with mergeEpisode := true, reserved := NMap.insert s.tel.reserved 0xE2 x } } : State) = m
  have quiet := quiet_count m .alarmsRaised 0 0 1
  have only := onlyRecords_count m .alarmsRaised 0 0 1
  have reports := reports_count m .alarmsRaised 0 0 1
  have counted := counted_count m .alarmsRaised 0 0 1 (by decide)
  generalize State.count m .alarmsRaised 0 0 1 = u at quiet only reports counted
  have start : Reports [] s m := by rw [← hm]; exact reports_of_same rfl (fun _ h => h) rfl
  have tel : Quiet { s.tel with mergeEpisode := true, reserved := NMap.insert s.tel.reserved 0xE2 x } u.tel := by rw [← hm] at quiet; exact quiet
  have whole : OnlyRecords s u := OnlyRecords.trans (t := m) (by rw [← hm]; rfl) only
  have now : u.timebase = s.timebase := by rw [whole]
  have after := reports_log u 0x01E2 0 0 0 [0, 0]
  have logged := logged_log u 0x01E2 0 0 0 [0, 0]
  rw [now] at logged
  refine ⟨whole.trans (onlyRecords_log ..), start.trans (reports.trans after), ?_, logged, ?_, ?_, ?_, ?_, x, ?_⟩
  · exact after.counted_after (start.counted_before (by decide) (fun h => nomatch h) counted) (by decide) fun h => nomatch h
  all_goals
    rw [State.log_eq]
    dsimp only
    rw [tel]

section
variable {s : State} {i : Nat} {o : AlarmOccurrence}

/-- With the general records taken an occurrence of a new key is merged by its code. -/
theorem tabulated_merges (fresh : ∀ x ∈ s.tel.alarms, ¬ (x.code = o.code ∧ x.kind = o.kind ∧ x.source = o.source)) (full : 1024 ≤ s.tel.alarms.length)
    (own : o.code ≠ 0xE2) : let t := State.tabulated (State.alarmTaken s i o) o
    t = { s with tel := t.tel } ∧ t.tel.alarms = s.tel.alarms ∧ t.tel.mergeEpisode = true ∧ Claims.counted s t .alarmsMerged 0 0 o.count ∧
      t.tel.errFlags.testBit 8 = true ∧ Claims.discarded s t 8 o.kind 0 0 o.count ∧
      NMap.find t.tel.reserved o.code = some (AlarmOccurrence.reservedIn o s.tel.reserved) ∧
      (∀ k, k ≠ o.code → k ≠ 0xE2 → NMap.find t.tel.reserved k = NMap.find s.tel.reserved k) ∧
      (s.tel.mergeEpisode = true → NMap.find t.tel.reserved 0xE2 = NMap.find s.tel.reserved 0xE2 ∧ Claims.counted s t .alarmsRaised 0 0 o.count) ∧
      (s.tel.mergeEpisode = false → Claims.counted s t .alarmsRaised 0 0 (o.count + 1) ∧ (∃ x, NMap.find t.tel.reserved 0xE2 = some x) ∧
        (8, { stamp := s.timebase, type := 0x01E2, kind := 0, source := 0, job := 0, d := [0, 0] }) ∈ t.tel.logPath) := by
  obtain ⟨records, quiet, counted, taken⟩ := alarmTaken_spec s i o
  have alarms := alarms_alarmTaken s i o
  generalize State.alarmTaken s i o = c at records quiet counted alarms taken
  have unknown : ¬ s.tel.alarms.any (AlarmOccurrence.fits o) = true := fun h => by
    obtain ⟨x, mem, same⟩ := (any_fits_iff s.tel.alarms o).1 h
    exact fresh x mem same
  have eq : State.tabulated c o = State.mergeAlarm c o := by
    unfold State.tabulated
    rw [alarms, if_neg unknown, if_neg (Nat.not_lt.2 full)]
  have reserved : c.tel.reserved = s.tel.reserved := by rw [quiet]
  have episode : c.tel.mergeEpisode = s.tel.mergeEpisode := by rw [quiet]
  have now : c.timebase = s.timebase := by rw [records]
  obtain ⟨only, reports, merged, flag, discarded, alarms', episode', reserved'⟩ := mergedOnce_spec c o
  rw [eq, State.mergeAlarm_eq]
  generalize State.mergedOnce c o = m at only reports merged flag discarded alarms' episode' reserved'
  have window : Claims.window c 10000000 c.timebase = Claims.window s 10000000 s.timebase := by unfold Claims.window; rw [now, quiet]
  have drop : Claims.discarded s m 8 o.kind 0 0 o.count := by
    unfold Claims.discarded at *
    have drops : c.tel.drops = s.tel.drops := by rw [quiet]
    have episodes : c.tel.episodes = s.tel.episodes := by rw [quiet]
    rw [window, drops, episodes] at discarded
    obtain ⟨here, others, current, alarm⟩ := discarded
    exact ⟨here, others, current, fun h => alarmed_of now (alarm h)⟩
  have raised : Claims.counted s m .alarmsRaised 0 0 o.count :=
    reports.counted_after counted (by decide) fun h => counterKey_ne (by decide) _ _ _ _ (List.mem_singleton.1 h)
  have merged' : Claims.counted s m .alarmsMerged 0 0 o.count :=
    taken.counted_before (by decide) (fun h => counterKey_ne (by decide) _ _ _ _ (List.mem_singleton.1 h)) merged
  rw [reserved] at reserved'
  have find : ∀ k, NMap.find m.tel.reserved k = if o.code = k then some (AlarmOccurrence.reservedIn o s.tel.reserved) else NMap.find s.tel.reserved k := fun k => by
    rw [reserved', NMap.find_insert]
  cases on : s.tel.mergeEpisode with
  | true =>
    rw [if_pos (by rw [episode', episode, on])]
    refine ⟨records.trans only, by rw [alarms', alarms], by rw [episode', episode, on], merged', flag, drop, by rw [find, if_pos rfl], fun k hk _ => ?_, fun _ => ⟨?_, raised⟩,
      fun h => nomatch h⟩
    · rw [find, if_neg (Ne.symm hk)]
    · rw [find, if_neg own]
  | false =>
    rw [if_neg (by rw [episode', episode, on]; exact Bool.false_ne_true)]
    obtain ⟨only2, reports2, raised2, logged, alarms2, episode2, drops2, episodes2, x, reserved2⟩ := mergeBegun_spec m
    generalize State.mergeBegun m = t at only2 reports2 raised2 logged alarms2 episode2 drops2 episodes2 reserved2
    have now' : m.timebase = s.timebase := by rw [only, now]
    rw [now'] at logged
    refine ⟨(records.trans only).trans only2, by rw [alarms2, alarms', alarms], episode2, ?_, reports2.flags 8 flag, discarded_congr drop drops2 episodes2 reports2.sent, ?_,
      fun k hk other => ?_, fun h => (nomatch h), fun _ => ⟨counted_add raised raised2, ⟨x, ?_⟩, logged⟩⟩
    · exact reports2.counted_after merged' (by decide) fun h => counterKey_ne (by decide) _ _ _ _ (List.mem_singleton.1 h)
    · rw [reserved2, NMap.find_insert, if_neg (Ne.symm own), find, if_pos rfl]
    · rw [reserved2, NMap.find_insert, if_neg (Ne.symm other), find, if_neg (Ne.symm hk)]
    · rw [reserved2, NMap.find_insert, if_pos rfl]

end

theorem alarms : Claims.alarms := by
  intro s i o there
  refine ⟨fun ahead => exec_alarmOccurrence_ahead there ahead, fun first known => ?_, fun first fresh free => ?_, fun first fresh full own => ?_⟩
  · obtain ⟨records, counted, length, each⟩ := tabulated_joins (i := i) known
    exact ⟨_, exec_alarmOccurrence_first there first, records, counted, length, each⟩
  · obtain ⟨counted, records⟩ := tabulated_adds (i := i) fresh free
    exact ⟨_, exec_alarmOccurrence_first there first, counted, records⟩
  · exact ⟨_, exec_alarmOccurrence_first there first, tabulated_merges fresh full own⟩

end Sys2Proof.Machine
end

section
/-!
SUPPORT. The ring watchdog (R423) and traces to the host ring (R536, R537).
-/

namespace Sys2Proof.Machine

/-! ### The group that has waited longest -/

/-- The target that a group waits for at counter `k`. -/
def Group.waitsFor (g : Group) (k : Nat) : Option Word :=
  match g.hold with
  | .await j t => if j = k then some t else none
  | _ => none

theorem Group.waitsFor_iff (g : Group) (k : Nat) (t : Word) : Group.waitsFor g k = some t ↔ g.hold = .await k t := by
  unfold Group.waitsFor
  constructor
  · intro h
    split at h
    · next j v hold =>
      split at h
      · next same => rw [hold, same, Option.some.inj h]
      · exact nomatch h
    · exact nomatch h
  · intro h
    rw [h]
    exact if_pos rfl

/-- The older of the oldest so far and the next. -/
def older (k : Nat) (acc : Option (Nat × Nat)) (e : Nat × Group) : Option (Nat × Nat) :=
  match Group.waitsFor e.2 k with
  | none => acc
  | some t =>
    match acc with
    | some a => if e.2.age < a.1 then some (e.2.age, t.toNat) else acc
    | none => some (e.2.age, t.toNat)

theorem Cell.oldestTarget_eq (x : Cell) (k : Nat) : Cell.oldestTarget x k = (x.groups.foldl (older k) none).elim 0 (fun a => a.2) := by
  unfold Cell.oldestTarget
  congr 2
  funext acc e
  unfold older Group.waitsFor
  cases hold : e.2.hold with
  | await j t =>
    dsimp only
    by_cases same : j = k
    · rw [if_pos same, if_pos same] <;> rfl
    · rw [if_neg same, if_neg same]
  | _ => rfl

theorem Cell.waiters_eq (x : Cell) (k : Nat) : Cell.waiters x k = x.groups.filterMap (fun e => (Group.waitsFor e.2 k).map (·.toNat)) := by
  unfold Cell.waiters
  congr 1
  funext e
  unfold Group.waitsFor
  cases hold : e.2.hold with
  | await j t =>
    dsimp only
    by_cases same : j = k
    · rw [if_pos same, if_pos same] <;> rfl
    · rw [if_neg same, if_neg same]; rfl
  | _ => rfl

theorem foldl_older (k : Nat) (l : NMap Group) (a : Nat × Nat) : ∃ r, l.foldl (older k) (some a) = some r ∧
    (r = a ∨ ∃ e ∈ l, ∃ t, Group.waitsFor e.2 k = some t ∧ r = (e.2.age, t.toNat)) ∧ r.1 ≤ a.1 ∧ ∀ e ∈ l, ∀ t, Group.waitsFor e.2 k = some t → r.1 ≤ e.2.age := by
  induction l generalizing a with
  | nil => exact ⟨a, rfl, .inl rfl, Nat.le_refl _, fun _ h => nomatch h⟩
  | cons e l ih =>
    rw [List.foldl_cons]
    cases waits : Group.waitsFor e.2 k with
    | none =>
      have step : older k (some a) e = some a := by unfold older; rw [waits]
      rw [step]
      obtain ⟨r, fold, from_, below, all⟩ := ih a
      refine ⟨r, fold, from_.imp_right fun ⟨f, hf, rest⟩ => ⟨f, List.mem_cons_of_mem _ hf, rest⟩, below, fun f hf t ht => ?_⟩
      obtain rfl | hf := List.mem_cons.1 hf
      · rw [waits] at ht; exact nomatch ht
      · exact all f hf t ht
    | some t =>
      by_cases first : e.2.age < a.1
      · have step : older k (some a) e = some (e.2.age, t.toNat) := by unfold older; rw [waits]; exact if_pos first
        rw [step]
        obtain ⟨r, fold, from_, below, all⟩ := ih (e.2.age, t.toNat)
        refine ⟨r, fold, .inr ?_, Nat.le_of_lt (Nat.lt_of_le_of_lt below first), fun f hf v hv => ?_⟩
        · obtain rfl | ⟨f, hf, rest⟩ := from_
          · exact ⟨e, List.mem_cons_self, t, waits, rfl⟩
          · exact ⟨f, List.mem_cons_of_mem _ hf, rest⟩
        · obtain rfl | hf := List.mem_cons.1 hf
          · exact below
          · exact all f hf v hv
      · have step : older k (some a) e = some a := by unfold older; rw [waits]; exact if_neg first
        rw [step]
        obtain ⟨r, fold, from_, below, all⟩ := ih a
        refine ⟨r, fold, from_.imp_right fun ⟨f, hf, rest⟩ => ⟨f, List.mem_cons_of_mem _ hf, rest⟩, below, fun f hf v hv => ?_⟩
        obtain rfl | hf := List.mem_cons.1 hf
        · exact Nat.le_trans below (Nat.le_of_not_lt first)
        · exact all f hf v hv

theorem foldl_older_none (k : Nat) (l : NMap Group) (waiting : ∃ e ∈ l, ∃ t, Group.waitsFor e.2 k = some t) :
    ∃ e ∈ l, ∃ t, Group.waitsFor e.2 k = some t ∧ l.foldl (older k) none = some (e.2.age, t.toNat) ∧ ∀ f ∈ l, ∀ v, Group.waitsFor f.2 k = some v → e.2.age ≤ f.2.age := by
  induction l with
  | nil => obtain ⟨e, he, -⟩ := waiting; exact nomatch he
  | cons e l ih =>
    rw [List.foldl_cons]
    cases waits : Group.waitsFor e.2 k with
    | none =>
      have step : older k none e = none := by unfold older; rw [waits]
      rw [step]
      obtain ⟨f, hf, t, rest, fold, all⟩ := ih (by
        obtain ⟨f, hf, t, ht⟩ := waiting
        obtain rfl | hf := List.mem_cons.1 hf
        · rw [waits] at ht; exact nomatch ht
        · exact ⟨f, hf, t, ht⟩)
      refine ⟨f, List.mem_cons_of_mem _ hf, t, rest, fold, fun g hg v hv => ?_⟩
      obtain rfl | hg := List.mem_cons.1 hg
      · rw [waits] at hv; exact nomatch hv
      · exact all g hg v hv
    | some t =>
      have step : older k none e = some (e.2.age, t.toNat) := by unfold older; rw [waits]
      rw [step]
      obtain ⟨r, fold, from_, below, all⟩ := foldl_older k l (e.2.age, t.toNat)
      have least : ∀ f ∈ e :: l, ∀ v, Group.waitsFor f.2 k = some v → r.1 ≤ f.2.age := fun f hf v hv => by
        obtain rfl | hf := List.mem_cons.1 hf
        · exact below
        · exact all f hf v hv
      obtain rfl | ⟨f, hf, v, hv, rfl⟩ := from_
      · exact ⟨e, List.mem_cons_self, t, waits, fold, least⟩
      · exact ⟨f, List.mem_cons_of_mem _ hf, v, hv, fold, least⟩

/-- Where groups wait, the oldest target is that of the group of the lowest age. -/
theorem Cell.oldestTarget_spec {x : Cell} {k : Nat} (waits : 0 < (Cell.waiters x k).length) : ∃ e ∈ x.groups, ∃ target, e.2.hold = .await k target ∧
    (∀ f ∈ x.groups, ∀ v, f.2.hold = .await k v → e.2.age ≤ f.2.age) ∧ Cell.oldestTarget x k = target.toNat := by
  rw [Cell.waiters_eq] at waits
  obtain ⟨n, mem⟩ := List.exists_mem_of_length_pos waits
  obtain ⟨e, he, awaits⟩ := List.mem_filterMap.1 mem
  obtain ⟨t, ht, -⟩ := Option.map_eq_some_iff.1 awaits
  obtain ⟨f, hf, v, hv, fold, least⟩ := foldl_older_none k x.groups ⟨e, he, t, ht⟩
  refine ⟨f, hf, v, (Group.waitsFor_iff ..).1 hv, fun g hg w hw => least g hg w ((Group.waitsFor_iff ..).2 hw), ?_⟩
  rw [Cell.oldestTarget_eq, fold]
  rfl

/-! ### RING_WATCHDOG_EXPIRY -/

/-- The stall has been reported. -/
def Cell.stallFired (x : Cell) (k : Nat) : Cell := { x with watch := NMap.mod x.watch k (fun w => { w with fired := true }) }

theorem exec_ringWatchdogExpiry {s : State} {c k : Nat} {w : Watch} {t0 : Stamp} (watched : NMap.find (State.cell s c).watch k = some w) (since : w.since = some t0) :
    exec (.ringWatchdogExpiry c k) s =
      if w.fired ∨ (Cell.waiters (State.cell s c) k).length = 0 ∨ (s.timebase : Int) < t0 + (w.period * 1000000 : Nat) then .next s
      else .next (State.log (State.count (State.raise (State.modCell s c (fun x => Cell.stallFired x k)) 0xA3 6 (32 * c + k) 0) .ringStalls 0 c 1) 0x0032 6 (32 * c + k)
        (Cell.arrival (State.cell s c) k).tag
        [32 * c + k, (Cell.arrival (State.cell s c) k).value.toNat, Cell.oldestTarget (State.cell s c) k, (Cell.waiters (State.cell s c) k).length]) := by
  have run : exec (.ringWatchdogExpiry c k) s = execRingWatchdogExpiry c k s := rfl
  unfold execRingWatchdogExpiry at run
  dsimp only at run
  rw [watched] at run
  dsimp only at run
  rw [since] at run
  exact run

theorem ringStalls : Claims.ringStalls := by
  intro s c k w t0 x n watched since
  have run := exec_ringWatchdogExpiry watched since
  refine ⟨fun fresh waits late => ?_, fun quiet => ?_⟩
  · rw [if_neg (by
      rintro (fired | none_ | early)
      · rw [fresh] at fired; exact nomatch fired
      · exact absurd none_ (Nat.ne_of_gt waits)
      · omega)] at run
    obtain ⟨e, he, target, hold, least, oldest⟩ := Cell.oldestTarget_spec waits
    rw [oldest] at run
    generalize hu : State.modCell s c (fun x => Cell.stallFired x k) = u at run
    have frame : u = { s with cells := u.cells } := by rw [← hu]; rfl
    have cell : ∀ d, State.cell u d = if c = d then Cell.stallFired (State.cell s c) k else State.cell s d := fun d => by rw [← hu, State.cell_modCell]
    have now : u.timebase = s.timebase := by rw [frame]
    have only := ((onlyRecords_raise u 0xA3 6 (32 * c + k) 0).trans (onlyRecords_count _ .ringStalls 0 c 1)).trans (onlyRecords_log _ 0x0032 6 (32 * c + k)
      (Cell.arrival (State.cell s c) k).tag [32 * c + k, (Cell.arrival (State.cell s c) k).value.toNat, target.toNat, (Cell.waiters (State.cell s c) k).length])
    have alarm := alarmed_raise u 0xA3 6 (32 * c + k) 0
    have before := reports_raise u 0xA3 6 (32 * c + k) 0
    have raised := onlyRecords_raise u 0xA3 6 (32 * c + k) 0
    generalize State.raise u 0xA3 6 (32 * c + k) 0 = v at run only alarm before raised
    have counted := counted_count v .ringStalls 0 c 1 (by decide)
    have between := reports_count v .ringStalls 0 c 1
    have after_count := onlyRecords_count v .ringStalls 0 c 1
    generalize State.count v .ringStalls 0 c 1 = y at run only counted between after_count
    have tail := reports_log y 0x0032 6 (32 * c + k) (Cell.arrival (State.cell s c) k).tag
      [32 * c + k, (Cell.arrival (State.cell s c) k).value.toNat, target.toNat, (Cell.waiters (State.cell s c) k).length]
    have logged := logged_log y 0x0032 6 (32 * c + k) (Cell.arrival (State.cell s c) k).tag
      [32 * c + k, (Cell.arrival (State.cell s c) k).value.toNat, target.toNat, (Cell.waiters (State.cell s c) k).length]
    have stamp : y.timebase = s.timebase := by rw [after_count, raised, now]
    rw [stamp] at logged
    generalize State.log y 0x0032 6 (32 * c + k) (Cell.arrival (State.cell s c) k).tag
      [32 * c + k, (Cell.arrival (State.cell s c) k).value.toNat, target.toNat, (Cell.waiters (State.cell s c) k).length] = t at run only tail logged
    have cells : ∀ d, State.cell t d = State.cell u d := fun d => by unfold State.cell; rw [only]
    refine ⟨t, NMap.mod (State.cell s c).watch k (fun w => { w with fired := true }), run, ?_, ?_, fun d hd => ?_, ?_, fun j hj => ?_,
      alarmed_of now ((between.trans tail).alarmed alarm), ?_, e, he, target, hold, least, logged⟩
    · unfold OnlyRecords at only
      rw [only, frame]
    · rw [cells, cell, if_pos rfl]; rfl
    · rw [cells, cell, if_neg (Ne.symm hd)]
    · rw [NMap.find_mod, if_pos rfl, watched]; rfl
    · rw [NMap.find_mod, if_neg (Ne.symm hj)]
    · have start : Reports [] s u := reports_of_tel (by rw [frame])
      exact (start.trans before).counted_before (by decide) (fun h => nomatch h) (tail.counted_after counted (by decide) fun h => nomatch h)
  · rw [run]
    refine if_pos (quiet.imp_right (Or.imp_right fun early => ?_))
    omega

end Sys2Proof.Machine
end

section
/-!
SUPPORT. A record that is discarded, and traces to the host ring (R532, R536, R537).
-/

namespace Sys2Proof.Machine

/-! ### A discard that is counted and flagged -/

/-- One record is discarded: counted at its source, flagged, and counted for its window. -/
def State.lose (s : State) (c : Counter) (p i b sender kind : Nat) (f : DropCount → DropCount) : State :=
  State.discard (State.flag (State.count s c p i 1) b) sender kind f

/-- What is known once a discard has been counted and flagged (`u`), and recorded. -/
structure Lost (s t : State) (c : Counter) (p i b sender kind logs traces merged : Nat) : Prop where
  only : OnlyRecords s t
  path : ∃ l, Quiet { s.tel with logPath := s.tel.logPath ++ l, alarmPath := t.tel.alarmPath, drops := t.tel.drops, episodes := t.tel.episodes } t.tel
  counted : Claims.counted s t c p i 1
  flag : t.tel.errFlags.testBit b = true
  discarded : Claims.discarded s t sender kind logs traces merged
  reports : Reports [counterKey c p i] s t

theorem lost_discard {s u : State} {c : Counter} {p i b sender kind logs traces merged : Nat} {f : DropCount → DropCount} (hc : Counter.code c ≠ Counter.code .flagEvents)
    (hf : ∀ d, f d = { d with logs := d.logs + logs, traces := d.traces + traces, merged := d.merged + merged }) (only : OnlyRecords s u) (quiet : Quiet s.tel u.tel)
    (counted : Claims.counted s u c p i 1) (flag : u.tel.errFlags.testBit b = true) (reports : Reports [counterKey c p i] s u) :
    Lost s (State.discard u sender kind f) c p i b sender kind logs traces merged := by
  have time : u.timebase = s.timebase := by rw [only]
  have base : u.tel.windowBase = s.tel.windowBase := by rw [quiet]
  have drops : u.tel.drops = s.tel.drops := by rw [quiet]
  have episodes : u.tel.episodes = s.tel.episodes := by rw [quiet]
  have discarded := claims_discarded (s := s) (u := u) (sender := sender) (kind := kind) hf time base drops episodes
  have after := reports_discard u sender kind f
  obtain ⟨path, l, ep, eq, -, -⟩ := State.discard_spec u sender kind f
  generalize State.discard u sender kind f = t at discarded after eq
  have quiet' : Quiet { s.tel with logPath := s.tel.logPath ++ l, alarmPath := t.tel.alarmPath, drops := t.tel.drops, episodes := t.tel.episodes } t.tel := by
    unfold Quiet at *
    rw [eq]
    dsimp only
    rw [quiet]
  have only' : OnlyRecords u t := by rw [eq]; rfl
  exact ⟨only.trans only', ⟨l, quiet'⟩, after.counted_after counted hc (fun h => nomatch h), after.flags b flag, discarded, reports.trans after⟩

theorem lose_spec (s : State) (c : Counter) (p i b sender kind : Nat) {logs traces merged : Nat} {f : DropCount → DropCount} (hc : Counter.code c ≠ Counter.code .flagEvents)
    (hf : ∀ d, f d = { d with logs := d.logs + logs, traces := d.traces + traces, merged := d.merged + merged }) :
    Lost s (State.lose s c p i b sender kind f) c p i b sender kind logs traces merged := by
  have quiet := (quiet_count s c p i 1).trans (quiet_flag _ b)
  have only := (onlyRecords_count s c p i 1).trans (onlyRecords_flag _ b)
  have reports := (reports_count s c p i 1).trans (reports_flag _ b)
  have counted := (reports_flag _ b).counted_after (counted_count s c p i 1 hc) hc (fun h => nomatch h)
  have flag := flag_set (State.count s c p i 1) b
  unfold State.lose
  generalize State.flag (State.count s c p i 1) b = u at quiet only reports counted flag
  exact lost_discard hc hf only quiet counted flag reports

/-! ### TRACE_RECORD -/

section
variable {s : State} {r : TraceRecord}

theorem State.dropTrace_eq (s : State) (sender : Nat) (r : TraceRecord) : State.dropTrace s sender r =
    State.lose s .traceDrop r.source 0 7 sender r.kind (fun d => { d with traces := d.traces + 1 }) := rfl

/-- The records of the source in this millisecond. -/
def State.traceUsed (s : State) : NMap Nat :=
  if Claims.window s 1000000 s.tel.trace.period = Claims.window s 1000000 s.timebase then s.tel.trace.used else []

theorem get_traceUsed (s : State) (k : Nat) : NMap.get (State.traceUsed s) 0 k =
    if Claims.window s 1000000 s.tel.trace.period = Claims.window s 1000000 s.timebase then NMap.get s.tel.trace.used 0 k else 0 := by
  unfold State.traceUsed; split <;> rfl

/-- The record is counted against the limit of its source. -/
def State.traceCounted (s : State) (r : TraceRecord) : State := { s with tel := { s.tel with trace := { s.tel.trace with
  used := NMap.set (State.traceUsed s) 0 r.source (NMap.get (State.traceUsed s) 0 r.source + 1), period := s.timebase } } }

/-- The record and the new write index leave for the host. -/
def State.traceSent (s : State) (r : TraceRecord) : State :=
  let c := s.tel.trace
  { s with
    tel := { s.tel with trace := { c with write := (c.write + 1) % 2 ^ 64 } }
    out := s.out ++ [.hostWrite (c.ringAddr + 64 + 32 * (c.write % TraceConfig.capacity c)) (toBytes 32 (TraceRecord.image r s.timebase)),
      .hostWrite c.ringAddr (toBytes 8 ((c.write + 1) % 2 ^ 64))] }

/-- The two writes, the ring's slot first. -/
theorem emits_traceSent (s : State) (r : TraceRecord) :
    (let c := s.tel.trace
     let u := State.emit (State.emit (State.traceCounted s r) (.hostWrite (c.ringAddr + 64 + 32 * (c.write % TraceConfig.capacity c)) (toBytes 32 (TraceRecord.image r s.timebase))))
       (.hostWrite c.ringAddr (toBytes 8 ((c.write + 1) % 2 ^ 64)))
     { u with tel := { u.tel with trace := { u.tel.trace with write := (c.write + 1) % 2 ^ 64 } } }) = State.traceSent (State.traceCounted s r) r := by
  unfold State.traceSent State.emit
  dsimp only
  rw [List.append_assoc]
  rfl

theorem exec_traceRecord (s : State) (r : TraceRecord) : exec (.traceRecord r) s =
    if !(decide (r.source < 8) && s.tel.trace.mask.testBit r.source) then .next s
    else if s.tel.trace.limits.getD r.source 0 ≤ NMap.get (State.traceUsed s) 0 r.source ∨ State.pathShort s r.kind r.unit then
      .next (State.dropTrace s (sourceRegion r.kind r.unit) r)
    else if TraceConfig.capacity s.tel.trace ≤ (s.tel.trace.write + 2 ^ 64 - s.tel.trace.read) % 2 ^ 64 ∨ !s.host.busMaster then
      .next (State.dropTrace (State.traceCounted s r) 8 r)
    else .next (State.traceSent (State.traceCounted s r) r) := by
  have run : exec (.traceRecord r) s = execTraceRecord r s := rfl
  rw [run]
  unfold execTraceRecord
  exact if_congr Iff.rfl rfl (if_congr Iff.rfl rfl (if_congr Iff.rfl rfl (congrArg Host.Outcome.next (emits_traceSent s r))))

theorem exec_traceRecord_disabled (off : 8 ≤ r.source ∨ s.tel.trace.mask.testBit r.source = false) : exec (.traceRecord r) s = .next s := by
  rw [exec_traceRecord]
  refine if_pos ?_
  obtain far | masked := off
  · rw [decide_eq_false (Nat.not_lt.2 far)]; rfl
  · rw [masked, Bool.and_false]; rfl

theorem exec_traceRecord_short (source : r.source < 8) (on : s.tel.trace.mask.testBit r.source = true)
    (short : s.tel.trace.limits.getD r.source 0 ≤ NMap.get (State.traceUsed s) 0 r.source ∨ Claims.fewCredits s r.kind r.unit) :
    exec (.traceRecord r) s = .next (State.dropTrace s (sourceRegion r.kind r.unit) r) := by
  rw [exec_traceRecord, if_neg (by rw [decide_eq_true source, on]; decide)]
  exact if_pos (short.imp_right (State.pathShort_iff ..).2)

theorem exec_traceRecord_taken (source : r.source < 8) (on : s.tel.trace.mask.testBit r.source = true)
    (under : NMap.get (State.traceUsed s) 0 r.source < s.tel.trace.limits.getD r.source 0) (free : ¬ Claims.fewCredits s r.kind r.unit) :
    exec (.traceRecord r) s =
      if TraceConfig.capacity s.tel.trace ≤ (s.tel.trace.write + 2 ^ 64 - s.tel.trace.read) % 2 ^ 64 ∨ !s.host.busMaster then
        .next (State.dropTrace (State.traceCounted s r) 8 r)
      else .next (State.traceSent (State.traceCounted s r) r) := by
  rw [exec_traceRecord, if_neg (by rw [decide_eq_true source, on]; decide)]
  exact if_neg (not_or.2 ⟨Nat.not_le.2 under, mt (State.pathShort_iff ..).1 free⟩)

theorem traceRecord_short (short : exec (.traceRecord r) s = .next (State.dropTrace s (sourceRegion r.kind r.unit) r)) :
    ∃ t l, exec (.traceRecord r) s = .next t ∧
      Claims.records s t { s.tel with
        logPath := s.tel.logPath ++ l, alarmPath := t.tel.alarmPath, drops := t.tel.drops, episodes := t.tel.episodes, w1cSets := t.tel.w1cSets } ∧
      Claims.counted s t .traceDrop r.source 0 1 ∧ t.tel.errFlags.testBit 7 = true ∧ Claims.discarded s t (sourceRegion r.kind r.unit) r.kind 0 1 0 := by
  rw [State.dropTrace_eq] at short
  obtain ⟨only, ⟨l, quiet⟩, counted, flag, discarded, -⟩ := lose_spec s .traceDrop r.source 0 7 (sourceRegion r.kind r.unit) r.kind
    (f := fun d => { d with traces := d.traces + 1 }) (logs := 0) (traces := 1) (merged := 0) (by decide) fun d => rfl
  exact ⟨_, l, short, claims_records only quiet, counted, flag, discarded⟩

/-- The record leaves for the host ring, or is discarded where that is full or out of reach. -/
theorem traceRecord_taken (source : r.source < 8) (run : exec (.traceRecord r) s =
      if TraceConfig.capacity s.tel.trace ≤ (s.tel.trace.write + 2 ^ 64 - s.tel.trace.read) % 2 ^ 64 ∨ !s.host.busMaster then
        .next (State.dropTrace (State.traceCounted s r) 8 r)
      else .next (State.traceSent (State.traceCounted s r) r)) :
    let c := s.tel.trace
    let cap := (2 ^ c.ringLog2 - 64) / 32
    let room := (c.write + 2 ^ 64 - c.read) % 2 ^ 64 < cap
    ∃ t, exec (.traceRecord r) s = .next t ∧ NMap.get t.tel.trace.used 0 r.source = NMap.get (State.traceUsed s) 0 r.source + 1 ∧ t.tel.trace.period = s.timebase ∧
      (room → s.host.busMaster = true →
        let w := (c.write + 1) % 2 ^ 64
        let image := s.timebase % 2 ^ 64 * 2 ^ 192 + (r.kind % 16 * 2 ^ 16 + r.unit % 2 ^ 16) * 2 ^ 172 + r.source * 2 ^ 168 + r.event.toNat * 2 ^ 160 + r.data.toNat
        t = { s with
          tel := { s.tel with trace := { c with used := t.tel.trace.used, period := s.timebase, write := w } }
          out := s.out ++ [.hostWrite (c.ringAddr + 64 + 32 * (c.write % cap)) (toBytes 32 image), .hostWrite c.ringAddr (toBytes 8 w)] }) ∧
      (¬ room ∨ s.host.busMaster = false → t.out = s.out ∧ t.tel.trace = { c with used := t.tel.trace.used, period := s.timebase } ∧
        Claims.counted s t .traceDrop r.source 0 1 ∧ t.tel.errFlags.testBit 7 = true ∧ Claims.discarded s t 8 r.kind 0 1 0) := by
  have used : NMap.get (State.traceCounted s r).tel.trace.used 0 r.source = NMap.get (State.traceUsed s) 0 r.source + 1 :=
    (NMap.get_set (State.traceUsed s) 0 (NMap.get (State.traceUsed s) 0 r.source + 1) r.source r.source).trans (if_pos rfl)
  by_cases full : TraceConfig.capacity s.tel.trace ≤ (s.tel.trace.write + 2 ^ 64 - s.tel.trace.read) % 2 ^ 64 ∨ (!s.host.busMaster) = true
  · rw [if_pos full, State.dropTrace_eq] at run
    obtain ⟨only, ⟨l, quiet⟩, counted, flag, discarded, -⟩ := lose_spec (State.traceCounted s r) .traceDrop r.source 0 7 8 r.kind
      (f := fun d => { d with traces := d.traces + 1 }) (logs := 0) (traces := 1) (merged := 0) (by decide) fun d => rfl
    generalize State.lose (State.traceCounted s r) .traceDrop r.source 0 7 8 r.kind (fun d => { d with traces := d.traces + 1 }) = t at run only quiet counted flag discarded
    have trace : t.tel.trace = (State.traceCounted s r).tel.trace := by rw [quiet]
    refine ⟨t, run, by rw [trace]; exact used, by rw [trace]; rfl, fun room master => ?_, fun _ => ⟨by rw [only]; rfl, by rw [trace]; rfl, counted, flag, discarded⟩⟩
    obtain full | slave := full
    · exact absurd room (Nat.not_lt.2 full)
    · rw [master] at slave; exact nomatch slave
  · rw [if_neg full] at run
    obtain ⟨room, master⟩ := not_or.1 full
    have master' : s.host.busMaster = true := by simpa using master
    refine ⟨_, run, used, rfl, fun _ _ => ?_, fun out => ?_⟩
    · have image : TraceRecord.image r s.timebase = s.timebase % 2 ^ 64 * 2 ^ 192 + (r.kind % 16 * 2 ^ 16 + r.unit % 2 ^ 16) * 2 ^ 172 + r.source * 2 ^ 168 +
          r.event.toNat * 2 ^ 160 + r.data.toNat := by
        unfold TraceRecord.image; rw [Nat.mod_eq_of_lt (show r.source < 16 by omega)]
      dsimp only
      rw [← image]
      rfl
    · obtain none_ | slave := out
      · exact absurd (Nat.not_le.1 room) none_
      · rw [master'] at slave; exact nomatch slave

end

theorem traces : Claims.traces := by
  refine ⟨fun s r => ?_, fun s v ring master => if_pos ⟨ring, master⟩⟩
  have used := get_traceUsed s r.source
  refine ⟨exec_traceRecord_disabled, fun source on short => ?_, fun source on under free => ?_⟩
  · rw [← used] at short
    exact traceRecord_short (exec_traceRecord_short source on short)
  · rw [← used] at under ⊢
    exact traceRecord_taken source (exec_traceRecord_taken source on under free)

end Sys2Proof.Machine
end

section
/-!
SUPPORT. Log messages reach their buffers, and records the ring (R46, R522, R531 to R533).
-/

namespace Sys2Proof.Machine

/-! ### LOG_MESSAGE -/

section
variable {s : State} {i r : Nat} {m : LogRecord}

theorem logFirst_iff (s : State) (i : Nat) (m : LogRecord) : Telemetry.logFirst s.tel i m = true ↔
    ¬ ∃ j e, j < i ∧ s.tel.logPath[j]? = some e ∧ mgtPath e.2.kind e.2.source = mgtPath m.kind m.source := by
  unfold Telemetry.logFirst
  rw [all_take_iff]
  constructor
  · rintro h ⟨j, e, hj, he, same⟩
    exact of_decide_eq_true (h j e hj he) same
  · intro h j e hj he
    exact decide_eq_true fun same => h ⟨j, e, hj, he, same⟩

/-- The message has left its path. -/
def State.logTaken (s : State) (i : Nat) : State := { s with tel := { s.tel with logPath := s.tel.logPath.eraseIdx i } }

/-- The message waits in the buffer of its region. -/
def State.logKept (s : State) (i r : Nat) (m : LogRecord) : State :=
  { s with tel := { s.tel with logPath := s.tel.logPath.eraseIdx i, buffers := NMap.set s.tel.buffers [] r (NMap.get s.tel.buffers [] r ++ [m]) } }

/-- What the loss record of a full buffer says with one more message. -/
def LossEntry.grown (x : Option LossEntry) (m : LogRecord) : LossEntry :=
  let x := x.getD { count := 0, first := 0, last := 0, written := none }
  { x with count := x.count + 1, first := if x.count = 0 then m.stamp else x.first, last := m.stamp }

/-- The loss of a message is noted for its buffer. -/
def State.lossNoted (s : State) (r : Nat) (m : LogRecord) : State :=
  { s with tel := { s.tel with losses := NMap.insert s.tel.losses r (LossEntry.grown (NMap.find s.tel.losses r) m) } }

/-- A message that is first of its path and comes to its controller. -/
theorem exec_logMessage_first (there : s.tel.logPath[i]? = some (r, m))
    (first : ¬ ∃ j e, j < i ∧ s.tel.logPath[j]? = some e ∧ mgtPath e.2.kind e.2.source = mgtPath m.kind m.source) :
    exec (.logMessage r i) s =
      if 8 ≤ r then .next (State.logKept s i r m)
      else if !State.mgtCredit s m.kind m.source then .next (State.dropLog (State.logTaken s i) r m)
      else if (NMap.get s.tel.buffers [] r).length < 1024 then .next (State.logKept s i r m)
      else .next (State.dropLog (State.lossNoted (State.logTaken s i) r m) r m) := by
  have run : exec (.logMessage r i) s = execLogMessage r i s := rfl
  unfold execLogMessage at run
  rw [there] at run
  have early := (logFirst_iff s i m).2 first
  refine run.trans ((if_neg ?_).trans rfl)
  rw [early]
  exact not_or.2 ⟨fun h => h rfl, fun h => nomatch h⟩

theorem exec_logMessage_ahead (there : s.tel.logPath[i]? = some (r, m))
    (ahead : ∃ j e, j < i ∧ s.tel.logPath[j]? = some e ∧ mgtPath e.2.kind e.2.source = mgtPath m.kind m.source) : exec (.logMessage r i) s = .next s := by
  have run : exec (.logMessage r i) s = execLogMessage r i s := rfl
  unfold execLogMessage at run
  rw [there] at run
  have late : Telemetry.logFirst s.tel i m = false := Bool.eq_false_iff.2 fun h => (logFirst_iff s i m).1 h ahead
  exact run.trans (if_pos (.inr (by rw [late]; rfl)))

theorem exec_logMessage_other (there : s.tel.logPath[i]? = some (r, m)) {q : Nat} (other : q ≠ r) : exec (.logMessage q i) s = .next s := by
  have run : exec (.logMessage q i) s = execLogMessage q i s := rfl
  unfold execLogMessage at run
  rw [there] at run
  exact run.trans (if_pos (.inl (Ne.symm other)))

theorem State.dropLog_eq (s : State) (r : Nat) (m : LogRecord) :
    State.dropLog s r m = State.lose s .logDrop m.kind r 6 r m.kind (fun d => { d with logs := d.logs + 1 }) := rfl

/-- What is known of a message that has been discarded, `u` being the state as it was taken. -/
theorem lost_dropLog (u : State) (r : Nat) (m : LogRecord) : Lost u (State.dropLog u r m) .logDrop m.kind r 6 r m.kind 1 0 0 := by
  rw [State.dropLog_eq]
  exact lose_spec u .logDrop m.kind r 6 r m.kind (by decide) fun d => rfl

/-- A message that is kept. -/
theorem logMessage_kept (run : exec (.logMessage r i) s = .next (State.logKept s i r m)) : ∃ t, exec (.logMessage r i) s = .next t ∧
    t = { s with tel := { s.tel with logPath := s.tel.logPath.eraseIdx i, buffers := t.tel.buffers } } ∧
    NMap.get t.tel.buffers [] r = NMap.get s.tel.buffers [] r ++ [m] ∧ ∀ q, q ≠ r → NMap.get t.tel.buffers [] q = NMap.get s.tel.buffers [] q :=
  ⟨_, run, rfl, (NMap.get_set ..).trans (if_pos rfl), fun _ hq => (NMap.get_set ..).trans (if_neg (Ne.symm hq))⟩

/-- A message that is discarded, `u` being the state as it was taken. -/
theorem logMessage_lost {u : State} {free : Prop} (run : exec (.logMessage r i) s = .next (State.dropLog u r m))
    (taken : u = { s with tel := { s.tel with logPath := s.tel.logPath.eraseIdx i, losses := u.tel.losses } }) (short : ¬ free → u.tel.losses = s.tel.losses)
    (full : free → (∀ q, q ≠ r → NMap.find u.tel.losses q = NMap.find s.tel.losses q) ∧ ∃ x, NMap.find u.tel.losses r = some x ∧ x.last = m.stamp ∧
      (∀ y, NMap.find s.tel.losses r = some y → x.count = y.count + 1 ∧ x.written = y.written ∧ x.first = (if y.count = 0 then m.stamp else y.first)) ∧
      (NMap.find s.tel.losses r = none → x.count = 1 ∧ x.written = none ∧ x.first = m.stamp)) :
    ∃ t l, exec (.logMessage r i) s = .next t ∧
      Claims.records s t { s.tel with
        logPath := s.tel.logPath.eraseIdx i ++ l, alarmPath := t.tel.alarmPath, drops := t.tel.drops, episodes := t.tel.episodes, losses := t.tel.losses
        w1cSets := t.tel.w1cSets } ∧
      Claims.counted s t .logDrop m.kind r 1 ∧ t.tel.errFlags.testBit 6 = true ∧ Claims.discarded s t r m.kind 1 0 0 ∧
      (¬ free → t.tel.losses = s.tel.losses) ∧
      (free → (∀ q, q ≠ r → NMap.find t.tel.losses q = NMap.find s.tel.losses q) ∧ ∃ x, NMap.find t.tel.losses r = some x ∧ x.last = m.stamp ∧
        (∀ y, NMap.find s.tel.losses r = some y → x.count = y.count + 1 ∧ x.written = y.written ∧ x.first = (if y.count = 0 then m.stamp else y.first)) ∧
        (NMap.find s.tel.losses r = none → x.count = 1 ∧ x.written = none ∧ x.first = m.stamp)) := by
  obtain ⟨only, ⟨l, quiet⟩, counted, flag, discarded, -⟩ := lost_dropLog u r m
  generalize State.dropLog u r m = t at run only quiet counted flag discarded
  have losses : t.tel.losses = u.tel.losses := by rw [quiet]
  have counted' : Claims.counted s t .logDrop m.kind r 1 := by rw [taken] at counted; exact counted
  have discarded' : Claims.discarded s t r m.kind 1 0 0 := by rw [taken] at discarded; exact discarded
  have first : OnlyRecords s u := by rw [taken]; rfl
  refine ⟨t, l, run, claims_records (first.trans only) ?_, counted', flag, discarded', fun h => losses.trans (short h), fun h => ?_⟩
  · unfold Quiet at *
    rw [quiet, taken]
  · rw [losses]; exact full h

theorem lossNoted_spec (s : State) (r : Nat) (m : LogRecord) : let u := State.lossNoted s r m
    (∀ q, q ≠ r → NMap.find u.tel.losses q = NMap.find s.tel.losses q) ∧ ∃ x, NMap.find u.tel.losses r = some x ∧ x.last = m.stamp ∧
      (∀ y, NMap.find s.tel.losses r = some y → x.count = y.count + 1 ∧ x.written = y.written ∧ x.first = (if y.count = 0 then m.stamp else y.first)) ∧
      (NMap.find s.tel.losses r = none → x.count = 1 ∧ x.written = none ∧ x.first = m.stamp) := by
  refine ⟨fun q hq => (NMap.find_insert ..).trans (if_neg (Ne.symm hq)), LossEntry.grown (NMap.find s.tel.losses r) m,
    (NMap.find_insert ..).trans (if_pos rfl), rfl, fun y hy => ?_, fun none_ => ?_⟩
  · rw [hy]; exact ⟨rfl, rfl, rfl⟩
  · rw [none_]; exact ⟨rfl, rfl, rfl⟩

end

/-- R46, R532, R533: LOG_MESSAGE. -/
theorem logMessages (s : State) (i r : Nat) (m : LogRecord) (there : s.tel.logPath[i]? = some (r, m)) :
    let b := NMap.get s.tel.buffers [] r
    let ahead := ∃ j e, j < i ∧ s.tel.logPath[j]? = some e ∧ mgtPath e.2.kind e.2.source = mgtPath m.kind m.source
    let free := Claims.mgtFree s m.kind m.source
    (ahead → exec (.logMessage r i) s = .next s) ∧ (∀ q, q ≠ r → exec (.logMessage q i) s = .next s) ∧
    (¬ ahead → 8 ≤ r ∨ (free ∧ b.length < 1024) → ∃ t, exec (.logMessage r i) s = .next t ∧
      t = { s with tel := { s.tel with logPath := s.tel.logPath.eraseIdx i, buffers := t.tel.buffers } } ∧
      NMap.get t.tel.buffers [] r = b ++ [m] ∧ ∀ q, q ≠ r → NMap.get t.tel.buffers [] q = NMap.get s.tel.buffers [] q) ∧
    (¬ ahead → r < 8 → ¬ free ∨ 1024 ≤ b.length → ∃ t l, exec (.logMessage r i) s = .next t ∧
      Claims.records s t { s.tel with
        logPath := s.tel.logPath.eraseIdx i ++ l, alarmPath := t.tel.alarmPath, drops := t.tel.drops, episodes := t.tel.episodes, losses := t.tel.losses
        w1cSets := t.tel.w1cSets } ∧
      Claims.counted s t .logDrop m.kind r 1 ∧ t.tel.errFlags.testBit 6 = true ∧ Claims.discarded s t r m.kind 1 0 0 ∧
      (¬ free → t.tel.losses = s.tel.losses) ∧
      (free → (∀ q, q ≠ r → NMap.find t.tel.losses q = NMap.find s.tel.losses q) ∧ ∃ x, NMap.find t.tel.losses r = some x ∧ x.last = m.stamp ∧
        (∀ y, NMap.find s.tel.losses r = some y → x.count = y.count + 1 ∧ x.written = y.written ∧ x.first = (if y.count = 0 then m.stamp else y.first)) ∧
        (NMap.find s.tel.losses r = none → x.count = 1 ∧ x.written = none ∧ x.first = m.stamp))) := by
  have credit := State.mgtCredit_iff s m.kind m.source
  refine ⟨exec_logMessage_ahead there, fun q hq => exec_logMessage_other there hq, fun first keep => ?_, fun first near lost => ?_⟩
  · refine logMessage_kept ((exec_logMessage_first there first).trans ?_)
    obtain far | ⟨free, room⟩ := keep
    · exact if_pos far
    · rw [credit.2 free, if_pos room]
      split <;> rfl
  · have run := (exec_logMessage_first there first).trans (if_neg (Nat.not_le.2 near))
    by_cases free : Claims.mgtFree s m.kind m.source
    · have full : ¬ (NMap.get s.tel.buffers [] r).length < 1024 := Nat.not_lt.2 (lost.resolve_left fun h => h free)
      rw [credit.2 free, if_neg (show ¬ (!true) = true from fun h => nomatch h), if_neg full] at run
      exact logMessage_lost run rfl (fun h => absurd free h) fun _ => lossNoted_spec (State.logTaken s i) r m
    · have none_ : State.mgtCredit s m.kind m.source = false := Bool.eq_false_iff.2 (mt credit.1 free)
      rw [none_, if_pos (show (!false) = true from rfl)] at run
      exact logMessage_lost run rfl (fun _ => rfl) fun h => absurd h free

/-! ### Records in the ring -/

theorem State.logServes_iff (s : State) (r : Nat) : State.logServes s r = true ↔ Claims.ringServes s r := by
  unfold State.logServes Claims.ringServes
  rw [Bool.and_eq_true, Bool.not_eq_true']

theorem State.logging_iff (s : State) : State.logging s = true ↔ Claims.logging s := by
  unfold State.logging Claims.logging
  rw [Bool.or_eq_true, decide_eq_true_iff, decide_eq_true_iff]

/-- A record has been written with the next sequence number. -/
structure Appended (s t : State) (r : LogRecord) : Prop where
  only : OnlyRecords s t
  quiet : Quiet { s.tel with logNext := s.tel.logNext + 1, logRing := t.tel.logRing } t.tel
  slot : Claims.inSlot s t s.tel.logNext r
  others : ∀ j, j ≠ s.tel.logNext % 2 ^ 20 → NMap.find t.tel.logRing j = NMap.find s.tel.logRing j
  counted : Claims.counted s t .logRecords 0 0 1
  reports : Reports [counterKey .logRecords 0 0] s t

/-- The record lies in its slot. -/
def State.slotted (s : State) (r : LogRecord) : State :=
  { s with tel := { s.tel with
    logRing := if State.logServes s (s.tel.logNext % 2 ^ 20 / 2 ^ 17) then NMap.insert s.tel.logRing (s.tel.logNext % 2 ^ 20) (s.tel.logNext, r)
      else NMap.erase s.tel.logRing (s.tel.logNext % 2 ^ 20)
    logNext := s.tel.logNext + 1 } }

theorem State.appendLog_eq (s : State) (r : LogRecord) : State.appendLog s r = State.count (State.slotted s r) .logRecords 0 0 1 := rfl

theorem slotted_ring (s : State) (r : LogRecord) : Claims.inSlot s (State.slotted s r) s.tel.logNext r ∧
    ∀ j, j ≠ s.tel.logNext % 2 ^ 20 → NMap.find (State.slotted s r).tel.logRing j = NMap.find s.tel.logRing j := by
  unfold State.slotted Claims.inSlot
  dsimp only
  by_cases serves : Claims.ringServes s (s.tel.logNext % 2 ^ 20 / 2 ^ 17)
  · rw [if_pos ((State.logServes_iff ..).2 serves)]
    exact ⟨⟨fun _ => (NMap.find_insert ..).trans (if_pos rfl), fun h => absurd serves h⟩, fun j hj => (NMap.find_insert ..).trans (if_neg (Ne.symm hj))⟩
  · rw [if_neg (mt (State.logServes_iff ..).1 serves)]
    exact ⟨⟨fun h => absurd h serves, fun _ => (NMap.find_erase ..).trans (if_pos rfl)⟩, fun j hj => (NMap.find_erase ..).trans (if_neg (Ne.symm hj))⟩

theorem appended (s : State) (r : LogRecord) : Appended s (State.appendLog s r) r := by
  rw [State.appendLog_eq]
  obtain ⟨slot, others⟩ := slotted_ring s r
  have before : Reports [] s (State.slotted s r) := reports_of_same rfl (fun _ h => h) rfl
  have first : State.slotted s r = { s with tel := { s.tel with logNext := s.tel.logNext + 1, logRing := (State.slotted s r).tel.logRing } } := rfl
  generalize State.slotted s r = u at slot others before first
  have quiet := quiet_count u .logRecords 0 0 1
  have only := onlyRecords_count u .logRecords 0 0 1
  have counted := counted_count u .logRecords 0 0 1 (by decide)
  have reports := reports_count u .logRecords 0 0 1
  generalize State.count u .logRecords 0 0 1 = t at quiet only counted reports
  have ring : t.tel.logRing = u.tel.logRing := by rw [quiet]
  have only' : OnlyRecords s u := by rw [first]; rfl
  refine ⟨only'.trans only, ?_, ?_, ?_, before.counted_before (by decide) (fun h => nomatch h) counted, before.trans reports⟩
  · unfold Quiet at *
    rw [ring, quiet, first]
  · unfold Claims.inSlot
    rw [ring]
    exact slot
  · rw [ring]
    exact others

/-! ### LOG_RECORD_WRITE -/

section
variable {s : State} {k r : Nat} {m : LogRecord} {rest : List LogRecord}

/-- The buffer whose turn it is, is the first that is not empty. -/
theorem turn_eq (hk : k < 9) (hr : r = (s.tel.nextBuffer + k) % 9) (before : ∀ i, i < k → NMap.get s.tel.buffers [] ((s.tel.nextBuffer + i) % 9) = [])
    (there : NMap.get s.tel.buffers [] r = m :: rest) : Telemetry.turn s.tel s.tel.nextBuffer = some r := by
  have first : (List.range 9).find? (fun i => decide (NMap.get s.tel.buffers [] ((s.tel.nextBuffer + i) % 9) ≠ [])) = some k := by
    rw [List.find?_range_eq_some]
    refine ⟨?_, List.mem_range.2 hk, fun j hj => ?_⟩
    · rw [← hr, there]; rfl
    · rw [before j hj]; rfl
  unfold Telemetry.turn
  rw [List.find?_map]
  exact (congrArg (Option.map fun i => (s.tel.nextBuffer + i) % 9) first).trans (congrArg some hr.symm)

theorem exec_logRecordWrite_other (turn : Telemetry.turn s.tel s.tel.nextBuffer = some r) {q : Nat} (other : q ≠ r) : exec (.logRecordWrite q) s = .next s := by
  have run : exec (.logRecordWrite q) s = execLogRecordWrite q s := rfl
  unfold execLogRecordWrite at run
  refine run.trans (if_pos (.inl ?_))
  rw [turn]
  exact fun h => other (Option.some.inj h).symm

theorem exec_logRecordWrite_early (early : ¬ Claims.logging s) : exec (.logRecordWrite r) s = .next s := by
  have run : exec (.logRecordWrite r) s = execLogRecordWrite r s := rfl
  unfold execLogRecordWrite at run
  refine run.trans (if_pos (.inr ?_))
  rw [Bool.eq_false_iff.2 (mt (State.logging_iff s).1 early)]
  rfl

/-- The oldest record of the buffer leaves it. -/
def State.bufferTaken (s : State) (r : Nat) (rest : List LogRecord) : State :=
  { s with tel := { s.tel with buffers := NMap.set s.tel.buffers [] r rest, nextBuffer := (r + 1) % 9 } }

theorem exec_logRecordWrite (turn : Telemetry.turn s.tel s.tel.nextBuffer = some r) (there : NMap.get s.tel.buffers [] r = m :: rest) (on : Claims.logging s) :
    exec (.logRecordWrite r) s = .next (State.appendLog (State.bufferTaken s r rest) m) := by
  have run : exec (.logRecordWrite r) s = execLogRecordWrite r s := rfl
  unfold execLogRecordWrite at run
  rw [there, turn, (State.logging_iff s).2 on, if_neg (not_or.2 ⟨fun h => h rfl, fun h => nomatch h⟩)] at run
  exact run

end

/-- R531, R532: LOG_RECORD_WRITE. -/
theorem logRecordWrites (s : State) (k r : Nat) (m : LogRecord) (rest : List LogRecord) (hk : k < 9) (hr : r = (s.tel.nextBuffer + k) % 9)
    (before : ∀ i, i < k → NMap.get s.tel.buffers [] ((s.tel.nextBuffer + i) % 9) = []) (there : NMap.get s.tel.buffers [] r = m :: rest) :
    (Claims.logging s → ∃ t, exec (.logRecordWrite r) s = .next t ∧
      Claims.records s t { s.tel with
        buffers := t.tel.buffers, nextBuffer := (r + 1) % 9, logNext := s.tel.logNext + 1, logRing := t.tel.logRing } ∧
      NMap.get t.tel.buffers [] r = rest ∧ (∀ q, q ≠ r → NMap.get t.tel.buffers [] q = NMap.get s.tel.buffers [] q) ∧
      Claims.inSlot s t s.tel.logNext m ∧ (∀ j, j ≠ s.tel.logNext % 2 ^ 20 → NMap.find t.tel.logRing j = NMap.find s.tel.logRing j) ∧
      Claims.counted s t .logRecords 0 0 1) ∧
    (∀ q, q ≠ r → exec (.logRecordWrite q) s = .next s) ∧ (¬ Claims.logging s → exec (.logRecordWrite r) s = .next s) := by
  have turn := turn_eq hk hr before there
  refine ⟨fun on => ?_, fun q hq => exec_logRecordWrite_other turn hq, exec_logRecordWrite_early⟩
  have run := exec_logRecordWrite turn there on
  obtain ⟨only, quiet, slot, others, counted, -⟩ := appended (State.bufferTaken s r rest) m
  generalize State.appendLog (State.bufferTaken s r rest) m = t at run only quiet slot others counted
  have buffers : t.tel.buffers = NMap.set s.tel.buffers [] r rest := by rw [quiet]; rfl
  have quiet' : Quiet { s.tel with buffers := t.tel.buffers, nextBuffer := (r + 1) % 9, logNext := s.tel.logNext + 1, logRing := t.tel.logRing } t.tel := by
    rw [buffers]; exact quiet
  refine ⟨t, run, claims_records (OnlyRecords.trans (t := State.bufferTaken s r rest) rfl only) quiet', ?_, fun q hq => ?_, slot, others, counted⟩
  · rw [buffers]; exact (NMap.get_set ..).trans (if_pos rfl)
  · rw [buffers]; exact (NMap.get_set ..).trans (if_neg (Ne.symm hq))

/-! ### LOSS_RECORD_WRITE -/

section
variable {s : State} {r : Nat} {x : LossEntry}

/-- The losses of the buffer have been written. -/
def State.lossTaken (s : State) (r : Nat) (x : LossEntry) : State :=
  { s with tel := { s.tel with losses := NMap.insert s.tel.losses r { x with count := 0, written := some s.timebase } } }

theorem exec_lossRecordWrite (there : NMap.find s.tel.losses r = some x) : exec (.lossRecordWrite r) s =
    if x.count = 0 ∨ x.written.elim false (fun t => decide (s.timebase < t + 1000000)) = true ∨ (!State.logging s) = true then .next s
    else .next (State.appendLog (State.lossTaken s r x)
      { stamp := s.timebase, type := 0x0001, kind := 1, source := r, job := 0, d := [x.count, x.first, x.last] }) := by
  have run : exec (.lossRecordWrite r) s = execLossRecordWrite r s := rfl
  unfold execLossRecordWrite at run
  rw [there] at run
  exact run

theorem written_early_iff (now : Stamp) (w : Option Stamp) : w.elim false (fun t => decide (now < t + 1000000)) = true ↔ ∃ t0, w = some t0 ∧ now < t0 + 1000000 := by
  cases w with
  | none => exact ⟨(nomatch ·), fun ⟨_, h, _⟩ => nomatch h⟩
  | some t0 => exact ⟨fun h => ⟨t0, rfl, of_decide_eq_true h⟩, fun ⟨u, h, early⟩ => decide_eq_true (by rw [Option.some.inj h]; exact early)⟩

end

/-- R533: LOSS_RECORD_WRITE. -/
theorem lossRecordWrites (s : State) (r : Nat) (x : LossEntry) (there : NMap.find s.tel.losses r = some x) :
    (0 < x.count → (∀ t0, x.written = some t0 → t0 + 1000000 ≤ s.timebase) → Claims.logging s → ∃ t, exec (.lossRecordWrite r) s = .next t ∧
      Claims.records s t { s.tel with losses := t.tel.losses, logNext := s.tel.logNext + 1, logRing := t.tel.logRing } ∧
      NMap.find t.tel.losses r = some { x with count := 0, written := some s.timebase } ∧
      (∀ q, q ≠ r → NMap.find t.tel.losses q = NMap.find s.tel.losses q) ∧
      Claims.inSlot s t s.tel.logNext { stamp := s.timebase, type := 0x0001, kind := 1, source := r, job := 0, d := [x.count, x.first, x.last] } ∧
      (∀ j, j ≠ s.tel.logNext % 2 ^ 20 → NMap.find t.tel.logRing j = NMap.find s.tel.logRing j) ∧ Claims.counted s t .logRecords 0 0 1) ∧
    (x.count = 0 ∨ (∃ t0, x.written = some t0 ∧ s.timebase < t0 + 1000000) → exec (.lossRecordWrite r) s = .next s) := by
  have run := exec_lossRecordWrite there
  refine ⟨fun some_ late on => ?_, fun none_ => run.trans (if_pos (none_.imp_right fun early => .inl ((written_early_iff ..).2 early)))⟩
  have due : ¬ (x.count = 0 ∨ x.written.elim false (fun t => decide (s.timebase < t + 1000000)) = true ∨ (!State.logging s) = true) := by
    rw [(State.logging_iff s).2 on, written_early_iff]
    rintro (zero | ⟨t0, written, early⟩ | off)
    · omega
    · exact absurd (late t0 written) (Int.not_le.2 early)
    · exact nomatch off
  rw [if_neg due] at run
  obtain ⟨only, quiet, slot, others, counted, -⟩ :=
    appended (State.lossTaken s r x) { stamp := s.timebase, type := 0x0001, kind := 1, source := r, job := 0, d := [x.count, x.first, x.last] }
  generalize State.appendLog (State.lossTaken s r x) _ = t at run only quiet slot others counted
  have losses : t.tel.losses = NMap.insert s.tel.losses r { x with count := 0, written := some s.timebase } := by rw [quiet]; rfl
  have quiet' : Quiet { s.tel with losses := t.tel.losses, logNext := s.tel.logNext + 1, logRing := t.tel.logRing } t.tel := by
    rw [losses]; exact quiet
  refine ⟨t, run, claims_records (OnlyRecords.trans (t := State.lossTaken s r x) rfl only) quiet', ?_, fun q hq => ?_, slot, others, counted⟩
  · rw [losses]; exact (NMap.find_insert ..).trans (if_pos rfl)
  · rw [losses]; exact (NMap.find_insert ..).trans (if_neg (Ne.symm hq))

end Sys2Proof.Machine
end

section
/-!
SUPPORT. Summaries of what a sender has discarded (R538).
-/

namespace Sys2Proof.Machine

theorem nodup_dedupe {α : Type} [BEq α] [LawfulBEq α] (l : List α) : (dedupe l).Nodup := by
  have gather : ∀ (l a : List α), a.Nodup → (l.foldl (fun a x => if a.contains x then a else x :: a) a).Nodup := by
    intro l
    induction l with
    | nil => exact fun _ h => h
    | cons y l ih =>
      intro a h
      rw [List.foldl_cons]
      refine ih _ ?_
      by_cases mem : y ∈ a
      · rw [if_pos (List.contains_iff_mem.2 mem)]; exact h
      · rw [if_neg (mt List.contains_iff_mem.1 mem)]; exact List.nodup_cons.2 ⟨mem, h⟩
  exact List.nodup_reverse.2 (gather l [] List.nodup_nil)

/-! ### One summary -/

/-- What a summary of kind `k` says of the records `l` of a sender at `src`. -/
def State.summaryOf (s : State) (src : Nat × Nat) (l : List (Nat × DropCount)) (k : Nat) : LogRecord :=
  let x := DropCount.total ((l.filter (fun e => decide (e.1 % 16 = k))).map (·.2))
  { stamp := s.timebase, type := 0x0003, kind := src.1, source := src.2, job := 0
    d := [(10000000 * (x.start : Int) + s.tel.windowBase).toNat, k, x.logs, x.traces, x.merged] }

/-- A summary is written and counted. -/
def State.summarise (src : Nat × Nat) (l : List (Nat × DropCount)) (s : State) (k : Nat) : State :=
  State.count (State.appendLog s (State.summaryOf s src l k)) .summaries 0 0 1

/-- `n` records have been written from `s` to `t`, as summaries. -/
structure Summarised (n : Nat) (s t : State) : Prop where
  only : OnlyRecords s t
  quiet : Quiet { s.tel with logNext := s.tel.logNext + n, logRing := t.tel.logRing } t.tel
  others : ∀ j, (∀ i, i < n → j ≠ (s.tel.logNext + i) % 2 ^ 20) → NMap.find t.tel.logRing j = NMap.find s.tel.logRing j
  uncounted : n = 0 → Claims.counter t .summaries 0 0 = Claims.counter s .summaries 0 0
  counted : 0 < n → Claims.counted s t .summaries 0 0 n

theorem Summarised.refl (s : State) : Summarised 0 s s := ⟨rfl, rfl, fun _ _ => rfl, fun _ => rfl, (nomatch ·)⟩

theorem Summarised.next {n : Nat} {s t : State} (h : Summarised n s t) : t.tel.logNext = s.tel.logNext + n := by rw [h.quiet]

theorem Summarised.trans {n m : Nat} {s t u : State} (h : Summarised n s t) (k : Summarised m t u) : Summarised (n + m) s u where
  only := h.only.trans k.only
  quiet := by
    have first := h.quiet
    have second := k.quiet
    unfold Quiet at *
    rw [second, first, Nat.add_assoc]
  others := fun j out => by
    have next : t.tel.logNext = s.tel.logNext + n := h.next
    rw [k.others j fun i hi => by rw [next, Nat.add_assoc]; exact out (n + i) (by omega), h.others j fun i hi => out i (by omega)]
  uncounted := fun zero => (k.uncounted (by omega)).trans (h.uncounted (by omega))
  counted := fun pos => by
    obtain rfl | hn := Nat.eq_zero_or_pos n
    · have both := k.counted (by omega)
      unfold Claims.counted at *
      rw [both, h.uncounted rfl, Nat.zero_add]
    · obtain rfl | hm := Nat.eq_zero_or_pos m
      · have both := h.counted hn
        unfold Claims.counted at *
        rw [k.uncounted rfl, both, Nat.add_zero]
      · exact counted_add (h.counted hn) (k.counted hm)

theorem summarised_one (src : Nat × Nat) (l : List (Nat × DropCount)) (s : State) (k : Nat) :
    Summarised 1 s (State.summarise src l s k) ∧ Claims.inSlot s (State.summarise src l s k) s.tel.logNext (State.summaryOf s src l k) := by
  unfold State.summarise
  obtain ⟨only, quiet, slot, others, -, reports⟩ := appended s (State.summaryOf s src l k)
  generalize State.appendLog s (State.summaryOf s src l k) = u at only quiet slot others reports
  have quiet' := quiet_count u .summaries 0 0 1
  have only' := onlyRecords_count u .summaries 0 0 1
  have counted := counted_count u .summaries 0 0 1 (by decide)
  generalize State.count u .summaries 0 0 1 = t at quiet' only' counted
  have ring : t.tel.logRing = u.tel.logRing := by rw [quiet']
  refine ⟨⟨only.trans only', ?_, fun j out => ?_, (nomatch ·), fun _ => reports.counted_before (by decide) ?_ counted⟩, ?_⟩
  · unfold Quiet at *
    rw [ring, quiet', quiet]
  · rw [ring]; exact others j (out 0 Nat.one_pos)
  · exact fun h => counterKey_ne (by decide) _ _ _ _ (List.mem_singleton.1 h)
  · unfold Claims.inSlot
    rw [ring]
    exact slot

/-! ### All of them -/

/-- A record in a slot stays there while other slots are written. -/
theorem Summarised.keeps {n m : Nat} {s t u : State} {r : LogRecord} (h : Summarised n t u) (slot : Claims.inSlot s t m r) (out : ∀ i, i < n → m % 2 ^ 20 ≠ (t.tel.logNext + i) % 2 ^ 20) :
    Claims.inSlot s u m r := by
  unfold Claims.inSlot at *
  rw [h.others _ out]
  exact slot

/-- The summaries of the kinds `ks`, of which there are fewer than slots. -/
theorem summarised_all (src : Nat × Nat) (l : List (Nat × DropCount)) : ∀ (ks : List Nat) (s : State), ks.length ≤ 16 → let t := ks.foldl (State.summarise src l) s
    Summarised ks.length s t ∧ ∀ i k, ks[i]? = some k → Claims.inSlot s t (s.tel.logNext + i) (State.summaryOf s src l k) := by
  intro ks
  induction ks with
  | nil => exact fun s _ => ⟨Summarised.refl s, fun i k h => nomatch h⟩
  | cons a ks ih =>
    intro s few
    rw [List.length_cons] at few
    obtain ⟨one, slot⟩ := summarised_one src l s a
    have same : ∀ k, State.summaryOf (State.summarise src l s a) src l k = State.summaryOf s src l k := fun k => by
      have base : (State.summarise src l s a).tel.windowBase = s.tel.windowBase := by rw [one.quiet]
      have time : (State.summarise src l s a).timebase = s.timebase := by rw [one.only]
      unfold State.summaryOf
      rw [base, time]
    have serves : ∀ n t r, Claims.inSlot (State.summarise src l s a) t n r → Claims.inSlot s t n r := fun n t r h => by
      rw [one.only] at h; exact h
    obtain ⟨rest, slots⟩ := ih (State.summarise src l s a) (by omega)
    rw [List.foldl_cons]
    generalize State.summarise src l s a = u at one slot same serves rest slots
    have next : u.tel.logNext = s.tel.logNext + 1 := one.next
    refine ⟨?_, fun i k hk => ?_⟩
    · rw [List.length_cons, Nat.add_comm]
      exact one.trans rest
    · cases i with
      | zero =>
        obtain rfl := Option.some.inj hk
        refine rest.keeps slot fun i hi => ?_
        rw [next]
        omega
      | succ i =>
        have later := slots i k (by rwa [List.getElem?_cons_succ] at hk)
        rw [next, same, Nat.add_assoc, Nat.add_comm 1 i] at later
        exact serves _ _ _ later

/-! ### What a summary says -/

/-- A total starts with the first of the windows it takes in. -/
theorem total_start {l : List (Nat × DropCount)} (some_ : l ≠ []) :
    (∃ e ∈ l, e.2.start = (DropCount.total (l.map (·.2))).start) ∧ ∀ e ∈ l, (DropCount.total (l.map (·.2))).start ≤ e.2.start := by
  have least : ∀ (l : List DropCount) (a : Nat), let m := l.foldl (fun a x => min a x.start) a
      (m = a ∨ ∃ x ∈ l, x.start = m) ∧ m ≤ a ∧ ∀ x ∈ l, m ≤ x.start := by
    intro l
    induction l with
    | nil => exact fun a => ⟨.inl rfl, Nat.le_refl a, fun x h => nomatch h⟩
    | cons y l ih =>
      intro a
      obtain ⟨found, low, below⟩ := ih (min a y.start)
      rw [List.foldl_cons]
      generalize l.foldl (fun a x => min a x.start) (min a y.start) = m at found low below
      refine ⟨?_, by omega, List.forall_mem_cons.2 ⟨by omega, below⟩⟩
      obtain first | ⟨x, mem, start⟩ := found
      · by_cases smaller : a ≤ y.start
        · exact .inl (by omega)
        · exact .inr ⟨y, List.mem_cons_self, by omega⟩
      · exact .inr ⟨x, List.mem_cons_of_mem _ mem, start⟩
  obtain _ | ⟨e, l⟩ := l
  · exact absurd rfl some_
  · obtain ⟨found, -, below⟩ := least ((e :: l).map (·.2)) e.2.start
    refine ⟨?_, fun x hx => below x.2 (List.mem_map_of_mem hx)⟩
    obtain first | ⟨x, mem, start⟩ := found
    · exact ⟨e, List.mem_cons_self, first.symm⟩
    · obtain ⟨y, there, rfl⟩ := List.mem_map.1 mem
      exact ⟨y, there, start⟩

theorem summaryOf_eq (s : State) (src : Nat × Nat) (l : List (Nat × DropCount)) (k : Nat) : let of := l.filter (fun e => decide (e.1 % 16 = k))
    State.summaryOf s src l k = { stamp := s.timebase, type := 0x0003, kind := src.1, source := src.2, job := 0
                                  d := [(10000000 * ((DropCount.total (of.map (·.2))).start : Int) + s.tel.windowBase).toNat, k,
                                    (of.map (fun e => e.2.logs)).foldl (· + ·) 0, (of.map (fun e => e.2.traces)).foldl (· + ·) 0,
                                    (of.map (fun e => e.2.merged)).foldl (· + ·) 0] } := by
  unfold State.summaryOf DropCount.total
  dsimp only
  rw [List.foldl_map, List.foldl_map, List.foldl_map, List.foldl_map, List.foldl_map, List.foldl_map, List.foldl_map]

/-! ### SUMMARY_WINDOW_END -/

section
variable {s : State} {n : Nat}

/-- What the sender has discarded in windows that have ended. -/
def State.endedDrops (s : State) (n : Nat) : List (Nat × DropCount) :=
  s.tel.drops.filter (fun e => decide (e.1 % 256 / 16 = n) && decide (e.1 / 256 < Claims.window s 10000000 s.timebase))

/-- The sender's window ends. -/
def State.windowTaken (s : State) (n : Nat) : State :=
  { s with tel := { s.tel with windows := NMap.insert s.tel.windows n (Claims.window s 10000000 s.timebase) } }

/-- What its summaries take in is no longer kept. -/
def State.dropsTaken (s : State) (n : Nat) : State :=
  { s with tel := { s.tel with
    windows := NMap.insert s.tel.windows n (Claims.window s 10000000 s.timebase)
    drops := s.tel.drops.filter (fun e => !(State.endedDrops s n).contains e) } }

theorem exec_summaryWindowEnd (hn : n < 9) (due : NMap.get s.tel.windows 0 n < Claims.window s 10000000 s.timebase) (on : Claims.logging s) :
    exec (.summaryWindowEnd n) s =
      if (State.endedDrops s n).isEmpty then
        .next (if s.tel.drops.any (fun e => decide (e.1 % 256 / 16 = n)) then State.windowTaken s n
          else State.endEpisode (State.windowTaken s n) 0xE1 (senderSource n).1 (senderSource n).2 0)
      else if n < 8 ∧ (!State.mgtCredit s 1 n) = true then .next s
      else .next ((dedupe ((State.endedDrops s n).map (fun e => e.1 % 16))).foldl (State.summarise (senderSource n) (State.endedDrops s n)) (State.dropsTaken s n)) := by
  have run : exec (.summaryWindowEnd n) s = execSummaryWindowEnd n s := rfl
  unfold execSummaryWindowEnd at run
  refine run.trans (if_neg ?_)
  rw [(State.logging_iff s).2 on]
  rintro (far | early | off)
  · omega
  · exact absurd due (Nat.not_lt.2 early)
  · exact nomatch off

theorem summaryWindow_quiet (none_ : State.endedDrops s n = []) (hn : n < 9) (due : NMap.get s.tel.windows 0 n < Claims.window s 10000000 s.timebase) (on : Claims.logging s) :
    ∃ t, exec (.summaryWindowEnd n) s = .next t ∧
      t = { s with tel := { s.tel with windows := NMap.insert s.tel.windows n (Claims.window s 10000000 s.timebase), episodes := t.tel.episodes } } ∧
      ((∃ e ∈ s.tel.drops, e.1 % 256 / 16 = n) → t.tel.episodes = s.tel.episodes) ∧
      ((∀ e ∈ s.tel.drops, ¬ e.1 % 256 / 16 = n) → ∀ e, e ∈ t.tel.episodes ↔ e ∈ s.tel.episodes ∧ e ≠ (0xE1, (senderSource n).1, (senderSource n).2, 0)) := by
  have run := (exec_summaryWindowEnd hn due on).trans (if_pos (by rw [none_]; rfl))
  by_cases mine : s.tel.drops.any (fun e => decide (e.1 % 256 / 16 = n)) = true
  · rw [if_pos mine] at run
    obtain ⟨e, mem, own⟩ := List.any_eq_true.1 mine
    exact ⟨_, run, rfl, fun _ => rfl, fun h => absurd (of_decide_eq_true own) (h e mem)⟩
  · rw [if_neg mine] at run
    refine ⟨_, run, rfl, fun ⟨e, mem, own⟩ => absurd (List.any_eq_true.2 ⟨e, mem, decide_eq_true own⟩) mine, fun _ e => ?_⟩
    exact List.mem_filter.trans (and_congr_right fun _ => decide_eq_true_iff)

theorem summaryWindow_waits (some_ : State.endedDrops s n ≠ []) (own : n ≠ 8) (short : ¬ Claims.mgtFree s 1 n) (hn : n < 9)
    (due : NMap.get s.tel.windows 0 n < Claims.window s 10000000 s.timebase) (on : Claims.logging s) : exec (.summaryWindowEnd n) s = .next s := by
  refine (exec_summaryWindowEnd hn due on).trans ((if_neg (mt List.isEmpty_iff.1 some_)).trans (if_pos ⟨by omega, ?_⟩))
  rw [Bool.eq_false_iff.2 (mt (State.mgtCredit_iff s 1 n).1 short)]
  rfl

theorem exec_summaryWindowEnd_sends (some_ : State.endedDrops s n ≠ []) (free : n = 8 ∨ Claims.mgtFree s 1 n) (hn : n < 9)
    (due : NMap.get s.tel.windows 0 n < Claims.window s 10000000 s.timebase) (on : Claims.logging s) : exec (.summaryWindowEnd n) s =
      .next ((dedupe ((State.endedDrops s n).map (fun e => e.1 % 16))).foldl (State.summarise (senderSource n) (State.endedDrops s n)) (State.dropsTaken s n)) := by
  refine (exec_summaryWindowEnd hn due on).trans ((if_neg (mt List.isEmpty_iff.1 some_)).trans (if_neg ?_))
  rintro ⟨region, short⟩
  rw [(State.mgtCredit_iff s 1 n).2 (free.resolve_left (by omega))] at short
  exact nomatch short

/-- A sender has at most 16 kinds. -/
theorem length_kinds (l : List (Nat × DropCount)) : (dedupe (l.map (fun e => e.1 % 16))).length ≤ 16 := by
  refine (List.Nodup.subperm (nodup_dedupe _) fun k hk => ?_).length_le.trans_eq (List.length_range (n := 16))
  obtain ⟨e, -, rfl⟩ := List.mem_map.1 ((mem_dedupe ..).1 hk)
  exact List.mem_range.2 (Nat.mod_lt _ (by decide))

theorem summaryWindow_sends (some_ : State.endedDrops s n ≠ []) (free : n = 8 ∨ Claims.mgtFree s 1 n) (hn : n < 9)
    (due : NMap.get s.tel.windows 0 n < Claims.window s 10000000 s.timebase) (on : Claims.logging s) :
    let ended := State.endedDrops s n
    let kinds := dedupe (ended.map (fun e => e.1 % 16))
    let of (k : Nat) := ended.filter (fun e => decide (e.1 % 16 = k))
    let src := senderSource n
    ∃ t, exec (.summaryWindowEnd n) s = .next t ∧
      Claims.records s t { s.tel with
        windows := NMap.insert s.tel.windows n (Claims.window s 10000000 s.timebase), drops := t.tel.drops, logNext := s.tel.logNext + kinds.length
        logRing := t.tel.logRing, w1cSets := t.tel.w1cSets } ∧
      (∀ e, e ∈ t.tel.drops ↔ e ∈ s.tel.drops ∧ e ∉ ended) ∧ Claims.counted s t .summaries 0 0 kinds.length ∧
      ∀ (i k : Nat), kinds[i]? = some k → ∃ start, (∃ e ∈ of k, e.2.start = start) ∧ (∀ e ∈ of k, start ≤ e.2.start) ∧
        Claims.inSlot s t (s.tel.logNext + i)
          { stamp := s.timebase, type := 0x0003, kind := src.1, source := src.2, job := 0
            d := [(10000000 * (start : Int) + s.tel.windowBase).toNat, k, ((of k).map (fun e => e.2.logs)).foldl (· + ·) 0,
              ((of k).map (fun e => e.2.traces)).foldl (· + ·) 0, ((of k).map (fun e => e.2.merged)).foldl (· + ·) 0] } := by
  intro ended kinds of src
  have run := exec_summaryWindowEnd_sends some_ free hn due on
  obtain ⟨sums, slots⟩ := summarised_all src ended kinds (State.dropsTaken s n) (length_kinds ended)
  have pos : 0 < kinds.length := by
    obtain ⟨e, mem⟩ := List.exists_mem_of_ne_nil _ some_
    exact List.length_pos_of_mem ((mem_dedupe ..).2 (List.mem_map_of_mem mem))
  obtain ⟨only, quiet, -, -, counted⟩ := sums
  change exec (.summaryWindowEnd n) s = .next (kinds.foldl (State.summarise src ended) (State.dropsTaken s n)) at run
  generalize kinds.foldl (State.summarise src ended) (State.dropsTaken s n) = t at run only quiet counted slots
  have drops : t.tel.drops = s.tel.drops.filter (fun e => !ended.contains e) := by rw [quiet]; rfl
  have quiet' : Quiet { s.tel with
      windows := NMap.insert s.tel.windows n (Claims.window s 10000000 s.timebase), drops := t.tel.drops, logNext := s.tel.logNext + kinds.length
      logRing := t.tel.logRing, w1cSets := t.tel.w1cSets } t.tel := by rw [drops]; exact quiet
  refine ⟨t, run, claims_records (OnlyRecords.trans (t := State.dropsTaken s n) rfl only) quiet', fun e => ?_, counted pos, fun i k hk => ?_⟩
  · rw [drops, List.mem_filter, Bool.not_eq_true', ← Bool.not_eq_true, List.contains_iff_mem]
  · have kind : of k ≠ [] := by
      obtain ⟨e, mem, same⟩ := List.mem_map.1 ((mem_dedupe ..).1 (List.mem_of_getElem? hk))
      exact List.ne_nil_of_mem (List.mem_filter.2 ⟨mem, decide_eq_true same⟩)
    obtain ⟨found, least⟩ := total_start kind
    have slot := slots i k hk
    rw [summaryOf_eq] at slot
    exact ⟨_, found, least, slot⟩

end

theorem logs : Claims.logs := by
  refine ⟨logMessages, logRecordWrites, lossRecordWrites, fun s n => ?_⟩
  intro now src mine ended kinds of hn due on
  exact ⟨fun none_ => summaryWindow_quiet none_ hn due on, fun some_ free => summaryWindow_sends some_ free hn due on,
    fun some_ own short => summaryWindow_waits some_ own short hn due on⟩

end Sys2Proof.Machine
end

section
/-!
SUPPORT. Fences of blocks, and the responses that come back to them (R24, R30, R31, R519).
-/

namespace Sys2Proof.Machine

/-! ### The cells of a list, each changed once -/

theorem modCells_spec (f : Cell → Cell) : ∀ (l : List Nat) (s : State), l.Nodup → let t := l.foldl (fun s c => State.modCell s c f) s
    t = { s with cells := t.cells } ∧ ∀ c, State.cell t c = if c ∈ l then f (State.cell s c) else State.cell s c := by
  intro l
  induction l with
  | nil => exact fun s _ => ⟨rfl, fun c => rfl⟩
  | cons a l ih =>
    intro s once
    obtain ⟨fresh, once'⟩ := List.nodup_cons.1 once
    obtain ⟨frame, cells⟩ := ih (State.modCell s a f) once'
    refine ⟨frame, fun c => (cells c).trans ?_⟩
    rw [State.cell_modCell]
    by_cases here : a = c
    · subst here
      rw [if_neg fresh, if_pos rfl, if_pos List.mem_cons_self]
    · rw [if_neg here]
      exact if_congr (by rw [List.mem_cons, or_iff_right (Ne.symm here)]) rfl rfl

theorem mem_blockCells (b c : Nat) : c ∈ blockCells b ↔ c / 6 = b := by
  unfold blockCells tabulate
  rw [List.mem_map]
  constructor
  · rintro ⟨i, hi, rfl⟩
    rw [List.mem_range] at hi
    omega
  · rintro rfl
    exact ⟨c % 6, List.mem_range.2 (Nat.mod_lt _ (by decide)), Nat.div_add_mod c 6⟩

theorem nodup_blockCells (b : Nat) : (blockCells b).Nodup :=
  List.Nodup.map_on (fun i _ j _ h => by omega) List.nodup_range

/-! ### What has no credit -/

theorem claims_ungranted_eq (b : Nat) (q : HomeRequest) : (HomeSource.ofBlock q.source b && decide (q.stage = .cell)) = Claims.ungranted b q := by
  unfold HomeSource.ofBlock HomeSource.cell? Claims.ungranted
  rw [Bool.and_comm]
  cases q.source with
  | cell c slot => rfl
  | copy c slot => rfl
  | _ => rfl

theorem State.ungranted_eq (s : State) (b : Nat) : State.ungranted s b = s.homeQueue.filter (fun e => Claims.ungranted b e.2) := by
  unfold State.ungranted
  exact congrArg (s.homeQueue.filter ·) (funext fun e => claims_ungranted_eq b e.2)

theorem isStore_home (q : HomeBody) : HomeBody.isStore q = match q with
    | .read _ => false
    | .granuleRead _ => false
    | _ => true := by
  cases q with
  | _ => rfl

theorem homeStores_eq (l : NMap HomeRequest) : (l.filter (fun e => HomeBody.isStore e.2.body)).length = Claims.homeStores l := by
  unfold Claims.homeStores
  refine congrArg (fun p => (l.filter p).length) (funext fun e => ?_)
  rw [isStore_home] <;> rfl

theorem heldStores_eq (l : NMap HeldPacket) : (l.filter (fun e => RequestBody.isStore e.2.packet.body)).length = Claims.heldStores l := by
  unfold Claims.heldStores RequestBody.isStore
  rfl

theorem heldDropped_dropHeld (x : Cell) : Claims.heldDropped x (Cell.dropHeld x) := by
  have gone : ∀ n, (x.held.filterMap (fun e => e.2.miss)).contains n = true ↔ ∃ h ∈ x.held, h.2.miss = some n := fun n => by
    rw [List.contains_iff_mem, List.mem_filterMap]
  refine ⟨rfl, fun m => ?_, fun a => ?_⟩
  · refine List.mem_filter.trans (and_congr_right fun _ => ?_)
    rw [Bool.not_eq_true', ← Bool.not_eq_true, gone]
    exact ⟨fun h e he same => h ⟨e, he, same⟩, fun h ⟨e, he, same⟩ => h e he same⟩
  · refine List.mem_filter.trans (and_congr_right fun _ => ?_)
    rw [Bool.and_eq_true, and_comm, Option.isNone_iff_eq_none, List.all_eq_true]
    refine and_congr_right fun _ => ⟨fun h e he m same mem => ?_, fun h w hw => ?_⟩
    · have kept := h m mem
      rw [(gone m).2 ⟨e, he, same⟩] at kept
      exact nomatch kept
    · rw [Bool.not_eq_true', ← Bool.not_eq_true, gone]
      rintro ⟨e, he, same⟩
      exact h e he w same hw

/-! ### The fence of a block -/

/-- The block is fenced and what had no credit is gone, but nothing has been reported. -/
def State.blockLost (s : State) (b : Nat) (cell : Option Nat) : State :=
  (blockCells b).foldl (fun s c => State.modCell s c Cell.dropHeld)
    { State.setBlock s b { State.block s b with fenced := true, failedCell := cell } with
      homeQueue := s.homeQueue.filter (fun e => (NMap.find (State.ungranted s b) e.1).isNone) }

theorem blockLost_spec (s : State) (b : Nat) (cell : Option Nat) : let t := State.blockLost s b cell
    t = { s with blocks := t.blocks, cells := t.cells, homeQueue := t.homeQueue } ∧
      State.block t b = { State.block s b with fenced := true, failedCell := cell } ∧ (∀ c, c ≠ b → State.block t c = State.block s c) ∧
      (∀ c, (c / 6 = b → Claims.heldDropped (State.cell s c) (State.cell t c)) ∧ (c / 6 ≠ b → State.cell t c = State.cell s c)) ∧
      ∀ e, e ∈ t.homeQueue ↔ e ∈ s.homeQueue ∧ ¬ ∃ d ∈ s.homeQueue, d.1 = e.1 ∧ Claims.ungranted b d.2 = true := by
  unfold State.blockLost
  generalize hu : ({ State.setBlock s b { State.block s b with fenced := true, failedCell := cell } with
      homeQueue := s.homeQueue.filter (fun e => (NMap.find (State.ungranted s b) e.1).isNone) } : State) = u
  obtain ⟨frame, cells⟩ := modCells_spec Cell.dropHeld (blockCells b) u (nodup_blockCells b)
  have block : ∀ c, State.block u c = if b = c then { State.block s b with fenced := true, failedCell := cell } else State.block s c := fun c => by
    rw [← hu]
    exact (State.block_congr (t := State.setBlock s b { State.block s b with fenced := true, failedCell := cell }) rfl c).trans (State.block_setBlock s b c _)
  have cell_ : ∀ c, State.cell u c = State.cell s c := fun c => by rw [← hu]; rfl
  have queue : u.homeQueue = s.homeQueue.filter (fun e => (NMap.find (State.ungranted s b) e.1).isNone) := by rw [← hu]
  have only : u = { s with blocks := u.blocks, homeQueue := u.homeQueue } := by rw [← hu]; rfl
  generalize (blockCells b).foldl (fun s c => State.modCell s c Cell.dropHeld) u = t at frame cells
  have blocks : ∀ c, State.block t c = State.block u c := fun c => by rw [frame]; rfl
  have queue' : t.homeQueue = u.homeQueue := by rw [frame]
  refine ⟨?_, (blocks b).trans ((block b).trans (if_pos rfl)), fun c hc => (blocks c).trans ((block c).trans (if_neg (Ne.symm hc))), fun c => ⟨fun here => ?_, fun off => ?_⟩,
    fun e => ?_⟩
  · rw [frame, only]
  · rw [cells, if_pos ((mem_blockCells b c).2 here), cell_]
    exact heldDropped_dropHeld _
  · rw [cells, if_neg (mt (mem_blockCells b c).1 off), cell_]
  · rw [queue', queue, List.mem_filter]
    refine and_congr_right fun _ => ?_
    rw [Option.isNone_iff_eq_none, ← Option.not_isSome_iff_eq_none, ← NMap.mem_keys_iff, State.ungranted_eq, List.mem_map]
    refine not_congr ⟨fun ⟨d, hd, key⟩ => ?_, fun ⟨d, hd, key, short⟩ => ⟨d, List.mem_filter.2 ⟨hd, short⟩, key⟩⟩
    obtain ⟨mem, short⟩ := List.mem_filter.1 hd
    exact ⟨d, mem, key, short⟩

/-- DETAIL of BLOCK_FENCE. -/
def State.fenceDetail (s : State) (b : Nat) (cell : Option Nat) : Nat :=
  cell.getD 0 + (Claims.homeStores (s.homeQueue.filter (fun e => Claims.ungranted b e.2)) +
    ((List.range 6).map (fun i => Claims.heldStores (State.cell s (6 * b + i)).held)).foldl (· + ·) 0) * 2 ^ 32

theorem State.fenceBlock_eq {s : State} {b : Nat} (serves : (State.block s b).fenced = false) (cell : Option Nat) :
    State.fenceBlock s b cell = State.recoveryEvent (State.raise (State.blockLost s b cell) 0x62 2 b (State.fenceDetail s b cell)) 8 := by
  have detail : cell.getD 0 + (((State.ungranted s b).filter (fun e => HomeBody.isStore e.2.body)).length +
      ((blockCells b).map (fun c => ((State.cell s c).held.filter (fun e => RequestBody.isStore e.2.packet.body)).length)).foldl (· + ·) 0) * 2 ^ 32 =
      State.fenceDetail s b cell := by
    unfold State.fenceDetail blockCells tabulate
    rw [homeStores_eq, State.ungranted_eq, List.map_map]
    refine congrArg (fun f => cell.getD 0 + (_ + ((List.range 6).map f).foldl (· + ·) 0) * 2 ^ 32) (funext fun i => ?_)
    exact heldStores_eq _
  rw [← detail]
  unfold State.fenceBlock
  exact if_neg (by rw [serves]; exact fun h => nomatch h)

theorem State.fenceBlock_fenced {s : State} {b : Nat} (fenced : (State.block s b).fenced = true) (cell : Option Nat) : State.fenceBlock s b cell = s := by
  unfold State.fenceBlock
  exact if_pos fenced

theorem recoveryEvent_flags (s : State) : (State.recoveryEvent s 8).tel.errFlags.testBit 10 = true ∧ (State.recoveryEvent s 8).tel.errFlags.testBit 11 = true := by
  have eq : State.recoveryEvent s 8 = State.flag (State.flag (State.count s .recoveryEvents 8 0 1) 10) 11 := by
    unfold State.recoveryEvent
    rfl
  rw [eq]
  exact ⟨(reports_flag _ 11).flags 10 (flag_set _ 10), flag_set _ 11⟩

theorem blockFenced_fenceBlock {s : State} {b : Nat} (serves : (State.block s b).fenced = false) (cell : Option Nat) :
    Claims.blockFenced s (State.fenceBlock s b cell) b cell := by
  rw [State.fenceBlock_eq serves]
  obtain ⟨frame, block, blocks, cells, queue⟩ := blockLost_spec s b cell
  generalize State.blockLost s b cell = u at frame block blocks cells queue
  have alarm := alarmed_raise u 0x62 2 b (State.fenceDetail s b cell)
  have quiet := (reports_raise u 0x62 2 b (State.fenceDetail s b cell))
  have only := onlyRecords_raise u 0x62 2 b (State.fenceDetail s b cell)
  generalize State.raise u 0x62 2 b (State.fenceDetail s b cell) = v at alarm quiet only
  have counted := counted_recoveryEvent v 8
  have later := reports_recoveryEvent v 8
  obtain ⟨flag10, flag11⟩ := recoveryEvent_flags v
  have only' := only.trans (onlyRecords_recoveryEvent v 8)
  generalize State.recoveryEvent v 8 = t at counted later flag10 flag11 only'
  have before : Reports [] s u := reports_of_tel (by rw [frame])
  have alarm' : Claims.alarmed s t 0x62 2 b (State.fenceDetail s b cell) := alarmed_of (t := u) (by rw [frame]) (later.alarmed alarm)
  have counted' : Claims.counted s t .recoveryEvents 8 0 1 := (before.trans quiet).counted_before (by decide) (fun h => nomatch h) counted
  have whole : t = { s with blocks := t.blocks, cells := t.cells, homeQueue := t.homeQueue, tel := t.tel } := by rw [only', frame]
  have blocks' : ∀ c, State.block t c = State.block u c := State.block_congr (by rw [only'])
  have cells' : ∀ c, State.cell t c = State.cell u c := State.cell_congr (by rw [only'])
  have queue' : t.homeQueue = u.homeQueue := by rw [only']
  refine ⟨whole, (blocks' b).trans block, fun c hc => (blocks' c).trans (blocks c hc), fun c => ?_, fun e => ?_, alarm', counted', flag10, flag11⟩
  · rw [cells']; exact cells c
  · rw [queue']; exact queue e

/-! ### FENCED_RESPONSE -/

theorem exec_fencedResponse {s : State} {c id : Nat} {m : Miss} (there : NMap.find (State.cell s c).misses id = some m) : exec (.fencedResponse c id) s =
    if ((State.block s (c / 6)).fenced && m.answer.isSome) = true then
      .next (State.modCell s c (fun x => { x with misses := NMap.erase x.misses id, accesses := x.accesses.filter (fun e => !e.2.waits.contains id) }))
    else .next s := by
  have run : exec (.fencedResponse c id) s = execFencedResponse c id s := rfl
  unfold execFencedResponse at run
  rw [there] at run
  exact run

/-- R30: FENCED_RESPONSE. -/
theorem fencedResponses (s : State) (c id : Nat) (m : Miss) (there : NMap.find (State.cell s c).misses id = some m) : let x := State.cell s c
    ((State.block s (c / 6)).fenced = true → m.answer ≠ none → ∃ t y, exec (.fencedResponse c id) s = .next t ∧ t = { s with cells := t.cells } ∧
      State.cell t c = y ∧ (∀ d, d ≠ c → State.cell t d = State.cell s d) ∧ y = { x with misses := y.misses, accesses := y.accesses } ∧
      NMap.find y.misses id = none ∧ (∀ k, k ≠ id → NMap.find y.misses k = NMap.find x.misses k) ∧
      ∀ e, e ∈ y.accesses ↔ e ∈ x.accesses ∧ id ∉ e.2.waits) ∧
    ((State.block s (c / 6)).fenced = false → exec (.fencedResponse c id) s = .next s) := by
  refine ⟨fun fenced answered => ?_, fun serves => ?_⟩
  · have run := (exec_fencedResponse there).trans (if_pos (by rw [fenced, Option.isSome_iff_ne_none.2 answered]; rfl))
    refine ⟨_, _, run, rfl, (State.cell_modCell ..).trans (if_pos rfl), fun d hd => (State.cell_modCell ..).trans (if_neg (Ne.symm hd)), rfl,
      (NMap.find_erase ..).trans (if_pos rfl), fun k hk => (NMap.find_erase ..).trans (if_neg (Ne.symm hk)), fun e => ?_⟩
    refine List.mem_filter.trans (and_congr_right fun _ => ?_)
    rw [Bool.not_eq_true', ← Bool.not_eq_true, List.contains_iff_mem]
  · exact (exec_fencedResponse there).trans (if_neg (by rw [serves]; exact fun h => nomatch h))

/-! ### UNCONTAINED_CELL_FAILURE, BLOCK_PARITY_FAILURE -/

theorem exec_uncontainedCellFailure (s : State) {c : Nat} (hc : c < 384) : exec (.uncontainedCellFailure c) s = .next (State.fenceBlock s (c / 6) (some c)) := by
  have run : exec (.uncontainedCellFailure c) s = execUncontainedCellFailure c s := rfl
  exact run.trans (if_pos hc)

theorem exec_blockParityFailure (s : State) {b : Nat} (hb : b < 64) : exec (.blockParityFailure b) s = .next (State.fenceBlock s b none) := by
  have run : exec (.blockParityFailure b) s = execBlockParityFailure b s := rfl
  exact run.trans (if_pos hb)

/-- R30, R31, R519: a block that serves is fenced, a fenced one stays as it is. -/
theorem blockFence {s : State} {b : Nat} {cell : Option Nat} {i : Instr} (run : exec i s = .next (State.fenceBlock s b cell)) :
    ((State.block s b).fenced = false → ∃ t, exec i s = .next t ∧ Claims.blockFenced s t b cell) ∧
    ((State.block s b).fenced = true → exec i s = .next s) :=
  ⟨fun serves => ⟨_, run, blockFenced_fenceBlock serves cell⟩, fun fenced => run.trans (by rw [State.fenceBlock_fenced fenced])⟩

end Sys2Proof.Machine
end

section
/-!
SUPPORT. What is on its way to the log stays on its way while requests move, are performed and are answered (R46).
-/

namespace Sys2Proof.Machine

/-- The log record is on its way. -/
def Sent (e : Nat × LogRecord) (s : State) : Prop := e ∈ s.tel.logPath

section
variable {e : Nat × LogRecord} {s t : State}

theorem Sent.of_tel (h : Sent e s) (tel : t.tel = s.tel) : Sent e t := by unfold Sent; rw [tel]; exact h

theorem Sent.of_reports {keys : List Nat} (h : Sent e s) (r : Reports keys s t) : Sent e t := r.sent e h

theorem Sent.count (h : Sent e s) (c : Counter) (p i n : Nat) : Sent e (State.count s c p i n) := h.of_reports (reports_count ..)

theorem Sent.log (h : Sent e s) (y k o : Nat) (j : Half) (d : List Nat) : Sent e (State.log s y k o j d) := h.of_reports (reports_log ..)

theorem Sent.ite {p : Prop} [Decidable p] (hs : Sent e s) (ht : Sent e t) : Sent e (if p then s else t) := by
  split
  · exact hs
  · exact ht

theorem Sent.setRegion (h : Sent e s) (r : Nat) (x : Region) : Sent e (State.setRegion s r x) := h.of_tel rfl
theorem Sent.setBlock (h : Sent e s) (b : Nat) (x : Block) : Sent e (State.setBlock s b x) := h.of_tel rfl
theorem Sent.setCell (h : Sent e s) (c : Nat) (x : Cell) : Sent e (State.setCell s c x) := h.of_tel rfl
theorem Sent.modCell (h : Sent e s) (c : Nat) (f : Cell → Cell) : Sent e (State.modCell s c f) := h.of_tel rfl

/-- A count that is made only where there is something to count. -/
theorem Sent.countIf (h : Sent e s) (p : Prop) [Decidable p] (c : Counter) (q i n : Nat) : Sent e (if p then s else State.count s c q i n) :=
  h.ite (h.count ..)

/-- What keeps the record in every step keeps it in a fold. -/
theorem Sent.foldl {α : Type} (h : Sent e s) (f : State → α → State) (l : List α) (step : ∀ s a, Sent e s → Sent e (f s a)) : Sent e (l.foldl f s) :=
  foldl_keeps (Sent e) f step l s h

/-! ### Requests of cells on their way home -/

theorem Sent.spoil (h : Sent e s) (c : Nat) (rs : List (Nat × Nat)) : Sent e (State.spoil s c rs) := by
  unfold State.spoil
  split
  · exact h
  · exact h.of_tel rfl

theorem Sent.splitUnit (h : Sent e s) (id : Nat) (q : HomeRequest) (st : RequestStage) : Sent e (State.splitUnit s id q st).1 := by
  unfold State.splitUnit
  cases q.source with
  | copy c k => exact h.of_tel rfl
  | _ => exact h.of_tel rfl

theorem Sent.cross (h : Sent e s) (id : Nat) (q : HomeRequest) (r : Nat) : Sent e (State.cross s id q r) := by
  unfold State.cross
  dsimp only
  split
  · exact h
  · refine Sent.foldl ?_ _ _ (fun t i ht => ht.of_tel rfl)
    split
    · exact h.splitUnit ..
    · exact h.of_tel rfl

theorem Sent.passCaches (h : Sent e s) (c fa : Nat) (part : NMap Byte) (poison : Bool) : Sent e (State.passCaches s c fa part poison) := h.of_tel rfl

theorem Sent.passAtomic (h : Sent e s) (c fa : Nat) : Sent e (State.passAtomic s c fa) := h.of_tel rfl

theorem Sent.passBody (h : Sent e s) (c : Nat) (q : HomeRequest) : Sent e (State.passBody s c q) := by
  unfold State.passBody
  cases q.body with
  | write i bs bad => exact h.passCaches ..
  | atomic op signed size lanes => exact h.passAtomic ..
  | _ => exact h

theorem Sent.leaveCell (h : Sent e s) (id : Nat) : Sent e (State.leaveCell s id) := by
  unfold State.leaveCell
  split
  · exact h
  · next q _ =>
    split
    · exact h
    · next c _ =>
      dsimp only
      split
      · split
        · exact h.of_tel rfl
        · exact (h.passBody c q).of_tel rfl
      · exact h

theorem Sent.grantBlock (n b : Nat) (k : TrafficClass) (h : Sent e s) : Sent e (State.grantBlock n s b k) := by
  induction n generalizing s with
  | zero => exact h
  | succ n ih =>
    rw [State.grantBlock]
    dsimp only
    split
    · exact h
    · split
      · exact h
      · split
        · exact ih (h.of_tel rfl)
        · exact h

theorem Sent.grantPackage (h : Sent e s) : Sent e (State.grantPackage s) := by
  refine h.foldl _ _ fun t x ht => ?_
  split
  · exact ht
  · split
    · exact ht
    · split
      · exact ht.cross ..
      · exact ht

theorem Sent.grantRound (h : Sent e s) : Sent e (State.grantRound s) := by
  unfold State.grantRound
  dsimp only
  refine Sent.foldl (h.grantPackage.foldl _ _ fun t b ht => ?_) _ _ fun t x ht => ht.leaveCell x.1
  exact Sent.grantBlock _ b .req (Sent.grantBlock _ b .cpy ht)

theorem Sent.grantUpTo (n : Nat) (h : Sent e s) : Sent e (State.grantUpTo n s) := by
  induction n generalizing s with
  | zero => exact h
  | succ n ih =>
    rw [State.grantUpTo]
    exact h.ite (ih h.grantRound)

theorem Sent.grant (h : Sent e s) : Sent e (State.grant s) := Sent.grantUpTo _ h

/-! ### What cells hold -/

theorem Sent.passRequest (h : Sent e s) (c m : Nat) (b : RequestBody) : Sent e (State.passRequest s c m b) := by
  unfold State.passRequest
  cases b with
  | store a mask bs poison =>
    refine h.foldl _ _ fun t k ht => ?_
    dsimp only
    split
    · exact ht
    · exact ht.passCaches ..
  | put a mask bs poison d =>
    refine h.foldl _ _ fun t k ht => ?_
    dsimp only
    split
    · exact ht
    · exact ht.passCaches ..
  | atomic op signed size lanes => exact h.passAtomic ..
  | _ => exact h

theorem Sent.emitUnless {p : Prop} [Decidable p] (h : Sent e s) (o : Output) : Sent e (if p then s else State.emit s o) := h.ite (h.of_tel rfl)

theorem Sent.transmit (h : Sent e s) {c slot op : Nat} {q : RequestPacket} {miss copy : Option Nat} (run : State.transmit s c slot op q miss copy = some t) : Sent e t := by
  unfold State.transmit at run
  dsimp only at run
  split at run
  · exact nomatch run
  · obtain rfl := Option.some.inj run
    have passed : ∀ x, Sent e (State.passRequest (State.setRegion s (regionOf c) x) c q.destination q.body) := fun x => (h.setRegion ..).passRequest ..
    refine Sent.emitUnless (Sent.ite (passed _) ?_) _
    split
    · exact passed _
    · exact (passed _).of_tel rfl

theorem Sent.storeLocal (h : Sent e s) (c : Nat) (bytes : NMap (Byte × Bool)) (touched : List (Nat × Nat)) : Sent e (State.storeLocal s c bytes touched) :=
  (h.modCell c _).spoil ..

theorem Sent.atomicLocal (h : Sent e s) (c : Nat) (op : AtomicOp) (signed : Bool) (size : Nat) (lanes : List AtomicLane) :
    Sent e (State.atomicLocal s c op signed size lanes).1 := by
  unfold State.atomicLocal
  dsimp only
  refine Sent.countIf (Sent.spoil ?_ ..) ..
  exact (h.spoil c _).of_tel rfl

theorem Sent.releaseLocal (h : Sent e s) (c id : Nat) (x : HeldLocal) : Sent e (State.releaseLocal s c id x) := by
  unfold State.releaseLocal
  dsimp only
  split
  · split
    · exact (h.modCell c _).storeLocal ..
    · exact ((h.modCell c _).atomicLocal ..).of_tel rfl
  · exact h

theorem Sent.releasePacket (h : Sent e s) (c id : Nat) (x : HeldPacket) : Sent e (State.releasePacket s c id x) := by
  unfold State.releasePacket
  dsimp only
  split
  · exact h
  · cases run : State.transmit (State.modCell s c (fun x => { x with held := NMap.erase x.held id })) c x.slot x.op x.packet x.miss none with
    | none => exact h
    | some u => exact (h.modCell c _).transmit run

theorem Sent.flushOnce (h : Sent e s) (c : Nat) : Sent e (State.flushOnce s c) := by
  have own : Sent e _ := h.foldl (fun s x => State.releaseLocal s c x.1 x.2) (State.cell s c).heldLocal fun t x ht => ht.releaseLocal c x.1 x.2
  exact own.foldl _ _ fun t x ht => ht.releasePacket c x.1 x.2

theorem Sent.flushUpTo (n c : Nat) (h : Sent e s) : Sent e (State.flushUpTo n s c) := by
  induction n generalizing s with
  | zero => exact h
  | succ n ih =>
    rw [State.flushUpTo]
    exact Sent.ite (ih (h.grant.flushOnce c)) (h.grant.flushOnce c)

theorem Sent.flushHeld (h : Sent e s) (c : Nat) : Sent e (State.flushHeld s c) := Sent.flushUpTo _ c h

theorem Sent.moveOn (h : Sent e s) (p : Nat → Bool) : Sent e (State.moveOn s p) := by
  refine h.grant.foldl _ _ fun t x ht => ?_
  split
  · exact ht.flushHeld x.1
  · exact ht

/-! ### Answers to requests to other modules -/

theorem Sent.setGroup (h : Sent e s) (g : GroupLoc) (x : Group) : Sent e (State.setGroup s g x) := h.of_tel rfl

theorem Sent.openFetches (h : Sent e s) (before : State) (c miss : Nat) : Sent e (State.openFetches before s c miss) := by
  refine h.foldl _ _ fun t x ht => ?_
  split
  · split
    · exact ht.of_tel rfl
    · exact ht
  · exact ht

theorem Sent.copyRead (h : Sent e s) {c : Nat} {k : CopySlot} {space : Nat} {start : Int} {n : Nat} {a : State × List Byte × List Bool}
    (run : State.copyRead s c k space start n = some a) : Sent e a.1 := by
  unfold State.copyRead at run
  dsimp only at run
  split at run
  · obtain rfl := Option.some.inj run
    exact (h.spoil c _).of_tel rfl
  · split at run
    · obtain rfl := Option.some.inj run
      exact h.of_tel rfl
    · exact nomatch run

theorem Sent.copyWrite (h : Sent e s) (c slot space : Nat) (start : Int) (bs : List Byte) (marks : List Bool) : Sent e (State.copyWrite s c slot space start bs marks) := by
  unfold State.copyWrite
  dsimp only
  split
  · exact (h.modCell c _).spoil ..
  · exact h.of_tel rfl

theorem Sent.copyCounts (h : Sent e s) (c : Nat) (n : CopyCounts) : Sent e (State.copyCounts s c n) :=
  Sent.countIf (Sent.countIf (Sent.countIf (Sent.countIf h ..) ..) ..) ..

theorem Sent.copySource (h : Sent e s) {c : Nat} {k : CopySlot} {r : Nat} {a : State × List Byte × List Bool × List Byte × List Bool}
    (run : State.copySource s c k r = some a) : Sent e a.1 := by
  unfold State.copySource at run
  dsimp only at run
  split at run
  · obtain rfl := Option.some.inj run
    exact h
  · split at run
    · exact nomatch run
    · next first =>
      split at run
      · exact nomatch run
      · next second =>
        obtain rfl := Option.some.inj run
        exact (h.copyRead first).copyRead second

theorem Sent.copyRow (h : Sent e s) {c slot : Nat} {k : CopySlot} {r : Nat} {counts : Bool} (run : State.copyRow s c slot k r counts = some t) : Sent e t := by
  unfold State.copyRow at run
  split at run
  · exact nomatch run
  · next u bs ms ss sm source =>
    obtain rfl := Option.some.inj run
    have read : Sent e u := h.copySource source
    have counted : ∀ n, Sent e (if counts then State.copyCounts u c n else u) := fun n => by
      split
      · exact read.copyCounts ..
      · exact read
    exact Sent.modCell (Sent.ite ((counted _).copyWrite ..) (((counted _).copyWrite ..).copyWrite ..)) ..

theorem Sent.copyRows (h : Sent e s) (c slot : Nat) : Sent e (State.copyRows s c slot) := by
  unfold State.copyRows
  split
  · exact h
  · split
    · exact h
    · refine h.foldl _ _ fun t r ht => ?_
      split
      · next run => exact (ht.copyRow run).of_tel rfl
      · exact ht

theorem Sent.copyArrive (h : Sent e s) (c slot : Nat) (sectors : NMap SectorData) : Sent e (State.copyArrive s c slot sectors) :=
  (h.modCell c _).copyRows ..

theorem Sent.copyAgain (h : Sent e s) (c slot : Nat) (rows : List Nat) : Sent e (State.copyAgain s c slot rows) := by
  refine h.foldl _ _ fun t r ht => ?_
  split
  · exact ht
  · next k _ =>
    cases run : State.copyRow t c slot k r false with
    | none => exact ht
    | some u => exact ht.copyRow run

theorem Sent.fillCaches (h : Sent e s) (c line : Nat) (m : Miss) (secs : NMap SectorData) : Sent e (State.fillCaches s c line m secs) := by
  have own : ∀ (p q : Prop) [Decidable p] [Decidable q] (x : Cell),
      Sent e (if p then if q then State.count (State.setCell s c x) .pinOverflow 0 c 1 else State.setCell s c x else s) :=
    fun p q _ _ x => Sent.ite (Sent.ite ((h.setCell c x).count ..) (h.setCell c x)) h
  refine Sent.ite (Sent.ite (Sent.count (Sent.setBlock ?_ ..) ..) (Sent.setBlock ?_ ..)) ?_
  all_goals exact own ..

theorem Sent.loadAnswered (h : Sent e s) (c m base : Nat) (st : AnswerStatus) (secs : NMap SectorData) : Sent e (State.loadAnswered s c m base st secs) := by
  unfold State.loadAnswered
  split
  · exact h
  · dsimp only
    exact Sent.openFetches (Sent.modCell (Sent.ite (h.fillCaches ..) h) ..) ..

theorem Sent.getAnswered (h : Sent e s) (c slot base dest op n : Nat) (a : AnswerPacket) (last : Bool) : Sent e (State.getAnswered s c slot base dest op n a last) :=
  ((h.modCell c _).copyArrive ..).copyAgain ..

theorem Sent.bindingArrived (h : Sent e s) (ring op : Nat) (a : AnswerPacket) : Sent e (State.bindingArrived s ring op a) := by
  unfold State.bindingArrived
  dsimp only
  split
  · exact h
  · exact h.of_tel rfl

/-- A change of a cell that is made only where there is a slot for it. -/
theorem Sent.modSlot (h : Sent e s) (o : Option Nat) (c : Nat) (f : Nat → Cell → Cell) :
    Sent e (match o with
      | none => s
      | some m => State.modCell s c (f m)) := by
  cases o with
  | none => exact h
  | some m => exact h.modCell c (f m)

theorem Sent.answerCell (h : Sent e s) (x : Transaction) (a : AnswerPacket) (last : Bool) : Sent e (State.answerCell s x a last) := by
  unfold State.answerCell
  dsimp only
  split
  · split
    · exact h.loadAnswered ..
    · split
      · exact h.bindingArrived ..
      · exact h
  · split
    · exact Sent.countIf h ..
    · exact (Sent.countIf h ..).of_tel rfl
  · exact h
  · split
    · exact h
    · exact h.getAnswered ..
  · split
    · exact h
    · exact h.of_tel rfl
  · refine Sent.modSlot (Sent.modSlot ?_ _ _ _) _ _ (fun slot x => { x with copies := NMap.erase x.copies slot })
    split
    · exact h
    · exact (h.count ..).log ..
    · exact h.count ..

theorem Sent.completeTxn (h : Sent e s) (rn n : Nat) (x : Transaction) (a : AnswerPacket) : Sent e (State.completeTxn s rn n x a) := by
  unfold State.completeTxn
  dsimp only
  have noted : ∀ (p : Prop) [Decidable p] y k o j d, Sent e (if p then State.log (State.count s .remoteLost 0 rn 1) y k o j d else s) :=
    fun p _ _ _ _ _ _ => Sent.ite ((h.count ..).log ..) h
  exact (Sent.ite (Sent.modCell (Sent.setRegion (noted ..) ..) ..) (Sent.answerCell (Sent.setRegion (noted ..) ..) ..)).moveOn _

theorem Sent.settleUpTo (n rn : Nat) (h : Sent e s) : Sent e (State.settleUpTo n s rn) := by
  induction n generalizing s with
  | zero => exact h
  | succ n ih =>
    rw [State.settleUpTo]
    split
    · exact h
    · exact ih (h.completeTxn ..)

theorem Sent.settleRegion (h : Sent e s) (rn : Nat) : Sent e (State.settleRegion s rn) := Sent.settleUpTo _ rn h

end

end Sys2Proof.Machine
end

section
/-!
SUPPORT. What is on its way to the log stays on its way while links go down and a region is fenced (R46, R395, R521).
-/

namespace Sys2Proof.Machine

section
variable {e : Nat × LogRecord} {s t : State}

theorem Sent.flag (h : Sent e s) (b : Nat) : Sent e (State.flag s b) := h.of_reports (reports_flag ..)

theorem Sent.recoveryEvent (h : Sent e s) (row : Nat) : Sent e (State.recoveryEvent s row) := h.of_reports (reports_recoveryEvent ..)

theorem Sent.raise (h : Sent e s) (code k o d : Nat) : Sent e (State.raise s code k o d) := h.of_reports (reports_raise ..)

/-! ### Ports -/

theorem Sent.setPort (h : Sent e s) (p : Nat) (x : Port) : Sent e (State.setPort s p x) := h.of_tel rfl

theorem Sent.modPort (h : Sent e s) (p : Nat) (f : Port → Port) : Sent e (State.modPort s p f) := h.of_tel rfl

theorem Sent.sendFlit (h : Sent e s) (p vc cred : Nat) (l : List TransitPacket) (m : Option ControlMessage) : Sent e (State.sendFlit s p vc cred l m) := h.of_tel rfl

theorem Sent.releaseCredit (h : Sent e s) (arrived : Option (Nat × Nat)) : Sent e (State.releaseCredit s arrived) := by
  cases arrived with
  | none => exact h
  | some a => exact h.modPort ..

theorem Sent.leave (h : Sent e s) (p : Nat) (w : WaitingPacket) (cls : Nat) : Sent e (State.leave s p w cls) := by
  have released : ∀ l, Sent e (State.releaseCredit (State.sendFlit s p (PacketKind.vc w.packet.kind) cls l none) w.arrived) :=
    fun l => (h.sendFlit ..).releaseCredit _
  unfold State.leave
  dsimp only
  cases w.hop with
  | adaptive => exact (released _).count ..
  | detour => exact (released _).count ..
  | _ => exact released _

theorem Sent.grantPort (h : Sent e s) {p : Nat} (run : State.grantPort s p = some t) : Sent e t := by
  unfold State.grantPort at run
  dsimp only at run
  split at run
  · exact nomatch run
  · split at run
    · obtain rfl := Option.some.inj run
      exact (h.setPort p _).sendFlit ..
    · simp only [Option.bind_eq_some_iff, Option.map_eq_some_iff] at run
      obtain ⟨o, -, vc, -, w, -, c, -, rfl⟩ := run
      exact (h.setPort p _).leave ..

theorem Sent.drainFor (n p : Nat) (h : Sent e s) : Sent e (State.drainFor n s p) := by
  induction n generalizing s with
  | zero => exact h
  | succ n ih =>
    rw [State.drainFor]
    split
    · exact h
    · next run => exact ih (h.grantPort run)

theorem Sent.toPort (h : Sent e s) (p : Nat) (w : WaitingPacket) : Sent e (State.toPort s p w) := Sent.drainFor _ p (h.modPort p _)

theorem Sent.toNeighbour (h : Sent e s) (p : Nat) (k : PacketKind) : Sent e (State.toNeighbour s p k) := by
  unfold State.toNeighbour
  split
  · exact h
  · exact h.toPort ..

theorem Sent.flood (h : Sent e s) (k : PacketKind) (but : Option Nat) : Sent e (State.flood s k but) :=
  h.foldl _ _ fun _ p ht => Sent.ite (ht.toNeighbour p k) ht

/-! ### Packets that go no further, and links that go down -/

theorem Sent.answerLost (h : Sent e s) (q : RequestPacket) : Sent e (State.answerLost s q) := by
  unfold State.answerLost
  refine Sent.ite ?_ (h.of_tel rfl)
  dsimp only
  split
  · exact Sent.ite ((h.completeTxn ..).settleRegion _) h
  · exact h

theorem Sent.dropPacket (h : Sent e s) (k : PacketKind) (arrived : Option (Nat × Nat)) : Sent e (State.dropPacket s k arrived) := by
  have released := (h.count .routeDrop 0 0 1).releaseCredit arrived
  cases k with
  | request q => exact released.answerLost q
  | _ => exact released

/-- A packet that goes to a port, or waits for a live hop. -/
theorem Sent.place (h : Sent e s) (at_ : Option Nat) (w : WaitingPacket) : Sent e (match at_ with
    | some i => State.toPort s i w
    | none => { s with fabric := { s.fabric with unrouted := s.fabric.unrouted ++ [(w.packet, w.arrived)] } }) := by
  cases at_ with
  | none => exact h.of_tel rfl
  | some i => exact h.toPort i w

theorem Sent.routePacket (h : Sent e s) (offered : Option Nat) (p : TransitPacket) (arrived : Option (Nat × Nat)) : Sent e (State.routePacket s offered p arrived) := by
  have go : ∀ at_ q classes hop, Sent e _ := fun at_ q classes hop => h.place at_ { packet := q, classes := classes, hop := hop, arrived := arrived }
  unfold State.routePacket
  dsimp only
  refine Sent.ite (go ..) (Sent.ite (go ..) (Sent.ite (Sent.ite (h.dropPacket ..) (go ..)) (Sent.ite (go none p [] .escape) ?_)))
  split
  · exact go ..
  · exact go ..

theorem Sent.strand (h : Sent e s) (p : Nat) (k : PacketKind) : Sent e (State.strand s p k) := by
  have counted := h.count .flitStranded 0 p 1
  cases k with
  | request q => exact counted.answerLost q
  | peerDown n i => exact counted.flood ..
  | peerUp n i => exact counted.flood ..
  | _ => exact counted

theorem Sent.forgetArrivals (h : Sent e s) (p : Nat) : Sent e (State.forgetArrivals s p) := h.of_tel rfl

theorem Sent.takeDown (h : Sent e s) (p : Nat) (next : PortState) : Sent e (State.takeDown s p next) := by
  have cleared := h.setPort p (Port.cleared (State.port s p) next s.timebase)
  have lost := ((cleared.count .linkDowns 0 p 1).flag 4).recoveryEvent 2
  have routed : ∀ (l : List TransitPacket) (m : List WaitingPacket), Sent e (m.foldl (fun s w =>
      State.routePacket (State.count s .flitStranded 0 p 1) none w.packet (w.arrived.filter (fun e => decide (e.1 ≠ p)))) (l.foldl (fun s k => State.strand s p k.kind)
        (State.forgetArrivals (State.recoveryEvent (State.flag (State.count (State.setPort s p (Port.cleared (State.port s p) next s.timebase)) .linkDowns 0 p 1) 4) 2) p))) :=
    fun l m => ((lost.forgetArrivals p).foldl _ l fun _ k ht => ht.strand p k.kind).foldl _ m fun _ w ht => (ht.count .flitStranded 0 p 1).routePacket none w.packet _
  unfold State.takeDown
  dsimp only
  refine Sent.ite ?_ cleared
  split
  · exact Sent.ite (routed ..) ((routed ..).of_tel rfl)
  · exact routed ..

theorem Sent.leaveJoined (h : Sent e s) : Sent e (State.leaveJoined s) := by
  rw [State.leaveJoined_eq]
  exact Sent.foldl (h.of_tel (t := State.unjoined s) rfl) _ _ fun _ p ht => Sent.ite (ht.takeDown ..) ht

/-! ### Commands, and the fence of a region -/

theorem Sent.modJob (h : Sent e s) (j : Half) (f : Job → Job) : Sent e (State.modJob s j f) := h.of_tel rfl

theorem Sent.complete (h : Sent e s) (mb result : Nat) (res : List Byte) : Sent e (State.complete s mb result res) := h.of_tel rfl

theorem Sent.endCommand (h : Sent e s) (mb result : Nat) : Sent e (State.endCommand s mb result) := by
  unfold State.endCommand
  exact (h.foldl _ _ fun _ _ ht => ht.modJob ..).complete ..

theorem Sent.endCommands (h : Sent e s) (result : Nat) (p : Running → Bool) : Sent e (State.endCommands s result p) := by
  refine h.foldl _ _ fun t mb ht => ?_
  split
  · exact Sent.ite (ht.endCommand ..) ht
  · exact ht

theorem Sent.emptyCache (h : Sent e s) (r : Nat) (answers : Bool) : Sent e (State.emptyCache s r answers) := by
  unfold State.emptyCache
  exact Sent.setRegion (Sent.ite (h.count ..) h) ..

/-- The module leaves JOINED where it is in it. -/
def State.left (s : State) : State := if s.joined then State.leaveJoined s else s

theorem State.enterFaulted_eq (s : State) : State.enterFaulted s =
    State.recoveryEvent (State.endCommands { State.left s with phase := .faulted } 0xFFFC (fun _ => true)) 10 := rfl

theorem Sent.enterFaulted (h : Sent e s) : Sent e (State.enterFaulted s) := by
  have left : Sent e (State.left s) := Sent.ite h.leaveJoined h
  rw [State.enterFaulted_eq]
  exact ((left.of_tel (t := { State.left s with phase := .faulted }) rfl).endCommands ..).recoveryEvent 10

theorem State.tel_railsOff (s : State) (r : Nat) : (State.railsOff s r).tel = s.tel := by
  unfold State.railsOff State.unhold State.withdraw State.modRegionPower
  rfl

theorem Sent.railsOff (h : Sent e s) (r : Nat) : Sent e (State.railsOff s r) := h.of_tel (State.tel_railsOff s r)

theorem Sent.loseLog (h : Sent e s) (r : Nat) : Sent e (State.loseLog s r) := by
  unfold State.loseLog
  exact Sent.ite (Sent.flag h 6) h

/-- The region is marked, its cache emptied, its ports down. -/
def State.regionDown (s : State) (r : Nat) (answers : Bool) : State :=
  State.portsDown (State.emptyCache (State.setRegion s r { State.region s r with fenced := true }) r answers) r

/-- The region's rails are off and its log is lost. -/
def State.regionDark (s : State) (r : Nat) : State :=
  State.loseLog (State.railsOff ((regionPorts r).foldl (fun s p => State.modPort s p (fun x => { x with wanted := false })) s) r) r

/-- A power-up of the region ends, and the fence is reported. -/
def State.regionReported (s : State) (r : Nat) : State :=
  State.recoveryEvent (State.raise (State.endCommands s 0xFFFC (fun k => decide (k.code = 0x0103 ∧ k.stage = 1 ∧ k.values = [r]))) 0x63 1 r 0) 8

theorem State.fenceRegion_eq (s : State) (r : Nat) (answers : Bool) : State.fenceRegion s r answers =
    if (State.region s r).fenced then s
    else
      let t := State.regionReported (State.regionDark (State.regionDown s r answers) r) r
      if State.tooManyFenced t then State.enterFaulted t else t := rfl

theorem Sent.regionDown (h : Sent e s) (r : Nat) (answers : Bool) : Sent e (State.regionDown s r answers) :=
  ((h.setRegion r { State.region s r with fenced := true }).emptyCache r answers).foldl _ _ fun _ p ht => ht.takeDown p .disabled

theorem Sent.regionDark (h : Sent e s) (r : Nat) : Sent e (State.regionDark s r) :=
  ((h.foldl _ (regionPorts r) fun _ p ht => ht.modPort p (fun x => { x with wanted := false })).railsOff r).loseLog r

theorem Sent.regionReported (h : Sent e s) (r : Nat) : Sent e (State.regionReported s r) :=
  ((h.endCommands ..).raise 0x63 1 r 0).recoveryEvent 8

/-- R46: a fence takes nothing back that is on its way to the log. -/
theorem Sent.fenceRegion (h : Sent e s) (r : Nat) (answers : Bool) : Sent e (State.fenceRegion s r answers) := by
  have fenced := ((h.regionDown r answers).regionDark r).regionReported r
  rw [State.fenceRegion_eq]
  exact Sent.ite h (Sent.ite fenced.enterFaulted fenced)

end

end Sys2Proof.Machine
end

section
/-!
SUPPORT. A region's cache is emptied and its ports go down (R345, R521).
-/

namespace Sys2Proof.Machine

/-! ### Dirty lines -/

theorem foldl_add_eq (l : List Nat) (a : Nat) : l.foldl (· + ·) a = a + l.foldl (· + ·) 0 := by
  induction l generalizing a with
  | nil => rfl
  | cons x l ih => rw [List.foldl_cons, List.foldl_cons, ih, ih (0 + x)]; omega

/-- Dirty lines of a region cache. -/
def Region.dirty (x : Region) : Nat := (x.cache.map (fun e => (e.2.filter (fun l => decide (l.dirty ≠ []))).length)).foldl (· + ·) 0

/-- What counts for nothing may be left out of a sum. -/
theorem foldl_add_filter {α : Type} (p : α → Bool) (f : α → Nat) (zero : ∀ a, p a = false → f a = 0) (l : List α) :
    ((l.filter p).map f).foldl (· + ·) 0 = (l.map f).foldl (· + ·) 0 := by
  induction l with
  | nil => rfl
  | cons a l ih =>
    rw [List.map_cons, List.foldl_cons, foldl_add_eq _ (0 + f a), ← ih]
    cases h : p a with
    | true => rw [List.filter_cons_of_pos h, List.map_cons, List.foldl_cons, foldl_add_eq _ (0 + f a)]
    | false => rw [List.filter_cons_of_neg (by rw [h]; exact Bool.false_ne_true), zero a h, Nat.zero_add]

theorem dirty_eq (m : NMap (List RegionLine)) :
    ((m.filter (fun e => e.2.any (fun l => !l.dirty.isEmpty))).map (fun e => (e.2.filter (fun l => !l.dirty.isEmpty)).length)).foldl (· + ·) 0 =
      (m.map (fun e => (e.2.filter (fun l => decide (l.dirty ≠ []))).length)).foldl (· + ·) 0 := by
  have same : ∀ l : RegionLine, (!l.dirty.isEmpty) = decide (l.dirty ≠ []) := fun l => by
    cases l.dirty with
    | nil => rfl
    | cons a l => rfl
  simp only [same]
  refine foldl_add_filter _ _ (fun e none_ => ?_) m
  rw [List.filter_eq_nil_iff.2 fun l mem => List.any_eq_false.1 none_ l mem, List.length_nil]

/-- The region is marked as fenced and its cache is empty, what is dirty being written back where its controller answers. -/
structure Emptied (s t : State) (r : Nat) (answers : Bool) : Prop where
  frame : t = { s with regions := t.regions, tel := t.tel }
  here : State.region t r = { State.region s r with fenced := true, cache := [] }
  others : ∀ q, q ≠ r → State.region t q = State.region s q
  written : answers = true → 0 < Region.dirty (State.region s r) → Claims.counted s t .rcWriteback 0 r (Region.dirty (State.region s r))
  clean : answers = false ∨ Region.dirty (State.region s r) = 0 → t.tel = s.tel
  reports : Reports [counterKey .rcWriteback 0 r] s t
  quiet : Quiet s.tel t.tel

/-- The write-backs of a region are counted. -/
def State.writtenBack (s : State) (r : Nat) (answers : Bool) : State :=
  if answers ∧ 0 < Region.dirty (State.region s r) then State.count s .rcWriteback 0 r (Region.dirty (State.region s r)) else s

theorem State.emptyCache_eq (s : State) (r : Nat) (answers : Bool) : State.emptyCache s r answers =
    State.setRegion (State.writtenBack s r answers) r { State.region (State.writtenBack s r answers) r with cache := [] } := by
  unfold State.emptyCache
  dsimp only
  rw [dirty_eq]
  rfl

theorem emptied (s : State) (r : Nat) (answers : Bool) : Emptied s (State.emptyCache (State.setRegion s r { State.region s r with fenced := true }) r answers) r answers := by
  generalize hu : State.setRegion s r { State.region s r with fenced := true } = u
  have first : u = { s with regions := u.regions } := by rw [← hu]; rfl
  have region : ∀ q, State.region u q = if r = q then { State.region s r with fenced := true } else State.region s q := fun q => by
    rw [← hu]; exact State.region_setRegion s r q _
  have here : State.region u r = { State.region s r with fenced := true } := (region r).trans (if_pos rfl)
  have dirty : Region.dirty (State.region u r) = Region.dirty (State.region s r) := by rw [here]; rfl
  have before : Reports [] s u := reports_of_tel (by rw [first])
  rw [State.emptyCache_eq]
  have counts : OnlyRecords u (State.writtenBack u r answers) ∧ Quiet u.tel (State.writtenBack u r answers).tel ∧
      Reports [counterKey .rcWriteback 0 r] u (State.writtenBack u r answers) ∧
      (answers = true → 0 < Region.dirty (State.region s r) → Claims.counted u (State.writtenBack u r answers) .rcWriteback 0 r (Region.dirty (State.region s r))) ∧
      (answers = false ∨ Region.dirty (State.region s r) = 0 → (State.writtenBack u r answers).tel = u.tel) := by
    unfold State.writtenBack
    rw [dirty]
    split
    · next h =>
      refine ⟨onlyRecords_count .., quiet_count .., reports_count .., fun _ _ => counted_count _ _ _ _ _ (by decide), fun none_ => ?_⟩
      obtain ⟨on, some_⟩ := h
      obtain off | zero := none_
      · rw [off] at on; exact nomatch on
      · omega
    · next h => exact ⟨rfl, rfl, ⟨fun _ _ _ => rfl, fun _ h => h, fun _ h => h⟩, fun on some_ => absurd ⟨on, some_⟩ h, fun _ => rfl⟩
  obtain ⟨only, quiet, reports, written, clean⟩ := counts
  generalize State.writtenBack u r answers = v at only quiet reports written clean
  have regions : ∀ q, State.region v q = State.region u q := State.region_congr (by rw [only])
  generalize ht : State.setRegion v r { State.region v r with cache := [] } = t
  have last : t = { v with regions := t.regions } := by rw [← ht]; rfl
  have region' : ∀ q, State.region t q = if r = q then { State.region v r with cache := [] } else State.region v q := fun q => by
    rw [← ht]; exact State.region_setRegion v r q _
  have tel : t.tel = v.tel := by rw [last]
  have utel : u.tel = s.tel := by rw [first]
  have after : Reports [] v t := reports_of_tel tel
  refine ⟨?_, ?_, fun q hq => ?_, fun on some_ => ?_, fun none_ => ?_, ?_, ?_⟩
  · rw [last, only, first]
  · rw [region', if_pos rfl, regions, here]
  · rw [region', if_neg (Ne.symm hq), regions, region, if_neg (Ne.symm hq)]
  · exact after.counted_after (before.counted_before (by decide) (fun h => nomatch h) (written on some_)) (by decide) (fun h => nomatch h)
  · rw [tel, clean none_, utel]
  · exact before.trans (reports.trans after)
  · rw [tel, ← utel]; exact quiet

/-! ### Ports going down with nothing left behind -/

/-- Nothing is left at the ports of `l` that a link going down would have to dispose of. -/
def Free (s : State) (l : List Nat) : Prop := ∀ p ∈ l, (State.port s p).replay = [] ∧ (State.port s p).queued = [] ∧ (∀ q, QueueOff s p q) ∧
  ∀ e ∈ s.fabric.unrouted, OffPort p e.2

/-- The ports of `l` have lapsed to DISABLED. -/
structure Downed (s t : State) (l : List Nat) : Prop where
  frame : t = { s with ports := t.ports, tel := t.tel, time := t.time }
  clock : SameClock s.time t.time
  taken : ∀ p ∈ l, State.port t p = Port.cleared (State.port s p) .disabled s.timebase
  kept : ∀ q, q ∉ l → State.port t q = State.port s q
  counted : ∀ p ∈ l, Port.up (State.port s p) = true → Claims.counted s t .linkDowns 0 p 1
  idle : (∀ p ∈ l, Port.up (State.port s p) = false) → t.time = s.time
  reports : Reports (downKeys l) s t
  quiet : Quiet s.tel t.tel

theorem linkDowns_key_injective {p q : Nat} (hp : p < 40) (hq : q < 40) (h : counterKey .linkDowns 0 p = counterKey .linkDowns 0 q) : p = q := by
  unfold counterKey at h
  omega

theorem not_mem_downKeys {q : Nat} {l : List Nat} (range : ∀ p ∈ l, p < 40) (hq : q < 40) (out : q ∉ l) : counterKey .linkDowns 0 q ∉ downKeys l := by
  unfold downKeys
  rw [List.mem_flatMap]
  rintro ⟨p, mem, key⟩
  obtain same | other := List.mem_cons.1 key
  · exact out (linkDowns_key_injective hq (range p mem) same ▸ mem)
  · exact counterKey_ne (by decide) _ _ _ _ (List.mem_singleton.1 other)

/-- What an event other than a link going down counts, a link going down leaves. -/
theorem not_mem_downKeys_of {c : Counter} {l : List Nat} (down : Counter.code c ≠ Counter.code .linkDowns) (p i : Nat)
    (event : counterKey c p i ≠ counterKey .recoveryEvents 2 0) : counterKey c p i ∉ downKeys l := by
  unfold downKeys
  rw [List.mem_flatMap]
  rintro ⟨q, -, key⟩
  obtain same | other := List.mem_cons.1 key
  · exact counterKey_ne down _ _ _ _ same
  · exact event (List.mem_singleton.1 other)

section
variable {s t : State} {p : Nat} {l : List Nat}

theorem Lowered.free (h : Lowered s t p .disabled) (free : Free s (p :: l)) (fresh : p ∉ l) : Free t l := by
  have off : ∀ a ∈ p :: l, ∀ q, QueueOff s a q := fun a ha q => (free a ha).2.2.1 q
  have others : ∀ q, q ≠ p → State.port t q = State.port s q := fun q hq => h.others q hq (off p List.mem_cons_self q)
  intro a ha
  have other : a ≠ p := fun eq => fresh (eq ▸ ha)
  obtain ⟨replay, queued, -, unrouted⟩ := free a (List.mem_cons_of_mem _ ha)
  rw [others a other]
  refine ⟨replay, queued, fun q => ?_, by rw [h.frame]; exact unrouted⟩
  unfold QueueOff
  by_cases same : q = p
  · rw [same, h.here]; exact fun _ h => nomatch h
  · rw [others q same]; exact off a (List.mem_cons_of_mem _ ha) q

theorem lowered_of_free (free : Free s (p :: l)) : Lowered s (State.takeDown s p .disabled) p .disabled ∧
    (Port.up (State.port s p) = true → Claims.counted s (State.takeDown s p .disabled) .linkDowns 0 p 1) ∧
    (Port.up (State.port s p) = false → (State.takeDown s p .disabled).time = s.time) := by
  obtain ⟨replay, queued, -, unrouted⟩ := free p List.mem_cons_self
  cases up : Port.up (State.port s p) with
  | false =>
    obtain ⟨lowered, -, time⟩ := lowered_idle (next := .disabled) up
    exact ⟨lowered, (nomatch ·), fun _ => time⟩
  | true =>
    obtain ⟨lowered, counted⟩ := lowered_up (next := .disabled) up replay queued unrouted
    exact ⟨lowered, fun _ => counted, (nomatch ·)⟩

end

theorem downed_foldl (l : List Nat) (range : ∀ p ∈ l, p < 40) (distinct : l.Nodup) (s : State) (free : Free s l) :
    Downed s (l.foldl (fun s p => State.takeDown s p .disabled) s) l := by
  induction l generalizing s with
  | nil => exact ⟨rfl, rfl, fun _ h => (nomatch h), fun _ _ => rfl, fun _ h => (nomatch h), fun _ => rfl, Reports.refl s, rfl⟩
  | cons p l ih =>
    obtain ⟨fresh, distinct⟩ := List.nodup_cons.1 distinct
    have hp := range p List.mem_cons_self
    have range' : ∀ q ∈ l, q < 40 := fun q hq => range q (List.mem_cons_of_mem _ hq)
    obtain ⟨first, counted, idle⟩ := lowered_of_free free
    rw [List.foldl_cons]
    generalize State.takeDown s p .disabled = u at first counted idle
    have rest := ih range' distinct u (first.free free fresh)
    generalize l.foldl (fun s p => State.takeDown s p .disabled) u = t at rest
    have now : u.timebase = s.timebase := by rw [first.frame]
    have port : ∀ q, q ≠ p → State.port u q = State.port s q := fun q hq => first.others q hq ((free p List.mem_cons_self).2.2.1 q)
    have apart : ∀ q ∈ l, q ≠ p := fun q hq eq => fresh (eq ▸ hq)
    refine ⟨by rw [rest.frame, first.frame], first.clock.trans rest.clock, fun q hq => ?_, fun q out => ?_, fun q hq up => ?_, fun down => ?_, first.reports.trans rest.reports,
      first.quiet.trans rest.quiet⟩
    · obtain rfl | hq := List.mem_cons.1 hq
      · rw [rest.kept q fresh, first.here]
      · rw [rest.taken q hq, port q (apart q hq), now]
    · obtain ⟨other, out⟩ := not_or.1 (mt List.mem_cons.2 out)
      rw [rest.kept q out, port q other]
    · obtain rfl | hq := List.mem_cons.1 hq
      · exact rest.reports.counted_after (counted up) (by decide) (not_mem_downKeys range' hp fresh)
      · refine first.reports.counted_before (by decide) ?_ (rest.counted q hq (by rw [port q (apart q hq)]; exact up))
        exact not_mem_downKeys (l := [p]) (by simpa using hp) (range' q hq) (by simpa using apart q hq)
    · rw [rest.idle fun q hq => by rw [port q (apart q hq)]; exact down q (List.mem_cons_of_mem _ hq), idle (down p List.mem_cons_self)]

/-! ### Both -/

theorem mem_regionPorts (r p : Nat) : p ∈ regionPorts r ↔ p / 5 = r := by
  unfold regionPorts tabulate
  rw [List.mem_map]
  constructor
  · rintro ⟨i, hi, rfl⟩
    rw [List.mem_range] at hi
    omega
  · rintro rfl
    exact ⟨p % 5, List.mem_range.2 (Nat.mod_lt _ (by decide)), Nat.div_add_mod p 5⟩

theorem nodup_regionPorts (r : Nat) : (regionPorts r).Nodup :=
  List.Nodup.map_on (fun i _ j _ h => by omega) List.nodup_range

theorem regionPorts_lt {r p : Nat} (hr : r < 8) (hp : p ∈ regionPorts r) : p < 40 := by
  have here := (mem_regionPorts r p).1 hp
  omega

theorem free_of_clear {s : State} {r : Nat} (clear : ∀ p, p / 5 = r → Claims.clearPort s p) : Free s (regionPorts r) := by
  intro p hp
  obtain ⟨replay, queued, none_⟩ := clear p ((mem_regionPorts r p).1 hp)
  exact ⟨replay, queued, queueOff_of_noArrivals none_, none_.2⟩

/-- The region has lost its cache and its links. -/
structure RegionDown (s t : State) (r : Nat) (answers : Bool) : Prop where
  frame : t = { s with regions := t.regions, ports := t.ports, tel := t.tel, time := t.time }
  clock : SameClock s.time t.time
  region : State.region t r = { State.region s r with fenced := true, cache := [] }
  regions : ∀ q, q ≠ r → State.region t q = State.region s q
  written : answers = true → 0 < Region.dirty (State.region s r) → Claims.counted s t .rcWriteback 0 r (Region.dirty (State.region s r))
  clean : answers = false ∨ Region.dirty (State.region s r) = 0 → Claims.counter t .rcWriteback 0 r = Claims.counter s .rcWriteback 0 r
  ports : ∀ p, p / 5 = r → State.port t p = Port.cleared (State.port s p) .disabled s.timebase
  others : ∀ p, p / 5 ≠ r → State.port t p = State.port s p
  counted : ∀ p, p / 5 = r → Port.up (State.port s p) = true → Claims.counted s t .linkDowns 0 p 1
  idle : (∀ p, p / 5 = r → Port.up (State.port s p) = false) → t.time = s.time
  reports : Reports (counterKey .rcWriteback 0 r :: downKeys (regionPorts r)) s t
  quiet : Quiet s.tel t.tel

theorem regionDown {s : State} {r : Nat} (hr : r < 8) (answers : Bool) (clear : ∀ p, p / 5 = r → Claims.clearPort s p) :
    RegionDown s (State.regionDown s r answers) r answers := by
  have first := emptied s r answers
  unfold State.regionDown State.portsDown
  generalize State.emptyCache (State.setRegion s r { State.region s r with fenced := true }) r answers = u at first
  have port : ∀ p, State.port u p = State.port s p := State.port_congr (by rw [first.frame])
  have free : Free u (regionPorts r) := by
    unfold Free QueueOff
    simp only [port]
    rw [first.frame]
    exact free_of_clear clear
  have rest := downed_foldl (regionPorts r) (fun p hp => regionPorts_lt hr hp) (nodup_regionPorts r) u free
  generalize (regionPorts r).foldl (fun s p => State.takeDown s p .disabled) u = t at rest
  have now : u.timebase = s.timebase := by rw [first.frame]
  have time : u.time = s.time := by rw [first.frame]
  have region : ∀ q, State.region t q = State.region u q := State.region_congr (by rw [rest.frame])
  have writeback : counterKey .rcWriteback 0 r ∉ downKeys (regionPorts r) := not_mem_downKeys_of (by decide) _ _ (counterKey_ne (by decide) _ _ _ _)
  refine ⟨by rw [rest.frame, first.frame], time ▸ rest.clock, (region r).trans first.here, fun q hq => (region q).trans (first.others q hq), fun on some_ => ?_, fun none_ => ?_,
    fun p hp => ?_, fun p hp => ?_, fun p hp up => ?_, fun down => ?_, first.reports.trans rest.reports, first.quiet.trans rest.quiet⟩
  · exact rest.reports.counted_after (first.written on some_) (by decide) writeback
  · rw [rest.reports.counter (by decide) writeback]
    unfold Claims.counter
    rw [first.clean none_]
  · rw [rest.taken p ((mem_regionPorts r p).2 hp), port, now]
  · rw [rest.kept p (mt (mem_regionPorts r p).1 hp), port]
  · refine first.reports.counted_before (by decide) (fun h => ?_) (rest.counted p ((mem_regionPorts r p).2 hp) (by rw [port]; exact up))
    exact counterKey_ne (by decide) _ _ _ _ (List.mem_singleton.1 h)
  · rw [rest.idle fun p hp => by rw [port]; exact down p ((mem_regionPorts r p).1 hp), time]

end Sys2Proof.Machine
end

section
/-!
SUPPORT. A region's rails go off, its part of the log is lost, and commands that cannot finish end (R501, R521, R522, Table 16.7).
-/

namespace Sys2Proof.Machine

/-! ### Ports that are no longer wanted -/

/-- The ports of `l` are no longer wanted. -/
def State.unwanted (s : State) (l : List Nat) : State := l.foldl (fun s p => State.modPort s p (fun x => { x with wanted := false })) s

theorem unwanted_spec (l : List Nat) (s : State) : State.unwanted s l = { s with ports := (State.unwanted s l).ports } ∧
    ∀ p, State.port (State.unwanted s l) p = if p ∈ l then { State.port s p with wanted := false } else State.port s p := by
  unfold State.unwanted
  induction l generalizing s with
  | nil => exact ⟨rfl, fun p => rfl⟩
  | cons a l ih =>
    obtain ⟨frame, ports⟩ := ih (State.modPort s a (fun x => { x with wanted := false }))
    rw [List.foldl_cons]
    refine ⟨frame, fun p => (ports p).trans ?_⟩
    unfold State.modPort
    rw [State.port_setPort]
    by_cases here : a = p
    · subst here
      rw [if_pos rfl, if_pos List.mem_cons_self]
      exact ite_self _
    · rw [if_neg here]
      exact if_congr (by rw [List.mem_cons, or_iff_right (Ne.symm here)]) rfl rfl

/-! ### Rails -/

theorem ofRegion_iff (o : ProoferObject) (r : Nat) : ProoferObject.ofRegion o r = true ↔ Claims.ofRegion r o := by
  cases o with
  | _ => exact decide_eq_true_iff

theorem fallOfRegion_iff (o : FallItem) (r : Nat) : FallItem.ofRegion o r = true ↔ Claims.fallOfRegion r o := by
  cases o with
  | _ => exact decide_eq_true_iff

/-- A region without rails. -/
def RegionPower.dark (x : RegionPower) : RegionPower :=
  { x with on := false, stackOn := false, vpwr := none, vthm := none, volt := 0, granted := none, level := 0, raising := false
           pace := { x.pace with volt := 0, pace := 0, throttle := false, valid := false } }

/-- In `y` the rails of region `r` are off, and nothing of it waits for power. -/
structure PowerDark (x y : Power) (r : Nat) : Prop where
  rails : NMap.get y.regions RegionPower.reset r = RegionPower.dark (NMap.get x.regions RegionPower.reset r)
  others : ∀ q, q ≠ r → NMap.get y.regions RegionPower.reset q = NMap.get x.regions RegionPower.reset q
  queue : ∀ o, o ∈ y.proofer.queue ↔ o ∈ x.proofer.queue ∧ ¬ Claims.ofRegion r o
  held : ∀ o, o ∈ y.proofer.held ↔ o ∈ x.proofer.held ∧ ¬ Claims.fallOfRegion r o
  frame : y = { x with regions := y.regions, critSince := y.critSince, proofer := { x.proofer with queue := y.proofer.queue, held := y.proofer.held } }
  cool : NMap.find y.critSince r = none
  crit : ∀ q, q ≠ r → NMap.find y.critSince q = NMap.find x.critSince q

/-- Power control once the rails of region `r` are off. -/
def Power.darkened (x : Power) (r : Nat) : Power :=
  { x with
    regions := NMap.upd x.regions RegionPower.reset r RegionPower.dark
    proofer := { x.proofer with
      queue := x.proofer.queue.filter (fun o => !ProoferObject.ofRegion o r)
      held := x.proofer.held.filter (fun i => !FallItem.ofRegion i r) }
    critSince := NMap.erase x.critSince r }

theorem powerDark (x : Power) (r : Nat) : PowerDark x (Power.darkened x r) r := by
  refine ⟨(NMap.get_upd ..).trans (if_pos rfl), fun q hq => (NMap.get_upd ..).trans (if_neg (Ne.symm hq)), fun o => ?_, fun o => ?_, rfl,
    (NMap.find_erase ..).trans (if_pos rfl), fun q hq => (NMap.find_erase ..).trans (if_neg (Ne.symm hq))⟩
  · refine List.mem_filter.trans (and_congr_right fun _ => ?_)
    rw [Bool.not_eq_true', ← Bool.not_eq_true, ofRegion_iff]
  · refine List.mem_filter.trans (and_congr_right fun _ => ?_)
    rw [Bool.not_eq_true', ← Bool.not_eq_true, fallOfRegion_iff]

/-- Requests for region `r` wait for no fill any more. -/
def homesUnjoined (m : NMap HomeRequest) (r : Nat) : NMap HomeRequest := m.map (fun e => if e.2.region = r then (e.1, { e.2 with joined := none }) else e)

theorem State.railsOff_eq (s : State) (r : Nat) : State.railsOff s r = { s with
    power := Power.darkened s.power r
    stackQueue := s.stackQueue.filter (fun e => decide (e.2.region ≠ r))
    homeQueue := homesUnjoined s.homeQueue r } := by
  unfold State.railsOff State.unhold State.withdraw State.modRegionPower
  rfl

/-! ### The log -/

/-- In `y` the region's part of the log is lost. -/
structure RingLost (x y : Telemetry) (r : Nat) : Prop where
  ring : ∀ e, e ∈ y.logRing ↔ e ∈ x.logRing ∧ e.1 / 2 ^ 17 ≠ r
  flag : (∃ e ∈ x.logRing, e.1 / 2 ^ 17 = r) → y.errFlags.testBit 6 = true

theorem ringLost (s : State) (r : Nat) : RingLost s.tel (State.loseLog s r).tel r ∧ OnlyRecords s (State.loseLog s r) ∧ Reports [] s (State.loseLog s r) := by
  have kept : ∀ e, e ∈ s.tel.logRing.filter (fun e => decide (e.1 / 2 ^ 17 ≠ r)) ↔ e ∈ s.tel.logRing ∧ e.1 / 2 ^ 17 ≠ r :=
    fun e => List.mem_filter.trans (and_congr_right fun _ => decide_eq_true_iff)
  unfold State.loseLog
  dsimp only
  split
  · generalize hu : ({ s with tel := { s.tel with logRing := s.tel.logRing.filter (fun e => decide (e.1 / 2 ^ 17 ≠ r)) } } : State) = u
    have ring : u.tel.logRing = s.tel.logRing.filter (fun e => decide (e.1 / 2 ^ 17 ≠ r)) := by rw [← hu]
    have before : Reports [] s u := by rw [← hu]; exact reports_of_same rfl (fun _ h => h) rfl
    have first : OnlyRecords s u := by rw [← hu]; rfl
    have same : (State.flag u 6).tel.logRing = u.tel.logRing := by rw [quiet_flag u 6]
    refine ⟨⟨fun e => ?_, fun _ => flag_set u 6⟩, first.trans (onlyRecords_flag u 6), before.trans (reports_flag u 6)⟩
    rw [same, ring]
    exact kept e
  · next whole =>
    have all : ∀ e ∈ s.tel.logRing, e.1 / 2 ^ 17 ≠ r := fun e mem =>
      of_decide_eq_true (List.filter_eq_self.1 (List.filter_sublist.eq_of_length_le (Nat.le_of_not_lt whole)) e mem)
    exact ⟨⟨fun e => ⟨fun mem => ⟨mem, all e mem⟩, fun h => h.1⟩, fun ⟨e, mem, lost⟩ => absurd lost (all e mem)⟩, rfl, Reports.refl s⟩

/-! ### All of it -/

/-- The region is dark: no port of it is wanted, its rails are off and its part of the log is lost. -/
structure RegionDark (s t : State) (r : Nat) : Prop where
  frame : t = { s with ports := t.ports, power := t.power, stackQueue := t.stackQueue, homeQueue := t.homeQueue, tel := t.tel }
  ports : ∀ p, p / 5 = r → State.port t p = { State.port s p with wanted := false }
  others : ∀ p, p / 5 ≠ r → State.port t p = State.port s p
  power : PowerDark s.power t.power r
  fills : ∀ e, e ∈ t.stackQueue ↔ e ∈ s.stackQueue ∧ e.2.region ≠ r
  homes : t.homeQueue = homesUnjoined s.homeQueue r
  ring : RingLost s.tel t.tel r
  reports : Reports [] s t

theorem regionDark (s : State) (r : Nat) : RegionDark s (State.regionDark s r) r := by
  obtain ⟨frame, ports⟩ := unwanted_spec (regionPorts r) s
  unfold State.regionDark
  change RegionDark s (State.loseLog (State.railsOff (State.unwanted s (regionPorts r)) r) r) r
  generalize State.unwanted s (regionPorts r) = u at frame ports
  have dark := State.railsOff_eq u r
  generalize State.railsOff u r = v at dark
  obtain ⟨ring, only, reports⟩ := ringLost v r
  generalize State.loseLog v r = t at ring only reports
  have vtel : v.tel = s.tel := by rw [dark, frame]
  have before : Reports [] s v := reports_of_tel vtel
  have port : ∀ p, State.port t p = State.port u p := State.port_congr (by rw [only, dark])
  have power : t.power = Power.darkened s.power r := by rw [only, dark, frame]
  have queue : t.stackQueue = s.stackQueue.filter (fun e => decide (e.2.region ≠ r)) := by rw [only, dark, frame]
  refine ⟨by rw [only, dark, frame], fun p hp => ?_, fun p hp => ?_, by rw [power]; exact powerDark s.power r, fun e => ?_, by rw [only, dark, frame], vtel ▸ ring, before.trans reports⟩
  · rw [port, ports, if_pos ((mem_regionPorts r p).2 hp)]
  · rw [port, ports, if_neg (mt (mem_regionPorts r p).1 hp)]
  · rw [queue]
    exact List.mem_filter.trans (and_congr_right fun _ => decide_eq_true_iff)

end Sys2Proof.Machine
end

section
/-!
SUPPORT. A fence is reported and the commands it ends complete (R521, Table 16.7).
-/

namespace Sys2Proof.Machine

/-! ### Commands that end -/

theorem State.mailbox_complete (s : State) (mb v m : Nat) :
    State.mailbox (State.complete s mb v []) m = if mb = m then Claims.ended s (State.mailbox s mb) v else State.mailbox s m := by
  unfold State.complete
  exact State.mailbox_modMailbox s mb m (fun x => Claims.ended s x v)

theorem State.endCommand_spec (s : State) (mb v : Nat) :
    State.endCommand s mb v = { s with host := { s.host with mailboxes := (State.endCommand s mb v).host.mailboxes }, jobs := (State.endCommand s mb v).jobs } ∧
    ∀ m, State.mailbox (State.endCommand s mb v) m = if mb = m then Claims.ended s (State.mailbox s mb) v else State.mailbox s m := by
  have jobs : ∀ (l : List Nat) (s : State), l.foldl (fun s t => State.modJob s (BitVec.ofNat 16 t) (fun j => { j with checkpoint := none })) s =
      { s with jobs := (l.foldl (fun s t => State.modJob s (BitVec.ofNat 16 t) (fun j => { j with checkpoint := none })) s).jobs } :=
    fun l s => foldl_keeps (fun t => t = { s with jobs := t.jobs }) _ (fun t _ h => by rw [h]; rfl) l s rfl
  unfold State.endCommand
  dsimp only
  generalize hl : (s.jobs.filter (fun e => e.2.checkpoint.elim false (fun k => decide (k.mailbox = mb)))).map (·.1) = l
  have frame := jobs l s
  generalize l.foldl (fun s t => State.modJob s (BitVec.ofNat 16 t) (fun j => { j with checkpoint := none })) s = u at frame
  have host : u.host = s.host := by rw [frame]
  have now : u.timebase = s.timebase := by rw [frame]
  have box : ∀ m, State.mailbox u m = State.mailbox s m := fun m => by unfold State.mailbox; rw [host]
  refine ⟨by unfold State.complete State.modMailbox; rw [frame], fun m => (State.mailbox_complete ..).trans ?_⟩
  refine if_congr Iff.rfl ?_ (box m)
  unfold Claims.ended
  rw [box, now]

/-- The commands of the mailboxes `l` that `p` picks have ended with RESULT `v`. -/
structure Ended (s t : State) (l : List Nat) (p : Running → Bool) (v : Nat) : Prop where
  frame : t = { s with host := { s.host with mailboxes := t.host.mailboxes }, jobs := t.jobs }
  done : ∀ mb ∈ l, ∀ k, (State.mailbox s mb).running = some k → p k = true → State.mailbox t mb = Claims.ended s (State.mailbox s mb) v
  kept : ∀ mb, mb ∉ l ∨ (∀ k, (State.mailbox s mb).running = some k → p k = false) → State.mailbox t mb = State.mailbox s mb
  idle : (∀ mb ∈ l, ∀ k, (State.mailbox s mb).running = some k → p k = false) → t = s

/-- The command of mailbox `mb` ends where `p` picks it. -/
def State.endPicked (v : Nat) (p : Running → Bool) (s : State) (mb : Nat) : State :=
  match (State.mailbox s mb).running with
  | some k => if p k then State.endCommand s mb v else s
  | none => s

theorem State.endPicked_cases (v : Nat) (p : Running → Bool) (s : State) (mb : Nat) :
    (∃ k, (State.mailbox s mb).running = some k ∧ p k = true ∧ State.endPicked v p s mb = State.endCommand s mb v) ∨
      (∀ k, (State.mailbox s mb).running = some k → p k = false) ∧ State.endPicked v p s mb = s := by
  unfold State.endPicked
  cases (State.mailbox s mb).running with
  | none => exact .inr ⟨fun k h => (nomatch h), rfl⟩
  | some k =>
    cases picked : p k with
    | true => exact .inl ⟨k, rfl, picked, if_pos picked⟩
    | false => exact .inr ⟨fun j h => Option.some.inj h ▸ picked, if_neg (by rw [picked]; exact Bool.false_ne_true)⟩

theorem ended_foldl (v : Nat) (p : Running → Bool) (l : List Nat) (distinct : l.Nodup) (s : State) : Ended s (l.foldl (State.endPicked v p) s) l p v := by
  induction l generalizing s with
  | nil => exact ⟨rfl, fun _ h => (nomatch h), fun _ _ => rfl, fun _ => rfl⟩
  | cons a l ih =>
    obtain ⟨fresh, distinct⟩ := List.nodup_cons.1 distinct
    rw [List.foldl_cons]
    obtain ⟨j, running, picked, eq⟩ | ⟨none_, eq⟩ := State.endPicked_cases v p s a
    · rw [eq]
      obtain ⟨frame, boxes⟩ := State.endCommand_spec s a v
      generalize State.endCommand s a v = u at frame boxes
      have rest := ih distinct u
      generalize l.foldl (State.endPicked v p) u = t at rest
      have now : u.timebase = s.timebase := by rw [frame]
      have other : ∀ m, m ≠ a → State.mailbox u m = State.mailbox s m := fun m hm => (boxes m).trans (if_neg (Ne.symm hm))
      have here : State.mailbox t a = Claims.ended s (State.mailbox s a) v := (rest.kept a (.inl fresh)).trans ((boxes a).trans (if_pos rfl))
      refine ⟨by rw [rest.frame, frame], fun mb mem k hk pk => ?_, fun mb out => ?_, fun none_ => ?_⟩
      · by_cases same : mb = a
        · rw [same, here]
        · rw [rest.done mb ((List.mem_cons.1 mem).resolve_left same) k (by rw [other mb same]; exact hk) pk, other mb same]
          unfold Claims.ended
          rw [now]
      · have off : mb ≠ a := fun same => out.elim (fun n => n (same ▸ List.mem_cons_self)) (fun n => by
          have no := n j (same ▸ running)
          rw [picked] at no
          exact nomatch no)
        rw [rest.kept mb (out.imp (fun n m => n (List.mem_cons_of_mem _ m)) fun n => by rw [other mb off]; exact n), other mb off]
      · have no := none_ a List.mem_cons_self j running
        rw [picked] at no
        exact nomatch no
    · rw [eq]
      have rest := ih distinct s
      refine ⟨rest.frame, fun mb mem k hk pk => ?_, fun mb out => ?_, fun none' => rest.idle fun mb mem => none' mb (List.mem_cons_of_mem _ mem)⟩
      · obtain rfl | mem := List.mem_cons.1 mem
        · rw [none_ k hk] at pk; exact nomatch pk
        · exact rest.done mb mem k hk pk
      · exact rest.kept mb (out.imp_left fun n m => n (List.mem_cons_of_mem _ m))

theorem ended_endCommands (s : State) (v : Nat) (p : Running → Bool) : Ended s (State.endCommands s v p) (List.range 17) p v :=
  ended_foldl v p (List.range 17) List.nodup_range s

/-! ### The report -/

/-- The fence is reported, and a power-up of the region has ended. -/
structure RegionReported (s t : State) (r : Nat) : Prop where
  frame : t = { s with host := { s.host with mailboxes := t.host.mailboxes }, jobs := t.jobs, tel := t.tel }
  done : ∀ mb k, mb < 17 → (State.mailbox s mb).running = some k → k.code = 0x0103 → k.stage = 1 → k.values = [r] →
    State.mailbox t mb = Claims.ended s (State.mailbox s mb) 0xFFFC
  kept : ∀ mb, (17 ≤ mb ∨ ¬ ∃ k, (State.mailbox s mb).running = some k ∧ k.code = 0x0103 ∧ k.stage = 1 ∧ k.values = [r]) →
    State.mailbox t mb = State.mailbox s mb
  idle : ¬ Claims.poweringUp s r → t.host = s.host ∧ t.jobs = s.jobs
  alarm : Claims.alarmed s t 0x63 1 r 0
  counted : Claims.counted s t .recoveryEvents 8 0 1
  reports : Reports [counterKey .recoveryEvents 8 0] s t
  ring : t.tel.logRing = s.tel.logRing

/-- A mailbox that runs a power-up of the region is one of those that do. -/
theorem poweringUp_of {s : State} {r mb : Nat} {k : Running} (running : (State.mailbox s mb).running = some k) (code : k.code = 0x0103) (stage : k.stage = 1)
    (values : k.values = [r]) : Claims.poweringUp s r := by
  unfold State.mailbox NMap.get at running
  cases found : NMap.find s.host.mailboxes mb with
  | none => rw [found] at running; exact nomatch running
  | some x =>
    rw [found] at running
    exact ⟨(mb, x), NMap.mem_of_find found, k, running, code, stage, values⟩

theorem regionReported (s : State) (r : Nat) : RegionReported s (State.regionReported s r) r := by
  unfold State.regionReported
  have ended := ended_endCommands s 0xFFFC (fun k => decide (k.code = 0x0103 ∧ k.stage = 1 ∧ k.values = [r]))
  generalize State.endCommands s 0xFFFC (fun k => decide (k.code = 0x0103 ∧ k.stage = 1 ∧ k.values = [r])) = u at ended
  have utel : u.tel = s.tel := by rw [ended.frame]
  have now : u.timebase = s.timebase := by rw [ended.frame]
  have alarm := alarmed_raise u 0x63 1 r 0
  have first := reports_raise u 0x63 1 r 0
  have only := onlyRecords_raise u 0x63 1 r 0
  have ring : (State.raise u 0x63 1 r 0).tel.logRing = u.tel.logRing := by
    obtain ⟨path, eq⟩ := State.raise_eq u 0x63 1 r 0
    rw [eq]
  generalize State.raise u 0x63 1 r 0 = v at alarm first only ring
  have counted := counted_recoveryEvent v 8
  have second := reports_recoveryEvent v 8
  have only' := only.trans (onlyRecords_recoveryEvent v 8)
  have quiet := quiet_recoveryEvent v 8
  generalize State.recoveryEvent v 8 = t at counted second only' quiet
  have host : t.host = u.host := by rw [only']
  have jobs : t.jobs = u.jobs := by rw [only']
  have box : ∀ mb, State.mailbox t mb = State.mailbox u mb := fun mb => by unfold State.mailbox; rw [host]
  have before : Reports [] s u := reports_of_tel utel
  refine ⟨by rw [only', ended.frame], fun mb k hmb running code stage values => ?_, fun mb out => ?_, fun none_ => ?_, ?_, ?_, before.trans (first.trans second), ?_⟩
  · rw [box, ended.done mb (List.mem_range.2 hmb) k running (decide_eq_true ⟨code, stage, values⟩)]
  · rw [box, ended.kept mb (out.imp (fun far mem => absurd (List.mem_range.1 mem) (Nat.not_lt.2 far)) fun no k running =>
      decide_eq_false fun ⟨code, stage, values⟩ => no ⟨k, running, code, stage, values⟩)]
  · have same := ended.idle fun mb _ k running => decide_eq_false fun ⟨code, stage, values⟩ => none_ (poweringUp_of running code stage values)
    exact ⟨by rw [host, same], by rw [jobs, same]⟩
  · exact alarmed_of now (second.alarmed alarm)
  · exact (before.trans first).counted_before (by decide) (fun h => nomatch h) counted
  · have same : t.tel.logRing = v.tel.logRing := by rw [quiet]
    rw [same, ring, utel]

end Sys2Proof.Machine
end

section
/-!
SUPPORT. The fence of a region, and the module that enters FAULTED by it (R511, R521 to R523).
-/

namespace Sys2Proof.Machine

/-! ### The fence where the module goes on -/

/-- The counters that the fence of region `r` advances. -/
def fenceKeys (r : Nat) : List Nat := (counterKey .rcWriteback 0 r :: downKeys (regionPorts r)) ++ [counterKey .recoveryEvents 8 0]

/-- Region `r` has been fenced, and the module goes on. -/
structure Fenced (s t : State) (r : Nat) (answers : Bool) : Prop where
  fenced : Claims.regionFenced s t r answers
  others : ∀ p, p / 5 ≠ r → State.port t p = State.port s p
  frame : t = { s with
    regions := t.regions, ports := t.ports, power := t.power, tel := t.tel, time := t.time, stackQueue := t.stackQueue, homeQueue := t.homeQueue
    host := { s.host with mailboxes := t.host.mailboxes }, jobs := t.jobs }
  time : (∀ p, p / 5 = r → ¬ Claims.portUp (State.port s p)) → t.time = s.time
  host : ¬ Claims.poweringUp s r → t.host = s.host ∧ t.jobs = s.jobs
  boxes : ∀ mb, let ends := ∃ k, (State.mailbox s mb).running = some k ∧ k.code = 0x0103 ∧ k.stage = 1 ∧ k.values = [r]
    (mb < 17 → ends → State.mailbox t mb = Claims.ended s (State.mailbox s mb) 0xFFFC) ∧ (17 ≤ mb ∨ ¬ ends → State.mailbox t mb = State.mailbox s mb)
  reports : Reports (fenceKeys r) s t

theorem not_mem_fence (r : Nat) {row : Nat} (event : counterKey .recoveryEvents row 0 ≠ counterKey .recoveryEvents 2 0) :
    counterKey .recoveryEvents row 0 ∉ counterKey .rcWriteback 0 r :: downKeys (regionPorts r) := by
  rw [List.mem_cons, not_or]
  exact ⟨counterKey_ne (by decide) _ _ _ _, not_mem_downKeys_of (by decide) _ _ event⟩

section
variable {s u v t : State} {r : Nat} {answers : Bool}

/-- The three parts of a fence. -/
theorem regionFenced_of (down : RegionDown s u r answers) (dark : RegionDark u v r) (told : RegionReported v t r) : Claims.regionFenced s t r answers := by
  have later := dark.reports.trans told.reports
  have regions : ∀ q, State.region t q = State.region u q := State.region_congr (by rw [told.frame, dark.frame])
  have ports : ∀ p, State.port t p = State.port v p := State.port_congr (by rw [told.frame])
  have tpower : t.power = v.power := by rw [told.frame]
  have upower : u.power = s.power := by rw [down.frame]
  have power : PowerDark s.power t.power r := by rw [tpower, ← upower]; exact dark.power
  have queue : t.stackQueue = v.stackQueue := by rw [told.frame]
  have uqueue : u.stackQueue = s.stackQueue := by rw [down.frame]
  have homes : t.homeQueue = homesUnjoined s.homeQueue r := by rw [told.frame, dark.homes, down.frame]
  have ring : u.tel.logRing = s.tel.logRing := by rw [down.quiet]
  have now : v.timebase = s.timebase := by rw [dark.frame, down.frame]
  obtain ⟨rails, railOthers, asked, held, whole, cool, crit⟩ := power
  obtain ⟨kept, lost⟩ := dark.ring
  rw [ring] at lost
  simp only [ring] at kept
  refine ⟨(regions r).trans down.region, fun q hq => (regions q).trans (down.regions q hq), fun on some_ => ?_, fun none_ => ?_, fun p hp => ?_, fun p hp up => ?_, rails, railOthers,
    asked, held, whole, cool, crit, ?_, homes, ?_, fun mem => told.reports.flags 6 (lost mem), ?_, ?_⟩
  · refine later.counted_after (down.written on some_) (by decide) fun h => ?_
    exact counterKey_ne (by decide) _ _ _ _ (List.mem_singleton.1 h)
  · exact (later.counter (by decide) fun h => counterKey_ne (by decide) _ _ _ _ (List.mem_singleton.1 h)).trans (down.clean none_)
  · rw [ports, dark.ports p hp, down.ports p hp]
    rfl
  · refine later.counted_after (down.counted p hp ((portUp_iff _).2 up)) (by decide) fun h => ?_
    exact counterKey_ne (by decide) _ _ _ _ (List.mem_singleton.1 h)
  · rw [queue, ← uqueue]; exact dark.fills
  · rw [told.ring]; exact kept
  · exact alarmed_of now told.alarm
  · exact (down.reports.trans dark.reports).counted_before (by decide) (by rw [List.append_nil]; exact not_mem_fence r (by decide)) told.counted

theorem fenced_of (down : RegionDown s u r answers) (dark : RegionDark u v r) (told : RegionReported v t r) : Fenced s t r answers := by
  have ports : ∀ p, State.port t p = State.port v p := State.port_congr (by rw [told.frame])
  have host : v.host = s.host := by rw [dark.frame, down.frame]
  have jobs : v.jobs = s.jobs := by rw [dark.frame, down.frame]
  have now : v.timebase = s.timebase := by rw [dark.frame, down.frame]
  have box : ∀ mb, State.mailbox v mb = State.mailbox s mb := fun mb => by unfold State.mailbox; rw [host]
  refine ⟨regionFenced_of down dark told, fun p hp => ?_, by rw [told.frame, dark.frame, down.frame], fun idle => ?_, fun none_ => ?_, fun mb => ⟨fun hmb ends => ?_, fun out => ?_⟩,
    down.reports.trans (dark.reports.trans told.reports)⟩
  · rw [ports, dark.others p hp, down.others p hp]
  · have time : t.time = u.time := by rw [told.frame, dark.frame]
    rw [time]
    exact down.idle fun p hp => Bool.eq_false_iff.2 (mt (portUp_iff _).1 (idle p hp))
  · have same := told.idle (by unfold Claims.poweringUp; rw [host]; exact none_)
    exact ⟨same.1.trans host, same.2.trans jobs⟩
  · obtain ⟨k, running, code, stage, values⟩ := ends
    rw [told.done mb k hmb (by rw [box]; exact running) code stage values, box]
    unfold Claims.ended
    rw [now]
  · rw [told.kept mb (by rw [box]; exact out), box]

end

theorem fenced {s : State} {r : Nat} (hr : r < 8) (answers : Bool) (clear : ∀ p, p / 5 = r → Claims.clearPort s p) :
    Fenced s (State.regionReported (State.regionDark (State.regionDown s r answers) r) r) r answers :=
  fenced_of (regionDown hr answers clear) (regionDark _ r) (regionReported _ r)

/-! ### Too many regions fenced -/

theorem tooManyFenced_iff {s t : State} {r : Nat} (here : (State.region t r).fenced = true) (others : ∀ q, q ≠ r → State.region t q = State.region s q) :
    State.tooManyFenced t = true ↔ Claims.failsModule s r := by
  have at_ : ∀ q, (State.region t q).fenced = true ↔ q = r ∨ (State.region s q).fenced = true := fun q => by
    by_cases same : q = r
    · rw [same]; exact iff_of_true here (.inl rfl)
    · rw [others q same, or_iff_right same]
  unfold State.tooManyFenced Claims.failsModule
  dsimp only
  rw [Bool.or_eq_true, List.all_eq_true, List.any_eq_true]
  refine or_congr ⟨fun h q hq => (at_ q).1 (h q (List.mem_range.2 hq)), fun h q hq => (at_ q).2 (h q (List.mem_range.1 hq))⟩ (exists_congr fun q => ?_)
  rw [List.mem_range, Bool.and_eq_true, at_, at_]

/-! ### FAULTED -/

/-- The module has entered FAULTED. -/
structure Faulted (s t : State) : Prop where
  regions : t.regions = s.regions
  power : t.power = s.power
  fills : t.stackQueue = s.stackQueue
  homes : t.homeQueue = s.homeQueue
  ring : t.tel.logRing = s.tel.logRing
  phase : t.phase = .faulted
  joined : t.joined = false
  counted : Claims.counted s t .recoveryEvents 10 0 1
  reports : Reports (downKeys ((List.range 40).filter (fun q => Port.engaged (State.port s q))) ++ [counterKey .recoveryEvents 10 0]) s t
  left : s.joined = true → ∀ p, p < 40 → Port.engaged (State.port s p) = true → State.port t p = Port.cleared (State.port s p) .detect s.timebase
  kept : ∀ p, p < 40 → Port.engaged (State.port s p) = false → State.port t p = State.port s p
  done : ∀ mb, mb < 17 → ∀ k, (State.mailbox s mb).running = some k → State.mailbox t mb = Claims.ended s (State.mailbox s mb) 0xFFFC
  still : ∀ mb, (State.mailbox s mb).running = none → State.mailbox t mb = State.mailbox s mb

/-- The module is out of JOINED, its ports back in bring-up. -/
structure Left (s t : State) : Prop where
  frame : t = { s with joined := false, ports := t.ports, tel := t.tel, time := t.time, fabric := t.fabric }
  taken : s.joined = true → ∀ p, p < 40 → Port.engaged (State.port s p) = true → State.port t p = Port.cleared (State.port s p) .detect s.timebase
  kept : ∀ p, p < 40 → Port.engaged (State.port s p) = false → State.port t p = State.port s p
  reports : Reports (downKeys ((List.range 40).filter (fun q => Port.engaged (State.port s q)))) s t
  quiet : Quiet s.tel t.tel

theorem Reports.more {k : List Nat} {s t : State} (h : Reports [] s t) : Reports k s t where
  quiet := fun key flag _ => h.quiet key flag (fun m => nomatch m)
  sent := h.sent
  flags := h.flags

theorem left_of_idle {s : State} (idle : Idle s) : Left s (State.left s) := by
  unfold State.left
  cases joined : s.joined with
  | false =>
    rw [if_neg Bool.false_ne_true]
    exact ⟨by rw [← joined], (fun h => by rw [joined] at h; exact nomatch h), fun _ _ _ => rfl, (Reports.refl s).more, rfl⟩
  | true =>
    rw [if_pos rfl]
    obtain ⟨frame, clock, taken, kept, reports, quiet⟩ := disengaged_leaveJoined idle
    generalize State.leaveJoined s = t at frame clock taken kept reports quiet
    exact ⟨by rw [frame]; rfl, fun _ p hp on => taken p hp (List.mem_range.2 hp) on, fun p hp off => kept p hp (.inr off), ⟨reports.quiet, reports.sent, reports.flags⟩, quiet⟩

theorem faulted {s : State} (idle : Idle s) : Faulted s (State.enterFaulted s) := by
  rw [State.enterFaulted_eq]
  obtain ⟨frame, taken, kept, reports, quiet⟩ := left_of_idle idle
  generalize State.left s = u at frame taken kept reports quiet
  generalize hv : ({ u with phase := .faulted } : State) = v
  have vframe : v = { u with phase := .faulted } := hv.symm
  have ended := ended_endCommands v 0xFFFC (fun _ => true)
  generalize State.endCommands v 0xFFFC (fun _ => true) = w at ended
  have only := onlyRecords_recoveryEvent w 10
  have counted := counted_recoveryEvent w 10
  have last := reports_recoveryEvent w 10
  have silent := quiet_recoveryEvent w 10
  generalize State.recoveryEvent w 10 = t at only counted last silent
  have vbox : ∀ mb, State.mailbox v mb = State.mailbox s mb := fun mb => by unfold State.mailbox; rw [vframe, frame]
  have tbox : ∀ mb, State.mailbox t mb = State.mailbox w mb := fun mb => by unfold State.mailbox; rw [only]
  have port : ∀ p, State.port t p = State.port u p := State.port_congr (by rw [only, ended.frame, vframe])
  have now : v.timebase = s.timebase := by rw [vframe, frame]
  have wtel : w.tel = u.tel := by rw [ended.frame, vframe]
  have middle : Reports [] u w := reports_of_tel wtel
  have ring : t.tel.logRing = s.tel.logRing := by
    have first : u.tel.logRing = s.tel.logRing := by rw [quiet]
    have second : t.tel.logRing = w.tel.logRing := by rw [silent]
    rw [second, wtel, first]
  refine ⟨by rw [only, ended.frame, vframe, frame], by rw [only, ended.frame, vframe, frame], by rw [only, ended.frame, vframe, frame],
    by rw [only, ended.frame, vframe, frame], ring, by rw [only, ended.frame, vframe], by rw [only, ended.frame, vframe, frame], ?_, ?_, fun joined p hp on => ?_, fun p hp off => ?_,
    fun mb hmb k running => ?_, fun mb none_ => ?_⟩
  · refine (reports.trans middle).counted_before (by decide) ?_ counted
    rw [List.append_nil]
    exact not_mem_downKeys_of (by decide) _ _ (by decide)
  · exact reports.trans (middle.trans last)
  · rw [port, taken joined p hp on]
  · rw [port, kept p hp off]
  · rw [tbox, ended.done mb (List.mem_range.2 hmb) k (by rw [vbox]; exact running) rfl, vbox]
    unfold Claims.ended
    rw [now]
  · rw [tbox, ended.kept mb (.inr fun k running => by rw [vbox, none_] at running; exact nomatch running), vbox]

end Sys2Proof.Machine
end

section
/-!
SUPPORT. What a fence of a region does, whichever event asks for it (R18, R511, R521 to R523).
-/

namespace Sys2Proof.Machine

section
variable {s u t : State} {r : Nat} {answers : Bool}

/-- A module that enters FAULTED leaves its fenced region as the fence has left it. -/
theorem regionFenced_faulted (hr : r < 8) (h : Claims.regionFenced s u r answers) (f : Faulted u t) : Claims.regionFenced s t r answers := by
  obtain ⟨region, regions, written, clean, ports, counted, rails, railOthers, asked, held, whole, cool, crit, fills, homes, ring, flag, alarm, recovered⟩ := h
  have same : ∀ q, State.region t q = State.region u q := State.region_congr f.regions
  have kept : ∀ p, p / 5 = r → State.port t p = State.port u p := fun p hp => by
    refine f.kept p (by omega) ?_
    rw [ports p hp]
    rfl
  have quiet : ∀ {c : Counter} {p i : Nat}, Counter.code c ≠ Counter.code .linkDowns → Counter.code c ≠ Counter.code .flagEvents →
      counterKey c p i ≠ counterKey .recoveryEvents 2 0 → counterKey c p i ≠ counterKey .recoveryEvents 10 0 →
      counterKey c p i ∉ downKeys ((List.range 40).filter (fun q => Port.engaged (State.port u q))) ++ [counterKey .recoveryEvents 10 0] :=
    fun down _ two ten h => (List.mem_append.1 h).elim (not_mem_downKeys_of down _ _ two) (fun m => ten (List.mem_singleton.1 m))
  have links : ∀ p, p / 5 = r → counterKey .linkDowns 0 p ∉
      downKeys ((List.range 40).filter (fun q => Port.engaged (State.port u q))) ++ [counterKey .recoveryEvents 10 0] := fun p hp h => by
    obtain down | event := List.mem_append.1 h
    · refine not_mem_downKeys (fun q mem => List.mem_range.1 (List.mem_filter.1 mem).1) (by omega) (fun mem => ?_) down
      have engaged := (List.mem_filter.1 mem).2
      rw [ports p hp] at engaged
      exact nomatch engaged
    · exact counterKey_ne (by decide) _ _ _ _ (List.mem_singleton.1 event)
  have back : ∀ i, counterKey .rcWriteback 0 i ∉
      downKeys ((List.range 40).filter (fun q => Port.engaged (State.port u q))) ++ [counterKey .recoveryEvents 10 0] :=
    fun i => quiet (by decide) (by decide) (counterKey_ne (by decide) _ _ _ _) (counterKey_ne (by decide) _ _ _ _)
  refine ⟨(same r).trans region, fun q hq => (same q).trans (regions q hq), fun on some_ => f.reports.counted_after (written on some_) (by decide) (back r),
    fun none_ => (f.reports.counter (by decide) (back r)).trans (clean none_), fun p hp => ?_, fun p hp up => f.reports.counted_after (counted p hp up) (by decide) (links p hp), ?_⟩
  · rw [kept p hp]; exact ports p hp
  · rw [show State.regionPower t = State.regionPower u from funext fun q => by unfold State.regionPower; rw [f.power], f.power, f.fills, f.homes, f.ring]
    exact ⟨rails, railOthers, asked, held, whole, cool, crit, fills, homes, ring, fun mem => f.reports.flags 6 (flag mem), f.reports.alarmed alarm,
      f.reports.counted_after recovered (by decide) (quiet (by decide) (by decide) (by decide) (by decide))⟩

theorem idle_of_fenced (clear : ∀ p, Claims.clearPort s p) (f : Fenced s u r answers) : Idle u := by
  refine ⟨fun q _ => ?_, fun e mem => ?_⟩
  · by_cases here : q / 5 = r
    · obtain ⟨-, -, -, -, ports, -⟩ := f.fenced
      rw [ports q here]
      exact ⟨rfl, rfl⟩
    · rw [f.others q here]
      exact ⟨(clear q).2.1, (clear q).1⟩
  · rw [f.frame] at mem
    cases arrived : e.2 with
    | none => rfl
    | some a => exact absurd rfl ((clear a.1).2.2.2 e mem a arrived)

/-- The commands of a module that enters FAULTED have ended, whether the fence ended them or FAULTED. -/
theorem boxes_faulted (f : Fenced s u r answers) (g : Faulted u t) {mb : Nat} (hmb : mb < 17) :
    (∀ k, (State.mailbox s mb).running = some k → State.mailbox t mb = Claims.ended s (State.mailbox s mb) 0xFFFC) ∧
      ((State.mailbox s mb).running = none → State.mailbox t mb = State.mailbox s mb) := by
  obtain ⟨done, kept⟩ := f.boxes mb
  have now : u.timebase = s.timebase := by rw [f.frame]
  constructor
  · intro k running
    by_cases ends : ∃ k, (State.mailbox s mb).running = some k ∧ k.code = 0x0103 ∧ k.stage = 1 ∧ k.values = [r]
    · have over_ := done hmb ends
      rw [g.still mb (by rw [over_]; rfl), over_]
    · have same := kept (.inr ends)
      rw [g.done mb hmb k (by rw [same]; exact running), same]
      unfold Claims.ended
      rw [now]
  · intro none_
    have same := kept (.inr fun ⟨k, running, _⟩ => by rw [none_] at running; exact nomatch running)
    rw [g.still mb (by rw [same]; exact none_), same]

end

theorem engaged_iff (x : Port) : Port.engaged x = true ↔ Claims.portUp x ∨ x.state = .join := by
  unfold Port.engaged
  rw [Bool.or_eq_true, decide_eq_true_iff]
  exact or_congr_left (portUp_iff x)

/-- R511, R521 to R523: the fence of a region. -/
theorem fencesRegion_fenceRegion {s : State} {r : Nat} (hr : r < 8) (serves : (State.region s r).fenced = false) (answers : Bool) :
    Claims.fencesRegion s (State.fenceRegion s r answers) r answers := by
  have eq := (State.fenceRegion_eq s r answers).trans (if_neg (by rw [serves]; exact Bool.false_ne_true))
  dsimp only at eq
  rw [eq]
  refine ⟨fun clear goesOn => ?_, fun clear fails => ?_⟩
  · have f := fenced hr answers clear
    generalize State.regionReported (State.regionDark (State.regionDown s r answers) r) r = t at f
    obtain ⟨region, regions, -⟩ := f.fenced
    have few : ¬ State.tooManyFenced t = true := mt (tooManyFenced_iff (by rw [region]) regions).1 goesOn
    rw [if_neg few]
    exact ⟨f.fenced, f.others, f.frame, f.time, f.host, f.boxes⟩
  · have f := fenced hr answers fun p _ => clear p
    generalize State.regionReported (State.regionDark (State.regionDown s r answers) r) r = u at f
    obtain ⟨region, regions, -⟩ := f.fenced
    have many : State.tooManyFenced u = true := (tooManyFenced_iff (by rw [region]) regions).2 fails
    rw [if_pos many]
    have g := faulted (idle_of_fenced clear f)
    generalize State.enterFaulted u = t at g
    have joined : u.joined = s.joined := by rw [f.frame]
    have now : u.timebase = s.timebase := by rw [f.frame]
    have ten : counterKey .recoveryEvents 10 0 ∉ fenceKeys r := fun h =>
      (List.mem_append.1 h).elim (not_mem_fence r (by decide)) fun m => absurd (List.mem_singleton.1 m) (by decide)
    refine ⟨regionFenced_faulted hr f.fenced g, g.phase, g.joined, f.reports.counted_before (by decide) ten g.counted, fun on p hp off up => ?_,
      fun mb hmb => boxes_faulted f g hmb⟩
    rw [g.left (joined.trans on) p hp (by rw [f.others p off]; exact (engaged_iff _).2 up), f.others p off, now]
    rfl

/-! ### RC_HEARTBEAT_TIMEOUT, THERMAL_FENCE_EXPIRY, a package packet's fourth failure -/

section
variable {s : State} {r : Nat}

theorem exec_rcHeartbeatTimeout (hr : r < 8) (on : (State.regionPower s r).on = true) (serves : (State.region s r).fenced = false) :
    exec (.rcHeartbeatTimeout r) s = .next (State.fenceRegion (State.raise s 0xC3 1 r 0) r false) := by
  have run : exec (.rcHeartbeatTimeout r) s = execRcHeartbeatTimeout r s := rfl
  exact run.trans (if_pos ⟨hr, on, by rw [serves]; rfl⟩)

theorem exec_rcHeartbeatTimeout_off (off : (State.regionPower s r).on = false ∨ (State.region s r).fenced = true) : exec (.rcHeartbeatTimeout r) s = .next s := by
  have run : exec (.rcHeartbeatTimeout r) s = execRcHeartbeatTimeout r s := rfl
  refine run.trans (if_neg fun ⟨_, on, serves⟩ => ?_)
  obtain down | fenced := off
  · rw [down] at on; exact nomatch on
  · rw [fenced] at serves; exact nomatch serves

/-- Of a state whose log and alarms alone have grown a fence says the same. -/
theorem fencesRegion_of_raise {t : State} {code k o d : Nat} {answers : Bool} (h : Claims.fencesRegion (State.raise s code k o d) t r answers) :
    Claims.fencesRegion s t r answers := by
  obtain ⟨path, eq⟩ := State.raise_eq s code k o d
  rw [eq] at h
  exact h

/-- R521: RC_HEARTBEAT_TIMEOUT. -/
theorem rcHeartbeatTimeout_fences (hr : r < 8) (on : (State.regionPower s r).on = true) (serves : (State.region s r).fenced = false) :
    ∃ t, exec (.rcHeartbeatTimeout r) s = .next t ∧ Claims.alarmed s t 0xC3 1 r 0 ∧ Claims.fencesRegion s t r false := by
  have serves' : (State.region (State.raise s 0xC3 1 r 0) r).fenced = false := by
    rw [State.region_congr (show (State.raise s 0xC3 1 r 0).regions = s.regions by rw [onlyRecords_raise s 0xC3 1 r 0])]
    exact serves
  exact ⟨_, exec_rcHeartbeatTimeout hr on serves, Sent.fenceRegion (alarmed_raise s 0xC3 1 r 0) r false, fencesRegion_of_raise (fencesRegion_fenceRegion hr serves' false)⟩

/-- A sensor of the region is at or above 105 °C. -/
def State.scorched (s : State) (r : Nat) : Bool :=
  s.power.temps.any (fun e => (match e.1.cls with
    | .computeDie => decide (e.1.unit = r)
    | .baseDie => decide (e.1.unit = r)
    | .memoryStack => decide (e.1.unit / 2 = r)
    | _ => false) && decide (105 ≤ e.2))

theorem exec_thermalFenceExpiry {t0 : Stamp} (crit : NMap.find s.power.critSince r = some t0) : exec (.thermalFenceExpiry r) s =
    if r < 8 ∧ t0 + 100000000 ≤ s.timebase ∧ State.scorched s r = true then .next (State.fenceRegion s r true) else .next s := by
  have run : exec (.thermalFenceExpiry r) s = execThermalFenceExpiry r s := rfl
  unfold execThermalFenceExpiry at run
  rw [crit] at run
  exact run

theorem scorched_of (hot : ∃ e ∈ s.power.temps, 105 ≤ e.2 ∧
    (((e.1.cls = .computeDie ∨ e.1.cls = .baseDie) ∧ e.1.unit = r) ∨ (e.1.cls = .memoryStack ∧ e.1.unit / 2 = r))) : State.scorched s r = true := by
  obtain ⟨e, mem, high, at_⟩ := hot
  refine List.any_eq_true.2 ⟨e, mem, Bool.and_eq_true_iff.2 ⟨?_, decide_eq_true high⟩⟩
  obtain ⟨cls | cls, here⟩ | ⟨cls, here⟩ := at_
  all_goals rw [cls]; exact decide_eq_true here

/-- R511: THERMAL_FENCE_EXPIRY. -/
theorem thermalFenceExpiry_fences {t0 : Stamp} (hr : r < 8) (crit : NMap.find s.power.critSince r = some t0) (serves : (State.region s r).fenced = false) :
    (t0 + 100000000 ≤ s.timebase → (∃ e ∈ s.power.temps, 105 ≤ e.2 ∧
        (((e.1.cls = .computeDie ∨ e.1.cls = .baseDie) ∧ e.1.unit = r) ∨ (e.1.cls = .memoryStack ∧ e.1.unit / 2 = r))) →
      ∃ t, exec (.thermalFenceExpiry r) s = .next t ∧ Claims.fencesRegion s t r true) ∧
    (s.timebase < t0 + 100000000 → exec (.thermalFenceExpiry r) s = .next s) :=
  ⟨fun late hot => ⟨_, (exec_thermalFenceExpiry crit).trans (if_pos ⟨hr, late, scorched_of hot⟩), fencesRegion_fenceRegion hr serves true⟩,
    fun early => (exec_thermalFenceExpiry crit).trans (if_neg fun ⟨_, late, _⟩ => Int.not_le.2 early late)⟩

/-- R18: the fourth failure of a package packet fences the region that sends it. -/
theorem packagePacket_fences {id : Nat} {p : PackagePacket} (hr : p.source < 8) (serves : (State.region s p.source).fenced = false)
    (only : State.onlyInto s id p) (failed : 3 ≤ NMap.get (State.region s p.source).retries 0 p.destination) :
    ∃ t m, exec (.packagePacket p.source p.destination p.cls false) s = .next t ∧ NMap.find m p.destination = none ∧
      (∀ j, j ≠ p.destination → NMap.find m j = NMap.find (State.region s p.source).retries j) ∧
      Claims.fencesRegion (State.setRegion s p.source { State.region s p.source with retries := m }) t p.source true := by
  have run := (exec_packagePacket_only only false).trans ((if_neg Bool.false_ne_true).trans (if_neg (Nat.not_lt.2 failed)))
  refine ⟨_, _, run, (NMap.find_erase ..).trans (if_pos rfl), fun j hj => (NMap.find_erase ..).trans (if_neg (Ne.symm hj)), fencesRegion_fenceRegion hr ?_ true⟩
  rw [State.region_setRegion, if_pos rfl]
  exact serves

end

theorem fences : Claims.fences := by
  refine ⟨fun s c hc => blockFence (exec_uncontainedCellFailure s hc), fun s b hb => blockFence (exec_blockParityFailure s hb), fencedResponses,
    fun s r hr on serves => rcHeartbeatTimeout_fences hr on serves, fun s r off => exec_rcHeartbeatTimeout_off off,
    fun s r t0 hr crit serves => thermalFenceExpiry_fences hr crit serves, ?_⟩
  rintro s a b id cls p ha - - serves mem rfl rfl rfl only failed
  exact packagePacket_fences ha serves ⟨mem, only⟩ failed

end Sys2Proof.Machine
end

section
open Sys2Proof Sys2Proof.Machine

/-- Settles O59: fences from what a block and a region lose, alarms, ring stalls, the log and traces from what Baker's records gain. -/
theorem failuresAreReported : Obligations.FailuresAreReported := by
  unfold Obligations.FailuresAreReported
  exact ⟨fences, alarms, ringStalls, logs, traces⟩

end

section
open Sys2Proof Sys2Proof.Machine

/-- Settles O3: nothing is listed at reset, so every indexed part reads its Reset column. -/
theorem resetValues : Obligations.ResetValues := by
  unfold Obligations.ResetValues
  refine ⟨rfl, rfl, rfl, rfl, rfl, rfl, rfl, rfl, fun _ => rfl, fun _ => rfl, fun _ => ⟨rfl, rfl⟩, fun _ => ⟨rfl, rfl⟩, fun _ => rfl, ?_⟩
  decide

end

section
/-!
SUPPORT. The timebase, which few commands move (R47): what the operations of a cell and of its memory leave alone.
-/

open Sys2Proof
namespace Sys2Proof.Machine

/-- The timebase once an answer has been given: that of the next state, or, where the machine stops, that of the state it stopped in. -/
def timeAfter (s : State) (o : Host.Outcome State Fault Refusal) : Nat :=
  match o with
  | .next t => t.timebase
  | _ => s.timebase
@[simp] theorem timeAfter_next (s t : State) : timeAfter s (.next t) = t.timebase := by unfold timeAfter; rfl
@[simp] theorem timeAfter_fault (s : State) (r : Fault) : timeAfter s (.fault r) = s.timebase := by unfold timeAfter; rfl
@[simp] theorem timeAfter_refused (s : State) (r : Refusal) : timeAfter s (.refused r) = s.timebase := by unfold timeAfter; rfl

@[simp] theorem foldl_timebase {α : Type} (f : State → α → State) (l : List α) (s : State) (h : ∀ t a, (f t a).timebase = t.timebase) :
    (l.foldl f s).timebase = s.timebase := by
  induction l generalizing s with
  | nil => rfl
  | cons a l ih => exact (ih _).trans (h s a)

@[simp] theorem foldl_fst_timebase {α β : Type} (f : State × β → α → State × β) (l : List α) (p : State × β)
    (h : ∀ q a, (f q a).1.timebase = q.1.timebase) : (l.foldl f p).1.timebase = p.1.timebase := by
  induction l generalizing p with
  | nil => rfl
  | cons a l ih => exact (ih _).trans (h p a)

/-- The timebase of the state that `o` gives, or `n` where it gives none. -/
def timeOr (n : Nat) (o : Option State) : Nat := o.elim n State.timebase
@[simp] theorem timeOr_none (n : Nat) : timeOr n none = n := by unfold timeOr; rfl
@[simp] theorem timeOr_some (n : Nat) (s : State) : timeOr n (some s) = s.timebase := by unfold timeOr; rfl

@[simp] theorem getD_timebase (o : Option State) (s : State) : (o.getD s).timebase = timeOr s.timebase o := by cases o <;> rfl

theorem timeOr_of {o : Option State} {m : Nat} (h : ∀ t, o = some t → t.timebase = m) (n : Nat) : timeOr n o = if o.isSome then m else n := by
  cases o with
  | none => rfl
  | some t => exact h t rfl

/-- An operation that may not be possible leaves the timebase alone where it is made. -/
theorem timebase_of_some {o : Option State} {m : Nat} {t : State} (h : timeOr 0 o = if o.isSome then m else 0) (run : o = some t) : t.timebase = m := by
  subst run; exact h

theorem ite_timebase {p : Prop} [Decidable p] {s t : State} {n : Nat} (hs : s.timebase = n) (ht : t.timebase = n) : (if p then s else t).timebase = n := by
  split <;> assumption

theorem ite_fst_timebase {p : Prop} [Decidable p] {β : Type} {a b : State × β} {n : Nat} (ha : a.1.timebase = n) (hb : b.1.timebase = n) :
    (if p then a else b).1.timebase = n := by
  split <;> assumption

/-- A count that is made only where there is something to count. -/
@[simp] theorem countUnless_timebase (p : Prop) [Decidable p] (s : State) (c : Counter) (q i n : Nat) :
    (if p then s else State.count s c q i n).timebase = s.timebase := ite_timebase rfl (State.count_timebase ..)
@[simp] theorem countIf_timebase (p : Prop) [Decidable p] (s : State) (c : Counter) (q i n : Nat) :
    (if p then State.count s c q i n else s).timebase = s.timebase := ite_timebase (State.count_timebase ..) rfl

theorem timeAfter_ite {p : Prop} [Decidable p] {s : State} {a b : Host.Outcome State Fault Refusal} {n : Nat} (ha : timeAfter s a = n)
    (hb : timeAfter s b = n) : timeAfter s (if p then a else b) = n := by
  split <;> assumption

/-! ### Flags -/

@[simp] theorem State.w1cSet_timebase (s : State) (key : Nat) : (State.w1cSet s key).timebase = s.timebase := by unfold State.w1cSet; rfl
@[simp] theorem State.free_timebase (s : State) : (State.free s).2.timebase = s.timebase := by unfold State.free; rfl

/-! ### Shared operations -/

@[simp] theorem State.spoil_timebase (s : State) (c : Nat) (rs : List (Nat × Nat)) : (State.spoil s c rs).timebase = s.timebase := by
  simp [State.spoil, apply_ite State.timebase]

@[simp] theorem State.storeSector_timebase (s : State) (r o : Nat) (bs : NMap Byte) (poison : Bool) :
    (State.storeSector s r o bs poison).timebase = s.timebase := by
  simp [State.storeSector, apply_ite State.timebase]

@[simp] theorem State.park_timebase (s : State) (g : GroupLoc) (grp : Group) (p : ParkCause) (pc : BitVec 31) (insn : DWord) :
    (State.park s g grp p pc insn).timebase = s.timebase := by
  simp [State.park, apply_ite State.timebase]

@[simp] theorem State.reads_timebase (s : State) (g : GroupLoc) (ws : List DWord) (rs : Group → List (Nat × Nat)) :
    (State.reads s g ws rs).timebase = s.timebase := by
  unfold State.reads; split <;> simp

/-! ### Operands -/

@[simp] theorem State.issued_timebase (s : State) (sh : Shape) (g : GroupLoc) (f : RegForm) (before after : Group) :
    (State.issued s sh g f before after).timebase = s.timebase := by
  unfold State.issued
  rfl

@[simp] theorem State.runReg_timebase (s : State) (op : Nat) (sh : Shape) (g : GroupLoc) (f : RegForm) (sem : Operands → Group → Group) :
    (State.runReg s op sh g f sem).timebase = s.timebase := by
  unfold State.runReg; (repeat' split) <;> simp

/-! ### Requests -/

@[simp] theorem State.splitUnit_timebase (s : State) (id : Nat) (q : HomeRequest) (st : RequestStage) :
    (State.splitUnit s id q st).1.timebase = s.timebase := by
  unfold State.splitUnit; dsimp only; split <;> simp

@[simp] theorem State.cross_timebase (s : State) (id : Nat) (q : HomeRequest) (r : Nat) : (State.cross s id q r).timebase = s.timebase := by
  unfold State.cross; dsimp only; (repeat' split) <;> simp

@[simp] theorem State.passCaches_timebase (s : State) (c fa : Nat) (part : NMap Byte) (poison : Bool) :
    (State.passCaches s c fa part poison).timebase = s.timebase := by
  unfold State.passCaches
  rfl

@[simp] theorem State.passAtomic_timebase (s : State) (c fa : Nat) : (State.passAtomic s c fa).timebase = s.timebase := by
  unfold State.passAtomic
  rfl

@[simp] theorem State.passBody_timebase (s : State) (c : Nat) (q : HomeRequest) : (State.passBody s c q).timebase = s.timebase := by
  unfold State.passBody; dsimp only; split <;> simp

@[simp] theorem State.leaveCell_timebase (s : State) (id : Nat) : (State.leaveCell s id).timebase = s.timebase := by
  unfold State.leaveCell; dsimp only; (repeat' split) <;> simp

@[simp] theorem State.grantBlock_timebase (n : Nat) (s : State) (b : Nat) (k : TrafficClass) : (State.grantBlock n s b k).timebase = s.timebase := by
  induction n generalizing s with
  | zero => rfl
  | succ n ih =>
    unfold State.grantBlock
    dsimp only
    split
    · rfl
    · split
      · rfl
      · simp [apply_ite State.timebase, ih]

@[simp] theorem State.grantPackage_timebase (s : State) : (State.grantPackage s).timebase = s.timebase := by
  refine foldl_timebase _ _ _ fun t e => ?_
  split
  · rfl
  · split
    · rfl
    · simp [apply_ite State.timebase]

@[simp] theorem State.grantRound_timebase (s : State) : (State.grantRound s).timebase = s.timebase := by simp [State.grantRound]

@[simp] theorem State.grantUpTo_timebase (n : Nat) (s : State) : (State.grantUpTo n s).timebase = s.timebase := by
  induction n generalizing s with
  | zero => rfl
  | succ n ih => simp [State.grantUpTo, apply_ite State.timebase, ih]

@[simp] theorem State.grant_timebase (s : State) : (State.grant s).timebase = s.timebase := by simp [State.grant]

@[simp] theorem State.sendHome_timebase (s : State) (source : HomeSource) (pa : Nat) (body : HomeBody) (scope cls : Nat) (tag : Half) (uses answers :
  Option Nat) (after : List Nat) (begins : Bool) :
    (State.sendHome s source pa body scope cls tag uses answers after begins).timebase = s.timebase := by
  simp [State.sendHome]

@[simp] theorem State.passRequest_timebase (s : State) (c m : Nat) (b : RequestBody) : (State.passRequest s c m b).timebase = s.timebase := by
  unfold State.passRequest; dsimp only; split <;> simp [apply_ite State.timebase]

@[simp] theorem State.transmit_timebase (s : State) (c slot op : Nat) (q : RequestPacket) (miss copy : Option Nat) (n : Nat) :
    timeOr n (State.transmit s c slot op q miss copy) = if (State.transmit s c slot op q miss copy).isSome then s.timebase else n := by
  refine timeOr_of (fun t run => ?_) n
  unfold State.transmit at run
  dsimp only at run
  split at run
  · exact nomatch run
  · obtain rfl := Option.some.inj run
    simp only [apply_ite State.timebase, State.emit_timebase, ite_self]
    split
    · simp
    · split <;> simp

@[simp] theorem State.sendRemote_timebase (s : State) (c slot op scope : Nat) (q : RequestPacket) (miss : Option Nat) (after : List Nat) :
    (State.sendRemote s c slot op scope q miss after).timebase = s.timebase := by
  simp [State.sendRemote, apply_ite State.timebase]

@[simp] theorem State.openFetches_timebase (before s : State) (c miss : Nat) : (State.openFetches before s c miss).timebase = s.timebase := by
  refine foldl_timebase _ _ _ fun t e => ?_
  split <;> simp [apply_ite State.timebase]

/-! ### The sieve -/

@[simp] theorem State.feed_timebase (s : State) (c tag : Nat) (xs : List Num) : (State.feed s c tag xs).timebase = s.timebase := by
  simp [State.feed, apply_ite State.timebase]

@[simp] theorem State.saturate_timebase (s : State) (c slot n : Nat) : (State.saturate s c slot n).timebase = s.timebase := by
  simp [State.saturate, apply_ite State.timebase]

@[simp] theorem State.passStep_timebase (s : State) (c : Nat) (b : Word) : (State.passStep s c b).timebase = s.timebase := by
  unfold State.passStep
  rfl

theorem execSieveBankMerge_timebase (c : Nat) (s : State) : timeAfter s (execSieveBankMerge c s) = s.timebase := by
  unfold execSieveBankMerge; dsimp only; split <;> simp

@[simp] theorem State.completeStep_timebase (s : State) (slot : Nat) (m : Word) (g : SlotMerge) :
    (State.completeStep s slot m g).timebase = s.timebase := by
  simp [State.completeStep, apply_ite State.timebase]

@[simp] theorem State.settleSlot_timebase (s : State) (slot n : Nat) : (State.settleSlot s slot n).timebase = s.timebase := by
  induction n generalizing s with
  | zero => rfl
  | succ n ih => unfold State.settleSlot; split <;> simp [apply_ite State.timebase, ih]

@[simp] theorem State.settle_timebase (s : State) (slot : Nat) : (State.settle s slot).timebase = s.timebase := by simp [State.settle]

@[simp] theorem State.contribute_timebase (s : State) (slot : Nat) (step : Word) (h : Histogram) :
    (State.contribute s slot step h).timebase = s.timebase := by
  simp [State.contribute, apply_ite State.timebase]

theorem execHistogramContribution_timebase (region slot : Nat) (s : State) : timeAfter s (execHistogramContribution region slot s) = s.timebase := by
  simp [execHistogramContribution, apply_ite State.timebase]

theorem execScaleStallExpiry_timebase (slot : Nat) (s : State) : timeAfter s (execScaleStallExpiry slot s) = s.timebase := by
  unfold execScaleStallExpiry; dsimp only; split <;> simp [apply_ite (timeAfter _)]

theorem execSatDirect_timebase (slot : Nat) (s : State) : timeAfter s (execSatDirect slot s) = s.timebase := by
  unfold execSatDirect; dsimp only; split <;> simp [apply_ite (timeAfter _)]

theorem execRescaleReport_timebase (slot : Nat) (s : State) : timeAfter s (execRescaleReport slot s) = s.timebase := by
  unfold execRescaleReport; dsimp only; split <;> simp [apply_ite (timeAfter _)]

theorem execScaleFetch_timebase (c slot : Nat) (s : State) : timeAfter s (execScaleFetch c slot s) = s.timebase := by
  unfold execScaleFetch; dsimp only; split <;> simp [apply_ite (timeAfter _)]

theorem execScaleAnswer_timebase (c slot : Nat) (s : State) : timeAfter s (execScaleAnswer c slot s) = s.timebase := by
  unfold execScaleAnswer; (repeat' split) <;> simp

/-! ### Descriptors -/

@[simp] theorem State.increment_timebase (s : State) (c k amount : Nat) : (State.increment s c k amount).timebase = s.timebase := by
  unfold State.increment
  rfl

@[simp] theorem State.disturbGlobal_timebase (s : State) (fas : List Nat) : (State.disturbGlobal s fas).timebase = s.timebase := by
  simp [State.disturbGlobal, apply_ite State.timebase]

@[simp] theorem State.unitView_timebase (s : State) (c : Nat) (rs : List (Nat × Nat)) (l : List Nat) :
    (State.unitView s c rs l).2.timebase = s.timebase := by
  unfold State.unitView
  rfl

/-! ### The copy unit -/

/-- Reading, if it is possible, leaves the timebase alone. -/
theorem State.copyRead_timebase {s : State} {c : Nat} {k : CopySlot} {space : Nat} {start : Int} {n : Nat} {a : State × List Byte × List Bool}
    (run : State.copyRead s c k space start n = some a) : a.1.timebase = s.timebase := by
  unfold State.copyRead at run
  dsimp only at run
  split at run
  · obtain rfl := Option.some.inj run
    simp
  · split at run
    · obtain rfl := Option.some.inj run
      rfl
    · exact nomatch run

@[simp] theorem State.copyWrite_timebase (s : State) (c slot space : Nat) (start : Int) (bs : List Byte) (marks : List Bool) :
    (State.copyWrite s c slot space start bs marks).timebase = s.timebase := by
  simp [State.copyWrite, apply_ite State.timebase]

@[simp] theorem State.copyCounts_timebase (s : State) (c : Nat) (n : CopyCounts) : (State.copyCounts s c n).timebase = s.timebase := by
  simp [State.copyCounts, apply_ite State.timebase]

theorem State.copySource_timebase {s : State} {c : Nat} {k : CopySlot} {r : Nat} {a : State × List Byte × List Bool × List Byte × List Bool}
    (run : State.copySource s c k r = some a) : a.1.timebase = s.timebase := by
  unfold State.copySource at run
  dsimp only at run
  split at run
  · obtain rfl := Option.some.inj run
    rfl
  · split at run
    · exact nomatch run
    · next first =>
      split at run
      · exact nomatch run
      · next second =>
        obtain rfl := Option.some.inj run
        exact (State.copyRead_timebase second).trans (State.copyRead_timebase first)

@[simp] theorem State.copyRow_timebase (s : State) (c slot : Nat) (k : CopySlot) (r : Nat) (counts : Bool) (n : Nat) :
    timeOr n (State.copyRow s c slot k r counts) = if (State.copyRow s c slot k r counts).isSome then s.timebase else n := by
  refine timeOr_of (fun t run => ?_) n
  unfold State.copyRow at run
  split at run
  · exact nomatch run
  · next u _ _ _ _ source =>
    have read : u.timebase = s.timebase := State.copySource_timebase source
    obtain rfl := Option.some.inj run
    simp [apply_ite State.timebase, read]

@[simp] theorem State.copyRows_timebase (s : State) (c slot : Nat) : (State.copyRows s c slot).timebase = s.timebase := by
  unfold State.copyRows
  split
  · rfl
  · split
    · rfl
    · refine foldl_timebase _ _ _ fun t r => ?_
      split
      · next run => exact (State.modCell_timebase ..).trans (timebase_of_some (State.copyRow_timebase ..) run)
      · rfl

@[simp] theorem State.copyArrive_timebase (s : State) (c slot : Nat) (sectors : NMap SectorData) :
    (State.copyArrive s c slot sectors).timebase = s.timebase := by
  simp [State.copyArrive]

@[simp] theorem State.copyAgain_timebase (s : State) (c slot : Nat) (rows : List Nat) : (State.copyAgain s c slot rows).timebase = s.timebase := by
  refine foldl_timebase _ _ _ fun t r => ?_
  split <;> simp

/-! ### Register forms -/

theorem execMov_timebase (g : GroupLoc) (f : RegForm) (s : State) : timeAfter s (execMov g f s) = s.timebase := by simp [execMov]
theorem execSrd_timebase (g : GroupLoc) (f : RegForm) (s : State) : timeAfter s (execSrd g f s) = s.timebase := by simp [execSrd]
theorem execVote_timebase (g : GroupLoc) (f : RegForm) (s : State) : timeAfter s (execVote g f s) = s.timebase := by simp [execVote]

/-! ### The homes -/

@[simp] theorem State.setRegionLines_timebase (s : State) (r o : Nat) (l : List RegionLine) :
    (State.setRegionLines s r o l).timebase = s.timebase := by
  unfold State.setRegionLines
  rfl

@[simp] theorem State.touchRegion_timebase (s : State) (r o : Nat) (f : RegionLine → RegionLine) :
    (State.touchRegion s r o f).timebase = s.timebase := by
  unfold State.touchRegion; dsimp only; split <;> simp

@[simp] theorem State.dirtySector_timebase (s : State) (r o : Nat) : (State.dirtySector s r o).timebase = s.timebase := by simp [State.dirtySector]
@[simp] theorem State.useRead_timebase (s : State) (r o : Nat) : (State.useRead s r o).timebase = s.timebase := by simp [State.useRead]
@[simp] theorem State.setUses_timebase (s : State) (r o u : Nat) : (State.setUses s r o u).timebase = s.timebase := by simp [State.setUses]

@[simp] theorem State.correctedError_timebase (s : State) (r o : Nat) : (State.correctedError s r o).timebase = s.timebase := by
  unfold State.correctedError
  rfl

@[simp] theorem State.uncorrectableError_timebase (s : State) (r o sub : Nat) : (State.uncorrectableError s r o sub).timebase = s.timebase := by
  simp [State.uncorrectableError]

@[simp] theorem State.readStack_timebase (s : State) (r o sub : Nat) (out : SectorOutcome) :
    (State.readStack s r o sub out).1.timebase = s.timebase := by
  unfold State.readStack; (repeat' split) <;> simp

@[simp] theorem State.stackIssue_timebase (s : State) (r line : Nat) (write : Bool) : (State.stackIssue s r line write).timebase = s.timebase := by
  unfold State.stackIssue
  rfl

@[simp] theorem State.evict_timebase (s : State) (r : Nat) (v : RegionLine) (n : Nat) :
    timeOr n (State.evict s r v) = if (State.evict s r v).isSome then s.timebase else n := by
  refine timeOr_of (fun t run => ?_) n
  dsimp only [State.evict] at run
  by_cases clean : v.dirty.isEmpty
  · obtain rfl := Option.some.inj ((if_pos clean).symm.trans run)
    simp
  · obtain ⟨-, written⟩ := Option.ite_none_right_eq_some.1 ((if_neg clean).symm.trans run)
    obtain rfl := Option.some.inj written
    simp

@[simp] theorem State.allocate_timebase (s : State) (r o cls : Nat) (tag : Half) (n : Nat) :
    timeOr n (State.allocate s r o cls tag) = if (State.allocate s r o cls tag).isSome then s.timebase else n := by
  refine timeOr_of (fun t run => ?_) n
  unfold State.allocate at run
  dsimp only at run
  split at run
  · obtain rfl := Option.some.inj run
    rfl
  · split at run
    · obtain rfl := Option.some.inj run
      simp [apply_ite State.timebase]
    · split at run
      · exact nomatch run
      · obtain ⟨u, evicted, rfl⟩ := Option.map_eq_some_iff.1 run
        simp [apply_ite State.timebase, timebase_of_some (State.evict_timebase ..) evicted]

@[simp] theorem State.fillLine_timebase (s : State) (r line : Nat) (outcomes : List SectorOutcome) :
    (State.fillLine s r line outcomes).timebase = s.timebase := by
  simp [State.fillLine, apply_ite State.timebase]

@[simp] theorem State.useLine_timebase (s : State) (r line cls : Nat) (tag : Half) (copyRead : Bool) :
    (State.useLine s r line cls tag copyRead).timebase = s.timebase := by
  simp [State.useLine]

@[simp] theorem State.readForGroup_timebase (s : State) (r line : Nat) (secs : List Nat) :
    (State.readForGroup s r line secs).1.timebase = s.timebase := by
  unfold State.readForGroup
  rfl

@[simp] theorem State.writeHome_timebase (s : State) (r o : Nat) (bs : NMap Byte) (poison : Bool) :
    (State.writeHome s r o bs poison).timebase = s.timebase := by
  simp [State.writeHome]

@[simp] theorem State.storeLine_timebase (s : State) (r line : Nat) (bs : NMap Byte) (poison : List Nat) :
    (State.storeLine s r line bs poison).timebase = s.timebase := by
  simp [State.storeLine, apply_ite State.timebase]

@[simp] theorem State.atomicHome_timebase (s : State) (r line : Nat) (op : AtomicOp) (signed : Bool) (size : Nat) (lanes : List AtomicLane) :
    (State.atomicHome s r line op signed size lanes).1.timebase = s.timebase := by
  unfold State.atomicHome; dsimp only; split <;> simp

@[simp] theorem State.storeLocal_timebase (s : State) (c : Nat) (bytes : NMap (Byte × Bool)) (touched : List (Nat × Nat)) :
    (State.storeLocal s c bytes touched).timebase = s.timebase := by
  simp [State.storeLocal]

@[simp] theorem State.atomicLocal_timebase (s : State) (c : Nat) (op : AtomicOp) (signed : Bool) (size : Nat) (lanes : List AtomicLane) :
    (State.atomicLocal s c op signed size lanes).1.timebase = s.timebase := by
  simp [State.atomicLocal, apply_ite State.timebase]

@[simp] theorem State.releaseLocal_timebase (s : State) (c id : Nat) (h : HeldLocal) : (State.releaseLocal s c id h).timebase = s.timebase := by
  unfold State.releaseLocal; dsimp only; (repeat' split) <;> simp

@[simp] theorem State.releasePacket_timebase (s : State) (c id : Nat) (h : HeldPacket) : (State.releasePacket s c id h).timebase = s.timebase := by
  simp [State.releasePacket, apply_ite State.timebase]

@[simp] theorem State.flushOnce_timebase (s : State) (c : Nat) : (State.flushOnce s c).timebase = s.timebase := by simp [State.flushOnce]

@[simp] theorem State.flushUpTo_timebase (n : Nat) (s : State) (c : Nat) : (State.flushUpTo n s c).timebase = s.timebase := by
  induction n generalizing s with
  | zero => rfl
  | succ n ih => simp [State.flushUpTo, apply_ite State.timebase, ih]

@[simp] theorem State.flushHeld_timebase (s : State) (c : Nat) : (State.flushHeld s c).timebase = s.timebase := by simp [State.flushHeld]

@[simp] theorem State.moveOn_timebase (s : State) (p : Nat → Bool) : (State.moveOn s p).timebase = s.timebase := by
  simp [State.moveOn, apply_ite State.timebase]

@[simp] theorem State.landSectors_timebase (s : State) (id : Nat) (q : HomeRequest) (data : NMap SectorData) :
    (State.landSectors s id q data).timebase = s.timebase := by
  unfold State.landSectors; dsimp only; (repeat' split) <;> simp

@[simp] theorem State.landValues_timebase (s : State) (id c : Nat) (values : NMap (DWord × Bool)) (unchanged : Nat) :
    (State.landValues s id c values unchanged).timebase = s.timebase := by
  simp [State.landValues, apply_ite State.timebase]

@[simp] theorem State.land_timebase (s : State) (h : PackageHeader) (data : List Byte) : (State.land s h data).timebase = s.timebase := by
  unfold State.land; split <;> simp

@[simp] theorem State.reply_timebase (s : State) (r id c : Nat) (h : PackageHeader) (data : List Byte) :
    (State.reply s r id c h data).timebase = s.timebase := by
  simp [State.reply, apply_ite State.timebase]

@[simp] theorem State.refuse_timebase (s : State) (q : RequestPacket) (st : AnswerStatus) (granule : Nat) :
    (State.refuse s q st granule).timebase = s.timebase := by
  unfold State.refuse
  rfl

@[simp] theorem State.transferDone_timebase (s : State) (t : Transfer) : (State.transferDone s t).timebase = s.timebase := by
  unfold State.transferDone; dsimp only; split <;> simp [apply_ite State.timebase]

@[simp] theorem State.transferLine_timebase (s : State) (t id : Nat) (sectors : NMap SectorData) :
    (State.transferLine s t id sectors).timebase = s.timebase := by
  unfold State.transferLine; dsimp only; split <;> simp [apply_ite State.timebase]

@[simp] theorem State.answerSectors_timebase (s : State) (id : Nat) (q : HomeRequest) (data : NMap SectorData) :
    (State.answerSectors s id q data).timebase = s.timebase := by
  unfold State.answerSectors; split <;> simp

@[simp] theorem State.answerStore_timebase (s : State) (id : Nat) (q : HomeRequest) : (State.answerStore s id q).timebase = s.timebase := by
  unfold State.answerStore; split <;> simp

@[simp] theorem State.answerValues_timebase (s : State) (id : Nat) (q : HomeRequest) (values : NMap (DWord × Bool)) (unchanged : Nat) :
    (State.answerValues s id q values unchanged).timebase = s.timebase := by
  unfold State.answerValues; dsimp only; split <;> simp

@[simp] theorem State.perform_timebase (s : State) (id : Nat) (q : HomeRequest) : (State.perform s id q).timebase = s.timebase := by
  unfold State.perform
  dsimp only
  split
  · split <;> simp
  · simp
  · cases q.uses <;> simp
  · simp
  · rfl

@[simp] theorem State.turnAway_timebase (s : State) (id : Nat) (q : HomeRequest) : (State.turnAway s id q).timebase = s.timebase := by
  unfold State.turnAway; (repeat' split) <;> simp

@[simp] theorem State.homeGranted_timebase (s : State) (q : HomeRequest) : (State.homeGranted s q).timebase = s.timebase := by
  unfold State.homeGranted
  rfl

@[simp] theorem State.taken_timebase (s : State) (id : Nat) : (State.taken s id).timebase = s.timebase := by unfold State.taken; rfl

@[simp] theorem State.takeHome_timebase (s : State) (id : Nat) (q : HomeRequest) (w : HomeWay) : (State.takeHome s id q w).timebase = s.timebase := by
  cases w <;> simp [State.takeHome, apply_ite State.timebase]

@[simp] theorem State.homeRequest_timebase (s : State) (id : Nat) : (State.homeRequest s id).timebase = s.timebase := by
  unfold State.homeRequest; (repeat' split) <;> simp

@[simp] theorem State.stackComplete_timebase (s : State) (id : Nat) (outcomes : List SectorOutcome) :
    (State.stackComplete s id outcomes).timebase = s.timebase := by
  unfold State.stackComplete; dsimp only; split <;> simp [apply_ite State.timebase]

@[simp] theorem State.sendLines_timebase (s : State) (t : Transfer) (cls : Nat) (tag : Half) (uses : Option Nat) (parts : List (Nat × HomeBody)) :
    (State.sendLines s t cls tag uses parts).timebase = s.timebase := by
  simp [State.sendLines, apply_ite State.timebase]

@[simp] theorem State.bringLine_timebase (s : State) (r line cls : Nat) (tag : Half) (needs : List Nat) (outcomes : List SectorOutcome) :
    (State.bringLine s r line cls tag needs outcomes).timebase = s.timebase := by
  simp [State.bringLine, apply_ite State.timebase]

@[simp] theorem State.readPhysical_timebase (s : State) (pa n : Nat) (outcomes : List SectorOutcome) :
    (State.readPhysical s pa n outcomes).1.timebase = s.timebase := by
  have read := foldl_fst_timebase (fun (acc : State × NMap SectorData) li =>
    let h := homeOf (State.ilv acc.1) li.1
    let secs := (List.range 4).filter (fun i => decide (li.1 + 32 * i < pa + n ∧ pa < li.1 + 32 * i + 32))
    let put (m d : NMap SectorData) : NMap SectorData := d.foldl (fun m e => NMap.insert m (li.1 / 32 + e.1) e.2) m
    if h.2.2 && State.regionServes acc.1 h.1 then
      let s := State.bringLine acc.1 h.1 h.2.1 1 0 secs (outcomes.drop (4 * li.2))
      (State.useRead s h.1 h.2.1, put acc.2 (State.readLine s h.1 h.2.1 secs))
    else (acc.1, put acc.2 (lostSectors secs))) (linesOf pa n).zipIdx (s, []) (fun q a => by dsimp only; split <;> simp)
  unfold State.readPhysical
  dsimp only
  cases (linesOf pa n).find? _ with
  | none => exact read
  | some l => simpa using read

@[simp] theorem State.writePhysical_timebase (s : State) (pa : Nat) (bs : List Byte) (marks : List Bool) (cls : Nat) (tag : Half)
    (outcomes : List SectorOutcome) : (State.writePhysical s pa bs marks cls tag outcomes).timebase = s.timebase := by
  unfold State.writePhysical
  dsimp only
  cases (linesOf pa bs.length).find? _ <;> simp [apply_ite State.timebase]

@[simp] theorem State.fillCaches_timebase (s : State) (c line : Nat) (m : Miss) (secs : NMap SectorData) :
    (State.fillCaches s c line m secs).timebase = s.timebase := by
  simp [State.fillCaches, apply_ite State.timebase]

@[simp] theorem State.spareRow_timebase (s : State) (channel bank row : Nat) : (State.spareRow s channel bank row).timebase = s.timebase := by
  simp [State.spareRow, apply_ite State.timebase]

theorem execRowSpare_timebase (channel bank row : Nat) (s : State) : timeAfter s (execRowSpare channel bank row s) = s.timebase := by
  simp [execRowSpare, apply_ite (timeAfter _)]

@[simp] theorem State.scrubSector_timebase (s : State) (r o : Nat) (out : SectorOutcome) : (State.scrubSector s r o out).timebase = s.timebase := by
  simp [State.scrubSector, apply_ite State.timebase]

theorem execPatrolScrub_timebase (region offset : Nat) (out : SectorOutcome) (s : State) :
    timeAfter s (execPatrolScrub region offset out s) = s.timebase := by
  simp [execPatrolScrub, apply_ite (timeAfter _)]

/-! ### Remote requests -/

@[simp] theorem State.loadAnswered_timebase (s : State) (c m base : Nat) (st : AnswerStatus) (secs : NMap SectorData) :
    (State.loadAnswered s c m base st secs).timebase = s.timebase := by
  unfold State.loadAnswered; dsimp only; split <;> simp [apply_ite State.timebase]

@[simp] theorem State.getAnswered_timebase (s : State) (c slot base dest op n : Nat) (a : AnswerPacket) (last : Bool) :
    (State.getAnswered s c slot base dest op n a last).timebase = s.timebase := by
  simp [State.getAnswered]

@[simp] theorem State.discardAnswer_timebase (s : State) (t : Transaction) (last : Bool) : (State.discardAnswer s t last).timebase = s.timebase := by
  unfold State.discardAnswer
  rfl

@[simp] theorem State.bindingArrived_timebase (s : State) (ring op : Nat) (a : AnswerPacket) :
    (State.bindingArrived s ring op a).timebase = s.timebase := by
  simp [State.bindingArrived, apply_ite State.timebase]

@[simp] theorem State.answerCell_timebase (s : State) (t : Transaction) (a : AnswerPacket) (last : Bool) :
    (State.answerCell s t a last).timebase = s.timebase := by
  unfold State.answerCell; dsimp only; (repeat' split) <;> simp

@[simp] theorem State.completeTxn_timebase (s : State) (rn e : Nat) (t : Transaction) (a : AnswerPacket) :
    (State.completeTxn s rn e t a).timebase = s.timebase := by
  simp [State.completeTxn, apply_ite State.timebase]

@[simp] theorem State.settleUpTo_timebase (n : Nat) (s : State) (rn : Nat) : (State.settleUpTo n s rn).timebase = s.timebase := by
  induction n generalizing s with
  | zero => rfl
  | succ n ih => unfold State.settleUpTo; split <;> simp [ih]

@[simp] theorem State.settleRegion_timebase (s : State) (rn : Nat) : (State.settleRegion s rn).timebase = s.timebase := by simp [State.settleRegion]
@[simp] theorem State.settleAll_timebase (s : State) : (State.settleAll s).timebase = s.timebase := by simp [State.settleAll]

@[simp] theorem State.takeAnswer_timebase (s : State) (a : AnswerPacket) (kind : Nat) : (State.takeAnswer s a kind).timebase = s.timebase := by
  unfold State.takeAnswer; dsimp only; split <;> simp [apply_ite State.timebase]

theorem execRspTimeoutExpiry_timebase (region entry : Nat) (s : State) : timeAfter s (execRspTimeoutExpiry region entry s) = s.timebase := by
  unfold execRspTimeoutExpiry; (repeat' split) <;> simp

theorem execHomeRequest_timebase (id : Nat) (s : State) : timeAfter s (execHomeRequest id s) = s.timebase := by simp [execHomeRequest]

theorem execStackCommandComplete_timebase (id : Nat) (outcomes : List SectorOutcome) (s : State) :
    timeAfter s (execStackCommandComplete id outcomes s) = s.timebase := by
  simp [execStackCommandComplete]

@[simp] theorem State.admission_timebase (s : State) (q : RequestPacket) (pa : Nat) : (State.admission s q pa).1.timebase = s.timebase := by
  unfold State.admission; dsimp only; (repeat' split) <;> simp

@[simp] theorem State.homeAccess_timebase (s : State) (q : RequestPacket) (base n granule : Nat) (reads : Bool) (uses : Option Nat) (parts : List
  (Nat × HomeBody)) :
    (State.homeAccess s q base n granule reads uses parts).timebase = s.timebase := by
  simp [State.homeAccess]

@[simp] theorem State.ifAdmitted_timebase (s : State) (q : RequestPacket) (pa : Nat) (go : State → State) (no : State → AnswerStatus → State) :
    timeAfter s (State.ifAdmitted s q pa go no) =
      if q.destination ≠ s.moduleNumber then s.timebase
      else if (State.admission s q pa).2 = .done then (go (State.admission s q pa).1).timebase else (no (State.admission s q pa).1 (State.admission s
        q pa).2).timebase := by
  simp [State.ifAdmitted, apply_ite (timeAfter _), apply_ite State.timebase]

theorem execLoad_timebase (q : RequestPacket) (s : State) : timeAfter s (execLoad q s) = s.timebase := by unfold execLoad; split <;> simp
theorem execStore_timebase (q : RequestPacket) (s : State) : timeAfter s (execStore q s) = s.timebase := by unfold execStore; split <;> simp
theorem execAtomic_timebase (q : RequestPacket) (s : State) : timeAfter s (execAtomic q s) = s.timebase := by unfold execAtomic; split <;> simp

theorem execGet_timebase (q : RequestPacket) (s : State) : timeAfter s (execGet q s) = s.timebase := by
  unfold execGet
  split <;> simp

theorem execPut_timebase (q : RequestPacket) (s : State) : timeAfter s (execPut q s) = s.timebase := by unfold execPut; split <;> simp

theorem execNotifyPacket_timebase (q : RequestPacket) (s : State) : timeAfter s (execNotifyPacket q s) = s.timebase := by
  unfold execNotifyPacket; dsimp only; split <;> simp [apply_ite (timeAfter _)]

/-! ### Loads and stores -/

@[simp] theorem State.countReplay_timebase (s : State) (c passes : Nat) : (State.countReplay s c passes).timebase = s.timebase := by
  simp [State.countReplay, apply_ite State.timebase]

@[simp] theorem State.ask_timebase (s : State) (c slot op scope cls : Nat) (tag : Half) (a : Ask) :
    (State.ask s c slot op scope cls tag a).1.timebase = s.timebase := by
  unfold State.ask
  dsimp only
  split
  · exact State.setCell_timebase ..
  · refine ite_fst_timebase ((State.sendRemote_timebase ..).trans ?_) (ite_fst_timebase ?_ ((State.sendHome_timebase ..).trans ?_))
    all_goals
      refine ite_timebase ((countUnless_timebase ..).trans ((countUnless_timebase ..).trans ?_)) ?_ <;>
        exact ite_timebase rfl (State.setBlock_timebase ..)

@[simp] theorem State.askAll_timebase (s : State) (c slot op scope cls : Nat) (tag : Half) (asks : List Ask) :
    (State.askAll s c slot op scope cls tag asks).1.timebase = s.timebase := by
  refine foldl_fst_timebase _ _ _ fun acc a => ?_
  simp [apply_ite Prod.fst, apply_ite State.timebase]

@[simp] theorem State.askLater_timebase (s : State) (c : Nat) : (State.askLater s c).timebase = s.timebase := by
  simp [State.askLater, apply_ite State.timebase]

@[simp] theorem State.slotWait_timebase (s : State) (c slot age : Nat) (channels : List (Option Nat)) :
    (State.slotWait s c slot age channels).timebase = s.timebase := by
  unfold State.slotWait
  rfl

@[simp] theorem State.slotWaitOver_timebase (s : State) (c slot : Nat) : (State.slotWaitOver s c slot).timebase = s.timebase := by
  unfold State.slotWaitOver
  rfl

@[simp] theorem State.startLoad_timebase (s : State) (c slot op : Nat) (kind : AccessKind) (reg scope cls : Nat) (tag : Half)
    (lanes : List (LaneAddr × Bool)) (n : Nat) : timeOr n (State.startLoad s c slot op kind reg scope cls tag lanes) =
      if (State.startLoad s c slot op kind reg scope cls tag lanes).isSome then s.timebase else n := by
  refine timeOr_of (fun t run => ?_) n
  unfold State.startLoad at run
  dsimp only at run
  split at run
  · exact nomatch run
  · obtain rfl := Option.some.inj run
    simp [apply_ite State.timebase]

theorem execLineFill_timebase (c id : Nat) (s : State) : timeAfter s (execLineFill c id s) = s.timebase := by
  unfold execLineFill; dsimp only; split <;> simp [apply_ite (timeAfter _)]

theorem State.runMem_timebase {s : State} {op : Nat} {k : MemKind} {g : GroupLoc} {f : MemForm} {want : Want}
    {run : State → Group → List (Nat × Nat × Option Translation) → Option State} (h : ∀ t grp ls, timeOr t.timebase (run t grp ls) = t.timebase) :
    (State.runMem s op k g f want run).timebase = s.timebase := by
  unfold State.runMem
  split
  · rfl
  · split
    · rfl
    · split
      · simp
      · dsimp only
        split
        · simp
        · simp
        · split
          · simp
          · rw [getD_timebase, h, State.modCell_timebase]

@[simp] theorem State.memIssued_timebase (s : State) (g : GroupLoc) (k : MemKind) (f : MemForm) (grp : Group) :
    (State.memIssued s g k f grp).timebase = s.timebase := by
  unfold State.memIssued
  rfl

theorem execLd_timebase (g : GroupLoc) (f : MemForm) (s : State) : timeAfter s (execLd g f s) = s.timebase := by
  refine (State.settleRegion_timebase ..).trans (State.runMem_timebase fun t grp ls => ?_)
  simp [apply_ite (timeOr _)]

@[simp] theorem State.storeGlobal_timebase (s : State) (g : GroupLoc) (f : MemForm) (tag : Half) (after : List Nat) (bytes : NMap (Byte × Bool)) :
    (State.storeGlobal s g f tag after bytes).timebase = s.timebase := by
  simp [State.storeGlobal, apply_ite State.timebase]

@[simp] theorem State.holdLocal_timebase (s : State) (c : Nat) (h : HeldLocal) : (State.holdLocal s c h).timebase = s.timebase := by
  unfold State.holdLocal
  rfl

theorem execSt_timebase (g : GroupLoc) (f : MemForm) (s : State) : timeAfter s (execSt g f s) = s.timebase := by
  refine (State.settleRegion_timebase ..).trans (State.runMem_timebase fun t grp ls => ?_)
  simp [apply_ite (timeOr _), apply_ite State.timebase]

theorem State.atomicGlobal_timebase {s : State} {g : GroupLoc} {f : MemForm} {op : Nat} {aop : AtomicOp} {tag : Half} {after : List Nat}
    {lanes : List AtomicLane} {a : State × List Nat} (run : State.atomicGlobal s g f op aop tag after lanes = some a) : a.1.timebase = s.timebase :=
      by
  unfold State.atomicGlobal at run
  dsimp only at run
  split at run
  · exact nomatch run
  · obtain rfl := Option.some.inj run
    refine foldl_fst_timebase _ _ _ fun acc q => ?_
    split <;> simp [apply_ite State.timebase]

@[simp] theorem State.runAtomic_timebase (s : State) (op : Nat) (k : MemKind) (aop : AtomicOp) (g : GroupLoc) (f : MemForm) :
    (State.runAtomic s op k aop g f).timebase = s.timebase := by
  refine (State.settleRegion_timebase ..).trans (State.runMem_timebase fun t grp ls => ?_)
  dsimp only
  split
  · simp [apply_ite (timeOr _), apply_ite State.timebase]
  · split
    · simp [apply_ite State.timebase]
    · split
      · rfl
      · next run => simp [apply_ite State.timebase, State.atomicGlobal_timebase run]

theorem execFence_timebase (g : GroupLoc) (f : MemForm) (s : State) : timeAfter s (execFence g f s) = s.timebase := by
  unfold execFence; dsimp only; split <;> simp [apply_ite (timeAfter _)]

theorem execInval_timebase (g : GroupLoc) (f : MemForm) (s : State) : timeAfter s (execInval g f s) = s.timebase := by
  unfold execInval; dsimp only; split <;> simp [apply_ite (timeAfter _)]

theorem execLookasideFill_timebase (g : GroupLoc) (s : State) : timeAfter s (execLookasideFill g s) = s.timebase := by
  unfold execLookasideFill; dsimp only; (repeat' split) <;> simp

theorem execInstructionFetch_timebase (g : GroupLoc) (s : State) : timeAfter s (execInstructionFetch g s) = s.timebase := by
  unfold execInstructionFetch
  cases State.group s g with
  | none => rfl
  | some grp =>
    refine timeAfter_ite (timeAfter_next ..) ?_
    dsimp only
    cases pageOf ((grp.codeBase.toNat + 8 * (grp.pc.toNat + grp.fetched.length)) % 2 ^ 64) with
    | none => simp
    | some v =>
      dsimp only
      split
      · split
        · simp
        · exact timeAfter_ite (by simp) (by simp)
      · split
        · exact timeAfter_ite (by simp) (by simp)
        · simp

/-! ### Synchronisation -/

theorem State.runSync_timebase {s : State} {op : Nat} {sh : Shape} {g : GroupLoc} {f : RegForm}
    {range : Group → Operands → Option ParkCause} {effect : State → Group → Operands → Option State}
    (h : ∀ t grp o, timeOr t.timebase (effect t grp o) = t.timebase) : (State.runSync s op sh g f range effect).timebase = s.timebase := by
  unfold State.runSync
  split
  · rfl
  · split
    · rfl
    · dsimp only
      split <;> simp [h]

theorem execCntSet_timebase (g : GroupLoc) (f : RegForm) (s : State) : timeAfter s (execCntSet g f s) = s.timebase :=
  timeAfter_ite (timeAfter_next ..) ((timeAfter_next ..).trans (State.runSync_timebase fun t grp o => by simp))

theorem execCntAdd_timebase (g : GroupLoc) (f : RegForm) (s : State) : timeAfter s (execCntAdd g f s) = s.timebase :=
  timeAfter_ite (timeAfter_next ..) ((timeAfter_next ..).trans (State.runSync_timebase fun t grp o => by simp))

theorem execCntRead_timebase (g : GroupLoc) (f : RegForm) (s : State) : timeAfter s (execCntRead g f s) = s.timebase :=
  timeAfter_ite (timeAfter_next ..) ((timeAfter_next ..).trans (State.runSync_timebase fun t grp o => by simp))

theorem execAwait_timebase (g : GroupLoc) (f : RegForm) (s : State) : timeAfter s (execAwait g f s) = s.timebase :=
  (timeAfter_next ..).trans (State.runSync_timebase fun t grp o => by simp)

theorem execCounterIncrement_timebase (c k amount : Nat) (s : State) : timeAfter s (execCounterIncrement c k amount s) = s.timebase := by
  simp [execCounterIncrement, apply_ite (timeAfter _)]

theorem execNotify_timebase (g : GroupLoc) (f : RegForm) (s : State) : timeAfter s (execNotify g f s) = s.timebase := by
  refine (State.settleRegion_timebase ..).trans (State.runSync_timebase fun t grp o => ?_)
  simp [apply_ite (timeOr _)]

theorem execRnd_timebase (g : GroupLoc) (f : RegForm) (s : State) : timeAfter s (execRnd g f s) = s.timebase := by simp [execRnd]

theorem execStep_timebase (g : GroupLoc) (f : RegForm) (s : State) : timeAfter s (execStep g f s) = s.timebase := by
  refine State.runSync_timebase fun t grp o => ?_
  dsimp only
  split
  · rfl
  · split
    · split <;> simp
    · simp [apply_ite (timeOr _)]

@[simp] theorem State.startCopy_timebase (s : State) (g : GroupLoc) (grp : Group) (f : RegForm) (addr slot : Nat) :
    (State.startCopy s g grp f addr slot).timebase = s.timebase := by
  simp [State.startCopy, apply_ite State.timebase]

theorem execCopy_timebase (g : GroupLoc) (f : RegForm) (s : State) : timeAfter s (execCopy g f s) = s.timebase := by
  unfold execCopy; dsimp only; (repeat' split) <;> simp

@[simp] theorem State.sendMove_timebase (s : State) (c slot : Nat) (k : CopySlot) (m : CopyMove) : (State.sendMove s c slot k m).timebase =
  s.timebase := by
  cases m <;> simp [State.sendMove, apply_ite State.timebase]

theorem execCopyCommand_timebase (c slot : Nat) (s : State) : timeAfter s (execCopyCommand c slot s) = s.timebase := by
  unfold execCopyCommand; dsimp only; (repeat' split) <;> simp

@[simp] theorem State.leaveOpen_timebase (s : State) (c : Nat) (k : CopySlot) : (State.leaveOpen s c k).timebase = s.timebase := by
  simp [State.leaveOpen, apply_ite State.timebase]

theorem execCopyComplete_timebase (c slot : Nat) (s : State) : timeAfter s (execCopyComplete c slot s) = s.timebase := by
  unfold execCopyComplete; (repeat' split) <;> simp [apply_ite (timeAfter _)]

theorem execCopyNotify_timebase (c slot : Nat) (s : State) : timeAfter s (execCopyNotify c slot s) = s.timebase := by
  unfold execCopyNotify
  split
  · rfl
  · split
    · rfl
    · dsimp only
      split
      · rfl
      · next run => simp [timebase_of_some (State.transmit_timebase ..) run]

/-! ### The array -/

@[simp] theorem State.acceptArray_timebase (s : State) (g : GroupLoc) (grp : Group) (o : ArrayOp) (ramps waits : Bool) :
    (State.acceptArray s g grp o ramps waits).timebase = s.timebase := by
  simp [State.acceptArray, apply_ite State.timebase]

theorem State.runUnit_timebase {s : State} {g : GroupLoc} {ws : List DWord} {illegal_ : Group → Option Nat} {park : Group → Option ParkCause}
    {accept : Group → Option State} (h : ∀ grp, timeOr s.timebase (accept grp) = s.timebase) :
    (State.runUnit s g ws illegal_ park accept).timebase = s.timebase := by
  unfold State.runUnit
  split
  · rfl
  · split
    · simp
    · split <;> simp [h]

theorem execMma_timebase (g : GroupLoc) (f : RegForm) (s : State) : timeAfter s (execMma g f s) = s.timebase := by
  refine (State.runUnit_timebase fun grp => ?_).trans ((State.reads_timebase ..).trans (State.reads_timebase ..))
  simp [apply_ite (timeOr _)]

theorem execDopn_timebase (g : GroupLoc) (f : RegForm) (s : State) : timeAfter s (execDopn g f s) = s.timebase := by
  refine (State.runUnit_timebase fun grp => ?_).trans (State.reads_timebase ..)
  dsimp only
  split
  · rfl
  · split <;> simp

theorem execDrn_timebase (g : GroupLoc) (f : RegForm) (s : State) : timeAfter s (execDrn g f s) = s.timebase := by
  refine (State.runUnit_timebase fun grp => ?_).trans (State.reads_timebase ..)
  simp [apply_ite (timeOr _)]

theorem execDcls_timebase (g : GroupLoc) (f : RegForm) (s : State) : timeAfter s (execDcls g f s) = s.timebase := by
  refine State.runUnit_timebase fun grp => ?_
  simp [apply_ite (timeOr _)]

theorem execDqry_timebase (g : GroupLoc) (f : RegForm) (s : State) : timeAfter s (execDqry g f s) = s.timebase := by
  refine State.runUnit_timebase fun grp => ?_
  simp [apply_ite (timeOr _)]

@[simp] theorem State.runSlice_timebase (s : State) (k : Nat) (g : GroupLoc) (f : RegForm) : (State.runSlice s k g f).timebase = s.timebase := by
  unfold State.runSlice
  dsimp only
  split
  · rfl
  · refine State.runUnit_timebase fun grp => ?_
    simp [apply_ite (timeOr _)]

@[simp] theorem State.incrementOf_timebase (s : State) (c : Nat) (k : Option Nat) : (State.incrementOf s c k).timebase = s.timebase := by
  unfold State.incrementOf; split <;> simp

@[simp] theorem State.settleArray_timebase (s : State) (c : Nat) : (State.settleArray s c).timebase = s.timebase := by unfold State.settleArray; rfl
@[simp] theorem State.opView_timebase (s : State) (c : Nat) (o : ArrayOp) : (State.opView s c o).2.timebase = s.timebase := by simp [State.opView]

theorem execMmaOperandRelease_timebase (c k : Nat) (s : State) : timeAfter s (execMmaOperandRelease c k s) = s.timebase := by
  unfold execMmaOperandRelease
  dsimp only
  split
  · rfl
  · split
    · refine timeAfter_ite (timeAfter_next ..) ?_
      cases pairing _ _ with
      | none => rfl
      | some p =>
        simp only [timeAfter_next, State.settleArray_timebase, countUnless_timebase, countIf_timebase, State.count_timebase,
          State.countUnits_timebase, State.incrementOf_timebase, State.modCell_timebase, State.opView_timebase]
    · rfl

theorem execDrawerSettled_timebase (c k d : Nat) (s : State) : timeAfter s (execDrawerSettled c k d s) = s.timebase := by
  unfold execDrawerSettled; split <;> simp

theorem execDopnPreloadDone_timebase (c k d : Nat) (s : State) : timeAfter s (execDopnPreloadDone c k d s) = s.timebase := by
  unfold execDopnPreloadDone; dsimp only; (repeat' split) <;> simp

theorem execDrainStart_timebase (c k d : Nat) (s : State) : timeAfter s (execDrainStart c k d s) = s.timebase := by
  unfold execDrainStart; dsimp only; (repeat' split) <;> simp

@[simp] theorem State.countConversions_timebase (s : State) (c : Nat) (k : ChainCounts) : (State.countConversions s c k).timebase = s.timebase := by
  simp [State.countConversions, apply_ite State.timebase]

theorem execDrainComplete_timebase (c k d : Nat) (s : State) : timeAfter s (execDrainComplete c k d s) = s.timebase := by
  unfold execDrainComplete; dsimp only; (repeat' split) <;> simp

theorem execDrawerClose_timebase (c k d : Nat) (s : State) : timeAfter s (execDrawerClose c k d s) = s.timebase := by
  unfold execDrawerClose; dsimp only; split <;> simp [apply_ite (timeAfter _)]

@[simp] theorem State.closeDrawers_timebase (s : State) (c : Nat) (o : Owner) : (State.closeDrawers s c o).timebase = s.timebase := by
  simp [State.closeDrawers, apply_ite State.timebase]

theorem execSliceAutoRelease_timebase (c k : Nat) (s : State) : timeAfter s (execSliceAutoRelease c k s) = s.timebase := by
  unfold execSliceAutoRelease; dsimp only; split <;> simp [apply_ite (timeAfter _)]

@[simp] theorem State.retireCell_timebase (s : State) (c : Nat) : (State.retireCell s c).timebase = s.timebase := by
  simp [State.retireCell, apply_ite State.timebase]

@[simp] theorem State.faultOwner_timebase (s : State) (c k : Nat) (o : Owner) (at_ : DWord × DWord) :
    (State.faultOwner s c k o at_).timebase = s.timebase := by
  unfold State.faultOwner; dsimp only; split <;> simp [apply_ite State.timebase]

@[simp] theorem State.abandonDrain_timebase (s : State) (c : Nat) (o : ArrayOp) : (State.abandonDrain s c o).timebase = s.timebase := by
  unfold State.abandonDrain; dsimp only; split <;> simp

@[simp] theorem State.failSlice_timebase (s : State) (c k : Nat) : (State.failSlice s c k).timebase = s.timebase := by
  simp [State.failSlice, apply_ite State.timebase]

theorem execSliceFault_timebase (c k : Nat) (s : State) : timeAfter s (execSliceFault c k s) = s.timebase := by
  simp [execSliceFault, apply_ite (timeAfter _)]

theorem execWaveWatchdogExpiry_timebase (c k : Nat) (s : State) : timeAfter s (execWaveWatchdogExpiry c k s) = s.timebase := by
  simp [execWaveWatchdogExpiry, apply_ite (timeAfter _)]

theorem execSliceResetDone_timebase (c k : Nat) (s : State) : timeAfter s (execSliceResetDone c k s) = s.timebase := by
  simp [execSliceResetDone, apply_ite (timeAfter _)]

/-! ### The chain unit -/

@[simp] theorem State.runChain_timebase (s : State) (op : Nat) (g : GroupLoc) (f : RegForm) (size : Nat) (takesKd : Bool) (kind : Nat → ChainKind) :
    (State.runChain s op g f size takesKd kind).timebase = s.timebase := by
  refine (State.runUnit_timebase fun grp => ?_).trans (State.reads_timebase ..)
  simp [apply_ite (timeOr _)]

@[simp] theorem State.runChst_timebase (s : State) (k : Nat) (g : GroupLoc) (f : RegForm) : (State.runChst s k g f).timebase = s.timebase := by
  unfold State.runChst
  dsimp only
  split
  · rfl
  · refine State.runUnit_timebase fun grp => ?_
    simp [apply_ite (timeOr _)]

theorem execChainStart_timebase (c : Nat) (s : State) : timeAfter s (execChainStart c s) = s.timebase := by
  unfold execChainStart; dsimp only; (repeat' split) <;> simp

@[simp] theorem State.countChain_timebase (s : State) (c : Nat) (k : ChainCounts) : (State.countChain s c k).timebase = s.timebase := by
  simp [State.countChain, apply_ite State.timebase]

@[simp] theorem State.residueError_timebase (s : State) (c : Nat) : (State.residueError s c).timebase = s.timebase := by
  simp [State.residueError, apply_ite State.timebase]

theorem execChainComplete_timebase (c : Nat) (residue : Bool) (s : State) : timeAfter s (execChainComplete c residue s) = s.timebase := by
  unfold execChainComplete; dsimp only; split <;> simp [apply_ite State.timebase, apply_ite (timeAfter _)]

end Sys2Proof.Machine
end

section
/-!
SUPPORT. The timebase, and the operations of the links and of the module.
-/

open Sys2Proof
namespace Sys2Proof.Machine

/-! ### Ports and mailboxes -/

@[simp] theorem State.setPort_timebase (s : State) (p : Nat) (x : Port) : (State.setPort s p x).timebase = s.timebase := by unfold State.setPort; rfl

@[simp] theorem State.modPort_timebase (s : State) (p : Nat) (f : Port → Port) : (State.modPort s p f).timebase = s.timebase := by
  unfold State.modPort
  rfl

@[simp] theorem State.modRegionPower_timebase (s : State) (r : Nat) (f : RegionPower → RegionPower) :
    (State.modRegionPower s r f).timebase = s.timebase := by
  unfold State.modRegionPower
  rfl

@[simp] theorem State.modProofer_timebase (s : State) (f : Proofer → Proofer) : (State.modProofer s f).timebase = s.timebase := by
  unfold State.modProofer
  rfl

@[simp] theorem State.setRing_timebase (s : State) (r : Nat) (x : Ring) : (State.setRing s r x).timebase = s.timebase := by unfold State.setRing; rfl

@[simp] theorem State.modJob_timebase (s : State) (t : Half) (f : Job → Job) : (State.modJob s t f).timebase = s.timebase := by
  unfold State.modJob
  rfl

@[simp] theorem State.modMailbox_timebase (s : State) (m : Nat) (f : Mailbox → Mailbox) : (State.modMailbox s m f).timebase = s.timebase := by
  unfold State.modMailbox
  rfl

@[simp] theorem State.modProgramme_timebase (s : State) (i : Nat) (f : Programme → Programme) : (State.modProgramme s i f).timebase = s.timebase := by
  unfold State.modProgramme
  rfl

@[simp] theorem State.complete_timebase (s : State) (mb result : Nat) (res : List Byte) : (State.complete s mb result res).timebase = s.timebase := by
  unfold State.complete
  rfl

@[simp] theorem State.completeReport_timebase (s : State) (mb result : Nat) (values : List Nat) :
    (State.completeReport s mb result values).timebase = s.timebase := by
  unfold State.completeReport
  rfl

@[simp] theorem State.reportSoFar_timebase (s : State) (mb : Nat) (values : List Nat) : (State.reportSoFar s mb values).timebase = s.timebase := by
  unfold State.reportSoFar
  rfl

@[simp] theorem State.deliver_timebase (s : State) (mb dst result : Nat) (bytes : List Byte) :
    (State.deliver s mb dst result bytes).timebase = s.timebase := by
  simp [State.deliver, apply_ite State.timebase]

@[simp] theorem State.deliverReport_timebase (s : State) (mb dst result : Nat) (values : List Nat) :
    (State.deliverReport s mb dst result values).timebase = s.timebase := by
  simp [State.deliverReport, apply_ite State.timebase]

@[simp] theorem State.reading_timebase (s : State) (mb : Nat) (f : State → State) :
    (State.reading s mb f).timebase = if mb ≠ 16 ∧ s.host.busMaster = false then s.timebase else (f s).timebase := by
  simp [State.reading, apply_ite State.timebase]

@[simp] theorem State.progress_timebase (s : State) (mb n : Nat) : (State.progress s mb n).timebase = s.timebase := by unfold State.progress; rfl

@[simp] theorem State.goOn_timebase (s : State) (mb : Nat) (values : List Nat) : (State.goOn s mb values).timebase = s.timebase := by
  unfold State.goOn
  rfl

@[simp] theorem State.deliverUnit_timebase (s : State) (mb dst before n : Nat) (bytes : List Byte) (values : List Nat) (last : Bool) :
    (State.deliverUnit s mb dst before n bytes values last).timebase = s.timebase := by
  simp [State.deliverUnit, apply_ite State.timebase]

@[simp] theorem State.command_timebase (s : State) (mb code : Nat) (f : State → State) :
    timeAfter s (State.command s mb code f) = if (State.runs s mb code).isSome then (f s).timebase else s.timebase := by
  unfold State.command
  cases State.runs s mb code <;> rfl
/-- A command that leaves the timebase alone does so whether it runs or not. -/
theorem State.command_keeps {s : State} {mb code : Nat} {f : State → State} (h : ∀ t, (f t).timebase = t.timebase) :
    timeAfter s (State.command s mb code f) = s.timebase := by
  simp [h]

@[simp] theorem State.endCommand_timebase (s : State) (mb result : Nat) : (State.endCommand s mb result).timebase = s.timebase := by
  simp [State.endCommand]

@[simp] theorem State.endCommands_timebase (s : State) (result : Nat) (p : Running → Bool) : (State.endCommands s result p).timebase = s.timebase :=
  by
  refine foldl_timebase _ _ _ fun t mb => ?_
  split <;> simp [apply_ite State.timebase]

/-! ### Windows -/

@[simp] theorem State.shootDown_timebase (s : State) (gone : Translation → Bool) : (State.shootDown s gone).timebase = s.timebase := by
  unfold State.shootDown
  rfl

@[simp] theorem State.afterShootDown_timebase (s : State) (mb : Nat) (k : Running) (values : List Nat) (changed : Bool) :
    (State.afterShootDown s mb k values changed).timebase = s.timebase := by
  simp [State.afterShootDown, apply_ite State.timebase]

@[simp] theorem State.resumeShootDown_timebase (s : State) (mb : Nat) (k : Running) : (State.resumeShootDown s mb k).timebase = s.timebase := by
  simp [State.resumeShootDown, apply_ite State.timebase]

theorem execWindowMap_timebase (mb : Nat) (entries : List (BitVec 128)) (s : State) : timeAfter s (execWindowMap mb entries s) = s.timebase := by
  unfold execWindowMap; dsimp only; split <;> simp [apply_ite (timeAfter _)]

theorem execWindowUnmap_timebase (mb : Nat) (sel : UnmapSel) (s : State) : timeAfter s (execWindowUnmap mb sel s) = s.timebase := by
  unfold execWindowUnmap; dsimp only; split <;> simp [apply_ite (timeAfter _)]

theorem execWindowQuery_timebase (mb first count dst : Nat) (s : State) : timeAfter s (execWindowQuery mb first count dst s) = s.timebase := by
  simp [execWindowQuery]

theorem execOwnerSet_timebase (mb pa pages : Nat) (tag : BitVec 16) (s : State) : timeAfter s (execOwnerSet mb pa pages tag s) = s.timebase := by
  simp [execOwnerSet, apply_ite State.timebase]

@[simp] theorem State.setPark_timebase (s : State) (c slot : Nat) (f : ParkRecord → ParkRecord) :
    (State.setPark s c slot f).timebase = s.timebase := by
  unfold State.setPark
  rfl

@[simp] theorem State.fillRegion_timebase (s : State) (r : Nat) (t : Translation) : (State.fillRegion s r t).timebase = s.timebase := by
  unfold State.fillRegion
  rfl

@[simp] theorem State.handOver_timebase (s : State) (c slot : Nat) : (State.handOver s c slot).timebase = s.timebase := by
  unfold State.handOver; dsimp only; split <;> simp

@[simp] theorem State.askServer_timebase (s : State) (q : WindowQuery) : (State.askServer s q).timebase = s.timebase := by unfold State.askServer; rfl

@[simp] theorem State.resolveMiss_timebase (s : State) (c slot v : Nat) (tag : Half) : (State.resolveMiss s c slot v tag).timebase = s.timebase := by
  unfold State.resolveMiss; (repeat' split) <;> simp

theorem execWinQuery_timebase (source : Nat) (vpn : BitVec 32) (tag : BitVec 16) (s : State) :
    timeAfter s (execWinQuery source vpn tag s) = s.timebase := by
  unfold execWinQuery
  rfl

@[simp] theorem State.askAgain_timebase (s : State) (q : WindowQuery) : (State.askAgain s q).timebase = s.timebase := by
  unfold State.askAgain; (repeat' split) <;> simp

@[simp] theorem State.settleQuery_timebase (s : State) (q : WindowQuery) (entry : Option WindowEntry) :
    (State.settleQuery s q entry).timebase = s.timebase := by
  unfold State.settleQuery; dsimp only; (repeat' split) <;> simp

theorem execWinReply_timebase (server : Nat) (vpn : BitVec 32) (tag : BitVec 16) (entry : Option (BitVec 128)) (s : State) :
    timeAfter s (execWinReply server vpn tag entry s) = s.timebase := by
  unfold execWinReply; split <;> simp

/-! ### Jobs and copies -/

@[simp] theorem State.stopRing_timebase (s : State) (ring code : Nat) : (State.stopRing s ring code).timebase = s.timebase := by
  simp [State.stopRing, apply_ite State.timebase]

@[simp] theorem State.fetchBinding_timebase (s : State) (ring : Nat) (x : Ring) (fa : Nat) :
    (State.fetchBinding s ring x fa).timebase = s.timebase := by
  simp [State.fetchBinding]

@[simp] theorem State.bindCell_timebase (s : State) (c launch : Nat) (x : Ring) (r : LaunchRecord) :
    (State.bindCell s c launch x r).timebase = s.timebase := by
  unfold State.bindCell; dsimp only; split <;> simp [apply_ite State.timebase]

@[simp] theorem State.placeGroup_timebase (s : State) (ring : Nat) (x : Ring) (r : LaunchRecord) (c slot base : Nat) :
    (State.placeGroup s ring x r c slot base).timebase = s.timebase := by
  simp [State.placeGroup, apply_ite State.timebase]

theorem execGroupPlace_timebase (ring : Nat) (s : State) : timeAfter s (execGroupPlace ring s) = s.timebase := by
  unfold execGroupPlace; dsimp only; (repeat' split) <;> simp

@[simp] theorem State.dropGroup_timebase (s : State) (g : GroupLoc) (grp : Group) : (State.dropGroup s g grp).timebase = s.timebase := by
  simp [State.dropGroup]

theorem execGroupRetire_timebase (g : GroupLoc) (s : State) : timeAfter s (execGroupRetire g s) = s.timebase := by
  unfold execGroupRetire; dsimp only; split <;> simp [apply_ite (timeAfter _)]

theorem execParkNotice_timebase (g : GroupLoc) (s : State) : timeAfter s (execParkNotice g s) = s.timebase := by
  unfold execParkNotice; (repeat' split) <;> simp

theorem execGroupReplay_timebase (g : GroupLoc) (s : State) : timeAfter s (execGroupReplay g s) = s.timebase := by
  unfold execGroupReplay; (repeat' split) <;> simp

theorem execLaunchRecordDone_timebase (launch : Nat) (s : State) : timeAfter s (execLaunchRecordDone launch s) = s.timebase := by
  unfold execLaunchRecordDone; dsimp only; split <;> simp [apply_ite (timeAfter _)]

/-! ### Collectives -/

@[simp] theorem State.setColl_timebase (s : State) (g : Nat) (x : CollGroup) : (State.setColl s g x).timebase = s.timebase := by
  unfold State.setColl
  rfl

@[simp] theorem State.modColl_timebase (s : State) (g : Nat) (f : CollGroup → CollGroup) : (State.modColl s g f).timebase = s.timebase := by
  unfold State.modColl
  rfl

@[simp] theorem State.collRead_timebase (s : State) (g : CollGroup) (ea base e0 n : Nat) : (State.collRead s g ea base e0 n).1.timebase = s.timebase
  := by
  refine foldl_fst_timebase _ _ _ fun acc k => ?_
  dsimp only
  split <;> simp

@[simp] theorem State.collWrite_timebase (s : State) (g : CollGroup) (ea base e0 : Nat) (ws : List Word) (bad : List Bool) :
    (State.collWrite s g ea base e0 ws bad).timebase = s.timebase := by
  refine foldl_timebase _ _ _ fun t k => ?_
  dsimp only
  split <;> simp

@[simp] theorem State.spoilValue_timebase (s : State) (g : CollGroup) (v : SegmentValue) : (State.spoilValue s g v).1.timebase = s.timebase := by
  unfold State.spoilValue; dsimp only; split <;> simp

@[simp] theorem State.writeResults_timebase (s : State) (g : CollGroup) (r : CollRun) : (State.writeResults s g r).1.timebase = s.timebase := by
  refine foldl_fst_timebase _ _ _ fun acc c => foldl_fst_timebase _ _ _ fun acc k => ?_
  split
  · rfl
  · split <;> simp

@[simp] theorem State.grantHalves_timebase (s : State) (gid : Nat) (g : CollGroup) (r : CollRun) :
    (State.grantHalves s gid g r).1.timebase = s.timebase := by
  simp [State.grantHalves]

/-- A send that is considered moves no time. -/
theorem sendStep_timebase (gid : Nat) (a : SendPass) (x : SegmentSend) : (sendStep gid a x).s.timebase = a.s.timebase := by
  unfold sendStep
  dsimp only
  split
  · rfl
  · split
    · rfl
    · split
      · rfl
      · simp [apply_ite State.timebase]
theorem foldl_sendStep_timebase (gid : Nat) (l : List SegmentSend) (a : SendPass) : (l.foldl (sendStep gid) a).s.timebase = a.s.timebase := by
  induction l generalizing a with
  | nil => rfl
  | cons x l ih => exact (ih _).trans (sendStep_timebase gid a x)

@[simp] theorem State.pumpColl_timebase (s : State) (gid : Nat) : (State.pumpColl s gid).timebase = s.timebase := by
  unfold State.pumpColl
  split
  · rfl
  · split
    · rfl
    · split
      · rfl
      · simp [foldl_sendStep_timebase]

@[simp] theorem State.collLoad_timebase (s : State) (g : CollGroup) (o : CollOp) : (State.collLoad s g o).1.timebase = s.timebase := by
  refine foldl_fst_timebase _ _ _ fun acc c => foldl_fst_timebase _ _ _ fun acc k => ?_
  simp [apply_ite Prod.fst, apply_ite State.timebase]

@[simp] theorem State.collFill_timebase (s : State) (g : CollGroup) (o : CollOp) : (State.collFill s g o).timebase = s.timebase := by
  refine foldl_timebase _ _ _ fun t v => ?_
  split
  · simp
  · split <;> simp

@[simp] theorem State.beginColl_timebase (s : State) (gid : Nat) (g : CollGroup) (r : CollRun) (x : Nat) :
    (State.beginColl s gid g r x).timebase = s.timebase := by
  simp [State.beginColl, apply_ite State.timebase]

theorem execCollectiveStart_timebase (group : Nat) (s : State) : timeAfter s (execCollectiveStart group s) = s.timebase := by
  unfold execCollectiveStart; dsimp only; (repeat' split) <;> simp

@[simp] theorem State.feedPort_timebase (s : State) (c n : Nat) : (State.feedPort s c n).timebase = s.timebase := by
  induction n generalizing s with
  | zero => rfl
  | succ n ih =>
    unfold State.feedPort
    dsimp only
    split
    · rfl
    · split <;> simp [ih]

theorem execCollectiveSegment_timebase (m : SegmentMessage) (s : State) : timeAfter s (execCollectiveSegment m s) = s.timebase := by
  unfold execCollectiveSegment; (repeat' split) <;> simp [apply_ite (timeAfter _)]

@[simp] theorem State.portMap_timebase (s : State) (cell gid : Nat) (g : CollGroup) (r : CollRun) (m : SegmentMessage) (rest : List SegmentMessage)
  (residueError : Bool) :
    (State.portMap s cell gid g r m rest residueError).timebase = s.timebase := by
  simp [State.portMap, apply_ite State.timebase]

theorem execCollectivePortMap_timebase (cell : Nat) (residueError : Bool) (s : State) :
    timeAfter s (execCollectivePortMap cell residueError s) = s.timebase := by
  unfold execCollectivePortMap; dsimp only; (repeat' split) <;> simp

@[simp] theorem State.poisonUnwritten_timebase (s : State) (g : CollGroup) (r : CollRun) : (State.poisonUnwritten s g r).timebase = s.timebase := by
  simp [State.poisonUnwritten, apply_ite State.timebase]

@[simp] theorem State.finishColl_timebase (s : State) (gid : Nat) (g : CollGroup) (r : CollRun) (status cause : Nat) :
    (State.finishColl s gid g r status cause).timebase = s.timebase := by
  simp [State.finishColl, apply_ite State.timebase]

theorem execCollectiveComplete_timebase (group : Nat) (s : State) : timeAfter s (execCollectiveComplete group s) = s.timebase := by
  unfold execCollectiveComplete; (repeat' split) <;> simp

theorem execSegmentTimeout_timebase (group : Nat) (s : State) : timeAfter s (execSegmentTimeout group s) = s.timebase := by
  unfold execSegmentTimeout; dsimp only; (repeat' split) <;> simp

/-! ### Links -/

@[simp] theorem State.speak_timebase (s : State) (p : Nat) (m : FlitReport → Bool → LinkMessage) : (State.speak s p m).timebase = s.timebase := by
  unfold State.speak
  rfl

@[simp] theorem State.sendFlit_timebase (s : State) (p vc cred : Nat) (payload : List TransitPacket) (control : Option ControlMessage) :
    (State.sendFlit s p vc cred payload control).timebase = s.timebase := by
  unfold State.sendFlit
  rfl

@[simp] theorem State.sendControl_timebase (s : State) (p : Nat) (m : ControlMessage) : (State.sendControl s p m).timebase = s.timebase := by
  simp [State.sendControl, apply_ite State.timebase]

@[simp] theorem State.releaseCredit_timebase (s : State) (arrived : Option (Nat × Nat)) : (State.releaseCredit s arrived).timebase = s.timebase := by
  unfold State.releaseCredit; split <;> simp

@[simp] theorem State.leave_timebase (s : State) (p : Nat) (w : WaitingPacket) (cls : Nat) : (State.leave s p w cls).timebase = s.timebase := by
  unfold State.leave; dsimp only; split <;> simp

theorem State.grantPort_timebase {s t : State} {p : Nat} (run : State.grantPort s p = some t) : t.timebase = s.timebase := by
  unfold State.grantPort at run
  dsimp only at run
  split at run
  · exact nomatch run
  · split at run
    · obtain rfl := Option.some.inj run
      simp
    · simp only [Option.bind_eq_some_iff, Option.map_eq_some_iff] at run
      obtain ⟨o, -, vc, -, w, -, cls, -, rfl⟩ := run
      simp

@[simp] theorem State.drainFor_timebase (n : Nat) (s : State) (p : Nat) : (State.drainFor n s p).timebase = s.timebase := by
  induction n generalizing s with
  | zero => rfl
  | succ n ih =>
    rw [State.drainFor]
    split
    · rfl
    · next t run => exact (ih t).trans (State.grantPort_timebase run)

@[simp] theorem State.drain_timebase (s : State) (p : Nat) : (State.drain s p).timebase = s.timebase := by simp [State.drain]
@[simp] theorem State.toPort_timebase (s : State) (p : Nat) (w : WaitingPacket) : (State.toPort s p w).timebase = s.timebase := by simp [State.toPort]

@[simp] theorem State.toNeighbour_timebase (s : State) (p : Nat) (k : PacketKind) : (State.toNeighbour s p k).timebase = s.timebase := by
  unfold State.toNeighbour; split <;> simp

@[simp] theorem State.flood_timebase (s : State) (k : PacketKind) (but : Option Nat) : (State.flood s k but).timebase = s.timebase := by
  simp [State.flood, apply_ite State.timebase]

@[simp] theorem State.replayAll_timebase (s : State) (p : Nat) : (State.replayAll s p).timebase = s.timebase := by
  simp [State.replayAll, apply_ite State.timebase]

@[simp] theorem State.answerLost_timebase (s : State) (q : RequestPacket) : (State.answerLost s q).timebase = s.timebase := by
  unfold State.answerLost; dsimp only; (repeat' split) <;> simp

@[simp] theorem State.dropPacket_timebase (s : State) (k : PacketKind) (arrived : Option (Nat × Nat)) :
    (State.dropPacket s k arrived).timebase = s.timebase := by
  unfold State.dropPacket; dsimp only; split <;> simp

@[simp] theorem State.routePacket_timebase (s : State) (offered : Option Nat) (p : TransitPacket) (arrived : Option (Nat × Nat)) :
    (State.routePacket s offered p arrived).timebase = s.timebase := by
  unfold State.routePacket; dsimp only; (repeat' split) <;> simp

@[simp] theorem State.reroute_timebase (s : State) (p : Nat) : (State.reroute s p).timebase = s.timebase := by simp [State.reroute]
@[simp] theorem State.routeWaiting_timebase (s : State) : (State.routeWaiting s).timebase = s.timebase := by simp [State.routeWaiting]

theorem execPacketRoute_timebase (port : Nat) (p : ArrivedPacket) (s : State) : timeAfter s (execPacketRoute port p s) = s.timebase := by
  simp [execPacketRoute, apply_ite (timeAfter _)]

@[simp] theorem State.electTime_timebase (s : State) : (State.electTime s).timebase = s.timebase := by unfold State.electTime; rfl

@[simp] theorem State.markFailed_timebase (s : State) (n incarnation : Nat) : (State.markFailed s n incarnation).timebase = s.timebase := by
  simp [State.markFailed]

@[simp] theorem State.declareFailed_timebase (s : State) (n : Nat) : (State.declareFailed s n).timebase = s.timebase := by simp [State.declareFailed]

@[simp] theorem State.strand_timebase (s : State) (p : Nat) (k : PacketKind) : (State.strand s p k).timebase = s.timebase := by
  unfold State.strand; dsimp only; split <;> simp

@[simp] theorem State.forgetArrivals_timebase (s : State) (p : Nat) : (State.forgetArrivals s p).timebase = s.timebase := by
  unfold State.forgetArrivals
  rfl

@[simp] theorem State.takeDown_timebase (s : State) (p : Nat) (next : PortState) : (State.takeDown s p next).timebase = s.timebase := by
  unfold State.takeDown; dsimp only; (repeat' split) <;> simp

@[simp] theorem State.silenceDown_timebase (s : State) (p : Nat) : (State.silenceDown s p).timebase = s.timebase := by
  unfold State.silenceDown; dsimp only; split <;> simp [apply_ite State.timebase]

@[simp] theorem State.leaveJoined_timebase (s : State) : (State.leaveJoined s).timebase = s.timebase := by
  simp [State.leaveJoined, apply_ite State.timebase]

@[simp] theorem State.attemptFailed_timebase (s : State) (p lanes : Nat) : (State.attemptFailed s p lanes).timebase = s.timebase := by
  simp [State.attemptFailed, apply_ite State.timebase]

@[simp] theorem State.halfWidth_timebase (s : State) (p : Nat) : (State.halfWidth s p).timebase = s.timebase := by simp [State.halfWidth]

@[simp] theorem State.startRecovery_timebase (s : State) (p : Nat) (transmit : Bool) : (State.startRecovery s p transmit).timebase = s.timebase := by
  simp [State.startRecovery, apply_ite State.timebase]

@[simp] theorem State.laneFailed_timebase (s : State) (p l row : Nat) (bench : Bool) : (State.laneFailed s p l row bench).timebase = s.timebase := by
  unfold State.laneFailed; dsimp only; (repeat' split) <;> simp

@[simp] theorem State.heard_timebase (s : State) (p : Nat) : (State.heard s p).timebase = s.timebase := by
  unfold State.heard; dsimp only; split <;> simp

@[simp] theorem State.sendNak_timebase (s : State) (p : Nat) : (State.sendNak s p).timebase = s.timebase := by
  simp [State.sendNak, apply_ite State.timebase]

@[simp] theorem State.gap_timebase (s : State) (p : Nat) : (State.gap s p).timebase = s.timebase := by simp [State.gap, apply_ite State.timebase]

@[simp] theorem State.badFlit_timebase (s : State) (p : Nat) (fecOk : Bool) : (State.badFlit s p fecOk).timebase = s.timebase := by
  simp [State.badFlit, apply_ite State.timebase]

@[simp] theorem State.arriveFlit_timebase (s : State) (p : Nat) (f : Flit) : (State.arriveFlit s p f).1.timebase = s.timebase := by
  unfold State.arriveFlit; (repeat' split) <;> simp

@[simp] theorem State.acceptFlit_timebase (s : State) (p : Nat) (f : Flit) (take : Port → Port) :
    (State.acceptFlit s p f take).timebase = s.timebase := by
  simp [State.acceptFlit, apply_ite State.timebase]

theorem execDataFlit_timebase (port : Nat) (f : Flit) (s : State) : timeAfter s (execDataFlit port f s) = s.timebase := by
  simp [execDataFlit, apply_ite (timeAfter _)]

theorem execNak_timebase (port : Nat) (f : Flit) (s : State) : timeAfter s (execNak port f s) = s.timebase := by
  simp [execNak, apply_ite State.timebase]

theorem execNakRetryExpiry_timebase (port : Nat) (s : State) : timeAfter s (execNakRetryExpiry port s) = s.timebase := by
  unfold execNakRetryExpiry; dsimp only; split <;> simp [apply_ite (timeAfter _)]

theorem execCodeword_timebase (port lane : Nat) (c : CodewordReport) (s : State) : timeAfter s (execCodeword port lane c s) = s.timebase := by
  simp [execCodeword, apply_ite State.timebase, apply_ite (timeAfter _)]

theorem execSpareReq_timebase (port logical : Nat) (s : State) : timeAfter s (execSpareReq port logical s) = s.timebase := by
  simp [execSpareReq, apply_ite (timeAfter _)]

theorem execLaneSwitch_timebase (port : Nat) (s : State) : timeAfter s (execLaneSwitch port s) = s.timebase := by
  unfold execLaneSwitch; dsimp only; split <;> simp

theorem execRecoveryDone_timebase (port : Nat) (usable : BitVec 9) (s : State) : timeAfter s (execRecoveryDone port usable s) = s.timebase := by
  unfold execRecoveryDone; dsimp only; split <;> simp [apply_ite State.timebase, apply_ite (timeAfter _)]

theorem execRecoveryTimeout_timebase (port : Nat) (s : State) : timeAfter s (execRecoveryTimeout port s) = s.timebase := by
  simp [execRecoveryTimeout, apply_ite (timeAfter _)]

theorem execLinkSilenceProbe_timebase (neighbour : Nat) (s : State) : timeAfter s (execLinkSilenceProbe neighbour s) = s.timebase := by
  unfold execLinkSilenceProbe; dsimp only; (repeat' split) <;> simp

theorem execPeerProbe_timebase (source : Nat) (s : State) : timeAfter s (execPeerProbe source s) = s.timebase := by
  simp [execPeerProbe, apply_ite (timeAfter _)]

theorem execPeerAck_timebase (source : Nat) (s : State) : timeAfter s (execPeerAck source s) = s.timebase := by
  simp [execPeerAck, apply_ite (timeAfter _)]

theorem execLinkDown_timebase (port : Nat) (cause : DownCause) (s : State) : timeAfter s (execLinkDown port cause s) = s.timebase := by
  unfold execLinkDown; dsimp only; (repeat' split) <;> simp

theorem execPeerDown_timebase (port module incarnation : Nat) (s : State) : timeAfter s (execPeerDown port module incarnation s) = s.timebase := by
  simp [execPeerDown, apply_ite (timeAfter _)]

theorem execPeerUp_timebase (port module incarnation : Nat) (s : State) : timeAfter s (execPeerUp port module incarnation s) = s.timebase := by
  simp [execPeerUp, apply_ite (timeAfter _)]

theorem execTimeProbeTimer_timebase (port : Nat) (s : State) : timeAfter s (execTimeProbeTimer port s) = s.timebase := by
  simp [execTimeProbeTimer, apply_ite (timeAfter _)]

@[simp] theorem State.hearTime_timebase (s : State) (p : TimeProbe) : (State.hearTime s p).timebase = s.timebase := by unfold State.hearTime; rfl

theorem execTimeProbe_timebase (port : Nat) (p : TimeProbe) (s : State) : timeAfter s (execTimeProbe port p s) = s.timebase := by
  simp [execTimeProbe, apply_ite (timeAfter _)]

@[simp] theorem State.estimate_timebase (s : State) (offset : Int) : (State.estimate s offset).timebase = s.timebase := by
  simp [State.estimate, apply_ite State.timebase]

theorem execTimeReply_timebase (port t1 t2 t3 : Nat) (neighbour : TimeProbe) (s : State) :
    timeAfter s (execTimeReply port t1 t2 t3 neighbour s) = s.timebase := by
  unfold execTimeReply; dsimp only; (repeat' split) <;> simp

theorem execTimeServiceSilence_timebase (s : State) : timeAfter s (execTimeServiceSilence s) = s.timebase := by
  simp [execTimeServiceSilence, apply_ite (timeAfter _)]

/-! ### Bring-up -/

@[simp] theorem State.darkLanes_timebase (s : State) (p dark : Nat) : (State.darkLanes s p dark).timebase = s.timebase := by
  simp [State.darkLanes, apply_ite State.timebase]

theorem execLaserMeasure_timebase (port : Nat) (goodA goodB : Bool) (dbm10A dbm10B : Int) (dark : BitVec 9) (s : State) :
    timeAfter s (execLaserMeasure port goodA goodB dbm10A dbm10B dark s) = s.timebase := by
  unfold execLaserMeasure; dsimp only; (repeat' split) <;> simp

theorem execBeaconDetect_timebase (port : Nat) (s : State) : timeAfter s (execBeaconDetect port s) = s.timebase := by
  simp [execBeaconDetect, apply_ite State.timebase, apply_ite (timeAfter _)]

@[simp] theorem State.bringupStep_timebase (s : State) (p : Nat) (now next : PortState) (usableTx usableRx : Nat) :
    (State.bringupStep s p now next usableTx usableRx).timebase = s.timebase := by
  simp [State.bringupStep, apply_ite State.timebase]

theorem execDeskewDone_timebase (port : Nat) (usableTx usableRx : BitVec 9) (s : State) :
    timeAfter s (execDeskewDone port usableTx usableRx s) = s.timebase := by
  simp [execDeskewDone, apply_ite State.timebase, apply_ite (timeAfter _)]

theorem execBringupBoundExpiry_timebase (port : Nat) (lanes : BitVec 32) (s : State) :
    timeAfter s (execBringupBoundExpiry port lanes s) = s.timebase := by
  unfold execBringupBoundExpiry; dsimp only; split <;> simp [apply_ite (timeAfter _)]

theorem execHeldRetryExpiry_timebase (port : Nat) (s : State) : timeAfter s (execHeldRetryExpiry port s) = s.timebase := by
  simp [execHeldRetryExpiry, apply_ite (timeAfter _)]

theorem execFabricConfigure_timebase (mb module dim timeoutMs : Nat) (s : State) :
    timeAfter s (execFabricConfigure mb module dim timeoutMs s) = s.timebase := by
  simp [execFabricConfigure, apply_ite State.timebase]

theorem execFabricStatus_timebase (mb dst : Nat) (s : State) : timeAfter s (execFabricStatus mb dst s) = s.timebase := by simp [execFabricStatus]

theorem execLinkStatus_timebase (mb region port dst : Nat) (readings : List (BitVec 64)) (s : State) :
    timeAfter s (execLinkStatus mb region port dst readings s) = s.timebase := by
  unfold execLinkStatus; split <;> simp

theorem execLinkRetrain_timebase (mb region port : Nat) (s : State) : timeAfter s (execLinkRetrain mb region port s) = s.timebase := by
  refine State.command_keeps fun t => ?_
  split <;> simp [apply_ite State.timebase]

theorem execLinkDisable_timebase (mb region port : Nat) (s : State) : timeAfter s (execLinkDisable mb region port s) = s.timebase := by
  unfold execLinkDisable; split <;> simp

theorem execLaneRestore_timebase (mb region port : Nat) (mask : BitVec 9) (s : State) :
    timeAfter s (execLaneRestore mb region port mask s) = s.timebase := by
  unfold execLaneRestore; split <;> simp

/-! ### The bench -/

theorem execBenchProgramme_timebase (mb : Nat) (records : List (BitVec 512)) (s : State) : timeAfter s (execBenchProgramme mb records s) = s.timebase
  := by
  refine State.command_keeps fun t => ?_
  rw [State.reading_timebase]
  split
  · rfl
  · refine (State.completeReport_timebase ..).trans (foldl_fst_timebase _ _ _ fun acc w => ?_)
    split
    · rfl
    · split <;> simp

@[simp] theorem State.restoreLanes_timebase (s : State) (p : Nat) (f : BenchFields) : (State.restoreLanes s p f).timebase = s.timebase := by
  simp [State.restoreLanes, apply_ite State.timebase]

@[simp] theorem State.endProgramme_timebase (s : State) (i why : Nat) : (State.endProgramme s i why).timebase = s.timebase := by
  simp [State.endProgramme, apply_ite State.timebase]

theorem execBenchCancel_timebase (mb programme : Nat) (s : State) : timeAfter s (execBenchCancel mb programme s) = s.timebase := by
  simp [execBenchCancel]

theorem execBenchStart_timebase (programme : Nat) (s : State) : timeAfter s (execBenchStart programme s) = s.timebase := by
  simp [execBenchStart, apply_ite (timeAfter _)]

theorem execBenchEnd_timebase (programme : Nat) (s : State) : timeAfter s (execBenchEnd programme s) = s.timebase := by
  simp [execBenchEnd, apply_ite (timeAfter _)]

@[simp] theorem State.inject_timebase (s : State) (p : Nat) (f : BenchFields) (number : Nat) : (State.inject s p f number).timebase = s.timebase := by
  unfold State.inject; (repeat' split) <;> simp

theorem execBenchInject_timebase (programme number : Nat) (s : State) : timeAfter s (execBenchInject programme number s) = s.timebase := by
  simp [execBenchInject, apply_ite (timeAfter _)]

/-! ### Rings -/

theorem execRingCreate_timebase (mb : Nat) (a : RingArgs) (s : State) : timeAfter s (execRingCreate mb a s) = s.timebase := by
  refine State.command_keeps fun t => ?_
  rw [State.reading_timebase]
  split
  · rfl
  · split <;> simp

theorem execRingDestroy_timebase (mb ring : Nat) (s : State) : timeAfter s (execRingDestroy mb ring s) = s.timebase := by simp [execRingDestroy]

@[simp] theorem State.writeTail_timebase (s : State) (ring tail : Nat) : (State.writeTail s ring tail).timebase = s.timebase := by
  simp [State.writeTail, apply_ite State.timebase]

@[simp] theorem State.unpinAll_timebase (s : State) (p : CacheLine → Bool) (q : Nat → RegionLine → Bool) :
    (State.unpinAll s p q).timebase = s.timebase := by
  unfold State.unpinAll
  rfl

theorem execJobRelease_timebase (mb : Nat) (tag : BitVec 16) (s : State) : timeAfter s (execJobRelease mb tag s) = s.timebase := by
  simp [execJobRelease, apply_ite State.timebase]

theorem execJobStatus_timebase (mb : Nat) (tag : BitVec 16) (dst : Nat) (s : State) : timeAfter s (execJobStatus mb tag dst s) = s.timebase := by
  simp [execJobStatus]

theorem execParkListRead_timebase (mb : Nat) (tag : BitVec 16) (dst limit : Nat) (s : State) :
    timeAfter s (execParkListRead mb tag dst limit s) = s.timebase := by
  simp [execParkListRead]

theorem execParkStateRead_timebase (mb : Nat) (g : GroupLoc) (stamp : BitVec 64) (selector dst : Nat) (s : State) : timeAfter s (execParkStateRead mb
  g stamp selector dst s) = s.timebase := by
  refine State.command_keeps fun t => ?_
  split <;> simp [apply_ite State.timebase]

theorem execParkStateWrite_timebase (mb : Nat) (g : GroupLoc) (stamp : BitVec 64) (selector : Nat) (data : List (BitVec 32)) (s : State) : timeAfter
  s (execParkStateWrite mb g stamp selector data s) = s.timebase := by
  refine State.command_keeps fun t => ?_
  rw [State.reading_timebase]
  split
  · rfl
  · split
    · split <;> simp [apply_ite State.timebase]
    · simp

@[simp] theorem State.orderPark_timebase (s : State) (mb : Nat) (g : GroupLoc) (stamp : BitVec 64) (next : ParkState) :
    (State.orderPark s mb g stamp next).timebase = s.timebase := by
  unfold State.orderPark; split <;> simp

theorem execParkReplay_timebase (mb : Nat) (g : GroupLoc) (stamp : BitVec 64) (s : State) :
    timeAfter s (execParkReplay mb g stamp s) = s.timebase := by
  simp [execParkReplay]

theorem execParkDiscard_timebase (mb : Nat) (g : GroupLoc) (stamp : BitVec 64) (s : State) :
    timeAfter s (execParkDiscard mb g stamp s) = s.timebase := by
  simp [execParkDiscard]

/-! ### Memory commands -/

@[simp] theorem State.hostRefusal_timebase (s : State) (pa len : Nat) : (State.hostRefusal s pa len).timebase = s.timebase := by
  simp [State.hostRefusal, apply_ite State.timebase]

theorem execMemoryWindowRead_timebase (offset len : Nat) (s : State) : timeAfter s (execMemoryWindowRead offset len s) = s.timebase := by
  simp [execMemoryWindowRead, apply_ite (timeAfter _)]

theorem execMemoryWindowWrite_timebase (offset : Nat) (w : WindowWrite) (s : State) :
    timeAfter s (execMemoryWindowWrite offset w s) = s.timebase := by
  simp [execMemoryWindowWrite, apply_ite (timeAfter _)]

@[simp] theorem State.zeroWhere_timebase (s : State) (p : Nat → Bool) : (State.zeroWhere s p).timebase = s.timebase := by unfold State.zeroWhere; rfl

@[simp] theorem State.writePages_timebase (s : State) (pages : List Nat) : (State.writePages s pages).timebase = s.timebase := by
  unfold State.writePages
  rfl

theorem execMemoryClear_timebase (mb pa pages : Nat) (s : State) : timeAfter s (execMemoryClear mb pa pages s) = s.timebase := by
  simp [execMemoryClear, apply_ite State.timebase]

theorem execApertureSet_timebase (mb aperture : Nat) (s : State) : timeAfter s (execApertureSet mb aperture s) = s.timebase := by
  simp [execApertureSet, apply_ite State.timebase]

theorem execInterleaveSet_timebase (mb gib : Nat) (s : State) : timeAfter s (execInterleaveSet mb gib s) = s.timebase := by
  simp [execInterleaveSet, apply_ite State.timebase]

theorem execUnpin_timebase (mb : Nat) (sel : UnpinSel) (s : State) : timeAfter s (execUnpin mb sel s) = s.timebase := by simp [execUnpin]

@[simp] theorem State.scrubOne_timebase (s : State) (mask : BitVec 8) (u : ScrubUnit) (found : List SectorError) (sums : List Nat) :
    (State.scrubOne s mask u found sums).1.timebase = s.timebase := by
  simp [State.scrubOne, apply_ite State.timebase]

theorem execScrub_timebase (mb : Nat) (mask : BitVec 8) (pa gib hours : Nat) (found : List SectorError) (s : State) :
    timeAfter s (execScrub mb mask pa gib hours found s) = s.timebase := by
  unfold execScrub; dsimp only; (repeat' split) <;> simp

@[simp] theorem State.overrideOne_timebase (s : State) (mask : BitVec 8) (u : ScrubUnit) (zero : Bool) :
    (State.overrideOne s mask u zero).timebase = s.timebase := by
  simp [State.overrideOne, apply_ite State.timebase]

theorem execScrubOverride_timebase (mb : Nat) (mask : BitVec 8) (pa gib action : Nat) (s : State) : timeAfter s (execScrubOverride mb mask pa gib
  action s) = s.timebase := by
  refine State.command_keeps fun t => ?_
  dsimp only
  split
  · simp
  · split <;> simp [apply_ite State.timebase]

theorem execMemoryHealth_timebase (mb dst : Nat) (s : State) : timeAfter s (execMemoryHealth mb dst s) = s.timebase := by simp [execMemoryHealth]

/-! ### Fences -/

@[simp] theorem State.fenceBlock_timebase (s : State) (b : Nat) (cell : Option Nat) : (State.fenceBlock s b cell).timebase = s.timebase := by
  simp [State.fenceBlock, apply_ite State.timebase]

theorem execUncontainedCellFailure_timebase (cell : Nat) (s : State) : timeAfter s (execUncontainedCellFailure cell s) = s.timebase := by
  simp [execUncontainedCellFailure, apply_ite (timeAfter _)]

theorem execBlockParityFailure_timebase (block : Nat) (s : State) : timeAfter s (execBlockParityFailure block s) = s.timebase := by
  simp [execBlockParityFailure, apply_ite (timeAfter _)]

theorem execFencedResponse_timebase (cell id : Nat) (s : State) : timeAfter s (execFencedResponse cell id s) = s.timebase := by
  unfold execFencedResponse; (repeat' split) <;> simp

@[simp] theorem State.reconfigure_timebase (s : State) (b : Nat) : (State.reconfigure s b).1.timebase = s.timebase := by
  unfold State.reconfigure; dsimp only; (repeat' split) <;> simp

@[simp] theorem State.remapAll_timebase (s : State) : (State.remapAll s).1.timebase = s.timebase := by
  unfold State.remapAll
  apply foldl_fst_timebase
  intro acc b
  split
  · rfl
  · split
    · rfl
    · exact State.reconfigure_timebase ..

end Sys2Proof.Machine
end

section
/-!
SUPPORT. The timebase, and the operations of Baker and of the host port.
-/

open Sys2Proof
namespace Sys2Proof.Machine

/-! ### The proofer -/

@[simp] theorem State.settleVoltage_timebase (s : State) (r : Nat) : (State.settleVoltage s r).timebase = s.timebase := by
  simp [State.settleVoltage, apply_ite State.timebase]

@[simp] theorem State.deepest_timebase (s : State) (n : Nat) : (State.deepest s n).timebase = s.timebase := by unfold State.deepest; rfl

@[simp] theorem State.enqueue_timebase (s : State) (o : ProoferObject) : (State.enqueue s o).timebase = s.timebase := by
  simp [State.enqueue, apply_ite State.timebase]

@[simp] theorem State.startGranted_timebase (s : State) (o : ProoferObject) : (State.startGranted s o).timebase = s.timebase := by
  unfold State.startGranted
  split
  · rfl
  · cases o with
    | stackPair r =>
      refine (foldl_timebase _ _ _ fun t mb => ?_).trans (by simp)
      split <;> simp [apply_ite State.timebase]
    | _ => simp

theorem execProoferGrant_timebase (s : State) : timeAfter s (execProoferGrant s) = s.timebase := by
  unfold execProoferGrant; dsimp only; split <;> simp [apply_ite (timeAfter _)]

theorem execRampStartDone_timebase (c k : Nat) (s : State) : timeAfter s (execRampStartDone c k s) = s.timebase := by
  simp [execRampStartDone, apply_ite (timeAfter _)]

@[simp] theorem State.stopSlice_timebase (s : State) (c k : Nat) : (State.stopSlice s c k).timebase = s.timebase := by unfold State.stopSlice; rfl

theorem execSliceHoldExpiry_timebase (c k : Nat) (s : State) : timeAfter s (execSliceHoldExpiry c k s) = s.timebase := by
  simp [execSliceHoldExpiry, apply_ite (timeAfter _)]

@[simp] theorem State.lowerLevels_timebase (s : State) : (State.lowerLevels s).timebase = s.timebase := by unfold State.lowerLevels; rfl

theorem execHeldSliceStop_timebase (c k : Nat) (s : State) : timeAfter s (execHeldSliceStop c k s) = s.timebase := by
  unfold execHeldSliceStop; (repeat' split) <;> simp

theorem execRampStopDone_timebase (c k : Nat) (s : State) : timeAfter s (execRampStopDone c k s) = s.timebase := by
  simp [execRampStopDone, apply_ite (timeAfter _)]

theorem execGovernorInterval_timebase (region estimateMa : Nat) (s : State) :
    timeAfter s (execGovernorInterval region estimateMa s) = s.timebase := by
  simp [execGovernorInterval, apply_ite (timeAfter _)]

theorem execVoltageRaiseStep_timebase (region : Nat) (s : State) : timeAfter s (execVoltageRaiseStep region s) = s.timebase := by
  unfold execVoltageRaiseStep; dsimp only; split <;> simp

theorem execLinkEnable_timebase (mb region port : Nat) (s : State) : timeAfter s (execLinkEnable mb region port s) = s.timebase := by
  unfold execLinkEnable; split <;> simp

/-! ### Regions -/

@[simp] theorem State.emptyCache_timebase (s : State) (r : Nat) (answers : Bool) : (State.emptyCache s r answers).timebase = s.timebase := by
  simp [State.emptyCache, apply_ite State.timebase]

@[simp] theorem State.railsOff_timebase (s : State) (r : Nat) : (State.railsOff s r).timebase = s.timebase := by simp [State.railsOff]
@[simp] theorem State.portsDown_timebase (s : State) (r : Nat) : (State.portsDown s r).timebase = s.timebase := by simp [State.portsDown]

@[simp] theorem State.enterFaulted_timebase (s : State) : (State.enterFaulted s).timebase = s.timebase := by
  simp [State.enterFaulted, apply_ite State.timebase]

@[simp] theorem State.loseLog_timebase (s : State) (r : Nat) : (State.loseLog s r).timebase = s.timebase := by
  simp [State.loseLog, apply_ite State.timebase]

@[simp] theorem State.fenceRegion_timebase (s : State) (r : Nat) (answers : Bool) : (State.fenceRegion s r answers).timebase = s.timebase := by
  simp [State.fenceRegion, apply_ite State.timebase]

theorem execRcHeartbeatTimeout_timebase (region : Nat) (s : State) : timeAfter s (execRcHeartbeatTimeout region s) = s.timebase := by
  simp [execRcHeartbeatTimeout, apply_ite (timeAfter _)]

@[simp] theorem State.outputGranted_timebase (s : State) (destination : Nat) (cls : TrafficClass) (source : Nat) :
    (State.outputGranted s destination cls source).timebase = s.timebase := by
  unfold State.outputGranted
  rfl

@[simp] theorem State.packetArrives_timebase (s : State) (id : Nat) (p : PackagePacket) : (State.packetArrives s id p).timebase = s.timebase := by
  unfold State.packetArrives; dsimp only; split <;> simp

theorem execPackagePacket_timebase (source destination : Nat) (cls : TrafficClass) (crcOk : Bool) (s : State) :
    timeAfter s (execPackagePacket source destination cls crcOk s) = s.timebase := by
  unfold execPackagePacket; dsimp only; split <;> simp [apply_ite (timeAfter _)]

@[simp] theorem State.completeOpen_timebase (s : State) (mb : Nat) : (State.completeOpen s mb).timebase = s.timebase := by
  unfold State.completeOpen
  rfl

theorem execRegionPowerOff_timebase (mb region : Nat) (s : State) : timeAfter s (execRegionPowerOff mb region s) = s.timebase := by
  simp [execRegionPowerOff, apply_ite State.timebase]

theorem execRegionPowerOn_timebase (mb region : Nat) (s : State) : timeAfter s (execRegionPowerOn mb region s) = s.timebase := by
  simp [execRegionPowerOn, apply_ite State.timebase]

theorem execThermalFenceExpiry_timebase (region : Nat) (s : State) : timeAfter s (execThermalFenceExpiry region s) = s.timebase := by
  unfold execThermalFenceExpiry; dsimp only; split <;> simp [apply_ite (timeAfter _)]

/-! ### Temperature -/

theorem execPaceInterval_timebase (region : Nat) (monitors : List Nat) (temp : BitVec 8) (s : State) :
    timeAfter s (execPaceInterval region monitors temp s) = s.timebase := by
  unfold execPaceInterval; (repeat' split) <;> simp [apply_ite State.timebase, apply_ite (timeAfter _)]

@[simp] theorem State.cap_timebase (s : State) (r n : Nat) : (State.cap s r n).timebase = s.timebase := by simp [State.cap]

@[simp] theorem State.uncap_timebase (s : State) : (State.uncap s).timebase = s.timebase := by
  simp [State.uncap, apply_ite State.timebase]

@[simp] theorem execPowerLimitInterval_timebase (w : Nat) (s : State) : timeAfter s (execPowerLimitInterval w s) = s.timebase := by
  simp [execPowerLimitInterval, apply_ite (timeAfter _), apply_ite State.timebase]

theorem execPowerSample_timebase (meanWatts : Nat) (s : State) : timeAfter s (execPowerSample meanWatts s) = s.timebase := by
  simp [execPowerSample, apply_ite (timeAfter _)]

@[simp] theorem State.critical_timebase (s : State) (r : Nat) : (State.critical s r).timebase = s.timebase := by simp [State.critical]

@[simp] theorem State.heat_timebase (s : State) (x : SensorRef) (row : ThermalRow) : (State.heat s x row).timebase = s.timebase := by
  unfold State.heat; dsimp only; (repeat' split) <;> simp

@[simp] theorem State.cool_timebase (s : State) (x : SensorRef) (row : ThermalRow) : (State.cool s x row).timebase = s.timebase := by
  unfold State.cool; dsimp only; (repeat' split) <;> simp

@[simp] theorem State.judge_timebase (s : State) (x : SensorRef) (t : Int) (row : ThermalRow) : (State.judge s x t row).timebase = s.timebase := by
  unfold State.judge; dsimp only; (repeat' split) <;> simp

theorem execThermalSample_timebase (sensor : SensorRef) (celsius : Int) (s : State) :
    timeAfter s (execThermalSample sensor celsius s) = s.timebase := by
  simp [execThermalSample, apply_ite (timeAfter _)]

theorem execThermalThrottleStep_timebase (region : Nat) (s : State) : timeAfter s (execThermalThrottleStep region s) = s.timebase := by
  unfold execThermalThrottleStep; dsimp only; (repeat' split) <;> simp

theorem execOperatingPoint_timebase (mb : Nat) (mask : BitVec 8) (mode setpointMv : Nat) (s : State) :
    timeAfter s (execOperatingPoint mb mask mode setpointMv s) = s.timebase := by
  unfold execOperatingPoint; dsimp only; (repeat' split) <;> simp

theorem execPowerLimitSet_timebase (mb watts : Nat) (s : State) : timeAfter s (execPowerLimitSet mb watts s) = s.timebase := by
  simp [execPowerLimitSet, apply_ite State.timebase]

theorem execPowerStatus_timebase (mb dst mV mA watts : Nat) (s : State) : timeAfter s (execPowerStatus mb dst mV mA watts s) = s.timebase := by
  simp [execPowerStatus]

/-! ### Start-up -/

@[simp] theorem State.linksFall_timebase (s : State) : (State.linksFall s).timebase = s.timebase := by
  simp [State.linksFall, apply_ite State.timebase]

@[simp] theorem State.powerDown_timebase (s : State) (phase : Phase) : (State.powerDown s phase).timebase = s.timebase := by
  simp [State.powerDown, apply_ite State.timebase]

@[simp] theorem State.latch_timebase (s : State) (sub d1 d2 d3 : Nat) : (State.latch s sub d1 d2 d3).timebase = s.timebase := by
  unfold State.latch
  rfl

@[simp] theorem State.breakSeal_timebase (s : State) : (State.breakSeal s).timebase = s.timebase := by
  simp [State.breakSeal, apply_ite State.timebase]

@[simp] theorem State.presenceChanged_timebase (s : State) : (State.presenceChanged s).timebase = s.timebase := by unfold State.presenceChanged; rfl
theorem execPwrEnAssert_timebase (s : State) : timeAfter s (execPwrEnAssert s) = s.timebase := by simp [execPwrEnAssert, apply_ite (timeAfter _)]

theorem execPwrEnDeassert_timebase (s : State) : timeAfter s (execPwrEnDeassert s) = s.timebase := by
  simp [execPwrEnDeassert, apply_ite State.timebase, apply_ite (timeAfter _)]

theorem execMainInputDip_timebase (ns mV : Nat) (s : State) : timeAfter s (execMainInputDip ns mV s) = s.timebase := by
  simp [execMainInputDip, apply_ite (timeAfter _)]

@[simp] theorem State.inputOff_timebase (s : State) (sub ns mV : Nat) : (State.inputOff s sub ns mV).timebase = s.timebase := by simp [State.inputOff]

theorem execMainInputLoss_timebase (ns mV : Nat) (s : State) : timeAfter s (execMainInputLoss ns mV s) = s.timebase := by
  simp [execMainInputLoss, apply_ite (timeAfter _)]

theorem execMainInputOvervoltage_timebase (ns mV : Nat) (s : State) : timeAfter s (execMainInputOvervoltage ns mV s) = s.timebase := by
  simp [execMainInputOvervoltage, apply_ite (timeAfter _)]

theorem execThermalTrip_timebase (sensor : SensorRef) (celsius : Nat) (s : State) : timeAfter s (execThermalTrip sensor celsius s) = s.timebase := by
  unfold execThermalTrip; dsimp only; split <;> simp [apply_ite (timeAfter _)]

theorem execThermtripRelease_timebase (s : State) : timeAfter s (execThermtripRelease s) = s.timebase := by
  simp [execThermtripRelease, apply_ite (timeAfter _)]

@[simp] theorem State.report_timebase (s : State) (l : Latched) : (State.report s l).timebase = s.timebase := by unfold State.report; rfl

@[simp] theorem State.bootRegion_timebase (s : State) (failed : BitVec 8) (r : Nat) : (State.bootRegion s failed r).timebase = s.timebase := by
  simp [State.bootRegion, apply_ite State.timebase]

@[simp] theorem State.trainStacks_timebase (s : State) (failed : BitVec 16) (r : Nat) : (State.trainStacks s failed r).timebase = s.timebase := by
  simp [State.trainStacks, apply_ite State.timebase]

@[simp] theorem State.testRow_timebase (s : State) (e : Nat × Nat × Nat) : (State.testRow s e).timebase = s.timebase := by
  simp [State.testRow, apply_ite State.timebase]

@[simp] theorem State.failCells_timebase (s : State) (failed : List Nat) (b : Nat) : (State.failCells s failed b).timebase = s.timebase := by
  unfold State.failCells; dsimp only; split <;> simp [apply_ite State.timebase]

@[simp] theorem State.enablePorts_timebase (s : State) : (State.enablePorts s).timebase = s.timebase := by
  simp [State.enablePorts, apply_ite State.timebase]

@[simp] theorem State.bringUp_timebase (s : State) (o : StartupOutcome) : (State.bringUp s o).timebase = s.timebase := by
  simp [State.bringUp, apply_ite State.timebase]

theorem execStartupBegin_timebase (o : StartupOutcome) (s : State) : timeAfter s (execStartupBegin o s) = s.timebase := by
  simp [execStartupBegin, apply_ite (timeAfter _)]

@[simp] theorem State.resetSoon_timebase (s : State) (mb : Nat) : (State.resetSoon s mb).timebase = s.timebase := by unfold State.resetSoon; rfl

theorem execModuleResetGraceful_timebase (mb : Nat) (s : State) : timeAfter s (execModuleResetGraceful mb s) = s.timebase := by
  simp [execModuleResetGraceful, apply_ite State.timebase]

theorem execModuleResetForced_timebase (mb : Nat) (s : State) : timeAfter s (execModuleResetForced mb s) = s.timebase := by
  simp [execModuleResetForced]

theorem execModuleResetStart_timebase (s : State) : timeAfter s (execModuleResetStart s) = s.timebase := by
  unfold execModuleResetStart; dsimp only; split <;> simp [apply_ite (timeAfter _)]

theorem execPresBtnPress_timebase (s : State) : timeAfter s (execPresBtnPress s) = s.timebase := by simp [execPresBtnPress, apply_ite (timeAfter _)]

theorem execPresJmpChange_timebase (asserted : Bool) (s : State) : timeAfter s (execPresJmpChange asserted s) = s.timebase := by
  simp [execPresJmpChange, apply_ite (timeAfter _)]

theorem execSealLoopOpen_timebase (s : State) : timeAfter s (execSealLoopOpen s) = s.timebase := by simp [execSealLoopOpen, apply_ite (timeAfter _)]

theorem execSealLoopClose_timebase (s : State) : timeAfter s (execSealLoopClose s) = s.timebase := by
  simp [execSealLoopClose, apply_ite (timeAfter _)]

/-! ### Registers -/

@[simp] theorem State.smbusRead_timebase (s : State) (a n : Nat) : (State.smbusRead s a n).2.timebase = s.timebase := by
  simp [State.smbusRead, apply_ite State.timebase]

/-! ### Tastings -/

@[simp] theorem State.modTasting_timebase (s : State) (f : Tasting → Tasting) : (State.modTasting s f).timebase = s.timebase := by
  unfold State.modTasting
  rfl

@[simp] theorem State.beginVector_timebase (s : State) (c : Nat) (v : TastingVector) (recipe : Bool) :
    (State.beginVector s c v recipe).timebase = s.timebase := by
  unfold State.beginVector
  rfl

@[simp] theorem State.feedVector_timebase (s : State) (e : TastingVectorRun) : (State.feedVector s e).timebase = s.timebase := by
  unfold State.feedVector; dsimp only; split <;> simp [apply_ite State.timebase]

@[simp] theorem State.vectorVerdict_timebase (s : State) (e : TastingVectorRun) : (State.vectorVerdict s e).2.timebase = s.timebase := by
  simp [State.vectorVerdict, apply_ite State.timebase]

@[simp] theorem State.endVector_timebase (s : State) (e : TastingVectorRun) : (State.endVector s e).timebase = s.timebase := by
  unfold State.endVector; dsimp only; split <;> simp

@[simp] theorem State.endTasting_timebase (s : State) : (State.endTasting s).timebase = s.timebase := by
  unfold State.endTasting
  split
  · rfl
  · refine foldl_timebase _ _ _ fun t e => ?_
    split <;> simp [apply_ite State.timebase]

@[simp] theorem State.beginTasting_timebase (s : State) (mb : Nat) (a : TastingArgs) (files : List TastingFile) :
    (State.beginTasting s mb a files).timebase = s.timebase := by
  simp [State.beginTasting, apply_ite State.timebase]

@[simp] theorem State.startVectors_timebase (s : State) : (State.startVectors s).timebase = s.timebase := by
  unfold State.startVectors
  split
  · rfl
  · refine foldl_timebase _ _ _ fun t c => ?_
    split
    · rfl
    · split <;> simp [apply_ite State.timebase]

@[simp] theorem State.reportTasting_timebase (s : State) : (State.reportTasting s).timebase = s.timebase := by
  unfold State.reportTasting; (repeat' split) <;> simp

@[simp] theorem State.stepTasting_timebase (s : State) (t : Tasting) : (State.stepTasting s t).timebase = s.timebase := by
  simp [State.stepTasting, apply_ite State.timebase]

theorem execTastingRun_timebase (mb : Nat) (a : TastingArgs) (files : List TastingFile) (s : State) : timeAfter s (execTastingRun mb a files s) =
  s.timebase := by
  refine State.command_keeps fun t => ?_
  split <;> simp [apply_ite State.timebase]

/-! ### Telemetry -/

@[simp] theorem State.drop_timebase (s : State) (sender kind : Nat) (f : DropCount → DropCount) :
    (State.drop s sender kind f).timebase = s.timebase := by
  unfold State.drop
  rfl

@[simp] theorem State.discard_timebase (s : State) (sender kind : Nat) (f : DropCount → DropCount) :
    (State.discard s sender kind f).timebase = s.timebase := by
  simp [State.discard]

@[simp] theorem State.mergeAlarm_timebase (s : State) (o : AlarmOccurrence) : (State.mergeAlarm s o).timebase = s.timebase := by
  simp [State.mergeAlarm, apply_ite State.timebase]

@[simp] theorem State.tabulateAlarm_timebase (s : State) (o : AlarmOccurrence) : (State.tabulateAlarm s o).timebase = s.timebase := by
  simp [State.tabulateAlarm, apply_ite State.timebase]

theorem execAlarmOccurrence_timebase (index : Nat) (s : State) : timeAfter s (execAlarmOccurrence index s) = s.timebase := by
  unfold execAlarmOccurrence; dsimp only; split <;> simp [apply_ite (timeAfter _)]

theorem execAlarmRead_timebase (mb dst limit : Nat) (ack : Bool) (s : State) : timeAfter s (execAlarmRead mb dst limit ack s) = s.timebase := by
  simp [execAlarmRead, apply_ite State.timebase]

@[simp] theorem State.appendLog_timebase (s : State) (r : LogRecord) : (State.appendLog s r).timebase = s.timebase := by unfold State.appendLog; rfl

@[simp] theorem State.dropLog_timebase (s : State) (region : Nat) (r : LogRecord) : (State.dropLog s region r).timebase = s.timebase := by
  simp [State.dropLog]

theorem execLogMessage_timebase (region index : Nat) (s : State) : timeAfter s (execLogMessage region index s) = s.timebase := by
  unfold execLogMessage; dsimp only; split <;> simp [apply_ite (timeAfter _)]

theorem execLogRecordWrite_timebase (region : Nat) (s : State) : timeAfter s (execLogRecordWrite region s) = s.timebase := by
  unfold execLogRecordWrite; dsimp only; (repeat' split) <;> simp

theorem execLossRecordWrite_timebase (region : Nat) (s : State) : timeAfter s (execLossRecordWrite region s) = s.timebase := by
  unfold execLossRecordWrite; dsimp only; split <;> simp [apply_ite (timeAfter _)]

theorem execSummaryWindowEnd_timebase (sender : Nat) (s : State) : timeAfter s (execSummaryWindowEnd sender s) = s.timebase := by
  simp [execSummaryWindowEnd, apply_ite State.timebase, apply_ite (timeAfter _)]

theorem execLogRetrieve_timebase (mb first count dst : Nat) (s : State) : timeAfter s (execLogRetrieve mb first count dst s) = s.timebase := by
  simp [execLogRetrieve]

theorem execTraceConfigure_timebase (mb : Nat) (mask : BitVec 8) (rates : List Nat) (ring size : Nat) (s : State) :
    timeAfter s (execTraceConfigure mb mask rates ring size s) = s.timebase := by
  simp [execTraceConfigure, apply_ite State.timebase]

@[simp] theorem State.dropTrace_timebase (s : State) (sender : Nat) (t : TraceRecord) : (State.dropTrace s sender t).timebase = s.timebase := by
  simp [State.dropTrace]

theorem execTraceRecord_timebase (t : TraceRecord) (s : State) : timeAfter s (execTraceRecord t s) = s.timebase := by
  simp [execTraceRecord, apply_ite (timeAfter _)]

theorem execTraceReadPoll_timebase (readIndex : BitVec 64) (s : State) : timeAfter s (execTraceReadPoll readIndex s) = s.timebase := by
  simp [execTraceReadPoll, apply_ite (timeAfter _)]

theorem execCounterRead_timebase (mb : Nat) (selectors : List (BitVec 32)) (dst : Nat) (s : State) :
    timeAfter s (execCounterRead mb selectors dst s) = s.timebase := by
  simp [execCounterRead]

@[simp] theorem State.clearErrFlags_timebase (s : State) (mask : Nat) : (State.clearErrFlags s mask).timebase = s.timebase := by
  unfold State.clearErrFlags
  rfl

@[simp] theorem State.clearTimeFlags_timebase (s : State) (mask : Nat) : (State.clearTimeFlags s mask).timebase = s.timebase := by
  unfold State.clearTimeFlags
  rfl

@[simp] theorem State.clearLowpace_timebase (s : State) (r : Nat) (clear : Bool) : (State.clearLowpace s r clear).timebase = s.timebase := by
  unfold State.clearLowpace
  rfl

theorem execCounterClear_timebase (mb : Nat) (selectors : List (BitVec 32)) (paceMin : Bool) (errMask : BitVec 64) (lowMask : BitVec 8) (timeMask :
  BitVec 64) (s : State) :
    timeAfter s (execCounterClear mb selectors paceMin errMask lowMask timeMask s) = s.timebase := by
  simp [execCounterClear]

/-! ### The host port -/

@[simp] theorem State.ring_timebase (s : State) (mb v : Nat) : (State.ring_ s mb v).timebase = s.timebase := by
  simp [State.ring_, apply_ite State.timebase]

theorem execDoorbellWrite_timebase (mailbox : Nat) (wide : Bool) (value : BitVec 64) (s : State) :
    timeAfter s (execDoorbellWrite mailbox wide value s) = s.timebase := by
  simp [execDoorbellWrite, apply_ite (timeAfter _)]

theorem execRegisterWrite_timebase (offset : Nat) (wide : Bool) (value : BitVec 64) (s : State) :
    timeAfter s (execRegisterWrite offset wide value s) = s.timebase := by
  simp [execRegisterWrite, apply_ite (timeAfter _)]

theorem execW1cFlagWrite_timebase (offset : Nat) (wide : Bool) (value : BitVec 64) (s : State) :
    timeAfter s (execW1cFlagWrite offset wide value s) = s.timebase := by
  simp [execW1cFlagWrite, apply_ite (timeAfter _)]

theorem execControlWindowBadAccess_timebase (offset len : Nat) (_isWrite : Bool) (s : State) :
    timeAfter s (execControlWindowBadAccess offset len _isWrite s) = s.timebase := by
  simp [execControlWindowBadAccess, apply_ite (timeAfter _)]

theorem execPcieReset_timebase (s : State) : timeAfter s (execPcieReset s) = s.timebase := by
  simp only [execPcieReset, timeAfter_next, foldl_timebase, State.modMailbox_timebase, implies_true]

theorem execConfigurationRequest_timebase (r : ConfigRequest) (s : State) : timeAfter s (execConfigurationRequest r s) = s.timebase := by
  unfold execConfigurationRequest; (repeat' split) <;> simp

theorem execStatusRewrite_timebase (s : State) : timeAfter s (execStatusRewrite s) = s.timebase :=
  timeAfter_ite (timeAfter_next ..) (timeAfter_ite ((timeAfter_next ..).trans (State.emit_timebase ..)) (timeAfter_next ..))

theorem execBakerWatchdogRestart_timebase (s : State) : timeAfter s (execBakerWatchdogRestart s) = s.timebase := by
  simp [execBakerWatchdogRestart, apply_ite (timeAfter _)]

@[simp] theorem State.pecFailed_timebase (s : State) : (State.pecFailed s).timebase = s.timebase := by unfold State.pecFailed; rfl

theorem execSmbSetPointer_timebase (value : BitVec 16) (pecOk : Bool) (s : State) : timeAfter s (execSmbSetPointer value pecOk s) = s.timebase := by
  simp [execSmbSetPointer, apply_ite (timeAfter _)]

theorem execSmbBlockRead_timebase (s : State) : timeAfter s (execSmbBlockRead s) = s.timebase := by simp [execSmbBlockRead, apply_ite (timeAfter _)]

theorem execSmbStatusRead_timebase (s : State) : timeAfter s (execSmbStatusRead s) = s.timebase := by
  simp [execSmbStatusRead, apply_ite (timeAfter _)]

@[simp] theorem State.smbBlock_timebase (s : State) (bytes : List Byte) (pecOk : Bool) : timeAfter s (State.smbBlock s bytes pecOk) = s.timebase := by
  simp [State.smbBlock, apply_ite (timeAfter _)]

/-! ### Commands -/

@[simp] theorem State.inResult_timebase (s : State) (mb dst : Nat) (bytes : List Byte) : (State.inResult s mb dst bytes).timebase = s.timebase := by
  unfold State.inResult
  rfl

theorem execIdentityCmd_timebase (mb dst : Nat) (s : State) : timeAfter s (execIdentityCmd mb dst s) = s.timebase := by simp [execIdentityCmd]
theorem execCapability_timebase (mb dst : Nat) (s : State) : timeAfter s (execCapability mb dst s) = s.timebase := by simp [execCapability]

@[simp] theorem State.cancelled_timebase (s : State) (mb : Nat) : (State.cancelled s mb).timebase = s.timebase := by
  simp [State.cancelled, apply_ite State.timebase]

theorem execCancel_timebase (mb target : Nat) (s : State) : timeAfter s (execCancel mb target s) = s.timebase := by
  refine State.command_keeps fun t => ?_
  split
  · simp
  · split <;> simp [apply_ite State.timebase]

theorem execStatusMirror_timebase (mb : Nat) (addr : BitVec 64) (s : State) : timeAfter s (execStatusMirror mb addr s) = s.timebase := by
  simp [execStatusMirror]

@[simp] theorem State.scratch_timebase (s : State) (c : Nat) : (State.scratch s c).timebase = s.timebase := by
  simp [State.scratch, apply_ite State.timebase]

theorem execSelfTest_timebase (mb : Nat) (cells failed : List Nat) (s : State) : timeAfter s (execSelfTest mb cells failed s) = s.timebase := by
  refine State.command_keeps fun t => ite_timebase ((State.progress_timebase ..).trans ((State.completeReport_timebase ..).trans ?_))
    ((State.progress_timebase ..).trans ((State.reportSoFar_timebase ..).trans ((State.goOn_timebase ..).trans ?_)))
  all_goals
    split
    · rfl
    · exact ite_timebase ((State.retireCell_timebase ..).trans (State.scratch_timebase ..)) (State.scratch_timebase ..)

theorem execRecipeSet_timebase (mb : Nat) (tag : BitVec 16) (on : Bool) (s : State) : timeAfter s (execRecipeSet mb tag on s) = s.timebase := by
  simp [execRecipeSet, apply_ite State.timebase]

theorem execScaleConfigure_timebase (mb first count : Nat) (word : BitVec 64) (s : State) :
    timeAfter s (execScaleConfigure mb first count word s) = s.timebase := by
  simp [execScaleConfigure, apply_ite State.timebase]

theorem execScaleRead_timebase (mb first count dst : Nat) (s : State) : timeAfter s (execScaleRead mb first count dst s) = s.timebase := by
  simp [execScaleRead]

theorem execSieveRead_timebase (mb slot dst : Nat) (s : State) : timeAfter s (execSieveRead mb slot dst s) = s.timebase := by simp [execSieveRead]

theorem execFirmwareUpdate_timebase (mb length : Nat) (version : BitVec 64) (signatureOk : Bool) (s : State) :
    timeAfter s (execFirmwareUpdate mb length version signatureOk s) = s.timebase := by
  simp [execFirmwareUpdate, apply_ite State.timebase]

@[simp] theorem State.setDebug_timebase (s : State) (on : Bool) : (State.setDebug s on).timebase = s.timebase := by
  simp [State.setDebug, apply_ite State.timebase]

theorem execDebugUnlock_timebase (mb : Nat) (s : State) : timeAfter s (execDebugUnlock mb s) = s.timebase := by
  simp [execDebugUnlock, apply_ite State.timebase]

theorem execDebugLock_timebase (mb : Nat) (s : State) : timeAfter s (execDebugLock mb s) = s.timebase := by simp [execDebugLock]

theorem execFuseProgram_timebase (mb word : Nat) (value : BitVec 32) (s : State) : timeAfter s (execFuseProgram mb word value s) = s.timebase := by
  simp [execFuseProgram, apply_ite State.timebase]

theorem execSealRearm_timebase (mb : Nat) (s : State) : timeAfter s (execSealRearm mb s) = s.timebase := by
  simp [execSealRearm, apply_ite State.timebase]

/-! ### Control -/

@[simp] theorem State.runBr_timebase (s : State) (op : Nat) (g : GroupLoc) (f : BrForm) (park : Group → Option ParkCause) (sem : Cell → Group → Cell
  × Group) :
    (State.runBr s op g f park sem).timebase = s.timebase := by
  unfold State.runBr; dsimp only; (repeat' split) <;> simp

theorem execBrk_timebase (g : GroupLoc) (f : BrForm) (s : State) : timeAfter s (execBrk g f s) = s.timebase := by
  unfold execBrk; (repeat' split) <;> simp

theorem execUnassignedOpcode_timebase (g : GroupLoc) (w : DWord) (s : State) : timeAfter s (execUnassignedOpcode g w s) = s.timebase := by
  unfold execUnassignedOpcode; (repeat' split) <;> simp

theorem execMaskStackSpill_timebase (g : GroupLoc) (s : State) : timeAfter s (execMaskStackSpill g s) = s.timebase := by
  unfold execMaskStackSpill; dsimp only; split <;> simp [apply_ite (timeAfter _)]

theorem execMaskStackReload_timebase (g : GroupLoc) (s : State) : timeAfter s (execMaskStackReload g s) = s.timebase := by
  unfold execMaskStackReload; (repeat' split) <;> simp

/-! ### Floating point -/

theorem execCvt_timebase (g : GroupLoc) (f : RegForm) (s : State) : timeAfter s (execCvt g f s) = s.timebase := by simp [execCvt]

/-! ### Groups -/

@[simp] theorem State.acceptColl_timebase (s : State) (g : GroupLoc) (grp : Group) (f : RegForm) :
    (State.acceptColl s g grp f).timebase = s.timebase := by
  unfold State.acceptColl; dsimp only; (repeat' split) <;> simp

theorem execColl_timebase (g : GroupLoc) (f : RegForm) (s : State) : timeAfter s (execColl g f s) = s.timebase := by
  refine (State.runUnit_timebase fun grp => ?_).trans (State.reads_timebase ..)
  dsimp only
  split <;> simp [apply_ite (timeOr _)]

@[simp] theorem State.checkSetup_timebase (s : State) (mb : Nat) (k : Running) : (State.checkSetup s mb k).timebase = s.timebase := by
  unfold State.checkSetup; dsimp only; (repeat' split) <;> simp

theorem execCollectiveSetup_timebase (mb : Nat) (header : BitVec 512) (members : List (BitVec 16)) (s : State) :
    timeAfter s (execCollectiveSetup mb header members s) = s.timebase := by
  unfold execCollectiveSetup
  split
  · rfl
  · split
    · simp
    · rw [timeAfter_next, State.reading_timebase]
      split
      · rfl
      · dsimp only
        split <;> simp

@[simp] theorem execSetup_timebase (m : SetupMessage) (s : State) : timeAfter s (execSetup m s) = s.timebase := by
  unfold execSetup
  split
  · rfl
  · refine (foldl_timebase _ _ _ fun t mb => ?_).trans (by simp)
    split <;> simp [apply_ite State.timebase]

theorem execCollectiveRelease_timebase (mb group : Nat) (s : State) : timeAfter s (execCollectiveRelease mb group s) = s.timebase := by
  refine State.command_keeps fun t => ?_
  split <;> simp [apply_ite State.timebase]

theorem execCollectiveStatus_timebase (mb group dst : Nat) (s : State) : timeAfter s (execCollectiveStatus mb group dst s) = s.timebase := by
  refine State.command_keeps fun t => ?_
  split <;> simp

theorem execRingWatchdog_timebase (mb cell counter periodMs : Nat) (s : State) :
    timeAfter s (execRingWatchdog mb cell counter periodMs s) = s.timebase := by
  simp [execRingWatchdog, apply_ite State.timebase]

theorem execRingWatchdogExpiry_timebase (cell counter : Nat) (s : State) : timeAfter s (execRingWatchdogExpiry cell counter s) = s.timebase := by
  unfold execRingWatchdogExpiry; dsimp only; (repeat' split) <;> simp

theorem execCheckpoint_timebase (mb : Nat) (tag : BitVec 16) (timeoutMs : Nat) (s : State) :
    timeAfter s (execCheckpoint mb tag timeoutMs s) = s.timebase := by
  unfold execCheckpoint; dsimp only; split <;> simp [apply_ite (timeAfter _)]

theorem execCheckpointBump_timebase (tag : BitVec 16) (s : State) : timeAfter s (execCheckpointBump tag s) = s.timebase := by
  unfold execCheckpointBump; dsimp only; split <;> simp [apply_ite (timeAfter _)]

theorem execCheckpointTimeout_timebase (tag : BitVec 16) (s : State) : timeAfter s (execCheckpointTimeout tag s) = s.timebase := by
  unfold execCheckpointTimeout; dsimp only; split <;> simp [apply_ite (timeAfter _)]

end Sys2Proof.Machine
end

section
/-!
SUPPORT. R47: the commands that leave the timebase where it is, and what a module that is JOINED keeps.
-/

open Sys2Proof
namespace Sys2Proof.Machine

/-- The commands that move the timebase: the tick, a join (R48), and the loss and return of the auxiliary power (R497). -/
def Instr.movesTime (i : Instr) : Bool :=
  match i with
  | .timebaseTick | .identityDone _ _ | .selfJoinExpiry | .joinStateTimer _ | .auxPowerOn _ _ _ | .auxInputLoss => true
  | _ => false

/-- R47: every other command leaves the timebase where it is, whatever it answers. -/
theorem exec_timebase (i : Instr) (s : State) (still : Instr.movesTime i = false) : timeAfter s (exec i s) = s.timebase := by
  cases i with
  | timebaseTick | identityDone _ _ | selfJoinExpiry | joinStateTimer _ | auxPowerOn _ _ _ | auxInputLoss => exact nomatch still
  | pwrEnAssert => exact execPwrEnAssert_timebase ..
  | startupBegin _ => exact execStartupBegin_timebase ..
  | pwrEnDeassert => exact execPwrEnDeassert_timebase ..
  | mainInputDip _ _ => exact execMainInputDip_timebase ..
  | mainInputLoss _ _ => exact execMainInputLoss_timebase ..
  | mainInputOvervoltage _ _ => exact execMainInputOvervoltage_timebase ..
  | thermalTrip _ _ => exact execThermalTrip_timebase ..
  | thermtripRelease => exact execThermtripRelease_timebase ..
  | paceInterval _ _ _ => exact execPaceInterval_timebase ..
  | presBtnPress => exact execPresBtnPress_timebase ..
  | presJmpChange _ => exact execPresJmpChange_timebase ..
  | sealLoopOpen => exact execSealLoopOpen_timebase ..
  | pcieReset => exact execPcieReset_timebase ..
  | memoryWindowRead _ _ => exact execMemoryWindowRead_timebase ..
  | memoryWindowWrite _ _ => exact execMemoryWindowWrite_timebase ..
  | controlWindowBadAccess _ _ w => exact execControlWindowBadAccess_timebase _ _ w _
  | registerWrite _ _ _ => exact execRegisterWrite_timebase ..
  | w1cFlagWrite _ _ _ => exact execW1cFlagWrite_timebase ..
  | doorbellWrite _ _ _ => exact execDoorbellWrite_timebase ..
  | launchRingTailWrite _ _ => exact State.writeTail_timebase ..
  | groupPlace _ => exact execGroupPlace_timebase ..
  | statusRewrite => exact execStatusRewrite_timebase ..
  | bakerWatchdogRestart => exact execBakerWatchdogRestart_timebase ..
  | smbSetPointer _ _ => exact execSmbSetPointer_timebase ..
  | smbBlockRead => exact execSmbBlockRead_timebase ..
  | smbBlockWrite _ _ => exact State.smbBlock_timebase ..
  | smbStatusRead => exact execSmbStatusRead_timebase ..
  | oobDoorbellWrite _ _ => exact State.smbBlock_timebase ..
  | identityCmd _ _ => exact execIdentityCmd_timebase ..
  | capability _ _ => exact execCapability_timebase ..
  | cancel _ _ => exact execCancel_timebase ..
  | statusMirror _ _ => exact execStatusMirror_timebase ..
  | powerStatus _ _ _ _ _ => exact execPowerStatus_timebase ..
  | operatingPoint _ _ _ _ => exact execOperatingPoint_timebase ..
  | powerLimitSet _ _ => exact execPowerLimitSet_timebase ..
  | regionPowerOff _ _ => exact execRegionPowerOff_timebase ..
  | regionPowerOn _ _ => exact execRegionPowerOn_timebase ..
  | moduleResetGraceful _ => exact execModuleResetGraceful_timebase ..
  | moduleResetForced _ => exact execModuleResetForced_timebase ..
  | windowMap _ _ => exact execWindowMap_timebase ..
  | windowUnmap _ _ => exact execWindowUnmap_timebase ..
  | windowQuery _ _ _ _ => exact execWindowQuery_timebase ..
  | ownerSet _ _ _ _ => exact execOwnerSet_timebase ..
  | memoryClear _ _ _ => exact execMemoryClear_timebase ..
  | apertureSet _ _ => exact execApertureSet_timebase ..
  | interleaveSet _ _ => exact execInterleaveSet_timebase ..
  | unpin _ _ => exact execUnpin_timebase ..
  | scrub _ _ _ _ _ _ => exact execScrub_timebase ..
  | memoryHealth _ _ => exact execMemoryHealth_timebase ..
  | ringCreate _ _ => exact execRingCreate_timebase ..
  | ringDestroy _ _ => exact execRingDestroy_timebase ..
  | jobRelease _ _ => exact execJobRelease_timebase ..
  | jobStatus _ _ _ => exact execJobStatus_timebase ..
  | parkListRead _ _ _ _ => exact execParkListRead_timebase ..
  | parkStateRead _ _ _ _ _ => exact execParkStateRead_timebase ..
  | parkStateWrite _ _ _ _ _ => exact execParkStateWrite_timebase ..
  | parkReplay _ _ _ => exact execParkReplay_timebase ..
  | parkDiscard _ _ _ => exact execParkDiscard_timebase ..
  | fabricConfigure _ _ _ _ => exact execFabricConfigure_timebase ..
  | fabricStatus _ _ => exact execFabricStatus_timebase ..
  | linkStatus _ _ _ _ _ => exact execLinkStatus_timebase ..
  | linkRetrain _ _ _ => exact execLinkRetrain_timebase ..
  | linkDisable _ _ _ => exact execLinkDisable_timebase ..
  | linkEnable _ _ _ => exact execLinkEnable_timebase ..
  | collectiveSetup _ _ _ => exact execCollectiveSetup_timebase ..
  | collectiveRelease _ _ => exact execCollectiveRelease_timebase ..
  | collectiveStatus _ _ _ => exact execCollectiveStatus_timebase ..
  | ringWatchdog _ _ _ _ => exact execRingWatchdog_timebase ..
  | checkpoint _ _ _ => exact execCheckpoint_timebase ..
  | checkpointBump _ => exact execCheckpointBump_timebase ..
  | checkpointTimeout _ => exact execCheckpointTimeout_timebase ..
  | selfTest _ _ _ => exact execSelfTest_timebase ..
  | recipeSet _ _ _ => exact execRecipeSet_timebase ..
  | tastingRun _ _ _ => exact execTastingRun_timebase ..
  | scaleConfigure _ _ _ _ => exact execScaleConfigure_timebase ..
  | scaleRead _ _ _ _ => exact execScaleRead_timebase ..
  | sieveRead _ _ _ => exact execSieveRead_timebase ..
  | counterRead _ _ _ => exact execCounterRead_timebase ..
  | counterClear _ _ _ _ _ _ => exact execCounterClear_timebase ..
  | alarmRead _ _ _ _ => exact execAlarmRead_timebase ..
  | logRetrieve _ _ _ _ => exact execLogRetrieve_timebase ..
  | traceConfigure _ _ _ _ _ => exact execTraceConfigure_timebase ..
  | firmwareUpdate _ _ _ _ => exact execFirmwareUpdate_timebase ..
  | debugUnlock _ => exact execDebugUnlock_timebase ..
  | debugLock _ => exact execDebugLock_timebase ..
  | fuseProgram _ _ _ => exact execFuseProgram_timebase ..
  | sealRearm _ => exact execSealRearm_timebase ..
  | scrubOverride _ _ _ _ _ => exact execScrubOverride_timebase ..
  | benchProgramme _ _ => exact execBenchProgramme_timebase ..
  | benchCancel _ _ => exact execBenchCancel_timebase ..
  | laneRestore _ _ _ _ => exact execLaneRestore_timebase ..
  | nop _ _ => exact State.runReg_timebase ..
  | iadd _ _ => exact State.runReg_timebase ..
  | isub _ _ => exact State.runReg_timebase ..
  | imul _ _ => exact State.runReg_timebase ..
  | imulhi _ _ => exact State.runReg_timebase ..
  | imad _ _ => exact State.runReg_timebase ..
  | imin _ _ => exact State.runReg_timebase ..
  | imax _ _ => exact State.runReg_timebase ..
  | iabs _ _ => exact State.runReg_timebase ..
  | ishl _ _ => exact State.runReg_timebase ..
  | ishr _ _ => exact State.runReg_timebase ..
  | blut _ _ => exact State.runReg_timebase ..
  | popc _ _ => exact State.runReg_timebase ..
  | clz _ _ => exact State.runReg_timebase ..
  | brev _ _ => exact State.runReg_timebase ..
  | bfe _ _ => exact State.runReg_timebase ..
  | bfi _ _ => exact State.runReg_timebase ..
  | shf _ _ => exact State.runReg_timebase ..
  | sel _ _ => exact State.runReg_timebase ..
  | mov _ _ => exact execMov_timebase ..
  | iadd64 _ _ => exact State.runReg_timebase ..
  | imadw _ _ => exact State.runReg_timebase ..
  | icmp _ _ => exact State.runReg_timebase ..
  | plop _ _ => exact State.runReg_timebase ..
  | fadd _ _ => exact State.runReg_timebase ..
  | fmul _ _ => exact State.runReg_timebase ..
  | ffma _ _ => exact State.runReg_timebase ..
  | fmin _ _ => exact State.runReg_timebase ..
  | fmax _ _ => exact State.runReg_timebase ..
  | fcmp _ _ => exact State.runReg_timebase ..
  | hadd2 _ _ => exact State.runReg_timebase ..
  | hmul2 _ _ => exact State.runReg_timebase ..
  | hfma2 _ _ => exact State.runReg_timebase ..
  | cvt _ _ => exact execCvt_timebase ..
  | sfn _ _ => exact State.runReg_timebase ..
  | ualu _ _ => exact State.runReg_timebase ..
  | threadToUniform _ _ => exact State.runReg_timebase ..
  | srd _ _ => exact execSrd_timebase ..
  | vote _ _ => exact execVote_timebase ..
  | shfl _ _ => exact State.runReg_timebase ..
  | bra _ _ => exact State.runBr_timebase ..
  | call _ _ => exact State.runBr_timebase ..
  | ret _ _ => exact State.runBr_timebase ..
  | split _ _ => exact State.runBr_timebase ..
  | join _ _ => exact State.runBr_timebase ..
  | exit _ _ => exact State.runBr_timebase ..
  | brk _ _ => exact execBrk_timebase ..
  | unassignedOpcode _ _ => exact execUnassignedOpcode_timebase ..
  | ld _ _ => exact execLd_timebase ..
  | st _ _ => exact execSt_timebase ..
  | atomAdd _ _ => exact State.runAtomic_timebase ..
  | atomMin _ _ => exact State.runAtomic_timebase ..
  | atomMax _ _ => exact State.runAtomic_timebase ..
  | atomAnd _ _ => exact State.runAtomic_timebase ..
  | atomOr _ _ => exact State.runAtomic_timebase ..
  | atomXor _ _ => exact State.runAtomic_timebase ..
  | atomXch _ _ => exact State.runAtomic_timebase ..
  | atomCas _ _ => exact State.runAtomic_timebase ..
  | atomFadd _ _ => exact State.runAtomic_timebase ..
  | fence _ _ => exact execFence_timebase ..
  | inval _ _ => exact execInval_timebase ..
  | copy _ _ => exact execCopy_timebase ..
  | await _ _ => exact execAwait_timebase ..
  | cntSet _ _ => exact execCntSet_timebase ..
  | cntAdd _ _ => exact execCntAdd_timebase ..
  | cntRead _ _ => exact execCntRead_timebase ..
  | notify _ _ => exact execNotify_timebase ..
  | rnd _ _ => exact execRnd_timebase ..
  | step _ _ => exact execStep_timebase ..
  | mma _ _ => exact execMma_timebase ..
  | mslcConfig _ _ => exact State.runSlice_timebase ..
  | mslcClaim _ _ => exact State.runSlice_timebase ..
  | mslcRelease _ _ => exact State.runSlice_timebase ..
  | mslcQuery _ _ => exact State.runSlice_timebase ..
  | dopn _ _ => exact execDopn_timebase ..
  | drn _ _ => exact execDrn_timebase ..
  | dcls _ _ => exact execDcls_timebase ..
  | dqry _ _ => exact execDqry_timebase ..
  | chn _ _ => exact State.runChain_timebase ..
  | chstReadClear _ _ => exact State.runChst_timebase ..
  | chstReadOnly _ _ => exact State.runChst_timebase ..
  | spk _ _ => exact State.runChain_timebase ..
  | sgl _ _ => exact State.runChain_timebase ..
  | sxp _ _ => exact State.runChain_timebase ..
  | coll _ _ => exact execColl_timebase ..
  | instructionFetch _ => exact execInstructionFetch_timebase ..
  | lookasideFill _ => exact execLookasideFill_timebase ..
  | maskStackSpill _ => exact execMaskStackSpill_timebase ..
  | maskStackReload _ => exact execMaskStackReload_timebase ..
  | lineFill _ _ => exact execLineFill_timebase ..
  | groupRetire _ => exact execGroupRetire_timebase ..
  | parkNotice _ => exact execParkNotice_timebase ..
  | groupReplay _ => exact execGroupReplay_timebase ..
  | launchRecordDone _ => exact execLaunchRecordDone_timebase ..
  | counterIncrement _ _ _ => exact execCounterIncrement_timebase ..
  | copyCommand _ _ => exact execCopyCommand_timebase ..
  | copyComplete _ _ => exact execCopyComplete_timebase ..
  | copyNotify _ _ => exact execCopyNotify_timebase ..
  | homeRequest _ => exact execHomeRequest_timebase ..
  | stackCommandComplete _ _ => exact execStackCommandComplete_timebase ..
  | rowSpare _ _ _ => exact execRowSpare_timebase ..
  | patrolScrub _ _ _ => exact execPatrolScrub_timebase ..
  | rampStartDone _ _ => exact execRampStartDone_timebase ..
  | mmaOperandRelease _ _ => exact execMmaOperandRelease_timebase ..
  | dopnPreloadDone _ _ _ => exact execDopnPreloadDone_timebase ..
  | drainStart _ _ _ => exact execDrainStart_timebase ..
  | drainComplete _ _ _ => exact execDrainComplete_timebase ..
  | drawerClose _ _ _ => exact execDrawerClose_timebase ..
  | sliceHoldExpiry _ _ => exact execSliceHoldExpiry_timebase ..
  | rampStopDone _ _ => exact execRampStopDone_timebase ..
  | sliceFault _ _ => exact execSliceFault_timebase ..
  | waveWatchdogExpiry _ _ => exact execWaveWatchdogExpiry_timebase ..
  | sliceResetDone _ _ => exact execSliceResetDone_timebase ..
  | sliceAutoRelease _ _ => exact execSliceAutoRelease_timebase ..
  | chainStart _ => exact execChainStart_timebase ..
  | chainComplete _ _ => exact execChainComplete_timebase ..
  | collectivePortMap _ _ => exact execCollectivePortMap_timebase ..
  | sieveBankMerge _ => exact execSieveBankMerge_timebase ..
  | histogramContribution _ _ => exact execHistogramContribution_timebase ..
  | scaleStallExpiry _ => exact execScaleStallExpiry_timebase ..
  | scaleFetch _ _ => exact execScaleFetch_timebase ..
  | scaleAnswer _ _ => exact execScaleAnswer_timebase ..
  | satDirect _ => exact execSatDirect_timebase ..
  | rescaleReport _ => exact execRescaleReport_timebase ..
  | load _ => exact execLoad_timebase ..
  | store _ => exact execStore_timebase ..
  | atomic _ => exact execAtomic_timebase ..
  | get _ => exact execGet_timebase ..
  | put _ => exact execPut_timebase ..
  | notifyPacket _ => exact execNotifyPacket_timebase ..
  | loadData _ => exact State.takeAnswer_timebase ..
  | storeAck _ => exact State.takeAnswer_timebase ..
  | atomicData _ => exact State.takeAnswer_timebase ..
  | getData _ => exact State.takeAnswer_timebase ..
  | putAck _ => exact State.takeAnswer_timebase ..
  | notifyAck _ => exact State.takeAnswer_timebase ..
  | rspTimeoutExpiry _ _ => exact execRspTimeoutExpiry_timebase ..
  | winQuery _ _ _ => exact execWinQuery_timebase ..
  | winReply _ _ _ _ => exact execWinReply_timebase ..
  | packetRoute _ _ => exact execPacketRoute_timebase ..
  | packagePacket _ _ _ _ => exact execPackagePacket_timebase ..
  | timeProbeTimer _ => exact execTimeProbeTimer_timebase ..
  | timeProbe _ _ => exact execTimeProbe_timebase ..
  | timeReply _ _ _ _ _ => exact execTimeReply_timebase ..
  | timeServiceSilence => exact execTimeServiceSilence_timebase ..
  | linkSilenceProbe _ => exact execLinkSilenceProbe_timebase ..
  | peerProbe _ => exact execPeerProbe_timebase ..
  | peerAck _ => exact execPeerAck_timebase ..
  | linkDown _ _ => exact execLinkDown_timebase ..
  | peerDown _ _ _ => exact execPeerDown_timebase ..
  | peerUp _ _ _ => exact execPeerUp_timebase ..
  | setup _ => exact execSetup_timebase ..
  | collectiveStart _ => exact execCollectiveStart_timebase ..
  | segGrant _ _ => exact State.pumpColl_timebase ..
  | collectiveSegment _ => exact execCollectiveSegment_timebase ..
  | collectiveComplete _ => exact execCollectiveComplete_timebase ..
  | colAbort _ _ => exact State.modColl_timebase ..
  | segmentTimeout _ => exact execSegmentTimeout_timebase ..
  | ringWatchdogExpiry _ _ => exact execRingWatchdogExpiry_timebase ..
  | laserMeasure _ _ _ _ _ _ => exact execLaserMeasure_timebase ..
  | codeword _ _ _ => exact execCodeword_timebase ..
  | dataFlit _ _ => exact execDataFlit_timebase ..
  | controlFlit _ _ => exact State.acceptFlit_timebase ..
  | idleFlit _ _ => exact State.arriveFlit_timebase ..
  | nak _ _ => exact execNak_timebase ..
  | nakRetryExpiry _ => exact execNakRetryExpiry_timebase ..
  | spareReq _ _ => exact execSpareReq_timebase ..
  | laneSwitch _ => exact execLaneSwitch_timebase ..
  | recovery _ _ _ => exact State.startRecovery_timebase ..
  | recoveryDone _ _ => exact execRecoveryDone_timebase ..
  | recoveryTimeout _ => exact execRecoveryTimeout_timebase ..
  | beaconDetect _ => exact execBeaconDetect_timebase ..
  | laserCheckDone _ _ _ => exact State.bringupStep_timebase ..
  | txEqDone _ _ _ => exact State.bringupStep_timebase ..
  | rxAdaptDone _ _ _ => exact State.bringupStep_timebase ..
  | fecLockDone _ _ _ => exact State.bringupStep_timebase ..
  | deskewDone _ _ _ => exact execDeskewDone_timebase ..
  | bringupBoundExpiry _ _ => exact execBringupBoundExpiry_timebase ..
  | heldRetryExpiry _ => exact execHeldRetryExpiry_timebase ..
  | benchStart _ => exact execBenchStart_timebase ..
  | benchInject _ _ => exact execBenchInject_timebase ..
  | benchEnd _ => exact execBenchEnd_timebase ..
  | prooferRequest _ => exact State.enqueue_timebase ..
  | prooferGrant => exact execProoferGrant_timebase ..
  | governorInterval _ _ => exact execGovernorInterval_timebase ..
  | heldSliceStop _ _ => exact execHeldSliceStop_timebase ..
  | powerLimitInterval _ => exact execPowerLimitInterval_timebase ..
  | powerSample _ => exact execPowerSample_timebase ..
  | thermalSample _ _ => exact execThermalSample_timebase ..
  | thermalThrottleStep _ => exact execThermalThrottleStep_timebase ..
  | voltageRaiseStep _ => exact execVoltageRaiseStep_timebase ..
  | thermalFenceExpiry _ => exact execThermalFenceExpiry_timebase ..
  | rcHeartbeatTimeout _ => exact execRcHeartbeatTimeout_timebase ..
  | uncontainedCellFailure _ => exact execUncontainedCellFailure_timebase ..
  | fencedResponse _ _ => exact execFencedResponse_timebase ..
  | alarmOccurrence _ => exact execAlarmOccurrence_timebase ..
  | logMessage _ _ => exact execLogMessage_timebase ..
  | lossRecordWrite _ => exact execLossRecordWrite_timebase ..
  | summaryWindowEnd _ => exact execSummaryWindowEnd_timebase ..
  | traceRecord _ => exact execTraceRecord_timebase ..
  | traceReadPoll _ => exact execTraceReadPoll_timebase ..
  | configurationRequest _ => exact execConfigurationRequest_timebase ..
  | sealLoopClose => exact execSealLoopClose_timebase ..
  | moduleResetStart => exact execModuleResetStart_timebase ..
  | logRecordWrite _ => exact execLogRecordWrite_timebase ..
  | blockParityFailure _ => exact execBlockParityFailure_timebase ..
  | drawerSettled _ _ _ => exact execDrawerSettled_timebase ..

@[simp] theorem State.sendControl_joined (s : State) (p : Nat) (m : ControlMessage) : (State.sendControl s p m).joined = s.joined := by
  unfold State.sendControl
  dsimp only
  split <;> rfl

@[simp] theorem State.setPort_joined (s : State) (p : Nat) (x : Port) : (State.setPort s p x).joined = s.joined := by unfold State.setPort; rfl

theorem execIdentityDone_timebase {port : Nat} {i : PartnerIdentity} {s : State} (joined : s.joined = true) :
    timeAfter s (execIdentityDone port i s) = s.timebase := by
  refine timeAfter_ite (timeAfter_next ..) (timeAfter_ite (by simp) (timeAfter_ite (by simp) (timeAfter_ite (by simp) ?_)))
  refine (timeAfter_next ..).trans ((congrArg State.timebase (if_neg ?_)).trans (by simp))
  simp [joined]

theorem execSelfJoinExpiry_timebase {s : State} (joined : s.joined = true) : timeAfter s (execSelfJoinExpiry s) = s.timebase := by
  unfold execSelfJoinExpiry
  dsimp only
  split
  · rfl
  · rw [if_pos (Or.inl joined)]; rfl

theorem execJoinStateTimer_timebase {port : Nat} {s : State} (joined : s.joined = true) : timeAfter s (execJoinStateTimer port s) = s.timebase := by
  refine timeAfter_ite (timeAfter_next ..) ?_
  have known : (State.sendControl s port (.moduleState s.joined s.timebase)).joined = true := by simp [joined]
  split
  · simp
  · next q _ =>
    dsimp only
    rw [if_neg (c := q.joined = true ∧ _) (by simp [joined])]
    exact timeAfter_ite (by simp) (by simp)

/-- A seal that breaks does not make a module JOINED. -/
theorem State.breakSeal_unjoined {s : State} (h : s.joined = false) : (State.breakSeal s).joined = false := by
  simp [State.breakSeal, h]

/-- Once auxiliary power has come the module is not JOINED; a module that had it stays as it is. -/
theorem execAuxPowerOn_cases (straps : BitVec 3) (sealClosed jumper : Bool) (s : State) :
    execAuxPowerOn straps sealClosed jumper s = .next s ∨ ∃ t, execAuxPowerOn straps sealClosed jumper s = .next t ∧ t.joined = false := by
  by_cases on : s.phase ≠ .off
  · exact .inl (if_pos on)
  · by_cases broken : s.nv.sealClosed = true ∧ (!sealClosed) = true
    · exact .inr ⟨_, (if_neg on).trans (if_pos broken), State.breakSeal_unjoined (by rfl)⟩
    · exact .inr ⟨_, (if_neg on).trans (if_neg broken), by rfl⟩

/-- R47: while the module is JOINED, no command but the tick moves the timebase. -/
theorem exec_timebase_joined {i : Instr} {s t : State} (run : exec i s = .next t) (before : s.joined = true) (after : t.joined = true)
    (other : i ≠ .timebaseTick) : t.timebase = s.timebase := by
  have known : timeAfter s (exec i s) = s.timebase → t.timebase = s.timebase := fun h => by rw [run] at h; exact h
  by_cases still : Instr.movesTime i = false
  · exact known (exec_timebase i s still)
  · cases i with
    | timebaseTick => exact absurd rfl other
    | identityDone port p => exact known (execIdentityDone_timebase before)
    | selfJoinExpiry => exact known (execSelfJoinExpiry_timebase before)
    | joinStateTimer port => exact known (execJoinStateTimer_timebase before)
    | auxPowerOn straps sealClosed jumper =>
      obtain same | ⟨u, dark, unjoined⟩ := execAuxPowerOn_cases straps sealClosed jumper s
      · cases run.symm.trans same; rfl
      · cases run.symm.trans dark; exact absurd after (by simp [unjoined])
    | auxInputLoss => cases run; exact nomatch after
    | _ => exact absurd rfl still

end Sys2Proof.Machine
end

section
/-!
SUPPORT. What a tick does (R47, R444).
-/

open Sys2Proof
namespace Sys2Proof.Machine

/-! ### Ticks -/

/-- From `s` to `t` nothing has happened but what a tick does: counters, the cells' issue marks, the Proofer's budgets, the presence window, and
IDLE flits that have left the ports. -/
structure Ticked (s t : State) : Prop where
  frame : t = { s with cells := t.cells, tel := t.tel, power := t.power, presence := t.presence, ports := t.ports, out := t.out }
  sent : ∃ l, t.out = s.out ++ l ∧ ∀ o ∈ l, ∃ p n r d, o = .link p (.idle n r d)

/-- The same, where no port has sent. -/
structure Mute (s t : State) : Prop where
  ticked : Ticked s t
  ports : t.ports = s.ports
  out : t.out = s.out

theorem Ticked.trans {s t u : State} (h : Ticked s t) (k : Ticked t u) : Ticked s u := by
  obtain ⟨f, l, hl, il⟩ := h
  obtain ⟨g, m, hm, im⟩ := k
  refine ⟨?_, l ++ m, by rw [hm, hl, List.append_assoc], fun o ho => (List.mem_append.1 ho).elim (il o) (im o)⟩
  rw [f] at g
  exact g

theorem Mute.trans {s t u : State} (h : Mute s t) (k : Mute t u) : Mute s u := ⟨h.ticked.trans k.ticked, k.ports.trans h.ports, k.out.trans h.out⟩

theorem Ticked.of_out {s t : State} (frame : t = { s with cells := t.cells, tel := t.tel, power := t.power, presence := t.presence, ports := t.ports, out := t.out })
    (out : t.out = s.out) : Ticked s t := ⟨frame, [], by simp [out], by simp⟩

theorem Mute.refl (s : State) : Mute s s := ⟨.of_out rfl rfl, rfl, rfl⟩

theorem Mute.count (s : State) (c : Counter) (p i n : Nat) : Mute s (State.count s c p i n) := by
  unfold State.count
  generalize Telemetry.count s.tel s.timebase c p i n = tel
  exact ⟨.of_out rfl rfl, rfl, rfl⟩

theorem Mute.modCell (s : State) (c : Nat) (f : Cell → Cell) : Mute s (State.modCell s c f) := ⟨.of_out rfl rfl, rfl, rfl⟩

theorem Mute.ite {s t u : State} {p : Prop} [Decidable p] (h : Mute s t) (k : Mute s u) : Mute s (if p then t else u) := by
  split <;> assumption

theorem Mute.foldl {α : Type} {s t : State} (h : Mute s t) (f : State → α → State) (l : List α) (step : ∀ u a, Mute u (f u a)) : Mute s (l.foldl f t) :=
  foldl_keeps (Mute s) f (fun u a hu => hu.trans (step u a)) l t h

theorem mute_tickCell (s : State) (c : Nat) : Mute s (State.tickCell s c) := by
  unfold State.tickCell
  extract_lets x awaits units pools notices pipes held epochs ramps
  have hawaits : Mute s awaits := (Mute.refl s).foldl _ _ fun _ _ => .count ..
  clear_value awaits
  have hunits : Mute s units := hawaits.foldl _ _ fun _ _ => .count ..
  clear_value units
  have hpools : Mute s pools := hunits.foldl _ _ fun _ _ => .count ..
  clear_value pools
  have hnotices : Mute s notices := .ite (hpools.trans (.count ..)) hpools
  clear_value notices
  have hpipes : Mute s pipes := hnotices.foldl _ _ fun _ _ => .count ..
  clear_value pipes
  have hepochs : Mute s epochs := .ite hpipes (hpipes.trans (.count ..))
  clear_value epochs
  have hramps : Mute s ramps := .ite (hepochs.trans (.count ..)) hepochs
  exact hramps.trans (.modCell ..)

theorem mute_tickBlock (s : State) (b : Nat) : Mute s (State.tickBlock s b) := (Mute.refl s).foldl _ _ fun _ _ => .count ..

theorem mute_tickPackage (s : State) : Mute s (State.tickPackage s) := by
  refine (Mute.refl s).foldl _ _ fun u i => ?_
  exact Mute.ite (p := i / 8 = i % 8) (.refl u) ((Mute.refl u).foldl _ _ fun v p => .count ..)

theorem mute_tickRegion (s : State) (r : Nat) : Mute s (State.tickRegion s r) := by
  have powered := Mute.ite (p := (State.regionPower s r).vpwr.elim false (fun v => decide (v < (State.regionPower s r).vreq)) = true)
    (Mute.count s .powerCapped 0 r 1) (Mute.refl s)
  exact Mute.ite (powered.trans (.count ..)) powered

theorem mute_tickProofer (s : State) : Mute s (State.tickProofer s) := by
  have waits := Mute.ite (p := s.power.proofer.queue.isEmpty = true) (Mute.refl s) (Mute.count s .prooferWait 0 0 1)
  have held := Mute.ite (p := s.power.proofer.held.any FallItem.isSlice = true) (waits.trans (.count _ .stopHold 0 0 1)) waits
  exact held.trans ⟨.of_out rfl rfl, rfl, rfl⟩

theorem mute_tickPresence (s : State) : Mute s (State.tickPresence s) := by
  unfold State.tickPresence
  exact Mute.ite ⟨.of_out rfl rfl, rfl, rfl⟩ (.refl s)

/-! ### IDLE flits -/

/-- The port sends IDLE flits where it has nothing else to send (R444). -/
def Port.idles (x : Port) : Bool := Port.carries x && !x.recovering.contains true

theorem Port.idles_iff (x : Port) :
    Port.idles x = true ↔ (x.state = .identity ∨ x.state = .join ∨ x.state = .live ∨ x.state = .recovery) ∧ true ∉ x.recovering := by
  simp [Port.idles, Port.carries, portUp_iff, or_assoc]

/-- What a tick does for one port of the list. -/
def State.tickPort (s : State) (e : Nat × Port) : State :=
  let s := (Port.stalled e.2).foldl (fun t v => State.count t .vcStall v e.1 1) s
  State.sendIdle (if 2048 ≤ e.2.replay.length then State.count s .replayFull 0 e.1 1 else s) e.1

theorem State.tickPorts_eq (s : State) : State.tickPorts s = s.ports.foldl State.tickPort s := rfl

/-- Before it sends, a tick only counts. -/
theorem tickPort_eq (s : State) (e : Nat × Port) : ∃ t, Mute s t ∧ State.tickPort s e = State.sendIdle t e.1 :=
  have stalls := (Mute.refl s).foldl (fun t v => State.count t .vcStall v e.1 1) (Port.stalled e.2) fun _ _ => .count ..
  ⟨_, Mute.ite (stalls.trans (.count ..)) stalls, rfl⟩

theorem State.sendIdle_idles {s : State} {p : Nat} (h : Port.idles (State.port s p) = true) :
    State.sendIdle s p = State.speak s p (.idle (State.port s p).txNext) := if_pos h

theorem State.sendIdle_mute {s : State} {p : Nat} (h : Port.idles (State.port s p) = false) : State.sendIdle s p = s :=
  if_neg (by rw [show (Port.carries (State.port s p) && !(State.port s p).recovering.contains true) = false from h]; exact Bool.false_ne_true)

theorem ticked_sendIdle (s : State) (p : Nat) : Ticked s (State.sendIdle s p) := by
  cases h : Port.idles (State.port s p) with
  | false => rw [State.sendIdle_mute h]; exact (Mute.refl s).ticked
  | true => rw [State.sendIdle_idles h]; exact ⟨rfl, [_], rfl, fun o ho => ⟨_, _, _, _, List.mem_singleton.1 ho⟩⟩

theorem port_sendIdle_ne (s : State) {p q : Nat} (h : q ≠ p) : State.port (State.sendIdle s p) q = State.port s q := by
  cases idle : Port.idles (State.port s p) with
  | false => rw [State.sendIdle_mute idle]
  | true => rw [State.sendIdle_idles idle]; exact State.port_setPort_ne s h _

theorem ticked_tickPort (s : State) (e : Nat × Port) : Ticked s (State.tickPort s e) := by
  obtain ⟨t, counts, sends⟩ := tickPort_eq s e
  rw [sends]
  exact counts.ticked.trans (ticked_sendIdle t e.1)

theorem ticked_tickPorts (s : State) : Ticked s (State.tickPorts s) :=
  foldl_keeps (Ticked s) State.tickPort (fun t e h => h.trans (ticked_tickPort t e)) s.ports s (Mute.refl s).ticked

theorem port_tickPort_ne (s : State) {e : Nat × Port} {q : Nat} (h : q ≠ e.1) : State.port (State.tickPort s e) q = State.port s q := by
  obtain ⟨t, counts, sends⟩ := tickPort_eq s e
  rw [sends, port_sendIdle_ne t h, State.port_congr counts.ports]

theorem port_tickPort_mute {s : State} {q : Nat} (h : Port.idles (State.port s q) = false) (e : Nat × Port) :
    State.port (State.tickPort s e) q = State.port s q := by
  by_cases hq : q = e.1
  · obtain ⟨t, counts, sends⟩ := tickPort_eq s e
    have same : State.port t q = State.port s q := State.port_congr counts.ports q
    rw [sends, ← hq, State.sendIdle_mute (by rw [same, h]), same]
  · exact port_tickPort_ne s hq

/-- A port that idles sends one flit in the tick, and is told what it reports. -/
theorem port_tickPort_same {s : State} {e : Nat × Port} (h : Port.idles (State.port s e.1) = true) :
    State.port (State.tickPort s e) e.1 = Port.reported (State.port s e.1) ∧
      .link e.1 (.idle (State.port s e.1).txNext (Port.report (State.port s e.1)) (State.port s e.1).silenced) ∈ (State.tickPort s e).out := by
  obtain ⟨t, counts, sends⟩ := tickPort_eq s e
  have same : State.port t e.1 = State.port s e.1 := State.port_congr counts.ports e.1
  rw [sends, State.sendIdle_idles (by rw [same, h]), ← same]
  exact ⟨State.port_setPort_same t e.1 _, List.mem_append_right _ (List.mem_singleton.2 rfl)⟩

theorem port_tickPorts_mute {s : State} {q : Nat} (h : Port.idles (State.port s q) = false) : State.port (State.tickPorts s) q = State.port s q :=
  foldl_keeps (fun t => State.port t q = State.port s q) State.tickPort (fun t e ht => (port_tickPort_mute (by rw [ht, h]) e).trans ht) s.ports s rfl

/-- Ports of a list that is without `q` leave port `q` alone, and what has left stays so. -/
theorem foldl_tickPort_other {q : Nat} {o : Output} {l : List (Nat × Port)} (hq : q ∉ l.map (·.1)) (s : State) :
    State.port (l.foldl State.tickPort s) q = State.port s q ∧ (o ∈ s.out → o ∈ (l.foldl State.tickPort s).out) := by
  induction l generalizing s with
  | nil => exact ⟨rfl, id⟩
  | cons e l ih =>
    rw [List.map_cons, List.mem_cons, not_or] at hq
    obtain ⟨kept, stays⟩ := ih hq.2 (State.tickPort s e)
    obtain ⟨-, m, hm, -⟩ := ticked_tickPort s e
    exact ⟨kept.trans (port_tickPort_ne s hq.1), fun ho => stays (by rw [hm]; exact List.mem_append_left _ ho)⟩

/-- A port that idles is listed, as an unlisted one reads as DISABLED. -/
theorem idles_listed {s : State} {q : Nat} (h : Port.idles (State.port s q) = true) : ∃ x, (q, x) ∈ s.ports := by
  unfold State.port NMap.get at h
  cases found : NMap.find s.ports q with
  | none => rw [found] at h; exact absurd h (by decide)
  | some x => exact ⟨x, NMap.mem_of_find found⟩

theorem port_tickPorts_idles {s : State} {q : Nat} (h : Port.idles (State.port s q) = true) (once : (s.ports.map (·.1)).Nodup) :
    State.port (State.tickPorts s) q = Port.reported (State.port s q) ∧
      .link q (.idle (State.port s q).txNext (Port.report (State.port s q)) (State.port s q).silenced) ∈ (State.tickPorts s).out := by
  obtain ⟨x, listed⟩ := idles_listed h
  obtain ⟨a, b, split⟩ := List.append_of_mem listed
  rw [split, List.map_append, List.map_cons] at once
  have before : q ∉ a.map (·.1) := fun hq => (List.nodup_append.1 once).2.2 q hq q List.mem_cons_self rfl
  have after : q ∉ b.map (·.1) := (List.nodup_cons.1 (List.nodup_append.1 once).2.1).1
  have kept := (foldl_tickPort_other (o := .unsupported) before s).1
  rw [State.tickPorts_eq, split, List.foldl_append, List.foldl_cons]
  have sends := port_tickPort_same (s := a.foldl State.tickPort s) (e := (q, x)) (by rw [kept, h])
  rw [kept] at sends
  have later := foldl_tickPort_other (o := .link q (.idle (State.port s q).txNext (Port.report (State.port s q)) (State.port s q).silenced)) after
    (State.tickPort (a.foldl State.tickPort s) (q, x))
  exact ⟨later.1.trans sends.1, later.2 sends.2⟩

/-! ### tick -/

/-- The timebase and the time service after one tick. -/
def State.clocked (s : State) : State := { s with timebase := s.timebase + TimeService.step s.time, time := TimeService.tick s.time }

/-- What a tick does before the ports, and after them, sends nothing. -/
theorem exec_timebaseTick {s : State} (on : s.phase ≠ .off) :
    ∃ a t, exec .timebaseTick s = .next t ∧ Mute (State.clocked s) a ∧ Mute (State.tickPorts a) t := by
  have cells := (Mute.refl (State.clocked s)).foldl (fun t (e : Nat × Cell) => State.tickCell t e.1) (State.clocked s).cells fun u e => mute_tickCell u e.1
  have blocks := (cells.foldl State.tickBlock (List.range 64) mute_tickBlock).trans (mute_tickPackage _)
  have channels := fun l : List Nat => blocks.foldl (fun t n => State.count t .channelStall 0 n 1) l fun _ _ => .count ..
  have regions := fun u => (Mute.refl (State.tickPorts u)).foldl State.tickRegion (List.range 8) mute_tickRegion
  exact ⟨_, _, if_neg on, channels _, ((regions _).trans (Mute.ite (mute_tickProofer _) (.refl _))).trans (mute_tickPresence _)⟩

theorem TimeService.slews_iff (t : TimeService) : TimeService.slews t = true ↔ t.slew ≠ 0 ∧ t.holdover = false ∧ 999 ≤ t.sinceSlew := by
  simp [TimeService.slews, and_assoc]

/-- The three ways a tick can go (R47). -/
theorem TimeService.tick_cases (t : TimeService) :
    (TimeService.step t = 10 ∧ (TimeService.tick t).sinceSlew ≤ t.sinceSlew + 1 ∧ (TimeService.tick t).slew = t.slew) ∨
      (999 ≤ t.sinceSlew ∧ (TimeService.tick t).sinceSlew = 0 ∧
        (TimeService.step t = 11 ∧ (TimeService.tick t).slew = t.slew - 1 ∨ TimeService.step t = 9 ∧ (TimeService.tick t).slew = t.slew + 1)) := by
  unfold TimeService.step TimeService.tick
  cases h : TimeService.slews t with
  | false => exact .inl ⟨rfl, Nat.min_le_right .., rfl⟩
  | true =>
    refine .inr ⟨((TimeService.slews_iff t).1 h).2.2, rfl, ?_⟩
    by_cases ahead : 0 < t.slew
    · exact .inl ⟨if_pos ahead, if_pos ahead⟩
    · exact .inr ⟨if_neg ahead, if_neg ahead⟩

/-- What a tick does to a port (R444): only one that idles sends. -/
def Port.ticks (s t : State) (p : Nat) : Prop :=
  (Port.idles (State.port s p) = false → State.port t p = State.port s p) ∧
    (Port.idles (State.port s p) = true → (s.ports.map (·.1)).Nodup → State.port t p = Port.reported (State.port s p) ∧
      .link p (.idle (State.port s p).txNext (Port.report (State.port s p)) (State.port s p).silenced) ∈ t.out)

theorem ticks_of_mute {s a t : State} (before : Mute (State.clocked s) a) (after : Mute (State.tickPorts a) t) (p : Nat) : Port.ticks s t p := by
  have heard : State.port a p = State.port s p := State.port_congr before.ports p
  have said : State.port t p = State.port (State.tickPorts a) p := State.port_congr after.ports p
  refine ⟨fun h => said.trans ((port_tickPorts_mute (by rw [heard, h])).trans heard), fun h once => ?_⟩
  have sends := port_tickPorts_idles (s := a) (q := p) (by rw [heard, h]) (by rw [before.ports]; exact once)
  rw [heard] at sends
  exact ⟨said.trans sends.1, by rw [after.out]; exact sends.2⟩

/-- A tick of a module that is not OFF. -/
theorem exec_timebaseTick_ticked {s : State} (on : s.phase ≠ .off) :
    ∃ t, exec .timebaseTick s = .next t ∧ Ticked (State.clocked s) t ∧ ∀ p, Port.ticks s t p := by
  obtain ⟨a, t, run, before, after⟩ := exec_timebaseTick on
  exact ⟨t, run, (before.ticked.trans (ticked_tickPorts a)).trans after.ticked, ticks_of_mute before after⟩

/-- A tick never takes the timebase back. -/
theorem timebase_le_of_tick {s t : State} (run : exec .timebaseTick s = .next t) : s.timebase ≤ t.timebase := by
  by_cases on : s.phase = .off
  · cases run.symm.trans (if_pos on); exact le_rfl
  · obtain ⟨u, ticks, ⟨frame, -⟩, -⟩ := exec_timebaseTick_ticked on
    cases run.symm.trans ticks
    rw [frame]
    exact Nat.le_add_right ..

/-- R47: a step that keeps the module JOINED never takes the timebase back, and moves it only where its command is the tick. -/
theorem step_timebase_joined {s t : State} (run : step s = .next t) (before : s.joined = true) (after : t.joined = true) :
    s.timebase ≤ t.timebase ∧ (s.pending.head? ≠ some .timebaseTick → t.timebase = s.timebase) := by
  unfold step at run
  split at run
  · cases run; exact ⟨le_rfl, fun _ => rfl⟩
  · next i rest queued =>
    rw [queued]
    by_cases tick : i = .timebaseTick
    · subst tick
      have forward := timebase_le_of_tick run
      exact ⟨forward, fun h => absurd rfl h⟩
    · have still := exec_timebase_joined run before after tick
      exact ⟨still.ge, fun _ => still⟩

end Sys2Proof.Machine
end

section
open Sys2Proof Sys2Proof.Machine

/-- Settles O6: a tick from what each of its parts counts and sends, any other command from what its operations leave alone. -/
theorem timebaseRule : Obligations.TimebaseRule := by
  unfold Obligations.TimebaseRule
  refine ⟨fun s on => ?_, fun _ _ => step_timebase_joined⟩
  obtain ⟨t, run, ⟨frame, sent⟩, ports⟩ := exec_timebaseTick_ticked on
  have now : t.timebase = s.timebase + TimeService.step s.time := by rw [frame]; rfl
  have service : t.time = TimeService.tick s.time := by rw [frame]; rfl
  have cases := TimeService.tick_cases s.time
  rw [← service] at cases
  refine ⟨t, run, by omega, by omega, by omega, by omega, by rw [frame]; rfl, by rw [frame]; rfl, by rw [frame]; rfl, by rw [frame]; rfl, by rw [frame]; rfl, sent,
    fun p => ⟨fun mute => (ports p).1 ?_, fun speaks once => ?_⟩⟩
  · exact Bool.eq_false_iff.2 fun h => mute ((Port.idles_iff _).1 h)
  · obtain ⟨said, left⟩ := (ports p).2 ((Port.idles_iff _).2 speaks) once
    exact ⟨_, by rw [said]; exact claims_says _, left⟩
end

section
/-!
SUPPORT. Bring-up of a port: failed attempts, the beacon, the steps to the lane maps, and their bounds (R447, R448, R453, R454).
-/

namespace Sys2Proof.Machine

/-! ### A failed attempt -/

section
variable {s : State} {p : Nat}

/-- The port once an attempt of its has failed, where its link carried nothing. -/
def Port.afterFailure (x : Port) (now : Nat) : Port :=
  { Port.cleared x (if 3 ≤ x.failures + 1 then .held else .detect) now with failures := x.failures + 1 }

theorem State.attemptFailed_idle (down : Port.up (State.port s p) = false) (lanes : Nat) : State.attemptFailed s p lanes =
    State.heldAlarm (State.setPort (State.setPort (State.attemptLogged s p lanes) p
      (Port.cleared (State.port s p) (if 3 ≤ (State.port s p).failures + 1 then .held else .detect) s.timebase)) p (Port.afterFailure (State.port s p) s.timebase))
      p ((State.port s p).failures + 1) := by
  have same : State.port (State.attemptLogged s p lanes) p = State.port s p := State.port_congr rfl p
  have lowered := State.takeDown_idle (s := State.attemptLogged s p lanes) (p := p) (next := if 3 ≤ (State.port s p).failures + 1 then .held else .detect)
    (by rw [same]; exact down)
  rw [same] at lowered
  refine (State.attemptFailed_eq s p lanes).trans ?_
  dsimp only
  rw [lowered, State.modPort, State.port_setPort_same]
  rfl

/-- R448: a port whose link carries nothing fails an attempt. -/
theorem attemptFails_of_idle (down : Port.up (State.port s p) = false) (lanes : Nat) : Claims.attemptFails s (State.attemptFailed s p lanes) p lanes := by
  rw [State.attemptFailed_idle down]
  have records : OnlyRecords s (State.attemptLogged s p lanes) := (onlyRecords_count s .bringupFails 0 p 1).trans (onlyRecords_log ..)
  have fails : Claims.counted s (State.attemptLogged s p lanes) .bringupFails 0 p 1 :=
    (reports_log ..).counted_after (counted_count s .bringupFails 0 p 1 (by decide)) (by decide) fun h => nomatch h
  have logged := logged_log (State.count s .bringupFails 0 p 1) 0x0040 9 p 0 [1, p, PortState.code (State.port s p).state, lanes]
  change _ ∈ (State.attemptLogged s p lanes).tel.logPath at logged
  generalize State.attemptLogged s p lanes = u at records fails logged
  generalize hw : State.setPort (State.setPort u p _) p (Port.afterFailure (State.port s p) s.timebase) = w
  have frame : w = { u with ports := w.ports } := by rw [← hw]; rfl
  have here : State.port w p = Port.afterFailure (State.port s p) s.timebase := by rw [← hw]; exact State.port_setPort_same ..
  have others : ∀ q, q ≠ p → State.port w q = State.port s q := fun q hq => by
    rw [← hw, State.port_setPort_ne _ hq, State.port_setPort_ne _ hq]; exact State.port_congr (by rw [records]) q
  have tel : w.tel = u.tel := by rw [frame]
  obtain ⟨only, reports, alarm⟩ := heldAlarm_spec w p ((State.port s p).failures + 1)
  generalize State.heldAlarm w p ((State.port s p).failures + 1) = t at only reports alarm
  have port : ∀ q, State.port t q = State.port w q := fun q => State.port_congr (by rw [only]) q
  have later : Reports ([] ++ []) u t := (reports_of_tel tel).trans reports
  refine ⟨?_, ⟨?_, fun q hq => (port q).trans (others q hq)⟩, by rw [port, here]; rfl, by rw [port, here]; rfl,
    later.counted_after fails (by decide) (fun h => nomatch h), later.sent _ logged, fun third => alarmed_of (t := w) ?_ (alarm third)⟩
  · rw [only, frame, records]
  · dsimp only
    rw [port, here]
    rfl
  · rw [frame, records]

end

/-! ### Records aside, nothing or one port changes -/

theorem portBecomes_of_records {s t u : State} {p : Nat} {y : Port} (becomes : Claims.portBecomes s t p y []) (only : OnlyRecords t u) :
    Claims.portBecomes s u p y [] := by
  obtain ⟨outs, ⟨here, none_⟩, others, frame⟩ := becomes
  have port : ∀ q, State.port u q = State.port t q := fun q => State.port_congr (by rw [only]) q
  exact ⟨outs, ⟨(port p).trans here, none_⟩, fun q hq => (port q).trans (others q hq), by rw [only, frame]⟩

theorem portBecomes_setPort (s : State) (p : Nat) (y : Port) : Claims.portBecomes s (State.setPort s p y) p y [] :=
  ⟨[], ⟨State.port_setPort_same .., rfl⟩, fun q hq => State.port_setPort_ne s hq y, by rw [List.append_nil]; rfl⟩

theorem onlyRecords_halfWidth (s : State) (p : Nat) : OnlyRecords s (State.halfWidth s p) :=
  (((onlyRecords_count s .halfWidth 0 p 1).trans (onlyRecords_raise ..)).trans (onlyRecords_flag ..)).trans (onlyRecords_recoveryEvent ..)

theorem reports_halfWidth (s : State) (p : Nat) : ∃ keys, Reports keys s (State.halfWidth s p) :=
  ⟨_, (((reports_count s .halfWidth 0 p 1).trans (reports_raise ..)).trans (reports_flag ..)).trans (reports_recoveryEvent ..)⟩

theorem alarmed_halfWidth (s : State) (p : Nat) : Claims.alarmed s (State.halfWidth s p) 0x83 9 p 0 :=
  ((reports_flag _ 4).trans (reports_recoveryEvent _ 1)).alarmed (alarmed_of (t := State.count s .halfWidth 0 p 1) rfl (alarmed_raise ..))

/-! ### Lanes that serve -/

theorem foldl_or_testBit (l : List Nat) (a i : Nat) : (l.foldl (fun a i => a ||| 2 ^ i) a).testBit i = (a.testBit i || decide (i ∈ l)) := by
  induction l generalizing a with
  | nil => simp
  | cons j l ih =>
    rw [List.foldl_cons, ih, Nat.testBit_or, Nat.testBit_two_pow, Bool.or_assoc]
    congr 1
    by_cases h : j = i
    · simp [h]
    · simp [h, Ne.symm h]

theorem maskOf_testBit (l : List Nat) (i : Nat) : (maskOf l).testBit i = decide (i ∈ l) := by
  unfold maskOf
  rw [foldl_or_testBit, Nat.zero_testBit, Bool.false_or]

theorem servingLanes_testBit (s : State) (p l : Nat) :
    (State.servingLanes s p).testBit l = (decide (l < portLanes p) && decide (9 * p + l ∉ s.nv.retiredLanes)) := by
  unfold State.servingLanes laneInstance
  rw [maskOf_testBit]
  simp

section
variable {s : State} {p : Nat}

/-- Fabric configuration comes into force while the module is not JOINED (R397). -/
def State.configured (s : State) : State :=
  { s with
    moduleNumber := if s.joined then s.moduleNumber else s.nv.module
    fabric := if s.joined then s.fabric else { s.fabric with dim := s.nv.dim, rspTimeoutMs := s.fabric.nextTimeoutMs } }

theorem State.configured_eq (s : State) : (if s.joined then s
    else { s with moduleNumber := s.nv.module, fabric := { s.fabric with dim := s.nv.dim, rspTimeoutMs := s.fabric.nextTimeoutMs } }) = State.configured s := by
  unfold State.configured
  by_cases h : s.joined = true
  · rw [if_pos h, if_pos h, if_pos h]
  · rw [if_neg h, if_neg h, if_neg h]

/-- The port as training begins. -/
def State.trained (s : State) (p : Nat) : Port :=
  { Port.cleared (State.port s p) (if portElectrical p then .txEq else .laserCheck) s.timebase with
    usableTx := 2 ^ portLanes p - 1, usableRx := State.servingLanes s p }

theorem opticsCut_of (cool : ∀ h ∈ s.power.hot, h.row = 5 → h.sensor.unit ≠ p) : State.opticsCut s p = false :=
  List.any_eq_false.2 fun h mem => by
    rw [decide_eq_true_eq]
    exact fun ⟨row, unit⟩ => cool h mem row unit

theorem portUnwired_of (wired : p ≠ 39) : portUnwired p = false := by
  unfold portUnwired portElectrical portRegion
  rw [← Bool.decide_and, decide_eq_false_iff_not]
  omega

theorem exec_beaconDetect (range : p < 40) (wired : p ≠ 39) (state : (State.port s p).state = .detect) (phase : s.phase = .up)
    (input : p % 5 = 4 ∨ (State.port s p).laserA = true ∨ (State.port s p).laserB = true) (serves : (State.region s (p / 5)).fenced = false)
    (cool : ∀ h ∈ s.power.hot, h.row = 5 → h.sensor.unit ≠ p) :
    exec (.beaconDetect p) s = .next (State.setPort (State.configured s) p (State.trained (State.configured s) p)) := by
  have run : exec (.beaconDetect p) s = execBeaconDetect p s := rfl
  unfold execBeaconDetect at run
  dsimp only at run
  rw [State.configured_eq, if_neg] at run
  · exact run
  · rintro (h | h | h | ⟨optical, darkA, darkB⟩ | h | h | h)
    · exact h state
    · exact h phase
    · exact absurd range (Nat.not_lt.2 h)
    · obtain electrical | a | b := input
      · rw [portElectrical, decide_eq_true electrical] at optical; exact nomatch optical
      · rw [a] at darkA; exact nomatch darkA
      · rw [b] at darkB; exact nomatch darkB
    · rw [portRegion, serves] at h; exact nomatch h
    · rw [opticsCut_of cool] at h; exact nomatch h
    · rw [portUnwired_of wired] at h; exact nomatch h

theorem portElectrical_lanes (p : Nat) : (if portElectrical p = true then PortState.txEq else .laserCheck) = (if p % 5 = 4 then .txEq else .laserCheck) ∧
    2 ^ portLanes p - 1 = (if p % 5 = 4 then 255 else 511) ∧ portLanes p = if p % 5 = 4 then 8 else 9 := by
  unfold portLanes portElectrical
  by_cases h : p % 5 = 4
  · simp [h]
  · simp [h]

/-- R447: a port that may train leaves DETECT. -/
theorem beaconDetects (range : p < 40) (wired : p ≠ 39) (state : (State.port s p).state = .detect) (phase : s.phase = .up)
    (input : p % 5 = 4 ∨ (State.port s p).laserA = true ∨ (State.port s p).laserB = true) (serves : (State.region s (p / 5)).fenced = false)
    (cool : ∀ h ∈ s.power.hot, h.row = 5 → h.sensor.unit ≠ p) :
    let x := State.port s p
    ∃ t y, exec (.beaconDetect p) s = .next t ∧ State.port t p = y ∧ (∀ q, q ≠ p → State.port t q = State.port s q) ∧
      t = { s with
        ports := t.ports, moduleNumber := if s.joined then s.moduleNumber else s.nv.module
        fabric := if s.joined then s.fabric else { s.fabric with dim := s.nv.dim, rspTimeoutMs := s.fabric.nextTimeoutMs } } ∧
      y = { x with
        state := if p % 5 = 4 then .txEq else .laserCheck, since := s.timebase, lastRx := s.timebase, usableTx := if p % 5 = 4 then 255 else 511
        usableRx := y.usableRx, txMap := [], rxMap := [], txStandby := none, rxStandby := none, lanes := [], partner := none, spareAsked := none
        sparing := none, recovering := [], txNext := 0, replay := [], rxLast := 4095, naks := 0, nakAt := none, sent := [], total := [], returned := [], told := [], due := [], queued := [], controls := []
        grants := Arbiter.reset, inbound := [] } ∧
      ∀ l, l < 9 → y.usableRx.testBit l = (decide (l < (if p % 5 = 4 then 8 else 9)) && decide (9 * p + l ∉ s.nv.retiredLanes)) := by
  obtain ⟨next, lanes, width⟩ := portElectrical_lanes p
  refine ⟨_, _, exec_beaconDetect range wired state phase input serves cool, State.port_setPort_same .., fun q hq => State.port_setPort_ne _ hq _, rfl, ?_, fun l _ => ?_⟩
  · unfold State.trained
    rw [next, lanes]
    rfl
  · rw [← width]
    exact servingLanes_testBit (State.configured s) p l

/-! ### The steps of bring-up -/

section
variable {now next : PortState} {tx rx : Nat}

/-- Enough lanes have come through. -/
theorem State.bringupStep_on (state : (State.port s p).state = now) (enoughTx : 4 ≤ Claims.lanesOf ((State.port s p).usableTx &&& tx))
    (enoughRx : 4 ≤ Claims.lanesOf ((State.port s p).usableRx &&& rx)) : State.bringupStep s p now next tx rx =
      State.setPort s p { State.port s p with
        state := next, since := s.timebase, usableTx := (State.port s p).usableTx &&& tx, usableRx := (State.port s p).usableRx &&& rx } :=
  (if_neg fun h => h state).trans (if_neg fun few => few.elim (Nat.not_lt.2 enoughTx) (Nat.not_lt.2 enoughRx))

/-- Too few lanes have come through. -/
theorem State.bringupStep_fails (state : (State.port s p).state = now)
    (few : Claims.lanesOf ((State.port s p).usableTx &&& tx) < 4 ∨ Claims.lanesOf ((State.port s p).usableRx &&& rx) < 4) :
    State.bringupStep s p now next tx rx = State.attemptFailed s p
      (((State.port s p).usableRx &&& (511 ^^^ ((State.port s p).usableRx &&& rx))) +
        ((State.port s p).usableTx &&& (511 ^^^ ((State.port s p).usableTx &&& tx))) * 2 ^ 16) :=
  (if_neg fun h => h state).trans (if_pos few)

end

theorem laneMap_eq (u : Nat) : laneMap u 8 = Claims.mapOf u 8 := rfl

/-- A direction has its eight lanes, or it is at half width (R453). -/
theorem mapOf_length (u : Nat) : (Claims.mapOf u 8).1.length < 8 ↔ Claims.lanesOf u < 8 := by
  unfold Claims.mapOf Claims.lanesOf
  generalize (List.range 9).filter (fun i => u.testBit i) = l
  dsimp only
  by_cases h : 8 ≤ l.length
  · rw [if_pos ⟨h, rfl⟩, List.length_take]; omega
  · rw [if_neg fun k => h k.1, List.length_take]; omega

/-- A direction with fewer than eight lanes is noted (R453). -/
def State.narrowed (s : State) (p u : Nat) : State := if (laneMap u 8).1.length < 8 then State.halfWidth s p else s

theorem narrowed_spec (s : State) (p u : Nat) : OnlyRecords s (State.narrowed s p u) ∧ (∃ keys, Reports keys s (State.narrowed s p u)) ∧
    (Claims.lanesOf u < 8 → Claims.alarmed s (State.narrowed s p u) 0x83 9 p 0) ∧ (8 ≤ Claims.lanesOf u → State.narrowed s p u = s) := by
  unfold State.narrowed
  rw [laneMap_eq]
  by_cases narrow : Claims.lanesOf u < 8
  · rw [if_pos ((mapOf_length u).2 narrow)]
    exact ⟨onlyRecords_halfWidth s p, reports_halfWidth s p, fun _ => alarmed_halfWidth s p, fun wide => absurd narrow (Nat.not_lt.2 wide)⟩
  · rw [if_neg (mt (mapOf_length u).1 narrow)]
    exact ⟨rfl, ⟨_, Reports.refl s⟩, fun h => absurd h narrow, fun _ => rfl⟩

/-- The port with its lane maps set (R453). -/
def Port.mapped (x : Port) (tx rx now : Nat) : Port :=
  { x with
    state := .identity, since := now, usableTx := tx, usableRx := rx, txMap := (laneMap tx 8).1, txStandby := (laneMap tx 8).2
    rxMap := (laneMap rx 8).1, rxStandby := (laneMap rx 8).2, lastRx := now }

variable {a b : BitVec 9}

theorem exec_deskewDone (state : (State.port s p).state = .deskew) (enoughTx : 4 ≤ Claims.lanesOf ((State.port s p).usableTx &&& a.toNat))
    (enoughRx : 4 ≤ Claims.lanesOf ((State.port s p).usableRx &&& b.toNat)) :
    ∃ u, Claims.portBecomes s u p (Port.mapped (State.port s p) ((State.port s p).usableTx &&& a.toNat) ((State.port s p).usableRx &&& b.toNat) s.timebase) [] ∧
      u.tel = s.tel ∧ u.timebase = s.timebase ∧ exec (.deskewDone p a b) s =
        .next (State.narrowed (State.narrowed u p ((State.port s p).usableTx &&& a.toNat)) p ((State.port s p).usableRx &&& b.toNat)) := by
  have run : exec (.deskewDone p a b) s = execDeskewDone p a b s := rfl
  unfold execDeskewDone at run
  dsimp only at run
  rw [if_neg fun h => h state, State.bringupStep_on state enoughTx enoughRx, State.port_setPort_same, if_neg fun h => h rfl] at run
  refine ⟨_, ?_, ?_, ?_, run⟩
  · refine ⟨[], ⟨State.port_setPort_same .., rfl⟩, fun q hq => ?_, by rw [List.append_nil]; rfl⟩
    rw [State.port_setPort_ne _ hq, State.port_setPort_ne _ hq]
  · rfl
  · rfl

theorem exec_deskewDone_fails (state : (State.port s p).state = .deskew)
    (few : Claims.lanesOf ((State.port s p).usableTx &&& a.toNat) < 4 ∨ Claims.lanesOf ((State.port s p).usableRx &&& b.toNat) < 4) :
    exec (.deskewDone p a b) s = .next (State.bringupStep s p .deskew .identity a.toNat b.toNat) := by
  have run : exec (.deskewDone p a b) s = execDeskewDone p a b s := rfl
  unfold execDeskewDone at run
  dsimp only at run
  rw [if_neg fun h => h state, if_pos] at run
  · exact run
  · rw [State.bringupStep_fails state few]
    obtain ⟨-, ⟨here, -⟩, -⟩ := attemptFails_of_idle (s := s) (p := p) (by rw [Port.up, state]; rfl)
      (((State.port s p).usableRx &&& (511 ^^^ ((State.port s p).usableRx &&& b.toNat))) +
        ((State.port s p).usableTx &&& (511 ^^^ ((State.port s p).usableTx &&& a.toNat))) * 2 ^ 16)
    rw [here]
    dsimp only
    split <;> exact fun h => nomatch h

/-- R448: a step of bring-up through which too few lanes come. -/
theorem bringupStep_attemptFails {now next : PortState} {tx rx : Nat} (state : (State.port s p).state = now) (down : Port.up (State.port s p) = false)
    (few : Claims.lanesOf ((State.port s p).usableTx &&& tx) < 4 ∨ Claims.lanesOf ((State.port s p).usableRx &&& rx) < 4) :
    Claims.attemptFails s (State.bringupStep s p now next tx rx) p (((State.port s p).usableRx &&& (511 ^^^ ((State.port s p).usableRx &&& rx))) +
      ((State.port s p).usableTx &&& (511 ^^^ ((State.port s p).usableTx &&& tx))) * 2 ^ 16) := by
  rw [State.bringupStep_fails state few]
  exact attemptFails_of_idle down _

/-- A row of Table 15.5 is one step; the last of them sets the lane maps. -/
theorem bringupRow_cases {i : Nat → BitVec 9 → BitVec 9 → Instr} {now next : PortState} (row : Claims.bringupRow i now next) :
    (∀ s p, (State.port s p).state = now → Port.up (State.port s p) = false) ∧
      ((next ≠ .identity ∧ ∀ s p a b, exec (i p a b) s = .next (State.bringupStep s p now next a.toNat b.toNat)) ∨
        (i = .deskewDone ∧ now = .deskew ∧ next = .identity)) := by
  obtain ⟨rfl, rfl, rfl⟩ | ⟨rfl, rfl, rfl⟩ | ⟨rfl, rfl, rfl⟩ | ⟨rfl, rfl, rfl⟩ | ⟨rfl, rfl, rfl⟩ := row
  case inr.inr.inr.inr => exact ⟨fun s p state => by rw [Port.up, state]; rfl, .inr ⟨rfl, rfl, rfl⟩⟩
  all_goals exact ⟨fun s p state => by rw [Port.up, state]; rfl, .inl ⟨(nomatch ·), fun _ _ _ _ => rfl⟩⟩

/-- R453: DESKEW_DONE with enough lanes. -/
theorem deskewDone_maps (state : (State.port s p).state = .deskew) (enoughTx : 4 ≤ Claims.lanesOf ((State.port s p).usableTx &&& a.toNat))
    (enoughRx : 4 ≤ Claims.lanesOf ((State.port s p).usableRx &&& b.toNat)) :
    ∃ t, exec (.deskewDone p a b) s = .next t ∧
      Claims.portBecomes s t p (Port.mapped (State.port s p) ((State.port s p).usableTx &&& a.toNat) ((State.port s p).usableRx &&& b.toNat) s.timebase) [] ∧
      (Claims.lanesOf ((State.port s p).usableTx &&& a.toNat) < 8 ∨ Claims.lanesOf ((State.port s p).usableRx &&& b.toNat) < 8 → Claims.alarmed s t 0x83 9 p 0) ∧
      (8 ≤ Claims.lanesOf ((State.port s p).usableTx &&& a.toNat) → 8 ≤ Claims.lanesOf ((State.port s p).usableRx &&& b.toNat) → t.tel = s.tel) := by
  obtain ⟨u, becomes, tel, time, run⟩ := exec_deskewDone state enoughTx enoughRx
  obtain ⟨only, -, alarm, wide⟩ := narrowed_spec u p ((State.port s p).usableTx &&& a.toNat)
  generalize State.narrowed u p ((State.port s p).usableTx &&& a.toNat) = v at run only alarm wide
  obtain ⟨only', ⟨_, reports'⟩, alarm', wide'⟩ := narrowed_spec v p ((State.port s p).usableRx &&& b.toNat)
  have time' : v.timebase = s.timebase := by rw [only, ← time]
  refine ⟨_, run, portBecomes_of_records becomes (only.trans only'), fun narrow => ?_, fun wideTx wideRx => by rw [wide' wideRx, wide wideTx, tel]⟩
  obtain narrow | narrow := narrow
  · exact alarmed_of time (reports'.alarmed (alarm narrow))
  · exact alarmed_of time' (alarm' narrow)

/-- R447, R448, R453: the commands that end the steps from LASER_CHECK to DESKEW. -/
theorem bringupRows {i : Nat → BitVec 9 → BitVec 9 → Instr} {now next : PortState} (row : Claims.bringupRow i now next) (state : (State.port s p).state = now) :
    let x := State.port s p
    let tx := x.usableTx &&& a.toNat
    let rx := x.usableRx &&& b.toNat
    (4 ≤ Claims.lanesOf tx → 4 ≤ Claims.lanesOf rx →
      (next ≠ .identity → ∃ t, exec (i p a b) s = .next t ∧ t.tel = s.tel ∧
        Claims.portBecomes s t p { x with state := next, since := s.timebase, usableTx := tx, usableRx := rx } []) ∧
      (next = .identity → ∃ t, exec (i p a b) s = .next t ∧
        Claims.portBecomes s t p { x with
          state := .identity, since := s.timebase, usableTx := tx, usableRx := rx, txMap := (Claims.mapOf tx 8).1, txStandby := (Claims.mapOf tx 8).2
          rxMap := (Claims.mapOf rx 8).1, rxStandby := (Claims.mapOf rx 8).2, lastRx := s.timebase } [] ∧
        (Claims.lanesOf tx < 8 ∨ Claims.lanesOf rx < 8 → Claims.alarmed s t 0x83 9 p 0) ∧
        (8 ≤ Claims.lanesOf tx → 8 ≤ Claims.lanesOf rx → t.tel = s.tel))) ∧
    (Claims.lanesOf tx < 4 ∨ Claims.lanesOf rx < 4 → ∃ t, exec (i p a b) s = .next t ∧
      Claims.attemptFails s t p ((x.usableRx &&& (511 ^^^ rx)) + (x.usableTx &&& (511 ^^^ tx)) * 2 ^ 16)) := by
  obtain ⟨down, ⟨early, run⟩ | ⟨rfl, rfl, rfl⟩⟩ := bringupRow_cases row
  · refine ⟨fun enoughTx enoughRx => ⟨fun _ => ⟨_, run s p a b, ?_⟩, fun last => absurd last early⟩, fun few =>
      ⟨_, run s p a b, bringupStep_attemptFails state (down s p state) few⟩⟩
    rw [State.bringupStep_on state enoughTx enoughRx]
    exact ⟨rfl, portBecomes_setPort ..⟩
  · exact ⟨fun enoughTx enoughRx => ⟨fun h => absurd rfl h, fun _ => deskewDone_maps state enoughTx enoughRx⟩, fun few =>
      ⟨_, exec_deskewDone_fails state few, bringupStep_attemptFails state (down s p state) few⟩⟩

end

/-! ### Bounds -/

section
variable {s : State} {p bound : Nat}

/-- The bounds of Table 15.5. -/
theorem bound_of {x : PortState} {b : Nat} (row : (x, b) ∈ [(PortState.laserCheck, 50000000), (.txEq, 300000000), (.rxAdapt, 200000000), (.fecLock, 5000000),
    (.deskew, 1000000), (.identity, 2000000), (.join, 10000000)]) : PortState.bound x = some b ∧ x ≠ .live ∧ x ≠ .recovery := by
  simp only [List.mem_cons, List.not_mem_nil, or_false, Prod.mk.injEq] at row
  obtain ⟨rfl, rfl⟩ | ⟨rfl, rfl⟩ | ⟨rfl, rfl⟩ | ⟨rfl, rfl⟩ | ⟨rfl, rfl⟩ | ⟨rfl, rfl⟩ | ⟨rfl, rfl⟩ := row
  all_goals exact ⟨rfl, (nomatch ·), (nomatch ·)⟩

/-- The bound does not run yet: in JOIN until both modules are JOINED, in IDENTITY while SERVICED. -/
def State.boundWaits (s : State) (p : Nat) : Bool :=
  (decide ((State.port s p).state = .join) && !(s.joined && (State.port s p).partner.elim false (fun q => q.joined))) ||
    (decide ((State.port s p).state = .identity) && State.serviced s)

theorem exec_bringupBoundExpiry (known : PortState.bound (State.port s p).state = some bound) (lanes : BitVec 32) : exec (.bringupBoundExpiry p lanes) s =
    if State.boundWaits s p = true ∨ s.timebase < (State.port s p).since + bound then .next s else .next (State.attemptFailed s p lanes.toNat) := by
  have run : exec (.bringupBoundExpiry p lanes) s = execBringupBoundExpiry p lanes s := rfl
  unfold execBringupBoundExpiry at run
  dsimp only at run
  rw [known] at run
  exact run

theorem boundWaits_false (joined : (State.port s p).state = .join → s.joined = true ∧ ∃ q, (State.port s p).partner = some q ∧ q.joined = true)
    (free : (State.port s p).state = .identity → State.serviced s = false) : State.boundWaits s p = false := by
  unfold State.boundWaits
  rw [Bool.or_eq_false_iff, Bool.and_eq_false_imp, Bool.and_eq_false_imp]
  refine ⟨fun state => ?_, fun state => free (of_decide_eq_true state)⟩
  obtain ⟨own, q, partner, theirs⟩ := joined (of_decide_eq_true state)
  rw [own, partner]
  exact congrArg (!·) theirs

theorem boundWaits_unjoined (state : (State.port s p).state = .join) (own : s.joined = false) : State.boundWaits s p = true := by
  unfold State.boundWaits
  rw [state, own]
  rfl

end

/-- R448: BRINGUP_BOUND_EXPIRY. -/
theorem bringupBounds (s : State) (p b : Nat) (lanes : BitVec 32) (row : ((State.port s p).state, b) ∈ [(PortState.laserCheck, 50000000), (.txEq, 300000000),
    (.rxAdapt, 200000000), (.fecLock, 5000000), (.deskew, 1000000), (.identity, 2000000), (.join, 10000000)]) :
    let x := State.port s p
    (x.since + b ≤ s.timebase → (x.state = .join → s.joined = true ∧ ∃ q, x.partner = some q ∧ q.joined = true) →
      (x.state = .identity → State.serviced s = false) →
      ∃ t, exec (.bringupBoundExpiry p lanes) s = .next t ∧ Claims.attemptFails s t p lanes.toNat) ∧
    (x.state = .join → s.joined = false → exec (.bringupBoundExpiry p lanes) s = .next s) := by
  obtain ⟨known, notLive, notRecovery⟩ := bound_of row
  have run := exec_bringupBoundExpiry known lanes
  refine ⟨fun passed joined free => ⟨_, run.trans (if_neg ?_), attemptFails_of_idle ?_ _⟩, fun state own => run.trans (if_pos (.inl (boundWaits_unjoined state own)))⟩
  · rw [boundWaits_false joined free]
    exact not_or.2 ⟨Bool.false_ne_true, Int.not_lt.2 passed⟩
  · rw [Port.up, decide_eq_false notLive, decide_eq_false notRecovery]; rfl

/-- R448: HELD_RETRY_EXPIRY. -/
theorem heldRetries (s : State) (p : Nat) (state : (State.port s p).state = .held) (late : (State.port s p).since + 10000000000 ≤ s.timebase) :
    ∃ t, exec (.heldRetryExpiry p) s = .next t ∧ Claims.portBecomes s t p { State.port s p with state := .detect, since := s.timebase } [] ∧ t.tel = s.tel :=
  ⟨_, if_pos ⟨state, late⟩, portBecomes_setPort .., rfl⟩

/-- R447, R448, R453, R454: from the beacon to the lane map. -/
theorem portsTrain : Claims.portsTrain :=
  ⟨fun _ _ range wired state phase input serves cool => beaconDetects range wired state phase input serves cool,
    fun _ _ _ row _ _ _ _ state => bringupRows row state, bringupBounds, heldRetries⟩

end Sys2Proof.Machine
end

section
/-!
SUPPORT. A module that becomes JOINED: the step of its timebase, its incarnation, and what stays (R48, R393, R449).
-/

namespace Sys2Proof.Machine

/-! ### Joining -/

theorem NMap.find_mapValues {V W : Type} (f : V → W) (m : NMap V) (k : Nat) : NMap.find (m.map (fun e => (e.1, f e.2))) k = (NMap.find m k).map f := by
  induction m with
  | nil => rfl
  | cons e r ih =>
    rw [List.map_cons, NMap.find, NMap.find]
    by_cases h : e.1 = k
    · rw [if_pos h, if_pos h]; rfl
    · rw [if_neg h, if_neg h, ih]

/-- The state once the timebase has stepped to `now`, but for the records of it (R48). -/
def State.stepped (s : State) (now : Nat) : State :=
  { State.shiftWindows s (fun t => t + now - s.timebase) with
    timebase := now, time := { s.time with stepped := true, lastService := now } }

theorem State.stepTime_eq (s : State) (now : Nat) : State.stepTime s now =
    State.log (State.w1cSet (State.count (State.stepped s now) .timeSteps 0 0 1) steppedKey) 0x0010 0 0 0 [s.timebase, now] := rfl

theorem onlyRecords_stepTime (s : State) (now : Nat) : OnlyRecords (State.stepped s now) (State.stepTime s now) := by
  rw [State.stepTime_eq]
  exact ((onlyRecords_count ..).trans (t := State.count (State.stepped s now) .timeSteps 0 0 1)
    (u := State.w1cSet (State.count (State.stepped s now) .timeSteps 0 0 1) steppedKey) rfl).trans (onlyRecords_log ..)

theorem reports_stepped (s : State) (now : Nat) : Reports [] s (State.stepped s now) := reports_of_same rfl (fun _ h => h) rfl

/-- A step of the timebase is counted and logged (R48). -/
theorem stepTime_recorded (s : State) (now : Nat) : Claims.counted s (State.stepTime s now) .timeSteps 0 0 1 ∧
    (8, { stamp := now, type := 0x0010, kind := 0, source := 0, job := 0, d := [s.timebase, now] }) ∈ (State.stepTime s now).tel.logPath := by
  rw [State.stepTime_eq]
  have counted := (reports_stepped s now).counted_before (by decide) (fun h => nomatch h) (counted_count (State.stepped s now) .timeSteps 0 0 1 (by decide))
  exact ⟨((reports_w1cSet _ steppedKey).trans (reports_log ..)).counted_after counted (by decide) (fun h => nomatch h), logged_log ..⟩

/-- The module is JOINED, in a new incarnation (R393). -/
def State.incarnated (s : State) : State := { s with joined := true, nv := { s.nv with incarnation := s.nv.incarnation + 1 } }

/-- The time service serves from now on. -/
def State.serving (s : State) : State := { s with time := { s.time with synced := true, holdover := false, lastService := s.timebase } }

theorem State.join_step (s : State) (now : Nat) : State.join s (some now) = State.electTime (State.serving (State.stepTime (State.incarnated s) now)) := rfl

theorem State.join_still (s : State) : State.join s none = State.electTime (State.serving (State.incarnated s)) := rfl

/-- The choice of a time master changes nothing else (R49). -/
theorem electTime_frame (s : State) : State.electTime s = { s with time := (State.electTime s).time } ∧ SameClock s.time (State.electTime s).time :=
  ⟨rfl, sameClock_elect s.time s.moduleNumber s.fabric.failed s.time.neighbours⟩

/-- Of `s` only ports, what the fabric is known to be, what has been sent, and records that count nothing differ. -/
structure Joining (s u : State) : Prop where
  frame : u = { s with ports := u.ports, fabric := u.fabric, tel := u.tel, out := u.out }
  reports : Reports [] s u

/-- A JOINED state sends and writes to its ports, and stays JOINED as it was. -/
theorem joins_of_frame {s t u : State} {now : Nat} {stepped : Bool} (joins : Claims.joins s t now stepped) (frame : u = { t with ports := u.ports, out := u.out }) :
    Claims.joins s u now stepped := by
  rw [frame]
  exact joins

/-- R48: a module that joins takes the partner's fabric time in one step. -/
theorem joins_step {s u : State} (h : Joining s u) (now : Nat) : Claims.joins s (State.join u (some now)) now true := by
  obtain ⟨frame, reports⟩ := h
  rw [State.join_step]
  obtain ⟨counted, logged⟩ := stepTime_recorded (State.incarnated u) now
  have only := onlyRecords_stepTime (State.incarnated u) now
  have counted' : Claims.counted s (State.stepTime (State.incarnated u) now) .timeSteps 0 0 1 :=
    (reports.trans (reports_of_tel (t := State.incarnated u) rfl)).counted_before (by decide) (fun h => nomatch h) counted
  generalize State.stepTime (State.incarnated u) now = v at counted' logged only
  obtain ⟨chosen, clock⟩ := electTime_frame (State.serving v)
  generalize State.electTime (State.serving v) = t at chosen clock
  have tel : t.tel = v.tel := by rw [chosen]; rfl
  have time : t.timebase = now := by rw [chosen]; show v.timebase = now; rw [only]; rfl
  have service : (State.serving v).time = { s.time with stepped := true, synced := true, holdover := false, lastService := now } := by
    show ({ v.time with synced := true, holdover := false, lastService := v.timebase } : TimeService) = _
    rw [only]
    show ({ u.time with stepped := true, synced := true, holdover := false, lastService := now } : TimeService) = _
    rw [frame]
  have rest : t = { State.stepped (State.incarnated u) now with time := t.time, tel := t.tel } := by
    refine chosen.trans ((congrArg (fun w : State => { State.serving w with time := t.time }) only).trans ?_)
    rw [tel]
    rfl
  rw [service] at clock
  have sameTime : u.timebase = s.timebase := by rw [frame]
  have window : t.presence = Presence.shift s.presence (fun w => w + now - s.timebase) := by rw [rest, frame]; rfl
  refine ⟨?_, ?_, time, ?_, ?_, ?_, ?_, ?_, ?_, ?_, fun n => ?_, fun c => ?_, fun _ => ⟨?_, ?_, ?_, fun opened => ?_⟩⟩
  · rw [rest]; rfl
  · rw [rest, frame]; exact ⟨_, rfl⟩
  · rw [clock]
  · rw [clock]
  · rw [clock]
  · rw [rest, frame]; rfl
  · rw [rest, frame]; rfl
  · rw [rest, frame]; rfl
  · rw [rest, frame]; rfl
  · rw [rest, frame]
    exact ⟨_, NMap.get_mapValues (fun m => Mailbox.shift m _) Mailbox.reset rfl s.host.mailboxes n⟩
  · rw [rest, frame]
    exact ⟨_, _, _, NMap.get_mapValues (fun x => Cell.shift x _) Cell.reset rfl s.cells c⟩
  · rw [clock]
  · exact (reports_of_tel tel).counted_after counted' (by decide) (fun h => nomatch h)
  · rw [tel, ← sameTime]; exact logged
  · rw [window]
    unfold Presence.shift
    rw [if_pos opened]
    exact ⟨rfl, rfl⟩

/-- A port that is listed moves its windows when the timebase steps (R48), and stays what it was. -/
theorem port_join_step (u : State) (now p : Nat) (listed : (State.port u p).state ≠ .disabled) : State.port (State.join u (some now)) p =
    Port.shift (State.port u p) (fun w => w + now - u.timebase) := by
  rw [State.join_step]
  have only := onlyRecords_stepTime (State.incarnated u) now
  have ports : (State.electTime (State.serving (State.stepTime (State.incarnated u) now))).ports =
      u.ports.map (fun e => (e.1, Port.shift e.2 (fun w => w + now - u.timebase))) := by
    show (State.stepTime (State.incarnated u) now).ports = _
    rw [only]
    rfl
  unfold State.port at *
  rw [ports]
  unfold NMap.get at *
  rw [NMap.find_mapValues (fun x : Port => Port.shift x _)]
  cases found : NMap.find u.ports p with
  | none => rw [found] at listed; exact absurd rfl listed
  | some x => rfl

/-- R449: a module that joins of itself keeps its timebase. -/
theorem joins_still (s : State) : Claims.joins s (State.join s none) s.timebase false ∧
    State.join s none = { s with joined := true, nv := { s.nv with incarnation := s.nv.incarnation + 1 }, time := (State.join s none).time } := by
  rw [State.join_still]
  obtain ⟨chosen, clock⟩ := electTime_frame (State.serving (State.incarnated s))
  generalize State.electTime (State.serving (State.incarnated s)) = t at chosen clock
  have rest : t = { s with joined := true, nv := { s.nv with incarnation := s.nv.incarnation + 1 }, time := t.time } := chosen
  refine ⟨⟨?_, ?_, ?_, ?_, ?_, ?_, ?_, ?_, ?_, ?_, fun n => ?_, fun c => ?_, fun h => nomatch h⟩, rest⟩
  · rw [rest]
  · rw [rest]; exact ⟨_, rfl⟩
  · rw [rest]
  · rw [clock]; rfl
  · rw [clock]; rfl
  · rw [clock]; rfl
  · rw [rest]
  · rw [rest]
  · rw [rest]
  · rw [rest]
  · rw [rest]; exact ⟨_, rfl⟩
  · rw [rest]; exact ⟨_, _, _, rfl⟩

end Sys2Proof.Machine
end

section
/-!
SUPPORT. IDENTITY_DONE and SELF_JOIN_EXPIRY (R382, R447, R449, R483).
-/

namespace Sys2Proof.Machine

/-! ### IDENTITY_DONE -/

section
variable {s : State} {p : Nat}

/-- A port whose link carried nothing is held, with records. -/
theorem portDown_records {u : State} (only : OnlyRecords s u) (next : PortState) :
    let t := State.setPort u p (Port.cleared (State.port s p) next s.timebase)
    t = { s with ports := t.ports, tel := t.tel } ∧ Claims.portDown s t p next ∧ (State.port t p).failures = (State.port s p).failures := by
  dsimp only
  have here : State.port (State.setPort u p (Port.cleared (State.port s p) next s.timebase)) p = Port.cleared (State.port s p) next s.timebase :=
    State.port_setPort_same ..
  refine ⟨?_, ⟨?_, fun q hq => ?_⟩, ?_⟩
  · rw [only]; rfl
  · dsimp only
    rw [here]
    rfl
  · rw [State.port_setPort_ne _ hq]
    exact State.port_congr (by rw [only]) q
  · rw [here]; rfl

section
variable {i : PartnerIdentity}

/-- The partner, as it says it is. -/
def State.partnerOf (s : State) (i : PartnerIdentity) : Partner :=
  { module := i.module, incarnation := i.incarnation, region := i.region, port := i.port, joined := i.joined
    ahead := (i.fabricTime : Int) - s.timebase, roundTrip := i.roundTripNs }

/-- The port is held with the alarm of `code` (R382). -/
def State.misjoined (s : State) (p code : Nat) : State :=
  State.setPort (State.beginEpisode s code 9 p 0 0) p (Port.cleared (State.port s p) .held s.timebase)

theorem misjoined_spec (s : State) (p code : Nat) : let t := State.misjoined s p code
    t = { s with ports := t.ports, tel := t.tel } ∧ Claims.portDown s t p .held ∧ (State.port t p).failures = (State.port s p).failures ∧
      ((code, 9, p, 0) ∉ s.tel.episodes → Claims.alarmed s t code 9 p 0) := by
  obtain ⟨frame, down, failures⟩ := portDown_records (p := p) (onlyRecords_beginEpisode s code 9 p 0 0) .held
  exact ⟨frame, down, failures, (beginEpisode_current s code 9 p 0 0).2⟩

/-- The alarms of a port that is miscabled or does not fit have ended. -/
def State.fitted (s : State) (p : Nat) : State := State.endEpisode (State.endEpisode s 0x86 9 p 0) 0x85 9 p 0

theorem reports_fitted (s : State) (p : Nat) : Reports [] s (State.fitted s p) := (reports_endEpisode ..).trans (reports_endEpisode ..)

/-- The partner's identity is noted, and the port enters JOIN. -/
def State.identified (s : State) (p : Nat) (i : PartnerIdentity) : State :=
  State.setPort { State.fitted s p with
    fabric := { s.fabric with
      firstIdentity := some (s.fabric.firstIdentity.getD s.timebase)
      known := NMap.insert s.fabric.known i.module (max i.incarnation (NMap.get s.fabric.known 0 i.module)) } } p
    { State.port s p with state := .join, since := s.timebase, partner := some (State.partnerOf s i) }

/-- What IDENTITY_DONE does (R382, R447, R449, R483). -/
theorem exec_identityDone (state : (State.port s p).state = .identity) : exec (.identityDone p i) s =
    if i.dim ≠ s.fabric.dim ∨ (!i.versionOk) = true then .next (State.misjoined s p 0x86)
    else if i.module = s.moduleNumber ∨ 2 ^ s.fabric.dim ≤ i.module then .next (State.misjoined s p 0x85)
    else if State.serviced s = true then .next (State.setPort (State.fitted s p) p { State.port s p with partner := some (State.partnerOf s i) })
    else .next (if i.joined = true ∧ (!s.joined) = true ∧ (!s.debug) = true then State.join (State.identified s p i) (some i.fabricTime)
      else State.identified s p i) := if_neg fun h => h state

theorem joining_identified (s : State) (p : Nat) (i : PartnerIdentity) : Joining s (State.identified s p i) :=
  ⟨rfl, (reports_fitted s p).trans (reports_of_tel (t := State.identified s p i) rfl)⟩

theorem port_identified (s : State) (p : Nat) (i : PartnerIdentity) : State.port (State.identified s p i) p =
    { State.port s p with state := .join, since := s.timebase, partner := some (State.partnerOf s i) } := State.port_setPort_same ..

/-- R48, R382, R447, R449, R483: IDENTITY_DONE. -/
theorem identityDones (state : (State.port s p).state = .identity) :
    let x := State.port s p
    let q : Partner := { module := i.module, incarnation := i.incarnation, region := i.region, port := i.port, joined := i.joined
                         ahead := (i.fabricTime : Int) - s.timebase, roundTrip := i.roundTripNs }
    let fits := i.dim = s.fabric.dim ∧ i.versionOk = true
    let cabled := i.module ≠ s.moduleNumber ∧ i.module < 2 ^ s.fabric.dim
    (¬ fits → ∃ t, exec (.identityDone p i) s = .next t ∧ t = { s with ports := t.ports, tel := t.tel } ∧ Claims.portDown s t p .held ∧
      (State.port t p).failures = x.failures ∧ ((0x86, 9, p, 0) ∉ s.tel.episodes → Claims.alarmed s t 0x86 9 p 0)) ∧
    (fits → ¬ cabled → ∃ t, exec (.identityDone p i) s = .next t ∧ t = { s with ports := t.ports, tel := t.tel } ∧ Claims.portDown s t p .held ∧
      (State.port t p).failures = x.failures ∧ ((0x85, 9, p, 0) ∉ s.tel.episodes → Claims.alarmed s t 0x85 9 p 0)) ∧
    (fits → cabled → State.serviced s = true → ∃ t, exec (.identityDone p i) s = .next t ∧ Claims.portBecomes s t p { x with partner := some q } []) ∧
    (fits → cabled → State.serviced s = false → (i.joined = false ∨ s.joined = true ∨ s.debug = true) →
      ∃ t, exec (.identityDone p i) s = .next t ∧ State.port t p = { x with state := .join, since := s.timebase, partner := some q } ∧
        (∀ j, j ≠ p → State.port t j = State.port s j) ∧
        t = { s with
          ports := t.ports, tel := t.tel
          fabric := { s.fabric with
            firstIdentity := some (s.fabric.firstIdentity.getD s.timebase)
            known := NMap.insert s.fabric.known i.module (max i.incarnation (NMap.get s.fabric.known 0 i.module)) } }) ∧
    (fits → cabled → State.serviced s = false → i.joined = true → s.joined = false → s.debug = false →
      ∃ t, exec (.identityDone p i) s = .next t ∧ Claims.joins s t i.fabricTime true ∧ (State.port t p).state = .join ∧
        (State.port t p).partner = some q) := by
  dsimp only
  have run := exec_identityDone (i := i) state
  have matches_ : (i.dim = s.fabric.dim ∧ i.versionOk = true) → ¬ (i.dim ≠ s.fabric.dim ∨ (!i.versionOk) = true) := fun ⟨dim, version⟩ => by
    rw [version]; exact not_or.2 ⟨fun h => h dim, fun h => nomatch h⟩
  have placed : (i.module ≠ s.moduleNumber ∧ i.module < 2 ^ s.fabric.dim) → ¬ (i.module = s.moduleNumber ∨ 2 ^ s.fabric.dim ≤ i.module) :=
    fun ⟨other, range⟩ => not_or.2 ⟨other, Nat.not_le.2 range⟩
  have leaves : State.serviced s = false → ¬ State.serviced s = true := fun h => Bool.eq_false_iff.1 h
  refine ⟨fun mismatch => ⟨_, run.trans (if_pos ?_), misjoined_spec s p 0x86⟩,
    fun fits miscabled => ⟨_, run.trans ((if_neg (matches_ fits)).trans (if_pos ?_)), misjoined_spec s p 0x85⟩,
    fun fits cabled serviced => ⟨_, run.trans ((if_neg (matches_ fits)).trans ((if_neg (placed cabled)).trans (if_pos serviced))), ?_⟩,
    fun fits cabled free still => ?_, fun fits cabled free theirs own closed => ?_⟩
  · by_contra fits
    rw [not_or, not_ne_iff, Bool.not_eq_true'] at fits
    exact mismatch ⟨fits.1, Bool.not_eq_false _ ▸ fits.2⟩
  · by_contra cabled
    rw [not_or, Nat.not_le] at cabled
    exact miscabled cabled
  · exact ⟨[], ⟨State.port_setPort_same .., rfl⟩, fun q hq => State.port_setPort_ne _ hq _, by rw [List.append_nil]; rfl⟩
  · refine ⟨_, run.trans ((if_neg (matches_ fits)).trans ((if_neg (placed cabled)).trans ((if_neg (leaves free)).trans (congrArg _ (if_neg ?_))))),
      port_identified s p i, fun j hj => State.port_setPort_ne _ hj _, rfl⟩
    rintro ⟨theirs, own, closed⟩
    obtain h | h | h := still
    · rw [h] at theirs; exact nomatch theirs
    · rw [h] at own; exact nomatch own
    · rw [h] at closed; exact nomatch closed
  · have port := port_join_step (State.identified s p i) i.fabricTime p (by rw [port_identified]; exact fun h => nomatch h)
    rw [port_identified] at port
    refine ⟨_, run.trans ((if_neg (matches_ fits)).trans ((if_neg (placed cabled)).trans ((if_neg (leaves free)).trans (congrArg _ (if_pos ?_))))),
      joins_step (joining_identified s p i) i.fabricTime, by rw [port]; rfl, by rw [port]; rfl⟩
    rw [own, closed]
    exact ⟨theirs, rfl, rfl⟩

end

end

/-! ### SELF_JOIN_EXPIRY -/

/-- The partners of the ports. -/
def State.partners (s : State) : List Partner := (List.range portCount).filterMap (fun p => (State.port s p).partner)

theorem mem_partners {s : State} {q : Partner} : q ∈ State.partners s ↔ ∃ p, p < 40 ∧ (State.port s p).partner = some q := by
  unfold State.partners
  rw [List.mem_filterMap]
  exact exists_congr fun p => and_congr_left fun _ => List.mem_range

/-- R449: the lowest of the modules that have met joins of itself. -/
theorem selfJoins (s : State) (t0 : Stamp) (met : s.fabric.firstIdentity = some t0) (own : s.joined = false) (phase : s.phase = .up)
    (free : State.serviced s = false) (closed : s.debug = false) (late : t0 + 2000000000 ≤ s.timebase) (some_ : ∃ p q, p < 40 ∧ (State.port s p).partner = some q)
    (lowest : ∀ p q, p < 40 → (State.port s p).partner = some q → q.joined = false ∧ s.moduleNumber < q.module) :
    ∃ t, exec .selfJoinExpiry s = .next t ∧ Claims.joins s t s.timebase false ∧
      t = { s with joined := true, nv := { s.nv with incarnation := s.nv.incarnation + 1 }, time := t.time } := by
  have run : exec .selfJoinExpiry s = execSelfJoinExpiry s := rfl
  unfold execSelfJoinExpiry at run
  dsimp only at run
  rw [met] at run
  obtain ⟨joins, frame⟩ := joins_still s
  refine ⟨_, run.trans (if_neg ?_), joins, frame⟩
  have below : ∀ q ∈ State.partners s, q.joined = false ∧ s.moduleNumber < q.module := fun q mem => by
    obtain ⟨p, range, partner⟩ := mem_partners.1 mem
    exact lowest p q range partner
  obtain ⟨p, q, range, partner⟩ := some_
  have there : q ∈ State.partners s := mem_partners.2 ⟨p, range, partner⟩
  rintro (h | h | h | h | h | h | h | h)
  · rw [own] at h; exact nomatch h
  · exact h phase
  · rw [free] at h; exact nomatch h
  · rw [closed] at h; exact nomatch h
  · exact absurd late (Int.not_le.2 h)
  · rw [List.isEmpty_iff] at h
    change State.partners s = [] at h
    rw [h] at there
    exact nomatch there
  · obtain ⟨r, mem, joined⟩ := List.any_eq_true.1 h
    rw [(below r mem).1] at joined
    exact nomatch joined
  · obtain ⟨r, mem, lower⟩ := List.any_eq_true.1 h
    exact absurd (of_decide_eq_true lower) (Nat.not_le.2 (below r mem).2)

end Sys2Proof.Machine
end

section
/-!
SUPPORT. JOIN_STATE_TIMER: what the port says, and the link that becomes LIVE (R396, R446, R449).
-/

namespace Sys2Proof.Machine

/-! ### JOIN_STATE_TIMER -/

section
variable {s : State} {p : Nat} {q : Partner}

/-- The flit that says the module's state. -/
def State.stateFlit (s : State) (p : Nat) : SentFlit :=
  { seq := (State.port s p).txNext, vc := 0, cred := 0, payload := [], control := some (.moduleState s.joined s.timebase) }

/-- The port with a CONTROL flit in its replay buffer. -/
def Port.carrying (x : Port) (f : SentFlit) : Port := { x with txNext := (x.txNext + 1) % 4096, replay := x.replay ++ [f] }

/-- The module has said its state at port `p`. -/
def State.said (s : State) (p : Nat) : State := State.sendControl s p (.moduleState s.joined s.timebase)

theorem State.said_eq (room : (State.port s p).replay.length < 2048) :
    let z := Port.carrying (State.port s p) (State.stateFlit s p)
    State.said s p = State.emit (State.setPort (State.setPort s p z) p (Port.reported z)) (.link p (.flit (State.stateFlit s p) (Port.report z) z.silenced)) := by
  have has : Port.room (State.port s p) = true := decide_eq_true room
  refine (if_pos has).trans ?_
  unfold State.sendFlit State.speak
  dsimp only
  rw [State.port_setPort_same]
  rfl

/-- What has been said: one flit, which the replay buffer keeps. -/
theorem said_spec (room : (State.port s p).replay.length < 2048) :
    let z := Port.carrying (State.port s p) (State.stateFlit s p)
    State.port (State.said s p) p = Port.reported z ∧ (∀ j, j ≠ p → State.port (State.said s p) j = State.port s j) ∧
      State.said s p = { s with
        ports := (State.said s p).ports, out := s.out ++ [.link p (.flit (State.stateFlit s p) (Port.report z) (State.port s p).silenced)] } := by
  have eq := State.said_eq room
  have mute : (Port.carrying (State.port s p) (State.stateFlit s p)).silenced = (State.port s p).silenced := rfl
  dsimp only at eq ⊢
  rw [eq, ← mute]
  generalize Port.carrying (State.port s p) (State.stateFlit s p) = z
  have here : State.port (State.setPort (State.setPort s p z) p (Port.reported z)) p = Port.reported z := State.port_setPort_same ..
  have others : ∀ j, j ≠ p → State.port (State.setPort (State.setPort s p z) p (Port.reported z)) j = State.port s j := fun j hj =>
    (State.port_setPort_ne _ hj _).trans (State.port_setPort_ne _ hj _)
  have frame : State.setPort (State.setPort s p z) p (Port.reported z) = { s with ports := (State.setPort (State.setPort s p z) p (Port.reported z)).ports } := rfl
  generalize State.setPort (State.setPort s p z) p (Port.reported z) = u at here others frame
  exact ⟨here, others, by rw [frame]; rfl⟩

/-- The link is LIVE, with every credit count at 0 (R446). -/
def Port.alive (x : Port) (now : Nat) : Port :=
  { Port.enter x .live now with failures := 0, lastRx := now, sent := [], total := [], returned := [], told := [], due := [] }

/-- The port becomes LIVE, and the module's return is announced to its partner (R396). -/
def State.goesLive (s : State) (p : Nat) : State :=
  State.routeWaiting (State.toNeighbour (State.modPort s p (fun x => Port.alive x s.timebase)) p (.peerUp s.moduleNumber s.nv.incarnation))

/-- A module that is not JOINED joins with a partner that is (R449). -/
def State.joinsWith (s : State) (q : Partner) : State :=
  if q.joined = true ∧ (!s.joined) = true ∧ (!State.serviced s) = true ∧ (!s.debug) = true then State.join s (some (q.ahead + s.timebase).toNat) else s

theorem exec_joinStateTimer (state : (State.port s p).state = .join) (partner : (State.port s p).partner = some q) : exec (.joinStateTimer p) s =
    if (State.joinsWith (State.said s p) q).joined = true ∧ q.joined = true then .next (State.goesLive (State.joinsWith (State.said s p) q) p)
    else .next (State.joinsWith (State.said s p) q) := by
  have run : exec (.joinStateTimer p) s = execJoinStateTimer p s := rfl
  unfold execJoinStateTimer at run
  dsimp only at run
  rw [if_neg fun h => h state, partner] at run
  exact run

/-! ### The announcement -/

/-- The packet that announces the module to its neighbour. -/
def State.announcement (s : State) (q : Partner) : TransitPacket :=
  { source := s.moduleNumber, destination := q.module, level1 := false, kind := .peerUp s.moduleNumber s.nv.incarnation }

/-- The port that has sent its one packet, on a shared credit. -/
def Port.announced (x : Port) (w : WaitingPacket) : Port := Port.sending (Port.granted (Port.holding x w) 0) 0 0 w.packet

theorem State.routeWaiting_none (s : State) (none_ : s.fabric.unrouted = []) : State.routeWaiting s = s := by
  unfold State.routeWaiting
  rw [none_, List.foldl_nil, ← none_]

/-- A port that is just LIVE has every credit (R446). -/
theorem alive_credit (x : Port) (now : Nat) : Port.credit (Port.alive x now) 0 0 = true := by
  have none_ : (fun v => Port.inFlight (Port.alive x now) v 0) = fun _ => 0 := funext fun v => by
    show serialDiff 12 0 (0 % 4096) = 0
    decide
  unfold Port.credit
  rw [if_pos rfl, none_]
  decide

/-- A packet for the neighbour at an idle port that is just LIVE. -/
theorem State.toPort_alive {x : Port} {w : WaitingPacket} {now : Nat} (port : State.port s p = Port.alive x now) (idle : Claims.idlePort x)
    (room : x.replay.length < 2048) (vc : PacketKind.vc w.packet.kind = 0) (stamp : ∀ u, State.stamped u w.packet.kind = w.packet.kind)
    (classes : w.classes = [0, 1]) (arrived : w.arrived = none) (hop : w.hop = .direct) :
    ∃ u, State.port u p = Port.reported (Port.announced (Port.alive x now) w) ∧ (∀ j, j ≠ p → State.port u j = State.port s j) ∧ u = { s with ports := u.ports } ∧
      State.toPort s p w = State.emit u (.link p (.flit { seq := x.txNext, vc := 0, cred := 0, payload := [w.packet], control := none }
        { ack := x.rxLast, pair := 0, total := 0 } x.silenced)) := by
  have idle' : Claims.idlePort (State.port s p) := by rw [port]; exact idle
  obtain ⟨r, holds, others, frame, eq⟩ := State.toPort_idle (w := w) idle'
  have can : Port.canLeave (Port.alive x now) w = some 0 := by
    unfold Port.canLeave
    rw [classes, vc, List.find?_cons_of_pos (alive_credit x now)]
  rw [port] at holds
  rw [eq]
  unfold State.drainFor
  rw [State.grantPort_single holds idle.2 rfl room can, State.leave_eq arrived, hop, vc]
  have kept : ∀ u, State.sentPacket u w.packet = w.packet := fun u => by unfold State.sentPacket; rw [stamp]
  rw [kept]
  show ∃ u, _ ∧ _ ∧ _ ∧ State.sendFlit _ _ _ _ _ _ = _
  rw [State.sendFlit_packet, State.port_setPort_same]
  refine ⟨_, State.port_setPort_same .., fun j hj => ?_, ?_, rfl⟩
  · rw [State.port_setPort_ne _ hj, State.port_setPort_ne _ hj, State.port_setPort_ne _ hj, others j hj]
  · rw [frame]; rfl

/-- R396, R446, R449: an idle port becomes LIVE. -/
theorem goesLive_spec {x : Port} (port : State.port s p = x) (partner : x.partner = some q) (idle : Claims.idlePort x) (routed : s.fabric.unrouted = [])
    (room : x.replay.length < 2048) :
    State.port (State.goesLive s p) p = Port.reported (Port.announced (Port.alive x s.timebase)
      { packet := State.announcement s q, classes := [0, 1], hop := .direct, arrived := none }) ∧
    (∀ j, j ≠ p → State.port (State.goesLive s p) j = State.port s j) ∧
    State.goesLive s p = { s with
      ports := (State.goesLive s p).ports
      out := s.out ++ [.link p (.flit { seq := x.txNext, vc := 0, cred := 0, payload := [State.announcement s q], control := none }
        { ack := x.rxLast, pair := 0, total := 0 } x.silenced)] } := by
  have lives : State.port (State.modPort s p (fun x => Port.alive x s.timebase)) p = Port.alive x s.timebase := by
    rw [State.modPort, State.port_setPort_same, port]
  obtain ⟨u, here, others, frame, eq⟩ := State.toPort_alive (w := { packet := State.announcement s q, classes := [0, 1], hop := .direct, arrived := none })
    lives idle room rfl (fun _ => rfl) rfl rfl rfl
  have sends : State.toNeighbour (State.modPort s p (fun x => Port.alive x s.timebase)) p (.peerUp s.moduleNumber s.nv.incarnation) =
      State.toPort (State.modPort s p (fun x => Port.alive x s.timebase)) p
        { packet := State.announcement s q, classes := [0, 1], hop := .direct, arrived := none } := by
    unfold State.toNeighbour
    rw [lives, show (Port.alive x s.timebase).partner = some q from partner]
    rfl
  have routed' : (State.emit u (.link p (.flit { seq := x.txNext, vc := 0, cred := 0, payload := [State.announcement s q], control := none }
      { ack := x.rxLast, pair := 0, total := 0 } x.silenced))).fabric.unrouted = [] := by rw [frame]; exact routed
  have goes := State.routeWaiting_none _ routed'
  rw [← eq, ← sends] at goes
  change State.goesLive s p = _ at goes
  rw [sends, eq] at goes
  rw [goes]
  refine ⟨here, fun j hj => (others j hj).trans (State.port_setPort_ne s hj _), ?_⟩
  rw [frame]
  rfl

end

section
variable {s : State} {p : Nat} {q : Partner}

/-- The port that has become LIVE, having said its module's state and announced the module. -/
def Port.arrived (x : Port) (f : SentFlit) (now : Nat) (w : WaitingPacket) : Port :=
  Port.reported (Port.announced (Port.alive (Port.reported (Port.carrying x f)) now) w)

theorem arrived_eq {x : Port} (idle : Claims.idlePort x) (f : SentFlit) (now : Nat) (w : WaitingPacket) :
    let y := Port.arrived x f now w
    y = { x with
      state := .live, since := now, failures := 0, lastRx := now, txNext := (x.txNext + 2) % 4096
      replay := x.replay ++ [f, { seq := (x.txNext + 1) % 4096, vc := 0, cred := 0, payload := [w.packet], control := none }]
      sent := y.sent, total := [], returned := [], told := [], due := [], grants := y.grants } := by
  obtain ⟨queued, controls⟩ := idle
  have next : ((x.txNext + 1) % 4096 + 1) % 4096 = (x.txNext + 2) % 4096 := by omega
  dsimp only
  rw [← next, ← List.singleton_append, ← List.append_assoc, queued, controls]
  rfl

/-- The announcement is the one flit in flight. -/
theorem arrived_sent (x : Port) (f : SentFlit) (now : Nat) (w : WaitingPacket) :
    NMap.get (Port.arrived x f now w).sent 0 0 = 1 ∧ ∀ j, j ≠ 0 → NMap.get (Port.arrived x f now w).sent 0 j = 0 := by
  have sent : ∀ j, NMap.get (Port.arrived x f now w).sent 0 j = if pairKey 0 0 = j then 1 else 0 := fun j =>
    Port.sent_sending (Port.granted (Port.holding (Port.alive (Port.reported (Port.carrying x f)) now) w) 0) 0 0 w.packet j
  exact ⟨sent 0, fun j hj => (sent j).trans (if_neg (Ne.symm hj))⟩

theorem State.joinsWith_joined (own : s.joined = true) (q : Partner) : State.joinsWith s q = s :=
  if_neg fun ⟨_, h, _⟩ => by rw [own] at h; exact nomatch h

/-- R396, R446, R449: both modules are JOINED. -/
theorem joinStateTimer_live (state : (State.port s p).state = .join) (partner : (State.port s p).partner = some q) (idle : Claims.idlePort (State.port s p))
    (routed : s.fabric.unrouted = []) (room : (State.port s p).replay.length < 2047) (own : s.joined = true) (theirs : q.joined = true) :
    let x := State.port s p
    let f : SentFlit := { seq := x.txNext, vc := 0, cred := 0, payload := [], control := some (.moduleState s.joined s.timebase) }
    let up : SentFlit := { seq := (x.txNext + 1) % 4096, vc := 0, cred := 0, payload := [{ source := s.moduleNumber, destination := q.module, level1 := false, kind := .peerUp s.moduleNumber s.nv.incarnation }], control := none }
    ∃ t y z r, exec (.joinStateTimer p) s = .next t ∧ Claims.says x z r ∧ State.port t p = y ∧
      (∀ j, j ≠ p → State.port t j = State.port s j) ∧ t = { s with
        ports := t.ports, tel := t.tel
        out := s.out ++ [.link p (.flit f r x.silenced), .link p (.flit up { ack := x.rxLast, pair := 0, total := 0 } x.silenced)] } ∧
      y = { x with state := .live, since := s.timebase, failures := 0, lastRx := s.timebase, txNext := (x.txNext + 2) % 4096
                   replay := x.replay ++ [f, up], sent := y.sent, total := [], returned := [], told := [], due := []
                   grants := y.grants } ∧
      NMap.get y.sent 0 0 = 1 ∧ ∀ j, j ≠ 0 → NMap.get y.sent 0 j = 0 := by
  obtain ⟨here, others, frame⟩ := said_spec (s := s) (p := p) (by omega)
  have run := exec_joinStateTimer state partner
  have joined : (State.said s p).joined = true := by rw [frame]; exact own
  rw [State.joinsWith_joined joined, if_pos ⟨joined, theirs⟩] at run
  obtain ⟨lives, still, sends⟩ := goesLive_spec (q := q) here partner idle (by rw [frame]; exact routed) (by
    show ((State.port s p).replay ++ [State.stateFlit s p]).length < 2048
    rw [List.length_append, List.length_singleton]
    omega)
  have now : (State.said s p).timebase = s.timebase := by rw [frame]
  have packet : State.announcement (State.said s p) q = State.announcement s q := by rw [frame]; rfl
  rw [now, packet] at lives
  rw [packet] at sends
  have arrived := arrived_eq idle (State.stateFlit s p) s.timebase { packet := State.announcement s q, classes := [0, 1], hop := .direct, arrived := none }
  have sent := arrived_sent (State.port s p) (State.stateFlit s p) s.timebase { packet := State.announcement s q, classes := [0, 1], hop := .direct, arrived := none }
  refine ⟨_, _, _, Port.report (State.port s p), run, claims_says _, rfl, fun j hj => (still j hj).trans (others j hj), ?_, ?_, ?_, ?_⟩
  · rw [sends, frame, List.append_assoc]
    rfl
  · rw [lives]
    exact arrived
  · rw [lives]
    exact sent.1
  · rw [lives]
    exact sent.2

/-- R449: the port says its module's state, and nothing else happens. -/
theorem joinStateTimer_says (state : (State.port s p).state = .join) (partner : (State.port s p).partner = some q)
    (room : (State.port s p).replay.length < 2047) (still : q.joined = false ∨ (s.joined = false ∧ (State.serviced s = true ∨ s.debug = true))) :
    ∃ t, exec (.joinStateTimer p) s = .next t ∧
      Claims.portBecomes s t p (Port.carrying (State.port s p) (State.stateFlit s p)) [.flit (State.stateFlit s p)] := by
  obtain ⟨here, others, frame⟩ := said_spec (s := s) (p := p) (by omega)
  have run := exec_joinStateTimer state partner
  have keeps : (State.said s p).joined = s.joined ∧ State.serviced (State.said s p) = State.serviced s ∧ (State.said s p).debug = s.debug := by
    rw [frame]; exact ⟨rfl, rfl, rfl⟩
  obtain ⟨own, serviced, debug⟩ := keeps
  have alone : State.joinsWith (State.said s p) q = State.said s p := by
    refine if_neg ?_
    rw [own, serviced, debug]
    rintro ⟨theirs, unjoined, free, closed⟩
    obtain h | ⟨-, h | h⟩ := still
    · rw [h] at theirs; exact nomatch theirs
    · rw [h] at free; exact nomatch free
    · rw [h] at closed; exact nomatch closed
  rw [alone, if_neg] at run
  · refine ⟨_, run, _, ⟨_, _, _, claims_says _, ⟨here, rfl⟩, rfl⟩, others, frame.trans ?_⟩
    rw [frame]
    rfl
  · rw [own]
    rintro ⟨joined, theirs⟩
    obtain h | ⟨h, -⟩ := still
    · rw [h] at theirs; exact nomatch theirs
    · rw [h] at joined; exact nomatch joined

theorem joining_said (room : (State.port s p).replay.length < 2048) : Joining s (State.said s p) := by
  obtain ⟨-, -, frame⟩ := said_spec room
  exact ⟨by rw [frame], reports_of_tel (by rw [frame])⟩

theorem join_unrouted (u : State) (now : Nat) : (State.join u (some now)).fabric.unrouted = u.fabric.unrouted ∧ (State.join u (some now)).joined = true := by
  have only := onlyRecords_stepTime (State.incarnated u) now
  rw [State.join_step]
  refine ⟨?_, ?_⟩
  · show (State.stepTime (State.incarnated u) now).fabric.unrouted = _
    rw [only]; rfl
  · show (State.stepTime (State.incarnated u) now).joined = _
    rw [only]; rfl

/-- R48, R449: the partner is JOINED, and this module joins with it. -/
theorem joinStateTimer_joins (state : (State.port s p).state = .join) (partner : (State.port s p).partner = some q) (idle : Claims.idlePort (State.port s p))
    (routed : s.fabric.unrouted = []) (room : (State.port s p).replay.length < 2047) (theirs : q.joined = true) (own : s.joined = false)
    (free : State.serviced s = false) (closed : s.debug = false) :
    ∃ t, exec (.joinStateTimer p) s = .next t ∧ Claims.joins s t (q.ahead + s.timebase).toNat true ∧ (State.port t p).state = .live ∧
      (State.port t p).failures = 0 := by
  obtain ⟨here, -, frame⟩ := said_spec (s := s) (p := p) (by omega)
  have joining := joining_said (s := s) (p := p) (by omega)
  have run := exec_joinStateTimer state partner
  have joins : State.joinsWith (State.said s p) q = State.join (State.said s p) (some (q.ahead + s.timebase).toNat) := by
    have now : (State.said s p).timebase = s.timebase := by rw [frame]
    rw [← now]
    refine if_pos ⟨theirs, ?_⟩
    rw [frame]
    show (!s.joined) = true ∧ (!State.serviced s) = true ∧ (!s.debug) = true
    rw [own, free, closed]
    exact ⟨rfl, rfl, rfl⟩
  rw [joins] at run
  have stepped := joins_step joining (q.ahead + s.timebase).toNat
  have known : (State.port (State.said s p) p).state = .join := by rw [here]; exact state
  have port := port_join_step (State.said s p) (q.ahead + s.timebase).toNat p (by rw [known]; exact fun h => nomatch h)
  obtain ⟨unrouted, joined⟩ := join_unrouted (State.said s p) (q.ahead + s.timebase).toNat
  rw [here] at port
  rw [show (State.said s p).fabric = s.fabric by rw [frame], routed] at unrouted
  generalize State.join (State.said s p) (some (q.ahead + s.timebase).toNat) = v at run stepped port unrouted joined
  rw [if_pos ⟨joined, theirs⟩] at run
  obtain ⟨lives, -, sends⟩ := goesLive_spec (q := q) port partner idle unrouted (by
    show ((State.port s p).replay ++ [State.stateFlit s p]).length < 2048
    rw [List.length_append, List.length_singleton]
    omega)
  exact ⟨_, run, joins_of_frame stepped (by rw [sends]), by rw [lives]; rfl, by rw [lives]; rfl⟩

end

/-- R48, R382, R396, R447, R449: IDENTITY, JOIN and LIVE. -/
theorem portsJoin : Claims.portsJoin :=
  ⟨fun _ _ _ state => identityDones state, selfJoins, fun _ _ _ state partner idle routed room =>
    ⟨joinStateTimer_live state partner idle routed room, joinStateTimer_says state partner room, joinStateTimer_joins state partner idle routed room⟩⟩

end Sys2Proof.Machine
end

section
open Sys2Proof Sys2Proof.Machine

/-- Settles O57: training from what a step of bring-up and a failed attempt do, joining from what a step of the timebase and a first packet do. -/
theorem bringUp : Obligations.BringUp := by
  unfold Obligations.BringUp
  exact ⟨portsTrain, portsJoin⟩

end

section
/-!
SUPPORT. The control window, the configuration space and PERST (R462, R464, R465).
-/

namespace Sys2Proof.Machine

section
variable {s : State}

/-- R462: an access that is neither of the two forms is an Unsupported Request. -/
theorem exec_controlWindowBadAccess {offset len : Nat} (serves : State.windowServes s = true) (not4 : ¬ (len = 4 ∧ offset % 4 = 0))
    (not8 : ¬ (len = 8 ∧ offset % 8 = 0)) (isWrite : Bool) :
    exec (.controlWindowBadAccess offset len isWrite) s = .next { s with out := s.out ++ [.unsupported] } := by
  refine if_neg ?_
  rw [serves, Bool.or_eq_true, Bool.and_eq_true, Bool.and_eq_true, decide_eq_true_eq, decide_eq_true_eq, decide_eq_true_eq, decide_eq_true_eq]
  rintro ((h | h) | h)
  · exact not4 h
  · exact not8 h
  · exact nomatch h

/-- Doorbells are cleared one by one. -/
theorem doorbellsCleared (s : State) (l : List Nat) : let t := l.foldl (fun s mb => State.modMailbox s mb (fun m => { m with doorbell := 0 })) s
    t = { s with host := { s.host with mailboxes := t.host.mailboxes } } ∧
      ∀ n, State.mailbox t n = if n ∈ l then { State.mailbox s n with doorbell := 0 } else State.mailbox s n := by
  induction l generalizing s with
  | nil => exact ⟨rfl, fun n => (if_neg List.not_mem_nil).symm⟩
  | cons a l ih =>
    obtain ⟨frame, boxes⟩ := ih (State.modMailbox s a (fun m => { m with doorbell := 0 }))
    rw [List.foldl_cons]
    refine ⟨frame, fun n => ?_⟩
    rw [boxes n, State.mailbox_modMailbox]
    by_cases here : a = n
    · subst here
      rw [if_pos rfl, if_pos List.mem_cons_self]
      split <;> rfl
    · rw [if_neg here]
      by_cases later : n ∈ l
      · rw [if_pos later, if_pos (List.mem_cons_of_mem _ later)]
      · rw [if_neg later, if_neg fun h => (List.mem_cons.1 h).elim (fun h => here h.symm) later]

/-- R464: what PERST resets. -/
theorem pcieResets (s : State) : ∃ t, exec .pcieReset s = .next t ∧
    t = { s with host := { s.host with mailboxes := t.host.mailboxes, mirrorAddr := 0, busMaster := false, winLog2 := 34 } } ∧
    ∀ n, State.mailbox t n = if n < 16 then { State.mailbox s n with doorbell := 0 } else State.mailbox s n := by
  obtain ⟨frame, boxes⟩ := doorbellsCleared s (List.range 16)
  have run : exec .pcieReset s = .next _ := rfl
  dsimp only at frame
  generalize (List.range 16).foldl (fun s mb => State.modMailbox s mb (fun m => { m with doorbell := 0 })) s = u at frame boxes run
  refine ⟨_, run, by rw [frame], fun n => (boxes n).trans ?_⟩
  simp only [List.mem_range]

theorem hostReady_not_boot (ready : State.hostReady s = true) : s.phase ≠ .boot := fun boot => by
  rw [State.hostReady, boot] at ready; exact nomatch ready

/-- A configuration request of a module that is ready is taken (R464). -/
theorem exec_configurationRequest (ready : State.hostReady s = true) (r : ConfigRequest) : exec (.configurationRequest r) s =
    match r with
    | .read o => .next (State.emit s (.config o (some (State.configWord s o))))
    | .busMasterEnable on => .next { s with host := { s.host with busMaster := on } }
    | .resizeMemoryWindow n =>
      if 34 ≤ n ∧ n ≤ 41 then .next { s with host := { s.host with winLog2 := n, aperture := s.host.aperture / 2 ^ n * 2 ^ n } } else .next s
    | .other o => .next (State.emit s (.config o none)) := by
  refine (if_neg (hostReady_not_boot ready)).trans ((if_neg ?_).trans ?_)
  · rw [ready]; exact fun h => nomatch h
  · cases r <;> rfl

/-- The words of the configuration space that Table 16.1 fixes, where PCI puts them (assumption 106). -/
theorem configWord_fields (s : State) (o : Nat) : let w := State.configWord s o
    (o / 4 = 0 → w.toNat / 2 ^ 16 = 0x0A39) ∧ (o / 4 = 1 → w.toNat.testBit 2 = s.host.busMaster) ∧ (o / 4 = 2 → w.toNat / 2 ^ 8 = 0x120000) ∧
      (o / 4 = 11 → w.toNat / 2 ^ 16 = 0x1536) ∧ (o / 4 = 15 → w.toNat / 2 ^ 8 % 2 ^ 8 = 0) := by
  have free := (Config.configWord (o / 4 * 4)).isLt
  unfold State.configWord
  generalize (Config.configWord (o / 4 * 4)).toNat = n at free
  dsimp only
  rw [BitVec.toNat_ofNat]
  refine ⟨fun h => ?_, fun h => ?_, fun h => ?_, fun h => ?_, fun h => ?_⟩
  · rw [h, if_pos rfl]; omega
  · rw [h, if_neg (by decide), if_pos rfl, Nat.testBit_eq_decide_div_mod_eq]
    cases s.host.busMaster
    · refine decide_eq_false ?_
      rw [if_neg Bool.false_ne_true]; omega
    · refine decide_eq_true ?_
      rw [if_pos rfl]; omega
  · rw [h, if_neg (by decide), if_neg (by decide), if_pos rfl]; omega
  · rw [h, if_neg (by decide), if_neg (by decide), if_neg (by decide), if_pos rfl]; omega
  · rw [h, if_neg (by decide), if_neg (by decide), if_neg (by decide), if_neg (by decide), if_pos rfl]; omega

/-- R464, R465: configuration requests of a module that is ready; the aperture stays a multiple of the window. -/
theorem configurationRequests (ready : State.hostReady s = true) (on : Bool) (n o : Nat) :
    exec (.configurationRequest (.busMasterEnable on)) s = .next { s with host := { s.host with busMaster := on } } ∧
    exec (.configurationRequest (.other o)) s = .next { s with out := s.out ++ [.config o none] } ∧
    (∃ w : BitVec 32, exec (.configurationRequest (.read o)) s = .next { s with out := s.out ++ [.config o (some w)] } ∧
      (o / 4 = 0 → w.toNat / 2 ^ 16 = 0x0A39) ∧ (o / 4 = 1 → w.toNat.testBit 2 = s.host.busMaster) ∧ (o / 4 = 2 → w.toNat / 2 ^ 8 = 0x120000) ∧
      (o / 4 = 11 → w.toNat / 2 ^ 16 = 0x1536) ∧ (o / 4 = 15 → w.toNat / 2 ^ 8 % 2 ^ 8 = 0)) ∧
    ∃ t, exec (.configurationRequest (.resizeMemoryWindow n)) s = .next t ∧ t = { s with host := { s.host with winLog2 := t.host.winLog2, aperture := t.host.aperture } } ∧
      (if 34 ≤ n ∧ n ≤ 41 then t.host.winLog2 = n ∧ t.host.aperture % 2 ^ n = 0 ∧ t.host.aperture ≤ s.host.aperture ∧ s.host.aperture < t.host.aperture + 2 ^ n
      else t = s) := by
  refine ⟨exec_configurationRequest ready _, exec_configurationRequest ready _, ⟨_, exec_configurationRequest ready _, configWord_fields s o⟩, ?_⟩
  have run := exec_configurationRequest ready (.resizeMemoryWindow n)
  dsimp only at run
  by_cases range : 34 ≤ n ∧ n ≤ 41
  · rw [if_pos range] at run
    have whole := Nat.div_add_mod' s.host.aperture (2 ^ n)
    have rest := Nat.mod_lt s.host.aperture (Nat.two_pow_pos n)
    refine ⟨_, run, rfl, ?_⟩
    rw [if_pos range]
    exact ⟨rfl, Nat.mul_mod_left .., Nat.div_mul_le_self .., by dsimp only; omega⟩
  · rw [if_neg range] at run
    exact ⟨s, run, rfl, by rw [if_neg range]⟩

end

end Sys2Proof.Machine
end

section
/-!
SUPPORT. The status word (R467, R468 and Tables 16.2, 16.3).
-/

namespace Sys2Proof.Machine

theorem maskOf_lt {l : List Nat} {n : Nat} (h : ∀ i ∈ l, i < n) : maskOf l < 2 ^ n := by
  refine Nat.lt_pow_two_of_testBit _ fun i hi => ?_
  rw [maskOf_testBit]
  exact decide_eq_false fun mem => Nat.not_lt.2 hi (h i mem)

section
variable (s : State)

theorem mailboxBits_testBit (p : Mailbox → Bool) {n : Nat} (hn : n < 16) : (State.mailboxBits s p).testBit n = p (State.mailbox s n) := by
  unfold State.mailboxBits
  rw [maskOf_testBit]
  simp [hn]

theorem mailboxBits_lt (p : Mailbox → Bool) : State.mailboxBits s p < 2 ^ 16 :=
  maskOf_lt fun _ hi => List.mem_range.1 (List.mem_of_mem_filter hi)

/-- The groups of the outstanding alarms (R526). -/
theorem summary_testBit (t : Telemetry) (i : Nat) :
    (Telemetry.summary t).testBit i = (t.alarms.any (fun a => decide (7 - a.code / 32 = i)) || t.reserved.any (fun e => decide (7 - e.2.code / 32 = i))) := by
  unfold Telemetry.summary
  rw [maskOf_testBit, Bool.eq_iff_iff, decide_eq_true_eq, mem_dedupe]
  simp

theorem summary_lt (t : Telemetry) : Telemetry.summary t < 2 ^ 8 := by
  refine maskOf_lt fun i hi => ?_
  rw [mem_dedupe] at hi
  obtain ⟨c, -, rfl⟩ := List.mem_map.1 hi
  omega

theorem byteOf_bits : ∀ b7 b6 b5 b4 b3 b2 b1 b0 : Bool,
    let v := b2n b7 * 2 ^ 7 + b2n b6 * 2 ^ 6 + b2n b5 * 2 ^ 5 + b2n b4 * 2 ^ 4 + b2n b3 * 2 ^ 3 + b2n b2 * 2 ^ 2 + b2n b1 * 2 + b2n b0
    v < 2 ^ 8 ∧ v.testBit 7 = b7 ∧ v.testBit 6 = b6 ∧ v.testBit 5 = b5 ∧ v.testBit 4 = b4 ∧ v.testBit 3 = b3 ∧ v.testBit 2 = b2 ∧ v.testBit 1 = b1 ∧
      v.testBit 0 = b0 := by decide

theorem presenceByte_lt : State.presenceByte s < 2 ^ 8 := (byteOf_bits ..).1

theorem code_lt (m : Mode) : Mode.code m < 2 ^ 8 := by cases m <;> decide

/-- The fields of the status word, from the highest (Table 16.2). -/
def State.statusFields (hb : Nat) : Nat :=
  2 ^ 16 * (2 ^ 16 * (2 ^ 8 * (2 ^ 8 * (2 ^ 8 * (hb % 256) + Mode.code (State.mode s)) + Telemetry.summary s.tel) + State.presenceByte s) +
    State.mailboxBits s (fun m => m.done)) + State.mailboxBits s (fun m => m.busy)

theorem statusWord_toNat (hb : Nat) : (State.statusWord s hb).toNat = State.statusFields s hb := by
  have mode := code_lt (State.mode s)
  have alarms := summary_lt s.tel
  have presence := presenceByte_lt s
  have done := mailboxBits_lt s (fun m => m.done)
  have busy := mailboxBits_lt s (fun m => m.busy)
  unfold State.statusWord State.statusFields
  rw [BitVec.toNat_ofNat]
  omega

end

/-- Bit `k + i` of a word whose low `k` bits are `b`, and bit `i` of those. -/
theorem testBit_high {b k : Nat} (hb : b < 2 ^ k) (a i : Nat) : (2 ^ k * a + b).testBit (k + i) = a.testBit i := by
  rw [Nat.testBit_two_pow_mul_add a hb, if_neg (by omega), Nat.add_sub_cancel_left]

theorem testBit_low {b k : Nat} (hb : b < 2 ^ k) (a : Nat) {i : Nat} (hi : i < k) : (2 ^ k * a + b).testBit i = b.testBit i := by
  rw [Nat.testBit_two_pow_mul_add a hb, if_pos hi]

section
variable (s : State) (hb : Nat)

theorem statusFields_high : State.statusFields s hb / 2 ^ 56 = hb % 256 ∧ State.statusFields s hb / 2 ^ 48 % 256 = Mode.code (State.mode s) := by
  have mode := code_lt (State.mode s)
  have alarms := summary_lt s.tel
  have presence := presenceByte_lt s
  have done := mailboxBits_lt s (fun m => m.done)
  have busy := mailboxBits_lt s (fun m => m.busy)
  unfold State.statusFields
  omega

theorem statusFields_busy {n : Nat} (hn : n < 16) : (State.statusFields s hb).testBit n = (State.mailbox s n).busy := by
  unfold State.statusFields
  rw [testBit_low (mailboxBits_lt ..) _ hn, mailboxBits_testBit s _ hn]

theorem statusFields_done {n : Nat} (hn : n < 16) : (State.statusFields s hb).testBit (16 + n) = (State.mailbox s n).done := by
  unfold State.statusFields
  rw [testBit_high (mailboxBits_lt ..), testBit_low (mailboxBits_lt ..) _ hn, mailboxBits_testBit s _ hn]

theorem statusFields_presence {i : Nat} (hi : i < 8) : (State.statusFields s hb).testBit (16 + (16 + i)) = (State.presenceByte s).testBit i := by
  unfold State.statusFields
  rw [testBit_high (mailboxBits_lt ..), testBit_high (mailboxBits_lt ..), testBit_low (presenceByte_lt s) _ hi]

theorem statusFields_summary {i : Nat} (hi : i < 8) : (State.statusFields s hb).testBit (16 + (16 + (8 + i))) = (Telemetry.summary s.tel).testBit i := by
  unfold State.statusFields
  rw [testBit_high (mailboxBits_lt ..), testBit_high (mailboxBits_lt ..), testBit_high (presenceByte_lt s), testBit_low (summary_lt _) _ hi]

/-- Presence by the jumper holds from the tick after it is set (R59, R480). -/
theorem presence_eq : State.presence_ s = ((s.presence.jumper && decide (s.presence.jmpAt ≠ some s.timebase)) ||
    (s.presence.windowOpen && decide (s.presence.winStart ≤ s.timebase) && decide (s.timebase < s.presence.winEnd))) := by
  unfold State.presence_ State.jumperLevel
  rw [Bool.decide_and, ← Bool.and_assoc]
  congr 1
  by_cases now : s.presence.jmpAt = some s.timebase
  · rw [if_pos now, decide_eq_false (not_not.2 now)]
    cases s.presence.jumper <;> rfl
  · rw [if_neg now, decide_eq_true now]
    cases s.presence.jumper <;> rfl

/-- R468 and Tables 16.2, 16.3: what the status word says, bit by bit. -/
theorem statusFields_say : let w := State.statusFields s hb
    w / 2 ^ 56 = hb % 256 ∧ w / 2 ^ 48 % 256 = Mode.code (State.mode s) ∧
       (∀ n, n < 16 → w.testBit (16 + n) = (State.mailbox s n).done ∧ w.testBit n = (State.mailbox s n).busy) ∧
       (∀ g, g < 7 → w.testBit (47 - g) =
         (s.tel.alarms.any (fun a => decide (a.code / 32 = g)) || s.tel.reserved.any (fun e => decide (e.2.code / 32 = g)))) ∧
       w.testBit 40 = (s.tel.alarms.any (fun a => decide (7 ≤ a.code / 32)) || s.tel.reserved.any (fun e => decide (7 ≤ e.2.code / 32))) ∧
       w.testBit 39 = s.presence.windowOpen ∧ w.testBit 38 = Claims.levelRead s.presence.jumper s.presence.jmpAt s ∧
       w.testBit 37 = Claims.levelRead s.nv.sealClosed s.presence.sealAt s ∧
       w.testBit 36 = decide (s.nv.rearmBlown < s.nv.serviceBlown) ∧ w.testBit 35 = s.debug ∧ w.testBit 34 = s.bench.any (fun e => e.2.running) ∧
       w.testBit 33 = s.nv.staged ∧
       w.testBit 32 = ((s.presence.jumper && decide (s.presence.jmpAt ≠ some s.timebase)) || (s.presence.windowOpen && decide (s.presence.winStart ≤ s.timebase) && decide (s.timebase < s.presence.winEnd))) := by
  obtain ⟨beats, mode⟩ := statusFields_high s hb
  obtain ⟨-, open_, jumper, loop, serviced, debug, running, staged, present⟩ := byteOf_bits s.presence.windowOpen (State.jumperLevel s) (State.sealLevel s)
    (State.serviced s) s.debug (s.bench.any (fun e => e.2.running)) s.nv.staged (State.presence_ s)
  refine ⟨beats, mode, fun n hn => ⟨statusFields_done s hb hn, statusFields_busy s hb hn⟩, fun g hg => ?_, ?_, ?_, ?_, ?_, ?_, ?_, ?_, ?_, ?_⟩
  · have group : ∀ c : Nat, decide (7 - c / 32 = 7 - g) = decide (c / 32 = g) := fun c => decide_eq_decide.2 (by omega)
    have bit := statusFields_summary s hb (i := 7 - g) (by omega)
    rw [show 16 + (16 + (8 + (7 - g))) = 47 - g by omega, summary_testBit] at bit
    simp only [group] at bit
    exact bit
  · have rest : ∀ c : Nat, decide (7 - c / 32 = 0) = decide (7 ≤ c / 32) := fun c => decide_eq_decide.2 (by omega)
    have bit := statusFields_summary s hb (i := 0) (by omega)
    rw [summary_testBit] at bit
    simp only [rest] at bit
    exact bit
  · exact (statusFields_presence s hb (i := 7) (by omega)).trans open_
  · exact (statusFields_presence s hb (i := 6) (by omega)).trans jumper
  · exact (statusFields_presence s hb (i := 5) (by omega)).trans loop
  · exact (statusFields_presence s hb (i := 4) (by omega)).trans serviced
  · exact (statusFields_presence s hb (i := 3) (by omega)).trans debug
  · exact (statusFields_presence s hb (i := 2) (by omega)).trans running
  · exact (statusFields_presence s hb (i := 1) (by omega)).trans staged
  · rw [← presence_eq]
    exact (statusFields_presence s hb (i := 0) (by omega)).trans present

end

theorem exec_statusRewrite {s : State} {w : DWord} (on : s.phase ≠ .off) (word : State.statusWord s (s.host.status.toNat / 2 ^ 56 + 1) = w) :
    ∃ t, exec .statusRewrite s = .next t ∧ t = { s with host := { s.host with status := w }, out := t.out } ∧ t.host.status = w ∧
      t.out = if s.host.mirrorAddr ≠ 0 ∧ s.host.busMaster = true then s.out ++ [.hostWrite s.host.mirrorAddr.toNat (toBytes 8 w.toNat)] else s.out := by
  have run : exec .statusRewrite s = execStatusRewrite s := rfl
  unfold execStatusRewrite at run
  rw [if_neg on, word] at run
  dsimp only at run
  generalize toBytes 8 w.toNat = bytes at run ⊢
  by_cases mirrored : s.host.mirrorAddr ≠ 0 ∧ s.host.busMaster = true
  · rw [if_pos mirrored] at run
    exact ⟨_, run, rfl, rfl, by rw [if_pos mirrored]; rfl⟩
  · rw [if_neg mirrored] at run
    exact ⟨_, run, rfl, rfl, by rw [if_neg mirrored]⟩

/-- R467, R468: STATUS_REWRITE. -/
theorem statusRewrites (s : State) (on : s.phase ≠ .off) :
    ∃ t, exec .statusRewrite s = .next t ∧ t = { s with host := { s.host with status := t.host.status }, out := t.out } ∧
      (let w := t.host.status.toNat
       w / 2 ^ 56 = (s.host.status.toNat / 2 ^ 56 + 1) % 256 ∧ w / 2 ^ 48 % 256 = Mode.code (State.mode s) ∧
       (∀ n, n < 16 → w.testBit (16 + n) = (State.mailbox s n).done ∧ w.testBit n = (State.mailbox s n).busy) ∧
       (∀ g, g < 7 → w.testBit (47 - g) =
         (s.tel.alarms.any (fun a => decide (a.code / 32 = g)) || s.tel.reserved.any (fun e => decide (e.2.code / 32 = g)))) ∧
       w.testBit 40 = (s.tel.alarms.any (fun a => decide (7 ≤ a.code / 32)) || s.tel.reserved.any (fun e => decide (7 ≤ e.2.code / 32))) ∧
       w.testBit 39 = s.presence.windowOpen ∧ w.testBit 38 = Claims.levelRead s.presence.jumper s.presence.jmpAt s ∧
       w.testBit 37 = Claims.levelRead s.nv.sealClosed s.presence.sealAt s ∧
       w.testBit 36 = decide (s.nv.rearmBlown < s.nv.serviceBlown) ∧ w.testBit 35 = s.debug ∧ w.testBit 34 = s.bench.any (fun e => e.2.running) ∧
       w.testBit 33 = s.nv.staged ∧
       w.testBit 32 = ((s.presence.jumper && decide (s.presence.jmpAt ≠ some s.timebase)) || (s.presence.windowOpen && decide (s.presence.winStart ≤ s.timebase) && decide (s.timebase < s.presence.winEnd)))) ∧
      t.out = (if s.host.mirrorAddr ≠ 0 ∧ s.host.busMaster = true then s.out ++ [.hostWrite s.host.mirrorAddr.toNat (toBytes 8 t.host.status.toNat)] else s.out) := by
  have fields := statusFields_say s (s.host.status.toNat / 2 ^ 56 + 1)
  rw [← statusWord_toNat] at fields
  generalize word : State.statusWord s (s.host.status.toNat / 2 ^ 56 + 1) = w at fields
  obtain ⟨t, run, frame, status, out⟩ := exec_statusRewrite on word
  exact ⟨t, run, by rw [status]; exact frame, by rw [status]; exact fields, by rw [status]; exact out⟩

end Sys2Proof.Machine
end

section
/-!
SUPPORT. Baker's restart and PACE (R42, R43, R470).
-/

namespace Sys2Proof.Machine

/-! ### Baker's restart -/

/-- From `s` to `t` only cells have changed, and numbers have been taken. -/
def InCells (s t : State) : Prop := t = { s with cells := t.cells, nextId := t.nextId }

theorem InCells.trans {s t u : State} (h : InCells s t) (k : InCells t u) : InCells s u := by
  unfold InCells at *
  rw [k, h]

theorem inCells_foldl {α : Type} {f : State → α → State} (hf : ∀ s a, InCells s (f s a)) (l : List α) (s : State) : InCells s (l.foldl f s) :=
  foldl_keeps (InCells s) f (fun t a h => h.trans (hf t a)) l s rfl

theorem inCells_closeDrawers (s : State) (c : Nat) (o : Owner) : InCells s (State.closeDrawers s c o) := by
  refine inCells_foldl (fun s e => inCells_foldl (fun s d => ?_) _ s) _ s
  split
  · rfl
  · rfl

theorem inCells_dropGroup (s : State) (g : GroupLoc) (grp : Group) : InCells s (State.dropGroup s g grp) := by
  unfold State.dropGroup
  exact InCells.trans (t := State.modCell s g.cell _) rfl (inCells_closeDrawers ..)

/-- A group of a tasting that still runs is dropped. -/
def State.dropTaster (s : State) (c : Nat) : State :=
  match Cell.group (State.cell s c) 0 with
  | none => s
  | some g => if g.ring = 64 then State.dropGroup s { cell := c, slot := 0 } g else s

theorem inCells_dropTaster (s : State) (c : Nat) : InCells s (State.dropTaster s c) := by
  unfold State.dropTaster
  split
  · rfl
  · split
    · exact inCells_dropGroup ..
    · rfl

theorem State.endTasting_none {s : State} (h : s.tasting = none) : State.endTasting s = s := by
  unfold State.endTasting; rw [h]

theorem State.endTasting_some {s : State} {t : Tasting} (h : s.tasting = some t) :
    State.endTasting s = { t.running.foldl (fun s e => State.dropTaster s e.cell) s with tasting := none } := by
  unfold State.endTasting; rw [h]; rfl

/-- A tasting ends: its groups are dropped. -/
theorem endTasting_frame (s : State) : State.endTasting s = { s with tasting := none, cells := (State.endTasting s).cells, nextId := (State.endTasting s).nextId } := by
  cases tastes : s.tasting with
  | none =>
    rw [State.endTasting_none tastes]
    exact congrArg (fun x => { s with tasting := x }) tastes
  | some t =>
    rw [State.endTasting_some tastes]
    have drops := inCells_foldl (f := fun s e => State.dropTaster s e.cell) (fun u e => inCells_dropTaster u e.cell) t.running s
    generalize t.running.foldl (fun s e => State.dropTaster s e.cell) s = u at drops
    unfold InCells at drops
    rw [drops]

/-- R470: Baker's restart ends every command with 0xFFFE. -/
theorem bakerRestarts (s : State) (on : s.phase ≠ .off) :
    ∃ t, exec .bakerWatchdogRestart s = .next t ∧
      t = { s with
        jobs := t.jobs, tel := t.tel, host := { s.host with mailboxes := t.host.mailboxes }, tasting := none, cells := t.cells, nextId := t.nextId } ∧
      (s.tasting = none → t.cells = s.cells ∧ t.nextId = s.nextId) ∧
      Claims.alarmed s t 0xC2 0 0 0 ∧
      ∀ n, let m := State.mailbox s n
        if n < 17 ∧ m.running ≠ none then
          State.mailbox t n = { m with
            result := 0xFFFE, resLen := 0, doneSeq := m.ackSeq, progress := 0, doneTime := s.timebase, res := [], report := [], busy := false, done := true, running := none }
        else State.mailbox t n = m := by
  have run : exec .bakerWatchdogRestart s =
      .next (State.recoveryEvent (State.raise (State.endTasting (State.endCommands s 0xFFFE (fun _ => true))) 0xC2 0 0 0) 7) := if_neg on
  have ended := ended_endCommands s 0xFFFE (fun _ => true)
  generalize State.endCommands s 0xFFFE (fun _ => true) = u at run ended
  have drops := endTasting_frame u
  have still := State.endTasting_none (s := u)
  generalize State.endTasting u = v at run drops still
  have only := (onlyRecords_raise v 0xC2 0 0 0).trans (onlyRecords_recoveryEvent _ 7)
  have alarm := (reports_recoveryEvent (State.raise v 0xC2 0 0 0) 7).alarmed (alarmed_raise v 0xC2 0 0 0)
  generalize State.recoveryEvent (State.raise v 0xC2 0 0 0) 7 = t at run only alarm
  have commands := ended.frame
  have tasting : u.tasting = s.tasting := by rw [commands]
  have host : t.host = u.host := by rw [only, drops]
  refine ⟨t, run, by rw [only, drops, commands], fun none_ => ?_, alarmed_of (by rw [drops, commands]) alarm, fun n => ?_⟩
  · rw [only, still (tasting.trans none_), commands]
    exact ⟨rfl, rfl⟩
  · have box : State.mailbox t n = State.mailbox u n := by unfold State.mailbox; rw [host]
    dsimp only
    rw [box]
    split
    · next h =>
      obtain ⟨k, running⟩ := Option.ne_none_iff_exists'.1 h.2
      exact ended.done n (List.mem_range.2 h.1) k running rfl
    · next h =>
      refine ended.kept n ((Decidable.not_and_iff_not_or_not.1 h).imp (fun out mem => out (List.mem_range.1 mem)) fun idle k running => ?_)
      exact absurd (by rw [running]; exact fun h => nomatch h) idle

/-! ### PACE -/

theorem foldl_lowest {α : Type} (f : α → Nat) (p : Nat) (l : List α) (a : Nat) (above : ∀ m ∈ l, p ≤ f m) (start : p ≤ a) (there : a = p ∨ ∃ m ∈ l, f m = p) :
    l.foldl (fun (acc : Option Nat) m => some (acc.elim (f m) (fun a => min a (f m)))) (some a) = some p := by
  induction l generalizing a with
  | nil =>
    obtain rfl | ⟨m, mem, -⟩ := there
    · rfl
    · exact nomatch mem
  | cons m l ih =>
    have low := above m List.mem_cons_self
    rw [List.foldl_cons]
    refine ih (min a (f m)) (fun n hn => above n (List.mem_cons_of_mem _ hn)) (Nat.le_min.2 ⟨start, low⟩) ?_
    obtain rfl | ⟨n, mem, is⟩ := there
    · exact .inl (Nat.min_eq_left low)
    · obtain rfl | mem := List.mem_cons.1 mem
      · exact .inl (by rw [is]; exact Nat.min_eq_right start)
      · exact .inr ⟨n, mem, is⟩

section
variable {s : State} {r p : Nat} {monitors : List Nat}

/-- The slowest monitor of the blocks that serve is the least of them (R42). -/
theorem slowest_eq (length : monitors.length = 8) (there : ∃ b, b < 8 ∧ (State.block s (8 * r + b)).fenced = false ∧ monitors.getD b 0 = p)
    (least : ∀ b, b < 8 → (State.block s (8 * r + b)).fenced = false → p ≤ monitors.getD b 0) : State.slowest s r monitors = some p := by
  have serving : ∀ m, m ∈ monitors.zipIdx.filter (fun m => decide (m.2 < 8) && !(State.block s (8 * r + m.2)).fenced) ↔
      m.2 < 8 ∧ (State.block s (8 * r + m.2)).fenced = false ∧ m.1 = monitors.getD m.2 0 := fun m => by
    rw [List.mem_filter, List.mk_mem_zipIdx_iff_getElem?, Bool.and_eq_true, decide_eq_true_eq, Bool.not_eq_true']
    constructor
    · rintro ⟨at_, low, open_⟩
      exact ⟨low, open_, by rw [List.getD_eq_getElem?_getD, at_]; rfl⟩
    · rintro ⟨low, open_, is⟩
      refine ⟨?_, low, open_⟩
      rw [List.getElem?_eq_getElem (by omega), is, List.getD_eq_getElem _ _ (by omega)]
  have above : ∀ m ∈ monitors.zipIdx.filter (fun m => decide (m.2 < 8) && !(State.block s (8 * r + m.2)).fenced), p ≤ m.1 := fun m hm => by
    obtain ⟨low, open_, is⟩ := (serving m).1 hm
    rw [is]
    exact least m.2 low open_
  obtain ⟨b, low, open_, is⟩ := there
  have mem : (p, b) ∈ monitors.zipIdx.filter (fun m => decide (m.2 < 8) && !(State.block s (8 * r + m.2)).fenced) := (serving (p, b)).2 ⟨low, open_, is.symm⟩
  unfold State.slowest
  generalize monitors.zipIdx.filter (fun m => decide (m.2 < 8) && !(State.block s (8 * r + m.2)).fenced) = l at above mem
  cases l with
  | nil => exact nomatch mem
  | cons m l =>
    refine foldl_lowest (fun m : Nat × Nat => m.1) p l m.1 (fun n hn => above n (List.mem_cons_of_mem _ hn)) (above m List.mem_cons_self) ?_
    obtain rfl | mem := List.mem_cons.1 mem
    · exact .inl rfl
    · exact .inr ⟨_, mem, rfl⟩

/-- The PACE register of a region whose slowest monitor is `p` (R42, R43). -/
def RegionPower.paced (x : RegionPower) (p : Nat) (temp : BitVec 8) : RegionPower :=
  { x with pace :=
    { volt := x.volt / 5, temp := temp, paceMin := min x.pace.paceMin p, pace := p, seq := (x.pace.seq + 1) % 2 ^ 12
      throttle := decide (x.volt < x.vreq), lowpace := x.pace.lowpace || belowGuaranteed p x.volt paceTable, valid := true } }

theorem State.regionPower_modRegionPower (s : State) (r q : Nat) (f : RegionPower → RegionPower) :
    State.regionPower (State.modRegionPower s r f) q = if r = q then f (State.regionPower s r) else State.regionPower s q := NMap.get_upd ..

theorem exec_paceInterval (hr : r < 8) (on : (State.regionPower s r).on = true) (slowest : State.slowest s r monitors = some p) (small : p < 2 ^ 16)
    (temp : BitVec 8) : exec (.paceInterval r monitors temp) s =
      let u := State.modRegionPower s r (fun y => { y with pace := (RegionPower.paced (State.regionPower s r) p temp).pace })
      .next (if belowGuaranteed p (State.regionPower s r).volt paceTable then
        State.beginEpisode (State.w1cSet (State.count u .paceLow 0 r 1) (lowpaceKey r)) 0x61 1 r 0 0 else State.endEpisode u 0x61 1 r 0) := by
  have run : exec (.paceInterval r monitors temp) s = execPaceInterval r monitors temp s := rfl
  unfold execPaceInterval at run
  rw [if_neg (Nat.not_le.2 hr)] at run
  dsimp only at run
  rw [on, slowest] at run
  dsimp only at run
  rw [Nat.mod_eq_of_lt small] at run
  exact run

theorem reports_beginEpisode (s : State) (c k o u d : Nat) : Reports [] s (State.beginEpisode s c k o u d) := by
  rw [State.beginEpisode_eq]
  split
  · exact Reports.refl s
  · exact (reports_addEpisode s (c, k, o, u)).trans (reports_raise ..)

/-- A pace below the guaranteed one is counted, with records (R43). -/
theorem paceLow_recorded (u : State) (r : Nat) :
    let t := State.beginEpisode (State.w1cSet (State.count u .paceLow 0 r 1) (lowpaceKey r)) 0x61 1 r 0 0
    OnlyRecords u t ∧ Claims.counted u t .paceLow 0 r 1 := by
  have counted := counted_count u .paceLow 0 r 1 (by decide)
  have only := onlyRecords_count u .paceLow 0 r 1
  dsimp only
  generalize State.count u .paceLow 0 r 1 = v at counted only
  have reports := reports_beginEpisode (State.w1cSet v (lowpaceKey r)) 0x61 1 r 0 0
  have marks : OnlyRecords v (State.w1cSet v (lowpaceKey r)) := rfl
  exact ⟨only.trans (marks.trans (onlyRecords_beginEpisode ..)), ((reports_w1cSet v (lowpaceKey r)).trans reports).counted_after counted (by decide) (fun h => nomatch h)⟩

/-- R42, R43: PACE_INTERVAL. -/
theorem paceIntervals (temp : BitVec 8) (hr : r < 8) (on : (State.regionPower s r).on = true) (length : monitors.length = 8) (small : p < 2 ^ 16)
    (there : ∃ b, b < 8 ∧ (State.block s (8 * r + b)).fenced = false ∧ monitors.getD b 0 = p)
    (least : ∀ b, b < 8 → (State.block s (8 * r + b)).fenced = false → p ≤ monitors.getD b 0) :
    let x := State.regionPower s r
    let low := belowGuaranteed p x.volt paceTable
    ∃ t, exec (.paceInterval r monitors temp) s = .next t ∧ t = { s with tel := t.tel, power := { s.power with regions := t.power.regions } } ∧
      (∀ q, q ≠ r → State.regionPower t q = State.regionPower s q) ∧
      State.regionPower t r = { x with pace :=
        { volt := x.volt / 5, temp := temp, paceMin := min x.pace.paceMin p, pace := p, seq := (x.pace.seq + 1) % 2 ^ 12
          throttle := decide (x.volt < x.vreq), lowpace := x.pace.lowpace || low, valid := true } } ∧
      (low = true → Claims.counted s t .paceLow 0 r 1) := by
  have run := exec_paceInterval hr on (slowest_eq length there least) small temp
  dsimp only at run ⊢
  generalize hu : State.modRegionPower s r (fun y => { y with pace := (RegionPower.paced (State.regionPower s r) p temp).pace }) = u at run
  have frame : u = { s with power := { s.power with regions := u.power.regions } } := by rw [← hu]; rfl
  have powers : ∀ q, State.regionPower u q = if r = q then RegionPower.paced (State.regionPower s r) p temp else State.regionPower s q := fun q => by
    rw [← hu, State.regionPower_modRegionPower]; rfl
  obtain ⟨t, run, only, counted⟩ : ∃ t, exec (.paceInterval r monitors temp) s = .next t ∧ OnlyRecords u t ∧
      (belowGuaranteed p (State.regionPower s r).volt paceTable = true → Claims.counted s t .paceLow 0 r 1) := by
    by_cases low : belowGuaranteed p (State.regionPower s r).volt paceTable = true
    · rw [if_pos low] at run
      obtain ⟨only, counted⟩ := paceLow_recorded u r
      exact ⟨_, run, only, fun _ => (reports_of_tel (s := s) (t := u) (by rw [frame])).counted_before (by decide) (fun h => nomatch h) counted⟩
    · rw [if_neg low] at run
      exact ⟨_, run, rfl, fun h => absurd h low⟩
  have same : ∀ q, State.regionPower t q = State.regionPower u q := fun q => by unfold State.regionPower; rw [only]
  exact ⟨t, run, by rw [only, frame], fun q hq => (same q).trans ((powers q).trans (if_neg (Ne.symm hq))), (same r).trans ((powers r).trans (if_pos rfl)), counted⟩

end

end Sys2Proof.Machine
end

section
/-!
SUPPORT. Physical addresses and the accesses that the memory window refuses (R334 to R336, R339, R466).
-/

namespace Sys2Proof.Machine

/-! ### Physical addresses -/

theorem bitOf_eq (v k : Nat) : bitOf v k = decide (v / 2 ^ k % 2 = 1) := rfl

section
variable {ilv pa line k : Nat}

theorem homeOf_pool (h : pa / 2 ^ 42 % 2 = 1) : homeOf ilv pa =
    (pa % 2 ^ 42 / 256 % 8, (regionBytes - ilv) + pa % 2 ^ 42 / 256 / 8 * 256 + pa % 2 ^ 42 % 256, decide (pa % 2 ^ 42 < 8 * ilv)) := by
  unfold homeOf
  rw [bitOf_eq, decide_eq_true h]
  rfl

theorem homeOf_local (h : pa / 2 ^ 42 % 2 ≠ 1) : homeOf ilv pa =
    (pa / 2 ^ 39 % 8, pa % 2 ^ 39, decide (0x10000000 ≤ pa % 2 ^ 39 ∧ pa % 2 ^ 39 < regionBytes - ilv)) := by
  unfold homeOf
  rw [bitOf_eq, decide_eq_false h]
  rfl

/-- The bytes of a line lie one after the other in one region (R336). -/
theorem homeOf_line (aligned : line % 128 = 0) (hk : k < 128) (whole : ilv % 2 ^ 30 = 0) :
    (homeOf ilv (line + k)).1 = (homeOf ilv line).1 ∧ (homeOf ilv (line + k)).2.1 = (homeOf ilv line).2.1 + k ∧
      (homeOf ilv (line + k)).2.2 = (homeOf ilv line).2.2 ∧ (homeOf ilv line).2.1 % 128 = 0 := by
  by_cases pool : line / 2 ^ 42 % 2 = 1
  · rw [homeOf_pool pool, homeOf_pool (by omega)]
    refine ⟨by dsimp only; omega, by dsimp only; omega, decide_eq_decide.2 (by omega), ?_⟩
    unfold regionBytes
    dsimp only
    omega
  · rw [homeOf_local pool, homeOf_local (by omega)]
    unfold regionBytes
    exact ⟨by dsimp only; omega, by dsimp only; omega, decide_eq_decide.2 (by omega), by dsimp only; omega⟩

/-- The home of a populated address leads back to it (R334 to R336). -/
theorem physicalOf_homeOf (range : pa < 2 ^ 43) (populated : (homeOf ilv pa).2.2 = true) :
    physicalOf ilv (homeOf ilv pa).1 (homeOf ilv pa).2.1 = pa := by
  by_cases pool : pa / 2 ^ 42 % 2 = 1
  · rw [homeOf_pool pool] at populated ⊢
    unfold physicalOf
    dsimp only
    rw [if_pos (by omega)]
    omega
  · rw [homeOf_local pool] at populated ⊢
    have inside := of_decide_eq_true populated
    unfold physicalOf homeKey
    dsimp only
    rw [if_neg (by omega)]
    omega

end

theorem State.ilv_whole (s : State) : State.ilv s % 2 ^ 30 = 0 := Nat.mul_mod_left ..

/-! ### Refused accesses -/

/-- A refused access is counted and logged, or raises an alarm, and nothing else happens (R339, R466). -/
theorem hostRefusal_recorded (s : State) (pa len : Nat) : OnlyRecords s (State.hostRefusal s pa len) ∧ Claims.counted s (State.hostRefusal s pa len) .hostRefused 0 0 1 := by
  have counted := counted_count s .hostRefused 0 0 1 (by decide)
  have only := onlyRecords_count s .hostRefused 0 0 1
  unfold State.hostRefusal
  dsimp only
  generalize State.count s .hostRefused 0 0 1 = u at counted only
  split
  · refine ⟨only.trans ((onlyRecords_count ..).trans (onlyRecords_raise ..)),
      ((reports_count u .memUnmapped 0 _ 1).trans (reports_raise ..)).counted_after counted (by decide) fun h => ?_⟩
    exact counterKey_ne (by decide) _ _ _ _ (List.mem_singleton.1 h)
  · exact ⟨only.trans (onlyRecords_log ..), (reports_log ..).counted_after counted (by decide) fun h => nomatch h⟩

section
variable {s : State} {offset len : Nat}

theorem memoryWindowRead_refused (ready : State.hostReady s = true) (some_ : 0 < len) (inside : offset + len ≤ 2 ^ s.host.winLog2)
    (refused : State.hostRefuses s (s.host.aperture + offset) len = true) :
    ∃ t, exec (.memoryWindowRead offset len) s = .next t ∧ t = { s with tel := t.tel, out := s.out ++ [.unsupported] } ∧ Claims.counted s t .hostRefused 0 0 1 := by
  obtain ⟨only, counted⟩ := hostRefusal_recorded s (s.host.aperture + offset) len
  refine ⟨State.emit (State.hostRefusal s (s.host.aperture + offset) len) .unsupported, (if_neg ?_).trans (if_pos refused), ?_, counted⟩
  · rw [ready]
    rintro (h | h | h)
    · exact nomatch h
    · omega
    · omega
  · generalize State.hostRefusal s (s.host.aperture + offset) len = u at only
    rw [only]
    rfl

theorem memoryWindowWrite_refused {bytes : List Byte} (outs : List SectorOutcome) (ready : State.hostReady s = true) (some_ : bytes ≠ [])
    (inside : offset + bytes.length ≤ 2 ^ s.host.winLog2) (refused : State.hostRefuses s (s.host.aperture + offset) bytes.length = true) :
    ∃ t, exec (.memoryWindowWrite offset ⟨bytes, outs⟩) s = .next t ∧ t = { s with tel := t.tel } ∧ Claims.counted s t .hostRefused 0 0 1 := by
  obtain ⟨only, counted⟩ := hostRefusal_recorded s (s.host.aperture + offset) bytes.length
  refine ⟨_, (if_neg ?_).trans (if_pos refused), only, counted⟩
  rw [ready]
  rintro (h | h | h)
  · exact nomatch h
  · exact absurd inside (Nat.not_le.2 h)
  · exact some_ h

end

end Sys2Proof.Machine
end

section
/-!
SUPPORT. Host writes: the bytes of a write in their order, and the lines that they bring (R463).
-/

namespace Sys2Proof.Machine

/-! ### Lines that are brought -/

/-- From `s` to `t` lines of the region caches have been brought or given up: bytes stay, and every region serves as before. -/
structure Brought (s t : State) : Prop where
  frame : t = { s with
    memPoison := t.memPoison, regions := t.regions, tel := t.tel, banks := t.banks, stackQueue := t.stackQueue, nextId := t.nextId }
  serves : ∀ r, State.regionServes t r = State.regionServes s r

theorem Brought.refl (s : State) : Brought s s := ⟨rfl, fun _ => rfl⟩

theorem Brought.trans {s t u : State} (h : Brought s t) (k : Brought t u) : Brought s u :=
  ⟨by rw [k.frame, h.frame], fun r => (k.serves r).trans (h.serves r)⟩

theorem Brought.foldl {α : Type} {f : State → α → State} (hf : ∀ s a, Brought s (f s a)) (l : List α) (s : State) : Brought s (l.foldl f s) :=
  foldl_keeps (Brought s) f (fun t a h => h.trans (hf t a)) l s (.refl s)

theorem Brought.of_records {s t : State} (h : OnlyRecords s t) : Brought s t :=
  ⟨by rw [h], fun r => by rw [h]; rfl⟩

theorem regionServes_setRegionLines (s : State) (r o : Nat) (l : List RegionLine) (q : Nat) :
    State.regionServes (State.setRegionLines s r o l) q = State.regionServes s q := by
  unfold State.regionServes State.setRegionLines
  rw [State.region_setRegion]
  split
  · next h => rw [← h]
  · rfl

theorem brought_setRegionLines (s : State) (r o : Nat) (l : List RegionLine) : Brought s (State.setRegionLines s r o l) :=
  ⟨rfl, regionServes_setRegionLines s r o l⟩

theorem brought_touchRegion (s : State) (r o : Nat) (f : RegionLine → RegionLine) : Brought s (State.touchRegion s r o f) := by
  unfold State.touchRegion
  dsimp only
  split
  · exact .refl s
  · exact brought_setRegionLines ..

theorem brought_count (s : State) (c : Counter) (p i n : Nat) : Brought s (State.count s c p i n) := .of_records (onlyRecords_count ..)

theorem brought_setPoison (s : State) (r o : Nat) (p : Bool) : Brought s (State.setPoison s r o p) := ⟨rfl, fun _ => rfl⟩

theorem brought_banks (s : State) (m : NMap BankHealth) : Brought s { s with banks := m } := ⟨rfl, fun _ => rfl⟩

theorem brought_stackIssue (s : State) (r line : Nat) (write : Bool) : Brought s (State.stackIssue s r line write) := ⟨rfl, fun _ => rfl⟩

theorem Brought.records {s t u : State} (h : Brought s t) (k : OnlyRecords t u) : Brought s u := h.trans (.of_records k)

theorem brought_correctedError (s : State) (r o : Nat) : Brought s (State.correctedError s r o) := by
  unfold State.correctedError
  refine Brought.records ?_ (onlyRecords_recoveryEvent _ _)
  refine Brought.records ?_ (onlyRecords_count ..)
  exact brought_banks ..

theorem brought_uncorrectableError (s : State) (r o sub : Nat) : Brought s (State.uncorrectableError s r o sub) := by
  unfold State.uncorrectableError
  refine Brought.records ?_ (onlyRecords_recoveryEvent _ _)
  refine Brought.records ?_ (onlyRecords_flag ..)
  refine Brought.records ?_ (onlyRecords_raise ..)
  refine Brought.records ?_ (onlyRecords_log ..)
  refine Brought.records ?_ (onlyRecords_count ..)
  exact (brought_banks ..).trans (brought_setPoison ..)

theorem brought_readStack (s : State) (r o sub : Nat) (out : SectorOutcome) : Brought s (State.readStack s r o sub out).1 := by
  unfold State.readStack
  split
  · exact brought_count ..
  · cases out with
    | clean => exact .refl s
    | corrected => exact brought_correctedError ..
    | uncorrectable => exact brought_uncorrectableError ..

theorem brought_fillLine (s : State) (r line : Nat) (outcomes : List SectorOutcome) : Brought s (State.fillLine s r line outcomes) := by
  refine (Brought.foldl (fun s i => ?_) _ s).trans (brought_touchRegion ..)
  have read := brought_readStack s r (line + 32 * i) 1 (outcomes.getD i .clean)
  dsimp only
  split
  · exact read.trans (brought_touchRegion ..)
  · exact read

theorem brought_evict {s t : State} {r : Nat} {v : RegionLine} (h : State.evict s r v = some t) : Brought s t := by
  have lost := Brought.foldl (fun s i => brought_setPoison s r (v.line * 128 + 32 * i) true) v.lost s
  unfold State.evict at h
  dsimp only at h
  generalize v.lost.foldl (fun s i => State.setPoison s r (v.line * 128 + 32 * i) true) s = u at lost h
  have expired : Brought s (if v.expired = true then State.count u .expiredEvict 0 r 1 else u) := by
    split
    · exact lost.trans (brought_count ..)
    · exact lost
  generalize (if v.expired = true then State.count u .expiredEvict 0 r 1 else u) = w at expired h
  split at h
  · cases h; exact expired
  · split at h
    · cases h; exact (expired.trans (brought_count ..)).trans (brought_stackIssue ..)
    · exact nomatch h

theorem brought_allocate {s t : State} {r o cls : Nat} {tag : Half} (h : State.allocate s r o cls tag = some t) : Brought s t := by
  unfold State.allocate at h
  dsimp only at h
  split at h
  · cases h; exact .refl s
  · generalize hu : (if (decide (cls = 3) && decide (6 ≤ ((State.regionLines s r o).filter (fun x => decide (x.cls = 3))).length)) = true then
      State.count s .pinOverflow 0 (448 + r) 1 else s) = u at h
    have overflow : Brought s u := by
      rw [← hu]
      split
      · exact brought_count ..
      · exact .refl s
    split at h
    · cases h; exact overflow.trans (brought_setRegionLines ..)
    · split at h
      · exact nomatch h
      · obtain ⟨w, evicted, rfl⟩ := Option.map_eq_some_iff.1 h
        exact (overflow.trans (brought_evict evicted)).trans (brought_setRegionLines ..)

theorem brought_bringLine (s : State) (r line cls : Nat) (tag : Half) (needs : List Nat) (outcomes : List SectorOutcome) :
    Brought s (State.bringLine s r line cls tag needs outcomes) := by
  have allocated : Brought s ((State.allocate s r line cls tag).getD s) := by
    cases h : State.allocate s r line cls tag with
    | none => exact .refl s
    | some t => exact brought_allocate h
  unfold State.bringLine
  split
  · exact (brought_count ..).trans (brought_touchRegion ..)
  · dsimp only
    split
    · exact allocated
    · exact (allocated.trans (brought_count ..)).trans (brought_fillLine ..)

/-! ### Bytes put one after the other -/

/-- A list in the order of `f`, its least value first. -/
theorem filter_least_append {α : Type} (f : α → Nat) (v : Nat) {l : List α} (sorted : l.Pairwise (fun a b => f a ≤ f b)) (least : ∀ x ∈ l, v ≤ f x) :
    l.filter (fun x => decide (f x = v)) ++ l.filter (fun x => decide (f x ≠ v)) = l := by
  induction l with
  | nil => rfl
  | cons a r ih =>
    obtain ⟨first, rest⟩ := List.pairwise_cons.1 sorted
    have tail := ih rest fun x hx => least x (List.mem_cons_of_mem _ hx)
    by_cases ha : f a = v
    · rw [List.filter_cons_of_pos (p := fun x => decide (f x = v)) (decide_eq_true ha), List.filter_cons_of_neg (by simp [ha]), List.cons_append, tail]
    · have above : ∀ x ∈ r, f x ≠ v := fun x hx e => by
        have := first x hx
        have := least a (List.mem_cons_self ..)
        omega
      rw [List.filter_cons_of_neg (by simp [ha]), List.filter_cons_of_pos (p := fun x => decide (f x ≠ v)) (decide_eq_true ha),
        List.filter_eq_nil_iff.2 fun x hx => by simp [above x hx], List.filter_eq_self.2 fun x hx => decide_eq_true (above x hx), List.nil_append]

/-- A list in the order of `f` is its parts with one value of `f` each, one after the other. -/
theorem flatMap_filter_eq {α : Type} (f : α → Nat) {vs : List Nat} (rising : vs.Pairwise (· < ·)) :
    ∀ {l : List α}, l.Pairwise (fun a b => f a ≤ f b) → (∀ x ∈ l, f x ∈ vs) → vs.flatMap (fun v => l.filter (fun x => decide (f x = v))) = l := by
  induction vs with
  | nil => exact fun _ all => (List.eq_nil_iff_forall_not_mem.2 fun x hx => nomatch all x hx).symm
  | cons v vs ih =>
    intro l sorted all
    obtain ⟨above, rest⟩ := List.pairwise_cons.1 rising
    have least : ∀ x ∈ l, v ≤ f x := fun x hx => (List.mem_cons.1 (all x hx)).elim (fun e => e.ge) fun h => (above _ h).le
    have tail := ih rest (l := l.filter fun x => decide (f x ≠ v)) (sorted.filter _) fun x hx => by
      obtain ⟨mem, ne⟩ := List.mem_filter.1 hx
      exact (List.mem_cons.1 (all x mem)).resolve_left (of_decide_eq_true ne)
    have same : vs.flatMap (fun w => l.filter fun x => decide (f x = w)) =
        vs.flatMap fun w => (l.filter fun x => decide (f x ≠ v)).filter fun x => decide (f x = w) := by
      refine List.flatMap_congr fun w hw => ?_
      rw [List.filter_filter]
      refine List.filter_congr fun x _ => ?_
      have := above w hw
      rw [Bool.eq_iff_iff]
      simp only [decide_eq_true_eq, Bool.and_eq_true]
      omega
    rw [List.flatMap_cons, same, tail]
    exact filter_least_append f v sorted least

/-- The memory after `l` has been written to `m`, byte after byte. -/
def putBytes (m l : NMap Byte) : NMap Byte := l.foldl (fun m e => NMap.set m 0 e.1 e.2) m

theorem putBytes_append (m k l : NMap Byte) : putBytes m (k ++ l) = putBytes (putBytes m k) l := List.foldl_append

/-- Of the bytes written to one key the last one stays. -/
theorem get_putBytes (l m : NMap Byte) (k : Nat) :
    NMap.get (putBytes m l) 0 k = (l.reverse.find? fun e => decide (e.1 = k)).elim (NMap.get m 0 k) (·.2) := by
  induction l generalizing m with
  | nil => rfl
  | cons a r ih =>
    rw [show putBytes m (a :: r) = putBytes (NMap.set m 0 a.1 a.2) r from rfl, ih, List.reverse_cons, List.find?_append]
    cases r.reverse.find? (fun e => decide (e.1 = k)) with
    | some e => rfl
    | none => by_cases ha : a.1 = k <;> simp [ha, NMap.get_set]

/-- The bytes of a numbered list, written to the keys `key` in the list's order. -/
theorem get_putBytes_range (m : NMap Byte) (n : Nat) (key : Nat → Nat) (byte : Nat → Byte) (k : Nat) :
    NMap.get (putBytes m ((List.range n).map fun i => (key i, byte i))) 0 k =
      ((List.range n).reverse.find? fun i => decide (key i = k)).elim (NMap.get m 0 k) byte := by
  rw [get_putBytes, ← List.map_reverse, List.find?_map, Option.elim_map]
  rfl

/-! ### Lines that are there -/

/-- The line at an offset of a region is there, every sector of it valid. -/
def Holding (s : State) (r o : Nat) : Prop := ∃ l, State.regionLine s r o = some l ∧ ∀ i, i < 4 → i ∈ l.valid

theorem State.regionLines_setRegionLines_of (s : State) (r o : Nat) (l : List RegionLine) (q p : Nat) :
    State.regionLines (State.setRegionLines s r o l) q p = if r = q ∧ regionSet o = regionSet p then l else State.regionLines s q p := by
  unfold State.regionLines State.setRegionLines
  rw [State.region_setRegion]
  by_cases hr : r = q
  · rw [if_pos hr, NMap.get_set]
    simp only [hr, true_and]
  · rw [if_neg hr, if_neg fun h => hr h.1]

/-- What a touch leaves of a line is still there. -/
theorem Holding.touchRegion {s : State} {q p : Nat} (h : Holding s q p) (r o : Nat) {f : RegionLine → RegionLine} (line : ∀ x, (f x).line = x.line)
    (valid : ∀ x i, i ∈ x.valid → i ∈ (f x).valid) : Holding (State.touchRegion s r o f) q p := by
  obtain ⟨l, found, full⟩ := h
  unfold State.touchRegion
  dsimp only
  split
  · exact ⟨l, found, full⟩
  · next x hx =>
    unfold Holding State.regionLine
    rw [State.regionLines_setRegionLines_of]
    by_cases same : r = q ∧ regionSet o = regionSet p
    · obtain ⟨rfl, set_⟩ := same
      rw [if_pos ⟨rfl, set_⟩]
      have at_ : x.line = o / 128 := of_decide_eq_true (List.find?_some (p := fun x : RegionLine => decide (x.line = o / 128)) hx)
      have lines : State.regionLines s r p = State.regionLines s r o := by unfold State.regionLines; rw [set_]
      unfold State.regionLine at found
      rw [lines] at found
      by_cases here : o / 128 = p / 128
      · rw [← here, hx] at found
        cases found
        exact ⟨f l, by rw [List.find?_cons, decide_eq_true ((line l).trans (at_.trans here))], fun i hi => valid l i (full i hi)⟩
      · refine ⟨l, ?_, full⟩
        rw [List.find?_cons, decide_eq_false fun e => here ((line x ▸ at_).symm.trans e)]
        dsimp only
        rw [List.find?_filter, ← found]
        congr 1
        funext y
        rw [Bool.eq_iff_iff]
        simp only [decide_eq_true_eq]
        omega
    · rw [if_neg same]
      exact ⟨l, found, full⟩

/-! ### Bytes that are stored -/

/-- From `s` to `t` the bytes `l` have been written, by their keys, and lines brought on the way. -/
structure Wrote (s t : State) (l : NMap Byte) : Prop where
  frame : t = { s with
    mem := t.mem, codeWrites := t.codeWrites, memPoison := t.memPoison, regions := t.regions, tel := t.tel, banks := t.banks
    stackQueue := t.stackQueue, nextId := t.nextId }
  serves : ∀ r, State.regionServes t r = State.regionServes s r
  mem : t.mem = putBytes s.mem l

/-- From `s` to `t` the bytes `l` have been written, and no line was brought: poison changes only in sectors that are written. -/
structure Stored (s t : State) (l : NMap Byte) : Prop extends Wrote s t l where
  banks : t.banks = s.banks
  stackQueue : t.stackQueue = s.stackQueue
  nextId : t.nextId = s.nextId
  holds : ∀ r o, Holding s r o → Holding t r o
  poison : ∀ k, (∀ e ∈ l, e.1 / 32 ≠ k) → NMap.get t.memPoison false k = NMap.get s.memPoison false k

theorem Wrote.trans {s t u : State} {k l : NMap Byte} (h : Wrote s t k) (g : Wrote t u l) : Wrote s u (k ++ l) :=
  ⟨by rw [g.frame, h.frame], fun r => (g.serves r).trans (h.serves r), by rw [g.mem, h.mem, putBytes_append]⟩

theorem Brought.wrote {s t : State} (h : Brought s t) : Wrote s t [] :=
  ⟨by rw [h.frame], h.serves, by rw [h.frame]; rfl⟩

theorem Stored.refl (s : State) : Stored s s [] := ⟨(Brought.refl s).wrote, rfl, rfl, rfl, fun _ _ h => h, fun _ _ => rfl⟩

theorem Stored.trans {s t u : State} {k l : NMap Byte} (h : Stored s t k) (g : Stored t u l) : Stored s u (k ++ l) :=
  ⟨h.toWrote.trans g.toWrote, g.banks.trans h.banks, g.stackQueue.trans h.stackQueue, g.nextId.trans h.nextId, fun r o held => g.holds r o (h.holds r o held),
    fun j hj => (g.poison j fun e he => hj e (List.mem_append_right _ he)).trans (h.poison j fun e he => hj e (List.mem_append_left _ he))⟩

theorem Stored.foldl {α : Type} {f : State → α → State} {g : α → NMap Byte} (hf : ∀ s a, Stored s (f s a) (g a)) (l : List α) (s : State) :
    Stored s (l.foldl f s) (l.flatMap g) := by
  induction l generalizing s with
  | nil => exact .refl s
  | cons a r ih => exact (hf s a).trans (ih _)

theorem stored_setByte (s : State) (r o : Nat) (b : Byte) : Stored s (State.setByte s r o b) [(homeKey r o, b)] :=
  ⟨⟨rfl, fun _ => rfl, rfl⟩, rfl, rfl, rfl, fun _ _ h => h, fun _ _ => rfl⟩

theorem stored_touchRegion (s : State) (r o : Nat) {f : RegionLine → RegionLine} (line : ∀ x, (f x).line = x.line)
    (valid : ∀ x i, i ∈ x.valid → i ∈ (f x).valid) : Stored s (State.touchRegion s r o f) [] := by
  refine ⟨(brought_touchRegion s r o f).wrote, ?_, ?_, ?_, fun q p held => held.touchRegion r o line valid, fun k _ => ?_⟩
  all_goals unfold State.touchRegion; dsimp only; split <;> rfl

/-- The keys that a list of places in a sector or a line names, from offset `o` of region `r` on. -/
def keyed (r o : Nat) (l : NMap Byte) : NMap Byte := l.map fun e => (homeKey r (o + e.1), e.2)

theorem stored_storeSector (s : State) (r o : Nat) (bs : NMap Byte) (aligned : o % 32 = 0) (small : ∀ e ∈ bs, e.1 < 32) :
    Stored s (State.storeSector s r o bs false) (keyed r o bs) := by
  have put := Stored.foldl (fun s (e : Nat × Byte) => stored_setByte s r (o / 32 * 32 + e.1 % 32) e.2) bs s
  have bytes : bs.flatMap (fun e => [(homeKey r (o / 32 * 32 + e.1 % 32), e.2)]) = keyed r o bs := by
    rw [← List.map_eq_flatMap]
    refine List.map_congr_left fun e he => ?_
    rw [Nat.mod_eq_of_lt (small e he), show o / 32 * 32 = o by omega]
  rw [bytes] at put
  unfold State.storeSector
  dsimp only
  generalize bs.foldl (fun s e => State.setByte s r (o / 32 * 32 + e.1 % 32) e.2) s = u at put
  rw [if_neg Bool.false_ne_true]
  split
  · next many =>
    obtain ⟨b, hb⟩ := List.exists_mem_of_length_pos (l := bs) (by omega)
    refine ⟨⟨by rw [put.frame]; rfl, put.serves, put.mem⟩, put.banks, put.stackQueue, put.nextId, put.holds, fun k hk => ?_⟩
    have other := hk _ (List.mem_map_of_mem (f := fun e : Nat × Byte => (homeKey r (o + e.1), e.2)) hb)
    refine ((NMap.get_set u.memPoison false false (homeKey r (o / 32 * 32) / 32) k).trans (if_neg fun e => other ?_)).trans (put.poison k hk)
    have := small b hb
    rw [← e]
    unfold homeKey
    dsimp only
    omega
  · exact put

theorem stored_writeHome (s : State) (r o : Nat) (bs : NMap Byte) (aligned : o % 32 = 0) (small : ∀ e ∈ bs, e.1 < 32) :
    Stored s (State.writeHome s r o bs false) (keyed r o bs) := by
  have dirty := stored_touchRegion (State.storeSector s r o bs false) r o (f := fun x => RegionLine.write x (o / 32 % 4)) (fun _ => rfl)
    fun x i hi => (mem_dedupe ..).2 (List.mem_append_left _ hi)
  exact List.append_nil (keyed r o bs) ▸ (stored_storeSector s r o bs aligned small).trans dirty

/-- A line's bytes, in the order of their places, are stored sector by sector. -/
theorem stored_storeLine (s : State) (r line : Nat) (bs : NMap Byte) (aligned : line % 128 = 0) (small : ∀ e ∈ bs, e.1 < 128)
    (sorted : bs.Pairwise fun a b => a.1 ≤ b.1) : Stored s (State.storeLine s r line bs []) (keyed r line bs) := by
  have sectors : (List.range 4).flatMap (fun i => keyed r (line + 32 * i) ((bs.filter fun e => decide (e.1 / 32 = i)).map fun e => (e.1 % 32, e.2))) =
      keyed r line bs := by
    have parts := flatMap_filter_eq (fun e : Nat × Byte => e.1 / 32) (vs := List.range 4) List.pairwise_lt_range
      (sorted.imp fun h => Nat.div_le_div_right h) (fun e he => List.mem_range.2 (by have := small e he; omega))
    conv_rhs => rw [← parts]
    unfold keyed
    rw [List.map_flatMap]
    refine List.flatMap_congr fun i _ => ?_
    rw [List.map_map]
    refine List.map_congr_left fun e he => ?_
    have := of_decide_eq_true (List.mem_filter.1 he).2
    dsimp only [Function.comp_apply]
    rw [show line + 32 * i + e.1 % 32 = line + e.1 by omega]
  rw [← sectors]
  refine Stored.foldl (fun s i => ?_) _ s
  dsimp only
  split
  · next none_ => rw [List.isEmpty_iff.1 none_]; exact .refl s
  · refine stored_writeHome s r (line + 32 * i) _ (by omega) fun e he => ?_
    obtain ⟨x, -, rfl⟩ := List.mem_map.1 he
    exact Nat.mod_lt _ (by decide)

/-- A line that is there is not brought. -/
theorem stored_bringLine {s : State} {r line : Nat} (held : Holding s r line) (cls : Nat) (tag : Half) {needs : List Nat} (small : ∀ i ∈ needs, i < 4)
    (outcomes : List SectorOutcome) : Stored s (State.bringLine s r line cls tag needs outcomes) [] := by
  have hit : State.holds s r line needs = true := by
    obtain ⟨l, found, full⟩ := held
    unfold State.holds
    rw [found]
    exact List.all_eq_true.2 fun i hi => List.contains_iff_mem.2 (full i (small i hi))
  have counted : Stored s (State.count s .rcHit 0 r 1) [] := ⟨(brought_count ..).wrote, rfl, rfl, rfl, fun _ _ h => h, fun _ _ => rfl⟩
  unfold State.bringLine
  rw [if_pos hit]
  exact counted.trans (stored_touchRegion _ _ _ (fun x => State.hitClass_line ..) fun x i hi => (State.hitClass_valid ..).symm ▸ hi)

/-! ### Host writes -/

theorem mem_linesOf {pa n i : Nat} (hi : i < n) : (pa + i) / 128 * 128 ∈ linesOf pa n := by
  unfold linesOf tabulate
  rw [if_neg (by omega)]
  exact List.mem_map.2 ⟨(pa + i) / 128 - pa / 128, List.mem_range.2 (by omega), by omega⟩

theorem pairwise_linesOf (pa n : Nat) : (linesOf pa n).Pairwise (· < ·) := by
  unfold linesOf tabulate
  split
  · exact .nil
  · exact List.pairwise_map.2 (List.pairwise_lt_range.imp fun h => by omega)

/-- Every line that `n` bytes lie in holds one of them. -/
theorem byte_of_mem_linesOf {pa n line : Nat} (h : line ∈ linesOf pa n) : ∃ i, i < n ∧ (pa + i) / 128 * 128 = line := by
  unfold linesOf tabulate at h
  split at h
  · exact nomatch h
  · obtain ⟨j, hj, rfl⟩ := List.mem_map.1 h
    have := List.mem_range.1 hj
    exact ⟨(pa / 128 + j) * 128 - pa, by omega, by omega⟩

/-- The bytes of a write from `pa` on that lie in a line, by their place in it. -/
def writtenPart (pa : Nat) (bs : List Byte) (line : Nat) : NMap Byte :=
  ((List.range bs.length).filter fun i => decide ((pa + i) / 128 * 128 = line)).map fun i => ((pa + i) % 128, bs.getD i 0)

/-- One line's part of a write without marks (`State.writePhysical`). -/
def State.writeLine (pa : Nat) (bs : List Byte) (cls : Nat) (tag : Half) (outcomes : List SectorOutcome) (s : State) (li : Nat × Nat) : State :=
  let h := homeOf (State.ilv s) li.1
  if h.2.2 && State.regionServes s h.1 then
    State.storeLine (State.bringLine s h.1 h.2.1 cls tag (HomeBody.needs (.store (writtenPart pa bs li.1) [])) (outcomes.drop (4 * li.2))) h.1 h.2.1
      (writtenPart pa bs li.1) []
  else s

/-- A line of physical addresses that is populated and in a region that serves. -/
def ServedLine (s : State) (line : Nat) : Prop :=
  line % 128 = 0 ∧ (homeOf (State.ilv s) line).2.2 = true ∧ State.regionServes s (homeOf (State.ilv s) line).1 = true

/-- A write without marks to populated addresses goes line by line. -/
theorem writePhysical_lines {s : State} {pa : Nat} {bs : List Byte} (served : ∀ l ∈ linesOf pa bs.length, ServedLine s l) (cls : Nat) (tag : Half)
    (outcomes : List SectorOutcome) : State.writePhysical s pa bs (List.replicate bs.length false) cls tag outcomes =
      (linesOf pa bs.length).zipIdx.foldl (State.writeLine pa bs cls tag outcomes) s := by
  have unmarked : ∀ i, (List.replicate bs.length false).getD i false = false := fun i => by simp
  have populated : (linesOf pa bs.length).find? (fun l => !(homeOf (State.ilv s) l).2.2) = none :=
    List.find?_eq_none.2 fun l hl => by simp [(served l hl).2.1]
  unfold State.writePhysical
  dsimp only
  rw [populated]
  simp only [unmarked, List.filter_false, List.map_nil]
  rfl

theorem mem_writtenPart {pa : Nat} {bs : List Byte} {line : Nat} {e : Nat × Byte} (h : e ∈ writtenPart pa bs line) : e.1 < 128 := by
  obtain ⟨i, -, rfl⟩ := List.mem_map.1 h
  exact Nat.mod_lt _ (by decide)

theorem pairwise_writtenPart (pa : Nat) (bs : List Byte) (line : Nat) : (writtenPart pa bs line).Pairwise fun a b => a.1 ≤ b.1 := by
  refine List.pairwise_map.2 (List.Pairwise.imp_of_mem (fun ha hb h => ?_) (List.pairwise_lt_range.filter _))
  have := of_decide_eq_true (List.mem_filter.1 ha).2
  have := of_decide_eq_true (List.mem_filter.1 hb).2
  omega

theorem needs_writtenPart {pa : Nat} {bs : List Byte} {line i : Nat} (h : i ∈ HomeBody.needs (.store (writtenPart pa bs line) [])) : i < 4 := by
  obtain ⟨e, he, rfl⟩ := List.mem_map.1 ((mem_dedupe ..).1 (List.mem_filter.1 h).1)
  have := mem_writtenPart he
  omega

/-- The keys of a line's part of a write. -/
def lineKeys (s : State) (pa : Nat) (bs : List Byte) (line : Nat) : NMap Byte :=
  keyed (homeOf (State.ilv s) line).1 (homeOf (State.ilv s) line).2.1 (writtenPart pa bs line)

section
variable {s : State} {pa : Nat} {bs : List Byte} {cls : Nat} {tag : Half} {outcomes : List SectorOutcome} {li : Nat × Nat}

theorem home_aligned (h : ServedLine s li.1) : (homeOf (State.ilv s) li.1).2.1 % 128 = 0 :=
  (homeOf_line (k := 0) h.1 (by decide) (State.ilv_whole s)).2.2.2

theorem wrote_writeLine (h : ServedLine s li.1) : Wrote s (State.writeLine pa bs cls tag outcomes s li) (lineKeys s pa bs li.1) := by
  obtain ⟨-, populated, serves⟩ := id h
  unfold State.writeLine
  dsimp only
  rw [populated, serves, if_pos (by decide)]
  exact (brought_bringLine ..).wrote.trans (stored_storeLine _ _ _ _ (home_aligned h) (fun _ => mem_writtenPart) (pairwise_writtenPart ..)).toWrote

/-- A line that is there takes its bytes without being brought. -/
theorem stored_writeLine (h : ServedLine s li.1) (held : Holding s (homeOf (State.ilv s) li.1).1 (homeOf (State.ilv s) li.1).2.1) :
    Stored s (State.writeLine pa bs cls tag outcomes s li) (lineKeys s pa bs li.1) := by
  obtain ⟨-, populated, serves⟩ := id h
  unfold State.writeLine
  dsimp only
  rw [populated, serves, if_pos (by decide)]
  exact (stored_bringLine held cls tag (fun _ => needs_writtenPart) _).trans
    (stored_storeLine _ _ _ _ (home_aligned h) (fun _ => mem_writtenPart) (pairwise_writtenPart ..))

theorem Wrote.ilv {s t : State} {l : NMap Byte} (h : Wrote s t l) : State.ilv t = State.ilv s := by rw [h.frame]; rfl

theorem Wrote.servedLine {s t : State} {l : NMap Byte} (h : Wrote s t l) {line : Nat} (served : ServedLine s line) : ServedLine t line := by
  unfold ServedLine
  rw [h.ilv, h.serves]
  exact served

theorem Wrote.lineKeys {s t : State} {l : NMap Byte} (h : Wrote s t l) (pa : Nat) (bs : List Byte) (line : Nat) :
    lineKeys t pa bs line = lineKeys s pa bs line := by
  unfold Machine.lineKeys
  rw [h.ilv]

end

theorem wrote_writeLines {pa : Nat} {bs : List Byte} {cls : Nat} {tag : Half} {outcomes : List SectorOutcome} (ls : List (Nat × Nat)) {s : State}
    (served : ∀ li ∈ ls, ServedLine s li.1) :
    Wrote s (ls.foldl (State.writeLine pa bs cls tag outcomes) s) (ls.flatMap fun li => lineKeys s pa bs li.1) := by
  induction ls generalizing s with
  | nil => exact (Brought.refl s).wrote
  | cons a r ih =>
    have first := wrote_writeLine (pa := pa) (bs := bs) (cls := cls) (tag := tag) (outcomes := outcomes) (served a (List.mem_cons_self ..))
    have rest := ih fun li hli => first.servedLine (served li (List.mem_cons_of_mem _ hli))
    simp only [first.lineKeys] at rest
    exact first.trans rest

theorem stored_writeLines {pa : Nat} {bs : List Byte} {cls : Nat} {tag : Half} {outcomes : List SectorOutcome} (ls : List (Nat × Nat)) {s : State}
    (served : ∀ li ∈ ls, ServedLine s li.1) (held : ∀ li ∈ ls, Holding s (homeOf (State.ilv s) li.1).1 (homeOf (State.ilv s) li.1).2.1) :
    Stored s (ls.foldl (State.writeLine pa bs cls tag outcomes) s) (ls.flatMap fun li => lineKeys s pa bs li.1) := by
  induction ls generalizing s with
  | nil => exact .refl s
  | cons a r ih =>
    have first := stored_writeLine (pa := pa) (bs := bs) (cls := cls) (tag := tag) (outcomes := outcomes) (served a (List.mem_cons_self ..))
      (held a (List.mem_cons_self ..))
    have rest := ih (fun li hli => first.servedLine (served li (List.mem_cons_of_mem _ hli)))
      fun li hli => first.ilv.symm ▸ first.holds _ _ (held li (List.mem_cons_of_mem _ hli))
    simp only [first.lineKeys] at rest
    exact first.trans rest

/-- The parts of the lines, one after the other, are the bytes of the write in their order. -/
theorem lineKeys_linesOf (s : State) (pa : Nat) (bs : List Byte) :
    (linesOf pa bs.length).zipIdx.flatMap (fun li => lineKeys s pa bs li.1) =
      (List.range bs.length).map fun i => (Claims.keyOf s (pa + i), bs.getD i 0) := by
  have parts := flatMap_filter_eq (fun i => (pa + i) / 128 * 128) (pairwise_linesOf pa bs.length) (l := List.range bs.length)
    (List.pairwise_lt_range.imp fun h => by omega) (fun i hi => mem_linesOf (List.mem_range.1 hi))
  conv_rhs => rw [← parts, List.map_flatMap]
  conv_rhs => rw [← List.zipIdx_map_fst 0 (linesOf pa bs.length), List.flatMap_map]
  refine List.flatMap_congr fun li _ => ?_
  unfold lineKeys keyed writtenPart
  rw [List.map_map]
  refine List.map_congr_left fun i hi => ?_
  have here := of_decide_eq_true (List.mem_filter.1 hi).2
  obtain ⟨region, offset, -, -⟩ := homeOf_line (line := li.1) (k := (pa + i) % 128) (by omega) (Nat.mod_lt _ (by decide)) (State.ilv_whole s)
  rw [show li.1 + (pa + i) % 128 = pa + i by omega] at region offset
  unfold Claims.keyOf homeKey
  dsimp only [Function.comp_apply]
  rw [region, offset]

section
variable {s : State} {pa n : Nat}

theorem servedLine_of_accepted (accepted : State.hostRefuses s pa n = false) {l : Nat} (hl : l ∈ linesOf pa n) : ServedLine s l := by
  obtain ⟨i, hi, rfl⟩ := byte_of_mem_linesOf hl
  have byte := List.any_eq_false.1 accepted i (List.mem_range.2 hi)
  obtain ⟨region, -, populated, -⟩ := homeOf_line (line := (pa + i) / 128 * 128) (k := (pa + i) % 128) (by omega) (Nat.mod_lt _ (by decide)) (State.ilv_whole s)
  rw [show (pa + i) / 128 * 128 + (pa + i) % 128 = pa + i by omega] at region populated
  dsimp only at byte
  rw [region, populated] at byte
  refine ⟨by omega, ?_, ?_⟩ <;> simp at byte
  · exact byte.1
  · exact byte.2

/-- A line that is there for each of its bytes stands at its home, and no fill of it is on its way. -/
theorem home_of_lineThere (there : ∀ i, i < n → Claims.lineThere s (pa + i)) {l : Nat} (hl : l ∈ linesOf pa n) :
    State.fillOf s (homeOf (State.ilv s) l).1 (homeOf (State.ilv s) l).2.1 = none ∧ Holding s (homeOf (State.ilv s) l).1 (homeOf (State.ilv s) l).2.1 := by
  obtain ⟨i, hi, rfl⟩ := byte_of_mem_linesOf hl
  obtain ⟨-, -, line⟩ := there i hi
  obtain ⟨region, offset, -, aligned⟩ := homeOf_line (line := (pa + i) / 128 * 128) (k := (pa + i) % 128) (by omega) (Nat.mod_lt _ (by decide)) (State.ilv_whole s)
  rw [show (pa + i) / 128 * 128 + (pa + i) % 128 = pa + i by omega] at region offset
  rw [region, offset] at line
  generalize (homeOf (State.ilv s) ((pa + i) / 128 * 128)).2.1 = o at line aligned
  rw [show (o + (pa + i) % 128) / 128 * 128 = o by omega] at line
  exact line

end

/-- R463: a host write stores its bytes in their order, and only these; lines that are there are not brought. -/
theorem memoryWindowWrite_accepted {s : State} {offset : Nat} {bytes : List Byte} (outs : List SectorOutcome) (ready : State.hostReady s = true)
    (some_ : bytes ≠ []) (inside : offset + bytes.length ≤ 2 ^ s.host.winLog2) {pa : Nat} (hpa : pa = s.host.aperture + offset)
    (accepted : State.hostRefuses s pa bytes.length = false) :
    ∃ t, exec (.memoryWindowWrite offset ⟨bytes, outs⟩) s = .next t ∧ Wrote s t ((List.range bytes.length).map fun i => (Claims.keyOf s (pa + i), bytes.getD i 0)) ∧
      ((∀ i, i < bytes.length → Claims.lineThere s (pa + i)) →
        Stored s t ((List.range bytes.length).map fun i => (Claims.keyOf s (pa + i), bytes.getD i 0))) := by
  have served : ∀ l ∈ linesOf pa bytes.length, ServedLine s l := fun l => servedLine_of_accepted accepted
  have served' : ∀ li ∈ (linesOf pa bytes.length).zipIdx, ServedLine s li.1 := fun li hli => served _ (List.fst_mem_of_mem_zipIdx hli)
  have run : exec (.memoryWindowWrite offset ⟨bytes, outs⟩) s = .next (State.writePhysical s pa bytes (List.replicate bytes.length false) 1 0 outs) := by
    subst hpa
    refine (if_neg ?_).trans (if_neg (by rw [accepted]; exact Bool.false_ne_true))
    rw [ready]
    rintro (h | h | h)
    · exact nomatch h
    · exact absurd inside (Nat.not_le.2 h)
    · exact some_ h
  rw [writePhysical_lines served] at run
  refine ⟨_, run, ?_, fun there => ?_⟩
  · exact lineKeys_linesOf s pa bytes ▸ wrote_writeLines _ served'
  · exact lineKeys_linesOf s pa bytes ▸ stored_writeLines _ served' fun li hli => (home_of_lineThere there (List.fst_mem_of_mem_zipIdx hli)).2

end Sys2Proof.Machine
end

section
/-!
SUPPORT. Host reads: requests for the lines of a read, served one after the other (R462, R463).
-/

namespace Sys2Proof.Machine

/-! ### Lines that are used -/

/-- From `s` to `t` lines that are there have been used: caches and arbiters of regions and counters change. -/
structure Used (s t : State) : Prop where
  frame : t = { s with regions := t.regions, tel := t.tel }
  serves : ∀ r, State.regionServes t r = State.regionServes s r
  txns : ∀ r, (State.region t r).txns = (State.region s r).txns
  holds : ∀ r o, Holding s r o → Holding t r o

theorem Used.trans {s t u : State} (h : Used s t) (k : Used t u) : Used s u :=
  ⟨by rw [k.frame, h.frame], fun r => (k.serves r).trans (h.serves r), fun r => (k.txns r).trans (h.txns r), fun r o held => k.holds r o (h.holds r o held)⟩

theorem Used.of_records {s t : State} (h : OnlyRecords s t) : Used s t := by
  refine ⟨by rw [h], fun r => ?_, fun r => ?_, fun r o held => ?_⟩ <;> rw [h]
  · rfl
  · rfl
  · exact held

theorem used_touchRegion (s : State) (r o : Nat) {f : RegionLine → RegionLine} (line : ∀ x, (f x).line = x.line)
    (valid : ∀ x i, i ∈ x.valid → i ∈ (f x).valid) : Used s (State.touchRegion s r o f) := by
  refine ⟨?_, (brought_touchRegion s r o f).serves, fun k => ?_, fun q p held => held.touchRegion r o line valid⟩
  all_goals unfold State.touchRegion; dsimp only; split
  · rfl
  · rfl
  · rfl
  · exact onlyRegionCache_txns (atCache_setRegionLines ..).2 k

theorem used_useLine (s : State) (r line cls : Nat) (tag : Half) (copyRead : Bool) : Used s (State.useLine s r line cls tag copyRead) := by
  refine used_touchRegion _ _ _ (fun x => ?_) fun x i hi => ?_ <;> split
  · rfl
  · exact State.hitClass_line ..
  · exact hi
  · exact (State.hitClass_valid ..).symm ▸ hi

theorem used_useRead (s : State) (r o : Nat) : Used s (State.useRead s r o) := by
  refine used_touchRegion _ _ _ (fun x => ?_) fun x i hi => ?_ <;> split
  · rfl
  · rfl
  · exact hi
  · exact hi

/-- A grant leaves every line where it is. -/
theorem used_homeGranted (s : State) (id : Nat) (q : HomeRequest) : Used (State.taken s id) (State.taken (State.homeGranted s q) id) := by
  have region : ∀ k, ∃ nw, State.region (State.taken (State.homeGranted s q) id) k = { State.region s k with network := nw } := fun k => by
    show ∃ nw, State.region (State.homeGranted s q) k = _
    unfold State.homeGranted
    rw [State.region_setRegion]
    split
    · next hr => exact ⟨_, by rw [← hr]⟩
    · exact ⟨_, rfl⟩
  refine ⟨rfl, fun k => ?_, fun k => ?_, fun k o held => ?_⟩ <;> obtain ⟨nw, h⟩ := region k
  · unfold State.regionServes; rw [h]; rfl
  · rw [h]; rfl
  · obtain ⟨l, found, full⟩ := held
    refine ⟨l, ?_, full⟩
    rw [← found]
    unfold State.regionLine State.regionLines
    rw [h]
    rfl

/-! ### Sectors of the host's reads -/

/-- The sector that lies at 32-byte place `j` of the physical address space. -/
def sectorAt (s : State) (j : Nat) : SectorData := State.sector s (homeOf (State.ilv s) (32 * j)).1 (homeOf (State.ilv s) (32 * j)).2.1

/-- A sector of a line, by its place. -/
theorem sectorAt_line (s : State) {line i : Nat} (aligned : line % 128 = 0) (hi : i < 4) :
    sectorAt s (line / 32 + i) = State.sector s (homeOf (State.ilv s) line).1 ((homeOf (State.ilv s) line).2.1 + 32 * i) := by
  obtain ⟨region, offset, -, -⟩ := homeOf_line (k := 32 * i) aligned (by omega) (State.ilv_whole s)
  unfold sectorAt
  rw [show 32 * (line / 32 + i) = line + 32 * i by omega, region, offset]

/-- A byte and its mark, in its sector. -/
theorem sectorAt_byte (s : State) (a : Nat) :
    (sectorAt s (a / 32)).bytes.getD (a % 32) 0 = NMap.get s.mem 0 (Claims.keyOf s a) ∧
      (sectorAt s (a / 32)).poison = NMap.get s.memPoison false (Claims.keyOf s a / 32) := by
  obtain ⟨region, offset, -, aligned⟩ := homeOf_line (line := a / 128 * 128) (k := a % 128) (by omega) (Nat.mod_lt _ (by decide)) (State.ilv_whole s)
  rw [show a / 128 * 128 + a % 128 = a by omega] at region offset
  have sector := sectorAt_line s (line := a / 128 * 128) (i := a % 128 / 32) (by omega) (by omega)
  rw [show a / 128 * 128 / 32 + a % 128 / 32 = a / 32 by omega] at sector
  rw [sector]
  unfold Claims.keyOf
  dsimp only
  rw [region, offset]
  generalize (homeOf (State.ilv s) (a / 128 * 128)).1 = r at *
  generalize (homeOf (State.ilv s) (a / 128 * 128)).2.1 = o at *
  refine ⟨?_, ?_⟩
  · rw [State.sector_byte (by omega) (Nat.mod_lt _ (by decide))]
    unfold State.byteAt homeKey
    rw [show o + 32 * (a % 128 / 32) + a % 32 = o + a % 128 by omega]
  · show NMap.get s.memPoison false (homeKey r (o + 32 * (a % 128 / 32)) / 32) = _
    unfold homeKey
    rw [show (r * 2 ^ 39 + (o + 32 * (a % 128 / 32))) / 32 = (r * 2 ^ 39 + (o + a % 128)) / 32 by omega]

/-- Request `q` of the host asks for sectors `secs` of the line at physical address `line`, which is there and has its home in reach. -/
structure Reads (s : State) (line : Nat) (secs : List Nat) (q : HomeRequest) : Prop where
  source : q.source = .host
  body : q.body = .read secs
  region : q.region = (homeOf (State.ilv s) line).1
  offset : q.line = (homeOf (State.ilv s) line).2.1
  stage : q.stage = .home
  joined : q.joined = none
  populated : q.populated = true
  answers : q.answers = some s.nextId
  served : ServedLine s line
  below : line < 2 ^ 43
  held : Holding s (homeOf (State.ilv s) line).1 (homeOf (State.ilv s) line).2.1
  fill : State.fillOf s (homeOf (State.ilv s) line).1 (homeOf (State.ilv s) line).2.1 = none
  small : ∀ i ∈ secs, i < 4

section
variable {s : State} {line : Nat} {secs : List Nat} {q : HomeRequest}

theorem Holding.holds {r o : Nat} (held : Holding s r o) (small : ∀ i ∈ secs, i < 4) : State.holds s r o secs = true := by
  obtain ⟨l, found, full⟩ := held
  unfold State.holds
  rw [found]
  exact List.all_eq_true.2 fun i hi => List.contains_iff_mem.2 (full i (small i hi))

/-- Nothing keeps a request of the host behind another one. -/
theorem inOrder_host (s : State) (id : Nat) (source : q.source = .host) : State.inOrder s id q = true := by
  unfold State.inOrder
  rw [source]
  refine List.all_eq_true.2 fun e _ => ?_
  cases e.2.source <;> simp

theorem Reads.homeWay (h : Reads s line secs q) {u : State} (serves : ∀ r, State.regionServes u r = State.regionServes s r)
    (holds : ∀ r o, Holding s r o → Holding u r o) (queue : u.stackQueue = s.stackQueue) (id : Nat) : State.homeWay u id q = some .hit := by
  obtain ⟨-, -, reach⟩ := h.served
  have fill : State.fillOf u q.region q.line = none := by
    rw [h.region, h.offset, ← h.fill]
    unfold State.fillOf
    rw [queue]
  have hit : State.holds u q.region q.line secs = true := by
    rw [h.region, h.offset]
    exact (holds _ _ h.held).holds h.small
  unfold State.homeWay
  dsimp only
  rw [h.stage, h.joined, inOrder_host u id h.source, h.populated, h.region, serves, reach, ← h.region, h.body, if_neg (by simp), if_neg (by simp),
    show HomeBody.isUnit (.read secs) = false from rfl, if_neg Bool.false_ne_true, fill]
  exact if_pos hit

/-- The sectors that a request brings, by their places in the physical address space. -/
theorem Reads.sectors (h : Reads s line secs q) {u : State} (ilv : State.ilv u = State.ilv s) (sector : ∀ r o, State.sector u r o = State.sector s r o) :
    (∀ e ∈ (State.readLine u q.region q.line secs).map (fun e => (physicalOf (State.ilv u) q.region (q.line + 32 * e.1) / 32, e.2)), e.2 = sectorAt s e.1) ∧
      ∀ i ∈ secs, line / 32 + i ∈
        ((State.readLine u q.region q.line secs).map (fun e => (physicalOf (State.ilv u) q.region (q.line + 32 * e.1) / 32, e.2))).map (·.1) := by
  obtain ⟨aligned, populated, -⟩ := h.served
  have place : ∀ i, i ∈ secs → physicalOf (State.ilv u) q.region (q.line + 32 * i) / 32 = line / 32 + i := fun i hi => by
    have small := h.small i hi
    have below := h.below
    obtain ⟨region, offset, there, -⟩ := homeOf_line (k := 32 * i) aligned (by omega) (State.ilv_whole s)
    have back := physicalOf_homeOf (ilv := State.ilv s) (pa := line + 32 * i) (by omega) (there.trans populated)
    rw [region, offset] at back
    rw [ilv, h.region, h.offset, back]
    omega
  have mem : ∀ i, i ∈ (State.readLine u q.region q.line secs).map (·.1) ↔ i ∈ secs := State.mem_readLine_keys u q.region q.line secs
  constructor
  · intro e he
    obtain ⟨x, hx, rfl⟩ := List.mem_map.1 he
    have hi := (mem x.1).1 (List.mem_map_of_mem hx)
    dsimp only
    rw [place _ hi, sectorAt_line s aligned (h.small _ hi), NMap.mem_insertAll (f := fun i => State.sector u q.region (q.line + 32 * i)) secs x hx,
      sector, h.region, h.offset]
  · intro i hi
    obtain ⟨x, hx, rfl⟩ := List.mem_map.1 ((mem i).2 hi)
    exact List.mem_map.2 ⟨_, List.mem_map_of_mem hx, place _ hi⟩

end

/-! ### The lines of a read are served one after the other -/

/-- The first entry of a map is gone. -/
theorem NMap.erase_first {V : Type} {k : Nat} {v : V} {m : NMap V} (rising : ((k, v) :: m).Pairwise fun a b => a.1 < b.1) : NMap.erase ((k, v) :: m) k = m := by
  obtain ⟨above, -⟩ := List.pairwise_cons.1 rising
  have low : NMap.below ((k, v) :: m) k = [] := List.filter_eq_nil_iff.2 fun e he => by
    rcases List.mem_cons.1 he with rfl | he
    · simp
    · have := above e he
      simp only [decide_eq_true_eq]
      omega
  have high : NMap.above ((k, v) :: m) k = m := by
    unfold NMap.above
    rw [List.filter_cons_of_neg (by simp)]
    exact List.filter_eq_self.2 fun e he => decide_eq_true (above e he)
  unfold NMap.erase
  rw [low, high]
  rfl

/-- The transfer of a host's read of `size` bytes from `base` on. -/
def hostTransfer (base size : Nat) (waits : List Nat) (data : NMap SectorData) : Transfer :=
  { source := .host, base := base, size := size, reads := true, granule := 0, waits := waits, data := data }

/-- What a host's read answers with (R466). -/
def hostCompletion (base size : Nat) (data : NMap SectorData) : Output :=
  .completion (tabulate size fun i => (gathered data (base + i)).1) ((List.range size).any fun i => (gathered data (base + i)).2)

/-- From `s` the host's read has come to wait for the requests `rest`, with the sectors `data` so far. -/
structure Reading (s u : State) (base size : Nat) (rest : NMap HomeRequest) (data : NMap SectorData) : Prop where
  frame : u = { s with regions := u.regions, tel := u.tel, homeQueue := rest, transfers := u.transfers, nextId := u.nextId }
  serves : ∀ r, State.regionServes u r = State.regionServes s r
  txns : ∀ r, (State.region u r).txns = (State.region s r).txns
  holds : ∀ r o, Holding s r o → Holding u r o
  transfer : NMap.find u.transfers s.nextId = some (hostTransfer base size (rest.map (·.1)) data)
  others : ∀ j, j ≠ s.nextId → NMap.find u.transfers j = NMap.find s.transfers j
  rising : rest.Pairwise fun a b => a.1 < b.1
  reads : ∀ e ∈ rest, ∃ line secs, Reads s line secs e.2

/-- From `s` the host's read has been completed with the sectors `data`. -/
structure ReadDone (s t : State) (base size : Nat) (data : NMap SectorData) : Prop where
  frame : t = { s with regions := t.regions, tel := t.tel, out := s.out ++ [hostCompletion base size data], homeQueue := [], transfers := t.transfers, nextId := t.nextId }
  txns : ∀ r, (State.region t r).txns = (State.region s r).txns
  others : ∀ j, j ≠ s.nextId → NMap.find t.transfers j = NMap.find s.transfers j

/-- The sectors of `data` are those of `m`, and those that a request brings. -/
def BringsSectors (s : State) (m data : NMap SectorData) (q : HomeRequest) : Prop :=
  (∀ j, NMap.find m j = some (sectorAt s j) → NMap.find data j = some (sectorAt s j)) ∧
    ∀ line secs, Reads s line secs q → ∀ i ∈ secs, NMap.find data (line / 32 + i) = some (sectorAt s (line / 32 + i))

section
variable {s u : State} {base size id : Nat} {q : HomeRequest} {rest : NMap HomeRequest} {m : NMap SectorData}

theorem Reading.stackQueue (h : Reading s u base size rest m) : u.stackQueue = s.stackQueue := by rw [h.frame]
theorem Reading.ilv (h : Reading s u base size rest m) : State.ilv u = State.ilv s := by rw [h.frame]; rfl
theorem Reading.sector (h : Reading s u base size rest m) (r o : Nat) : State.sector u r o = State.sector s r o := by rw [h.frame]; rfl

theorem Reading.way (h : Reading s u base size rest m) {e : Nat × HomeRequest} (he : e ∈ rest) : State.homeWay u e.1 e.2 = some .hit := by
  obtain ⟨line, secs, reads⟩ := h.reads e he
  exact reads.homeWay h.serves h.holds h.stackQueue e.1

/-- The oldest of the read's requests has its turn: no other class waits. -/
theorem Reading.turn (h : Reading s u base size ((id, q) :: rest) m) : State.homeTurn u id q = true := by
  have queue : u.homeQueue = (id, q) :: rest := by rw [h.frame]
  have rank : ∀ e ∈ (id, q) :: rest, TrafficClass.rank (HomeSource.cls e.2.source) = 0 := fun e he => by
    obtain ⟨line, secs, reads⟩ := h.reads e he
    rw [reads.source]
    rfl
  have first := rank _ (List.mem_cons_self ..)
  obtain ⟨above, -⟩ := List.pairwise_cons.1 h.rising
  unfold State.homeTurn
  dsimp only
  rw [queue]
  generalize hh : ((id, q) :: rest).filter (fun e => decide (e.2.region = q.region) && (State.homeWay u e.1 e.2).isSome) = here
  have mem : ∀ e ∈ here, e ∈ (id, q) :: rest := fun e he => (List.mem_filter.1 (hh ▸ he)).1
  have self : (id, q) ∈ here := hh ▸ List.mem_filter.2 ⟨List.mem_cons_self .., by simp [h.way (List.mem_cons_self ..)]⟩
  have waiting : (classOrder.map TrafficClass.rank).filter (fun n => here.any fun e => decide (TrafficClass.rank (HomeSource.cls e.2.source) = n)) = [0] := by
    have any : (fun n => here.any fun e => decide (TrafficClass.rank (HomeSource.cls e.2.source) = n)) = fun n => decide (n = 0) := by
      funext n
      rw [Bool.eq_iff_iff, List.any_eq_true, decide_eq_true_eq]
      exact ⟨fun ⟨e, he, hn⟩ => (of_decide_eq_true hn).symm.trans (rank e (mem e he)), fun hn => ⟨_, self, decide_eq_true (first.trans hn.symm)⟩⟩
    rw [any]
    rfl
  rw [waiting, arbitrate_single]
  refine Bool.and_eq_true_iff.2 ⟨decide_eq_true (congrArg some first.symm), List.all_eq_true.2 fun e he => decide_eq_true (.inr ?_)⟩
  rcases List.mem_cons.1 (mem e he) with rfl | later
  · exact Nat.le_refl _
  · exact (above e later).le

/-- The line is used and the request gone. -/
theorem takeHome_reads (u : State) (id : Nat) {line : Nat} {secs : List Nat} (reads : Reads s line secs q) :
    ∃ w, State.takeHome (State.homeGranted u q) id q .hit = State.transferLine w s.nextId id
        ((State.readLine w q.region q.line secs).map fun e => (physicalOf (State.ilv w) q.region (q.line + 32 * e.1) / 32, e.2)) ∧
      Used (State.taken u id) w := by
  let v := State.useLine (State.count (State.taken (State.homeGranted u q) id) .rcHit 0 q.region 1) q.region q.line q.cls q.tag
    (HomeSource.copies q.source && HomeBody.isRead q.body)
  have used : Used (State.taken u id) v := ((used_homeGranted u id q).trans (.of_records (onlyRecords_count ..))).trans (used_useLine ..)
  have read := used_useRead v q.region q.line
  refine ⟨State.useRead v q.region q.line, ?_, used.trans read⟩
  have take : State.takeHome (State.homeGranted u q) id q .hit = State.perform v id q := rfl
  have same : State.readLine (State.useRead v q.region q.line) q.region q.line secs = State.readLine v q.region q.line secs := by
    rw [read.frame]; rfl
  rw [take, same]
  unfold State.perform
  rw [reads.body]
  dsimp only
  rw [reads.source, show (HomeSource.copies .host || decide (HomeSource.host = .host)) = true from rfl, if_pos rfl]
  dsimp only
  unfold State.answerSectors
  rw [reads.source, reads.answers]
  rfl

/-- A request's sectors join those that have come, and the last one completes the read. -/
theorem transferLine_host {w : State} (found : NMap.find w.transfers s.nextId = some (hostTransfer base size (id :: rest.map (·.1)) m))
    (sectors : NMap SectorData) : State.transferLine w s.nextId id sectors =
      if rest = [] then
        State.emit { w with transfers := NMap.erase w.transfers s.nextId } (hostCompletion base size (sectors.foldl (fun m d => NMap.insert m d.1 d.2) m))
      else { w with
        transfers := NMap.insert w.transfers s.nextId (hostTransfer base size (rest.map (·.1)) (sectors.foldl (fun m d => NMap.insert m d.1 d.2) m)) } := by
  unfold State.transferLine
  rw [found]
  unfold hostTransfer
  dsimp only
  rw [List.erase_cons_head]
  cases rest <;> rfl

/-- One request of the read is served. -/
theorem Reading.step (h : Reading s u base size ((id, q) :: rest) m) (moves : Claims.nothingMoves s) :
    ∃ data, BringsSectors s m data q ∧ (rest = [] → ReadDone s (State.homeRequest u id) base size data) ∧
      (rest ≠ [] → Reading s (State.homeRequest u id) base size rest data) := by
  obtain ⟨line, secs, reads⟩ := h.reads _ (List.mem_cons_self ..)
  obtain ⟨w, take, used⟩ := takeHome_reads u id reads
  have ilv : State.ilv w = State.ilv s := by rw [used.frame]; exact h.ilv
  have sector : ∀ r o, State.sector w r o = State.sector s r o := fun r o => by rw [used.frame]; exact h.sector r o
  have agree := (reads.sectors ilv sector).1
  have brings : ∀ line' secs', Reads s line' secs' q → ∀ i ∈ secs', line' / 32 + i ∈
      ((State.readLine w q.region q.line secs).map (fun e => (physicalOf (State.ilv w) q.region (q.line + 32 * e.1) / 32, e.2))).map (·.1) :=
    fun line' secs' reads' => by
      obtain rfl : secs = secs' := HomeBody.read.inj (reads.body.symm.trans reads'.body)
      exact (reads'.sectors ilv sector).2
  have queue : u.homeQueue = (id, q) :: rest := by rw [h.frame]
  have waiting : w.homeQueue = rest := by
    rw [used.frame]
    show NMap.erase u.homeQueue id = rest
    rw [queue, NMap.erase_first h.rising]
  have transfers : w.transfers = u.transfers := by rw [used.frame]; rfl
  have frame : w = { s with regions := w.regions, tel := w.tel, homeQueue := rest, transfers := u.transfers, nextId := u.nextId } := by
    rw [← waiting, used.frame, h.frame]; rfl
  generalize hl : (State.readLine w q.region q.line secs).map (fun e => (physicalOf (State.ilv w) q.region (q.line + 32 * e.1) / 32, e.2)) = sectors
    at take agree brings
  have line_ := transferLine_host (rest := rest) (transfers ▸ h.transfer) sectors
  have request : State.homeRequest u id = State.moveOn (State.transferLine w s.nextId id sectors) (fun _ => true) := by
    unfold State.homeRequest
    rw [queue, show NMap.find ((id, q) :: rest) id = some q from if_pos rfl]
    dsimp only
    rw [h.way (List.mem_cons_self ..)]
    dsimp only
    rw [if_pos h.turn, take]
  have home : ∀ e ∈ rest, e.2.stage = .home := fun e he => by
    obtain ⟨line, secs, reads⟩ := h.reads e (List.mem_cons_of_mem _ he)
    exact reads.stage
  have found := NMap.find_insertAll sectors agree m
  refine ⟨sectors.foldl (fun m d => NMap.insert m d.1 d.2) m, ⟨fun j hj => ?_, fun line' secs' reads' i hi => ?_⟩, fun last => ?_, fun more => ?_⟩
  · rw [found]
    split
    · rfl
    · exact hj
  · exact (found _).trans (if_pos (brings line' secs' reads' i hi))
  · subst last
    generalize sectors.foldl (fun m d => NMap.insert m d.1 d.2) m = data at *
    have rest_ : Claims.nothingMoves (State.emit { w with transfers := NMap.erase w.transfers s.nextId } (hostCompletion base size data)) :=
      nothingMoves_of moves (fun e he => nomatch (waiting ▸ he : e ∈ ([] : NMap HomeRequest))) fun c => by rw [frame]; exact ⟨rfl, rfl⟩
    rw [request, line_, if_pos rfl, State.moveOn_none rest_]
    refine ⟨by rw [frame]; rfl, fun r => (used.txns r).trans (h.txns r), fun j hj => ?_⟩
    show NMap.find (NMap.erase w.transfers s.nextId) j = _
    rw [NMap.find_erase, if_neg (Ne.symm hj), transfers, h.others j hj]
  · generalize sectors.foldl (fun m d => NMap.insert m d.1 d.2) m = data at *
    have rest_ : Claims.nothingMoves { w with transfers := NMap.insert w.transfers s.nextId (hostTransfer base size (rest.map (·.1)) data) } :=
      nothingMoves_of moves (fun e he => .inl (home e (waiting ▸ he))) fun c => by rw [frame]; exact ⟨rfl, rfl⟩
    rw [request, line_, if_neg more, State.moveOn_none rest_]
    exact {
      frame := by rw [frame]
      serves := fun r => (used.serves r).trans (h.serves r)
      txns := fun r => (used.txns r).trans (h.txns r)
      holds := fun r o held => used.holds r o (h.holds r o held)
      transfer := by rw [NMap.find_insert, if_pos rfl]
      others := fun j hj => by rw [NMap.find_insert, if_neg (Ne.symm hj), transfers, h.others j hj]
      rising := (List.pairwise_cons.1 h.rising).2
      reads := fun e he => h.reads e (List.mem_cons_of_mem _ he) }

end

/-! ### A host's read -/

section
variable {s : State} {m d e : NMap SectorData} {q : HomeRequest}

theorem BringsSectors.later (h : BringsSectors s m d q) (keep : ∀ j, NMap.find d j = some (sectorAt s j) → NMap.find e j = some (sectorAt s j)) :
    BringsSectors s m e q :=
  ⟨fun j hj => keep j (h.1 j hj), fun line secs reads i hi => keep _ (h.2 line secs reads i hi)⟩

end

/-- All requests of the read are served, in their order. -/
theorem Reading.all {s : State} {base size : Nat} (moves : Claims.nothingMoves s) {rest : NMap HomeRequest} (some_ : rest ≠ []) :
    ∀ {u : State} {m : NMap SectorData}, Reading s u base size rest m →
      ∃ data, (∀ e ∈ rest, BringsSectors s m data e.2) ∧ ReadDone s ((rest.map (·.1)).foldl State.homeRequest u) base size data := by
  induction rest with
  | nil => exact absurd rfl some_
  | cons a rest ih =>
    intro u m h
    obtain ⟨d, first, last, more⟩ := h.step moves
    by_cases none_ : rest = []
    · subst none_
      exact ⟨d, fun e he => List.mem_singleton.1 he ▸ first, last rfl⟩
    · obtain ⟨data, others, done⟩ := ih none_ (more none_)
      obtain ⟨e, he⟩ := List.exists_mem_of_ne_nil _ none_
      refine ⟨data, fun x hx => ?_, done⟩
      rcases List.mem_cons.1 hx with rfl | hx
      · exact first.later (others e he).1
      · exact ⟨fun j hj => (others x hx).1 j (first.1 j hj), (others x hx).2⟩

/-- Entries inserted in the order of their keys, above all that are there. -/
theorem NMap.foldl_insert_rising {V : Type} (l : NMap V) : ∀ {m : NMap V}, (∀ a ∈ m, ∀ b ∈ l, a.1 < b.1) → l.Pairwise (fun a b => a.1 < b.1) →
    l.foldl (fun m e => NMap.insert m e.1 e.2) m = m ++ l := by
  induction l with
  | nil => exact fun _ _ => (List.append_nil _).symm
  | cons x l ih =>
    intro m above rising
    obtain ⟨first, rest⟩ := List.pairwise_cons.1 rising
    have put : NMap.insert m x.1 x.2 = m ++ [x] := by
      have low : NMap.below m x.1 = m := List.filter_eq_self.2 fun a ha => decide_eq_true (above a ha x (List.mem_cons_self ..))
      have high : NMap.above m x.1 = [] := List.filter_eq_nil_iff.2 fun a ha => by
        have := above a ha x (List.mem_cons_self ..)
        simp only [decide_eq_true_eq]
        omega
      unfold NMap.insert
      rw [low, high]
    rw [List.foldl_cons, put, ih (fun a ha b hb => ?_) rest, List.append_assoc, List.singleton_append]
    rcases List.mem_append.1 ha with ha | ha
    · exact above a ha b (List.mem_cons_of_mem _ hb)
    · exact List.mem_singleton.1 ha ▸ first b hb

/-- The request for the `i`th part of a host's read (`State.sendLines`). -/
def hostRequest (s : State) (p : Nat × HomeBody) (i : Nat) : HomeRequest :=
  { source := .host, region := (homeOf (State.ilv s) p.1).1, line := (homeOf (State.ilv s) p.1).2.1 / 128 * 128, body := p.2, scope := 5, cls := 1, tag := 0
    uses := none, answers := some s.nextId, stage := .home, after := [], populated := (homeOf (State.ilv s) p.1).2.2, begins := decide (i = 0), joined := none }

def hostRequests (s : State) (parts : List (Nat × HomeBody)) : NMap HomeRequest :=
  parts.zipIdx.map fun pi => (s.nextId + 1 + pi.2, hostRequest s pi.1 pi.2)

theorem hostRequests_keys (s : State) (parts : List (Nat × HomeBody)) :
    (hostRequests s parts).map (·.1) = (List.range parts.length).map fun i => s.nextId + 1 + i := by
  rw [List.range_eq_range', ← List.zipIdx_map_snd 0 parts, List.map_map]
  unfold hostRequests
  rw [List.map_map]
  rfl

theorem pairwise_hostRequests (s : State) (parts : List (Nat × HomeBody)) : (hostRequests s parts).Pairwise fun a b => a.1 < b.1 := by
  rw [← List.pairwise_map (f := fun e : Nat × HomeRequest => e.1), hostRequests_keys]
  exact List.pairwise_map.2 (List.pairwise_lt_range.imp fun h => by omega)

/-- The parts of a host's read, sent to a queue that is empty. -/
theorem sendLines_host {s : State} {pa len : Nat} {parts : List (Nat × HomeBody)} (idle : s.homeQueue = []) (some_ : parts ≠ []) :
    State.sendLines s (hostTransfer pa len [] []) 1 0 none parts = ((hostRequests s parts).map (·.1)).foldl State.homeRequest
      { s with
        transfers := NMap.insert s.transfers s.nextId (hostTransfer pa len ((hostRequests s parts).map (·.1)) [])
        homeQueue := hostRequests s parts
        nextId := s.nextId + 1 + parts.length } := by
  have queue : (hostRequests s parts).foldl (fun m e => NMap.insert m e.1 e.2) s.homeQueue = hostRequests s parts := by
    rw [idle, NMap.foldl_insert_rising (m := []) _ (fun _ ha => absurd ha List.not_mem_nil) (pairwise_hostRequests s parts), List.nil_append]
  have more : parts.isEmpty = false := by rw [Bool.eq_false_iff]; exact fun h => some_ (List.isEmpty_iff.1 h)
  rw [hostRequests_keys]
  conv_rhs => rw [← queue]
  unfold State.sendLines
  dsimp only
  rw [more, if_neg Bool.false_ne_true]
  rfl

/-- The sectors of the line at `line` that hold one of `len` bytes from `pa` on (`readParts`). -/
def readSectors (pa len line : Nat) : List Nat :=
  (List.range 4).filter fun i => (List.range 32).any fun k =>
    decide (pa ≤ line + 32 * i + k ∧ line + 32 * i + k < pa + len) && (2 ^ len - 1).testBit (line + 32 * i + k - pa)

theorem mem_readParts {pa len : Nat} {p : Nat × HomeBody} (h : p ∈ readParts pa len (2 ^ len - 1)) : p.1 ∈ linesOf pa len ∧ p.2 = .read (readSectors pa len p.1) := by
  obtain ⟨l, hl, hp⟩ := List.mem_filterMap.1 h
  dsimp only at hp
  split at hp
  · exact nomatch hp
  · cases hp
    exact ⟨hl, rfl⟩

/-- Every byte lies in a sector that is read. -/
theorem byte_readParts {pa len i : Nat} (hi : i < len) :
    ((pa + i) / 128 * 128, .read (readSectors pa len ((pa + i) / 128 * 128))) ∈ readParts pa len (2 ^ len - 1) ∧
      (pa + i) % 128 / 32 ∈ readSectors pa len ((pa + i) / 128 * 128) := by
  have sector : (pa + i) % 128 / 32 ∈ readSectors pa len ((pa + i) / 128 * 128) := by
    refine List.mem_filter.2 ⟨List.mem_range.2 (by omega), List.any_eq_true.2 ⟨(pa + i) % 32, List.mem_range.2 (by omega), ?_⟩⟩
    rw [show (pa + i) / 128 * 128 + 32 * ((pa + i) % 128 / 32) + (pa + i) % 32 = pa + i by omega, Nat.add_sub_cancel_left, Nat.testBit_two_pow_sub_one]
    simp only [Bool.and_eq_true, decide_eq_true_eq]
    omega
  refine ⟨List.mem_filterMap.2 ⟨_, mem_linesOf hi, if_neg fun h => ?_⟩, sector⟩
  exact nomatch (List.isEmpty_iff.1 h ▸ sector : (pa + i) % 128 / 32 ∈ ([] : List Nat))

section
variable {s : State} {pa len : Nat}

/-- Each part of the read asks for sectors of a line that is there. -/
theorem reads_hostRequest (range : pa + len ≤ 2 ^ 43) (accepted : State.hostRefuses s pa len = false) (there : ∀ i, i < len → Claims.lineThere s (pa + i))
    {p : Nat × HomeBody} (hp : p ∈ readParts pa len (2 ^ len - 1)) (i : Nat) : Reads s p.1 (readSectors pa len p.1) (hostRequest s p i) := by
  obtain ⟨line, body⟩ := mem_readParts hp
  obtain ⟨fill, held⟩ := home_of_lineThere there line
  have served := servedLine_of_accepted accepted line
  have aligned := (homeOf_line (k := 0) served.1 (by decide) (State.ilv_whole s)).2.2.2
  obtain ⟨j, hj, place⟩ := byte_of_mem_linesOf line
  exact {
    source := rfl
    body := body
    region := rfl
    offset := show _ / 128 * 128 = _ by omega
    stage := rfl
    joined := rfl
    populated := served.2.1
    answers := rfl
    served := served
    below := by omega
    held := held
    fill := fill
    small := fun k hk => List.mem_range.1 (List.mem_filter.1 hk).1 }

/-- What the read answers with is what stands at its addresses. -/
theorem hostCompletion_eq {data : NMap SectorData} (h : ∀ i, i < len → NMap.find data ((pa + i) / 32) = some (sectorAt s ((pa + i) / 32))) :
    hostCompletion pa len data = .completion (tabulate len fun i => NMap.get s.mem 0 (Claims.keyOf s (pa + i)))
      ((List.range len).any fun i => NMap.get s.memPoison false (Claims.keyOf s (pa + i) / 32)) := by
  have byte : ∀ i, i < len → gathered data (pa + i) = (NMap.get s.mem 0 (Claims.keyOf s (pa + i)), NMap.get s.memPoison false (Claims.keyOf s (pa + i) / 32)) :=
    fun i hi => by
      obtain ⟨value, mark⟩ := sectorAt_byte s (pa + i)
      unfold gathered
      rw [h i hi]
      exact Prod.ext value mark
  have marks : (List.range len).any (fun i => (gathered data (pa + i)).2) = (List.range len).any fun i => NMap.get s.memPoison false (Claims.keyOf s (pa + i) / 32) := by
    rw [Bool.eq_iff_iff, List.any_eq_true, List.any_eq_true]
    exact exists_congr fun i => and_congr_right fun hi => by rw [byte i (List.mem_range.1 hi)]
  unfold hostCompletion
  rw [marks, tabulate_congr fun i hi => congrArg Prod.fst (byte i hi)]

/-- R42, R462, R463: a read of populated addresses whose lines are there completes with the bytes and their marks. -/
theorem memoryWindowRead_accepted {offset : Nat} (ready : State.hostReady s = true) (some_ : 0 < len) (inside : offset + len ≤ 2 ^ s.host.winLog2)
    (hpa : pa = s.host.aperture + offset) (accepted : State.hostRefuses s pa len = false) (range : pa + len ≤ 2 ^ 43) (idle : Claims.homesIdle s)
    (settled : Claims.allSettled s) (there : ∀ i, i < len → Claims.lineThere s (pa + i)) :
    ∃ t, exec (.memoryWindowRead offset len) s = .next t ∧
      t = { s with regions := t.regions, tel := t.tel, out := t.out, transfers := t.transfers, nextId := t.nextId } ∧
      (∀ j, j < s.nextId → NMap.find t.transfers j = NMap.find s.transfers j) ∧
      t.out = s.out ++ [.completion (tabulate len fun i => NMap.get s.mem 0 (Claims.keyOf s (pa + i)))
        ((List.range len).any fun i => NMap.get s.memPoison false (Claims.keyOf s (pa + i) / 32))] := by
  obtain ⟨empty, moves, -⟩ := idle
  obtain ⟨firstPart, -⟩ := byte_readParts (pa := pa) some_
  have parts : readParts pa len (2 ^ len - 1) ≠ [] := List.ne_nil_of_mem firstPart
  have requests : hostRequests s (readParts pa len (2 ^ len - 1)) ≠ [] := by
    unfold hostRequests
    exact fun h => parts (by simpa using h)
  have send := sendLines_host (pa := pa) (len := len) empty parts
  have start : Reading s { s with
      transfers := NMap.insert s.transfers s.nextId (hostTransfer pa len ((hostRequests s (readParts pa len (2 ^ len - 1))).map (·.1)) [])
      homeQueue := hostRequests s (readParts pa len (2 ^ len - 1))
      nextId := s.nextId + 1 + (readParts pa len (2 ^ len - 1)).length } pa len (hostRequests s (readParts pa len (2 ^ len - 1))) [] := {
    frame := rfl
    serves := fun _ => rfl
    txns := fun _ => rfl
    holds := fun _ _ held => held
    transfer := by rw [NMap.find_insert, if_pos rfl]
    others := fun j hj => by rw [NMap.find_insert, if_neg (Ne.symm hj)]
    rising := pairwise_hostRequests ..
    reads := fun e he => by
      obtain ⟨⟨p, i⟩, hp, rfl⟩ := List.mem_map.1 he
      exact ⟨_, _, reads_hostRequest range accepted there (List.fst_mem_of_mem_zipIdx hp) i⟩ }
  obtain ⟨data, brings, done⟩ := start.all moves requests
  rw [← send] at done
  have run : exec (.memoryWindowRead offset len) s =
      .next (State.settleAll (State.sendLines s (hostTransfer pa len [] []) 1 0 none (readParts pa len (2 ^ len - 1)))) := by
    subst hpa
    refine (if_neg ?_).trans (if_neg (by rw [accepted]; exact Bool.false_ne_true))
    rw [ready]
    rintro (h | h | h)
    · exact nomatch h
    · omega
    · omega
  generalize State.sendLines s (hostTransfer pa len [] []) 1 0 none (readParts pa len (2 ^ len - 1)) = t at done run
  rw [State.settleAll_none (allSettled_of settled done.txns (by rw [done.frame]))] at run
  refine ⟨t, run, ?_, fun j hj => done.others j (Nat.ne_of_lt hj), ?_⟩
  · conv_lhs => rw [done.frame]
    rw [done.frame, empty]
  · rw [done.frame, ← hostCompletion_eq fun i hi => ?_]
    obtain ⟨part, sector⟩ := byte_readParts (pa := pa) hi
    obtain ⟨k, hk, same⟩ := List.mem_iff_getElem.1 part
    have request : (s.nextId + 1 + k, hostRequest s ((pa + i) / 128 * 128, .read (readSectors pa len ((pa + i) / 128 * 128))) k) ∈
        hostRequests s (readParts pa len (2 ^ len - 1)) :=
      List.mem_map.2 ⟨(_, k), List.mem_zipIdx_iff_getElem?.2 (by rw [List.getElem?_eq_getElem hk, same]), rfl⟩
    have found := (brings _ request).2 _ _ (reads_hostRequest range accepted there part k) _ sector
    rwa [show (pa + i) / 128 * 128 / 32 + (pa + i) % 128 / 32 = (pa + i) / 32 by omega] at found

end

end Sys2Proof.Machine
end

section
open Sys2Proof Sys2Proof.Machine

/-- Settles O43: the window's reads from the requests of their lines, its writes from the order of their bytes, and the rest clause by clause. -/
theorem hostWindows : Obligations.HostWindows := by
  unfold Obligations.HostWindows
  refine ⟨fun s offset len ready some_ inside => ⟨fun accepted range idle settled there => ?_, memoryWindowRead_refused ready some_ inside⟩,
    fun s offset bytes outs ready some_ inside => ⟨fun accepted => ?_, memoryWindowWrite_refused outs ready some_ inside⟩,
    fun s offset len isWrite serves not4 not8 => exec_controlWindowBadAccess serves not4 not8 isWrite, pcieResets, fun s r boot => if_pos boot,
    fun s on n o ready => configurationRequests ready on n o, statusRewrites, bakerRestarts,
    fun s r p monitors temp hr on length small there least => paceIntervals temp hr on length small there least⟩
  · exact memoryWindowRead_accepted ready some_ inside rfl accepted range idle settled there
  · obtain ⟨t, run, wrote, stored⟩ := memoryWindowWrite_accepted outs ready some_ inside rfl accepted
    refine ⟨t, run, wrote.frame, fun k => ?_, fun there => ?_⟩
    · rw [wrote.mem, get_putBytes_range]
      cases (List.range bytes.length).reverse.find? fun i => decide (Claims.keyOf s (s.host.aperture + offset + i) = k) <;> rfl
    · have kept := stored there
      exact ⟨kept.banks, kept.stackQueue, kept.nextId, fun k far => kept.poison k fun e he => by
        obtain ⟨i, hi, rfl⟩ := List.mem_map.1 he
        exact far i (List.mem_range.1 hi)⟩

end

section
/-!
SUPPORT. Register-form instructions that write whole registers: operands below their width, registers after a write, and the moves, selects and
pairs of O8 (R69, R86, R102, R104).
-/

namespace Sys2Proof.Machine

/-! ### Operands by width -/

/-- A 64-bit operand is below 2^64. -/
theorem operand64_lt (g : Group) (n : Nat) (u : Bool) (l : Nat) : Group.operand g .r64 n u l < 2 ^ 64 := by
  simp only [Group.operand, OperandKind.isUni, OperandKind.wide, Group.uniPair]
  have uniLow := Group.uni_lt g (n % 64)
  have uniHigh := Group.uni_lt g (n % 64 + 1)
  have laneLow := Group.lane_lt g n l
  have laneHigh := Group.lane_lt g (n + 1) l
  cases u <;> simp <;> omega

/-- Operand A of a 32-bit shape is below 2^32. -/
theorem readOperands_a_lt {sh : Shape} (ha : sh.a = .r32) (g : Group) (f : RegForm) (l : Nat) : (readOperands sh g f).a l < 2 ^ 32 := by
  unfold readOperands
  rw [ha]
  exact operand32_lt _ _ _ _ _ (.inl rfl)

theorem bit1_iff (b : BitVec 1) : bit1 b = true ↔ b = 1 := decide_eq_true_iff

/-- Operand B: the first extension word where it is an immediate, else its register. -/
theorem readOperands_b (sh : Shape) (g : Group) (f : RegForm) (l : Nat) : (readOperands sh g f).b l =
    if f.ib = 1 then (if OperandKind.wide sh.b = true then f.x1.toNat else f.x1.toNat % 2 ^ 32) else Group.operand g sh.b f.sb.toNat (bit1 f.ub) l := by
  unfold readOperands
  by_cases ib : f.ib = 1 <;> simp only [bit1_iff, ib, if_true, if_false]

/-- Operand B of a 32-bit shape, a register or an immediate, is below 2^32. -/
theorem readOperands_b_lt {sh : Shape} (hb : sh.b = .r32) (g : Group) (f : RegForm) (l : Nat) : (readOperands sh g f).b l < 2 ^ 32 := by
  rw [readOperands_b, hb]
  split
  · exact Nat.mod_lt f.x1.toNat (by decide)
  · exact operand32_lt _ _ _ _ _ (.inl rfl)

/-- Operand B of a wide shape, a pair or an immediate, is below 2^64. -/
theorem readOperands_b_lt64 {sh : Shape} (hb : sh.b = .r64) (g : Group) (f : RegForm) (l : Nat) : (readOperands sh g f).b l < 2 ^ 64 := by
  rw [readOperands_b, hb]
  split
  · exact f.x1.isLt
  · exact operand64_lt ..

/-! ### Registers after a write -/

/-- A lane of the register written (R102). -/
theorem Group.lane_write_same (g : Group) (n ex : Nat) (v : Nat → Nat) (poison : Nat) (src : DWord) {l : Nat} (hl : l < 32) :
    Group.lane (Group.write g n ex v poison src) n l = if ex.testBit l = true then v l % 2 ^ 32 else Group.lane g n l := by
  rw [Group.lane_write g n ex v poison src n l hl]
  simp only [true_and]

/-- A poison mark of the register written (R86). -/
theorem Group.poisonOf_write_same (g : Group) (n ex : Nat) (v : Nat → Nat) (poison : Nat) (src : DWord) {l : Nat} (hl : l < 32) :
    (Group.poisonOf (Group.write g n ex v poison src) n).testBit l = if ex.testBit l = true then poison.testBit l else (Group.poisonOf g n).testBit l := by
  rw [Group.poisonOf_write g n ex v poison src n l hl]
  simp only [true_and]

/-- The two writes of a pair, low half first (R69); each half has poison marks and their sources of its own. -/
def Group.writeHalves (g : Group) (n ex : Nat) (v : Nat → Nat) (p q : Nat) (sp sq : DWord) : Group :=
  Group.write (Group.write g n ex (fun l => v l % 2 ^ 32) p sp) (n + 1) ex (fun l => v l / 2 ^ 32) q sq

theorem Group.writePair_eq (g : Group) (n ex : Nat) (v : Nat → Nat) (p : Nat) (sp : DWord) :
    Group.writePair g n ex v p sp = Group.writeHalves g n ex v p p sp sp := rfl

/-- A pair after its halves are written: the executing lanes take the value modulo 2^64 (R69, R102). -/
theorem pair_writeHalves (g : Group) (n ex : Nat) (v : Nat → Nat) (p q : Nat) (sp sq : DWord) {l : Nat} (hl : l < 32) :
    Claims.pair (Group.writeHalves g n ex v p q sp sq) n l = if ex.testBit l = true then v l % 2 ^ 64 else Claims.pair g n l := by
  have low : Group.lane (Group.writeHalves g n ex v p q sp sq) n l = Group.lane (Group.write g n ex (fun l => v l % 2 ^ 32) p sp) n l :=
    (Group.write_other _ _ _ _ _ _ n (by omega)).1 l
  have high : Group.lane (Group.write g n ex (fun l => v l % 2 ^ 32) p sp) (n + 1) l = Group.lane g (n + 1) l :=
    (Group.write_other _ _ _ _ _ _ (n + 1) (by omega)).1 l
  unfold Claims.pair
  rw [low, Group.lane_write_same _ _ _ _ _ _ hl, Group.writeHalves, Group.lane_write_same _ _ _ _ _ _ hl, high]
  split <;> omega

/-- Writing a pair and moving PC change two registers. -/
theorem only_writeHalves (grp : Group) (n ex : Nat) (v : Nat → Nat) (p q : Nat) (sp sq : DWord) (e : Nat) :
    OnlyThreadRegs grp (Group.advance (Group.writeHalves grp n ex v p q sp sq) e) [n, n + 1] := by
  refine ⟨rfl, fun m hm => ?_⟩
  simp only [List.mem_cons, List.not_mem_nil, or_false, not_or] at hm
  obtain ⟨lanes, marks⟩ := Group.write_other grp n ex (fun l => v l % 2 ^ 32) p sp m hm.1
  obtain ⟨lanes', marks'⟩ := Group.write_other (Group.write grp n ex (fun l => v l % 2 ^ 32) p sp) (n + 1) ex (fun l => v l / 2 ^ 32) q sq m hm.2
  exact ⟨fun l => (lanes' l).trans (lanes l), marks'.trans marks⟩

@[simp] theorem Group.lane_advance (g : Group) (e n l : Nat) : Group.lane (Group.advance g e) n l = Group.lane g n l := rfl
@[simp] theorem Group.poisonOf_advance (g : Group) (e n : Nat) : Group.poisonOf (Group.advance g e) n = Group.poisonOf g n := rfl
@[simp] theorem Group.pred_advance (g : Group) (e n : Nat) : Group.pred (Group.advance g e) n = Group.pred g n := rfl
@[simp] theorem pair_advance (g : Group) (e n l : Nat) : Claims.pair (Group.advance g e) n l = Claims.pair g n l := rfl

/-! ### The issue of one write -/

section
variable {s : State} {i : Instr} {op : Nat} {sh : Shape} {g : GroupLoc} {f : RegForm} {grp : Group}

/-- An instruction that writes its destination register: every lane and every mark of it afterwards, and nothing else but PC (R86, R102). -/
theorem issues_write {v : Operands → Group → Nat → Nat} {p : Operands → Group → Nat} {src : Operands → Group → DWord}
    (run : exec i s = .next (State.runReg s op sh g f (fun o grp => Group.write grp f.dst.toNat o.ex (v o grp) (p o grp) (src o grp))))
    (h : Issues s op sh g f grp) :
    ∃ t after, exec i s = .next t ∧ OnlyGroup s t g after ∧ Passed grp after f.ext.toNat ∧ OnlyThreadRegs grp after [f.dst.toNat] ∧
      let o := readOperands sh grp f
      ∀ l, l < 32 →
        Group.lane after f.dst.toNat l = (if o.ex.testBit l = true then v o grp l % 2 ^ 32 else Group.lane grp f.dst.toNat l) ∧
        (Group.poisonOf after f.dst.toNat).testBit l =
          (if o.ex.testBit l = true then (p o grp).testBit l else (Group.poisonOf grp f.dst.toNat).testBit l) := by
  refine ⟨_, _, run.trans (congrArg Host.Outcome.next (issued_of _ h)), onlyGroup_issued .., ⟨rfl, rfl, rfl⟩, only_write .., fun l hl => ?_⟩
  unfold regEffect
  rw [Group.lane_advance, Group.poisonOf_advance, Group.lane_write_same _ _ _ _ _ _ hl, Group.poisonOf_write_same _ _ _ _ _ _ hl]
  exact ⟨rfl, rfl⟩

/-- An instruction that writes its destination pair (R69, R102). -/
theorem issues_writeHalves {v : Operands → Group → Nat → Nat} {p q : Group → Nat} {sp sq : Group → DWord}
    (run : exec i s = .next (State.runReg s op sh g f (fun o grp => Group.writeHalves grp f.dst.toNat o.ex (v o grp) (p grp) (q grp) (sp grp) (sq grp))))
    (h : Issues s op sh g f grp) :
    ∃ t after, exec i s = .next t ∧ OnlyGroup s t g after ∧ Passed grp after f.ext.toNat ∧
      OnlyThreadRegs grp after [f.dst.toNat, f.dst.toNat + 1] ∧
      let o := readOperands sh grp f
      ∀ l, l < 32 → Claims.pair after f.dst.toNat l = (if o.ex.testBit l = true then v o grp l % 2 ^ 64 else Claims.pair grp f.dst.toNat l) := by
  refine ⟨_, _, run.trans (congrArg Host.Outcome.next (issued_of _ h)), onlyGroup_issued .., ⟨rfl, rfl, rfl⟩, only_writeHalves .., fun l hl => ?_⟩
  unfold regEffect
  rw [pair_advance, pair_writeHalves _ _ _ _ _ _ _ _ hl]

end

/-! ### The instructions -/

section
variable {s : State} {g : GroupLoc} {f : RegForm} {grp : Group}

theorem nop_moves_pc (h : Issues s 0x00 { shape1 0 with d := .none, a := .none } g f grp) :
    ∃ t, exec (.nop g f) s = .next t ∧ OnlyGroup s t g { grp with pc := grp.pc + 1 + BitVec.ofNat 31 f.ext.toNat, fetched := [], issued := true } :=
  ⟨_, congrArg Host.Outcome.next (issued_of _ h), onlyGroup_issued ..⟩

/-- A field of SUB that starts at bit 0. -/
theorem subField_low (f : RegForm) (hi : Nat) : subField f hi 0 = f.sub.toNat % 2 ^ (hi + 1) := by
  unfold subField bits
  rw [Nat.pow_zero, Nat.div_one, Nat.sub_zero]

theorem sel_selects (h : Issues s 0x12 (shape2 7) g f grp) :
    ∃ t after, exec (.sel g f) s = .next t ∧ OnlyGroup s t g after ∧ Passed grp after f.ext.toNat ∧ OnlyThreadRegs grp after [f.dst.toNat] ∧
      let o := readOperands (shape2 7) grp f
      ∀ l, l < 32 → Group.lane after f.dst.toNat l =
        (if o.ex.testBit l then (if (Group.pred grp (f.sub.toNat % 8)).testBit l then o.a l else o.b l) else Group.lane grp f.dst.toNat l) := by
  obtain ⟨t, after, run, only, passed, regs, lanes⟩ := issues_write (i := .sel g f) rfl h
  refine ⟨t, after, run, only, passed, regs, fun l hl => (lanes l hl).1.trans ?_⟩
  have a_lt := readOperands_a_lt (sh := shape2 7) rfl grp f l
  have b_lt := readOperands_b_lt (sh := shape2 7) rfl grp f l
  rw [subField_low]
  split
  · exact Nat.mod_eq_of_lt (by split <;> assumption)
  · rfl

theorem mov_moves (narrow : f.sub.getLsbD 0 = false) (h : Issues s 0x13 { shape2 1 with d := .r32, a := .none, b := .r32, carries := true } g f grp) :
    ∃ t after, exec (.mov g f) s = .next t ∧ OnlyGroup s t g after ∧ Passed grp after f.ext.toNat ∧ OnlyThreadRegs grp after [f.dst.toNat] ∧
      let ex := Group.executing grp f.gp f.gn
      ∀ l, l < 32 →
        Group.lane after f.dst.toNat l =
          (if ex.testBit l then (if f.ib = 1 then f.x1.toNat % 2 ^ 32 else Group.operand grp .r32 f.sb.toNat (bit1 f.ub) l) else Group.lane grp f.dst.toNat l) ∧
        (Group.poisonOf after f.dst.toNat).testBit l =
          (if ex.testBit l then decide (f.ib ≠ 1) && (Group.operandPoison grp .r32 f.sb.toNat (bit1 f.ub)).testBit l
            else (Group.poisonOf grp f.dst.toNat).testBit l) := by
  have sub0 : subBit f 0 = false := narrow
  have moves : exec (.mov g f) s = .next (State.runReg s 0x13 { shape2 1 with d := .r32, a := .none, b := .r32, carries := true } g f (fun o grp =>
      Group.write grp f.dst.toNat o.ex (fun l => o.b l % 2 ^ 32) (if bit1 f.ib then 0 else Group.operandPoison grp .r32 f.sb.toNat (bit1 f.ub))
        (BitVec.ofNat 64 (Group.operandSource grp .r32 f.sb.toNat (bit1 f.ub))))) := by
    show execMov g f s = _
    simp [execMov, sub0]
  obtain ⟨t, after, run, only, passed, regs, lanes⟩ := issues_write moves h
  refine ⟨t, after, run, only, passed, regs, fun l hl => ⟨(lanes l hl).1.trans ?_, (lanes l hl).2.trans ?_⟩⟩
  · have b_lt := readOperands_b_lt (sh := { shape2 1 with d := .r32, a := .none, b := .r32, carries := true }) rfl grp f l
    rw [Nat.mod_mod, Nat.mod_eq_of_lt b_lt, readOperands_b]
    rfl
  · show (if (Group.executing grp f.gp f.gn).testBit l = true then _ else _) = _
    by_cases ib : f.ib = 1 <;> simp only [bit1_iff, ib, if_true, if_false, Nat.zero_testBit, ne_eq, not_true, not_false_eq_true, decide_true, decide_false,
      Bool.true_and, Bool.false_and]

theorem mov_moves_pair (wide : f.sub.getLsbD 0 = true) (h : Issues s 0x13 { shape2 1 with d := .r64, a := .none, b := .r64, carries := true } g f grp) :
    ∃ t after, exec (.mov g f) s = .next t ∧ OnlyGroup s t g after ∧ Passed grp after f.ext.toNat ∧
      OnlyThreadRegs grp after [f.dst.toNat, f.dst.toNat + 1] ∧
      ∀ l, l < 32 → Claims.pair after f.dst.toNat l =
        (if (Group.executing grp f.gp f.gn).testBit l then (if f.ib = 1 then f.x1.toNat else Group.operand grp .r64 f.sb.toNat (bit1 f.ub) l)
          else Claims.pair grp f.dst.toNat l) := by
  have sub0 : subBit f 0 = true := wide
  have moves : exec (.mov g f) s = .next (State.runReg s 0x13 { shape2 1 with d := .r64, a := .none, b := .r64, carries := true } g f (fun o grp =>
      Group.writeHalves grp f.dst.toNat o.ex o.b (if bit1 f.ib then 0 else Group.operandPoison grp .r32 f.sb.toNat (bit1 f.ub))
        (if bit1 f.ib then 0 else Group.operandPoison grp .r32 (f.sb.toNat + 1) (bit1 f.ub))
        (BitVec.ofNat 64 (Group.operandSource grp .r32 f.sb.toNat (bit1 f.ub)))
        (BitVec.ofNat 64 (Group.operandSource grp .r32 (f.sb.toNat + 1) (bit1 f.ub))))) := by
    show execMov g f s = _
    simp [execMov, sub0, Group.writeHalves]
  obtain ⟨t, after, run, only, passed, regs, pairs⟩ := issues_writeHalves (v := fun o _ => o.b)
    (p := fun grp => if bit1 f.ib then 0 else Group.operandPoison grp .r32 f.sb.toNat (bit1 f.ub))
    (q := fun grp => if bit1 f.ib then 0 else Group.operandPoison grp .r32 (f.sb.toNat + 1) (bit1 f.ub))
    (sp := fun grp => BitVec.ofNat 64 (Group.operandSource grp .r32 f.sb.toNat (bit1 f.ub)))
    (sq := fun grp => BitVec.ofNat 64 (Group.operandSource grp .r32 (f.sb.toNat + 1) (bit1 f.ub))) moves h
  refine ⟨t, after, run, only, passed, regs, fun l hl => (pairs l hl).trans ?_⟩
  have b_lt := readOperands_b_lt64 (sh := { shape2 1 with d := .r64, a := .none, b := .r64, carries := true }) rfl grp f l
  rw [Nat.mod_eq_of_lt b_lt, readOperands_b]
  rfl

theorem iadd64_adds (h : Issues s 0x14 { shape2 0 with d := .r64, a := .r64, b := .r64 } g f grp) :
    ∃ t after, exec (.iadd64 g f) s = .next t ∧ OnlyGroup s t g after ∧ Passed grp after f.ext.toNat ∧
      OnlyThreadRegs grp after [f.dst.toNat, f.dst.toNat + 1] ∧
      let o := readOperands { shape2 0 with d := .r64, a := .r64, b := .r64 } grp f
      ∀ l, l < 32 → Claims.pair after f.dst.toNat l =
        (if o.ex.testBit l then (BitVec.ofNat 64 (o.a l) + BitVec.ofNat 64 (o.b l)).toNat else Claims.pair grp f.dst.toNat l) := by
  obtain ⟨t, after, run, only, passed, regs, pairs⟩ := issues_writeHalves (i := .iadd64 g f) (v := fun o _ l => o.a l + o.b l)
    (p := fun _ => 0) (q := fun _ => 0) (sp := fun _ => 0) (sq := fun _ => 0) rfl h
  refine ⟨t, after, run, only, passed, regs, fun l hl => (pairs l hl).trans ?_⟩
  rw [BitVec.toNat_add, BitVec.toNat_ofNat, BitVec.toNat_ofNat, ← Nat.add_mod]

/-- The signed value of a pattern, as Lean's bit vectors have it. -/
theorem sgn_eq_toInt (v : Nat) : sgn 32 v = (BitVec.ofNat 32 v).toInt := by
  rw [BitVec.toInt_eq_toNat_cond, BitVec.toNat_ofNat]
  unfold sgn
  split <;> split <;> omega

/-- The product of two 32-bit numbers, read as signed or as unsigned, plus a third number: one pattern of 64 bits (R104). -/
theorem imadw_value (signed : Bool) {a b : Nat} (c : Nat) (ha : a < 2 ^ 32) (hb : b < 2 ^ 32) :
    (if signed = true then unsgn 64 (sgn 32 a * sgn 32 b + c) else a * b + c) % 2 ^ 64 =
      ((if signed = true then (BitVec.ofNat 32 a).signExtend 64 * (BitVec.ofNat 32 b).signExtend 64
        else (BitVec.ofNat 32 a).zeroExtend 64 * (BitVec.ofNat 32 b).zeroExtend 64) + BitVec.ofNat 64 c).toNat := by
  cases signed with
  | false =>
    have wide {v : Nat} (hv : v < 2 ^ 32) : ((BitVec.ofNat 32 v).zeroExtend 64).toNat = v := by
      rw [BitVec.zeroExtend, BitVec.toNat_setWidth, BitVec.toNat_ofNat]
      omega
    simp only [Bool.false_eq_true, if_false, BitVec.toNat_add, BitVec.toNat_mul, wide ha, wide hb, BitVec.toNat_ofNat]
    rw [← Nat.add_mod]
  | true =>
    have sum : (BitVec.ofNat 32 a).signExtend 64 * (BitVec.ofNat 32 b).signExtend 64 + BitVec.ofNat 64 c =
        BitVec.ofInt 64 ((BitVec.ofNat 32 a).toInt * (BitVec.ofNat 32 b).toInt + (c : Int)) := by
      rw [BitVec.ofInt_add, BitVec.ofInt_mul, BitVec.ofInt_natCast]
      rfl
    rw [if_pos rfl, if_pos rfl, sum, sgn_eq_toInt, sgn_eq_toInt, BitVec.toNat_ofInt]
    unfold unsgn
    omega

theorem imadw_multiplies (h : Issues s 0x15 { shape3 1 with d := .r64, c := .r64 } g f grp) :
    ∃ t after, exec (.imadw g f) s = .next t ∧ OnlyGroup s t g after ∧ Passed grp after f.ext.toNat ∧
      OnlyThreadRegs grp after [f.dst.toNat, f.dst.toNat + 1] ∧
      let o := readOperands { shape3 1 with d := .r64, c := .r64 } grp f
      ∀ l, l < 32 → Claims.pair after f.dst.toNat l =
        (if o.ex.testBit l then
          ((if f.sub.getLsbD 0 then (o.a32 l).signExtend 64 * (o.b32 l).signExtend 64 else (o.a32 l).zeroExtend 64 * (o.b32 l).zeroExtend 64)
            + BitVec.ofNat 64 (o.c l)).toNat
        else Claims.pair grp f.dst.toNat l) := by
  obtain ⟨t, after, run, only, passed, regs, pairs⟩ := issues_writeHalves (i := .imadw g f)
    (v := fun o _ l => if subBit f 0 then unsgn 64 (sgn 32 (o.a l) * sgn 32 (o.b l) + o.c l) else o.a l * o.b l + o.c l)
    (p := fun _ => 0) (q := fun _ => 0) (sp := fun _ => 0) (sq := fun _ => 0) rfl h
  refine ⟨t, after, run, only, passed, regs, fun l hl => (pairs l hl).trans ?_⟩
  rw [imadw_value (subBit f 0) _ (readOperands_a_lt rfl grp f l) (readOperands_b_lt rfl grp f l)]
  rfl

end

end Sys2Proof.Machine

open Sys2Proof Sys2Proof.Machine

/-- Settles O8: each instruction issues with one or two register writes, and what they leave is read lane by lane. -/
theorem movesAndPairs : Obligations.MovesAndPairs :=
  ⟨fun _ _ _ _ => nop_moves_pc, fun _ _ _ _ => sel_selects, fun _ _ _ _ => mov_moves, fun _ _ _ _ => mov_moves_pair,
    fun _ _ _ _ => iadd64_adds, fun _ _ _ _ => imadw_multiplies⟩
end

section
/-!
SUPPORT. Register-form instructions that write one predicate (R70, R102, R105, R106, R113).
-/

namespace Sys2Proof.Machine

/-! ### Lane masks -/

theorem lanesWhere_testBit (ex : Nat) (p : Nat → Bool) {l : Nat} (hl : l < 32) : (lanesWhere ex p).testBit l = (ex.testBit l && p l) := by
  unfold lanesWhere
  rw [maskOf_testBit, Bool.eq_iff_iff, decide_eq_true_iff, List.mem_filter]
  exact and_iff_right (List.mem_range.2 hl)

/-- Every bit of a lane mask is set. -/
theorem allLanes_testBit {l : Nat} (hl : l < 32) : (2 ^ 32 - 1).testBit l = true := by
  rw [Nat.testBit_two_pow_sub_one, decide_eq_true hl]

/-- Only lanes 0 to 31 execute (R102). -/
theorem Group.executing_lt (g : Group) (gp : BitVec 3) (gn : BitVec 1) : Group.executing g gp gn < 2 ^ 32 :=
  Nat.lt_of_le_of_lt Nat.and_le_left g.active.isLt

/-- A lane mask is zero where no lane of it is set. -/
theorem lanes_eq_zero_iff {m : Nat} (hm : m < 2 ^ 32) : m = 0 ↔ ∀ l, l < 32 → m.testBit l = false := by
  constructor
  · rintro rfl l -
    exact Nat.zero_testBit l
  · refine fun clear => Nat.eq_of_testBit_eq fun l => ?_
    rw [Nat.zero_testBit]
    by_cases hl : l < 32
    · exact clear l hl
    · exact Nat.testBit_lt_two_pow (Nat.lt_of_lt_of_le hm (Nat.pow_le_pow_right (by decide) (Nat.le_of_not_lt hl)))

/-- `m &&& ex` is `ex` where every lane of `ex` is set in `m`. -/
theorem lanes_and_eq_iff {m ex : Nat} (hex : ex < 2 ^ 32) : m &&& ex = ex ↔ ∀ l, l < 32 → ex.testBit l = true → m.testBit l = true := by
  constructor
  · intro whole l _ he
    rw [← whole, Nat.testBit_and] at he
    exact (Bool.and_eq_true_iff.1 he).1
  · refine fun set => Nat.eq_of_testBit_eq fun l => ?_
    rw [Nat.testBit_and]
    by_cases he : ex.testBit l = true
    · have hl : l < 32 := Nat.lt_of_not_le fun far =>
        absurd he (by rw [Nat.testBit_lt_two_pow (Nat.lt_of_lt_of_le hex (Nat.pow_le_pow_right (by decide) far))]; exact Bool.false_ne_true)
      rw [he, set l hl he, Bool.and_self]
    · rw [Bool.not_eq_true] at he
      rw [he, Bool.and_false]

/-! ### The issue of one predicate write -/

/-- A predicate after a write: p7 is never written (R70). -/
theorem Group.pred_writePred_same (g : Group) (n ex v : Nat) {l : Nat} (hl : l < 32) : (Group.pred (Group.writePred g n ex v) n).testBit l =
    if n ≠ 7 ∧ ex.testBit l = true then v.testBit l else (Group.pred g n).testBit l := by
  unfold Group.writePred
  by_cases h7 : n = 7
  · rw [if_pos h7, if_neg (fun c => c.1 h7)]
  · simp only [Group.pred, h7, if_false, NMap.get_set, if_true, BitVec.toNat_ofNat, Nat.testBit_mod_two_pow, hl, decide_true, Bool.true_and,
      Nat.testBit_or, Nat.testBit_and, Nat.testBit_xor, ne_eq, not_false_eq_true, true_and]
    cases ex.testBit l <;> simp

theorem Group.writePred_pc (g : Group) (n ex v : Nat) : (Group.writePred g n ex v).pc = g.pc := by
  unfold Group.writePred
  split <;> rfl

section
variable {s : State} {i : Instr} {op : Nat} {sh : Shape} {g : GroupLoc} {f : RegForm} {grp : Group}

/-- An instruction that writes its destination predicate: nothing else changes but PC (R70, R102). -/
theorem issues_writePred {v : Operands → Group → Nat} {w : Nat → Bool}
    (run : exec i s = .next (State.runReg s op sh g f (fun o grp => Group.writePred grp f.dst.toNat o.ex (v o grp))))
    (h : Issues s op sh g f grp) (value : ∀ l, l < 32 → (readOperands sh grp f).ex.testBit l = true → (v (readOperands sh grp f) grp).testBit l = w l) :
    ∃ t after, exec i s = .next t ∧ OnlyGroup s t g after ∧ Passed grp after f.ext.toNat ∧
      Claims.predAfter grp after f.dst.toNat (readOperands sh grp f).ex w := by
  refine ⟨_, _, run.trans (congrArg Host.Outcome.next (issued_of _ h)), onlyGroup_issued .., ⟨?_, rfl, rfl⟩, only_writePred .., fun l hl => ?_⟩
  · exact congrArg (fun pc => pc + 1 + BitVec.ofNat 31 f.ext.toNat) (Group.writePred_pc ..)
  · unfold regEffect
    rw [Group.pred_advance, Group.pred_writePred_same _ _ _ _ hl]
    by_cases executes : f.dst.toNat ≠ 7 ∧ (readOperands sh grp f).ex.testBit l = true
    · rw [if_pos executes, if_pos executes, value l hl executes.2]
    · rw [if_neg executes, if_neg executes]

/-- The same for the meanings that decide lane by lane. -/
theorem issues_predAlu {fn : Nat → Nat → Bool} {w : Nat → Bool} (run : exec i s = .next (State.runReg s op sh g f (predAlu f fn)))
    (h : Issues s op sh g f grp) (value : ∀ l, fn ((readOperands sh grp f).a l) ((readOperands sh grp f).b l) = w l) :
    ∃ t after, exec i s = .next t ∧ OnlyGroup s t g after ∧ Passed grp after f.ext.toNat ∧
      Claims.predAfter grp after f.dst.toNat (readOperands sh grp f).ex w :=
  issues_writePred (v := fun o _ => lanesWhere o.ex (fun l => fn (o.a l) (o.b l))) run h fun l hl executes => by
    rw [lanesWhere_testBit _ _ hl, executes, Bool.true_and, value l]

end

/-! ### Conditions -/

/-- SUB[9:7] is SUB divided by 128: SUB has ten bits. -/
theorem subField_9_7 (f : RegForm) : subField f 9 7 = f.sub.toNat / 128 := by
  have := f.sub.isLt
  unfold subField bits
  omega

/-- The integer a comparison reads (R105), as Lean's bit vectors have it. -/
theorem intVal_eq (signed : Bool) {a : Nat} (ha : a < 2 ^ 32) :
    intVal signed a = if signed = true then (BitVec.ofNat 32 a).toInt else ((BitVec.ofNat 32 a).toNat : Int) := by
  unfold intVal
  rw [sgn_eq_toInt, BitVec.toNat_ofNat, Nat.mod_eq_of_lt ha]

/-- The conditions of R105 on integers. -/
theorem condFn_eq (code : Nat) (signed : Bool) {a b : Nat} (ha : a < 2 ^ 32) (hb : b < 2 ^ 32) :
    condFn code (intVal signed a) (intVal signed b) = Claims.integerCondition code signed (BitVec.ofNat 32 a) (BitVec.ofNat 32 b) := by
  rw [intVal_eq signed ha, intVal_eq signed hb]
  generalize BitVec.ofNat 32 a = x
  generalize BitVec.ofNat 32 b = y
  have eq_iff : (if signed = true then x.toInt else (x.toNat : Int)) = (if signed = true then y.toInt else (y.toNat : Int)) ↔ x = y := by
    cases signed
    · simp [BitVec.toNat_inj]
    · simp [BitVec.toInt_inj]
  unfold condFn Claims.integerCondition
  rw [Bool.eq_iff_iff]
  split
  · rw [decide_eq_true_iff, beq_iff_eq, eq_iff]
  · rw [decide_eq_true_iff, bne_iff_ne, ne_eq, eq_iff]
  all_goals cases signed <;> simp [BitVec.slt, BitVec.sle, BitVec.ult, BitVec.ule]

/-! ### The instructions -/

/-- A bit of the truth table of `plop` (R106): bit 2b + a of SUB[3:0]. -/
theorem plop_bit (f : RegForm) (a b : Bool) :
    (subField f 3 0).testBit (2 * (if b = true then 1 else 0) + (if a = true then 1 else 0)) = f.sub.getLsbD (2 * b2n b + b2n a) := by
  rw [subField_low, Nat.testBit_mod_two_pow]
  cases a <;> cases b <;> rfl

/-- A legal word whose shape takes no immediate has none (R100). -/
theorem ib_of_legal {sh : Shape} {f : RegForm} {grp : Group} (legal : regPark sh grp f = none) (imm : sh.imm = false) : bit1 f.ib = false := by
  rw [← Bool.not_eq_true]
  intro ib
  have bad : regIllegal sh grp.regs f = some 0 := by
    unfold regIllegal
    simp [ib, imm, check, firstSome]
  unfold regPark at legal
  rw [bad] at legal
  exact nomatch legal

section
variable {s : State} {g : GroupLoc} {f : RegForm} {grp : Group}

theorem plop_looks_up (h : Issues s 0x17 { shape2 0xF with d := .pred, a := .pred, b := .pred, imm := false } g f grp) :
    ∃ t after, exec (.plop g f) s = .next t ∧ OnlyGroup s t g after ∧ Passed grp after f.ext.toNat ∧
      Claims.predAfter grp after f.dst.toNat (Group.executing grp f.gp f.gn)
        (fun l => f.sub.getLsbD (2 * b2n ((Group.pred grp f.sb.toNat).testBit l) + b2n ((Group.pred grp f.sa.toNat).testBit l))) := by
  have ib : ¬ f.ib = 1 := fun c => Bool.false_ne_true ((ib_of_legal h.2.2 rfl).symm.trans ((bit1_iff _).2 c))
  refine issues_predAlu rfl h fun l => ?_
  rw [readOperands_b, if_neg ib]
  exact plop_bit f _ _

/-- The ballot of a vote has a lane where the predicate holds in an executing lane (R113). -/
theorem ballot_ne_zero_iff {ex : Nat} (hex : ex < 2 ^ 32) (p : Nat) :
    decide (p &&& ex ≠ 0) = (List.range 32).any (fun l => ex.testBit l && p.testBit l) := by
  have small : p &&& ex < 2 ^ 32 := Nat.lt_of_le_of_lt Nat.and_le_right hex
  rw [Bool.eq_iff_iff, decide_eq_true_iff, ne_eq, lanes_eq_zero_iff small, List.any_eq_true]
  simp only [Nat.testBit_and, List.mem_range, not_forall, Bool.not_eq_false, Bool.and_comm (ex.testBit _), exists_prop]

/-- The ballot of a vote is whole where the predicate holds in every executing lane (R113). -/
theorem ballot_whole_iff {ex : Nat} (hex : ex < 2 ^ 32) (p : Nat) :
    decide (p &&& ex = ex) = (List.range 32).all (fun l => !ex.testBit l || p.testBit l) := by
  rw [Bool.eq_iff_iff, decide_eq_true_iff, lanes_and_eq_iff hex, List.all_eq_true]
  simp only [List.mem_range, Bool.or_eq_true, Bool.not_eq_true', ← Bool.not_eq_true, ← imp_iff_not_or]

theorem vote_votes (mode : f.sub.toNat % 4 < 2) (h : Issues s 0x48 { shape1 3 with d := .pred, a := .pred } g f grp) :
    ∃ t after, exec (.vote g f) s = .next t ∧ OnlyGroup s t g after ∧ Passed grp after f.ext.toNat ∧
      let ex := Group.executing grp f.gp f.gn
      let p (l : Nat) : Bool := (Group.pred grp f.sa.toNat).testBit l
      Claims.predAfter grp after f.dst.toNat ex
        (fun _ => if f.sub.toNat % 4 = 0 then (List.range 32).any (fun l => ex.testBit l && p l)
          else (List.range 32).all (fun l => !ex.testBit l || p l)) := by
  have field : subField f 1 0 = f.sub.toNat % 4 := subField_low f 1
  have not2 : ¬ f.sub.toNat % 4 = 2 := by omega
  have not3 : ¬ f.sub.toNat % 4 = 3 := by omega
  have votes : exec (.vote g f) s = .next (State.runReg s 0x48 { shape1 3 with d := .pred, a := .pred } g f (fun o grp =>
      Group.writePred grp f.dst.toNat o.ex
        (if (if f.sub.toNat % 4 = 0 then decide (Group.pred grp f.sa.toNat &&& o.ex ≠ 0) else decide (Group.pred grp f.sa.toNat &&& o.ex = o.ex)) = true
          then 2 ^ 32 - 1 else 0))) := by
    show execVote g f s = _
    simp only [execVote, field, not2, not3, if_false, decide_false]
    rfl
  have small := Group.executing_lt grp f.gp f.gn
  refine issues_writePred votes h fun l hl _ => ?_
  show (if (if f.sub.toNat % 4 = 0 then decide (Group.pred grp f.sa.toNat &&& Group.executing grp f.gp f.gn ≠ 0)
    else decide (Group.pred grp f.sa.toNat &&& Group.executing grp f.gp f.gn = Group.executing grp f.gp f.gn)) = true then 2 ^ 32 - 1 else 0).testBit l = _
  rw [ballot_ne_zero_iff small, ballot_whole_iff small, apply_ite (fun m => Nat.testBit m l), allLanes_testBit hl, Nat.zero_testBit]
  simp only [Bool.if_false_right, Bool.and_true, Bool.decide_eq_true]

end

end Sys2Proof.Machine

open Sys2Proof Sys2Proof.Machine

/-- Settles O9: each of the four instructions issues with one predicate write, whose value is R105's condition, R106's bit or R113's vote. -/
theorem predicates : Obligations.Predicates := by
  refine ⟨?_, ?_, fun _ _ _ _ => plop_looks_up, fun _ _ _ _ => vote_votes⟩
  · rintro s g f grp sh rfl h
    have run : exec (.icmp g f) s = .next (State.runReg s 0x16 { shape2 0x3C0 with d := .pred, reserved := decide (6 ≤ f.sub.toNat / 128) } g f
        (predAlu f (fun a b => condFn (f.sub.toNat / 128) (intVal (subBit f 6) a) (intVal (subBit f 6) b)))) := by
      rw [← subField_9_7]; rfl
    exact issues_predAlu run h fun l => condFn_eq _ _ (readOperands_a_lt rfl grp f l) (readOperands_b_lt rfl grp f l)
  · rintro s g f grp sh rfl h
    have run : exec (.fcmp g f) s = .next (State.runReg s 0x25 { shape2 0x3E0 with d := .pred } g f
        (predAlu f (fun a b => fCmp (f.sub.toNat / 128) (negIf f 5 a) (negIf f 6 b)))) := by
      rw [← subField_9_7]; rfl
    exact issues_predAlu run h fun l => rfl
end

section
/-!
SUPPORT. Lane exchange and the lane number (R86, R114, R130).
-/

namespace Sys2Proof.Machine

/-- The lane `shfl` reads (R114): the two ways of saying that a source outside the group, or not executing, is the lane itself. -/
theorem shflLane_eq (mode ex i b : Nat) : shflLane mode ex i b = Claims.shuffleSource mode ex i b := by
  have same (src : Int) : (if 0 ≤ src ∧ src < 32 ∧ ex.testBit src.toNat = true then src.toNat else i) =
      if src < 0 ∨ 31 < src then i else if ex.testBit src.toNat = true then src.toNat else i := by
    by_cases out : src < 0 ∨ 31 < src
    · rw [if_pos out, if_neg (by omega)]
    · rw [if_neg out]
      exact if_congr (and_iff_right (by omega) |>.trans (and_iff_right (by omega))) rfl rfl
  unfold shflLane Claims.shuffleSource
  exact same _

section
variable {s : State} {g : GroupLoc} {f : RegForm} {grp : Group}

theorem shfl_exchanges (h : Issues s 0x49 { shape2 3 with carries := true } g f grp) :
    ∃ t after, exec (.shfl g f) s = .next t ∧ OnlyGroup s t g after ∧ Passed grp after f.ext.toNat ∧ OnlyThreadRegs grp after [f.dst.toNat] ∧
      let o := readOperands { shape2 3 with carries := true } grp f
      ∀ l, l < 32 →
        let src := Claims.shuffleSource (f.sub.toNat % 4) o.ex l (o.b l)
        Group.lane after f.dst.toNat l = (if o.ex.testBit l then o.a src else Group.lane grp f.dst.toNat l) ∧
        (Group.poisonOf after f.dst.toNat).testBit l =
          (if o.ex.testBit l then (Group.operandPoison grp .r32 f.sa.toNat (bit1 f.ua)).testBit src else (Group.poisonOf grp f.dst.toNat).testBit l) := by
  obtain ⟨t, after, run, only, passed, regs, lanes⟩ := issues_write (i := .shfl g f)
    (v := fun o _ l => o.a (shflLane (subField f 1 0) o.ex l (o.b l)))
    (p := fun o grp => lanesWhere o.ex (fun l => (Group.operandPoison grp .r32 f.sa.toNat (bit1 f.ua)).testBit (shflLane (subField f 1 0) o.ex l (o.b l))))
    (src := fun _ grp => BitVec.ofNat 64 (Group.operandSource grp .r32 f.sa.toNat (bit1 f.ua))) rfl h
  have mode : subField f 1 0 = f.sub.toNat % 4 := subField_low f 1
  refine ⟨t, after, run, only, passed, regs, fun l hl => ⟨(lanes l hl).1.trans ?_, (lanes l hl).2.trans ?_⟩⟩
  · rw [Nat.mod_eq_of_lt (readOperands_a_lt rfl grp f _), shflLane_eq, mode]
  · rw [lanesWhere_testBit _ _ hl, shflLane_eq, mode]
    split
    · next executes => rw [executes, Bool.true_and]
    · rfl

theorem srd_reads_lane (sel : f.sub.toNat % 256 = 0) (h : Issues s 0x42 { shape1 0xFF with a := .none } g f grp) :
    ∃ t after, exec (.srd g f) s = .next t ∧ OnlyGroup s t g after ∧ Passed grp after f.ext.toNat ∧ OnlyThreadRegs grp after [f.dst.toNat] ∧
      ∀ l, l < 32 → Group.lane after f.dst.toNat l =
        (if (Group.executing grp f.gp f.gn).testBit l then l else Group.lane grp f.dst.toNat l) := by
  have field : subField f 7 0 = 0 := (subField_low f 7).trans sel
  have reads : exec (.srd g f) s = .next (State.runReg s 0x42 { shape1 0xFF with a := .none } g f (fun o grp =>
      Group.write grp f.dst.toNat o.ex (fun l => l) 0 0)) := by
    show execSrd g f s = _
    simp only [execSrd, field]
    rfl
  obtain ⟨t, after, run, only, passed, regs, lanes⟩ := issues_write reads h
  refine ⟨t, after, run, only, passed, regs, fun l hl => (lanes l hl).1.trans ?_⟩
  rw [Nat.mod_eq_of_lt (show l < 2 ^ 32 by omega)]
  rfl

end

end Sys2Proof.Machine

open Sys2Proof Sys2Proof.Machine

/-- Settles O14: both instructions issue with one register write; the lane that `shfl` reads is R114's. -/
theorem laneExchange : Obligations.LaneExchange := ⟨fun _ _ _ _ => shfl_exchanges, fun _ _ _ _ => srd_reads_lane⟩
end

section
/-!
SUPPORT. What a park changes, and the register-form instructions whose checks are ILLEGAL and POISON (R84 to R88, R99 to R101).
-/

namespace Sys2Proof.Machine

/-! ### Parking -/

/-- A state that the report of a park leaves as it was, counters and flags aside. -/
theorem State.park_frame (s : State) (g : GroupLoc) (grp : Group) (p : ParkCause) (pc : BitVec 31) (insn : DWord) :
    State.park s g grp p pc insn = { s with cells := (State.park s g grp p pc insn).cells, tel := (State.park s g grp p pc insn).tel } := by
  unfold State.park
  dsimp only
  split <;> rfl

/-- What a park leaves of the cell: the other groups, and everything but the groups, the park list, the register cache and the port's waits. -/
theorem State.park_cell (s : State) (g : GroupLoc) (grp : Group) (p : ParkCause) (pc : BitVec 31) (insn : DWord) :
    let t := State.park s g grp p pc insn
    (∀ c, c ≠ g.cell → State.cell t c = State.cell s c) ∧
    (∀ k, k ≠ g.slot → Cell.group (State.cell t g.cell) k = Cell.group (State.cell s g.cell) k) ∧
    ∃ gs pl rc sw, State.cell t g.cell = { State.cell s g.cell with groups := gs, parkList := pl, regCache := rc, slotWaits := sw } := by
  have reports (u : State) (d : Nat) : State.cell (if p.code = 4 then State.flag (State.count u .parkCount p.code g.cell 1) 2
      else State.count u .parkCount p.code g.cell 1) d = State.cell u d := by
    split
    · rw [State.cell_flag, State.cell_count]
    · rw [State.cell_count]
  unfold State.park
  dsimp only
  refine ⟨fun c hc => ?_, fun k hk => ?_, ?_⟩
  · rw [reports, State.cell_modCell, if_neg (Ne.symm hc)]
  · rw [reports, State.cell_modCell, if_pos rfl]
    exact (Cell.group_setGroup ..).trans (if_neg (Ne.symm hk))
  · rw [reports, State.cell_modCell, if_pos rfl]
    exact ⟨_, _, _, _, rfl⟩

/-- A park at the group's own PC is what the statements call parked (R84, R88, Table 3.7). -/
theorem parkedAt_park (s : State) (g : GroupLoc) (grp : Group) (p : ParkCause) (insn : DWord) :
    Claims.parkedAt s (State.park s g grp p grp.pc insn) g grp p.code p.detail p.addr (faultLanes grp p) insn := by
  obtain ⟨cells, groups, cell⟩ := State.park_cell s g grp p grp.pc insn
  obtain ⟨h, after⟩ := State.park_group s g grp p grp.pc insn
  obtain ⟨r, found, stamp, addr, pc, mask, lanes, job, -, code, detail, slot, state, -, word⟩ := State.park_record s g grp p grp.pc insn
  exact ⟨⟨State.park_frame .., cells⟩, ⟨_, after, rfl⟩, groups, cell, r, found, stamp, code, detail, addr, lanes, mask, pc, job, slot, state, word⟩

/-! ### The checks of a register form -/

theorem laneless_illegal : laneless 0x08 = false := rfl

/-- An ILLEGAL park applies to every active lane (Table 3.7). -/
theorem faultLanes_illegal (grp : Group) (d : Nat) : faultLanes grp (illegal grp d) = grp.active := by
  show (if laneless 0x08 = true then 0 else if grp.active.toNat = 0 then grp.active else BitVec.ofNat 32 grp.active.toNat) = grp.active
  rw [laneless_illegal, if_neg Bool.false_ne_true, BitVec.ofNat_toNat, BitVec.setWidth_eq, ite_self]

theorem regPark_illegal {sh : Shape} {grp : Group} {f : RegForm} {d : Nat} (bad : regIllegal sh grp.regs f = some d) :
    regPark sh grp f = some (illegal grp d) := by
  unfold regPark
  rw [bad]

theorem firstSome_mem {α : Type} {l : List (Option α)} {a : α} (h : firstSome l = some a) : some a ∈ l := by
  induction l with
  | nil => exact nomatch h
  | cons o r ih =>
    cases o with
    | none => exact List.mem_cons_of_mem _ (ih h)
    | some b => exact List.mem_cons.2 (.inl h.symm)

theorem operandPark_code {g : Group} {ex : Nat} {k : OperandKind} {n : Nat} {u : Bool} {p : ParkCause} (h : operandPark g ex k n u = some p) :
    p.code = 0x04 := by
  unfold operandPark at h
  dsimp only at h
  split at h
  · exact nomatch h
  · obtain rfl := Option.some.inj h
    rfl

/-- A legal register form parks with POISON only (R85, R86). -/
theorem regPark_poison {sh : Shape} {grp : Group} {f : RegForm} {p : ParkCause} (legal : regIllegal sh grp.regs f = none)
    (parks : regPark sh grp f = some p) : p.code = 0x04 := by
  unfold regPark at parks
  rw [legal] at parks
  dsimp only at parks
  split at parks
  · exact nomatch parks
  · obtain ⟨q, first, rfl⟩ := Option.map_eq_some_iff.1 parks
    obtain ⟨o, -, ho⟩ := List.mem_map.1 (firstSome_mem first)
    exact operandPark_code (p := q) ho

/-! ### The instructions -/

/-- The instruction of `r` issues as a register form of its opcode and shape, whatever it means. -/
def RunsAsForm (r : (GroupLoc → RegForm → Instr) × Nat × (RegForm → Shape)) : Prop :=
  ∀ (g : GroupLoc) (f : RegForm) (s : State), ∃ sem, exec (r.1 g f) s = .next (State.runReg s r.2.1 (r.2.2 f) g f sem)

/-- The two ways of writing which values of SUB are reserved. -/
theorem runsAsForm_reserved {ctor : GroupLoc → RegForm → Instr} {op : Nat} {sh : Shape} {p q : RegForm → Bool} (same : ∀ f, p f = q f)
    (h : RunsAsForm (ctor, op, fun f => { sh with reserved := p f })) : RunsAsForm (ctor, op, fun f => { sh with reserved := q f }) := by
  rwa [← funext same]

theorem integerRows_run : ∀ r ∈ Claims.integerRows, RunsAsForm (r.ctor, r.op, r.sh) := by
  simp only [Claims.integerRows, List.forall_mem_cons]
  refine ⟨?_, ?_, ?_, ?_, ?_, ?_, ?_, ?_, ?_, ?_, ?_, ?_, ?_, ?_, ?_, ?_, ?_, nofun⟩ <;> exact fun _ _ _ => ⟨_, rfl⟩

theorem subField_reserved_cvt (f : RegForm) : decide (8 < subField f 9 6 ∨ 8 < subField f 5 2 ∨ 2 ≤ subField f 1 0) =
    decide (8 < f.sub.toNat / 64 ∨ 8 < f.sub.toNat / 4 % 16 ∨ 2 ≤ f.sub.toNat % 4) := by
  have top : subField f 9 6 = f.sub.toNat / 64 := by
    have := f.sub.isLt
    unfold subField bits
    omega
  rw [top, subField_low]
  rfl

theorem floatRows_run : ∀ r ∈ Claims.floatRows, RunsAsForm (r.ctor, r.op, r.sh) := by
  simp only [Claims.floatRows, List.forall_mem_cons]
  refine ⟨?_, ?_, ?_, ?_, ?_, ?_, ?_, ?_,
    runsAsForm_reserved subField_reserved_cvt fun _ _ _ => ⟨_, rfl⟩,
    runsAsForm_reserved (fun f => congrArg (fun n => decide (6 ≤ n)) (subField_low f 2)) fun _ _ _ => ⟨_, rfl⟩, nofun⟩ <;>
  exact fun _ _ _ => ⟨_, rfl⟩

theorem parkRows_run : ∀ r ∈ Claims.parkRows, RunsAsForm r := by
  simp only [Claims.parkRows, List.forall_mem_append, List.forall_mem_map, List.forall_mem_cons]
  refine ⟨⟨integerRows_run, floatRows_run⟩, ?_, ?_, ?_, ?_, ?_,
    runsAsForm_reserved (sh := { shape2 0x3C0 with d := .pred }) (fun f => congrArg (fun n => decide (6 ≤ n)) (subField_9_7 f))
      fun _ _ _ => ⟨_, rfl⟩, ?_, ?_,
    runsAsForm_reserved (sh := { shape2 0xF with d := .uni, a := .uni, b := .uni, group := true })
      (fun f => congrArg (fun n => decide (10 ≤ n)) (subField_low f 3)) fun _ _ _ => ⟨_, rfl⟩, ?_, nofun⟩ <;>
  exact fun _ _ _ => ⟨_, rfl⟩

end Sys2Proof.Machine

open Sys2Proof Sys2Proof.Machine

/-- Settles O15: every row issues as a register form, and a register form that a check parks does what `State.park` does. -/
theorem registerFormParks : Obligations.RegisterFormParks := by
  intro r hr s g f grp issuable ready
  obtain ⟨sem, run⟩ := parkRows_run r hr g f s
  refine ⟨fun d bad => ⟨_, run.trans (congrArg Host.Outcome.next (State.runReg_parked issuable ready (regPark_illegal bad))), ?_⟩,
    fun p legal parks => ?_⟩
  · have parked := parkedAt_park s g grp (illegal grp d) (regWord r.2.1 f)
    rwa [faultLanes_illegal] at parked
  · have code := regPark_poison legal parks
    have parked := parkedAt_park s g grp p (regWord r.2.1 f)
    rw [code] at parked
    exact ⟨code, _, run.trans (congrArg Host.Outcome.next (State.runReg_parked issuable ready parks)), parked⟩
end

section
/-!
SUPPORT. Branch-form instructions over the mask stack: `split`, `join` and `exit` (R76, R77, R81, R116).
-/

namespace Sys2Proof.Machine

/-! ### Issue of a branch form -/

/-- The group of a place is replaced and nothing else changes. -/
theorem onlyGroup_setCell (s : State) (g : GroupLoc) (after : Group) :
    OnlyGroup s (State.setCell s g.cell (Cell.setGroup (State.cell s g.cell) g.slot after)) g after := by
  refine ⟨⟨rfl, fun d hd => ?_⟩, State.group_setGroup s g after, fun k hk => ?_, NMap.insert (State.cell s g.cell).groups g.slot after,
    (State.cell s g.cell).regCache, ?_⟩
  · rw [State.cell_setCell, if_neg (Ne.symm hd)]
  · rw [State.cell_setCell, if_pos rfl, Cell.group_setGroup, if_neg (Ne.symm hk)]
  · rw [State.cell_setCell, if_pos rfl]
    rfl

/-- A branch form that nothing parks changes its group and, where its meaning leaves the cell, nothing else. -/
theorem onlyGroup_runBr {s : State} {i : Instr} {op : Nat} {g : GroupLoc} {f : BrForm} {grp after : Group} {park : Group → Option ParkCause}
    {sem : Cell → Group → Cell × Group} (run : exec i s = .next (State.runBr s op g f park sem)) (issuable : State.issuable s g (brWords op f) = some grp)
    (passes : park grp = none) (means : sem (State.cell s g.cell) grp = (State.cell s g.cell, after)) :
    ∃ t, exec i s = .next t ∧ OnlyGroup s t g { after with fetched := [], issued := true } := by
  refine ⟨_, run.trans (congrArg Host.Outcome.next ?_), onlyGroup_setCell s g _⟩
  unfold State.runBr
  rw [issuable]
  dsimp only
  rw [passes, means]

theorem illegalIf_legal {bad : Bool} (legal : bad = false) (grp : Group) (d : Nat) : illegalIf bad grp d = none := by
  unfold illegalIf
  rw [legal]
  rfl

/-! ### The lanes of a condition -/

theorem condLanes_lt (grp : Group) (f : BrForm) : condLanes grp f < 2 ^ 32 := Nat.lt_of_le_of_lt Nat.and_le_left grp.active.isLt

theorem condLanes_testBit (grp : Group) (f : BrForm) {l : Nat} (hl : l < 32) : (condLanes grp f).testBit l = Claims.condition grp f l := by
  unfold condLanes Claims.condition
  rw [Nat.testBit_and, Nat.testBit_xor, apply_ite (fun m => Nat.testBit m l), allLanes_testBit hl, Nat.zero_testBit]
  refine congrArg (fun b => grp.active.getLsbD l && b) ?_
  by_cases hn : f.cn = 1
  · rw [if_pos ((bit1_iff _).2 hn), decide_eq_true hn]
  · rw [if_neg (fun h => hn ((bit1_iff _).1 h)), decide_eq_false hn]

/-- Lanes agree where none, or every active lane, has the condition (R76). -/
theorem divergent_iff (grp : Group) (f : BrForm) :
    divergent grp f = true ↔ BitVec.ofNat 32 (condLanes grp f) ≠ 0 ∧ BitVec.ofNat 32 (condLanes grp f) ≠ grp.active := by
  have value : (BitVec.ofNat 32 (condLanes grp f)).toNat = condLanes grp f := by
    rw [BitVec.toNat_ofNat, Nat.mod_eq_of_lt (condLanes_lt grp f)]
  unfold divergent
  rw [Bool.and_eq_true_iff, decide_eq_true_iff, decide_eq_true_iff, ne_eq, ne_eq, ne_eq, ne_eq, ← BitVec.toNat_inj, ← BitVec.toNat_inj, value]
  rfl

/-! ### `split` and `join` -/

/-- The group after a `split` (R76, R78): where its lanes agree, and where they do not. -/
def Group.afterSplit (grp : Group) (f : BrForm) : Group :=
  let taken : Word := BitVec.ofNat 32 (condLanes grp f)
  if !divergent grp f then { grp with pc := if taken = 0 then afterBr grp f else Group.target grp f.offA }
  else
    { grp with
      stack := { kind := .pending, pc := Group.target grp f.offA, mask := taken } :: { kind := .reconv, pc := Group.target grp f.offB, mask := grp.active } :: grp.stack
      active := grp.active &&& ~~~taken
      pc := afterBr grp f
      hold := if 16 < grp.stack.length + 2 then .spill else grp.hold }

section
variable {s : State} {g : GroupLoc} {f : BrForm} {grp : Group}

theorem exec_split (issuable : State.issuable s g (brWords 0x53 f) = some grp) (legal : brIllegal f false true true true 0 0 = false)
    (room : grp.stack.length + grp.spilled + 2 ≤ 16 + grp.allowance) :
    ∃ t, exec (.split g f) s = .next t ∧ OnlyGroup s t g { Group.afterSplit grp f with fetched := [], issued := true } := by
  refine onlyGroup_runBr rfl issuable ?_ ?_
  · have fits : (divergent grp f && decide (16 + grp.allowance < grp.stack.length + grp.spilled + 2)) = false := by
      rw [decide_eq_false (by omega), Bool.and_false]
    rw [illegalIf_legal legal, illegalIf_legal fits]
    rfl
  · unfold Group.afterSplit
    dsimp only
    split <;> rfl

theorem afterSplit_agree (agree : ¬ divergent grp f = true) :
    Group.afterSplit grp f = { grp with pc := if BitVec.ofNat 32 (condLanes grp f) = 0 then afterBr grp f else Group.target grp f.offA } := by
  unfold Group.afterSplit
  rw [Bool.not_eq_true] at agree
  rw [agree]
  rfl

theorem split_works (issuable : State.issuable s g (brWords 0x53 f) = some grp) (legal : brIllegal f false true true true 0 0 = false)
    (room : grp.stack.length + grp.spilled + 2 ≤ 16 + grp.allowance) :
    ∃ t after, exec (.split g f) s = .next t ∧ OnlyGroup s t g after ∧
      let taken : Word := BitVec.ofNat 32 (condLanes grp f)
      let target := grp.pc + f.offA.signExtend 31
      let rpc := grp.pc + f.offB.signExtend 31
      (∀ l, l < 32 → taken.getLsbD l = Claims.condition grp f l) ∧
      (taken = 0 → after = { grp with pc := Claims.following grp f, fetched := [], issued := true }) ∧
      (taken ≠ 0 → taken = grp.active → after = { grp with pc := target, fetched := [], issued := true }) ∧
      (taken ≠ 0 → taken ≠ grp.active →
        after = { grp with
          stack := { kind := .pending, pc := target, mask := taken } :: { kind := .reconv, pc := rpc, mask := grp.active } :: grp.stack
          active := grp.active &&& ~~~taken, pc := Claims.following grp f, fetched := [], issued := true
          hold := if 16 < grp.stack.length + 2 then .spill else grp.hold }) := by
  obtain ⟨t, run, only⟩ := exec_split issuable legal room
  refine ⟨t, _, run, only, fun l hl => ?_, fun none_ => ?_, fun some_ all_ => ?_, fun some_ part => ?_⟩
  · rw [BitVec.getLsbD_ofNat, decide_eq_true hl, Bool.true_and, condLanes_testBit grp f hl]
  · rw [afterSplit_agree (fun d => ((divergent_iff grp f).1 d).1 none_), if_pos none_]
    rfl
  · rw [afterSplit_agree (fun d => ((divergent_iff grp f).1 d).2 all_), if_neg some_]
    rfl
  · unfold Group.afterSplit
    rw [(divergent_iff grp f).2 ⟨some_, part⟩]
    rfl

theorem join_pops {e : MaskEntry} {rest : List MaskEntry} (issuable : State.issuable s g (brWords 0x54 f) = some grp)
    (legal : brIllegal f false false false false 0 0 = false) (top : grp.stack = e :: rest) :
    ∃ t, exec (.join g f) s = .next t ∧
      OnlyGroup s t g { grp with
        stack := rest, active := e.mask, pc := e.pc, fetched := [], issued := true, hold := if rest = [] ∧ 0 < grp.spilled then .reload else grp.hold } := by
  have pops (x : Cell) : (x, Group.wantsReload ((Group.pop (if grp.stack.isEmpty then Cell.reload x g.slot grp else grp)).getD
      (if grp.stack.isEmpty then Cell.reload x g.slot grp else grp))) =
      (x, { grp with stack := rest, active := e.mask, pc := e.pc, hold := if rest = [] ∧ 0 < grp.spilled then .reload else grp.hold }) := by
    refine congrArg (Prod.mk x) ?_
    have filled : ¬ grp.stack.isEmpty = true := by rw [top]; exact Bool.false_ne_true
    have popped : Group.pop grp = some { grp with stack := rest, active := e.mask, pc := e.pc } := by
      unfold Group.pop
      rw [top]
    rw [if_neg filled, popped]
    unfold Group.wantsReload
    by_cases last : rest = [] ∧ 0 < grp.spilled
    · simp [last.1, last.2]
    · have hold : ¬ (rest.isEmpty && decide (0 < grp.spilled)) = true := by
        rwa [Bool.and_eq_true_iff, List.isEmpty_iff, decide_eq_true_iff]
      rw [if_neg last]
      exact if_neg hold
  refine onlyGroup_runBr (i := .join g f) rfl issuable ?_ (pops _)
  have filled : (grp.stack.isEmpty && decide (grp.spilled = 0)) = false := by rw [top]; rfl
  rw [illegalIf_legal legal, illegalIf_legal filled]
  rfl

end

/-! ### `exit` -/

/-- Where a lane is left nothing is popped (R81). -/
theorem Cell.unwind_lanes (x : Cell) (slot n : Nat) {grp : Group} (left : grp.active ≠ 0) : Cell.unwind x slot n grp = grp := by
  cases n with
  | zero => rfl
  | succ n => exact if_pos left

/-- With no lane left and an entry on the hardware stack, that entry is popped (R77, R81). -/
theorem Cell.unwind_pop (x : Cell) (slot n : Nat) {grp : Group} {e : MaskEntry} {rest : List MaskEntry} (gone : grp.active = 0)
    (top : grp.stack = e :: rest) : Cell.unwind x slot (n + 1) grp = Cell.unwind x slot n { grp with stack := rest, active := e.mask, pc := e.pc } := by
  have filled : ¬ grp.stack.isEmpty = true := by rw [top]; exact Bool.false_ne_true
  have popped : Group.pop grp = some { grp with stack := rest, active := e.mask, pc := e.pc } := by
    unfold Group.pop
    rw [top]
  rw [Cell.unwind, if_neg (not_not.2 gone)]
  dsimp only
  rw [if_neg filled, popped]

/-- The group continues at the first entry that still has a lane, the entries above it popped (R81). -/
theorem Cell.unwind_skips (x : Cell) (slot : Nat) {e : MaskEntry} {rest : List MaskEntry} (lanes : e.mask ≠ 0) :
    ∀ (skipped : List MaskEntry) (n : Nat) (grp : Group), (∀ a ∈ skipped, a.mask = 0) → grp.active = 0 → grp.stack = skipped ++ e :: rest →
      Cell.unwind x slot (n + skipped.length + 1) grp = { grp with active := e.mask, pc := e.pc, stack := rest } := by
  intro skipped
  induction skipped with
  | nil =>
    intro n grp _ gone stack
    rw [Cell.unwind_pop x slot _ gone stack, Cell.unwind_lanes]
    exact lanes
  | cons a skipped ih =>
    intro n grp empty gone stack
    rw [Cell.unwind_pop x slot _ gone stack, List.length_cons, ← Nat.add_assoc,
      ih n _ (fun b hb => empty b (List.mem_cons_of_mem _ hb)) (empty a (List.mem_cons_self ..)) rfl]

/-- A group with no lane left in any entry, and nothing spilled, ends with none (R81). -/
theorem Cell.unwind_empties (x : Cell) (slot : Nat) : ∀ (stack : List MaskEntry) (n : Nat) (grp : Group), (∀ a ∈ stack, a.mask = 0) → grp.active = 0 →
    grp.spilled = 0 → grp.stack = stack → (Cell.unwind x slot (n + stack.length) grp).active = 0 ∧ (Cell.unwind x slot (n + stack.length) grp).stack = [] := by
  intro stack
  induction stack with
  | nil =>
    intro n grp _ gone unspilled hs
    cases n with
    | zero => exact ⟨gone, hs⟩
    | succ n =>
      have empty : Group.pop (Cell.reload x slot grp) = none := by
        unfold Group.pop Cell.reload
        rw [hs, unspilled]
        rfl
      have still : (Cell.reload x slot grp).stack = [] := by
        unfold Cell.reload
        rw [hs, unspilled]
        rfl
      have stays : Cell.unwind x slot (n + 1) grp = Cell.reload x slot grp := by
        rw [Cell.unwind, if_neg (not_not.2 gone)]
        dsimp only
        rw [if_pos (by rw [hs]; rfl), empty]
      rw [List.length_nil, Nat.add_zero, stays]
      exact ⟨gone, still⟩
  | cons a stack ih =>
    intro n grp empty gone unspilled hs
    rw [List.length_cons, ← Nat.add_assoc, Cell.unwind_pop x slot _ gone hs]
    exact ih n _ (fun b hb => empty b (List.mem_cons_of_mem _ hb)) (empty a (List.mem_cons_self ..)) unspilled rfl

/-- The group without the lanes `gone` (R81), before any pop. -/
def Group.withoutLanes (grp : Group) (gone : Nat) : Group :=
  { grp with active := Machine.withoutLanes grp.active gone, stack := grp.stack.map (fun e => { e with mask := Machine.withoutLanes e.mask gone }) }

/-- Removing lanes writes nothing in local memory where no entry is spilled. -/
theorem Cell.removeLanes_unspilled (x : Cell) (slot gone : Nat) {grp : Group} (unspilled : grp.spilled = 0) :
    Cell.removeLanes x slot gone grp = (x, Group.wantsReload (Cell.unwind x slot (grp.stack.length + 1) (Group.withoutLanes grp gone))) := by
  unfold Cell.removeLanes Group.withoutLanes
  rw [unspilled]
  dsimp only
  rw [List.length_map]
  rfl

/-- Nothing to reload: what a reload changes is the hold alone. -/
theorem Group.wantsReload_frame (grp : Group) : Group.wantsReload grp = { grp with hold := (Group.wantsReload grp).hold } := by
  unfold Group.wantsReload
  split <;> rfl

theorem Group.wantsReload_unspilled {grp : Group} (unspilled : grp.spilled = 0) : Group.wantsReload grp = grp := by
  unfold Group.wantsReload
  rw [unspilled]
  exact if_neg (by rw [decide_eq_false (Nat.lt_irrefl 0), Bool.and_false]; exact Bool.false_ne_true)

theorem exec_exit {s : State} {g : GroupLoc} {f : BrForm} {grp : Group} (issuable : State.issuable s g (brWords 0x55 f) = some grp)
    (legal : brIllegal f true false false false 0 0 = false) (unspilled : grp.spilled = 0) :
    ∃ t, exec (.exit g f) s = .next t ∧ OnlyGroup s t g
      { Group.wantsReload (Cell.unwind (State.cell s g.cell) g.slot (grp.stack.length + 1)
          (Group.withoutLanes { grp with pc := afterBr grp f } (Group.executing grp f.gp f.gn))) with fetched := [], issued := true } :=
  onlyGroup_runBr rfl issuable (illegalIf_legal legal ..) (Cell.removeLanes_unspilled _ _ _ (grp := { grp with pc := afterBr grp f }) unspilled)

end Sys2Proof.Machine

open Sys2Proof Sys2Proof.Machine

/-- Settles O17: `split` as its condition's lanes agree or not, `join` as the top entry says. -/
theorem splitJoin : Obligations.SplitJoin := ⟨fun _ _ _ _ => split_works, fun _ _ _ _ _ _ => join_pops⟩

/-- Settles O18: no lane is popped for while lanes are left; else the pops run through the entries that have none. -/
theorem exitRemovesLanes : Obligations.ExitRemovesLanes := by
  intro s g f grp issuable legal unspilled gone entries
  obtain ⟨t, run, only⟩ := exec_exit issuable legal unspilled
  refine ⟨t, _, run, only, fun left => ?_, fun empty none_ => ?_, fun empty skipped e rest split_ skip lanes => ?_⟩
  · rw [Cell.unwind_lanes _ _ _ left,
      Group.wantsReload_unspilled (grp := Group.withoutLanes { grp with pc := afterBr grp f } (Group.executing grp f.gp f.gn)) unspilled]
    rfl
  · rw [Group.wantsReload_frame]
    have length : grp.stack.length = entries.length := (List.length_map ..).symm
    rw [length, Nat.add_comm]
    exact Cell.unwind_empties _ _ entries 1 _ none_ empty unspilled rfl
  · rw [Group.wantsReload_frame]
    have length : grp.stack.length = rest.length + 1 + skipped.length := by
      rw [show grp.stack.length = entries.length from (List.length_map ..).symm, split_, List.length_append, List.length_cons]
      omega
    rw [length, Cell.unwind_skips _ _ lanes skipped _ _ skip empty split_]
    exact ⟨rfl, rfl, rfl⟩
end

section
/-!
SUPPORT. Instruction fetches (R84, R89, R118, R144, R342): what a fetch that L1 serves does to its cell, and the cases of the command.
-/

namespace Sys2Proof.Machine

/-! ### Settled bytes -/

/-- A cell whose copies are as they were leaves settled bytes settled. -/
theorem State.settled_setCell {s : State} {c : Nat} {y : Cell} (copies : y.copies = (State.cell s c).copies) {fa : Nat}
    (h : State.unsettledGlobal s fa = false) : State.unsettledGlobal (State.setCell s c y) fa = false := by
  have here : y.copies.any (fun k => CopySlot.containsFabric k.2 true fa) = false := by
    rw [copies]
    unfold State.cell NMap.get
    cases there : NMap.find s.cells c with
    | none => rfl
    | some x => exact Bool.eq_false_iff.2 (List.any_eq_false.1 h (c, x) (NMap.mem_of_find there))
  refine List.any_eq_false.2 fun e he => ?_
  have set_or_old : e = (c, y) ∨ e ∈ NMap.erase s.cells c := by
    unfold State.setCell NMap.set at he
    split at he
    · exact .inr he
    · exact NMap.mem_of_mem_insert he
  rcases set_or_old with rfl | old
  · rw [here]
    exact Bool.false_ne_true
  · exact List.any_eq_false.1 h e (NMap.mem_of_mem_erase old)

/-- A sector without undefined bytes is read as it is (R185). -/
theorem State.groupSector_settled {s : State} {fa : Nat} {d : SectorData} (whole : d.bytes.length = 32)
    (settled : ∀ i, i < 32 → State.unsettledGlobal s (fa + i) = false) (n : Nat) : State.groupSector s n fa d = d := by
  have same : ∀ bi ∈ d.bytes.zipIdx, (if State.unsettledGlobal s (fa + bi.2) then Config.freeByte (n + bi.2) else bi.1) = bi.1 := fun bi hbi => by
    have inside := List.snd_lt_of_mem_zipIdx hbi
    rw [settled bi.2 (by omega), if_neg Bool.false_ne_true]
  unfold State.groupSector
  rw [List.map_congr_left same, List.zipIdx_map_fst]

/-- A settled sector draws no free value. -/
theorem State.sectorsDraw_settled {s : State} {fa : Nat} (settled : ∀ i, i < 32 → State.unsettledGlobal s (fa + i) = false) (n : Nat) :
    State.sectorsDraw s n [fa] = 0 := by
  unfold State.sectorsDraw
  refine if_neg ?_
  rw [Bool.not_eq_true, List.any_eq_false]
  rintro _ hfa
  obtain rfl := List.mem_singleton.1 hfa
  rw [Bool.not_eq_true, List.any_eq_false]
  intro i hi
  rw [settled i (List.mem_range.1 hi)]
  exact Bool.false_ne_true

/-! ### A load that L1 serves -/

/-- A cache is read by sectors: the low five bits of an address do not matter (R341). -/
theorem cacheSector_aligned (n : Nat) (m : NMap (List CacheLine)) (fa : Nat) : cacheSector n m (fa / 32 * 32) = cacheSector n m fa := by
  have line : fa / 32 * 32 / 128 = fa / 128 := by omega
  have sector : fa / 32 * 32 / 32 % 4 = fa / 32 % 4 := by omega
  unfold cacheSector
  rw [line, sector]

/-- The access of one lane whose sector is there. -/
def servedAccess (slot reg cls : Nat) (kind : AccessKind) (tag : Half) (y : LaneAddr) (d : SectorData) : Access :=
  { slot := slot, reg := reg, kind := kind, lanes := [y], waits := [], later := { asks := [], scope := 0, cls := cls, tag := tag }
    sectors := [(y.fa / 32, d)], values := [] }

/-- The cell as a load of one lane that L1 serves leaves it, before the access ends: L1's order, and the access. -/
def Cell.served (x : Cell) (op : Nat) (y : LaneAddr) (a : Access) : Cell :=
  { x with l1 := cacheTouch 7 4 x.l1 (y.fa / 32 / 4) a.later.cls a.later.tag
           accesses := NMap.insert x.accesses op { a with later := LaterAsks.none } }

/-- A load once its sectors, those that L1 holds, the lines to ask for, the slots these need and the free values it draws are known. -/
def State.beginLoad (s : State) (c slot op : Nat) (kind : AccessKind) (reg scope cls : Nat) (tag : Half) (lanes : List (LaneAddr × Bool))
    (secs : List (Nat × Bool)) (local_ : NMap SectorData) (asks : List Ask) (fresh : List (Option Nat)) (draw : Nat) : Option State :=
  let x := State.cell s c
  if !Cell.slotsFree x (slot / 16) fresh then none
  else
    let s := { s with freeCount := s.freeCount + draw }
    let counted := secs.filter (fun q => l1Serves scope q.2)
    let s := if local_.isEmpty then s else State.count s .l1Hit 0 c local_.length
    let missed := counted.length - local_.length
    let s := if missed = 0 then s else State.count s .l1Miss 0 c missed
    let x := { x with l1 := local_.foldl (fun m (e : Nat × SectorData) => cacheTouch 7 4 m (e.1 / 4) cls tag) x.l1 }
    let access : Access :=
      { slot := slot, reg := reg, kind := kind, lanes := lanes.map (·.1), waits := [], later := LaterAsks.none, sectors := local_, values := [] }
    let s := State.setCell s c { x with accesses := NMap.insert x.accesses op access }
    let r := State.askAll s c slot op scope cls tag asks
    let x := State.cell r.1 c
    let access := { access with waits := r.2.1, later := { asks := r.2.2, scope := scope, cls := cls, tag := tag } }
    some (State.setCell r.1 c (if asks.isEmpty then Cell.finishAccess x op access else { x with accesses := NMap.insert x.accesses op access }))

/-- What L1 holds of some sectors, as a group reads it. -/
def State.l1Sectors (s : State) (c scope : Nat) (secs : List (Nat × Bool)) : NMap SectorData :=
  secs.zipIdx.filterMap (fun qi =>
    let q := qi.1
    if l1Serves scope q.2 then (cacheSector 7 (State.cell s c).l1 (q.1 * 32)).map (fun d => (q.1, State.groupSector s (s.freeCount + 32 * qi.2) (q.1 * 32) d))
    else none)

theorem State.startLoad_eq (s : State) (c slot op : Nat) (kind : AccessKind) (reg scope cls : Nat) (tag : Half) (lanes : List (LaneAddr × Bool)) :
    let secs := dedupe (lanes.map (fun y => (y.1.fa / 32, y.2)))
    let local_ := State.l1Sectors s c scope secs
    let asks := asksOf s.moduleNumber (secs.filter (fun q => (NMap.find local_ q.1).isNone))
    State.startLoad s c slot op kind reg scope cls tag lanes = State.beginLoad s c slot op kind reg scope cls tag lanes secs local_ asks
      ((asks.filter (fun a => (Cell.joinable (State.cell s c) a scope).isNone)).map (askChannel (State.ilv s) s.moduleNumber))
      (State.sectorsDraw s secs.length (local_.map (fun e => e.1 * 32))) := rfl

/-- A load of one lane whose sector L1 holds counts a hit and ends at once (R151, R342). -/
theorem State.startLoad_served {s : State} {c slot op reg cls : Nat} {kind : AccessKind} {tag : Half} {y : LaneAddr} {roc : Bool} {d : SectorData}
    (holds : cacheSector 7 (State.cell s c).l1 y.fa = some d) (whole : d.bytes.length = 32)
    (settled : ∀ i, i < 32 → State.unsettledGlobal s (y.fa / 32 * 32 + i) = false) (room : Cell.slotsUsed (State.cell s c) (slot / 16) ≤ 32) :
    let a := servedAccess slot reg cls kind tag y d
    let x := Cell.served (State.cell s c) op y a
    State.startLoad s c slot op kind reg 0 cls tag [(y, roc)] =
      some (State.setCell (State.setCell (State.count s .l1Hit 0 c 1) c x) c (Cell.finishAccess x op a)) := by
  intro a x
  have once : dedupe ([(y, roc)].map (fun y => (y.1.fa / 32, y.2))) = [(y.fa / 32, roc)] := rfl
  have local_ : State.l1Sectors s c 0 [(y.fa / 32, roc)] = [(y.fa / 32, d)] := by
    have served : l1Serves 0 roc = true := rfl
    unfold State.l1Sectors
    simp only [List.zipIdx_cons, List.zipIdx_nil, List.filterMap_cons, List.filterMap_nil, served, if_true, cacheSector_aligned, holds, Option.map_some,
      State.groupSector_settled whole settled]
  have rest : ([(y.fa / 32, roc)] : List (Nat × Bool)).filter (fun q => (NMap.find [(y.fa / 32, d)] q.1).isNone) = [] := by
    simp [NMap.find]
  have draw : State.sectorsDraw s [(y.fa / 32, roc)].length ([(y.fa / 32, d)].map (fun e => e.1 * 32)) = 0 := State.sectorsDraw_settled settled 1
  have free : Cell.slotsFree (State.cell s c) (slot / 16) [] = true := by
    unfold Cell.slotsFree
    rw [List.length_nil, Nat.add_zero, decide_eq_true room]
    rfl
  have asks : asksOf s.moduleNumber [] = [] := rfl
  rw [State.startLoad_eq]
  simp only [once, local_, rest, draw, asks, List.filter_nil, List.map_nil]
  refine (if_neg (by rw [free]; exact Bool.false_ne_true)).trans ?_
  show some (State.setCell (State.setCell (State.count s .l1Hit 0 c 1) c x) c
    (Cell.finishAccess (State.cell (State.setCell (State.count s .l1Hit 0 c 1) c x) c) op a)) = _
  rw [State.cell_setCell, if_pos rfl]

end Sys2Proof.Machine
end

section
/-!
SUPPORT. The cases of INSTRUCTION_FETCH and of LOOKASIDE_FILL (R84, R89, R118, R144, R368).
-/

namespace Sys2Proof.Machine

section
variable {s : State} {g : GroupLoc} {grp : Group}

/-! ### The word a group wants -/

/-- What a fetch does for a group that wants its next word at `ea`. -/
def State.fetchWord (s : State) (g : GroupLoc) (grp : Group) (ea : Nat) : State :=
  let x := State.cell s g.cell
  let park (code detail addr : Nat) : State :=
    State.park s g grp { code := code, detail := detail, addr := addr, lanes := grp.active.toNat, epoch := 0 } grp.pc 0
  match pageOf ea with
  | none => park 0x02 0 ea
  | some v =>
    match Cell.translation x v with
    | some t =>
      match permission t grp.job .fetch with
      | some d => park 0x03 d 0
      | none =>
        if State.codeWritten s grp.launch (fabricAddress t ea) then
          State.setGroup { State.setCell s g.cell (Cell.fillLookaside x t) with freeCount := s.freeCount + 2 } g
            { grp with fetched := grp.fetched ++ [freeInsn s.freeCount] }
        else
          State.settleRegion ((State.startLoad (State.setCell { s with nextId := s.nextId + 1 } g.cell (Cell.fillLookaside x t)) g.cell g.slot s.nextId .fetch
            grp.pc.toNat 0 2 grp.job [({ lane := grp.fetched.length, fa := fabricAddress t ea, ea := BitVec.ofNat 64 ea }, t.roc)]).getD s) (regionOf g.cell)
    | none =>
      match Region.translation (State.region s (regionOf g.cell)) v with
      | some _ => if grp.hold = .none then State.setGroup s g { grp with hold := .lookaside v } else s
      | none => park 0x02 0 ea

theorem exec_instructionFetch (wants : Claims.wantsWord s g grp) :
    exec (.instructionFetch g) s = .next (State.fetchWord s g grp (Claims.wordAddress grp)) := by
  obtain ⟨resident, runs, unparked, lanes, own, unheld, idle, short⟩ := wants
  have none_under : (State.cell s g.cell).accesses.any (fun e => decide (e.2.slot = g.slot ∧ e.2.kind = .fetch)) = false :=
    List.any_eq_false.2 fun e he => by rw [decide_eq_true_iff]; exact idle e he
  show execInstructionFetch g s = _
  unfold execInstructionFetch
  rw [resident]
  dsimp only
  rw [if_neg]
  · unfold State.fetchWord Claims.wordAddress
    dsimp only
    cases pageOf ((grp.codeBase.toNat + 8 * (grp.pc.toNat + grp.fetched.length)) % 2 ^ 64) with
    | none => rfl
    | some v =>
      dsimp only
      cases Cell.translation (State.cell s g.cell) v with
      | some t =>
        dsimp only
        cases permission t grp.job .fetch with
        | some d => rfl
        | none => dsimp only; split <;> rfl
      | none =>
        dsimp only
        cases Region.translation (State.region s (regionOf g.cell)) v with
        | some _ => dsimp only; split <;> rfl
        | none => rfl
  · simp only [runs, unparked, none_under, lanes, own, Bool.not_true, Option.isSome_none, decide_false, Bool.or_false, Bool.false_or,
      decide_eq_true_iff]
    intro enough
    cases fetched : grp.fetched with
    | nil =>
      rw [fetched] at enough
      exact Nat.not_succ_le_zero 0 enough
    | cons w rest =>
      have := short w rest fetched
      rw [fetched, List.length_cons] at enough
      dsimp only at enough
      split at this <;> split at enough <;> omega

/-! ### The word is there (R118, R342) -/

/-- The eight bytes of a fetched word, from its sector. -/
def fetchedWord (fa : Nat) (d : SectorData) : DWord := BitVec.ofNat 64 (ofBytes (tabulate 8 (fun i => d.bytes.getD (fa % 32 + i) 0)))

/-- An aligned word lies in one sector. -/
theorem gathered_word {fa : Nat} (aligned : fa % 8 = 0) (d : SectorData) :
    BitVec.ofNat 64 (ofBytes (tabulate 8 (fun i => (gathered [(fa / 32, d)] (fa + i)).1))) = fetchedWord fa d := by
  unfold fetchedWord
  refine congrArg (fun l => BitVec.ofNat 64 (ofBytes l)) (tabulate_congr fun i hi => ?_)
  have sector : (fa + i) / 32 = fa / 32 := by omega
  have place : (fa + i) % 32 = fa % 32 + i := by omega
  unfold gathered
  rw [sector, place, NMap.find, if_pos rfl]

/-- A fetch that ends joins its word to the words of its group. -/
theorem Cell.finishAccess_fetch {x : Cell} {slot op cls : Nat} {tag : Half} {y : LaneAddr} {d : SectorData} {old : Group} (there : Cell.group x slot = some old)
    (next : old.fetched.length = y.lane) (aligned : y.fa % 8 = 0) :
    Cell.finishAccess x op (servedAccess slot old.pc.toNat cls .fetch tag y d) =
      Cell.setGroup { x with accesses := NMap.erase x.accesses op } slot { old with fetched := old.fetched ++ [fetchedWord y.fa d] } := by
  have here : Cell.group { x with accesses := NMap.erase x.accesses op } slot = some old := there
  unfold Cell.finishAccess servedAccess
  dsimp only [List.head?_cons]
  rw [here]
  dsimp only
  rw [if_pos ⟨rfl, next⟩, gathered_word aligned]

theorem fabricAddress_aligned (tr : Translation) {ea : Nat} (aligned : ea % 8 = 0) : fabricAddress tr ea % 8 = 0 := by
  unfold fabricAddress
  omega

theorem pageOf_mapped {ea : Nat} (h : ea < 2 ^ 53) : pageOf ea = some (ea / 2 ^ 21) := if_pos h

/-- A fetch that L1 serves: the word joins, L1, its order and the lookaside's aside nothing else of the cell changes, and a hit is counted. -/
theorem fetchWord_served {ea : Nat} {tr : Translation} {d : SectorData} (resident : State.group s g = some grp) (mapped : ea < 2 ^ 53) (aligned : ea % 8 = 0)
    (page : Cell.translation (State.cell s g.cell) (ea / 2 ^ 21) = some tr) (allowed : permission tr grp.job .fetch = none)
    (holds : cacheSector 7 (State.cell s g.cell).l1 (fabricAddress tr ea) = some d) (whole : d.bytes.length = 32)
    (unwritten : State.codeWritten s grp.launch (fabricAddress tr ea) = false)
    (quiet : ∀ i, i < 32 → State.unsettledGlobal s (fabricAddress tr ea / 32 * 32 + i) = false)
    (room : Cell.slotsUsed (State.cell s g.cell) (g.slot / 16) ≤ 32) (settled : Claims.settled s g.cell) :
    ∃ t, State.fetchWord s g grp ea = t ∧ t = { s with cells := t.cells, tel := t.tel, nextId := s.nextId + 1 } ∧
      (∀ c, c ≠ g.cell → State.cell t c = State.cell s c) ∧
      State.group t g = some { grp with fetched := grp.fetched ++ [fetchedWord (fabricAddress tr ea) d] } ∧
      (∀ k, k ≠ g.slot → Cell.group (State.cell t g.cell) k = Cell.group (State.cell s g.cell) k) ∧
      (∃ gs la l1 ac, State.cell t g.cell = { State.cell s g.cell with groups := gs, lookaside := la, l1 := l1, accesses := ac }) ∧
      Claims.counted s t .l1Hit 0 g.cell 1 := by
  let y : LaneAddr := { lane := grp.fetched.length, fa := fabricAddress tr ea, ea := BitVec.ofNat 64 ea }
  let s1 := State.setCell { s with nextId := s.nextId + 1 } g.cell (Cell.fillLookaside (State.cell s g.cell) tr)
  let a := servedAccess g.slot grp.pc.toNat 2 .fetch grp.job y d
  let x := Cell.served (Cell.fillLookaside (State.cell s g.cell) tr) s.nextId y a
  let after : Group := { grp with fetched := grp.fetched ++ [fetchedWord (fabricAddress tr ea) d] }
  let x' := Cell.setGroup { x with accesses := NMap.erase x.accesses s.nextId } g.slot after
  let u := State.setCell (State.setCell (State.count s1 .l1Hit 0 g.cell 1) g.cell x) g.cell x'
  have cell1 : State.cell s1 g.cell = Cell.fillLookaside (State.cell s g.cell) tr := by rw [State.cell_setCell, if_pos rfl]
  have load : State.startLoad s1 g.cell g.slot s.nextId .fetch grp.pc.toNat 0 2 grp.job [(y, tr.roc)] = some u := by
    have served := State.startLoad_served (s := s1) (c := g.cell) (slot := g.slot) (op := s.nextId) (reg := grp.pc.toNat) (cls := 2) (kind := .fetch)
      (tag := grp.job) (y := y) (roc := tr.roc) (d := d) (by rw [cell1]; exact holds) whole
      (fun i hi => State.settled_setCell (s := { s with nextId := s.nextId + 1 }) (c := g.cell)
        (y := Cell.fillLookaside (State.cell s g.cell) tr) rfl (quiet i hi)) (by rw [cell1]; exact room)
    have ends : Cell.finishAccess x s.nextId a = x' := Cell.finishAccess_fetch (x := x) resident rfl (fabricAddress_aligned tr aligned)
    rw [served, cell1]
    exact congrArg (fun z => some (State.setCell (State.setCell (State.count s1 .l1Hit 0 g.cell 1) g.cell x) g.cell z)) ends
  have settles : State.settleRegion u (regionOf g.cell) = u := State.settleUpTo_none (s := u) settled _
  have cell_u (c : Nat) : State.cell u c = if g.cell = c then x' else State.cell s c := by
    show State.cell (State.setCell _ _ _) c = _
    rw [State.cell_setCell]
    split
    · rfl
    · next far => rw [State.cell_setCell, if_neg far, State.cell_count, State.cell_setCell, if_neg far]; rfl
  have cell_here : State.cell u g.cell = x' := (cell_u g.cell).trans (if_pos rfl)
  refine ⟨u, ?_, rfl, fun c hc => ?_, ?_, fun k hk => ?_, ?_, ?_⟩
  · unfold State.fetchWord
    dsimp only
    rw [pageOf_mapped mapped]
    dsimp only
    rw [page]
    dsimp only
    rw [allowed]
    dsimp only
    rw [unwritten, if_neg Bool.false_ne_true]
    show State.settleRegion ((State.startLoad s1 g.cell g.slot s.nextId .fetch grp.pc.toNat 0 2 grp.job [(y, tr.roc)]).getD s) (regionOf g.cell) = u
    rw [load]
    exact settles
  · rw [cell_u, if_neg (Ne.symm hc)]
  · unfold State.group
    rw [cell_here]
    exact (Cell.group_setGroup ..).trans (if_pos rfl)
  · rw [cell_here]
    exact (Cell.group_setGroup ..).trans (if_neg (Ne.symm hk))
  · exact ⟨_, _, _, _, cell_here⟩
  · exact counted_count s1 .l1Hit 0 g.cell 1 (by decide)

/-! ### The word is undefined, or its page is not at hand (R84, R89, R144) -/

/-- A fetch from a page written under the launch: the word is a free value (R144). -/
theorem fetchWord_written {ea : Nat} {tr : Translation} (mapped : ea < 2 ^ 53) (page : Cell.translation (State.cell s g.cell) (ea / 2 ^ 21) = some tr)
    (allowed : permission tr grp.job .fetch = none) (written : State.codeWritten s grp.launch (fabricAddress tr ea) = true) :
    ∃ t, State.fetchWord s g grp ea = t ∧ t = { s with cells := t.cells, freeCount := s.freeCount + 2 } ∧
      (∀ c, c ≠ g.cell → State.cell t c = State.cell s c) ∧ (∃ gs la, State.cell t g.cell = { State.cell s g.cell with groups := gs, lookaside := la }) ∧
      (∀ k, k ≠ g.slot → Cell.group (State.cell t g.cell) k = Cell.group (State.cell s g.cell) k) ∧
      State.group t g = some { grp with fetched := grp.fetched ++ [freeInsn s.freeCount] } := by
  let u := { State.setCell s g.cell (Cell.fillLookaside (State.cell s g.cell) tr) with freeCount := s.freeCount + 2 }
  have cell_u (c : Nat) : State.cell u c = if g.cell = c then Cell.fillLookaside (State.cell s g.cell) tr else State.cell s c := State.cell_setCell ..
  have cell_here : State.cell u g.cell = Cell.fillLookaside (State.cell s g.cell) tr := (cell_u g.cell).trans (if_pos rfl)
  refine ⟨State.setGroup u g { grp with fetched := grp.fetched ++ [freeInsn s.freeCount] }, ?_, rfl, fun c hc => ?_, ?_, fun k hk => ?_,
    State.group_setGroup ..⟩
  · unfold State.fetchWord
    dsimp only
    rw [pageOf_mapped mapped]
    dsimp only
    rw [page]
    dsimp only
    rw [allowed]
    exact if_pos written
  · unfold State.setGroup
    rw [State.cell_modCell, if_neg (Ne.symm hc), cell_u, if_neg (Ne.symm hc)]
  · unfold State.setGroup
    rw [State.cell_modCell, if_pos rfl, cell_here]
    exact ⟨_, _, rfl⟩
  · unfold State.setGroup
    rw [State.cell_modCell, if_pos rfl, cell_here, Cell.group_setGroup, if_neg (Ne.symm hk)]
    rfl

/-- A new group at a place: its cell's other parts, and every other cell, stay. -/
theorem onlyCell_setGroup (s : State) (g : GroupLoc) (after : Group) : OnlyCell s (State.setGroup s g after) g.cell ∧
    State.group (State.setGroup s g after) g = some after ∧
    (∀ k, k ≠ g.slot → Cell.group (State.cell (State.setGroup s g after) g.cell) k = Cell.group (State.cell s g.cell) k) ∧
    ∃ gs, State.cell (State.setGroup s g after) g.cell = { State.cell s g.cell with groups := gs } := by
  refine ⟨⟨rfl, fun d hd => ?_⟩, State.group_setGroup s g after, fun k hk => ?_, ?_⟩
  · unfold State.setGroup
    rw [State.cell_modCell, if_neg (Ne.symm hd)]
  · unfold State.setGroup
    rw [State.cell_modCell, if_pos rfl, Cell.group_setGroup, if_neg (Ne.symm hk)]
  · unfold State.setGroup
    rw [State.cell_modCell, if_pos rfl]
    exact ⟨_, rfl⟩

/-- A page that only the region window cache has: the group is held for the lookaside (R84). -/
theorem fetchWord_held {ea : Nat} (mapped : ea < 2 ^ 53) (absent : Cell.translation (State.cell s g.cell) (ea / 2 ^ 21) = none)
    (cached : (Region.translation (State.region s (regionOf g.cell)) (ea / 2 ^ 21)).isSome = true) (free : grp.hold = .none) :
    State.fetchWord s g grp ea = State.setGroup s g { grp with hold := .lookaside (ea / 2 ^ 21) } := by
  obtain ⟨tr, found⟩ := Option.isSome_iff_exists.1 cached
  unfold State.fetchWord
  dsimp only
  rw [pageOf_mapped mapped]
  dsimp only
  rw [absent]
  dsimp only
  rw [found]
  exact if_pos free

/-- A park that names the active lanes applies to them (Table 3.7). -/
theorem faultLanes_active {code : Nat} (lanes : laneless code = false) (grp : Group) (detail addr : Nat) :
    faultLanes grp { code := code, detail := detail, addr := addr, lanes := grp.active.toNat, epoch := 0 } = grp.active := by
  show (if laneless code = true then 0 else if grp.active.toNat = 0 then grp.active else BitVec.ofNat 32 grp.active.toNat) = grp.active
  rw [lanes, if_neg Bool.false_ne_true, BitVec.ofNat_toNat, BitVec.setWidth_eq, ite_self]

/-- A page in neither cache, or an address that no page holds: WINDOW_MISS (R84, R89). -/
theorem fetchWord_misses {ea : Nat} (nowhere : 2 ^ 53 ≤ ea ∨ (Cell.translation (State.cell s g.cell) (ea / 2 ^ 21) = none ∧
      Region.translation (State.region s (regionOf g.cell)) (ea / 2 ^ 21) = none)) :
    State.fetchWord s g grp ea = State.park s g grp { code := 0x02, detail := 0, addr := ea, lanes := grp.active.toNat, epoch := 0 } grp.pc 0 := by
  unfold State.fetchWord
  dsimp only
  by_cases mapped : ea < 2 ^ 53
  · obtain ⟨absent, uncached⟩ := nowhere.resolve_left (Nat.not_le_of_lt mapped)
    rw [pageOf_mapped mapped]
    dsimp only
    rw [absent]
    dsimp only
    rw [uncached]
  · rw [show pageOf ea = none from if_neg mapped]

/-- A page that forbids the fetch: PERMISSION (R84). -/
theorem fetchWord_forbidden {ea d : Nat} {tr : Translation} (mapped : ea < 2 ^ 53) (page : Cell.translation (State.cell s g.cell) (ea / 2 ^ 21) = some tr)
    (forbidden : permission tr grp.job .fetch = some d) :
    State.fetchWord s g grp ea = State.park s g grp { code := 0x03, detail := d, addr := 0, lanes := grp.active.toNat, epoch := 0 } grp.pc 0 := by
  unfold State.fetchWord
  dsimp only
  rw [pageOf_mapped mapped]
  dsimp only
  rw [page]
  dsimp only
  rw [forbidden]

end

theorem instructionFetches : Claims.instructionFetches := by
  intro s g grp wants
  have run := exec_instructionFetch wants
  have park {code detail addr : Nat} (lanes : laneless code = false) (parks : State.fetchWord s g grp (Claims.wordAddress grp) =
      State.park s g grp { code := code, detail := detail, addr := addr, lanes := grp.active.toNat, epoch := 0 } grp.pc 0) :
      ∃ t, exec (.instructionFetch g) s = .next t ∧ Claims.parkedAt s t g grp code detail addr grp.active 0 := by
    have parked := parkedAt_park s g grp { code := code, detail := detail, addr := addr, lanes := grp.active.toNat, epoch := 0 } 0
    rw [faultLanes_active lanes] at parked
    exact ⟨_, run.trans (congrArg Host.Outcome.next parks), parked⟩
  refine ⟨fun tr d mapped aligned page allowed holds whole unwritten quiet room settled => ?_, fun tr mapped page allowed written => ?_, ?_,
    fun nowhere => park rfl (fetchWord_misses nowhere), fun tr d mapped page forbidden => park rfl (fetchWord_forbidden mapped page forbidden)⟩
  · obtain ⟨t, fetch, after⟩ := fetchWord_served wants.1 mapped aligned page allowed holds whole unwritten quiet room settled
    exact ⟨t, run.trans (congrArg Host.Outcome.next fetch), after⟩
  · obtain ⟨t, fetch, after⟩ := fetchWord_written mapped page allowed written
    exact ⟨t, run.trans (congrArg Host.Outcome.next fetch), after⟩
  · rintro v mapped rfl absent cached free
    exact ⟨_, run.trans (congrArg Host.Outcome.next (fetchWord_held mapped absent cached free)), onlyCell_setGroup ..⟩

/-! ### LOOKASIDE_FILL -/

section
variable {s : State} {g : GroupLoc} {grp : Group} {v : Nat}

theorem exec_lookasideFill_miss (resident : State.group s g = some grp) (held : grp.hold = .lookaside v)
    (absent : Region.translation (State.region s (regionOf g.cell)) v = none) :
    exec (.lookasideFill g) s = .next (State.setGroup s g { grp with hold := .none }) := by
  show execLookasideFill g s = _
  unfold execLookasideFill
  rw [resident]
  dsimp only
  rw [held]
  dsimp only
  rw [absent]

/-- The state after a lookaside fill that the region window cache serves, its count aside. -/
def State.lookasideFilled (s : State) (g : GroupLoc) (grp : Group) (tr : Translation) : State :=
  State.setRegion (State.modCell (State.setGroup s g { grp with hold := .none }) g.cell (fun x => Cell.fillLookaside x tr)) (regionOf g.cell)
    (Region.fillWindow (State.region s (regionOf g.cell)) tr)

theorem exec_lookasideFill_hit {tr : Translation} (resident : State.group s g = some grp) (held : grp.hold = .lookaside v)
    (cached : Region.translation (State.region s (regionOf g.cell)) v = some tr) :
    exec (.lookasideFill g) s = .next (State.count (State.lookasideFilled s g grp tr) .wcHit 0 (regionOf g.cell) 1) := by
  show execLookasideFill g s = _
  unfold execLookasideFill
  rw [resident]
  dsimp only
  rw [held]
  dsimp only
  rw [cached]
  rfl

theorem State.cell_lookasideFilled (s : State) (g : GroupLoc) (grp : Group) (tr : Translation) (c : Nat) :
    State.cell (State.lookasideFilled s g grp tr) c =
      if g.cell = c then Cell.fillLookaside (Cell.setGroup (State.cell s g.cell) g.slot { grp with hold := .none }) tr else State.cell s c := by
  unfold State.lookasideFilled State.setGroup
  rw [State.cell_setRegion, State.cell_modCell, State.cell_modCell, if_pos rfl, State.cell_modCell]
  split <;> rfl

theorem State.tel_lookasideFilled (s : State) (g : GroupLoc) (grp : Group) (tr : Translation) : (State.lookasideFilled s g grp tr).tel = s.tel := rfl

theorem State.lookasideFilled_frame (s : State) (g : GroupLoc) (grp : Group) (tr : Translation) :
    State.lookasideFilled s g grp tr =
      { s with cells := (State.lookasideFilled s g grp tr).cells, regions := (State.lookasideFilled s g grp tr).regions } := rfl

theorem State.region_lookasideFilled (s : State) (g : GroupLoc) (grp : Group) (tr : Translation) (k : Nat) :
    State.region (State.lookasideFilled s g grp tr) k =
      if regionOf g.cell = k then Region.fillWindow (State.region s (regionOf g.cell)) tr else State.region s k := State.region_setRegion ..

theorem lookasideFill_hits {tr : Translation} (resident : State.group s g = some grp) (held : grp.hold = .lookaside v)
    (cached : Region.translation (State.region s (regionOf g.cell)) v = some tr) :
    let x := State.cell s g.cell
    let r := State.region s (regionOf g.cell)
    ∃ t, exec (.lookasideFill g) s = .next t ∧
      t = { s with cells := t.cells, regions := t.regions, tel := t.tel } ∧ (∀ c, c ≠ g.cell → State.cell t c = State.cell s c) ∧
      (∀ k, k ≠ regionOf g.cell → State.region t k = State.region s k) ∧ State.group t g = some { grp with hold := .none } ∧
      (∃ gs, State.cell t g.cell = { x with groups := gs, lookaside := (tr :: x.lookaside.filter (fun u => decide (u.vpn ≠ tr.vpn))).take 64 }) ∧
      (∀ k, k ≠ g.slot → Cell.group (State.cell t g.cell) k = Cell.group x k) ∧
      (∃ wc, State.region t (regionOf g.cell) = { r with windowCache := wc }) ∧ Claims.counted s t .wcHit 0 (regionOf g.cell) 1 := by
  intro x r
  have cell_here : State.cell (State.count (State.lookasideFilled s g grp tr) .wcHit 0 (regionOf g.cell) 1) g.cell =
      Cell.fillLookaside (Cell.setGroup x g.slot { grp with hold := .none }) tr := by
    rw [State.cell_count, State.cell_lookasideFilled, if_pos rfl]
  have region (k : Nat) : State.region (State.count (State.lookasideFilled s g grp tr) .wcHit 0 (regionOf g.cell) 1) k =
      if regionOf g.cell = k then Region.fillWindow r tr else State.region s k := by
    rw [State.region_congr (State.count_regions ..), State.region_lookasideFilled]
  have frame : State.count (State.lookasideFilled s g grp tr) .wcHit 0 (regionOf g.cell) 1 = { s with
      cells := (State.lookasideFilled s g grp tr).cells, regions := (State.lookasideFilled s g grp tr).regions
      tel := (State.count (State.lookasideFilled s g grp tr) .wcHit 0 (regionOf g.cell) 1).tel } := by
    rw [State.count_eq, State.lookasideFilled_frame]
  refine ⟨_, exec_lookasideFill_hit resident held cached, frame, fun c hc => ?_, fun k hk => ?_, ?_, ?_, fun k hk => ?_, ?_,
    counted_of_tel (State.tel_lookasideFilled s g grp tr) (counted_count (State.lookasideFilled s g grp tr) .wcHit 0 (regionOf g.cell) 1 (by decide))⟩
  · rw [State.cell_count, State.cell_lookasideFilled, if_neg (Ne.symm hc)]
  · rw [region, if_neg (Ne.symm hk)]
  · unfold State.group
    rw [cell_here]
    exact (Cell.group_setGroup ..).trans (if_pos rfl)
  · exact ⟨_, cell_here⟩
  · rw [cell_here]
    exact (Cell.group_setGroup ..).trans (if_neg (Ne.symm hk))
  · exact ⟨_, (region _).trans (if_pos rfl)⟩

end

end Sys2Proof.Machine
end

section
/-!
SUPPORT. Bytes of local memory after a write (R145), and the port-A grants of the mask stack (R78, R79).
-/

namespace Sys2Proof.Machine

/-! ### Local memory: read after write -/

/-- A run of values written at rising keys: each key of the run reads its value, every other key as before. -/
theorem NMap.get_setRun {V : Type} [DecidableEq V] (d : V) (a k : Nat) : ∀ (vs : List V) (n : Nat) (m : NMap V),
    NMap.get ((vs.zipIdx n).foldl (fun m e => NMap.set m d (a + e.2) e.1) m) d k =
      if a + n ≤ k ∧ k < a + n + vs.length then vs.getD (k - (a + n)) d else NMap.get m d k := by
  intro vs
  induction vs with
  | nil =>
    intro n m
    rw [if_neg (by rw [List.length_nil]; omega)]
    rfl
  | cons v vs ih =>
    intro n m
    rw [List.zipIdx_cons, List.foldl_cons, ih (n + 1), NMap.get_set, List.length_cons]
    by_cases first : a + n = k
    · subst first
      rw [if_neg (by omega), if_pos rfl, if_pos (by omega), Nat.sub_self]
      rfl
    · rw [if_neg first]
      by_cases inside : a + (n + 1) ≤ k ∧ k < a + (n + 1) + vs.length
      · rw [if_pos inside, if_pos (by omega), show k - (a + n) = k - (a + (n + 1)) + 1 by omega]
        rfl
      · rw [if_neg inside, if_neg (by omega)]

/-- A byte of local memory after a write that ends within it (R145). -/
theorem Cell.localByte_writeLocal (x : Cell) {a : Nat} {bs : List Byte} (p : Bool) (fits : a + bs.length ≤ localSize) {b : Nat} (hb : b < localSize) :
    Cell.localByte (Cell.writeLocal x a bs p) b = if a ≤ b ∧ b < a + bs.length then bs.getD (b - a) 0 else Cell.localByte x b := by
  have places : bs.zipIdx.foldl (fun m bi => NMap.set m (0 : Byte) ((a + bi.2) % localSize) bi.1) x.localMem =
      bs.zipIdx.foldl (fun m bi => NMap.set m (0 : Byte) (a + bi.2) bi.1) x.localMem :=
    List.foldl_ext _ _ _ fun m bi hbi => by
      have := List.snd_lt_of_mem_zipIdx hbi
      rw [Nat.mod_eq_of_lt (by omega)]
  unfold Cell.localByte Cell.writeLocal
  dsimp only
  rw [places, NMap.get_setRun, Nat.mod_eq_of_lt hb]
  rfl

/-- A number read where its bytes were written. -/
theorem Cell.localNat_writeLocal (x : Cell) {a : Nat} {bs : List Byte} (p : Bool) (fits : a + bs.length ≤ localSize) :
    Cell.localNat (Cell.writeLocal x a bs p) a bs.length = ofBytes bs := by
  unfold Cell.localNat Cell.localBytes
  refine congrArg ofBytes ?_
  refine Eq.trans (tabulate_congr fun i hi => ?_) (tabulate_getD_self bs 0)
  rw [Cell.localByte_writeLocal x p fits (by omega), if_pos (by omega), Nat.add_sub_cancel_left]

/-- A number read from bytes that two cells have in common. -/
theorem Cell.localNat_congr {x y : Cell} {a n : Nat} (same : ∀ i, i < n → Cell.localByte x (a + i) = Cell.localByte y (a + i)) :
    Cell.localNat x a n = Cell.localNat y a n := congrArg ofBytes (tabulate_congr same)

/-! ### The spill -/

/-- A mask-stack entry takes 64 bits (Table 3.5). -/
theorem MaskEntry.word_lt (e : MaskEntry) : MaskEntry.word e < 2 ^ 64 := by
  have pc := e.pc.isLt
  have mask := e.mask.isLt
  unfold MaskEntry.word
  split <;> omega

/-- Entries written one after the other from place `n` of an area on, oldest first. -/
def Cell.writeEntries (x : Cell) (area : Nat) (l : List MaskEntry) (n : Nat) : Cell :=
  (l.zipIdx n).foldl (fun x e => Cell.writeLocal x (area + 8 * e.2) (toBytes 8 (MaskEntry.word e.1)) false) x

theorem Cell.writeEntries_cons (x : Cell) (area : Nat) (e : MaskEntry) (l : List MaskEntry) (n : Nat) :
    Cell.writeEntries x area (e :: l) n = Cell.writeEntries (Cell.writeLocal x (area + 8 * n) (toBytes 8 (MaskEntry.word e)) false) area l (n + 1) := rfl

/-- Writing entries changes local memory only. -/
theorem Cell.writeEntries_frame (x : Cell) (area : Nat) (l : List MaskEntry) (n : Nat) :
    ∃ lm lp, Cell.writeEntries x area l n = { x with localMem := lm, localPoison := lp } :=
  foldl_keeps (fun y => ∃ lm lp, y = { x with localMem := lm, localPoison := lp }) _ (fun _ _ ⟨_, _, h⟩ => ⟨_, _, by rw [h]; rfl⟩) _ x ⟨_, _, rfl⟩

/-- Bytes outside the entries written stay. -/
theorem Cell.writeEntries_outside (area : Nat) : ∀ (l : List MaskEntry) (n : Nat) (x : Cell), area + 8 * (n + l.length) ≤ localSize →
    ∀ b, b < localSize → (b < area + 8 * n ∨ area + 8 * (n + l.length) ≤ b) → Cell.localByte (Cell.writeEntries x area l n) b = Cell.localByte x b := by
  intro l
  induction l with
  | nil => exact fun _ _ _ _ _ _ => rfl
  | cons e l ih =>
    intro n x fits b hb out
    rw [List.length_cons] at fits out
    have length : (toBytes 8 (MaskEntry.word e)).length = 8 := toBytes_length ..
    rw [Cell.writeEntries_cons, ih (n + 1) _ (by omega) b hb (by omega), Cell.localByte_writeLocal x false (by omega) hb, if_neg (by omega)]

/-- Each entry is read where it was written (R79). -/
theorem Cell.writeEntries_read (area : Nat) : ∀ (l : List MaskEntry) (n : Nat) (x : Cell), area + 8 * (n + l.length) ≤ localSize →
    ∀ i e, l[i]? = some e → Cell.localNat (Cell.writeEntries x area l n) (area + 8 * (n + i)) 8 = MaskEntry.word e := by
  intro l
  induction l with
  | nil => exact fun _ _ _ _ _ there => nomatch there
  | cons e l ih =>
    intro n x fits i e' there
    rw [List.length_cons] at fits
    have length : (toBytes 8 (MaskEntry.word e)).length = 8 := toBytes_length ..
    rw [Cell.writeEntries_cons]
    cases i with
    | zero =>
      obtain rfl := Option.some.inj there
      have stays : Cell.localNat (Cell.writeEntries (Cell.writeLocal x (area + 8 * n) (toBytes 8 (MaskEntry.word e)) false) area l (n + 1)) (area + 8 * n) 8 =
          Cell.localNat (Cell.writeLocal x (area + 8 * n) (toBytes 8 (MaskEntry.word e)) false) (area + 8 * n) 8 :=
        Cell.localNat_congr fun j hj => Cell.writeEntries_outside area l (n + 1) _ (by omega) _ (by omega) (.inl (by omega))
      have read := Cell.localNat_writeLocal x (a := area + 8 * n) (bs := toBytes 8 (MaskEntry.word e)) false (by omega)
      rw [length, ofBytes_toBytes 8 _ (MaskEntry.word_lt e)] at read
      exact stays.trans read
    | succ i =>
      rw [show n + (i + 1) = n + 1 + i by omega]
      exact ih (n + 1) _ (by omega) i e' there

/-- The oldest entries of a stack, oldest first. -/
theorem getElem?_oldest {α : Type} (l : List α) {n i : Nat} (hi : i < n) (hn : n ≤ l.length) :
    ((l.drop (l.length - n)).reverse)[i]? = l[l.length - 1 - i]? := by
  rw [List.getElem?_reverse (by rw [List.length_drop]; omega), List.getElem?_drop, List.length_drop]
  exact congrArg (fun j => l[j]?) (by omega)

section
variable {s : State} {g : GroupLoc} {grp : Group}

/-- The eight oldest entries of a group's hardware stack, oldest first (R78). -/
def Group.oldest (grp : Group) : List MaskEntry := (grp.stack.drop (grp.stack.length - 8)).reverse

/-- Places counted from `m` on are places from `n + m` on. -/
theorem Cell.writeEntries_shift (area m : Nat) : ∀ (l : List MaskEntry) (n : Nat) (x : Cell), (l.zipIdx n).foldl (fun x ei =>
    Cell.writeLocal x (area + 8 * (m + ei.2)) (toBytes 8 (MaskEntry.word ei.1)) false) x = Cell.writeEntries x area l (m + n) := by
  intro l
  induction l with
  | nil =>
    intro n x
    unfold Cell.writeEntries
    rw [List.zipIdx_nil, List.zipIdx_nil, List.foldl_nil, List.foldl_nil]
  | cons e l ih =>
    intro n x
    rw [List.zipIdx_cons, List.foldl_cons, Cell.writeEntries_cons, ih (n + 1), Nat.add_assoc]

/-- A spill writes the oldest entries from the top of the slot's area on (R78, R79). -/
theorem Cell.spill_eq (x : Cell) (slot : Nat) (grp : Group) : Cell.spill x slot grp =
    (Cell.writeEntries x (spillArea slot) (Group.oldest grp) grp.spilled,
      { grp with stack := grp.stack.take (grp.stack.length - 8), spilled := grp.spilled + (Group.oldest grp).length }) := by
  unfold Cell.spill
  dsimp only
  rw [Cell.writeEntries_shift, Nat.add_zero, Group.oldest]

theorem exec_maskStackSpill (resident : State.group s g = some grp) (held : grp.hold = .spill) (full : 8 ≤ grp.stack.length) :
    exec (.maskStackSpill g) s = .next (State.setCell s g.cell (Cell.setGroup
      (Cell.writeEntries (State.cell s g.cell) (spillArea g.slot) (Group.oldest grp) grp.spilled) g.slot
      { grp with stack := grp.stack.take (grp.stack.length - 8), spilled := grp.spilled + 8, hold := .none })) := by
  have length : (Group.oldest grp).length = 8 := by
    unfold Group.oldest
    rw [List.length_reverse, List.length_drop]
    omega
  show execMaskStackSpill g s = _
  unfold execMaskStackSpill
  rw [resident]
  dsimp only
  rw [if_pos held, Cell.spill_eq, show Group.oldest { grp with hold := .none } = Group.oldest grp from rfl, length]

theorem maskStack_spills (resident : State.group s g = some grp) (held : grp.hold = .spill) (full : 8 ≤ grp.stack.length) (room : grp.spilled + 8 ≤ 128)
    (slot : g.slot < 64) :
    let x := State.cell s g.cell
    let area := 0x70000 + g.slot * 0x400
    ∃ t, exec (.maskStackSpill g) s = .next t ∧ OnlyCell s t g.cell ∧
      State.group t g = some { grp with stack := grp.stack.take (grp.stack.length - 8), spilled := grp.spilled + 8, hold := .none } ∧
      (∀ k, k ≠ g.slot → Cell.group (State.cell t g.cell) k = Cell.group x k) ∧
      (∀ i e, i < 8 → grp.stack[grp.stack.length - 1 - i]? = some e →
        Cell.localNat (State.cell t g.cell) (area + 8 * (grp.spilled + i)) 8 = MaskEntry.word e) ∧
      (∀ a, a < 2 ^ 19 → a < area + 8 * grp.spilled ∨ area + 8 * grp.spilled + 64 ≤ a →
        Cell.localByte (State.cell t g.cell) a = Cell.localByte x a) ∧
      ∃ gs lm lp, State.cell t g.cell = { x with groups := gs, localMem := lm, localPoison := lp } := by
  intro x area
  have length : (Group.oldest grp).length = 8 := by
    unfold Group.oldest
    rw [List.length_reverse, List.length_drop]
    omega
  have fits : area + 8 * (grp.spilled + (Group.oldest grp).length) ≤ localSize := by
    have size : localSize = 0x80000 := rfl
    omega
  have cell_here (after : Cell) : State.cell (State.setCell s g.cell after) g.cell = after := by rw [State.cell_setCell, if_pos rfl]
  obtain ⟨lm, lp, frame⟩ := Cell.writeEntries_frame x area (Group.oldest grp) grp.spilled
  refine ⟨_, exec_maskStackSpill resident held full, ⟨rfl, fun d hd => ?_⟩, ?_, fun k hk => ?_, fun i e hi there => ?_, fun a ha out => ?_, ?_⟩
  · rw [State.cell_setCell, if_neg (Ne.symm hd)]
  · unfold State.group
    rw [cell_here, Cell.group_setGroup, if_pos rfl]
  · rw [cell_here, Cell.group_setGroup, if_neg (Ne.symm hk)]
    exact (congrArg (fun y => Cell.group y k) frame).trans rfl
  · rw [cell_here]
    rw [← getElem?_oldest grp.stack hi full] at there
    exact Cell.writeEntries_read area _ _ x fits i e there
  · rw [cell_here]
    exact Cell.writeEntries_outside area _ _ x fits a ha (by omega)
  · rw [cell_here]
    exact ⟨_, lm, lp, congrArg (fun y => Cell.setGroup y g.slot _) frame⟩

/-! ### The reload -/

theorem exec_maskStackReload (resident : State.group s g = some grp) (held : grp.hold = .reload) : exec (.maskStackReload g) s =
    .next (State.setGroup s g (Cell.reload (State.cell s g.cell) g.slot { grp with hold := .none })) := by
  show execMaskStackReload g s = _
  unfold execMaskStackReload
  rw [resident]
  exact if_pos held

theorem maskStack_reloads (resident : State.group s g = some grp) (held : grp.hold = .reload) (some_ : 8 ≤ grp.spilled) :
    let x := State.cell s g.cell
    ∃ t after, exec (.maskStackReload g) s = .next t ∧ OnlyGroup s t g after ∧
      after = { grp with stack := after.stack, spilled := grp.spilled - 8, hold := .none } ∧ after.stack.length = grp.stack.length + 8 ∧
      after.stack.take grp.stack.length = grp.stack ∧
      ∀ i, i < 8 → after.stack[grp.stack.length + 7 - i]? = some (Cell.spilledEntry x g.slot (grp.spilled - 8 + i)) := by
  intro x
  let back := (tabulate 8 (fun i => Cell.spilledEntry x g.slot (grp.spilled - 8 + i))).reverse
  have length : back.length = 8 := rfl
  have reloaded : Cell.reload x g.slot { grp with hold := .none } =
      { grp with stack := grp.stack ++ back, spilled := grp.spilled - 8, hold := .none } := by
    unfold Cell.reload
    dsimp only
    rw [Nat.min_eq_left some_]
  refine ⟨_, _, exec_maskStackReload resident held, onlyGroup_setCell s g _, ?_⟩
  rw [reloaded]
  refine ⟨rfl, ?_, List.take_left .., fun i hi => ?_⟩
  · rw [List.length_append, length]
  · have place : grp.stack.length + 7 - i = grp.stack.length + (7 - i) := by omega
    rw [place, List.getElem?_append_right (Nat.le_add_right ..), Nat.add_sub_cancel_left, List.getElem?_reverse (show 7 - i < 8 by omega)]
    show (tabulate 8 (fun i => Cell.spilledEntry x g.slot (grp.spilled - 8 + i)))[8 - 1 - (7 - i)]? = _
    rw [show 8 - 1 - (7 - i) = i by omega]
    unfold tabulate
    rw [List.getElem?_map, List.getElem?_range hi]
    rfl

end

theorem lookasideAndMaskStack : Claims.lookasideAndMaskStack := by
  refine ⟨fun s g grp v resident held => ⟨fun absent => ?_, fun tr cached => lookasideFill_hits resident held cached⟩,
    fun s g grp resident held full room slot => maskStack_spills resident held full room slot,
    fun s g grp resident held some_ => maskStack_reloads resident held some_⟩
  obtain ⟨only, group, -, cell⟩ := onlyCell_setGroup s g { grp with hold := .none }
  exact ⟨_, exec_lookasideFill_miss resident held absent, only, group, cell⟩

end Sys2Proof.Machine

open Sys2Proof Sys2Proof.Machine

/-- Settles O31: a fetch by the place of its page and word, and the three grants by what they move. -/
theorem fetchesAndMaskStack : Obligations.FetchesAndMaskStack := ⟨instructionFetches, lookasideAndMaskStack⟩
end

section
/-!
SUPPORT. The place of a group (R62, R63, R67), its registers as placed (Tables 3.2 and 3.3), and the clearing of R150.
-/

namespace Sys2Proof.Machine

/-! ### Rings -/

theorem State.ring_setRing (s : State) (k j : Nat) (x : Ring) :
    State.ring (State.setRing s k x) j = if k = j then x else State.ring s j := NMap.get_set ..

/-! ### The first place with room -/

/-- A search that keeps what it has found finds the first result in order. -/
theorem foldl_first {α β : Type} {f : Option β → α → Option β} (F : α → Option β) (keeps : ∀ b x, f (some b) x = some b)
    (tries : ∀ x, f none x = F x) (l : List α) : l.foldl f none = l.findSome? F := by
  have found : ∀ (l : List α) b, l.foldl f (some b) = some b := fun l b => foldl_fixed fun x _ => keeps b x
  induction l with
  | nil => rfl
  | cons x l ih =>
    rw [List.foldl_cons, tries, List.findSome?_cons]
    cases F x with
    | none => exact ih
    | some b => exact found l b

/-- The result of a search over the numbers below `n` is that of the lowest number that has one. -/
theorem findSome?_range {β : Type} {F : Nat → Option β} {n : Nat} {b : β} (h : (List.range n).findSome? F = some b) :
    ∃ c, c < n ∧ F c = some b ∧ ∀ d, d < c → F d = none := by
  obtain ⟨before, c, after, split, here, none⟩ := List.findSome?_eq_some_iff.mp h
  have bound : c < n := List.mem_range.mp (split ▸ List.mem_append_right before (List.mem_cons_self ..))
  refine ⟨c, bound, here, fun d hd => ?_⟩
  have rising := split ▸ List.pairwise_lt_range (n := n)
  have listed : d ∈ before ++ c :: after := split ▸ List.mem_range.mpr (hd.trans bound)
  rcases List.mem_append.mp listed with first | rest
  · exact none d first
  · rcases List.mem_cons.mp rest with rfl | later
    · exact absurd hd (Nat.lt_irrefl _)
    · have := List.rel_of_pairwise_cons (List.pairwise_append.mp rising).2.1 later
      omega

/-- The register base found lies in a free, aligned run (R62). -/
theorem Cell.freeRun_some {x : Cell} {p n b : Nat} (h : Cell.freeRun x p n = some b) :
    b % 8 = 0 ∧ b + n ≤ 512 ∧ ∀ e ∈ x.groups, e.1 / 16 = p → b + n ≤ e.2.regBase ∨ e.2.regBase + e.2.regs ≤ b := by
  have fits := List.find?_some h
  rw [Bool.and_eq_true, decide_eq_true_eq, List.all_eq_true] at fits
  obtain ⟨inside, apart⟩ := fits
  obtain ⟨i, -, rfl⟩ := List.mem_map.mp (List.mem_of_find?_eq_some h)
  exact ⟨Nat.mul_mod_right 8 i, inside, fun e he pipe =>
    of_decide_eq_true (apart e (List.mem_filter.mpr ⟨he, decide_eq_true pipe⟩))⟩

/-- The place found in a pipeline: a free slot of it and a free run of registers. -/
theorem Cell.roomIn_some {x : Cell} {p n : Nat} {deferred : Bool} {slot base : Nat} (h : Cell.roomIn x p n deferred = some (slot, base)) :
    slot / 16 = p ∧ Cell.group x slot = none ∧ Cell.freeRun x p n = some base := by
  unfold Cell.roomIn at h
  dsimp only at h
  split at h
  · cases h
  · split at h
    · next i b free run =>
      obtain ⟨empty, inPipe, -⟩ := List.find?_range_eq_some.mp free
      have bound := List.mem_range.mp inPipe
      obtain ⟨rfl, rfl⟩ := Prod.mk.inj (Option.some.inj h)
      exact ⟨by omega, Option.isNone_iff_eq_none.mp empty, run⟩
    · cases h

theorem Cell.room_some {x : Cell} {n : Nat} {deferred : Bool} {v : Nat × Nat} (h : Cell.room x n deferred = some v) :
    ∃ p, p < 4 ∧ Cell.roomIn x p n deferred = some v := by
  unfold Cell.room at h
  split at h
  · cases h
  · rw [foldl_first (fun p => Cell.roomIn x p n deferred) (fun _ _ => rfl) (fun _ => rfl)] at h
    obtain ⟨p, hp, here, -⟩ := findSome?_range h
    exact ⟨p, hp, here⟩

/-- Whether a record's groups may go to a cell at all (R63, R317). -/
def State.mayHold (s : State) (cells c : Nat) : Bool :=
  cells.testBit c && State.cellRuns s c && !State.tasted s c && (State.regionPower s (regionOf c)).on

/-- The place found: in the lowest allowed cell with room (R63). -/
theorem State.roomFor_some {s : State} {r : LaunchRecord} {c slot base : Nat} (h : State.roomFor s r = some (c, slot, base)) :
    c < 384 ∧ State.mayHold s r.cells c = true ∧ Cell.room (State.cell s c) r.regs r.deferred = some (slot, base) ∧
      ∀ d, d < c → State.mayHold s r.cells d = true → Cell.room (State.cell s d) r.regs r.deferred = none := by
  unfold State.roomFor at h
  rw [foldl_first (fun c => if State.mayHold s r.cells c then (Cell.room (State.cell s c) r.regs r.deferred).map (fun b => (c, b.1, b.2)) else none)
    (fun _ _ => rfl) (fun _ => rfl)] at h
  obtain ⟨c', bound, here, full⟩ := findSome?_range h
  split at here
  · next allowed =>
    obtain ⟨b, room, place⟩ := Option.map_eq_some_iff.mp here
    cases place
    refine ⟨bound, allowed, room, fun d hd ok => ?_⟩
    have none := full d hd
    rw [if_pos ok] at none
    exact Option.map_eq_none_iff.mp none
  · cases here

theorem State.mayHold_iff {s : State} {cells c : Nat} : State.mayHold s cells c = true ↔
    cells.testBit c = true ∧ State.cellRuns s c = true ∧ State.tasted s c = false ∧ (State.regionPower s (regionOf c)).on = true := by
  unfold State.mayHold
  rw [Bool.and_eq_true, Bool.and_eq_true, Bool.and_eq_true, Bool.not_eq_true', and_assoc, and_assoc]

/-! ### A group as placed -/

/-- The values of u0 to u7 (Table 3.3). -/
def placedWords (r : LaunchRecord) (c slot i : Nat) : List Nat :=
  let gid := (r.groupBase + i) % 2 ^ 64
  [gid % 2 ^ 32, gid / 2 ^ 32, r.args % 2 ^ 32, r.args / 2 ^ 32, c / 48 * 2 ^ 16 + c / 6 % 8 * 2 ^ 8 + c % 6,
    slot + b2n r.deferred * 2 ^ 8, r.regs + LaunchRecord.allowance r * 2 ^ 16, r.epoch]

theorem LaunchRecord.allowance_eq (r : LaunchRecord) : LaunchRecord.allowance r = [0, 32, 64, 128].getD r.spill 128 := by
  unfold LaunchRecord.allowance
  rcases r.spill with _ | _ | _ | _ | n <;> rfl

/-- A uniform register of a placed group holds its word of Table 3.3, and every other one zero. -/
theorem uni_placedGroup (r : LaunchRecord) (ring launch age c slot base i : Nat) (tag : Half) (k : Nat) :
    Group.uni (placedGroup r ring launch age c slot base i tag) k = (placedWords r c slot i).getD k 0 % 2 ^ 32 := by
  have words : (placedGroup r ring launch age c slot base i tag).u =
      ((placedWords r c slot i).map (BitVec.ofNat 32)).zipIdx.foldl (fun m e => NMap.set m 0 (0 + e.2) e.1) [] := rfl
  unfold Group.uni
  rw [words, NMap.get_setRun, List.length_map]
  by_cases inside : k < (placedWords r c slot i).length
  · rw [if_pos ⟨Nat.zero_le _, by omega⟩, Nat.sub_zero, List.getD_eq_getElem _ _ (by rw [List.length_map]; exact inside), List.getElem_map,
      List.getD_eq_getElem _ _ inside]
    rfl
  · rw [if_neg (by omega), List.getD_eq_default _ _ (by omega)]
    rfl

/-- The words of Table 3.3 as 32-bit values: each fits or is cut to 32 bits. -/
theorem placedWords_getD (r : LaunchRecord) {c slot : Nat} (hc : c < 384) (hs : slot < 64) (i k : Nat) :
    (placedWords r c slot i).getD k 0 % 2 ^ 32 =
      (let gid := (r.groupBase + i) % 2 ^ 64
       [gid % 2 ^ 32, gid / 2 ^ 32, r.args % 2 ^ 32, r.args / 2 ^ 32 % 2 ^ 32, c / 48 * 2 ^ 16 + c / 6 % 8 * 2 ^ 8 + c % 6,
         slot + (if r.deferred then 256 else 0), (r.regs + LaunchRecord.allowance r * 2 ^ 16) % 2 ^ 32, r.epoch % 2 ^ 32]).getD k 0 := by
  rcases k with _ | _ | _ | _ | _ | _ | _ | _ | k
  · exact Nat.mod_mod ..
  · show (r.groupBase + i) % 2 ^ 64 / 2 ^ 32 % 2 ^ 32 = (r.groupBase + i) % 2 ^ 64 / 2 ^ 32
    omega
  · exact Nat.mod_mod ..
  · rfl
  · show (c / 48 * 2 ^ 16 + c / 6 % 8 * 2 ^ 8 + c % 6) % 2 ^ 32 = c / 48 * 2 ^ 16 + c / 6 % 8 * 2 ^ 8 + c % 6
    omega
  · show (slot + b2n r.deferred * 2 ^ 8) % 2 ^ 32 = slot + (if r.deferred then 256 else 0)
    cases r.deferred
    · exact Nat.mod_eq_of_lt (Nat.lt_of_lt_of_le hs (by decide))
    · show (slot + 256) % 2 ^ 32 = slot + 256
      omega
  · rfl
  · rfl
  · rfl

/-! ### The clearing of R150 -/

/-- The cell as it takes a group of a job: what the clearing changes besides local memory, its marks and the slices are the operands written. -/
theorem Cell.forJob_eq (x : Cell) (tag epoch : Half) : ∃ co ar n sl, Cell.forJob x tag epoch =
    { x with
      localMem := if x.lastJob = tag then x.localMem else []
      localPoison := if x.lastJob = tag then x.localPoison else []
      copies := co, array := ar, sliceCount := n, slices := sl, lastJob := tag, epochs := NMap.set x.epochs 0 tag.toNat epoch } := by
  unfold Cell.forJob
  dsimp only
  split
  · exact ⟨_, _, _, _, rfl⟩
  · exact ⟨_, _, _, _, rfl⟩

/-! ### The placement -/

/-- The launch of a ring's record: the one its earlier groups began, or a new one. -/
def State.openLaunch (s : State) (x : Ring) (r : LaunchRecord) : State :=
  if x.launch.isSome then s
  else
    { s with
      nextId := s.nextId + 1
      launches := NMap.insert s.launches s.nextId
        { tag := x.tag, target := BitVec.ofNat 64 r.target, inc := r.inc, region := Ring.owner x, complete := false, bound := [], retired := [] } }

/-- The cell with the group of a record in its slot. -/
def Cell.place (y : Cell) (ring launch : Nat) (x : Ring) (r : LaunchRecord) (c slot base : Nat) (epoch : Half) : Cell :=
  let y := Cell.forJob y x.tag epoch
  let y := Cell.setGroup y slot (placedGroup r ring launch y.nextAge c slot base x.placed x.tag)
  { y with nextAge := y.nextAge + 1, sticky := NMap.set y.sticky 0 slot 0 }

/-- The ring after a group of its record: past the record with its last group. -/
def State.moveRing (s : State) (ring : Nat) (x : Ring) (r : LaunchRecord) (launch : Nat) : State :=
  if x.placed + 1 = r.groups then
    State.setRing { s with launches := NMap.mod s.launches launch (fun l => { l with complete := true }) } ring
      { x with head := (x.head + 1) % 2 ^ 32, placed := 0, launch := none, binding := none }
  else State.setRing s ring { x with placed := x.placed + 1, launch := some launch }

section
variable {s : State} {ring c slot base : Nat} {x : Ring} {r : LaunchRecord}

theorem State.bindCell_unbound (launch : Nat) (unbound : r.bind = 0) : State.bindCell s c launch x r = s := by
  unfold State.bindCell
  split
  · rfl
  · exact if_pos (.inl unbound)

/-- A placement without a binding block is the launch, the cell and the ring, one after the other. -/
theorem State.placeGroup_unbound (unbound : r.bind = 0) : State.placeGroup s ring x r c slot base =
    State.moveRing (State.modCell (State.openLaunch s x r) c (fun y =>
      Cell.place y ring (x.launch.getD s.nextId) x r c slot base ((State.job s x.tag).epoch.getD 0))) ring x r (x.launch.getD s.nextId) := by
  have same : ∀ (u : State), State.bindCell u c (x.launch.getD s.nextId) x r = u := fun u => State.bindCell_unbound _ unbound
  unfold State.openLaunch
  cases h : x.launch with
  | none =>
    rw [h] at same
    unfold State.placeGroup
    simp only [h, Option.isSome_none, Bool.false_eq_true, if_false, same]
    rfl
  | some l =>
    rw [h] at same
    unfold State.placeGroup
    simp only [h, Option.isSome_some, if_true, same]
    rfl

theorem State.openLaunch_eq (s : State) (x : Ring) (r : LaunchRecord) :
    ∃ n la, State.openLaunch s x r = { s with nextId := n, launches := la } ∧
      (x.launch = none → NMap.find la (x.launch.getD s.nextId) = some
        { tag := x.tag, target := BitVec.ofNat 64 r.target, inc := r.inc, region := Ring.owner x, complete := false, bound := [], retired := [] }) := by
  unfold State.openLaunch
  cases h : x.launch with
  | none => exact ⟨_, _, rfl, fun _ => by rw [Option.getD_none, NMap.find_insert, if_pos rfl]⟩
  | some l => exact ⟨_, _, rfl, nofun⟩

theorem State.moveRing_eq (s : State) (ring : Nat) (x : Ring) (r : LaunchRecord) (launch : Nat) :
    ∃ ri la, State.moveRing s ring x r launch = { s with rings := ri, launches := la } ∧
      (∀ l, NMap.find s.launches launch = some l →
        ∃ b, NMap.find la launch = some { l with complete := b } ∧ b = (l.complete || decide (r.groups = x.placed + 1))) := by
  unfold State.moveRing
  split
  · next last =>
    refine ⟨_, NMap.mod s.launches launch (fun l => { l with complete := true }), rfl, fun l there => ⟨true, ?_, by rw [decide_eq_true last.symm, Bool.or_true]⟩⟩
    rw [NMap.find_mod, if_pos rfl, there]
    rfl
  · next more => exact ⟨_, _, rfl, fun l there => ⟨l.complete, there, by rw [decide_eq_false (Ne.symm more), Bool.or_false]⟩⟩

theorem State.ring_moveRing (s : State) (ring : Nat) (x : Ring) (r : LaunchRecord) (launch : Nat) :
    (∀ k, k ≠ ring → State.ring (State.moveRing s ring x r launch) k = State.ring s k) ∧
      State.ring (State.moveRing s ring x r launch) ring =
        if x.placed + 1 = r.groups then { x with head := (x.head + 1) % 2 ^ 32, placed := 0, launch := none, binding := none }
        else { x with placed := x.placed + 1, launch := some launch } := by
  unfold State.moveRing
  split
  · exact ⟨fun k hk => by rw [State.ring_setRing, if_neg (Ne.symm hk)]; rfl, by rw [State.ring_setRing, if_pos rfl]⟩
  · exact ⟨fun k hk => by rw [State.ring_setRing, if_neg (Ne.symm hk)], by rw [State.ring_setRing, if_pos rfl]⟩

end

section
variable {s : State} {ring : Nat}

/-- A ring that may place passes the first checks of `GROUP_PLACE`. -/
theorem mayPlace_checks (may : Claims.mayPlace s ring) :
    ¬ ((State.ring s ring).status ≠ .running ∨ Ring.waiting (State.ring s ring) = 0 ∨ s.phase ≠ .up ∨
      (State.job s (State.ring s ring).tag).checkpoint.isSome = true ∨ (State.region s (Ring.owner (State.ring s ring))).fenced = true) ∧
    ¬ (NMap.get s.regions Region.reset (homeOf (State.ilv s) ((State.ring s ring).base + 128 * ((State.ring s ring).head %
      Ring.size (State.ring s ring)))).1).fenced = true := by
  obtain ⟨running, waiting, up, free, unfenced, unfencedHome⟩ := may
  constructor
  · rw [free, unfenced]
    simp [running, waiting, up]
  · rw [Bool.not_eq_true]
    exact unfencedHome

theorem State.bindingNeed_unbound (s : State) (x : Ring) : State.bindingNeed s x 0 = .ready := rfl

theorem exec_groupPlace_error {code : Nat} (may : Claims.mayPlace s ring) (first : (State.ring s ring).placed = 0)
    (error : State.recordError s (State.ring s ring) (State.recordAt s (State.ring s ring)) = some code) :
    exec (.groupPlace ring) s = .next (State.stopRing s ring code) := by
  obtain ⟨taken, home⟩ := mayPlace_checks may
  show execGroupPlace ring s = _
  unfold execGroupPlace
  dsimp only
  rw [if_neg taken, if_neg home, if_pos first, error]

theorem exec_groupPlace_room {v : Nat × Nat × Nat} (may : Claims.mayPlace s ring)
    (sound : (State.ring s ring).placed ≠ 0 ∨ State.recordError s (State.ring s ring) (State.recordAt s (State.ring s ring)) = none)
    (unbound : (State.recordAt s (State.ring s ring)).bind = 0) (room : State.roomFor s (State.recordAt s (State.ring s ring)) = some v) :
    exec (.groupPlace ring) s =
      .next (State.placeGroup s ring (State.ring s ring) (State.recordAt s (State.ring s ring)) v.1 v.2.1 v.2.2) := by
  obtain ⟨taken, home⟩ := mayPlace_checks may
  have passed : (if (State.ring s ring).placed = 0 then State.recordError s (State.ring s ring) (State.recordAt s (State.ring s ring)) else none) = none := by
    rcases sound with later | none
    · exact if_neg later
    · rw [none, ite_self]
  show execGroupPlace ring s = _
  unfold execGroupPlace
  dsimp only
  rw [if_neg taken, if_neg home, passed, unbound, State.bindingNeed_unbound, room]

/-- The cell that takes a group: the group as Tables 3.2 and 3.3 say, local memory as R150 says, nothing of another group. -/
theorem Cell.place_eq (y : Cell) (ring launch : Nat) (x : Ring) (r : LaunchRecord) (c slot base : Nat) (epoch : Half) :
    ∃ co ar n sl, Cell.place y ring launch x r c slot base epoch =
      { y with
        localMem := if y.lastJob = x.tag then y.localMem else []
        localPoison := if y.lastJob = x.tag then y.localPoison else []
        copies := co, array := ar, sliceCount := n, slices := sl, lastJob := x.tag, epochs := NMap.set y.epochs 0 x.tag.toNat epoch
        groups := NMap.insert y.groups slot (placedGroup r ring launch y.nextAge c slot base x.placed x.tag)
        nextAge := y.nextAge + 1, sticky := NMap.set y.sticky 0 slot 0 } := by
  obtain ⟨co, ar, n, sl, h⟩ := Cell.forJob_eq y x.tag epoch
  refine ⟨co, ar, n, sl, ?_⟩
  unfold Cell.place
  rw [h]
  rfl

end

end Sys2Proof.Machine
open Sys2Proof Sys2Proof.Machine

/-- Settles O36: a record's error stops its ring; the search for room takes the lowest cell, a free slot and a free run of registers; and a
placement is the launch opened, the cell's R150 clearing with the group put in, and the ring moved on. -/
theorem groupsArePlaced : Obligations.GroupsArePlaced := by
  refine ⟨fun s ring code may first error => ?_, fun s r c slot base room => ?_, ?_⟩
  · refine ⟨_, exec_groupPlace_error may first error, ?_⟩
    have stops : State.stopRing s ring code = State.setRing s ring { State.ring s ring with status := .stopped, error := code } :=
      if_neg (by rw [may.1]; exact nofun)
    rw [stops]
    exact ⟨rfl, by rw [State.ring_setRing, if_pos rfl], fun k hk => by rw [State.ring_setRing, if_neg (Ne.symm hk)]⟩
  · obtain ⟨bound, allowed, found, lowest⟩ := State.roomFor_some room
    obtain ⟨inSet, runs, untasted, -⟩ := State.mayHold_iff.mp allowed
    obtain ⟨p, hp, place⟩ := Cell.room_some found
    obtain ⟨pipe, free, run⟩ := Cell.roomIn_some place
    obtain ⟨aligned, inside, apart⟩ := Cell.freeRun_some run
    exact ⟨bound, inSet, runs, untasted, by omega, free, aligned, inside, fun e he same => apart e he (same.trans pipe),
      fun d hd inSet runs untasted on => lowest d hd (State.mayHold_iff.mpr ⟨inSet, runs, untasted, on⟩)⟩
  · intro s ring c slot base may x r y sound unbound room
    obtain ⟨hc, -, found, -⟩ := State.roomFor_some room
    obtain ⟨p, hp, place⟩ := Cell.room_some found
    obtain ⟨pipe, -, -⟩ := Cell.roomIn_some place
    obtain ⟨n, la, opened, fresh⟩ := State.openLaunch_eq s x r
    obtain ⟨co, ar, sc, sl, cell⟩ := Cell.place_eq y ring (x.launch.getD s.nextId) x r c slot base ((State.job s x.tag).epoch.getD 0)
    have run := (exec_groupPlace_room may sound unbound room).trans (congrArg Host.Outcome.next (State.placeGroup_unbound unbound))
    rw [show State.ring s ring = x from rfl, show State.recordAt s x = r from rfl, opened] at run
    set u := State.modCell { s with nextId := n, launches := la } c (fun y =>
      Cell.place y ring (x.launch.getD s.nextId) x r c slot base ((State.job s x.tag).epoch.getD 0))
    obtain ⟨ri, lb, moved, complete⟩ := State.moveRing_eq u ring x r (x.launch.getD s.nextId)
    obtain ⟨otherRings, thisRing⟩ := State.ring_moveRing u ring x r (x.launch.getD s.nextId)
    have cells : ∀ d, State.cell (State.moveRing u ring x r (x.launch.getD s.nextId)) d = State.cell u d := fun d => by rw [moved]; rfl
    have here : State.cell u c = _ := (State.cell_modCell ..).trans ((if_pos rfl).trans cell)
    refine ⟨_, placedGroup r ring (x.launch.getD s.nextId) y.nextAge c slot base x.placed x.tag, run, ?_⟩
    rw [cells c, here]
    refine ⟨by rw [moved]; rfl, fun d hd => (cells d).trans ((State.cell_modCell ..).trans (if_neg (Ne.symm hd))), fun k hk => ?_, ?_,
      rfl, rfl, rfl, rfl, rfl, rfl, rfl, rfl, rfl, rfl, rfl, rfl, LaunchRecord.allowance_eq r, fun k => ?_, fun k => ⟨rfl, rfl, fun l => rfl⟩,
      fun a => ?_, fun w => ?_, rfl, rfl, rfl, otherRings, fun last => thisRing.trans (if_pos last), fun more => thisRing.trans (if_neg more),
      fun first => ?_⟩
    · show NMap.find (NMap.insert _ _ _) _ = _
      rw [NMap.find_insert, if_neg (Ne.symm hk)]
      rfl
    · show NMap.find (NMap.insert _ _ _) _ = _
      rw [NMap.find_insert, if_pos rfl]
    · exact (uni_placedGroup ..).trans (placedWords_getD r hc (by omega) x.placed k)
    · show NMap.get (if y.lastJob = x.tag then y.localMem else []) 0 _ = _
      split <;> rfl
    · show NMap.get (if y.lastJob = x.tag then y.localPoison else []) false w = _
      split
      · next same => rw [decide_eq_true same, Bool.true_and]
      · next other => rw [decide_eq_false other, Bool.false_and]; rfl
    · obtain ⟨b, found, done⟩ := complete _ (fresh first)
      have there := (congrArg (fun u : State => NMap.find u.launches (x.launch.getD s.nextId)) moved).trans found
      exact ⟨_, there, rfl, rfl, rfl, rfl, done.trans (Bool.false_or _), rfl⟩

end

section
/-!
SUPPORT. What retirement (R81, R95), the park notice (R91, R92), replay (R94) and the end of a launch record (R489) do to the state.
-/

namespace Sys2Proof.Machine

/-! ### Retirement -/

section
variable {s : State} {g : GroupLoc} {grp : Group}

/-- Of a cell's fields, the closing of drawers changes the slices and the array unit's queue. -/
def DrawersOnly (s u : State) (c : Nat) : Prop :=
  (∃ ce n, u = { s with cells := ce, nextId := n }) ∧ (∀ d, d ≠ c → State.cell u d = State.cell s d) ∧
    ∃ sl ar, State.cell u c = { State.cell s c with slices := sl, array := ar }

theorem State.closeDrawers_frame (s : State) (c : Nat) (o : Owner) : DrawersOnly s (State.closeDrawers s c o) c := by
  have one : ∀ (u : State) (k d : Nat) (op : ArrayOp), DrawersOnly s u c → DrawersOnly s (State.modCell { u with nextId := u.nextId + 1 } c (fun x =>
      Cell.setIssue { x with array := NMap.insert x.array u.nextId op } k d DrawerIssue.reset)) c := by
    rintro u k d op ⟨⟨ce, n, frame⟩, others, sl, ar, here⟩
    refine ⟨⟨_, _, by rw [frame]; rfl⟩, fun d hd => ?_, ?_⟩
    · rw [State.cell_modCell, if_neg (Ne.symm hd)]
      exact others d hd
    · rw [State.cell_modCell, if_pos rfl, show State.cell { u with nextId := u.nextId + 1 } c = State.cell u c from rfl, here]
      exact ⟨_, _, rfl⟩
  refine foldl_keeps (fun u => DrawersOnly s u c) _ (fun u e hu => ?_) _ s ⟨⟨_, _, rfl⟩, fun _ _ => rfl, _, _, rfl⟩
  refine foldl_keeps (fun u => DrawersOnly s u c) _ (fun u d hu => ?_) _ u hu
  dsimp only
  split
  · exact one u _ _ _ hu
  · exact hu

/-- The launch takes note of a group that has gone. -/
def State.noteRetired (s : State) (g : GroupLoc) (grp : Group) : State :=
  { s with launches := NMap.mod s.launches grp.launch (fun l => { l with retired := l.retired ++ [(g.cell, g.slot, grp.age)] }) }

theorem exec_groupRetire (resident : State.group s g = some grp)
    (leaves : match NMap.find (State.cell s g.cell).parkList g.slot with
      | some p => p.state = .discard
      | none => grp.active = 0)
    (fetches : ∀ e ∈ (State.cell s g.cell).accesses, e.2.slot = g.slot → e.2.kind = .fetch)
    (unanswered : ∀ e ∈ (State.cell s g.cell).array, e.2.owner = { slot := g.slot, age := grp.age } →
      (∀ d, e.2.kind ≠ .qry d) ∧ ∀ a b d, e.2.kind ≠ .slc a b d) :
    exec (.groupRetire g) s = .next (State.dropGroup (State.noteRetired s g grp) g grp) := by
  show execGroupRetire g s = _
  unfold execGroupRetire
  rw [resident]
  dsimp only
  refine if_neg ?_
  rintro (stays | access | answer)
  · split at stays
    · next p there =>
      rw [there] at leaves
      simp [show p.state = .discard from leaves] at stays
    · next none =>
      rw [none] at leaves
      simp [show grp.active = 0 from leaves] at stays
  · obtain ⟨e, he, mine⟩ := List.any_eq_true.mp access
    obtain ⟨slot, kind⟩ := of_decide_eq_true mine
    exact kind (fetches e he slot)
  · obtain ⟨e, he, mine⟩ := List.any_eq_true.mp answer
    rw [Bool.and_eq_true] at mine
    obtain ⟨owner, kind⟩ := mine
    obtain ⟨noQuery, noSlice⟩ := unanswered e he (of_decide_eq_true owner)
    split at kind
    · next d is => exact noQuery d is
    · next a b d is => exact noSlice a b d is
    · cases kind

end

/-! ### The park notice -/

theorem State.cell_setPark (s : State) (c slot : Nat) (f : ParkRecord → ParkRecord) (d : Nat) : State.cell (State.setPark s c slot f) d =
    if c = d then { State.cell s c with parkList := NMap.mod (State.cell s c).parkList slot f } else State.cell s d := State.cell_modCell ..

/-- A translation just put in a region's window cache is found there (R368). -/
theorem Region.translation_fillWindow (r : Region) (t : Translation) : Region.translation (Region.fillWindow r t) t.vpn = some t := by
  unfold Region.translation Region.fillWindow
  dsimp only
  rw [NMap.get_upd, if_pos rfl]
  unfold lruPut
  rw [List.take_succ_cons, List.find?_cons, decide_eq_true rfl]

section
variable {s : State} {g : GroupLoc} {p : ParkRecord}

/-- The region controller has the record. -/
def State.takePark (s : State) (g : GroupLoc) : State := State.setPark s g.cell g.slot (fun p => { p with state := .resolving })

section
variable (there : NMap.find (State.cell s g.cell).parkList g.slot = some p) (parked : p.state = .parked)
  (sent : State.noticeSent s g = true) (unfenced : (State.region s (regionOf g.cell)).fenced = false)
include parked sent unfenced

/-- The checks of `PARK_NOTICE` let the notice through. -/
theorem notice_taken : ¬ (p.state ≠ .parked ∨ (!State.noticeSent s g) = true ∨ (NMap.get s.regions Region.reset (regionOf g.cell)).fenced = true) := by
  rw [parked, sent, show NMap.get s.regions Region.reset (regionOf g.cell) = State.region s (regionOf g.cell) from rfl, unfenced]
  simp

include there

/-- A WINDOW_MISS is counted and resolved where its address has a page. -/
theorem exec_parkNotice_miss (code : p.code.toNat = 2) : exec (.parkNotice g) s =
    .next ((pageOf p.addr.toNat).elim (State.handOver (State.count (State.takePark s g) .wcMiss 0 (regionOf g.cell) 1) g.cell g.slot)
      (fun v => State.resolveMiss (State.count (State.takePark s g) .wcMiss 0 (regionOf g.cell) 1) g.cell g.slot v p.job)) := by
  have taken := notice_taken parked sent unfenced
  show execParkNotice g s = _
  unfold execParkNotice
  rw [there]
  dsimp only
  rw [if_neg taken, code]
  cases pageOf p.addr.toNat <;> rfl

/-- A POISON's source is logged and the record handed over. -/
theorem exec_parkNotice_poison (code : p.code.toNat = 4) : exec (.parkNotice g) s =
    .next (State.handOver (State.log (State.takePark s g) 0x0021 3 g.cell p.job
      [1, g.slot * 2 ^ 16 + g.cell, p.code.toNat * 256 + p.detail.toNat, p.addr.toNat, p.stamp]) g.cell g.slot) := by
  have taken := notice_taken parked sent unfenced
  show execParkNotice g s = _
  unfold execParkNotice
  rw [there]
  dsimp only
  rw [if_neg taken, code]
  rfl

theorem exec_parkNotice_other (miss : p.code.toNat ≠ 2) (poison : p.code.toNat ≠ 4) : exec (.parkNotice g) s =
    .next (State.handOver (State.takePark s g) g.cell g.slot) := by
  have taken := notice_taken parked sent unfenced
  show execParkNotice g s = _
  unfold execParkNotice
  rw [there]
  dsimp only
  rw [if_neg taken]
  split
  · next code => exact absurd code miss
  · next code => exact absurd code poison
  · rfl

end

/-- The notice's record while the controller has it, whatever has been counted or logged since. -/
theorem State.cell_takePark {u : State} (records : OnlyRecords (State.takePark s g) u) (d : Nat) : State.cell u d =
    if g.cell = d then { State.cell s g.cell with parkList := NMap.mod (State.cell s g.cell).parkList g.slot (fun p => { p with state := .resolving }) }
    else State.cell s d := by
  rw [records]
  exact State.cell_setPark ..

/-- A record in the controller's hands that goes to the runtime (R92): HELD, with a log record; nothing else changes. -/
theorem State.handOver_takePark {u : State} (there : NMap.find (State.cell s g.cell).parkList g.slot = some p) (records : OnlyRecords (State.takePark s g) u) :
    OnlyCell { s with tel := (State.handOver u g.cell g.slot).tel } (State.handOver u g.cell g.slot) g.cell ∧
      (∃ pl, State.cell (State.handOver u g.cell g.slot) g.cell = { State.cell s g.cell with parkList := pl }) ∧
      NMap.find (State.cell (State.handOver u g.cell g.slot) g.cell).parkList g.slot = some { p with state := .held } ∧
      (∀ k, k ≠ g.slot → NMap.find (State.cell (State.handOver u g.cell g.slot) g.cell).parkList k = NMap.find (State.cell s g.cell).parkList k) ∧
      Reports [] u (State.handOver u g.cell g.slot) := by
  have here : State.cell u g.cell = { State.cell s g.cell with
      parkList := NMap.mod (State.cell s g.cell).parkList g.slot (fun p => { p with state := .resolving }) } :=
    (State.cell_takePark records _).trans (if_pos rfl)
  have found : NMap.find (State.cell u g.cell).parkList g.slot = some { p with state := .resolving } := by
    rw [here, NMap.find_mod, if_pos rfl, there]
    rfl
  have hands : ∃ d, State.handOver u g.cell g.slot = State.log (State.setPark u g.cell g.slot (fun p => { p with state := .held })) 0x0021 3 g.cell p.job d :=
    ⟨_, by unfold State.handOver; rw [found]⟩
  obtain ⟨d, hands⟩ := hands
  have cells : ∀ c, State.cell (State.handOver u g.cell g.slot) c = State.cell (State.setPark u g.cell g.slot (fun p => { p with state := .held })) c :=
    fun c => by rw [hands]; rfl
  have after := (cells g.cell).trans ((State.cell_setPark ..).trans (if_pos rfl))
  refine ⟨⟨by rw [hands, records]; rfl, fun c hc => ?_⟩, ⟨_, after.trans (by rw [here])⟩, ?_, fun k hk => ?_, ?_⟩
  · exact (cells c).trans ((State.cell_setPark ..).trans ((if_neg (Ne.symm hc)).trans ((State.cell_takePark records c).trans (if_neg (Ne.symm hc)))))
  · rw [after, NMap.find_mod, if_pos rfl, found]
    rfl
  · rw [after, NMap.find_mod, if_neg (Ne.symm hk), here, NMap.find_mod, if_neg (Ne.symm hk)]
  · rw [hands]
    have kept : (State.setPark u g.cell g.slot (fun p => { p with state := .held })).tel = u.tel := rfl
    exact (reports_of_tel kept).trans (reports_log ..)

end

/-! ### Replay -/

section
variable {s : State} {g : GroupLoc} {grp : Group} {p : ParkRecord}

theorem exec_groupReplay (resident : State.group s g = some grp) (there : NMap.find (State.cell s g.cell).parkList g.slot = some p)
    (ready : p.state = .replay) (faultless : grp.pendingFault = none) :
    exec (.groupReplay g) s = .next (State.setGroup (State.modCell s g.cell (fun x => { x with parkList := NMap.erase x.parkList g.slot })) g
      { grp with replays := min 0xFFFF (grp.replays + 1), fetched := [] }) := by
  show execGroupReplay g s = _
  unfold execGroupReplay
  rw [resident, there]
  dsimp only
  rw [if_neg (fun h => h ready), faultless]

end

/-! ### The end of a launch record -/

section
variable {s : State} {k : Nat} {l : Launch}

/-- The checks of `LAUNCH_RECORD_DONE` let a finished record through. -/
theorem record_finished (complete : l.complete = true) (gone : ∀ e ∈ s.cells, ∀ g ∈ e.2.groups, g.2.launch ≠ k)
    (done : ∀ r ∈ l.retired, State.leftBehind s r.1 r.2.1 r.2.2 = false) :
    ¬ ((!l.complete) = true ∨ (s.cells.any (fun e => e.2.groups.any (fun g => decide (g.2.launch = k)))) = true ∨
      (l.retired.any (fun r => State.leftBehind s r.1 r.2.1 r.2.2)) = true) := by
  rintro (open_ | resident | left)
  · rw [complete] at open_
    cases open_
  · obtain ⟨e, he, mine⟩ := List.any_eq_true.mp resident
    obtain ⟨g, hg, mine⟩ := List.any_eq_true.mp mine
    exact gone e he g hg (of_decide_eq_true mine)
  · obtain ⟨r, hr, busy⟩ := List.any_eq_true.mp left
    rw [done r hr] at busy
    cases busy

/-- The notify of a finished record. -/
def doneNotify (s : State) (l : Launch) : RequestPacket :=
  { source := s.moduleNumber, destination := targetModule s.moduleNumber l.target.toNat, sourceCell := 48 * l.region, txn := 0, tag := l.tag, reuse := 0
    body := .notify l.target l.inc }

theorem exec_launchRecordDone (there : NMap.find s.launches k = some l) (complete : l.complete = true)
    (gone : ∀ e ∈ s.cells, ∀ g ∈ e.2.groups, g.2.launch ≠ k) (done : ∀ r ∈ l.retired, State.leftBehind s r.1 r.2.1 r.2.2 = false) :
    exec (.launchRecordDone k) s = if l.inc = 0 then .next { s with launches := NMap.erase s.launches k }
      else .next (State.settleRegion (State.sendRemote { s with launches := NMap.erase s.launches k, nextId := s.nextId + 1 } (48 * l.region) 64 s.nextId 3
        (doneNotify s l) none []) l.region) := by
  have passed := record_finished complete gone done
  show execLaunchRecordDone k s = _
  unfold execLaunchRecordDone
  rw [there]
  dsimp only
  rw [if_neg passed]
  rfl

/-- A request that names no address meets none (R134, R378). -/
theorem packetsMeet_notify (p q : RequestPacket) (none : RequestBody.bytes q.body = []) : packetsMeet p q = false := by
  unfold packetsMeet
  rw [none]
  have no : ∀ as : List Nat, as.any (fun a => ([] : List Nat).contains a) = false := fun as => List.any_eq_false.mpr fun _ _ => nofun
  dsimp only
  rw [no, Bool.and_false]

/-- The transaction of a notify (R173, R373). -/
def notifyEntry (s : State) (rn entry c slot op : Nat) (q : RequestPacket) : Transaction :=
  { generation := NMap.get (State.region s rn).generations 0 entry
    packet := { q with txn := txnNumber rn entry (NMap.get (State.region s rn).generations 0 entry) }
    sent := s.timebase, cell := c, slot := slot, op := op, miss := none, copy := none, granules := [] }

/-- A notify that finds a transaction entry and whose module has not failed: its entry is made and it leaves. -/
def State.notified (s : State) (entry c slot op : Nat) (q : RequestPacket) : State :=
  State.emit (State.setRegion s (regionOf c)
    { State.region s (regionOf c) with
      txns := NMap.insert (State.region s (regionOf c)).txns entry (notifyEntry s (regionOf c) entry c slot op q)
      generations := NMap.set (State.region s (regionOf c)).generations 0 entry ((NMap.get (State.region s (regionOf c)).generations 0 entry + 1) % 256) })
    (.request { q with txn := txnNumber (regionOf c) entry (NMap.get (State.region s (regionOf c)).generations 0 entry) })

theorem State.sendRemote_notify {c slot op scope entry n : Nat} {t : DWord} {q : RequestPacket} (body : q.body = .notify t n)
    (free : freeEntry (State.region s (regionOf c)).txns = some entry) (up : NMap.find s.fabric.failed q.destination = none) :
    State.sendRemote s c slot op scope q none [] = State.notified s entry c slot op q := by
  have addresses : RequestBody.bytes q.body = [] := by rw [body]; rfl
  have noConflict : (State.region s (regionOf c)).txns.any (fun e =>
      decide (e.2.cell = c ∧ e.2.slot = slot ∧ e.2.copy = none) && packetsMeet e.2.packet q) = false :=
    List.any_eq_false.mpr fun e _ => by rw [packetsMeet_notify _ _ addresses, Bool.and_false]; exact Bool.false_ne_true
  have noEarlier : (State.cell s c).held.any (fun e => decide (e.2.slot = slot) && packetsMeet e.2.packet q) = false :=
    List.any_eq_false.mpr fun e _ => by rw [packetsMeet_notify _ _ addresses, Bool.and_false]; exact Bool.false_ne_true
  have sends : State.transmit s c slot op q none none = some (State.notified s entry c slot op q) := by
    obtain ⟨source, destination, cell, txn, tag, reuse, body'⟩ := q
    obtain rfl : body' = .notify t n := body
    unfold State.transmit
    dsimp only
    rw [free]
    have idle : ¬ (NMap.find s.fabric.failed destination).isSome = true := by
      rw [show NMap.find s.fabric.failed destination = none from up]
      exact Bool.false_ne_true
    exact congrArg some ((if_neg idle).trans rfl)
  unfold State.sendRemote
  dsimp only
  rw [noConflict, noEarlier, sends]
  rfl

end

/-! ### The statements -/

/-- R81, R95. -/
theorem groupRetire_leaves (s : State) (g : GroupLoc) (grp : Group) (resident : State.group s g = some grp)
    (leaves : match NMap.find (State.cell s g.cell).parkList g.slot with
      | some p => p.state = .discard
      | none => grp.active = 0)
    (fetches : ∀ e ∈ (State.cell s g.cell).accesses, e.2.slot = g.slot → e.2.kind = .fetch)
    (unanswered : ∀ e ∈ (State.cell s g.cell).array, e.2.owner = { slot := g.slot, age := grp.age } →
      (∀ d, e.2.kind ≠ .qry d) ∧ ∀ a b d, e.2.kind ≠ .slc a b d) :
    ∃ t, exec (.groupRetire g) s = .next t ∧ t = { s with cells := t.cells, launches := t.launches, nextId := t.nextId } ∧
      (∀ c, c ≠ g.cell → State.cell t c = State.cell s c) ∧ State.group t g = none ∧
      NMap.find (State.cell t g.cell).parkList g.slot = none ∧
      (∀ k, k ≠ g.slot → Cell.group (State.cell t g.cell) k = Cell.group (State.cell s g.cell) k) ∧
      (∃ gs pl rc ac sl ar, State.cell t g.cell =
        { State.cell s g.cell with groups := gs, parkList := pl, regCache := rc, accesses := ac, slices := sl, array := ar }) ∧
      (∀ l, NMap.find s.launches grp.launch = some l →
        NMap.find t.launches grp.launch = some { l with retired := l.retired ++ [(g.cell, g.slot, grp.age)] }) ∧
      ∀ k, k ≠ grp.launch → NMap.find t.launches k = NMap.find s.launches k := by
  refine ⟨_, exec_groupRetire resident leaves fetches unanswered, ?_⟩
  have drop : State.dropGroup (State.noteRetired s g grp) g grp = State.closeDrawers (State.modCell (State.noteRetired s g grp) g.cell (fun x =>
      Cell.modCache { x with
        groups := NMap.erase x.groups g.slot
        parkList := NMap.erase x.parkList g.slot
        accesses := x.accesses.filter (fun e => decide (e.2.slot ≠ g.slot)) } (g.slot / 16) (fun l => RegCache.dropSlot l g.slot))) g.cell
      (ownerOf g.slot grp) := rfl
  rw [drop]
  generalize closed : State.closeDrawers _ g.cell (ownerOf g.slot grp) = t
  obtain ⟨⟨ce, n, frame⟩, others, sl, ar, here⟩ := closed ▸ State.closeDrawers_frame _ g.cell (ownerOf g.slot grp)
  rw [State.cell_modCell, if_pos rfl] at here
  have launches : t.launches = NMap.mod s.launches grp.launch (fun l => { l with retired := l.retired ++ [(g.cell, g.slot, grp.age)] }) := by
    rw [frame]; rfl
  have gone : NMap.find (NMap.erase (State.cell s g.cell).groups g.slot) g.slot = none := by rw [NMap.find_erase, if_pos rfl]
  refine ⟨by rw [frame]; rfl, fun c hc => ?_, ?_, ?_, fun k hk => ?_, ⟨_, _, _, _, _, _, here⟩, fun l there => ?_, fun k hk => ?_⟩
  · rw [others c hc, State.cell_modCell, if_neg (Ne.symm hc)]
    rfl
  · unfold State.group
    rw [here]
    exact gone
  · rw [here]
    show NMap.find (NMap.erase _ _) _ = _
    rw [NMap.find_erase, if_pos rfl]
  · rw [here]
    show NMap.find (NMap.erase (State.cell s g.cell).groups g.slot) k = _
    rw [NMap.find_erase, if_neg (Ne.symm hk)]
    rfl
  · rw [launches, NMap.find_mod, if_pos rfl, there]
    rfl
  · rw [launches, NMap.find_mod, if_neg (Ne.symm hk)]

section
variable {s : State} {g : GroupLoc} {p : ParkRecord}
variable (there : NMap.find (State.cell s g.cell).parkList g.slot = some p) (parked : p.state = .parked)
  (sent : State.noticeSent s g = true) (unfenced : (State.region s (regionOf g.cell)).fenced = false)
include there parked sent unfenced

/-- A WINDOW_MISS that has no page, and every other code, goes to the runtime (R92). -/
theorem parkNotice_held (unresolved : p.code ≠ 2 ∨ 2 ^ 53 ≤ p.addr.toNat ∨ Fabric.resolve s.fabric (p.addr.toNat / 2 ^ 21) = .nothing) :
    ∃ t, exec (.parkNotice g) s = .next t ∧ OnlyCell { s with tel := t.tel } t g.cell ∧
      (∃ pl, State.cell t g.cell = { State.cell s g.cell with parkList := pl }) ∧
      NMap.find (State.cell t g.cell).parkList g.slot = some { p with state := .held } ∧
      (∀ k, k ≠ g.slot → NMap.find (State.cell t g.cell).parkList k = NMap.find (State.cell s g.cell).parkList k) ∧
      (p.code = 2 → Claims.counted s t .wcMiss 0 (regionOf g.cell) 1) ∧
      (p.code = 4 → (regionOf g.cell,
        { stamp := s.timebase, type := 0x0021, kind := 3, source := g.cell, job := p.job,
          d := [1, g.slot * 2 ^ 16 + g.cell, p.code.toNat * 256 + p.detail.toNat, p.addr.toNat, p.stamp] }) ∈ t.tel.logPath) := by
  have number : ∀ n : Byte, p.code.toNat = n.toNat ↔ p.code = n := fun n => ⟨BitVec.eq_of_toNat_eq, fun h => by rw [h]⟩
  by_cases miss : p.code = 2
  · have run := exec_parkNotice_miss there parked sent unfenced ((number 2).mpr miss)
    have hands : (pageOf p.addr.toNat).elim (State.handOver (State.count (State.takePark s g) .wcMiss 0 (regionOf g.cell) 1) g.cell g.slot)
        (fun v => State.resolveMiss (State.count (State.takePark s g) .wcMiss 0 (regionOf g.cell) 1) g.cell g.slot v p.job) =
        State.handOver (State.count (State.takePark s g) .wcMiss 0 (regionOf g.cell) 1) g.cell g.slot := by
      unfold pageOf
      rcases unresolved with other | far | none
      · exact absurd miss other
      · rw [if_neg (by omega)]
        rfl
      · split
        · show State.resolveMiss _ _ _ _ _ = _
          unfold State.resolveMiss
          rw [show (State.count (State.takePark s g) .wcMiss 0 (regionOf g.cell) 1).fabric = s.fabric from rfl, none]
        · rfl
    obtain ⟨frame, cell, held, others, reports⟩ := State.handOver_takePark there (onlyRecords_count (State.takePark s g) .wcMiss 0 (regionOf g.cell) 1)
    have same : (State.takePark s g).tel = s.tel := rfl
    have counted := counted_of_tel same (reports.counted_after (counted_count (State.takePark s g) .wcMiss 0 (regionOf g.cell) 1 (by decide)) (by decide) nofun)
    exact ⟨_, run.trans (congrArg _ hands), frame, cell, held, others, fun _ => counted, fun poison => absurd (miss.symm.trans poison) (by decide)⟩
  · by_cases poison : p.code = 4
    · have run := exec_parkNotice_poison there parked sent unfenced ((number 4).mpr poison)
      obtain ⟨frame, cell, held, others, reports⟩ := State.handOver_takePark there (onlyRecords_log (State.takePark s g) 0x0021 3 g.cell p.job
        [1, g.slot * 2 ^ 16 + g.cell, p.code.toNat * 256 + p.detail.toNat, p.addr.toNat, p.stamp])
      exact ⟨_, run, frame, cell, held, others, fun is => absurd is miss, fun _ => reports.sent _ (List.mem_append_right _ (List.mem_singleton.mpr rfl))⟩
    · have run := exec_parkNotice_other there parked sent unfenced (fun h => miss ((number 2).mp h)) (fun h => poison ((number 4).mp h))
      have nothing : OnlyRecords (State.takePark s g) (State.takePark s g) := rfl
      obtain ⟨frame, cell, held, others, -⟩ := State.handOver_takePark there nothing
      exact ⟨_, run, frame, cell, held, others, fun is => absurd is miss, fun is => absurd is poison⟩

/-- A WINDOW_MISS that the table resolves fills the region window cache and is to be replayed (R92, R369). -/
theorem parkNotice_replay {tr : Translation} (miss : p.code = 2) (near : p.addr.toNat < 2 ^ 53)
    (page : Fabric.resolve s.fabric (p.addr.toNat / 2 ^ 21) = .page tr) :
    ∃ t, exec (.parkNotice g) s = .next t ∧ t = { s with cells := t.cells, regions := t.regions, tel := t.tel } ∧
      (∀ c, c ≠ g.cell → State.cell t c = State.cell s c) ∧ (∃ pl, State.cell t g.cell = { State.cell s g.cell with parkList := pl }) ∧
      NMap.find (State.cell t g.cell).parkList g.slot = some { p with state := .replay } ∧
      (∃ wc, State.region t (regionOf g.cell) = { State.region s (regionOf g.cell) with windowCache := wc }) ∧
      Region.translation (State.region t (regionOf g.cell)) tr.vpn = some tr ∧
      (∀ k, k ≠ regionOf g.cell → State.region t k = State.region s k) ∧ Claims.counted s t .wcMiss 0 (regionOf g.cell) 1 := by
  have run := exec_parkNotice_miss there parked sent unfenced (congrArg BitVec.toNat miss)
  have records := onlyRecords_count (State.takePark s g) .wcMiss 0 (regionOf g.cell) 1
  have counting := counted_count (State.takePark s g) .wcMiss 0 (regionOf g.cell) 1 (by decide)
  have fabric : (State.count (State.takePark s g) .wcMiss 0 (regionOf g.cell) 1).fabric = s.fabric := rfl
  generalize State.count (State.takePark s g) .wcMiss 0 (regionOf g.cell) 1 = u at run records counting fabric
  have fills : State.resolveMiss u g.cell g.slot (p.addr.toNat / 2 ^ 21) p.job =
      State.setPark (State.fillRegion u (regionOf g.cell) tr) g.cell g.slot (fun p => { p with state := .replay }) := by
    unfold State.resolveMiss
    rw [fabric, page]
  rw [pageOf, if_pos near, Option.elim_some, fills] at run
  have cells : ∀ c, State.cell (State.fillRegion u (regionOf g.cell) tr) c = State.cell u c := fun _ => rfl
  have regions : ∀ k, State.region (State.setPark (State.fillRegion u (regionOf g.cell) tr) g.cell g.slot (fun p => { p with state := .replay })) k =
      if regionOf g.cell = k then Region.fillWindow (State.region s (regionOf g.cell)) tr else State.region s k := fun k => by
    refine (State.region_setRegion ..).trans ?_
    rw [records]
    rfl
  have before := (State.cell_takePark records g.cell).trans (if_pos rfl)
  have after := (State.cell_setPark (State.fillRegion u (regionOf g.cell) tr) g.cell g.slot (fun p => { p with state := .replay }) g.cell).trans (if_pos rfl)
  rw [cells, before] at after
  have kept : (State.setPark (State.fillRegion u (regionOf g.cell) tr) g.cell g.slot (fun p => { p with state := .replay })).tel = u.tel := rfl
  have same : (State.takePark s g).tel = s.tel := rfl
  refine ⟨_, run, by rw [records]; rfl, fun c hc => ?_, ⟨_, after⟩, ?_, ⟨_, (regions _).trans (if_pos rfl)⟩, ?_, fun k hk => (regions k).trans (if_neg (Ne.symm hk)),
    counted_of_tel same ((reports_of_tel kept).counted_after counting (by decide) nofun)⟩
  · exact (State.cell_setPark ..).trans ((if_neg (Ne.symm hc)).trans ((cells c).trans ((State.cell_takePark records c).trans (if_neg (Ne.symm hc)))))
  · rw [after]
    dsimp only
    rw [NMap.find_mod, if_pos rfl, NMap.find_mod, if_pos rfl, there]
    rfl
  · rw [regions, if_pos rfl]
    exact Region.translation_fillWindow ..

end

/-- R94. -/
theorem groupReplay_resumes (s : State) (g : GroupLoc) (grp : Group) (p : ParkRecord) (resident : State.group s g = some grp)
    (there : NMap.find (State.cell s g.cell).parkList g.slot = some p) (ready : p.state = .replay) (faultless : grp.pendingFault = none) :
    ∃ t, exec (.groupReplay g) s = .next t ∧ OnlyCell s t g.cell ∧
      State.group t g = some { grp with replays := min 0xFFFF (grp.replays + 1), fetched := [] } ∧
      NMap.find (State.cell t g.cell).parkList g.slot = none ∧
      (∀ k, k ≠ g.slot → Cell.group (State.cell t g.cell) k = Cell.group (State.cell s g.cell) k ∧
        NMap.find (State.cell t g.cell).parkList k = NMap.find (State.cell s g.cell).parkList k) ∧
      ∃ gs pl, State.cell t g.cell = { State.cell s g.cell with groups := gs, parkList := pl } := by
  refine ⟨_, exec_groupReplay resident there ready faultless, ?_⟩
  obtain ⟨⟨frame, others⟩, after, otherGroups, gs, here⟩ := onlyCell_setGroup
    (State.modCell s g.cell (fun x => { x with parkList := NMap.erase x.parkList g.slot })) g { grp with replays := min 0xFFFF (grp.replays + 1), fetched := [] }
  have erased : State.cell (State.modCell s g.cell (fun x => { x with parkList := NMap.erase x.parkList g.slot })) g.cell =
      { State.cell s g.cell with parkList := NMap.erase (State.cell s g.cell).parkList g.slot } := (State.cell_modCell ..).trans (if_pos rfl)
  rw [erased] at here
  refine ⟨⟨frame.trans rfl, fun d hd => (others d hd).trans ((State.cell_modCell ..).trans (if_neg (Ne.symm hd)))⟩, after, ?_, fun k hk => ⟨?_, ?_⟩, ⟨_, _, here⟩⟩
  · rw [here, NMap.find_erase, if_pos rfl]
  · rw [otherGroups k hk, erased]
    rfl
  · rw [here, NMap.find_erase, if_neg (Ne.symm hk)]

/-- R489. -/
theorem launchRecordDone_notifies (s : State) (k : Nat) (l : Launch) (there : NMap.find s.launches k = some l) (complete : l.complete = true)
    (gone : ∀ e ∈ s.cells, ∀ g ∈ e.2.groups, g.2.launch ≠ k) (done : ∀ r ∈ l.retired, State.leftBehind s r.1 r.2.1 r.2.2 = false)
    (notifies : l.inc ≠ 0) (entry : Nat) (free : freeEntry (State.region s l.region).txns = some entry) (settled : Claims.settled s (48 * l.region))
    (up : NMap.find s.fabric.failed (targetModule s.moduleNumber l.target.toNat) = none) :
    ∃ t n, exec (.launchRecordDone k) s = .next t ∧
      t = { s with launches := NMap.erase s.launches k, nextId := s.nextId + 1, regions := t.regions,
                   out := s.out ++ [.request { source := s.moduleNumber, destination := targetModule s.moduleNumber l.target.toNat,
                                               sourceCell := 48 * l.region, txn := n, tag := l.tag, reuse := 0, body := .notify l.target l.inc }] } ∧
      (∃ x, NMap.find (State.region t l.region).txns entry = some x ∧ x.packet.txn = n ∧ x.packet.body = .notify l.target l.inc) ∧
      (∃ tx ge, State.region t l.region = { State.region s l.region with txns := tx, generations := ge }) ∧
      ∀ r, r ≠ l.region → State.region t r = State.region s r := by
  have own : regionOf (48 * l.region) = l.region := by unfold regionOf; omega
  have run := exec_launchRecordDone there complete gone done
  rw [if_neg notifies, State.sendRemote_notify (s := { s with launches := NMap.erase s.launches k, nextId := s.nextId + 1 }) (t := l.target) (n := l.inc) rfl
    (by rw [own]; exact free) up] at run
  have regions : ∀ r, State.region (State.notified { s with launches := NMap.erase s.launches k, nextId := s.nextId + 1 } entry (48 * l.region) 64 s.nextId
      (doneNotify s l)) r = if regionOf (48 * l.region) = r then
        { State.region s (regionOf (48 * l.region)) with
          txns := NMap.insert (State.region s (regionOf (48 * l.region))).txns entry (notifyEntry s (regionOf (48 * l.region)) entry (48 * l.region) 64 s.nextId (doneNotify s l))
          generations := NMap.set (State.region s (regionOf (48 * l.region))).generations 0 entry
            ((NMap.get (State.region s (regionOf (48 * l.region))).generations 0 entry + 1) % 256) }
        else State.region s r := fun r => State.region_setRegion ..
  rw [own] at regions
  have nothing : State.settleRegion (State.notified { s with launches := NMap.erase s.launches k, nextId := s.nextId + 1 } entry (48 * l.region) 64 s.nextId
      (doneNotify s l)) l.region = State.notified { s with launches := NMap.erase s.launches k, nextId := s.nextId + 1 } entry (48 * l.region) 64 s.nextId
      (doneNotify s l) := by
    refine State.settleUpTo_none (fun e he => ?_) _
    rw [regions, if_pos rfl] at he
    rcases NMap.mem_of_mem_insert he with rfl | old
    · exact up
    · exact settled e (own.symm ▸ NMap.mem_of_mem_erase old)
  rw [nothing] at run
  refine ⟨_, txnNumber l.region entry (NMap.get (State.region s l.region).generations 0 entry), run, ?_, ⟨notifyEntry s l.region entry (48 * l.region) 64 s.nextId
    (doneNotify s l), ?_, rfl, rfl⟩, ⟨_, _, (regions _).trans (if_pos rfl)⟩, fun r hr => (regions r).trans (if_neg (Ne.symm hr))⟩
  · unfold State.notified
    rw [own]
    rfl
  · rw [regions, if_pos rfl, NMap.find_insert, if_pos rfl]

end Sys2Proof.Machine

open Sys2Proof Sys2Proof.Machine

/-- Settles O37: each of the four rows of a group's end passes its checks and then makes one change to the cell, the launch or the region. -/
theorem groupsLeave : Obligations.GroupsLeave := by
  refine ⟨⟨groupRetire_leaves, fun s g p there parked sent unfenced => ⟨parkNotice_held there parked sent unfenced,
    fun tr => parkNotice_replay there parked sent unfenced⟩, groupReplay_resumes⟩, fun s k l there complete gone done => ⟨fun silent => ?_,
    launchRecordDone_notifies s k l there complete gone done⟩⟩
  rw [exec_launchRecordDone there complete gone done, if_pos silent]

end

section
/-!
SUPPORT. How a Sutha command runs and ends (R474, R477, R478), and the commands on rings, jobs and park records (Table 16.11).
-/

namespace Sys2Proof.Machine

/-! ### Commands -/

section
variable {s : State} {mb code : Nat}

/-- A command whose turn it is waits for none (R478). -/
theorem behind_of_turn (turn : Claims.turn s mb code) : State.behind s mb code = false := by
  unfold State.behind
  rcases turn with free | first
  · rw [free]
    rfl
  · rw [Bool.and_eq_false_iff]
    refine .inr (List.any_eq_false.mpr fun m hm => ?_)
    have bound := List.mem_range.mp hm
    rw [Bool.and_eq_true, Bool.and_eq_true]
    rintro ⟨⟨other, earlier⟩, unbegun⟩
    unfold State.ackedBefore at earlier
    rw [Bool.or_eq_true, Bool.and_eq_true, decide_eq_true_eq, decide_eq_true_eq, decide_eq_true_eq] at earlier
    cases running : (State.mailbox s m).running with
    | none =>
      rw [running] at unbegun
      cases unbegun
    | some k =>
      rw [running, Option.elim_some, Bool.and_eq_true, decide_eq_true_eq, decide_eq_true_eq] at unbegun
      obtain ⟨stage, family⟩ := unbegun
      have := first m k bound (of_decide_eq_true other) running stage family
      omega

theorem State.runs_some {k : Running} (running : (State.mailbox s mb).running = some k) (is : k.code = code)
    (turn : k.stage = 0 → Claims.turn s mb code) : State.runs s mb code = some k := by
  unfold State.runs
  rw [running]
  refine if_pos ?_
  rw [Bool.and_eq_true, decide_eq_true_eq, Bool.or_eq_true, decide_eq_true_eq]
  refine ⟨is, ?_⟩
  by_cases begun : k.stage = 0
  · exact .inr (by rw [behind_of_turn (turn begun)]; rfl)
  · exact .inl begun

theorem State.command_run (runs : Claims.runs s mb code) (f : State → State) : State.command s mb code f = .next (f s) := by
  obtain ⟨k, running, is, turn⟩ := runs
  unfold State.command
  rw [State.runs_some running is turn]

/-- A command that reads host memory does so with Bus Master Enable, or over SMBus (R473). -/
theorem State.reading_on (reads : mb = 16 ∨ s.host.busMaster = true) (f : State → State) : State.reading s mb f = f s := by
  refine if_neg ?_
  rintro ⟨other, off⟩
  rcases reads with smb | on
  · exact other smb
  · rw [on] at off
    cases off

theorem State.command_reading (runs : Claims.runs s mb code) (reads : mb = 16 ∨ s.host.busMaster = true) (f : State → State) :
    State.command s mb code (fun s => State.reading s mb f) = .next (f s) :=
  (State.command_run runs _).trans (congrArg Host.Outcome.next (State.reading_on reads f))

/-- A completion ends the command, whatever the command did before to the rest of the module. -/
theorem ends_complete {u v : State} (same : v = u) (mb result : Nat) (res : List Byte) : Claims.ends u (State.complete v mb result res) mb result res := by
  subst same
  refine ⟨rfl, fun k hk => (State.mailbox_modMailbox ..).trans (if_neg (Ne.symm hk)), ?_, fun i => ?_⟩
  · have here : State.mailbox (State.complete v mb result res) mb = _ := (State.mailbox_modMailbox ..).trans (if_pos rfl)
    rw [here]
  · have here : State.mailbox (State.complete v mb result res) mb = _ := (State.mailbox_modMailbox ..).trans (if_pos rfl)
    rw [here]
    have bytes := NMap.get_setRun (0 : Byte) 0 i res 0 []
    simp only [Nat.zero_add, Nat.sub_zero, Nat.zero_le, true_and] at bytes
    refine bytes.trans ?_
    split
    · rfl
    · next beyond => rw [List.getD_eq_default _ _ (Nat.not_lt.mp beyond)]; rfl

/-- A completion changes the mailbox alone. -/
theorem State.cell_complete (s : State) (mb result : Nat) (res : List Byte) (c : Nat) : State.cell (State.complete s mb result res) c = State.cell s c := rfl

theorem State.ring_complete (s : State) (mb result : Nat) (res : List Byte) (r : Nat) : State.ring (State.complete s mb result res) r = State.ring s r := rfl

theorem State.job_complete (s : State) (mb result : Nat) (res : List Byte) (t : Half) : State.job (State.complete s mb result res) t = State.job s t := rfl

theorem State.job_completeReport (s : State) (mb result : Nat) (values : List Nat) (t : Half) :
    State.job (State.completeReport s mb result values) t = State.job s t := rfl

theorem State.cell_completeReport (s : State) (mb result : Nat) (values : List Nat) (c : Nat) :
    State.cell (State.completeReport s mb result values) c = State.cell s c := rfl

/-- The same with values of which the spec gives no layout. -/
theorem reports_completeReport {u v : State} (same : v = u) (mb result : Nat) (values : List Nat) :
    Claims.reports u (State.completeReport v mb result values) mb result values := by
  subst same
  have here : State.mailbox (State.completeReport v mb result values) mb = _ := (State.mailbox_modMailbox ..).trans (if_pos rfl)
  have done : State.mailbox (State.complete (State.free v).2 mb result []) mb = _ := (State.mailbox_complete ..).trans (if_pos rfl)
  rw [done] at here
  refine ⟨rfl, fun k hk => ?_, ?_, ?_⟩
  · exact (State.mailbox_modMailbox ..).trans ((if_neg (Ne.symm hk)).trans ((State.mailbox_complete ..).trans (if_neg (Ne.symm hk))))
  · rw [here]
    rfl
  · rw [here]
    exact Nat.le_of_lt_succ (Nat.mod_lt _ (Nat.succ_pos _))

theorem State.job_modJob (s : State) (t u : Half) (f : Job → Job) : State.job (State.modJob s t f) u = if t = u then f (State.job s t) else State.job s u :=
  (NMap.get_upd ..).trans (if_congr ⟨BitVec.eq_of_toNat_eq, congrArg BitVec.toNat⟩ rfl rfl)

end

/-! ### Rings -/

section
variable {s : State} {mb : Nat} {a : RingArgs}

theorem mem_cellsOf {m : BitVec 384} {c : Nat} : c ∈ cellsOf m ↔ c < 384 ∧ m.getLsbD c = true := by
  unfold cellsOf
  rw [List.mem_filter, List.mem_range]
  rfl

theorem nodup_cellsOf (m : BitVec 384) : (cellsOf m).Nodup := List.nodup_range.filter _

/-- A command that sets a ring and completes has changed nothing but the rings. -/
theorem ends_setRing (s : State) (mb r : Nat) (x : Ring) : Claims.ends { s with rings := (State.complete (State.setRing s r x) mb 0 []).rings }
    (State.complete (State.setRing s r x) mb 0 []) mb 0 [] := ends_complete rfl mb 0 []

/-- The ring that a ring create sets up. -/
def RingArgs.started (a : RingArgs) : Ring :=
  { Ring.reset with
    status := .running, tag := a.tag, base := a.base, sizeLog2 := a.sizeLog2, cells := a.cells, deferLimit := a.deferLimit
    spill := decide (a.spillBytes ≠ 0) }

/-- What a cell takes from a ring that it feeds from (R67, R79). -/
def RingArgs.settings (a : RingArgs) (x : Cell) : Cell := { x with deferLimit := a.deferLimit, reservation := decide (a.spillBytes ≠ 0) }

/-- A ring create that passes its checks, before its completion. -/
def State.startRing (s : State) (a : RingArgs) : State :=
  (cellsOf a.cells).foldl (fun s c => State.modCell s c (RingArgs.settings a))
    (State.modJob (State.setRing s a.ring (RingArgs.started a)) a.tag (fun j => if j.epoch.isSome then j else { j with epoch := some a.epoch0 }))

theorem ringResult_zero (inRange : a.ring < 64) (free : (State.ring s a.ring).status = .free) (tag : a.tag ≠ 0) (size : a.sizeLog2 ≤ 12)
    (limit : a.deferLimit ≤ 15) (spill : a.spillBytes = 0 ∨ a.spillBytes = 65536) (cells : a.cells ≠ 0) (clash : State.ringClash s a = false)
    (base : State.baseUsable s a = true) : State.ringResult s a = 0 := by
  have fields : ¬ (a.tag = 0 ∨ 12 < a.sizeLog2 ∨ 15 < a.deferLimit ∨ (a.spillBytes ≠ 0 ∧ a.spillBytes ≠ 65536) ∨ a.cells = 0) := by
    rintro (h | h | h | ⟨h, h'⟩ | h)
    · exact tag h
    · omega
    · omega
    · omega
    · exact cells h
  unfold State.ringResult
  rw [if_neg (by omega), if_neg (fun h => h free), if_neg fields, if_neg (by rw [clash]; exact Bool.false_ne_true), if_neg (by rw [base]; exact Bool.false_ne_true)]

theorem exec_ringCreate (runs : Claims.runs s mb 0x0300) (reads : mb = 16 ∨ s.host.busMaster = true) :
    exec (.ringCreate mb a) s = .next (if State.ringResult s a = 0 then State.complete (State.startRing s a) mb 0 []
      else State.complete s mb (State.ringResult s a) []) := by
  refine (State.command_reading runs reads _).trans (congrArg Host.Outcome.next ?_)
  dsimp only
  split
  · next ok => rw [if_pos ok]; rfl
  · next bad => rw [if_neg (fun h => bad h)]

theorem exec_ringDestroy {ring : Nat} (runs : Claims.runs s mb 0x0301) :
    exec (.ringDestroy mb ring) s = .next (State.complete (State.setRing s ring Ring.reset) mb 0 []) := by
  show execRingDestroy mb ring s = _
  unfold execRingDestroy
  rw [State.command_run runs]

/-- R67, R79, R419, R486: what a ring create starts. -/
theorem State.startRing_spec (s : State) (a : RingArgs) (spill : a.spillBytes = 0 ∨ a.spillBytes = 65536) : let t := State.startRing s a
    t = { s with rings := t.rings, jobs := t.jobs, cells := t.cells } ∧
      State.ring t a.ring = { Ring.reset with
        status := .running, tag := a.tag, base := a.base, sizeLog2 := a.sizeLog2, cells := a.cells, deferLimit := a.deferLimit, spill := decide (a.spillBytes = 65536) } ∧
      (∀ r, r ≠ a.ring → State.ring t r = State.ring s r) ∧
      State.job t a.tag = { State.job s a.tag with epoch := some ((State.job s a.tag).epoch.getD a.epoch0) } ∧
      (∀ u, u ≠ a.tag → State.job t u = State.job s u) ∧
      ∀ c, State.cell t c = if c < 384 ∧ a.cells.getLsbD c = true then
        { State.cell s c with deferLimit := a.deferLimit, reservation := decide (a.spillBytes = 65536) } else State.cell s c := by
  intro t
  have reserved : decide (a.spillBytes ≠ 0) = decide (a.spillBytes = 65536) := by
    rcases spill with h | h <;> rw [h] <;> rfl
  let u := State.modJob (State.setRing s a.ring (RingArgs.started a)) a.tag (fun j => if j.epoch.isSome then j else { j with epoch := some a.epoch0 })
  obtain ⟨frame, cells⟩ := modCells_spec (RingArgs.settings a) (cellsOf a.cells) u (nodup_cellsOf _)
  have same : t = { u with cells := t.cells } := frame
  have rings : ∀ r, State.ring t r = State.ring (State.setRing s a.ring (RingArgs.started a)) r := fun r => by rw [same]; rfl
  have jobs : ∀ j, State.job t j = State.job u j := fun j => by rw [same]; rfl
  refine ⟨by rw [same]; rfl, ?_, fun r hr => ?_, ?_, fun j hj => ?_, fun c => (cells c).trans ?_⟩
  · rw [rings, State.ring_setRing, if_pos rfl, RingArgs.started, reserved]
  · rw [rings, State.ring_setRing, if_neg (Ne.symm hr)]
  · rw [jobs, State.job_modJob, if_pos rfl]
    show (if (State.job s a.tag).epoch.isSome then State.job s a.tag else { State.job s a.tag with epoch := some a.epoch0 }) = _
    cases epoch : (State.job s a.tag).epoch with
    | none => rfl
    | some e =>
      rw [Option.isSome_some, if_pos rfl, Option.getD_some, ← epoch]
  · rw [jobs, State.job_modJob, if_neg (Ne.symm hj)]
    rfl
  · rw [RingArgs.settings, reserved]
    exact if_congr mem_cellsOf rfl rfl

end

/-! ### Job release -/

theorem NMap.find_cons {V : Type} (j k : Nat) (v : V) (r : NMap V) : NMap.find ((j, v) :: r) k = if j = k then some v else NMap.find r k := rfl

/-- A key that a map lists is found. -/
theorem NMap.find_of_mem {V : Type} {m : NMap V} {k : Nat} {v : V} (h : (k, v) ∈ m) : ∃ w, NMap.find m k = some w := by
  induction m with
  | nil => cases h
  | cons e r ih =>
    obtain ⟨j, u⟩ := e
    rw [NMap.find_cons]
    split
    · exact ⟨_, rfl⟩
    · next other =>
      rcases List.mem_cons.mp h with same | rest
      · exact absurd (congrArg Prod.fst same).symm other
      · exact ih rest

theorem NMap.get_keptValues {V : Type} [DecidableEq V] {d : V} {m : NMap V} (rising : NMap.rising m = true) (k : Nat) :
    NMap.get (m.filter (fun e => decide (e.2 ≠ d))) d k = NMap.get m d k := by
  rw [NMap.rising_iff] at rising
  induction m with
  | nil => rfl
  | cons e r ih =>
    obtain ⟨j, v⟩ := e
    obtain ⟨above, rising⟩ := List.pairwise_cons.mp rising
    have rest := ih rising
    by_cases default : v = d
    · rw [List.filter_cons_of_neg (by simp [default]), rest]
      unfold NMap.get
      by_cases here : j = k
      · subst here
        have gone : NMap.find r j = none := by
          cases found : NMap.find r j with
          | none => rfl
          | some w => exact absurd (above _ (NMap.mem_of_find found)) (Nat.lt_irrefl _)
        simp [NMap.find, gone, default]
      · simp [NMap.find, here]
    · rw [List.filter_cons_of_pos (by simp [default])]
      unfold NMap.get at rest ⊢
      rw [NMap.find_cons, NMap.find_cons]
      split
      · rfl
      · exact rest

/-- Every value of a map changed by a function that keeps the default. -/
theorem NMap.get_remap {V : Type} [DecidableEq V] {d : V} {f : V → V} (same : f d = d) {m : NMap V} (rising : NMap.rising m = true) (k : Nat) :
    NMap.get (NMap.remap d f m) d k = f (NMap.get m d k) := by
  have rising' : NMap.rising (m.map (fun e => (e.1, f e.2))) = true := by
    rw [NMap.rising_iff] at rising ⊢
    exact List.pairwise_map.mpr rising
  exact (NMap.get_keptValues rising' k).trans (NMap.get_mapValues f d same m k)

/-- A map from which the values that `p` refuses are dropped: what is found was kept, and what is kept is found. -/
theorem NMap.find_filterValues {V : Type} (p : V → Bool) (m : NMap V) (k : Nat) :
    (∀ v, NMap.find (m.filter (fun e => p e.2)) k = some v → p v = true) ∧
      (∀ v, NMap.find m k = some v → p v = true → NMap.find (m.filter (fun e => p e.2)) k = some v) ∧
      (NMap.find m k = none → NMap.find (m.filter (fun e => p e.2)) k = none) := by
  refine ⟨fun v found => (List.mem_filter.mp (NMap.mem_of_find found)).2, ?_, ?_⟩
  · intro v
    induction m with
    | nil => exact nofun
    | cons e r ih =>
      obtain ⟨j, w⟩ := e
      intro found kept
      rw [NMap.find_cons] at found
      by_cases keeps : p w = true
      · rw [List.filter_cons_of_pos (by exact keeps), NMap.find_cons]
        split at found
        · next here => rw [if_pos here, found]
        · next other => rw [if_neg other, ih found kept]
      · rw [List.filter_cons_of_neg (by exact keeps)]
        split at found
        · obtain rfl := Option.some.inj found
          exact absurd kept keeps
        · exact ih found kept
  · intro absent
    cases found : NMap.find (m.filter (fun e => p e.2)) k with
    | none => rfl
    | some v =>
      obtain ⟨w, there⟩ := NMap.find_of_mem (List.mem_filter.mp (NMap.mem_of_find found)).1
      rw [absent] at there
      cases there

/-- No counter of a cell keeps a released tag; those of other tags stay (R162). -/
theorem Cell.arrival_releaseJob (x : Cell) {tag : Half} (named : tag ≠ 0) (k : Nat) :
    (Cell.arrival (Cell.releaseJob x tag) k).tag ≠ tag ∧
      ((Cell.arrival x k).tag ≠ tag → Cell.arrival (Cell.releaseJob x tag) k = Cell.arrival x k) := by
  obtain ⟨kept, keeps, absent⟩ := NMap.find_filterValues (fun a : Arrival => decide (a.tag ≠ tag)) x.arrivals k
  have unnamed : (default : Arrival).tag ≠ tag := fun h => named h.symm
  have read : Cell.arrival (Cell.releaseJob x tag) k = (NMap.find (x.arrivals.filter (fun e => decide (e.2.tag ≠ tag))) k).getD default := rfl
  rw [read]
  unfold Cell.arrival NMap.get
  constructor
  · cases found : NMap.find (x.arrivals.filter (fun e => decide (e.2.tag ≠ tag))) k with
    | none => exact unnamed
    | some a => exact of_decide_eq_true (kept a found)
  · intro other
    cases before : NMap.find x.arrivals k with
    | none => rw [absent before]
    | some a =>
      rw [before] at other
      rw [keeps a before (decide_eq_true other)]

/-- Lines of one tag that leave the pinned class (R349). -/
theorem unpinLines_eq (tag : Half) (l : List CacheLine) : unpinLines l (fun x => decide (x.tag = tag)) =
    l.map (fun x => if x.cls = 3 ∧ x.tag = tag then { x with cls := 2, tag := 0 } else x) := by
  unfold unpinLines
  simp only [decide_eq_true_eq]

theorem unpinned_eq (tag : Half) (m : NMap (List CacheLine)) :
    m.map (fun l => (l.1, unpinLines l.2 (fun x => decide (x.tag = tag)))) = Claims.unpinned tag m := by
  unfold Claims.unpinned
  simp only [unpinLines_eq]

section
variable (s : State) (tag : Half)

/-- The lines pinned with a tag leave their class in every cache (R349); nothing else changes. -/
theorem State.unpinAll_spec : let t := State.unpinAll s (fun x => decide (x.tag = tag)) (fun _ x => decide (x.tag = tag))
    t = { s with cells := t.cells, blocks := t.blocks, regions := t.regions } ∧
      (∀ c, State.cell t c = { State.cell s c with l1 := Claims.unpinned tag (State.cell s c).l1 }) ∧
      (∀ b, State.block t b = { State.block s b with cache := Claims.unpinned tag (State.block s b).cache }) ∧
      ∀ r, State.region t r = { State.region s r with cache := (State.region t r).cache } := by
  intro t
  refine ⟨rfl, fun c => ?_, fun b => ?_, fun r => ?_⟩
  · refine (NMap.get_mapValues (fun x : Cell => { x with l1 := x.l1.map (fun l => (l.1, unpinLines l.2 (fun x => decide (x.tag = tag)))) })
      Cell.reset rfl s.cells c).trans ?_
    rw [unpinned_eq]
    rfl
  · refine (NMap.get_mapValues (fun x : Block => { x with cache := x.cache.map (fun l => (l.1, unpinLines l.2 (fun x => decide (x.tag = tag)))) })
      Block.reset rfl s.blocks b).trans ?_
    rw [unpinned_eq]
    rfl
  · have here : State.region t r = _ := NMap.get_mapValues (fun x : Region => { x with cache := x.cache.map (fun l =>
      (l.1, l.2.map (fun y => if y.cls = 3 ∧ decide (y.tag = tag) = true then { y with cls := 2, tag := 0 } else y))) }) Region.reset rfl s.regions r
    rw [here]
    rfl

/-- A job released, before the command's completion. -/
def State.releaseJob : State :=
  { State.unpinAll { s with cells := NMap.remap Cell.reset (fun x => Cell.releaseJob x tag) s.cells }
      (fun x => decide (x.tag = tag)) (fun _ x => decide (x.tag = tag)) with jobs := NMap.erase s.jobs tag.toNat }

/-- R162, R296, R349, R423: what a job release clears. -/
theorem State.releaseJob_spec (named : tag ≠ 0) (rising : NMap.rising s.cells = true) : let t := State.releaseJob s tag
    t = { s with cells := t.cells, blocks := t.blocks, regions := t.regions, jobs := t.jobs } ∧
      State.job t tag = Job.reset ∧ (∀ u, u ≠ tag → State.job t u = State.job s u) ∧
      (∀ c k, (Cell.arrival (State.cell t c) k).tag ≠ tag ∧ ((Cell.arrival (State.cell s c) k).tag ≠ tag →
        Cell.arrival (State.cell t c) k = Cell.arrival (State.cell s c) k)) ∧
      (∀ c, State.cell t c = { State.cell s c with
        arrivals := (State.cell t c).arrivals, watch := (State.cell t c).watch, epochs := (State.cell t c).epochs
        l1 := Claims.unpinned tag (State.cell s c).l1
        sieve := { (State.cell s c).sieve with bindings := (State.cell t c).sieve.bindings, waiting := (State.cell t c).sieve.waiting } }) ∧
      (∀ b, State.block t b = { State.block s b with cache := Claims.unpinned tag (State.block s b).cache }) ∧
      ∀ r, State.region t r = { State.region s r with cache := (State.region t r).cache } := by
  intro t
  let u : State := { s with cells := NMap.remap Cell.reset (fun x => Cell.releaseJob x tag) s.cells }
  obtain ⟨frame, cells, blocks, regions⟩ := State.unpinAll_spec u tag
  have released : ∀ c, State.cell u c = Cell.releaseJob (State.cell s c) tag := fun c =>
    NMap.get_remap (d := Cell.reset) (f := fun x => Cell.releaseJob x tag) rfl rising c
  have cell : ∀ c, State.cell t c = { Cell.releaseJob (State.cell s c) tag with l1 := Claims.unpinned tag (State.cell s c).l1 } := fun c =>
    (cells c).trans (by rw [released]; rfl)
  have jobs : ∀ j, State.job t j = NMap.get (NMap.erase s.jobs tag.toNat) Job.reset j.toNat := fun _ => rfl
  refine ⟨rfl, ?_, fun j hj => ?_, fun c k => ?_, fun c => ?_, blocks, regions⟩
  · rw [jobs]
    unfold NMap.get
    rw [NMap.find_erase, if_pos rfl]
    rfl
  · rw [jobs]
    unfold NMap.get
    rw [NMap.find_erase, if_neg (fun h => hj (BitVec.eq_of_toNat_eq h).symm)]
    rfl
  · rw [cell c]
    exact Cell.arrival_releaseJob (State.cell s c) named k
  · rw [cell c]
    rfl

variable {s tag} {mb : Nat}

/-- A checkpoint of the job that was accepted after the release does not hold it up (R478). -/
theorem release_unhindered (later : ∀ k, (State.job s tag).checkpoint = some k → (State.mailbox s mb).ackTime < (State.mailbox s k.mailbox).ackTime ∨
      ((State.mailbox s mb).ackTime = (State.mailbox s k.mailbox).ackTime ∧ mb ≤ k.mailbox)) :
    ¬ (State.job s tag).checkpoint.elim false (fun k => State.ackedBefore s k.mailbox mb) = true := by
  cases there : (State.job s tag).checkpoint with
  | none => exact Bool.false_ne_true
  | some k =>
    have := later k there
    rw [Option.elim_some]
    unfold State.ackedBefore
    rw [Bool.or_eq_true, Bool.and_eq_true, decide_eq_true_eq, decide_eq_true_eq, decide_eq_true_eq]
    omega

theorem exec_jobRelease (runs : Claims.runs s mb 0x0302)
    (unhindered : ¬ (State.job s tag).checkpoint.elim false (fun k => State.ackedBefore s k.mailbox mb) = true) :
    exec (.jobRelease mb tag) s = .next (
      if s.cells.any (fun e => e.2.groups.any (fun g => decide (g.2.job = tag))) = true ∨
          s.rings.any (fun e => decide (e.2.status ≠ .free ∧ e.2.tag = tag)) = true then State.complete s mb 1 []
      else if s.groups.any (fun e => decide (e.2.tag = tag)) = true then State.complete s mb 2 []
      else State.complete (State.releaseJob s tag) mb 0 []) := by
  show execJobRelease mb tag s = _
  unfold execJobRelease
  rw [State.command_run runs]
  exact congrArg Host.Outcome.next (if_neg unhindered)

/-- A job release behind a checkpoint of its job that was accepted before it waits (R478). -/
theorem exec_jobRelease_waits {k : Checkpoint} (runs : Claims.runs s mb 0x0302) (there : (State.job s tag).checkpoint = some k)
    (earlier : (State.mailbox s k.mailbox).ackTime < (State.mailbox s mb).ackTime) : exec (.jobRelease mb tag) s = .next s := by
  show execJobRelease mb tag s = _
  unfold execJobRelease
  rw [State.command_run runs]
  refine congrArg Host.Outcome.next (if_pos ?_)
  rw [there, Option.elim_some, State.ackedBefore, decide_eq_true earlier, Bool.true_or]

end

end Sys2Proof.Machine
end

section
/-!
SUPPORT. The commands on park records, the Recipe property and the ring watchdog (R93, R309, R423, Table 16.11).
-/

namespace Sys2Proof.Machine

/-! ### Park records -/

section
variable {s : State} {mb : Nat} {g : GroupLoc} {stamp : BitVec 64} {p : ParkRecord} {grp : Group}

theorem parkTarget_held (there : NMap.find (State.cell s g.cell).parkList g.slot = some p) (held : p.state = .held)
    (stamped : BitVec.ofNat 64 p.stamp = stamp) : State.parkTarget s g stamp = (some p, 0) := by
  unfold State.parkTarget
  rw [there]
  dsimp only
  rw [if_neg (fun h => h held), if_neg (fun h => h stamped)]

/-- A thread register written from the host (R93): all its lanes, its marks cleared. -/
def Group.hostWrite (grp : Group) (n : Nat) (data : List Word) : Group := Group.write grp n (2 ^ 32 - 1) (fun i => (data.getD i 0).toNat) 0 0

theorem Group.poisonOf_hostWrite (grp : Group) (n : Nat) (data : List Word) : Group.poisonOf (Group.hostWrite grp n data) n = 0 := by
  refine Nat.eq_of_testBit_eq fun l => ?_
  by_cases lane : l < 32
  · rw [Group.hostWrite, Group.poisonOf_write_same _ _ _ _ _ _ lane, Nat.testBit_two_pow_sub_one, if_pos (decide_eq_true lane)]
  · have small : Group.poisonOf (Group.hostWrite grp n data) n < 2 ^ l :=
      Nat.lt_of_lt_of_le (BitVec.isLt _) (Nat.pow_le_pow_right (by decide) (Nat.not_lt.mp lane))
    rw [Nat.testBit_lt_two_pow small, Nat.zero_testBit]

theorem Group.lane_hostWrite (grp : Group) (n : Nat) (data : List Word) {l : Nat} (lane : l < 32) :
    Group.lane (Group.hostWrite grp n data) n l = (data.getD l 0).toNat := by
  rw [Group.hostWrite, Group.lane_write_same _ _ _ _ _ _ lane, Nat.testBit_two_pow_sub_one, if_pos (decide_eq_true lane)]
  exact Nat.mod_eq_of_lt (BitVec.isLt _)

theorem exec_parkStateWrite {selector : Nat} {data : List Word} (runs : Claims.runs s mb 0x0311) (reads : mb = 16 ∨ s.host.busMaster = true)
    (there : NMap.find (State.cell s g.cell).parkList g.slot = some p) (held : p.state = .held) (stamped : BitVec.ofNat 64 p.stamp = stamp)
    (resident : State.group s g = some grp) (thread : selector < 0x100) (inside : selector < grp.regs) :
    exec (.parkStateWrite mb g stamp selector data) s = .next (State.complete (State.setGroup s g (Group.hostWrite grp selector data)) mb 0 []) := by
  have writes : Group.writeSelector grp selector data = some (Group.hostWrite grp selector data) := by
    unfold Group.writeSelector
    dsimp only
    rw [if_pos thread, if_neg (Nat.not_le.mpr inside)]
    rfl
  show execParkStateWrite mb g stamp selector data s = _
  unfold execParkStateWrite
  rw [State.command_reading runs reads, parkTarget_held there held stamped, resident]
  dsimp only
  rw [writes]
  dsimp only
  rw [if_neg (by omega)]

/-- The records and groups of other slots stay where one cell changes in one slot. -/
theorem onlyParked_of_cell {t : State} {gs : NMap Group} {pl : NMap ParkRecord} (others : ∀ c, c ≠ g.cell → State.cell t c = State.cell s c)
    (here : State.cell t g.cell = { State.cell s g.cell with groups := gs, parkList := pl })
    (slots : ∀ k, k ≠ g.slot → NMap.find gs k = Cell.group (State.cell s g.cell) k ∧ NMap.find pl k = NMap.find (State.cell s g.cell).parkList k) :
    Claims.onlyParked s t g := by
  refine ⟨others, by rw [here], fun k hk => ?_⟩
  rw [here]
  exact slots k hk

/-- R92, R93, Table 16.11: the runtime orders a HELD record, or the command says why not. -/
theorem orderPark_spec (s : State) (mb : Nat) (g : GroupLoc) (stamp : BitVec 64) (next : ParkState) : let t := State.orderPark s mb g stamp next
    match NMap.find (State.cell s g.cell).parkList g.slot with
    | none => Claims.ends s t mb 1 []
    | some p =>
      if p.state ≠ .held then Claims.ends s t mb 1 [] else if BitVec.ofNat 64 p.stamp ≠ stamp then Claims.ends s t mb 2 []
      else Claims.ends { s with cells := t.cells } t mb 0 [] ∧ Claims.onlyParked s t g ∧ State.group t g = State.group s g ∧
        NMap.find (State.cell t g.cell).parkList g.slot = some { p with state := next } := by
  intro t
  have refused : ∀ n, State.parkTarget s g stamp = (none, n) → Claims.ends s t mb n [] := fun n target => by
    have ordered : t = State.complete s mb n [] := by
      show State.orderPark s mb g stamp next = _
      unfold State.orderPark
      rw [target]
    rw [ordered]
    exact ends_complete rfl mb n []
  split
  · next absent =>
    refine refused 1 ?_
    unfold State.parkTarget
    rw [absent]
  · next p there =>
    split
    · next other =>
      refine refused 1 ?_
      unfold State.parkTarget
      rw [there]
      exact if_pos other
    · next held =>
      split
      · next stale =>
        refine refused 2 ?_
        unfold State.parkTarget
        rw [there]
        exact (if_neg held).trans (if_pos stale)
      · next stamped =>
        have target := parkTarget_held there (Classical.not_not.mp held) (Classical.not_not.mp stamped)
        have ordered : t = State.complete (State.setPark s g.cell g.slot (fun p => { p with state := next })) mb 0 [] := by
          show State.orderPark s mb g stamp next = _
          unfold State.orderPark
          rw [target]
        have cells : ∀ c, State.cell t c = State.cell (State.setPark s g.cell g.slot (fun p => { p with state := next })) c := fun c => by rw [ordered]; rfl
        have here := (cells g.cell).trans ((State.cell_setPark ..).trans (if_pos rfl))
        refine ⟨?_, onlyParked_of_cell (fun c hc => (cells c).trans ((State.cell_setPark ..).trans (if_neg (Ne.symm hc)))) here fun k hk => ⟨rfl, ?_⟩, ?_, ?_⟩
        · rw [ordered]
          exact ends_complete rfl mb 0 []
        · rw [NMap.find_mod, if_neg (Ne.symm hk)]
        · unfold State.group
          rw [here]
          rfl
        · rw [here]
          dsimp only
          rw [NMap.find_mod, if_pos rfl, there]
          rfl

end

theorem exec_parkReplay {s : State} {mb : Nat} {g : GroupLoc} {stamp : BitVec 64} (runs : Claims.runs s mb 0x0312) :
    exec (.parkReplay mb g stamp) s = .next (State.orderPark s mb g stamp .replay) := by
  show execParkReplay mb g stamp s = _
  unfold execParkReplay
  rw [State.command_run runs]

theorem exec_parkDiscard {s : State} {mb : Nat} {g : GroupLoc} {stamp : BitVec 64} (runs : Claims.runs s mb 0x0313) :
    exec (.parkDiscard mb g stamp) s = .next (State.orderPark s mb g stamp .discard) := by
  show execParkDiscard mb g stamp s = _
  unfold execParkDiscard
  rw [State.command_run runs]

/-! ### The Recipe property -/

section
variable {s : State} {mb : Nat} {tag : Half} {on : Bool}

theorem exec_recipeSet (runs : Claims.runs s mb 0x0701) : exec (.recipeSet mb tag on) s = .next (
    if s.cells.any (fun e => e.2.groups.any (fun g => decide (g.2.job = tag))) = true then State.complete s mb 1 []
    else State.complete (State.modJob s tag (fun j => { j with recipe := on })) mb 0 []) := by
  show execRecipeSet mb tag on s = _
  unfold execRecipeSet
  rw [State.command_run runs]

/-- A group of the job is resident. -/
theorem any_resident : s.cells.any (fun e => e.2.groups.any (fun g => decide (g.2.job = tag))) = true ↔ ∃ e ∈ s.cells, ∃ g ∈ e.2.groups, g.2.job = tag := by
  simp only [List.any_eq_true, decide_eq_true_eq]

end

/-! ### The ring watchdog -/

section
variable {s : State} {mb cell counter period : Nat}

/-- A cell with a mark on a counter; its stall begins now where a group waits (R423). -/
def Cell.mark (x : Cell) (counter period now : Nat) : Cell :=
  Cell.watchFrom { x with watch := NMap.insert x.watch counter { period := period, since := none, fired := false } } counter now false

theorem exec_ringWatchdog (runs : Claims.runs s mb 0x0503) : exec (.ringWatchdog mb cell counter period) s = .next (
    if period = 0 then State.complete (State.modCell s cell (fun x => { x with watch := NMap.erase x.watch counter })) mb 0 []
    else if (NMap.find (State.cell s cell).watch counter).isNone ∧ 4 ≤ (State.cell s cell).watch.length then State.complete s mb 1 []
    else State.complete (State.modCell s cell (fun x => Cell.mark x counter period s.timebase)) mb 0 []) := by
  show execRingWatchdog mb cell counter period s = _
  unfold execRingWatchdog
  rw [State.command_run runs]
  rfl

theorem Cell.mark_watch (x : Cell) (counter period now : Nat) :
    (∀ k, k ≠ counter → NMap.find (Cell.mark x counter period now).watch k = NMap.find x.watch k) ∧
      NMap.find (Cell.mark x counter period now).watch counter =
        some { period := period, since := if Cell.waiters x counter = [] then none else some now, fired := false } := by
  have waiters : ∀ w, Cell.waiters { x with watch := w } counter = Cell.waiters x counter := fun _ => rfl
  unfold Cell.mark Cell.watchFrom
  dsimp only
  refine ⟨fun k hk => ?_, ?_⟩
  · rw [NMap.find_mod, if_neg (Ne.symm hk), NMap.find_insert, if_neg (Ne.symm hk)]
  · rw [NMap.find_mod, if_pos rfl, NMap.find_insert, if_pos rfl, waiters]
    cases Cell.waiters x counter <;> rfl

end

end Sys2Proof.Machine
end

section
/-!
SUPPORT. The commands on collective groups and checkpoints (R399, R400, R418 to R420, Tables 14.7 and 14.8).
-/

namespace Sys2Proof.Machine

/-! ### Collective setup -/

section
variable {s : State} {mb : Nat} {h : SetupHeader} {members : List Half}

/-- A collective group as set up, none of its members lost and no partner heard yet. -/
def SetupHeader.newGroup (h : SetupHeader) (members : List Half) : CollGroup :=
  { tag := h.tag, members := members.map BitVec.toNat, pos := h.pos, anchor := SetupHeader.anchor h, stage := h.stage, bufs := h.bufs
    confirmed := [], lost := none, grants := [], queue := [], run := none, touched := false }

/-- The SETUP message to the partner at position `j` (R399). -/
def SetupHeader.message (h : SetupHeader) (members : List Half) (sender j : Nat) : SetupMessage :=
  { group := h.group, tag := h.tag, members := members.length, senderPos := h.pos, receiverPos := j, sender := sender }

/-- The group in the table and its SETUP messages on their way. -/
def State.announce (s : State) (h : SetupHeader) (members : List Half) : State :=
  { s with
    groups := NMap.insert s.groups h.group (SetupHeader.newGroup h members)
    out := s.out ++ (partnersOf members.length h.pos).map (fun j => .fabric (members.getD j 0).toNat (.setup (SetupHeader.message h members s.moduleNumber j))) }

/-- The command as it waits for its partners. -/
def Running.awaiting (k : Running) (gid now : Nat) : Running := { k with stage := 1, values := [gid], since := now }

theorem CollGroup.p_newGroup (h : SetupHeader) (members : List Half) : CollGroup.p (SetupHeader.newGroup h members) = members.length :=
  List.length_map ..

theorem CollGroup.module_newGroup (h : SetupHeader) (members : List Half) (j : Nat) :
    CollGroup.module (SetupHeader.newGroup h members) j = (members.getD j 0).toNat := by
  unfold CollGroup.module SetupHeader.newGroup
  exact List.getD_map members (0 : Half) BitVec.toNat

theorem unconfirmed_newGroup (h : SetupHeader) (members : List Half) :
    CollGroup.unconfirmed (SetupHeader.newGroup h members) = partnersOf members.length h.pos := by
  unfold CollGroup.unconfirmed
  rw [CollGroup.p_newGroup]
  exact List.filter_eq_self.mpr fun _ _ => rfl

/-- Messages that name their sender, sent one after the other. -/
theorem foldl_emit (f : Nat → Nat → Output) (l : List Nat) (s : State) :
    l.foldl (fun s j => State.emit s (f s.moduleNumber j)) s = { s with out := s.out ++ l.map (f s.moduleNumber) } := by
  induction l generalizing s with
  | nil => rw [List.map_nil, List.append_nil]; rfl
  | cons j l ih =>
    rw [List.foldl_cons, ih, List.map_cons]
    show ({ s with out := (s.out ++ [f s.moduleNumber j]) ++ l.map (f s.moduleNumber) } : State) = _
    rw [List.append_assoc]
    rfl

theorem State.announce_eq (s : State) (h : SetupHeader) (members : List Half) :
    (partnersOf (CollGroup.p (SetupHeader.newGroup h members)) h.pos).foldl (fun u j =>
      State.emit u (.fabric (CollGroup.module (SetupHeader.newGroup h members) j) (.setup
        { group := h.group, tag := h.tag, members := CollGroup.p (SetupHeader.newGroup h members), senderPos := h.pos, receiverPos := j
          sender := u.moduleNumber }))) (State.setColl s h.group (SetupHeader.newGroup h members)) = State.announce s h members := by
  simp only [CollGroup.p_newGroup, CollGroup.module_newGroup]
  exact foldl_emit (fun n j => .fabric ((members.getD j 0).toNat) (.setup (SetupHeader.message h members n j))) _ _

/-- A setup that passes its checks: the group stands and its messages leave (R399). -/
theorem exec_collectiveSetup {k : Running} {header : BitVec 512} (running : State.runs s mb 0x0500 = some k) (fresh : k.stage ≠ 1)
    (reads : mb = 16 ∨ s.host.busMaster = true) (is : setupHeader header.toNat = h) (sound : State.setupResult s h members = 0)
    (unheard : ∀ m ∈ s.fabric.early, m.group ≠ h.group) (whole : ∀ m ∈ members, NMap.find s.fabric.failed m.toNat = none) :
    exec (.collectiveSetup mb header members) s =
      .next (State.checkSetup (State.modMailbox (State.announce s h members) mb (fun m =>
        { m with running := some (Running.awaiting k h.group s.timebase) })) mb (Running.awaiting k h.group s.timebase)) := by
  have mine : s.fabric.early.filter (fun m => decide (m.group = h.group)) = [] :=
    List.filter_eq_nil_iff.mpr fun m hm => by rw [decide_eq_true_eq]; exact unheard m hm
  have others : s.fabric.early.filter (fun m => decide (m.group ≠ h.group)) = s.fabric.early :=
    List.filter_eq_self.mpr fun m hm => decide_eq_true (unheard m hm)
  have lost : (members.map BitVec.toNat).find? (fun m => (NMap.find s.fabric.failed m).isSome) = none :=
    List.find?_eq_none.mpr fun n hn => by
      obtain ⟨m, hm, rfl⟩ := List.mem_map.mp hn
      rw [whole m hm]
      exact Bool.false_ne_true
  show execCollectiveSetup mb header members s = _
  unfold execCollectiveSetup
  rw [running]
  dsimp only
  rw [if_neg fresh, State.reading_on reads, is, sound]
  rw [mine, others, lost, List.foldl_nil]
  exact congrArg (fun u : State => Host.Outcome.next (State.checkSetup (State.modMailbox u mb (fun m =>
    { m with running := some (Running.awaiting k h.group u.timebase) })) mb (Running.awaiting k h.group u.timebase))) (State.announce_eq s h members)

/-- A command of mailbox `mb` that goes on, completed at once, ends as if it had not. -/
theorem ends_complete_running (u : State) (mb result : Nat) (res : List Byte) (r : Option Running) :
    Claims.ends u (State.complete (State.modMailbox u mb (fun m => { m with running := r })) mb result res) mb result res := by
  obtain ⟨-, others, here, bytes⟩ := ends_complete (u := State.modMailbox u mb (fun m => { m with running := r })) rfl mb result res
  have before : State.mailbox (State.modMailbox u mb (fun m => { m with running := r })) mb = { State.mailbox u mb with running := r } :=
    (State.mailbox_modMailbox ..).trans (if_pos rfl)
  refine ⟨rfl, fun k hk => (others k hk).trans ((State.mailbox_modMailbox ..).trans (if_neg (Ne.symm hk))), ?_, bytes⟩
  rw [before] at here
  exact here

/-- A setup just announced waits for its partners; without one it is complete (Table 14.8). -/
theorem checkSetup_announced (k : Running) : State.checkSetup (State.modMailbox (State.announce s h members) mb (fun m =>
      { m with running := some (Running.awaiting k h.group s.timebase) })) mb (Running.awaiting k h.group s.timebase) =
    if partnersOf members.length h.pos = [] then
      State.complete (State.modMailbox (State.announce s h members) mb (fun m => { m with running := some (Running.awaiting k h.group s.timebase) })) mb 0 []
    else State.modMailbox (State.modMailbox (State.announce s h members) mb (fun m => { m with running := some (Running.awaiting k h.group s.timebase) })) mb
      (fun m => { m with report := partnersOf members.length h.pos }) := by
  have there : State.coll (State.modMailbox (State.announce s h members) mb (fun m => { m with running := some (Running.awaiting k h.group s.timebase) }))
      h.group = some (SetupHeader.newGroup h members) := by
    show NMap.find (NMap.insert _ _ _) _ = _
    rw [NMap.find_insert, if_pos rfl]
  have soon : ¬ ((Running.awaiting k h.group s.timebase).since + (setupBound (CollGroup.p (SetupHeader.newGroup h members)) : Nat) ≤
      ((State.modMailbox (State.announce s h members) mb (fun m => { m with running := some (Running.awaiting k h.group s.timebase) })).timebase : Int)) := by
    show ¬ ((s.timebase : Int) + (setupBound _ : Nat) ≤ (s.timebase : Int))
    unfold setupBound
    omega
  show (match State.coll _ h.group with
    | none => _
    | some g => _) = _
  rw [there]
  dsimp only
  rw [if_neg soon, unconfirmed_newGroup]
  cases partnersOf members.length h.pos <;> rfl

end

/-! ### Collective release -/

section
variable {s : State} {mb group : Nat} {q : CollGroup}

/-- Entries written at other keys than `k` leave it. -/
theorem NMap.get_setAll_other {V α : Type} [DecidableEq V] {d : V} (key : α → Nat) (val : α → V) {k : Nat} :
    ∀ (l : List α) (m : NMap V), (∀ e ∈ l, key e ≠ k) → NMap.get (l.foldl (fun m e => NMap.set m d (key e) (val e)) m) d k = NMap.get m d k := by
  intro l
  induction l with
  | nil => exact fun _ _ => rfl
  | cons e l ih =>
    intro m others
    rw [List.foldl_cons, ih _ (fun x hx => others x (List.mem_cons_of_mem _ hx)), NMap.get_set, if_neg (others e (List.mem_cons_self ..))]

/-- The anchor cell once the staging area may hold anything. -/
def CollGroup.vacate (q : CollGroup) (n : Nat) (x : Cell) : Cell :=
  { Cell.freeView x n (tabulate (8192 * q.bufs) (fun i => q.stage + i)) with
    localPoison := (List.range (2048 * q.bufs)).foldl (fun m i =>
      NMap.set m false ((q.stage / 4 + i) % 2 ^ 17) (Config.freeBit (n + (tabulate (8192 * q.bufs) (fun i => q.stage + i)).length + i))) x.localPoison }

/-- A release that may act, before its completion. -/
def State.releaseColl (s : State) (group : Nat) (q : CollGroup) : State :=
  { State.modCell { s with freeCount := s.freeCount + (tabulate (8192 * q.bufs) (fun i => q.stage + i)).length + 2048 * q.bufs } q.anchor
      (CollGroup.vacate q s.freeCount) with groups := NMap.erase s.groups group }

theorem exec_collectiveRelease (runs : Claims.runs s mb 0x0501) (there : State.coll s group = some q) : exec (.collectiveRelease mb group) s = .next (
    if q.run.isSome = true ∨ q.queue ≠ [] then State.complete s mb 1 [] else State.complete (State.releaseColl s group q) mb 0 []) := by
  have queued : (q.run.isSome || !q.queue.isEmpty) = true ↔ q.run.isSome = true ∨ q.queue ≠ [] := by
    cases q.queue <;> simp
  show execCollectiveRelease mb group s = _
  unfold execCollectiveRelease
  rw [State.command_run runs]
  dsimp only
  rw [there]
  exact congrArg Host.Outcome.next (if_congr queued rfl rfl)

/-- Bytes outside the staging area stay (R400). -/
theorem CollGroup.localByte_vacate (q : CollGroup) (n : Nat) (x : Cell) {a : Nat} (ha : a < 2 ^ 19) (outside : a < q.stage ∨ q.stage + 8192 * q.bufs ≤ a)
    (fits : q.stage + 8192 * q.bufs ≤ 2 ^ 19) : Cell.localByte (CollGroup.vacate q n x) a = Cell.localByte x a := by
  refine NMap.get_setAll_other (fun e : Nat × Nat => e.1 % localSize) (fun e => Config.freeByte (n + e.2)) _ x.localMem fun e he => ?_
  obtain ⟨i, hi, place⟩ := List.mem_map.mp (List.fst_mem_of_mem_zipIdx he)
  have bound := List.mem_range.mp hi
  show e.1 % 2 ^ 19 ≠ a % 2 ^ 19
  rw [← place]
  omega

end

/-! ### Checkpoints -/

section
variable {s : State} {mb timeout : Nat} {tag : Half}

/-- The checkpoint of a job as it drains (Table 14.7, steps 1 and 2). -/
def State.beginDrain (s : State) (mb timeout : Nat) (tag : Half) (k : Running) : State :=
  State.modMailbox (State.modJob s tag (fun j =>
      { j with checkpoint := some { mailbox := mb, phase := 2, started := s.timebase, timeout := timeout, drained := State.pendingColls s tag } })) mb
    (fun m => { m with running := some { k with stage := 1, values := [tag.toNat] }, report := [2, State.pendingColls s tag] })

theorem State.job_beginDrain (k : Running) (u : Half) : State.job (State.beginDrain s mb timeout tag k) u =
    if tag = u then { State.job s tag with
      checkpoint := some { mailbox := mb, phase := 2, started := s.timebase, timeout := timeout, drained := State.pendingColls s tag } }
    else State.job s u :=
  State.job_modJob s tag u (fun j =>
    { j with checkpoint := some { mailbox := mb, phase := 2, started := s.timebase, timeout := timeout, drained := State.pendingColls s tag } })

theorem exec_checkpoint {k : Running} (running : State.runs s mb 0x0600 = some k) (fresh : k.stage ≠ 1) (free : (State.job s tag).checkpoint = none) :
    exec (.checkpoint mb tag timeout) s = .next (State.beginDrain s mb timeout tag k) := by
  show execCheckpoint mb tag timeout s = _
  unfold execCheckpoint
  rw [running]
  dsimp only
  rw [free, if_neg (by rintro (h | h); exacts [fresh h, nomatch h])]
  rfl

/-- A cell that holds a job takes its new layout epoch (R419). -/
def Cell.advanceEpoch (tag e : Half) (x : Cell) : Cell := if Cell.holdsJob x tag then { x with epochs := NMap.set x.epochs 0 tag.toNat e } else x

/-- The epoch advanced in the module and its cells (R418, R419). -/
def State.bump (s : State) (tag e : Half) : State :=
  let u := State.modJob s tag (fun j => { j with epoch := some e, checkpoint := none })
  { u with cells := s.cells.map (fun c => (c.1, Cell.advanceEpoch tag e c.2)) }

theorem State.job_bump (s : State) (tag e u : Half) : State.job (State.bump s tag e) u =
    if tag = u then { State.job s tag with epoch := some e, checkpoint := none } else State.job s u :=
  State.job_modJob s tag u (fun j => { j with epoch := some e, checkpoint := none })

theorem State.cell_bump (s : State) (tag e : Half) (c : Nat) :
    State.cell (State.bump s tag e) c = if (NMap.find s.cells c).isSome then Cell.advanceEpoch tag e (State.cell s c) else State.cell s c := by
  have found : NMap.find (State.bump s tag e).cells c = _ := NMap.find_mapValues (Cell.advanceEpoch tag e) s.cells c
  unfold State.cell NMap.get
  rw [found]
  cases NMap.find s.cells c <;> rfl

theorem Cell.advanceEpoch_frame (tag e : Half) (x : Cell) : Cell.advanceEpoch tag e x = { x with epochs := (Cell.advanceEpoch tag e x).epochs } := by
  unfold Cell.advanceEpoch
  split <;> rfl

theorem State.cell_bump_frame (s : State) (tag e : Half) (c : Nat) :
    State.cell (State.bump s tag e) c = { State.cell s c with epochs := (State.cell (State.bump s tag e) c).epochs } := by
  rw [State.cell_bump]
  split
  · exact Cell.advanceEpoch_frame ..
  · rfl

/-- With no cell lost there is nothing to remap (R311). -/
theorem State.remapAll_whole (whole : ∀ b, b < 64 → State.lostCells s b = []) : State.remapAll s = (s, 0, 0) :=
  foldl_fixed fun b hb => if_pos (by dsimp only; rw [whole b (List.mem_range.mp hb)]; rfl)

theorem lostCells_bump (s : State) (tag e : Half) (b : Nat) : State.lostCells (State.bump s tag e) b = State.lostCells s b := by
  unfold State.lostCells
  refine List.filter_congr fun c _ => ?_
  rw [State.cell_bump_frame]
  rfl

theorem exec_checkpointBump {k : Checkpoint} (there : (State.job s tag).checkpoint = some k) (drained : State.pendingColls s tag = 0)
    (whole : ∀ b, b < 64 → State.lostCells s b = []) :
    exec (.checkpointBump tag) s = .next (State.completeReport (State.bump s tag ((State.job s tag).epoch.getD 0 + 1)) k.mailbox 0
      [5, k.drained, ((State.job s tag).epoch.getD 0 + 1).toNat, 0, 0]) := by
  have bumped : ∀ e : Half, ({ State.modJob s tag (fun j => { j with epoch := some e, checkpoint := none }) with
      cells := s.cells.map (fun c => if Cell.holdsJob c.2 tag then (c.1, { c.2 with epochs := NMap.set c.2.epochs 0 tag.toNat e }) else c) } : State) =
      State.bump s tag e := fun e => by
    have same : (fun c : Nat × Cell => if Cell.holdsJob c.2 tag then (c.1, { c.2 with epochs := NMap.set c.2.epochs 0 tag.toNat e }) else c) =
        (fun c => (c.1, Cell.advanceEpoch tag e c.2)) := funext fun c => by
      unfold Cell.advanceEpoch
      split <;> rfl
    rw [same]
    rfl
  have remapped := State.remapAll_whole (s := State.bump s tag ((State.job s tag).epoch.getD 0 + 1)) fun b hb => (lostCells_bump ..).trans (whole b hb)
  show execCheckpointBump tag s = _
  unfold execCheckpointBump
  rw [there]
  dsimp only
  rw [if_neg (by rw [drained]; exact fun h => h rfl)]
  have cells : (State.modJob s tag (fun j => { j with epoch := some ((State.job s tag).epoch.getD 0 + 1), checkpoint := none })).cells = s.cells := rfl
  rw [cells, bumped, remapped]

theorem exec_checkpointTimeout {k : Checkpoint} (there : (State.job s tag).checkpoint = some k) (late : k.started + k.timeout * 1000000 ≤ s.timebase) :
    exec (.checkpointTimeout tag) s = .next (State.completeReport (State.modJob s tag (fun j => { j with checkpoint := none })) k.mailbox 1
      [2, k.drained - State.pendingColls s tag, ((State.job s tag).epoch.getD 0).toNat, 0, 0]) := by
  have reached : ¬ ((s.timebase : Int) < k.started + (k.timeout * 1000000 : Nat)) := by
    push_cast
    exact Int.not_lt.mpr late
  have job : (State.job (State.modJob s tag (fun j => { j with checkpoint := none })) tag).epoch = (State.job s tag).epoch := by
    rw [State.job_modJob, if_pos rfl]
  show execCheckpointTimeout tag s = _
  unfold execCheckpointTimeout
  rw [there]
  dsimp only
  rw [if_neg reached, job]

end

end Sys2Proof.Machine
end

section
/-!
SUPPORT. What each command of O49 leaves behind, from the commands' equations.
-/

namespace Sys2Proof.Machine

/-- R93, Table 16.11: a register of a HELD group written in all lanes. -/
theorem parkStateWrite_writes (s : State) (mb : Nat) (g : GroupLoc) (stamp : BitVec 64) (selector : Nat) (data : List (BitVec 32)) (p : ParkRecord) (grp : Group)
    (runs : Claims.runs s mb 0x0311) (reads : mb = 16 ∨ s.host.busMaster = true) (there : NMap.find (State.cell s g.cell).parkList g.slot = some p)
    (held : p.state = .held) (stamped : BitVec.ofNat 64 p.stamp = stamp) (resident : State.group s g = some grp) (thread : selector < 0x100)
    (inside : selector < grp.regs) :
    ∃ t after, exec (.parkStateWrite mb g stamp selector data) s = .next t ∧ Claims.ends { s with cells := t.cells } t mb 0 [] ∧ Claims.onlyParked s t g ∧
      State.group t g = some after ∧ OnlyThreadRegs grp after [selector] ∧ after.pc = grp.pc ∧ after.fetched = grp.fetched ∧ Group.poisonOf after selector = 0 ∧
      (∀ l, l < 32 → Group.lane after selector l = (data.getD l 0).toNat) ∧ NMap.find (State.cell t g.cell).parkList g.slot = some p := by
  obtain ⟨⟨frame, others⟩, after, otherGroups, gs, here⟩ := onlyCell_setGroup s g (Group.hostWrite grp selector data)
  have done : State.cell (State.complete (State.setGroup s g (Group.hostWrite grp selector data)) mb 0 []) g.cell = { State.cell s g.cell with groups := gs } := here
  refine ⟨_, Group.hostWrite grp selector data, exec_parkStateWrite runs reads there held stamped resident thread inside, ends_complete frame mb 0 [],
    ⟨others, ?_, fun k hk => ⟨otherGroups k hk, ?_⟩⟩, after, ⟨rfl, fun m hm => Group.write_other _ _ _ _ _ _ m (by simpa using hm)⟩, rfl, rfl,
    Group.poisonOf_hostWrite .., fun l hl => Group.lane_hostWrite grp selector data hl, ?_⟩
  · rw [done]
  · rw [done]
  · rw [done]
    exact there

/-- R423: a mark set, or removed. -/
theorem ringWatchdog_marks (s : State) (mb cell counter period : Nat) (runs : Claims.runs s mb 0x0503) :
    ∃ t, exec (.ringWatchdog mb cell counter period) s = .next t ∧
      if period ≠ 0 ∧ NMap.find (State.cell s cell).watch counter = none ∧ 4 ≤ (State.cell s cell).watch.length then Claims.ends s t mb 1 []
      else Claims.ends { s with cells := t.cells } t mb 0 [] ∧ (∀ c, c ≠ cell → State.cell t c = State.cell s c) ∧
        State.cell t cell = { State.cell s cell with watch := (State.cell t cell).watch } ∧
        (∀ k, k ≠ counter → NMap.find (State.cell t cell).watch k = NMap.find (State.cell s cell).watch k) ∧
        NMap.find (State.cell t cell).watch counter = (if period = 0 then none else
          some { period := period, since := if Cell.waiters (State.cell s cell) counter = [] then none else some s.timebase, fired := false }) := by
  refine ⟨_, exec_ringWatchdog runs, ?_⟩
  by_cases off : period = 0
  · rw [if_pos off, if_neg (fun h => h.1 off)]
    have here : State.cell (State.complete (State.modCell s cell (fun x => { x with watch := NMap.erase x.watch counter })) mb 0 []) cell = _ :=
      (State.cell_complete ..).trans ((State.cell_modCell ..).trans (if_pos rfl))
    rw [here]
    refine ⟨ends_complete rfl mb 0 [], fun c hc => (State.cell_complete ..).trans ((State.cell_modCell ..).trans (if_neg (Ne.symm hc))), rfl, fun k hk => ?_, ?_⟩
    · rw [NMap.find_erase, if_neg (Ne.symm hk)]
    · rw [NMap.find_erase, if_pos rfl, if_pos off]
  · by_cases full : NMap.find (State.cell s cell).watch counter = none ∧ 4 ≤ (State.cell s cell).watch.length
    · rw [if_neg off, if_pos ⟨off, full⟩, if_pos ⟨Option.isNone_iff_eq_none.mpr full.1, full.2⟩]
      exact ends_complete rfl mb 1 []
    · rw [if_neg off, if_neg (fun h => full h.2), if_neg (fun h => full ⟨Option.isNone_iff_eq_none.mp h.1, h.2⟩)]
      have here : State.cell (State.complete (State.modCell s cell (fun x => Cell.mark x counter period s.timebase)) mb 0 []) cell = _ :=
        (State.cell_complete ..).trans ((State.cell_modCell ..).trans (if_pos rfl))
      obtain ⟨others, marked⟩ := Cell.mark_watch (State.cell s cell) counter period s.timebase
      rw [here, if_neg off]
      exact ⟨ends_complete rfl mb 0 [], fun c hc => (State.cell_complete ..).trans ((State.cell_modCell ..).trans (if_neg (Ne.symm hc))), rfl, others, marked⟩

/-- R399, Table 14.8: the group stands, its messages leave, and the command waits for the partners it has. -/
theorem collectiveSetup_announces (s : State) (mb : Nat) (k : Running) (header : BitVec 512) (members : List (BitVec 16)) (h : SetupHeader)
    (running : State.runs s mb 0x0500 = some k) (fresh : k.stage ≠ 1) (reads : mb = 16 ∨ s.host.busMaster = true) (is : setupHeader header.toNat = h)
    (sound : State.setupResult s h members = 0) (unheard : ∀ m ∈ s.fabric.early, m.group ≠ h.group)
    (whole : ∀ m ∈ members, NMap.find s.fabric.failed m.toNat = none) :
    ∃ t u g, exec (.collectiveSetup mb header members) s = .next t ∧
      u = { s with groups := t.groups, out := s.out ++ (partnersOf members.length h.pos).map (fun j => .fabric (members.getD j 0).toNat (.setup
        { group := h.group, tag := h.tag, members := members.length, senderPos := h.pos, receiverPos := j, sender := s.moduleNumber })) } ∧
      State.coll t h.group = some g ∧ (∀ i, i ≠ h.group → State.coll t i = State.coll s i) ∧
      g.tag = h.tag ∧ g.members = members.map BitVec.toNat ∧ g.pos = h.pos ∧ g.anchor = 48 * h.region + 6 * h.block + h.cell ∧ g.stage = h.stage ∧
      g.bufs = h.bufs ∧ g.touched = false ∧ g.confirmed = [] ∧ g.queue = [] ∧ g.run = none ∧
      (partnersOf members.length h.pos = [] → Claims.ends u t mb 0 []) ∧
      (partnersOf members.length h.pos ≠ [] → t = { u with host := { u.host with mailboxes := t.host.mailboxes } } ∧
        (∀ n, n ≠ mb → State.mailbox t n = State.mailbox s n) ∧
        State.mailbox t mb = { State.mailbox s mb with
          running := some { k with stage := 1, values := [h.group], since := s.timebase }, report := partnersOf members.length h.pos }) := by
  have found : NMap.find (NMap.insert s.groups h.group (SetupHeader.newGroup h members)) h.group = some (SetupHeader.newGroup h members) := by
    rw [NMap.find_insert, if_pos rfl]
  have kept : ∀ i, i ≠ h.group → NMap.find (NMap.insert s.groups h.group (SetupHeader.newGroup h members)) i = NMap.find s.groups i := fun i hi => by
    rw [NMap.find_insert, if_neg (Ne.symm hi)]
  have run := exec_collectiveSetup running fresh reads is sound unheard whole
  rw [checkSetup_announced] at run
  by_cases alone : partnersOf members.length h.pos = []
  · rw [if_pos alone] at run
    exact ⟨_, State.announce s h members, SetupHeader.newGroup h members, run, rfl, found, kept, rfl, rfl, rfl, rfl, rfl, rfl, rfl, rfl, rfl, rfl,
      fun _ => ends_complete_running (State.announce s h members) mb 0 [] _, fun some => absurd alone some⟩
  · rw [if_neg alone] at run
    refine ⟨_, State.announce s h members, SetupHeader.newGroup h members, run, rfl, found, kept, rfl, rfl, rfl, rfl, rfl, rfl, rfl, rfl, rfl, rfl,
      fun none => absurd none alone, fun _ => ⟨rfl, fun n hn => ?_, ?_⟩⟩
    · rw [State.mailbox_modMailbox, if_neg (Ne.symm hn), State.mailbox_modMailbox, if_neg (Ne.symm hn)]
      rfl
    · rw [State.mailbox_modMailbox, if_pos rfl, State.mailbox_modMailbox, if_pos rfl]
      rfl

/-- R400: the group is gone, and of its anchor cell only the staging area may have changed. -/
theorem collectiveRelease_frees (s : State) (mb group : Nat) (q : CollGroup) (runs : Claims.runs s mb 0x0501) (there : State.coll s group = some q) :
    ∃ t, exec (.collectiveRelease mb group) s = .next t ∧
      if q.run.isSome ∨ q.queue ≠ [] then Claims.ends s t mb 1 []
      else Claims.ends { s with cells := t.cells, groups := t.groups, freeCount := t.freeCount } t mb 0 [] ∧ State.coll t group = none ∧
        (∀ i, i ≠ group → State.coll t i = State.coll s i) ∧ (∀ c, c ≠ q.anchor → State.cell t c = State.cell s c) ∧
        (State.cell t q.anchor).groups = (State.cell s q.anchor).groups ∧ ∀ a, a < 2 ^ 19 → (a < q.stage ∨ q.stage + 8192 * q.bufs ≤ a) → q.stage + 8192 * q.bufs ≤ 2 ^ 19 →
          Cell.localByte (State.cell t q.anchor) a = Cell.localByte (State.cell s q.anchor) a := by
  refine ⟨_, exec_collectiveRelease runs there, ?_⟩
  by_cases busy : q.run.isSome = true ∨ q.queue ≠ []
  · rw [if_pos busy, if_pos busy]
    exact ends_complete rfl mb 1 []
  · rw [if_neg busy, if_neg busy]
    have gone : ∀ i, State.coll (State.complete (State.releaseColl s group q) mb 0 []) i = NMap.find (NMap.erase s.groups group) i := fun _ => rfl
    have here : State.cell (State.complete (State.releaseColl s group q) mb 0 []) q.anchor = CollGroup.vacate q s.freeCount (State.cell s q.anchor) :=
      (State.cell_modCell ..).trans (if_pos rfl)
    rw [here]
    refine ⟨ends_complete rfl mb 0 [], ?_, fun i hi => ?_, fun c hc => (State.cell_modCell ..).trans (if_neg (Ne.symm hc)), rfl,
      fun a ha outside fits => CollGroup.localByte_vacate q _ _ ha outside fits⟩
    · rw [gone, NMap.find_erase, if_pos rfl]
    · rw [gone, NMap.find_erase, if_neg (Ne.symm hi)]
      rfl

/-- Table 14.7, steps 1 and 2. -/
theorem checkpoint_drains (s : State) (mb timeout : Nat) (tag : BitVec 16) (k : Running) (running : State.runs s mb 0x0600 = some k) (fresh : k.stage ≠ 1)
    (free : (State.job s tag).checkpoint = none) :
    ∃ t, exec (.checkpoint mb tag timeout) s = .next t ∧ t = { s with jobs := t.jobs, host := { s.host with mailboxes := t.host.mailboxes } } ∧
      State.job t tag = { State.job s tag with checkpoint := some { mailbox := mb, phase := 2, started := s.timebase, timeout := timeout, drained := State.pendingColls s tag } } ∧
      (∀ u, u ≠ tag → State.job t u = State.job s u) ∧ (∀ m, m ≠ mb → State.mailbox t m = State.mailbox s m) ∧
      State.mailbox t mb = { State.mailbox s mb with
        running := some { k with stage := 1, values := [tag.toNat] }, report := [2, State.pendingColls s tag] } := by
  refine ⟨_, exec_checkpoint running fresh free, rfl, ?_, fun u hu => ?_, fun m hm => ?_, ?_⟩
  · exact (State.job_beginDrain ..).trans (if_pos rfl)
  · exact (State.job_beginDrain ..).trans (if_neg (Ne.symm hu))
  · exact (State.mailbox_modMailbox ..).trans (if_neg (Ne.symm hm))
  · exact (State.mailbox_modMailbox ..).trans (if_pos rfl)

/-- R418, R419: the epoch advances and placement resumes. -/
theorem checkpointBump_advances (s : State) (tag : BitVec 16) (k : Checkpoint) (there : (State.job s tag).checkpoint = some k)
    (drained : State.pendingColls s tag = 0) (whole : ∀ b, b < 64 → State.lostCells s b = []) :
    let e := (State.job s tag).epoch.getD 0 + 1
    ∃ t, exec (.checkpointBump tag) s = .next t ∧
      Claims.reports { s with jobs := t.jobs, cells := t.cells } t k.mailbox 0 [5, k.drained, e.toNat, 0, 0] ∧
      State.job t tag = { State.job s tag with epoch := some e, checkpoint := none } ∧ (∀ u, u ≠ tag → State.job t u = State.job s u) ∧
      (∀ c, State.cell t c = { State.cell s c with epochs := (State.cell t c).epochs }) ∧
      ∀ c u, NMap.get (State.cell t c).epochs 0 u =
        (if u = tag.toNat ∧ Cell.holdsJob (State.cell s c) tag = true ∧ (NMap.find s.cells c).isSome then e else NMap.get (State.cell s c).epochs 0 u) := by
  intro e
  refine ⟨_, exec_checkpointBump there drained whole, reports_completeReport rfl k.mailbox 0 _,
    (State.job_completeReport ..).trans ((State.job_bump ..).trans (if_pos rfl)),
    fun u hu => (State.job_completeReport ..).trans ((State.job_bump ..).trans (if_neg (Ne.symm hu))), State.cell_bump_frame s tag e, fun c u => ?_⟩
  show NMap.get (State.cell (State.bump s tag e) c).epochs 0 u = _
  rw [State.cell_bump]
  by_cases listed : (NMap.find s.cells c).isSome = true
  · rw [if_pos listed]
    unfold Cell.advanceEpoch
    by_cases holds : Cell.holdsJob (State.cell s c) tag = true
    · rw [if_pos holds]
      dsimp only
      rw [NMap.get_set]
      exact if_congr ⟨fun h => ⟨h.symm, holds, listed⟩, fun h => h.1.symm⟩ rfl rfl
    · rw [if_neg holds, if_neg (fun h => holds h.2.1)]
  · rw [if_neg listed, if_neg (fun h => listed h.2.2)]

end Sys2Proof.Machine

open Sys2Proof Sys2Proof.Machine

/-- Settles O49: every command runs where it is its turn, and what it does before it completes is one change to the rings, jobs, cells or groups. -/
theorem suthaJobCommands : Obligations.SuthaJobCommands := by
  refine ⟨?_, ?_, ?_, fun s mb tag k runs there earlier => exec_jobRelease_waits runs there earlier, ?_, parkStateWrite_writes, ?_, ?_,
    ringWatchdog_marks, ?_, collectiveRelease_frees, ?_, checkpointBump_advances, ?_⟩
  · intro s mb a runs reads inRange free tag size limit spill cells clash base
    obtain ⟨frame, rest⟩ := State.startRing_spec s a spill
    have run := exec_ringCreate runs reads (a := a)
    rw [if_pos (ringResult_zero inRange free tag size limit spill cells clash base)] at run
    exact ⟨_, run, ends_complete frame mb 0 [], rest⟩
  · intro s mb a runs reads inRange taken
    have result : State.ringResult s a = 1 := by
      unfold State.ringResult
      rw [if_neg (by omega), if_pos taken]
    have run := exec_ringCreate runs reads (a := a)
    rw [result, if_neg (by decide)] at run
    exact ⟨_, run, ends_complete rfl mb 1 []⟩
  · intro s mb ring runs
    exact ⟨_, exec_ringDestroy runs, ends_setRing s mb ring Ring.reset, fun r =>
      (State.ring_complete ..).trans ((State.ring_setRing ..).trans (if_congr eq_comm rfl rfl))⟩
  · intro s mb tag runs named keyed later held grouped
    have rising : NMap.rising s.cells = true := by
      unfold State.keyed at keyed
      simp only [Bool.and_eq_true] at keyed
      exact keyed.1.1.1.1.1.1
    refine ⟨_, exec_jobRelease runs (release_unhindered later), ?_⟩
    by_cases busy : held = true
    · rw [if_pos (Bool.or_eq_true_iff.mp busy), if_pos busy]
      exact ends_complete rfl mb 1 []
    · rw [if_neg (fun h => busy (Bool.or_eq_true_iff.mpr h)), if_neg busy]
      by_cases collective : grouped = true
      · rw [if_pos collective, if_pos collective]
        exact ends_complete rfl mb 2 []
      · rw [if_neg collective, if_neg collective]
        obtain ⟨frame, rest⟩ := State.releaseJob_spec s tag named rising
        exact ⟨ends_complete frame mb 0 [], rest⟩
  · intro r hr s mb g stamp runs
    simp only [List.mem_cons, List.not_mem_nil, or_false] at hr
    rcases hr with rfl | rfl
    · exact ⟨_, exec_parkReplay runs, orderPark_spec s mb g stamp .replay⟩
    · exact ⟨_, exec_parkDiscard runs, orderPark_spec s mb g stamp .discard⟩
  · intro s mb tag on runs
    refine ⟨_, exec_recipeSet runs, ?_⟩
    by_cases resident : ∃ e ∈ s.cells, ∃ g ∈ e.2.groups, g.2.job = tag
    · rw [if_pos (any_resident.mpr resident), if_pos resident]
      exact ends_complete rfl mb 1 []
    · rw [if_neg (fun h => resident (any_resident.mp h)), if_neg resident]
      exact ⟨ends_complete rfl mb 0 [], (State.job_complete ..).trans ((State.job_modJob ..).trans (if_pos rfl)),
        fun u hu => (State.job_complete ..).trans ((State.job_modJob ..).trans (if_neg (Ne.symm hu)))⟩
  · intro s mb k header members running is fresh turn reads h partners sound unheard whole
    exact collectiveSetup_announces s mb k header members h (State.runs_some running is turn) fresh reads rfl sound unheard whole
  · intro s mb timeout tag k running is fresh turn free
    exact checkpoint_drains s mb timeout tag k (State.runs_some running is turn) fresh free
  · intro s tag k there late
    exact ⟨_, exec_checkpointTimeout there late, reports_completeReport rfl k.mailbox 1 _,
      (State.job_completeReport ..).trans ((State.job_modJob ..).trans (if_pos rfl)),
      fun u hu => (State.job_completeReport ..).trans ((State.job_modJob ..).trans (if_neg (Ne.symm hu)))⟩

end
